-- ==== Sys2Proof/Word.lean ====
section
/-! DEFINITION. Word.lean: the word types of the part and the keyed table every unit of like things is held in. -/
namespace Sys2Proof

/-- A byte. -/
abbrev Byte := BitVec 8
/-- A 32-bit CSR value, or a CSR address (R728). -/
abbrev Word := BitVec 32
/-- A 64-bit scalar. -/
abbrev DWord := BitVec 64
/-- The 512 data bits of one 64-byte line; byte `b` of the line is bits `[8b+7 : 8b]` (R12). -/
abbrev Line := BitVec 512

/-- A sparse table: key and value pairs with strictly rising keys. A unit the table does not list holds its reset
record. -/
abbrev SMap (α : Type) := List (Nat × α)

end Sys2Proof
end

