-- ==== Sys2Proof/Types.lean ====
section
/-! DEFINITION. Types.lean: the names and records that both the commands (Syntax.lean) and the state use: variants, access
paths, cells, packets, coherence messages, carving commands and completions, KMP headers and bodies. -/
namespace Sys2Proof

/-- The variants of R4. -/
inductive Variant where
  | fx92 | fx94 | fx98
deriving DecidableEq, Repr

/-- The paths that reach the CSR space (R730); a KMP session is named by its slot. -/
inductive Path where
  | firmware
  | kmp (slot : Fin 32)
  | i3c
  | jtag
deriving DecidableEq, Repr

/-- Rights of R117. -/
inductive Rights where
  | r | rw | rwa
deriving DecidableEq, Repr

/-- Pool status codes (R131). -/
inductive PStatus where
  | ok | retry | unmapped | rights | withdrawn | poison | illegal | failed
deriving DecidableEq, Repr

/-- Coherence opcodes (R158). -/
inductive CohOp where
  | rdS | rdX | upg | wbM | evc | rdNc | wrFull
  | snpS | snpX | recall
  | data | fwdData | ack | snpRspI | snpRspWb | nack | cmp
deriving DecidableEq, Repr

/-- Snoop modes (R161). -/
inductive SnpMode where
  | fwd | nc | drop | wb
deriving DecidableEq, Repr

/-- The `STATE` field of R159; `r5` to `r7` are its reserved codes. -/
inductive Moesi where
  | i | s | e | o | m
deriving DecidableEq, Repr

/-- One coherence message with the fields of R159. -/
structure CohMsg where
  op : CohOp
  req : BitVec 11 := 0
  tag : BitVec 12 := 0
  htag : BitVec 13 := 0
  addr : BitVec 46 := 0
  mode : SnpMode := .fwd
  state : Moesi := .i
  atomic : Bool := false
  poison : Bool := false
  status : PStatus := .ok
  backoff : BitVec 4 := 0
  rsb : BitVec 8 := 0
  data : Option Line := none
deriving DecidableEq, Repr

/-- A packet (R259): the common part of its `HEAD` cell, the 160 payload bits and the data of its `BODY` cells. -/
structure Packet where
  ptype : BitVec 4
  dst : BitVec 12
  lvc : BitVec 3
  src : BitVec 12
  tseq : BitVec 24 := 0
  rtx : Bool := false
  syn : Bool := false
  path : Bool := false
  wnd : BitVec 16 := 0
  payload : BitVec 160 := 0
  data : List (BitVec 256) := []
deriving DecidableEq, Repr

/-- The body of a `HEAD` cell as it arrives, reserved fields gathered in `reserved` (R259). -/
structure HeadBody where
  ptype : BitVec 4
  len : BitVec 4
  dst : BitVec 12
  lvc : BitVec 3
  src : BitVec 12
  tseq : BitVec 24
  rtx : Bool
  syn : Bool
  path : Bool
  wnd : BitVec 16
  payload : BitVec 160
deriving DecidableEq, Repr

/-- The envelope of a received cell that has passed its CRC (R226, R228), with the `WIDTH` of the codeword that brought it (R222);
`reserved` is 1 when a reserved bit of byte 3 or of `LCTL` is set (R230). -/
structure Envelope where
  seq : BitVec 12
  vc : BitVec 4
  rpl : Bool
  ackreq : Bool
  reserved : Bool
  width : BitVec 2 := 0
deriving DecidableEq, Repr

/-- The body of a sequenced cell the part sends, with its virtual channel (R226, R227). -/
inductive CellBody where
  | head (vc : BitVec 4) (pkt : Packet)
  | body (vc : BitVec 4) (pkt : Packet) (index : Nat)
  | credit (vc : BitVec 4) (count : BitVec 11) (init : Bool)
deriving DecidableEq, Repr

/-- A cell that the part sends (R227). -/
inductive Cell where
  | null
  | seqd (seq : BitVec 12) (rpl ackreq : Bool) (body : CellBody)
  | ack (seq : BitVec 12)
  | nak (seq : BitVec 12)
  | keepalive (ackSeq : BitVec 12) (lanes : BitVec 8) (state : BitVec 8) (trainId : BitVec 32)
  | train (trainId : BitVec 32) (tx rx lanesMin : BitVec 8)
  | retrain (op mask : BitVec 8) (trainId : BitVec 32)
  | beacon (txTime echoTime : BitVec 64) (dwell : BitVec 32) (stratum : BitVec 4) (locked : Bool)
deriving DecidableEq, Repr

/-- A `PSTOP` packet (R513): the pair it is for, and the `JCAUSE` of its sender. -/
structure PairStop where
  pairId : BitVec 32
  cause : BitVec 8
deriving DecidableEq, Repr

/-- A carving command (R122), every field as it arrives; `reserved` is 1 when a reserved byte or flag bit is set. -/
structure CarveCmd where
  opcode : BitVec 8
  cls : BitVec 8 := 0
  extent : BitVec 16 := 0
  host : BitVec 16 := 0
  rights : BitVec 8 := 0
  fill : Bool := false
  hubGiven : Bool := false
  poolBase : BitVec 64 := 0
  hub : BitVec 8 := 0
  reserved : Bool := false
deriving DecidableEq, Repr

/-- A carving completion (R127). -/
structure CarveDone where
  opcode : BitVec 8
  result : BitVec 8
  extent : BitVec 16 := 0
  members : BitVec 16 := 0
  state : BitVec 8 := 0
  draining : BitVec 8 := 0
  poolTime : BitVec 64 := 0
  cls : BitVec 8 := 0
deriving DecidableEq, Repr

/-- An extent event (R141). -/
structure ExtEvent where
  type : BitVec 8
  status : BitVec 8 := 0
  extent : BitVec 16
  rights : BitVec 8
  poolBase : BitVec 64
  poolTime : BitVec 64
deriving DecidableEq, Repr

/-- An 802.1Q tag (R308). -/
structure VlanTag where
  pcp : BitVec 3
  vid : BitVec 12
deriving DecidableEq, Repr

/-- An Ethernet frame as it arrives, apart from what its payload says: its length from the destination address to the FCS, the outcome of
its FCS, its tags with the EtherType behind them, and what an IP header adds (R304, R306, R308). -/
structure EthFrame where
  bytes : Nat := 64
  fcsOk : Bool := true
  tags : List VlanTag := []
  etherType : BitVec 16 := 0x0800
  dscp : BitVec 6 := 0
  fragment : Bool := false
  options : Bool := false
deriving DecidableEq, Repr

/-- The header of a KMP message as it arrives, with the port, the frame and the addresses of its datagram (R326, R327). `body` is the body
as it arrives, enciphered in a protected message, whose tag is `tag`. -/
structure KmpHdr where
  port : Bool := false
  frame : EthFrame := {}
  srcIp : BitVec 128 := 0
  srcMac : BitVec 48 := 0
  version : BitVec 8 := 1
  type : BitVec 8
  kflags : BitVec 8 := 2
  kstatus : BitVec 8 := 0
  sessionId : BitVec 32
  msgSeq : BitVec 32
  bodyLen : BitVec 16 := 0
  rsb : BitVec 8 := 0
  rsvd : BitVec 8 := 0
  body : List Byte := []
  tag : List Byte := []
deriving DecidableEq, Repr

/-- What the DRAM and its decoder give for one read of a line (R565, R591, R593, R602): clean; corrected, with the symbol
and place of the error; uncorrectable twice (`inTarget`: in the target of a migration, R569); a command error reported
twice; or an uncorrectable first read whose repeat is clean. The last counts as clean. -/
inductive Medium where
  | clean
  | corrected (symbol : BitVec 7) (bank : BitVec 8) (row : BitVec 32) (column : BitVec 16)
  | uncorrectable (inTarget : Bool)
  | commandError (inTarget : Bool)
deriving DecidableEq, Repr

/-- A submission entry (R351); `reserved` is 1 when a reserved field or bit of it is not zero. -/
structure SubEntry where
  opcode : BitVec 8
  fence : Bool := false
  tag : BitVec 16 := 0
  length : BitVec 32 := 0
  poolAddr : BitVec 64 := 0
  hostAddr : BitVec 64 := 0
  rkey : BitVec 32 := 0
  atop : BitVec 8 := 0
  operand : BitVec 128 := 0
  compare : BitVec 128 := 0
  reserved : Bool := false
deriving DecidableEq, Repr

/-- The fields of `QP_CONNECT` (R334); `BOUNCE` regions as address, length and remote key. -/
structure QpParams where
  queue : BitVec 16
  port : BitVec 8
  tc : BitVec 8
  vlan : BitVec 16
  pmtu : BitVec 8
  ackTimeout : BitVec 8
  retry : BitVec 8
  peerMac : BitVec 48
  peerIp : BitVec 128
  peerQpn : BitVec 32
  peerPsn : BitVec 32
  cqVa : BitVec 64
  cqRkey : BitVec 32
  cqBytes : BitVec 32
  bounce : List (BitVec 64 × BitVec 64 × BitVec 32) := []
deriving DecidableEq, Repr

/-- The colour of an arrival (R368). -/
inductive Colour where
  | green | yellow | red
deriving DecidableEq, Repr

/-- What makes hubs switch over (R635): the active feed, or the rails or the set of one hub. -/
inductive SwitchCause where
  | feed (b : Bool)
  | unit (hub : Fin 8)
deriving DecidableEq, Repr

/-- Causes of the snowplough (R652, R667). -/
inductive SnowCause where
  | switchOver | overCurrent | thermal | memThermal | test
deriving DecidableEq, Repr

/-- A physical cluster H*n*.C*k*, whose sequencer issues. -/
structure CluAt where
  hub : Fin 8
  cluster : Fin 14
deriving DecidableEq, Repr

/-- `SEM` and `SIG` of a slot: the semaphore that the operation's completion signals, when it does. -/
structure VSig where
  sem : Fin 32
  sig : Bool
deriving DecidableEq, Repr

/-- The header of a RoCEv2 packet as it arrives: its port and frame, destination QP, PSN, source address and ECN mark. -/
structure RoceHdr where
  port : Bool
  qpn : BitVec 24
  psn : BitVec 24
  srcIp : BitVec 128
  frame : EthFrame := {}
  ce : Bool := false
deriving DecidableEq, Repr

/-- What an Acknowledge says (R313, R316); an RNR NAK names the code of its timer. -/
inductive RoceSyn where
  | ack | rnrNak (timer : BitVec 5) | nakInvalid | nakAccess | nakSequence
deriving DecidableEq, Repr

/-- Which packet of a message a SEND or a READ Response is (R313). -/
inductive RocePart where
  | first | middle | last | only
deriving DecidableEq, Repr

/-- A RoCEv2 request aimed at the part that it does not take as a responder: an RDMA WRITE, an RDMA READ, or an opcode that the part
does not support (R313). -/
inductive RoceReq where
  | write | read | other
deriving DecidableEq, Repr

/-- How an SPDM request reaches the part (R676): in a KMP message, as a reassembled message of a fabric host, or in the exchange with
the pairs peer `dev` on a port with `ROLE` 2, whose tenancy block the part has read (R694). -/
inductive SpdmCarrier where
  | kmp (hdr : KmpHdr)
  | zl (host : BitVec 10)
  | peer (dev : BitVec 8) (block : List Byte)
deriving DecidableEq, Repr

/-- What a PTP message says to the slave clock (R335): an Announce with its data set, in which the lower number is the better clock, and
the binary logarithm of its interval in seconds; a Sync, with its origin time when the master is one-step; a Follow_Up; or a Delay_Resp.
`corr` is the correction field in ns. -/
inductive PtpMsg where
  | announce (rank : BitVec 128) (logInterval : Fin 8)
  | sync (t1 : Option (BitVec 64)) (corr : Int)
  | followUp (t1 : BitVec 64) (corr : Int)
  | delayResp (t4 : BitVec 64) (corr : Int)
deriving DecidableEq, Repr

/-- How a PTP message travels (R335): over Layer 2, or over UDP on IPv4 or IPv6. -/
inductive PtpTransport where
  | layer2 | ipv4 | ipv6
deriving DecidableEq, Repr

/-- A PTP message with its transport, the identity of the port that sent it, its sequence number, and, in a Delay_Resp, whether it answers
the part. -/
structure PtpFrame where
  via : PtpTransport := .layer2
  source : BitVec 80
  seq : BitVec 16
  mine : Bool := true
  msg : PtpMsg
deriving DecidableEq, Repr

/-- A DHCPv4 message from a server: an offer, an acknowledgement with the address and the length of its lease in seconds, or a refusal
(R307). -/
inductive DhcpMsg where
  | offer | ack (addr : BitVec 32) (seconds : BitVec 32) | nak
deriving DecidableEq, Repr

/-- What the sweeps of one byte lane find: the settings of the read and of the write delay that pass, setting `i` in bit `i` (R560). -/
structure LaneSweep where
  read : BitVec 128 := BitVec.allOnes 128
  write : BitVec 128 := BitVec.allOnes 128
deriving DecidableEq, Repr

/-- The serial presence data of one DIMM (R552): a registered ECC module of two 32 + 8 bit subchannels at DDR5-6400 or faster; x4 devices
without 3DS stacks; its capacity, ranks, highest speed in the `DEEP_SPEED` encoding, partial-array self-refresh, and tRFC1 in ns at each
`DEEP_SPEED`. -/
structure DimmSpd where
  registered : Bool := true
  x4 : Bool := true
  gib : BitVec 9
  ranks : BitVec 3
  speed : BitVec 3
  pasr : Bool := false
  trfc1 : List (BitVec 16) := []
deriving DecidableEq, Repr

/-- The DIMMs fitted on a deep channel (R552, R792). -/
structure DimmInfo where
  hub : Fin 8
  channel : Fin 2
  dimms : List DimmSpd
deriving DecidableEq, Repr

/-- A bank group of one device, for which a device has an hPPR resource or none left (R609). The device is written as a retirement-log
entry writes it (R613). -/
structure HpprAt where
  hub : BitVec 8
  channel : BitVec 8
  rank : BitVec 8
  device : BitVec 8
  bankGroup : Nat
deriving DecidableEq, Repr

/-- What one training attempt of a bridge finds (R35): the failing lanes of the direction toward its higher-numbered hub and of the
other direction (a lane is 0–1023 data, 1024–1087 parity, 1088–1091 check; notes/assumptions/83.md), and whether the attempt succeeds on
the lanes left. -/
structure TrainAttempt where
  up : List (BitVec 11) := []
  down : List (BitVec 11) := []
  ok : Bool := true
deriving DecidableEq, Repr

/-- A group of 16 unit intervals as a hub receives it over a bridge (R33): the 16 bits of each lane, by lane number (0–1023 data,
1024–1087 parity, 1088–1091 check); a lane that is not listed carried zeros. -/
structure BridgeGroup where
  bridge : BitVec 4
  rxHub : Fin 8
  lanes : SMap (BitVec 16)
deriving DecidableEq, Repr

/-- The physical facts of one start-up (R792): the straps, the steps that fail and where, the banks found readable, and the DIMMs. -/
structure StartUpFacts where
  ethMedium : BitVec 2
  i3cPid : BitVec 3
  /-- A hub whose PLLs do not lock (step 1). -/
  pllFail : Option (Fin 8) := none
  /-- The recorded security processor bank verifies; else the other one does (step 2). -/
  spBank : Bool := true
  spOther : Bool := true
  /-- Hubs whose controller starts from the other bank, and a hub whose controller starts from neither (step 3). -/
  hcOther : BitVec 8 := 0
  hcFail : Option (Fin 8) := none
  /-- What the training attempts of a bridge find, first attempt first (step 4); a bridge that is not listed trains at once. -/
  bridges : SMap (List TrainAttempt) := []
  /-- What the training attempts of a memory channel find, by hub × 64 + channel, first attempt first (steps 5 and 6). -/
  training : SMap (List (List LaneSweep)) := []
  dimms : List DimmInfo := []
  /-- The same of the retraining of a deep channel at `DEEP_SPEED` (step 7). -/
  atSpeed : SMap (List (List LaneSweep)) := []
  /-- Bank groups whose device has no hPPR resource left (step 7). -/
  hpprSpent : List HpprAt := []
deriving DecidableEq, Repr

/-- What wakes a sleeping part (R660, R807). -/
inductive WakeCause where
  | pin | alarm
deriving DecidableEq, Repr

/-- A channel of a hub: 0–31 stack, 32 and 33 deep (R581). -/
abbrev ChanNo := Fin 34

/-- What a write meets besides its value: the outcome of the DRAM reads that it starts, and the bits that a raw read gets wrong. -/
structure WriteEnv where
  med : Medium := .clean
  flips : Line × BitVec 128 := (0, 0)
deriving DecidableEq, Repr

end Sys2Proof
end

