-- ==== Sys2Proof/Syntax.lean ====
section
/-! DEFINITION. Syntax.lean: the commands of the block, one constructor per row of spec/opcode_table.json, in the order of the table; each
takes the operands that its meaning names. -/
namespace Sys2Proof

/-- The commands. -/
inductive Instr where
  | powerOn (feedA feedB : Bool)
  | packageReset
  | packageResetCmd (path : Path)
  | startUp (f : StartUpFacts)
  | startUpEnd
  | refclkLoss (hub : Fin 8)
  | sdsRefclkLoss (hub : Fin 8)
  | clk32kLoss
  | hubPartialReset (path : Path) (hub : Fin 8) (med : Medium)
  | hubWatchdog (hub : Fin 8) (med : Medium)
  | partialResetRestart (hub : Fin 8) (training : SMap (List (List LaneSweep)))
  | partialResetReturn (hub : Fin 8) (med : Medium)
  | partialResetOverrun (hub : Fin 8)
  | bridgeParityError (groups : List BridgeGroup)
  | fatalPortStop
  | open_ (path : Path)
  | validate (path : Path)
  | commit (path : Path) (med : Medium)
  | commitPoint (training : SMap (List (List LaneSweep))) (med : Medium)
  | quiesceLimitExpired (med : Medium)
  | commitOnReset (path : Path)
  | abandon (path : Path)
  | revert (path : Path) (med : Medium)
  | healthCheckFail (check : BitVec 3) (med : Medium)
  | healthWindowClose (med : Medium)
  | siLockSet (path : Path)
  | transfer (hdr : KmpHdr) (target op : BitVec 8) (tlen : BitVec 16) (offset : BitVec 32) (data : List Byte) (reserved : Bool)
  | carve (hdr : KmpHdr) (cmd : CarveCmd)
  | grant (hdr : KmpHdr) (cmd : CarveCmd)
  | rights (hdr : KmpHdr) (cmd : CarveCmd)
  | narrowingSnoop (host extent : BitVec 16) (med : Medium)
  | narrowingComplete (host extent : BitVec 16)
  | withdraw (hdr : KmpHdr) (cmd : CarveCmd)
  | withdrawalRecall (host extent : BitVec 16) (med : Medium)
  | withdrawalComplete (host extent : BitVec 16)
  | free (hdr : KmpHdr) (cmd : CarveCmd)
  | query (hdr : KmpHdr) (cmd : CarveCmd)
  | rds (host : BitVec 10) (tag : BitVec 12) (addr : BitVec 46) (med : Medium)
  | rdx (host : BitVec 10) (tag : BitVec 12) (addr : BitVec 46) (atomic : Bool) (med : Medium)
  | upg (host : BitVec 10) (tag : BitVec 12) (addr : BitVec 46) (atomic : Bool) (med : Medium)
  | wbm (host : BitVec 10) (tag : BitVec 12) (addr : BitVec 46) (poison : Bool) (data : Line) (med : Medium)
  | evc (host : BitVec 10) (tag : BitVec 12) (addr : BitVec 46) (med : Medium)
  | rdnc (host : BitVec 10) (tag : BitVec 12) (addr : BitVec 46) (med : Medium)
  | wrfull (host : BitVec 10) (tag : BitVec 12) (addr : BitVec 46) (data : Line) (med : Medium)
  | transactionOpen (line : BitVec 40) (med : Medium)
  | ackAnswer (host : BitVec 10) (htag : BitVec 13) (state : Moesi) (med : Medium)
  | snprspi (host : BitVec 10) (htag : BitVec 13) (med : Medium)
  | snprspwb (host : BitVec 10) (htag : BitVec 13) (state : Moesi) (poison : Bool) (data : Line) (med : Medium)
  | fwddata (host : BitVec 10) (htag : BitVec 13) (poison : Bool) (data : Line) (med : Medium)
  | retryRecordExpiry (hub : Fin 8) (set : BitVec 19)
  | orphanTimeout (line : BitVec 40) (med : Medium)
  | deadHostTimeout (host : BitVec 10) (med : Medium)
  | cohDeadQuery (host : BitVec 10)
  | declareDead (host : BitVec 10) (med : Medium)
  | reclaimDone (host : BitVec 10)
  | readmit (host : BitVec 10)
  | cohReclaimDoneClear (hub : Fin 8)
  | tenancyRecallTimeout (host : BitVec 10) (med : Medium)
  | tenancyEndComplete (med : Medium)
  | head (port : Fin 32) (env : Envelope) (body : HeadBody)
  | body (port : Fin 32) (env : Envelope) (data : BitVec 256)
  | credit (port : Fin 32) (env : Envelope) (count : BitVec 11) (init : Bool)
  | null (port : Fin 32) (env : Envelope)
  | uncorrectableCodeword (port : Fin 32)
  | ack (port : Fin 32) (env : Envelope) (ackSeq : BitVec 12)
  | nak (port : Fin 32) (env : Envelope) (seq : BitVec 12)
  | nakResend (port : Fin 32)
  | ackTimer (port : Fin 32)
  | keepaliveSend (port : Fin 32)
  | keepalive (port : Fin 32) (env : Envelope) (ackSeq : BitVec 12) (lanes state : BitVec 8) (trainId : BitVec 32)
  | linkDown (port : Fin 32)
  | trainingAttempt (port : Fin 32)
  | trainingTimeout (port : Fin 32)
  | adaptationDone (port : Fin 32) (tx rx : BitVec 8)
  | alignDone (port : Fin 32)
  | train (port : Fin 32) (env : Envelope) (peerId : BitVec 32) (peerTx peerRx peerMin : BitVec 8)
  | retrain (port : Fin 32) (env : Envelope) (op mask : BitVec 8) (peerId : BitVec 32)
  | retrainRequestRepeat (port : Fin 32)
  | widthSwitch (port : Fin 32)
  | laneErrorInterval (port : Fin 32) (corrected : List Nat)
  | silenceTraining (port : Fin 32) (peer : Bool)
  | zlRetrainCmd (port : Fin 32)
  | zlNarrowCmd (port : Fin 32) (mask : BitVec 8)
  | creditReturnTimer (port : Fin 32)
  | creditFallback (port : Fin 32)
  | transportAck (src : BitVec 12) (alvc : BitVec 8) (cum : BitVec 24) (sack : BitVec 64)
  | transportAckTimer (src : BitVec 12) (lvc : Fin 6)
  | rtoExpiry (dst : BitVec 12) (lvc : Fin 6) (tseq : BitVec 24)
  | pathProbeSend (host : BitVec 10) (secondary : Bool)
  | pathProbe (port : Fin 32) (host : BitVec 10) (pkind : BitVec 8) (number : BitVec 32)
  | pathHoldExpiry (port : Fin 32)
  | primaryReturn (host : BitVec 10)
  | zlfHold (hold : Bool) (reason : BitVec 2) (pathHoldUs : BitVec 10)
  | idLockSet
  | beaconSend (port : Fin 32)
  | beacon (port : Fin 32) (env : Envelope) (txTime echoTime : BitVec 64) (dwell : BitVec 32) (stratum : BitVec 4)
  | bulkReadRequest (host : BitVec 10) (tag : BitVec 12) (addr : BitVec 52) (bytes : BitVec 16) (media : List Medium)
  | bulkWriteData (host : BitVec 10) (tag : BitVec 12) (addr : BitVec 52) (bytes boff : BitVec 16) (data : List Byte) (media :
      List Medium)
  | arpRequest (port : Bool) (frame : EthFrame) (srcMac : BitVec 48) (target : BitVec 32)
  | neighbourSolicitation (port : Bool) (frame : EthFrame) (srcMac : BitVec 48) (target : BitVec 128)
  | echoRequest (port : Bool) (frame : EthFrame) (srcMac : BitVec 48) (target : BitVec 128) (payload : List Byte)
  | dhcpMessage (port : Bool) (frame : EthFrame) (srcMac : BitVec 48) (msg : DhcpMsg)
  | pfcFrame (port : Bool) (frame : EthFrame) (enable : BitVec 8) (quanta : List (BitVec 16))
  | pfcRepeat (port : Bool) (cls : Fin 8) (occupancy : Nat)
  | pfcWatchdog (port : Bool) (cls : Fin 8)
  | cnp (hdr : RoceHdr)
  | rateIncrease (queue : BitVec 14)
  | send (hdr : RoceHdr) (part : RocePart) (data : List Byte)
  | rdmaReadResponse (hdr : RoceHdr) (data : List Byte) (media : List Medium)
  | rdmaAcknowledge (hdr : RoceHdr) (syn : RoceSyn)
  | rdmaRequestToPart (hdr : RoceHdr) (req : RoceReq)
  | ackTimeout (queue : BitVec 14)
  | ethLinkDown (port : Bool)
  | ethIpv4Write (path : Path) (port : Bool) (value : Word)
  | discover (hdr : KmpHdr)
  | regRead (hdr : KmpHdr) (addr : Word) (count : Byte)
  | regWrite (hdr : KmpHdr) (pairs : List (Word × Word)) (env : WriteEnv)
  | registerWrite (path : Path) (addr value : Word) (env : WriteEnv)
  | qpConnect (hdr : KmpHdr) (p : QpParams) (reserved : Bool)
  | eventAck (hdr : KmpHdr)
  | eventRetransmit (slot : Fin 32) (seq : BitVec 32)
  | kmpKeepalive (hdr : KmpHdr)
  | end_ (hdr : KmpHdr)
  | sessionTimeout (slot : Fin 32)
  | ptpMessage (port : Bool) (frame : EthFrame) (domain : BitVec 8) (msg : PtpFrame)
  | queueSubmit (host : BitVec 10) (queue : BitVec 14) (entry : SubEntry)
  | cqRelease (host : BitVec 10) (queue : BitVec 14) (entry : SubEntry)
  | read (queue : BitVec 14) (media : List Medium)
  | write (queue : BitVec 14)
  | atomic (queue : BitVec 14) (med : Medium)
  | nop (queue : BitVec 14)
  | completionWrite (queue : BitVec 14)
  | yellowPromotion (queue : BitVec 14)
  | loadMeasure (hub : Fin 8)
  | mdesc (c : CluAt) (stream : Fin 8) (a : Fin 16) (sx : Fin 64) (g : VSig) (media : List Medium)
  | descriptorComplete (c : CluAt) (stream : Fin 8) (media : List Medium)
  | streamRetry (c : CluAt) (stream : Fin 8) (media : List Medium)
  | wload (c : CluAt) (tw : Fin 32) (buf : Bool) (sparse : Fin 3) (g : VSig)
  | wloadComplete (c : CluAt)
  | mma (c : CluAt) (ta out ti : Fin 32) (useInit buf zskip : Bool) (g : VSig)
  | mmaComplete (c : CluAt)
  | fadd (c : CluAt) (vd va vb : Fin 32) (g : VSig)
  | fsub (c : CluAt) (vd va vb : Fin 32) (g : VSig)
  | fmul (c : CluAt) (vd va vb : Fin 32) (g : VSig)
  | fmin (c : CluAt) (vd va vb : Fin 32) (g : VSig)
  | fmax (c : CluAt) (vd va vb : Fin 32) (g : VSig)
  | fclt (c : CluAt) (vd va vb : Fin 32) (g : VSig)
  | fceq (c : CluAt) (vd va vb : Fin 32) (g : VSig)
  | iadd (c : CluAt) (vd va vb : Fin 32) (g : VSig)
  | isub (c : CluAt) (vd va vb : Fin 32) (g : VSig)
  | imul (c : CluAt) (vd va vb : Fin 32) (g : VSig)
  | vectorAnd (c : CluAt) (vd va vb : Fin 32) (g : VSig)
  | vectorOr (c : CluAt) (vd va vb : Fin 32) (g : VSig)
  | vectorXor (c : CluAt) (vd va vb : Fin 32) (g : VSig)
  | sel (c : CluAt) (vd va vb vc : Fin 32) (g : VSig)
  | bcast (c : CluAt) (vd : Fin 32) (sx : Fin 64) (g : VSig)
  | exp (c : CluAt) (vd va : Fin 32) (g : VSig)
  | log (c : CluAt) (vd va : Fin 32) (g : VSig)
  | recip (c : CluAt) (vd va : Fin 32) (g : VSig)
  | rsqrt (c : CluAt) (vd va : Fin 32) (g : VSig)
  | gelu (c : CluAt) (vd va : Fin 32) (g : VSig)
  | silu (c : CluAt) (vd va : Fin 32) (g : VSig)
  | vmov (c : CluAt) (vd va : Fin 32) (g : VSig)
  | viota (c : CluAt) (vd : Fin 32) (sx : Fin 64) (g : VSig)
  | rsum (c : CluAt) (vd va : Fin 32) (g : VSig)
  | rsuma (c : CluAt) (vd va vb : Fin 32) (g : VSig)
  | rmax (c : CluAt) (vd va : Fin 32) (g : VSig)
  | rmaxa (c : CluAt) (vd va vb : Fin 32) (g : VSig)
  | rmin (c : CluAt) (vd va : Fin 32) (g : VSig)
  | rmina (c : CluAt) (vd va vb : Fin 32) (g : VSig)
  | topki (c : CluAt) (vd va vb vc : Fin 32) (sx : Fin 64) (g : VSig)
  | topk (c : CluAt) (vd va vb vc : Fin 32) (sx : Fin 64) (g : VSig)
  | cvtif (c : CluAt) (vd va : Fin 32) (g : VSig)
  | cvtfi (c : CluAt) (vd va : Fin 32) (g : VSig)
  | vld (c : CluAt) (vd : Fin 32) (sx : Fin 64) (t : Fin 32) (g : VSig)
  | vst (c : CluAt) (vd : Fin 32) (sx : Fin 64) (t : Fin 32) (sr : Bool) (sy : Fin 64) (g : VSig)
  | vectorResultWritten (c : CluAt)
  | add (c : CluAt) (d a b : Fin 64) (imm : Word)
  | sub (c : CluAt) (d a b : Fin 64)
  | mul (c : CluAt) (d a b : Fin 64)
  | and (c : CluAt) (d a b : Fin 64)
  | or (c : CluAt) (d a b : Fin 64)
  | xor (c : CluAt) (d a b : Fin 64)
  | shl (c : CluAt) (d a b : Fin 64) (imm : Word)
  | shr (c : CluAt) (d a b : Fin 64) (imm : Word)
  | sar (c : CluAt) (d a b : Fin 64) (imm : Word)
  | slt (c : CluAt) (d a b : Fin 64)
  | sltu (c : CluAt) (d a b : Fin 64)
  | li (c : CluAt) (d : Fin 64) (imm : Word)
  | lih (c : CluAt) (d : Fin 64) (imm : Word)
  | amov (c : CluAt) (d : Fin 16) (a : Fin 64) (imm : Word)
  | aadd (c : CluAt) (d a : Fin 16) (b : Fin 64) (imm : Word)
  | aget (c : CluAt) (d : Fin 64) (a : Fin 16)
  | br (c : CluAt) (target : BitVec 14)
  | beq (c : CluAt) (a b : Fin 64) (target : BitVec 14)
  | bne (c : CluAt) (a b : Fin 64) (target : BitVec 14)
  | blt (c : CluAt) (a b : Fin 64) (target : BitVec 14)
  | bltu (c : CluAt) (a b : Fin 64) (target : BitVec 14)
  | loop (c : CluAt) (d : Fin 64) (target : BitVec 14)
  | wait (c : CluAt) (sem : Fin 32) (n : BitVec 16)
  | signal (c : CluAt) (sem : Fin 32) (n : BitVec 16)
  | fence (c : CluAt)
  | gwait (c : CluAt) (d : Fin 64) (expert : BitVec 12)
  | yield (c : CluAt) (n : Word)
  | halt (c : CluAt)
  | sysr (c : CluAt) (d : Fin 64) (n : Fin 8)
  | trap (c : CluAt) (code : BitVec 16)
  | sld (c : CluAt) (d a : Fin 64) (imm : Word)
  | sst (c : CluAt) (a b : Fin 64) (imm : Word)
  | tld (c : CluAt) (d : Fin 32) (a : Fin 64) (imm : Word)
  | tst (c : CluAt) (a : Fin 64) (b : Fin 32) (imm : Word)
  | tadd (c : CluAt) (d a : Fin 32) (b : Fin 64) (imm : Word)
  | barrierOpen (job : BitVec 12) (media : List Medium)
  | superstepAdmission (hub : Fin 8)
  | token (hub : Fin 8) (src : BitVec 10) (job expert : BitVec 12) (token weight : Word) (step : BitVec 20) (part : BitVec 16)
      (data : List Byte)
  | close (hub : Fin 8) (src : BitVec 10) (job : BitVec 12) (count : Word) (step : BitVec 20)
  | combine (job : BitVec 12) (media : List Medium)
  | gather (hub : Fin 8) (host : BitVec 10) (gtag : BitVec 12) (gop : BitVec 2) (efmt rowUnits : BitVec 8) (count : BitVec 16)
      (table : BitVec 52) (part : Fin 16) (data : List Byte) (media : List Medium)
  | select (hub : Fin 8) (host : BitVec 10) (gtag : BitVec 12) (k sfmt : BitVec 8) (d : BitVec 16) (sumAddr : BitVec 52) (part
      : BitVec 8) (data : List Byte) (media : List Medium)
  | gatherDone (hub : Fin 8) (host : BitVec 10) (gtag : BitVec 12) (media : List Medium)
  | jload (queue : BitVec 14) (media : List Medium)
  | jloadDone (queue : BitVec 14) (id : Nat) (media : List Medium)
  | jlaunch (queue : BitVec 14) (media : List Medium)
  | launch (job : BitVec 12) (media : List Medium)
  | jwait (queue : BitVec 14)
  | jstatus (queue : BitVec 14)
  | jcheckpoint (queue : BitVec 14) (media : List Medium)
  | jcontinue (queue : BitVec 14)
  | jabort (queue : BitVec 14)
  | junload (queue : BitVec 14) (media : List Medium)
  | superstepWatchdog (job : BitVec 12)
  | timeSliceSave (c : CluAt)
  | timeSliceRestore (c : CluAt) (job : BitVec 12) (lc : BitVec 10)
  | phello (src : BitVec 8) (pairId : BitVec 32) (time : BitVec 64) (body : List Byte)
  | phelloTimeout (job : BitVec 12)
  | pdigest (pairId : BitVec 32) (step : BitVec 20) (firstLc : BitVec 16) (digests : List DWord) (media : List Medium)
  | pstop (stop : PairStop)
  | pairsPeerLost
  | walk (hub : Fin 8) (cluster : Fin 14) (stream : Fin 8) (media : List Medium)
  | recordResolve (job : BitVec 12) (base : BitVec 27) (count : BitVec 17)
  | holdLimit (hub : Fin 8) (index : Fin 64)
  | shootdown (job : BitVec 12) (scope : Bool) (base : BitVec 27) (count : BitVec 17)
  | shootdownComplete
  | refresh (hub : Fin 8) (channel : ChanNo)
  | mr4Poll (hub : Fin 8) (channel : Fin 2) (temp : BitVec 8) (hot : Bool)
  | stackSensorPoll (hub : Fin 8) (channel : Fin 32) (temp : BitVec 8)
  | liveRetrain
  | retrainComplete (sweep : List LaneSweep)
  | memRetrainCmd (hub : Fin 8) (channel : ChanNo)
  | srEnter (hub : Fin 8) (channel : ChanNo)
  | srExit (hub : Fin 8) (channel : ChanNo)
  | srIdle (hub : Fin 8) (channel : Fin 2)
  | migrationComplete (hub : Fin 8) (lost : List (BitVec 38))
  | liftStart (slot : Fin 32) (extent : BitVec 16) (cls : BitVec 4) (hubGiven : Bool) (hub : Fin 8)
  | liftCancel (slot : Fin 32) (extent : BitVec 16)
  | liftBegin
  | liftCopyDone (lost : List (BitVec 22)) (med : Medium)
  | liftSwitchPoint (med : Medium)
  | patrolRead (line : BitVec 38) (m : Medium) (percent : Fin 101)
  | rowRepair (lost : List (BitVec 38))
  | logAck
  | pageRetire (slot : Fin 32) (page : BitVec 32)
  | pageRelease (slot : Fin 32) (page : BitVec 32)
  | rawWrite (path : Path) (line : BitVec 22)
  | rawRead (path : Path) (line : BitVec 22) (flips : Line × BitVec 128)
  | switchOver (cause : SwitchCause)
  | aSetReturn (hub : Fin 8)
  | holdB
  | releaseHold
  | overCurrent (feedB : Bool) (amps : BitVec 9)
  | sensorRead (hub : Fin 8) (temps : List (BitVec 8))
  | thermalCapAdjust (hub : Fin 8)
  | firstUseEnd (hub : Fin 8)
  | ledgerWindow (hub : Fin 8) (estimate : Nat)
  | snowploughEscalate (hub : Fin 8) (amps : BitVec 9)
  | snowploughRelease (hub : Fin 8) (cause : SnowCause) (amps : BitVec 9)
  | snowploughClimb (hub : Fin 8)
  | snowploughTest
  | deepSleep
  | wake (cause : WakeCause)
  | wakeCommand (path : Path)
  | sleepTick
  | sleepFeedLoss (feedB : Bool)
  | enrol (path : Path) (slot : Fin 4) (usage : BitVec 4)
  | revoke (path : Path) (slot : Fin 4)
  | openEpoch (path : Path) (carve : Bool)
  | endEpoch (path : Path) (med : Medium)
  | resurface (path : Path) (med : Medium)
  | resurfacingComplete (poisoned : List (BitVec 38))
  | getVersion (c : SpdmCarrier)
  | getCapabilities (c : SpdmCarrier)
  | negotiateAlgorithms (c : SpdmCarrier) (common : Bool)
  | getDigests (c : SpdmCarrier)
  | getCertificate (c : SpdmCarrier) (slot : Fin 16) (offset length : BitVec 16)
  | challenge (c : SpdmCarrier) (slot : Fin 16) (nonce : BitVec 256)
  | getMeasurements (c : SpdmCarrier) (index : BitVec 8) (sign : Bool) (nonce : BitVec 256)
  | keyExchange (c : SpdmCarrier) (reqSid : BitVec 16) (both : Bool)
  | finish (c : SpdmCarrier) (macOk sigOk : Bool)
  | heartbeat (c : SpdmCarrier)
  | keyUpdate (c : SpdmCarrier)
  | endSession (c : SpdmCarrier)
  | chunkSend (c : SpdmCarrier) (handle : BitVec 8) (seq : BitVec 16) (data : List Byte) (last : Bool) (root : BitVec 4096)
      (certs : BitVec 4) (valid : Bool)
  | chunkGet (c : SpdmCarrier) (handle : BitVec 8) (seq : BitVec 16)
  | getEncapsulatedRequest (c : SpdmCarrier)
  | deliverEncapsulatedResponse (c : SpdmCarrier) (root : BitVec 4096) (certs : BitVec 4) (valid : Bool)
  | unsupportedSpdmRequest (c : SpdmCarrier)
  | spdmFragment (host : BitVec 10) (index : BitVec 8) (last : Bool) (mseq : BitVec 24) (data : List Byte)
  | seal_ (host : BitVec 10) (alvc : BitVec 3) (tseq : BitVec 24) (lap : BitVec 40) (tags : List (BitVec 128))
  | sealSend (host : BitVec 10) (lvc : BitVec 3)
  | fwOpen (path : Path)
  | verify (path : Path)
  | start (path : Path)
  | hubControllerRestart
  | hubControllerRunning
  | yieldWaitExpired
  | spRestart
  | spRunning
  | fwRestartTimeout
  | confirmationComplete
  | abort (path : Path)
  | rollback (path : Path)
  | mbxRead (path : Path) (hub : Fin 8) (block id index : Byte)
  | mbxWrite (path : Path) (hub : Fin 8) (block id index : Byte)
  | mbxComplete (path : Path) (hub : Fin 8) (block : Byte)
  | entdaa (addr : BitVec 7)
  | i3cCsrRead (bytes : List Byte)
  | i3cCsrWrite (bytes : List Byte) (env : WriteEnv)
  | idcode
  | samplePreload (pins levels : List Bool)
  | extest (pins levels : List Bool)
  | csrAddr (addr : Word)
  | csrWrite (value : Word) (env : WriteEnv)
  | csrRead (completed : Bool)
  | bypass (code : Byte)
  | jtagReset
  | syncFrame (bits : BitVec 80)
  | syncInMissing
  | syncOutFrame
  | fire (path : Path)
  | rearm (path : Path)
  | postWindowEnd
  | traceSend
  | kmpTargetSet (slot : Fin 32)
  | exportTailAdvance (path : Path) (tail : BitVec 25)
  | counterReset (path : Path) (hub : Fin 8) (block : BitVec 8) (all : Bool)
  | reclaimWalk (hub : Fin 8) (line : BitVec 40) (med : Medium)
  | fillComplete (page : Bool)
  | checkpointComplete (job : BitVec 12) (media : List Medium)
  | verifyComplete (equal : Bool)
  | ethLinkUp (port : Bool)
  | clk32kReturn
  | sdsRefclkReturn (hub : Fin 8)
  | standbyFeedFault (feedB within : Bool)
  | pfcPauseExpiry (port : Bool) (cls : Fin 8)
  | wakeComplete
  | cellCrcFailure (port : Fin 32)
  | reservedKindCell (port : Fin 32)
  | discardedFrame (port : Bool) (frame : EthFrame)
deriving DecidableEq, Repr

end Sys2Proof
end

