-- ==== Sys2Proof/Config.lean ====
section
/-! DEFINITION. Config.lean: what an implementation fixes and the free values the spec leaves open. Every constant here is
opaque: no proof can see its value, so a claim holds whatever it is. -/
namespace Sys2Proof.Config

/-- What a free value stands for; it is applied with a counter of State, so that every draw is a fresh value. -/
inductive Draw where
  | trainId        -- ZL training IDs (R242)
  | backoff        -- BACKOFF values the part chooses (R159)
  | hazard         -- an undefined result of a run image (R7, R440)
  | key            -- memory, link, session and storage keys (R671)
  | nonce          -- SPDM nonces and random data (R688)
  | choice         -- a choice among alternatives the spec leaves to the part
deriving DecidableEq, Repr

/-- The free value of the `n`th draw of a kind: unconstrained (notes/assumptions/5.md). -/
opaque free : Draw → Nat → Nat

/-- The bytes of a line nothing has written since its memory lost its contents (R600): free for every line and every
value of the draw counter (notes/assumptions/5.md). -/
opaque unwritten : Nat → Nat → BitVec 512

/-- SHA-512 of a byte string (FIPS 180-4), big-endian, as a number: an opaque function (notes/assumptions/6.md). -/
opaque sha512 : List (BitVec 8) → BitVec 512

/-- SHA-384 of a byte string (FIPS 180-4): an opaque function (notes/assumptions/6.md). -/
opaque sha384 : List (BitVec 8) → BitVec 384

/-- RSA-4096 signature verification as R64 names it: modulus, message digest, signature (notes/assumptions/6.md). -/
opaque rsaVerify : BitVec 4096 → BitVec 512 → BitVec 4096 → Bool

/-- The bytes that a line stored under one memory key reads as under another (R686): opaque. -/
opaque decryptWrong : Nat → Nat → Nat → BitVec 512 → BitVec 512

/-- The key stream of AES-256-GCM (SP 800-38D): byte `i` for a key name and a nonce (notes/assumptions/6.md). -/
opaque gcmStream : Nat → List (BitVec 8) → Nat → BitVec 8

/-- The tag of AES-256-GCM (SP 800-38D): key name, nonce, additional data, ciphertext (notes/assumptions/6.md). -/
opaque gcmTag : Nat → List (BitVec 8) → List (BitVec 8) → List (BitVec 8) → BitVec 128

/-- HKDF-Expand of RFC 5869 with SHA-512: a secret and an info string; the name of the 32-byte key (R677, notes/assumptions/6.md). -/
opaque hkdf : Nat → List (BitVec 8) → Nat

/-- The modulus of the part's identity key (R671), made on chip at manufacture (notes/assumptions/6.md). -/
opaque identityModulus : BitVec 4096

/-- A signature under the identity key over a message, as SPDM forms it (R695): opaque (notes/assumptions/6.md). -/
opaque identitySign : List (BitVec 8) → BitVec 4096

/-- The certificate chain of slot 0 (R672), as SPDM lays out a chain: root, device CA, identity certificate (notes/assumptions/6.md). -/
opaque certChain : List (BitVec 8)

/-- The modulus of the Kywyn root's key (R672, R694) (notes/assumptions/6.md). -/
opaque kywynRoot : BitVec 4096

/-- The modulus of the Kywyn firmware key (R709) (notes/assumptions/6.md). -/
opaque firmwareModulus : BitVec 4096

/-- Unwraps a content key under the part's update key (R706): the name of the key, or none (notes/assumptions/6.md). -/
opaque unwrapKey : BitVec 4096 → Option Nat

/-- The bytes of the `n`th SPDM message that the part sends whole or in pieces (DSP0274): opaque (notes/assumptions/6.md). -/
opaque spdmMessage : Nat → List (BitVec 8)

/-- The storage lines of a row, or of a column, of a bank: hub, channel, stack-ID or rank, bank, row, and the column for a column. Bank, row
and column placement is the controller's own (R555; notes/assumptions/75.md). -/
opaque rowLines : Nat → Nat → Nat → BitVec 8 → BitVec 32 → Option (BitVec 16) → List Nat

/-- The body of a record notice (R328), whose layout the spec does not give (notes/assumptions/71.md). -/
opaque noticeBody : List (BitVec 8)

/-- The class of the part's PTP messages (R308), which the spec does not state (notes/assumptions/70.md). -/
opaque ptpClass : BitVec 3

/-- `BODY_DIGEST` of the base image, which lives in firmware (R82, R695) (notes/assumptions/6.md). -/
opaque baseDigest : BitVec 512

/-- The bytes of the firmware images in the banks at manufacture: the hub controllers' and the security processor's (notes/assumptions/3.md). -/
opaque factoryFirmware : Bool → List (BitVec 8)

/-- Kywyn's MIPI manufacturer ID (R787), which the spec does not state (notes/assumptions/9.md). -/
opaque mipiId : BitVec 15

/-- Kywyn's JEDEC code (R788), which the spec does not state (notes/assumptions/9.md). -/
opaque jedecId : BitVec 11

/-- The frequency in Hz, within 3% of 32,768, of the internal oscillator that runs the always-on domain while CLK32K
is lost (R783): fixed by the part, not by the spec (notes/assumptions/7.md). -/
opaque internalOscillatorHz : Nat

end Sys2Proof.Config
end

