-- ==== Sys2Proof/Machine/Map.lean ====
section
/-! DEFINITION. Map.lean: the operations of the sparse tables (`SMap`) and the plain bit and byte helpers every unit uses. -/
namespace Sys2Proof

/-- The value listed under key `k`. -/
def SMap.get? {α : Type} : SMap α → Nat → Option α
  | [], _ => none
  | (j, v) :: r, k => if j = k then some v else SMap.get? r k

/-- The value under key `k`, or the reset value `d` where the table lists none. -/
def SMap.getD {α : Type} (m : SMap α) (k : Nat) (d : α) : α := (SMap.get? m k).getD d

/-- Writes `v` under `k`; a table with rising keys keeps rising keys. -/
def SMap.set {α : Type} : SMap α → Nat → α → SMap α
  | [], k, v => [(k, v)]
  | (j, w) :: r, k, v =>
    if k = j then (k, v) :: r
    else if k < j then (k, v) :: (j, w) :: r
    else (j, w) :: SMap.set r k v

/-- Removes every entry under `k`. -/
def SMap.erase {α : Type} (m : SMap α) (k : Nat) : SMap α := m.filter (fun e => e.1 != k)

/-- Applies `f` to the value under `k` (the reset value `d` where none is listed). -/
def SMap.mod {α : Type} (m : SMap α) (k : Nat) (d : α) (f : α → α) : SMap α :=
  SMap.set m k (f (SMap.getD m k d))

/-- The entries whose key satisfies `p`. -/
def SMap.keep {α : Type} (m : SMap α) (p : Nat → Bool) : SMap α := m.filter (fun e => p e.1)

/-- Applies `f` to every listed value. -/
def SMap.mapVals {α : Type} (m : SMap α) (f : Nat → α → α) : SMap α := m.map (fun e => (e.1, f e.1 e.2))

/-- The keys rise strictly: the one canonical form of a table. -/
def SMap.sorted {α : Type} : SMap α → Bool
  | [] => true
  | [_] => true
  | (a, _) :: (b, w) :: r => decide (a < b) && SMap.sorted ((b, w) :: r)

/-- A count that stops at its largest value (the saturating counters of the register tables). -/
def satAdd {n : Nat} (a : BitVec n) (k : Nat) : BitVec n :=
  if a.toNat + k < 2 ^ n then BitVec.ofNat n (a.toNat + k) else BitVec.allOnes n

/-- The value nearest to `v` in the range `lo` to `hi` (the RW clamp of R731). -/
def clampNat (v lo hi : Nat) : Nat := if v < lo then lo else if hi < v then hi else v

/-- Bit `i` of a word as a number. -/
def bitOf {n : Nat} (w : BitVec n) (i : Nat) : Bool := w.getLsbD i

/-- Field `[hi:lo]` of a word. -/
def field {n : Nat} (w : BitVec n) (hi lo : Nat) : Nat := w.toNat / 2 ^ lo % 2 ^ (hi + 1 - lo)

/-- Field `[hi:lo]` of a number. -/
def fieldN (w hi lo : Nat) : Nat := w / 2 ^ lo % 2 ^ (hi + 1 - lo)

/-- The number of a truth value. -/
def b2n (b : Bool) : Nat := if b then 1 else 0

/-- Packs fields, each given as its lowest bit and its value, into a register word (R731: a read returns the whole
register; a bit no field names reads 0, R732). -/
def packWord (fs : List (Nat × Nat)) : Word := BitVec.ofNat 32 (fs.foldl (fun a f => a + f.2 * 2 ^ f.1) 0)

/-- The number whose little-endian bytes these are (R12). -/
def leNat : List Byte → Nat
  | [] => 0
  | b :: r => b.toNat + 256 * leNat r

/-- The `n` little-endian bytes of a number (R12). -/
def leBytes : Nat → Nat → List Byte
  | 0, _ => []
  | n + 1, v => BitVec.ofNat 8 v :: leBytes n (v / 256)

/-- The number whose big-endian bytes these are (network byte order, R13). -/
def beNat (bs : List Byte) : Nat := bs.foldl (fun a b => a * 256 + b.toNat) 0

/-- The `n` big-endian bytes of a number. -/
def beBytes (n v : Nat) : List Byte := (leBytes n v).reverse

/-- The 64 bytes of a line, lowest address first. -/
def lineBytes (l : Line) : List Byte := leBytes 64 l.toNat

/-- The line whose bytes these are. -/
def bytesLine (bs : List Byte) : Line := BitVec.ofNat 512 (leNat bs)

/-- Byte `b` of a line. -/
def lineByte (l : Line) (b : Nat) : Byte := BitVec.ofNat 8 (l.toNat / 2 ^ (8 * b))

/-- The line with the bytes that `mask` names (bit `b` for byte `b`) taken from `new` and the rest from `old`. -/
def mergeLine (old new : Line) (mask : BitVec 64) : Line :=
  bytesLine (((lineBytes old).zip (lineBytes new)).zipIdx.map (fun e => if mask.getLsbD e.2 then e.1.2 else e.1.1))

/-- Inserts into a rising list of numbers without repeats (a collection with no order). -/
def insNat (k : Nat) : List Nat → List Nat
  | [] => [k]
  | j :: r => if k = j then j :: r else if k < j then k :: j :: r else j :: insNat k r

/-- Removes a number from a collection. -/
def delNat (k : Nat) (l : List Nat) : List Nat := l.filter (· != k)

end Sys2Proof
end

