-- ==== Sys2Proof/Machine/StateBase.lean ====
section
/-! DEFINITION. StateBase.lean: the state of the HUB_INFO, SYS and DBG blocks, the clocks, the mailbox copies, the counters
and the board and test access ports, each with its reset record. -/
namespace Sys2Proof.Machine
open Sys2Proof

/-- `BRIDGE_ERR_LOG` of one hub (R43); every field is Held: kept over package reset, 0 after power-on. -/
structure BridgeLog where
  bridge : BitVec 4 := 0
  parityLane : Bool := false
  lane : BitVec 10 := 0
  rxHub : BitVec 3 := 0
  multi : Bool := false
  valid : Bool := false
deriving DecidableEq, Repr

/-- The phase of a partial reset of a hub (R797). -/
inductive PartialPhase where
  | none | reset | restart
deriving DecidableEq, Repr

/-- What HUB_INFO (R42, R43), SYS_CLOCK (R805) and the partial reset (R797) hold of one hub. `PRESENT` is the hub's
place in the variant (R21). -/
structure HubInfo where
  inService : Bool := false
  fatal : Bool := false
  phase : PartialPhase := .none
  bridgeLog : BridgeLog := {}
  refclkOk : Bool := true
  sdsRefclkOk : Bool := true
  pllLock : Bool := false
  /-- The hub controller runs (R792 step 3, R716). -/
  hcRunning : Bool := false
deriving DecidableEq, Repr

/-- The grade (R5, R6): A enables all 14 clusters of every hub; B has two of them fused off on each hub. A hub's pair `(x, d)` stands
for the clusters `x` and `x + 1 + d` modulo 14, which differ; C12 and C13 on a hub that is not listed. -/
inductive Grade where
  | a
  | b (off : SMap (Fin 14 × Fin 13))
deriving DecidableEq, Repr

/-- Grade B. -/
def Grade.isB : Grade → Bool
  | .a => false
  | .b _ => true

/-- `CL_ENABLED` of hub `h` (R5, R6, R40). -/
def Grade.clusters (g : Grade) (h : Nat) : BitVec 14 :=
  match g with
  | .a => BitVec.allOnes 14
  | .b off =>
    let (x, d) := off.getD h (12, 0)
    BitVec.ofNat 14 ((List.range 14).foldl (fun a k => if k = x.val ∨ k = (x.val + 1 + d.val) % 14 then a else a + 2 ^ k) 0)

/-- The fuses (R4, R5, R306, R39): fixed at manufacture. -/
structure Fuses where
  variant : Variant := .fx98
  grade : Grade := .a
  stepping : BitVec 8 := 1
  macE0 : BitVec 48 := 0
  macE1 : BitVec 48 := 0
deriving DecidableEq, Repr

/-- Where the package stands between power-on and service (R789, R792, R794, R657). -/
inductive Phase where
  | unpowered   -- both feeds below 9 V
  | inReset     -- RESET_N low, or a package reset in progress
  | starting    -- steps of R792 under way
  | halted      -- start-up halted (R794)
  | awake       -- start-up has ended (R793)
  | sleeping    -- deep sleep (R657)
  | waking      -- wake in progress, traffic held (R660)
deriving DecidableEq, Repr

/-- The SYNC_IN receiver and the SYNC fields of `SYS_SYNC` (R785, R786, R806). -/
structure SyncIn where
  locked : Bool := false
  good : Nat := 0
  misses : Nat := 0
  lastTime : Option (BitVec 64) := none
  lastEdge : Nat := 0
  outEn : Bool := false
  inEn : Bool := true
  delayNs : BitVec 16 := 0
deriving DecidableEq, Repr

/-- The SYS block of H0 (R801–R807) and the package-wide facts behind it. -/
structure Sys where
  phase : Phase := .inReset
  step : BitVec 4 := 0
  haltHub : BitVec 3 := 0
  haltUnit : BitVec 6 := 0
  done : Bool := false
  lastCause : BitVec 3 := 0
  afterFatal : Bool := false
  hrHub : BitVec 3 := 0
  hrGo : Bool := false
  hrResult : BitVec 4 := 0
  hrLastHub : BitVec 3 := 0
  hrLastTrig : BitVec 2 := 0
  /-- A watchdog reset that waits for the partial reset in progress (R796). -/
  hrWaiting : List Nat := []
  ethMedium : BitVec 2 := 0
  i3cPid : BitVec 3 := 0
  sync : SyncIn := {}
  /-- `SYS_WAKE.WAKE` as last set while asleep. -/
  wake : Bool := false
  lastWake : BitVec 2 := 0
  clk32kLost : Bool := false
  /-- The instant `t0` of a fatal fault (R37), until package reset. -/
  fatalAt : Option Nat := none
  /-- 100 µs after `t0` the ports have stopped transmitting (R37). -/
  portsStopped : Bool := false
  /-- The level of `RESET_N`. -/
  resetLow : Bool := true
  /-- The bridges that are trained, by index, with the lanes of each direction that spare lanes stand in for (R35). -/
  bridges : SMap (List (BitVec 11) × List (BitVec 11)) := []
  /-- The hub that recorded the bridge parity error behind the present fatal fault (R38, R43). -/
  bridgeHub : Option (Fin 8) := none
  /-- Facts of the start-up under way: steps 8 and 9 have still to end. -/
  filling : Bool := false
deriving DecidableEq, Repr

/-- The copies the always-on domain refreshes at each of its edges (R738). -/
structure AonCopy where
  feedAOk : Bool := true
  feedBOk : Bool := true
  sleeping : Bool := false
  lastWake : BitVec 2 := 0
  clk32kLost : Bool := false
deriving DecidableEq, Repr

/-- How pool time moves (R295). -/
inductive Slew where
  | free                          -- with the housekeeping clock
  | halfRate (untilOffset : Nat)  -- at half rate until this many ns are absorbed
  | slew (left : Int)             -- toward the source, this many ns to go
deriving DecidableEq, Repr

/-- The clocks: the model's own nanosecond count `now`, pool time (R293–R295) and the always-on domain (R657, R738). -/
structure Clocks where
  /-- Nanoseconds of true time since power-on (the model's own field). -/
  now : Nat := 0
  poolTime : BitVec 64 := 0
  slew : Slew := .free
  slewAcc : Nat := 0
  rtc : BitVec 48 := 0
  rtcAlarm : BitVec 48 := 0
  /-- Alarm value written through the mailbox and not yet in the always-on domain (R738). -/
  alarmPending : Option (BitVec 48) := none
  /-- Phase of the always-on clock, in units of 1/10^9 of a tick. -/
  aonPhase : Nat := 0
  copy : AonCopy := {}
deriving DecidableEq, Repr

/-- One event record (R753, R754). -/
structure TraceRec where
  ekind : BitVec 8
  isOpen : Bool
  post : Bool
  hub : BitVec 8
  unit : BitVec 8
  job : BitVec 12
  lc : BitVec 10
  endTime : BitVec 64
  waitNs : BitVec 32
  object : BitVec 16
  by_ : BitVec 16
  detail : BitVec 32
  pc : BitVec 14
deriving DecidableEq, Repr

/-- A wait in progress at a unit (R752), begun at true time `start`. -/
structure OpenWait where
  ekind : BitVec 8
  job : BitVec 12 := 0
  lc : BitVec 10 := 0
  start : Nat
  object : BitVec 16 := 0
  by_ : BitVec 16 := 0
  detail : BitVec 32 := 0
  pc : BitVec 14 := 0
deriving DecidableEq, Repr

/-- The ring, post-trigger store and open waits of one unit (R755, R757); oldest record first. -/
structure TraceUnit where
  ring : List TraceRec := []
  store : List TraceRec := []
  waits : List OpenWait := []
deriving DecidableEq, Repr

/-- The DBG block of one hub (R768–R773) and its export queue (R759). -/
structure TraceHub where
  frozenLost : BitVec 16 := 0
  minWaitNs : BitVec 16 := 0x20
  cluStep : Bool := false
  ringType : BitVec 2 := 0
  ringUnit : BitVec 4 := 0
  queue : List TraceRec := []
  lost : Nat := 0
  lostEnd : BitVec 64 := 0
deriving DecidableEq, Repr

/-- The part-wide trigger (R756, R757, R770), the export target (R760) and the export region (R761, R772). -/
structure Trigger where
  source : BitVec 3 := 0
  ekind : BitVec 4 := 0
  waitUs : BitVec 10 := 0x64
  postUs : BitVec 10 := 0x0A
  armed : Bool := false
  /-- The trigger time `T`, pool time, once it has fired. -/
  fired : Option (BitVec 64) := none
  postOpen : Bool := false
  frozen : Bool := false
  kmpTarget : Option Nat := none
  lastTraceAt : Option Nat := none
  head : BitVec 25 := 0
  tail : BitVec 25 := 0
  region : SMap TraceRec := []
deriving DecidableEq, Repr

/-- One 64-bit counter (R762) with the value it held before its last reset (R764). -/
structure Counter where
  count : BitVec 64 := 0
  resets : BitVec 8 := 0
  /-- Count and `RESETS` from just before the last reset that R764 covers; `resets` leaves out resets of the whole group. -/
  before : Option (BitVec 64 × BitVec 8) := none
  /-- The instant of that reset. -/
  resetAt : Nat := 0
deriving DecidableEq, Repr

/-- One copy of a mailbox window (R740–R744). -/
structure Mbx where
  id : BitVec 8 := 0
  index : BitVec 8 := 0
  valid : Bool := false
  busy : Bool := false
  writing : Bool := false
  err : BitVec 3 := 0
  len : BitVec 8 := 0
  idEcho : BitVec 8 := 0
  data : SMap Word := []
  /-- The selectors as they stood at the `MBX_REQ` write (R750). -/
  sel : Nat := 0
  /-- The request came from a tenant session (R679). -/
  tenant : Bool := false
deriving DecidableEq, Repr

/-- The JTAG port (R788). -/
structure Jtag where
  ir : BitVec 8 := 0x01
  /-- The CSR address latched by `CSR_ADDR`. -/
  addr : Word := 0
  /-- What Capture-DR last loaded into the register selected by the instruction. -/
  dr : BitVec 33 := 0
  /-- The levels last captured from the pins, and the levels preloaded, in the boundary register. -/
  sampled : List Bool := []
  boundary : List Bool := []
  /-- The preloaded levels drive the pins (`EXTEST`). -/
  driving : Bool := false
deriving DecidableEq, Repr

/-- The I3C target (R787). -/
structure I3c where
  dynAddr : Option (BitVec 7) := none
  lastCause : BitVec 3 := 0
  lastIbiAt : Option Nat := none
deriving DecidableEq, Repr

/-- Section IDs of R52. -/
inductive Sect where
  | hubs | tiers | interleave | extentPolicy | coherence | fabric | queues | clusters | power | security | debugPolicy
  | compat
deriving DecidableEq, Repr

/-- The section ID (R52). -/
def Sect.id : Sect → Nat
  | .hubs => 1 | .tiers => 2 | .interleave => 3 | .extentPolicy => 4 | .coherence => 5 | .fabric => 6
  | .queues => 7 | .clusters => 8 | .power => 9 | .security => 10 | .debugPolicy => 11 | .compat => 12

/-- The length in bytes of a section (R52). -/
def Sect.length : Sect → Nat
  | .hubs => 16 | .tiers => 64 | .interleave => 16 | .extentPolicy => 256 | .coherence => 32 | .fabric => 4896
  | .queues => 141312 | .clusters => 144 | .power => 64 | .security => 16 | .debugPolicy => 16 | .compat => 16

/-- The sections in ascending order of ID. -/
def Sect.all : List Sect :=
  [.hubs, .tiers, .interleave, .extentPolicy, .coherence, .fabric, .queues, .clusters, .power, .security, .debugPolicy,
   .compat]

/-- A set of sections: bytes by offset, by section ID. -/
abbrev Sections := SMap (SMap Byte)

end Sys2Proof.Machine
end

