-- ==== Sys2Proof/Machine/StateEth.lean ====
section
/-! DEFINITION. StateEth.lean: the state of the Ethernet ports, the RoCEv2 queue pairs, the KMP sessions, the hardware queues,
the meters and the load feedback. -/
namespace Sys2Proof.Machine
open Sys2Proof

/-- A request of the part that is outstanding on a QP, kept for go-back-N (R315): its first PSN, the PSNs it takes and
whether it is an RDMA READ Request. -/
inductive RoceOp where
  | write (va : BitVec 64) (rkey : BitVec 32) (bytes : List Byte)
  | read (va : BitVec 64) (rkey : BitVec 32) (length : Nat)
deriving DecidableEq, Repr

/-- What a completion-ring slot holds (R356): a command completion, or an extent event with whether it ends a withdrawal or narrowing
(R140, R142). -/
inductive QSlot where
  | command (ring : Nat) (tag : BitVec 16) (status : PStatus) (result : BitVec 128) (vec : BitVec 256)
  | event (e : ExtEvent) (ends : Bool := false)
deriving DecidableEq, Repr

/-- The slot is the event that ends a withdrawal or narrowing. -/
def QSlot.endsDrain : QSlot → Bool
  | .event _ ends => ends
  | .command .. => false

/-- An outstanding request with its PSNs. -/
structure RoceOut where
  psn : BitVec 24
  count : Nat
  op : RoceOp
  /-- For a write, the access its data belongs to; for a read, the command whose data it fetches. -/
  access : Option Nat := none
  /-- Packets of a write that have been acknowledged. -/
  acked : Nat := 0
  /-- Bytes of a read's data that have arrived, in order. -/
  got : List Byte := []
  /-- For a write of a completion, the slot it writes: not yet acknowledged, it is written again at a reconnection (R317). -/
  slot : Option QSlot := none
deriving DecidableEq, Repr

/-- One queue pair (R312–R317, R334). -/
structure Qp where
  params : QpParams
  session : Nat := 0
  error : Bool := false
  expectPsn : BitVec 24 := 0
  nextPsn : BitVec 24 := 0
  out : List RoceOut := []
  retries : Nat := 0
  /-- The pacing rate in bit/s (R312). -/
  rate : Rat := 0
  lastCut : Option Nat := none
  lastCnpSent : Option Nat := none
  cqIndex : Nat := 0
  /-- Frames of a SEND that has begun, with the colour of each. -/
  rx : List (List Byte × Colour) := []
deriving DecidableEq, Repr

/-- How a KMP session is authenticated (R678). -/
inductive Auth where
  | nothing
  | slot (k : Fin 4)
  | tenant
deriving DecidableEq, Repr

/-- SPDM error codes the part answers with (DSP0274). -/
inductive SpdmErr where
  | invalidRequest | busy | unexpectedRequest | decryptError | unsupportedRequest | versionMismatch
  | largeResponse (handle : BitVec 8)
deriving DecidableEq, Repr

/-- SPDM responses of the part (R676, R695). -/
inductive SpdmResp where
  | version
  | capabilities
  | algorithms
  | digests (d : BitVec 512)
  | certificate (portion : List Byte) (remainder : Nat)
  | challengeAuth (nonce : BitVec 256) (signature : BitVec 4096)
  | measurements (nonce : Option (BitVec 256)) (blocks : List (Nat × List Byte)) (signature : Option (BitVec 4096))
  | keyExchange (rspSid : BitVec 16) (both : Bool) (signature : BitVec 4096)
  | finish
  | heartbeatAck
  | keyUpdateAck
  | endSessionAck
  | chunkSendAck (handle : BitVec 8) (seq : BitVec 16)
  | chunk (handle : BitVec 8) (seq : BitVec 16) (last : Bool) (bytes : List Byte)
  | encapRequest
  | encapAck
  | error (e : SpdmErr)
deriving DecidableEq, Repr

/-- The body of a KMP response (R328). -/
inductive KmpBody where
  | empty
  | discover (pkgId : BitVec 32) (mac0 mac1 : BitVec 48) (version : BitVec 8) (free : Nat)
  | values (v : List Word)
  | results (r : List (BitVec 8))
  | transfer (result : BitVec 8) (data : List Byte)
  | carve (c : CarveDone)
  | qp (qpn : BitVec 24) (psn : BitVec 24) (result : BitVec 8)
  | spdm (r : SpdmResp)
  | retry (ms : BitVec 16)
deriving DecidableEq, Repr

/-- A KMP response: `KSTATUS` and body (R327, R329). -/
structure KmpResp where
  status : BitVec 8
  body : KmpBody := .empty
deriving DecidableEq, Repr

/-- What a KMP EVENT carries: an extent event or a record notice (R328). -/
inductive KmpEvent where
  | extent (e : ExtEvent)
  | notice
deriving DecidableEq, Repr

/-- What a KMP message of the part says: a response, an EVENT, or a TRACE with its pool time and records (R328, R760). -/
inductive KmpSays where
  | resp (r : KmpResp)
  | event (e : KmpEvent)
  | trace (time : BitVec 64) (records : List TraceRec)
deriving DecidableEq, Repr

/-- A KMP message as the part sends it: the 16 bytes of its header, and its body, which in a session is the ciphertext with the tag (R327);
beside them the session's slot, and what the bytes say. -/
structure KmpMsg where
  slot : Option Nat
  type : BitVec 8
  seq : BitVec 32
  what : KmpSays
  head : List Byte
  body : List Byte
deriving DecidableEq, Repr

/-- The frame of what the part sends: its destination, its class and its VLAN, when it is tagged (R307, R308). -/
structure TxFrame where
  mac : BitVec 48
  cls : BitVec 3
  vlan : Option (BitVec 12) := none
deriving DecidableEq, Repr

/-- `DSCP` of a frame: eight times its class (R308). -/
def TxFrame.dscp (f : TxFrame) : BitVec 6 := f.cls.setWidth 6 <<< 3

/-- The tag of a frame: its `PCP` is its class (R308). -/
def TxFrame.tag (f : TxFrame) : Option VlanTag := f.vlan.map (fun v => { pcp := f.cls, vid := v })

/-- What a frame of the part carries. -/
inductive EthMsg where
  | roce (qpn : BitVec 32) (psn : BitVec 24) (op : RoceOp)          -- an RDMA WRITE or READ Request
  | roceAck (qpn : BitVec 32) (psn : BitVec 24) (syndrome : RoceSyn)
  | cnp (qpn : BitVec 32)
  | arpReply (ip : BitVec 128)
  | echoReply (v6 : Bool) (payload : List Byte)
  | dhcp (request : Bool)
  | ptpDelayReq (via : PtpTransport) (seq : BitVec 16) (time : BitVec 64)
  | kmp (m : KmpMsg)
deriving DecidableEq, Repr

/-- One Ethernet port (R302–R311, R340–R344). -/
structure EthPort where
  linkUp : Bool := false
  speedAct : BitVec 2 := 0
  paused : BitVec 8 := 0
  pausing : BitVec 8 := 0
  /-- True time until which each class is paused by the peer, and since when without a break (R310). -/
  pauseUntil : SMap Nat := []
  pauseSince : SMap Nat := []
  /-- True time until which pause on a class is ignored (R310). -/
  ignoreUntil : SMap Nat := []
  /-- Bytes of each class in the receive buffer (R309). -/
  occupancy : SMap Nat := []
  fcs : BitVec 8 := 0
  dropped : BitVec 8 := 0
  badQp : BitVec 8 := 0
  redDrop : BitVec 8 := 0
  limitMs : BitVec 10 := 0x64
  trips : BitVec 16 := 0
  addr : BitVec 32 := 0
  isStatic : Bool := false
  prefix_ : BitVec 6 := 0
  lease : Option (BitVec 32) := none
  /-- When the lease was given, for how many seconds and by which server, and how often the part has asked to renew it (R307). -/
  leaseAt : Nat := 0
  leaseSecs : Nat := 0
  leaseFrom : BitVec 48 := 0
  renewals : Nat := 0
  /-- Frames of paused classes that wait to be sent, oldest first (R310). -/
  txWait : List (TxFrame × EthMsg) := []
deriving DecidableEq, Repr

/-- One KMP session (R330, R331). -/
structure KmpSession where
  sid : BitVec 32
  port : Bool := false
  /-- The session's export master secret, and its key (R671, R677). -/
  secret : Nat := 0
  key : Nat := 0
  /-- The source MAC address and the VLAN of its last message, to which the part's own messages go (notes/assumptions/72.md). -/
  mac : BitVec 48 := 0
  vlan : Option (BitVec 12) := none
  auth : Auth := .nothing
  highest : BitVec 32 := 0
  /-- Sequence numbers accepted within 16 of the highest. -/
  seen : List (BitVec 32) := []
  /-- The last 16 requests with their stored responses, oldest first. -/
  stored : List (BitVec 32 × KmpMsg) := []
  eventSeq : BitVec 32 := 0
  /-- Events not yet acknowledged, with the times each was sent again. -/
  events : List (BitVec 32 × KmpMsg × Nat) := []
deriving DecidableEq, Repr

/-- An entry in a submission ring (R353, R362, R366). -/
structure RingSlot where
  id : Nat
  entry : SubEntry
  colour : Colour := .green
  issued : Bool := false
  completed : Bool := false
  tag : Option (BitVec 64) := none
  promoted : Bool := false
deriving DecidableEq, Repr

/-- One hardware queue (R348–R366). Token buckets count thousandths of a byte. -/
structure Queue where
  ring : List RingSlot := []
  nextId : Nat := 0
  held : List QSlot := []
  credit : Nat := 0
  bucket : Int := 0
  bucketAt : Nat := 0
  fprev : BitVec 64 := 0
  /-- Counter of the nonces the part forms for the queue (R324). -/
  nonce : BitVec 64 := 0
  /-- Counters of the current command (R765): eligible since. -/
  eligibleAt : Nat := 0
deriving DecidableEq, Repr

/-- One hub's command engine and load feedback (R359–R376). -/
structure QueHub where
  v : BitVec 64 := 0
  smoothed : Rat := 0
  level : BitVec 2 := 0
  measured : Bool := false
deriving DecidableEq, Repr

/-- One host identity's meter (R367); buckets in thousandths of a byte. -/
structure Meter where
  tc : Nat := 0
  tp : Nat := 0
  at_ : Nat := 0
  full : Bool := true
  last : Colour := .green
deriving DecidableEq, Repr

/-- A PTP master heard on the port that `PTP_CTL` selects (R335): its data set, when it was last heard, its announce interval in ns, and
whether it has been heard twice. -/
structure PtpMaster where
  source : BitVec 80
  rank : BitVec 128
  at_ : Nat
  interval : Nat
  twice : Bool := false
deriving DecidableEq, Repr

/-- `PTP_CTL`, `KMP_STATUS` and the part-wide Ethernet facts (R345, R346). -/
structure EthGlobal where
  ptpEn : Bool := false
  ptpPort : Bool := false
  ptpDomain : BitVec 8 := 0
  /-- Times of the PTP exchange in progress (R335). -/
  ptpT1 : Option (BitVec 64) := none
  ptpT2 : BitVec 64 := 0
  ptpT3 : BitVec 64 := 0
  ptpMasters : List PtpMaster := []
  /-- The sequence number of a two-step Sync that awaits its Follow_Up, and the corrections so far, in ns. -/
  ptpSync : Option (BitVec 16) := none
  ptpCorr : Int := 0
  /-- The sequence number of the next Delay_Req. -/
  ptpReq : BitVec 16 := 0
  rejected : BitVec 16 := 0
  /-- The Ethernet host identities that hold an Ethernet key, with the name of the key (R671, R677). -/
  ethKeys : SMap Nat := []
deriving DecidableEq, Repr

end Sys2Proof.Machine
end

