-- ==== Sys2Proof/Machine/EthCode.lean ====
section
/-! DEFINITION. EthCode.lean: what an Ethernet port reads of a received frame, and the bytes of the KMP messages that the part sends
(chapter "Ethernet Attachment and Management Transport"). -/
namespace Sys2Proof

/-! ### Received frames (R304, R306, R308) -/

/-- The class of a received frame: its `PCP` when it is tagged, `DSCP`[5:3] when it is not (R308). -/
def EthFrame.cls (f : EthFrame) : BitVec 3 := match f.tags with | t :: _ => t.pcp | [] => f.dscp.extractLsb' 3 3
/-- The VLAN of a tagged frame. -/
def EthFrame.vlan (f : EthFrame) : Option (BitVec 12) := f.tags.head?.map (·.vid)
/-- A frame that is too long, or whose FCS is bad (R304). -/
def EthFrame.damaged (f : EthFrame) : Bool := !f.fcsOk || decide (9216 < f.bytes)
/-- A frame that the part accepts: at most one tag, one of five EtherTypes, neither a fragment nor with IP options (R306). -/
def EthFrame.accepted (f : EthFrame) : Bool :=
  decide (f.tags.length ≤ 1) && [0x0800, 0x86DD, 0x0806, 0x88F7, 0x8808].contains f.etherType.toNat && !f.fragment && !f.options

/-! ### Records as bytes -/

/-- An extent event as bytes (R141). -/
def ExtEvent.bytes (e : ExtEvent) : List Byte :=
  [e.type, e.status] ++ leBytes 2 e.extent.toNat ++ [e.rights] ++ leBytes 3 0 ++ leBytes 8 e.poolBase.toNat ++ leBytes 8 e.poolTime.toNat
    ++ leBytes 8 0

/-- A carving completion as bytes (R127). -/
def CarveDone.bytes (c : CarveDone) : List Byte :=
  [c.opcode, c.result] ++ leBytes 2 c.extent.toNat ++ leBytes 2 c.members.toNat ++ [c.state, c.draining] ++ leBytes 8 c.poolTime.toNat
    ++ [c.cls] ++ leBytes 15 0

/-! ### Headers of KMP messages (R327) -/

/-- `PROTECTED`. -/
def KmpHdr.protected_ (h : KmpHdr) : Bool := h.kflags.getLsbD 1

end Sys2Proof

namespace Sys2Proof.Machine
open Sys2Proof

/-- The message obeys R327. -/
def kmpHdrOk (h : KmpHdr) : Bool :=
  h.version == 1 && decide (h.kflags.toNat < 4) && h.kstatus == 0 && h.rsb == 0 && h.rsvd == 0 && decide (h.bodyLen.toNat ≤ 1408)
    && h.bodyLen.toNat == h.body.length

/-- `TYPE` names a message (R328). -/
def kmpKnown (type : BitVec 8) : Bool := type != 0 && decide (type.toNat < 0x0C)

/-! ### KMP messages as bytes (R327, R328) -/

/-- An event record as bytes (R753). -/
def TraceRec.bytes (r : TraceRec) : List Byte :=
  [r.ekind, BitVec.ofNat 8 (b2n r.isOpen + 2 * b2n r.post), r.hub, r.unit] ++ leBytes 2 r.job.toNat ++ leBytes 2 r.lc.toNat
    ++ leBytes 8 r.endTime.toNat ++ leBytes 4 r.waitNs.toNat ++ leBytes 2 r.object.toNat ++ leBytes 2 r.by_.toNat
    ++ leBytes 4 r.detail.toNat ++ leBytes 2 r.pc.toNat ++ leBytes 2 0

/-- The body of a response as bytes (R328); `n` counts the SPDM messages sent. The widths of the fields for which R328 gives no layout are
the model's (DESIGN CHOICE, notes/assumptions/71.md). -/
def KmpBody.bytes (n : Nat) : KmpBody → List Byte
  | .empty => []
  | .discover id m0 m1 v f => leBytes 4 id.toNat ++ beBytes 6 m0.toNat ++ beBytes 6 m1.toNat ++ [v] ++ leBytes 1 f
  | .values l => l.flatMap (fun v => leBytes 4 v.toNat)
  | .results l => l
  | .transfer r d => r :: d
  | .carve c => c.bytes
  | .qp q p r => leBytes 4 q.toNat ++ leBytes 4 p.toNat ++ [r]
  | .spdm _ => Config.spdmMessage n
  | .retry ms => leBytes 2 ms.toNat

/-- The body of what a message says. -/
def KmpSays.bytes (n : Nat) : KmpSays → List Byte
  | .resp r => r.body.bytes n
  | .event (.extent e) => e.bytes
  | .event .notice => Config.noticeBody
  | .trace t l => leBytes 8 t.toNat ++ leBytes 2 l.length ++ leBytes 6 0 ++ l.flatMap TraceRec.bytes

/-- The 16 bytes of a header (R327). -/
def kmpHead (version type flags status : BitVec 8) (sid seq : BitVec 32) (len : Nat) (rsb rsvd : BitVec 8) : List Byte :=
  [version, type, flags, status] ++ leBytes 4 sid.toNat ++ leBytes 4 seq.toNat ++ leBytes 2 len ++ [rsb, rsvd]

/-- The nonce of a protected message (R327). -/
def kmpNonce (sid seq : BitVec 32) (ofPart : Bool) : List Byte :=
  leBytes 4 sid.toNat ++ leBytes 4 seq.toNat ++ leBytes 4 (b2n ofPart)

/-- `RESP` and `KSTATUS` of what a message says. -/
def KmpSays.flags : KmpSays → BitVec 8 × BitVec 8
  | .resp r => (1, r.status)
  | .event _ | .trace .. => (0, 0)

/-- Whether it carries an SPDM message. -/
def KmpSays.spdm : KmpSays → Bool
  | .resp { body := .spdm _, .. } => true
  | _ => false

end Sys2Proof.Machine
end

