-- ==== Sys2Proof/Machine/StateMem.lean ====
section
/-! DEFINITION. StateMem.lean: the state of the memory tiers, the stored lines, the lift engine and the integrity logs. Stored
bytes are named by storage address: hub [43:41], slot on that hub [40:28], byte offset in the slot [27:0]. -/
namespace Sys2Proof.Machine
open Sys2Proof

/-- What the part keeps of a stored line beside its bytes: whether anything was ever written to it, whether it is
poisoned (R595), the generation of the memory key it is stored under (0: not encrypted) and, after a raw write, its
check bytes (R618). -/
structure LineMeta where
  written : Bool := false
  poison : Bool := false
  key : Nat := 0
  check : Option (BitVec 128) := none
  /-- A raw write gave the line the `INIT` state of a written unit (R618). -/
  init : Bool := false
deriving DecidableEq, Repr

/-- The 2 MiB units of a slot: `init` are the `INIT` bits (R598); `filled` marks units whose lines hold zeros unless
written since (the model's own field: a unit can have its `INIT` set over undefined bytes, R574). -/
structure UnitBits where
  init : BitVec 128 := 0
  filled : BitVec 128 := 0
deriving DecidableEq, Repr

/-- Where the decoder placed a correctable error (R590, R592, R603): symbol or device, bank, row and column. -/
structure ErrLoc where
  symbol : BitVec 7
  bank : BitVec 8
  row : BitVec 32
  column : BitVec 16
deriving DecidableEq, Repr

/-- A row of the correction table (R603), with the distinct lines corrected in it and their columns. -/
structure TrackedRow where
  bank : BitVec 8
  row : BitVec 32
  lines : List Nat := []
  columns : List (BitVec 16) := []
  touched : Nat := 0
  /-- The row has reached its threshold. -/
  due : Bool := false
deriving DecidableEq, Repr

/-- What the part holds of one channel and stack-ID or rank: its tracked rows and the runtime spares used (R603, R607). -/
structure RankInfo where
  rows : List TrackedRow := []
  rowsUsed : SMap Nat := []
  colsUsed : Nat := 0
deriving DecidableEq, Repr

/-- A stack repair that is due (R608). -/
structure Repair where
  hub : Nat
  channel : Nat
  rank : Nat
  bank : BitVec 8
  row : BitVec 32
  column : Option (BitVec 16) := none
  /-- Storage address of a line of the row. -/
  at_ : Nat := 0
deriving DecidableEq, Repr

/-- A correction of the last second (R604): its symbol position, its row with the stack-ID or rank, and true time. -/
structure Recent where
  symbol : Nat
  rank : Nat
  bank : BitVec 8
  row : BitVec 32
  at_ : Nat
deriving DecidableEq, Repr

/-- An error record (R611). -/
structure ErrRec where
  type : BitVec 8
  hub : BitVec 8 := 0
  channel : BitVec 8 := 0xFF
  symbol : BitVec 8 := 0xFF
  count : BitVec 32 := 0
  dpa : BitVec 64 := 0
  poolTime : BitVec 64 := 0
  host : BitVec 16 := 0
deriving DecidableEq, Repr

/-- A retirement-log entry (R613). -/
structure RlogEntry where
  kind : BitVec 8
  hub : BitVec 8 := 0
  channel : BitVec 8 := 0
  rank : BitVec 8 := 0
  bank : BitVec 8 := 0
  device : BitVec 8 := 0xFF
  column : BitVec 16 := 0
  row : BitVec 32 := 0
  dpa : BitVec 64 := 0
  poolTime : BitVec 64 := 0
deriving DecidableEq, Repr

/-- Channel states (R582). -/
inductive ChState where
  | disabled | training | inService | retraining | selfRefresh | failed
deriving DecidableEq, Repr

/-- One memory channel: 0–31 stack, 32 and 33 deep (R581–R586). -/
structure MemChan where
  state : ChState := .disabled
  thermal : Bool := false
  pasr : Bool := false
  /-- Slots that lie wholly or partly in masked segments; they do not count as Free meanwhile (R579). -/
  masked : List Nat := []
  tempC : BitVec 8 := 0
  /-- The sensor's reading when the channel was last trained; none until it has been read since (R563). -/
  trainedC : Option (BitVec 8) := none
  /-- The read and write delay of each byte lane (R560). -/
  delays : List (BitVec 7 × BitVec 7) := []
  minEye : BitVec 7 := 0
  minLane : BitVec 4 := 0
  minWrite : Bool := false
  retrains : BitVec 16 := 0
  srIdleUs : BitVec 10 := 0
  failures : Nat := 0
  /-- True time at which the next refresh is due (R557, R558). -/
  nextRefresh : Nat := 0
  -- deep channels: the population found at start-up (R552, R584)
  dimms : BitVec 2 := 0
  ranks : BitVec 3 := 0
  gib : BitVec 9 := 0
  spdSpeed : BitVec 3 := 0
  /-- The lowest speed that a fitted DIMM declares (R56). -/
  slowest : BitVec 3 := 0
  usable : Bool := false
  pasrCap : Bool := false
  /-- tRFC1 in ns at each `DEEP_SPEED` (R557). -/
  trfc1 : List Nat := []
  /-- The channel belongs to the hub's deep layout (R554, R556). -/
  layout : Bool := false
  /-- A spare rank is set aside on the channel, and has taken the place of a rank (R566). -/
  spareSet : Bool := false
  spareUsed : Bool := false
  spareRank : BitVec 3 := 0
  /-- The spare rank's `INIT` bits are set: start-up has filled it (R598, R601). -/
  spareInit : Bool := false
  /-- Ranks out of service (R566). -/
  deadRanks : List Nat := []
  /-- The place in the channel from which the patrol pass goes on (R605). -/
  patrolAt : Nat := 0
  /-- Suspect symbol positions: the symbol or device, and 128 more on deep subchannel B (R604). -/
  suspects : List Nat := []
  recent : List Recent := []
deriving DecidableEq, Repr

/-- A migration in progress on a hub (R568): a stack slot to a spare slot, or a deep rank to its channel's spare. -/
inductive Migration where
  | slot (hub : Nat) (slot spare : Nat)
  | rank (hub : Nat) (channel : Nat) (rank : Nat)
deriving DecidableEq, Repr

/-- What a hub holds of its memory: the INT registers (R621–R625) and the spares (R551, R585). -/
structure MemHub where
  scrubHours : BitVec 8 := 0x18
  ceRowThr : BitVec 4 := 4
  scrubActive : Bool := false
  progress : BitVec 7 := 0
  passes : BitVec 16 := 0
  ce : BitVec 16 := 0
  ue : BitVec 16 := 0
  rowsUsed : BitVec 8 := 0
  colsUsed : BitVec 8 := 0
  exhausted : Bool := false
  suspectCh : BitVec 6 := 0
  suspectSym : BitVec 7 := 0
  suspectValid : Bool := false
  /-- Stack spare slots not yet lent, and slots lent with the slot each serves. -/
  sparesFree : List Nat := []
  sparesLent : List (Nat × Nat) := []
deriving DecidableEq, Repr

/-- Phases of the head lift (R588). -/
inductive LiftPhase where
  | queued | copying | switching
deriving DecidableEq, Repr

/-- A queued or running lift (R570–R574). -/
structure LiftJob where
  src : BitVec 16
  dest : BitVec 16
  cls : BitVec 4
  phase : LiftPhase := .queued
  /-- Lines of the source that the engines have begun to read, from offset 0 upward (R573). -/
  next : Nat := 0
  /-- The engines read (notes/assumptions/67.md). -/
  reading : Bool := false
deriving DecidableEq, Repr

/-- The LIFT block (R587, R588). -/
structure Lift where
  queue : List LiftJob := []
  lastResult : BitVec 4 := 0
deriving DecidableEq, Repr

/-- The part-wide integrity registers and logs on H0 (R611–R632). -/
structure Integ where
  /-- Unread error records, oldest first; at most 1,024. -/
  errLog : List ErrRec := []
  dropped : BitVec 16 := 0
  /-- Retirement log in flash, oldest first; at most 8,192. -/
  rlog : List RlogEntry := []
  /-- Retired pages: DPA[43:12]. -/
  retired : List Nat := []
  retirePage : BitVec 32 := 0
  retireResult : BitVec 4 := 0
  retireBusy : Bool := false
  /-- The command in progress is a release, whose fill is under way (R616). -/
  releasing : Bool := false
  splitExt : BitVec 16 := 0
  splitLine : BitVec 22 := 0
  splitOutcome : BitVec 3 := 0
  splitSymbols : BitVec 4 := 0
  splitData : BitVec 512 := 0
  splitCheck : BitVec 128 := 0
  repairs : List Repair := []
  migrations : List Migration := []
  /-- Retrains that wait: true time of the trigger, hub and channel, in order; and the channel that retrains now (R563). -/
  retrainQueue : List (Nat × Nat × Nat) := []
  retrainNow : Option (Nat × Nat) := none
  /-- Bank groups for which the last start-up found no hPPR resource left (R609). -/
  hpprSpent : List HpprAt := []
deriving DecidableEq, Repr

end Sys2Proof.Machine
end

