-- ==== Sys2Proof/Machine/MemTrain.lean ====
section
/-! DEFINITION. MemTrain.lean: the training of the lanes of a memory channel (R560, R564), the population of a deep channel (R552) and
the phase of a channel's refreshes (R558). -/
namespace Sys2Proof.Machine
open Sys2Proof

/-! ### Lanes (R560, R564) -/

/-- A run of passing settings: its first setting and its length. -/
structure Run where
  first : Nat
  len : Nat
deriving DecidableEq, Repr

/-- The longest run of passing settings among those listed in ascending order, the first of equals; `cur` is the run under way. -/
def scanRuns (pass : BitVec 128) : List Nat → (cur best : Run) → Run
  | [], _, best => best
  | i :: r, cur, best =>
    if pass.getLsbD i then
      let now : Run := ⟨if cur.len = 0 then i else cur.first, cur.len + 1⟩
      scanRuns pass r now (if best.len < now.len then now else best)
    else scanRuns pass r ⟨0, 0⟩ best

/-- The longest run within settings `lo` to `hi - 1`. -/
def longestRun (pass : BitVec 128) (lo hi : Nat) : Run := scanRuns pass ((List.range (hi - lo)).map (· + lo)) ⟨0, 0⟩ ⟨0, 0⟩

/-- The setting that training chooses from a run: its first plus ⌊(length − 1)/2⌋ (R560). -/
def Run.centre (r : Run) : BitVec 7 := BitVec.ofNat 7 (r.first + (r.len - 1) / 2)

/-- The runs of a lane's read and write delay. -/
structure LaneRuns where
  read : Run := ⟨0, 128⟩
  write : Run := ⟨0, 128⟩
deriving DecidableEq, Repr

/-- Both runs have 16 settings or more (R560). -/
def LaneRuns.passes (l : LaneRuns) : Bool := decide (16 ≤ l.read.len ∧ 16 ≤ l.write.len)

/-- The full sweep of a lane: all 128 settings (R560). -/
def fullSweep (l : LaneSweep) : LaneRuns := ⟨longestRun l.read 0 128, longestRun l.write 0 128⟩

/-- The live sweep of a lane: ±16 settings around its present centres, or the full sweep where a run there is too short (R564). -/
def liveSweep (l : LaneSweep) (at_ : BitVec 7 × BitVec 7) : LaneRuns :=
  let near (m : BitVec 128) (c : BitVec 7) : Run := longestRun m (c.toNat - 16) (min 128 (c.toNat + 17))
  let r : LaneRuns := ⟨near l.read at_.1, near l.write at_.2⟩
  if r.passes then r else fullSweep l

/-- Byte lanes of a channel: nine of a stack channel, five of each deep subchannel (R560). -/
def byteLanes (c : Nat) : Nat := if c < 32 then 9 else 10

/-- A training from the full sweep, of at most `n` attempts: the runs of its lanes, or none where every attempt fails. An attempt that is
not listed finds every setting passing (R560, R561). -/
def trainLanes (c : Nat) : Nat → List (List LaneSweep) → Option (List LaneRuns)
  | 0, _ => none
  | _ + 1, [] => some (List.replicate (byteLanes c) {})
  | n + 1, a :: r =>
    let l := (List.range (byteLanes c)).map (fun i => fullSweep (a.getD i {}))
    if l.all LaneRuns.passes then some l else trainLanes c n r

/-- The shortest run of a channel with its lane and direction, the lowest lane and its read first among equals (R583). -/
def shortestRun : List LaneRuns → (lane : Nat) → (best : Nat × Nat × Bool) → Nat × Nat × Bool
  | [], _, best => best
  | l :: r, i, best =>
    let best := if l.read.len < best.1 then (l.read.len, i, false) else best
    let best := if l.write.len < best.1 then (l.write.len, i, true) else best
    shortestRun r (i + 1) best

/-- What a training leaves in a channel's registers: `MIN_EYE` holds at most 127 (R583, notes/assumptions/74.md). -/
def MemChan.measured (x : MemChan) (l : List LaneRuns) : MemChan :=
  let m := shortestRun l 0 (129, 0, false)
  { x with minEye := BitVec.ofNat 7 (min 127 m.1), minLane := BitVec.ofNat 4 m.2.1, minWrite := m.2.2 }

/-- A channel whose lanes have been centred. -/
def MemChan.centred (x : MemChan) (l : List LaneRuns) : MemChan :=
  { x.measured l with delays := l.map (fun r => (r.read.centre, r.write.centre)) }

/-! ### Refresh (R558) -/

/-- φ of a channel, in ns (R558). -/
def refreshPhase (h c : Nat) : Nat := if c < 32 then 3900 * c / 32 + 15 * h else 3900 * (2 * h + (c - 32)) / 16 + 60

/-- Nanoseconds from a pool time to the next instant of a channel's phase (R558). -/
def toPhase (h c poolTime : Nat) : Nat := (refreshPhase h c + 3900 - poolTime % 3900) % 3900

/-! ### The population of a deep channel (R552) -/

/-- A DIMM that the part supports (R552). -/
def DimmSpd.supported (d : DimmSpd) : Bool :=
  d.registered && d.x4 && [16, 32, 64, 128, 256].contains d.gib.toNat && [1, 2, 4].contains d.ranks.toNat
    && decide (d.speed.toNat ≤ 4)

/-- The DIMMs of one channel satisfy R552: one or two, all supported, alike in capacity, ranks and declared speed. -/
def populationOk (l : List DimmSpd) : Bool :=
  (l.length == 1 || l.length == 2) && l.all DimmSpd.supported
    && l.all (fun d => l.all (fun e => d.gib == e.gib && d.ranks == e.ranks && d.speed == e.speed))

/-- A channel with the population that its serial presence data shows (R584, R792); how many ranks and GiB are those of
its first DIMM, and of the declared speeds the highest and the lowest are kept (R56, R584). -/
def MemChan.populated (x : MemChan) (l : List DimmSpd) : MemChan :=
  match l with
  | [] => x
  | d :: _ => { x with
      dimms := BitVec.ofNat 2 (min 3 l.length), ranks := d.ranks, gib := d.gib,
      spdSpeed := l.foldl (fun a e => if a.toNat < e.speed.toNat then e.speed else a) d.speed,
      slowest := l.foldl (fun a e => if e.speed.toNat < a.toNat then e.speed else a) d.speed,
      pasrCap := l.all DimmSpd.pasr, trfc1 := d.trfc1.map (·.toNat) }

end Sys2Proof.Machine
end

