-- ==== Sys2Proof/Machine/StateCoh.lean ====
section
/-! DEFINITION. StateCoh.lean: the state of the pool (slots, extents, extent maps, withdrawals) and of the homes (directory,
line orders, open transactions, retry records, home atomic units). Lines are named by DPA[45:6]. -/
namespace Sys2Proof.Machine
open Sys2Proof

/-- Slot states (R106). -/
inductive SlotState where
  | absent | reserved | free | carved | retired
deriving DecidableEq, Repr

/-- A carved extent (R104, R116): its class and, for a fine extent, the set of hubs its group spans. -/
structure Extent where
  cls : BitVec 4
  fineSet : BitVec 8 := 0
deriving DecidableEq, Repr

/-- The mark on a map entry (R134, R142). -/
inductive Mark where
  | none | draining | narrowing (goal : Rights)
deriving DecidableEq, Repr

/-- One entry of a host's extent map, under its pool base [51:28] (R110). -/
structure MapEntry where
  extent : BitVec 16
  rights : Rights
  mark : Mark := .none
deriving DecidableEq, Repr

/-- How far a withdrawal or narrowing has come (R134–R142). -/
inductive DrainPhase where
  | marked | recalling
deriving DecidableEq, Repr

/-- A withdrawal, or a narrowing to `goal`, in progress (R134, R142). -/
structure Drain where
  host : BitVec 16
  extent : BitVec 16
  poolBase : BitVec 24
  goal : Option Rights := none
  phase : DrainPhase := .marked
  session : Option (Nat × BitVec 32) := none
  reclaimed : Bool := false
  /-- The tenancy has ended meanwhile: the entry goes with the others, and its event carries `STATUS` 2 (R143, R215). -/
  tenancyEnd : Bool := false
  /-- Lines whose recall or snoop has still to be opened. -/
  todo : List Nat := []
deriving DecidableEq, Repr

/-- Directory states (R153). -/
inductive DState where
  | i | s | e | o
deriving DecidableEq, Repr

/-- One valid directory entry (R153, R193). -/
structure DirEntry where
  tag : BitVec 21
  dstate : DState
  owner : BitVec 11 := 0
  coarse : Bool := false
  sharers : BitVec 64 := 0
  age : BitVec 4 := 0
deriving DecidableEq, Repr

/-- The kind of a request in a line's order. -/
inductive ReqKind where
  | rdS | rdX (atomic : Bool) | upg (atomic : Bool) | rdNc | wrFull
  | evict            -- recall of a victim way (R196)
  | recallFor (host : BitVec 10)   -- withdrawal recall of one host (R137)
  | recallAll        -- tenancy end, change of TRACK (R215, R177)
  | narrow (host : BitVec 10)      -- narrowing snoop (R142)
  | merge            -- home merge of part of a line (R178)
  | acquire          -- home atomic unit's acquisition (R181)
  | recover (dead : BitVec 10)     -- recovery round for a dead owner (R210)
deriving DecidableEq, Repr

/-- Who gets the completion of a request: a fabric host by its message, or an access of the part by its number and the
index of the line within it; nobody for the home's own recalls. -/
inductive Initiator where
  | host (agent : BitVec 10) (tag : BitVec 12)
  | access (id : Nat) (index : Nat)
  | home
deriving DecidableEq, Repr

/-- A request in a line's order (R184). `grantW` records whether the rights in force at ingress included W, and `track` the tracking
value of its class then (R74). -/
structure LineReq where
  kind : ReqKind
  from_ : Initiator
  addr : BitVec 46 := 0
  grantW : Bool := false
  track : Nat := 2
  data : Line := 0
  mask : BitVec 64 := 0
deriving DecidableEq, Repr

/-- A snoop outstanding to a host (R200). -/
structure Snoop where
  host : BitVec 10
  op : CohOp
  mode : SnpMode
  htag : BitVec 13
  asOwner : Bool
  addr : BitVec 46 := 0
deriving DecidableEq, Repr

/-- What a transaction still waits for besides its snoops. -/
inductive TxWait where
  | none
  | way (victim : Nat)     -- a promised way, once the recall of the victim line has ended (R196)
  | anyWay                 -- the first way that becomes unpinned (R812)
  | owner                  -- the owner's own WbM or Evc (R205)
deriving DecidableEq, Repr

/-- The open transaction of a line. -/
structure Tx where
  req : LineReq
  openedAt : Nat := 0
  snoops : List Snoop := []
  wait : TxWait := .none
  /-- Data of the line that an owner has forwarded to the home, or a sharer returned to a recovery round. -/
  fwd : Option Line := none
  /-- The line is known to be poisoned; the requester gets `Nack` 0x5. -/
  poisoned : Bool := false
  /-- An owner answered by forwarding the line to the requester (R170). -/
  forwarded : Bool := false
  /-- The answering owner keeps the line in this state (R162). -/
  ownerKeeps : Option Moesi := none
  /-- Write-backs kept for the answers of their senders, oldest first (R202): sender, tag, written. -/
  wb : List (BitVec 10 × BitVec 12 × Bool) := []
  /-- Sharers that answered a recovery round with data or `Ack` S (R209). -/
  kept : List (BitVec 10) := []
  /-- Hosts to which this transaction has sent `SnpX` or `Recall`: they hold nothing more (R209). -/
  dropped : List Nat := []
  /-- An upgrade served as such (R168); `true` when the holders' data may be newer than memory. -/
  upgrade : Option Bool := none
  /-- Where the `FwdData` that the home itself awaits comes from (R810). -/
  fwdFrom : Option (BitVec 10 × BitVec 13) := none
  /-- Data that an owner has written back during this transaction (R202). -/
  wbData : Option Line := none
  /-- A dead owner whose line a recovery round is trying to recover (R209). -/
  recovering : Bool := false
  /-- The way promised to this transaction once it is free. -/
  wayAt : Option Nat := none
  /-- A host declared dead opened this transaction (R211). -/
  deadReq : Bool := false
deriving DecidableEq, Repr

/-- One line's order: its open transaction and the requests queued behind it, oldest first (R184). -/
structure LineOrd where
  hub : BitVec 3
  tx : Option Tx := none
  queue : List LineReq := []
deriving DecidableEq, Repr

/-- A set's retry record (R193). -/
structure RetryRec where
  agent : BitVec 11
  line : BitVec 40
  expiry : Nat
deriving DecidableEq, Repr

/-- A line that a home atomic unit holds (R181), with its data and its recency. -/
structure AtomLine where
  hub : BitVec 3
  data : Line
  lastUse : Nat := 0
deriving DecidableEq, Repr

/-- The COH registers of one hub that are stored (R219). -/
structure CohHub where
  reclaimDone : Bool := false
  poisoned : BitVec 16 := 0
  /-- By host declared dead, the lines that its reclamation has poisoned. -/
  poisonedNow : SMap Nat := []
deriving DecidableEq, Repr

/-- The part-wide COH registers of H0 (R217, R218). -/
structure CohGlobal where
  timeoutUs : BitVec 14 := 0x1F4
  autoEn : Bool := true
  orphanUs : BitVec 10 := 0x32
  cmdHost : BitVec 10 := 0
  cmdResult : BitVec 2 := 0
  /-- The snoop tag the part gives next. -/
  nextHtag : BitVec 13 := 0
deriving DecidableEq, Repr

/-- What is held at ingress during a partial reset of the home (R797) or a quiesce (R92): a coherence message, or a bulk
request of which every byte has arrived. -/
inductive HeldMsg where
  | coh (host : BitVec 10) (msg : CohMsg)
  | bulkRead (host : BitVec 10) (tag : BitVec 12) (addr bytes : Nat)
  | bulkWrite (host : BitVec 10) (tag : BitVec 12) (addr : Nat) (data : List Byte)
deriving DecidableEq, Repr

/-- A carving command that waits for an earlier one, or whose fill is under way (R121, R124): the session slot and
identifier, the request's sequence number and the command. -/
structure CarveWait where
  slot : Nat
  sid : BitVec 32
  hdr : KmpHdr
  cmd : CarveCmd
deriving DecidableEq, Repr

/-- The carving unit (R121, R145): the fill in progress with its extent, and the commands behind it, oldest first. -/
structure Carver where
  filling : Option (CarveWait × BitVec 16) := none
  queue : List CarveWait := []
deriving DecidableEq, Repr

/-- How far a tenancy end has come (R215). -/
inductive TenEnd where
  | none | draining | recalling
deriving DecidableEq, Repr

/-- Who asked for an access of several lines. -/
inductive AccOwner where
  | bulkRead (host : BitVec 10) (tag : BitVec 12) (addr : Nat) (bytes : Nat)
  | bulkWrite (host : BitVec 10) (tag : BitVec 12) (addr : Nat) (bytes : Nat)
  | queRead (queue id : Nat)
  | queWrite (queue id : Nat)
  | queAtomic (queue id : Nat)
  | engine (unit : Nat) (id : Nat)    -- a stream descriptor, gather or scan of the part
deriving DecidableEq, Repr

/-- The access belongs to a command of queue `q`. -/
def AccOwner.ofQueue (o : AccOwner) (q : Nat) : Bool :=
  match o with
  | .queRead k _ | .queWrite k _ | .queAtomic k _ => k == q
  | _ => false

/-- One line of an access: its piece, its line, the bytes concerned and their place in the transfer; with what ingress found for it: the
pool line, the home hub and the tracking value of its class (R74, R128). -/
structure AccLine where
  piece : Nat
  line : Nat
  pool : Nat := 0
  hub : Nat := 0
  track : Nat := 2
  offset : Nat
  mask : BitVec 64
  data : Line := 0
  done : Bool := false
  poison : Bool := false
deriving DecidableEq, Repr

/-- An access of several lines in progress (R128–R133, R179). -/
structure Access where
  owner : AccOwner
  write : Bool
  /-- The host whose map ingress checked, if any (R119, R135). -/
  host : Option Nat := none
  /-- The host that asked has been declared dead since: it gets no answer (R208, R211). -/
  dead : Bool := false
  lines : List AccLine := []
  /-- Status of each piece so far. -/
  pieces : List PStatus := []
  /-- For an atomic operation: its code, operand and compare value, and the value found. -/
  atop : BitVec 8 := 0
  operand : BitVec 128 := 0
  compare : BitVec 128 := 0
  byteOff : Nat := 0
  /-- A piece was refused because its hub is in partial reset: the completion carries `LOAD` 3 (R797). -/
  load3 : Bool := false
  /-- A queue `WRITE` that ingress has checked and whose data is still being fetched (R130, R320, R354). -/
  fetching : Bool := false
  result : BitVec 128 := 0
deriving DecidableEq, Repr

/-- Bulk write data that has arrived so far (R264): total bytes, first pool address, colour and bytes by offset; a
request refused at its first packet throws its later packets away. -/
structure BulkRx where
  addr : Nat
  bytes : Nat
  got : SMap Byte := []
  discard : Bool := false
deriving DecidableEq, Repr

end Sys2Proof.Machine
end

