-- ==== Sys2Proof/Machine/StateComp.lean ====
section
/-! DEFINITION. StateComp.lean: the state of the clusters, the logical clusters, the jobs, the gates, the gather engines and the
engine translation. -/
namespace Sys2Proof.Machine
open Sys2Proof

/-! ### Logical clusters (R413) -/

/-- The registers of a logical cluster; a register the table does not list holds 0 (R413, R414). -/
structure LcRegs where
  s : SMap DWord := []
  a : SMap DWord := []
  t : SMap (BitVec 128) := []
  v : SMap (BitVec 8192) := []
  sem : SMap (BitVec 16) := []
  pc : BitVec 14 := 0
deriving DecidableEq, Repr

/-- A weight tile in a buffer (R427): element codes and block scales by row, as expanded (R449). -/
structure WTile where
  fmt : Nat
  rows : Nat
  cols : Nat
  elems : List (List Nat)
  scales : List (List Nat)
  /-- The tile runs at the half rate of R452 and R456. -/
  fast : Bool := false
deriving DecidableEq, Repr

/-- A MATRIX operation with the tile descriptors it captured at issue (R419, R426). -/
inductive MatOp where
  | wload (tw : BitVec 128) (buf : Bool) (sparse : BitVec 2)
  | mma (ta out init : BitVec 128) (useInit buf zskip : Bool)
deriving DecidableEq, Repr

/-- A range of staging bytes: first address and length. -/
structure Span where
  lo : Nat
  len : Nat
deriving DecidableEq, Repr

/-- An issued MATRIX operation, with the bitmap that the mogul map of a `WLOAD` held at issue (R454). `tainted` marks a hazard met by its
operands (R440). -/
structure MatIss where
  op : MatOp
  bitmap : List Byte := []
  sem : Nat
  sig : Bool
  tainted : Bool := false
deriving DecidableEq, Repr

/-- A vector operation whose result is not yet written: vector registers or staging bytes (R431, R432). -/
structure VecPend where
  regs : List (Nat × BitVec 8192) := []
  bytes : List (Nat × Byte) := []
  /-- First bundle that may read the result. -/
  ready : Nat := 0
  sem : Nat := 0
  sig : Bool := false
  tainted : Bool := false
deriving DecidableEq, Repr

/-- One page's part of a descriptor's row, in the course of its transfer (R424, R532). -/
inductive SegState where
  | todo                       -- not yet translated
  | missed                     -- in the stream's miss queue
  | held (record : Nat)        -- waits on a fault record
  | sent (access : Nat)        -- an access is in progress or has finished
  | gone                       -- left out: a free address without a translation (R440)
deriving DecidableEq, Repr

/-- A row, or one page's part of it once that page is known: tenant virtual address, bytes and staging address (R532). -/
structure Seg where
  va : Nat
  bytes : Nat
  stg : Nat
  st : SegState := .todo
  /-- The pool address that its access was sent to, and the size of the page that gave it, as a power of two. -/
  dpa : Nat := 0
  page : Nat := 12
  /-- Pool bytes of a read that another logical cluster or an unordered stream writes in the same superstep (R439). -/
  spoilt : List Span := []
deriving DecidableEq, Repr

/-- A queued stream descriptor with the fields of R422 and the pool base taken at issue (R421). -/
structure StreamDesc where
  id : Nat
  kind : Nat
  rows : Nat
  rowBytes : Nat
  /-- Pool base plus `POOL_OFF`, modulo 2^64. -/
  va : DWord
  stride : DWord
  stg : Nat
  stgStride : Nat
  idxAddr : Nat
  stgDst : Nat
  sem : Nat
  sig : Bool
  /-- The stream has begun the descriptor and formed the parts of its rows. -/
  started : Bool := false
  segs : List Seg := []
  tainted : Bool := false
  /-- Its indices are a hazard's free values (R440). -/
  idxFree : Bool := false
  /-- Its bytes or its indices were a hazard's free values (R440): it never faults. -/
  free : Bool := false
  /-- Refused, or failed (R423, R425): the stream stops here. -/
  bad : Bool := false
deriving DecidableEq, Repr

/-- An operation that has completed and that no wait has ordered yet (R436, R440): its unit, the staging bytes it read and wrote, and the
semaphore it signalled. -/
structure PastOp where
  unit : Nat
  /-- The descriptor of a stream. -/
  id : Nat := 0
  /-- Of a vector operation, the bundle from which its result can be read: vector operations complete in that order. -/
  ready : Nat := 0
  sem : Option Nat := none
  reads : List Span := []
  writes : List Span := []
deriving DecidableEq, Repr

/-- An access of a stream to pool memory in the present superstep of its job (R439). -/
structure PoolUse where
  lc : Nat
  stream : Nat
  desc : Nat
  span : Span
deriving DecidableEq, Repr

/-- A descriptor or tile fetch from staging whose bytes may not change within 4 bundles (R440). -/
structure Fetch where
  span : Span
  bundle : Nat
  /-- The tile register loaded, or the stream and identifier of the descriptor. -/
  target : Nat ⊕ (Nat × Nat)
deriving DecidableEq, Repr

/-- What a logical cluster waits for (R447). -/
inductive LcWait where
  | none
  | sem (k : Nat) (n : Nat)
  | fence
  | gate (expert : Nat) (dest : Nat)
  | barrier
  | full (slot : Nat)
deriving DecidableEq, Repr

/-- Where a logical cluster stands in the job's superstep. -/
inductive LcPhase where
  | waiting      -- its superstep is not yet open to it, or it has no physical cluster
  | offered      -- resident, waiting for the energy ledger (R649)
  | running
  | yielded      -- at the barrier or between barrier and admission (R437)
  | halted
deriving DecidableEq, Repr

/-- A saved copy of a logical cluster (R500, R503): the superstep it will run next, its block and its staging. -/
structure LcCopy where
  step : Nat
  regs : LcRegs
  staging : SMap Byte
deriving DecidableEq, Repr

/-- One logical cluster. -/
structure Lc where
  regs : LcRegs := {}
  /-- Staging bytes by address; an unlisted byte is 0. -/
  staging : SMap Byte := []
  phase : LcPhase := .waiting
  /-- The physical cluster: hub and cluster. -/
  place : Option (Nat × Nat) := none
  /-- The physical cluster it ran on last. -/
  ranOn : Nat × Nat := (0, 0)
  since : Nat := 0
  copy : Option LcCopy := none
  wait : LcWait := .none
  /-- Bundles issued, and slots of the present bundle already issued. -/
  bundle : Nat := 0
  slots : BitVec 4 := 0
  /-- A count that `GWAIT` writes as the bundle ends. -/
  late : Option (Nat × DWord) := none
  /-- First bundle that may read each register (R432, R435): scalars, tiles, vectors. -/
  sReady : SMap Nat := []
  tReady : SMap Nat := []
  vReady : SMap Nat := []
  streams : SMap (List StreamDesc) := []
  nextDesc : Nat := 0
  mat : List MatIss := []
  wbuf : SMap WTile := []
  vec : List VecPend := []
  fetches : List Fetch := []
  /-- Staging bytes written by a vector or sequencer store, with the first bundle that may read them (R432, R435). -/
  stored : List (Span × Nat) := []
  /-- Completed operations that no wait has ordered, in the order of their completion. -/
  past : List PastOp := []
  /-- Unit code of the last operation to complete, and per semaphore of the last signaller (R754). -/
  lastUnit : BitVec 16 := 0
  sigBy : SMap (BitVec 16) := []
  digest : DWord := 0
deriving DecidableEq, Repr

/-- One physical cluster: the registers of its CLU block that are stored (R411, R448, R488). -/
structure Clu where
  resident : Option (Nat × Nat) := none      -- job and logical cluster
  job : Option Nat := none                   -- the job it was last loaded for (R411, R495)
  stopped : Bool := false                    -- by its hub's reset or the fatal state
  range : Bool := false
  format : Bool := false
  shape : Bool := false
  align : Bool := false
  semOvf : Bool := false
  superstep : Bool := false
  stream : Bool := false
  trap : Bool := false
  trapCode : BitVec 16 := 0
  metaBad : Bool := false
  aux : Bool := false
deriving DecidableEq, Repr

/-! ### Gates (R464–R475) -/

/-- A token held by a gate or its spill store (R465, R468). -/
structure Token where
  index : BitVec 32
  weight : BitVec 32
  source : BitVec 16
  spilled : Bool := false
  data : List Byte := []
deriving DecidableEq, Repr

/-- One gate: the slots of its open step, and its spill stores. -/
structure Gate where
  slots : List (Option Token) := []
  /-- Tokens spilled in the open step, for the next. -/
  spill : List Token := []
  /-- Tokens of the step that were routed to residual. -/
  residual : List (BitVec 32 × BitVec 16) := []
  /-- The gate has been prepared for its step (R471), with this count of tokens. -/
  prepared : Bool := false
  count : Nat := 0
deriving DecidableEq, Repr

/-- The state of a job's gates in the open step. -/
structure GateStep where
  open_ : Bool := false
  closed : Bool := false
  /-- The gates of the closed step have been prepared (R471). -/
  prepared : Bool := false
  combined : Bool := false
  /-- A token has been accepted in the step. -/
  touched : Bool := false
  /-- Accepted tokens of each source, and the `ARG` of each `CLOSE`. -/
  accepted : SMap Nat := []
  closes : SMap Nat := []
  /-- Tokens that reached a gate: index, expert, source. -/
  reached : List (BitVec 32 × Nat × BitVec 16) := []
  /-- The source whose packet completed the close. -/
  closedBy : BitVec 16 := 0
  /-- Rows that the combine adds to, as token and access (R473), and the accesses that write the combined rows. -/
  reads : List (Nat × Nat) := []
  writes : List Nat := []
deriving DecidableEq, Repr

/-! ### Jobs (R489–R517) -/

/-- `JSTATE` (R491). -/
inductive JState where
  | none | loading | loaded | launchPending | running | held | ended | faulted
deriving DecidableEq, Repr

/-- One extent reference of a job as its tables map it (R445, R528). -/
structure JRef where
  extent : Nat
  rights : Nat
  role : Nat
  va : Nat
  mapped : Bool := true
  hold : Bool := false
deriving DecidableEq, Repr

/-- A queue command that waits on a job. -/
structure JCmd where
  queue : Nat
  id : Nat
deriving DecidableEq, Repr

/-- The launch under way (R497, R514). -/
structure Launch where
  cmd : JCmd
  time : BitVec 64 := 0
  saveAtYield : Bool := false
  divContinue : Bool := false
  peerDev : Nat := 0
  pairId : BitVec 32 := 0
  /-- Accesses that read the inputs, in reference order, until the digest is formed; then the staging regions. -/
  inputs : Option (List Nat) := none
  digested : Bool := false
  /-- `LOCKED` was 1 when the launch was accepted. -/
  locked : Bool := false
  helloSent : Bool := false
  helloOk : Bool := false
  regions : Option (List Nat) := none
deriving DecidableEq, Repr

/-- A checkpoint asked for (R508). -/
structure Ckpt where
  cmd : JCmd
  host : Nat
  area : Nat
  hold : Bool
  /-- The superstep at whose barrier it is due. -/
  step : Nat
  /-- The accesses that write it, once it is under way. -/
  accs : Option (List Nat) := none
deriving DecidableEq, Repr

/-- The first divergence of a job (R515). -/
structure Diverge where
  step : BitVec 20
  lc : BitVec 10
  own : DWord
  peer : DWord
  hub : BitVec 3
  cluster : BitVec 4
deriving DecidableEq, Repr

/-- One job. -/
structure Job where
  state : JState := .none
  cause : Nat := 0
  flags : BitVec 5 := 0
  faultLc : BitVec 16 := 0
  trapCode : BitVec 16 := 0
  image : List Byte := []
  watchdogMs : Nat := 0
  saveHubs : List Nat := []
  /-- Space of R496 is reserved. -/
  reserved : Bool := false
  refs : List JRef := []
  /-- Pages of its translation tables, as DPA / 4096; the level-4 table first (R529). -/
  pages : List Nat := []
  /-- A shootdown of its whole context has not completed since it was unloaded (R543). -/
  retiring : Bool := false
  launch : Option Launch := none
  /-- Its launch instant has come since it was loaded (R498). -/
  launched : Bool := false
  saveAtYield : Bool := false
  divContinue : Bool := false
  peerDev : Nat := 0
  pairId : BitVec 32 := 0
  inputs : BitVec 128 := 0
  /-- Bytes of the staging regions taken from extents, by region, as read for the launch. -/
  regionBytes : SMap (List Byte) := []
  step : Nat := 0
  lastDone : Option Nat := none
  /-- The logical cluster that reached the barrier last. -/
  lastArrived : Nat := 0
  /-- The superstep is open to the ledger. -/
  offered : Bool := false
  /-- Own digests of the superstep whose barrier has opened, while the peer's are compared (R515). -/
  comparing : Option (List DWord) := none
  /-- The peer's digests that have arrived, by superstep and logical cluster. -/
  peerDigests : SMap DWord := []
  diverge : Option Diverge := none
  waits : List JCmd := []
  aborts : List JCmd := []
  unload : Option JCmd := none
  /-- Checkpoints asked for, the one under way first. -/
  ckpts : List Ckpt := []
  gates : GateStep := {}
  /-- Spilled tokens of the step just combined, by expert. -/
  spilledIn : SMap (List Token) := []
  /-- Accesses that write the digest records. -/
  records : List Nat := []
  /-- Pool bytes that streams have written in the present superstep (R439). -/
  wrote : List PoolUse := []
  /-- Pool bytes that streams have read in the present superstep. -/
  read : List PoolUse := []
deriving DecidableEq, Repr

/-- How far a `JLOAD` has come (R492). -/
inductive LoadPhase where
  | image
  | weights
  | head
  | body
deriving DecidableEq, Repr

/-- A `JLOAD` in progress. -/
structure JLoad where
  cmd : JCmd
  host : Nat
  ckptAddr : Nat
  bytes : Nat
  watchdogMs : Nat
  phase : LoadPhase := .image
  /-- Accesses asked for, in order. -/
  accs : List Nat := []
  job : Option Nat := none
deriving DecidableEq, Repr

/-! ### Gather engines (R477–R483) -/

/-- A gather or selection held by a hub's engine. -/
structure Gather where
  host : BitVec 10
  gtag : BitVec 12
  select : Bool := false
  /-- `GOP` of a gather, `K` of a selection. -/
  op : Nat := 0
  /-- `EFMT` or `SFMT`. -/
  fmt : Nat := 0
  /-- Rows to read, bytes of a row, and the pool address of row 0. -/
  count : Nat := 0
  rowBytes : Nat := 0
  addr : Nat := 0
  /-- Data of the request by packet index, until all of it has arrived. -/
  parts : SMap (List Byte) := []
  started : Bool := false
  /-- The row numbers in list order, and the query of a selection. -/
  idx : List Nat := []
  query : List Word := []
  blockAddr : Nat := 0
  blockBytes : Nat := 0
  ret : Bool := false
  /-- The accesses of the rows, in list order; then, for a selection, its list and the accesses of the returned blocks. -/
  rows : List Nat := []
  list : Option (List (Word × Word)) := none
  blocks : List Nat := []
deriving DecidableEq, Repr

/-- The SLG registers of one hub (R485–R487) and its gather engine. -/
structure Slg where
  late : BitVec 8 := 0
  unknown : BitVec 8 := 0
  residual : BitVec 8 := 0
  gatherRefused : BitVec 8 := 0
  faultExpert : BitVec 12 := 0
  faultCause : BitVec 4 := 0
  faultJob : BitVec 12 := 0
  faultValid : Bool := false
  gathers : List Gather := []
deriving DecidableEq, Repr

/-! ### Engine translation (R524–R549) -/

/-- A translation held in a buffer (R530). -/
structure TlbEnt where
  job : Nat
  /-- Page size as a power of two: 12, 21 or 30. -/
  shift : Nat
  vpn : Nat
  dpa : Nat
  rights : BitVec 3
deriving DecidableEq, Repr

/-- A miss that waits for a walker or on a record: cluster, stream, descriptor and segment. `table` is the level-1 table that it walks alone,
after a joined walk ended in another page of it (R534). -/
structure Miss where
  job : Nat
  lc : Nat
  cluster : Nat
  stream : Nat
  desc : Nat
  seg : Nat
  va : Nat
  write : Bool
  table : Option Nat := none
deriving DecidableEq, Repr

/-- A walk in progress, between the reads of two levels: its miss, and the level and table that it reads next (R535, R544). -/
structure WalkOn where
  miss : Miss
  level : Nat
  table : Nat
deriving DecidableEq, Repr

/-- A fault record (R537), with the pool time at which it opened. -/
structure FaultRec where
  id : Nat
  job : Nat
  level : Nat
  va : Nat
  opened : Nat
  waiters : List Miss := []
deriving DecidableEq, Repr

/-- `TR_FAULT_LOG` with the VA behind it (R549). -/
structure FaultLog where
  kind : BitVec 3 := 0
  level : BitVec 2 := 0
  stream : BitVec 3 := 0
  cluster : BitVec 4 := 0
  job : BitVec 12 := 0
  va : BitVec 64 := 0
  valid : Bool := false
deriving DecidableEq, Repr

/-- The translation hardware of one hub. Each buffer lists its most recently used entry first. -/
structure Trn where
  micro : SMap (List TlbEnt) := []
  cluster : SMap (List TlbEnt) := []
  second : SMap (List TlbEnt) := []
  /-- Queued misses, oldest first. -/
  misses : List Miss := []
  /-- Walks in progress, and the stream served last in the rotation (R534). -/
  walks : List WalkOn := []
  lastWalk : Nat := 111
  records : List FaultRec := []
  nextRec : Nat := 0
  holdLimitMs : BitVec 8 := 0x0A
  log : FaultLog := {}
deriving DecidableEq, Repr

/-- A shootdown: a job, and the whole context or a range of 2 MiB units (R541). -/
structure Shoot where
  job : Nat
  range : Option (Nat × Nat) := none
  /-- The hubs that take part (R541, R544). -/
  hubs : List Nat := []
  /-- Transfers sent before the entries were removed that have not finished. -/
  sent : List Nat := []
deriving DecidableEq, Repr

/-- `TR_SHOOT`, `TR_SHOOT_BASE` and the shootdowns in progress and waiting (R544, R547). -/
structure Shooter where
  job : BitVec 12 := 0
  scope : Bool := false
  go : Bool := false
  done : Bool := false
  count : BitVec 17 := 0
  base : BitVec 27 := 0
  now : Option Shoot := none
  queue : List Shoot := []
deriving DecidableEq, Repr

/-- A token of a source whose later parts are awaited (R463): its job, gate entry and index, the next part, and whether it was accepted. -/
structure Arriving where
  job : Nat
  gate : List Byte
  index : BitVec 32
  next : Nat
  accepted : Bool
deriving DecidableEq, Repr

/-- The part-wide JOB registers of H0 (R518), the loads in progress, and the slalom's order of packets by source. -/
structure JobGlobal where
  loads : List JLoad := []
  /-- By source, the token that it has not sent whole. -/
  arriving : SMap Arriving := []
  /-- `PHELLO`s that have arrived, by `PAIR_ID`: body and launch time. -/
  hellos : SMap (List Byte × BitVec 64) := []
deriving DecidableEq, Repr

end Sys2Proof.Machine
end

