-- ==== Sys2Proof/Machine/StateOut.lean ====
section
/-! DEFINITION. StateOut.lean: what the part sends and drives, as the model records it. -/
namespace Sys2Proof.Machine
open Sys2Proof

/-- One thing the part sends to the outside. -/
inductive Out where
  | cell (port : Nat) (width : BitVec 2) (bytes : List Byte)     -- a ZL cell, in a codeword of this `WIDTH`
  | coh (host : BitVec 10) (m : CohMsg)              -- a coherence message, as handed to transport
  | probe (host : BitVec 10) (port : Nat) (reply : Bool) (number : BitVec 32)
  | bulkData (host : BitVec 10) (tag : BitVec 12) (boff : BitVec 16) (status : PStatus) (rsb : Byte) (data : List Byte)
  | bulkDone (host : BitVec 10) (tag : BitVec 12) (status : PStatus) (rsb : Byte) (vec : BitVec 256)
  | queDone (queue : Nat) (slot : QSlot) (sqFree : BitVec 8) (rsb : Byte)      -- a completion-ring slot
  | queRefused (host : BitVec 10) (queue : Nat) (reason : BitVec 8) (backoff : BitVec 4) (rsb : Byte)
  | eth (port : Nat) (f : TxFrame) (m : EthMsg)       -- a frame, other than a PFC frame
  | pfc (port : Nat) (cls : Nat) (quanta : BitVec 16)
  | spdm (host : BitVec 10) (r : SpdmResp)                 -- an SPDM response over ZL
  | spdmPeer (dev : BitVec 8) (r : SpdmResp)               -- an SPDM response to a pairs peer
  | seal (host : BitVec 10) (lvc : BitVec 3) (tseq : BitVec 24) (lap : Nat) (tags : List (List Byte))
  | syncOut (bits : BitVec 80)                             -- a frame on `SYNC_OUT`
  | ibi (cause : BitVec 3)                                 -- an I3C in-band interrupt
  | i3cRead (value : Word)
  | entdaa (pid : BitVec 48) (bcr dcr : BitVec 8)          -- the provisional ID that the target sends in `ENTDAA`
  | tack (dst : BitVec 12) (lvc : BitVec 3) (cum : BitVec 24) (sack : BitVec 64)
deriving DecidableEq, Repr

end Sys2Proof.Machine
end

