-- ==== Sys2Proof/Machine/StateSys.lean ====
section
/-! DEFINITION. StateSys.lean: the state of the structure image, the firmware, the tenancy and the power units. -/
namespace Sys2Proof.Machine
open Sys2Proof

/-- `SI_STATUS.STATE` (R83). -/
inductive SiState where
  | idle | staging | validated | quiescing | health | pendingReset | returning
deriving DecidableEq, Repr

/-- A structure image: its size and its bytes by offset, zeros left out (R48). -/
structure SiImage where
  size : Nat
  bytes : SMap Byte
deriving DecidableEq, Repr

/-- The session that owns a staging buffer: its slot and identifier (R71, R711). -/
structure BufOwner where
  slot : Nat
  sid : BitVec 32
deriving DecidableEq, Repr

/-- A staging buffer: its owner, the bytes written since it was opened (zeros left out) and the highest end offset of any
chunk (R71, R711). -/
structure StageBuf where
  owner : BufOwner
  bytes : SMap Byte := []
  top : Nat := 0
deriving DecidableEq, Repr

/-- The units that a commit or return in progress holds (R92, R98, R339). Hubs as bits; deep channels as hub × 2 + channel. -/
structure SiHolds where
  hubs : BitVec 8 := 0
  e0 : Bool := false
  e1 : Bool := false
  ports : BitVec 32 := 0
  /-- Classes whose requests wait at ingress. -/
  classes : BitVec 16 := 0
  /-- Classes whose lines the directories recall. -/
  recalls : BitVec 16 := 0
  queues : List Nat := []
  clusters : BitVec 112 := 0
  /-- Deep channels that have still to be retrained, the one held now first. -/
  channels : List Nat := []
  /-- Hubs whose clusters wait for saves to leave a released save area. -/
  saves : BitVec 8 := 0
  exports : Bool := false
deriving DecidableEq, Repr

/-- A request to open a tenancy epoch that a commit holds (R98, R681): session slot and identifier, whether the asker held
`OPERATOR`, `TENANT_CARVE` and the modulus. -/
structure HeldEpoch where
  slot : Nat
  sid : BitVec 32
  may : Bool
  carve : Bool
  modulus : BitVec 4096
deriving DecidableEq, Repr

/-- A packet for the slalom unit or the gather engine of a hub that a quiesce holds (R92), as it arrived. -/
inductive EngineMsg where
  | token (hub : Fin 8) (src : BitVec 10) (job expert : BitVec 12) (token weight : Word) (step : BitVec 20) (part : BitVec 16)
      (data : List Byte)
  | close (hub : Fin 8) (src : BitVec 10) (job : BitVec 12) (count : Word) (step : BitVec 20)
  | gather (hub : Fin 8) (host : BitVec 10) (gtag : BitVec 12) (gop : BitVec 2) (efmt rowUnits : BitVec 8) (count : BitVec 16)
      (table : BitVec 52) (part : Fin 16) (data : List Byte)
  | select (hub : Fin 8) (host : BitVec 10) (gtag : BitVec 12) (k sfmt : BitVec 8) (d : BitVec 16) (sumAddr : BitVec 52)
      (part : BitVec 8) (data : List Byte)
deriving DecidableEq, Repr

/-- The structure-image unit (R69–R86, R103). Of the flash: the two images, and the slot record with its marks. -/
structure Si where
  state : SiState := .idle
  /-- An image, not the base image, is in force. -/
  committed : Bool := false
  /-- The image in force. -/
  inForce : Option SiImage := none
  /-- The slot record's current image; while an image awaits reset it is not yet in force (R70, R72). -/
  cur : Option SiImage := none
  prev : Option SiImage := none
  awaiting : Bool := false
  healthMark : Bool := false
  maxSerial : BitVec 64 := 0
  commitTime : BitVec 64 := 0
  stage : Option StageBuf := none
  lastResult : BitVec 4 := 0
  /-- `COMMIT_ON_RESET` has been accepted since the last package reset: CAUSE 6 stays, even where it has been abandoned (R77). -/
  resetCause : Bool := false
  healthFail : Bool := false
  returned : Bool := false
  failedCheck : BitVec 3 := 0
  lock : Bool := false
  change : Word := 0
  /-- True time at which the health window opened; the window may be open while a new commit quiesces no further. -/
  healthAt : Option Nat := none
  /-- The operator message of check 5 has come (R78). -/
  mgmtSeen : Bool := false
  hold : SiHolds := {}
  /-- Classes whose carving commands are refused for retry while a commit is accepted (R98). -/
  refusedClasses : BitVec 16 := 0
  heldEpoch : Option HeldEpoch := none
  /-- Packets that wait for the engines of held hubs, oldest first. -/
  heldEngine : List EngineMsg := []
  /-- The return in progress was asked for by a check (R79) rather than by `REVERT`. -/
  returnCheck : BitVec 3 := 0
deriving DecidableEq, Repr

/-- A firmware image of one component: version, security version number and plaintext (R703, R705, R709). -/
structure FwImage where
  version : BitVec 32
  svn : BitVec 32
  bytes : List Byte
deriving DecidableEq, Repr

/-- A restart in progress (R713, R714, R719): the unit (`none`: the security processor) and when it began. -/
structure FwRestart where
  hub : Option Nat
  since : Nat
deriving DecidableEq, Repr

/-- The firmware unit: banks and update record in flash, the staging buffer and the procedure (R703–R727). Hubs as bits. -/
structure Fw where
  /-- CAUSE 5 is raised from `START` until confirmation or abandonment (R713). -/
  cause : Bool := false
  /-- The security processor does not run. -/
  spDown : Bool := true
  hcA : Option FwImage := none
  hcB : Option FwImage := none
  spA : Option FwImage := none
  spB : Option FwImage := none
  /-- Active banks: false for A. -/
  hcBank : BitVec 8 := 0
  spBank : Bool := false
  /-- `FW_SVN` (R705). -/
  svn : BitVec 32 := 0
  /-- `PHASE` (R717). -/
  phase : BitVec 3 := 0
  pendHc : Option FwImage := none
  pendSp : Option FwImage := none
  /-- Hubs and security processor taken to the pending versions in this procedure. -/
  done : BitVec 8 := 0
  spDone : Bool := false
  stage : Option StageBuf := none
  /-- Images that `VERIFY` has checked and is writing to the standby banks. -/
  writing : Bool := false
  lastResult : BitVec 4 := 0
  /-- The hub whose clusters are held for its restart (step 1 of R713). -/
  yielding : Option Nat := none
  restart : Option FwRestart := none
  /-- Units that a return has still to restart, in order; `none` is the security processor (R719). -/
  returning : List (Option Nat) := []
  /-- The result that the return in progress leaves. -/
  returnResult : BitVec 4 := 0
deriving DecidableEq, Repr

/-- `TEN_STATUS.STATE` (R680). -/
inductive TenState where
  | dirty | clean | open_ | ending | resurfacing
deriving DecidableEq, Repr

/-- A resurfacing record (R685). -/
structure Resurf where
  epoch : BitVec 64
  start : BitVec 64
  end_ : BitVec 64
  stackSlots : BitVec 32
  deepSlots : BitVec 32
  poisoned : BitVec 32
  incomplete : Bool
deriving DecidableEq, Repr

/-- The link keys of one fabric host (R671, R677, R691): from the part to the host and from the host to the part, and per flow the laps of `TSEQ` since the key
exchange in each direction. -/
structure LinkKey where
  txKey : Nat
  rxKey : Nat
  txLap : SMap Nat := []
  rxLap : SMap Nat := []
deriving DecidableEq, Repr

/-- A GCM tag of one packet of a host's flow (R691, R692). -/
structure SealTag where
  host : BitVec 10
  lvc : BitVec 3
  lap : Nat
  tseq : BitVec 24
  tag : List Byte
  /-- A retransmission's tag goes in a `SEAL` of its own. -/
  alone : Bool := false
deriving DecidableEq, Repr

/-- An SPDM requester (R676): over KMP, by port and address with the session that carries it; over ZL, a fabric host or a pairs
peer. -/
inductive SpdmFrom where
  | kmp (port : Bool) (ip : BitVec 128)
  | zl (host : BitVec 10)
  | peer (dev : BitVec 8)
deriving DecidableEq, Repr

/-- A key exchange in progress (R671, R688). -/
structure SpdmExch where
  /-- Of a KMP session to come, its slot (R330). -/
  slot : Option Nat := none
  reqSid : BitVec 16
  rspSid : BitVec 16
  both : Bool
  /-- The key of the requester's chain, once delivered and verified. -/
  root : Option (BitVec 4096) := none
deriving DecidableEq, Repr

/-- What the responder keeps of one requester (DSP0274): how far negotiation has come, the key exchange, a large request coming in
chunks and a large response going out in chunks. -/
structure SpdmSt where
  level : Nat := 0
  exch : Option SpdmExch := none
  chunkIn : Option (BitVec 8 × Nat × List Byte) := none
  chunkOut : Option (BitVec 8 × List Byte) := none
  nextHandle : BitVec 8 := 0
deriving DecidableEq, Repr

/-- SPDM fragments of one host under way (R690): message number, next index and bytes. -/
structure SpdmFrag where
  mseq : BitVec 24
  next : Nat := 0
  bytes : List Byte := []
  whole : Bool := false
deriving DecidableEq, Repr

/-- The tenancy unit (R671–R702). -/
structure Ten where
  state : TenState := .dirty
  /-- Operator key slots: modulus and usage mask (R673). -/
  slots : SMap (BitVec 4096 × BitVec 4) := []
  /-- The tenant key and `TENANT_CARVE` of the open epoch. -/
  tenantKey : Option (BitVec 4096) := none
  tenantCarve : Bool := false
  keyWin : SMap Word := []
  lastResult : BitVec 4 := 0
  epoch : BitVec 64 := 0
  /-- The last resurfacing record (R685). -/
  record : Option Resurf := none
  /-- Pool time of step 1 of the resurfacing in progress. -/
  startedAt : BitVec 64 := 0
  unkeyed : BitVec 16 := 0
  tagFail : BitVec 16 := 0
  links : SMap LinkKey := []
  /-- Sealed packets that wait for their tags, with their ports (R692). -/
  sealedHeld : List (Nat × Packet) := []
  /-- Tags that came before their packets. -/
  tagsIn : List SealTag := []
  /-- Tags of packets sent whose `SEAL` has not been sent. -/
  tagsOut : List SealTag := []
  spdm : List (SpdmFrom × SpdmSt) := []
  frags : SMap SpdmFrag := []
  /-- The pairs peers, by `DEV_NUM`, with which the exchange of R694 is complete. -/
  peers : List (BitVec 8) := []
  /-- SPDM messages sent so far (the model's own field, notes/assumptions/6.md). -/
  spdmSent : Nat := 0
deriving DecidableEq, Repr

/-- Destroys a host's link keys, with the tags and sealed packets that belong to them (R208, R671). -/
def Ten.dropLink (t : Ten) (h : Nat) : Ten :=
  { t with
    links := t.links.erase h, sealedHeld := t.sealedHeld.filter (fun x => x.2.src.toNat != h),
    tagsIn := t.tagsIn.filter (fun x => x.host.toNat != h), tagsOut := t.tagsOut.filter (fun x => x.host.toNat != h),
    frags := t.frags.erase h }

/-- The selector registers of one path (R679); `memCh` and `que` by hub. -/
structure Sel where
  job : BitVec 12 := 0
  que : SMap (BitVec 11) := []
  meter : BitVec 11 := 0
  memCh : SMap (BitVec 6) := []
  pathHost : BitVec 10 := 0
  deadHost : BitVec 10 := 0
  rlogIndex : BitVec 13 := 0
  /-- Tenant view: the samples of counting fields and counters, by key, with their times (R697, R766). -/
  samples : SMap (Nat × Nat × Nat) := []
deriving DecidableEq, Repr

/-- A charge that a physical cluster of the hub holds (R649): cluster, energy class and µJ as last computed. -/
structure Charge where
  cluster : Nat
  eclass : Nat
  uj : Nat
deriving DecidableEq, Repr

/-- The power record of one hub (R634–R666). Clock steps are numbered 0–14: 700 + 100 × step MHz. -/
structure PwrHub where
  activeB : Bool := false
  /-- Causes for which the snowplough acts, not yet cleared. -/
  causes : List SnowCause := []
  snowSince : Nat := 0
  /-- Since when the time of its action is not yet in the counter (R765). -/
  snowMark : Nat := 0
  /-- The snowplough cap while it acts or climbs. -/
  snowCap : Option Nat := none
  poolThr : Bool := false
  duty : Nat := 0
  tj : BitVec 8 := 0
  thermalStep : Nat := 0
  /-- Since when the thermal cap has stayed below `CLK_MAX_MHZ`. -/
  belowSince : Option Nat := none
  firstUse : Bool := true
  switchovers : BitVec 16 := 0
  trips : BitVec 16 := 0
  /-- The next ledger window is the first after a start (R646). -/
  firstWindow : Bool := true
  poolUj : Nat := 0
  computeUj : Nat := 0
  charges : List Charge := []
deriving DecidableEq, Repr

/-- `PWR_SNOW_LOG` (R667). -/
structure SnowLog where
  cause : BitVec 3 := 0
  hub : BitVec 3 := 0
  feed : Bool := false
  escalated : Bool := false
  valid : Bool := false
deriving DecidableEq, Repr

/-- The part-wide power record (R633–R640, R663–R668). -/
structure Pwr where
  feedAOk : Bool := false
  feedBOk : Bool := false
  ampsA : BitVec 9 := 0
  ampsB : BitVec 9 := 0
  holdB : Bool := false
  cmdResult : BitVec 2 := 0
  log : SnowLog := {}
  /-- The fatal fault is a temperature of 112 °C; at the end of its sequence every regulator but those of the always-on domain is off,
  until a package reset (R644). -/
  overTemp : Bool := false
  shutOff : Bool := false
deriving DecidableEq, Repr

end Sys2Proof.Machine
end

