-- ==== Sys2Proof/Machine/StateZl.lean ====
section
/-! DEFINITION. StateZl.lean: the state of the ZL ports (link layer, credits, windows), of the transport flows and of the
paths to fabric hosts, and of the pool-time source. -/
namespace Sys2Proof.Machine
open Sys2Proof

/-- Link states (R243, R252): `STATE` 0–7 in order. -/
inductive LinkState where
  | disabled | down | training | align | handshake | up | widthChange | retraining
deriving DecidableEq, Repr

/-- A change of the link this end has asked for (R245): a width change to a mask, or a retrain. -/
inductive LinkReq where
  | width (mask : BitVec 8)
  | retrain
deriving DecidableEq, Repr

/-- A packet partly received on one VC (R266): its head, and the body cells so far; `discarding` while every cell up to
the next head is thrown away. -/
structure Partial where
  head : HeadBody
  bodies : List (BitVec 256) := []
  discarding : Bool := false
deriving DecidableEq, Repr

/-- One beacon's offset as computed under R293, with its arrival (true time). -/
structure OffsetSample where
  at_ : Nat
  offset : Int
deriving DecidableEq, Repr

/-- One ZL port: the link layer (R226–R255) and the fabric layer above it (R265–R277, R292). -/
structure ZlPort where
  state : LinkState := .disabled
  laneMask : BitVec 8 := 0
  nakPending : Bool := false
  abandoned : Bool := false
  eseq : BitVec 12 := 0
  -- sender
  nextSeq : BitVec 12 := 0
  /-- Outstanding sequenced cells, oldest first: at most 2,048 (R232). -/
  replay : List (BitVec 12 × CellBody) := []
  /-- Sequenced cells other than those of packets that wait for room in the replay buffer. -/
  seqWait : List CellBody := []
  -- link changes
  request : Option LinkReq := none
  granted : Option LinkReq := none
  /-- The mask that the receive direction takes once a codeword with its `WIDTH` comes (R248). -/
  rxNext : Option (BitVec 8) := none
  nakSeq : Option (BitVec 12) := none
  nakRepeats : Nat := 0
  unacked : Nat := 0
  ackDue : Bool := false
  /-- The down timer is stopped (R240). -/
  timerStopped : Bool := false
  usableTx : BitVec 8 := 0
  usableRx : BitVec 8 := 0
  txMask : BitVec 8 := 0
  /-- The next link-up starts afresh under R231; a retrain keeps sequences and buffers (R249). -/
  fresh : Bool := true
  trainId : BitVec 32 := 0
  -- control and error registers
  narrowMask : BitVec 8 := 0xFF
  nakResendUs : BitVec 4 := 1
  laneErrThr : BitVec 8 := 0x10
  uncorr : BitVec 12 := 0
  replays : BitVec 10 := 0
  proto : BitVec 8 := 0
  -- fabric layer
  windowMode : Bool := false
  fallback : Bool := false
  initSeen : BitVec 8 := 0
  creditSeen : Bool := false
  /-- The 100 µs after link-up have not passed (R274). -/
  initOpen : Bool := false
  /-- `INIT` credits are due at the next link-up that keeps its sequences, for a commit that met the port out of Up (R273). -/
  initDue : Bool := false
  /-- Sender credits per VC (R269). -/
  credits : SMap Nat := []
  /-- Credits the peer holds for this port's buffer, per VC (R272). -/
  peerCredits : SMap Nat := []
  /-- Cells of each VC that have left the buffer and await return (R271). -/
  owed : SMap Nat := []
  /-- The packet partly received on each VC. -/
  assembling : SMap Partial := []
  /-- Packets that wait for credits, replay room or the link, oldest first. -/
  waiting : List Packet := []
  /-- Packets that a quiesce of the port keeps back, oldest first (R92). -/
  parked : List Packet := []
  overflow : BitVec 8 := 0
  framing : BitVec 8 := 0
  misroute : BitVec 8 := 0
  windowDrop : BitVec 8 := 0
  -- beacons
  peerTx : BitVec 64 := 0
  peerAt : BitVec 64 := 0
  peerStratum : BitVec 4 := 15
  offsets : List OffsetSample := []
  /-- Beacons echoing a time before this pool time are not used (R293). -/
  echoFloor : BitVec 64 := 0
deriving DecidableEq, Repr

/-- A packet the sender keeps until it is acknowledged (R278). -/
structure OutPkt where
  pkt : Packet
  port : Nat
  sentAt : Nat
  resent : Bool := false
  /-- Retransmitted on SACK at this instant (at most once per round trip, R282). -/
  sackAt : Option Nat := none
  /-- `LAP` and tag of a sealed packet (R691). -/
  tag : Option (Nat × List Byte) := none
deriving DecidableEq, Repr

/-- One flow, both directions between the part and another endpoint on one `LVC` (R258, R278–R283). -/
structure Flow where
  nextTseq : BitVec 24 := 0
  started : Bool := false
  out : List OutPkt := []
  srtt : Option Nat := none
  rttvar : Nat := 0
  rto : Nat := 20000
  recvNext : BitVec 24 := 0
  /-- Packets held out of order, with the port each came by. -/
  reorder : List (Nat × Packet) := []
  ackOwed : Nat := 0
deriving DecidableEq, Repr

/-- One path of a host (R284). -/
structure PathSt where
  /-- A probe has been answered since the link came up, or since the path was last lost. -/
  probed : Bool := false
  lost : Bool := false
  /-- The last probe number sent, and the last one before the present link-up. -/
  probe : BitVec 32 := 0
  since : BitVec 32 := 0
  /-- Probes sent in a row with packets outstanding and not answered (R286). -/
  unanswered : Nat := 0
deriving DecidableEq, Repr

/-- What transport holds of one fabric host (R275–R277, R284–R288). -/
structure HostSt where
  primary : PathSt := {}
  secondary : PathSt := {}
  onSecondary : Bool := false
  allLost : Bool := false
  /-- Latest `WND` from the peer, or none yet (R276). -/
  peerWnd : Option (BitVec 16) := none
  /-- Packets that wait for the window. -/
  waiting : List Packet := []
  /-- Slots reserved for this host pair (R277). -/
  reserved : Nat := 0
  /-- The window-mode port on which they were reserved. -/
  reservedPort : Nat := 0
  dead : Bool := false
  /-- Hubs still reclaiming for the host (R212). -/
  reclaiming : List Nat := []
deriving DecidableEq, Repr

/-- The part-wide ZLF registers (R298–R301). -/
structure ZlGlobal where
  hold : Bool := false
  holdReason : BitVec 2 := 0
  startup : Bool := true
  pathHoldUs : BitVec 10 := 0x14
  devNum : BitVec 8 := 0
  idLock : Bool := false
  stratum : BitVec 4 := 15
  locked : Bool := false
  source : BitVec 2 := 0
  sourcePort : BitVec 5 := 0
  offsetNs : BitVec 16 := 0
  /-- Offsets of the last 8 SYNC_IN frame edges (R295). -/
  syncOffsets : List OffsetSample := []
  /-- The mean offset has stayed within ±2 ns since this instant. -/
  meanInSince : Option Nat := none
  ptpAvailable : Bool := false
deriving DecidableEq, Repr

end Sys2Proof.Machine
end

