-- ==== Sys2Proof/Machine/State.lean ====
section
/-! DEFINITION. State.lean: the state of the part, as plain data, and the state after reset. -/
namespace Sys2Proof.Machine
open Sys2Proof

/-- The reasons the block stops with a fault: none. Every command of the spec completes in a next state, since a fatal
fault of the part is itself a state (R37); so the type has no constructor. -/
inductive Fault where
deriving DecidableEq, Repr

/-- The reasons a command is refused. -/
inductive Refusal where
  /-- Raised by the dispatch alone, for a row of the table that has no meaning yet, named as the table names it. Safe:
  nothing can be proved about a run that stops here. -/
  | notModelled (mnemonic : String)
deriving DecidableEq, Repr

/-- The whole state. -/
structure State where
  /-- Commands that wait, first in, first out. -/
  pending : List Instr := []
  fuses : Fuses := {}
  sys : Sys := {}
  hubs : SMap HubInfo := []
  clk : Clocks := {}
  traceUnits : SMap TraceUnit := []
  traceHubs : SMap TraceHub := []
  trig : Trigger := {}
  counters : SMap Counter := []
  /-- Resets of whole groups of counters, by hub × 256 + block: how many, and when the last was (R773). -/
  cntGroups : SMap (Nat × Nat) := []
  mbx : SMap Mbx := []
  jtag : Jtag := {}
  i3c : I3c := {}
  zl : SMap ZlPort := []
  flows : SMap Flow := []
  hosts : SMap HostSt := []
  zlg : ZlGlobal := {}
  /-- Packets that transport has delivered to the layer above, with the port they came by, oldest first (R280). -/
  delivered : List (Nat × Packet) := []
  slots : SMap SlotState := []
  extents : SMap Extent := []
  maps : SMap (SMap MapEntry) := []
  drains : List Drain := []
  carver : Carver := {}
  dir : SMap DirEntry := []
  lines : SMap LineOrd := []
  retry : SMap RetryRec := []
  atom : SMap AtomLine := []
  cohHubs : SMap CohHub := []
  /-- Messages held for a hub in partial reset, oldest first. -/
  heldMsgs : SMap (List HeldMsg) := []
  coh : CohGlobal := {}
  accesses : SMap Access := []
  nextAccess : Nat := 0
  bulkRx : SMap BulkRx := []
  tenEnd : TenEnd := .none
  /-- Stored bytes by storage address, in canonical form: addresses strictly rise and no entry is 0 (an unlisted
  address stores 0). -/
  mem : List Host.Cell := []
  /-- What is kept of each stored line, by storage address / 64. -/
  lineMeta : SMap LineMeta := []
  /-- The units of each slot, by hub and slot number (R104). -/
  units : SMap UnitBits := []
  ranks : SMap RankInfo := []
  chans : SMap MemChan := []
  memHubs : SMap MemHub := []
  lift : Lift := {}
  integ : Integ := {}
  /-- Generation of the memory key in use: 0 while memory is not encrypted (R686). -/
  memKey : Nat := 0
  eth : SMap EthPort := []
  qps : SMap Qp := []
  kmp : SMap KmpSession := []
  queues : SMap Queue := []
  queHubs : SMap QueHub := []
  meters : SMap Meter := []
  ethg : EthGlobal := {}
  lcs : SMap Lc := []
  clus : SMap Clu := []
  jobs : SMap Job := []
  gates : SMap Gate := []
  slg : SMap Slg := []
  trn : SMap Trn := []
  shoot : Shooter := {}
  jobg : JobGlobal := {}
  si : Si := {}
  fw : Fw := {}
  ten : Ten := {}
  /-- The selector registers of each path (R679): 0 firmware, 1 + k KMP slot k, 33 I3C, 34 JTAG. -/
  sels : SMap Sel := []
  pwrHubs : SMap PwrHub := []
  pwr : Pwr := {}
  /-- The sections in force, by section ID, as bytes of effective value (R52, R87). -/
  eff : Sections := []
  /-- What the part has sent, oldest first. -/
  out : List Out := []
  /-- Draws made so far of free values (the model's own field, notes/assumptions/5.md). -/
  freeCtr : Nat := 0
deriving DecidableEq, Repr

/-- The hub controller and security processor images that manufacture leaves in both banks: release 1, build 0, security version 0
(DESIGN CHOICE, notes/assumptions/3.md); their bytes are not stated. -/
def factoryImage (sp : Bool) : FwImage := { version := 0x00010000, svn := 0, bytes := Config.factoryFirmware sp }

/-- The state after reset: an FX9-8A right after power-on on both feeds, with `RESET_N` still low (R781, R789, R795;
notes/assumptions/3.md). Every port's training ID is drawn (R242). -/
def State.reset : State :=
  { sys := { phase := .inReset, resetLow := true },
    pwr := { feedAOk := true, feedBOk := true },
    fw := { hcA := some (factoryImage false), hcB := some (factoryImage false), spA := some (factoryImage true),
            spB := some (factoryImage true) },
    zl := (List.range 32).map (fun p => (p, { trainId := BitVec.ofNat 32 (Config.free .trainId p) })),
    freeCtr := 32 }

/-- What a command answers. -/
abbrev Answer := Host.Outcome State Fault Refusal

end Sys2Proof.Machine
end

