-- ==== Sys2Proof/Machine/Ops.lean ====
section
/-! DEFINITION. Ops.lean: the shared operations on the whole state: hubs and variants, sections in force, draws of free values,
counters and the synchronisation trace. -/
namespace Sys2Proof.Machine
open Sys2Proof

/-- `HUB_PRESENT` of a variant (R21, R39). -/
def hubMask : Variant → BitVec 8
  | .fx92 => 0x03
  | .fx94 => 0x33
  | .fx98 => 0xFF

/-- Hub `n` is present (R21). -/
def State.hubPresent (s : State) (n : Nat) : Bool := decide (n < 8) && (hubMask s.fuses.variant).getLsbD n

/-- The present hubs in ascending order. -/
def State.presentHubs (s : State) : List Nat := (List.range 8).filter s.hubPresent

/-- The record of hub `n`. -/
def State.hub (s : State) (n : Nat) : HubInfo := s.hubs.getD n {}

/-- Changes the record of hub `n`. -/
def State.modHub (s : State) (n : Nat) (f : HubInfo → HubInfo) : State := { s with hubs := s.hubs.mod n {} f }

/-- The enabled clusters of hub `n` (R40). -/
def State.clEnabled (s : State) (n : Nat) : BitVec 14 := s.fuses.grade.clusters n

/-- Cluster `k` of hub `n` exists and is not fused off (R41). -/
def State.clusterPresent (s : State) (n k : Nat) : Bool := s.hubPresent n && decide (k < 14) && (s.clEnabled n).getLsbD k

/-! ### Bridges (R26, R33–R35) -/

/-- The hubs that a bridge index joins, the lower first; 10 to 15 are reserved (R26). -/
def bridgeEnds : Nat → Option (Nat × Nat)
  | 0 => some (0, 1) | 1 => some (1, 2) | 2 => some (2, 3)
  | 3 => some (4, 5) | 4 => some (5, 6) | 5 => some (6, 7)
  | 6 => some (0, 4) | 7 => some (1, 5) | 8 => some (2, 6) | 9 => some (3, 7)
  | _ => none

/-- Bridge `b` has hub `h` at an end. -/
def bridgeJoins (b h : Nat) : Bool := match bridgeEnds b with | some (x, y) => h == x || h == y | none => false

/-- The bridges of the variant: those with a hub at both ends (R4, R26). -/
def State.bridges (s : State) : List Nat :=
  (List.range 10).filter (fun b => match bridgeEnds b with | some (x, y) => s.hubPresent x && s.hubPresent y | none => false)

/-- Bridge `b` is trained, so that its parity is checked (R35). -/
def State.bridgeUp (s : State) (b : Nat) : Bool := s.bridges.contains b && (s.sys.bridges.get? b).isSome

/-- Every bridge of hub `h` is trained (R42). -/
def State.bridgesTrained (s : State) (h : Nat) : Bool := (s.bridges.filter (fun b => bridgeJoins b h)).all s.bridgeUp

/-- Training of a bridge with at most `n` attempts left: the lanes replaced in each direction, or none where a direction needs more than
8 replacements or every attempt fails (R35). -/
def trainBridge : Nat → List TrainAttempt → Option (List (BitVec 11) × List (BitVec 11))
  | 0, _ => none
  | _ + 1, [] => some ([], [])
  | n + 1, a :: r =>
    if 8 < a.up.eraseDups.length ∨ 8 < a.down.eraseDups.length then none
    else if a.ok then some (a.up.eraseDups, a.down.eraseDups) else trainBridge n r

/-- What the training of bridge `b` in a start-up comes to: three attempts (R35). -/
def bridgeTraining (f : StartUpFacts) (b : Nat) : Option (List (BitVec 11) × List (BitVec 11)) :=
  trainBridge 3 (f.bridges.getD b [])

/-- The lowest-numbered bridge of the part that does not train, with its lower-numbered hub (R35, R794). -/
def State.bridgeFail (s : State) (f : StartUpFacts) : Option (Fin 8 × BitVec 6) :=
  (s.bridges.find? (fun b => (bridgeTraining f b).isNone)).map
    (fun b => (match bridgeEnds b with | some (x, _) => Fin.ofNat 8 x | none => 0, BitVec.ofNat 6 b))

/-- The even parity of 16 bits (R33). -/
def oddOnes (w : BitVec 16) : Bool := (List.range 16).foldl (fun b i => b != w.getLsbD i) false

/-- The 16 bits of a lane. -/
def bridgeLane (g : BridgeGroup) (i : Nat) : BitVec 16 := g.lanes.getD i 0

/-- Lane `i`, covered by the parity or check lane `c`, disagrees with the bit that `c` carries for it (R33, R34). -/
def laneDisagrees (g : BridgeGroup) (i c : Nat) : Bool := oddOnes (bridgeLane g i) != (bridgeLane g c).getLsbD (i % 16)

/-- The parity errors of a group as records: on data lanes against their parity lanes, then on parity lanes against their check lanes
(R34). -/
def bridgeGroupErrors (g : BridgeGroup) : List BridgeLog :=
  let rec_ (p : Bool) (l : Nat) : BridgeLog :=
    { bridge := g.bridge, parityLane := p, lane := BitVec.ofNat 10 l, rxHub := BitVec.ofNat 3 g.rxHub.val, valid := true }
  ((List.range 1024).filter (fun k => laneDisagrees g k (1024 + k / 16))).map (rec_ false)
    ++ ((List.range 64).filter (fun m => laneDisagrees g (1024 + m) (1088 + m / 16))).map (rec_ true)

/-- The order in which R38 chooses among errors: bridge, receiving hub, lane; data lanes before parity lanes (DEDUCED,
notes/assumptions/54.md). -/
def BridgeLog.rank (x : BridgeLog) : Nat :=
  ((x.bridge.toNat * 8 + x.rxHub.toNat) * 2 + b2n x.parityLane) * 1024 + x.lane.toNat

/-- The first of some errors by `rank`. -/
def BridgeLog.first (x : BridgeLog) (l : List BridgeLog) : BridgeLog := l.foldl (fun a b => if b.rank < a.rank then b else a) x

/-- The errors that a bridge cycle's groups show on trained bridges, at the hubs that those bridges join (R34, R35). -/
def State.bridgeErrors (s : State) (gs : List BridgeGroup) : List BridgeLog :=
  (gs.filter (fun g => s.bridgeUp g.bridge.toNat && bridgeJoins g.bridge.toNat g.rxHub.val)).flatMap bridgeGroupErrors

/-- The part is in the fatal state (R37). -/
def State.fatal (s : State) : Bool := s.sys.fatalAt.isSome

/-- Records something the part sends; from 100 µs after a fatal fault, and while unpowered or in reset, no port sends. -/
def State.emit (s : State) (o : Out) : State := { s with out := s.out ++ [o] }

/-- Draws a fresh free value. -/
def State.draw (s : State) (k : Config.Draw) : Nat × State :=
  (Config.free k s.freeCtr, { s with freeCtr := s.freeCtr + 1 })

/-- Byte `off` of a section. -/
def Sections.u8 (e : Sections) (x : Sect) (off : Nat) : Nat := ((SMap.getD e x.id []).getD off 0).toNat

/-- The little-endian 16-bit field at `off` of a section (R12). -/
def Sections.u16 (e : Sections) (x : Sect) (off : Nat) : Nat := e.u8 x off + 256 * e.u8 x (off + 1)

/-- `HUB_IN_SERVICE` is checked through HUB_STATE: the hub is present and in service (R42). -/
def State.inService (s : State) (n : Nat) : Bool := s.hubPresent n && (s.hub n).inService

/-- `HOST` of the queue's entry; 0xFFFF when unbound (R63). -/
def State.queueHost (s : State) (q : Nat) : Nat := if s.si.committed then s.eff.u16 .queues (8 * q) else 0xFFFF

/-- `SECURITY.MODE` = 1 (R67). -/
def State.sealed (s : State) : Bool := s.eff.u8 .security 0 == 1
/-- `LINK_CRYPT` = 1 (R67). -/
def State.linkCrypt (s : State) : Bool := s.eff.u8 .security 1 == 1
/-- `ETH_CRYPT` = 1 (R67). -/
def State.ethCrypt (s : State) : Bool := s.eff.u8 .security 2 == 1
/-- The effective `TRACE_EN` (R67). -/
def State.traceEn (s : State) : Bool := s.eff.u8 .debugPolicy 0 == 1
/-- The effective `EXPORT` (R67). -/
def State.exportMode (s : State) : Nat := s.eff.u8 .debugPolicy 1
/-- The effective `EXPORT_MIB` (R67). -/
def State.exportMib (s : State) : Nat := s.eff.u16 .debugPolicy 2
/-- The effective `EXPORT_HUB` (R67). -/
def State.exportHub (s : State) : Nat := s.eff.u8 .debugPolicy 4
/-- The effective `DEBUG_POLICY.JTAG` (R67). -/
def State.jtagAllowed (s : State) : Bool := s.eff.u8 .debugPolicy 5 == 1

/-! ### Power (R641–R656) -/

/-- The ASCII bytes of a text. -/
def asciiOf (t : String) : List Byte := t.toList.map (fun c => BitVec.ofNat 8 c.toNat)

/-- The session secrets that the part derives from an export master secret (R677). -/
def kmpKeyOf (secret : Nat) : Nat := Config.hkdf secret (asciiOf "FX9 kmp")
def ethKeyOf (secret host : Nat) : Nat := Config.hkdf secret (asciiOf "FX9 eth" ++ leBytes 2 host)
def linkTxKey (secret : Nat) : Nat := Config.hkdf secret (asciiOf "FX9 zl tx part")
def linkRxKey (secret : Nat) : Nat := Config.hkdf secret (asciiOf "FX9 zl tx host")

/-- The power record of hub `h`. -/
def State.pwrHub (s : State) (h : Nat) : PwrHub := s.pwrHubs.getD h {}
/-- Changes it. -/
def State.modPwr (s : State) (h : Nat) (f : PwrHub → PwrHub) : State := { s with pwrHubs := s.pwrHubs.mod h {} f }
/-- `CLK_MAX_MHZ` as a clock step; the lowest step where no POWER section is in force. -/
def State.clkMax (s : State) : Nat := (s.eff.u16 .power 4 - 700) / 100
/-- The clock step of a hub: the lowest of its four caps (R641). -/
def State.clkStep (s : State) (h : Nat) : Nat :=
  let p := s.pwrHub h
  min (min s.clkMax p.thermalStep) (min (p.snowCap.getD 14) (if p.firstUse then 0 else 14))
/-- The snowplough acts on the hub. -/
def PwrHub.acting (p : PwrHub) : Bool := !p.causes.isEmpty
/-- The hubs in service. -/
def State.serviceHubs (s : State) : List Nat := s.presentHubs.filter s.inService
/-- A feed lies within its limits. -/
def State.feedOk (s : State) (b : Bool) : Bool := if b then s.pwr.feedBOk else s.pwr.feedAOk

/-- CAUSE 4 is raised (R656). -/
def State.powerCause (s : State) : Bool :=
  s.presentHubs.any (fun h => (s.pwrHub h).activeB || !s.feedOk (!(s.pwrHub h).activeB))
    || s.serviceHubs.any (fun h =>
    let p := s.pwrHub h
    (p.acting && decide (p.snowSince + 1000000 ≤ s.clk.now)) || p.poolThr
      || (match p.belowSince with | some t => decide (t + 10000000 ≤ s.clk.now) | none => false))

/-- `THR`: the part throttles (R656). -/
def State.throttled (s : State) : Bool :=
  s.serviceHubs.any (fun h =>
    let p := s.pwrHub h
    p.acting || p.snowCap.isSome || p.poolThr || decide (p.duty < 16) || decide (s.clkStep h < s.clkMax))

/-- A resident job names the extent in an extent reference (R126). -/
def State.jobNames (s : State) (e : Nat) : Bool := s.jobs.any (fun j => j.2.refs.any (fun r => r.extent == e))

/-- The security processor does not run (before step 2 of R792 has ended, or while it restarts, R716). -/
def State.spDown (s : State) : Bool := s.fw.spDown

/-- The security processor restarts within a firmware procedure, so that KMP answers "busy" with the time left (R716). -/
def State.spRestarting (s : State) : Bool :=
  s.fw.spDown && (match s.fw.restart with | some r => r.hub.isNone | none => false)

/-- `RETRY_MS` (R716). -/
def State.retryMs (s : State) : BitVec 16 :=
  match s.fw.restart with
  | some r => BitVec.ofNat 16 (max 1 ((r.since + 2000000000 - s.clk.now + 999999) / 1000000))
  | none => 1

/-- A commit holds Ethernet port `e` (R92, R339). -/
def State.ethHeld (s : State) (e : Bool) : Bool := if e then s.si.hold.e1 else s.si.hold.e0

/-- The controller of hub `h` restarts within a firmware procedure (R716). -/
def State.hcRestarting (s : State) (h : Nat) : Bool := match s.fw.restart with | some r => r.hub == some h | none => false

/-- No job takes cluster `k` of hub `h` now: a commit holds it (R92, R501), or the hub awaits its restart (R713, R716). -/
def State.cluHeld (s : State) (h k : Nat) : Bool :=
  s.si.hold.clusters.getLsbD (14 * h + k) || s.si.hold.hubs.getLsbD h || s.si.hold.saves.getLsbD h || s.fw.yielding == some h
    || s.hcRestarting h

/-! ### Counters (R762–R765) -/

/-- The key of a counter: hub, block, identifier and selector (R765). -/
def cntKey (hub block id sel : Nat) : Nat := ((hub * 256 + block) * 256 + id) * 0x10000 + sel

/-- Adds `k` to a counter, modulo 2^64 (R762). -/
def State.bump (s : State) (hub block id sel k : Nat) : State :=
  { s with counters := s.counters.mod (cntKey hub block id sel) {} (fun c => { c with count := c.count + BitVec.ofNat 64 k }) }

/-- Resets of the group of a counter (R773). -/
def State.groupResets (s : State) (key : Nat) : Nat := (s.cntGroups.getD (key / 2 ^ 24) (0, 0)).1

/-- Resets one counter and keeps the value from before for a capture in the same instant (R763, R764); `own` is 1 for a reset of the
counter alone. Two resets in one instant count as one (R767). -/
def Counter.reset (c : Counter) (now group own : Nat) : Counter :=
  if c.before.isSome ∧ c.resetAt = now then { c with count := 0, resets := c.resets + BitVec.ofNat 8 own - 1 }
  else { count := 0, resets := c.resets + BitVec.ofNat 8 own, before := some (c.count, c.resets + BitVec.ofNat 8 group), resetAt := now }

/-- Resets the counters under some keys. -/
def State.resetCounters (s : State) (keys : List Nat) : State :=
  { s with counters := keys.foldl (fun m k => m.mod k {} (fun c => c.reset s.clk.now (s.groupResets k) 1)) s.counters }

/-- Resets the counters of one block of a hub (R773). -/
def State.resetGroup (s : State) (hub block : Nat) : State :=
  let g := hub * 256 + block
  { s with
    counters := s.counters.mapVals (fun k c => if k / 2 ^ 24 = g then c.reset s.clk.now (s.groupResets k) 0 else c),
    cntGroups := s.cntGroups.mod g (0, 0) (fun x => (x.1 + 1, s.clk.now)) }

/-- The blocks that have counters (R765). -/
def counterBlocks : List Nat := [4, 5, 8, 9, 0x0B, 0x0C, 0x0F] ++ (List.range 14).map (· + 0x10)

/-- A counter as a capture finds it: count, `RESETS` and `ROLLED` (R762, R764). -/
def State.readCounter (s : State) (key : Nat) : BitVec 64 × BitVec 8 × Bool :=
  let c := s.counters.getD key {}
  let g := s.cntGroups.getD (key / 2 ^ 24) (0, 0)
  match c.before with
  | some (n, r) =>
    if c.resetAt = s.clk.now then (n, r, true) else (c.count, c.resets + BitVec.ofNat 8 g.1, false)
  | none =>
    if g.1 ≠ 0 ∧ g.2 = s.clk.now ∧ (s.counters.get? key).isNone then (0, BitVec.ofNat 8 (g.1 - 1), true)
    else (c.count, c.resets + BitVec.ofNat 8 g.1, false)

/-! ### Synchronisation trace (R751–R761) -/

/-- The kinds of unit that keep a ring (R755, R771). -/
inductive TUnit where
  | cluster (k : Nat) | zlPort (i : Nat) | eth (e : Nat) | slalom
deriving DecidableEq, Repr

/-- `TYPE` of R771. -/
def TUnit.type : TUnit → Nat
  | .cluster _ => 0 | .zlPort _ => 1 | .eth _ => 2 | .slalom => 3

/-- `UNIT` of R753. -/
def TUnit.index : TUnit → Nat
  | .cluster k => k | .zlPort i => i | .eth e => e | .slalom => 0

/-- The key of a unit's ring. -/
def tkey (hub : Nat) (u : TUnit) : Nat := (hub * 4 + u.type) * 16 + u.index

/-- The trace unit under a key. -/
def State.traceUnit (s : State) (k : Nat) : TraceUnit := s.traceUnits.getD k {}

/-- A wait begins at a unit (R752). -/
def State.waitBegin (s : State) (hub : Nat) (u : TUnit) (w : OpenWait) : State :=
  { s with traceUnits := s.traceUnits.mod (tkey hub u) {} (fun t => { t with waits := t.waits ++ [w] }) }

/-- Entries of the export region (R761). -/
def State.regionSize (s : State) : Nat := s.exportMib * 32768

/-- Moves queued records of the export hub into the region until it is full (R761). -/
def exportFill (n : Nat) (t : Trigger) : List TraceRec → Trigger × List TraceRec
  | [] => (t, [])
  | r :: rs =>
    if n = 0 ∨ (t.head.toNat + 1) % n = t.tail.toNat then (t, r :: rs)
    else exportFill n { t with region := t.region.set t.head.toNat r, head := BitVec.ofNat 25 ((t.head.toNat + 1) % n) } rs

/-- With `EXPORT` = 2, lets hub `h`'s queue drain into the region. -/
def State.exportDrain (s : State) (h : Nat) : State :=
  if s.exportMode = 2 then
    let q := s.traceHubs.getD h {}
    let (t, rest) := exportFill s.regionSize s.trig q.queue
    { s with trig := t, traceHubs := s.traceHubs.set h { q with queue := rest } }
  else s

/-- The drop record that tells how many records were lost (R754, R759). -/
def dropRec (hub lost : Nat) (endTime : BitVec 64) : TraceRec :=
  { ekind := 0x0E, isOpen := false, post := false, hub := BitVec.ofNat 8 hub, unit := 0xFF, job := 0, lc := 0,
    endTime := endTime, waitNs := 0, object := 0, by_ := 0, detail := BitVec.ofNat 32 lost, pc := 0 }

/-- Places a record in the hub's export queue of 4,096 records (R759). -/
def State.exportPush (s : State) (h : Nat) (r : TraceRec) : State :=
  if s.exportMode = 0 then s
  else
    let q := s.traceHubs.getD h {}
    let q' : TraceHub :=
      if q.queue.length + (if q.lost = 0 then 1 else 2) ≤ 4096 then
        { q with queue := q.queue ++ (if q.lost = 0 then [] else [dropRec h q.lost q.lostEnd]) ++ [r], lost := 0 }
      else { q with lost := q.lost + 1, lostEnd := if q.lost = 0 then r.endTime else q.lostEnd }
    ({ s with traceHubs := s.traceHubs.set h q' } : State).exportDrain h

/-- Stores a record in a unit's ring or post-trigger store, or counts it as missed while frozen (R755, R757). -/
def State.storeRec (s : State) (h : Nat) (u : TUnit) (r : TraceRec) : State :=
  let t := s.traceUnit (tkey h u)
  if s.trig.postOpen ∧ t.store.length < 256 then
    { s with traceUnits := s.traceUnits.set (tkey h u) { t with store := t.store ++ [{ r with post := true }] } }
  else if s.trig.postOpen ∨ s.trig.frozen then
    { s with traceHubs := s.traceHubs.mod h {} (fun q => { q with frozenLost := satAdd q.frozenLost 1 }) }
  else
    let t' : TraceUnit := { t with ring := (t.ring ++ [r]).drop (t.ring.length + 1 - 256) }
    { s with traceUnits := s.traceUnits.set (tkey h u) t' }

/-- The trigger fires at pool time `T` (R756, R757). -/
def State.fire (s : State) : State :=
  if s.trig.armed then
    { s with trig := { s.trig with armed := false, fired := some s.clk.poolTime, postOpen := true, frozen := false } }
  else s

/-- Fires the trigger when its `SOURCE` is `src` (R756). -/
def State.fireOn (s : State) (src : Nat) : State := if s.trig.source.toNat = src then s.fire else s

/-- The post-trigger window of a unit has closed before its time: its store is full (R757). -/
def State.storeFull (s : State) (h : Nat) (u : TUnit) : Bool :=
  s.trig.postOpen && decide (256 ≤ (s.traceUnit (tkey h u)).store.length)

/-- Makes the record of a wait that has ended, or that is open as its unit's window closes, if trace records it (R752–R754). -/
def State.putWait (s : State) (h : Nat) (u : TUnit) (w : OpenWait) (isOpen : Bool) (by_ : BitVec 16) : State :=
  let ns := s.clk.now - w.start
  if s.traceEn ∧ ¬s.fatal ∧ (s.traceHubs.getD h {}).minWaitNs.toNat ≤ ns then
    let r : TraceRec :=
      { ekind := w.ekind, isOpen := isOpen, post := s.trig.postOpen, hub := BitVec.ofNat 8 h,
        unit := BitVec.ofNat 8 u.index, job := w.job, lc := w.lc, endTime := s.clk.poolTime,
        waitNs := BitVec.ofNat 32 (min ns 0xFFFFFFFF), object := w.object, by_ := by_, detail := w.detail,
        pc := if s.sealed then 0 else w.pc }
    (s.storeRec h u r).exportPush h r
  else s

/-- A wait ends: it may fire the trigger (R756), and is recorded; where its record fills the post-trigger store, the unit's window closes
and the waits still open are recorded (R752, R757). -/
def State.recordWait (s : State) (h : Nat) (u : TUnit) (w : OpenWait) (by_ : BitVec 16) : State :=
  let s := if s.trig.source = 2 ∧ w.ekind.toNat = s.trig.ekind.toNat ∧ s.trig.waitUs.toNat * 1000 ≤ s.clk.now - w.start
           then s.fire else s
  let full := s.storeFull h u
  let s := s.putWait h u w false by_
  if ¬full ∧ s.storeFull h u then (s.traceUnit (tkey h u)).waits.foldl (fun s w => s.putWait h u w true w.by_) s else s

/-- The waits of a unit that satisfy `p` end, for the sake of `by_` (or of the value the wait already names). -/
def State.waitEnd (s : State) (h : Nat) (u : TUnit) (p : OpenWait → Bool) (by_ : Option (BitVec 16)) : State :=
  let t := s.traceUnit (tkey h u)
  let s := { s with traceUnits := s.traceUnits.set (tkey h u) { t with waits := t.waits.filter (fun w => !p w) } }
  (t.waits.filter p).foldl (fun s w => s.recordWait h u w (by_.getD w.by_)) s

end Sys2Proof.Machine
end

