-- ==== Sys2Proof/Machine/Rs.lean ====
section
/-! DEFINITION. Rs.lean: the line codes of the two tiers and their decoders (R589–R596). -/
namespace Sys2Proof.Machine
open Sys2Proof

/-! ### GF(2⁸) (R589) -/

/-- Multiplication by α = 0x02 modulo x⁸ + x⁴ + x³ + x² + 1. -/
def gfDouble (a : Nat) : Nat := if a < 128 then 2 * a else Nat.xor (2 * a) 0x11D

/-- The product, by the bits of `b` from the highest down. -/
def gfMulBits (a b : Nat) : Nat → Nat
  | 0 => 0
  | n + 1 => Nat.xor (gfMulBits (gfDouble a) (b / 2) n) (if b % 2 = 1 then a else 0)

/-- The product of two field elements. -/
def gfMul (a b : Nat) : Nat := gfMulBits a b 8

/-- α to the power `n`. -/
def gfAlpha : Nat → Nat
  | 0 => 1
  | n + 1 => gfDouble (gfAlpha n)

/-- The power `n` of an element. -/
def gfPow (a : Nat) : Nat → Nat
  | 0 => 1
  | n + 1 => gfMul a (gfPow a n)

/-- The inverse of a non-zero element: its power 254. -/
def gfInv (a : Nat) : Nat := gfPow a 254

/-- The value of a polynomial, lowest coefficient first, at `x`. -/
def gfEval (x : Nat) : List Nat → Nat
  | [] => 0
  | c :: r => Nat.xor c (gfMul x (gfEval x r))

/-- The first `n` syndromes of a codeword: its values at α⁰ to αⁿ⁻¹. -/
def syndromes (n : Nat) (c : List Nat) : List Nat := (List.range n).map (fun i => gfEval (gfAlpha i) c)

/-- Difference of two syndromes. -/
def synXor (a b : List Nat) : List Nat := (a.zip b).map (fun e => Nat.xor e.1 e.2)

/-- The syndromes of one error of value `v` at position `i`. -/
def synOf (n i v : Nat) : List Nat := (List.range n).map (fun j => gfMul v (gfAlpha (i * j)))

/-! ### The stack code RS(72,64) (R590, R591) -/

/-- Data symbol `k` of a stack line: bit `b` is what data pin `k` carries in beat `b`. -/
def stackSym (d : Line) (k : Nat) : Nat :=
  (List.range 8).foldl (fun a b => a + b2n (d.getLsbD (8 * (8 * b + k / 8) + k % 8)) * 2 ^ b) 0

/-- The codeword of a stack line: check symbols, then data symbols. -/
def stackWord (d : Line) (check : BitVec 128) : List Nat :=
  (List.range 8).map (fun j => check.toNat / 2 ^ (8 * j) % 256) ++ (List.range 64).map (stackSym d)

/-- The line with an error of value `v` taken off data symbol `k`. -/
def stackFix (d : Line) (k v : Nat) : Line :=
  (List.range 8).foldl (fun d b =>
    if v / 2 ^ b % 2 = 1 then d ^^^ BitVec.ofNat 512 (2 ^ (8 * (8 * b + k / 8) + k % 8)) else d) d

/-- The errors, as position and value, of a pattern of at most two symbols with these syndromes (R591). -/
def stackErrors (s : List Nat) : Option (List (Nat × Nat)) :=
  let s0 := s.getD 0 0
  let s1 := s.getD 1 0
  if s.all (· == 0) then some []
  else match (List.range 72).find? (fun i => synOf 8 i s0 == s) with
  | some i => some [(i, s0)]
  | none =>
    (List.range 72).findSome? (fun i => (List.range i).findSome? (fun l =>
      let xi := gfAlpha i
      let xl := gfAlpha l
      let v := gfMul (Nat.xor s1 (gfMul s0 xl)) (gfInv (Nat.xor xi xl))
      let w := Nat.xor s0 v
      if synXor (synOf 8 i v) (synOf 8 l w) == s then some [(i, v), (l, w)] else none))

/-- The poison check bytes of a stack line (R595). -/
def stackPoison : List Nat := [0x3C, 0xA7, 0x51, 0xE2, 0x0D, 0x9B, 0x76, 0xC8]

/-! ### The deep code RS(10,8) (R592, R593) -/

/-- The symbol of device `i` in codeword `p` of a deep line. -/
def deepSym (d : Line) (p i : Nat) : Nat :=
  let nibble (beat : Nat) : Nat := (lineByte d (4 * beat + i / 2)).toNat / 16 ^ (i % 2) % 16
  nibble (2 * p) + 16 * nibble (2 * p + 1)

/-- Codeword `p` of a deep line: devices 8 and 9, then devices 0 to 7. -/
def deepWord (d : Line) (check : BitVec 128) (p : Nat) : List Nat :=
  [check.toNat / 2 ^ (16 * p) % 256, check.toNat / 2 ^ (16 * p + 8) % 256] ++ (List.range 8).map (deepSym d p)

/-- The device at a position of a deep codeword. -/
def deepDevice (pos : Nat) : Nat := if pos < 2 then pos + 8 else pos - 2

/-- The line with an error of value `v` taken off device `i` of codeword `p`. -/
def deepFix (d : Line) (p i v : Nat) : Line :=
  if 8 ≤ i then d
  else
    let at_ (beat : Nat) : Nat := 8 * (4 * beat + i / 2) + 4 * (i % 2)
    d ^^^ BitVec.ofNat 512 (v % 16 * 2 ^ at_ (2 * p) + v / 16 * 2 ^ at_ (2 * p + 1))

/-- The single-symbol error that two syndromes indicate, as device and value (R593). -/
def deepError (s : List Nat) : Option (Nat × Nat) :=
  let s0 := s.getD 0 0
  if s0 = 0 then none
  else ((List.range 10).find? (fun i => synOf 2 i s0 == s)).map (fun i => (deepDevice i, s0))

/-- The errors of a deep line, by codeword, when all lie in one device (R593). -/
def deepErrors (ss : List (List Nat)) : Option (List (Nat × Nat × Nat)) :=
  let bad := ss.zipIdx.filter (fun e => e.1.any (· != 0))
  let es := bad.map (fun e => (e.2, deepError e.1))
  match es with
  | [] => some []
  | (_, some (dev, _)) :: _ =>
    if es.all (fun e => match e.2 with | some (d, _) => d == dev | none => false) then
      some (es.filterMap (fun e => e.2.map (fun x => (e.1, x.1, x.2))))
    else none
  | _ => none

/-- The poison check symbols of a deep codeword (R595). -/
def deepPoison : List Nat := [0x5A, 0xC3]

/-! ### Valid check bits (R589) -/

/-- The product of a polynomial, lowest coefficient first, and x + `a`. -/
def gfTimes (a : Nat) (g : List Nat) : List Nat :=
  ((0 :: g).zip (g ++ [0])).map (fun e => Nat.xor e.1 (gfMul a e.2))

/-- The generator of the stack code without its leading 1. -/
def stackGen : List Nat := ((List.range 8).foldl (fun g i => gfTimes (gfAlpha i) g) [1]).take 8

/-- One step of the division by the stack generator. -/
def stackStep (r : List Nat) (d : Nat) : List Nat :=
  let f := Nat.xor d (r.getD 7 0)
  ((0 :: r.take 7).zip stackGen).map (fun e => Nat.xor e.1 (gfMul f e.2))

/-- The check bytes of a stack line. -/
def stackCheck (d : Line) : BitVec 128 :=
  let r := ((List.range 64).reverse.map (stackSym d)).foldl stackStep (List.replicate 8 0)
  BitVec.ofNat 128 (r.foldr (fun b a => b + 256 * a) 0)

/-- The check bytes of a deep line. -/
def deepCheck (d : Line) : BitVec 128 :=
  BitVec.ofNat 128 ((List.range 8).foldr (fun p a =>
    let s := syndromes 2 (deepWord d 0 p)
    let c1 := gfMul (Nat.xor (s.getD 0 0) (s.getD 1 0)) (gfInv 3)
    Nat.xor (s.getD 0 0) c1 + 256 * c1 + 65536 * a) 0)

/-- The poison check bytes of a line (R595). -/
def poisonCheck (stack : Bool) : BitVec 128 :=
  if stack then BitVec.ofNat 128 0xC8769B0DE251A73C else BitVec.ofNat 128 0xC35AC35AC35AC35AC35AC35AC35AC35A

/-! ### The decoders (R596, R618) -/

/-- What a decoder reports for the stored bytes of a line: `symbols` is the field of `INT_SPLIT_LINE` (R631). -/
inductive RsOut where
  | clean
  | corrected (symbols : Nat) (data : Line)
  | uncorrectable
  | poison
deriving DecidableEq, Repr

/-- The stack decoder. -/
def stackDecode (d : Line) (check : BitVec 128) : RsOut :=
  let s := syndromes 8 (stackWord d check)
  let p := syndromes 8 stackPoison
  if (stackErrors (synXor s p)).isSome then .poison
  else match stackErrors s with
  | some [] => .clean
  | some es => .corrected es.length (es.foldl (fun d e => if e.1 < 8 then d else stackFix d (e.1 - 8) e.2) d)
  | none => .uncorrectable

/-- The deep decoder. -/
def deepDecode (d : Line) (check : BitVec 128) : RsOut :=
  let ss := (List.range 8).map (fun p => syndromes 2 (deepWord d check p))
  let p := syndromes 2 deepPoison
  if (deepErrors (ss.map (fun s => synXor s p))).isSome then .poison
  else match deepErrors ss with
  | some [] => .clean
  | some es => .corrected (match es with | e :: _ => 1 + e.2.1 | [] => 0) (es.foldl (fun d e => deepFix d e.1 e.2.1 e.2.2) d)
  | none => .uncorrectable

/-- The decoder of a tier. -/
def rsDecode (stack : Bool) (d : Line) (check : BitVec 128) : RsOut := if stack then stackDecode d check else deepDecode d check

end Sys2Proof.Machine
end

