-- ==== Sys2Proof/Machine/MemOps.lean ====
section
/-! DEFINITION. MemOps.lean: stored bytes and lines, the place of an extent's lines, the error and retirement logs, correction,
hard errors and spares. -/
namespace Sys2Proof.Machine
open Sys2Proof

/-! ### Bytes -/

/-- The byte stored at a storage address; an unlisted address stores 0 (notes/assumptions/8.md). -/
def memRead (m : List Host.Cell) (a : Nat) : Byte := SMap.getD m a 0

/-- Stores a byte; storing 0 removes the entry, so that the form stays canonical. -/
def memWrite (m : List Host.Cell) (a : Nat) (b : Byte) : List Host.Cell :=
  if b = 0 then SMap.erase m a else SMap.set m a b

/-- The canonical form: addresses strictly rise and no entry is 0. -/
def Memory.wf (m : List Host.Cell) : Bool := SMap.sorted m && m.all (fun c => c.2 != 0)

/-- Stores consecutive bytes from address `a`. -/
def memWriteBytes (m : List Host.Cell) : Nat → List Byte → List Host.Cell
  | _, [] => m
  | a, b :: r => memWriteBytes (memWrite m a b) (a + 1) r

/-- The 64 bytes of storage line `l`. -/
def memLine (m : List Host.Cell) (l : Nat) : Line := bytesLine ((List.range 64).map (fun i => memRead m (64 * l + i)))

/-! ### Where a line lies (R104–R115, R550, R555) -/

/-- The hubs of a set, in ascending order. -/
def setHubs (m : BitVec 8) : List Nat := (List.range 8).filter (fun h => m.getLsbD h)

/-- An extent has storage on a hub. -/
def extentHub (e : Nat × Extent) (h : Nat) : Bool := if e.2.fineSet = 0 then e.1 / 8192 == h else e.2.fineSet.getLsbD h

/-- The storage address of a device physical address: region 0b01 and hub-local extents lie in their own slot, fine
extents are spread by R114. -/
def State.storage (s : State) (dpa : Nat) : Nat :=
  let e := dpa / 2 ^ 28 % 2 ^ 16
  let o := dpa % 2 ^ 28
  match s.extents.get? e with
  | some x =>
    if x.fineSet = 0 ∨ 2 ^ 44 ≤ dpa then dpa % 2 ^ 44
    else
      let hs := setHubs x.fineSet
      let k := hs.length
      let j := hs.findIdx (· == e / 8192)
      let g := o / 256
      (hs.getD (g % k) 0) * 2 ^ 41 + (e % 8192) * 2 ^ 28 + j * (2 ^ 28 / k) + g / k * 256 + o % 256
  | none => dpa % 2 ^ 44

/-- The offset within extent `e` of a storage address, when it belongs to the extent. -/
def State.offsetIn (s : State) (e a : Nat) : Option Nat :=
  match s.extents.get? e with
  | none => none
  | some x =>
    if x.fineSet = 0 then (if a / 2 ^ 28 = e then some (a % 2 ^ 28) else none)
    else
      let hs := setHubs x.fineSet
      let k := hs.length
      let j := hs.findIdx (· == e / 8192)
      let m := hs.findIdx (· == a / 2 ^ 41)
      let so := a % 2 ^ 28
      let part := 2 ^ 28 / k
      if m < k ∧ a / 2 ^ 28 % 8192 = e % 8192 ∧ so / part = j then
        some (((so % part) / 256 * k + m) * 256 + so % 256)
      else none

/-- The home hub of DPA line `l` (R20, R113, R115). -/
def State.homeHub (s : State) (l : Nat) : Nat := s.storage (64 * l) / 2 ^ 41

/-- The slot number on its hub of a storage address. -/
def slotOf (a : Nat) : Nat := a / 2 ^ 28 % 8192

/-- The record of channel `c` of hub `h`. -/
def State.chan (s : State) (h c : Nat) : MemChan := s.chans.getD (h * 64 + c) {}
/-- Changes a channel record. -/
def State.modChan (s : State) (h c : Nat) (f : MemChan → MemChan) : State :=
  { s with chans := s.chans.mod (h * 64 + c) {} f }
/-- The memory record of hub `h`. -/
def State.memHub (s : State) (h : Nat) : MemHub := s.memHubs.getD h {}
/-- Changes the memory record of hub `h`. -/
def State.modMemHub (s : State) (h : Nat) (f : MemHub → MemHub) : State := { s with memHubs := s.memHubs.mod h {} f }

/-- The layout channels of a hub's deep tier, 0 and 1 (R554). -/
def State.layoutChans (s : State) (h : Nat) : List Nat := [0, 1].filter (fun c => (s.chan h (32 + c)).layout)

/-- The channel (0–33) of a storage address (R550, R555). -/
def State.chanOf (s : State) (a : Nat) : Nat :=
  let h := a / 2 ^ 41
  let o := a % 2 ^ 28
  if slotOf a < 384 then Nat.xor (o / 256) (slotOf a) % 32
  else match s.layoutChans h with
    | [_, _] => 32 + o / 256 % 2
    | c :: _ => 32 + c
    | [] => 32

/-- Bytes of one rank of a deep channel (R552, R554). -/
def MemChan.rankBytes (c : MemChan) : Nat := c.gib.toNat * 2 ^ 30 / max 1 c.ranks.toNat
/-- Ranks of a deep channel over all its DIMMs. -/
def MemChan.rankCount (c : MemChan) : Nat := c.dimms.toNat * c.ranks.toNat

/-- The byte address of a storage address within its channel: on the stack within the channel's 1 GiB of the stack-ID (R550), in the deep
tier within the whole channel (R555). -/
def State.chanAddr (s : State) (a : Nat) : Nat :=
  let o := a % 2 ^ 28
  if slotOf a < 384 then slotOf a % 128 * 0x00800000 + o / 8192 * 256 + o % 256
  else
    let d := slotOf a - 4096
    match s.layoutChans (a / 2 ^ 41) with
    | [_, _] => d * 0x08000000 + o / 512 * 256 + o % 256
    | _ => d * 0x10000000 + o

/-- The stack-ID or rank of a storage address (R550, R555). -/
def State.rankOf (s : State) (a : Nat) : Nat :=
  if slotOf a < 384 then slotOf a / 128 else s.chanAddr a / max 1 (s.chan (a / 2 ^ 41) (s.chanOf a)).rankBytes

/-- The place of a storage address in the ascending channel address that a patrol follows: on the stack, one stack-ID after the other
(R605). -/
def State.chanPos (s : State) (a : Nat) : Nat := if slotOf a < 384 then slotOf a / 128 * 2 ^ 30 + s.chanAddr a else s.chanAddr a

/-- The subchannel of a storage address, A (0) or B (1); 0 on the stack (R555). -/
def State.subOf (s : State) (a : Nat) : Nat := if slotOf a < 384 then 0 else s.chanAddr a / 256 % 2

/-- The storage address at which rank `r` of deep channel `c` begins. -/
def State.rankBase (s : State) (h c r : Nat) : Nat :=
  let b := r * (s.chan h c).rankBytes
  match s.layoutChans h with
  | [_, _] => h * 2 ^ 41 + (4096 + b / 2 ^ 27) * 2 ^ 28 + b % 2 ^ 27 / 256 * 512 + (c - 32) * 256
  | _ => h * 2 ^ 41 + (4096 + b / 2 ^ 28) * 2 ^ 28 + b % 2 ^ 28

/-- The device physical address of a storage address (R107, R114, R551). -/
def State.dpaOf (s : State) (a : Nat) : Nat :=
  match s.extents.find? (fun e => (s.offsetIn e.1 a).isSome) with
  | some e => e.1 * 2 ^ 28 + (s.offsetIn e.1 a).getD 0
  | none => if s.slots.getD (a / 2 ^ 28) .absent = .reserved then 2 ^ 44 + a else a

/-- The device physical address of the unit that holds a storage address: its stack slot or its deep rank (R568, R613;
notes/assumptions/75.md). -/
def State.unitBase (s : State) (a : Nat) : Nat :=
  s.dpaOf (if slotOf a < 384 then a / 2 ^ 28 * 2 ^ 28 else s.rankBase (a / 2 ^ 41) (s.chanOf a) (s.rankOf a))

/-- The key of a channel's stack-ID or rank. -/
def rankKey (h c r : Nat) : Nat := (h * 64 + c) * 16 + r

/-! ### Units and lines -/

/-- The record of a storage line. -/
def State.lmeta (s : State) (sl : Nat) : LineMeta := s.lineMeta.getD sl {}

/-- The retired page that holds a DPA (R615). -/
def State.pageRetired (s : State) (dpa : Nat) : Bool := s.integ.retired.contains (dpa / 4096)

/-- The `INIT` bit over a storage address (R598), or what a raw write gave its line (R618). -/
def State.initAt (s : State) (a : Nat) : Bool :=
  (s.units.getD (a / 2 ^ 28) {}).init.getLsbD (a % 2 ^ 28 / 2 ^ 21) || (s.lmeta (a / 64)).init

/-- Unwritten lines over a storage address hold zeros: a fill has passed over them, which never touches a retired page (R615). -/
def State.filledAt (s : State) (a : Nat) : Bool :=
  (s.units.getD (a / 2 ^ 28) {}).filled.getLsbD (a % 2 ^ 28 / 2 ^ 21) && !s.pageRetired (s.dpaOf a)

/-- The key under which DPA line `l` is stored: the epoch's, but none for `TEST_ONLY` extents (R686, R687). -/
def State.lineKey (s : State) (l : Nat) : Nat :=
  match s.extents.get? (l / 2 ^ 22) with
  | some x => if s.eff.u8 .extentPolicy (16 * x.cls.toNat + 4) / 2 % 2 = 1 then 0 else s.memKey
  | none => s.memKey

/-- A storage line's bytes `d`, as decoded, when they are read under key `want`: the fill pattern, all of whose data and check bytes are
zero, is never decrypted (R594); bytes stored under another key than that, or in clear, come out as no proof can know (R686). -/
def State.decrypted (s : State) (sl want : Nat) (d : Line) : Line :=
  let m := s.lmeta sl
  if m.key = want ∨ (m.key = 0 ∧ d = 0 ∧ m.check.getD 0 = 0) then d else Config.decryptWrong m.key want sl d

/-- The bytes of a storage line, read under key `want`, as it decodes without error: what was written; zeros over a fill; otherwise a free
value (R600). -/
def State.lineValue (s : State) (sl want : Nat) : Line :=
  if (s.lmeta sl).written then s.decrypted sl want (memLine s.mem sl)
  else if s.filledAt (64 * sl) then 0
  else Config.unwritten s.freeCtr sl

/-- Writes a storage line with valid check bits, under a memory key or (0) in clear (R595, R171, R686). -/
def State.putLine (s : State) (sl key : Nat) (d : Line) : State :=
  { s with
    mem := memWriteBytes s.mem (64 * sl) (lineBytes d),
    lineMeta := s.lineMeta.set sl { written := true, key := key, init := (s.lmeta sl).init } }

/-- Writes the fill pattern into one storage line (R594, R599). -/
def State.putFill (s : State) (sl : Nat) : State :=
  { s with
    mem := memWriteBytes s.mem (64 * sl) (List.replicate 64 0),
    lineMeta := s.lineMeta.set sl { written := true, init := (s.lmeta sl).init } }

/-- Writes the poison pattern into a storage line (R595, R597). -/
def State.putPoison (s : State) (sl : Nat) : State :=
  { s with
    mem := memWriteBytes s.mem (64 * sl) (List.replicate 64 0),
    lineMeta := s.lineMeta.set sl { written := true, poison := true, init := (s.lmeta sl).init } }

/-- Writes the fill pattern over a run of whole 2 MiB units of one slot (R594, R599): every stored byte and record of
those units goes, but of retired pages (R615), and their `INIT` bits are set. -/
def State.fillUnits (s : State) (slot : Nat) (first count : Nat) : State :=
  let lo := slot * 2 ^ 28 + first * 2 ^ 21
  let hi := lo + count * 2 ^ 21
  let bits : BitVec 128 := BitVec.ofNat 128 ((2 ^ count - 1) * 2 ^ first)
  { s with
    mem := SMap.keep s.mem (fun a => !(decide (lo ≤ a) && decide (a < hi) && !s.pageRetired (s.dpaOf a))),
    lineMeta := s.lineMeta.keep (fun l => !(decide (lo ≤ 64 * l) && decide (64 * l < hi) && !s.pageRetired (s.dpaOf (64 * l)))),
    units := s.units.mod slot {} (fun u => { init := u.init ||| bits, filled := u.filled ||| bits }) }

/-! ### Classes (R58–R60) -/

/-- `CLASS_VALID` of class `c`. -/
def State.classValid (s : State) (c : Nat) : Bool := s.eff.u8 .extentPolicy (16 * c) == 1
/-- `TIER` of class `c`. -/
def State.classTier (s : State) (c : Nat) : Nat := s.eff.u8 .extentPolicy (16 * c + 1)
/-- `HOME_HUB` of class `c`. -/
def State.classHome (s : State) (c : Nat) : Nat := s.eff.u8 .extentPolicy (16 * c + 2)
/-- `RIGHTS_MAX` of class `c`. -/
def State.classRights (s : State) (c : Nat) : Nat := s.eff.u8 .extentPolicy (16 * c + 3)
/-- `LIFT_ALLOWED` of class `c`. -/
def State.liftAllowed (s : State) (c : Nat) : Bool := s.eff.u8 .extentPolicy (16 * c + 4) % 2 == 1
/-- `TEST_ONLY` of class `c`. -/
def State.testOnly (s : State) (c : Nat) : Bool := s.eff.u8 .extentPolicy (16 * c + 4) / 2 % 2 == 1
/-- `QUOTA` of class `c`. -/
def State.quota (s : State) (c : Nat) : Nat := s.eff.u16 .extentPolicy (16 * c + 8)
/-- Class `c` is fine (R57). -/
def State.classFine (s : State) (c : Nat) : Bool := (BitVec.ofNat 16 (s.eff.u16 .interleave 2)).getLsbD c
/-- `FINE_SET` (R57). -/
def State.fineSet (s : State) : BitVec 8 := BitVec.ofNat 8 (s.eff.u8 .interleave 0)
/-- `TRACK` of class `c` (R60). -/
def State.track (s : State) (c : Nat) : Nat := s.eff.u8 .coherence c

/-- The extent of DPA line `l` is of a `TEST_ONLY` class. -/
def State.testLine (s : State) (l : Nat) : Bool :=
  match s.extents.get? (l / 2 ^ 22) with
  | some x => s.testOnly x.cls.toNat
  | none => false

/-! ### The logs (R611, R613) -/

/-- Adds a record to the error log; a full log loses its oldest unread record (R611). -/
def State.logError (s : State) (r : ErrRec) : State :=
  let r := { r with poolTime := s.clk.poolTime }
  let g := s.integ
  if g.errLog.length < 1024 then { s with integ := { g with errLog := g.errLog ++ [r] } }
  else { s with integ := { g with errLog := g.errLog.drop 1 ++ [r], dropped := satAdd g.dropped 1 } }

/-- An entry of kind 0x06 or 0x09 may be replaced in a full retirement log (R613). -/
def RlogEntry.replaceable (e : RlogEntry) : Bool := e.kind == 6 || e.kind == 9

/-- Room for one more entry in the retirement log. -/
def State.rlogRoom (s : State) : Bool := decide (s.integ.rlog.length < 8192) || s.integ.rlog.any RlogEntry.replaceable

/-- Adds an entry to the retirement log, replacing the oldest replaceable one when it is full; nothing without room. -/
def State.logRetire (s : State) (e : RlogEntry) : State :=
  let e := { e with poolTime := s.clk.poolTime }
  let g := s.integ
  if g.rlog.length < 8192 then { s with integ := { g with rlog := g.rlog ++ [e] } }
  else if g.rlog.any RlogEntry.replaceable then
    { s with integ := { g with rlog := g.rlog.eraseP RlogEntry.replaceable ++ [e] } }
  else s

/-! ### Correction in use (R602–R604) -/

/-- The stack tier holds this storage address. -/
def isStack (a : Nat) : Bool := decide (slotOf a < 384)

/-- The symbol of an error record: stack symbol or deep device (R611). -/
def ErrLoc.symbolByte (e : ErrLoc) : BitVec 8 := e.symbol.setWidth 8

/-- The device of a retirement-log entry: deep device and subchannel, 0xFF for the stack (R613). -/
def State.deviceByte (s : State) (a : Nat) (e : ErrLoc) : BitVec 8 :=
  if isStack a then 0xFF else BitVec.ofNat 8 (e.symbol.toNat % 16 + 16 * s.subOf a)

/-- A retirement-log entry about the place of a storage address. -/
def State.placeEntry (s : State) (kind : BitVec 8) (a : Nat) : RlogEntry :=
  { kind := kind, hub := BitVec.ofNat 8 (a / 2 ^ 41), channel := BitVec.ofNat 8 (s.chanOf a), rank := BitVec.ofNat 8 (s.rankOf a),
    dpa := BitVec.ofNat 64 (s.unitBase a) }

/-- An error record about the line of a storage address. -/
def State.lineRec (s : State) (type : BitVec 8) (a : Nat) : ErrRec :=
  { type := type, hub := BitVec.ofNat 8 (a / 2 ^ 41), channel := BitVec.ofNat 8 (s.chanOf a), dpa := BitVec.ofNat 64 (s.dpaOf a) }

/-- The pages in present slots that a row or column touches, with the page of the line at `a` (R610). -/
def State.pagesOf (s : State) (a : Nat) (e : ErrLoc) (column : Option (BitVec 16)) : List Nat :=
  let lines := (a / 64) :: Config.rowLines (a / 2 ^ 41) (s.chanOf a) (s.rankOf a) e.bank e.row column
  (lines.filter (fun l => s.slots.getD (l / 2 ^ 22) .absent != .absent)).foldl (fun t l => insNat (s.dpaOf (64 * l) / 4096) t) []

/-- Something on a hub is exhausted: an error record of type 0x06 (R610). -/
def State.exhausted (s : State) (a : Nat) : State :=
  (s.modMemHub (a / 2 ^ 41) (fun m => { m with exhausted := true })).logError (s.lineRec 6 a)

/-- A row or column for which nothing remains: a page advisory for every page it touches and an error record (R610). -/
def State.exhaust (s : State) (a : Nat) (e : ErrLoc) (column : Option (BitVec 16)) : State :=
  let entry := s.placeEntry 6 a
  ((s.pagesOf a e column).foldl (fun s p => s.logRetire { entry with dpa := BitVec.ofNat 64 (4096 * p) }) s).exhausted a

/-- The bank group of a deep error, as R609 counts hPPR resources. -/
def State.hpprAt (s : State) (a : Nat) (e : ErrLoc) : HpprAt :=
  { hub := BitVec.ofNat 8 (a / 2 ^ 41), channel := BitVec.ofNat 8 (s.chanOf a), rank := BitVec.ofNat 8 (s.rankOf a),
    device := s.deviceByte a e, bankGroup := e.bank.toNat / 4 }

/-- A row reaches its threshold: a stack repair becomes due, a deep repair is scheduled, or nothing remains (R607–R610). -/
def State.rowDue (s : State) (a : Nat) (e : ErrLoc) : State :=
  let h := a / 2 ^ 41
  let c := s.chanOf a
  let r := s.rankOf a
  if ¬s.rlogRoom then s.exhaust a e none
  else if isStack a then
    if ((s.ranks.getD (rankKey h c r) {}).rowsUsed.getD e.bank.toNat 0) < 2 then
      { s with integ := { s.integ with repairs := s.integ.repairs ++
          [{ hub := h, channel := c, rank := r, bank := e.bank, row := e.row, at_ := a }] } }
    else s.exhaust a e none
  else if s.integ.hpprSpent.contains (s.hpprAt a e) then s.exhaust a e none
  else
    (s.logRetire { s.placeEntry 3 a with bank := e.bank, device := s.deviceByte a e, row := e.row }).logError
      { s.lineRec 5 a with symbol := e.symbolByte }

/-- Notes a correction in the table of tracked rows, replacing the least recently touched of 256 (R603). -/
def RankInfo.touch (t : RankInfo) (e : ErrLoc) (sl now : Nat) : RankInfo :=
  match t.rows.find? (fun r => r.bank == e.bank && r.row == e.row) with
  | some r =>
    let r' := { r with
        lines := insNat sl r.lines, touched := now,
        columns := if r.columns.contains e.column then r.columns else e.column :: r.columns }
    { t with rows := t.rows.map (fun x => if x.bank == e.bank && x.row == e.row then r' else x) }
  | none =>
    let rows := if t.rows.length < 256 then t.rows
      else
        let oldest := t.rows.foldl (fun m x => min m x.touched) now
        t.rows.eraseP (fun x => x.touched == oldest)
    { t with rows := rows ++ [{ bank := e.bank, row := e.row, lines := [sl], columns := [e.column], touched := now }] }

/-- Rows of one bank whose corrections fall in one column (R608). -/
def RankInfo.columnRows (t : RankInfo) (e : ErrLoc) : Nat :=
  t.rows.countP (fun r => r.bank == e.bank && r.columns.contains e.column)

/-- The row of an error has at least `thr` lines corrected since it entered the table, and was not due before (R603). -/
def RankInfo.reaches (t : RankInfo) (e : ErrLoc) (thr : Nat) : Bool :=
  t.rows.any (fun r => r.bank == e.bank && r.row == e.row && decide (thr ≤ r.lines.length) && !r.due)

/-- The row of an error is due from now on. -/
def RankInfo.setDue (t : RankInfo) (e : ErrLoc) : RankInfo :=
  { t with rows := t.rows.map (fun r => if r.bank == e.bank && r.row == e.row then { r with due := true } else r) }

/-- The corrections of a column of a bank are counted afresh. -/
def RankInfo.clearColumn (t : RankInfo) (e : ErrLoc) : RankInfo :=
  { t with rows := t.rows.map (fun r => if r.bank == e.bank then { r with columns := r.columns.filter (· != e.column) } else r) }

/-- Three rows of a bank have corrections in one column: its repair becomes due, once, or nothing remains (R608, R610). -/
def State.columnDue (s : State) (a : Nat) (e : ErrLoc) : State :=
  let h := a / 2 ^ 41
  let c := s.chanOf a
  let r := s.rankOf a
  let key := rankKey h c r
  let used := (s.ranks.getD key {}).colsUsed
  let s : State := { s with ranks := s.ranks.mod key {} (fun t => t.clearColumn e) }
  if s.integ.repairs.any (fun x => x.hub == h && x.channel == c && x.rank == r && x.bank == e.bank && x.column == some e.column) then s
  else if used < 4 ∧ s.rlogRoom then
    { s with integ := { s.integ with repairs := s.integ.repairs ++
        [{ hub := h, channel := c, rank := r, bank := e.bank, row := e.row, column := some e.column, at_ := a }] } }
  else s.exhaust a e (some e.column)

/-- The symbol position of an error on its channel (R604). -/
def State.symbolAt (s : State) (a : Nat) (e : ErrLoc) : Nat := e.symbol.toNat + 128 * s.subOf a

/-- A symbol becomes suspect when its corrections of the last second lie in more than 64 distinct rows (R604). -/
def State.noteSymbol (s : State) (a : Nat) (e : ErrLoc) : State :=
  let h := a / 2 ^ 41
  let c := s.chanOf a
  let x : Recent := { symbol := s.symbolAt a e, rank := s.rankOf a, bank := e.bank, row := e.row, at_ := s.clk.now }
  let recent := ((s.chan h c).recent.filter (fun y => decide (s.clk.now < y.at_ + 1000000000)
    && !(y.symbol == x.symbol && y.rank == x.rank && y.bank == x.bank && y.row == x.row))) ++ [x]
  let s := s.modChan h c (fun ch => { ch with recent := recent })
  if 64 < recent.countP (fun y => y.symbol == x.symbol) then
    let s := s.modChan h c (fun ch =>
      { ch with suspects := x.symbol :: ch.suspects, recent := recent.filter (fun y => y.symbol != x.symbol) })
    let s := s.modMemHub h (fun m =>
      { m with suspectCh := BitVec.ofNat 6 c, suspectSym := e.symbol, suspectValid := true })
    (s.logRetire { s.placeEntry 9 a with device := s.deviceByte a e }).logError { s.lineRec 3 a with symbol := e.symbolByte }
  else s

/-- A correctable error in a line of a written unit: counted, and written back with no change of value (R602–R604). -/
def State.corrected (s : State) (sl : Nat) (e : ErrLoc) : State :=
  let a := 64 * sl
  let h := a / 2 ^ 41
  let c := s.chanOf a
  let s := s.modMemHub h (fun m => { m with ce := satAdd m.ce 1 })
  if (s.chan h c).suspects.contains (s.symbolAt a e) then s
  else
    let key := rankKey h c (s.rankOf a)
    let t := (s.ranks.getD key {}).touch e sl s.clk.now
    let due := t.reaches e (s.memHub h).ceRowThr.toNat
    let s : State := { s with ranks := s.ranks.set key (if due then t.setDue e else t) }
    let s := if due then s.rowDue a e else s
    let s := if isStack a ∧ 3 ≤ t.columnRows e then s.columnDue a e else s
    s.noteSymbol a e

/-! ### Hard errors and spares (R565–R569) -/

/-- The state of the slot at a storage address. -/
def State.slotAt (s : State) (a : Nat) : SlotState := s.slots.getD (a / 2 ^ 28) .absent

/-- Deep slots of a hub that lie in rank `r` of channel `c`. -/
def State.slotsOfRank (s : State) (h c r : Nat) : List Nat :=
  (s.slots.filter (fun e => e.1 / 8192 == h && decide (4096 ≤ e.1 % 8192))).map (·.1) |>.filter (fun x =>
    s.rankOf (x * 2 ^ 28) == r || s.rankOf (x * 2 ^ 28 + 2 ^ 28 - 64) == r) |>.filter (fun _ => (s.chan h c).layout)

/-- The migration concerns the unit at a storage address. -/
def State.migrates (s : State) (a : Nat) (m : Migration) : Bool :=
  match m with
  | .slot g x _ => a / 2 ^ 41 == g && slotOf a == x
  | .rank g c r => a / 2 ^ 41 == g && s.chanOf a == c && s.rankOf a == r

/-- A slot or rank is being migrated (R568). -/
def State.migratingAt (s : State) (a : Nat) : Bool :=
  s.integ.migrations.any (s.migrates a)

/-- A hard error on a stack slot (R567). An event for whose entry the retirement log has no room is exhausted (R613). -/
def State.hardStack (s : State) (a : Nat) : State :=
  let h := a / 2 ^ 41
  let x := slotOf a
  let entry := s.placeEntry 7 a
  let rec7 : ErrRec := { s.lineRec 7 a with dpa := BitVec.ofNat 64 (s.unitBase a) }
  let retire (s : State) : State :=
    if s.rlogRoom then (({ s with slots := s.slots.set (h * 8192 + x) .retired } : State).logRetire entry).logError rec7
    else s.exhausted a
  if (s.memHub h).sparesFree.contains x then
    if s.rlogRoom then (retire s).modMemHub h (fun m => { m with sparesFree := delNat x m.sparesFree }) else retire s
  else match s.slotAt a with
    | .free => retire s
    | .carved | .reserved =>
      match (s.memHub h).sparesFree with
      | [] => s
      | sp :: rest =>
        if ¬s.rlogRoom then s.exhausted a
        else
          let s : State := { s with
            slots := s.slots.set (h * 8192 + sp) .retired,
            integ := { s.integ with migrations := s.integ.migrations ++ [.slot h x sp] } }
          ((s.modMemHub h (fun m => { m with sparesFree := rest, sparesLent := m.sparesLent ++ [(sp, x)] })).logRetire
            entry).logError rec7
    | _ => s

/-- A deep channel has a spare rank that has not been used (R566, R569). -/
def MemChan.spareLeft (x : MemChan) : Bool := x.spareSet && !x.spareUsed && !x.deadRanks.contains (x.rankCount - 1)

/-- A hard error on a deep rank (R566). -/
def State.hardDeep (s : State) (a : Nat) : State :=
  let h := a / 2 ^ 41
  let c := s.chanOf a
  let r := s.rankOf a
  let entry := s.placeEntry 8 a
  let rec7 : ErrRec := { s.lineRec 7 a with dpa := BitVec.ofNat 64 (s.unitBase a) }
  if (s.chan h c).spareLeft ∧ r ≠ (s.chan h c).rankCount - 1 then
    if ¬s.rlogRoom then s.exhausted a
    else
      let s := ((s.modChan h c (fun ch => { ch with spareUsed := true, spareRank := BitVec.ofNat 3 r })).logRetire entry).logError rec7
      { s with integ := { s.integ with migrations := s.integ.migrations ++ [.rank h c r] } }
  else
    let sl := s.slotsOfRank h c r
    if sl.any (fun x => s.slots.getD x .absent = .carved ∨ s.slots.getD x .absent = .reserved) then s
    else if ¬s.rlogRoom then s.exhausted a
    else
      let s := (s.modChan h c (fun ch => { ch with deadRanks := insNat r ch.deadRanks })).logRetire entry
      ({ s with slots := sl.foldl (fun m x => m.set x .retired) s.slots } : State).logError rec7

/-- A storage address in the target of a migration: its spare slot, or its channel's spare rank. -/
def State.targetAt (s : State) : Migration → Nat
  | .slot g _ sp => (g * 8192 + sp) * 2 ^ 28
  | .rank g c _ => s.rankBase g c ((s.chan g c).rankCount - 1)

/-- The migration of the unit at a storage address is abandoned and its target retired, with its entry in the retirement log (R569): the
spare slot stays lent, the spare rank leaves service. -/
def State.abandon (s : State) (a : Nat) : State :=
  match s.integ.migrations.find? (s.migrates a) with
  | none => s
  | some m =>
    let t := s.targetAt m
    let entry := s.placeEntry (if isStack a then 7 else 8) t
    let s : State := { s with integ := { s.integ with migrations := s.integ.migrations.erase m } }
    let s := if isStack a then s
      else s.modChan (a / 2 ^ 41) (s.chanOf a) (fun x =>
        { x with spareUsed := false, spareRank := 0, deadRanks := insNat (x.rankCount - 1) x.deadRanks })
    let s := if s.rlogRoom then s.logRetire entry else s.exhausted t
    s.logError { s.lineRec 7 a with dpa := BitVec.ofNat 64 (s.unitBase a) }

/-- A hard error is settled with the spares of its unit (R566, R567), or, in a unit under migration, by R569. The line is poisoned when
its data is lost (`lost`), and where its unit stays in service without a spare or is under migration already. -/
def State.settleHard (s : State) (sl : Nat) (inTarget lost : Bool) : State :=
  let a := 64 * sl
  let further := s.migratingAt a && !inTarget
  let s :=
    if further then s
    else
      let s := if inTarget then s.abandon a else s
      if isStack a then s.hardStack a else s.hardDeep a
  match s.slotAt a with
  | .carved | .reserved => if lost ∨ further ∨ ¬s.migratingAt a then s.putPoison sl else s
  | _ => s

/-- A hard data error on a line (R565–R569). -/
def State.hardData (s : State) (sl : Nat) (inTarget : Bool) : State :=
  ((s.modMemHub (sl / 2 ^ 35) (fun m => { m with ue := satAdd m.ue 1 })).logError (s.lineRec 1 (64 * sl))).settleHard sl inTarget true

/-- A hard command error on the addressed slot or rank (R565). -/
def State.hardCommand (s : State) (sl : Nat) (inTarget : Bool) : State :=
  (s.logError (s.lineRec 3 (64 * sl))).settleHard sl inTarget false

/-! ### Self-refresh and retraining (R563, R577–R579) -/

/-- A trigger of a retrain comes before another: earlier, or at one instant of lower hub and channel (R563). -/
def retrainBefore (x y : Nat × Nat × Nat) : Bool :=
  decide (x.1 < y.1) || (x.1 == y.1 && decide (x.2.1 * 64 + x.2.2 < y.2.1 * 64 + y.2.2))

/-- Requests a live retrain of a channel: it joins the one queue of the part once, in its place (R563). -/
def State.retrainAsk (s : State) (h c : Nat) : State :=
  if s.integ.retrainQueue.any (fun e => e.2 == (h, c)) ∨ s.integ.retrainNow = some (h, c) then s
  else
    let x := (s.clk.now, h, c)
    let q := s.integ.retrainQueue
    { s with integ := { s.integ with
        retrainQueue := q.filter (fun e => !retrainBefore x e) ++ x :: q.filter (fun e => retrainBefore x e) } }

/-- The temperature has moved by 8 °C or more since the channel was last trained (R563). -/
def MemChan.moved (x : MemChan) : Bool :=
  match x.trainedC with
  | some t => decide (x.tempC.toNat + 8 ≤ t.toNat ∨ t.toNat + 8 ≤ x.tempC.toNat)
  | none => false

/-- One all-bank refresh of a channel; the next is due 3,900 ns after this one was (R557, R765). -/
def State.refreshChan (s : State) (h c : Nat) : State :=
  let stall := if c < 32 then 295 else (s.chan h c).trfc1.getD (s.eff.u8 .tiers (8 * h + 1)) 0
  (s.modChan h c (fun x => { x with nextRefresh := x.nextRefresh + 3900 })).bump h 5 0x82 c stall

/-- A channel takes the phase of its refreshes from pool time (R558). -/
def State.takePhase (s : State) (h c : Nat) : State :=
  s.modChan h c (fun x => { x with nextRefresh := s.clk.now + toPhase h c s.clk.poolTime.toNat })

/-- A channel trains from the full sweep and enters service; where every attempt fails it takes the state `bad` (R560, R561). -/
def State.trainChan (s : State) (h c : Nat) (attempts : List (List LaneSweep)) (bad : ChState) : State :=
  match trainLanes c 3 attempts with
  | some l => (s.modChan h c (fun x => { x.centred l with state := .inService })).takePhase h c
  | none => s.modChan h c (fun x => { x with state := bad })

/-- The eighths of a rank, numbered through the channel, that a deep slot touches on a channel (R555, R579). -/
def State.segsOf (s : State) (h c x : Nat) : List Nat :=
  let share := if (s.layoutChans h).length = 2 then 2 ^ 27 else 2 ^ 28
  let seg := max 1 ((s.chan h c).rankBytes / 8)
  let lo := (x % 8192 - 4096) * share
  (List.range ((lo + share - 1) / seg + 1 - lo / seg)).map (· + lo / seg)

/-- The deep slots of a hub in a state. -/
def State.deepSlots (s : State) (h : Nat) (p : SlotState → Bool) : List Nat :=
  (s.slots.filter (fun e => e.1 / 8192 == h && decide (4096 ≤ e.1 % 8192) && p e.2)).map (·.1)

/-- The deep slots of a hub that its channels mask now (R579). -/
def State.maskedOf (s : State) (h : Nat) : List Nat := (s.chan h 32).masked ++ (s.chan h 33).masked

/-- The deep slots of a hub that hold data: carved, or reserved otherwise than by a mask. -/
def State.keptSlots (s : State) (h : Nat) : List Nat :=
  (s.deepSlots h (fun x => x == .carved || x == .reserved)).filter (fun x => !(s.maskedOf h).contains x)

/-- The uncarved slots that a channel's self-refresh masks (R579); one that is no layout channel holds no slot. -/
def State.maskable (s : State) (h c : Nat) : List Nat :=
  if ¬(s.chan h c).layout then []
  else
    let kept := s.keptSlots h
    let keep := kept.flatMap (s.segsOf h c)
    (s.deepSlots h (fun x => x == .free || x == .reserved)).filter (fun x =>
      !kept.contains x && (s.segsOf h c x).any (fun g => !keep.contains g))

/-- Some eighth of a rank of a deep channel holds nothing, so that self-refresh masks it: any at all outside the layout; on a hub with a
spare the rank that has left the layout (a spare or idle rank, or the rank that the spare has replaced); otherwise one without a carved or
reserved slot (R554, R579). -/
def State.masksAny (s : State) (h c : Nat) : Bool :=
  let x := s.chan h c
  let keep := (s.keptSlots h).flatMap (s.segsOf h c)
  !x.layout || (s.layoutChans h).any (fun k => (s.chan h (32 + k)).spareSet)
    || (List.range (8 * x.rankCount)).any (fun g => !keep.contains g)

/-- A channel enters self-refresh (R577, R579). -/
def State.srEnter (s : State) (h c : Nat) : State :=
  let on := decide (32 ≤ c ∧ s.eff.u8 .compat 1 = 1) && (s.chan h c).pasrCap
  let m := if on then s.maskable h c else []
  let any := s.masksAny h c
  let s := s.modChan h c (fun x => { x with state := .selfRefresh, masked := m, pasr := on && any })
  { s with slots := m.foldl (fun t e => t.set e .reserved) s.slots }

/-- A channel leaves self-refresh: one refresh at once, its phase, and a retrain if the temperature has moved (R563, R578). -/
def State.srLeave (s : State) (h c : Nat) : State :=
  let s := ((s.modChan h c (fun x => { x with state := .inService, pasr := false, masked := [] })).refreshChan h c).takePhase h c
  if (s.chan h c).moved then s.retrainAsk h c else s

/-- Slots that were masked are filled with zeros before they are Free again (R579). -/
def State.fillMasked (s : State) (l : List Nat) : State :=
  l.foldl (fun s e => { s.fillUnits e 0 128 with slots := (s.fillUnits e 0 128).slots.set e .free }) s

/-- A channel leaves self-refresh, and the slots it had masked are filled: those that the hub's other deep channel does not mask as well.
The fill of a slot is a request to the other channel too, which it restarts (R578, R579). -/
def State.srExit (s : State) (h c : Nat) : State :=
  if (s.chan h c).state ≠ .selfRefresh then s
  else
    let m := (s.chan h c).masked
    let o := 65 - c
    let off := (s.chan h o).masked
    let mine := m.filter (fun e => !off.contains e)
    let both := decide (32 ≤ c) && !mine.isEmpty && (s.chan h o).state == .selfRefresh
    let s := s.srLeave h c
    let s := if both then s.srLeave h o else s
    s.fillMasked (if both then m ++ off.filter (fun e => !m.contains e) else mine)

/-- A request to the channel of a storage address restarts it (R578). -/
def State.wakeChan (s : State) (a : Nat) : State := s.srExit (a / 2 ^ 41) (s.chanOf a)

/-- Requests to a whole slot restart every channel it lies on (R550, R555, R578). -/
def State.wakeSlot (s : State) (e : Nat) : State :=
  let h := e / 8192
  let cs := if e % 8192 < 384 then List.range 32 else (s.layoutChans h).map (· + 32)
  cs.foldl (fun s c => s.srExit h c) s

/-- Fills a run of whole units of a slot, whose channels are restarted (R578, R599). -/
def State.fillSlot (s : State) (e first count : Nat) : State := (s.wakeSlot e).fillUnits e first count

/-! ### Reading and writing lines by DPA -/

/-- What a read of a line delivers. -/
structure LineRead where
  data : Line
  poison : Bool
deriving DecidableEq, Repr

/-- The line of the destination that a line of the source of the lift at the head goes to. -/
def State.liftDest (s : State) (l : Nat) : Option Nat :=
  match s.lift.queue with
  | j :: _ => if l / 2 ^ 22 = j.src.toNat then some (j.dest.toNat * 2 ^ 22 + l % 2 ^ 22) else none
  | [] => none

/-- The destination of a lift takes every write of a source line that has been copied, or whose read for the copy is under way (R573,
R574). -/
def State.mirrorOf (s : State) (l : Nat) : Option Nat :=
  match s.lift.queue with
  | j :: _ => if l % 2 ^ 22 < j.next then s.liftDest l else none
  | [] => none

/-- Writes a line of the destination of a lift: data, or poison when there is none. -/
def State.putCopy (s : State) (l : Nat) (d : Option Line) : State :=
  let sl := s.storage (64 * l) / 64
  let s := s.wakeChan (64 * sl)
  match d with
  | some d => s.putLine sl (s.lineKey l) d
  | none => s.putPoison sl

/-- Writes DPA line `l` (and its copy in the destination of a lift). -/
def State.storeLine (s : State) (l : Nat) (d : Line) : State :=
  let sl := s.storage (64 * l) / 64
  let s := ((s.wakeChan (64 * sl)).putLine sl (s.lineKey l) d).bump (sl / 2 ^ 35) 5 0x81 (s.chanOf (64 * sl)) 1
  match s.mirrorOf l with
  | some l' => s.putCopy l' (some d)
  | none => s

/-- Writes DPA line `l`, given how the write command fares at the controller: one reported twice is a hard command error on the slot or
rank, except in a `TEST_ONLY` extent (R565, R619). A line whose unit a spare replaces takes the write (notes/assumptions/36.md). -/
def State.writeLine (s : State) (l : Nat) (d : Line) (m : Medium) : State :=
  let s := s.storeLine l d
  match m with
  | .commandError t => if s.testLine l then s else s.hardCommand (s.storage (64 * l) / 64) t
  | _ => s

/-- Writes the poison pattern to DPA line `l` (and its copy). -/
def State.storePoison (s : State) (l : Nat) : State :=
  let s := (s.wakeChan (s.storage (64 * l))).putPoison (s.storage (64 * l) / 64)
  match s.mirrorOf l with
  | some l' => s.putCopy l' none
  | none => s

/-- The lift engines have read a line of the source, which goes to the destination (R573). -/
def State.liftTake (s : State) (l : Nat) (d : Option Line) : State :=
  match s.liftDest l with
  | some l' => s.putCopy l' d
  | none => s

/-- How a line stored raw decodes with its own check bytes (R618); none for any other line. -/
def State.rawDecode (s : State) (sl : Nat) : Option RsOut :=
  (s.lmeta sl).check.map (rsDecode (isStack (64 * sl)) (memLine s.mem sl))

/-- What a read finds, where the stored bytes themselves may be uncorrectable. -/
def rawMedium (raw : Option RsOut) (m : Medium) : Medium :=
  if raw = some .uncorrectable then (match m with | .commandError _ => m | _ => .uncorrectable false) else m

/-- An uncorrectable line (R565, R600): a hard data error in a written unit, otherwise counted and recorded with nothing written. -/
def State.lineLost (s : State) (sl : Nat) (inTarget : Bool) : State :=
  if s.initAt (64 * sl) then s.hardData sl inTarget
  else (s.modMemHub (sl / 2 ^ 35) (fun m => { m with ue := satAdd m.ue 1 })).logError (s.lineRec 2 (64 * sl))

/-- Reads DPA line `l`, given what the DRAM and decoder find (R594–R602, R619); a line stored raw is decoded with its own check
bytes (R618). A poisoned line reads as poison unless what remains beside the poison is itself uncorrectable (R596). -/
def State.loadLine (s : State) (l : Nat) (m : Medium) : LineRead × State :=
  let sl := s.storage (64 * l) / 64
  let a := 64 * sl
  let s := (s.wakeChan a).bump (sl / 2 ^ 35) 5 0x80 (s.chanOf a) 1
  let raw := s.rawDecode sl
  let v := match raw with | some (.corrected _ d) => s.decrypted sl (s.lineKey l) d | _ => s.lineValue sl (s.lineKey l)
  let poisoned := (s.lmeta sl).poison || raw == some .poison
  let read : LineRead := if poisoned then ⟨0, true⟩ else ⟨v, false⟩
  let m := rawMedium raw m
  if s.testLine l then
    match m with
    | .uncorrectable _ | .commandError _ => (⟨0, true⟩, s)
    | _ => (read, s)
  else match m with
    | .clean => (read, s)
    | .corrected sy b r c => (read, if s.initAt a ∧ ¬poisoned then s.corrected sl ⟨sy, b, r, c⟩ else s)
    | .uncorrectable t => (⟨0, true⟩, s.lineLost sl t)
    | .commandError t => (⟨0, true⟩, s.hardCommand sl t)

/-- Merges bytes into DPA line `l`: a poisoned line stays poisoned, and a line of an unwritten unit found uncorrectable
becomes poison (R131, R178, R597, R600). Answers whether the line is poisoned. -/
def State.mergeStore (s : State) (l : Nat) (d : Line) (mask : BitVec 64) (m : Medium) : Bool × State :=
  let (r, s) := s.loadLine l m
  if r.poison then (true, if s.testLine l then s else s.storePoison l) else (false, s.storeLine l (mergeLine r.data d mask))

/-! ### Which slots a hub has (R106, R551, R554, R556) -/

/-- `DEEP_CH_EN` of a hub has channel `c`. -/
def State.deepEn (s : State) (h c : Nat) : Bool := (BitVec.ofNat 8 (s.eff.u8 .tiers (8 * h))).getLsbD c
/-- `DEEP_SPARE` of a hub has channel `c`. -/
def State.deepSpare (s : State) (h c : Nat) : Bool := (BitVec.ofNat 8 (s.eff.u8 .tiers (8 * h + 2))).getLsbD c

/-- Deep slots of a hub's layout (R554). -/
def State.deepCount (s : State) (h : Nat) : Nat :=
  match s.layoutChans h with
  | [] => 0
  | c :: r =>
    let x := s.chan h (32 + c)
    let spare := b2n ((c :: r).any (s.deepSpare h))
    min 4096 ((r.length + 1) * (x.rankCount - spare) * x.rankBytes / 2 ^ 28)

/-- Stack slots of a hub that the part holds as Reserved: spares, save area and export region, from the top downward (R551). -/
def State.reservedFrom (s : State) (h : Nat) : Nat :=
  384 - s.eff.u8 .tiers (8 * h + 3) - 4 * s.eff.u8 .tiers (8 * h + 4)
    - (if s.exportMode = 2 ∧ s.exportHub = h then (s.exportMib + 255) / 256 else 0)

/-- The state a slot takes from the image, where it was in `old`: retired and carved slots stay so. -/
def slotNow (old : SlotState) (present reserved : Bool) : SlotState :=
  match old with
  | .retired => .retired
  | .carved => .carved
  | _ => if ¬present then .absent else if reserved then .reserved else .free

/-- Writes a slot's state; Absent is what an unlisted slot is. -/
def setSlot (m : SMap SlotState) (k : Nat) (x : SlotState) : SMap SlotState :=
  if x = .absent then SMap.erase m k else SMap.set m k x

/-- The hub holds a carved or reserved deep slot, so that its deep layout is fixed (R556). -/
def State.deepHeld (s : State) (h : Nat) : Bool :=
  let off := s.maskedOf h
  s.slots.any (fun e => e.1 / 8192 == h && decide (4096 ≤ e.1 % 8192) && (e.2 == .carved || (e.2 == .reserved && !off.contains e.1)))

/-- Lays a hub's deep tier out afresh when nothing holds its layout: over its enabled, usable channels that have not failed
(R554, R556). -/
def State.relayDeep (s : State) (h : Nat) : State :=
  let s := if s.deepHeld h then s
    else [0, 1].foldl (fun s c => s.modChan h (32 + c) (fun x => { x with
      layout := s.inService h && s.deepEn h c && x.usable && decide (x.state ≠ .failed ∧ x.state ≠ .disabled) })) s
  let n := s.deepCount h
  let s := [0, 1].foldl (fun s c => s.modChan h (32 + c) (fun x =>
    { x with spareSet := x.layout && s.deepSpare h c, spareInit := x.spareInit && x.layout && s.deepSpare h c })) s
  let off := s.maskedOf h
  { s with
    slots := (List.range 4096).foldl (fun m i =>
      let k := h * 8192 + 4096 + i
      if off.contains k then m
      else setSlot m k (slotNow (SMap.getD m k .absent) (decide (i < n) && !s.sys.filling) false)) s.slots }

/-- Gives a hub's slots the states that the image in force implies (R106, R551); until start-up has filled its spares, no slot leaves
Absent (R601). -/
def State.laySlots (s : State) (h : Nat) : State :=
  let lo := s.reservedFrom h
  let spare := 384 - s.eff.u8 .tiers (8 * h + 3)
  let s : State := { s with
    slots := (List.range 384).foldl (fun m i =>
      let k := h * 8192 + i
      setSlot m k (slotNow (SMap.getD m k .absent) (s.inService h && !s.sys.filling) (decide (lo ≤ i)))) s.slots }
  let free := ((List.range 384).filter (fun i => decide (spare ≤ i))).filter (fun i =>
    SMap.getD s.slots (h * 8192 + i) .absent == .reserved && !((s.memHub h).sparesLent.any (fun x => x.1 == i)))
  (s.modMemHub h (fun m => { m with sparesFree := free })).relayDeep h

end Sys2Proof.Machine
end

