-- ==== Sys2Proof/Machine/ZlCode.lean ====
section
/-! DEFINITION. ZlCode.lean: what a ZL port puts on its lanes: the 40 bytes of each cell with its CRC-32C, and the codewords that carry
sixteen cells (chapters "Zorinka Link: Cells, Replay and Retraining" and "Zorinka Link: Wormhole Switching, Credits and Transport"); and
AES-256-GCM, with which packets, records and messages are sealed. -/
namespace Sys2Proof.Machine
open Sys2Proof

/-! ### AES-256-GCM (SP 800-38D; notes/assumptions/6.md) -/

/-- The counter mode of AES-256-GCM: bytes under the key stream. -/
def gcmCtr (key : Nat) (nonce b : List Byte) : List Byte := b.zipIdx.map (fun x => x.1 ^^^ Config.gcmStream key nonce x.2)
/-- The 16 bytes of the tag over additional data and a ciphertext. -/
def gcmTagBytes (key : Nat) (nonce aad ct : List Byte) : List Byte := leBytes 16 (Config.gcmTag key nonce aad ct).toNat
/-- Seals plaintext: the ciphertext, followed by its tag. -/
def gcmSeal (key : Nat) (nonce aad plain : List Byte) : List Byte :=
  gcmCtr key nonce plain ++ gcmTagBytes key nonce aad (gcmCtr key nonce plain)
/-- Opens a ciphertext whose tag is `tag`. -/
def gcmOpen (key : Nat) (nonce aad ct tag : List Byte) : Option (List Byte) :=
  if tag = gcmTagBytes key nonce aad ct then some (gcmCtr key nonce ct) else none

/-! ### CRC-32C (R229) -/

/-- The polynomial. -/
def crcPoly : BitVec 32 := 0x1EDC6F41
/-- One bit of reflected input: the register moves toward its low end. -/
def crcBit (r : BitVec 32) : BitVec 32 := if r.getLsbD 0 then (r >>> 1) ^^^ crcPoly.reverse else r >>> 1
/-- One byte, its low bit first. -/
def crcByte (r : BitVec 32) (b : Byte) : BitVec 32 := (List.range 8).foldl (fun r _ => crcBit r) (r ^^^ b.setWidth 32)
/-- CRC-32C of some bytes. -/
def crc32c (b : List Byte) : BitVec 32 := b.foldl crcByte 0xFFFFFFFF ^^^ 0xFFFFFFFF

end Sys2Proof.Machine

namespace Sys2Proof
open Sys2Proof.Machine

/-! ### Cells (R226–R228) -/

/-- The common part of a `HEAD` body, in 12 bytes (R259). -/
def Packet.head (k : Packet) : List Byte :=
  leBytes 1 (k.ptype.toNat + 16 * k.data.length) ++ leBytes 2 (k.dst.toNat + 4096 * k.lvc.toNat) ++ leBytes 2 k.src.toNat
    ++ leBytes 3 k.tseq.toNat ++ leBytes 1 (b2n k.rtx + 2 * b2n k.syn + 4 * b2n k.path) ++ leBytes 1 0 ++ leBytes 2 k.wnd.toNat

/-- The body of a sequenced cell, in 32 bytes (R259, R261, R270). -/
def CellBody.bytes : CellBody → List Byte
  | .head _ k => k.head ++ leBytes 20 k.payload.toNat
  | .body _ k i => leBytes 32 (k.data.getD i 0).toNat
  | .credit _ n init => leBytes 2 n.toNat ++ leBytes 1 (b2n init) ++ leBytes 29 0

/-- The virtual channel that a sequenced cell names. -/
def CellBody.vc : CellBody → BitVec 4
  | .head v _ | .body v _ _ | .credit v _ _ => v

/-- `KIND` (R227). -/
def Cell.kind : Cell → Nat
  | .null => 0x0
  | .seqd _ _ _ (.head ..) => 0x1
  | .seqd _ _ _ (.body ..) => 0x2
  | .seqd _ _ _ (.credit ..) => 0x3
  | .beacon .. => 0x4
  | .ack _ => 0x8
  | .nak _ => 0x9
  | .keepalive .. => 0xA
  | .train .. => 0xB
  | .retrain .. => 0xC

/-- Bytes 0 and 1: `SEQ` and `VC`, 0 in an unsequenced cell. -/
def Cell.tag : Cell → Nat
  | .seqd n _ _ b => n.toNat + 4096 * b.vc.toNat
  | _ => 0

/-- `LCTL` (R228). -/
def Cell.lctl : Cell → Nat
  | .seqd _ rpl ackreq _ => b2n rpl + 2 * b2n ackreq
  | _ => 0

/-- The body, in 32 bytes (R236, R239, R244, R245, R292). -/
def Cell.body : Cell → List Byte
  | .seqd _ _ _ b => b.bytes
  | .null => leBytes 32 0
  | .ack n | .nak n => leBytes 2 n.toNat ++ leBytes 30 0
  | .keepalive n lanes st id => leBytes 2 n.toNat ++ leBytes 1 lanes.toNat ++ leBytes 1 st.toNat ++ leBytes 4 id.toNat ++ leBytes 24 0
  | .train id tx rx least =>
    leBytes 4 id.toNat ++ leBytes 1 tx.toNat ++ leBytes 1 rx.toNat ++ leBytes 1 least.toNat ++ leBytes 25 0
  | .retrain op mask id => leBytes 1 op.toNat ++ leBytes 1 mask.toNat ++ leBytes 4 id.toNat ++ leBytes 26 0
  | .beacon t e d st l =>
    leBytes 8 t.toNat ++ leBytes 8 e.toNat ++ leBytes 4 d.toNat ++ leBytes 1 st.toNat ++ leBytes 1 (b2n l) ++ leBytes 10 0

/-- Bytes 0 to 35 of a cell (R226). -/
def Cell.front (c : Cell) : List Byte := leBytes 2 c.tag ++ leBytes 1 (c.kind + 16 * c.lctl) ++ leBytes 1 0 ++ c.body

/-- The 40 bytes of a cell as sent: the CRC covers bytes 0 to 35 and stands little-endian in bytes 36 to 39 (R226, R229). -/
def Cell.wire (c : Cell) : List Byte := c.front ++ leBytes 4 (crc32c c.front).toNat

end Sys2Proof

namespace Sys2Proof.Machine
open Sys2Proof

/-- The 40 bytes of a received cell pass their CRC (R229). -/
def crcPasses (b : List Byte) : Bool := b.length == 40 && leNat (b.drop 36) == (crc32c (b.take 36)).toNat

/-! ### Codewords (R222) -/

/-- The lanes of a mask. -/
def laneCount (m : BitVec 8) : Nat := (List.range 8).countP (fun i => m.getLsbD i)

/-- `WIDTH` of a codeword on the lanes of a mask: 1 on four lanes, 2 on two, else 0. -/
def widthCode (m : BitVec 8) : BitVec 2 := if laneCount m = 4 then 1 else if laneCount m = 2 then 2 else 0

/-- The 20 bits of a codeword header. -/
def codewordHeader (count : Nat) (width : BitVec 2) : Nat := count % 256 + 256 * width.toNat

/-- The 514 message symbols of a codeword: the header, then sixteen cells, in ten bits each from the low end. -/
def codewordMessage (count : Nat) (width : BitVec 2) (cells : List Cell) : List Nat :=
  let v := codewordHeader count width + 2 ^ 20 * leNat ((cells.take 16).flatMap Cell.wire)
  (List.range 514).map (fun i => v / 2 ^ (10 * i) % 1024)

/-- Multiplication by α in GF(2¹⁰), modulo x¹⁰ + x³ + 1 (PRESUMED: the field of IEEE 802.3, notes/assumptions/68.md). -/
def gf10Double (a : Nat) : Nat := if a < 512 then 2 * a else Nat.xor (2 * a) 0x409

/-- The product, by the bits of `b` from the lowest up. -/
def gf10MulBits (a b : Nat) : Nat → Nat
  | 0 => 0
  | n + 1 => Nat.xor (gf10MulBits (gf10Double a) (b / 2) n) (if b % 2 = 1 then a else 0)

/-- The product of two symbols. -/
def gf10Mul (a b : Nat) : Nat := gf10MulBits a b 10

/-- α to the power `n`. -/
def gf10Alpha : Nat → Nat
  | 0 => 1
  | n + 1 => gf10Double (gf10Alpha n)

/-- A polynomial, highest coefficient first, times x + c. -/
def gf10TimesRoot (g : List Nat) (c : Nat) : List Nat :=
  List.zipWith Nat.xor (g ++ [0]) (0 :: g.map (gf10Mul c))

/-- The generator polynomial, highest coefficient first: the product of x + αⁱ for i from 0 to 29. -/
def rsGenerator : List Nat := (List.range 30).foldl (fun g i => gf10TimesRoot g (gf10Alpha i)) [1]

/-- The 30 parity symbols of a message, the highest coefficient first: what division by the generator leaves. -/
def rsParity (msg : List Nat) : List Nat :=
  msg.foldl (fun r m =>
    let f := Nat.xor m (r.headD 0)
    List.zipWith Nat.xor (r.drop 1 ++ [0]) ((rsGenerator.drop 1).map (gf10Mul f))) (List.replicate 30 0)

/-- The 544 symbols of a codeword, in the order in which they are sent. -/
def codeword (count : Nat) (width : BitVec 2) (cells : List Cell) : List Nat :=
  let m := codewordMessage count width cells
  m ++ rsParity m

/-- The lane that carries symbol `i` of a codeword: the active lanes in turn, from the lowest. -/
def symbolLane (mask : BitVec 8) (i : Nat) : Nat :=
  let l := (List.range 8).filter (mask.getLsbD ·)
  l.getD (i % max 1 l.length) 0

/-- The decoder can correct a codeword that arrives as `got` where `sent` was sent: at most 15 symbols differ. -/
def codewordCorrectable (sent got : List Nat) : Bool := decide ((List.zipWith (fun a b => b2n (a != b)) sent got).sum ≤ 15)

/-- The corrected symbols of a codeword on each of the 8 lanes (R224). -/
def correctedOn (mask : BitVec 8) (sent got : List Nat) : List Nat :=
  (List.range 8).map (fun k => ((List.zipWith (fun a b => a != b) sent got).zipIdx.filter
    (fun e => e.1 && symbolLane mask e.2 == k)).length)

end Sys2Proof.Machine
end

