-- ==== Sys2Proof/Machine/ZlOps.lean ====
section
/-! DEFINITION. ZlOps.lean: the shared operations of the ZL ports: sending cells and packets, link changes, the transport flows,
the paths and the pool-time source. -/
namespace Sys2Proof.Machine
open Sys2Proof

/-! ### Ports and their FABRIC entries (R61) -/

/-- The record of port `p`. -/
def State.port (s : State) (p : Nat) : ZlPort := s.zl.getD p {}
/-- Changes the record of port `p`. -/
def State.modPort (s : State) (p : Nat) (f : ZlPort → ZlPort) : State := { s with zl := s.zl.mod p {} f }
/-- `ROLE` of port `p`. -/
def State.role (s : State) (p : Nat) : Nat := s.eff.u8 .fabric (24 * p)
/-- `LANES_MIN` of port `p`. -/
def State.lanesMin (s : State) (p : Nat) : Nat := s.eff.u8 .fabric (24 * p + 1)
/-- `FC_MODE` of port `p`. -/
def State.fcMode (s : State) (p : Nat) : Nat := s.eff.u8 .fabric (24 * p + 2)
/-- `WINDOW` of port `p` in use: 64 during a fall-back (R274). -/
def State.windowOf (s : State) (p : Nat) : Nat :=
  if (s.port p).fallback then 64 else s.eff.u16 .fabric (24 * p + 4)
/-- The cells of the buffer reserved for VC `v` (R269). -/
def State.vcShare (s : State) (p v : Nat) : Nat := 8 * s.eff.u8 .fabric (24 * p + 8 + v)
/-- The ports with `ROLE` 2 that are Up, the lowest number first (R513). -/
def State.pairPorts (s : State) : List Nat :=
  (List.range 32).filter (fun p => s.role p == 2 && (s.port p).state == .up)

/-- The number of an endpoint that the part exchanges packets with: a fabric host, or a pool device (R256). -/
def isEndpoint (h : Nat) : Bool := decide (h < 0x400 ∨ (0x800 ≤ h ∧ h < 0x900))

/-- The primary and the secondary port of a fabric host, or of a pairs peer (R513); 0xFF for none. -/
def State.route (s : State) (h : Nat) (secondary : Bool) : Nat :=
  if 0x400 ≤ h then s.pairPorts.getD (b2n secondary) 0xFF
  else if s.si.committed then s.eff.u8 .fabric (0x320 + 4 * h + b2n secondary) else 0xFF

/-- The port exists, its hub is in service and not in reset, its clock runs and its role is not 0. -/
def State.portUsable (s : State) (p : Nat) : Bool :=
  s.inService (p / 4) && (s.hub (p / 4)).sdsRefclkOk && decide ((s.hub (p / 4)).phase ≠ .reset)
    && s.role p != 0 && !s.sys.portsStopped

/-- The port is in service for sequenced cells: it is Up, or waits for a width change. -/
def State.receiving (s : State) (p : Nat) : Bool :=
  (s.port p).state == .up || (s.port p).state == .widthChange

/-- Cells of the port can be received: it is in service, or in its handshake (R243). -/
def State.hearsCells (s : State) (p : Nat) : Bool := s.receiving p || (s.port p).state == .handshake

/-- A cell as port `p` puts it on its lanes (R222, R226). -/
def State.cellOn (s : State) (p : Nat) (c : Cell) : Out := .cell p (widthCode (s.port p).txMask) c.wire

/-- Sends a cell on port `p`. -/
def State.sendCell (s : State) (p : Nat) (c : Cell) : State :=
  if s.sys.portsStopped then s else s.emit (s.cellOn p c)

/-- The VC on which a packet travels (R265). -/
def ZlPort.vcOf (q : ZlPort) (k : Packet) : Nat := if q.windowMode then 6 else k.lvc.toNat

/-- Sends one new sequenced cell: the next sequence number, a place in the replay buffer and `ACKREQ` on the cell that
brings the outstanding count to 1,536 (R231, R232, R236). -/
def State.numberCell (s : State) (p : Nat) (b : CellBody) : State :=
  let q := s.port p
  let s := s.modPort p (fun q => { q with nextSeq := q.nextSeq + 1, replay := q.replay ++ [(q.nextSeq, b)] })
  (s.sendCell p (.seqd q.nextSeq false (q.replay.length + 1 == 1536) b)).bump (p / 4) 8 0x80 (p % 4) 1

/-- Sends a sequenced cell that stands alone, or lets it wait for room in the replay buffer (R232). -/
def State.sendSeq (s : State) (p : Nat) (b : CellBody) : State :=
  let q := s.port p
  if q.seqWait.isEmpty ∧ q.replay.length < 2048 then s.numberCell p b
  else s.modPort p (fun q => { q with seqWait := q.seqWait ++ [b] })

/-- Sends the cells that waited for room in the replay buffer, as far as there is some (R232). -/
def State.flushSeq (s : State) (p : Nat) : State :=
  let q := s.port p
  let n := 2048 - q.replay.length
  (q.seqWait.take n).foldl (fun s b => s.numberCell p b) (s.modPort p (fun q => { q with seqWait := q.seqWait.drop n }))

/-- The cells of a packet on VC `v`, head first (R259, R261). -/
def packetCells (v : Nat) (k : Packet) : List CellBody :=
  .head (BitVec.ofNat 4 v) k :: (List.range k.data.length).map (fun i => .body (BitVec.ofNat 4 v) k i)

/-- Port `p` may begin the packet now: it is Up, holds `LEN` + 1 credits on the packet's VC in credit mode (R269), and
its replay buffer has room (R232). -/
def ZlPort.mayBegin (q : ZlPort) (k : Packet) : Bool :=
  q.state == .up && q.seqWait.isEmpty && decide (q.replay.length + k.data.length + 1 ≤ 2048)
    && (q.windowMode || decide (k.data.length + 1 ≤ q.credits.getD (q.vcOf k) 0))

/-- The window that the part offers a host over port `p`: what it has reserved, on a port in window mode (R259, R277). -/
def State.offered (s : State) (p h : Nat) : BitVec 16 :=
  if (s.port p).windowMode ∧ h < 0x400 then BitVec.ofNat 16 (s.hosts.getD h {}).reserved else 0

/-- Sends the cells of a packet that may begin, spending its credits. -/
def State.beginPacket (s : State) (p : Nat) (k : Packet) : State :=
  let q := s.port p
  let k : Packet := { k with wnd := s.offered p k.dst.toNat }
  let s := if q.windowMode then s
           else s.modPort p (fun q => { q with credits := q.credits.mod (q.vcOf k) 0 (· - (k.data.length + 1)) })
  (packetCells (q.vcOf k) k).foldl (fun s c => s.numberCell p c) s

/-- Sends, in order on each VC, the waiting packets that may begin; `blocked` are the VCs whose first packet waits. -/
def State.drainList (s : State) (p : Nat) : List Packet → List Nat → List Packet → State
  | [], _, kept => s.modPort p (fun q => { q with waiting := kept.reverse })
  | k :: r, blocked, kept =>
    let v := (s.port p).vcOf k
    if ¬blocked.contains v ∧ (s.port p).mayBegin k then (s.beginPacket p k).drainList p r blocked kept
    else s.drainList p r (v :: blocked) (k :: kept)

/-- VC `v` has a waiting packet that lacks credits (`CREDIT_WAIT`, R296). -/
def ZlPort.creditWait (q : ZlPort) (v : Nat) : Bool :=
  !q.windowMode && q.waiting.any (fun k => q.vcOf k == v && decide (q.credits.getD v 0 < k.data.length + 1))

/-- Waits for credits that begin or end are noted for the trace (R754) and the counter of R765. -/
def State.noteCredit (s : State) (p : Nat) (before : ZlPort) : State :=
  (List.range 7).foldl (fun s v =>
    let was := before.creditWait v
    let now := (s.port p).creditWait v
    if now ∧ ¬was then
      match (s.port p).waiting.find? (fun k => (s.port p).vcOf k == v) with
      | some k => s.waitBegin (p / 4) (.zlPort (p % 4))
          { ekind := 7, start := s.clk.now, object := BitVec.ofNat 16 v, by_ := k.dst.setWidth 16,
            detail := BitVec.ofNat 32 (k.data.length + 1 - (s.port p).credits.getD v 0) }
      | none => s
    else if was ∧ ¬now then
      let ns := ((s.traceUnit (tkey (p / 4) (.zlPort (p % 4)))).waits.filter
        (fun w => w.ekind == 7 && w.object.toNat == v)).foldl (fun a w => a + (s.clk.now - w.start)) 0
      (s.waitEnd (p / 4) (.zlPort (p % 4)) (fun w => w.ekind == 7 && w.object.toNat == v) none).bump (p / 4) 9 0x80
        (p % 4) ns
    else s) s

/-- With the replay buffer full and more to send, the port sends a `NULL` cell instead (R232). -/
def State.nullInstead (s : State) (p : Nat) : State :=
  let q := s.port p
  if q.state = .up ∧ 2048 ≤ q.replay.length ∧ ¬(q.waiting.isEmpty ∧ q.seqWait.isEmpty) then s.sendCell p .null else s

/-- Sends what can be sent of the cells and packets that wait at port `p`. -/
def State.drainPort (s : State) (p : Nat) : State :=
  let s := s.flushSeq p
  let before := s.port p
  ((s.drainList p before.waiting [] []).noteCredit p before).nullInstead p

/-- Hands a packet to port `p`: it begins at once or waits there; a quiesce of the port keeps it back (R92). -/
def State.toPort (s : State) (p : Nat) (k : Packet) : State :=
  if s.sys.portsStopped then s
  else if s.si.hold.ports.getLsbD p then s.modPort p (fun q => { q with parked := q.parked ++ [k] })
  else (s.modPort p (fun q => { q with waiting := q.waiting ++ [k] })).drainPort p

/-- The packets that a quiesce kept back go on. -/
def State.unpark (s : State) : State :=
  ((s.zl.filter (fun e => !e.2.parked.isEmpty)).map (·.1)).foldl (fun s p =>
    (s.modPort p (fun q => { q with waiting := q.waiting ++ q.parked, parked := [] })).drainPort p) s

/-! ### Acknowledgement, loss and replay (R233–R238) -/

/-- Sends an acknowledgement of everything accepted (R236). -/
def State.sendAck (s : State) (p : Nat) : State :=
  (s.modPort p (fun q => { q with unacked := 0, ackDue := false })).sendCell p (.ack (s.port p).eseq)

/-- A loss event: enters NAK-pending and sends `NAK` naming `ESEQ`, unless NAK-pending already (R234). -/
def State.lossEvent (s : State) (p : Nat) : State :=
  if (s.port p).nakPending then s
  else (s.modPort p (fun q => { q with nakPending := true })).sendCell p (.nak (s.port p).eseq)

/-- Counts a discard in `ZL_LINK_ERR.PROTO` (R230, R237). -/
def State.protoErr (s : State) (p : Nat) : State := s.modPort p (fun q => { q with proto := satAdd q.proto 1 })

/-- Resends the whole buffer with `RPL` = 1 and counts the replay (R237, R249). -/
def State.replayAll (s : State) (p : Nat) : State :=
  let q := s.port p
  let s := (s.modPort p (fun q => { q with replays := satAdd q.replays 1 })).bump (p / 4) 8 0x82 (p % 4) q.replay.length
  q.replay.foldl (fun s c => (s.sendCell p (.seqd c.1 true false c.2)).bump (p / 4) 8 0x80 (p % 4) 1) s

/-- The sequence of the oldest outstanding cell. -/
def ZlPort.oldest (q : ZlPort) : BitVec 12 := q.nextSeq - BitVec.ofNat 12 q.replay.length

/-- How many outstanding cells come before `a`, when `a` is in range (R237). -/
def ZlPort.span (q : ZlPort) (a : BitVec 12) : Option Nat :=
  let d := (a - q.oldest).toNat
  if d ≤ q.replay.length then some d else none

/-- An acknowledgement of every cell before `a`: frees them, or counts a value out of range (R236, R237). -/
def State.ackUpTo (s : State) (p : Nat) (a : BitVec 12) : State :=
  match (s.port p).span a with
  | none => s.protoErr p
  | some d =>
    (s.modPort p (fun q =>
      let beyond := match q.nakSeq with
        | some n => decide (0 < (a - n).toNat ∧ (a - n).toNat ≤ 2048)
        | none => false
      { q with
          replay := q.replay.drop d, nakSeq := if beyond then none else q.nakSeq,
          nakRepeats := if beyond then 0 else q.nakRepeats })).drainPort p

/-! ### Lanes, requests and grants (R244–R250) -/

/-- The legal lane masks, widest first and lowest-numbered lanes first (R244). -/
def legalMasks : List (BitVec 8) := [0xFF, 0x0F, 0xF0, 0x03, 0x0C, 0x30, 0xC0]

/-- The widest legal mask within the usable lanes, the lowest-numbered lanes winning (R244). -/
def bestMask (usable : BitVec 8) : Option (BitVec 8) := legalMasks.find? (fun m => m &&& usable == m)

/-- Sends this end's request (R246). -/
def State.sendRequest (s : State) (p : Nat) (r : LinkReq) : State :=
  match r with
  | .width m => s.sendCell p (.retrain 1 m (s.port p).trainId)
  | .retrain => s.sendCell p (.retrain 2 0 (s.port p).trainId)

/-- Asks for a link change, when the port is Up with no change under way. -/
def State.request (s : State) (p : Nat) (r : LinkReq) : State :=
  let q := s.port p
  if q.state = .up ∧ q.request = none ∧ q.granted = none then
    (s.modPort p (fun q => { q with request := some r })).sendRequest p r
  else s

/-- Starts a retrain of the part's own, in place of a width change that it has asked for (R238, R245). -/
def State.wantRetrain (s : State) (p : Nat) : State :=
  let q := s.port p
  if q.state = .up ∧ q.granted = none ∧ q.request ≠ some .retrain then
    (s.modPort p (fun q => { q with request := some .retrain })).sendRequest p .retrain
  else s

/-- Marks a change as granted: the switch follows, and after a width change the receiver follows the peer's `WIDTH` (R248); the down
timer stops at the grant of a width change (R240). -/
def ZlPort.grant (q : ZlPort) (r : LinkReq) : ZlPort :=
  match r with
  | .width m => { q with granted := some r, state := .widthChange, timerStopped := true, rxNext := some m }
  | .retrain => { q with granted := some r }

/-- The grant cell of a request. -/
def ZlPort.grantCell (q : ZlPort) (r : LinkReq) : Cell := .retrain 3 (match r with | .width m => m | .retrain => 0xFF) q.trainId

/-- Sends a grant of the peer's request (R246). -/
def State.sendGrant (s : State) (p : Nat) (r : LinkReq) : State :=
  (s.modPort p (fun q => q.grant r)).sendCell p ((s.port p).grantCell r)

/-! ### Transport (R278–R283) -/

/-- The record of fabric host `h`. -/
def State.host (s : State) (h : Nat) : HostSt := s.hosts.getD h {}
/-- Changes the record of fabric host `h`. -/
def State.modHost (s : State) (h : Nat) (f : HostSt → HostSt) : State := { s with hosts := s.hosts.mod h {} f }
/-- The key of the flows between the part and an endpoint on one `LVC`. -/
def fkey (h lvc : Nat) : Nat := h * 8 + lvc
/-- The flow record. -/
def State.flow (s : State) (h lvc : Nat) : Flow := s.flows.getD (fkey h lvc) {}
/-- Changes a flow record. -/
def State.modFlow (s : State) (h lvc : Nat) (f : Flow → Flow) : State := { s with flows := s.flows.mod (fkey h lvc) {} f }

/-- The part's own endpoint number (R256). -/
def State.ownEndpoint (s : State) : BitVec 12 := 0x800 + s.zlg.devNum.setWidth 12

/-- The part holds traffic: start-up, or `HOLD` with a reason of test or recovery (R289). -/
def State.holding (s : State) : Bool :=
  s.zlg.startup || (s.zlg.hold && (s.zlg.holdReason == 1 || s.zlg.holdReason == 2))

/-- Packets to `h` that are not acknowledged, over all its flows. -/
def State.outstanding (s : State) (h : Nat) : Nat :=
  (List.range 8).foldl (fun a v => a + (s.flow h v).out.length) 0

/-- Every initial credit has arrived, on a port in credit mode (R284). -/
def ZlPort.creditsIn (q : ZlPort) : Bool := q.windowMode || (List.range 7).all (fun v => q.initSeen.getLsbD v)

/-- The path record of a host. -/
def HostSt.path (h : HostSt) (secondary : Bool) : PathSt := if secondary then h.secondary else h.primary
/-- Changes a path record. -/
def HostSt.setPath (h : HostSt) (secondary : Bool) (f : PathSt → PathSt) : HostSt :=
  if secondary then { h with secondary := f h.secondary } else { h with primary := f h.primary }

/-- The path is up: link Up, initial credits in, a probe answered since link-up (R284). -/
def State.pathUp (s : State) (h : Nat) (secondary : Bool) : Bool :=
  let p := s.route h secondary
  decide (p < 32) && s.receiving p && (s.port p).creditsIn && ((s.host h).path secondary).probed
    && !((s.host h).path secondary).lost

/-- The port over which packets to `h` go now (R287). -/
def State.txPort (s : State) (h : Nat) : Nat := s.route h (s.host h).onSecondary

/-- The most packets that may be outstanding toward `h` (R275, R276); unlimited in credit mode. -/
def State.windowLeft (s : State) (h : Nat) : Bool :=
  let p := s.txPort h
  if h < 0x400 ∧ (s.port p).windowMode then
    let w := match (s.host h).peerWnd with | none => 1 | some w => min (s.windowOf p) w.toNat
    decide (s.outstanding h < w)
  else true

/-! ### Link sealing (R688–R693) -/

/-- The packet types that a keyed host pair seals (R691). -/
def sealable (t : BitVec 4) : Bool := t == 1 || t == 2 || t == 5 || t == 6

/-- The link keys of a host. -/
def State.linkOf (s : State) (h : Nat) : Option LinkKey := s.ten.links.get? h

/-- The pair seals its packets: links are encrypted and the host has keyed (R669, R691). -/
def State.sealing (s : State) (h : Nat) : Bool := s.linkCrypt && (s.linkOf h).isSome

/-- Links are encrypted and the host has not keyed (R689). -/
def State.unkeyed (s : State) (h : Nat) : Bool := decide (h < 0x400) && s.linkCrypt && (s.linkOf h).isNone

/-- Head bytes 0–11 with `RTX`, `PATH` and `WND` read as zero (R259, R691). -/
def sealAad (k : Packet) : List Byte :=
  leBytes 1 (k.ptype.toNat + 16 * k.data.length) ++ leBytes 2 (k.dst.toNat + 4096 * k.lvc.toNat) ++ leBytes 2 k.src.toNat
    ++ leBytes 3 k.tseq.toNat ++ leBytes 1 (2 * b2n k.syn) ++ leBytes 3 0

/-- The nonce of a sealed packet (R691). -/
def sealNonce (k : Packet) (lap : Nat) : List Byte :=
  leBytes 3 (k.src.toNat + 4096 * k.dst.toNat) ++ leBytes 1 k.lvc.toNat ++ leBytes 5 lap ++ leBytes 3 k.tseq.toNat

/-- What a packet seals: head payload, then the data of its `BODY` cells (R691). -/
def sealBytes (k : Packet) : List Byte := leBytes 20 k.payload.toNat ++ k.data.flatMap (fun d => leBytes 32 d.toNat)

/-- The packet with those bytes in place. -/
def withSealBytes (k : Packet) (b : List Byte) : Packet :=
  { k with
    payload := BitVec.ofNat 160 (leNat (b.take 20)),
    data := (List.range k.data.length).map (fun i => BitVec.ofNat 256 (leNat ((b.drop (20 + 32 * i)).take 32))) }

/-- AES-256-GCM over a packet: the packet with the transformed bytes, and the tag over its own bytes as plaintext. -/
def sealPacket (key : Nat) (k : Packet) (lap : Nat) : Packet × List Byte :=
  let p := sealBytes k
  let c := gcmSeal key (sealNonce k lap) (sealAad k) p
  (withSealBytes k (c.take p.length), c.drop p.length)

/-- Opens a sealed packet with its tag (R691). -/
def openPacket (key : Nat) (k : Packet) (lap : Nat) (tag : List Byte) : Option Packet :=
  (gcmOpen key (sealNonce k lap) (sealAad k) (sealBytes k) tag).map (withSealBytes k)

/-- Seals a packet of a keyed pair under the key from part to host; its tag waits for its `SEAL` (R691). -/
def State.sealOut (s : State) (h : Nat) (k : Packet) : Packet × Option (Nat × List Byte) × State :=
  match s.linkOf h with
  | some x =>
    if s.linkCrypt ∧ sealable k.ptype then
      let lvc := k.lvc.toNat
      let lap := x.txLap.getD lvc 0
      let (c, t) := sealPacket x.txKey k lap
      let x := if k.tseq = BitVec.allOnes 24 then { x with txLap := x.txLap.set lvc (lap + 1) } else x
      (c, some (lap, t), { s with
        ten := { s.ten with
          links := s.ten.links.set h x,
          tagsOut := s.ten.tagsOut ++ [{ host := BitVec.ofNat 10 h, lvc := k.lvc, lap := lap, tseq := k.tseq, tag := t }] } })
    else (k, none, s)
  | none => (k, none, s)

/-- Sends a packet of a flow: numbers it, keeps it until acknowledged and hands it to the port (R278, R283, R287). -/
def State.launchPkt (s : State) (h : Nat) (k : Packet) : State :=
  let lvc := k.lvc.toNat
  let f := s.flow h lvc
  let p := s.txPort h
  let k : Packet := { k with
    src := s.ownEndpoint, dst := BitVec.ofNat 12 h, tseq := if f.started then f.nextTseq else 0, syn := !f.started,
    path := (s.host h).onSecondary }
  let (k, tag, s) := s.sealOut h k
  let s := s.modFlow h lvc (fun f => { f with
      started := true, nextTseq := k.tseq + 1,
      out := f.out ++ [{ pkt := k, port := p, sentAt := s.clk.now, tag := tag }] })
  if (s.host h).allLost ∨ 32 ≤ p then s else s.toPort p k

/-- Sends the packets of `h` that wait, as far as the window is open and their flow has fewer than 4,096 outstanding (R275, R278); the
packets of a full flow are kept in order. -/
def State.drainHostList (s : State) (h : Nat) : List Packet → List Packet → State
  | [], kept => s.modHost h (fun x => { x with waiting := kept.reverse })
  | k :: r, kept =>
    if s.windowLeft h ∧ (s.flow h k.lvc.toNat).out.length < 4096 then (s.launchPkt h k).drainHostList h r kept
    else s.drainHostList h r (k :: kept)

/-- As `drainHostList`, noting the end of a window wait for the trace (R754). -/
def State.drainHost (s : State) (h : Nat) : State :=
  let had := !(s.host h).waiting.isEmpty
  let s := s.drainHostList h (s.host h).waiting []
  let p := s.txPort h
  if had ∧ (s.host h).waiting.isEmpty ∧ p < 32 then
    s.waitEnd (p / 4) (.zlPort (p % 4)) (fun w => w.ekind == 8 && w.by_.toNat == h) none
  else s

/-- Sends a packet of a flow to fabric host `h`, or lets it wait for the window; a dead host gets nothing, and a host that has not
keyed gets no sealable packet while links are encrypted (R208, R689). -/
def State.sendPkt (s : State) (h : Nat) (ptype : BitVec 4) (lvc : BitVec 3) (payload : BitVec 160)
    (data : List (BitVec 256)) : State :=
  if (s.host h).dead ∨ s.sys.portsStopped ∨ (sealable ptype ∧ s.unkeyed h) then s
  else
    let k : Packet := { ptype := ptype, dst := 0, lvc := lvc, src := 0, payload := payload, data := data }
    let idle := (s.host h).waiting.isEmpty
    let s := (s.modHost h (fun x => { x with waiting := x.waiting ++ [k] })).drainHost h
    let p := s.txPort h
    if idle ∧ ¬(s.host h).waiting.isEmpty ∧ p < 32 then
      s.waitBegin (p / 4) (.zlPort (p % 4))
        { ekind := 8, start := s.clk.now, by_ := BitVec.ofNat 16 h, detail := BitVec.ofNat 32 (s.outstanding h) }
    else s

/-- The bits of a 512-bit line as the data of two `BODY` cells (R261, R262). -/
def lineCells (l : Line) : List (BitVec 256) := [l.setWidth 256, (l >>> 256).setWidth 256]

/-- Sends a transport acknowledgement of a flow: `CUM` and the `SACK` bits (R281). -/
def State.sendTack (s : State) (h lvc : Nat) : State :=
  let f := s.flow h lvc
  let sack : BitVec 64 := BitVec.ofNat 64 (f.reorder.foldl (fun a k =>
    let i := (k.2.tseq - f.recvNext).toNat
    if 1 ≤ i ∧ i ≤ 64 then a ||| 2 ^ (i - 1) else a) 0)
  let payload : BitVec 160 := BitVec.ofNat 160 (lvc + f.recvNext.toNat * 2 ^ 8 + sack.toNat * 2 ^ 32)
  let k : Packet := { ptype := 3, dst := BitVec.ofNat 12 h, lvc := 5, src := s.ownEndpoint, payload := payload,
                      path := (s.host h).onSecondary }
  if s.sys.portsStopped then s
  else
  let s := (s.modFlow h lvc (fun f => { f with ackOwed := 0 })).emit
    (.tack (BitVec.ofNat 12 h) (BitVec.ofNat 3 lvc) f.recvNext sack)
  if 32 ≤ s.txPort h then s else s.toPort (s.txPort h) k

/-- Retransmits one packet on the path now in use (R282, R287); with every path lost it waits for the first to return (R288). -/
def State.resend (s : State) (h lvc : Nat) (tseq : BitVec 24) : State :=
  let p := s.txPort h
  match (s.flow h lvc).out.find? (fun o => o.pkt.tseq == tseq) with
  | none => s
  | some o =>
    if (s.host h).allLost ∨ 32 ≤ p then s
    else
    let k := { o.pkt with rtx := true, path := (s.host h).onSecondary }
    let s := s.modFlow h lvc (fun f => { f with out := f.out.map (fun o =>
      if o.pkt.tseq == tseq then { o with pkt := k, port := p, resent := true } else o) })
    let s : State := match o.tag with
      | some (lap, t) => { s with ten := { s.ten with tagsOut := s.ten.tagsOut ++
          [{ host := BitVec.ofNat 10 h, lvc := k.lvc, lap := lap, tseq := tseq, tag := t, alone := true }] } }
      | none => s
    (s.toPort p k).bump (p / 4) 9 0x81 (p % 4) 1

/-- Retransmits, on the path now in use, every unacknowledged packet to `h` that satisfies `p` (R287, R288). -/
def State.resendAll (s : State) (h : Nat) (p : OutPkt → Bool) : State :=
  (List.range 6).foldl (fun s v =>
    ((s.flow h v).out.filter p).foldl (fun s o => s.resend h v o.pkt.tseq) s) s

/-- A path is up only once a further probe on it has been answered (R284). -/
def PathSt.unproved (x : PathSt) : PathSt := { x with probed := false, since := x.probe, unanswered := 0 }

/-- A path to `h` is lost (R286–R288); nothing is lost while the part holds traffic (R289). Traffic goes to the other path unless that is
lost too, or there is none. -/
def State.losePath (s : State) (h : Nat) (secondary : Bool) : State :=
  if s.holding then s
  else
    let port := s.route h secondary
    let s := s.modHost h (fun x => x.setPath secondary (fun y => { y.unproved with lost := true }))
    if (s.host h).onSecondary ≠ secondary then s
    else if s.route h (!secondary) < 32 ∧ ¬((s.host h).path (!secondary)).lost then
      (s.modHost h (fun x => { x with onSecondary := !secondary })).resendAll h (fun o => o.port == port)
    else s.modHost h (fun x => { x with allLost := true })

/-- The hosts and the paths that use port `p`. -/
def State.pathsOn (s : State) (p : Nat) : List (Nat × Bool) :=
  (List.range 1024).flatMap (fun h => (if s.route h false = p then [(h, false)] else []) ++ (if s.route h true = p then [(h, true)] else []))

/-- Every path that uses port `p` is lost. -/
def State.losePort (s : State) (p : Nat) : State := (s.pathsOn p).foldl (fun s x => s.losePath x.1 x.2) s

/-- The pairs peers with which the part has flows. -/
def State.flowPeers (s : State) : List Nat := ((s.flows.map (·.1 / 8)).filter (0x800 ≤ ·)).eraseDups

/-- The ports with `ROLE` 2 have changed: unacknowledged packets to peers go over the port now in use (R282, R513). -/
def State.resendPeers (s : State) (p : OutPkt → Bool) : State := s.flowPeers.foldl (fun s h => s.resendAll h p) s

/-! ### Width below `LANES_MIN` (R251) -/

/-- A port that runs below its `LANES_MIN` asks for a retrain, in place of a width change that it has asked for (R251). -/
def State.checkWidth (s : State) (p : Nat) : State :=
  let q := s.port p
  if laneCount q.laneMask < s.lanesMin p ∨ laneCount q.txMask < s.lanesMin p then s.wantRetrain p else s

/-! ### The source of pool time (R294) -/

/-- The Up port whose beacons carry the lowest `STRATUM` below 15, the lowest number winning (R294). -/
def State.beaconPort (s : State) : Option Nat :=
  (List.range 32).foldl (fun b p =>
    let q := s.port p
    if s.receiving p ∧ q.peerStratum.toNat < 15 ∧ q.peerTx ≠ 0 then
      match b with
      | none => some p
      | some c => if q.peerStratum.toNat < (s.port c).peerStratum.toNat then some p else b
    else b) none

/-- Chooses the source of pool time and sets `STRATUM` and `SOURCE` (R294). -/
def State.chooseSource (s : State) : State :=
  let g := s.zlg
  let g' : ZlGlobal :=
    if s.sys.sync.locked then { g with stratum := 0, source := 1 }
    else match s.beaconPort with
    | some p => { g with
        stratum := BitVec.ofNat 4 (min 14 ((s.port p).peerStratum.toNat + 1)), source := 2,
        sourcePort := BitVec.ofNat 5 p }
    | none => if g.ptpAvailable then { g with stratum := 14, source := 3 } else { g with stratum := 15, source := 0 }
  let changed := g'.source ≠ g.source ∨ (g'.source = 2 ∧ g'.sourcePort ≠ g.sourcePort)
  { s with zlg := if changed ∨ g'.source = 3 ∨ g'.source = 0 then { g' with locked := false, meanInSince := none } else g' }

/-- The link of port `p` goes down (R241): everything of the link is dropped, and its paths are lost unless traffic is
held. Training starts again with the next attempt. -/
def State.linkDown (s : State) (p : Nat) : State :=
  let s := s.modPort p (fun q => { q with
    state := if q.state = .disabled then .disabled else .down, laneMask := 0, txMask := 0, nakPending := false, replay := [],
    seqWait := [], request := none, granted := none, rxNext := none, nakSeq := none, nakRepeats := 0, unacked := 0, ackDue := false,
    timerStopped := false, fresh := true, assembling := [], waiting := [], parked := [], offsets := [], peerStratum := 15,
    peerTx := 0 })
  let s := (s.pathsOn p).foldl (fun s x => s.modHost x.1 (fun y => y.setPath x.2 PathSt.unproved)) s
  ((s.losePort p).resendPeers (fun o => o.port == p)).chooseSource

/-- Sends the initial credits of every VC (R271, R273); a port in window mode sends none (R275). -/
def State.sendInit (s : State) (p : Nat) : State :=
  if (s.port p).windowMode then s
  else
    (List.range 7).foldl (fun s v =>
      (s.modPort p (fun q => { q with peerCredits := q.peerCredits.set v (s.vcShare p v), owed := q.owed.set v 0 })).sendSeq p
        (.credit (BitVec.ofNat 4 v) (BitVec.ofNat 11 (s.vcShare p v)) true)) (s.modPort p (fun q => { q with initDue := false }))

/-- Port `p` leaves window mode: the reservations made on it end (R277). -/
def State.endWindow (s : State) (p : Nat) : State :=
  { s with hosts := s.hosts.mapVals (fun _ x => if x.reserved ≠ 0 ∧ x.reservedPort = p then { x with reserved := 0 } else x) }

/-- The link comes up (R231, R249, R271, R273, R274). -/
def State.linkUp (s : State) (p : Nat) (rx tx : BitVec 8) : State :=
  let q := s.port p
  let s := s.modPort p (fun q => { q with
    state := .up, laneMask := rx, txMask := tx, request := none, granted := none, rxNext := none, timerStopped := false,
    nakSeq := none, nakRepeats := 0, echoFloor := s.clk.poolTime })
  let s :=
    if q.fresh then
      let s := s.modPort p (fun q => { q with
        fresh := false, nextSeq := 0, replay := [], seqWait := [], eseq := 0, nakPending := false, unacked := 0, initSeen := 0,
        creditSeen := false, initOpen := true, credits := [], assembling := [], windowMode := s.fcMode p == 1 || q.fallback })
      (s.sendInit p).drainPort p
    else
      let s := (s.modPort p (fun q => { q with nakPending := true })).replayAll p
      (if (s.port p).initDue then s.sendInit p else s).drainPort p
  (if s.role p = 2 then s.resendPeers (fun _ => true) else s).chooseSource

/-! ### Delivery (R279, R280) -/

/-- Delivers every stored packet that now follows in order; `n` bounds the packets to look at. -/
def State.deliverChain (s : State) (h lvc : Nat) : Nat → State
  | 0 => s
  | n + 1 =>
    let f := s.flow h lvc
    match f.reorder.find? (fun k => k.2.tseq == f.recvNext) with
    | none => s
    | some k =>
      let s := { s with delivered := s.delivered ++ [k] }
      (s.modFlow h lvc (fun f => { f with
          recvNext := f.recvNext + 1,
          reorder := f.reorder.filter (fun e => e.2.tseq != k.2.tseq) })).deliverChain h lvc n

/-- Packets held in the reorder store of hub `n`. -/
def State.reorderUsed (s : State) (n : Nat) : Nat :=
  s.flows.foldl (fun a e => a + (e.2.reorder.filter (fun k => k.1 / 4 == n)).length) 0

/-- A packet of a flow was received: owes an acknowledgement, sent at once at the 16th (R281). -/
def State.oweTack (s : State) (h lvc : Nat) : State :=
  let s := s.modFlow h lvc (fun f => { f with ackOwed := f.ackOwed + 1 })
  if 16 ≤ (s.flow h lvc).ackOwed then s.sendTack h lvc else s

/-- The receiver's classification of a packet of a flow (R279, R283). -/
def State.flowRx (s : State) (p : Nat) (k : Packet) : State :=
  let h := k.src.toNat
  let lvc := k.lvc.toNat
  let f := s.flow h lvc
  let d := (k.tseq - f.recvNext).toNat
  if k.syn ∧ ¬(k.rtx ∧ 2 ^ 23 ≤ d) then
    (({ s with delivered := s.delivered ++ [(p, k)] } : State).modFlow h lvc (fun f => { f with
      recvNext := 1, reorder := [] })).oweTack h lvc
  else if d = 0 then
    let s := ({ s with delivered := s.delivered ++ [(p, k)] } : State).modFlow h lvc
      (fun f => { f with recvNext := f.recvNext + 1 })
    (s.deliverChain h lvc f.reorder.length).oweTack h lvc
  else if d ≤ 4095 then
    if f.reorder.any (fun e => e.2.tseq == k.tseq) then s.oweTack h lvc
    else if 16384 ≤ s.reorderUsed (p / 4) then s
    else (s.modFlow h lvc (fun f => { f with reorder := f.reorder ++ [(p, k)] })).oweTack h lvc
  else if d < 2 ^ 23 then s
  else s.sendTack h lvc

/-- The lap of an arriving packet of a sealed flow: that of `NEXT`, or the one after it once the number has wrapped (R691). -/
def State.rxLap (s : State) (h lvc : Nat) (tseq : BitVec 24) : Nat :=
  let lap := match s.linkOf h with | some x => x.rxLap.getD lvc 0 | none => 0
  let n := (s.flow h lvc).recvNext
  if tseq < n ∧ (tseq - n).toNat < 2 ^ 23 then lap + 1 else lap

/-- A verified packet goes on under R279; the lap follows `NEXT` (R691, R692). -/
def State.flowRxSealed (s : State) (p : Nat) (k : Packet) : State :=
  let h := k.src.toNat
  let lvc := k.lvc.toNat
  let before := (s.flow h lvc).recvNext
  let s := s.flowRx p k
  if ¬k.syn ∧ (s.flow h lvc).recvNext < before then
    match s.linkOf h with
    | some x => { s with ten := { s.ten with links := s.ten.links.set h { x with rxLap := x.rxLap.mod lvc 0 (· + 1) } } }
    | none => s
  else s

/-- The tag of a held packet has come: a packet that verifies goes on, any other is discarded and counted (R692). -/
def State.verifySealed (s : State) (p : Nat) (k : Packet) (t : SealTag) : State :=
  let h := k.src.toNat
  match s.linkOf h with
  | none => s
  | some x =>
    match openPacket x.rxKey k t.lap t.tag with
    | some k => (s.flowRxSealed p k).drainHost h
    | none => { s with ten := { s.ten with tagFail := satAdd s.ten.tagFail 1 } }

/-- The tag is that of the packet. -/
def State.tagFits (s : State) (k : Packet) (t : SealTag) : Bool :=
  t.host.toNat == k.src.toNat && t.lvc == k.lvc && t.tseq == k.tseq && t.lap == s.rxLap k.src.toNat k.lvc.toNat k.tseq

/-- A sealed packet arrives: it is verified when its tag is there, and held without acknowledgement otherwise; one that `NEXT` has
passed is only acknowledged again (R692). -/
def State.sealedRx (s : State) (p : Nat) (k : Packet) : State :=
  let h := k.src.toNat
  if ¬k.syn ∧ 2 ^ 23 ≤ (k.tseq - (s.flow h k.lvc.toNat).recvNext).toNat then s.flowRx p k
  else
    match s.ten.tagsIn.find? (s.tagFits k) with
    | some t => ({ s with ten := { s.ten with tagsIn := s.ten.tagsIn.filter (· != t) } } : State).verifySealed p k t
    | none =>
      { s with ten := { s.ten with
        sealedHeld := s.ten.sealedHeld.filter (fun e => !(e.2.src == k.src && e.2.lvc == k.lvc && e.2.tseq == k.tseq))
          ++ [(p, k)] } }

/-- Shared window slots in use on hub `n` (R277). -/
def State.sharedUsed (s : State) (n : Nat) : Nat :=
  s.hosts.foldl (fun a e => if e.2.reservedPort / 4 = n then a + (e.2.reserved - 1) else a) 0

/-- The first packet of a host pair on a window-mode port reserves its slots (R277). -/
def State.reserve (s : State) (p h : Nat) : State :=
  if (s.host h).reserved = 0 then
    s.modHost h (fun x => { x with
        reservedPort := p,
        reserved := 1 + min (s.windowOf p - 1) (7168 - s.sharedUsed (p / 4)) })
  else s

/-- A port with `ROLE` 2 carries the pairs exchange of another part and nothing else, and no other port carries it (R256, R290, R513). -/
def State.carries (s : State) (p : Nat) (k : Packet) : Bool :=
  let h := k.src.toNat
  isEndpoint h && (if 0x800 ≤ h then s.role p == 2 && (k.ptype == 3 || k.ptype == 5 || k.ptype == 7) else s.role p != 2)

/-- What a flow takes of its pair's window at the receiver: the packets from the next one expected up to the furthest one stored (R277). -/
def Flow.span (f : Flow) : Nat := f.reorder.foldl (fun a k => max a ((k.2.tseq - f.recvNext).toNat + 1)) 0

/-- What a host pair takes of its window once packet `k`, at distance `d` in its flow, is stored: over all flows (R275, R277). -/
def State.windowUse (s : State) (h : Nat) (k : Packet) (d : Nat) : Nat :=
  (List.range 8).foldl (fun a v => a + max (s.flow h v).span (if v = k.lvc.toNat then d + 1 else 0)) 0

/-- The fabric layer passes a complete packet to transport (R257, R267, R208, R277, R290, R689). -/
def State.packetIn (s : State) (p : Nat) (k : Packet) : State :=
  let h := k.src.toNat
  if k.dst ≠ s.ownEndpoint then
    s.modPort p (fun q => { q with misroute := satAdd q.misroute 1 })
  else if ¬s.carries p k ∨ (s.host h).dead then s
  else if h < 1024 ∧ sealable k.ptype ∧ s.unkeyed h then
    { s with ten := { s.ten with unkeyed := satAdd s.ten.unkeyed 1 } }
  else
    let windowed := (s.port p).windowMode && decide (h < 1024)
    let s := if windowed then (s.reserve p h).modHost h (fun x => { x with peerWnd := some k.wnd }) else s
    if k.ptype = 3 ∨ k.ptype = 4 then { s with delivered := s.delivered ++ [(p, k)] }
    else if k.ptype = 0 ∨ 8 ≤ k.ptype.toNat then s
    else
      let d := (k.tseq - (s.flow h k.lvc.toNat).recvNext).toNat
      if windowed ∧ ¬k.syn ∧ d < 2 ^ 23 ∧ (s.host h).reserved < s.windowUse h k d then
        s.modPort p (fun q => { q with windowDrop := satAdd q.windowDrop 1 })
      else if h < 1024 ∧ sealable k.ptype ∧ s.sealing h then s.sealedRx p k
      else (s.flowRx p k).drainHost h

/-! ### Credits of the receive buffer (R269–R272) -/

/-- Returns `n` credits of VC `v` to the peer: the cells have left the buffer; a `CREDIT` goes out at 16 (R271). -/
def State.leaveBuffer (s : State) (p v n : Nat) : State :=
  if (s.port p).windowMode then s
  else
    let s := s.modPort p (fun q => { q with owed := q.owed.mod v 0 (· + n) })
    let o := (s.port p).owed.getD v 0
    if 16 ≤ o then
      (s.modPort p (fun q => { q with owed := q.owed.set v 0, peerCredits := q.peerCredits.mod v 0 (· + o) })).sendSeq p
        (.credit (BitVec.ofNat 4 v) (BitVec.ofNat 11 o) false)
    else s

/-- Sends the credits of VC `v` that await return (R271). -/
def State.returnCredits (s : State) (p v : Nat) : State :=
  let o := (s.port p).owed.getD v 0
  if o = 0 ∨ (s.port p).windowMode then s
  else (s.modPort p (fun q => { q with owed := q.owed.set v 0, peerCredits := q.peerCredits.mod v 0 (· + o) })).sendSeq p
        (.credit (BitVec.ofNat 4 v) (BitVec.ofNat 11 o) false)

/-- Counts one framing error (R265, R266). -/
def State.framingErr (s : State) (p : Nat) : State := s.modPort p (fun q => { q with framing := satAdd q.framing 1 })

/-- The received packet is complete. -/
def headPacket (b : HeadBody) (bodies : List (BitVec 256)) : Packet :=
  { ptype := b.ptype, dst := b.dst, lvc := b.lvc, src := b.src, tseq := b.tseq, rtx := b.rtx, syn := b.syn,
    path := b.path, wnd := b.wnd, payload := b.payload, data := bodies }

/-- A packet on VC `v` is complete once it holds `LEN` body cells; its cells then leave the buffer (R267). -/
def State.finishPartial (s : State) (p v : Nat) : State :=
  match (s.port p).assembling.get? v with
  | none => s
  | some a =>
    if ¬a.discarding ∧ a.bodies.length = a.head.len.toNat then
      ((s.modPort p (fun q => { q with assembling := q.assembling.erase v })).packetIn p
        (headPacket a.head a.bodies)).leaveBuffer p v (a.bodies.length + 1)
    else s

/-- Spends one of the peer's credits for a received cell, or finds none (R272). -/
def State.takeCredit (s : State) (p v : Nat) : Option State :=
  if (s.port p).windowMode then some s
  else if (s.port p).peerCredits.getD v 0 = 0 then none
  else some (s.modPort p (fun q => { q with peerCredits := q.peerCredits.mod v 0 (· - 1) }))

/-- The packet on VC `v` is thrown away up to the next head. -/
def State.discardVc (s : State) (p v : Nat) (h : HeadBody) : State :=
  s.modPort p (fun q => { q with assembling := q.assembling.set v { head := h, discarding := true } })

/-- The cells of a packet that stand in the buffer. -/
def Partial.cells (a : Partial) : Nat := if a.discarding then 0 else a.bodies.length + 1

/-- The fabric layer takes an accepted `HEAD` cell (R265, R266, R269, R272). -/
def State.fabricHead (s : State) (p v : Nat) (h : HeadBody) : State :=
  if 7 ≤ v then s.framingErr p
  else
    match s.takeCredit p v with
    | none =>
      let n := match (s.port p).assembling.get? v with | some a => a.cells | none => 0
      ((s.modPort p (fun q => { q with overflow := satAdd q.overflow 1 })).discardVc p v h).leaveBuffer p v n
    | some s =>
      let busy := match (s.port p).assembling.get? v with | some a => !a.discarding | none => false
      if busy then
        let n := match (s.port p).assembling.get? v with | some a => a.cells + 1 | none => 0
        ((s.framingErr p).discardVc p v h).leaveBuffer p v n
      else if 8 < h.len.toNat ∨ 6 ≤ h.lvc.toNat then ((s.framingErr p).discardVc p v h).leaveBuffer p v 1
      else (s.modPort p (fun q => { q with assembling := q.assembling.set v { head := h } })).finishPartial p v

/-- The fabric layer takes an accepted `BODY` cell; one for which its sender has no credit ends its packet, whose cells leave the buffer,
and only the first such cell of a packet is an error (R272). -/
def State.fabricBody (s : State) (p v : Nat) (d : BitVec 256) : State :=
  if 7 ≤ v then s.framingErr p
  else
    match s.takeCredit p v with
    | none =>
      let t := s.modPort p (fun q => { q with overflow := satAdd q.overflow 1 })
      match (s.port p).assembling.get? v with
      | some a => if a.discarding then s else (t.discardVc p v a.head).leaveBuffer p v a.cells
      | none => t
    | some s =>
      match (s.port p).assembling.get? v with
      | none => s.leaveBuffer p v 1
      | some a =>
        if a.discarding then s.leaveBuffer p v 1
        else (s.modPort p (fun q => { q with assembling := q.assembling.set v { a with bodies := a.bodies ++ [d] } })).finishPartial p v

/-- What the link receiver does with a sequenced cell (R233). -/
inductive RxClass where
  | accept | discard | loss
deriving DecidableEq, Repr

/-- The classification of R233. -/
def ZlPort.classify (q : ZlPort) (seq : BitVec 12) (rpl : Bool) : RxClass :=
  let d := (q.eseq - seq).toNat
  if d = 0 then (if q.nakPending && !rpl then .discard else .accept)
  else if d ≤ 2048 then .discard
  else .loss

/-- A cell that passed its CRC: the receive direction follows the `WIDTH` of its codeword (R248). -/
def State.followWidth (s : State) (p : Nat) (w : BitVec 2) : State :=
  match (s.port p).rxNext with
  | some m => if w = widthCode m then s.modPort p (fun q => { q with laneMask := m, rxNext := none }) else s
  | none => s

/-- Receives a sequenced cell that passed its CRC: R230, then R233; `k` is what the fabric layer does on acceptance. -/
def State.sequenced (s : State) (p : Nat) (env : Envelope) (k : State → State) : State :=
  if ¬s.hearsCells p then s
  else
    let s := s.followWidth p env.width
    if env.reserved then s.protoErr p
    else if ¬s.receiving p then s
    else
      match (s.port p).classify env.seq env.rpl with
      | .discard => s
      | .loss => s.lossEvent p
      | .accept =>
        let s := (s.modPort p (fun q => { q with
            eseq := q.eseq + 1, nakPending := false, unacked := q.unacked + 1,
            ackDue := q.ackDue || env.ackreq })).bump (p / 4) 8 0x81 (p % 4) 1
        let s := k s
        if 128 ≤ (s.port p).unacked then s.sendAck p else s

/-- Receives an unsequenced cell that passed its CRC: R230, then `k`. -/
def State.unsequenced (s : State) (p : Nat) (env : Envelope) (k : State → State) : State :=
  if ¬s.hearsCells p then s
  else
    let s := s.followWidth p env.width
    if env.reserved ∨ env.seq ≠ 0 then s.protoErr p else k s

/-- Receives an unsequenced cell that only a port in service acts on. -/
def State.control (s : State) (p : Nat) (env : Envelope) (k : State → State) : State :=
  s.unsequenced p env (fun s => if s.receiving p then k s else s)

/-! ### Pool time (R292–R295) -/

/-- The mean of the offsets is within ±2 ns. -/
def meanIn (l : List OffsetSample) : Bool :=
  let sum := l.foldl (fun a x => a + x.offset) 0
  decide (sum ≤ 2 * (l.length : Int)) && decide (-(2 * (l.length : Int)) ≤ sum)

/-- The mean offset in ns, saturating at ±32,767 (R301). -/
def meanNs (l : List OffsetSample) : BitVec 16 :=
  let m := (l.foldl (fun a x => a + x.offset) 0) / (max 1 l.length : Int)
  BitVec.ofInt 16 (max (-32767) (min 32767 m))

/-- Sets or clears `LOCKED` from the offsets of the source: `n` samples within ±2 ns for 1 ms (R295). -/
def State.updateLock (s : State) (l : List OffsetSample) (n : Nat) : State :=
  let g := s.zlg
  let g := { g with offsetNs := meanNs l }
  if l.length = n ∧ meanIn l then
    let since := g.meanInSince.getD s.clk.now
    { s with zlg := { g with meanInSince := some since, locked := g.locked || decide (since + 1000000 ≤ s.clk.now) } }
  else { s with zlg := { g with meanInSince := none, locked := false } }

/-- Corrects pool time by one measured offset, source time less own time (R295); a slew under way keeps its pace. -/
def State.correct (s : State) (offset : Int) (launchPending : Bool) : State :=
  if 1000 < offset ∧ ¬launchPending then
    { s with clk := { s.clk with poolTime := s.clk.poolTime + BitVec.ofInt 64 offset, slew := .free, slewAcc := 0 } }
  else if offset < -1000 ∧ ¬launchPending then
    { s with clk := { s.clk with slew := .halfRate ((-offset).toNat - 1000), slewAcc := 0 } }
  else
    let acc := match s.clk.slew with | .slew _ => s.clk.slewAcc | _ => 0
    { s with clk := { s.clk with slew := .slew offset, slewAcc := acc } }

end Sys2Proof.Machine
end

