-- ==== Sys2Proof/Machine/Flags.lean ====
section
/-! DEFINITION. Flags.lean: the reply status byte and the causes behind it (R336–R338). -/
namespace Sys2Proof.Machine
open Sys2Proof

/-- `LOAD`: the highest level among hubs in service; 3 during start-up (R372). -/
def State.load (s : State) : Nat :=
  if s.zlg.startup then 3
  else (s.presentHubs.filter s.inService).foldl (fun a h => max a ((s.queHubs.getD h {}).level.toNat)) 0

/-- A withdrawal or narrowing of host `h` goes on, or the event that ends one waits for credit (R140, R142, R357). -/
def State.draining (s : State) (h : Nat) : Bool :=
  s.drains.any (fun d => d.host.toNat == h)
    || s.queues.any (fun q => q.2.held.any QSlot.endsDrain && s.queueHost q.1 == h)

/-- The cause pending for recipient `host` (none for a KMP session): the highest-valued one (R336, R337); throughout a tenancy end it is
3 unless 7 is pending (R215). -/
def State.cause (s : State) (host : Option Nat) : Nat :=
  if s.fatal then 7
  else if s.ten.state = .ending then 3
  else if s.si.state = .quiescing ∨ s.si.state = .returning ∨ s.si.resetCause then 6
  else if s.fw.cause then 5
  else if s.powerCause then 4
  else if s.ten.state = .resurfacing then 3
  else if (match host with | some h => s.draining h | none => false) then 2
  else if !s.integ.errLog.isEmpty then 1
  else if s.sys.phase = .halted ∨ s.si.healthFail then 1
  else 0

/-- The reply status byte for recipient `host`, formed now (R336). -/
def State.rsb (s : State) (host : Option Nat) : Byte :=
  let c := s.cause host
  BitVec.ofNat 8 (s.load + (if c = 0 then 0 else 4) + (if s.throttled then 8 else 0) + 16 * c)

/-- The byte of a response to a red refusal carries `LOAD` 3 (R370). -/
def State.rsbRed (s : State) (host : Option Nat) : Byte := s.rsb host ||| 3

/-- `ATTN_N` shows the highest of causes 1, 3, 4, 5, 6 and 7, raised for every recipient (R779, R787). -/
def State.attnCause (s : State) : Nat := s.cause none

/-- The status outputs of the always-on domain (R776, R779). -/
inductive StatusPin where
  | ready | fatalN | attnN | thrN
deriving DecidableEq, Repr

/-- Every sideband output is high-impedance: without power, and from the start of a package reset until step 1 of start-up ends (R778). -/
def State.pinsFloat (s : State) : Bool :=
  match s.sys.phase with
  | .unpowered | .inReset => true
  | .halted => s.sys.step == 1
  | _ => false

/-- The level that a status pin is driven to; none where it is high-impedance and a resistor of the board decides (R778, R779). -/
def State.pinLevel (s : State) (p : StatusPin) : Option Bool :=
  if s.pinsFloat then none
  else if s.sys.phase = .sleeping then some (p != .ready)
  else match p with
    | .ready => some (s.sys.done && !s.fatal)
    | .fatalN => some (!s.fatal)
    | .attnN => some (s.attnCause == 0)
    | .thrN => some (!s.throttled)

end Sys2Proof.Machine
end

