-- ==== Sys2Proof/Machine/EthOps.lean ====
section
/-! DEFINITION. EthOps.lean: the shared operations of the Ethernet ports, the meters, the queues' completions, the queue pairs
and KMP. -/
namespace Sys2Proof.Machine
open Sys2Proof

/-! ### Ports -/

/-- The record of E0 (`false`) or E1 (`true`). -/
def State.ethPort (s : State) (e : Bool) : EthPort := s.eth.getD (b2n e) {}
/-- Changes an Ethernet port record. -/
def State.modEth (s : State) (e : Bool) (f : EthPort → EthPort) : State := { s with eth := s.eth.mod (b2n e) {} f }
/-- `SPEED` of the port's FABRIC entry (R61). -/
def State.ethSpeed (s : State) (e : Bool) : Nat := s.eff.u8 .fabric (0x300 + 16 * b2n e)
/-- `KMP_TC`. -/
def State.kmpTc (s : State) (e : Bool) : Nat := s.eff.u8 .fabric (0x302 + 16 * b2n e)
/-- `PFC_MASK`. -/
def State.pfcMask (s : State) (e : Bool) : BitVec 8 := BitVec.ofNat 8 (s.eff.u8 .fabric (0x303 + 16 * b2n e))
/-- The port's MAC address (R306). -/
def State.mac (s : State) (e : Bool) : BitVec 48 := if e then s.fuses.macE1 else s.fuses.macE0
/-- The IPv4 address in use (R307). -/
def EthPort.ipv4 (p : EthPort) : Option (BitVec 32) := if p.isStatic then some p.addr else p.lease
/-- The port can receive: its link is up, its hub is not in reset and ports have not stopped. -/
def State.ethUp (s : State) (e : Bool) : Bool :=
  (s.ethPort e).linkUp && decide ((s.hub (b2n e)).phase ≠ .reset) && !s.sys.portsStopped
/-- Bytes of the receive buffer that the classes outside `PFC_MASK` share: 6 MiB less 512 KiB for each class in it (R309). -/
def State.sharedBuffer (s : State) (e : Bool) : Nat := 6291456 - 524288 * (List.range 8).countP (fun t => (s.pfcMask e).getLsbD t)

/-- A frame of a class outside `PFC_MASK` finds no room (R309). -/
def State.noRoom (s : State) (e : Bool) (f : EthFrame) : Bool :=
  !(s.pfcMask e).getLsbD f.cls.toNat
    && decide (s.sharedBuffer e < f.bytes + ((List.range 8).map (fun t =>
        if (s.pfcMask e).getLsbD t then 0 else (s.ethPort e).occupancy.getD t 0)).sum)

/-- A frame arrives: one that is damaged, or that the part does not accept, is discarded and counted (R304, R306). -/
def State.frameOk (s : State) (e : Bool) (f : EthFrame) : Bool × State :=
  if f.damaged then (false, s.modEth e (fun p => { p with fcs := satAdd p.fcs 1 }))
  else if ¬f.accepted then (false, s.modEth e (fun p => { p with dropped := satAdd p.dropped 1 }))
  else (true, s)

/-- A frame for the receive buffer arrives: one that finds no room there is dropped and counted too (R309, R341). -/
def State.frameIn (s : State) (e : Bool) (f : EthFrame) : Bool × State :=
  match s.frameOk e f with
  | (true, s) => if s.noRoom e f then (false, s.modEth e (fun p => { p with dropped := satAdd p.dropped 1 })) else (true, s)
  | (false, s) => (false, s)

/-- What an accepted flow-control frame does at a port that receives: it takes no room in the buffer. -/
def State.withControl (s : State) (e : Bool) (f : EthFrame) (k : State → State) : State :=
  if ¬s.ethUp e then s
  else
    match s.frameOk e f with
    | (true, s) => k s
    | (false, s) => s

/-- What an accepted frame does at a port that receives. -/
def State.withFrame (s : State) (e : Bool) (f : EthFrame) (k : State → State) : State :=
  if ¬s.ethUp e then s
  else
    match s.frameIn e f with
    | (true, s) => k s
    | (false, s) => s

/-- The peer pauses a class, and the pause is not ignored (R310). -/
def State.classPaused (s : State) (e : Bool) (t : Nat) : Bool :=
  (s.ethPort e).paused.getLsbD t && decide ((s.ethPort e).ignoreUntil.getD t 0 ≤ s.clk.now)

/-- Sends a frame: one of a paused class waits; with the link down the protocol that it belongs to sends it again (R305, R310). -/
def State.sendFrame (s : State) (e : Bool) (f : TxFrame) (m : EthMsg) : State :=
  if ¬s.ethUp e then s
  else if s.classPaused e f.cls.toNat then s.modEth e (fun p => { p with txWait := p.txWait ++ [(f, m)] })
  else s.emit (.eth (b2n e) f m)

/-- Frames of a class that waited for the end of a pause are sent, in their order (R310). -/
def State.classGo (s : State) (e : Bool) (t : Nat) : State :=
  let l := (s.ethPort e).txWait
  let s := s.modEth e (fun p => { p with txWait := l.filter (fun x => x.1.cls.toNat != t) })
  (l.filter (fun x => x.1.cls.toNat == t)).foldl (fun s x => s.sendFrame e x.1 x.2) s

/-- The port's line rate in bit/s. -/
def EthPort.lineRate (p : EthPort) : Rat := if p.speedAct = 2 then 800000000000 else 400000000000

/-! ### Meters (R367–R370) -/

/-- A two-byte field of the meter entry of identity `h`. -/
def State.meterU16 (s : State) (h off : Nat) : Nat := if s.si.committed then s.eff.u16 .queues (0x20000 + 8 * h + off) else 0
/-- A one-byte field of the meter entry of identity `h`. -/
def State.meterU8 (s : State) (h off : Nat) : Nat := if s.si.committed then s.eff.u8 .queues (0x20000 + 8 * h + off) else 0
/-- The meter of identity `h` is on (R63). -/
def State.meterOn (s : State) (h : Nat) : Bool := s.meterU16 h 0 != 0 || s.meterU16 h 2 != 0
/-- `RED_ETH` of identity `h`. -/
def State.redEth (s : State) (h : Nat) : Nat := s.meterU8 h 6

/-- The meter with its buckets filled up to now; both start full (R367). -/
def State.meterNow (s : State) (h : Nat) : Meter :=
  let m := s.meters.getD h {}
  let dc := s.meterU8 h 4 * 65536 * 1000
  let dp := s.meterU8 h 5 * 65536 * 1000
  let dt := s.clk.now - m.at_
  if m.full then { m with tc := dc, tp := dp, at_ := s.clk.now, full := false }
  else { m with tc := min dc (m.tc + s.meterU16 h 0 * 64 * dt), tp := min dp (m.tp + s.meterU16 h 2 * 64 * dt),
                at_ := s.clk.now }

/-- Meters an arrival of `b` bytes of identity `h` (R368). -/
def State.meterArrive (s : State) (h b : Nat) : Colour × State :=
  if ¬s.meterOn h then (.green, s)
  else
    let m := s.meterNow h
    let k := b * 1000
    let (c, m) : Colour × Meter :=
      if m.tp < k then (.red, m)
      else if m.tc < k then (.yellow, { m with tp := m.tp - k })
      else (.green, { m with tp := m.tp - k, tc := m.tc - k })
    let id := match c with | .green => 0x80 | .yellow => 0x81 | .red => 0x82
    (c, ({ s with meters := s.meters.set h { m with last := c } } : State).bump 0 0x0B id h 1)

/-- The back-off *k* of a red refusal of `b` bytes (R370). -/
def State.redBackoff (s : State) (h b : Nat) : BitVec 4 :=
  let m := s.meterNow h
  let deficit := b * 1000 - m.tp
  let rate := s.meterU16 h 2 * 64
  match (List.range 15).find? (fun i => decide (deficit ≤ 2 ^ i * 100 * rate)) with
  | some i => BitVec.ofNat 4 (i + 1)
  | none => 15

/-! ### Queues and their bindings (R347–R350) -/

/-- `WEIGHT`. -/
def State.queueWeight (s : State) (q : Nat) : Nat := s.eff.u16 .queues (8 * q + 2)
/-- `RATE`. -/
def State.queueRate (s : State) (q : Nat) : Nat := s.eff.u16 .queues (8 * q + 4)
/-- `BURST`. -/
def State.queueBurst (s : State) (q : Nat) : Nat := s.eff.u8 .queues (8 * q + 6)
/-- The queue record. -/
def State.queue (s : State) (q : Nat) : Queue := s.queues.getD q {}
/-- Changes a queue record. -/
def State.modQueue (s : State) (q : Nat) (f : Queue → Queue) : State := { s with queues := s.queues.mod q {} f }
/-- The lowest-numbered queue bound to identity `h` (R141). -/
def State.firstQueue (s : State) (h : Nat) : Option Nat := (List.range 16384).find? (fun q => s.queueHost q == h)

/-- The shaper's depth in thousandths of a byte (R361). -/
def State.shaperDepth (s : State) (q : Nat) : Int := s.queueBurst q * 4096 * 1000

/-- The queue with its shaper bucket filled up to now (R361). -/
def State.shaperNow (s : State) (q : Nat) : Queue :=
  let x := s.queue q
  { x with bucket := min (s.shaperDepth q) (x.bucket + (s.queueRate q * 64 * (s.clk.now - x.bucketAt) : Nat)),
           bucketAt := s.clk.now }

/-- A queue starts afresh (R349); the writes whose data it was fetching are forgotten. -/
def State.queueInit (s : State) (q credit : Nat) : State :=
  ({ s with accesses := s.accesses.filter (fun a => !(a.2.fetching && a.2.owner.ofQueue q)) } : State).modQueue q (fun x =>
    { ring := [], nextId := x.nextId, held := [], credit := credit, bucket := s.shaperDepth q, bucketAt := s.clk.now, fprev := 0,
      nonce := x.nonce })

/-! ### Queue pairs (R313–R325) -/

/-- Bytes of the path MTU (R334). -/
def Qp.mtu (q : Qp) : Nat := if q.params.pmtu = 1 then 1024 else if q.params.pmtu = 2 then 2048 else 4096

/-- The request of an operation from its PSN `k` packets on. -/
def RoceOp.from_ (op : RoceOp) (mtu k : Nat) : RoceOp :=
  match op with
  | .write va r b => .write (va + BitVec.ofNat 64 (mtu * k)) r (b.drop (mtu * k))
  | .read va r n => .read (va + BitVec.ofNat 64 (mtu * k)) r (n - mtu * k)

/-- The frame of what the part sends on a connection: to `PEER_MAC`, in the class and the VLAN of the connection (R307, R308, R334). -/
def Qp.frame (x : Qp) : TxFrame :=
  { mac := x.params.peerMac, cls := x.params.tc.setWidth 3, vlan := if x.params.vlan = 0 then none else some (x.params.vlan.setWidth 12) }

/-- Puts a packet of a connection on the wire; a request that is not sent goes again at the next retransmission (R305, R315). -/
def State.qpSend (s : State) (x : Qp) (m : EthMsg) : State := s.sendFrame (x.params.port == 1) x.frame m

/-- Puts a request on the wire. -/
def State.roceEmit (s : State) (x : Qp) (psn : BitVec 24) (op : RoceOp) : State := s.qpSend x (.roce x.params.peerQpn psn op)

/-- Sends a request of the part on a queue's QP: an RDMA WRITE or READ Request, kept until acknowledged (R315, R320). -/
def State.roceSend (s : State) (q : Nat) (op : RoceOp) (access : Option Nat) (slot : Option QSlot := none) : State :=
  match s.qps.get? q with
  | none => s
  | some x =>
    let len := match op with | .write _ _ b => b.length | .read _ _ n => n
    let count := max 1 ((len + x.mtu - 1) / x.mtu)
    let o : RoceOut := { psn := x.nextPsn, count := count, op := op, access := access, slot := slot }
    let s := { s with qps := s.qps.set q { x with nextPsn := x.nextPsn + BitVec.ofNat 24 count, out := x.out ++ [o] } }
    if x.error then s else s.roceEmit x x.nextPsn op

/-- The bytes of a completion-ring slot (R356). -/
def slotBytes (queue : Nat) (slot : QSlot) (sqFree : Nat) (rsb : Byte) : List Byte :=
  match slot with
  | .command _ tag st res vec =>
    leBytes 1 0x10 ++ leBytes 1 st.ctorIdx ++ leBytes 2 queue ++ leBytes 2 tag.toNat ++ leBytes 1 sqFree ++ leBytes 1 0
      ++ leBytes 16 res.toNat ++ leBytes 32 vec.toNat ++ leBytes 7 0 ++ [rsb]
  | .event e _ => e.bytes ++ leBytes 31 0 ++ [rsb]

/-- The nonce of a record the part writes (R324). -/
def nonceOf (kind queue : Nat) (counter : BitVec 64) : List Byte :=
  leBytes 1 1 ++ leBytes 1 kind ++ leBytes 2 queue ++ leBytes 8 counter.toNat

/-- Turns plaintext into the record the part writes, in sealed Ethernet mode (R322–R324). -/
def State.sealRecord (s : State) (q kind : Nat) (addr : Option Nat) (plain : List Byte) : List Byte × State :=
  if s.ethCrypt then
    let c := (s.queue q).nonce
    let aad := leBytes 2 q ++ leBytes 1 kind ++ (match addr with | some a => leBytes 8 a | none => [])
    let key := s.ethg.ethKeys.getD (s.queueHost q) 0
    (nonceOf kind q c ++ gcmSeal key (nonceOf kind q c) aad plain, s.modQueue q (fun x => { x with nonce := x.nonce + 1 }))
  else (plain, s)

/-- Size of a completion-ring slot (R356). -/
def State.slotSize (s : State) : Nat := if s.ethCrypt then 92 else 64

/-- The bits of a byte string as the data of `BODY` cells, padded with zeros (R261). -/
def bytesCells (n : Nat) (b : List Byte) : List (BitVec 256) :=
  (List.range n).map (fun i => BitVec.ofNat 256 (leNat ((b.drop (32 * i)).take 32)))

/-- Changes a queue pair. -/
def State.modQp (s : State) (q : Nat) (f : Qp → Qp) : State :=
  match s.qps.get? q with | some x => { s with qps := s.qps.set q (f x) } | none => s

/-- A queue whose slot is written: one credit less, and the command's ring slot is free (R357, R358). -/
def Queue.takes (x : Queue) (slot : QSlot) : Queue :=
  { x with
    credit := x.credit - 1,
    ring := match slot with | .command id _ _ _ _ => x.ring.filter (fun r => r.id != id) | .event _ _ => x.ring }

/-- Writes a slot to the host's completion ring, taking one credit and releasing the command's ring slot (R319, R357,
R358). -/
def State.writeSlot (s : State) (q : Nat) (slot : QSlot) : State :=
  let h := s.queueHost q
  let s := s.modQueue q (fun x => x.takes slot)
  let free := 64 - (s.queue q).ring.length
  let b := s.rsb (some h)
  let bytes := slotBytes q slot free b
  let s := s.emit (.queDone q slot (BitVec.ofNat 8 free) b)
  if h < 0x400 then
    let payload : BitVec 160 := BitVec.ofNat 160 (2 + q * 2 ^ 8 + b.toNat * 2 ^ 40)
    s.sendPkt h 6 2 payload (bytesCells 2 bytes)
  else
    match s.qps.get? q with
    | none => s
    | some x =>
      let (rec, s) := s.sealRecord q 2 none bytes
      let n := x.params.cqBytes.toNat / s.slotSize
      let va := x.params.cqVa + BitVec.ofNat 64 (x.cqIndex * s.slotSize)
      (s.modQp q (fun x => { x with cqIndex := if x.cqIndex + 1 < n then x.cqIndex + 1 else 0 })).roceSend q (.write va x.params.cqRkey rec) none (some slot)

/-- The bound host of a queue is a dead fabric host. -/
def State.queueDead (s : State) (q : Nat) : Bool :=
  decide (s.queueHost q < 0x400) && (s.host (s.queueHost q)).dead

/-- The queue can write a slot now: credit, and for an Ethernet host a queue pair that is not in error (R317, R357). -/
def State.canWriteSlot (s : State) (q : Nat) : Bool :=
  decide (0 < (s.queue q).credit) &&
    (decide (s.queueHost q < 0x400) || (match s.qps.get? q with | some x => !x.error | none => false))

/-- A slot is ready: written when credit allows and nothing is held before it, held otherwise; discarded for a dead host
(R357, R373). -/
def State.pushSlot (s : State) (q : Nat) (slot : QSlot) : State :=
  if s.queueHost q = 0xFFFF ∨ s.queueDead q then
    s.modQueue q (fun x =>
      { x with ring := match slot with | .command id _ _ _ _ => x.ring.filter (fun r => r.id != id) | .event _ _ => x.ring })
  else if (s.queue q).held.isEmpty ∧ s.canWriteSlot q then s.writeSlot q slot
  else s.modQueue q (fun x => { x with held := x.held ++ [slot] })

/-- Writes the oldest held slot when it can be written (R357). -/
def State.writeHeld (s : State) (q : Nat) : State :=
  match (s.queue q).held with
  | [] => s
  | x :: r => if s.canWriteSlot q then (s.modQueue q (fun y => { y with held := r })).writeSlot q x else s

/-! ### Scheduling (R359–R366) -/

/-- The cost of a command (R364). -/
def subCost (e : SubEntry) : Nat := if e.opcode = 1 ∨ e.opcode = 2 then e.length.toNat else 64

/-- A command is in flight. -/
def RingSlot.flying (r : RingSlot) : Bool := r.issued && !r.completed

/-- The oldest entry of a queue that has not been issued. -/
def Queue.head (x : Queue) : Option RingSlot := x.ring.find? (fun r => !r.issued && !r.completed)

/-- Every entry before one has completed (R359). -/
def Queue.fenceOk (x : Queue) (id : Nat) : Bool := (x.ring.takeWhile (fun r => r.id != id)).all (·.completed)

/-- Completions of a queue that wait for credit. -/
def Queue.heldDone (x : Queue) : Nat := x.held.countP (fun h => match h with | .command .. => true | .event _ _ => false)

/-- A pool address of a host lies in a class whose requests wait at ingress, or on a hub that the commit in progress holds (R92). -/
def State.heldByCommit (s : State) (host addr : Nat) : Bool :=
  match (s.maps.getD host []).get? (addr / 2 ^ 28) with
  | some m =>
    let e := m.extent.toNat
    let cls := match s.extents.get? e with | some x => x.cls.toNat | none => 0
    s.si.hold.classes.getLsbD cls || s.si.hold.hubs.getLsbD (s.homeHub ((e * 2 ^ 28 + addr % 2 ^ 28) / 64))
  | none => false

/-- A pool address of a host lies in the extent that a lift is switching (R574). -/
def State.inSwitch (s : State) (host addr : Nat) : Bool :=
  match (s.maps.getD host []).get? (addr / 2 ^ 28), s.lift.queue with
  | some m, j :: _ => j.phase == .switching && j.src == m.extent
  | _, _ => false

/-- A request of a host to a pool address waits at ingress. -/
def State.heldAtIngress (s : State) (host addr : Nat) : Bool := s.heldByCommit host addr || s.inSwitch host addr

/-- A pool address of a host lies in a class that a commit takes tracking from (R92). -/
def State.losesTracking (s : State) (host addr : Nat) : Bool :=
  match (s.maps.getD host []).get? (addr / 2 ^ 28) with
  | some m => match s.extents.get? m.extent.toNat with | some x => s.si.hold.recalls.getLsbD x.cls.toNat | none => false
  | none => false

/-- A piece of a transfer lies where `p` holds; a transfer changes its home no oftener than each 256 bytes (R114). -/
def spanAny (addr bytes : Nat) (p : Nat → Bool) : Bool :=
  (List.range ((addr + bytes - 1) / 256 + 1 - addr / 256)).any (fun i => p ((addr / 256 + i) * 256))

/-- A piece of a transfer lies where requests are held. -/
def State.heldSpan (s : State) (host addr bytes : Nat) : Bool := spanAny addr bytes (s.heldAtIngress host)

/-- A queue's command waits at ingress: wherever a lift switches its extent (R574), and, unless the commit drains the queue itself, where
a commit holds. An `ATOMIC` waits too where its line's class loses tracking, since the home atomic unit would hold the line (R181). -/
def State.heldCmd (s : State) (q : Nat) (e : SubEntry) : Bool :=
  let host := s.queueHost q
  let a := e.poolAddr.toNat
  let n := if e.opcode = 3 then 16 else e.length.toNat
  decide (1 ≤ e.opcode.toNat ∧ e.opcode.toNat ≤ 3)
    && (spanAny a n (s.inSwitch host)
      || (!s.si.hold.queues.contains q
        && (spanAny a n (s.heldByCommit host) || (e.opcode == 3 && s.losesTracking host a))))

/-- The head entry of a queue is eligible (R360); a queue whose QP is in error stops (R317). -/
def State.eligible (s : State) (q : Nat) (r : RingSlot) : Bool :=
  let x := s.queue q
  decide (x.ring.countP RingSlot.flying < 16) && (match s.qps.get? q with | some y => !y.error | none => true) && (!r.entry.fence || x.fenceOk r.id) && decide (x.heldDone < 64)
    && !s.heldCmd q r.entry
    && !(r.entry.opcode == 0x40 && s.presentHubs.any s.hcRestarting)
    && (decide (s.queueRate q = 0) || decide (0 < (s.shaperNow q).bucket))

/-- `a` comes before `b`: the difference modulo 2^64 is negative (R363). -/
def tagBefore (a b : BitVec 64) : Bool := decide ((a - b).toInt < 0)

/-- The command engine of hub `h`. -/
def State.queHub (s : State) (h : Nat) : QueHub := s.queHubs.getD h {}

/-- Gives the head of a queue its finish tag when it has become eligible (R362). -/
def State.tagHead (s : State) (q : Nat) : State :=
  match (s.queue q).head with
  | none => s
  | some r =>
    if r.tag.isSome ∨ ¬s.eligible q r then s
    else
      let v := (s.queHub (q / 2048)).v
      let p := (s.queue q).fprev
      let base := if tagBefore v p then p else v
      let f := base + BitVec.ofNat 64 (subCost r.entry * 65536 / max 1 (s.queueWeight q))
      s.modQueue q (fun x => { x with
        fprev := f, eligibleAt := s.clk.now,
        ring := x.ring.map (fun y => if y.id = r.id then { y with tag := some f } else y) })

/-- Gives every eligible head of hub `h` its tag. -/
def State.tagHeads (s : State) (h : Nat) : State :=
  (s.queues.filter (fun e => e.1 / 2048 == h)).foldl (fun s e => s.tagHead e.1) s

/-- A command completes (R356–R358): its ring slot stays until its completion is written. -/
def State.completeCmd (s : State) (q id : Nat) (st : PStatus) (result : BitVec 128) (vec : BitVec 256) : State :=
  match (s.queue q).ring.find? (fun r => r.id == id) with
  | none => s
  | some r =>
    let st := if s.fatal then PStatus.failed else st
    let s := s.modQueue q (fun x =>
      { x with ring := x.ring.map (fun y => if y.id == id then { y with completed := true } else y) })
    ((s.pushSlot q (.command id r.entry.tag st result vec)).bump (q / 2048) 0x0B 0x88 (q % 2048) 1).tagHeads (q / 2048)

/-- A command without pieces completes with one status (R356). -/
def State.completeStatus (s : State) (q id : Nat) (st : PStatus) : State :=
  s.completeCmd q id st 0 (BitVec.ofNat 256 st.ctorIdx)

/-! ### KMP (R326–R332) -/

/-- The usage mask with which a session is authenticated (R673, R678). -/
def State.usage (s : State) (x : KmpSession) : BitVec 4 :=
  match x.auth with
  | .slot k => (s.ten.slots.getD k.val (0, 0)).2
  | _ => 0

/-- The session holds the operator right. -/
def State.isOperator (s : State) (x : KmpSession) : Bool := (s.usage x).getLsbD 0
/-- The session holds the carving right (R678). -/
def State.mayCarve (s : State) (x : KmpSession) : Bool :=
  (s.usage x).getLsbD 2 || (x.auth == .tenant && s.ten.tenantCarve)
/-- The session holds `ENROL`. -/
def State.mayEnrol (s : State) (x : KmpSession) : Bool := (s.usage x).getLsbD 3

/-- The slot of an open session with this identifier. -/
def State.sessionOf (s : State) (sid : BitVec 32) : Option Nat :=
  (s.kmp.find? (fun e => e.2.sid == sid)).map (·.1)

/-- The session in a slot. -/
def State.session (s : State) (k : Nat) : Option KmpSession := s.kmp.get? k

/-- Changes the session in a slot. -/
def State.modSession (s : State) (k : Nat) (f : KmpSession → KmpSession) : State :=
  match s.kmp.get? k with
  | some x => { s with kmp := s.kmp.set k (f x) }
  | none => s

/-- Forms a message: in a session, given by its slot and its key, it is protected (R327). -/
def State.kmpForm (s : State) (ses : Option (Nat × Nat)) (sid : BitVec 32) (type : BitVec 8) (seq : BitVec 32) (what : KmpSays) :
    KmpMsg × State :=
  let plain := what.bytes s.ten.spdmSent
  let head := kmpHead 1 type (what.flags.1 + (if ses.isSome then 2 else 0)) what.flags.2 sid seq plain.length (s.rsb none) 0
  let body := match ses with | some (_, key) => gcmSeal key (kmpNonce sid seq true) head plain | none => plain
  let m : KmpMsg := { slot := ses.map (·.1), type := type, seq := seq, what := what, head := head, body := body }
  (m, if what.spdm then { s with ten := { s.ten with spdmSent := s.ten.spdmSent + 1 } } else s)

/-- The frame in which a message answers a request: to its source, in `KMP_TC` and the VLAN of the request (R307, R308, R326). -/
def State.kmpFrame (s : State) (hdr : KmpHdr) : TxFrame :=
  { mac := hdr.srcMac, cls := BitVec.ofNat 3 (s.kmpTc hdr.port), vlan := hdr.frame.vlan }

/-- Puts a response on the wire, when its port transmits; some statuses count as rejections (R346). -/
def State.kmpPut (s : State) (hdr : KmpHdr) (m : KmpMsg) : State :=
  if ¬s.ethUp hdr.port then s
  else
    let n := m.what.flags.2
    let s := if n = 2 ∨ n = 3 ∨ n = 8 then { s with ethg := { s.ethg with rejected := satAdd s.ethg.rejected 1 } } else s
    s.sendFrame hdr.port (s.kmpFrame hdr) (.kmp m)

/-- Sends a KMP response that is not stored. -/
def State.kmpSend (s : State) (ses : Option (Nat × Nat)) (hdr : KmpHdr) (type : BitVec 8) (r : KmpResp) : State :=
  let (m, s) := s.kmpForm ses hdr.sessionId type hdr.msgSeq (.resp r)
  s.kmpPut hdr m

/-- The identity under which a KMP frame is metered (R321). -/
def State.kmpIdentity (s : State) (hdr : KmpHdr) : Option Nat :=
  match s.qps.find? (fun e => e.2.params.peerIp == hdr.srcIp && (e.2.params.port == 1) == hdr.port) with
  | some e => some (s.queueHost e.1)
  | none => none

/-- A KMP datagram reaches KMP: its frame is accepted, its class is `KMP_TC`, and its meter lets it pass (R304, R306, R308, R321, R326,
R370). -/
def State.kmpArrive (s : State) (hdr : KmpHdr) : Option State × State :=
  if ¬s.ethUp hdr.port ∨ (s.spDown ∧ ¬s.spRestarting) then (none, s)
  else
    match s.frameIn hdr.port hdr.frame with
    | (false, s) => (none, s)
    | (true, s) =>
      if hdr.frame.cls.toNat ≠ s.kmpTc hdr.port then
        (none, s.modEth hdr.port (fun p => { p with dropped := satAdd p.dropped 1 }))
      else
        match s.kmpIdentity hdr with
        | none => (some s, s)
        | some h =>
          let (c, s) := s.meterArrive h hdr.frame.bytes
          if c = .red ∧ s.redEth h = 0 then (none, s.modEth hdr.port (fun p => { p with redDrop := satAdd p.redDrop 1 }))
          else (some s, s)

/-- A message is protected under the session, and its tag is right (R327). -/
def KmpSession.opens (x : KmpSession) (h : KmpHdr) : Bool :=
  h.protected_ && (gcmOpen x.key (kmpNonce h.sessionId h.msgSeq false)
    (kmpHead h.version h.type h.kflags h.kstatus h.sessionId h.msgSeq h.bodyLen.toNat h.rsb h.rsvd) h.body h.tag).isSome

/-- The request is new and within 16 of the highest accepted (R331). -/
def KmpSession.fresh (x : KmpSession) (seq : BitVec 32) : Bool :=
  decide (0 < seq.toNat ∧ seq.toNat ≤ x.highest.toNat + 16 ∧ x.highest.toNat ≤ seq.toNat + 16) && !x.seen.contains seq

/-- Accepts a request: it counts as seen, and its source is where the part's own messages go (R331, notes/assumptions/72.md). -/
def KmpSession.accept (x : KmpSession) (h : KmpHdr) : KmpSession :=
  let hi := if x.highest < h.msgSeq then h.msgSeq else x.highest
  { x with
    highest := hi, seen := (h.msgSeq :: x.seen).filter (fun q => decide (hi.toNat ≤ q.toNat + 16)), mac := h.srcMac, vlan := h.frame.vlan }

/-- Stores a response with its request, keeping the last 16 (R331). -/
def KmpSession.store (x : KmpSession) (seq : BitVec 32) (m : KmpMsg) : KmpSession :=
  { x with stored := (x.stored ++ [(seq, m)]).drop (x.stored.length + 1 - 16) }

/-- Answers a request of the session in slot `k`, whose record was `x` when it came: the response is formed, stored and sent; one of
`KSTATUS` 1 (busy, resend) leaves the sequence number unused (R328, R331). -/
def State.kmpAnswer (s : State) (k : Nat) (x : KmpSession) (hdr : KmpHdr) (type : BitVec 8) (r : KmpResp) : State :=
  let (m, s) := s.kmpForm (some (k, x.key)) hdr.sessionId type hdr.msgSeq (.resp r)
  (if r.status = 1 then s else s.modSession k (fun x => (x.accept hdr).store hdr.msgSeq m)).kmpPut hdr m

/-- Sends a response that was deferred, to the session that asked while it is still open, and stores it. -/
def State.kmpLater (s : State) (slot : Nat) (sid : BitVec 32) (hdr : KmpHdr) (type : BitVec 8) (r : KmpResp) : State :=
  match s.session slot with
  | some x =>
    if x.sid = sid then
      let (m, s) := s.kmpForm (some (slot, x.key)) hdr.sessionId type hdr.msgSeq (.resp r)
      (s.modSession slot (fun x => x.store hdr.msgSeq m)).kmpPut hdr m
    else s
  | none => s

/-- A commit, or a return by quiesce (R76, R102), quiesces this Ethernet port, so that new KMP requests on it get `KSTATUS` 1 (R339). -/
def State.ethQuiesced (s : State) (e : Bool) : Bool := (s.si.state == .quiescing || s.si.state == .returning) && s.ethHeld e

/-- Check 5 of the health window: an authenticated message of an operator session, whatever its answer, 10 s to 60 s after the window
opened (R78). -/
def State.noteMgmt (s : State) (x : KmpSession) : State :=
  match s.si.healthAt with
  | some t => if s.isOperator x ∧ t + 10000000000 ≤ s.clk.now ∧ s.clk.now ≤ t + 60000000000 then { s with si := { s.si with mgmtSeen := true } } else s
  | none => s

/-- A request within a session (R326–R331). `perform` acts for the session slot and gives the response, or none when the
response follows later. Outside a session the part answers none of these messages (R328). -/
def State.kmpRequest (s : State) (hdr : KmpHdr) (type : BitVec 8) (servedWhenFatal : Bool)
    (perform : Nat → KmpSession → State → Option KmpResp × State) : State :=
  match s.kmpArrive hdr with
  | (none, s) => s
  | (some s, _) =>
    match s.sessionOf hdr.sessionId with
    | none => if hdr.sessionId = 0 then s else s.kmpSend none hdr type { status := 2 }
    | some k =>
      match s.session k with
      | none => s
      | some x =>
        let ses := some (k, x.key)
        if ¬x.opens hdr ∨ x.port ≠ hdr.port then s.kmpSend none hdr type { status := 2 }
        else
        let s := s.noteMgmt x
        if ¬kmpHdrOk hdr then s.kmpSend ses hdr type { status := 4 }
        else match x.stored.find? (fun e => e.1 == hdr.msgSeq) with
        | some e => s.kmpPut hdr e.2
        | none =>
          if ¬x.fresh hdr.msgSeq then s.kmpSend ses hdr type { status := 8 }
          else if (s.fatal ∨ s.sys.phase = .halted) ∧ ¬servedWhenFatal then s.kmpSend ses hdr type { status := 1 }
          else if s.ethQuiesced hdr.port ∧ ¬s.fatal then s.kmpSend ses hdr type { status := 1 }
          else if ¬kmpKnown hdr.type then s.kmpAnswer k x hdr hdr.type { status := 5 }
          else if s.spRestarting ∧ (type = 2 ∨ type = 6 ∨ type = 7) then
            s.kmpSend ses hdr type { status := 1, body := .retry s.retryMs }
          else
            match perform k x s with
            | (none, s) => s.modSession k (fun x => x.accept hdr)
            | (some r, s) => s.kmpAnswer k x hdr type r

/-- The frame of a message of the part's own to a session. -/
def State.sessionFrame (s : State) (x : KmpSession) : TxFrame :=
  { mac := x.mac, cls := BitVec.ofNat 3 (s.kmpTc x.port), vlan := x.vlan }

/-- Sends a message of the part's own to the session in slot `k` with the next number of its sequence; `keep` keeps an EVENT until it is
acknowledged (R331). -/
def State.kmpOwn (s : State) (k : Nat) (type : BitVec 8) (keep : Bool) (what : KmpSays) : State :=
  match s.session k with
  | none => s
  | some x =>
    let n := x.eventSeq + 1
    let (m, s) := s.kmpForm (some (k, x.key)) x.sid type n what
    (s.modSession k (fun x => { x with eventSeq := n, events := if keep then x.events ++ [(n, m, 0)] else x.events })).sendFrame x.port
      (s.sessionFrame x) (.kmp m)

/-- Sends a KMP EVENT to the session in slot `k`, kept until acknowledged (R331). -/
def State.sendEvent (s : State) (k : Nat) (e : KmpEvent) : State := s.kmpOwn k 8 true (.event e)

/-- Writes an extent event to the host's event queue and to the session that issued the command, while that session is
open (R141); `ends` marks the event that ends a withdrawal or narrowing. -/
def State.extentEvent (s : State) (host : Nat) (session : Option (Nat × BitVec 32)) (e : ExtEvent) (ends : Bool) : State :=
  let s := match s.firstQueue host with
    | some q => s.pushSlot q (.event e ends)
    | none => s
  match session with
  | some (k, sid) =>
    match s.session k with
    | some x => if x.sid = sid then s.sendEvent k (.extent e) else s
    | none => s
  | none => s

end Sys2Proof.Machine
end

