-- ==== Sys2Proof/Machine/CohOps.lean ====
section
/-! DEFINITION. CohOps.lean: extent maps at ingress, the directory, coherence messages, the orders of lines and the completion of
transactions (chapters "Carving the Pool", "Coherence Protocol" and "Coherence Under Collision and Failure"). -/
namespace Sys2Proof.Machine
open Sys2Proof

/-! ### Extent maps (R110–R119) -/

/-- The code of rights (R117). -/
def rightsCode : Rights → Nat
  | .r => 1 | .rw => 3 | .rwa => 7
/-- Rights of a code; the narrowest for any other mask. -/
def rightsOf (n : Nat) : Rights := if n = 7 then .rwa else if n = 3 then .rw else .r
/-- The intersection of rights (R118). -/
def meet (a b : Rights) : Rights := rightsOf (Nat.land (rightsCode a) (rightsCode b))
/-- The rights include W. -/
def hasW (r : Rights) : Bool := decide (rightsCode r / 2 % 2 = 1)
/-- The rights include A. -/
def hasA (r : Rights) : Bool := decide (rightsCode r / 4 = 1)

/-- What a request needs (R119). -/
inductive Need where
  | read | write | readWrite | atomic
deriving DecidableEq, Repr

/-- The rights suffice (R119, R354). -/
def allows (r : Rights) : Need → Bool
  | .read => true
  | .write => hasW r
  | .readWrite => hasW r
  | .atomic => hasA r

/-- The map of a host. -/
def State.mapOf (s : State) (host : Nat) : SMap MapEntry := s.maps.getD host []

/-- The class of an extent. -/
def State.classOf (s : State) (e : Nat) : Nat := match s.extents.get? e with | some x => x.cls.toNat | none => 0

/-- The rights in force of an entry for a request that arrives now: granted, within the class, and within a narrowing
under way (R118, R142). -/
def State.inForce (s : State) (m : MapEntry) : Rights :=
  let r := meet m.rights (rightsOf (s.classRights (s.classOf m.extent.toNat)))
  match m.mark with
  | .narrowing g => meet r g
  | _ => r

/-- The pool base under which a host maps an extent, if it does. -/
def State.baseOf (s : State) (host e : Nat) : Option Nat :=
  ((s.mapOf host).find? (fun x => x.2.extent.toNat == e)).map (·.1)

/-- The entry a host holds for an extent. -/
def State.entryFor (s : State) (host e : Nat) : Option MapEntry :=
  ((s.mapOf host).find? (fun x => x.2.extent.toNat == e)).map (·.2)

/-- Checks at ingress one access of `host` at pool address `addr` (R111, R119, R135, R142, R615): the entry and the DPA,
or the status of a refusal. `legal` is whether the class's tracking value accepts the request (R176). A retired page is Unmapped before
anything else is looked at (DESIGN CHOICE, notes/assumptions/55.md). -/
def State.ingress (s : State) (host addr : Nat) (need : Need) (legal : Nat → Bool) : PStatus × Nat × Bool :=
  match (s.mapOf host).get? (addr / 2 ^ 28) with
  | none => (.unmapped, 0, false)
  | some m =>
    let dpa := m.extent.toNat * 2 ^ 28 + addr % 2 ^ 28
    let r := s.inForce m
    if s.pageRetired dpa then (.unmapped, dpa, false)
    else if ¬legal (s.track (s.classOf m.extent.toNat)) then (.illegal, dpa, false)
    else if m.mark = .draining then (.withdrawn, dpa, false)
    else if ¬allows r need then (.rights, dpa, false)
    else (.ok, dpa, hasW r)

/-! ### Messages (R158, R159, R262) -/

/-- Opcodes of R158. -/
def cohCode : CohOp → Nat
  | .rdS => 1 | .rdX => 2 | .upg => 3 | .wbM => 4 | .evc => 5 | .rdNc => 6 | .wrFull => 7
  | .snpS => 0x10 | .snpX => 0x11 | .recall => 0x12
  | .data => 0x18 | .fwdData => 0x19 | .ack => 0x1A | .snpRspI => 0x1B | .snpRspWb => 0x1C | .nack => 0x1D | .cmp => 0x1E

/-- The logical channel of a message the part sends (R158). -/
def cohLvc : CohOp → BitVec 3
  | .snpS | .snpX | .recall => 1
  | _ => 2

/-- The coherence payload of a `HEAD` cell (R262). -/
def cohPayload (m : CohMsg) : BitVec 160 :=
  BitVec.ofNat 160 (cohCode m.op + m.req.toNat * 2 ^ 5 + m.tag.toNat * 2 ^ 16 + m.htag.toNat * 2 ^ 28
    + m.addr.toNat * 2 ^ 41 + m.mode.ctorIdx * 2 ^ 87 + m.state.ctorIdx * 2 ^ 89 + b2n m.atomic * 2 ^ 92
    + b2n m.poison * 2 ^ 93 + m.status.ctorIdx * 2 ^ 94 + m.backoff.toNat * 2 ^ 98 + m.rsb.toNat * 2 ^ 102)

/-- Sends a coherence message to a host; a dead host gets nothing (R208). -/
def State.sendCoh (s : State) (h : BitVec 10) (m : CohMsg) : State :=
  if (s.host h.toNat).dead ∨ s.sys.portsStopped then s
  else (s.emit (.coh h m)).sendPkt h.toNat 1 (cohLvc m.op) (cohPayload m)
    (match m.data with | some d => lineCells d | none => [])

/-- Agent number 0x7FF: the home atomic unit and the home's own transactions (R149). -/
def homeAgent : BitVec 11 := 0x7FF

/-- The requester's agent number and tag (R159). -/
def Initiator.agent : Initiator → BitVec 11
  | .host a _ => a.setWidth 11
  | _ => homeAgent

/-- The requester's tag; the home's own transactions have none and send 0 (notes/assumptions/86.md). -/
def Initiator.tag : Initiator → BitVec 12
  | .host _ t => t
  | _ => 0

/-- A response of the home to host `h` (R159). -/
def State.reply (s : State) (h : BitVec 10) (tag : BitVec 12) (op : CohOp) (state : Moesi) (status : PStatus)
    (data : Option Line) : State :=
  s.sendCoh h { op := op, req := h.setWidth 11, tag := tag, state := state, status := status,
                rsb := s.rsb (some h.toNat), data := data }

/-- A refusal for retry: `Nack`, `STATUS` 0x1 (R184, R197, R370, R797). -/
def State.nackRetry (s : State) (h : BitVec 10) (tag : BitVec 12) (backoff : BitVec 4) (load3 : Bool) : State :=
  (s.sendCoh h { op := .nack, req := h.setWidth 11, tag := tag, status := .retry, backoff := backoff,
                 rsb := if load3 then s.rsbRed (some h.toNat) else s.rsb (some h.toNat) })

/-- A non-zero `BACKOFF` the spec leaves to the part: 1 to 15, free (R184, R186). -/
def State.freeBackoff (s : State) : BitVec 4 × State :=
  let (n, s) := s.draw .backoff
  (BitVec.ofNat 4 (1 + n % 15), s)

/-! ### The directory (R153–R157, R192–R199) -/

/-- The set of line `l` (R192). -/
def dirSet (l : Nat) : Nat := Nat.xor (l % 2 ^ 19) (l / 2 ^ 19 % 2 ^ 19)
/-- The tag of line `l` (R192). -/
def dirTag (l : Nat) : BitVec 21 := BitVec.ofNat 21 (l / 2 ^ 19)
/-- The key of a way. -/
def wayKey (hub set way : Nat) : Nat := (hub * 2 ^ 19 + set) * 16 + way
/-- The line that a way's entry names. -/
def lineOfWay (key : Nat) (e : DirEntry) : Nat :=
  e.tag.toNat * 2 ^ 19 + Nat.xor (key / 16 % 2 ^ 19) (e.tag.toNat % 2 ^ 19)

/-- The way and entry of line `l`, if the directory holds one. -/
def State.dirFind (s : State) (hub l : Nat) : Option (Nat × DirEntry) :=
  (List.range 16).findSome? (fun w =>
    match s.dir.get? (wayKey hub (dirSet l) w) with
    | some e => if e.tag = dirTag l then some (wayKey hub (dirSet l) w, e) else none
    | none => none)

/-- The entry's directory state, I when there is none. -/
def State.dstate (s : State) (hub l : Nat) : DState := match s.dirFind hub l with | some (_, e) => e.dstate | none => .i

/-- The recency rank that a way gives up when it becomes the most recent: its own, or for a free way the lowest that no way of the set
has (R193). -/
def State.wayAge (s : State) (key : Nat) : Nat :=
  match s.dir.get? key with
  | some e => e.age.toNat
  | none =>
    let ages := (List.range 16).filterMap (fun w => (s.dir.get? (key / 16 * 16 + w)).map (fun e => e.age.toNat))
    ((List.range 16).find? (fun a => !ages.contains a)).getD 15

/-- Writes line `l`'s entry into a way, as the most recent one of its set: the ways that were more recent each fall back by one rank
(R193; notes/assumptions/57.md). -/
def State.setWay (s : State) (key : Nat) (e : DirEntry) : State :=
  if e.dstate = .i then { s with dir := s.dir.erase key }
  else
    let base := key / 16 * 16
    let old := s.wayAge key
    let aged := (List.range 16).foldl (fun d w =>
      match SMap.get? d (base + w) with
      | some x => if x.age.toNat < old then SMap.set d (base + w) { x with age := x.age + 1 } else d
      | none => d) s.dir
    { s with dir := aged.set key { e with age := 0 } }

/-- Slot `i` of an exact `SHARERS` field (R153). -/
def DirEntry.slot (e : DirEntry) (i : Nat) : Nat := e.sharers.toNat / 2 ^ (11 * i) % 2 ^ 11

/-- The exact sharers of an entry (R153). -/
def DirEntry.exact (e : DirEntry) : List Nat :=
  (List.range 4).filterMap (fun i => if 2 ^ 10 ≤ e.slot i then some (e.slot i % 2 ^ 10) else none)

/-- The group bits of a coarse entry cover host `h` (R153). -/
def DirEntry.covers (e : DirEntry) (h : Nat) : Bool := e.sharers.getLsbD (h / 16)

/-- Host `h` is a possible sharer (R168). -/
def DirEntry.possible (e : DirEntry) (h : Nat) : Bool := if e.coarse then e.covers h else e.exact.contains h

/-- The field for exact sharers (R153): at most four, in the order given. -/
def exactField (l : List Nat) : BitVec 64 :=
  BitVec.ofNat 64 ((l.take 4).zipIdx.foldl (fun a e => a + (2 ^ 10 + e.1) * 2 ^ (11 * e.2)) 0)

/-- The field for a coarse vector (R153). -/
def coarseField (l : List Nat) : BitVec 64 := BitVec.ofNat 64 (l.foldl (fun a h => a ||| 2 ^ (h / 16)) 0)

/-- Adds a sharer, in the lowest free slot; a fifth one makes the entry coarse (R155). -/
def DirEntry.addSharer (e : DirEntry) (h : Nat) : DirEntry :=
  if e.coarse then { e with sharers := e.sharers ||| BitVec.ofNat 64 (2 ^ (h / 16)) }
  else if e.exact.contains h then e
  else match (List.range 4).find? (fun i => decide (e.slot i < 2 ^ 10)) with
    | some i => { e with sharers := BitVec.ofNat 64 (e.sharers.toNat + (2 ^ 10 + h) * 2 ^ (11 * i)) }
    | none => { e with coarse := true, sharers := coarseField (h :: e.exact) }

/-- Clears the exact slots of the hosts that satisfy `p`; the others keep their slots, and a coarse entry does not change (R157, R209). -/
def DirEntry.clearSlots (e : DirEntry) (p : Nat → Bool) : DirEntry :=
  if e.coarse then e
  else { e with sharers := BitVec.ofNat 64 ((List.range 4).foldl (fun a i =>
    if 2 ^ 10 ≤ e.slot i ∧ ¬p (e.slot i % 2 ^ 10) then a + e.slot i * 2 ^ (11 * i) else a) 0) }

/-- Removes an exact sharer (R157). -/
def DirEntry.dropSharer (e : DirEntry) (h : Nat) : DirEntry := e.clearSlots (· == h)

/-- The entry without any sharer, exact again (R155). -/
def DirEntry.noSharers (e : DirEntry) : DirEntry := { e with coarse := false, sharers := 0 }

/-- The entry once its owner holds no copy: from O it is S with the remaining sharers, otherwise I (R168, R170, R204). -/
def DirEntry.dropOwner (e : DirEntry) : DirEntry :=
  if e.dstate = .o ∧ e.sharers ≠ 0 then { e with dstate := .s, owner := 0 } else { e with dstate := .i, owner := 0 }

/-- The sharers to be snooped (R156, R168): exact ones, or the hosts of each set group; never a host without a map entry
for the extent (R811), the requester, the owner or a dead host. -/
def State.sharersOf (s : State) (e : DirEntry) (l : Nat) (except_ : BitVec 11) : List Nat :=
  let all := if e.coarse then (List.range 1024).filter e.covers else e.exact
  all.filter (fun h => h != except_.toNat && !((e.dstate == .e || e.dstate == .o) && h == e.owner.toNat)
    && !(s.host h).dead && (s.baseOf h (l / 2 ^ 22)).isSome)

/-- The record of a hub's home. -/
def State.cohHub (s : State) (n : Nat) : CohHub := s.cohHubs.getD n {}
/-- Changes it. -/
def State.modCohHub (s : State) (n : Nat) (f : CohHub → CohHub) : State := { s with cohHubs := s.cohHubs.mod n {} f }

/-- The order of line `l`. -/
def State.order (s : State) (l : Nat) : LineOrd := s.lines.getD l { hub := BitVec.ofNat 3 (s.homeHub l) }
/-- The open transaction of line `l`. -/
def State.tx (s : State) (l : Nat) : Option Tx := (s.order l).tx

/-- Writes the order of a line; an empty one is not kept. -/
def State.setOrder (s : State) (l : Nat) (o : LineOrd) : State :=
  if o.tx.isNone ∧ o.queue.isEmpty then { s with lines := s.lines.erase l } else { s with lines := s.lines.set l o }

/-- Replaces the open transaction of a line. -/
def State.setTx (s : State) (l : Nat) (t : Option Tx) : State := s.setOrder l { s.order l with tx := t }

/-- Open transactions of a hub (`COH_OCCUPANCY.OPEN`, R189). -/
def State.openCount (s : State) (hub : Nat) : Nat := s.lines.countP (fun e => e.2.hub.toNat == hub && e.2.tx.isSome)
/-- Queued requests of a hub (`COH_OCCUPANCY.QUEUED`). -/
def State.queuedCount (s : State) (hub : Nat) : Nat :=
  s.lines.foldl (fun a e => if e.2.hub.toNat = hub then a + e.2.queue.length else a) 0

/-- The ways of a set promised to waiting transactions (R196, R198). -/
def State.promised (s : State) (hub set : Nat) : List Nat :=
  s.lines.filterMap (fun e => match e.2.tx with
    | some t => match t.wayAt with
      | some k => if k / 16 = hub * 2 ^ 19 + set then some (k % 16) else none
      | none => none
    | none => none)

/-- What the search for a way finds (R195). -/
inductive WayRes where
  | free (way : Nat)
  | evict (way : Nat) (victim : Nat)
  | pinned
deriving DecidableEq, Repr

/-- Searches a way for line `l` (R194, R195, R198): a free one, the lowest-numbered first, otherwise the unpinned one with
the highest `AGE`. Way 15 is left out while a retrier is recorded, except for that retrier. -/
def State.findWay (s : State) (hub l : Nat) (retrier : Bool) : WayRes :=
  let set := dirSet l
  let rec_ := (s.retry.get? (hub * 2 ^ 19 + set)).isSome
  let taken := s.promised hub set
  let ways := (List.range 16).filter (fun w => !(taken.contains w) && !(w == 15 && rec_ && !retrier))
  match ways.find? (fun w => (s.dir.get? (wayKey hub set w)).isNone) with
  | some w => .free w
  | none =>
    let cand := ways.filterMap (fun w =>
      match s.dir.get? (wayKey hub set w) with
      | some e =>
        let v := lineOfWay (wayKey hub set w) e
        if (s.tx v).isSome then none else some (w, v, e.age.toNat)
      | none => none)
    match cand.foldl (fun b c => match b with
        | none => some c
        | some x => if x.2.2 < c.2.2 then some c else b) (none : Option (Nat × Nat × Nat)) with
    | some (w, v, _) => .evict w v
    | none => .pinned

/-! ### Snoops -/

/-- The next snoop tag that is not outstanding to host `h`, from `c` on. -/
def State.tagFrom (used : List (BitVec 13)) (c : BitVec 13) : Nat → BitVec 13
  | 0 => c
  | n + 1 => if used.contains c then State.tagFrom used (c + 1) n else c

/-- Snoop tags outstanding to host `h`. -/
def State.tagsOf (s : State) (h : BitVec 10) : List (BitVec 13) :=
  s.lines.flatMap (fun e => match e.2.tx with
    | some t => (t.snoops.filter (fun x => x.host == h)).map (·.htag)
        ++ (match t.fwdFrom with | some (g, x) => if g = h then [x] else [] | none => [])
    | none => [])

/-- Sends one snoop of line `l` to host `h` and answers its record (R159, R200); a `Recall` carries no `MODE`, and its record counts as
`WB` (R161). -/
def State.snoop (s : State) (hub l h : Nat) (op : CohOp) (mode : SnpMode) (req : BitVec 11) (tag : BitVec 12)
    (asOwner : Bool) : Snoop × State :=
  let host : BitVec 10 := BitVec.ofNat 10 h
  let htag := State.tagFrom (s.tagsOf host) s.coh.nextHtag 8192
  let addr : BitVec 46 := BitVec.ofNat 46 ((s.baseOf h (l / 2 ^ 22)).getD 0 * 2 ^ 22 + l % 2 ^ 22)
  let s := ({ s with coh := { s.coh with nextHtag := htag + 1 } } : State).bump hub 4 0x81 0 1
  let m : CohMsg := { op := op, req := if op = .recall then homeAgent else req, tag := tag, htag := htag, addr := addr,
                      mode := if op = .recall then .fwd else mode }
  (⟨host, op, mode, htag, asOwner, addr⟩, s.sendCoh host m)

/-- Sends a snoop to each host of a list. -/
def State.snoopAll (s : State) (hub l : Nat) (op : CohOp) (mode : SnpMode) (req : BitVec 11) (tag : BitVec 12) :
    List Nat → List Snoop × State
  | [] => ([], s)
  | h :: r =>
    let (x, s) := s.snoop hub l h op mode req tag false
    let (xs, s) := s.snoopAll hub l op mode req tag r
    (x :: xs, s)

/-- Counts a line that host `h` may have written, poisoned by its reclamation or under R205 or R811 (R212, R219). -/
def State.countPoison (s : State) (hub h : Nat) : State :=
  s.modCohHub hub (fun c => { c with
    poisoned := satAdd c.poisoned 1, poisonedNow := if (s.host h).dead then c.poisonedNow.mod h 0 (· + 1) else c.poisonedNow })

/-- An orphan record (R205, R811). -/
def State.orphan (s : State) (hub l h : Nat) : State :=
  s.logError { type := 8, hub := BitVec.ofNat 8 hub, dpa := BitVec.ofNat 64 (64 * l), host := BitVec.ofNat 16 h }

/-- Poisons a line that host `h` may have written and lost (R205, R209, R811); an orphan record follows unless the host is
declared dead. -/
def State.losePoison (s : State) (hub l h : Nat) : State :=
  let s := (s.storePoison l).countPoison hub h
  if (s.host h).dead then s else s.orphan hub l h

/-! ### Completion of lines of accesses -/

/-- Marks line `i` of an access as done, with the data found and its status (R132). -/
def State.accLine (s : State) (id i : Nat) (data : Line) (poison : Bool) : State :=
  match s.accesses.get? id with
  | none => s
  | some a =>
    let mark (x : AccLine) : AccLine := { x with done := true, poison := poison, data := if a.write then x.data else data }
    let a' : Access := { a with lines := a.lines.zipIdx.map (fun e => if e.2 = i then mark e.1 else e.1) }
    { s with accesses := s.accesses.set id a' }

/-! ### The home atomic unit (R181–R183) -/

/-- The next recency stamp of the home atomic unit of a hub (R181). -/
def State.atomStamp (s : State) (hub : Nat) : Nat := (s.atom.filter (fun e => e.2.hub.toNat == hub)).foldl (fun m e => max m e.2.lastUse) 0 + 1

/-- Writes back and releases a line that the home atomic unit holds: the directory is left in state I. -/
def State.atomRelease (s : State) (l : Nat) : State :=
  match s.atom.get? l with
  | none => s
  | some a =>
    let s := ({ s with atom := s.atom.erase l } : State).storeLine l a.data
    match s.dirFind a.hub.toNat l with
    | some (k, _) => { s with dir := s.dir.erase k }
    | none => s

/-- Lines the unit of a hub holds. -/
def State.atomCount (s : State) (hub : Nat) : Nat := s.atom.countP (fun e => e.2.hub.toNat == hub)

/-- Releases the lines of classes in a set that the home atomic units hold: a commit narrows their rights (R118, R181). -/
def State.atomReleaseClasses (s : State) (set : BitVec 16) : State :=
  (s.atom.filter (fun x => (s.extents.get? (x.1 / 2 ^ 22)).isSome && set.getLsbD (s.classOf (x.1 / 2 ^ 22)))).foldl
    (fun s x => s.atomRelease x.1) s

/-- The unit makes room: a hub's unit that holds 512 lines releases the least recently used (R181). -/
def State.atomRoom (s : State) (hub : Nat) : State :=
  if s.atomCount hub < 512 then s
  else
    let mine := s.atom.filter (fun e => e.2.hub.toNat == hub)
    let oldest := mine.foldl (fun m e => min m e.2.lastUse) (s.atomStamp hub)
    match mine.find? (fun e => e.2.lastUse == oldest) with
    | some e => s.atomRelease e.1
    | none => s

/-- The operand size in bytes of an atomic operation; none for a reserved code (R182). -/
def atomSize (code : Nat) : Option Nat :=
  if code = 0x1 then some 4 else if code = 0x5 then some 16
  else if code = 0 ∨ 0xD ≤ code then none else some 8

/-- A 64-bit value read as signed. -/
def toSigned64 (n : Nat) : Int := (BitVec.ofNat 64 n).toInt

/-- The new value of the location (R182). -/
def atomApply (code : Nat) (old operand compare : Nat) : Nat :=
  match code with
  | 0x1 => (old + operand) % 2 ^ 32
  | 0x2 => (old + operand) % 2 ^ 64
  | 0x3 => operand % 2 ^ 64
  | 0x4 => if old = compare % 2 ^ 64 then operand % 2 ^ 64 else old
  | 0x5 => if old = compare % 2 ^ 128 then operand % 2 ^ 128 else old
  | 0x6 => Nat.land old (operand % 2 ^ 64)
  | 0x7 => Nat.lor old (operand % 2 ^ 64)
  | 0x8 => Nat.xor old (operand % 2 ^ 64)
  | 0x9 => if toSigned64 old < toSigned64 operand then operand % 2 ^ 64 else old
  | 0xA => max old (operand % 2 ^ 64)
  | 0xB => if toSigned64 operand < toSigned64 old then operand % 2 ^ 64 else old
  | 0xC => min old (operand % 2 ^ 64)
  | _ => old

/-- Performs an atomic operation at byte `off` of a line: the prior value and the new line. -/
def atomLine (code off : Nat) (operand compare : BitVec 128) (d : Line) : BitVec 128 × Line :=
  match atomSize code with
  | none => (0, d)
  | some n =>
    let old := d.toNat / 2 ^ (8 * off) % 2 ^ (8 * n)
    let new := atomApply code old operand.toNat compare.toNat
    (BitVec.ofNat 128 old, BitVec.ofNat 512 (d.toNat - old * 2 ^ (8 * off) + new * 2 ^ (8 * off)))

/-- The home atomic unit performs an access's operation on a line it holds, and the access is done (R181, R183). -/
def State.atomPerform (s : State) (l id : Nat) : State :=
  match s.atom.get? l, s.accesses.get? id with
  | some a, some x =>
    let (old, d) := atomLine x.atop.toNat x.byteOff x.operand x.compare a.data
    let s : State := { s with
      atom := s.atom.set l { a with data := d, lastUse := s.atomStamp a.hub.toNat },
      accesses := s.accesses.set id { x with result := old } }
    s.accLine id 0 d false
  | _, _ => s

/-- The unit of hub `hub` takes line `l` with its data, after making room, and performs the waiting operation. -/
def State.atomTake (s : State) (hub l key id : Nat) (e : DirEntry) (d : Line) : State :=
  let s := (s.atomRoom hub).setWay key e
  ({ s with atom := s.atom.set l { hub := BitVec.ofNat 3 hub, data := d, lastUse := s.atomStamp hub } } : State).atomPerform l id

/-! ### Completing a transaction (R168–R178) -/

/-- The directory entry of line `l` with a sole owner. -/
def ownEntry (l : Nat) (agent : BitVec 11) : DirEntry := { tag := dirTag l, dstate := .e, owner := agent }
/-- The directory entry of line `l` with one sharer. -/
def shareEntry (l : Nat) (h : Nat) : DirEntry := { tag := dirTag l, dstate := .s, sharers := exactField [h] }
/-- The entry once its owner has become a sharer. -/
def DirEntry.ownerShares (e : DirEntry) : DirEntry :=
  DirEntry.addSharer { e with dstate := .s, owner := 0 } e.owner.toNat
/-- The entry whose owner keeps the line in O. -/
def DirEntry.ownerOwns (e : DirEntry) : DirEntry := { e with dstate := .o }

/-- A response to the requester of a transaction; the transaction of a host declared dead sends it nothing, readmitted or not (R211). -/
def State.txReply (s : State) (t : Tx) (h : BitVec 10) (tag : BitVec 12) (op : CohOp) (state : Moesi) (data : Option Line) : State :=
  if t.deadReq then s else s.reply h tag op state .ok data

/-- Ends the transaction of line `l`: sends the `Cmp` owed for each write-back kept for it (R202), frees an entry that names
nobody, and closes it. -/
def State.closeTx (s : State) (hub l : Nat) : State :=
  match s.tx l with
  | none => s
  | some t =>
    let s := t.wb.foldl (fun s w => s.reply w.1 w.2.1 .cmp .i .ok none) s
    let s : State := match s.dirFind hub l with
      | some (k, e) => if e.dstate = .s ∧ e.sharers = 0 then { s with dir := s.dir.erase k } else s
      | none => s
    s.setTx l none

/-- Tells the requester that line `l` is poisoned (R173), but a host that has been declared dead since (`dead`, R211); the lift engines
copy the poison (R573). -/
def State.tellPoison (s : State) (l : Nat) (r : LineReq) (dead : Bool) : State :=
  match r.from_ with
  | .host h tag => if dead then s else s.reply h tag .nack .i .poison none
  | .access id i => s.accLine id i 0 true
  | .home => if r.kind = .rdNc then s.liftTake l none else s

/-- The hosts that may still hold the line when a transaction has found it poisoned: all it has not yet invalidated. -/
def State.holdersLeft (s : State) (hub l : Nat) (t : Tx) : List Nat :=
  match s.dirFind hub l with
  | none => []
  | some (_, e) =>
    let own := if (e.dstate = .e ∨ e.dstate = .o) ∧ e.owner.toNat < 1024 ∧ ¬(s.host e.owner.toNat).dead
        ∧ (s.baseOf e.owner.toNat (l / 2 ^ 22)).isSome then [e.owner.toNat] else []
    (own ++ s.sharersOf e l homeAgent).filter (fun h => !t.dropped.contains h)

/-- The line of the transaction is poisoned: every copy left is invalidated by `SnpX` `DROP`, and then the requester is
told and the entry freed (R173). -/
def State.poisonRound (s : State) (hub l : Nat) (t : Tx) : State :=
  match s.holdersLeft hub l t with
  | [] =>
    let s : State := match s.dirFind hub l with | some (k, _) => { s with dir := s.dir.erase k } | none => s
    (s.tellPoison l t.req t.deadReq).closeTx hub l
  | hs =>
    let (xs, s) := s.snoopAll hub l .snpX .drop t.req.from_.agent t.req.from_.tag hs
    s.setTx l (some { t with poisoned := true, snoops := xs, dropped := hs ++ t.dropped })

/-- Serves a request from memory or from data written back during it: the directory is set and the completion sent
(R168, R170). `entry` is what the directory holds and `key` the way used. -/
def State.serveMemory (s : State) (hub key l : Nat) (entry : Option DirEntry) (t : Tx) (d : Line) : State :=
  let erase : State := { s with dir := s.dir.erase key }
  match t.req.kind, t.req.from_ with
  | .rdS, .host h tag =>
    match entry with
    | some e =>
      if e.sharers = 0 ∧ t.deadReq then erase
      else if e.sharers = 0 then
        (if t.req.grantW then (s.setWay key (ownEntry l (h.setWidth 11))).txReply t h tag .data .e (some d)
         else (s.setWay key (shareEntry l h.toNat)).txReply t h tag .data .s (some d))
      else
        let s := if t.deadReq then s else s.setWay key (DirEntry.addSharer { e with dstate := .s, owner := 0 } h.toNat)
        s.txReply t h tag .data .s (some d)
    | none =>
      if t.deadReq then s
      else if t.req.grantW then (s.setWay key (ownEntry l (h.setWidth 11))).txReply t h tag .data .e (some d)
      else (s.setWay key (shareEntry l h.toNat)).txReply t h tag .data .s (some d)
  | .rdX _, .host h tag | .upg _, .host h tag =>
    if t.deadReq then erase
    else (s.setWay key (ownEntry l (h.setWidth 11))).txReply t h tag .data .m (some d)
  | .rdNc, .host h tag => s.txReply t h tag .data .i (some d)
  | .rdNc, .access id i => s.accLine id i d false
  | .rdNc, .home => s.liftTake l (some d)
  | .acquire, .access id _ => s.atomTake hub l key id (ownEntry l homeAgent) d
  | _, _ => s

/-- The entry names an owner. -/
def DirEntry.owned (e : DirEntry) : Bool := e.dstate == .e || e.dstate == .o

/-- The lift engines get the line that its owner has forwarded; what the owner has written back, or evicted, since then is in memory (R573,
R810). -/
def State.liftForwarded (s : State) (l : Nat) (entry : Option DirEntry) (t : Tx) : State :=
  if entry.any DirEntry.owned then s.liftTake l t.fwd
  else
    let (x, s) := s.loadLine l .clean
    s.liftTake l (if x.poison then none else some x.data)

/-- A forwarded transaction completes (R168, R170, R810, R211). -/
def State.finishForwarded (s : State) (hub key l : Nat) (entry : Option DirEntry) (t : Tx) : State :=
  let s := s.bump hub 4 0x82 0 1
  let gone : State := { s with dir := s.dir.erase key }
  match t.req.kind, t.req.from_ with
  | .rdS, .host h tag =>
    match entry with
    | some e =>
      let e := if t.ownerKeeps = some .s then e.ownerShares else e.ownerOwns
      (s.setWay key (if t.deadReq then e else e.addSharer h.toNat)).txReply t h tag .cmp .s none
    | none => s.txReply t h tag .cmp .s none
  | .rdNc, .host h tag => s.txReply t h tag .cmp .i none
  | .rdNc, .access id i => s.accLine id i (t.fwd.getD 0) false
  | .rdNc, .home => s.liftForwarded l entry t
  | .acquire, .access id _ => s.atomTake hub l key id (ownEntry l homeAgent) (t.fwd.getD 0)
  | _, .host h tag =>
    if t.deadReq then gone.losePoison hub l h.toNat
    else (s.setWay key (ownEntry l (h.setWidth 11))).txReply t h tag .cmp .m none
  | _, _ => s

/-- A recovery round of the home's own ends (R209): the line is S with the sharers that answered, or poisoned. A coarse entry stays
coarse while anyone is left in it (R155). -/
def State.finishRecovery (s : State) (hub key l : Nat) (entry : Option DirEntry) (t : Tx) : State :=
  match t.fwd, entry with
  | some _, some e =>
    s.setWay key (t.kept.foldl (fun (e : DirEntry) h => e.addSharer h.toNat)
      ({ e with dstate := .s, owner := 0, coarse := e.coarse && !t.kept.isEmpty, sharers := 0 } : DirEntry))
  | none, some e => ({ s with dir := s.dir.erase key } : State).losePoison hub l e.owner.toNat
  | _, none => s

/-- Completes the transaction of line `l`, every snoop having been answered (R168, R178, R196, R211). -/
def State.finishTx (s : State) (hub l : Nat) (t : Tx) (m : Medium) : State :=
  let ent := s.dirFind hub l
  let key := match ent with | some (k, _) => k | none => t.wayAt.getD (wayKey hub (dirSet l) 0)
  let entry := ent.map (·.2)
  let gone : State := match ent with | some (k, _) => { s with dir := s.dir.erase k } | none => s
  match t.req.kind, t.req.from_ with
  | .wrFull, .host h tag => ((gone.writeLine l t.req.data m).txReply t h tag .cmp .i none).closeTx hub l
  | .wrFull, .access id i => ((gone.writeLine l t.req.data m).accLine id i t.req.data false).closeTx hub l
  | .merge, .access id i =>
    let (p, s) := gone.mergeStore l t.req.data t.req.mask m
    (s.accLine id i t.req.data p).closeTx hub l
  | .evict, _ | .recallAll, _ => gone.closeTx hub l
  | .recallFor _, _ | .narrow _, _ => s.closeTx hub l
  | .recover _, _ => (s.finishRecovery hub key l entry t).closeTx hub l
  | _, _ =>
    if t.poisoned then s.poisonRound hub l t
    else if t.forwarded then (s.finishForwarded hub key l entry t).closeTx hub l
    else match t.upgrade, t.req.from_ with
      | some dirty, .host h tag =>
        if t.deadReq then
          (if dirty ∧ t.wbData.isNone then gone.losePoison hub l h.toNat else gone).closeTx hub l
        else ((s.setWay key (ownEntry l (h.setWidth 11))).txReply t h tag .cmp .m none).closeTx hub l
      | _, _ =>
        match t.wbData with
        | some d => (s.serveMemory hub key l entry t d).closeTx hub l
        | none =>
          let (x, s) := s.loadLine l m
          if x.poison then s.poisonRound hub l { t with poisoned := true }
          else (s.serveMemory hub key l entry t x.data).closeTx hub l

/-! ### Opening a transaction (R168, R195–R198, R205, R209, R811, R812) -/

/-- Host `h` still answers for the line: alive, and with a map entry for its extent. -/
def State.answers (s : State) (l h : Nat) : Bool := !(s.host h).dead && (s.baseOf h (l / 2 ^ 22)).isSome

/-- The entry's owner is a host that is dead or has no map entry (R209, R811). -/
def State.ownerLost (s : State) (l : Nat) (e : DirEntry) : Bool :=
  (e.dstate == .e || e.dstate == .o) && decide (e.owner.toNat < 1024) && !s.answers l e.owner.toNat

/-- The entry names no dead host in an exact slot (R209). -/
def State.clearDead (s : State) (e : DirEntry) : DirEntry := e.clearSlots (fun h => (s.host h).dead)

/-- Sends the snoops of a round and records the transaction; without any snoop the transaction goes on at once. -/
def State.sendRound (s : State) (hub l : Nat) (t : Tx) (owner : Option (Nat × CohOp × SnpMode)) (op : CohOp) (mode : SnpMode)
    (others : List Nat) : Tx × State :=
  let req := match t.req.kind with | .recover d => d.setWidth 11 | _ => t.req.from_.agent
  let tag := t.req.from_.tag
  let (o, s) := match owner with
    | some (h, op, mode) =>
      let (x, s) := s.snoop hub l h op mode req tag true
      (([x] : List Snoop), s)
    | none => ([], s)
  let (xs, s) := s.snoopAll hub l op mode req tag others
  let inval (x : Snoop) : Bool := x.op == .snpX || x.op == .recall
  let t : Tx := { t with
    snoops := o ++ xs,
    dropped := ((o ++ xs).filter inval).map (fun x => x.host.toNat) ++ t.dropped,
    fwdFrom := match o, t.req.from_ with
      | x :: _, .access _ _ | x :: _, .home => if x.mode = .fwd ∨ x.mode = .nc then some (x.host, x.htag) else none
      | _, _ => none }
  (t, s.setTx l (some t))

/-- The requester is the recorded owner, so that its own write-back or eviction is on its way (R205). -/
def waitsForOwn (r : LineReq) (e : DirEntry) : Bool :=
  match r.from_ with
  | .host h _ => (e.dstate == .e || e.dstate == .o) && e.owner == h.setWidth 11
  | _ => false

/-- Host `h` has an entry for the extent of line `l` that is not in withdrawal. -/
def State.mapsLive (s : State) (l h : Nat) : Bool :=
  match s.entryFor h (l / 2 ^ 22) with
  | some m => m.mark != .draining
  | none => false

/-- Refuses for lack of a way and keeps the set's retry record (R197, R198); a host in withdrawal from the line's extent is not recorded
(R199, R216). -/
def State.refuseWay (s : State) (hub l : Nat) (h : BitVec 10) (tag : BitVec 12) : State :=
  let key := hub * 2 ^ 19 + dirSet l
  let s := s.bump hub 4 0x80 0 1
  let new : RetryRec := { agent := h.setWidth 11, line := BitVec.ofNat 40 l, expiry := (s.clk.poolTime.toNat + 100000) % 2 ^ 64 }
  match s.retry.get? key with
  | none =>
    ((if s.mapsLive l h.toNat then { s with retry := s.retry.set key new } else s : State).nackRetry h tag 4 false).setTx l none
  | some r =>
    if r.agent = h.setWidth 11 ∧ r.line.toNat = l then
      (({ s with retry := s.retry.set key new } : State).nackRetry h tag 1 false).setTx l none
    else (s.nackRetry h tag 4 false).setTx l none

/-- The agent and line are the recorded retrier's. -/
def State.isRetrier (s : State) (hub l : Nat) (a : BitVec 11) : Bool :=
  match s.retry.get? (hub * 2 ^ 19 + dirSet l) with
  | some r => r.agent == a && r.line.toNat == l
  | none => false

/-- Clears the record when the agent and line are the retrier's (R199). -/
def State.dropRetry (s : State) (hub l : Nat) (a : BitVec 11) : State :=
  if s.isRetrier hub l a then { s with retry := s.retry.erase (hub * 2 ^ 19 + dirSet l) } else s

/-- Starts a recovery round for a lost owner in O within the open transaction (R209). -/
def State.recoverWithin (s : State) (hub l : Nat) (t : Tx) (dead : Nat) (live : List Nat) : State :=
  let (xs, s) := s.snoopAll hub l .snpS .wb (BitVec.ofNat 11 dead) t.req.from_.tag live
  s.setTx l (some { t with recovering := true, snoops := xs, fwd := none, kept := [] })

/-- Opens the recall of a victim line (R196): the data of a lost owner is recovered or poisoned first (R209), its holders get `Recall`,
and without any the way is free at once. -/
def State.openEvict (s : State) (hub v : Nat) (m : Medium) : State :=
  let s := (s.bump hub 4 0x83 0 1).atomRelease v
  match s.dirFind hub v with
  | none => s
  | some (k, e) =>
    let t : Tx := { req := { kind := .evict, from_ := .home }, openedAt := s.clk.now, wayAt := some k }
    let s := s.setTx v (some t)
    let others := s.sharersOf e v homeAgent
    if s.ownerLost v e ∧ e.dstate = .o ∧ ¬others.isEmpty then s.recoverWithin hub v t e.owner.toNat others
    else
      let s := if s.ownerLost v e then s.losePoison hub v e.owner.toNat else s
      let owner := if (e.dstate = .e ∨ e.dstate = .o) ∧ ¬s.ownerLost v e then some (e.owner.toNat, CohOp.recall, SnpMode.wb)
                   else none
      let (t, s) := s.sendRound hub v t owner .recall .wb others
      if t.snoops.isEmpty then s.finishTx hub v t m else s

/-- The hub has a tracker free (R186). -/
def State.trackerFree (s : State) (hub : Nat) : Bool := decide (s.openCount hub < 8192)

/-- Gives the transaction of line `l` a way (R195–R198, R812); a way that is free serves it at once. An eviction is a transaction of its
own, for which a tracker is awaited (DEDUCED from R186 and R194, notes/assumptions/56.md). -/
def State.takeWay (s : State) (hub l : Nat) (t : Tx) (m : Medium) : State :=
  match s.findWay hub l (s.isRetrier hub l t.req.from_.agent) with
  | .free w =>
    let t : Tx := { t with wayAt := some (wayKey hub (dirSet l) w), wait := .none }
    ((s.dropRetry hub l t.req.from_.agent).setTx l (some t)).finishTx hub l t m
  | .evict w v =>
    if ¬s.trackerFree hub then s.setTx l (some { t with wait := .anyWay })
    else
    let t : Tx := { t with wayAt := some (wayKey hub (dirSet l) w), wait := .way v }
    let s := ((s.dropRetry hub l t.req.from_.agent).setTx l (some t)).openEvict hub v m
    if (s.tx v).isNone then
      (s.setTx l (some { t with wait := .none })).finishTx hub l { t with wait := .none } m
    else s
  | .pinned =>
    match t.req.from_ with
    | .host h tag => s.refuseWay hub l h tag
    | _ => s.setTx l (some { t with wait := .anyWay })

/-- Sends the snoops of one round, or completes the transaction when there is none to send (R168). -/
def State.snoopOrFinish (s : State) (hub l : Nat) (t : Tx) (m : Medium) (owner : Option (Nat × CohOp × SnpMode)) (op : CohOp)
    (mode : SnpMode) (others : List Nat) : State :=
  match s.sendRound hub l t owner op mode others with
  | (t, s) => if t.snoops.isEmpty then s.finishTx hub l t m else s

/-- A request for a copy, dispatched over a record whose owner, if any, is live (R168, R205). -/
def State.dispatchCopy (s : State) (hub l : Nat) (t : Tx) (m : Medium) (e : DirEntry) (owns : Bool) : State :=
  if ¬owns ∧ (s.lmeta (s.storage (64 * l) / 64)).poison then s.poisonRound hub l { t with poisoned := true }
  else
    let r := t.req.from_.agent
    let x := e.owner.toNat
    let own (op : CohOp) (mode : SnpMode) : Option (Nat × CohOp × SnpMode) := if owns then some (x, op, mode) else none
    match t.req.kind with
    | .upg _ =>
      if owns ∧ e.owner = r then
        s.snoopOrFinish hub l { t with upgrade := some true } m none .snpX .drop (s.sharersOf e l r)
      else if e.dstate ≠ .e ∧ e.possible r.toNat then
        s.snoopOrFinish hub l { t with upgrade := some owns } m (own .snpX .drop) .snpX .drop (s.sharersOf e l r)
      else s.snoopOrFinish hub l t m (own .snpX .fwd) .snpX .drop (s.sharersOf e l r)
    | .rdS =>
      if waitsForOwn t.req e then s.setTx l (some { t with wait := .owner })
      else if owns then s.snoopOrFinish hub l t m (own .snpS .fwd) .snpS .fwd []
      else s.finishTx hub l t m
    | .rdNc =>
      if waitsForOwn t.req e then s.setTx l (some { t with wait := .owner })
      else if owns then s.snoopOrFinish hub l t m (own .snpS .nc) .snpS .nc []
      else s.finishTx hub l t m
    | _ =>
      if waitsForOwn t.req e then s.setTx l (some { t with wait := .owner })
      else s.snoopOrFinish hub l t m (own .snpX .fwd) .snpX .drop (s.sharersOf e l r)

/-- A transaction dispatched over a record whose owner, if any, is live (R168, R178, R196). -/
def State.dispatchLive (s : State) (hub l : Nat) (t : Tx) (m : Medium) (e : DirEntry) : State :=
  let owns := e.dstate == .e || e.dstate == .o
  let x := e.owner.toNat
  let own (op : CohOp) (mode : SnpMode) : Option (Nat × CohOp × SnpMode) := if owns then some (x, op, mode) else none
  match t.req.kind with
  | .wrFull => s.snoopOrFinish hub l t m (own .snpX .drop) .snpX .drop (s.sharersOf e l homeAgent)
  | .merge => s.snoopOrFinish hub l t m (own .snpX .wb) .snpX .drop (s.sharersOf e l homeAgent)
  | .evict | .recallAll => s.snoopOrFinish hub l t m (own .recall .wb) .recall .wb (s.sharersOf e l homeAgent)
  | .recallFor h =>
    if owns ∧ x = h.toNat then s.snoopOrFinish hub l t m (own .recall .wb) .recall .wb []
    else if (s.sharersOf e l homeAgent).contains h.toNat then s.snoopOrFinish hub l t m none .recall .wb [h.toNat]
    else s.finishTx hub l t m
  | .narrow h =>
    if owns ∧ x = h.toNat then s.snoopOrFinish hub l t m (own .snpS .wb) .snpS .wb [] else s.finishTx hub l t m
  | .recover _ => s.finishTx hub l t m
  | .rdS | .rdX _ | .upg _ | .rdNc | .acquire => s.dispatchCopy hub l t m e owns

/-- A transaction over a record whose owner is gone: recovery from a live sharer, else the poison (R209–R212). -/
def State.dispatchLost (s : State) (hub l : Nat) (t : Tx) (m : Medium) (k : Nat) (e : DirEntry) : State :=
  let x := e.owner.toNat
  let live := (s.sharersOf e l homeAgent).filter (fun h => !t.dropped.contains h)
  if e.dstate = .o ∧ ¬live.isEmpty then s.recoverWithin hub l t x live
  else
    let s := ({ s with dir := s.dir.erase k } : State).losePoison hub l x
    match t.req.kind with
    | .rdS | .rdX _ | .upg _ | .rdNc | .acquire => s.poisonRound hub l t
    | _ => s.finishTx hub l t m

/-- Serves the open transaction `t` of line `l` from the directory as it stands (R168, R178, R196, R205); a request that needs a way takes it
before memory is read (notes/assumptions/88.md). -/
def State.dispatchTx (s : State) (hub l : Nat) (t : Tx) (m : Medium) : State :=
  match s.dirFind hub l with
  | none =>
    match t.req.kind with
    | .rdS | .rdX _ | .upg _ | .acquire =>
      if t.wayAt.isSome then s.finishTx hub l t m else s.takeWay hub l t m
    | _ => s.finishTx hub l t m
  | some (k, e0) =>
    let e := s.clearDead e0
    let s := if e = e0 then s else s.setWay k e
    let t : Tx := { t with wayAt := some k }
    if s.ownerLost l e then s.dispatchLost hub l t m k e else s.dispatchLive hub l t m e

/-- A request of class tracking 0 or 1 is served from memory with no record (R176, R188). -/
def State.serveUntracked (s : State) (l : Nat) (r : LineReq) (m : Medium) : State :=
  match r.kind, r.from_ with
  | .wrFull, .host h tag => (s.writeLine l r.data m).reply h tag .cmp .i .ok none
  | .wrFull, .access id i => (s.writeLine l r.data m).accLine id i r.data false
  | .merge, .access id i =>
    let (p, s) := s.mergeStore l r.data r.mask m
    s.accLine id i r.data p
  | .rdS, .host h tag =>
    let (x, s) := s.loadLine l m
    if x.poison then s.tellPoison l r false else s.reply h tag .data .s .ok (some x.data)
  | .rdNc, .host h tag =>
    let (x, s) := s.loadLine l m
    if x.poison then s.tellPoison l r false else s.reply h tag .data .i .ok (some x.data)
  | .rdNc, .access id i =>
    let (x, s) := s.loadLine l m
    s.accLine id i x.data x.poison
  | .rdNc, .home =>
    let (x, s) := s.loadLine l m
    s.liftTake l (if x.poison then none else some x.data)
  | _, _ => s

/-- The tracking value of the extent of DPA line `l`. -/
def State.lineTrack (s : State) (l : Nat) : Nat := s.track (s.classOf (l / 2 ^ 22))

/-- The set's retry record falls away when its retrier's request finds the line's entry already present (R199;
notes/assumptions/89.md). -/
def State.clearRetry (s : State) (hub l : Nat) (a : BitVec 11) : State :=
  if (s.dirFind hub l).isSome then s.dropRetry hub l a else s

/-- Opens the head of the order of line `l` (R184): the home atomic unit's copy is used or released first (R181), and the
request is served by the class's tracking value as it was when ingress took the request (R74). -/
def State.openHead (s : State) (l : Nat) (m : Medium) : State :=
  let o := s.order l
  match o.tx, o.queue with
  | none, r :: rest =>
    let hub := o.hub.toNat
    let s := s.setOrder l { o with queue := rest }
    if r.track ≠ 2 then s.serveUntracked l r m
    else match (s.atom.get? l).isSome, r.kind, r.from_ with
      | true, .acquire, .access id _ => s.atomPerform l id
      | held, _, _ =>
        let s := if held then s.atomRelease l else s
        let s := s.clearRetry hub l r.from_.agent
        let t : Tx := { req := r, openedAt := s.clk.now }
        (s.setTx l (some t)).dispatchTx hub l t m
  | _, _ => s

/-! ### Going on after an answer -/

/-- The transaction of line `l` goes on once its snoops are answered (R168, R209, R810). -/
def State.advanceTx (s : State) (hub l : Nat) (m : Medium) : State :=
  match s.tx l with
  | none => s
  | some t =>
    if ¬t.snoops.isEmpty ∨ t.wait ≠ .none then s
    else if t.recovering then
      match s.dirFind hub l with
      | none => s.finishTx hub l { t with recovering := false } m
      | some (k, e) =>
        let s := s.finishRecovery hub k l (some e) t
        let t' : Tx := { t with recovering := false, fwd := none, kept := [] }
        let s := s.setTx l (some t')
        if t.fwd.isSome then s.dispatchTx hub l t' m
        else match t.req.kind with
          | .rdS | .rdX _ | .upg _ | .rdNc | .acquire => s.poisonRound hub l t'
          | _ => s.finishTx hub l t' m
    else
      let awaits := t.forwarded && t.fwdFrom.isSome && t.fwd.isNone && !t.poisoned
      if awaits then s else s.finishTx hub l t m

/-- A line whose transaction can go on because a way has become free (R196, R812). -/
def State.readyLine (s : State) : Option (Nat × Nat × Tx) :=
  s.lines.findSome? (fun e => match e.2.tx with
    | some t => match t.wait with
      | .way v =>
        (match s.tx v with
         | none => some (e.1, e.2.hub.toNat, t)
         | some _ => none)
      | .anyWay =>
        (match s.findWay e.2.hub.toNat e.1 (s.isRetrier e.2.hub.toNat e.1 t.req.from_.agent) with
         | .pinned => none
         | .free _ => some (e.1, e.2.hub.toNat, t)
         | .evict _ _ => if s.trackerFree e.2.hub.toNat then some (e.1, e.2.hub.toNat, t) else none)
      | _ => none
    | none => none)

/-- Serves every transaction that a freed way lets go on, at most `n` steps. -/
def State.settle (m : Medium) : Nat → State → State
  | 0, s => s
  | n + 1, s =>
    match s.readyLine with
    | none => s
    | some (l, hub, t) =>
      match t.wait with
      | .way _ =>
        let t' : Tx := { t with wait := .none }
        State.settle m n ((s.setTx l (some t')).finishTx hub l t' m)
      | _ => State.settle m n (s.takeWay hub l t m)

/-- As `settle`, with steps enough for every line in order. -/
def State.settled (s : State) (m : Medium) : State := State.settle m (2 * s.lines.length + 2) s

end Sys2Proof.Machine
end

