-- ==== Sys2Proof/Machine/AccOps.lean ====
section
/-! DEFINITION. AccOps.lean: accesses of several lines (bulk packets, queue commands, engines): their pieces, their admission and
their completions (R128–R133, R179, R264, R320). -/
namespace Sys2Proof.Machine
open Sys2Proof

/-! ### Lines and pieces -/

/-- One line of a transfer as asked for: pool line number, first byte within the line, bytes, offset in the transfer. -/
structure LineAsk where
  line : Nat
  first : Nat
  count : Nat
  offset : Nat
deriving DecidableEq, Repr

/-- The lines that `bytes` bytes from byte address `addr` touch, in ascending order. -/
def asksOf (addr bytes : Nat) : List LineAsk :=
  if bytes = 0 then []
  else (List.range ((addr + bytes - 1) / 64 + 1 - addr / 64)).map (fun i =>
    let l := addr / 64 + i
    let lo := max addr (64 * l)
    let hi := min (addr + bytes) (64 * l + 64)
    { line := l, first := lo - 64 * l, count := hi - lo, offset := lo - addr })

/-- The mask of bytes `first` to `first + count - 1` of a line. -/
def maskOf (first count : Nat) : BitVec 64 := BitVec.ofNat 64 ((2 ^ count - 1) * 2 ^ first)

/-- A line's bytes of a write, in their places. -/
def placed (a : LineAsk) (data : List Byte) : Line :=
  BitVec.ofNat 512 (leNat ((data.drop a.offset).take a.count) * 2 ^ (8 * a.first))

/-- The order of line `l` has room for one more request (R184). -/
def State.roomFor (s : State) (l : Nat) : Bool :=
  let o := s.order l
  decide (o.queue.length < (if o.tx.isSome then 16 else 17))

/-- Nothing is open or queued on line `l`, so that a request for it can open at once. -/
def State.idleLine (s : State) (l : Nat) : Bool := (s.order l).tx.isNone && (s.order l).queue.isEmpty

/-- What requests for these lines ask of their home: queue positions, for lines that are not idle, and places in all. -/
def State.places (s : State) (ls : List Nat) : Nat × Nat := (ls.countP (fun l => !s.idleLine l), ls.length)

/-- The hub's home has those places: a queue position for each request that must wait, and for every other a position or a tracker
(R186). -/
def State.hubRoom (s : State) (hub : Nat) (p : Nat × Nat) : Bool :=
  decide (s.queuedCount hub + p.1 ≤ 32768 ∧ s.openCount hub + s.queuedCount hub + p.2 ≤ 40960)

/-- A request for line `l` finds room in the line's order and at its home (R184, R186). -/
def State.lineRoom (s : State) (l : Nat) : Bool := s.roomFor l && s.hubRoom (s.homeHub l) (s.places [l])

/-- The hub's home takes no requests: it is in a partial reset (R797). -/
def State.hubResetting (s : State) (n : Nat) : Bool := decide ((s.hub n).phase ≠ .none)

/-- A line of an access with the status ingress gave it. -/
structure AskedLine where
  ask : LineAsk
  status : PStatus
  dpaLine : Nat
  hub : Nat
  /-- The tracking value of the line's class (R74). -/
  track : Nat
  /-- The host whose map was looked at. -/
  host : Option Nat := none
deriving DecidableEq, Repr

/-- Checks one line of a host's request at ingress (R111, R119, R130, R135, R615). A line that the host maps keeps its hub whatever its
status; `hub` 8 stands for no hub, under an unmapped pool base. -/
def State.askHost (s : State) (host : Nat) (need : Need) (a : LineAsk) : AskedLine :=
  let (st, dpa, _) := s.ingress host (64 * a.line) need (fun _ => true)
  { ask := a, status := st, dpaLine := dpa / 64,
    hub := if ((s.mapOf host).get? (64 * a.line / 2 ^ 28)).isSome then s.homeHub (dpa / 64) else 8,
    track := s.lineTrack (dpa / 64), host := some host }

/-- A line of the part's own access at a DPA (R179). -/
def State.askDpa (s : State) (a : LineAsk) : AskedLine :=
  { ask := a, status := .ok, dpaLine := a.line, hub := s.homeHub a.line, track := s.lineTrack a.line }

/-- The worse of two statuses (R131). -/
def worse (a b : PStatus) : PStatus := if a.ctorIdx < b.ctorIdx then b else a

/-- The key of a line's piece: its extent, which lies under one pool base, and the hub that stores it (R128). Bytes under an unmapped pool
base make one piece for each base (DESIGN CHOICE, notes/assumptions/58.md). -/
def AskedLine.key (a : AskedLine) : Nat × Nat := (a.ask.line / 2 ^ 22, a.hub)

/-- The pieces' keys in order of their lowest address (R128). -/
def pieceKeys : List AskedLine → List (Nat × Nat) → List (Nat × Nat)
  | [], ks => ks.reverse
  | a :: r, ks => pieceKeys r (if ks.contains a.key then ks else a.key :: ks)

/-- The status that ingress gives a piece: Unmapped when it touches a retired page (R615), otherwise the most severe of its lines'
(R132). -/
def askedStatus (ls : List AskedLine) : PStatus :=
  if ls.any (fun l => l.status == .unmapped) then .unmapped else ls.foldl (fun a l => worse a l.status) .ok

/-- The status of one piece before its lines are served: that of ingress, or a refusal for retry (R132, R184, R186, R797). `taken` are
the places that the hub has given to this request before. -/
def State.pieceStatus (s : State) (taken : Nat × Nat) (ls : List AskedLine) (st : PStatus) : PStatus :=
  match st with
  | .ok =>
    let hub := match ls with | l :: _ => l.hub | [] => 0
    if s.hubResetting hub then .retry
    else if ls.all (fun l => s.roomFor l.dpaLine) ∧ s.hubRoom hub (taken + s.places (ls.map (·.dpaLine))) then .ok
    else .retry
  | st => st

/-- The statuses of a request's pieces, in order: each hub counts what it takes of the pieces before (R132, R186). -/
def State.pieceStatuses (s : State) (asked : List AskedLine) : List (Nat × Nat) → List PStatus → SMap (Nat × Nat) → List PStatus
  | [], _, _ => []
  | k :: ks, sts, taken =>
    let ls := asked.filter (fun a => a.key == k)
    let st := s.pieceStatus (taken.getD k.2 (0, 0)) ls (sts.headD .ok)
    st :: s.pieceStatuses asked ks sts.tail
      (if st = .ok then taken.mod k.2 (0, 0) (· + s.places (ls.map (·.dpaLine))) else taken)

/-- A request takes its place in its line's order, or is served at once when its extent is untracked and nothing waits (R184, R188); its
tracking value is the one that ingress found (R74). Where every queue position is taken, a request for an idle line opens at once (R186). -/
def State.takeReq (s : State) (l : Nat) (r : LineReq) (m : Medium) : State :=
  let o := s.order l
  if r.track ≠ 2 ∧ o.tx.isNone ∧ o.queue.isEmpty then s.serveUntracked l r m
  else
    let full := decide (32768 ≤ s.queuedCount o.hub.toNat)
    let s := s.setOrder l { o with queue := o.queue ++ [r] }
    if full ∧ o.tx.isNone ∧ o.queue.isEmpty ∧ s.trackerFree o.hub.toNat then s.openHead l m else s

/-- The request of one line of an access (R179). -/
def accReq (id i : Nat) (write atomic : Bool) (x : AccLine) : LineReq :=
  { kind := if atomic then .acquire else if ¬write then .rdNc
            else if x.mask = BitVec.allOnes 64 then .wrFull else .merge,
    from_ := .access id i, track := x.track, data := x.data, mask := x.mask }

/-- Admits the lines of an access whose pieces were accepted; `media` gives the DRAM outcome of each line served at once. -/
def State.admitLines (s : State) (id : Nat) (write atomic : Bool) (pieces : List PStatus) (media : List Medium) :
    List (AccLine × Nat) → State
  | [] => s
  | (x, i) :: r =>
    let s := if pieces.getD x.piece .ok = .ok then
        s.takeReq x.line (accReq id i write atomic x) (media.getD i .clean) else s
    s.admitLines id write atomic pieces media r

/-- Admits every line of an access: first those that must queue behind others, then those whose line is idle. The order is the model's
own (R130 leaves it open; DESIGN CHOICE, notes/assumptions/13.md). -/
def State.admitAll (s : State) (id : Nat) (write atomic : Bool) (pieces : List PStatus) (media : List Medium) (ls : List AccLine) :
    State :=
  let l := ls.zipIdx
  s.admitLines id write atomic pieces media (l.filter (fun x => !s.idleLine x.1.line) ++ l.filter (fun x => s.idleLine x.1.line))

/-- The access that the lines asked for make, with the statuses that ingress gives its pieces (R128–R130). -/
def formAccess (owner : AccOwner) (write : Bool) (asked : List AskedLine) (data : List Byte) (atop : BitVec 8)
    (operand compare : BitVec 128) : Access :=
  let keys := pieceKeys asked []
  let pieces := keys.map (fun k => if 64 < keys.length then PStatus.illegal else askedStatus (asked.filter (fun a => a.key == k)))
  { owner := owner, write := write, host := asked.head?.bind (·.host), pieces := pieces, atop := atop, operand := operand, compare := compare,
    byteOff := match asked with | a :: _ => a.ask.first | [] => 0,
    lines := asked.map (fun a =>
      { piece := keys.findIdx (· == a.key), line := a.dpaLine, pool := a.ask.line, hub := a.hub, track := a.track, offset := a.ask.offset, mask := maskOf a.ask.first a.ask.count,
        data := if write then placed a.ask data else 0 }) }

/-- An access comes to its homes: each piece that ingress accepted is admitted whole or refused for retry (R132), and the access is
recorded. -/
def State.admitAccess (s : State) (id : Nat) (a : Access) (atomic : Bool) (asked : List AskedLine) (media : List Medium) : State :=
  let pieces := s.pieceStatuses asked (pieceKeys asked []) a.pieces []
  let refused := pieces.countP (fun p => p == .retry)
  let hub := match asked with | x :: _ => x.hub | [] => 0
  let lines := a.lines.map (fun l => { l with done := decide (pieces.getD l.piece .ok ≠ .ok) })
  let a : Access := { a with
    pieces := pieces, lines := lines, fetching := false,
    load3 := asked.any (fun x => a.pieces.getD ((pieceKeys asked []).findIdx (· == x.key)) .ok == .ok && s.hubResetting x.hub) }
  let s := if refused = 0 then s else s.bump hub 4 0x80 0 refused
  ({ s with accesses := s.accesses.set id a } : State).admitAll id a.write atomic pieces media lines

/-- Starts an access over lines already checked. -/
def State.startLines (s : State) (owner : AccOwner) (write atomic : Bool) (asked : List AskedLine) (data : List Byte)
    (atop : BitVec 8) (operand compare : BitVec 128) (media : List Medium) : State :=
  ({ s with nextAccess := s.nextAccess + 1 } : State).admitAccess s.nextAccess (formAccess owner write asked data atop operand compare)
    atomic asked media

/-- Starts a host's access to `bytes` bytes of its pool addresses from `addr`. -/
def State.startHost (s : State) (owner : AccOwner) (host addr bytes : Nat) (write : Bool) (data : List Byte)
    (media : List Medium) : State :=
  s.startLines owner write false ((asksOf addr bytes).map (s.askHost host (if write then .write else .read))) data 0 0 0 media

/-! ### Completion -/

/-- The final status of each piece (R132). -/
def Access.statuses (a : Access) : List PStatus :=
  a.pieces.zipIdx.map (fun e =>
    if e.1 ≠ .ok then e.1
    else if a.lines.any (fun l => l.piece == e.2 && l.poison) then .poison else .ok)

/-- The status vector of R133. -/
def statusVec (l : List PStatus) : BitVec 256 :=
  BitVec.ofNat 256 ((l.take 64).zipIdx.foldl (fun a e => a + e.1.ctorIdx * 16 ^ e.2) 0)

/-- The most severe status. -/
def worstOf (l : List PStatus) : PStatus := l.foldl worse .ok

/-- The status of a piece delivers bytes (R264). -/
def delivers (p : PStatus) : Bool := p == .ok || p == .poison

/-- The bytes of a read transfer with the pieces' statuses: a byte is there when its piece delivers; poisoned lines read
as zeros (R264, R320). -/
def Access.bytesRead (a : Access) : List (Nat × Option Byte) :=
  let st := a.statuses
  a.lines.flatMap (fun l =>
    let bs := (List.range 64).filter (fun b => l.mask.getLsbD b)
    bs.zipIdx.map (fun e => (l.offset + e.2,
      if delivers (st.getD l.piece .ok) then some (if l.poison then 0 else lineByte l.data e.1) else none)))

/-- Builds the bulk payload (R263). -/
def bulkPayload (bop : Nat) (tag : BitVec 12) (addr bytes boff : Nat) (rsb : Byte) (st : PStatus) : BitVec 160 :=
  BitVec.ofNat 160 (bop + tag.toNat * 2 ^ 8 + addr * 2 ^ 24 + bytes * 2 ^ 80 + boff * 2 ^ 96 + rsb.toNat * 2 ^ 112
    + st.ctorIdx * 2 ^ 120)

/-- Sends a bulk completion (R264). -/
def State.bulkDone (s : State) (h : BitVec 10) (tag : BitVec 12) (addr bytes : Nat) (st : PStatus) (vec : BitVec 256)
    (red : Bool) : State :=
  if (s.host h.toNat).dead ∨ s.sys.portsStopped then s
  else
    let b := if red then s.rsbRed (some h.toNat) else s.rsb (some h.toNat)
    (s.emit (.bulkDone h tag st b vec)).sendPkt h.toNat 2 2 (bulkPayload 4 tag addr bytes 0 b st) [vec]

/-- Sends the read-data packets of a bulk read: each 256-byte packet that holds a delivered byte, in ascending `BOFF`
(R264). -/
def State.bulkData (s : State) (h : BitVec 10) (tag : BitVec 12) (addr bytes : Nat) (st : PStatus)
    (bs : List (Nat × Option Byte)) : List Nat → State
  | [] => s
  | i :: r =>
    let here := (bs.drop (256 * i)).take 256
    let s := if here.any (fun e => e.2.isSome) ∧ ¬(s.host h.toNat).dead ∧ ¬s.sys.portsStopped then
        let d := here.map (fun e => e.2.getD 0)
        let b := s.rsb (some h.toNat)
        (s.emit (.bulkData h tag (BitVec.ofNat 16 (256 * i)) st b d)).sendPkt h.toNat 2 2
          (bulkPayload 3 tag addr bytes (256 * i) b st) (bytesCells ((d.length + 31) / 32) d)
      else s
    s.bulkData h tag addr bytes st bs r

/-- The runs of delivered bytes of a read transfer: offset and bytes. -/
def runsOf : List (Nat × Option Byte) → List (Nat × List Byte) → List (Nat × List Byte)
  | [], acc => (acc.map (fun e => (e.1, e.2.reverse))).reverse
  | (_, none) :: r, acc => runsOf r acc
  | (o, some b) :: r, (o', bs) :: acc =>
    if o = o' + bs.length then runsOf r ((o', b :: bs) :: acc) else runsOf r ((o, [b]) :: (o', bs) :: acc)
  | (o, some b) :: r, [] => runsOf r [(o, [b])]

/-- Writes a queue read's data into the host buffer: plain runs, or whole records of 4,096 bytes in sealed mode (R320,
R322, R323). -/
def State.writeRecords (s : State) (q : Nat) (va : BitVec 64) (rkey : BitVec 32) (addr : Nat) (id : Nat) (d : List Byte) :
    List Nat → State
  | [] => s
  | i :: r =>
    let part := (d.drop (4096 * i)).take 4096
    let (x, s) := s.sealRecord q 3 (some (addr + 4096 * i)) part
    (s.roceSend q (.write (va + BitVec.ofNat 64 ((4096 + 28) * i)) rkey x) (some id)).writeRecords q va rkey addr id d r

/-- The data of a queue `READ` goes to its host buffer. -/
def State.readToHost (s : State) (q id : Nat) (e : SubEntry) (bs : List (Nat × Option Byte)) : State :=
  if s.ethCrypt then
    let d := bs.map (fun x => x.2.getD 0)
    s.writeRecords q e.hostAddr e.rkey e.poolAddr.toNat id d (List.range ((d.length + 4095) / 4096))
  else
    (runsOf bs []).foldl (fun s x =>
      s.roceSend q (.write (e.hostAddr + BitVec.ofNat 64 x.1) e.rkey x.2) (some id)) s

/-- The entry of a command in flight. -/
def State.inRing (s : State) (q id : Nat) : Option RingSlot := (s.queue q).ring.find? (fun r => r.id == id)

/-- Bytes moved by a finished access: those of pieces performed. -/
def Access.moved (a : Access) : Nat :=
  let st := a.statuses
  a.lines.foldl (fun n l => if delivers (st.getD l.piece .ok) then
    n + (List.range 64).countP (fun b => l.mask.getLsbD b) else n) 0

/-- Counts the bytes of a queue's command (R765). -/
def State.countMoved (s : State) (q n : Nat) : State :=
  (s.bump (q / 2048) 0x0B 0x89 (q % 2048) n).bump (q / 2048) 0x0B 0x8A (q % 2048) n

/-- Completes a finished access toward whoever asked for it; a host declared dead since gets nothing (R211). An engine's access stays for
its engine. -/
def State.accFinish (s : State) (id : Nat) (a : Access) : State :=
  let st := a.statuses
  let w := worstOf st
  let drop : State := { s with accesses := s.accesses.erase id }
  if a.dead then drop
  else match a.owner with
  | .bulkRead h tag addr bytes =>
    (drop.bulkData h tag addr bytes w a.bytesRead (List.range ((bytes + 255) / 256))).bulkDone h tag addr bytes w
      (statusVec st) a.load3
  | .bulkWrite h tag addr bytes => drop.bulkDone h tag addr bytes w (statusVec st) a.load3
  | .queRead q cmd =>
    match drop.inRing q cmd with
    | some r =>
      (((drop.readToHost q id r.entry a.bytesRead).countMoved q a.moved).completeCmd q cmd w 0 (statusVec st))
    | none => drop
  | .queWrite q cmd => (drop.countMoved q a.moved).completeCmd q cmd w 0 (statusVec st)
  | .queAtomic q cmd =>
    drop.completeCmd q cmd w (if w = .ok then a.result else 0) (BitVec.ofNat 256 w.ctorIdx)
  | .engine _ _ => s

/-- The access has no line left to serve. -/
def Access.complete (a : Access) : Bool := !a.fetching && a.lines.all (·.done)

/-- A queue `WRITE` is checked at its issue, line by line; its lines are admitted once its data has come (R130, R320, R354). -/
def State.startFetch (s : State) (q cmd host addr bytes : Nat) : State :=
  let a := formAccess (.queWrite q cmd) true ((asksOf addr bytes).map (s.askHost host .write)) [] 0 0 0
  { s with accesses := s.accesses.set s.nextAccess { a with fetching := true }, nextAccess := s.nextAccess + 1 }

/-- The access of a queue `WRITE` whose data is being fetched. -/
def State.fetchOf (s : State) (q cmd : Nat) : Option (Nat × Access) := s.accesses.find? (fun e => e.2.fetching && e.2.owner == .queWrite q cmd)

/-- The fetch of a queue `WRITE` has failed: nothing of it is performed. -/
def State.fetchDrop (s : State) (q cmd : Nat) : State :=
  { s with accesses := s.accesses.filter (fun e => !(e.2.fetching && e.2.owner == .queWrite q cmd)) }

/-- The data of a queue `WRITE` has come: its pieces go to their homes under the status that ingress gave them at issue. -/
def State.fetchedWrite (s : State) (q cmd addr : Nat) (data : List Byte) (media : List Medium) : State :=
  match s.fetchOf q cmd with
  | none => s
  | some (id, a) =>
    let asks := asksOf addr data.length
    let asked : List AskedLine := (asks.zip a.lines).map (fun x =>
      { ask := x.1, status := a.pieces.getD x.2.piece .ok, dpaLine := x.2.line, hub := x.2.hub, track := x.2.track, host := a.host })
    let lines := (asks.zip a.lines).map (fun x => { x.2 with data := placed x.1 data })
    s.admitAccess id { a with lines := lines } false asked media

/-- Completes every access that has finished. -/
def State.accFlush (s : State) : State :=
  s.accesses.foldl (fun s e =>
    match s.accesses.get? e.1 with
    | some a => if a.complete then s.accFinish e.1 a else s
    | none => s) s

end Sys2Proof.Machine
end

