-- ==== Sys2Proof/Machine/Arith.lean ====
section
/-! DEFINITION. Arith.lean: the arithmetic of the clusters to the bit (chapter "Compute Clusters and Their Arithmetic"):
binary32, the functions, the reductions, top-k, stochastic rounding, the MX formats and segment accumulation. -/
namespace Sys2Proof.Machine
open Sys2Proof

/-! ### Exact values and rounding -/

/-- What a code of a floating-point or MX format stands for: a finite value is `m` × 2^`e` with its sign. -/
inductive Fv where
  | nan
  | inf (neg : Bool)
  | fin (neg : Bool) (m : Nat) (e : Int)
deriving DecidableEq, Repr

/-- How a value is rounded: to nearest even, or stochastically with the generator's value (R401). -/
inductive Rnd where
  | nearest
  | stochastic (r : Nat)
deriving DecidableEq, Repr

/-- Rounds the magnitude `m` × 2^`e`, with `sticky` for a non-zero bit below the round position, to `prec` significant bits
whose last bit is never below 2^`qmin`; the exponent has no upper bound. Answers the rounded significand and the exponent of its last bit
(R391, R394, R401). -/
def roundMag (prec : Nat) (qmin : Int) (mode : Rnd) (m : Nat) (e : Int) (sticky : Bool) : Nat × Int :=
  if m = 0 then (0, qmin)
  else
    let q := max (e + (Nat.log2 m : Int) + 1 - prec) qmin
    if q ≤ e then (m * 2 ^ (e - q).toNat, q)
    else
      let sh := (q - e).toNat
      let n := m / 2 ^ sh
      let r := m % 2 ^ sh
      let up := match mode with
        | .nearest => decide (2 ^ sh < 2 * r) || (decide (2 * r = 2 ^ sh) && (sticky || decide (n % 2 = 1)))
        | .stochastic x => decide (x < r * 2 ^ 32 / 2 ^ sh)
      (if up then n + 1 else n, q)

/-- The code, without sign, of a significand of `prec` bits whose last bit has exponent `q`. -/
def packMag (prec : Nat) (qmin : Int) (x : Nat × Int) : Nat := (x.2 - qmin).toNat * 2 ^ (prec - 1) + x.1

/-- The canonical NaN (R394). -/
def f32NaN : Word := 0x7FC00000
/-- Infinity with a sign. -/
def f32Inf (neg : Bool) : Word := if neg then 0xFF800000 else 0x7F800000
/-- Zero with a sign. -/
def f32Zero (neg : Bool) : Word := if neg then 0x80000000 else 0

/-- The binary32 value of a code. -/
def f32Val (x : Word) : Fv :=
  let n := x.toNat
  let neg := decide (2 ^ 31 ≤ n)
  let ex : Nat := n / 2 ^ 23 % 256
  let fr : Nat := n % 2 ^ 23
  if ex = 255 then (if fr = 0 then .inf neg else .nan)
  else if ex = 0 then .fin neg fr (-149)
  else .fin neg (fr + 2 ^ 23) ((ex : Int) - 150)

/-- The binary32 value nearest to ±`m` × 2^`e`, ties to even; subnormals are rounded at their own position and a magnitude
beyond the largest gives infinity (R391, R394). -/
def f32Round (neg : Bool) (m : Nat) (e : Int) (sticky : Bool) : Word :=
  let c := packMag 24 (-149) (roundMag 24 (-149) .nearest m e sticky)
  if m = 0 then f32Zero neg
  else if 0x7F800000 ≤ c then f32Inf neg
  else BitVec.ofNat 32 (c + if neg then 2 ^ 31 else 0)

/-- The binary32 value nearest to a signed integer times 2^`e`; zero gives +0. -/
def f32OfInt (n : Int) (e : Int) : Word := f32Round (decide (n < 0)) n.natAbs e false

/-- A signed integer with sign `neg` and magnitude `m`. -/
def signed (neg : Bool) (m : Nat) : Int := if neg then -(m : Int) else m

/-! ### Binary32 operations (R394) -/

/-- Sum of two finite values: exact, then rounded; an exact zero sum is +0 unless both are −0. -/
def f32Sum (na : Bool) (ma : Nat) (ea : Int) (nb : Bool) (mb : Nat) (eb : Int) : Word :=
  let e := min ea eb
  let n := signed na ma * 2 ^ (ea - e).toNat + signed nb mb * 2 ^ (eb - e).toNat
  if n = 0 then f32Zero (na && nb) else f32OfInt n e

/-- FP32 addition. -/
def f32Add (a b : Word) : Word :=
  match f32Val a, f32Val b with
  | .nan, _ => f32NaN
  | _, .nan => f32NaN
  | .inf x, .inf y => if x = y then f32Inf x else f32NaN
  | .inf x, _ => f32Inf x
  | _, .inf y => f32Inf y
  | .fin na ma ea, .fin nb mb eb => f32Sum na ma ea nb mb eb

/-- The value with its sign changed. -/
def f32Neg (a : Word) : Word := a ^^^ 0x80000000
/-- FP32 subtraction. -/
def f32Sub (a b : Word) : Word := f32Add a (f32Neg b)

/-- FP32 multiplication. -/
def f32Mul (a b : Word) : Word :=
  match f32Val a, f32Val b with
  | .nan, _ => f32NaN
  | _, .nan => f32NaN
  | .inf x, .inf y => f32Inf (x != y)
  | .inf x, .fin n m _ => if m = 0 then f32NaN else f32Inf (x != n)
  | .fin n m _, .inf y => if m = 0 then f32NaN else f32Inf (n != y)
  | .fin na ma ea, .fin nb mb eb => f32Round (na != nb) (ma * mb) (ea + eb) false

/-- FP32 division of a value by a positive integer (the mean of R478). -/
def f32DivNat (a : Word) (n : Nat) : Word :=
  match f32Val a with
  | .nan => f32NaN
  | .inf x => f32Inf x
  | .fin neg m e => f32Round neg (m * 2 ^ 64 / n) (e - 64) (decide (m * 2 ^ 64 % n ≠ 0))

/-- Order of two values that are not NaN: −0 and +0 are equal. -/
def f32LtVal : Fv → Fv → Bool
  | .inf x, .inf y => x && !y
  | .inf x, _ => x
  | _, .inf y => !y
  | .fin na ma ea, .fin nb mb eb =>
    let e := min ea eb
    decide (signed na ma * 2 ^ (ea - e).toNat < signed nb mb * 2 ^ (eb - e).toNat)
  | _, _ => false

/-- `a < b`; false when either is NaN. -/
def f32Lt (a b : Word) : Bool :=
  match f32Val a, f32Val b with
  | .nan, _ => false
  | _, .nan => false
  | x, y => f32LtVal x y

/-- `a = b`; false when either is NaN. -/
def f32Eq (a b : Word) : Bool :=
  match f32Val a, f32Val b with
  | .nan, _ => false
  | _, .nan => false
  | x, y => !f32LtVal x y && !f32LtVal y x

/-- The code is NaN. -/
def f32IsNaN (a : Word) : Bool := decide (f32Val a = .nan)

/-- FP32 maximum: NaN with NaN, and +0 over −0. -/
def f32Max (a b : Word) : Word :=
  if f32IsNaN a || f32IsNaN b then f32NaN
  else if f32Lt a b then b else if f32Lt b a then a
  else if f32Eq a 0 then a &&& b else a

/-- FP32 minimum: NaN with NaN, and −0 under +0. -/
def f32Min (a b : Word) : Word :=
  if f32IsNaN a || f32IsNaN b then f32NaN
  else if f32Lt a b then a else if f32Lt b a then b
  else if f32Eq a 0 then a ||| b else a

/-! ### Functions (R396) -/

/-- `T2[j]` = fp(2^(*j*/64)), *j* = 0–63 (R396). -/
def tabT2 : List Nat :=
  [0x3F800000, 0x3F8164D2, 0x3F82CD87, 0x3F843A29, 0x3F85AAC3, 0x3F871F62, 0x3F88980F, 0x3F8A14D5,
   0x3F8B95C2, 0x3F8D1ADF, 0x3F8EA43A, 0x3F9031DC, 0x3F91C3D3, 0x3F935A2B, 0x3F94F4F0, 0x3F96942D,
   0x3F9837F0, 0x3F99E046, 0x3F9B8D3A, 0x3F9D3EDA, 0x3F9EF532, 0x3FA0B051, 0x3FA27043, 0x3FA43516,
   0x3FA5FED7, 0x3FA7CD94, 0x3FA9A15B, 0x3FAB7A3A, 0x3FAD583F, 0x3FAF3B79, 0x3FB123F6, 0x3FB311C4] ++
  [0x3FB504F3, 0x3FB6FD92, 0x3FB8FBAF, 0x3FBAFF5B, 0x3FBD08A4, 0x3FBF179A, 0x3FC12C4D, 0x3FC346CD,
   0x3FC5672A, 0x3FC78D75, 0x3FC9B9BE, 0x3FCBEC15, 0x3FCE248C, 0x3FD06334, 0x3FD2A81E, 0x3FD4F35B,
   0x3FD744FD, 0x3FD99D16, 0x3FDBFBB8, 0x3FDE60F5, 0x3FE0CCDF, 0x3FE33F89, 0x3FE5B907, 0x3FE8396A,
   0x3FEAC0C7, 0x3FED4F30, 0x3FEFE4BA, 0x3FF28177, 0x3FF5257D, 0x3FF7D0DF, 0x3FFA83B3, 0x3FFD3E0C]

/-- `LT[i]` = fp(ln *c*), *c* = 1 + (*i* + 0.5)/128 (R396). -/
def tabLT : List Nat :=
  [0x3B7F8055, 0x3C3EE23B, 0x3C9E7522, 0x3CDCFE01, 0x3D0D86CC, 0x3D2C52DD, 0x3D4AE418, 0x3D693B5C,
   0x3D83ACC2, 0x3D929FB1, 0x3DA176E6, 0x3DB032C5, 0x3DBED3B3, 0x3DCD5A12, 0x3DDBC641, 0x3DEA189F,
   0x3DF85186, 0x3E0338A9, 0x3E0A3C2C, 0x3E113379, 0x3E181EB9, 0x3E1EFE16, 0x3E25D1B8, 0x3E2C99C7,
   0x3E33566A, 0x3E3A07C8, 0x3E40AE05, 0x3E474947, 0x3E4DD9B1, 0x3E545F68, 0x3E5ADA8D, 0x3E614B43] ++
  [0x3E67B1AA, 0x3E6E0DE5, 0x3E746013, 0x3E7AA853, 0x3E807362, 0x3E838DC3, 0x3E86A35B, 0x3E89B438,
   0x3E8CC069, 0x3E8FC7FD, 0x3E92CB01, 0x3E95C982, 0x3E98C38E, 0x3E9BB933, 0x3E9EAA7D, 0x3EA19779,
   0x3EA48034, 0x3EA764BA, 0x3EAA4516, 0x3EAD2156, 0x3EAFF984, 0x3EB2CDAC, 0x3EB59DD9, 0x3EB86A17,
   0x3EBB3271, 0x3EBDF6F0, 0x3EC0B7A1, 0x3EC3748D, 0x3EC62DBE, 0x3EC8E33F, 0x3ECB951A, 0x3ECE4358] ++
  [0x3ED0EE03, 0x3ED39525, 0x3ED638C6, 0x3ED8D8F0, 0x3EDB75AD, 0x3EDE0F04, 0x3EE0A500, 0x3EE337A7,
   0x3EE5C704, 0x3EE8531D, 0x3EEADBFD, 0x3EED61AA, 0x3EEFE42D, 0x3EF2638D, 0x3EF4DFD3, 0x3EF75906,
   0x3EF9CF2E, 0x3EFC4252, 0x3EFEB279, 0x3F008FD6, 0x3F01C4F7, 0x3F02F8A6, 0x3F042AE4, 0x3F055BB6,
   0x3F068B1E, 0x3F07B921, 0x3F08E5C1, 0x3F0A1101, 0x3F0B3AE5, 0x3F0C6370, 0x3F0D8AA6, 0x3F0EB088] ++
  [0x3F0FD51A, 0x3F10F860, 0x3F121A5B, 0x3F133B10, 0x3F145A80, 0x3F1578B0, 0x3F1695A0, 0x3F17B155,
   0x3F18CBD0, 0x3F19E516, 0x3F1AFD27, 0x3F1C1408, 0x3F1D29BA, 0x3F1E3E40, 0x3F1F519D, 0x3F2063D2,
   0x3F2174E3, 0x3F2284D3, 0x3F2393A2, 0x3F24A154, 0x3F25ADEB, 0x3F26B96A, 0x3F27C3D2, 0x3F28CD26,
   0x3F29D568, 0x3F2ADC9B, 0x3F2BE2C0, 0x3F2CE7D9, 0x3F2DEBEA, 0x3F2EEEF3, 0x3F2FF0F7, 0x3F30F1F8]

/-- `RT[i]` = fp(1/*c*), *c* = 1 + (*i* + 0.5)/128 (R396). -/
def tabRT : List Nat :=
  [0x3F7F00FF, 0x3F7D08E5, 0x3F7B1885, 0x3F792FB2, 0x3F774E40, 0x3F757404, 0x3F73A0D5, 0x3F71D48C,
   0x3F700F01, 0x3F6E500F, 0x3F6C9791, 0x3F6AE564, 0x3F693965, 0x3F679373, 0x3F65F36D, 0x3F645933,
   0x3F62C4A7, 0x3F6135AA, 0x3F5FAC1F, 0x3F5E27EB, 0x3F5CA8F1, 0x3F5B2F17, 0x3F59BA42, 0x3F584A5A,
   0x3F56DF44, 0x3F5578E9, 0x3F541733, 0x3F52BA08, 0x3F516154, 0x3F500D01, 0x3F4EBCF9, 0x3F4D7127] ++
  [0x3F4C2978, 0x3F4AE5D8, 0x3F49A634, 0x3F486A79, 0x3F473294, 0x3F45FE74, 0x3F44CE08, 0x3F43A13E,
   0x3F427806, 0x3F415250, 0x3F40300C, 0x3F3F112B, 0x3F3DF59D, 0x3F3CDD53, 0x3F3BC841, 0x3F3AB656,
   0x3F39A786, 0x3F389BC3, 0x3F379301, 0x3F368D31, 0x3F358A48, 0x3F348A3A, 0x3F338CFA, 0x3F32927C,
   0x3F319AB6, 0x3F30A59B, 0x3F2FB322, 0x3F2EC33E, 0x3F2DD5E6, 0x3F2CEB10, 0x3F2C02B0, 0x3F2B1CBE] ++
  [0x3F2A392F, 0x3F2957FB, 0x3F287917, 0x3F279C7B, 0x3F26C21E, 0x3F25E9F7, 0x3F2513FD, 0x3F244029,
   0x3F236E72, 0x3F229ECF, 0x3F21D13A, 0x3F2105A9, 0x3F203C17, 0x3F1F747A, 0x3F1EAECD, 0x3F1DEB07,
   0x3F1D2922, 0x3F1C6917, 0x3F1BAADF, 0x3F1AEE73, 0x3F1A33CD, 0x3F197AE7, 0x3F18C3BB, 0x3F180E41,
   0x3F175A75, 0x3F16A850, 0x3F15F7CC, 0x3F1548E5, 0x3F149B93, 0x3F13EFD2, 0x3F13459C, 0x3F129CEC] ++
  [0x3F11F5BD, 0x3F115009, 0x3F10ABCC, 0x3F100901, 0x3F0F67A2, 0x3F0EC7AB, 0x3F0E2918, 0x3F0D8BE3,
   0x3F0CF009, 0x3F0C5584, 0x3F0BBC51, 0x3F0B246B, 0x3F0A8DCD, 0x3F09F874, 0x3F09645C, 0x3F08D181,
   0x3F083FDE, 0x3F07AF70, 0x3F072033, 0x3F069223, 0x3F06053C, 0x3F05797C, 0x3F04EEDD, 0x3F04655E,
   0x3F03DCF9, 0x3F0355AD, 0x3F02CF75, 0x3F024A4E, 0x3F01C636, 0x3F014328, 0x3F00C122, 0x3F004020]

/-- `RS[i]` = fp(1/√*c*), *c* = 1 + (*i* + 0.5)/64 (R396). -/
def tabRS : List Nat :=
  [0x3F7F017E, 0x3F7D0D3E, 0x3F7B2452, 0x3F79464E, 0x3F7772CB, 0x3F75A969, 0x3F73E9CB, 0x3F723399,
   0x3F708681, 0x3F6EE232, 0x3F6D4660, 0x3F6BB2C5, 0x3F6A271A, 0x3F68A31D, 0x3F672691, 0x3F65B139,
   0x3F6442DB, 0x3F62DB41, 0x3F617A36, 0x3F601F87, 0x3F5ECB04, 0x3F5D7C7F, 0x3F5C33CC, 0x3F5AF0BF,
   0x3F59B330, 0x3F587AF7, 0x3F5747EE, 0x3F5619F2, 0x3F54F0DF, 0x3F53CC93, 0x3F52ACEE, 0x3F5191D1] ++
  [0x3F507B1D, 0x3F4F68B6, 0x3F4E5A7F, 0x3F4D505E, 0x3F4C4A38, 0x3F4B47F4, 0x3F4A497A, 0x3F494EB3,
   0x3F485787, 0x3F4763E2, 0x3F4673AC, 0x3F4586D3, 0x3F449D42, 0x3F43B6E6, 0x3F42D3AD, 0x3F41F383,
   0x3F411659, 0x3F403C1C, 0x3F3F64BD, 0x3F3E902C, 0x3F3DBE58, 0x3F3CEF34, 0x3F3C22B1, 0x3F3B58C0,
   0x3F3A9154, 0x3F39CC60, 0x3F3909D6, 0x3F3849AA, 0x3F378BD0, 0x3F36D03D, 0x3F3616E4, 0x3F355FBA] ++
  [0x3F34AAB4, 0x3F33F7C9, 0x3F3346ED, 0x3F329816, 0x3F31EB3B, 0x3F314052, 0x3F309752, 0x3F2FF032,
   0x3F2F4AE9, 0x3F2EA76E, 0x3F2E05BA, 0x3F2D65C3, 0x3F2CC782, 0x3F2C2AF0, 0x3F2B9004, 0x3F2AF6B7,
   0x3F2A5F03, 0x3F29C8E0, 0x3F293446, 0x3F28A131, 0x3F280F98, 0x3F277F76, 0x3F26F0C4, 0x3F26637D,
   0x3F25D79A, 0x3F254D15, 0x3F24C3EA, 0x3F243C11, 0x3F23B587, 0x3F233045, 0x3F22AC46, 0x3F222985] ++
  [0x3F21A7FE, 0x3F2127AC, 0x3F20A889, 0x3F202A91, 0x3F1FADC0, 0x3F1F3210, 0x3F1EB77F, 0x3F1E3E06,
   0x3F1DC5A3, 0x3F1D4E52, 0x3F1CD80D, 0x3F1C62D1, 0x3F1BEE9B, 0x3F1B7B67, 0x3F1B0930, 0x3F1A97F3,
   0x3F1A27AE, 0x3F19B85B, 0x3F1949F8, 0x3F18DC82, 0x3F186FF5, 0x3F18044E, 0x3F17998A, 0x3F172FA5,
   0x3F16C69E, 0x3F165E70, 0x3F15F718, 0x3F159095, 0x3F152AE3, 0x3F14C5FF, 0x3F1461E7, 0x3F13FE97] ++
  [0x3F139C0E, 0x3F133A49, 0x3F12D945, 0x3F127900, 0x3F121978, 0x3F11BAA9, 0x3F115C92, 0x3F10FF30,
   0x3F10A281, 0x3F104684, 0x3F0FEB35, 0x3F0F9092, 0x3F0F369A, 0x3F0EDD4A, 0x3F0E84A0, 0x3F0E2C9B,
   0x3F0DD538, 0x3F0D7E75, 0x3F0D2851, 0x3F0CD2C9, 0x3F0C7DDC, 0x3F0C2988, 0x3F0BD5CB, 0x3F0B82A4,
   0x3F0B3010, 0x3F0ADE0E, 0x3F0A8C9D, 0x3F0A3BBA, 0x3F09EB64, 0x3F099B9A, 0x3F094C59, 0x3F08FDA1] ++
  [0x3F08AF6F, 0x3F0861C3, 0x3F08149B, 0x3F07C7F5, 0x3F077BD0, 0x3F07302A, 0x3F06E503, 0x3F069A58,
   0x3F065029, 0x3F060674, 0x3F05BD38, 0x3F057474, 0x3F052C25, 0x3F04E44C, 0x3F049CE7, 0x3F0455F4,
   0x3F040F72, 0x3F03C961, 0x3F0383BF, 0x3F033E8B, 0x3F02F9C3, 0x3F02B568, 0x3F027176, 0x3F022DEF,
   0x3F01EAD0, 0x3F01A818, 0x3F0165C6, 0x3F0123DA, 0x3F00E253, 0x3F00A12E, 0x3F00606D, 0x3F00200C]

/-- `L64` of R396. -/
def kL64 : Word := 0x42B8AA3B
/-- `C1` of R396. -/
def kC1 : Word := 0x3C314000
/-- `C2` of R396. -/
def kC2 : Word := 0x37485FDF
/-- `G1` of R396. -/
def kG1 : Word := 0x3F310000
/-- `G2` of R396. -/
def kG2 : Word := 0x3AE42FF0
/-- `Q2` of R396. -/
def kQ2 : Word := 0x3F000000
/-- `Q3` of R396. -/
def kQ3 : Word := 0x3E2AAAAB
/-- `Q4` of R396. -/
def kQ4 : Word := 0x3D2AAAAB
/-- `P3` of R396. -/
def kP3 : Word := 0x3EAAAAAB
/-- `K0` of R396. -/
def kK0 : Word := 0x3FCC422A
/-- `K1` of R396. -/
def kK1 : Word := 0x3D922279

/-- An entry of a table of R396. -/
def tabGet (t : List Nat) (i : Nat) : Word := BitVec.ofNat 32 (t.getD i 0)

/-- decompose(*x*) for finite positive *x*: *e*, and the significand of *f* in units of 2⁻²³. -/
def decompose (x : Word) : Int × Nat :=
  match f32Val x with
  | .fin _ m e =>
    let l := Nat.log2 m
    (e + (l : Int), m * 2 ^ (23 - l))
  | _ => (0, 2 ^ 23)

/-- scale2(*y*, *m*). -/
def scale2 (y : Word) (m : Int) : Word :=
  match f32Val y with
  | .fin n k e => f32Round n k (e + m) false
  | _ => y

/-- rint of a finite value, ties to even. -/
def rint (x : Word) : Int :=
  match f32Val x with
  | .fin n m e =>
    if 0 ≤ e then signed n (m * 2 ^ e.toNat)
    else
      let sh := (-e).toNat
      let k := m / 2 ^ sh
      let r := m % 2 ^ sh
      signed n (if 2 ^ sh < 2 * r ∨ (2 * r = 2 ^ sh ∧ k % 2 = 1) then k + 1 else k)
  | _ => 0

/-- exp (R396). -/
def f32Exp (x : Word) : Word :=
  if f32IsNaN x then f32NaN
  else if f32Lt 0x42B20000 x then f32Inf false
  else if f32Lt x 0xC2D00000 then 0
  else
    let k := rint (f32Mul x kL64)
    let j := k % 64
    let m := (k - j) / 64
    let kf := f32OfInt k 0
    let r := f32Sub (f32Sub x (f32Mul kf kC1)) (f32Mul kf kC2)
    let p := f32Add r (f32Mul (f32Mul r r) (f32Add kQ2 (f32Mul r (f32Add kQ3 (f32Mul r kQ4)))))
    let t := tabGet tabT2 j.toNat
    scale2 (f32Add t (f32Mul t p)) m

/-- log (R396). -/
def f32Log (x : Word) : Word :=
  match f32Val x with
  | .nan => f32NaN
  | .inf true => f32NaN
  | .inf false => f32Inf false
  | .fin n m _ =>
    if m = 0 then f32Inf true
    else if n then f32NaN
    else
      let (e, fm) := decompose x
      let i : Nat := (fm - 2 ^ 23) / 2 ^ 16
      let c := f32OfInt ((256 + 2 * i + 1 : Nat) : Int) (-8)
      let r := f32Mul (f32Sub (f32OfInt fm (-23)) c) (tabGet tabRT i)
      let p := f32Sub r (f32Mul (f32Mul r r) (f32Sub kQ2 (f32Mul r (f32Sub kP3 (f32Mul r 0x3E800000)))))
      let ef := f32OfInt e 0
      f32Add (f32Add (f32Mul ef kG1) (tabGet tabLT i)) (f32Add (f32Mul ef kG2) p)

/-- recip (R396). -/
def f32Recip (x : Word) : Word :=
  match f32Val x with
  | .nan => f32NaN
  | .inf n => f32Zero n
  | .fin n m _ =>
    if m = 0 then f32Inf n
    else
      let (e, fm) := decompose (if n then f32Neg x else x)
      let f := f32OfInt fm (-23)
      let next (y : Word) : Word := f32Add y (f32Mul y (f32Sub 0x3F800000 (f32Mul f y)))
      let y := scale2 (next (next (tabGet tabRT ((fm - 2 ^ 23) / 2 ^ 16)))) (-e)
      if n then f32Neg y else y

/-- rsqrt (R396). -/
def f32Rsqrt (x : Word) : Word :=
  match f32Val x with
  | .nan => f32NaN
  | .inf true => f32NaN
  | .inf false => 0
  | .fin n m _ =>
    if m = 0 then f32Inf n
    else if n then f32NaN
    else
      let (e0, fm0) := decompose x
      let (e, fm) := if e0 % 2 = 1 then (e0 - 1, 2 * fm0) else (e0, fm0)
      let h := f32Mul 0x3F000000 (f32OfInt fm (-23))
      let next (y : Word) : Word := f32Mul y (f32Sub 0x3FC00000 (f32Mul (f32Mul h y) y))
      scale2 (next (next (tabGet tabRS ((fm - 2 ^ 23) / 2 ^ 17)))) (-(e / 2))

/-- sig(*z*). -/
def f32Sig (z : Word) : Word := f32Recip (f32Add 0x3F800000 (f32Exp (f32Neg z)))

/-- The special cases of SiLU and GELU, then the algorithm. -/
def f32Gate (x arg : Word) : Word :=
  match f32Val x with
  | .nan => f32NaN
  | .inf n => if n then f32Zero true else f32Inf false
  | .fin _ _ _ => f32Mul x (f32Sig arg)

/-- SiLU (R396). -/
def f32Silu (x : Word) : Word := f32Gate x x
/-- GELU (R396). -/
def f32Gelu (x : Word) : Word := f32Gate x (f32Mul x (f32Add kK0 (f32Mul kK1 (f32Mul x x))))

/-- The FP32 value nearest to a two's-complement integer (`CVTIF`, R432). -/
def cvtIf (x : Word) : Word := f32OfInt x.toInt 0

/-- The nearest integer, saturating; NaN gives 0 (`CVTFI`, R432). -/
def cvtFi (x : Word) : Word :=
  match f32Val x with
  | .nan => 0
  | .inf n => if n then 0x80000000 else 0x7FFFFFFF
  | .fin _ _ _ =>
    let k := rint x
    if k < -(2 ^ 31) then 0x80000000 else if 2 ^ 31 ≤ k then 0x7FFFFFFF else BitVec.ofInt 32 k

/-! ### Vectors, reductions and top-k (R397, R399) -/

/-- A vector register: lane *i* in bits [32*i* + 31 : 32*i*]. -/
abbrev Vec := BitVec 8192

/-- The lanes of a vector, lane 0 first. -/
def lanes (v : Vec) : List Word := (List.range 256).map (fun i => BitVec.ofNat 32 (v.toNat / 2 ^ (32 * i)))

/-- The vector with these lanes; lanes not given are 0. -/
def ofLanes (l : List Word) : Vec := BitVec.ofNat 8192 ((l.take 256).foldr (fun w a => w.toNat + 2 ^ 32 * a) 0)

/-- Applies an operation in every lane of one vector. -/
def vmap (f : Word → Word) (a : Vec) : Vec := ofLanes ((lanes a).map f)
/-- Applies an operation in every lane of two vectors. -/
def vmap2 (f : Word → Word → Word) (a b : Vec) : Vec := ofLanes ((lanes a).zipWith f (lanes b))

/-- One level of a reduction: the first half of the lanes with the second. -/
def halve (f : Word → Word → Word) (l : List Word) : List Word :=
  (l.take (l.length / 2)).zipWith f (l.drop (l.length / 2))

/-- The reduction of one vector in eight levels (R397). -/
def reduce (f : Word → Word → Word) (v : Vec) : Word :=
  ((List.range 8).foldl (fun l _ => halve f l) (lanes v)).headD 0

/-- A vector whose lane 0 holds a scalar; the other lanes are +0. -/
def lane0 (x : Word) : Vec := x.setWidth 8192

/-- `a` comes before `b` in the order of top-k: value, then index (R399). -/
def topBefore (a b : Word × Word) : Bool :=
  if f32IsNaN a.1 then f32IsNaN b.1 && decide (a.2 < b.2)
  else if f32IsNaN b.1 then true
  else if f32Lt b.1 a.1 then true
  else if f32Lt a.1 b.1 then false
  else decide (a.2 < b.2)

/-- Inserts an entry into a list in that order. -/
def topInsert (a : Word × Word) : List (Word × Word) → List (Word × Word)
  | [] => [a]
  | b :: r => if topBefore a b then a :: b :: r else b :: topInsert a r

/-- The first `k` entries in the order of R399. -/
def topK (k : Nat) (l : List (Word × Word)) : List (Word × Word) :=
  (l.foldl (fun acc a => (topInsert a acc).take k) [])

/-! ### Stochastic rounding (R400) -/

/-- One mixing round of the generator. -/
def srRound (z : DWord) : DWord :=
  let z := (z ^^^ (z >>> 30)) * 0xBF58476D1CE4E5B9
  let z := (z ^^^ (z >>> 27)) * 0x94D049BB133111EB
  z ^^^ (z >>> 31)

/-- The generator's value for a seed, a stream and a coordinate. -/
def srGen (seed : DWord) (stream : Word) (coord : DWord) : Nat :=
  let z := seed + stream.setWidth 64 * 0x9E3779B97F4A7C15 + coord * 0xD1B54A32D192ED03
  (srRound (srRound z) >>> 32).toNat

/-! ### Formats (R384, R385, R402, R403) -/

/-- Element width in bits of a format code. -/
def fmtBits (f : Nat) : Nat := match f with | 0 => 32 | 1 => 16 | 2 => 4 | 3 => 6 | 4 => 6 | _ => 8

/-- The code names an MX format. -/
def isMx (f : Nat) : Bool := decide (2 ≤ f ∧ f ≤ 7)
/-- The code names a format. -/
def fmtOk (f : Nat) : Bool := decide (f ≤ 7)

/-- Significant bits and lowest exponent of an MX element format, and the code of its largest magnitude. -/
def mxShape (f : Nat) : Nat × Int × Nat :=
  match f with
  | 2 => (2, -1, 7)
  | 3 => (4, -3, 0x1F)
  | 4 => (3, -4, 0x1F)
  | 5 => (4, -9, 0x7E)
  | 6 => (3, -16, 0x7B)
  | _ => (8, -6, 127)

/-- *e*max of an MX format. -/
def mxEmax (f : Nat) : Int := match f with | 2 => 2 | 3 => 2 | 4 => 4 | 5 => 8 | 6 => 15 | _ => 0

/-- Decodes an element of a format with sign, exponent and fraction: significant bits and lowest exponent given. -/
def decodeMag (prec : Nat) (qmin : Int) (neg : Bool) (c : Nat) : Fv :=
  let ex := c / 2 ^ (prec - 1)
  let fr := c % 2 ^ (prec - 1)
  if ex = 0 then .fin neg fr qmin else .fin neg (fr + 2 ^ (prec - 1)) (qmin + ex - 1)

/-- The value of an element of a format (R385). -/
def elemVal (f c : Nat) : Fv :=
  match f with
  | 0 => f32Val (BitVec.ofNat 32 c)
  | 1 => f32Val (BitVec.ofNat 32 (c % 2 ^ 16 * 2 ^ 16))
  | 7 => let x := (BitVec.ofNat 8 c).toInt; .fin (decide (x < 0)) x.natAbs (-6)
  | _ =>
    let b := fmtBits f
    let neg := decide (c / 2 ^ (b - 1) % 2 = 1)
    let m := c % 2 ^ (b - 1)
    if f = 5 ∧ m = 0x7F then .nan
    else if f = 6 ∧ 0x7C ≤ m then (if m = 0x7C then .inf neg else .nan)
    else decodeMag (mxShape f).1 (mxShape f).2.1 neg m

/-- An element encodes ±0. -/
def elemZero (f c : Nat) : Bool := match elemVal f c with | .fin _ m _ => decide (m = 0) | _ => false

/-- The FP32 value of an MX element under its block scale (`VLD`, R432). -/
def mxToF32 (f c scale : Nat) : Word :=
  if scale = 0xFF then f32NaN
  else match elemVal f c with
    | .nan => f32NaN
    | .inf n => f32Inf n
    | .fin n m e => f32Round n m (e + ((scale : Int) - 127)) false

/-- The FP32 value of an element that has no block scale. -/
def plainToF32 (f c : Nat) : Word :=
  match f with
  | 0 => BitVec.ofNat 32 c
  | _ => if elemVal f c = .nan then f32NaN else BitVec.ofNat 32 (c % 2 ^ 16 * 2 ^ 16)

/-- Conversion to BF16 (R402). -/
def toBf16 (mode : Rnd) (x : Word) : Nat :=
  match f32Val x with
  | .nan => 0x7FC0
  | .inf n => 0x7F80 + (if n then 2 ^ 15 else 0)
  | .fin n m e =>
    let c := packMag 8 (-133) (roundMag 8 (-133) mode m e false)
    let c := if m = 0 then 0 else if c < 0x7F80 then c else match mode with | .nearest => 0x7F80 | .stochastic _ => 0x7F7F
    c + if n then 2 ^ 15 else 0

/-- The scale byte of a block of values that are not NaN (R403). -/
def mxScale (f : Nat) (vs : List Word) : Nat :=
  let top (x : Word) : Option Int := match f32Val x with
    | .inf _ => some 127
    | .fin _ m e => if m = 0 then none else some (e + (Nat.log2 m : Int))
    | .nan => none
  match (vs.filterMap top) with
  | [] => 0
  | t :: r => (max 0 (min 254 (r.foldl max t - mxEmax f + 127))).toNat

/-- One element of a block under scale `X` (R403). -/
def mxElem (f scale : Nat) (mode : Rnd) (x : Word) : Nat :=
  let (prec, qmin, top) := mxShape f
  let sat (n : Bool) (c : Nat) : Nat :=
    if f = 7 then (if n then (256 - c) % 256 else c)
    else c + if n then 2 ^ (fmtBits f - 1) else 0
  match f32Val x with
  | .nan => 0
  | .inf n => sat n top
  | .fin n m e =>
    let e' := e - ((scale : Int) - 127)
    let c := if m = 0 then 0
      else if f = 7 then
        -- a fixed-point element: the last bit is 2⁻⁶ whatever the magnitude
        (roundMag 1000 (-6) mode m e' false).1
      else packMag prec qmin (roundMag prec qmin mode m e' false)
    sat n (min c top)

/-- A block of 32 FP32 values in an MX format: the scale and the elements (R403). -/
def mxBlock (f : Nat) (modes : List Rnd) (vs : List Word) : Nat × List Nat :=
  if vs.any f32IsNaN then (0xFF, vs.map (fun _ => 0))
  else
    let x := mxScale f vs
    if vs.all (fun v => f32Eq v 0) then (0, vs.map (fun _ => 0))
    else (x, vs.zipIdx.map (fun e => mxElem f x (modes.getD e.2 .nearest) e.1))

/-! ### Segments (R390–R393) -/

/-- One operand of a product: its format, its code and its block's scale byte (127 where the format has none). -/
structure Opnd where
  fmt : Nat
  code : Nat
  scale : Nat := 127
deriving DecidableEq, Repr

/-- One product of a segment (R391 step 1). -/
def product (w a : Opnd) : Fv :=
  if elemZero w.fmt w.code || elemZero a.fmt a.code then .fin false 0 0
  else if w.scale = 0xFF ∨ a.scale = 0xFF then .nan
  else match elemVal w.fmt w.code, elemVal a.fmt a.code with
    | .nan, _ => .nan
    | _, .nan => .nan
    | .inf x, .inf y => .inf (x != y)
    | .inf x, .fin n _ _ => .inf (x != n)
    | .fin n _ _, .inf y => .inf (n != y)
    | .fin nw mw ew, .fin na ma ea =>
      .fin (nw != na) (mw * ma) (ew + ea + ((w.scale : Int) - 127) + ((a.scale : Int) - 127))

/-- A finite product in units of 2^`u`, truncated toward zero, and whether a bit was lost (R391 step 4). -/
def inUnits (u : Int) (p : Fv) : Int × Bool :=
  match p with
  | .fin n m e =>
    if u ≤ e then (signed n (m * 2 ^ (e - u).toNat), false)
    else (signed n (m / 2 ^ (u - e).toNat), decide (m % 2 ^ (u - e).toNat ≠ 0))
  | _ => (0, false)

/-- The window exponent *E* (R391 step 3). -/
def windowExp (ps : List (Opnd × Opnd)) : Int :=
  let es := ps.filterMap (fun p =>
    if isMx p.1.fmt then some (((p.1.scale : Int) - 127) + ((p.2.scale : Int) - 127))
    else match product p.1 p.2 with
      | .fin _ m e => if m = 0 then none else some (e + (Nat.log2 m : Int))
      | _ => none)
  match es with
  | [] => 0
  | e :: r => r.foldl max e

/-- The FP32 value of a segment (R391). -/
def segment (ps : List (Opnd × Opnd)) : Word :=
  let prods := ps.map (fun p => product p.1 p.2)
  let pos := prods.contains (.inf false)
  let neg := prods.contains (.inf true)
  if prods.contains .nan || (pos && neg) then f32NaN
  else if pos then f32Inf false
  else if neg then f32Inf true
  else if prods.all (fun p => match p with | .fin _ m _ => decide (m = 0) | _ => false) then 0
  else
    let u := windowExp ps - 64
    let xs := prods.map (inUnits u)
    let n : Int := xs.foldl (fun a x => a + x.1) 0
    let sticky := xs.any (·.2)
    if n = 0 then 0 else f32Round (decide (n < 0)) n.natAbs u sticky

end Sys2Proof.Machine
end

