-- ==== Sys2Proof/Machine/CompOps.lean ====
section
/-! DEFINITION. CompOps.lean: jobs, logical clusters and run images as the units see them; registers, staging with its hazards, and
the issue of bundles (chapters "Compute Clusters" and "Cluster Instruction Set and Run Images"). -/
namespace Sys2Proof.Machine
open Sys2Proof

/-! ### Jobs and run images (R442–R445) -/

/-- The record of job `j`. -/
def State.job (s : State) (j : Nat) : Job := s.jobs.getD j {}
/-- Changes a resident job. -/
def State.modJob (s : State) (j : Nat) (f : Job → Job) : State :=
  match s.jobs.get? j with
  | some x => { s with jobs := s.jobs.set j (f x) }
  | none => s
/-- The key of a logical cluster. -/
def lcKey (j i : Nat) : Nat := j * 1024 + i
/-- Logical cluster `i` of job `j`. -/
def State.lc (s : State) (j i : Nat) : Lc := s.lcs.getD (lcKey j i) {}
/-- Changes a logical cluster. -/
def State.modLc (s : State) (j i : Nat) (f : Lc → Lc) : State := { s with lcs := s.lcs.mod (lcKey j i) {} f }
/-- The physical cluster H*h*.C*k*. -/
def State.clu (s : State) (h k : Nat) : Clu := s.clus.getD (h * 16 + k) {}
/-- Changes a physical cluster. -/
def State.modClu (s : State) (h k : Nat) (f : Clu → Clu) : State := { s with clus := s.clus.mod (h * 16 + k) {} f }

/-- A little-endian number in a byte string. -/
def bytesAt (b : List Byte) (off n : Nat) : Nat := leNat ((b.drop off).take n)

/-- `LOGICAL_COUNT` of an image. -/
def imgLogical (b : List Byte) : Nat := bytesAt b 0x10 2
/-- `EXTREF_COUNT`. -/
def imgExtrefs (b : List Byte) : Nat := bytesAt b 0x12 2
/-- `SUPERSTEPS`. -/
def imgSteps (b : List Byte) : Nat := bytesAt b 0x14 4
/-- `STAGING_BYTES`. -/
def imgStaging (b : List Byte) : Nat := bytesAt b 0x18 4
/-- `CODE_BUNDLES`. -/
def imgBundles (b : List Byte) : Nat := bytesAt b 0x1C 4
/-- `REGION_COUNT`. -/
def imgRegions (b : List Byte) : Nat := bytesAt b 0x20 2
/-- `GATE_COUNT`. -/
def imgGates (b : List Byte) : Nat := bytesAt b 0x22 2
/-- `IFLAGS.DIGEST`. -/
def imgDigest (b : List Byte) : Bool := decide (bytesAt b 0x0F 1 % 2 = 1)
/-- `IFLAGS.PAIRS`. -/
def imgPairs (b : List Byte) : Bool := decide (bytesAt b 0x0F 1 / 2 % 2 = 1)
/-- Offset of the section with an ID (R442). -/
def imgSec (b : List Byte) (id : Nat) : Nat := bytesAt b (0x80 + 16 * (id - 1) + 4) 4
/-- Length of the section with an ID. -/
def imgLen (b : List Byte) (id : Nat) : Nat := bytesAt b (0x80 + 16 * (id - 1) + 8) 4
/-- `CODE_START`, `CODE_LEN` and `ENTRY` of a logical cluster. -/
def imgCode (b : List Byte) (i : Nat) : Nat × Nat × Nat :=
  let o := imgSec b 1 + 16 * i
  (bytesAt b o 4, bytesAt b (o + 4) 2, bytesAt b (o + 6) 2)
/-- The four slots of a bundle of CODE (R417). -/
def imgBundle (b : List Byte) (n : Nat) : List DWord :=
  let o := imgSec b 2 + 32 * n
  [0, 1, 2, 3].map (fun k => BitVec.ofNat 64 (bytesAt b (o + 8 * k) 8))
/-- The energy class of a superstep. -/
def imgClass (b : List Byte) (n : Nat) : Nat := bytesAt b (imgSec b 6 + n) 1 % 16
/-- A seed. -/
def imgSeed (b : List Byte) (k : Nat) : DWord := BitVec.ofNat 64 (bytesAt b (imgSec b 7 + 8 * k) 8)
/-- Bytes of staging (R380). -/
def stagingTop : Nat := 0x1800000

/-- `ALLOC` of a cluster; a fused-off cluster counts as 0 (R65). -/
def State.alloc (s : State) (h k : Nat) : Nat :=
  if s.clusterPresent h k then s.eff.u8 .clusters (0x10 + 16 * h + k) else 0

/-- The save hub of logical cluster `i` (R494). -/
def Job.saveHub (x : Job) (i : Nat) : Nat := x.saveHubs.getD (i % max 1 x.saveHubs.length) 0

/-! ### The logical cluster that a physical cluster runs -/

/-- The logical cluster that issues bundles on H*h*.C*k*: it is resident and its superstep has been admitted. -/
def State.runner (s : State) (h k : Nat) : Option (Nat × Nat) :=
  match (s.clu h k).resident with
  | some (j, i) =>
    if (s.lc j i).phase = .running ∧ (s.job j).state = .running ∧ ¬s.fatal ∧ (s.hub h).phase = .none then some (j, i)
    else none
  | none => none

/-! ### Registers with their latencies (R414, R432, R435) -/

/-- Reads a scalar register; a read before its producer's latency has passed gives a free value (R440). -/
def State.readS (s : State) (j i n : Nat) : DWord × State :=
  let x := s.lc j i
  if n = 0 then (0, s)
  else if x.bundle < x.sReady.getD n 0 then let (v, s) := s.draw .hazard; (BitVec.ofNat 64 v, s)
  else (x.regs.s.getD n 0, s)

/-- Reads a tile descriptor. -/
def State.readT (s : State) (j i n : Nat) : BitVec 128 × State :=
  let x := s.lc j i
  if x.bundle < x.tReady.getD n 0 then let (v, s) := s.draw .hazard; (BitVec.ofNat 128 v, s)
  else (x.regs.t.getD n 0, s)

/-- Inserts a pending result by the bundle from which it can be read. -/
def vecInsert (p : VecPend) : List VecPend → List VecPend
  | [] => [p]
  | q :: r => if q.ready ≤ p.ready then q :: vecInsert p r else p :: q :: r

/-- A vector register with the results that are computed and not yet written, which are kept in the order of their writing. -/
def Lc.vecNow (x : Lc) (n : Nat) : BitVec 8192 :=
  (x.vec.flatMap (·.regs)).foldl (fun a r => if r.1 = n then r.2 else a) (x.regs.v.getD n 0)

/-- Reads a vector register. -/
def State.readV (s : State) (j i n : Nat) : BitVec 8192 × State :=
  let x := s.lc j i
  if x.bundle < x.vReady.getD n 0 then let (v, s) := s.draw .hazard; (BitVec.ofNat 8192 v, s)
  else (x.vecNow n, s)

/-- Reads an address register: its latency is one bundle, so no hazard arises. -/
def State.readA (s : State) (j i n : Nat) : DWord := (s.lc j i).regs.a.getD n 0

/-- Writes a scalar register; writes to s0 are ignored (R414). A write that an earlier one of longer latency would overtake leaves a
free value (notes/assumptions/21.md). -/
def State.writeS (s : State) (j i n : Nat) (v : DWord) (latency : Nat) : State :=
  if n = 0 then s
  else
    let late := (s.lc j i).sReady.getD n 0
    let (v, s) : DWord × State :=
      if late ≤ (s.lc j i).bundle + latency then (v, s) else let (f, s) := s.draw .hazard; (BitVec.ofNat 64 f, s)
    s.modLc j i (fun x => { x with
      regs := { x.regs with s := x.regs.s.set n v }, sReady := x.sReady.set n (max late (x.bundle + latency)) })

/-- Writes an address register. -/
def State.writeA (s : State) (j i n : Nat) (v : DWord) : State :=
  s.modLc j i (fun x => { x with regs := { x.regs with a := x.regs.a.set n v } })

/-- Writes a tile descriptor. -/
def State.writeT (s : State) (j i n : Nat) (v : BitVec 128) (latency : Nat) : State :=
  let late := (s.lc j i).tReady.getD n 0
  let (v, s) : BitVec 128 × State :=
    if late ≤ (s.lc j i).bundle + latency then (v, s) else let (f, s) := s.draw .hazard; (BitVec.ofNat 128 f, s)
  s.modLc j i (fun x => { x with
    regs := { x.regs with t := x.regs.t.set n v }, tReady := x.tReady.set n (max late (x.bundle + latency)) })

/-! ### Tile descriptors (R416) -/

/-- `BASE`. -/
def tBase (t : BitVec 128) : Nat := field t 24 0
/-- `SCALE_BASE`. -/
def tScale (t : BitVec 128) : Nat := field t 49 25
/-- `FMT`. -/
def tFmt (t : BitVec 128) : Nat := field t 53 50
/-- `ROWS`. -/
def tRows (t : BitVec 128) : Nat := field t 65 54 + 1
/-- `COLS`. -/
def tCols (t : BitVec 128) : Nat := field t 77 66 + 1
/-- `STRIDE`. -/
def tStride (t : BitVec 128) : Nat := field t 97 78
/-- `AUX`. -/
def tAux (t : BitVec 128) : Nat := field t 122 98

/-- `BASE` and `STRIDE` are multiples of 16. -/
def tileAligned (t : BitVec 128) : Bool := decide (tBase t % 16 = 0 ∧ tStride t % 16 = 0)

/-- Bytes of one element row. -/
def rowBytes (fmt cols : Nat) : Nat := (cols * fmtBits fmt + 7) / 8

/-- The staging spans of a tile's elements and scales, by row. -/
def tileSpans (t : BitVec 128) (cols : Nat) : List Span :=
  (List.range (tRows t)).flatMap (fun r =>
    { lo := tBase t + r * tStride t, len := rowBytes (tFmt t) cols } ::
      (if isMx (tFmt t) then [{ lo := tScale t + r * (tCols t / 32), len := tCols t / 32 }] else []))

/-- Two spans share a byte. -/
def Span.meets (a b : Span) : Bool := decide (a.lo < b.lo + b.len ∧ b.lo < a.lo + a.len)

/-! ### Staging and its hazards (R383, R440) -/

/-- Unit codes of R754, and the sequencer's. -/
def unitMatrix : Nat := 0x10
/-- The vector unit. -/
def unitVector : Nat := 0x20
/-- The sequencer. -/
def unitSeq : Nat := 0x40
/-- The weight loads of the matrix unit, for the hazards: they overlap its `MMA` operations (R430). -/
def unitLoad : Nat := 0x11

/-- Bytes of the metadata of a 2:4 tile (R450). -/
def metaLen (t : BitVec 128) : Nat := (tRows t * tCols t + 7) / 8

/-- Sub-tile (`r`, `c`) is marked in a bitmap (R454). -/
def marked (map : List Byte) (r c : Nat) : Bool := (map.getD ((16 * r + c) / 8) 0).getLsbD ((16 * r + c) % 8)

/-- The elements of row `n` of a tile in its K-block `c` (R456). -/
def blockSpan (t : BitVec 128) (n c : Nat) : Span :=
  { lo := tBase t + n * tStride t + 2 * c * fmtBits (tFmt t), len := rowBytes (tFmt t) (min 16 (tCols t - 16 * c)) }

/-- The K-blocks of row `n` that lie in marked sub-tiles. -/
def rowBlocks (map : List Byte) (t : BitVec 128) (n : Nat) : List Nat :=
  (List.range ((tCols t + 15) / 16)).filter (fun c => marked map (n / 16) c)

/-- Spans that a MATRIX operation reads; `map` is the bitmap of its mogul map. A `WLOAD` under one reads the elements of marked sub-tiles
alone, with the scales of every row (R455, R456). -/
def MatOp.reads (map : List Byte) : MatOp → List Span
  | .wload t _ sparse =>
    if sparse = 1 then { lo := tAux t, len := metaLen t } :: tileSpans t (tCols t / 2)
    else if sparse = 2 then
      { lo := tAux t, len := 32 } :: (List.range (tRows t)).flatMap (fun n => (rowBlocks map t n).map (blockSpan t n)
        ++ (if isMx (tFmt t) then [{ lo := tScale t + n * (tCols t / 32), len := tCols t / 32 }] else []))
    else tileSpans t (tCols t)
  | .mma ta _ ti useInit _ zskip =>
    tileSpans ta (tCols ta) ++ (if useInit then tileSpans ti (tCols ti) else [])
      ++ (if zskip then [{ lo := tAux ta, len := tRows ta }] else [])

/-- Spans that a MATRIX operation writes. -/
def MatOp.writes : MatOp → List Span
  | .wload _ _ _ => []
  | .mma _ out _ _ _ _ => tileSpans out (tCols out)

/-- The side of the matrix unit that performs an operation. -/
def MatOp.unit : MatOp → Nat
  | .wload _ _ _ => unitLoad
  | .mma _ _ _ _ _ _ => unitMatrix

/-- The spans that an issued MATRIX operation reads. -/
def MatIss.reads (m : MatIss) : List Span := m.op.reads m.bitmap

/-- The spans that it touches. -/
def MatIss.spans (m : MatIss) : List Span := m.reads ++ m.op.writes

/-- The descriptor writes pool memory. -/
def StreamDesc.write (d : StreamDesc) : Bool := d.kind == 2 || d.kind == 4

/-- The rows of a descriptor in staging, from address `lo`. -/
def StreamDesc.rowSpans (d : StreamDesc) (lo : Nat) : List Span :=
  (List.range d.rows).map (fun r => { lo := lo + r * d.stgStride, len := d.rowBytes })

/-- The indices of an indexed descriptor. -/
def StreamDesc.idxSpan (d : StreamDesc) : List Span :=
  if d.kind = 3 ∨ d.kind = 4 then [{ lo := d.idxAddr, len := 4 * d.rows }] else []

/-- Staging spans that a descriptor reads. -/
def StreamDesc.reads (d : StreamDesc) : List Span :=
  (if d.write || d.kind == 5 then d.rowSpans d.stg else []) ++ d.idxSpan

/-- Staging spans that a descriptor writes. -/
def StreamDesc.writes (d : StreamDesc) : List Span :=
  if d.kind = 5 then d.rowSpans d.stgDst else if d.write then [] else d.rowSpans d.stg

/-- A descriptor from its 64 bytes (R422). -/
def parseDesc (id : Nat) (base : DWord) (b : List Byte) (sem : Nat) (sig : Bool) : StreamDesc :=
  { id := id, kind := bytesAt b 0 1, rows := bytesAt b 4 4, rowBytes := bytesAt b 8 4,
    va := base + BitVec.ofNat 64 (bytesAt b 0x10 8), stride := BitVec.ofNat 64 (bytesAt b 0x18 8), stg := bytesAt b 0x20 4,
    stgStride := bytesAt b 0x24 4, idxAddr := bytesAt b 0x28 4, stgDst := bytesAt b 0x2C 4, sem := sem, sig := sig }

/-- The pool address of a row, for the value that multiplies the stride (R422). -/
def StreamDesc.rowVa (d : StreamDesc) (n : Nat) : Nat := (d.va + BitVec.ofNat 64 n * d.stride).toNat

/-- A row's pool bytes lie within 0 to 2^48 - 1 (R415, R423). -/
def StreamDesc.rowOk (d : StreamDesc) (n : Nat) : Bool := decide (d.rowVa n + d.rowBytes ≤ 2 ^ 48)

/-- The last byte of the rows from `lo` lies within the staging SRAM (R423). -/
def StreamDesc.spanOk (d : StreamDesc) (lo : Nat) : Bool := decide (lo + (d.rows - 1) * d.stgStride + d.rowBytes ≤ stagingTop)

/-- A descriptor obeys R422 and R423, as far as its own bytes tell. -/
def StreamDesc.ok (d : StreamDesc) (b : List Byte) : Bool :=
  decide (1 ≤ d.kind ∧ d.kind ≤ 5) && decide (bytesAt b 1 3 = 0 ∧ bytesAt b 0x0C 4 = 0 ∧ bytesAt b 0x30 16 = 0)
    && decide (1 ≤ d.rows ∧ d.rows ≤ 65536) && decide (d.rowBytes % 64 = 0 ∧ 64 ≤ d.rowBytes ∧ d.rowBytes ≤ stagingTop)
    && decide (d.stride.toNat % 64 = 0 ∧ d.stg % 64 = 0 ∧ d.stgStride % 64 = 0)
    && (if d.kind = 3 ∨ d.kind = 4 then decide (d.idxAddr % 4 = 0) else decide (d.idxAddr = 0))
    && (if d.kind = 5 then decide (d.stgDst % 64 = 0) && d.spanOk d.stgDst else decide (d.stgDst = 0)) && d.spanOk d.stg
    && (!(d.kind == 1 || d.kind == 2) || (List.range d.rows).all d.rowOk)

/-- A descriptor of free bytes: what they happen to say, when that is a descriptor at all, without any fault (R440). -/
def freeDesc (id : Nat) (base : DWord) (v : Nat) (sem : Nat) (sig : Bool) : StreamDesc :=
  let b := leBytes 64 v
  let d := parseDesc id base b sem sig
  if d.ok b then { d with free := true, tainted := true } else { d with kind := 5, rows := 0, free := true }

/-- Any of the spans shares a byte with `x`. -/
def meetsAny (x : Span) (l : List Span) : Bool := l.any (fun y => x.meets y)

/-- The units order their own operations: `MMA` operations follow one another, and so do weight loads and the descriptors of one stream
(R430, R436). -/
def ordered (u v : Nat) : Bool := u == v && u != unitVector && u != unitSeq

/-- The staging spans of a list of bytes, one for each run of consecutive addresses. -/
def byteSpans : List (Nat × Byte) → List Span
  | [] => []
  | b :: r =>
    match byteSpans r with
    | x :: rest => if x.lo = b.1 + 1 then { lo := b.1, len := x.len + 1 } :: rest else { lo := b.1, len := 1 } :: x :: rest
    | [] => [{ lo := b.1, len := 1 }]

/-- What a completed MATRIX operation leaves to be ordered by a wait. -/
def MatIss.past (m : MatIss) : PastOp :=
  { unit := unitMatrix, sem := if m.sig then some m.sem else none, reads := m.reads, writes := m.op.writes }

/-- The unit that performed a completed operation, for the hazards: a weight load of the matrix unit writes no staging. -/
def PastOp.side (a : PastOp) : Nat := if a.unit = unitMatrix ∧ a.writes.isEmpty then unitLoad else a.unit

/-- The same for a descriptor of stream `q`. -/
def StreamDesc.past (d : StreamDesc) (q : Nat) : PastOp :=
  { unit := q, id := d.id, sem := if d.sig then some d.sem else none, reads := d.reads, writes := d.writes }

/-- The same for a vector operation. -/
def VecPend.past (p : VecPend) : PastOp :=
  { unit := unitVector, ready := p.ready, sem := if p.sig then some p.sem else none, writes := byteSpans p.bytes }

/-- The operations in progress. -/
def Lc.flying (x : Lc) : List PastOp :=
  x.mat.map MatIss.past ++ x.streams.flatMap (fun q => q.2.map (·.past q.1)) ++ x.vec.map VecPend.past

/-- The completed operations that a `WAIT` on semaphore `k` leaves unordered. An operation is ordered when the wait could not have been
satisfied without it: the operation and the later ones of its unit, which complete after it, signal `k` at least `need` times; `fly` are
the operations in progress (R436). -/
def unorderedBy (k need : Nat) (fly : List PastOp) : List PastOp → List PastOp
  | [] => []
  | a :: r =>
    let rest := unorderedBy k need fly r
    if need ≤ (a :: r ++ fly).countP (fun b => b.unit == a.unit && decide (a.ready ≤ b.ready) && b.sem == some k) then rest
    else a :: rest

/-- A `WAIT` on semaphore `k` is satisfied and leaves it at `v`: it orders the operations without whose signals it would still wait; the
signals of the operations in progress might have come in their place. -/
def Lc.order (x : Lc) (k v : Nat) : Lc :=
  { x with past := unorderedBy k (v + x.flying.countP (fun b => b.sem == some k) + 1) x.flying x.past }

/-- A read of a span by unit `u` meets bytes that an operation which no wait has ordered writes, or lies beyond the job's staging. -/
def Lc.readHazard (x : Lc) (staging u : Nat) (sp : Span) : Bool :=
  decide (staging < sp.lo + sp.len)
    || x.mat.any (fun m => !ordered u m.op.unit && meetsAny sp m.op.writes)
    || x.streams.any (fun q => !ordered u q.1 && q.2.any (fun d => meetsAny sp d.writes))
    || x.vec.any (fun p => p.bytes.any (fun b => decide (sp.lo ≤ b.1 ∧ b.1 < sp.lo + sp.len)))
    || x.stored.any (fun p => decide (x.bundle < p.2) && sp.meets p.1)
    || x.past.any (fun a => !ordered u a.side && meetsAny sp a.writes)

/-- A write of a span by unit `u` meets bytes that another operation, which no wait has ordered, reads or writes. -/
def Lc.writeHazard (x : Lc) (u : Nat) (sp : Span) : Bool :=
  x.mat.any (fun m => !ordered u m.op.unit && meetsAny sp m.spans)
    || x.streams.any (fun q => !ordered u q.1 && q.2.any (fun d => meetsAny sp d.writes || meetsAny sp d.reads))
    || x.vec.any (fun p => p.bytes.any (fun b => decide (sp.lo ≤ b.1 ∧ b.1 < sp.lo + sp.len)))
    || x.past.any (fun a => !ordered u a.side && (meetsAny sp a.writes || meetsAny sp a.reads))

/-- The bytes of a span as staging holds them. -/
def Lc.bytesOf (x : Lc) (sp : Span) : List Byte := (List.range sp.len).map (fun k => x.staging.getD (sp.lo + k) 0)

/-- Notes an access beyond the staging SRAM (R383). -/
def State.noteRange (s : State) (j i : Nat) (sp : Span) : State :=
  if sp.lo + sp.len ≤ stagingTop then s
  else match (s.lc j i).place with
    | some (h, k) => s.modClu h k (fun c => { c with range := true })
    | none => s

/-- Reads a span for unit `u`; a hazard gives free bytes. -/
def State.readStg (s : State) (j i u : Nat) (sp : Span) : List Byte × State :=
  let x := s.lc j i
  let s := s.noteRange j i sp
  if x.readHazard (imgStaging (s.job j).image) u sp then
    let (v, s) := s.draw .hazard
    (leBytes sp.len v, s)
  else (x.bytesOf sp, s)

/-- Marks the operations in progress whose result a write of a span by unit `u` leaves undefined. -/
def Lc.taint (x : Lc) (u : Nat) (sp : Span) : Lc :=
  { x with
    mat := x.mat.map (fun m =>
      if !ordered u m.op.unit && meetsAny sp m.spans then { m with tainted := true } else m),
    streams := x.streams.mapVals (fun q l => l.map (fun d =>
      if !ordered u q && (meetsAny sp d.reads || meetsAny sp d.writes) then
        { d with tainted := true, idxFree := d.idxFree || meetsAny sp d.idxSpan } else d)),
    vec := x.vec.map (fun p =>
      if p.bytes.any (fun b => decide (sp.lo ≤ b.1 ∧ b.1 < sp.lo + sp.len)) then { p with tainted := true } else p) }

/-- Gives up what a fetch of the last 4 bundles took from a span that now changes (R440). -/
def State.spoilFetch (s : State) (j i : Nat) (sp : Span) : State :=
  ((s.lc j i).fetches.filter (fun f => decide ((s.lc j i).bundle ≤ f.bundle + 4) && f.span.meets sp)).foldl (fun s f =>
    match f.target with
    | .inl t => let (v, s) := s.draw .hazard; s.writeT j i t (BitVec.ofNat 128 v) 0
    | .inr (q, id) =>
      let (v, s) := s.draw .hazard
      s.modLc j i (fun x => { x with
        streams := x.streams.mod q [] (fun l => l.map (fun d => if d.id = id then freeDesc id d.va v d.sem d.sig else d)) })) s

/-- One term of the running digest of pairs mode (R512): superstep, granule, mask, the granule's words as stored. -/
def digestTerm (n g : Nat) (bytes : List (Nat × Byte)) : DWord :=
  let mask := bytes.foldl (fun a b => a + 2 ^ (b.1 % 64)) 0
  let line := bytes.foldl (fun a b => a + b.2.toNat * 2 ^ (8 * (b.1 % 64))) 0
  let h0 : DWord := BitVec.ofNat 64 n * 0x9E3779B97F4A7C15 + BitVec.ofNat 64 g * 0xD1B54A32D192ED03 + BitVec.ofNat 64 mask
  (List.range 8).foldl (fun h i => srRound (h ^^^ BitVec.ofNat 64 (line / 2 ^ (64 * i)))) h0

/-- The granules that a write touches, with its bytes in each. -/
def granules : List (Nat × Byte) → List (Nat × List (Nat × Byte))
  | [] => []
  | b :: r =>
    match granules r with
    | (g, l) :: rest => if g = b.1 / 64 then (g, b :: l) :: rest else (b.1 / 64, [b]) :: (g, l) :: rest
    | [] => [(b.1 / 64, [b])]

/-- Stores bytes (at rising addresses) into a logical cluster's staging and its digest; bytes beyond the job's staging are
lost. -/
def Lc.store (x : Lc) (staging step : Nat) (bytes : List (Nat × Byte)) : Lc :=
  let bs := bytes.filter (fun b => decide (b.1 < staging))
  { x with
    staging := bs.foldl (fun m b => if b.2 = 0 then m.erase b.1 else m.set b.1 b.2) x.staging,
    digest := (granules bs).foldl (fun d g => d + digestTerm step g.1 g.2) x.digest }

/-- Bytes with their addresses. -/
def placedAt (lo : Nat) (l : List Byte) : List (Nat × Byte) := l.zipIdx.map (fun e => (lo + e.2, e.1))

/-- Unit `u` writes bytes into staging from address `lo`. -/
def State.writeStg (s : State) (j i u lo : Nat) (l : List Byte) : State :=
  let sp : Span := { lo := lo, len := l.length }
  let s := (s.noteRange j i sp).spoilFetch j i sp
  let st := imgStaging (s.job j).image
  let n := (s.job j).step
  s.modLc j i (fun x => (x.taint u sp).store st n (placedAt lo l))

/-! ### Signals (R436) -/

/-- Adds to a semaphore; an overflow leaves its value undefined and is recorded. -/
def State.signal (s : State) (j i k n unit : Nat) : State :=
  let v := ((s.lc j i).regs.sem.getD k 0).toNat + n
  let (w, s) : BitVec 16 × State :=
    if v < 65536 then (BitVec.ofNat 16 v, s)
    else
      let s := match (s.lc j i).place with
        | some (h, c) => s.modClu h c (fun x => { x with semOvf := true })
        | none => s
      let (f, s) := s.draw .hazard
      (BitVec.ofNat 16 f, s)
  s.modLc j i (fun x => { x with
    regs := { x.regs with sem := x.regs.sem.set k w }, sigBy := x.sigBy.set k (BitVec.ofNat 16 unit) })

/-- An operation completes and signals its semaphore, if it names one; from then on it only lacks a wait that orders it. -/
def State.unitDone (s : State) (j i : Nat) (a : PastOp) : State :=
  let s := s.modLc j i (fun x => { x with lastUnit := BitVec.ofNat 16 a.unit, past := x.past ++ [a] })
  match a.sem with
  | some k => s.signal j i k 1 a.unit
  | none => s

/-! ### Pool bytes within a superstep (R439) -/

/-- A stream of the logical cluster has the descriptor in progress, or completed without a wait that orders it. -/
def Lc.unordered (x : Lc) (q id : Nat) : Bool :=
  (x.streams.getD q []).any (fun d => d.id == id) || x.past.any (fun a => a.unit == q && a.id == id)

/-- The bytes that streams of other logical clusters, or unordered other streams of the same one, have written in the present superstep. -/
def State.foreign (s : State) (j i q : Nat) : List Span :=
  ((s.job j).wrote.filter (fun w => w.lc != i || (w.stream != q && (s.lc j i).unordered w.stream w.desc))).map (·.span)

/-- Address `a` lies in one of the spans. -/
def inSpans (l : List Span) (a : Nat) : Bool := l.any (fun x => decide (x.lo ≤ a ∧ a < x.lo + x.len))

/-- A string of bytes from address `lo` whose bytes in the spans are undefined: these are free. -/
def State.spoilBytes (s : State) (bad : List Span) (lo : Nat) (l : List Byte) : List Byte × State :=
  if meetsAny { lo := lo, len := l.length } bad then
    let (v, s) := s.draw .hazard
    (l.zipIdx.map (fun b => if inSpans bad (lo + b.2) then BitVec.ofNat 8 (v / 256 ^ b.2) else b.1), s)
  else (l, s)

/-- A logical cluster that has used undefined bytes: its registers, its staging and the results it has not written yet are free values
(R7, R439, R440; notes/assumptions/78.md). -/
def State.spoilLc (s : State) (j i : Nat) : State :=
  let n := imgStaging (s.job j).image
  let (b, s) := s.draw .hazard
  let (v, s) := s.draw .hazard
  let (w, s) := s.draw .hazard
  let part (k bits : Nat) : Nat := v / 2 ^ (bits * k)
  let staging := ((List.range n).map (fun k => (k, BitVec.ofNat 8 (b / 256 ^ k)))).filter (fun e => e.2 != 0)
  s.modLc j i (fun x => { x with
    regs := { x.regs with
      s := (List.range 63).map (fun k => (k + 1, BitVec.ofNat 64 (part k 64))),
      a := (List.range 16).map (fun k => (k, BitVec.ofNat 64 (part (63 + k) 64))),
      t := (List.range 32).map (fun k => (k, BitVec.ofNat 128 (part (64 + k) 128))),
      v := (List.range 32).map (fun k => (k, BitVec.ofNat 8192 (w / 2 ^ (8192 * k)))) },
    staging := staging, wbuf := [],
    mat := x.mat.map (fun m => { m with tainted := true }),
    streams := x.streams.mapVals (fun _ l => l.map (fun d => { d with tainted := true, idxFree := true })),
    vec := x.vec.map (fun p => { p with
      regs := p.regs.map (fun r => (r.1, BitVec.ofNat 8192 (w / 2 ^ (8192 * (32 + r.1))))), tainted := true }),
    digest := BitVec.ofNat 64 (part 200 64) })

/-- The other logical clusters whose finished reads of the present superstep took bytes of a span. -/
def State.readersOf (s : State) (j i : Nat) (sp : Span) : List Nat :=
  (((s.job j).read.filter (fun r => r.lc != i && r.span.meets sp
    && !(((s.lc j r.lc).streams.getD r.stream []).any (fun d => d.id == r.desc)))).map (·.lc)).foldr insNat []

/-- Reads in progress of another logical cluster, or of another stream of the same one, lose the bytes of a span that stream `q` of logical
cluster `i` writes, and a logical cluster that has finished such a read goes on with free values; the write is remembered until the
superstep ends (R439). -/
def State.notePool (s : State) (j i q id : Nat) (sp : Span) : State :=
  let s := (s.readersOf j i sp).foldl (fun s r => s.spoilLc j r) s
  let hit (g : Seg) : Seg := if sp.meets { lo := g.dpa, len := g.bytes } then { g with spoilt := g.spoilt ++ [sp] } else g
  let s : State := { s with lcs := s.lcs.mapVals (fun k x =>
    if k / 1024 = j then { x with streams := x.streams.mapVals (fun p l =>
      if k % 1024 = i ∧ p = q then l else l.map (fun d => if d.write then d else { d with segs := d.segs.map hit })) } else x) }
  s.modJob j (fun x => { x with wrote := x.wrote ++ [{ lc := i, stream := q, desc := id, span := sp }] })

/-! ### Issue of bundles (R417–R419, R436) -/

/-- What an operation does when its turn comes: it waits, or it issues, with a branch target or without. -/
inductive Issued where
  | blocked (s : State)
  | done (s : State)
  | jump (s : State) (target : BitVec 14)

/-- The bundle of a logical cluster at a bundle number. -/
def Job.bundle (x : Job) (i pc : Nat) : List DWord := imgBundle x.image ((imgCode x.image i).1 + pc)

/-- The first bundle from `pc` on that is not all `NOP`, within the code. -/
def Job.nextBundle (x : Job) (i : Nat) : Nat → Nat → Nat
  | 0, pc => pc
  | n + 1, pc => if (x.bundle i pc).all (· == 0) then x.nextBundle i n (pc + 1) else pc

/-- The CONTROL operation holds the whole bundle until it is satisfied (R436). -/
def holdsBundle (b : List DWord) : Bool :=
  let op := (b.getD 3 0).toNat % 256
  decide (op = 0x30 ∨ op = 0x32 ∨ op = 0x33)

/-- The slots that issue before slot `k`: in slot order, the CONTROL slot first when it holds the bundle. -/
def before (b : List DWord) (k : Nat) : List Nat :=
  (if holdsBundle b then [3, 0, 1, 2] else [0, 1, 2, 3]).takeWhile (· != k)

/-- The slots of a bundle that are not `NOP`. -/
def liveSlots (b : List DWord) : List Nat := [0, 1, 2, 3].filter (fun k => b.getD k 0 != 0)

/-- Ends a bundle: a late scalar is written, the bundle counts as issued and `PC` moves on. -/
def State.endBundle (s : State) (h k j i : Nat) (target : Option (BitVec 14)) : State :=
  let s := match (s.lc j i).late with
    | some (d, v) => (s.writeS j i d v 1).modLc j i (fun x => { x with late := none })
    | none => s
  (s.modLc j i (fun x => { x with
    slots := 0, bundle := x.bundle + 1,
    fetches := x.fetches.filter (fun f => decide (x.bundle < f.bundle + 4)),
    stored := x.stored.filter (fun p => decide (x.bundle + 1 < p.2)),
    regs := { x.regs with pc := target.getD (x.regs.pc + 1) } })).bump h (0x10 + k) 0x80 0 1

/-- The state that an operation at its turn leaves, and its branch target if it issued. -/
def Issued.split : Issued → State × Option (Option (BitVec 14))
  | .blocked s => (s, none)
  | .done s => (s, some none)
  | .jump s t => (s, some (some t))

/-- An operation has issued from its slot; with the bundle's last live slot the bundle ends (R417). After `YIELD` the logical cluster waits at
the barrier (R437, R447). -/
def State.slotEnds (s : State) (h k j i slot : Nat) (b : List DWord) (t : Option (BitVec 14)) : State :=
  let s := s.modLc j i (fun x => { x with
    slots := x.slots ||| BitVec.ofNat 4 (2 ^ slot), wait := if x.phase = .yielded then .barrier else .none })
  if (liveSlots b).all (fun q => (s.lc j i).slots.getLsbD q) then s.endBundle h k j i t else s

/-- The bundle that a logical cluster stands at: where no slot of it has issued, the next that is not all `NOP`. -/
def State.issuePc (s : State) (j i : Nat) : Nat :=
  let x := s.lc j i
  let pc := x.regs.pc.toNat
  if x.slots = 0 then (s.job j).nextBundle i ((imgCode (s.job j).image i).2.1 - pc) pc else pc

/-- The sequencer of H*h*.C*k* issues slot `slot` of its present bundle, which must hold the word `w`; bundles of `NOP`s alone are
passed over first. The operation itself is `f`. -/
def State.issue (s : State) (h k slot : Nat) (w : DWord) (f : Nat → Nat → State → Issued) : State :=
  match s.runner h k with
  | none => s
  | some (j, i) =>
    let x := s.lc j i
    let pc := s.issuePc j i
    let skipped := pc - x.regs.pc.toNat
    let b := (s.job j).bundle i pc
    if b.getD slot 0 ≠ w ∨ w = 0 ∨ x.slots.getLsbD slot
        ∨ ¬((before b slot).filter (fun q => b.getD q 0 != 0)).all (fun q => x.slots.getLsbD q) then s
    else
      match (f j i ((s.modLc j i (fun x => { x with
        bundle := x.bundle + skipped, regs := { x.regs with pc := BitVec.ofNat 14 pc } })).bump h (0x10 + k) 0x80 0 skipped)).split with
      | (s, none) => s
      | (s, some t) => s.slotEnds h k j i slot b t

/-- The trace wait that a cluster begins (R754). -/
def State.lcWaits (s : State) (h k j i : Nat) (w : LcWait) (ekind : BitVec 8) (object : BitVec 16) (detail : BitVec 32) : State :=
  if (s.lc j i).wait = w then s
  else
    (s.modLc j i (fun x => { x with wait := w })).waitBegin h (.cluster k)
      { ekind := ekind, job := BitVec.ofNat 12 j, lc := BitVec.ofNat 10 i, start := s.clk.now, object := object,
        detail := detail, pc := (s.lc j i).regs.pc }

/-- The clock of a hub, in MHz (R641). -/
def State.clkMhz (s : State) (h : Nat) : Nat := 700 + 100 * s.clkStep h

/-- The trace waits of a cluster end; sync waits count in core cycles (R765). -/
def State.lcGoes (s : State) (h k : Nat) (by_ : BitVec 16) : State :=
  let ns := ((s.traceUnit (tkey h (.cluster k))).waits.filter (fun w => w.ekind != 4)).foldl (fun a w => a + (s.clk.now - w.start)) 0
  (s.waitEnd h (.cluster k) (fun _ => true) (some by_)).bump h (0x10 + k) 0x82 0 (ns * s.clkMhz h / 1000)

end Sys2Proof.Machine
end

