-- ==== Sys2Proof/Machine/Operands.lean ====
section
/-! DEFINITION. Operands.lean: the forms of the four slots of a bundle: each slot's word from its operation and operands (R420, R426,
R431, R434), and the elements of a tile row. -/
namespace Sys2Proof.Machine
open Sys2Proof

/-- A word made of fields, each given as its lowest bit and its value. -/
def slotWord (fs : List (Nat × Nat)) : DWord := BitVec.ofNat 64 (fs.foldl (fun a f => a + f.2 * 2 ^ f.1) 0)

/-- A MOVE slot (R420). -/
def moveWord (op stream a sx sem : Nat) (sig : Bool) : DWord :=
  slotWord [(0, op), (8, stream), (11, a), (15, sx), (21, sem), (26, b2n sig)]

/-- A `WLOAD` slot (R426). -/
def wloadWord (tw : Nat) (buf : Bool) (sparse sem : Nat) (sig : Bool) : DWord :=
  slotWord [(0, 1), (8, tw), (29, b2n buf), (30, sparse), (33, sem), (38, b2n sig)]

/-- An `MMA` slot (R426). -/
def mmaWord (ta out init : Nat) (useInit buf zskip : Bool) (sem : Nat) (sig : Bool) : DWord :=
  slotWord [(0, 2), (13, ta), (18, out), (23, init), (28, b2n useInit), (29, b2n buf), (32, b2n zskip), (33, sem), (38, b2n sig)]

/-- A VECTOR slot (R431). -/
def vecWord (op vd va vb vc sx sy t : Nat) (sr : Bool) (g : VSig) : DWord :=
  slotWord [(0, op), (8, vd), (13, va), (18, vb), (23, vc), (28, sx), (34, sy), (40, t), (49, b2n sr), (50, g.sem),
    (55, b2n g.sig)]

/-- A CONTROL slot (R434). -/
def ctlWord (op d a b : Nat) (imm : Word) : DWord := slotWord [(0, op), (8, d), (14, a), (20, b), (32, imm.toNat)]

/-- An immediate, sign-extended. -/
def sext (imm : Word) : DWord := imm.signExtend 64

/-! ### Elements of a row (R386) -/

/-- The codes of `n` elements packed in bytes. -/
def codesOf (fmt n : Nat) (bytes : List Byte) : List Nat :=
  let v := leNat bytes
  let b := fmtBits fmt
  (List.range n).map (fun i => v / 2 ^ (b * i) % 2 ^ b)

/-- The bytes of packed element codes. -/
def packCodes (fmt : Nat) (codes : List Nat) : List Byte :=
  leBytes (rowBytes fmt codes.length) (codes.zipIdx.foldl (fun a c => a + c.1 * 2 ^ (fmtBits fmt * c.2)) 0)

/-- The span of an element row of a tile. -/
def rowSpan (t : BitVec 128) (row cols : Nat) : Span := { lo := tBase t + row * tStride t, len := rowBytes (tFmt t) cols }

/-- The span of the scales of a row of an MX tile. -/
def scaleSpan (t : BitVec 128) (row : Nat) : Span := { lo := tScale t + row * (tCols t / 32), len := tCols t / 32 }

/-- The descriptor is one that `VLD` and `VST` can use: a format of R384, whole blocks for an MX format. -/
def tileUsable (t : BitVec 128) : Bool := fmtOk (tFmt t) && (!isMx (tFmt t) || decide (tCols t % 32 = 0))

/-- The FP32 values of elements with their scales. -/
def rowValues (fmt : Nat) (codes scales : List Nat) : List Word :=
  codes.zipIdx.map (fun c => if isMx fmt then mxToF32 fmt c.1 (scales.getD (c.2 / 32) 0) else plainToF32 fmt c.1)

/-- Blocks of 32. -/
def blocks32 (l : List Word) : List (List Word) := (List.range ((l.length + 31) / 32)).map (fun b => (l.drop (32 * b)).take 32)

/-- The element codes and scales that a row of FP32 values stores in a format (R402, R403). -/
def rowCodes (fmt : Nat) (modes : List Rnd) (vs : List Word) : List Nat × List Nat :=
  if fmt = 0 then (vs.map (·.toNat), [])
  else if fmt = 1 then (vs.zipIdx.map (fun v => toBf16 (modes.getD v.2 .nearest) v.1), [])
  else
    let bs := (blocks32 vs).zipIdx.map (fun b => mxBlock fmt (modes.drop (32 * b.2)) b.1)
    (bs.flatMap (·.2), bs.map (·.1))

/-- A zero-map byte over stored codes (R458). -/
def zeroMap (fmt : Nat) (codes : List Nat) : Byte :=
  BitVec.ofNat 8 ((codes.zipIdx.filter (fun c => !elemZero fmt c.1)).foldl (fun a c => a ||| 2 ^ (c.2 / 32)) 0)

end Sys2Proof.Machine
end

