-- ==== Sys2Proof/Machine/TransOps.lean ====
section
/-! DEFINITION. TransOps.lean: translation tables, buffers, walks, fault records and shootdowns (chapter "Engine Address
Translation"), and the progress of the streams. -/
namespace Sys2Proof.Machine
open Sys2Proof

/-! ### The save area (R551, R494, R529) -/

/-- `STACK_SPARE` of a hub. -/
def State.stackSpare (s : State) (h : Nat) : Nat := s.eff.u8 .tiers (8 * h + 3)
/-- `SAVE_AREA` of a hub, in GiB. -/
def State.saveArea (s : State) (h : Nat) : Nat := s.eff.u8 .tiers (8 * h + 4)
/-- The lowest slot of a hub's save area. -/
def State.saveSlot (s : State) (h : Nat) : Nat := 384 - s.stackSpare h - 4 * s.saveArea h
/-- The first page of a hub's save area, as DPA / 4096 (R107). -/
def State.savePage (s : State) (h : Nat) : Nat := (2 ^ 44 + h * 2 ^ 41 + s.saveSlot h * 2 ^ 28) / 4096

/-- The first `n` pages from `p` on that are not in use; `fuel` bounds the search. -/
def freePages (used : List Nat) : Nat → Nat → Nat → List Nat
  | 0, _, _ => []
  | _ + 1, 0, _ => []
  | fuel + 1, n + 1, p => if used.contains p then freePages used fuel (n + 1) (p + 1) else p :: freePages used fuel n (p + 1)

/-! ### Tables (R525–R528) -/

/-- The effective rights of a reference: its own within the class's `RIGHTS_MAX` (R528). -/
def State.refRights (s : State) (r : JRef) : Nat := Nat.land r.rights (s.classRights (s.classOf r.extent))

/-- Retired pages inside an extent, as page numbers within it. -/
def State.retiredIn (s : State) (e : Nat) : List Nat :=
  (s.integ.retired.filter (fun p => p / 65536 == e)).map (· % 65536)

/-- Removes repeats from a list of numbers. -/
def dedup (l : List Nat) : List Nat := l.foldr insNat []

/-- The four references that a 1 GiB leaf covers (R528). -/
def State.gibLeaf (s : State) (refs : List JRef) (g : Nat) : Option JRef :=
  let at_ (k : Nat) : Option JRef := refs.find? (fun r => r.va == g * 2 ^ 30 + k * 2 ^ 28)
  match at_ 0 with
  | some r =>
    if r.extent % 4 = 0 ∧ [0, 1, 2, 3].all (fun k => match at_ k with
      | some x => x.mapped && x.extent == r.extent + k && s.refRights x == s.refRights r && x.hold == r.hold
          && (s.retiredIn x.extent).isEmpty
      | none => false) then some r else none
  | none => none

/-- A leaf entry (R526). -/
def leafEntry (dpa rights : Nat) (hold : Bool) : Nat := 3 + rights * 4 + (if hold then 32 else 0) + dpa

/-- The tables of a job: for each kind of page the ranges it covers, in order, and its entries as page, slot and value. -/
structure TabPlan where
  count : Nat
  entries : List (Nat × Nat × Nat)
deriving DecidableEq, Repr

/-- Lays out the tables of a job (R528). Page 0 is the level-4 table; `addr` gives each page's DPA. -/
def State.planTables (s : State) (refs : List JRef) (addr : Nat → Nat) : TabPlan :=
  let l3 := dedup (refs.map (fun r => r.va / 2 ^ 39))
  let gs := dedup (refs.map (fun r => r.va / 2 ^ 30))
  let l2 := gs.filter (fun g => (s.gibLeaf refs g).isNone)
  let l1 := dedup (refs.flatMap (fun r =>
    if r.mapped then (s.retiredIn r.extent).map (fun p => r.va / 2 ^ 21 + p / 512) else []))
  let p3 (v : Nat) : Nat := 1 + l3.findIdx (· == v)
  let p2 (v : Nat) : Nat := 1 + l3.length + l2.findIdx (· == v)
  let p1 (v : Nat) : Nat := 1 + l3.length + l2.length + l1.findIdx (· == v)
  let e4 := l3.map (fun v => (0, v % 512, 1 + addr (p3 v)))
  let e3 := gs.map (fun g => (p3 (g / 512), g % 512, match s.gibLeaf refs g with
    | some r => leafEntry (r.extent * 2 ^ 28) (s.refRights r) r.hold
    | none => 1 + addr (p2 g)))
  let e2 := refs.flatMap (fun r =>
    if (s.gibLeaf refs (r.va / 2 ^ 30)).isSome ∨ ¬r.mapped then []
    else (List.range 128).map (fun u =>
      let v := r.va / 2 ^ 21 + u
      (p2 (v / 512), v % 512, if l1.contains v then 1 + addr (p1 v)
        else leafEntry (r.extent * 2 ^ 28 + u * 2 ^ 21) (s.refRights r) r.hold)))
  let e1 := refs.flatMap (fun r =>
    if ¬r.mapped then []
    else (List.range 128).flatMap (fun u =>
      let v := r.va / 2 ^ 21 + u
      if l1.contains v then
        ((List.range 512).filter (fun k => !(s.retiredIn r.extent).contains (u * 512 + k))).map (fun k =>
          (p1 v, k, leafEntry (r.extent * 2 ^ 28 + u * 2 ^ 21 + k * 4096) (s.refRights r) r.hold))
      else []))
  { count := 1 + l3.length + l2.length + l1.length, entries := e4 ++ e3 ++ e2 ++ e1 }

/-- Walks in progress of some misses begin again at level 4 (R541). -/
def State.restartWalks (s : State) (hit : Miss → Bool) : State :=
  { s with trn := s.trn.mapVals (fun _ t => { t with
      walks := t.walks.filter (fun w => !hit w.miss),
      misses := t.misses.map (fun m => if hit m then { m with table := none } else m) }) }

/-- Writes one table page: 64 lines of 8 entries. -/
def State.writePage (s : State) (page : Nat) (es : List (Nat × Nat)) : State :=
  (List.range 64).foldl (fun s l =>
    let d : Line := BitVec.ofNat 512 ((es.filter (fun e => e.1 / 8 == l)).foldl (fun a e => a + e.2 * 2 ^ (64 * (e.1 % 8))) 0)
    s.putLine ((page * 4096 % 2 ^ 44) / 64 + l) s.memKey d) s

/-- Firmware writes the tables of a job afresh, taking or giving back pages as the layout needs; none when the save area has
no room (R528, R529). -/
def State.buildTables (s : State) (j : Nat) : Option State :=
  let x := s.job j
  let h := x.saveHub 0
  let n := (s.planTables x.refs (fun _ => 0)).count
  let used := (s.jobs.filter (fun e => e.1 != j)).flatMap (fun e => e.2.pages)
  let keep := x.pages.take n
  let more := freePages (used ++ keep) (used.length + 2 * n + 1) (n - keep.length) (s.savePage h)
  let pages := keep ++ more
  if pages.any (fun p => decide (s.savePage h + 4 * s.saveArea h * 65536 ≤ p)) then none
  else
    let plan := s.planTables x.refs (fun i => pages.getD i 0 * 4096)
    let s := (s.modJob j (fun x => { x with pages := pages })).restartWalks (fun m => m.job == j)
    some (pages.zipIdx.foldl (fun s p =>
      s.writePage p.1 ((plan.entries.filter (fun e => e.1 == p.2)).map (·.2))) s)

/-- Rewrites a job's tables after a change of its references. -/
def State.rebuild (s : State) (j : Nat) : State := (s.buildTables j).getD s

/-! ### Walks (R527, R535, R536) -/

/-- How a walk ends, a leaf with the table that held it, or where it waits: a table read that its home refused for retry (R544). -/
inductive WalkEnd where
  | leaf (shift dpa : Nat) (rights : BitVec 3) (table : Nat)
  | fault (kind level : Nat)
  | held (level : Nat)
  | again (level table : Nat)
deriving DecidableEq, Repr

/-- An entry with `V` = 1 is malformed (R527). -/
def malformed (level : Nat) (e : Nat) : Bool :=
  let leaf := decide (fieldN e 1 1 = 1)
  let a := fieldN e 45 12
  decide (fieldN e 11 6 ≠ 0) || decide (fieldN e 63 46 ≠ 0) || (leaf && decide (level = 4)) || (!leaf && decide (level = 1))
    || (!leaf && decide (fieldN e 4 2 ≠ 0)) || (!leaf && decide (fieldN e 45 44 ≠ 1)) || (leaf && decide (fieldN e 45 44 ≠ 0))
    || (leaf && decide (level = 3) && decide (a % 2 ^ 18 ≠ 0)) || (leaf && decide (level = 2) && decide (a % 2 ^ 9 ≠ 0))

/-- The line of a table that a walk of `va` reads at a level. -/
def tableLine (va level table : Nat) : Nat := (table + va / 2 ^ (12 + 9 * (level - 1)) % 512 * 8) / 64

/-- The home of a table's line takes an engine read of it now (R179, R184, R797). -/
def State.tableReady (s : State) (l : Nat) : Bool := !s.hubResetting (s.homeHub l) && s.lineRoom l

/-- Walks from a table at `level` with engine reads at each line's home (R535); `media` gives the DRAM outcome of each read. -/
def State.walk (va need : Nat) : Nat → Nat → List Medium → State → WalkEnd × State
  | 0, _, _, s => (.fault 5 1, s)
  | level + 1, table, media, s =>
    let idx := va / 2 ^ (12 + 9 * level) % 512
    let l := tableLine va (level + 1) table
    if ¬s.tableReady l then (.again (level + 1) table, s)
    else
    let (r, s) := s.loadLine l (media.headD .clean)
    let e := r.data.toNat / 2 ^ (64 * (idx % 8)) % 2 ^ 64
    if r.poison then (.fault 4 (level + 1), s)
    else if e % 2 = 0 then (.fault 1 (level + 1), s)
    else if malformed (level + 1) e then (.fault 5 (level + 1), s)
    else if fieldN e 5 5 = 1 then (.held (level + 1), s)
    else if fieldN e 1 1 = 1 then
      let rights : BitVec 3 := BitVec.ofNat 3 (fieldN e 4 2)
      if rights.getLsbD need then (.leaf (12 + 9 * level) (fieldN e 45 12 * 4096) rights table, s) else (.fault 2 (level + 1), s)
    else s.walk va need level (fieldN e 45 12 * 4096) (media.drop 1)

/-! ### Buffers (R530, R531) -/

/-- The translation hardware of hub `h`. -/
def State.trnHub (s : State) (h : Nat) : Trn := s.trn.getD h {}
/-- Changes it. -/
def State.modTrn (s : State) (h : Nat) (f : Trn → Trn) : State := { s with trn := s.trn.mod h {} f }

/-- The entry translates an address of a job with the right needed. -/
def TlbEnt.hits (e : TlbEnt) (j va need : Nat) : Bool :=
  e.job == j && va / 2 ^ e.shift == e.vpn && e.rights.getLsbD need

/-- Puts an entry first, in a structure of `n` entries; the least recently used leaves. -/
def tlbPut (n : Nat) (e : TlbEnt) (l : List TlbEnt) : List TlbEnt :=
  (e :: l.filter (fun x => !(x.job == e.job && x.shift == e.shift && x.vpn == e.vpn))).take n

/-- The second-level set of an entry (notes/assumptions/20.md). -/
def tlbSet (vpn : Nat) : Nat := vpn % 1024

/-- Fills the structures above and including the second level for a stream (R530). -/
def Trn.fill (t : Trn) (k q : Nat) (e : TlbEnt) : Trn :=
  { t with
    micro := t.micro.mod (k * 8 + q) [] (tlbPut 8 e), cluster := t.cluster.mod k [] (tlbPut 64 e),
    second := t.second.mod (tlbSet e.vpn) [] (tlbPut 8 e) }

/-- An entry that a stream hits: the structure that holds it takes it as its most recent, and those above are filled (R530). -/
def Trn.touch (t : Trn) (k q : Nat) (e : TlbEnt) : Trn :=
  let micro := t.micro.mod (k * 8 + q) [] (tlbPut 8 e)
  if (t.micro.getD (k * 8 + q) []).contains e then { t with micro := micro }
  else if (t.cluster.getD k []).contains e then { t with micro := micro, cluster := t.cluster.mod k [] (tlbPut 64 e) }
  else t.fill k q e

/-- Looks an address up in the micro-buffer, the cluster buffer and the second level. -/
def Trn.find (t : Trn) (k q j va need : Nat) : Option TlbEnt :=
  ((t.micro.getD (k * 8 + q) []) ++ (t.cluster.getD k []) ++ (t.second.getD (tlbSet (va / 2 ^ 12)) [])
    ++ (t.second.getD (tlbSet (va / 2 ^ 21)) []) ++ (t.second.getD (tlbSet (va / 2 ^ 30)) [])).find? (fun e => e.hits j va need)

/-! ### Streams (R421–R425, R532, R533) -/

/-- A stream descriptor of a logical cluster. -/
def Lc.head (x : Lc) (q : Nat) : Option StreamDesc := (x.streams.getD q []).head?

/-- Changes one segment of a descriptor. -/
def State.modSeg (s : State) (j i q id g : Nat) (f : Seg → Seg) : State :=
  s.modLc j i (fun x => { x with streams := x.streams.mod q [] (fun l => l.map (fun d =>
    if d.id = id then { d with segs := d.segs.zipIdx.map (fun e => if e.2 = g then f e.1 else e.1) } else d)) })

/-- Starts the transfer of a segment whose address is translated (R179, R424). Bytes that R439 leaves undefined are written as free values,
or marked so that they reach staging as such. -/
def State.sendSeg (s : State) (j i q : Nat) (d : StreamDesc) (g : Nat) (x : Seg) (dpa page : Nat) (media : List Medium) : State :=
  let id := s.nextAccess
  let asked := (asksOf dpa x.bytes).map s.askDpa
  let bad := s.foreign j i q
  let (data, s) : List Byte × State :=
    if ¬d.write then ([], s)
    else if d.tainted then let (v, s) := s.draw .hazard; (leBytes x.bytes v, s)
    else s.spoilBytes bad dpa ((s.lc j i).bytesOf { lo := x.stg, len := x.bytes })
  let s := if d.write then s.notePool j i q d.id { lo := dpa, len := x.bytes }
    else s.modJob j (fun y => { y with read := y.read ++ [{ lc := i, stream := q, desc := d.id, span := { lo := dpa, len := x.bytes } }] })
  (s.startLines (.engine 1 j) d.write false asked data 0 0 0 media).modSeg j i q d.id g (fun y =>
    { y with st := .sent id, dpa := dpa, page := page, spoilt := if d.write then [] else bad.filter (fun w => w.meets { lo := dpa, len := x.bytes }) })

/-- The places a stream's misses take in its queue. -/
def Trn.queued (t : Trn) (k q : Nat) : Nat := t.misses.countP (fun m => m.cluster == k && m.stream == q)

/-- A row of a stream, not yet cut into pages. -/
def rowSeg (va bytes stg : Nat) : Seg := { va := va, bytes := bytes, stg := stg }

/-- A miss of a descriptor keeps its segment when another is put in behind segment `g`. -/
def Miss.behind (m : Miss) (j i q id g : Nat) : Miss :=
  if m.job = j ∧ m.lc = i ∧ m.stream = q ∧ m.desc = id ∧ g < m.seg then { m with seg := m.seg + 1 } else m

/-- Segment `g` of a descriptor is cut after `n` bytes; what lies behind is a segment of its own (R532). -/
def State.cutSeg (s : State) (j i h q id g n : Nat) : State :=
  let move := fun (m : Miss) => m.behind j i q id g
  (s.modLc j i (fun x => { x with streams := x.streams.mod q [] (fun l => l.map (fun d =>
    if d.id = id then { d with segs := d.segs.zipIdx.flatMap (fun e =>
      if e.2 = g then [{ e.1 with bytes := n }, rowSeg (e.1.va + n) (e.1.bytes - n) (e.1.stg + n)] else [e.1]) } else d)) })).modTrn h
    (fun t => { t with
      misses := t.misses.map move, walks := t.walks.map (fun w => { w with miss := move w.miss }),
      records := t.records.map (fun r => { r with waiters := r.waiters.map move }) })

/-- Pages of 4 KiB that the segments of a descriptor touch: no more parts than these can arise. -/
def StreamDesc.pieces (d : StreamDesc) : Nat := d.segs.foldl (fun a x => a + ((x.va + x.bytes) / 4096 + 1 - x.va / 4096)) 0

/-- A stream goes on with the segments of its head descriptor, from `g` on: those whose translations hit are sent, each up to the end of its
page, the others miss, until the miss queue is full (R532, R533). `media` gives the DRAM outcome of each line that is served at once, and
`fuel` bounds the parts. -/
def State.streamSegs (j i h k q : Nat) (media : List Medium) : Nat → Nat → State → State
  | 0, _, s => s
  | fuel + 1, g, s =>
    match (s.lc j i).head q with
    | none => s
    | some d =>
      match d.segs[g]? with
      | none => s
      | some x =>
        if x.st ≠ .todo then s.streamSegs j i h k q media fuel (g + 1)
        else match (s.trnHub h).find k q j x.va (b2n d.write) with
        | some e =>
          let n := min x.bytes (2 ^ e.shift - x.va % 2 ^ e.shift)
          let s := s.modTrn h (fun t => t.touch k q e)
          let s := if n < x.bytes then s.cutSeg j i h q d.id g n else s
          let dpa := e.dpa + x.va % 2 ^ e.shift
          (s.sendSeg j i q d g { x with bytes := n } dpa e.shift media).streamSegs j i h k q (media.drop (asksOf dpa n).length) fuel (g + 1)
        | none =>
          if (s.trnHub h).queued k q < 4 then
            let m : Miss := { job := j, lc := i, cluster := k, stream := q, desc := d.id, seg := g, va := x.va, write := d.write }
            ((s.modTrn h (fun t => { t with misses := t.misses ++ [m] })).modSeg j i q d.id g (fun y =>
              { y with st := .missed })).streamSegs j i h k q media fuel (g + 1)
          else s

/-- Changes a descriptor of a stream. -/
def State.modDesc (s : State) (j i q id : Nat) (f : StreamDesc → StreamDesc) : State :=
  s.modLc j i (fun x => { x with streams := x.streams.mod q [] (fun l => l.map (fun d => if d.id = id then f d else d)) })

/-- A stream begins its head descriptor: it reads the indices and forms its rows (R422, R532). Indices that a hazard leaves
undefined are free values and make no fault (R440); otherwise a row outside the address space makes the descriptor bad (R423). -/
def State.startDesc (s : State) (j i q : Nat) (d : StreamDesc) : State :=
  if d.kind = 5 then s.modDesc j i q d.id (fun d => { d with started := true })
  else
    let free := d.idxFree || d.idxSpan.any ((s.lc j i).readHazard (imgStaging (s.job j).image) q)
    let (idx, s) : List Nat × State :=
      if d.kind = 3 ∨ d.kind = 4 then
        let (b, s) : List Byte × State :=
          if free then let (v, s) := s.draw .hazard; (leBytes (4 * d.rows) v, s)
          else s.readStg j i q { lo := d.idxAddr, len := 4 * d.rows }
        ((List.range d.rows).map (fun r => bytesAt b (4 * r) 4), s)
      else (List.range d.rows, s)
    let rows := idx.zipIdx.filter (fun r => d.rowOk r.1)
    let segs := rows.map (fun r => rowSeg (d.rowVa r.1) d.rowBytes (d.stg + r.2 * d.stgStride))
    s.modDesc j i q d.id (fun d => { d with
      started := true, segs := segs, free := d.free || free, tainted := d.tainted || free, bad := !d.free && !free && !idx.all d.rowOk })

/-- A stream goes on with its head descriptor. -/
def State.streamGo (s : State) (j i q : Nat) (media : List Medium) : State :=
  match (s.lc j i).place, (s.lc j i).head q with
  | some (h, k), some d =>
    if d.bad then s
    else
      let s := if d.started then s else s.startDesc j i q d
      match (s.lc j i).head q with
      | some d => if d.bad then s else s.streamSegs j i h k q media d.pieces 0
      | none => s
  | _, _ => s

/-! ### Shootdowns (R540–R543) -/

/-- The range of a shootdown covers a page. -/
def Shoot.covers (x : Shoot) (j va : Nat) : Bool :=
  x.job == j && (match x.range with
    | none => true
    | some (base, n) => decide (base ≤ va / 2 ^ 21 ∧ va / 2 ^ 21 < base + n))

/-- The range of a shootdown meets the page of an entry. -/
def Shoot.hitsEnt (x : Shoot) (e : TlbEnt) : Bool :=
  x.job == e.job && (match x.range with
    | none => true
    | some (base, n) =>
      let lo := e.vpn * 2 ^ e.shift / 2 ^ 21
      let hi := (e.vpn * 2 ^ e.shift + 2 ^ e.shift - 1) / 2 ^ 21
      decide (lo < base + n ∧ base ≤ hi))

/-- Transfers of a job that were sent under a removed entry and have not finished; a write has finished once it has its place in its
line's order (R542). -/
def State.sentIn (s : State) (x : Shoot) : List Nat :=
  (s.lcs.filter (fun e => e.1 / 1024 == x.job)).flatMap (fun e => e.2.streams.flatMap (fun q => q.2.flatMap (fun d =>
    d.segs.filterMap (fun g => match g.st with
      | .sent a => if x.hitsEnt { job := x.job, shift := g.page, vpn := g.va / 2 ^ g.page, dpa := 0, rights := 0 } && (match s.accesses.get? a with | some y => !y.write && !y.complete | none => false)
                   then some a else none
      | _ => none))))

/-- A shootdown starts: every hub in service removes the matching entries and begins walks in the range afresh (R541), and `TR_SHOOT` shows
it (R547, R548). -/
def State.shootStart (s : State) (x : Shoot) : State :=
  let drop (l : List TlbEnt) : List TlbEnt := l.filter (fun e => !x.hitsEnt e)
  let s : State := { s with trn := s.trn.mapVals (fun _ t => { t with
    micro := t.micro.mapVals (fun _ l => drop l), cluster := t.cluster.mapVals (fun _ l => drop l),
    second := t.second.mapVals (fun _ l => drop l) }) }
  let s := s.restartWalks (fun m => x.covers m.job m.va)
  { s with shoot := { s.shoot with
      now := some { x with sent := s.sentIn x, hubs := s.serviceHubs.filter (fun h => !s.hubResetting h) }, go := true, job := BitVec.ofNat 12 x.job, scope := x.range.isSome,
      base := match x.range with | some r => BitVec.ofNat 27 r.1 | none => s.shoot.base,
      count := match x.range with | some r => BitVec.ofNat 17 r.2 | none => s.shoot.count } }

/-- Asks for a shootdown; it waits while another is in progress (R544). -/
def State.shootdown (s : State) (x : Shoot) : State :=
  if s.shoot.now.isSome then { s with shoot := { s.shoot with queue := s.shoot.queue ++ [x] } } else s.shootStart x

/-- Shoots down the range of an extent in every resident job that names it, after its references have changed (R543). -/
def State.shootExtent (s : State) (e : Nat) (f : JRef → JRef) : State :=
  s.jobs.foldl (fun s x =>
    match x.2.refs.find? (fun r => r.extent == e) with
    | some r =>
      ((s.modJob x.1 (fun y => { y with refs := y.refs.map (fun r => if r.extent == e then f r else r) })).rebuild x.1).shootdown
        { job := x.1, range := some (r.va / 2 ^ 21, 128) }
    | none => s) s

/-- The job's translations all go (R543). -/
def State.shootJob (s : State) (j : Nat) : State :=
  let s := s.shootdown { job := j }
  { s with trn := s.trn.mapVals (fun _ t => { t with
      misses := t.misses.filter (fun m => m.job != j), walks := t.walks.filter (fun w => w.miss.job != j),
      records := t.records.filter (fun r => r.job != j) }) }

/-- The transfers that the streams of hub `h`'s clusters have sent. -/
def State.hubSent (s : State) (h : Nat) : List Nat :=
  (List.range 14).flatMap (fun k => match (s.clu h k).resident with
    | some (j, i) => (s.lc j i).streams.flatMap (fun q => q.2.flatMap (fun d => d.segs.filterMap (fun g => match g.st with
        | .sent a => some a
        | _ => none)))
    | none => [])

/-- A hub that goes into partial reset takes no further part in a shootdown: its sent transfers count as aborted (R544). -/
def State.shootLeave (s : State) (h : Nat) : State :=
  let gone := s.hubSent h
  { s with shoot := { s.shoot with now := s.shoot.now.map (fun x => { x with
      hubs := x.hubs.filter (· != h), sent := x.sent.filter (fun a => !gone.contains a) }) } }

end Sys2Proof.Machine
end

