-- ==== Sys2Proof/Machine/JobOps.lean ====
section
/-! DEFINITION. JobOps.lean: the shared operations of jobs: completions, the end of a job, gate faults, cluster resets, placement and
save space (chapter "Jobs, Time-Slicing, Launch and Reproducibility"). -/
namespace Sys2Proof.Machine
open Sys2Proof

/-! ### Completions (R491) -/

/-- `JSTATE`. -/
def jstateCode (x : JState) : Nat := x.ctorIdx

/-- The `RESULT` bytes of a job command's completion. -/
def jobResult (jresult j : Nat) (x : Job) : BitVec 128 :=
  BitVec.ofNat 128 (jresult + jstateCode x.state * 2 ^ 8 + j * 2 ^ 16
    + (match x.lastDone with | some n => n | none => 0xFFFFFFFF) * 2 ^ 32 + x.cause * 2 ^ 64 + x.flags.toNat * 2 ^ 72
    + x.faultLc.toNat * 2 ^ 80 + x.trapCode.toNat * 2 ^ 96)

/-- Completes a job command with status OK and its result (R491). -/
def State.jobDone (s : State) (c : JCmd) (jresult j : Nat) : State :=
  s.completeCmd c.queue c.id .ok (jobResult jresult j (s.job j)) 0

/-- Completes a job command that concerns no resident job. -/
def State.jobRefuse (s : State) (c : JCmd) (jresult j : Nat) : State :=
  s.completeCmd c.queue c.id .ok (jobResult jresult j {}) 0

/-! ### Clusters -/

/-- A physical cluster's errors and sequencer state are cleared (R411, R448, R488). -/
def State.clusterClear (s : State) (h k : Nat) : State :=
  s.modClu h k (fun c => { resident := c.resident, stopped := c.stopped, job := c.job })

/-- Firmware resets a physical cluster (R799). -/
def State.clusterReset (s : State) (h k : Nat) : State :=
  let s := s.clusterClear h k
  s.modTrn h (fun t => { t with cluster := t.cluster.erase k, micro := t.micro.keep (fun x => x / 8 != k) })

/-- A logical cluster without any operation in progress. -/
def Lc.idle (x : Lc) : Lc :=
  { x with
    wait := .none, slots := 0, late := none, sReady := [], tReady := [], vReady := [], streams := [], mat := [], wbuf := [], vec := [],
    fetches := [], stored := [], past := [] }

/-- The charge of a cluster is given back (R649). -/
def State.dropCharge (s : State) (h k : Nat) : State :=
  s.modPwr h (fun p => { p with charges := p.charges.filter (fun c => c.cluster != k) })

/-- A logical cluster leaves its physical cluster. -/
def State.vacate (s : State) (j i : Nat) : State :=
  match (s.lc j i).place with
  | some (h, k) =>
    ((s.modClu h k (fun c => { c with resident := none })).dropCharge h k).modLc j i (fun x => { x with place := none })
  | none => s

/-- The logical clusters of a job. -/
def Job.lcs (x : Job) : List Nat := List.range (imgLogical x.image)

/-- Stops a logical cluster at once. -/
def State.stopLc (s : State) (j i : Nat) (reset : Bool) : State :=
  let place := (s.lc j i).place
  let s := (s.modLc j i (fun x => { x.idle with phase := .halted })).vacate j i
  match place with
  | some (h, k) => let s := s.lcGoes h k 0; if reset then s.clusterReset h k else s
  | none => s

/-! ### Pairs packets (R513) -/

/-- Sends a pairs exchange packet to the peer, in the flow between the two parts (R513). -/
def State.sendPair (s : State) (x : Job) (eop step firstLc count extra : Nat) (data : List Byte) : State :=
  let payload : BitVec 160 := BitVec.ofNat 160 (eop + x.pairId.toNat * 2 ^ 8 + step * 2 ^ 40 + firstLc * 2 ^ 64
    + count * 2 ^ 80 + extra * 2 ^ 88 + (s.rsb none).toNat * 2 ^ 152)
  s.sendPkt (0x800 + x.peerDev) 5 4 payload (bytesCells ((data.length + 31) / 32) data)

/-! ### Engine accesses by DPA (R179) -/

/-- Starts an engine access to bytes at a DPA. -/
def State.startDpa (s : State) (unit id dpa bytes : Nat) (write : Bool) (data : List Byte) (media : List Medium) : State :=
  s.startLines (.engine unit id) write false ((asksOf dpa bytes).map s.askDpa) data 0 0 0 media

/-- The bytes that a finished read access delivered, in order. -/
def State.accBytes (s : State) (id : Nat) : List Byte :=
  match s.accesses.get? id with
  | some a => a.bytesRead.map (fun e => e.2.getD 0)
  | none => []

/-- The worst status of an access. -/
def State.accStatus (s : State) (id : Nat) : PStatus :=
  match s.accesses.get? id with
  | some a => worstOf a.statuses
  | none => .failed

/-- The access has finished. -/
def State.accOver (s : State) (id : Nat) : Bool :=
  match s.accesses.get? id with
  | some a => a.complete
  | none => true

/-- Removes accesses from the table. -/
def State.accDrop (s : State) (ids : List Nat) : State := { s with accesses := s.accesses.keep (fun k => !ids.contains k) }

/-- An access that was refused for retry is asked for again: a write for its refused lines, a read whole. One made for a host passes
ingress anew, under the host's map as it then stands (R135, R142). Answers the access that stands in its place. -/
def State.accResend (s : State) (id : Nat) (media : List Medium) : Nat × State :=
  match s.accesses.get? id with
  | none => (id, s)
  | some a =>
    if ¬a.complete ∨ ¬a.pieces.contains .retry then (id, s)
    else
      let ls := if a.write then a.lines.filter (fun l => a.pieces.getD l.piece .ok == .retry) else a.lines
      let bytesOf (l : AccLine) : List Nat := (List.range 64).filter (fun b => l.mask.getLsbD b)
      let step (acc : List AskedLine × List Byte) (l : AccLine) : List AskedLine × List Byte :=
        let bs := bytesOf l
        let ask : LineAsk := { line := if a.host.isSome then l.pool else l.line, first := bs.headD 0, count := bs.length, offset := acc.2.length }
        (acc.1 ++ [match a.host with
            | some h => s.askHost h (if a.write then .write else .read) ask
            | none => s.askDpa ask],
          acc.2 ++ bs.map (fun b => lineByte l.data b))
      let (asked, data) := ls.foldl step ([], [])
      let nid := s.nextAccess
      (nid, ({ s with accesses := s.accesses.erase id } : State).startLines a.owner a.write false asked data 0 0 0 media)

/-- Resends what was refused in a list of accesses. -/
def State.accResendAll (s : State) (media : List Medium) : List Nat → List Nat × State
  | [] => ([], s)
  | id :: r =>
    let (n, s) := s.accResend id media
    let (l, s) := s.accResendAll media r
    (n :: l, s)

/-! ### Digests (R493, R505–R507) -/

/-- The bytes of a digest, most significant byte first. -/
def digestBytes (d : BitVec 512) : List Byte := beBytes 64 d.toNat

/-- Node digests of one level of the weight tree. -/
def treeLevel : List (List Byte) → List (List Byte)
  | a :: b :: r => digestBytes (Config.sha512 (1 :: a ++ b)) :: treeLevel r
  | l => l

/-- The root of the tree over the 4 KiB leaves of an extent's bytes (R493). -/
def treeRoot (b : List Byte) : List Byte :=
  let leaves := (List.range 65536).map (fun i => digestBytes (Config.sha512 (0 :: (b.drop (4096 * i)).take 4096)))
  ((List.range 16).foldl (fun l _ => treeLevel l) leaves).headD []

/-- The run image with every `EXTREFS.EXTENT` read as 0 (R505). -/
def portable (b : List Byte) : List Byte :=
  let o := imgSec b 5
  let n := imgExtrefs b
  b.zipIdx.map (fun e => if decide (o ≤ e.2 ∧ e.2 < o + 16 * n ∧ (e.2 - o) % 16 < 2) then 0 else e.1)

/-- The portable program digest (R505). -/
def progDigest (b : List Byte) : List Byte := digestBytes (Config.sha512 ((portable b).drop 0x80))

/-- The roots that WDIGESTS holds, in order. -/
def imgRoots (b : List Byte) : List (Nat × List Byte) :=
  (List.range (imgLen b 8 / 80)).map (fun i =>
    let o := imgSec b 8 + 80 * i
    (bytesAt b o 2, (b.drop (o + 16)).take 64))

/-- A result digest record (R507). -/
def recordBytes (x : Job) : List Byte :=
  (progDigest x.image).take 16 ++ (digestBytes (Config.sha512 ((imgRoots x.image).flatMap (·.2)))).take 16
    ++ leBytes 16 x.inputs.toNat ++ leBytes 8 (imgSeed x.image 0).toNat
    ++ leBytes 4 (match x.lastDone with | some n => n + 1 | none => 0) ++ leBytes 2 x.flags.toNat ++ [1, 0]

/-- Writes the result digest records (R507). -/
def State.writeRecords7 (s : State) (j : Nat) : State :=
  let x := s.job j
  if ¬imgDigest x.image ∨ x.cause = 10 then s
  else (x.refs.filter (fun r => r.role == 3)).foldl (fun s r =>
    let id := s.nextAccess
    (s.startDpa 7 j (r.extent * 2 ^ 28 + 0x0FFFFFC0) 64 true (recordBytes x) []).modJob j (fun y =>
      { y with records := y.records ++ [id] })) s

/-! ### The end of a job (R437, R476, R499, R502, R507, R517) -/

/-- `JRESULT` of a command that waited for a job that has ended. -/
def endResult (x : Job) : Nat := if x.cause = 0 then 0 else 0x14

/-- A cause of a job's end that is a job fault of a logical cluster (R433, R499). -/
def faultOfLc (cause : Nat) : Bool := decide (1 ≤ cause ∧ cause ≤ 3)

/-- What ends with a job's run: its clusters, accesses, gates and walks stop, and the job takes its final state. A job fault resets the
cluster whose logical cluster it ended (R799). -/
def State.stopJob (s : State) (j cause lc trap : Nat) : State :=
  let x := s.job j
  let s := x.lcs.foldl (fun s i => s.stopLc j i (faultOfLc cause && i == lc)) s
  let s := { s with
    accesses := s.accesses.filter (fun a => match a.2.owner with | .engine u id => u == 3 || id != j | _ => true),
    gates := s.gates.keep (fun k => k / 4096 != j),
    trn := s.trn.mapVals (fun _ t => { t with
      misses := t.misses.filter (fun m => m.job != j), walks := t.walks.filter (fun w => w.miss.job != j), records := t.records.filter (fun r => r.job != j) }),
    clus := s.clus.mapVals (fun _ c => if c.job = some j then { c with job := none } else c),
    jobg := { s.jobg with arriving := s.jobg.arriving.mapVals (fun _ a => { a with accepted := a.accepted && a.job != j }) } }
  s.modJob j (fun x => { x with
    state := if cause = 0 then .ended else .faulted, cause := cause, faultLc := BitVec.ofNat 16 lc,
    trapCode := BitVec.ofNat 16 trap, offered := false, comparing := none, gates := {}, spilledIn := [] })

/-- A job's end is told: its records, the pair's message and the trace condition. -/
def State.tellEnd (s : State) (x : Job) (j cause : Nat) : State :=
  let s := s.writeRecords7 j
  let s := if imgPairs x.image ∧ cause ≠ 7 ∧ x.state ≠ .loaded then s.sendPair x 0x12 0 0 0 cause [] else s
  if 1 ≤ cause ∧ cause ≤ 8 then s.fireOn 3 else s

/-- The commands that waited on a job that was `x` complete with its result `r`. -/
def State.answerWaits (s : State) (x : Job) (j cause r : Nat) : State :=
  let s := x.waits.foldl (fun s c => s.jobDone c r j) s
  let s := x.aborts.foldl (fun s c => s.jobDone c 0 j) s
  let s := x.ckpts.foldl (fun s c => s.jobDone c.cmd (if cause = 0 then 0x10 else r) j) s
  match x.launch with
  | some l => s.jobDone l.cmd r j
  | none => s

/-- A job ends: its logical clusters stop, its digest records are written, and those who wait for it are told. -/
def State.endJob (s : State) (j cause : Nat) (lc trap : Nat) : State :=
  let x := s.job j
  if x.state ≠ .running ∧ x.state ≠ .held ∧ x.state ≠ .launchPending ∧ x.state ≠ .loaded then s
  else
    let s := (s.stopJob j cause lc trap).tellEnd x j cause
    (s.answerWaits x j cause (endResult (s.job j))).modJob j (fun x => { x with waits := [], aborts := [], ckpts := [], launch := none })

/-- A job whose context has been shot down after its unload, or that a tenancy end unloads, is gone with what it held (R494, R517, R529,
R543). -/
def State.jobGone (s : State) (j : Nat) : State :=
  let x := s.job j
  let s : State := { s with
    jobs := s.jobs.erase j, lcs := s.lcs.keep (fun k => k / 1024 != j), gates := s.gates.keep (fun k => k / 4096 != j) }
  match x.unload with
  | some c => s.jobDone c 0 j
  | none => s

/-- A job fault of a logical cluster (R433): the job ends, the cluster is reset, and `CLU_SEQ_ERR` then shows the fault
(notes/assumptions/30.md). -/
def State.jobFault (s : State) (j i cause trap : Nat) : State :=
  match (s.lc j i).place with
  | some (h, k) =>
    (s.endJob j cause i trap).modClu h k (fun c => match cause with
      | 1 => { c with stream := true }
      | 2 => { c with trap := true, trapCode := BitVec.ofNat 16 trap }
      | _ => { c with superstep := true })
  | none => s.endJob j cause i trap

/-- The slalom record of a hub. -/
def State.slgHub (s : State) (h : Nat) : Slg := s.slg.getD h {}
/-- Changes it. -/
def State.modSlg (s : State) (h : Nat) (f : Slg → Slg) : State := { s with slg := s.slg.mod h {} f }

/-- A gate fault, detected on hub `h` (R476, R487). -/
def State.gateFault (s : State) (h j expert cause : Nat) : State :=
  ((s.modSlg h (fun g => { g with
    faultExpert := BitVec.ofNat 12 expert, faultCause := BitVec.ofNat 4 cause, faultJob := BitVec.ofNat 12 j,
    faultValid := true })).fireOn 5).endJob j 4 0 0

/-! ### Save space and placement (R494–R496) -/

/-- The hubs that can be save hubs. -/
def State.saveCandidates (s : State) : List Nat :=
  s.serviceHubs.filter (fun h => (List.range 14).any (fun k => s.alloc h k != 0))

/-- Entry `n` of GATES (R464). -/
def imgGate (b : List Byte) (n : Nat) : List Byte := (b.drop (imgSec b 9 + 32 * n)).take 32
/-- Bytes of one token's data (R463). -/
def tokenBytes (g : List Byte) : Nat :=
  let f := bytesAt g 1 1 % 16
  let w := bytesAt g 8 1
  w * 32 * fmtBits f + if isMx f then w * 8 else 0

/-- Bytes that a job reserves on a hub for its logical clusters and spill stores (R496). -/
def Job.reserveOn (x : Job) (h : Nat) : Nat :=
  (x.lcs.filter (fun i => x.saveHub i == h)).length * (imgStaging x.image + 65536)
    + ((List.range (imgGates x.image)).drop 1).foldl (fun a n =>
        let g := imgGate x.image n
        let cap := bytesAt g 0x0A 2
        if cap ≠ 0 ∧ x.saveHub (bytesAt g 4 2) = h then a + (cap * (tokenBytes g + 64) + 65535) / 65536 * 65536 else a) 0

/-- Bytes reserved in a hub's save area (R496, R529). -/
def State.savedOn (s : State) (h : Nat) : Nat :=
  s.jobs.foldl (fun a e => a + (if e.2.reserved then e.2.reserveOn h else 0)
    + (if e.2.saveHub 0 = h then 4096 * e.2.pages.length else 0)) 0

/-- A job's reservation fits on every hub. -/
def State.saveRoom (s : State) (x : Job) : Bool :=
  s.serviceHubs.all (fun h => decide (s.savedOn h + x.reserveOn h ≤ s.saveArea h * 2 ^ 30))

end Sys2Proof.Machine
end

