-- ==== Sys2Proof/Machine/QueOps.lean ====
section
/-! DEFINITION. QueOps.lean: the choice and the issue of queue commands (R359–R366). -/
namespace Sys2Proof.Machine
open Sys2Proof

/-- How far back an entry stands in scheduling: green and promoted entries first, then yellow, then red (R366, R370). -/
def RingSlot.rank (r : RingSlot) : Nat :=
  match r.colour with
  | .green => 0
  | .yellow => if r.promoted then 0 else 1
  | .red => 2

/-- Commands in flight in the engine of hub `h`; `JWAIT` takes no place (R359, R490). -/
def State.engineBusy (s : State) (h : Nat) : Nat :=
  (s.queues.filter (fun e => e.1 / 2048 == h)).foldl (fun a e =>
    a + e.2.ring.countP (fun r => r.flying && r.entry.opcode != 0x42)) 0

/-- A candidate: queue, entry and tag. -/
structure Cand where
  queue : Nat
  slot : RingSlot
  tag : BitVec 64
deriving DecidableEq, Repr

/-- The eligible heads of hub `h` that carry a tag, by rising queue number. -/
def State.candidates (s : State) (h : Nat) : List Cand :=
  (s.queues.filter (fun e => e.1 / 2048 == h)).filterMap (fun e =>
    match e.2.head with
    | some r =>
      match r.tag with
      | some t => if s.eligible e.1 r then some { queue := e.1, slot := r, tag := t } else none
      | none => none
    | none => none)

/-- `a` is issued before `b`, which has the lower queue number. -/
def Cand.before (a b : Cand) : Bool :=
  decide (a.slot.rank < b.slot.rank) || (decide (a.slot.rank = b.slot.rank) && tagBefore a.tag b.tag)

/-- The entry that the engine of hub `h` issues next (R363, R366). -/
def State.choice (s : State) (h : Nat) : Option Cand :=
  match s.candidates h with
  | [] => none
  | c :: r => some (r.foldl (fun a b => if b.before a then b else a) c)

/-- With no unissued entry left on hub `h` an idle period starts (R365). -/
def State.queIdle (s : State) (h : Nat) : State :=
  if s.queues.any (fun e => e.1 / 2048 == h && e.2.head.isSome) then s
  else { s with
         queHubs := s.queHubs.mod h {} (fun x => { x with v := 0 }),
         queues := s.queues.mapVals (fun q x => if q / 2048 = h then { x with fprev := 0 } else x) }

/-- The counters of the current command start with its issue (R763, R765). -/
def State.commandCounters (s : State) (q ns : Nat) : State :=
  let at_ (id : Nat) : Nat := cntKey (q / 2048) 0x0B id (q % 2048)
  (s.resetCounters [at_ 0x8A, at_ 0x8B]).bump (q / 2048)
    0x0B 0x8B (q % 2048) ns

/-- The engine takes the entry of candidate `c` at the head of queue `q`: its counters start, its queue pays, and it is in flight
(R359, R362, R364, R365). -/
def State.issuedHead (s : State) (q : Nat) (c : Cand) : State :=
  let x := s.shaperNow q
  let s := s.commandCounters q (s.clk.now - x.eligibleAt)
  let s := s.modQueue q (fun _ => { x with
    bucket := if s.queueRate q = 0 then x.bucket else x.bucket - (subCost c.slot.entry * 1000 : Nat),
    ring := x.ring.map (fun y => if y.id = c.slot.id then { y with issued := true } else y) })
  ({ s with queHubs := s.queHubs.mod (q / 2048) {} (fun y => { y with v := c.tag }) } : State).queIdle (q / 2048)

/-- The engine of the queue's hub issues the head of queue `q`, when that is the entry it chooses, its opcode is `op` and a place
is free; the command's own effect is `f` (R359–R366). -/
def State.issueCmd (s : State) (q op : Nat) (f : RingSlot → State → State) : State :=
  let h := q / 2048
  if s.fatal ∨ (s.hub h).phase ≠ .none then s
  else
    let s := s.tagHeads h
    match s.choice h with
    | none => s
    | some c =>
      if c.queue ≠ q ∨ c.slot.entry.opcode.toNat ≠ op ∨ (op ≠ 0x42 ∧ 256 ≤ s.engineBusy h) then s
      else (f c.slot (s.issuedHead q c)).tagHeads h

end Sys2Proof.Machine
end

