-- ==== Sys2Proof/Machine/Coh.lean ====
section
/-! DEFINITION. Coh.lean: the meanings of the coherence commands: requests, write-backs, answers, dead hosts, reclamation and
bulk packets. -/
namespace Sys2Proof.Machine
open Sys2Proof

/-- The part runs: powered, out of reset and awake enough for its ports to carry packets. -/
def State.live (s : State) : Bool :=
  match s.sys.phase with
  | .starting | .awake | .waking => !s.sys.portsStopped
  | _ => false

/-- A message from fabric host `h` is taken: the part runs and the host is not declared dead (R208). -/
def State.hears (s : State) (h : BitVec 10) : Bool := s.live && !(s.host h.toNat).dead

/-- Pool service is throttled at the hub by whose port the host's arrivals come (R654). -/
def State.throttles (s : State) (h : Nat) : Bool :=
  let p := s.txPort h
  decide (p < 32) && (s.pwrHub (p / 4)).poolThr

/-! ### Tenancy end (R215) -/

/-- Nothing of the requests in flight is left: no transaction, no queued request, no access and no queue entry (R215,
R373). -/
def State.quiet (s : State) : Bool :=
  s.lines.isEmpty && s.accesses.isEmpty && s.queues.all (fun e => e.2.ring.all (·.completed))

/-- The home can place a transaction of its own for line `l`: a queue position, or for an idle line a tracker, is free (R186;
notes/assumptions/56.md). -/
def State.ownRoom (s : State) (l : Nat) : Bool :=
  let hub := (s.order l).hub.toNat
  decide (s.queuedCount hub < 32768) || (s.idleLine l && s.trackerFree hub)

/-- Puts a request of the part's own at the end of a line's order and opens it when the line is idle and a tracker is free; on an idle
line of an untracked class it is served at once (R184, R188). -/
def State.ownReq (s : State) (l : Nat) (r : LineReq) (m : Medium) : State :=
  if r.track ≠ 2 ∧ s.idleLine l then s.serveUntracked l r m
  else
    let o := s.order l
    let s := s.setOrder l { o with queue := o.queue ++ [r] }
    if s.trackerFree o.hub.toNat then s.openHead l m else s

/-- A transaction of the home's own. -/
def State.ownTx (s : State) (l : Nat) (k : ReqKind) (m : Medium) : State := s.ownReq l { kind := k, from_ := .home } m

/-- The lines of every valid directory entry, with their hubs. -/
def State.trackedLines (s : State) : List (Nat × Nat) :=
  s.dir.map (fun e => (e.1 / 2 ^ 23, lineOfWay e.1 e.2))

/-- A request of this kind is open or queued in the order of line `l`. -/
def State.inOrder (s : State) (l : Nat) (k : ReqKind) : Bool :=
  (s.order l).queue.any (fun r => r.kind == k) || (match s.tx l with | some t => t.req.kind == k | none => false)

/-- A line of some extent whose class is in the set. -/
def State.lineIn (s : State) (set : BitVec 16) (l : Nat) : Bool :=
  (s.extents.get? (l / 2 ^ 22)).isSome && set.getLsbD (s.classOf (l / 2 ^ 22))

/-- The homes recall line `l` from everyone: at a tenancy end (R215), for a class that loses tracking (R92), or for a lift's switch
(R574). -/
def State.recallsLine (s : State) (l : Nat) : Bool :=
  s.tenEnd == .recalling || s.lineIn s.si.hold.recalls l
    || (match s.lift.queue with | j :: _ => j.phase == .switching && l / 2 ^ 22 == j.src.toNat | [] => false)

/-- Something is being recalled from everyone. -/
def State.recalling (s : State) : Bool :=
  s.tenEnd == .recalling || s.si.hold.recalls != 0 || (match s.lift.queue with | j :: _ => j.phase == .switching | [] => false)

/-- The homes open the recalls from everyone that they have room for. -/
def State.recallMore (s : State) (m : Medium) : State :=
  if ¬s.recalling then s
  else (s.trackedLines.filter (fun e => s.recallsLine e.2 && !s.inOrder e.2 .recallAll)).foldl (fun s e =>
    if s.ownRoom e.2 then s.ownTx e.2 .recallAll m else s) s

/-- The homes open the requests of kind `k` of their own that they have room for, of a list of lines; the others are left. -/
def State.ownMany (s : State) (k : ReqKind) (m : Medium) : List Nat → List Nat × State
  | [] => ([], s)
  | l :: r =>
    if s.ownRoom l then (s.ownTx l k m).ownMany k m r
    else
      let (left, s) := s.ownMany k m r
      (l :: left, s)

/-- The homes open those recalls or snoops of a withdrawal or narrowing that they have room for; `d` is told which are left. -/
def State.drainMore (s : State) (m : Medium) (d : Drain) : State :=
  let h : BitVec 10 := BitVec.ofNat 10 d.host.toNat
  let k := if d.goal.isSome then ReqKind.narrow h else .recallFor h
  let (left, s) := s.ownMany k m d.todo
  { s with drains := s.drains.map (fun x => if x.host == d.host && x.extent == d.extent then { x with todo := left } else x) }

/-- A read of the lift engines (R179, R573). -/
def LineReq.engineRead (r : LineReq) : Bool := r.kind == .rdNc && r.from_ == .home

/-- A hub that satisfies `p` homes lines of the source or the destination of a lift. -/
def State.liftOn (s : State) (j : LiftJob) (p : Nat → Bool) : Bool :=
  [j.src, j.dest].any (fun e => match s.extents.get? e.toNat with
    | some x => (List.range 8).any (fun h => p h && extentHub (e.toNat, x) h)
    | none => false)

/-- The copy of a lift pauses: the snowplough acts on a hub of it, or the controller of such a hub restarts (R653, R716). -/
def State.liftPaused (s : State) (j : LiftJob) : Bool := s.liftOn j (fun h => (s.pwrHub h).acting || s.hcRestarting h)

/-- Changes the head lift. -/
def State.modLift (s : State) (f : LiftJob → LiftJob) : State :=
  match s.lift.queue with
  | j :: r => { s with lift := { s.lift with queue := f j :: r } }
  | [] => s

/-- The next line of the source of a lift. -/
def LiftJob.line (j : LiftJob) : Nat := j.src.toNat * 2 ^ 22 + j.next

/-- The lift engines read the next line of the source as an engine read, in the line's order (R179, R573); `lost` names the lines that
cannot be read. -/
def State.liftLine (s : State) (j : LiftJob) (lost : List Nat) : State :=
  (s.modLift (fun j => { j with next := j.next + 1 })).ownReq j.line { kind := .rdNc, from_ := .home, track := s.lineTrack j.line }
    (if lost.contains j.next then .uncorrectable false else .clean)

/-- The lift engines read on in ascending offset, at most `n` lines, as long as there is room for a read (R573). -/
def State.liftGo (lost : List Nat) : Nat → State → State
  | 0, s => s
  | n + 1, s =>
    match s.lift.queue with
    | j :: _ => if j.next < 2 ^ 22 ∧ s.ownRoom j.line then State.liftGo lost n (s.liftLine j lost) else s
    | [] => s

/-- The reads of the lift under copy go on, unless the copy pauses. -/
def State.liftReads (s : State) (lost : List Nat) : State :=
  match s.lift.queue with
  | j :: _ => if j.reading ∧ ¬s.fatal ∧ ¬s.liftPaused j then State.liftGo lost (2 ^ 22 - j.next) s else s
  | [] => s

/-- The homes open the recalls, snoops and reads that wait for room. -/
def State.ownMore (s : State) (m : Medium) : State :=
  ((s.drains.filter (fun d => !d.todo.isEmpty)).foldl (fun s d => s.drainMore m d) (s.recallMore m)).liftReads []

/-- Step 3 of the tenancy end: every home recalls every line and the home atomic units release theirs (R215). -/
def State.tenancyRecall (s : State) (m : Medium) : State :=
  let s := s.atom.foldl (fun s e => s.atomRelease e.1) s
  ({ s with tenEnd := .recalling } : State).recallMore m

/-- Once the requests in flight have completed, the tenancy end goes on to its recalls. -/
def State.tenancyProgress (s : State) (m : Medium) : State :=
  if s.tenEnd = .draining ∧ s.quiet then s.tenancyRecall m else s

/-- What follows every command that may have moved a transaction: freed ways serve those who wait for them, the homes open what they have
room for, finished accesses complete, and a tenancy end goes on. -/
def State.cohEnd (s : State) (m : Medium) : State :=
  (((s.settled m).ownMore m).accFlush).tenancyProgress m

/-! ### Coherent requests -/

/-- Holds something at ingress: until the commit point or a lift's switch point (`key` 8), or until a hub returns. -/
def State.hold (s : State) (key : Nat) (x : HeldMsg) : State :=
  { s with heldMsgs := s.heldMsgs.mod key [] (· ++ [x]) }

/-- The tracking value accepts the request (R176). -/
def trackAccepts (op : CohOp) (t : Nat) : Bool :=
  match op with
  | .rdS | .evc => decide (1 ≤ t)
  | .rdX | .upg | .wbM => decide (t = 2)
  | _ => true

/-- The right a request needs (R119, R180). -/
def needOf (m : CohMsg) : Need :=
  match m.op with
  | .rdS | .rdNc => .read
  | .rdX | .upg => if m.atomic then .atomic else .write
  | _ => .write

/-- The request as it stands in a line's order. -/
def reqKind (m : CohMsg) : ReqKind :=
  match m.op with
  | .rdS => .rdS
  | .rdX => .rdX m.atomic
  | .upg => .upg m.atomic
  | .rdNc => .rdNc
  | _ => .wrFull

/-- A request past its meter: ingress, the home's readiness, and admission to the line's order (R111, R119, R176, R184,
R186, R797). -/
def State.homeRequest (s : State) (h : BitVec 10) (m : CohMsg) (med : Medium) : State :=
  match s.ingress h.toNat (m.addr.toNat * 64) (needOf m) (trackAccepts m.op) with
  | (.ok, dpa, w) =>
    let l := dpa / 64
    let hub := s.homeHub l
    if s.hubResetting hub then s.nackRetry h m.tag 15 true
    else if ¬s.lineRoom l then
      let (b, s) := s.freeBackoff
      (s.bump hub 4 0x80 0 1).nackRetry h m.tag b false
    else
      s.takeReq l { kind := reqKind m, from_ := .host h m.tag, addr := m.addr, grantW := w, track := s.lineTrack l, data := m.data.getD 0,
                    mask := BitVec.allOnes 64 } med
  | (st, _, _) => s.reply h m.tag .nack .i st none

/-- The request would cache a line (R92). -/
def cachesLine (op : CohOp) : Bool := op == .rdS || op == .rdX || op == .upg

/-- A coherent request waits at ingress: its line is held, or it would cache a line of a class that loses tracking (R92). -/
def State.heldRequest (s : State) (h : BitVec 10) (m : CohMsg) : Bool :=
  s.heldAtIngress h.toNat (m.addr.toNat * 64) || (cachesLine m.op && s.losesTracking h.toNat (m.addr.toNat * 64))

/-- A coherent request arrives (R169–R176, R368–R370, R809). -/
def State.cohRequest (s : State) (h : BitVec 10) (m : CohMsg) (med : Medium) : State :=
  if ¬s.hears h then s
  else if s.fatal then s.reply h m.tag .nack .i .failed none
  else if s.throttles h.toNat then s.nackRetry h m.tag 4 true
  else
    match s.meterArrive h.toNat 64 with
    | (.red, s) => s.nackRetry h m.tag (s.redBackoff h.toNat 64) true
    | (_, s) =>
      if s.heldRequest h m then s.hold 8 (.coh h m)
      else (s.homeRequest h m med).cohEnd med

/-- `RDS`: a shared read request (R168). -/
def execRds (host : BitVec 10) (tag : BitVec 12) (addr : BitVec 46) (med : Medium) (s : State) : Answer :=
  .next (s.cohRequest host { op := .rdS, tag := tag, addr := addr } med)

/-- `RDX`: a read for ownership, for an atomic operation when `atomic` (R168, R180). -/
def execRdx (host : BitVec 10) (tag : BitVec 12) (addr : BitVec 46) (atomic : Bool) (med : Medium) (s : State) : Answer :=
  .next (s.cohRequest host { op := .rdX, tag := tag, addr := addr, atomic := atomic } med)

/-- `UPG`: an upgrade (R168). -/
def execUpg (host : BitVec 10) (tag : BitVec 12) (addr : BitVec 46) (atomic : Bool) (med : Medium) (s : State) : Answer :=
  .next (s.cohRequest host { op := .upg, tag := tag, addr := addr, atomic := atomic } med)

/-- `RDNC`: a non-caching read (R168). -/
def execRdnc (host : BitVec 10) (tag : BitVec 12) (addr : BitVec 46) (med : Medium) (s : State) : Answer :=
  .next (s.cohRequest host { op := .rdNc, tag := tag, addr := addr } med)

/-- `WRFULL`: a whole-line write (R168). -/
def execWrfull (host : BitVec 10) (tag : BitVec 12) (addr : BitVec 46) (data : Line) (med : Medium) (s : State) : Answer :=
  .next (s.cohRequest host { op := .wrFull, tag := tag, addr := addr, data := some data } med)

/-- `TRANSACTION_OPEN`: the head of the order of DPA line `line` opens (R184); a home in partial reset waits (R797). -/
def execTransactionOpen (line : BitVec 40) (med : Medium) (s : State) : Answer :=
  let l := line.toNat
  let hub := (s.order l).hub.toNat
  .next (if s.live ∧ ¬s.fatal ∧ ¬s.hubResetting hub ∧ s.trackerFree hub then (s.openHead l med).cohEnd med else s)

/-! ### Write-backs and evictions (R202–R205) -/

/-- Writes the data of a write-back or of a snoop answer, or the poison pattern (R171). -/
def State.writeBack (s : State) (l : Nat) (poison : Bool) (data : Line) (med : Medium) : State :=
  if poison then s.storePoison l else s.writeLine l data med

/-- Removes `h` as owner of line `l`. -/
def State.ownerGone (s : State) (hub l h : Nat) : State :=
  match s.dirFind hub l with
  | some (k, e) => if (e.dstate = .e ∨ e.dstate = .o) ∧ e.owner.toNat = h then s.setWay k e.dropOwner else s
  | none => s

/-- Removes `h` as an exact sharer of line `l`; an entry left with nobody is freed once no transaction is open. -/
def State.sharerGone (s : State) (hub l h : Nat) : State :=
  match s.dirFind hub l with
  | some (k, e) =>
    let e' := e.dropSharer h
    if e'.dstate = .s ∧ e'.sharers = 0 ∧ (s.tx l).isNone then { s with dir := s.dir.erase k }
    else if e' = e then s else s.setWay k e'
  | none => s

/-- The entry names `h` as owner. -/
def State.isOwner (s : State) (hub l h : Nat) : Bool :=
  match s.dirFind hub l with
  | some (_, e) => (e.dstate == .e || e.dstate == .o) && e.owner.toNat == h
  | none => false

/-- A write-back performed at once (R168, R204). -/
def State.wbmNow (s : State) (hub l : Nat) (h : BitVec 10) (m : CohMsg) (med : Medium) : State :=
  let s := if s.isOwner hub l h.toNat then (s.writeBack l m.poison (m.data.getD 0) med).ownerGone hub l h.toNat
           else s.sharerGone hub l h.toNat
  s.reply h m.tag .cmp .i .ok none

/-- The open transaction that waited for the requester's own write-back or eviction is served (R205). -/
def State.afterOwn (s : State) (hub l : Nat) (h : BitVec 10) (med : Medium) : State :=
  match s.tx l with
  | some t =>
    let mine : Bool := match t.req.from_ with | .host a _ => a == h | _ => false
    if t.wait = .owner ∧ mine then
      let t' : Tx := { t with wait := .none }
      (s.setTx l (some t')).dispatchTx hub l t' med
    else s
  | none => s

/-- The transaction keeps a write-back of host `h` whose data has been written (R202). -/
def Tx.wrote (t : Tx) (h : BitVec 10) : Bool := t.wb.any (fun w => w.1 == h && w.2.2)

/-- A `WbM` at the home of its line (R202). -/
def State.wbmAt (s : State) (l : Nat) (h : BitVec 10) (m : CohMsg) (med : Medium) : State :=
  let hub := s.homeHub l
  match s.tx l with
  | none => s.wbmNow hub l h m med
  | some t =>
    match t.snoops.find? (fun x => x.host == h) with
    | none => (s.wbmNow hub l h m med).afterOwn hub l h med
    | some x =>
      if x.asOwner ∧ ¬t.wrote h then
        (s.writeBack l m.poison (m.data.getD 0) med).setTx l (some { t with
          wb := t.wb ++ [(h, m.tag, true)],
          wbData := if m.poison then none else m.data, poisoned := t.poisoned || m.poison })
      else s.setTx l (some { t with wb := t.wb ++ [(h, m.tag, false)] })

/-- An `Evc` at the home of its line (R157, R203, R204). -/
def State.evcAt (s : State) (l : Nat) (h : BitVec 10) (m : CohMsg) (med : Medium) : State :=
  let hub := s.homeHub l
  let outstanding := match s.tx l with | some t => t.snoops.any (fun x => x.host == h) | none => false
  let ack (s : State) : State := s.reply h m.tag .ack .i .ok none
  if outstanding then ack s
  else
    let e := match s.dirFind hub l with | some (_, e) => e.dstate | none => .i
    let s := if e = .e then s.ownerGone hub l h.toNat else s.sharerGone hub l h.toNat
    (ack s).afterOwn hub l h med

/-- A `WbM` or `Evc` past the fatal check: it needs only a map entry, present or draining, and is never refused for
retry (R119, R135, R176, R185); a home in partial reset gets it when it returns (R797). -/
def State.ownRelease (s : State) (h : BitVec 10) (m : CohMsg) (med : Medium) : State :=
  let addr := m.addr.toNat * 64
  match (s.mapOf h.toNat).get? (addr / 2 ^ 28) with
  | none => s.reply h m.tag .nack .i .unmapped none
  | some e =>
    let l := (e.extent.toNat * 2 ^ 28 + addr % 2 ^ 28) / 64
    let t := s.track (s.classOf e.extent.toNat)
    if ¬trackAccepts m.op t then s.reply h m.tag .nack .i .illegal none
    else if t ≠ 2 then s.reply h m.tag .ack .i .ok none
    else if s.hubResetting (s.homeHub l) then s.hold (s.homeHub l) (.coh h m)
    else if m.op = .wbM then s.wbmAt l h m med
    else s.evcAt l h m med

/-- `WBM`: a write-back with the whole line (R202, R809). -/
def execWbm (host : BitVec 10) (tag : BitVec 12) (addr : BitVec 46) (poison : Bool) (data : Line) (med : Medium) (s : State) :
    Answer :=
  .next (if ¬s.hears host then s
    else if s.fatal then s.reply host tag .cmp .i .failed none
    else (s.ownRelease host { op := .wbM, tag := tag, addr := addr, poison := poison, data := some data } med).cohEnd med)

/-- `EVC`: an eviction of a clean line (R203, R809). -/
def execEvc (host : BitVec 10) (tag : BitVec 12) (addr : BitVec 46) (med : Medium) (s : State) : Answer :=
  .next (if ¬s.hears host then s
    else if s.fatal then s.reply host tag .ack .i .failed none
    else (s.ownRelease host { op := .evc, tag := tag, addr := addr } med).cohEnd med)

/-! ### Answers to snoops (R162, R170, R171, R810) -/

/-- The line and transaction with a snoop of this tag outstanding to host `h`. -/
def State.findSnoop (s : State) (h : BitVec 10) (htag : BitVec 13) : Option (Nat × Nat × Tx × Snoop) :=
  s.lines.findSome? (fun e => match e.2.tx with
    | some t => (t.snoops.find? (fun x => x.host == h && x.htag == htag)).map (fun x => (e.1, e.2.hub.toNat, t, x))
    | none => none)

/-- The transaction is a recovery round, its own or within another transaction. -/
def Tx.inRecovery (t : Tx) : Bool := t.recovering || (match t.req.kind with | .recover _ => true | _ => false)

/-- `Ack` from a host with `STATE` `st`. An owner whose write-back the transaction keeps is owner no more, and the requester is served from
that data (R202). -/
def State.takeAck (s : State) (hub l : Nat) (t : Tx) (x : Snoop) (st : Moesi) : State :=
  if x.asOwner ∧ t.wrote x.host then (s.setTx l (some { t with fwdFrom := none })).ownerGone hub l x.host.toNat
  else if t.inRecovery ∧ x.op = .snpS then
    s.setTx l (some { t with kept := if st = .s then t.kept ++ [x.host] else t.kept })
  else if ¬x.asOwner then s.setTx l (some t)
  else match x.op, x.mode with
    | .snpS, .wb =>
      let s := s.setTx l (some t)
      match s.dirFind hub l with
      | some (k, e) => s.setWay k e.ownerShares
      | none => s
    | .snpS, .fwd | .snpS, .nc | .snpX, .fwd => s.setTx l (some { t with forwarded := true, ownerKeeps := some st })
    | _, _ => s.setTx l (some t)

/-- `SnpRspI` from host `h`: it holds no copy (R170). -/
def State.takeRspI (s : State) (hub l : Nat) (t : Tx) (x : Snoop) : State :=
  let t : Tx := if x.asOwner then { t with fwdFrom := none } else t
  let s := s.setTx l (some t)
  if x.asOwner then s.ownerGone hub l x.host.toNat else s.sharerGone hub l x.host.toNat

/-- `SnpRspWb` from host `h` with the line (R171, R174, R202, R209). -/
def State.takeRspWb (s : State) (hub l : Nat) (t : Tx) (x : Snoop) (m : CohMsg) (med : Medium) : State :=
  let d := m.data.getD 0
  if t.inRecovery ∧ x.op = .snpS ∧ ¬x.asOwner then
    if m.poison then s.setTx l (some t)
    else
      let s := if t.fwd.isNone then s.writeLine l d med else s
      s.setTx l (some { t with
        fwd := some (t.fwd.getD d), kept := if m.state = .s then t.kept ++ [x.host] else t.kept })
  else
    let again := t.wrote x.host
    let s := if again then s else s.writeBack l m.poison d med
    let t : Tx := { t with
      wbData := if again then t.wbData else if m.poison then none else some d,
      poisoned := t.poisoned || (m.poison && !again), fwdFrom := if x.asOwner then none else t.fwdFrom }
    let s := s.setTx l (some t)
    if x.asOwner then
      if m.state = .s ∧ ¬m.poison ∧ ¬again then
        match s.dirFind hub l with
        | some (k, e) => s.setWay k e.ownerShares
        | none => s
      else s.ownerGone hub l x.host.toNat
    else if m.state = .s then s else s.sharerGone hub l x.host.toNat

/-- A snoop answer at its home. -/
def State.answerAt (s : State) (l hub : Nat) (t : Tx) (x : Snoop) (m : CohMsg) (med : Medium) : State :=
  let t : Tx := { t with snoops := t.snoops.filter (fun y => !(y.host == x.host && y.htag == x.htag)) }
  let s := match m.op with
    | .ack => s.takeAck hub l t x m.state
    | .snpRspI => s.takeRspI hub l t x
    | _ => s.takeRspWb hub l t x m med
  s.advanceTx hub l med

/-- `FwdData` for a transaction of agent 0x7FF (R810). -/
def State.takeFwd (s : State) (h : BitVec 10) (m : CohMsg) (med : Medium) : State :=
  match s.lines.findSome? (fun e => match e.2.tx with
      | some t => if t.fwdFrom = some (h, m.htag) then some (e.1, e.2.hub.toNat, t) else none
      | none => none) with
  | none => s
  | some (l, hub, t) =>
    (s.setTx l (some { t with fwd := some (m.data.getD 0), poisoned := t.poisoned || m.poison })).advanceTx hub l med

/-- The home that an answer concerns. -/
def State.answerHub (s : State) (h : BitVec 10) (m : CohMsg) : Option Nat :=
  match s.findSnoop h m.htag with
  | some (_, hub, _, _) => some hub
  | none => s.lines.findSome? (fun e => match e.2.tx with
      | some t => if t.fwdFrom = some (h, m.htag) then some e.2.hub.toNat else none
      | none => none)

/-- A snoop answer or forwarded data arrives; what matches nothing is discarded (R160; notes/assumptions/87.md), and a home in partial reset gets it
when it returns (R797). -/
def State.cohAnswer (s : State) (h : BitVec 10) (m : CohMsg) (med : Medium) : State :=
  match s.answerHub h m with
  | none => s
  | some hub =>
    if s.hubResetting hub then s.hold hub (.coh h m)
    else if m.op = .fwdData then s.takeFwd h m med
    else match s.findSnoop h m.htag with
      | some (l, hub, t, x) => s.answerAt l hub t x m med
      | none => s

/-- As `cohAnswer`, for a host that is heard; after a fatal fault nothing is written any more (R37, R216). -/
def State.cohAnswerIn (s : State) (h : BitVec 10) (m : CohMsg) (med : Medium) : State :=
  if s.hears h ∧ ¬s.fatal then (s.cohAnswer h m med).cohEnd med else s

/-- `ACK_ANSWER`: a host's `Ack` (R170). -/
def execAckAnswer (host : BitVec 10) (htag : BitVec 13) (state : Moesi) (med : Medium) (s : State) : Answer :=
  .next (s.cohAnswerIn host { op := .ack, htag := htag, state := state } med)

/-- `SNPRSPI`: a host holds no copy (R170). -/
def execSnprspi (host : BitVec 10) (htag : BitVec 13) (med : Medium) (s : State) : Answer :=
  .next (s.cohAnswerIn host { op := .snpRspI, htag := htag } med)

/-- `SNPRSPWB`: a host returns the line (R171, R174). -/
def execSnprspwb (host : BitVec 10) (htag : BitVec 13) (state : Moesi) (poison : Bool) (data : Line) (med : Medium) (s : State) :
    Answer :=
  .next (s.cohAnswerIn host { op := .snpRspWb, htag := htag, state := state, poison := poison, data := some data } med)

/-- `FWDDATA`: an owner's data for a transaction of agent 0x7FF (R810). -/
def execFwddata (host : BitVec 10) (htag : BitVec 13) (poison : Bool) (data : Line) (med : Medium) (s : State) : Answer :=
  .next (s.cohAnswerIn host { op := .fwdData, htag := htag, poison := poison, data := some data } med)

/-- `RETRY_RECORD_EXPIRY`: 100 µs after its last refusal a set's retry record lapses (R199); whoever waits for the way is served afterwards
(notes/assumptions/90.md). -/
def execRetryRecordExpiry (hub : Fin 8) (set : BitVec 19) (s : State) : Answer :=
  .next { s with retry := s.retry.erase (hub * 2 ^ 19 + set.toNat) }

/-- `ORPHAN_TIMEOUT`: the requester's own write-back has not come within `ORPHAN_US` (R205). -/
def execOrphanTimeout (line : BitVec 40) (med : Medium) (s : State) : Answer :=
  let l := line.toNat
  let hub := (s.order l).hub.toNat
  .next (match s.tx l with
    | some t =>
      if t.wait = .owner ∧ ¬s.fatal then
        let t' : Tx := { t with wait := .none, poisoned := true }
        let s := (s.ownerGone hub l t.req.from_.agent.toNat).losePoison hub l t.req.from_.agent.toNat
        ((s.setTx l (some t')).poisonRound hub l t').cohEnd med
      else s
    | none => s)

/-! ### Dead hosts (R206–R213) -/

/-- An owner that will answer no more, within an open transaction (R209): recovered from live sharers or poisoned. -/
def State.ownerDied (s : State) (hub l : Nat) (t : Tx) (d : Nat) : State :=
  match s.dirFind hub l with
  | none => s.setTx l (some t)
  | some (k, e) =>
    let live := (s.sharersOf e l homeAgent).filter (fun h => !t.dropped.contains h)
    let t : Tx := { t with forwarded := false, ownerKeeps := none, fwdFrom := none }
    if e.dstate = .o ∧ ¬live.isEmpty ∧ ¬t.recovering then
      let (xs, s) := s.snoopAll hub l .snpS .wb (BitVec.ofNat 11 d) t.req.from_.tag live
      s.setTx l (some { t with recovering := true, snoops := t.snoops ++ xs, fwd := none, kept := [] })
    else
      let s := ({ s with dir := s.dir.erase k } : State).losePoison hub l d
      s.setTx l (some { t with poisoned := true })

/-- The request comes from host `d`: its own, or a line of a bulk request of it. -/
def State.reqOf (s : State) (d : BitVec 10) (r : LineReq) : Bool :=
  match r.from_ with
  | .host a _ => a == d
  | .access id _ => (match s.accesses.get? id with
    | some x => (match x.owner with | .bulkRead h _ _ _ => h == d | .bulkWrite h _ _ _ => h == d | _ => false)
    | none => false)
  | .home => false

/-- Removes the queued requests of `d` from the order of line `l` without an answer; the lines of its bulk requests among them are left
undone (R208). -/
def State.dropQueued (s : State) (d : BitVec 10) (l : Nat) : State :=
  let o := s.order l
  let s := (o.queue.filter (s.reqOf d)).foldl (fun s r => match r.from_ with
    | .access id i => s.accLine id i 0 false
    | _ => s) s
  s.setOrder l { o with queue := o.queue.filter (fun r => !s.reqOf d r) }

/-- A message of `d` that was accepted earlier and is held for the transaction of line `l`: an answer to it, or a write-back or eviction of
the line (R208, R797). -/
def State.heldAbout (s : State) (d : BitVec 10) (l : Nat) (t : Tx) : Bool :=
  s.heldMsgs.any (fun e => e.2.any (fun x => match x with
    | .coh h m => h == d && (match m.op with
      | .wbM | .evc => (match (s.mapOf d.toNat).get? (m.addr.toNat / 2 ^ 22) with
        | some e => e.extent.toNat * 2 ^ 22 + m.addr.toNat % 2 ^ 22 == l
        | none => false)
      | .ack | .snpRspI | .snpRspWb | .fwdData => t.snoops.any (fun y => y.host == d && y.htag == m.htag) || t.fwdFrom == some (d, m.htag)
      | _ => false)
    | _ => false))

/-- Takes every snoop outstanding to `d` on line `l` as answered, and everything the line's order holds for `d` as R208 and
R211 say. An owner whose `WbM` the home has already taken leaves no data behind to be lost (R202). While a message of `d` that was accepted
earlier is held for the transaction, the transaction waits for it (R208). -/
def State.deadOnLine (s : State) (d : BitVec 10) (m : Medium) (l : Nat) : State :=
  let s := s.dropQueued d l
  let o := s.order l
  match o.tx with
  | none => s
  | some t =>
    let hub := o.hub.toNat
    let mine : Bool := match t.req.from_ with | .host a _ => a == d | _ => false
    if s.heldAbout d l t then s.setTx l (some { t with deadReq := t.deadReq || mine })
    else
    let out := t.snoops.filter (fun x => x.host == d)
    let asOwner := out.any (fun x => x.asOwner) || (match t.fwdFrom with | some (g, _) => g == d && t.fwd.isNone | none => false)
    let taken := t.wrote d
    let waited := t.wait == .owner && mine
    let t : Tx := { t with
      snoops := t.snoops.filter (fun x => x.host != d), wb := t.wb.filter (fun w => w.1 != d), deadReq := t.deadReq || mine,
      wait := if waited then .none else t.wait }
    let s := if asOwner ∧ taken then (s.setTx l (some { t with fwdFrom := none })).ownerGone hub l d.toNat
             else if asOwner then s.ownerDied hub l t d.toNat
             else (out.foldl (fun s x => s.sharerGone hub l x.host.toNat) (s.setTx l (some t)))
    if waited then s.dispatchTx hub l t m
    else if out.isEmpty ∧ ¬asOwner then s else s.advanceTx hub l m

/-- The queues of a host declared dead (R373): unissued entries are discarded, and so are the completions that waited for credit, whose
entries leave the ring. A hub left without an unissued entry is idle (R365). -/
def State.deadQueues (s : State) (d : Nat) : State :=
  s.presentHubs.foldl State.queIdle { s with queues := s.queues.mapVals (fun q x =>
      if s.queueHost q = d then { x with ring := x.ring.filter (fun r => r.issued && !r.completed), held := [], credit := 0 } else x) }

/-- Jobs whose open step a dead source has not closed end with a gate fault (R484), and a token that it had not sent whole is given up. -/
def State.deadSource (s : State) (d : Nat) : State :=
  let s : State := { s with jobg := { s.jobg with arriving := s.jobg.arriving.erase d } }
  s.jobs.foldl (fun s e =>
    let g := (s.job e.1).gates
    if g.open_ ∧ ¬g.closed ∧ (g.accepted.get? d).isSome ∧ (g.closes.get? d).isNone then
      s.gateFault ((s.job e.1).saveHub 0) e.1 0 8
    else s) s

/-- A held message that a declaration of `d` removes: a request of it (R208). -/
def HeldMsg.requestOf (x : HeldMsg) (d : BitVec 10) : Bool :=
  match x with
  | .coh h m => h == d && (match m.op with | .rdS | .rdX | .upg | .rdNc | .wrFull => true | _ => false)
  | .bulkRead h _ _ _ => h == d
  | .bulkWrite h _ _ _ => h == d

/-- The access belongs to a bulk request of host `d`. -/
def Access.bulkOf (a : Access) (d : BitVec 10) : Bool :=
  match a.owner with
  | .bulkRead h _ _ _ => h == d
  | .bulkWrite h _ _ _ => h == d
  | _ => false

/-- Declares fabric host `d` dead (R208–R211). -/
def State.declareDead (s : State) (d : BitVec 10) (m : Medium) : State :=
  if (s.host d.toNat).dead then s
  else
    let s := s.modHost d.toNat (fun x => { x with
      dead := true, allLost := false, waiting := [], reserved := 0, reclaiming := s.presentHubs.filter s.inService })
    let s : State := { s with
      flows := s.flows.keep (fun k => k / 8 != d.toNat),
      zl := s.zl.mapVals (fun _ p => { p with 
        waiting := p.waiting.filter (fun k => k.dst.toNat != d.toNat), parked := p.parked.filter (fun k => k.dst.toNat != d.toNat) }),
      retry := s.retry.filter (fun e => e.2.agent != d.setWidth 11),
      bulkRx := s.bulkRx.keep (fun k => k / 4096 != d.toNat),
      heldMsgs := (s.heldMsgs.mapVals (fun _ l => l.filter (fun x => !x.requestOf d))).filter (fun e => !e.2.isEmpty),
      accesses := s.accesses.mapVals (fun _ a => { a with dead := a.dead || a.bulkOf d }),
      ten := s.ten.dropLink d.toNat,
      cohHubs := s.cohHubs.mapVals (fun _ c => { c with poisonedNow := c.poisonedNow.erase d.toNat }),
      drains := s.drains.map (fun x => if x.host.toNat = d.toNat then { x with reclaimed := true } else x) }
    ((s.lines.map (·.1)).foldl (fun s l => s.deadOnLine d m l) ((s.deadQueues d.toNat).deadSource d.toNat)).cohEnd m

/-- `DEAD_HOST_TIMEOUT`: every path to the host is lost and no packet has come for `TIMEOUT_US` (R206). -/
def execDeadHostTimeout (host : BitVec 10) (med : Medium) (s : State) : Answer :=
  .next (if (s.host host.toNat).allLost ∧ s.coh.autoEn ∧ ¬s.holding ∧ ¬s.fatal then s.declareDead host med else s)

/-- `COH_DEAD_QUERY`: `COH_DEAD_CMD` with `OP` 0 (R218). -/
def State.cohDeadQuery (s : State) (h : BitVec 10) : State := { s with coh := { s.coh with cmdHost := h } }

/-- `COH_DEAD_CMD` with `OP` 1 (R207, R218). -/
def State.cohDeclare (s : State) (h : BitVec 10) (m : Medium) : State :=
  let r : BitVec 2 := if (s.host h.toNat).dead then 3 else 1
  ({ s with coh := { s.coh with cmdHost := h, cmdResult := r } } : State).declareDead h m

/-- A readmitted host begins afresh (R213, R283, R349, R367). -/
def State.readmit (s : State) (h : Nat) : State :=
  { s with
    hosts := s.hosts.erase h, meters := s.meters.erase h,
    queues := s.queues.mapVals (fun q x =>
      if s.queueHost q = h then
        { x with ring := [], held := [], credit := 0, bucket := s.shaperDepth q, bucketAt := s.clk.now, fprev := 0 }
      else x) }

/-- `COH_DEAD_CMD` with `OP` 2 (R213, R218). -/
def State.cohReadmit (s : State) (h : BitVec 10) : State :=
  let x := s.host h.toNat
  let r : BitVec 2 := if ¬x.dead then 3 else if ¬x.reclaiming.isEmpty then 2 else 1
  let s : State := { s with coh := { s.coh with cmdHost := h, cmdResult := r } }
  if r = 1 then s.readmit h.toNat else s

/-- `COH_DEAD_QUERY` (R218). -/
def execCohDeadQuery (host : BitVec 10) (s : State) : Answer := .next (s.cohDeadQuery host)

/-- `DECLARE_DEAD` (R207). -/
def execDeclareDead (host : BitVec 10) (med : Medium) (s : State) : Answer := .next (if s.fatal then s else s.cohDeclare host med)

/-- `READMIT` (R213). -/
def execReadmit (host : BitVec 10) (s : State) : Answer := .next (if s.fatal then s else s.cohReadmit host)

/-- The entry still names host `d` in a way that reclamation must settle (R209). -/
def State.namesDead (_ : State) (e : DirEntry) (d : Nat) : Bool :=
  ((e.dstate == .e || e.dstate == .o) && e.owner.toNat == d) || (!e.coarse && e.exact.contains d)

/-- Hub `hub` still holds something of dead host `d`: a message accepted earlier, an entry that names it, or a recovery round for it. -/
def State.reclaimsStill (s : State) (hub d : Nat) : Bool :=
  (s.heldMsgs.getD hub []).any (fun x => match x with | .coh h _ => h.toNat == d | _ => false) || s.dir.any (fun e => e.1 / 2 ^ 23 == hub && s.namesDead e.2 d)
    || s.lines.any (fun e => e.2.hub.toNat == hub && (match e.2.tx with
      | some t => decide (t.req.kind = .recover (BitVec.ofNat 10 d)) || t.recovering
      | none => false))

/-- Some hubs finish their reclamation for host `d`; with the last one the reclamation record is written (R212). -/
def State.reclaimEnd (s : State) (d : Nat) (hs : List Nat) : State :=
  let left := (s.host d).reclaiming.filter (fun h => !hs.contains h)
  let s : State := { s with cohHubs := hs.foldl (fun c h => c.mod h {} (fun y => { y with reclaimDone := true })) s.cohHubs }
  let s := s.modHost d (fun x => { x with reclaiming := left })
  if left.isEmpty then
    let n := s.cohHubs.foldl (fun a c => a + c.2.poisonedNow.getD d 0) 0
    ({ s with cohHubs := s.cohHubs.mapVals (fun _ c => { c with poisonedNow := c.poisonedNow.erase d }) } : State).logError
      { type := 9, count := BitVec.ofNat 32 n, host := BitVec.ofNat 16 d }
  else s

/-- The dead hosts for which hub `hub` is reclaiming and of which it holds nothing any more. -/
def State.reclaimedOn (s : State) (hub : Nat) : List Nat :=
  (s.hosts.filter (fun x => x.2.reclaiming.contains hub && !s.reclaimsStill hub x.1)).map (·.1)

/-- The walk of hub `hub` reaches the entry of line `l` (R209). -/
def State.reclaimLine (s : State) (hub l : Nat) (m : Medium) : State :=
  match s.dirFind hub l with
  | none => s
  | some (k, e0) =>
    let e := s.clearDead e0
    let s := if e = e0 then s else s.setWay k e
    if (e.dstate = .e ∨ e.dstate = .o) ∧ e.owner.toNat < 1024 ∧ (s.host e.owner.toNat).dead then
      let live := s.sharersOf e l homeAgent
      if e.dstate = .o ∧ ¬live.isEmpty then
        let t : Tx := { req := { kind := .recover (e.owner.setWidth 10), from_ := .home }, openedAt := s.clk.now,
                        wayAt := some k }
        if s.trackerFree hub then ((s.setTx l (some t)).sendRound hub l t none .snpS .wb live).2 else s
      else (({ s with dir := s.dir.erase k } : State).losePoison hub l e.owner.toNat).cohEnd m
    else if e.dstate = .s ∧ e.sharers = 0 then { s with dir := s.dir.erase k }
    else s

/-- `RECLAIM_WALK`: the walk of hub `hub` reaches the entry of DPA line `line` (R209). A step that leaves the hub with nothing of a dead
host ends the hub's reclamation for that host (R212; DESIGN CHOICE, notes/assumptions/59.md). -/
def execReclaimWalk (hub : Fin 8) (line : BitVec 40) (med : Medium) (s : State) : Answer :=
  .next (if s.fatal ∨ (s.tx line.toNat).isSome then s
    else
      let s := s.reclaimLine hub line.toNat med
      (s.reclaimedOn hub).foldl (fun s d => s.reclaimEnd d [hub.val]) s)

/-- `RECLAIM_DONE`: every hub has walked its directory and nothing names the host any more (R212). -/
def execReclaimDone (host : BitVec 10) (s : State) : Answer :=
  let x := s.host host.toNat
  .next (if x.dead ∧ ¬x.reclaiming.isEmpty ∧ x.reclaiming.all (fun h => !s.reclaimsStill h host.toNat) ∧ ¬s.fatal then
      s.reclaimEnd host.toNat x.reclaiming
    else s)

/-- Writing 1 to `COH_RECLAIM.DONE` (R219). -/
def State.clearReclaim (s : State) (hub : Nat) : State :=
  s.modCohHub hub (fun c => { c with reclaimDone := false, poisoned := 0 })

/-- `COH_RECLAIM_DONE_CLEAR` (R219). -/
def execCohReclaimDoneClear (hub : Fin 8) (s : State) : Answer := .next (s.clearReclaim hub)

/-- `TENANCY_RECALL_TIMEOUT`: a host has not answered a tenancy-end `Recall` within `TIMEOUT_US` (R215). -/
def execTenancyRecallTimeout (host : BitVec 10) (med : Medium) (s : State) : Answer :=
  let owes := s.lines.any (fun e => match e.2.tx with
    | some t => decide (t.req.kind = .recallAll) && t.snoops.any (fun x => x.host == host)
    | none => false)
  .next (if s.tenEnd = .recalling ∧ owes ∧ ¬s.holding ∧ ¬s.fatal then s.declareDead host med else s)

/-! ### Bulk packets (R263, R264) -/

/-- The pieces of a request, for a status that all of them share. -/
def State.pieceCount (s : State) (host addr bytes : Nat) : Nat :=
  (pieceKeys ((asksOf addr bytes).map (s.askHost host .read)) []).length

/-- A bulk request refused whole with one status in every piece (R809). -/
def State.bulkFatal (s : State) (h : BitVec 10) (tag : BitVec 12) (addr bytes : Nat) : State :=
  s.bulkDone h tag addr bytes .failed (statusVec (List.replicate (s.pieceCount h.toNat addr bytes) .failed)) false

/-- A bulk request of the wrong length (R263). -/
def State.bulkIllegal (s : State) (h : BitVec 10) (tag : BitVec 12) (addr bytes : Nat) : State :=
  s.bulkDone h tag addr bytes .illegal (statusVec [.illegal]) false

/-- A bulk request refused by the meter (R370). -/
def State.bulkRed (s : State) (h : BitVec 10) (tag : BitVec 12) (addr bytes : Nat) : State :=
  s.bulkDone h tag addr bytes .retry (statusVec [.retry]) true

/-- A bulk read, metered, is divided into pieces and performed (R128, R264). -/
def State.bulkReadNow (s : State) (h : BitVec 10) (tag : BitVec 12) (addr bytes : Nat) (media : List Medium) : State :=
  s.startHost (.bulkRead h tag addr bytes) h.toNat addr bytes false [] media

/-- A bulk write of which every byte has arrived (R264). -/
def State.bulkWriteNow (s : State) (h : BitVec 10) (tag : BitVec 12) (addr : Nat) (data : List Byte) (media : List Medium) :
    State :=
  s.startHost (.bulkWrite h tag addr data.length) h.toNat addr data.length true data media

/-- `BULK_READ_REQUEST` (R263, R264). -/
def execBulkReadRequest (host : BitVec 10) (tag : BitVec 12) (addr : BitVec 52) (bytes : BitVec 16) (media : List Medium)
    (s : State) : Answer :=
  let a := addr.toNat
  let n := bytes.toNat
  .next (if ¬s.hears host then s
    else if s.fatal then s.bulkFatal host tag a n
    else if n < 1 ∨ 4096 < n then s.bulkIllegal host tag a n
    else if s.throttles host.toNat then s.bulkRed host tag a n
    else match s.meterArrive host.toNat n with
      | (.red, s) => s.bulkRed host tag a n
      | (_, s) =>
        if s.heldSpan host.toNat a n then s.hold 8 (.bulkRead host tag a n)
        else (s.bulkReadNow host tag a n media).cohEnd (media.getD 0 .clean))

/-- A packet of a bulk write whose request goes on: its bytes are kept, and with the last one the request is performed. -/
def State.bulkPacket (s : State) (h : BitVec 10) (tag : BitVec 12) (x : BulkRx) (boff : Nat) (data : List Byte)
    (media : List Medium) : State :=
  let key := h.toNat * 4096 + tag.toNat
  let got := data.zipIdx.foldl (fun (g : SMap Byte) e => if boff + e.2 < x.bytes then g.set (boff + e.2) e.1 else g) x.got
  if got.length < x.bytes then { s with bulkRx := s.bulkRx.set key { x with got := got } }
  else
    let s : State := { s with bulkRx := s.bulkRx.erase key }
    if x.discard then (if x.bytes = 0 then { s with bulkRx := s.bulkRx.set key x } else s)
    else if s.heldSpan h.toNat x.addr x.bytes then s.hold 8 (.bulkWrite h tag x.addr (got.map (·.2)))
    else (s.bulkWriteNow h tag x.addr (got.map (·.2)) media).cohEnd (media.getD 0 .clean)

/-- The first packet of a bulk write that is refused: the request's other packets are thrown away (R263). -/
def State.bulkDiscard (s : State) (h : BitVec 10) (tag : BitVec 12) (x : BulkRx) (boff : Nat) (data : List Byte) : State :=
  let x : BulkRx := { x with discard := true }
  if x.bytes = 0 then { s with bulkRx := s.bulkRx.set (h.toNat * 4096 + tag.toNat) x } else s.bulkPacket h tag x boff data []

/-- The packet begins a bulk write: none is under way with the tag, or one is being thrown away whose bytes it would overlap (R264). -/
def State.bulkFirst (s : State) (h : BitVec 10) (tag : BitVec 12) (boff : Nat) : Bool :=
  match s.bulkRx.get? (h.toNat * 4096 + tag.toNat) with
  | none => true
  | some x => x.discard && ((x.got.get? boff).isSome || (x.bytes == 0 && boff == 0))

/-- `BULK_WRITE_DATA`: one packet of a bulk write (R263, R264, R369, R370). -/
def execBulkWriteData (host : BitVec 10) (tag : BitVec 12) (addr : BitVec 52) (bytes boff : BitVec 16) (data : List Byte)
    (media : List Medium) (s : State) : Answer :=
  let a := addr.toNat
  let n := bytes.toNat
  let fresh : BulkRx := { addr := a, bytes := n }
  .next (if ¬s.hears host then s
    else if ¬s.bulkFirst host tag boff.toNat then
      s.bulkPacket host tag (s.bulkRx.getD (host.toNat * 4096 + tag.toNat) fresh) boff.toNat data media
    else if s.fatal then (s.bulkDiscard host tag fresh boff.toNat data).bulkFatal host tag a n
    else if n < 1 ∨ 4096 < n then (s.bulkDiscard host tag fresh boff.toNat data).bulkIllegal host tag a n
    else match (if s.throttles host.toNat then (Colour.red, s) else s.meterArrive host.toNat n) with
      | (.red, s) => (s.bulkDiscard host tag fresh boff.toNat data).bulkRed host tag a n
      | (_, s) => s.bulkPacket host tag fresh boff.toNat data media)

/-! ### What was held is delivered (R797, R92) -/

/-- Delivers one held message; what another hold covers is held again. Of a host declared dead meanwhile, requests go unanswered, and
write-backs, evictions and answers, which were accepted before, are performed (R208). -/
def State.deliver (s : State) (x : HeldMsg) (m : Medium) : State :=
  match x with
  | .coh h msg =>
      match msg.op with
      | .wbM | .evc => (s.ownRelease h msg m).cohEnd m
      | .ack | .snpRspI | .snpRspWb | .fwdData => (s.cohAnswer h msg m).cohEnd m
      | _ =>
        if (s.host h.toNat).dead then s
        else if s.heldRequest h msg then s.hold 8 x else (s.homeRequest h msg m).cohEnd m
  | .bulkRead h tag a n => if (s.host h.toNat).dead then s else if s.heldSpan h.toNat a n then s.hold 8 x else (s.bulkReadNow h tag a n []).cohEnd m
  | .bulkWrite h tag a d => if (s.host h.toNat).dead then s else if s.heldSpan h.toNat a d.length then s.hold 8 x else (s.bulkWriteNow h tag a d []).cohEnd m

/-- The oldest message held under `key` leaves its place. -/
def State.popHeld (s : State) (key : Nat) : State :=
  match s.heldMsgs.getD key [] with
  | _ :: y :: r => { s with heldMsgs := s.heldMsgs.set key (y :: r) }
  | _ => { s with heldMsgs := s.heldMsgs.erase key }

/-- The sender of a held message. -/
def HeldMsg.sender : HeldMsg → BitVec 10
  | .coh h _ => h
  | .bulkRead h _ _ _ => h
  | .bulkWrite h _ _ _ => h

/-- Delivers the oldest message held under `key`; what had waited for a message of a dead host is settled without it then (R208). -/
def State.deliverOne (s : State) (key : Nat) (x : HeldMsg) (m : Medium) : State :=
  let s := (s.popHeld key).deliver x m
  if (s.host x.sender.toNat).dead then ((s.lines.map (·.1)).foldl (fun s l => s.deadOnLine x.sender m l) s).cohEnd m else s

/-- Delivers everything held under `key`, oldest first. -/
def State.deliverHeld (s : State) (key : Nat) (m : Medium) : State :=
  (s.heldMsgs.getD key []).foldl (fun s x => s.deliverOne key x m) s

end Sys2Proof.Machine
end

