-- ==== Sys2Proof/Machine/Pool.lean ====
section
/-! DEFINITION. Pool.lean: the meanings of the carving commands, of withdrawals and of narrowings (chapter "Carving the Pool"). -/
namespace Sys2Proof.Machine
open Sys2Proof

/-! ### Carved extents and their members -/

/-- Hosts that hold an entry for the extent, with the entry's pool base and the entry. -/
def State.members (s : State) (e : Nat) : List (Nat × Nat × MapEntry) :=
  s.maps.filterMap (fun x => (x.2.find? (fun y => y.2.extent.toNat == e)).map (fun y => (x.1, y.1, y.2)))

/-- Members in withdrawal or narrowing. -/
def State.drainingCount (s : State) (e : Nat) : Nat := (s.members e).countP (fun x => x.2.2.mark != .none)

/-- Map entries in use across all hosts (R112). -/
def State.mapUse (s : State) : Nat := s.maps.foldl (fun n x => n + x.2.length) 0

/-- Extents carved in class `c`. -/
def State.classCount (s : State) (c : Nat) : Nat := s.extents.countP (fun x => x.2.cls.toNat == c)

/-- The state of slot `e` (R106). -/
def State.slotState (s : State) (e : Nat) : SlotState := s.slots.getD e .absent

/-- The slot numbers of a tier, on one hub (R105). -/
def tierSlots (tier : Nat) : List Nat :=
  if tier = 0 then List.range 384 else (List.range 4096).map (· + 4096)

/-- The lowest Free slot of the tier on a hub, as an extent number. -/
def State.freeSlot (s : State) (tier hub : Nat) : Option Nat :=
  (s.slots.find? (fun e => e.1 / 8192 == hub && e.2 == .free &&
    (if tier = 0 then decide (e.1 % 8192 < 384) else decide (4096 ≤ e.1 % 8192)))).map (·.1)

/-- An existing fine group holds slot `e`: its hub's slot is Carved as part of a group. -/
def State.groupOf (s : State) (e : Nat) : Option (BitVec 8) :=
  (s.extents.find? (fun x => x.2.fineSet != 0 && x.1 % 8192 == e % 8192 && x.2.fineSet.getLsbD (e / 8192))).map
    (fun x => x.2.fineSet)

/-- The lowest uncarved extent of an existing fine group of the tier (R123). -/
def State.groupExtent (s : State) (tier : Nat) : Option Nat :=
  let mine (e : Nat) := if tier = 0 then decide (e % 8192 < 384) else decide (4096 ≤ e % 8192)
  let open_ := s.extents.flatMap (fun x =>
    if x.2.fineSet ≠ 0 ∧ mine x.1 then
      ((setHubs x.2.fineSet).map (fun h => h * 8192 + x.1 % 8192)).filter (fun e => (s.extents.get? e).isNone)
    else [])
  match open_ with
  | [] => none
  | e :: r => some (r.foldl min e)

/-- The lowest slot that is Free on every hub of `FINE_SET` (R116). -/
def State.newGroup (s : State) (tier : Nat) : Option Nat :=
  match setHubs s.fineSet with
  | [] => none
  | h :: hs =>
    ((s.slots.filter (fun e => e.1 / 8192 == h && e.2 == .free &&
      (if tier = 0 then decide (e.1 % 8192 < 384) else decide (4096 ≤ e.1 % 8192)))).map (·.1)).find?
      (fun e => hs.all (fun k => s.slotState (k * 8192 + e % 8192) == .free))

/-- The extent that `CARVE` takes, with the fine set when it is fine (R123). -/
def State.chooseExtent (s : State) (c : Nat) (hubGiven : Bool) (hub : Nat) : Option (Nat × BitVec 8) :=
  let tier := s.classTier c
  if s.classFine c then
    match s.groupExtent tier with
    | some e => (s.groupOf e).map (fun f => (e, f))
    | none => (s.newGroup tier).map (fun e => (e, s.fineSet))
  else
    let on (h : Nat) : Option (Nat × BitVec 8) := if s.inService h then (s.freeSlot tier h).map (fun e => (e, 0)) else none
    if s.classHome c ≠ 0xFF then on (s.classHome c)
    else if hubGiven then on hub
    else (s.presentHubs.filter s.inService).findSome? on

/-- Carves extent `e` in class `c`: its slot, or every slot of its group, is Carved. -/
def State.carve (s : State) (c e : Nat) (fine : BitVec 8) : State :=
  let own := if fine = 0 then [e] else (setHubs fine).map (fun h => h * 8192 + e % 8192)
  { s with
    extents := s.extents.set e { cls := BitVec.ofNat 4 c, fineSet := fine },
    slots := own.foldl (fun m x => m.set x .carved) s.slots }

/-- Frees extent `e`; the slots of a fine group become Free together, with its last extent (R116). A hub whose last carved deep slot
this was lays its deep tier out afresh (R556). -/
def State.uncarve (s : State) (e : Nat) : State :=
  match s.extents.get? e with
  | none => s
  | some x =>
    let s : State := { s with extents := s.extents.erase e }
    let free (m : SMap SlotState) (k : Nat) : SMap SlotState := if SMap.getD m k .absent = .carved then SMap.set m k .free else m
    let deep (s : State) (h : Nat) : State := if 4096 ≤ e % 8192 ∧ ¬s.deepHeld h then s.relayDeep h else s
    if x.fineSet = 0 then deep { s with slots := free s.slots e } (e / 8192)
    else if (s.groupOf e).isSome then s
    else
      let hs := setHubs x.fineSet
      hs.foldl deep { s with slots := (hs.map (fun h => h * 8192 + e % 8192)).foldl free s.slots }

/-- Fills extent `e` with zeros (R124, R594): whole units of its slots. -/
def State.fillExtent (s : State) (e : Nat) : State :=
  match s.extents.get? e with
  | none => s
  | some x =>
    if x.fineSet = 0 then s.fillSlot e 0 128
    else
      let hs := setHubs x.fineSet
      let k := max 1 hs.length
      let j := hs.findIdx (· == e / 8192)
      hs.foldl (fun s h => s.fillSlot (h * 8192 + e % 8192) (j * (128 / k)) (128 / k)) s

/-- DPA line `l` lies in extent `e`. -/
def inExtent (e l : Nat) : Bool := l / 2 ^ 22 == e

/-- The home atomic units release every line of an extent (R181). -/
def State.atomReleaseExtent (s : State) (e : Nat) : State :=
  (s.atom.filter (fun x => inExtent e x.1)).foldl (fun s x => s.atomRelease x.1) s

/-- Changes the map entry of a host under a pool base. -/
def State.modEntry (s : State) (host base : Nat) (f : MapEntry → MapEntry) : State :=
  { s with maps := s.maps.mod host [] (fun m => match SMap.get? m base with | some e => SMap.set m base (f e) | none => m) }

/-- Removes the map entry of a host under a pool base. -/
def State.dropEntry (s : State) (host base : Nat) : State :=
  let m := (s.mapOf host).erase base
  { s with maps := if m.isEmpty then s.maps.erase host else s.maps.set host m }

/-! ### Performing a carving command (R121–R127, R808) -/

/-- The reserved fields of R122 are zero, and so is every field that the opcode does not use and that R122 calls "otherwise 0"
(notes/assumptions/15.md); `EXTENT` of a `CARVE`, and `FILL` and `HUB_GIVEN` of other opcodes, are not looked at. -/
def carveShapeOk (c : CarveCmd) : Bool :=
  let op := c.opcode.toNat
  let hostOk := if op = 2 ∨ op = 3 ∨ op = 4 then decide (c.host.toNat < 0x500) else c.host == 0
  decide (1 ≤ op ∧ op ≤ 6) && !c.reserved && hostOk
    && (if op = 1 then true else c.cls == 0)
    && (if op = 2 ∨ op = 3 then true else c.rights == 0)
    && (if op = 2 then decide (c.poolBase.toNat % 2 ^ 28 = 0 ∧ c.poolBase.toNat < 2 ^ 52) else c.poolBase == 0)

/-- `HUB` is zero unless the class takes it (R122). -/
def State.carveHubOk (s : State) (c : CarveCmd) : Bool :=
  c.hub == 0 || (c.opcode == 1 && c.hubGiven && !s.classFine c.cls.toNat && s.classHome c.cls.toNat == 0xFF)

/-- A legal code of rights (R117). -/
def rightsLegal (r : BitVec 8) : Bool := r == 1 || r == 3 || r == 7

/-- The epoch counts as open (R680). -/
def State.epochOpen (s : State) : Bool := s.ten.state == .open_ || s.ten.state == .ending || s.ten.state == .resurfacing

/-- The class a command concerns: its own for `CARVE`, the extent's otherwise. -/
def State.carveClass (s : State) (c : CarveCmd) : Nat := if c.opcode = 1 then c.cls.toNat else s.classOf c.extent.toNat

/-- The first reason for refusal that applies, in the order of R808; `0` for none. -/
def State.carveRefusal (s : State) (c : CarveCmd) : Nat :=
  let op := c.opcode.toNat
  let e := c.extent.toNat
  let cls := s.carveClass c
  let carved := (s.extents.get? e).isSome
  let ent := s.entryFor c.host.toNat e
  let draining := match ent with | some m => m.mark != .none | none => false
  let testOnly := s.testOnly cls
  let reasons : List (Bool × Nat) := [
    (!carveShapeOk c || !s.carveHubOk c, 0x0D),
    (decide (op ≠ 6) && s.si.refusedClasses.getLsbD cls && (decide (op = 1) || carved), 0x02),
    (decide (op = 1) && (decide (16 ≤ c.cls.toNat) || !s.classValid cls), 0x03),
    ((decide (op = 3 ∨ op = 4) && ent.isNone) || (decide (op = 2 ∨ op = 5) && !carved), 0x09),
    ((decide (op = 1) && testOnly && s.epochOpen) || (decide (op = 2) && testOnly && s.epochOpen)
      || (decide (op = 2) && !testOnly && s.ten.state != .open_), 0x0C),
    (decide (op = 2 ∨ op = 3) && (!rightsLegal c.rights
      || decide (Nat.land c.rights.toNat (s.classRights cls) ≠ c.rights.toNat)), 0x06),
    ((decide (op = 2 ∨ op = 3 ∨ op = 4) && draining)
      || (decide (op = 5) && (!(s.members e).isEmpty || s.jobNames e || s.lift.queue.any (fun x => x.src.toNat == e))), 0x0A),
    (decide (op = 2) && ent.isSome, 0x08),
    (decide (op = 2) && ((s.mapOf c.host.toNat).get? (c.poolBase.toNat / 2 ^ 28)).isSome, 0x07),
    (decide (op = 2) && (decide (65536 ≤ (s.mapOf c.host.toNat).length) || decide (131072 ≤ s.mapUse)), 0x0B),
    (decide (op = 1) && decide (s.quota cls ≤ s.classCount cls), 0x04),
    (decide (op = 1) && (s.chooseExtent cls c.hubGiven c.hub.toNat).isNone, 0x05)]
  ((reasons.find? (·.1)).map (·.2)).getD 0

/-- The completion of a command, with the extent's members as they stand (R127). `DRAINING` has 8 bits and keeps the count modulo 256; a
`CARVE` that took no extent reports extent 0 (DESIGN CHOICE, notes/assumptions/60.md). -/
def State.carveDone (s : State) (c : CarveCmd) (result e : Nat) : CarveDone :=
  { opcode := c.opcode, result := BitVec.ofNat 8 result, extent := BitVec.ofNat 16 e,
    members := BitVec.ofNat 16 (s.members e).length, draining := BitVec.ofNat 8 (s.drainingCount e),
    state := if c.opcode = 6 then BitVec.ofNat 8 (s.slotState e).ctorIdx else 0,
    poolTime := s.clk.poolTime,
    cls := if c.opcode = 6 then BitVec.ofNat 8 (s.classOf e) else if c.opcode = 1 then c.cls else 0 }

/-- An extent event of a host's entry (R141). -/
def State.entryEvent (s : State) (type status : Nat) (host base e : Nat) (rights : Nat) (session : Option (Nat × BitVec 32))
    (ends : Bool := false) : State :=
  s.extentEvent host session
    { type := BitVec.ofNat 8 type, status := BitVec.ofNat 8 status, extent := BitVec.ofNat 16 e,
      rights := BitVec.ofNat 8 rights, poolBase := BitVec.ofNat 64 (base * 2 ^ 28), poolTime := s.clk.poolTime } ends

/-- The rights in force of an entry apart from a narrowing under way. -/
def State.entryRights (s : State) (m : MapEntry) : Rights := meet m.rights (rightsOf (s.classRights (s.classOf m.extent.toNat)))

/-- `GRANT` (R122, R141). -/
def State.grantDo (s : State) (c : CarveCmd) (ses : Option (Nat × BitVec 32)) : State :=
  let base := c.poolBase.toNat / 2 ^ 28
  let m : MapEntry := { extent := c.extent, rights := rightsOf c.rights.toNat }
  let s : State := { s with maps := s.maps.mod c.host.toNat [] (fun x => SMap.set x base m) }
  s.entryEvent 1 0 c.host.toNat base c.extent.toNat (rightsCode (s.entryRights m)) ses

/-- `RIGHTS` (R142): answers the state and the result. -/
def State.rightsDo (s : State) (c : CarveCmd) (ses : Option (Nat × BitVec 32)) : Nat × State :=
  let h := c.host.toNat
  let e := c.extent.toNat
  match s.baseOf h e, s.entryFor h e with
  | some base, some m =>
    let new := rightsOf c.rights.toNat
    if new = m.rights then (0, s)
    else if rightsCode m.rights < rightsCode new then
      let m' : MapEntry := { m with rights := new }
      let s := s.modEntry h base (fun _ => m')
      (0, s.entryEvent 4 0 h base e (rightsCode (s.entryRights m')) ses)
    else
      let s := ((s.modEntry h base (fun x => { x with mark := .narrowing new })).atomReleaseExtent e).shootExtent e
        (fun r => { r with rights := Nat.land r.rights c.rights.toNat })
      (1, { s with drains := s.drains ++ [{ host := c.host, extent := c.extent, poolBase := BitVec.ofNat 24 base,
                                            goal := some new, session := ses,
                                            reclaimed := decide (h < 1024) && (s.host h).dead }] })
  | _, _ => (9, s)

/-- `WITHDRAW` (R134, R140, R199). -/
def State.withdrawDo (s : State) (c : CarveCmd) (ses : Option (Nat × BitVec 32)) : State :=
  let h := c.host.toNat
  let e := c.extent.toNat
  match s.baseOf h e, s.entryFor h e with
  | some base, some m =>
    let s := ((s.modEntry h base (fun x => { x with mark := .draining })).atomReleaseExtent e).shootExtent e
      (fun r => { r with mapped := false })
    let s : State := { s with
      drains := s.drains ++ [{ host := c.host, extent := c.extent, poolBase := BitVec.ofNat 24 base, session := ses,
                               reclaimed := decide (h < 1024) && (s.host h).dead }],
      retry := s.retry.filter (fun r => !(r.2.agent.toNat == h && r.2.line.toNat / 2 ^ 22 == e)) }
    s.entryEvent 2 0 h base e (rightsCode (s.entryRights m)) ses
  | _, _ => s

/-- Performs a carving command and answers its completion; none while its fill is under way (R124). -/
def State.carveDo (s : State) (w : CarveWait) : Option CarveDone × State :=
  let c := w.cmd
  let e := if c.opcode = 1 then 0 else c.extent.toNat
  let ses := some (w.slot, w.sid)
  match s.carveRefusal c with
  | 0 =>
    match c.opcode.toNat with
    | 1 =>
      match s.chooseExtent c.cls.toNat c.hubGiven c.hub.toNat with
      | none => (some (s.carveDone c 5 0), s)
      | some (e, f) =>
        let s := s.carve c.cls.toNat e f
        if c.fill then (none, { s with carver := { s.carver with filling := some (w, BitVec.ofNat 16 e) } })
        else (some (s.carveDone c 0 e), s)
    | 2 => let s := s.grantDo c ses; (some (s.carveDone c 0 e), s)
    | 3 => let (r, s) := s.rightsDo c ses; (some (s.carveDone c r e), s)
    | 4 => let s := s.withdrawDo c ses; (some (s.carveDone c 1 e), s)
    | 5 => let s := s.uncarve e; (some (s.carveDone c 0 e), s)
    | _ => (some (s.carveDone c 0 e), s)
  | r => (some (s.carveDone c r e), s)

/-- Performs the commands that wait until one starts a fill; each completion goes to its session. -/
def State.carveQueue (s : State) : Nat → State
  | 0 => s
  | n + 1 =>
    match s.carver.filling, s.carver.queue with
    | none, w :: r =>
      match ({ s with carver := { s.carver with queue := r } } : State).carveDo w with
      | (some d, s) => (s.kmpLater w.slot w.sid w.hdr 6 { status := 0, body := .carve d }).carveQueue n
      | (none, s) => s
    | _, _ => s

/-- The fill of the carving command in progress has ended: the command completes, and the next ones are performed. -/
def State.carveFilled (s : State) : State :=
  match s.carver.filling with
  | none => s
  | some (w, e) =>
    let s := ({ s with carver := { s.carver with filling := none } } : State).fillExtent e.toNat
    (s.kmpLater w.slot w.sid w.hdr 6 { status := 0, body := .carve (s.carveDone w.cmd 0 e.toNat) }).carveQueue
      (s.carver.queue.length + 1)

/-- An opcode that names no carving command (R122). -/
def carveReserved (op : BitVec 8) : Bool := op == 0 || decide (6 < op.toNat)

/-- A KMP `CARVE` message with command `op` (R121, R328): its body has 32 bytes, only a session with the carving right is served, one
command at a time. A command whose opcode byte is reserved arrives by any of the rows and is refused as illegal. -/
def State.carveMsg (s : State) (hdr : KmpHdr) (op : BitVec 8) (cmd : CarveCmd) : State :=
  let c := if carveReserved cmd.opcode then cmd else { cmd with opcode := op }
  s.kmpRequest hdr 6 false (fun k x s =>
    if hdr.bodyLen ≠ 32 then (some { status := 4 }, s)
    else if ¬s.mayCarve x then (some { status := 3 }, s)
    else
      let w : CarveWait := { slot := k, sid := x.sid, hdr := hdr, cmd := c }
      if s.carver.filling.isSome then (none, { s with carver := { s.carver with queue := s.carver.queue ++ [w] } })
      else
        let (d, s) := s.carveDo w
        (d.map (fun d => { status := 0, body := .carve d }), s))

/-- `CARVE` (R123, R124). -/
def execCarve (hdr : KmpHdr) (cmd : CarveCmd) (s : State) : Answer := .next (s.carveMsg hdr 1 cmd)
/-- `GRANT` (R122). -/
def execGrant (hdr : KmpHdr) (cmd : CarveCmd) (s : State) : Answer := .next (s.carveMsg hdr 2 cmd)
/-- `RIGHTS` (R142). -/
def execRights (hdr : KmpHdr) (cmd : CarveCmd) (s : State) : Answer := .next (s.carveMsg hdr 3 cmd)
/-- `WITHDRAW` (R134). -/
def execWithdraw (hdr : KmpHdr) (cmd : CarveCmd) (s : State) : Answer := .next (s.carveMsg hdr 4 cmd)
/-- `FREE` (R116, R126). -/
def execFree (hdr : KmpHdr) (cmd : CarveCmd) (s : State) : Answer := .next (s.carveMsg hdr 5 cmd)
/-- `QUERY` (R122). -/
def execQuery (hdr : KmpHdr) (cmd : CarveCmd) (s : State) : Answer := .next (s.carveMsg hdr 6 cmd)

/-! ### Withdrawal and narrowing (R134–R142, R214) -/

/-- The host still has requests in flight on the extent: in a line's order, its own or an engine's on its behalf, or a queue `WRITE` that was checked at its issue and whose data
is being fetched (R136, R137, R354). -/
def State.inFlightOn (s : State) (host e : Nat) : Bool :=
  let byHost (r : LineReq) : Bool := match r.from_ with
    | .host a _ => a.toNat == host
    | .access id _ => (match s.accesses.get? id with | some x => x.host == some host | none => false)
    | .home => false
  s.lines.any (fun o => inExtent e o.1 &&
      (o.2.queue.any byHost || (match o.2.tx with | some t => byHost t.req | none => false)))
    || s.accesses.any (fun a => a.2.fetching && a.2.host == some host
      && a.2.lines.any (fun l => inExtent e l.line && a.2.pieces.getD l.piece .ok == .ok))

/-- The drain of a host's entry for an extent. -/
def State.drainOf (s : State) (host e : Nat) : Option Drain :=
  s.drains.find? (fun d => d.host.toNat == host && d.extent.toNat == e)

/-- Changes the drain of a host's entry for an extent. -/
def State.modDrain (s : State) (host e : Nat) (f : Drain → Drain) : State :=
  { s with drains := s.drains.map (fun d => if d.host.toNat == host && d.extent.toNat == e then f d else d) }

/-- The tracked lines of an extent whose entry satisfies `p`. -/
def State.linesOf (s : State) (e : Nat) (p : DirEntry → Bool) : List Nat :=
  (s.dir.filter (fun x => inExtent e (lineOfWay x.1 x.2) && p x.2)).map (fun x => lineOfWay x.1 x.2)

/-- The home still has a transaction of its own of this kind for a line of the extent, or has still to open one. -/
def State.ownOpen (s : State) (d : Drain) (e : Nat) (k : ReqKind) : Bool :=
  !d.todo.isEmpty || s.lines.any (fun o => inExtent e o.1 &&
    (o.2.queue.any (fun r => r.kind == k) || (match o.2.tx with | some t => t.req.kind == k | none => false)))

/-- A drain goes on to its recalls or snoops of these lines, which the homes open as they have room. -/
def State.drainLines (s : State) (h e : Nat) (ls : List Nat) (m : Medium) : State :=
  (s.modDrain h e (fun d => { d with phase := .recalling, todo := if 1024 ≤ h then [] else ls })).cohEnd m

/-- `WITHDRAWAL_RECALL`: requests in flight have completed, and the homes recall what the host may hold (R137, R138). -/
def execWithdrawalRecall (host extent : BitVec 16) (med : Medium) (s : State) : Answer :=
  let h := host.toNat
  let e := extent.toNat
  .next (match s.drainOf h e with
    | some d =>
      if d.goal.isNone ∧ d.phase = .marked ∧ ¬d.tenancyEnd ∧ ¬s.inFlightOn h e ∧ ¬s.fatal then
        s.drainLines h e (s.linesOf e (fun x => ((x.dstate == .e || x.dstate == .o) && x.owner.toNat == h) || x.possible h)) med
      else s
    | none => s)

/-- The host is dead and an entry of the extent still names it, so that reclamation has not reached it (R214). -/
def State.unreclaimed (s : State) (host e : Nat) : Bool :=
  (s.host host).dead && !(s.linesOf e (fun x => s.namesDead x host)).isEmpty

/-- `WITHDRAWAL_COMPLETE`: the last recall has been answered (R139, R143, R214). -/
def execWithdrawalComplete (host extent : BitVec 16) (s : State) : Answer :=
  let h := host.toNat
  let e := extent.toNat
  .next (match s.drainOf h e with
    | some d =>
      if d.goal.isNone ∧ d.phase = .recalling ∧ ¬d.tenancyEnd ∧ ¬s.ownOpen d e (.recallFor (BitVec.ofNat 10 h))
          ∧ ¬s.unreclaimed h e ∧ ¬s.fatal then
        let base := d.poolBase.toNat
        let s := s.dropEntry h base
        let s : State := { s with drains := s.drains.filter (fun x => !(x.host == host && x.extent == extent)) }
        s.entryEvent 3 (if d.reclaimed then 1 else 0) h base e 0 d.session true
      else s
    | none => s)

/-- `NARROWING_SNOOP`: requests in flight have completed; when W is removed the homes snoop the host's owned lines
(R142). -/
def execNarrowingSnoop (host extent : BitVec 16) (med : Medium) (s : State) : Answer :=
  let h := host.toNat
  let e := extent.toNat
  .next (match s.drainOf h e with
    | some d =>
      match d.goal with
      | some new =>
        if d.phase = .marked ∧ ¬d.tenancyEnd ∧ ¬s.inFlightOn h e ∧ ¬s.fatal then
          s.drainLines h e (if hasW new then [] else s.linesOf e (fun x => (x.dstate == .e || x.dstate == .o) && x.owner.toNat == h)) med
        else s
      | none => s
    | none => s)

/-- `NARROWING_COMPLETE`: the snoops are answered; the entry holds the narrower rights (R142, R214). -/
def execNarrowingComplete (host extent : BitVec 16) (s : State) : Answer :=
  let h := host.toNat
  let e := extent.toNat
  .next (match s.drainOf h e with
    | some d =>
      match d.goal with
      | some new =>
        if d.phase = .recalling ∧ ¬d.tenancyEnd ∧ ¬s.ownOpen d e (.narrow (BitVec.ofNat 10 h)) ∧ ¬s.unreclaimed h e ∧ ¬s.fatal then
          let base := d.poolBase.toNat
          let s := s.modEntry h base (fun x => { x with rights := new, mark := .none })
          let s : State := { s with drains := s.drains.filter (fun x => !(x.host == host && x.extent == extent)) }
          let now := match s.entryFor h e with | some m => rightsCode (s.entryRights m) | none => 0
          s.entryEvent 4 (if d.reclaimed then 1 else 0) h base e now d.session true
        else s
      | none => s
    | none => s)

end Sys2Proof.Machine
end

