-- ==== Sys2Proof/Machine/PwrOps.lean ====
section
/-! DEFINITION. PwrOps.lean: the shared operations of power: the fatal state, the snowplough, the energy ledger and the clock
caps. -/
namespace Sys2Proof.Machine
open Sys2Proof

/-- Sends `GRESULT` packets (R479). -/
def State.sendGresult (s : State) (host : BitVec 10) (gtag : BitVec 12) (st : PStatus) (backoff : BitVec 4) (data : List Byte) :
    State :=
  (List.range (max 1 ((data.length + 255) / 256))).foldl (fun s p =>
    let d := (data.drop (256 * p)).take 256
    s.sendPkt host.toNat 5 4 (BitVec.ofNat 160 (7 + gtag.toNat * 2 ^ 8 + st.ctorIdx * 2 ^ 24 + p * 2 ^ 32 + backoff.toNat * 2 ^ 48
      + (s.rsb (some host.toNat)).toNat * 2 ^ 152)) (bytesCells ((d.length + 31) / 32) d)) s

/-- Sends a `REFUSED` packet (R462). -/
def State.sendRefused (s : State) (src : BitVec 10) (job expert token step part reason : Nat) (backoff : BitVec 4) : State :=
  s.sendPkt src.toNat 5 4 (BitVec.ofNat 160 (3 + job * 2 ^ 8 + expert * 2 ^ 24 + token * 2 ^ 40 + step * 2 ^ 104
    + part * 2 ^ 128 + (reason + 16 * backoff.toNat) * 2 ^ 144 + (s.rsb (some src.toNat)).toNat * 2 ^ 152)) []

/-- Completes a packet that waits for an engine of a held hub (R37, R809); the first packet of each gets the answer. -/
def State.failEngine (s : State) (x : EngineMsg) : State :=
  match x with
  | .token _ src job expert token _ step part _ =>
    if part = 0 then s.sendRefused src job.toNat expert.toNat token.toNat step.toNat 0 4 0 else s
  | .close _ src job _ step => s.sendRefused src job.toNat 0 0 step.toNat 0 4 0
  | .gather _ host gtag _ _ _ _ _ part _ => if part = 0 then s.sendGresult host gtag .failed 0 [] else s
  | .select _ host gtag _ _ _ _ part _ => if part = 0 then s.sendGresult host gtag .failed 0 [] else s

/-- Completes a request of a line's order with status "device failed" (R37, R809). -/
def State.failReq (s : State) (r : LineReq) : State :=
  match r.from_ with
  | .host h tag => s.reply h tag .nack .i .failed none
  | _ => s

/-- Completes an access with status "device failed" (R37, R809). -/
def State.failAccess (s : State) (a : Access) : State :=
  if a.dead then s
  else match a.owner with
  | .bulkRead h tag addr bytes => s.bulkFatal h tag addr bytes
  | .bulkWrite h tag addr bytes => s.bulkFatal h tag addr bytes
  | _ => s

/-- Completes the gathers and selections of a hub's engine with status "device failed" (R809). -/
def State.failGathers (s : State) (h : Nat) : State :=
  let s := (s.slgHub h).gathers.foldl (fun s g => s.sendGresult g.host g.gtag .failed 0 []) s
  s.modSlg h (fun x => { x with gathers := [] })

/-- Completes what a transaction owes with status "device failed": its request, and a write-back kept for it (R37, R202, R809). -/
def State.failTx (s : State) (t : Tx) : State :=
  let s := t.wb.foldl (fun s w => s.reply w.1 w.2.1 .cmp .i .failed none) s
  if t.deadReq then s else s.failReq t.req

/-- The completion of a coherence message in the fatal state; a snoop answer gets none (R809). -/
def State.failCoh (s : State) (h : BitVec 10) (m : CohMsg) : State :=
  match m.op with
  | .rdS | .rdX | .upg | .rdNc | .wrFull => s.reply h m.tag .nack .i .failed none
  | .wbM => s.reply h m.tag .cmp .i .failed none
  | .evc => s.reply h m.tag .ack .i .failed none
  | _ => s

/-- Completes what is held at ingress with status "device failed" (R37, R809). -/
def State.failHeld (s : State) (x : HeldMsg) : State :=
  match x with
  | .coh h m => s.failCoh h m
  | .bulkRead h tag addr bytes => s.bulkFatal h tag addr bytes
  | .bulkWrite h tag addr d => s.bulkFatal h tag addr d.length

/-- Completes a bulk write of which only some packets have arrived with status "device failed"; one refused at its first packet has
been completed (R37, R264, R809). -/
def State.failRx (s : State) (k : Nat) (x : BulkRx) : State :=
  if x.discard then s else s.bulkFatal (BitVec.ofNat 10 (k / 4096)) (BitVec.ofNat 12 k) x.addr x.bytes

/-- Completes everything outstanding with status "device failed" (R37, R809). -/
def State.failAll (s : State) : State :=
  let s := s.lines.foldl (fun s e =>
    let s := match e.2.tx with | some t => s.failTx t | none => s
    e.2.queue.foldl State.failReq s) s
  let s := s.accesses.foldl (fun s e => s.failAccess e.2) s
  let s := s.heldMsgs.foldl (fun s e => e.2.foldl State.failHeld s) s
  let s := s.bulkRx.foldl (fun s e => s.failRx e.1 e.2) s
  let s := s.presentHubs.foldl State.failGathers s
  let s := s.si.heldEngine.foldl State.failEngine { s with si := { s.si with heldEngine := [] } }
  let s := (s.queues.map (·.1)).foldl (fun s q =>
    ((s.queue q).ring.filter (fun r => !r.completed)).foldl (fun s r => s.completeStatus q r.id .failed) s) s
  let waits := (match s.carver.filling with | some (w, _) => [w] | none => []) ++ s.carver.queue
  let s := waits.foldl (fun s w => s.kmpLater w.slot w.sid w.hdr 6 { status := 1 }) s
  { s with lines := [], accesses := [], carver := {}, bulkRx := s.bulkRx.mapVals (fun _ x => { x with discard := true }), heldMsgs := [] }

/-- The package fatal line is asserted (R37): from now on the part is in the fatal state; every cluster stops, every outstanding request
fails, and a partial reset ends (R800). Further causes change nothing. -/
def State.goFatal (s : State) : State :=
  if s.fatal then s
  else
    ({ s with
      sys := { s.sys with fatalAt := some s.clk.now, hrGo := false, hrWaiting := [] },
      hubs := s.presentHubs.foldl (fun m h => m.mod h {} (fun x => { x with fatal := true, phase := .none })) s.hubs } : State).failAll

/-- The code of a cause in `PWR_SNOW_LOG` (R667). -/
def snowCode : SnowCause → BitVec 3
  | .switchOver => 1 | .overCurrent => 2 | .thermal => 3 | .memThermal => 4 | .test => 5

/-- The snowplough acts on one hub (R653). -/
def State.snowHub (s : State) (c : SnowCause) (h : Nat) : State :=
  s.modPwr h (fun p => { p with
    causes := if p.causes.contains c then p.causes else c :: p.causes,
    snowSince := if p.acting then p.snowSince else s.clk.now,
    snowMark := if p.acting then p.snowMark else s.clk.now, snowCap := some 0, duty := 0 })

/-- A trigger of the snowplough on a set of hubs, with its record (R652, R667). -/
def State.snow (s : State) (c : SnowCause) (hs : List Nat) (feed : Bool) : State :=
  match hs with
  | [] => s
  | h :: _ =>
    let s : State := { s with
      pwr := { s.pwr with log := { cause := snowCode c, hub := BitVec.ofNat 3 h, feed := feed, valid := true } } }
    hs.foldl (fun s h => s.snowHub c h) s

/-- A thermal trip, or a memory thermal trip, of a hub (R644). -/
def State.thermalTrip (s : State) (h : Nat) (c : SnowCause) : State :=
  if (s.pwrHub h).causes.contains c then s
  else (s.modPwr h (fun p => { p with trips := satAdd p.trips 1 })).snow c [h] false

/-- The charge of a class at a clock step, in µJ (R648). -/
def chargeUj (eclass step : Nat) : Nat :=
  let f := 700 + 100 * step
  (8 * (eclass + 1) * f + 2099) / 2100

/-- The charges a hub holds, in µJ. -/
def PwrHub.held (p : PwrHub) : Nat := p.charges.foldl (fun a c => a + c.uj) 0

/-- The issue duty in 16ths for held charges and a compute share (R651). -/
def dutyOf (held compute : Nat) : Nat := if compute < held then 16 * compute / held else 16

/-- `HUB_BUDGET_W` of a hub. -/
def State.budgetW (s : State) (h : Nat) : Nat := s.eff.u16 .power (8 + 2 * h)
/-- `POOL_RESERVE_W` of a hub. -/
def State.reserveW (s : State) (h : Nat) : Nat := s.eff.u16 .power (0x18 + 2 * h)

/-- A hub's first state after a start: the first-use cap and the thermal cap at the lowest step (R645, R646). -/
def State.firstUse (s : State) (h : Nat) : State :=
  s.modPwr h (fun p => { p with
    firstUse := true, thermalStep := 0, firstWindow := true, charges := [],
    belowSince := if 0 < s.clkMax then some s.clk.now else none })

/-- Starts or ends the count of R656 on the thermal cap. -/
def State.noteThermalCap (s : State) (h : Nat) : State :=
  s.modPwr h (fun p => { p with
    belowSince := if p.thermalStep < s.clkMax then some (p.belowSince.getD s.clk.now) else none })

end Sys2Proof.Machine
end

