-- ==== Sys2Proof/Machine/Pwr.lean ====
section
/-! DEFINITION. Pwr.lean: the meanings of the power commands apart from deep sleep (chapter "Power, Feeds and Energy-Aware
Scheduling"). -/
namespace Sys2Proof.Machine
open Sys2Proof

/-- A set of hubs exchanges its active and standby sets, or the part is lost for want of a standby feed (R636, R637). -/
def State.switchHubs (s : State) (hs : List Nat) (feed : Bool) : State :=
  if hs.any (fun h => !s.feedOk (!(s.pwrHub h).activeB)) then s.goFatal
  else
    (hs.foldl (fun s h => s.modPwr h (fun p =>
      { p with activeB := !p.activeB, switchovers := satAdd p.switchovers 1 })) s).snow .switchOver hs feed

/-- `SWITCH_OVER`: the feed leaves its limits for 200 ns, or a rail or a set of one hub fails (R635–R637). While the hubs are
held on the B-set the comparator of `FEED_A` is ignored (R639). -/
def execSwitchOver (cause : SwitchCause) (s : State) : Answer :=
  .next (match cause with
    | .feed b =>
      let s' : State := { s with pwr := if b then { s.pwr with feedBOk := false } else { s.pwr with feedAOk := false } }
      if ¬b ∧ s.pwr.holdB then s'
      else s'.switchHubs (s.presentHubs.filter (fun h => (s.pwrHub h).activeB == b)) b
    | .unit h =>
      if s.hubPresent h then s.switchHubs [h.val] (s.pwrHub h).activeB else s)

/-- `A_SET_RETURN`: 250 ms of health have passed (R638); postponed while the snowplough acts or the hubs are held. -/
def execASetReturn (hub : Fin 8) (s : State) : Answer :=
  .next (if s.hubPresent hub ∧ (s.pwrHub hub).activeB ∧ ¬(s.pwrHub hub).acting ∧ ¬s.pwr.holdB ∧ s.pwr.feedAOk then
      s.modPwr hub (fun p => { p with activeB := false })
    else s)

/-- `PWR_CMD` `OP` 1 (R639): refused while `FEED_B` lies outside its limits. -/
def State.holdB (s : State) : State :=
  if s.pwr.feedBOk then
    s.presentHubs.foldl (fun s h => s.modPwr h (fun p => { p with activeB := true }))
      { s with pwr := { s.pwr with holdB := true, cmdResult := 1 } }
  else { s with pwr := { s.pwr with cmdResult := 2 } }

/-- `HOLD_B` (R639). -/
def execHoldB (s : State) : Answer := .next s.holdB

/-- `PWR_CMD` `OP` 2 (R639). -/
def State.releaseHold (s : State) : State := { s with pwr := { s.pwr with holdB := false, cmdResult := 1 } }

/-- `RELEASE_HOLD` (R639). -/
def execReleaseHold (s : State) : Answer := .next s.releaseHold

/-- Notes a feed's current. -/
def State.feedAmps (s : State) (b : Bool) (amps : BitVec 9) : State :=
  { s with pwr := if b then { s.pwr with ampsB := amps } else { s.pwr with ampsA := amps } }

/-- `FEED_LIMIT_A`. -/
def State.feedLimit (s : State) : Nat := s.eff.u8 .power 2

/-- `OVER_CURRENT`: a feed's current, measured in units of 0.5 A, has exceeded `FEED_LIMIT_A` for 1 µs (R640). -/
def execOverCurrent (feedB : Bool) (amps : BitVec 9) (s : State) : Answer :=
  let s := s.feedAmps feedB amps
  .next (if 2 * s.feedLimit < amps.toNat then
      s.snow .overCurrent (s.presentHubs.filter (fun h => (s.pwrHub h).activeB == feedB)) feedB
    else s)

/-- `SENSOR_READ`: the 24 junction sensors of a hub (R642, R644). -/
def execSensorRead (hub : Fin 8) (temps : List (BitVec 8)) (s : State) : Answer :=
  let t := (temps.take 24).foldl (fun a x => if a < x then x else a) (0 : BitVec 8)
  .next (if ¬s.hubPresent hub then s
    else
      let s := s.modPwr hub (fun p => { p with tj := t })
      if 112 ≤ t.toNat then ({ s with pwr := { s.pwr with overTemp := s.pwr.overTemp || !s.fatal } } : State).goFatal
      else if 105 ≤ t.toNat then s.thermalTrip hub .thermal
      else s)

/-- `TJ_TARGET_C`. -/
def State.tjTarget (s : State) : Nat := s.eff.u8 .power 3

/-- `THERMAL_CAP_ADJUST`: every 100 µs the thermal cap moves one step (R643); it does not climb in the 50 ms of R645. -/
def execThermalCapAdjust (hub : Fin 8) (s : State) : Answer :=
  .next (if ¬s.hubPresent hub then s
    else
      let t := (s.pwrHub hub).tj.toNat
      (s.modPwr hub (fun p =>
        if s.tjTarget < t then { p with thermalStep := p.thermalStep - 1 }
        else if t + 3 < s.tjTarget ∧ ¬p.firstUse then { p with thermalStep := min s.clkMax (p.thermalStep + 1) }
        else p)).noteThermalCap hub)

/-- `FIRST_USE_END`: 50 ms after a start the first-use cap lifts (R645). -/
def execFirstUseEnd (hub : Fin 8) (s : State) : Answer :=
  .next (s.modPwr hub (fun p => { p with firstUse := false }))

/-- `LEDGER_WINDOW`: a window of 10 µs begins; `estimate` is the hub's own estimate of its non-compute energy in the window
before, in µJ (R646, R647, R649, R651). -/
def execLedgerWindow (hub : Fin 8) (estimate : Nat) (s : State) : Answer :=
  .next (if ¬s.inService hub then s
    else
      let reserve := 10 * s.reserveW hub
      let step := s.clkStep hub
      s.modPwr hub (fun p =>
        let pool := if p.firstWindow then reserve else max reserve estimate
        let compute := 10 * s.budgetW hub - pool
        let charges := p.charges.map (fun c => { c with uj := chargeUj c.eclass step })
        let held := charges.foldl (fun a c => a + c.uj) 0
        { p with
          firstWindow := false, poolUj := pool, computeUj := compute, charges := charges,
          duty := if p.acting then 0 else dutyOf held compute }))

/-- `SNOWPLOUGH_ESCALATE`: the over-current persists past 5 µs, with the current of the hub's feed as it is then, or the temperature past
100 µs (R654). -/
def execSnowploughEscalate (hub : Fin 8) (amps : BitVec 9) (s : State) : Answer :=
  let p := s.pwrHub hub
  let s := s.feedAmps p.activeB amps
  .next (if (p.causes.contains .overCurrent ∧ 2 * s.feedLimit < amps.toNat) ∨ (p.causes.contains .thermal ∧ 105 ≤ p.tj.toNat) then
      ({ s with pwr := { s.pwr with log := { s.pwr.log with escalated := true } } } : State).modPwr hub
        (fun p => { p with poolThr := true })
    else s)

/-- A cause that clears by what the model is told (R655): a thermal trip by the temperature, a memory trip by R559, an over-current by a
current below 90% of the limit. -/
def State.mayClear (s : State) (h : Nat) (c : SnowCause) (amps : BitVec 9) : Bool :=
  match c with
  | .overCurrent => decide (5 * amps.toNat < 9 * s.feedLimit)
  | .thermal => decide ((s.pwrHub h).tj.toNat + 5 < min s.tjTarget 105)
  | .memThermal => !(List.range 34).any (fun k => (s.chan h k).thermal)
  | _ => true

/-- `SNOWPLOUGH_RELEASE`: a cause has cleared, with the current of the hub's feed over the last 10 µs; with the last cause the hub is
released and its climb begins (R655, R662). -/
def execSnowploughRelease (hub : Fin 8) (cause : SnowCause) (amps : BitVec 9) (s : State) : Answer :=
  let s := s.feedAmps (s.pwrHub hub).activeB amps
  .next (if (s.pwrHub hub).causes.contains cause ∧ s.mayClear hub cause amps then
      let s : State := if (s.pwrHub hub).causes == [cause] then s.bump hub 0x0F 0x81 0 (s.clk.now - (s.pwrHub hub).snowMark) else s
      s.modPwr hub (fun p =>
        let left := p.causes.filter (· != cause)
        if left.isEmpty then
          { p with causes := [], poolThr := false, duty := dutyOf p.held p.computeUj }
        else { p with causes := left })
    else s)

/-- `SNOWPLOUGH_CLIMB`: every 50 µs the snowplough cap rises one step, until it no longer governs (R655). -/
def execSnowploughClimb (hub : Fin 8) (s : State) : Answer :=
  .next (match (s.pwrHub hub).snowCap with
    | some c =>
      if (s.pwrHub hub).acting then s
      else s.modPwr hub (fun p =>
        let others := min (min s.clkMax p.thermalStep) (if p.firstUse then 0 else 14)
        { p with snowCap := if others ≤ c + 1 then none else some (c + 1) })
    | none => s)

/-- `PWR_CMD` `OP` 3 (R652). -/
def State.snowTest (s : State) : State :=
  ({ s with pwr := { s.pwr with cmdResult := 1 } } : State).snow .test s.serviceHubs false

/-- `SNOWPLOUGH_TEST` (R652). -/
def execSnowploughTest (s : State) : Answer := .next s.snowTest

/-- `STANDBY_FEED_FAULT`: a feed that no active set draws on leaves its limits, or (`within`) is within them again; the
part changes nothing else, and the causes follow (R639, R656). -/
def execStandbyFeedFault (feedB within : Bool) (s : State) : Answer :=
  .next { s with pwr := if feedB then { s.pwr with feedBOk := within } else { s.pwr with feedAOk := within } }

end Sys2Proof.Machine
end

