-- ==== Sys2Proof/Machine/Matrix.lean ====
section
/-! DEFINITION. Matrix.lean: the meanings of the matrix operations (R387–R393, R426–R430, R449–R460). -/
namespace Sys2Proof.Machine
open Sys2Proof

/-- Reads tile registers, in order. -/
def State.readTs (s : State) (j i : Nat) : List Nat → List (BitVec 128) × State
  | [] => ([], s)
  | t :: r =>
    let (v, s) := s.readT j i t
    let (l, s) := s.readTs j i r
    (v :: l, s)

/-- The operation's tiles or spans are such that a hazard spoils what it computes (R383, R440). -/
def Lc.matHazard (x : Lc) (staging : Nat) (ts : List (BitVec 128)) (map : List Byte) (o : MatOp) : Bool :=
  !ts.all tileAligned || (o.reads map).any (x.readHazard staging o.unit) || o.writes.any (x.writeHazard o.unit)

/-- The bitmap of the mogul map of a `WLOAD` with `SPARSE` 2 (R454). -/
def Lc.bitmapOf (x : Lc) : MatOp → List Byte
  | .wload t _ sparse => if sparse = 2 then x.bytesOf { lo := tAux t, len := 32 } else []
  | .mma _ _ _ _ _ _ => []

/-- A MATRIX operation joins the unit's queue. -/
def State.queueMat (s : State) (j i : Nat) (m : MatIss) : State :=
  (m.op.writes.foldl (fun s sp => (s.spoilFetch j i sp).modLc j i (fun x => x.taint m.op.unit sp)) s).modLc j i (fun x =>
    { x with mat := x.mat ++ [m] })

/-- Issues a MATRIX operation with the descriptors it captures; the unit holds at most 4 (R430). -/
def State.issueMat (s : State) (c : CluAt) (w : DWord) (sem : Nat) (sig : Bool) (tiles : List Nat)
    (op : List (BitVec 128) → MatOp) : State :=
  s.issue c.hub c.cluster 1 w (fun j i s =>
    if 4 ≤ (s.lc j i).mat.length then .blocked (s.lcWaits c.hub c.cluster j i (.full 1) 4 1 0)
    else
      let (ts, s) := s.readTs j i tiles
      let map := (s.lc j i).bitmapOf (op ts)
      let m : MatIss := {
        op := op ts, bitmap := map, sem := sem, sig := sig,
        tainted := (s.lc j i).matHazard (imgStaging (s.job j).image) ts map (op ts) }
      .done ((s.queueMat j i m).lcGoes c.hub c.cluster 0x10))

/-- `WLOAD` (R426, R427). -/
def execWload (c : CluAt) (tw : Fin 32) (buf : Bool) (sparse : Fin 3) (g : VSig) (s : State) : Answer :=
  .next (s.issueMat c (wloadWord tw buf sparse g.sem g.sig) g.sem g.sig [tw] (fun ts =>
    .wload (ts.getD 0 0) buf (BitVec.ofNat 2 sparse)))

/-- `MMA` (R426, R427). -/
def execMma (c : CluAt) (ta out ti : Fin 32) (useInit buf zskip : Bool) (g : VSig) (s : State) : Answer :=
  .next (s.issueMat c (mmaWord ta out ti useInit buf zskip g.sem g.sig) g.sem g.sig
    (if useInit then [ta, out, ti] else [ta, out]) (fun ts =>
    .mma (ts.getD 0 0) (ts.getD 1 0) (ts.getD 2 0) useInit buf zskip))

/-! ### Errors (R387, R429, R451, R460) -/

/-- Notes an error of the cluster that runs a logical cluster. -/
def State.matErr (s : State) (j i : Nat) (shape format aux metaBad : Bool) : State :=
  match (s.lc j i).place with
  | some (h, k) => s.modClu h k (fun c =>
      { c with shape := c.shape || shape, format := c.format || format, aux := c.aux || aux, metaBad := c.metaBad || metaBad })
  | none => s

/-- The `AUX` of an operation is unusable: 0, unaligned, or its bytes reach the end of staging (R460). -/
def auxBad (t : BitVec 128) (align len : Nat) : Bool :=
  decide (tAux t = 0) || decide (tAux t % align ≠ 0) || decide (stagingTop < tAux t + len)

/-! ### Weight tiles (R427, R449–R455) -/

/-- The shape of a weight tile obeys R427 and R450. -/
def wShapeOk (t : BitVec 128) (sparse : Nat) : Bool :=
  decide (tRows t ≤ 256 ∧ tCols t ≤ 256) && (!isMx (tFmt t) || decide (tCols t % 32 = 0))
    && (sparse != 1 || decide (tCols t % 4 = 0))

/-- The nibble of a group in a metadata row. -/
def nibble (row : List Byte) (g : Nat) : Nat := (row.getD (g / 2) 0).toNat / 16 ^ (g % 2) % 16

/-- A group of four elements expanded from two stored ones (R450, R451). -/
def expandGroup (nib a b : Nat) : List Nat :=
  let p0 := nib % 4
  let p1 := nib / 4
  if p1 ≤ p0 then [0, 0, 0, 0] else [0, 1, 2, 3].map (fun k => if k = p0 then a else if k = p1 then b else 0)

/-- A row expanded from its stored elements and its metadata. -/
def expandRow (kt : Nat) (stored : List Nat) (row : List Byte) : List Nat :=
  (List.range (kt / 4)).flatMap (fun g => expandGroup (nibble row g) (stored.getD (2 * g) 0) (stored.getD (2 * g + 1) 0))

/-- The K-blocks of a row of a tile under a mogul map, each with its elements' span where its sub-tile is marked (R455, R456). -/
def mogulBlocks (map : List Byte) (t : BitVec 128) (n : Nat) : List (Nat × Option Span) :=
  (List.range ((tCols t + 15) / 16)).map (fun c =>
    (min 16 (tCols t - 16 * c), if marked map (n / 16) c then some (blockSpan t n c) else none))

/-- K-blocks of a tile that hold a marked sub-tile (R456). -/
def markedBlocks (map : List Byte) (rows kt : Nat) : Nat :=
  (List.range ((kt + 15) / 16)).countP (fun c => (List.range ((rows + 15) / 16)).any (fun r => marked map r c))

/-- Reads the spans of a list for the matrix unit, in order. -/
def State.readSpans (s : State) (j i : Nat) (l : List Span) : List (List Byte) × State :=
  l.foldl (fun a sp => let (b, s) := a.2.readStg j i unitLoad sp; (a.1 ++ [b], s)) ([], s)

/-- The element codes of a row under a mogul map: those of marked sub-tiles as staging holds them, every other element +0 (R455). -/
def State.mogulRow (s : State) (j i : Nat) (map : List Byte) (t : BitVec 128) (n : Nat) : List Nat × State :=
  (mogulBlocks map t n).foldl (fun a k => match k.2 with
    | some sp => let (b, s) := a.2.readStg j i unitLoad sp; (a.1 ++ codesOf (tFmt t) k.1 b, s)
    | none => (a.1 ++ List.replicate k.1 0, a.2)) ([], s)

/-- The rows of a tile, each formed by `f`. -/
def State.rowsBy (s : State) {α : Type} (f : State → Nat → α × State) (l : List Nat) : List α × State :=
  l.foldl (fun a n => let (x, s) := f a.2 n; (a.1 ++ [x], s)) ([], s)

/-- Row `n` of the metadata of a 2:4 tile. A row that would start within a byte (an odd row of a BF16 tile whose `COLS` is no multiple of 8)
has no stated place: its nibbles are free (R450; notes/assumptions/25.md). -/
def State.metaRow (s : State) (j i : Nat) (t : BitVec 128) (n : Nat) : List Byte × State :=
  let kt := tCols t
  let len := (kt + 7) / 8
  if n * kt % 8 = 0 then s.readStg j i unitLoad { lo := tAux t + n * kt / 8, len := len }
  else let (v, s) := s.draw .choice; (leBytes len v, s)

/-- The expanded weight tile that a `WLOAD` loads, and whether an illegal nibble was met (R449–R456). -/
def State.wloadTile (s : State) (j i : Nat) (t : BitVec 128) (sparse : Nat) : WTile × Bool × State :=
  let kt := tCols t
  let rows := List.range (tRows t)
  let f := tFmt t
  let (map, s) : List Byte × State := if sparse = 2 then s.readStg j i unitLoad { lo := tAux t, len := 32 } else ([], s)
  let stored := if sparse = 1 then kt / 2 else kt
  let (codes, s) := s.rowsBy (fun s n =>
    if sparse = 2 then s.mogulRow j i map t n
    else let (b, s) := s.readStg j i unitLoad (rowSpan t n stored); (codesOf f stored b, s)) rows
  let (sc, s) : List (List Byte) × State := if isMx f then s.readSpans j i (rows.map (scaleSpan t)) else ([], s)
  let (md, s) : List (List Byte) × State := if sparse = 1 then s.rowsBy (fun s n => s.metaRow j i t n) rows else ([], s)
  let bad := md.any (fun r => (List.range (kt / 4)).any (fun g => decide (nibble r g / 4 ≤ nibble r g % 4)))
  ({ fmt := f, rows := tRows t, cols := kt,
     elems := if sparse = 1 then (codes.zip md).map (fun e => expandRow kt e.1 e.2) else codes,
     scales := sc.map (fun r => r.map (·.toNat)),
     fast := decide (sparse = 1 ∨ (sparse = 2 ∧ markedBlocks map (tRows t) kt ≤ 8)) }, bad, s)

/-- A tile whose bytes a hazard has spoilt: free codes in every element and scale (R440). -/
def State.freeTile (s : State) (t : BitVec 128) : WTile × State :=
  let f := tFmt t
  let (v, s) := s.draw .hazard
  let (w, s) := s.draw .hazard
  let row (x n k : Nat) (m : Nat) : List Nat := (List.range k).map (fun e => x / m ^ (n * k + e) % m)
  ({ fmt := f, rows := tRows t, cols := tCols t,
     elems := (List.range (tRows t)).map (fun n => row v n (tCols t) (2 ^ fmtBits f)),
     scales := if isMx f then (List.range (tRows t)).map (fun n => row w n (tCols t / 32) 256) else [] }, s)

/-- A `WLOAD` performs its load (R427, R429, R451, R460). What a hazard leaves undefined is free, and so is then whether the metadata held
an illegal nibble. -/
def State.doWload (s : State) (j i : Nat) (m : MatIss) (t : BitVec 128) (buf : Bool) (sparse : Nat) : State :=
  let shape := !wShapeOk t sparse
  let format := !(isMx (tFmt t) || tFmt t == 1)
  let aux := (sparse == 1 && auxBad t 16 (metaLen t)) || (sparse == 2 && auxBad t 64 64)
  if shape || format || aux then s.matErr j i shape format aux false
  else
    let s := m.spans.foldl (fun s sp => s.noteRange j i sp) s
    let (tile, bad, s) : WTile × Bool × State :=
      if m.tainted then
        let (x, s) := s.freeTile t
        let (v, s) := s.draw .hazard
        (x, sparse == 1 && decide (v % 2 = 1), s)
      else s.wloadTile j i t sparse
    (s.matErr j i false false false bad).modLc j i (fun x => { x with wbuf := x.wbuf.set (b2n buf) tile })

/-! ### `MMA` (R390–R393, R427–R430, R459) -/

/-- The operands of one row of a tile. -/
def rowOpnds (f : Nat) (codes scales : List Nat) : List Opnd :=
  codes.zipIdx.map (fun c => { fmt := f, code := c.1, scale := if isMx f then scales.getD (c.2 / 32) 127 else 127 })

/-- One activation row: reads every block whose zero-map bit is 0 as +0 elements (R459). -/
def zskipRow (map : Nat) (codes : List Nat) : List Nat :=
  codes.zipIdx.map (fun c => if map / 2 ^ (c.2 / 32) % 2 = 1 then c.1 else 0)

/-- One output row of an `MMA`: initial value plus segment, for each output column (R392). -/
def mmaRow (tile : WTile) (acts : List Opnd) (init : List Word) : List Word :=
  (List.range tile.rows).map (fun n =>
    f32Add (init.getD n 0) (segment ((rowOpnds tile.fmt (tile.elems.getD n []) (tile.scales.getD n [])).zip acts)))

/-- The part accepts the pairing of a weight and an activation format (R387). -/
def pairOk (w a : Nat) : Bool := (isMx w && isMx a) || (w == 1 && a == 1)

/-- Half core cycles per activation row (R387, R452). -/
def rowHalves (w a : Nat) (fast : Bool) : Nat :=
  let full := if w = 1 then 8 else if w = 2 ∧ (a = 2 ∨ a = 5 ∨ a = 6) then 1 else 2
  if fast then full else 2 * full

/-- The 32-bit words of a row of FP32 bytes. -/
def rowWords (b : List Byte) : List Word := (List.range (b.length / 4)).map (fun n => BitVec.ofNat 32 (bytesAt b (4 * n) 4))

/-- Performs the rows of an `MMA`, in order; answers the half cycles they take in the array. -/
def State.mmaRows (s : State) (j i : Nat) (tile : WTile) (ta out ti : BitVec 128) (useInit zskip : Bool) : List Nat → Nat →
    Nat × State
  | [], halves => (halves, s)
  | r :: rs, halves =>
    let kt := tCols ta
    let (b, s) := s.readStg j i unitMatrix (rowSpan ta r kt)
    let (sc, s) : List Byte × State := if isMx (tFmt ta) then s.readStg j i unitMatrix (scaleSpan ta r) else ([], s)
    let (zm, s) : Nat × State :=
      if zskip then let (z, s) := s.readStg j i unitMatrix { lo := tAux ta + r, len := 1 }; ((z.headD 0).toNat, s)
      else (255, s)
    let (iv, s) : List Word × State :=
      if useInit then let (x, s) := s.readStg j i unitMatrix (rowSpan ti r (tCols ti)); (rowWords x, s) else ([], s)
    let codes := codesOf (tFmt ta) kt b
    let codes := if zskip then zskipRow zm codes else codes
    let row := mmaRow tile (rowOpnds (tFmt ta) codes (sc.map (·.toNat))) iv
    let s := s.writeStg j i unitMatrix (rowSpan out r 0).lo (row.flatMap (fun w => leBytes 4 w.toNat))
    let skipped := zskip && decide (zm % 2 ^ ((kt + 31) / 32) = 0)
    s.mmaRows j i tile ta out ti useInit zskip rs (halves + if skipped then 0 else rowHalves tile.fmt (tFmt ta) tile.fast)

/-- Writes free values over every row of an output tile. -/
def State.freeOut (s : State) (j i : Nat) (out : BitVec 128) : State :=
  (List.range (tRows out)).foldl (fun s r =>
    let (v, s) := s.draw .hazard
    s.writeStg j i unitMatrix (rowSpan out r 0).lo (leBytes (rowBytes (tFmt out) (tCols out)) v)) s

/-- An `MMA` performs its computation (R427, R429, R389, R459, R460). -/
def State.doMma (s : State) (j i : Nat) (m : MatIss) (ta out ti : BitVec 128) (useInit buf zskip : Bool) : State :=
  let tile := (s.lc j i).wbuf.get? (b2n buf)
  let shape := (match tile with
      | some w => tCols ta != w.cols || tCols out != w.rows
      | none => false) || tRows out != tRows ta || (useInit && (tRows ti != tRows out || tCols ti != tCols out))
  let format := (match tile with | some w => !pairOk w.fmt (tFmt ta) | none => !(isMx (tFmt ta) || tFmt ta == 1))
    || tFmt out != 0 || (useInit && tFmt ti != 0)
  let aux := zskip && auxBad ta 1 (tRows ta)
  if shape || format || aux then s.matErr j i shape format aux false
  else match tile with
    | some w =>
      let s := m.spans.foldl (fun s sp => s.noteRange j i sp) s
      if m.tainted then s.freeOut j i out
      else
        let (halves, s) := s.mmaRows j i w ta out ti useInit zskip (List.range (tRows ta)) 0
        match (s.lc j i).place with
        | some (h, k) => s.bump h (0x10 + k) 0x81 0 ((halves + 1) / 2)
        | none => s
    | none => s.freeOut j i out

/-- The matrix unit of H*h*.C*k* completes its oldest operation, when that is a `WLOAD` (`wload`) or an `MMA`; it signals in issue
order (R430, R436). -/
def State.matDone (s : State) (c : CluAt) (wload : Bool) : State :=
  match (s.clu c.hub c.cluster).resident with
  | none => s
  | some (j, i) =>
    match (s.lc j i).mat with
    | [] => s
    | m :: r =>
      if s.fatal then s
      else match m.op, wload with
        | .wload t buf sparse, true =>
          ((s.doWload j i m t buf sparse.toNat).modLc j i (fun x => { x with mat := r })).unitDone j i m.past
        | .mma ta out ti useInit buf zskip, false =>
          ((s.doMma j i m ta out ti useInit buf zskip).modLc j i (fun x => { x with mat := r })).unitDone j i m.past
        | _, _ => s

/-- `WLOAD_COMPLETE`: the matrix unit finishes a weight load (R430). -/
def execWloadComplete (c : CluAt) (s : State) : Answer := .next (s.matDone c true)

/-- `MMA_COMPLETE`: the matrix unit finishes an `MMA` (R430). -/
def execMmaComplete (c : CluAt) (s : State) : Answer := .next (s.matDone c false)

end Sys2Proof.Machine
end

