-- ==== Sys2Proof/Machine/Control.lean ====
section
/-! DEFINITION. Control.lean: the meanings of the sequencer's operations (R433–R438, R471). -/
namespace Sys2Proof.Machine
open Sys2Proof

/-- An operation on two scalars into a third. -/
def State.ctlAlu (s : State) (c : CluAt) (op : Nat) (d a b : Fin 64) (latency : Nat) (f : DWord → DWord → DWord) : State :=
  s.issue c.hub c.cluster 3 (ctlWord op d a b 0) (fun j i s =>
    let (x, s) := s.readS j i a
    let (y, s) := s.readS j i b
    .done (s.writeS j i d (f x y) latency))

/-- `ADD` (R435). -/
def execAdd (c : CluAt) (d a b : Fin 64) (imm : Word) (s : State) : Answer :=
  .next (s.issue c.hub c.cluster 3 (ctlWord 0x01 d a b imm) (fun j i s =>
    let (x, s) := s.readS j i a
    let (y, s) := s.readS j i b
    .done (s.writeS j i d (x + y + sext imm) 1)))

/-- `SUB` (R435). -/
def execSub (c : CluAt) (d a b : Fin 64) (s : State) : Answer :=
  .next (s.ctlAlu c 0x02 d a b 1 (fun x y => x - y))

/-- `MUL` (R435). -/
def execMul (c : CluAt) (d a b : Fin 64) (s : State) : Answer :=
  .next (s.ctlAlu c 0x03 d a b 3 (fun x y => x * y))

/-- `AND` (R435). -/
def execAnd (c : CluAt) (d a b : Fin 64) (s : State) : Answer :=
  .next (s.ctlAlu c 0x04 d a b 1 (fun x y => x &&& y))

/-- `OR` (R435). -/
def execOr (c : CluAt) (d a b : Fin 64) (s : State) : Answer :=
  .next (s.ctlAlu c 0x05 d a b 1 (fun x y => x ||| y))

/-- `XOR` (R435). -/
def execXor (c : CluAt) (d a b : Fin 64) (s : State) : Answer :=
  .next (s.ctlAlu c 0x06 d a b 1 (fun x y => x ^^^ y))

/-- A shift by (s[B] + IMM) mod 64. -/
def State.ctlShift (s : State) (c : CluAt) (op : Nat) (d a b : Fin 64) (imm : Word) (f : DWord → Nat → DWord) : State :=
  s.issue c.hub c.cluster 3 (ctlWord op d a b imm) (fun j i s =>
    let (x, s) := s.readS j i a
    let (y, s) := s.readS j i b
    .done (s.writeS j i d (f x ((y.toNat + imm.toNat) % 64)) 1))

/-- `SHL` (R435). -/
def execShl (c : CluAt) (d a b : Fin 64) (imm : Word) (s : State) : Answer :=
  .next (s.ctlShift c 0x07 d a b imm (fun x n => x <<< n))

/-- `SHR` (R435). -/
def execShr (c : CluAt) (d a b : Fin 64) (imm : Word) (s : State) : Answer :=
  .next (s.ctlShift c 0x08 d a b imm (fun x n => x >>> n))

/-- `SAR` (R435). -/
def execSar (c : CluAt) (d a b : Fin 64) (imm : Word) (s : State) : Answer :=
  .next (s.ctlShift c 0x09 d a b imm (fun x n => x.sshiftRight n))

/-- `SLT` (R435). -/
def execSlt (c : CluAt) (d a b : Fin 64) (s : State) : Answer :=
  .next (s.ctlAlu c 0x0A d a b 1 (fun x y => if x.toInt < y.toInt then 1 else 0))

/-- `SLTU` (R435). -/
def execSltu (c : CluAt) (d a b : Fin 64) (s : State) : Answer :=
  .next (s.ctlAlu c 0x0B d a b 1 (fun x y => if x.toNat < y.toNat then 1 else 0))

/-- `LI` (R435). -/
def execLi (c : CluAt) (d : Fin 64) (imm : Word) (s : State) : Answer :=
  .next (s.issue c.hub c.cluster 3 (ctlWord 0x0C d 0 0 imm) (fun j i s => .done (s.writeS j i d (sext imm) 1)))

/-- `LIH` (R435). -/
def execLih (c : CluAt) (d : Fin 64) (imm : Word) (s : State) : Answer :=
  .next (s.issue c.hub c.cluster 3 (ctlWord 0x0D d 0 0 imm) (fun j i s =>
    let (x, s) := s.readS j i d
    .done (s.writeS j i d (BitVec.ofNat 64 (imm.toNat * 2 ^ 32 + x.toNat % 2 ^ 32)) 1)))

/-- `AMOV` (R435). -/
def execAmov (c : CluAt) (d : Fin 16) (a : Fin 64) (imm : Word) (s : State) : Answer :=
  .next (s.issue c.hub c.cluster 3 (ctlWord 0x10 d a 0 imm) (fun j i s =>
    let (x, s) := s.readS j i a
    .done (s.writeA j i d (x + sext imm))))

/-- `AADD` (R435). -/
def execAadd (c : CluAt) (d a : Fin 16) (b : Fin 64) (imm : Word) (s : State) : Answer :=
  .next (s.issue c.hub c.cluster 3 (ctlWord 0x11 d a b imm) (fun j i s =>
    let (y, s) := s.readS j i b
    .done (s.writeA j i d (s.readA j i a + y + sext imm))))

/-- `AGET` (R435). -/
def execAget (c : CluAt) (d : Fin 64) (a : Fin 16) (s : State) : Answer :=
  .next (s.issue c.hub c.cluster 3 (ctlWord 0x12 d a 0 0) (fun j i s => .done (s.writeS j i d (s.readA j i a) 1)))

/-! ### Branches -/

/-- `BR` (R435). -/
def execBr (c : CluAt) (target : BitVec 14) (s : State) : Answer :=
  .next (s.issue c.hub c.cluster 3 (ctlWord 0x20 0 0 0 (target.setWidth 32)) (fun _ _ s => .jump s target))

/-- A branch on a comparison of two scalars. -/
def State.ctlBranch (s : State) (c : CluAt) (op : Nat) (a b : Fin 64) (target : BitVec 14) (p : DWord → DWord → Bool) : State :=
  s.issue c.hub c.cluster 3 (ctlWord op 0 a b (target.setWidth 32)) (fun j i s =>
    let (x, s) := s.readS j i a
    let (y, s) := s.readS j i b
    if p x y then .jump s target else .done s)

/-- `BEQ` (R435). -/
def execBeq (c : CluAt) (a b : Fin 64) (target : BitVec 14) (s : State) : Answer :=
  .next (s.ctlBranch c 0x21 a b target (fun x y => x == y))

/-- `BNE` (R435). -/
def execBne (c : CluAt) (a b : Fin 64) (target : BitVec 14) (s : State) : Answer :=
  .next (s.ctlBranch c 0x22 a b target (fun x y => x != y))

/-- `BLT` (R435). -/
def execBlt (c : CluAt) (a b : Fin 64) (target : BitVec 14) (s : State) : Answer :=
  .next (s.ctlBranch c 0x23 a b target (fun x y => decide (x.toInt < y.toInt)))

/-- `BLTU` (R435). -/
def execBltu (c : CluAt) (a b : Fin 64) (target : BitVec 14) (s : State) : Answer :=
  .next (s.ctlBranch c 0x24 a b target (fun x y => decide (x.toNat < y.toNat)))

/-- `LOOP` (R435). -/
def execLoop (c : CluAt) (d : Fin 64) (target : BitVec 14) (s : State) : Answer :=
  .next (s.issue c.hub c.cluster 3 (ctlWord 0x25 d 0 0 (target.setWidth 32)) (fun j i s =>
    let (x, s) := s.readS j i d
    let s := s.writeS j i d (x - 1) 1
    if x - 1 = 0 then .done s else .jump s target))

/-! ### Synchronisation (R436, R437, R471) -/

/-- `WAIT` (R435, R436). -/
def execWait (c : CluAt) (sem : Fin 32) (n : BitVec 16) (s : State) : Answer :=
  .next (s.issue c.hub c.cluster 3 (ctlWord 0x30 sem 0 0 (n.setWidth 32)) (fun j i s =>
    let x := s.lc j i
    let v := x.regs.sem.getD sem 0
    if n.toNat ≤ v.toNat then
      .done ((s.modLc j i (fun x => { x.order sem (v - n).toNat with regs := { x.regs with sem := x.regs.sem.set sem (v - n) } })).lcGoes c.hub c.cluster
        (x.sigBy.getD sem 0))
    else .blocked (s.lcWaits c.hub c.cluster j i (.sem sem n.toNat) 1 (BitVec.ofNat 16 sem.val) (n.setWidth 32))))

/-- `SIGNAL` (R435, R436). -/
def execSignal (c : CluAt) (sem : Fin 32) (n : BitVec 16) (s : State) : Answer :=
  .next (s.issue c.hub c.cluster 3 (ctlWord 0x31 sem 0 0 (n.setWidth 32)) (fun j i s => .done (s.signal j i sem n.toNat 0x30)))

/-- Every operation issued earlier has completed and signalled. -/
def Lc.quiet (x : Lc) : Bool := x.mat.isEmpty && x.vec.isEmpty && x.streams.all (fun q => q.2.isEmpty)

/-- Waits as `FENCE` does, then goes on with `f`; what was issued earlier can be read from then on. -/
def State.fence (s : State) (c : CluAt) (j i : Nat) (f : State → Issued) : Issued :=
  if (s.lc j i).quiet then
    f ((s.modLc j i (fun x => { x with sReady := [], tReady := [], vReady := [], stored := [], past := [] })).lcGoes c.hub c.cluster
      (s.lc j i).lastUnit)
  else .blocked (s.lcWaits c.hub c.cluster j i .fence 2 0 0)

/-- `FENCE` (R435, R436). -/
def execFence (c : CluAt) (s : State) : Answer :=
  .next (s.issue c.hub c.cluster 3 (ctlWord 0x32 0 0 0 0) (fun j i s => s.fence c j i .done))

/-- The gate of an expert in a logical cluster of a job, as its entry number in GATES. -/
def gateOf (b : List Byte) (expert : Nat) : Option Nat :=
  ((List.range (imgGates b)).drop 1).find? (fun n => bytesAt (imgGate b n) 2 2 == expert)

/-- `GWAIT` (R435, R436, R471). -/
def execGwait (c : CluAt) (d : Fin 64) (expert : BitVec 12) (s : State) : Answer :=
  .next (s.issue c.hub c.cluster 3 (ctlWord 0x33 d 0 0 (expert.setWidth 32)) (fun j i s =>
    let x := s.job j
    let late (s : State) (n : Nat) : State := s.modLc j i (fun y => { y with late := some (d.val, BitVec.ofNat 64 n) })
    match gateOf x.image expert.toNat with
    | some n =>
      if bytesAt (imgGate x.image n) 4 2 ≠ i then .done (late s 0)
      else
        let g := s.gates.getD (j * 4096 + expert.toNat) {}
        if g.prepared then .done ((late s g.count).lcGoes c.hub c.cluster x.gates.closedBy)
        else .blocked (s.lcWaits c.hub c.cluster j i (.gate expert.toNat d) 5 (expert.setWidth 16) (BitVec.ofNat 32 x.step))
    | none => .done (late s 0)))

/-- `YIELD` (R435, R437): the fence, the check of the superstep, and the arrival at the barrier. The weight buffers are empty from
the yield point on (R389), and the cluster's charge goes (R649). -/
def execYield (c : CluAt) (n : Word) (s : State) : Answer :=
  .next (s.issue c.hub c.cluster 3 (ctlWord 0x38 0 0 0 n) (fun j i s =>
    s.fence c j i (fun s =>
      let x := s.job j
      if n.toNat ≠ x.step ∨ imgSteps x.image ≤ n.toNat + 1 then .done (s.jobFault j i 3 0)
      else
        let s := (s.modLc j i (fun y => { y with phase := .yielded, wbuf := [] })).dropCharge c.hub c.cluster
        let s := s.modJob j (fun x => { x with lastArrived := i })
        .done (s.lcWaits c.hub c.cluster j i .barrier 3 (BitVec.ofNat 16 x.step) (BitVec.ofNat 32 x.step)))))

/-- Every logical cluster of a job has halted. -/
def State.allHalted (s : State) (j : Nat) : Bool := (s.job j).lcs.all (fun i => (s.lc j i).phase == .halted)

/-- `HALT` (R435, R437): the logical cluster leaves its physical cluster once its operations have completed, and its `PC` stays at the
`HALT`, so that a job resumed from a checkpoint finds it halted (R511; DEDUCED, notes/assumptions/27.md). The last one ends the
job, at once when there is nothing to combine and no peer to compare with. -/
def execHalt (c : CluAt) (s : State) : Answer :=
  .next (s.issue c.hub c.cluster 3 (ctlWord 0x39 0 0 0 0) (fun j i s =>
    s.fence c j i (fun s =>
      let s := (s.modLc j i (fun y => { y with phase := .halted, wbuf := [] })).vacate j i
      let s := s.modJob j (fun x => { x with lastArrived := i })
      let x := s.job j
      .jump (if s.allHalted j ∧ ¬imgPairs x.image ∧ ¬x.gates.touched ∧ x.gates.closes.isEmpty then
        (s.modJob j (fun x => { x with lastDone := some x.step })).endJob j 0 0 0 else s) (s.lc j i).regs.pc)))

/-- `TRAP` (R433, R435). -/
def execTrap (c : CluAt) (code : BitVec 16) (s : State) : Answer :=
  .next (s.issue c.hub c.cluster 3 (ctlWord 0x3B 0 0 0 (code.setWidth 32)) (fun j i s => .done (s.jobFault j i 2 code.toNat)))

/-- The system values (R438). -/
def State.sysValue (s : State) (j i n : Nat) : DWord :=
  let x := s.job j
  match n with
  | 0 => BitVec.ofNat 64 i
  | 1 => BitVec.ofNat 64 (imgLogical x.image)
  | 2 => BitVec.ofNat 64 x.step
  | 3 => imgSeed x.image 0
  | 4 => imgSeed x.image 1
  | 5 => imgSeed x.image 2
  | 6 => imgSeed x.image 3
  | _ => BitVec.ofNat 64 (imgExtrefs x.image)

/-- `SYSR` (R435, R438). -/
def execSysr (c : CluAt) (d : Fin 64) (n : Fin 8) (s : State) : Answer :=
  .next (s.issue c.hub c.cluster 3 (ctlWord 0x3A d 0 0 (BitVec.ofNat 32 n.val)) (fun j i s =>
    .done (s.writeS j i d (s.sysValue j i n) 1)))

/-! ### Staging (R435) -/

/-- Notes an unaligned access of the sequencer. -/
def State.alignErr (s : State) (c : CluAt) : State := s.modClu c.hub c.cluster (fun x => { x with align := true })

/-- Reads `n` bytes of staging for the sequencer at s[A] + sext(IMM); an unaligned address is noted and gives free bytes. -/
def State.seqLoad (s : State) (c : CluAt) (j i a n : Nat) (imm : Word) : Nat × List Byte × State :=
  let (x, s) := s.readS j i a
  let p := (x + sext imm).toNat
  if p % n ≠ 0 then
    let (v, s) := (s.alignErr c).draw .hazard
    (p, leBytes n v, s)
  else
    let (b, s) := s.readStg j i unitSeq { lo := p, len := n }
    (p, b, s)

/-- Writes bytes of staging for the sequencer at s[A] + sext(IMM), readable 6 bundles later; an unaligned address is noted and
stores free bytes. -/
def State.seqStore (s : State) (c : CluAt) (j i a : Nat) (imm : Word) (b : List Byte) : State :=
  let (x, s) := s.readS j i a
  let p := (x + sext imm).toNat
  let sp : Span := { lo := p, len := b.length }
  let s := if p % b.length ≠ 0 then s.alignErr c else s
  let (b, s) : List Byte × State :=
    if p % b.length ≠ 0 ∨ (s.lc j i).writeHazard unitSeq sp then let (v, s) := s.draw .hazard; (leBytes b.length v, s) else (b, s)
  (s.writeStg j i unitSeq p b).modLc j i (fun x => { x with stored := x.stored ++ [(sp, x.bundle + 6)] })

/-- `SLD` (R435). -/
def execSld (c : CluAt) (d a : Fin 64) (imm : Word) (s : State) : Answer :=
  .next (s.issue c.hub c.cluster 3 (ctlWord 0x40 d a 0 imm) (fun j i s =>
    let (_, b, s) := s.seqLoad c j i a 8 imm
    .done (s.writeS j i d (BitVec.ofNat 64 (leNat b)) 6)))

/-- `SST` (R435). -/
def execSst (c : CluAt) (a b : Fin 64) (imm : Word) (s : State) : Answer :=
  .next (s.issue c.hub c.cluster 3 (ctlWord 0x41 0 a b imm) (fun j i s =>
    let (v, s) := s.readS j i b
    .done (s.seqStore c j i a imm (leBytes 8 v.toNat))))

/-- `TLD` (R435, R440). -/
def execTld (c : CluAt) (d : Fin 32) (a : Fin 64) (imm : Word) (s : State) : Answer :=
  .next (s.issue c.hub c.cluster 3 (ctlWord 0x42 d a 0 imm) (fun j i s =>
    let (p, b, s) := s.seqLoad c j i a 16 imm
    let s := s.writeT j i d (BitVec.ofNat 128 (leNat b)) 6
    .done (s.modLc j i (fun x => { x with
      fetches := x.fetches ++ [{ span := { lo := p, len := 16 }, bundle := x.bundle, target := .inl d.val }] }))))

/-- `TST` (R435). -/
def execTst (c : CluAt) (a : Fin 64) (b : Fin 32) (imm : Word) (s : State) : Answer :=
  .next (s.issue c.hub c.cluster 3 (ctlWord 0x43 0 a b imm) (fun j i s =>
    let (v, s) := s.readT j i b
    .done (s.seqStore c j i a imm (leBytes 16 v.toNat))))

/-- `TADD` (R435). -/
def execTadd (c : CluAt) (d a : Fin 32) (b : Fin 64) (imm : Word) (s : State) : Answer :=
  .next (s.issue c.hub c.cluster 3 (ctlWord 0x44 d a b imm) (fun j i s =>
    let (t, s) := s.readT j i a
    let (y, s) := s.readS j i b
    let base := (BitVec.ofNat 64 (tBase t) + y + sext imm).toNat % 2 ^ 25
    .done (s.writeT j i d (BitVec.ofNat 128 (t.toNat / 2 ^ 25 * 2 ^ 25 + base)) 1)))

end Sys2Proof.Machine
end

