-- ==== Sys2Proof/Machine/Slalom.lean ====
section
/-! DEFINITION. Slalom.lean: the meanings of the slalom's and the gather engine's commands (R461–R484). -/
namespace Sys2Proof.Machine
open Sys2Proof

/-! ### Gates (R464–R471) -/

/-- `EXPERT` of a gate entry. -/
def gExpert (g : List Byte) : Nat := bytesAt g 2 2
/-- `LCLUSTER`. -/
def gLc (g : List Byte) : Nat := bytesAt g 4 2
/-- `CAPACITY`. -/
def gCap (g : List Byte) : Nat := bytesAt g 6 2
/-- `D_WIN`. -/
def gWin (g : List Byte) : Nat := bytesAt g 8 1
/-- `OUT_WIN`. -/
def gOut (g : List Byte) : Nat := bytesAt g 9 1
/-- `SPILL_CAP`. -/
def gSpill (g : List Byte) : Nat := bytesAt g 0x0A 2
/-- `GFMT`. -/
def gFmt (g : List Byte) : Nat := bytesAt g 1 1 % 16
/-- `SLOT_BYTES` (R465). -/
def gSlotBytes (g : List Byte) : Nat := gWin g * 32 * fmtBits (gFmt g)

/-- The gate entries of an image, by rising expert. -/
def imgGateList (b : List Byte) : List (List Byte) := ((List.range (imgGates b)).drop 1).map (imgGate b)
/-- The gate entry of an expert. -/
def gateEntry (b : List Byte) (e : Nat) : Option (List Byte) := (imgGateList b).find? (fun g => gExpert g == e)
/-- `POLICY` of an image's job entry. -/
def jPolicy (b : List Byte) : Nat := bytesAt (imgGate b 0) 1 1
/-- `SOURCES`. -/
def jSources (b : List Byte) : Nat := bytesAt (imgGate b 0) 2 2
/-- `COMBINE`. -/
def jCombine (b : List Byte) : Nat := bytesAt (imgGate b 0) 4 1
/-- `RFMT`. -/
def jRfmt (b : List Byte) : Nat := bytesAt (imgGate b 0) 5 1
/-- `TOPK_MAX`. -/
def jTopk (b : List Byte) : Nat := bytesAt (imgGate b 0) 6 1
/-- `RESULT_REF`. -/
def jResultRef (b : List Byte) : Nat := bytesAt (imgGate b 0) 8 2
/-- `RESULT_OFF`. -/
def jResultOff (b : List Byte) : Nat := bytesAt (imgGate b 0) 0x10 8

/-- The gate of an expert of job `j`. -/
def State.gate (s : State) (j e : Nat) : Gate := s.gates.getD (j * 4096 + e) {}
/-- Changes it. -/
def State.modGate (s : State) (j e : Nat) (f : Gate → Gate) : State := { s with gates := s.gates.mod (j * 4096 + e) {} f }
/-- The order of a source's packets after one of them (R463). -/
def State.setArriving (s : State) (src : BitVec 10) (a : Option Arriving) : State :=
  { s with jobg := { s.jobg with arriving := match a with
      | some a => s.jobg.arriving.set src.toNat a
      | none => s.jobg.arriving.erase src.toNat } }
/-- A token of a source in job `j` has been accepted and not arrived whole. -/
def State.landing (s : State) (j : Nat) : Bool := s.jobg.arriving.any (fun a => a.2.accepted && a.2.job == j)
/-- Changes the gate step of job `j`. -/
def State.modStep (s : State) (j : Nat) (f : GateStep → GateStep) : State := s.modJob j (fun x => { x with gates := f x.gates })
/-- The hub that holds a gate (R494). -/
def State.gateHub (s : State) (j : Nat) (g : List Byte) : Nat := (s.job j).saveHub (gLc g)

/-- Bytes written into staging without the units: landing, restores and launch regions are outside the digest (R512). -/
def State.landStg (s : State) (j i : Nat) (bytes : List (Nat × Byte)) : State :=
  let st := imgStaging (s.job j).image
  s.modLc j i (fun x => { x with
    staging := (bytes.filter (fun b => decide (b.1 < st))).foldl (fun m b => if b.2 = 0 then m.erase b.1 else m.set b.1 b.2)
      x.staging })

/-- Where byte `o` of a token's data lies, in slot `n` (R463, R465). -/
def gateAddr (g : List Byte) (n o : Nat) : Nat :=
  if o < gSlotBytes g then bytesAt g 0x0C 4 + n * gSlotBytes g + o
  else
    let k := o - gSlotBytes g
    bytesAt g 0x10 4 + (k / 8 * gCap g + n) * 8 + k % 8

/-- Lands data bytes of a token from offset `o` in slot `n` (R466). -/
def State.landData (s : State) (j : Nat) (g : List Byte) (n o : Nat) (data : List Byte) : State :=
  s.landStg j (gLc g) (data.zipIdx.map (fun b => (gateAddr g n (o + b.2), b.1)))

/-- A token is routed to residual (R468, R469). -/
def State.toResidual (s : State) (j : Nat) (g : List Byte) (t : Token) : State :=
  (s.modGate j (gExpert g) (fun x => { x with residual := x.residual ++ [(t.index, t.source)] })).modSlg (s.gateHub j g)
    (fun x => { x with residual := satAdd x.residual 1 })

/-- The token of highest index in a list. -/
def highest : List Token → Option Token
  | [] => none
  | t :: r => match highest r with
    | some u => if t.index.toNat < u.index.toNat then some u else some t
    | none => some t

/-- A token enters a gate's spill store. -/
def State.intoSpill (s : State) (j : Nat) (g : List Byte) (l : List Token) (t : Token) : State :=
  (s.modGate j (gExpert g) (fun x => { x with spill := l ++ [t] })).bump (s.gateHub j g) 0x0C 0x81 0 1

/-- A token is offered to its gate's spill store (R469). -/
def State.offerSpill (s : State) (j : Nat) (g : List Byte) (t : Token) : State :=
  let l := (s.gate j (gExpert g)).spill
  if l.length < gSpill g then s.intoSpill j g l t
  else match highest l with
    | some u =>
      if t.index.toNat < u.index.toNat then (s.intoSpill j g (l.filter (· != u)) t).toResidual j g u else s.toResidual j g t
    | none => s.toResidual j g t

/-- An overflowed token (R468, R469). -/
def State.overflowed (s : State) (j : Nat) (g : List Byte) (t : Token) : State :=
  if jPolicy (s.job j).image = 3 then s.gateFault (s.gateHub j g) j (gExpert g) 1
  else if jPolicy (s.job j).image = 2 ∧ ¬t.spilled then s.offerSpill j g t
  else s.toResidual j g t

/-- A token takes slot `n`. -/
def State.takeSlot (s : State) (j : Nat) (g : List Byte) (n : Nat) (t : Token) : State :=
  ((s.modGate j (gExpert g) (fun x => { x with slots := x.slots.set n (some t) })).landData j g n 0 t.data).bump
    (s.gateHub j g) 0x0C 0x80 0 1

/-- A token goes into its gate: the lowest free slot, or that of a token of higher index, or it overflows (R468). -/
def State.intoGate (s : State) (j : Nat) (g : List Byte) (t : Token) : State :=
  let slots := (s.gate j (gExpert g)).slots
  match slots.findIdx? (·.isNone) with
  | some n => s.takeSlot j g n t
  | none =>
    match highest (slots.filterMap id) with
    | some u =>
      if t.index.toNat < u.index.toNat then
        (s.takeSlot j g (slots.findIdx (· == some u)) t).overflowed j g u
      else s.overflowed j g t
    | none => s.overflowed j g t

/-- The gates of the current superstep open: the tokens spilled in the step before enter first, in ascending index (R467, R469). -/
def State.openGates (s : State) (j : Nat) : State :=
  let x := s.job j
  if imgGates x.image = 0 ∨ x.gates.open_ then s
  else
    let s := s.modStep j (fun y => { y with open_ := true })
    let s := (imgGateList x.image).foldl (fun s g =>
      s.modGate j (gExpert g) (fun _ => { slots := List.replicate (gCap g) none })) s
    let s := s.modJob j (fun y => { y with spilledIn := [] })
    (imgGateList x.image).foldl (fun s g =>
      let l := (x.spilledIn.getD (gExpert g) []).mergeSort (fun a b => decide (a.index.toNat ≤ b.index.toNat))
      l.foldl (fun s t => s.intoGate j g { t with spilled := true }) s) s

/-! ### Closing a step (R470, R471) -/

/-- The metadata of a slot (R465). -/
def tokenMeta (t : Token) : List Byte :=
  leBytes 4 t.index.toNat ++ leBytes 4 t.weight.toNat ++ leBytes 2 t.source.toNat ++ [if t.spilled then 1 else 0]
    ++ List.replicate 5 0

/-- The zero-map bytes of a slot's windows, each with its address (R457, R465). -/
def slotZmaps (g : List Byte) (n : Nat) (data : List Byte) : List (Nat × Byte) :=
  (List.range (gWin g)).map (fun w =>
    let b := 32 * fmtBits (gFmt g)
    (bytesAt g 0x18 4 + w * gCap g + n, zeroMap (gFmt g) (codesOf (gFmt g) 256 ((data.drop (w * b)).take b))))

/-- The data of a token in slot `n` as staging holds it. -/
def State.slotData (s : State) (j : Nat) (g : List Byte) (n : Nat) : List Byte :=
  let x := s.lc j (gLc g)
  (List.range (tokenBytes g)).map (fun o => x.staging.getD (gateAddr g n o) 0)

/-- Prepares one gate for its step: its tokens in ascending order, their metadata and zero maps (R471). Every write of the
preparation counts in the digest (R512). -/
def State.prepareGate (s : State) (j : Nat) (g : List Byte) : State :=
  let i := gLc g
  let x := s.gate j (gExpert g)
  let held := (x.slots.zipIdx.filterMap (fun e => e.1.map (fun t => (t, s.slotData j g e.2)))).mergeSort
    (fun a b => decide (a.1.index.toNat ≤ b.1.index.toNat))
  let s := held.zipIdx.foldl (fun s e =>
    let data := e.1.2
    let s := s.writeStg j i unitSeq (gateAddr g e.2 0) (data.take (gSlotBytes g))
    let s := ((List.range (gWin g)).filter (fun _ => isMx (gFmt g))).foldl (fun s w =>
      s.writeStg j i unitSeq (gateAddr g e.2 (gSlotBytes g + 8 * w)) ((data.drop (gSlotBytes g + 8 * w)).take 8)) s
    let s := s.writeStg j i unitSeq (bytesAt g 0x14 4 + 16 * e.2) (tokenMeta e.1.1)
    (slotZmaps g e.2 data).foldl (fun s b => s.writeStg j i unitSeq b.1 [b.2]) s) s
  let s := ((List.range (gCap g)).drop held.length).foldl (fun s n =>
    (List.range (gWin g)).foldl (fun s w => s.writeStg j i unitSeq (bytesAt g 0x18 4 + w * gCap g + n) [0]) s) s
  s.modGate j (gExpert g) (fun y => { y with
    slots := held.map (fun e => some e.1) ++ List.replicate (gCap g - held.length) none, prepared := true, count := held.length })

/-- The gates of a closed step are prepared, once every token accepted for it has arrived whole (R471; notes/assumptions/28.md). -/
def State.prepareGo (s : State) (j : Nat) : State :=
  let x := s.job j
  if ¬x.gates.closed ∨ x.gates.prepared ∨ x.state ≠ .running ∨ s.landing j then s
  else (imgGateList x.image).foldl (fun s g => s.prepareGate j g) (s.modStep j (fun y => { y with prepared := true }))

/-- The open step of a job closes when its sources have closed it and as many of their tokens as they name are accepted (R470). -/
def State.tryClose (s : State) (j src : Nat) : State :=
  let x := s.job j
  let g := x.gates
  if g.closed ∨ ¬g.open_ ∨ x.state ≠ .running then s
  else if jSources x.image ≤ g.closes.length ∧ g.closes.all (fun c => g.accepted.getD c.1 0 == c.2) then
    (s.modStep j (fun y => { y with closed := true, closedBy := BitVec.ofNat 16 src })).prepareGo j
  else s

/-! ### Tokens and closes (R461–R470) -/

/-- Refuses a `TOKEN` or `CLOSE`, at hub `h` (R467, R486, R754). -/
def State.refuse (s : State) (h : Nat) (src : BitVec 10) (job expert token step part reason : Nat) : State :=
  let s := match reason with
    | 2 => s.modSlg h (fun x => { x with unknown := satAdd x.unknown 1 })
    | 3 => s.modSlg h (fun x => { x with late := satAdd x.late 1 })
    | _ => s
  let (b, s) : BitVec 4 × State := if reason = 1 then s.freeBackoff else (0, s)
  let w : OpenWait := { ekind := 6, job := BitVec.ofNat 12 job, start := s.clk.now, object := BitVec.ofNat 16 expert,
                        by_ := src.setWidth 16, detail := 1 }
  let stalled := (s.traceUnit (tkey h .slalom)).waits.any (fun x => x.job == w.job && x.object == w.object && x.by_ == w.by_)
  let s := if reason = 1 ∧ ¬stalled then s.waitBegin h .slalom w else s
  s.sendRefused src job expert token step part reason b

/-- The gate stalls of a source for an expert end (R754). -/
def State.stallEnds (s : State) (h : Nat) (src : BitVec 10) (job expert : Nat) : State :=
  s.waitEnd h .slalom (fun w => w.job.toNat == job && w.object.toNat == expert && w.by_.toNat == src.toNat) none

/-- Why a `TOKEN` (`token`) or `CLOSE` for a step of a job is refused, if it is (R467); a held job's gates refuse every `TOKEN` with `REASON`
1 (R509). -/
def State.refusal (s : State) (token : Bool) (job step : Nat) : Option Nat :=
  match s.jobs.get? job with
  | none => some 2
  | some x =>
    if imgGates x.image = 0 then some 2
    else match x.state with
      | .ended | .faulted => some 4
      | .running =>
        if x.step < step then some 1
        else if step < x.step ∨ x.gates.closed then some 3
        else if ¬x.gates.open_ then some 1 else none
      | .held => if step < x.step ∧ ¬token then some 3 else some 1
      | _ => if step < x.step then some 3 else some 1

/-- Bytes of packet `p` of a token's data (R463). -/
def partLen (g : List Byte) (p : Nat) : Nat := min 256 (tokenBytes g - 256 * p)

/-- Packets of a token's data. -/
def partCount (g : List Byte) : Nat := (tokenBytes g + 255) / 256

/-- The data of a packet fits its place (R463). -/
def partFits (g : List Byte) (p : Nat) (data : List Byte) : Bool :=
  decide (data.length = (partLen g p + 31) / 32 * 32) && decide (p < partCount g)

/-- After the first packet of a token, its later ones are awaited (R463). -/
def State.awaitParts (s : State) (src : BitVec 10) (j : Nat) (g : List Byte) (index : Word) (accepted : Bool) : State :=
  s.setArriving src (if partCount g ≤ 1 then none else some { job := j, gate := g, index := index, next := 1, accepted := accepted })

/-- A token is accepted on its first packet (R468, R470, R472). -/
def State.acceptToken (s : State) (src : BitVec 10) (j : Nat) (g : List Byte) (index weight : Word) (data : List Byte) : State :=
  let x := s.job j
  let e := gExpert g
  let h := s.gateHub j g
  let n := x.gates.accepted.getD src.toNat 0 + 1
  let held := (s.gate j e).slots.filterMap id
  if x.gates.reached.any (fun r => r.1 == index && r.2.1 == e) || held.any (fun t => t.index == index)
      || (s.gate j e).residual.any (fun r => r.1 == index) then s.gateFault h j e 2
  else if (match x.gates.closes.get? src.toNat with | some a => decide (a < n) | none => false) then s.gateFault h j e 3
  else if jTopk x.image ≤ x.gates.reached.countP (fun r => r.1 == index) then s.gateFault h j e 4
  else
    let s := s.stallEnds h src j e
    let s := s.modStep j (fun y => { y with
      touched := true, accepted := y.accepted.set src.toNat n, reached := y.reached ++ [(index, e, src.setWidth 16)] })
    let s := s.awaitParts src j g index true
    (s.intoGate j g { index := index, weight := weight, source := src.setWidth 16, data := data.take (partLen g 0) }).tryClose j src.toNat

/-- Adds data to a token wherever it is by now (R463, R468). -/
def State.landPart (s : State) (j : Nat) (g : List Byte) (index : Word) (p : Nat) (data : List Byte) : State :=
  let e := gExpert g
  let more (t : Token) : Token := if t.index = index ∧ ¬t.spilled then { t with data := t.data ++ data } else t
  let slots := (s.gate j e).slots
  let n := slots.findIdx (fun o => match o with | some t => t.index == index && !t.spilled | none => false)
  let s := if n < slots.length then s.landData j g n (256 * p) data else s
  s.modGate j e (fun x => { x with slots := x.slots.map (·.map more), spill := x.spill.map more })

/-- A malformed packet (R463): a gate fault of its job, when that runs; the source's unfinished token is given up. -/
def State.malformed (s : State) (src : BitVec 10) (h j expert : Nat) : State :=
  let s := s.setArriving src none
  if (s.job j).state = .running then s.gateFault h j expert 7 else s

/-- The packet is the one that must follow an unfinished token of its source (R463). -/
def Arriving.fits (a : Arriving) (j expert : Nat) (token : Word) (p : Nat) (data : List Byte) : Bool :=
  a.job == j && gExpert a.gate == expert && a.index == token && a.next == p && partFits a.gate p data

/-- The next packet of a token arrives (R463, R466). -/
def State.nextPart (s : State) (src : BitVec 10) (a : Arriving) (data : List Byte) : State :=
  let s := s.setArriving src (if a.next + 1 < partCount a.gate then some { a with next := a.next + 1 } else none)
  if a.accepted ∧ (s.job a.job).state = .running then
    (s.landPart a.job a.gate a.index a.next (data.take (partLen a.gate a.next))).prepareGo a.job
  else s

/-- The first packet of a token arrives, in order: the token is accepted, or refused with all its packets (R467, R468). -/
def State.firstPart (s : State) (hub : Nat) (src : BitVec 10) (j : Nat) (g : List Byte) (token weight : Word) (step : Nat)
    (data : List Byte) : State :=
  match s.refusal true j step with
  | some r => (s.refuse (if r = 2 then hub else s.gateHub j g) src j (gExpert g) token.toNat step 0 r).awaitParts src j g token false
  | none => s.acceptToken src j g token weight data

/-- A `TOKEN` packet is taken (R462, R463, R466–R470, R809). `hub` is the ingress hub. The packets of one token follow one another in the
flow of its source, whatever their jobs. -/
def State.tokenIn (s : State) (hub : Fin 8) (src : BitVec 10) (job expert : BitVec 12) (token weight : Word) (step : BitVec 20)
    (part : BitVec 16) (data : List Byte) : State :=
  let j := job.toNat
  let e := expert.toNat
  let p := part.toNat
  if ¬s.hears src then s
  else if s.fatal then (if p = 0 then s.sendRefused src j e token.toNat step.toNat p 4 0 else s)
  else match s.jobg.arriving.get? src.toNat, gateEntry (s.job j).image e with
    | some a, g => if a.fits j e token p data then s.nextPart src a data
        else s.malformed src (match g with | some g => s.gateHub j g | none => hub) j e
    | none, some g => if p = 0 ∧ partFits g 0 data then s.firstPart hub src j g token weight step.toNat data
        else s.malformed src (s.gateHub j g) j e
    | none, none => if p = 0 then s.refuse hub src j e token.toNat step.toNat p 2 else s

/-- A `CLOSE` packet is taken (R462, R467, R470, R809). -/
def State.closeIn (s : State) (hub : Fin 8) (src : BitVec 10) (job : BitVec 12) (count : Word) (step : BitVec 20) : State :=
  let j := job.toNat
  if ¬s.hears src then s
    else if s.fatal then s.sendRefused src j 0 0 step.toNat 0 4 0
    else match s.refusal false j step.toNat with
      | some r => s.refuse hub src j 0 0 step.toNat 0 r
      | none =>
        let g := (s.job j).gates
        if (g.closes.get? src.toNat).isSome ∨ count.toNat < g.accepted.getD src.toNat 0 then s.gateFault hub j 0 3
        else (s.modStep j (fun y => { y with closes := y.closes.set src.toNat count.toNat })).tryClose j src.toNat

/-! ### Combine (R472–R475) -/

/-- The output row of slot `n` of a gate, times its weight. -/
def State.contribution (s : State) (j : Nat) (g : List Byte) (n : Nat) (w : Word) : List Word :=
  let x := s.lc j (gLc g)
  let base := bytesAt g 0x1C 4 + n * gOut g * 1024
  (List.range (gOut g * 256)).map (fun k =>
    f32Mul w (BitVec.ofNat 32 (leNat (x.bytesOf { lo := base + 4 * k, len := 4 }))))

/-- The contributions of one token, fresh or spilled, by ascending expert (R472). -/
def State.contributions (s : State) (j : Nat) (token : Word) (spilled : Bool) : List (List Word) :=
  (imgGateList (s.job j).image).filterMap (fun g =>
    let slots := (s.gate j (gExpert g)).slots
    let n := slots.findIdx (fun o => match o with | some t => t.index == token && t.spilled == spilled | none => false)
    match slots.getD n none with
    | some t => some (s.contribution j g n t.weight)
    | none => none)

/-- Adds rows in order onto a row, or onto the first of them. -/
def sumRows : Option (List Word) → List (List Word) → Option (List Word)
  | acc, [] => acc
  | none, r :: rs => sumRows (some r) rs
  | some a, r :: rs => sumRows (some (List.zipWith f32Add a r)) rs

/-- Elements of a result row. -/
def rowLen (b : List Byte) : Nat := gOut (imgGate b 1) * 256

/-- The bytes of a row in `RFMT` (R472). -/
def rowOut (b : List Byte) (row : List Word) : List Byte :=
  if jRfmt b = 1 then row.flatMap (fun w => leBytes 2 (toBf16 .nearest w)) else row.flatMap (fun w => leBytes 4 w.toNat)

/-- Tokens with fresh rows in the step, once each, and tokens whose spilled contributions are kept. -/
def State.freshTokens (s : State) (j : Nat) : List Word :=
  (s.job j).gates.reached.foldl (fun l r => if l.contains r.1 then l else l ++ [r.1]) []

/-- Spilled tokens that the step kept. -/
def State.spilledTokens (s : State) (j : Nat) : List Word :=
  (imgGateList (s.job j).image).foldl (fun l g =>
    ((s.gate j (gExpert g)).slots.filterMap id).foldl (fun l t => if t.spilled && !l.contains t.index then l ++ [t.index] else l) l) []

/-- The DPA of a token's row, while the result extent may be written (R473). -/
def State.rowDpa (s : State) (j : Nat) (token : Word) : Option Nat :=
  let x := s.job j
  let bytes := rowLen x.image * (if jRfmt x.image = 1 then 2 else 4)
  let off := jResultOff x.image + token.toNat * bytes
  match x.refs[jResultRef x.image]? with
  | some r =>
    if r.mapped ∧ s.refRights r / 2 % 2 = 1 ∧ off + bytes ≤ 2 ^ 28 then some (r.extent * 2 ^ 28 + off) else none
  | none => none

/-- The hub that homes the first line of a token's row, whose slalom unit forms the sum (R473). -/
def State.rowHub (s : State) (j : Nat) (token : Word) : Nat :=
  let x := s.job j
  match x.refs[jResultRef x.image]? with
  | some r => s.homeHub ((r.extent * 2 ^ 28 + jResultOff x.image
      + token.toNat * (rowLen x.image * (if jRfmt x.image = 1 then 2 else 4))) / 64)
  | none => x.saveHub 0

/-- The hub that homes the first line of an access. -/
def State.accHub (s : State) (id : Nat) : Option Nat :=
  match s.accesses.get? id with
  | some a => a.lines.head?.map (fun l => s.homeHub l.line)
  | none => none

/-- Writes one combined row (R473). -/
def State.writeRow (s : State) (j : Nat) (token : Word) (row : List Word) (media : List Medium) : State :=
  match s.rowDpa j token with
  | some dpa =>
    let b := rowOut (s.job j).image row
    let id := s.nextAccess
    (s.startDpa 4 j dpa b.length true b media).modStep j (fun y => { y with writes := y.writes ++ [id] })
  | none => s.gateFault (s.rowHub j token) j 0 5

/-- The experts that a token reached in the step or is kept for from the step before, each with the source recorded there (R472, R474). -/
def State.expertsOf (s : State) (j : Nat) (token : Word) : List (Nat × BitVec 16) :=
  ((s.job j).gates.reached.filter (fun r => r.1 == token)).map (fun r => (r.2.1, r.2.2))
    ++ (imgGateList (s.job j).image).flatMap (fun g =>
      ((s.gate j (gExpert g)).slots.filterMap id).filterMap (fun t =>
        if t.spilled ∧ t.index = token then some (gExpert g, t.source) else none))

/-- The lowest-numbered expert of a token and the source recorded for it (R474). -/
def State.lowestOf (s : State) (j : Nat) (token : Word) : Nat × BitVec 16 :=
  match s.expertsOf j token with
  | [] => (0, 0)
  | r :: rs => rs.foldl (fun a b => if b.1 < a.1 then b else a) r

/-- Sends a combined row in `RESULT` packets (R474), which name the token's lowest-numbered expert (notes/assumptions/79.md). -/
def State.sendRow (s : State) (j : Nat) (token : Word) (rstatus : Nat) (data : List Byte) : State :=
  let x := s.job j
  let (expert, source) := s.lowestOf j token
  (List.range (max 1 ((data.length + 255) / 256))).foldl (fun s p =>
    let d := (data.drop (256 * p)).take 256
    s.sendPkt source.toNat 5 4 (BitVec.ofNat 160 (4 + j * 2 ^ 8 + expert * 2 ^ 24 + token.toNat * 2 ^ 40 + x.step * 2 ^ 104 + p * 2 ^ 128
      + rstatus * 2 ^ 144 + (s.rsb (some source.toNat)).toNat * 2 ^ 152)) (bytesCells ((d.length + 31) / 32) d)) s

/-- The token has spilled contributions of the step before and none of this step, so that they are added to its row as read (R473). -/
def State.ontoRow (s : State) (j : Nat) (token : Word) : Bool :=
  jCombine (s.job j).image == 1 && (s.contributions j token false).isEmpty && !(s.contributions j token true).isEmpty

/-- One fresh token's row goes out: the step's own sum, with spilled contributions of the token on top of it (R472–R474). -/
def State.combineFresh (s : State) (j : Nat) (media : List Medium) (token : Word) : State :=
  let b := (s.job j).image
  let own := sumRows none (s.contributions j token false)
  if jCombine b = 1 then
    if s.ontoRow j token then s
    else s.writeRow j token ((sumRows own (s.contributions j token true)).getD (List.replicate (rowLen b) 0)) media
  else match own with
    | some row => s.sendRow j token 0 (rowOut b row)
    | none => s.sendRow j token 1 []

/-- The words of a row as the result extent holds it. -/
def rowIn (bytes : List Byte) : List Word := (List.range (bytes.length / 4)).map (fun k => BitVec.ofNat 32 (bytesAt bytes (4 * k) 4))

/-- The spilled contributions of one token go out: added to the row as read, unless the step's own sum has taken them, or returned for the
host to add (R473, R474). -/
def State.combineSpilled (s : State) (j : Nat) (media : List Medium) (token : Word) : State :=
  let b := (s.job j).image
  let sp := s.contributions j token true
  if jCombine b = 1 then
    if ¬s.ontoRow j token then s
    else match (s.job j).gates.reads.find? (fun r => r.1 == token.toNat) with
      | some r =>
        if s.accStatus r.2 = .ok then s.writeRow j token ((sumRows (some (rowIn (s.accBytes r.2))) sp).getD []) media
        else s.gateFault (s.rowHub j token) j 0 5
      | none => s.gateFault (s.rowHub j token) j 0 5
  else match sumRows none sp with
    | some row => s.sendRow j token 2 (rowOut b row)
    | none => s

/-- Asks for the rows that spilled contributions are added to (R473). -/
def State.readRows (s : State) (j : Nat) (media : List Medium) : State :=
  let b := (s.job j).image
  let l := (s.spilledTokens j).filter (fun t => s.ontoRow j t && !(s.job j).gates.reads.any (fun r => r.1 == t.toNat))
  l.foldl (fun s t =>
    match s.rowDpa j t with
    | some dpa =>
      let id := s.nextAccess
      (s.startDpa 4 j dpa (rowLen b * 4) false [] media).modStep j (fun y => { y with reads := y.reads ++ [(t.toNat, id)] })
    | none => s.gateFault (s.rowHub j t) j 0 5) s

/-- Every logical cluster has yielded or halted. -/
def State.allArrived (s : State) (j : Nat) : Bool :=
  (s.job j).lcs.all (fun i => (s.lc j i).phase == .yielded || (s.lc j i).phase == .halted)

/-- The step saw a token or a `CLOSE`, so that it has a combine (R475). -/
def GateStep.seen (g : GateStep) : Bool := g.touched || !g.closes.isEmpty

/-- The combine of the step may be formed: a step that has seen tokens is closed, and a closed one prepared (R471, R475). -/
def GateStep.ready (g : GateStep) : Bool := g.seen && (!g.touched || g.closed) && (!g.closed || g.prepared)

/-- `COMBINE`: the rows of the step are formed and written or returned (R472–R475). A later `COMBINE` of the step asks again for
what was refused for retry, and goes on once the rows to be added to have been read. A step that only `CLOSE`s have reached takes no token
after its combine (notes/assumptions/79.md). -/
def execCombine (job : BitVec 12) (media : List Medium) (s : State) : Answer :=
  let j := job.toNat
  .next (
    let x := s.job j
    if x.state ≠ .running ∨ s.fatal ∨ ¬s.allArrived j ∨ ¬x.gates.ready then s
    else if x.gates.combined then
      let (l, s) := s.accResendAll media x.gates.writes
      (s.modStep j (fun y => { y with writes := l })).cohEnd .clean
    else
      let (l, s) := s.accResendAll media (x.gates.reads.map (·.2))
      let s := s.modStep j (fun y => { y with reads := (y.reads.map (·.1)).zip l })
      let s := (s.readRows j media).cohEnd .clean
      if (s.job j).state ≠ .running ∨ ¬(s.job j).gates.reads.all (fun r => s.accOver r.2 && s.accStatus r.2 != .retry) then s
      else
        let s := (s.freshTokens j).foldl (fun s t => if (s.job j).state = .running then s.combineFresh j media t else s) s
        let s := (s.spilledTokens j).foldl (fun s t => if (s.job j).state = .running then s.combineSpilled j media t else s) s
        let s := s.accDrop ((s.job j).gates.reads.map (·.2))
        (s.modStep j (fun y => { y with combined := true, closed := true, prepared := true, reads := [] })).cohEnd .clean)

/-! ### Gathers and selections (R477–R483) -/

/-- The requests of a hub's gather engine. -/
def State.gathers (s : State) (h : Nat) : List Gather := (s.slgHub h).gathers
/-- Replaces a request of the engine. -/
def State.setGather (s : State) (h : Nat) (g : Gather) : State :=
  s.modSlg h (fun x => { x with gathers := x.gathers.map (fun y => if y.host = g.host ∧ y.gtag = g.gtag then g else y) })
/-- Removes it. -/
def State.dropGather (s : State) (h : Nat) (g : Gather) : State :=
  s.modSlg h (fun x => { x with gathers := x.gathers.filter (fun y => !(y.host == g.host && y.gtag == g.gtag)) })

/-- Line reads that a hub's engine keeps in flight (R480). -/
def State.gatherFlight (s : State) (h : Nat) : Nat :=
  s.accesses.foldl (fun a e => match e.2.owner with
    | .engine 3 k => if k = h then a + e.2.lines.countP (fun l => !l.done) else a
    | _ => a) 0

/-- Starts reads of `n` bytes at pool addresses, as far as 1,024 lines in flight allow; answers the accesses begun. -/
def State.gatherReads (s : State) (h : Nat) (host : BitVec 10) (n : Nat) (media : List Medium) : List Nat → List Nat × State
  | [] => ([], s)
  | a :: r =>
    if 1024 < s.gatherFlight h + (n + 63) / 64 then ([], s)
    else
      let id := s.nextAccess
      let s := (s.startHost (.engine 3 h) host.toNat a n false [] media).bump h 0x0C 0x82 0 ((n + 63) / 64)
      let (l, s) := s.gatherReads h host n media r
      (id :: l, s)

/-- The pool addresses of a request's rows. -/
def Gather.rowAddrs (g : Gather) : List Nat := g.idx.map (fun i => g.addr + i * g.rowBytes)

/-- The pool addresses of the blocks that a selection returns. -/
def Gather.blockAddrs (g : Gather) : List Nat :=
  if g.ret then (g.list.getD []).map (fun e => g.blockAddr + e.2.toNat * g.blockBytes) else []

/-- The bytes of a read that was delivered in full, or zeros (R479). -/
def State.fullBytes (s : State) (id n : Nat) : List Byte :=
  if s.accStatus id = .ok then s.accBytes id else List.replicate n 0

/-- The elements of a row as FP32. -/
def rowFp (fmt : Nat) (b : List Byte) : List Word :=
  if fmt = 1 then (List.range (b.length / 2)).map (fun k => BitVec.ofNat 32 (bytesAt b (2 * k) 2 * 65536)) else rowIn b

/-- Pools the rows of a gather (R478). -/
def poolRows (gop : Nat) (rows : List (List Word)) : List Word :=
  match rows with
  | [] => []
  | r :: rs =>
    if gop = 3 then rs.foldl (fun a b => List.zipWith f32Max a b) r
    else
      let sum := rs.foldl (fun a b => List.zipWith f32Add a b) r
      if gop = 2 then sum.map (fun w => f32DivNat w rows.length) else sum

/-- The score of one summary row (R482). -/
def scoreRow (query row : List Word) : Word :=
  let p := List.zipWith f32Mul query row
  let chunks := (List.range ((p.length + 255) / 256)).map (fun c => reduce f32Add (ofLanes (((p.drop (256 * c)).take 256) ++
    List.replicate (256 - min 256 (p.length - 256 * c)) 0)))
  match chunks with | [] => 0 | c :: r => r.foldl f32Add c

/-- The entries of a selection's list as bytes (R483). -/
def listBytes (l : List (Word × Word)) : List Byte := l.flatMap (fun e => leBytes 4 e.1.toNat ++ leBytes 4 e.2.toNat)

/-- The data and status of a finished request. -/
def State.gatherResult (s : State) (g : Gather) : PStatus × List Byte :=
  let st := worstOf ((g.rows ++ g.blocks).map s.accStatus)
  if g.select then
    if worstOf (g.rows.map s.accStatus) ≠ .ok then
      (st, List.replicate (min g.op g.count * (8 + if g.ret then g.blockBytes else 0)) 0)
    else (st, listBytes (g.list.getD []) ++ g.blocks.flatMap (fun id => s.fullBytes id g.blockBytes))
  else if g.op = 0 then (st, g.rows.flatMap (fun id => s.fullBytes id g.rowBytes))
  else if st ≠ .ok then (st, List.replicate (g.rowBytes / (if g.fmt = 1 then 2 else 4) * 4) 0)
  else (st, (poolRows g.op (g.rows.map (fun id => rowFp g.fmt (s.accBytes id)))).flatMap (fun w => leBytes 4 w.toNat))

/-- Takes a request as far as it goes: rows, then the list and the blocks of a selection, then the answer. -/
def State.gatherGo (s : State) (h : Nat) (g : Gather) (media : List Medium) : State :=
  let (more, s) := s.gatherReads h g.host g.rowBytes media (g.rowAddrs.drop g.rows.length)
  let g := { g with rows := g.rows ++ more }
  let s := (s.setGather h g).cohEnd .clean
  if g.rows.length < g.count ∨ ¬g.rows.all s.accOver then s
  else
    let scored := decide (worstOf (g.rows.map s.accStatus) = .ok)
    let (g, s) : Gather × State :=
      if ¬g.select ∨ g.list.isSome then (g, s)
      else
        let l := if scored then topK (min g.op g.count) (g.rows.zipIdx.map (fun r =>
            (scoreRow g.query (rowFp g.fmt (s.accBytes r.1)), BitVec.ofNat 32 r.2))) else []
        ({ g with list := some l }, s.bump h 0x0C 0x83 0 g.count)
    let (more, s) := s.gatherReads h g.host g.blockBytes media (g.blockAddrs.drop g.blocks.length)
    let g := { g with blocks := g.blocks ++ more }
    (s.setGather h g).cohEnd .clean

/-- A request is over: every row and block has been read. -/
def State.gatherOver (s : State) (g : Gather) : Bool :=
  g.started && decide (g.rows.length = g.count) && g.rows.all s.accOver && (!g.select || g.list.isSome)
    && decide (g.blocks.length = g.blockAddrs.length) && g.blocks.all s.accOver

/-- The request data so far, in packet order. -/
def Gather.data (g : Gather) : List Byte := g.parts.flatMap (·.2)

/-- A packet of a request arrives: the first takes a place in the engine or is refused (R480); with the last the reads begin. -/
def State.gatherPacket (s : State) (h : Nat) (g : Gather) (part need : Nat) (data : List Byte) (valid : Gather → Option Gather)
    (media : List Medium) : State :=
  let old := (s.gathers h).find? (fun y => y.host == g.host && y.gtag == g.gtag && !y.started)
  match (if part = 0 then none else old) with
  | none =>
    if part ≠ 0 then s
    else if 64 ≤ (s.gathers h).length then
      let (b, s) := s.freeBackoff
      (s.modSlg h (fun x => { x with gatherRefused := satAdd x.gatherRefused 1 })).sendGresult g.host g.gtag .retry b []
    else
      let g := { g with parts := [(0, data)] }
      let s := s.modSlg h (fun x => { x with gathers := x.gathers ++ [g] })
      if g.data.length < need then s
      else match valid g with
        | some g => s.gatherGo h { g with started := true } media
        | none => (s.dropGather h g).sendGresult g.host g.gtag .illegal 0 []
  | some y =>
    let y := { y with parts := y.parts.set part data }
    let s := s.setGather h y
    if y.data.length < need then s
    else match valid y with
      | some y => s.gatherGo h { y with started := true } media
      | none => (s.dropGather h y).sendGresult y.host y.gtag .illegal 0 []

/-- A `GATHER` packet is taken (R477, R478, R480, R809); `hub` is the ingress hub and `data` the packet's indices, 4 bytes each. -/
def State.gatherIn (s : State) (hub : Fin 8) (host : BitVec 10) (gtag : BitVec 12) (gop : BitVec 2) (efmt rowUnits : BitVec 8) (count : BitVec 16)
    (table : BitVec 52) (part : Fin 16) (data : List Byte) (media : List Medium) : State :=
  let g : Gather := { host := host, gtag := gtag, op := gop.toNat, fmt := efmt.toNat, count := count.toNat,
                      rowBytes := rowUnits.toNat * 64, addr := table.toNat }
  let good := 1 ≤ count.toNat ∧ count.toNat ≤ 1024 ∧ 1 ≤ rowUnits.toNat ∧ rowUnits.toNat ≤ 32 ∧ table.toNat % 64 = 0
    ∧ efmt.toNat ≤ 1 ∧ (gop = 0 → efmt = 0)
  if ¬s.hears host then s
    else if s.fatal then (if part = 0 then s.sendGresult host gtag .failed 0 [] else s)
    else if ¬good then (if part = 0 then s.sendGresult host gtag .illegal 0 [] else s)
    else s.gatherPacket hub g part (4 * g.count) data (fun g =>
      some { g with idx := (List.range g.count).map (fun k => bytesAt g.data (4 * k) 4) }) media

/-- A `SELECT` packet is taken (R481–R483, R809). -/
def State.selectIn (s : State) (hub : Fin 8) (host : BitVec 10) (gtag : BitVec 12) (k : BitVec 8) (sfmt : BitVec 8) (d : BitVec 16)
    (sumAddr : BitVec 52) (part : BitVec 8) (data : List Byte) (media : List Medium) : State :=
  let size := if sfmt = 1 then 2 else 4
  let g : Gather := { host := host, gtag := gtag, select := true, op := if k = 0 then 256 else k.toNat, fmt := sfmt.toNat,
                      rowBytes := d.toNat * size, addr := sumAddr.toNat }
  let good := sfmt.toNat ≤ 1 ∧ 32 ≤ d.toNat ∧ d.toNat ≤ 1024 ∧ d.toNat % 32 = 0 ∧ sumAddr.toNat % 64 = 0
  if ¬s.hears host then s
    else if s.fatal then (if part = 0 then s.sendGresult host gtag .failed 0 [] else s)
    else if ¬good then (if part = 0 then s.sendGresult host gtag .illegal 0 [] else s)
    else s.gatherPacket hub g part.toNat (32 + d.toNat * size) data (fun g =>
      let b := g.data
      let n := bytesAt b 8 4
      let bb := bytesAt b 0x0C 4
      let ret := bytesAt b 0x10 1
      if bytesAt b 0 8 < 2 ^ 52 ∧ 1 ≤ n ∧ n ≤ 1048576 ∧ 64 ≤ bb ∧ bb ≤ 65536 ∧ bb % 64 = 0 ∧ ret ≤ 1 ∧ bytesAt b 0x11 15 = 0 then
        some { g with
          count := n, idx := List.range n, query := rowFp g.fmt ((b.drop 32).take (d.toNat * size)),
          blockAddr := bytesAt b 0 8, blockBytes := bb, ret := ret == 1 }
      else none) media

/-! ### Packets for the engines (R92) -/

/-- A quiesce holds a hub that a packet needs: its ingress hub, or a hub of the job's gates that it may reach. -/
def State.engineHeld (s : State) (hub job : Nat) (expert : Option Nat) : Bool :=
  let x := s.job job
  s.si.hold.hubs != 0 && (s.si.hold.hubs.getLsbD hub
    || (imgGateList x.image).any (fun g => (match expert with | some e => gExpert g == e | none => true)
      && s.si.hold.hubs.getLsbD (s.gateHub job g)))

/-- The packet waits for the end of a quiesce; in the fatal state nothing waits (R809). -/
def State.engineWaits (s : State) (x : EngineMsg) : Bool :=
  !s.fatal && (match x with
    | .token hub _ job expert .. => s.engineHeld hub job.toNat (some expert.toNat)
    | .close hub _ job .. => s.engineHeld hub job.toNat none
    | .gather hub .. | .select hub .. => s.si.hold.hubs.getLsbD hub)

/-- A packet for the slalom unit or the gather engine arrives: it is taken, or held with its hub (R92). -/
def State.engineIn (s : State) (x : EngineMsg) (media : List Medium) : State :=
  if s.engineWaits x then { s with si := { s.si with heldEngine := s.si.heldEngine ++ [x] } }
  else match x with
    | .token hub src job expert token weight step part data => s.tokenIn hub src job expert token weight step part data
    | .close hub src job count step => s.closeIn hub src job count step
    | .gather hub host gtag gop efmt rowUnits count table part data =>
      s.gatherIn hub host gtag gop efmt rowUnits count table part data media
    | .select hub host gtag k sfmt d sumAddr part data => s.selectIn hub host gtag k sfmt d sumAddr part data media

/-- `TOKEN` (R462, R466). -/
def execToken (hub : Fin 8) (src : BitVec 10) (job expert : BitVec 12) (token weight : Word) (step : BitVec 20) (part : BitVec 16)
    (data : List Byte) (s : State) : Answer :=
  .next (s.engineIn (.token hub src job expert token weight step part data) [])

/-- `CLOSE` (R462, R470). -/
def execClose (hub : Fin 8) (src : BitVec 10) (job : BitVec 12) (count : Word) (step : BitVec 20) (s : State) : Answer :=
  .next (s.engineIn (.close hub src job count step) [])

/-- `GATHER` (R477). -/
def execGather (hub : Fin 8) (host : BitVec 10) (gtag : BitVec 12) (gop : BitVec 2) (efmt rowUnits : BitVec 8) (count : BitVec 16)
    (table : BitVec 52) (part : Fin 16) (data : List Byte) (media : List Medium) (s : State) : Answer :=
  .next (s.engineIn (.gather hub host gtag gop efmt rowUnits count table part data) media)

/-- `SELECT` (R481). -/
def execSelect (hub : Fin 8) (host : BitVec 10) (gtag : BitVec 12) (k : BitVec 8) (sfmt : BitVec 8) (d : BitVec 16)
    (sumAddr : BitVec 52) (part : BitVec 8) (data : List Byte) (media : List Medium) (s : State) : Answer :=
  .next (s.engineIn (.select hub host gtag k sfmt d sumAddr part data) media)

/-- `GATHER_DONE`: the lines of a gather or selection have been read and its `GRESULT` packets are sent, or more of its reads begin
(R479, R480, R483). -/
def execGatherDone (hub : Fin 8) (host : BitVec 10) (gtag : BitVec 12) (media : List Medium) (s : State) : Answer :=
  .next (match (s.gathers hub).find? (fun y => y.host == host && y.gtag == gtag && y.started) with
    | none => s
    | some g =>
      if s.fatal then s
      else if ¬s.gatherOver g then s.gatherGo hub g media
      else
        let (st, data) := s.gatherResult g
        let (b, s) : BitVec 4 × State := if st = .retry then s.freeBackoff else (0, s)
        ((s.accDrop (g.rows ++ g.blocks)).dropGather hub g).sendGresult host gtag st b data)

end Sys2Proof.Machine
end

