-- ==== Sys2Proof/Machine/RunImage.lean ====
section
/-! DEFINITION. RunImage.lean: the checks of a run image (R442–R446, R464, R465). -/
namespace Sys2Proof.Machine
open Sys2Proof

/-- Checks a run of bytes for zeros. -/
def zerosAt (b : List Byte) (off n : Nat) : Bool := ((b.drop off).take n).all (· == 0)

/-- The lengths of the nine sections that the header fixes; INIT keeps the length its entry gives (R444). -/
def secLengths (b : List Byte) : List Nat :=
  let refs := imgExtrefs b
  let weights := (List.range refs).countP (fun k => bytesAt b (imgSec b 5 + 16 * k + 3) 1 == 1)
  [16 * imgLogical b, 32 * imgBundles b, 32 * imgRegions b, imgLen b 4, 16 * refs, imgSteps b, 32, 80 * weights, 32 * imgGates b]

/-- The directory follows R442 and R444, from section `id` on; the bytes before it end at offset `at_`, and padding is zero. -/
def dirOk (b : List Byte) : Nat → Nat → List Nat → Bool
  | _, at_, [] => decide (at_ ≤ bytesAt b 8 4 ∧ bytesAt b 8 4 ≤ (at_ + 63) / 64 * 64) && zerosAt b at_ 64
  | id, at_, n :: r =>
    let off := (at_ + 63) / 64 * 64
    let e := 0x80 + 16 * (id - 1)
    decide (bytesAt b e 1 = id ∧ bytesAt b (e + 1) 1 = 1 ∧ bytesAt b (e + 2) 2 = 0 ∧ imgSec b id = off ∧ imgLen b id = n
      ∧ bytesAt b (e + 12) 4 = 0) && zerosAt b at_ (off - at_) && dirOk b (id + 1) (off + n) r

/-- Entries of a section. -/
def entriesOf (b : List Byte) (id size n : Nat) : List (List Byte) :=
  (List.range n).map (fun k => (b.drop (imgSec b id + size * k)).take size)

/-- Reserved fields of the entries are zero (R445, R464). -/
def reservedOk (b : List Byte) : Bool :=
  zerosAt b 0x24 28 && decide (bytesAt b 0x0F 1 < 4)
    && (entriesOf b 1 16 (imgLogical b)).all (fun e => zerosAt e 8 8)
    && (entriesOf b 3 32 (imgRegions b)).all (fun e => zerosAt e 3 1 && zerosAt e 0x16 10)
    && (entriesOf b 5 16 (imgExtrefs b)).all (fun e => zerosAt e 4 4)
    && ((b.drop (imgSec b 6)).take (imgSteps b)).all (fun x => decide (x.toNat < 16))
    && (entriesOf b 8 80 (imgLen b 8 / 80)).all (fun e => zerosAt e 2 14)
    && (entriesOf b 9 32 (imgGates b)).zipIdx.all (fun e =>
      if e.2 = 0 then zerosAt e.1 7 1 && zerosAt e.1 0x0A 6 && zerosAt e.1 0x18 8 else decide (bytesAt e.1 1 1 < 16))

/-- Fields of a staging region (R445). -/
def regionOk (b e : List Byte) : Bool :=
  let lc := bytesAt e 0 2
  let src := bytesAt e 2 1
  let stg := bytesAt e 4 4
  let len := bytesAt e 8 4
  let off := bytesAt e 0x0C 8
  let ref := bytesAt e 0x14 2
  decide (lc < imgLogical b ∨ lc = 0xFFFF) && decide (stg % 64 = 0 ∧ len % 64 = 0 ∧ stg + len ≤ imgStaging b)
    && (if src = 1 then decide (off + len ≤ imgLen b 4 ∧ ref = 0)
        else decide (src = 2 ∧ off + len ≤ 2 ^ 28 ∧ ref < imgExtrefs b))

/-- Fields of an extent reference (R445). -/
def refOk (e : List Byte) : Bool :=
  let r := bytesAt e 2 1
  let role := bytesAt e 3 1
  let va := bytesAt e 8 8
  decide ((r = 1 ∨ r = 3 ∨ r = 7) ∧ 1 ≤ role ∧ role ≤ 5 ∧ va % 2 ^ 28 = 0 ∧ va < 2 ^ 48)

/-- The references that WDIGESTS names: those with `ROLE` 1, ascending (R445). -/
def wdigestsOk (b : List Byte) : Bool :=
  let named := (entriesOf b 8 80 (imgLen b 8 / 80)).map (fun e => bytesAt e 0 2)
  let weights := (List.range (imgExtrefs b)).filter (fun k => bytesAt b (imgSec b 5 + 16 * k + 3) 1 == 1)
  decide (named = weights)

/-- Check 5: every header and entry field lies in its range. -/
def rangesOk (b : List Byte) : Bool :=
  decide (1 ≤ imgLogical b ∧ imgLogical b ≤ 1024) && decide (1 ≤ imgSteps b ∧ imgSteps b ≤ 1048576)
    && decide (imgStaging b % 4096 = 0 ∧ 4096 ≤ imgStaging b ∧ imgStaging b ≤ stagingTop)
    && decide (1 ≤ imgBundles b ∧ imgBundles b ≤ 2097152) && decide (bytesAt b 8 4 ≤ 2 ^ 28) && decide (imgGates b ≤ 4096)
    && (List.range (imgLogical b)).all (fun i =>
      let (start, len, entry) := imgCode b i
      decide (1 ≤ len ∧ len ≤ 16384 ∧ entry < len ∧ start + len ≤ imgBundles b))
    && (entriesOf b 3 32 (imgRegions b)).all (regionOk b) && (entriesOf b 5 16 (imgExtrefs b)).all refOk && wdigestsOk b

/-! ### Bundles (R417–R437) -/

/-- A MOVE slot holds `NOP` or an `MDESC` without unused bits (R418, R420). -/
def moveOk (w : Nat) : Bool := w == 0 || (w % 256 == 1 && decide (w / 2 ^ 27 = 0))

/-- A MATRIX slot (R418); `full` adds R426, which reserves `SPARSE` 3. -/
def matrixOk (full : Bool) (w : Nat) : Bool :=
  match w % 256 with
  | 0 => w == 0
  | 1 => decide (fieldN w 28 13 = 0 ∧ fieldN w 32 32 = 0 ∧ fieldN w 63 39 = 0) && !(full && fieldN w 31 30 == 3)
  | 2 => decide (fieldN w 12 8 = 0 ∧ fieldN w 31 30 = 0 ∧ fieldN w 63 39 = 0) && (fieldN w 28 28 == 1 || fieldN w 27 23 == 0)
  | _ => false

/-- The operand fields of a vector operation: VD, VA, VB, VC, SX, T and SR with SY (R432). -/
structure VecUse where
  va : Bool := false
  vb : Bool := false
  vc : Bool := false
  sx : Bool := false
  t : Bool := false
  sr : Bool := false

/-- What a vector opcode uses beside VD; none for a reserved opcode. -/
def vecUse (op : Nat) : Option VecUse :=
  if 1 ≤ op ∧ op ≤ 0x0D then some { va := true, vb := true }
  else if op = 0x0E then some { va := true, vb := true, vc := true }
  else if op = 0x0F ∨ op = 0x17 then some { sx := true }
  else if 0x10 ≤ op ∧ op ≤ 0x16 then some { va := true }
  else if op = 0x18 ∨ op = 0x1A ∨ op = 0x1C ∨ op = 0x28 ∨ op = 0x29 then some { va := true }
  else if op = 0x19 ∨ op = 0x1B ∨ op = 0x1D then some { va := true, vb := true }
  else if op = 0x20 ∨ op = 0x21 then some { va := true, vb := true, vc := true, sx := true }
  else if op = 0x30 then some { sx := true, t := true }
  else if op = 0x31 then some { sx := true, t := true, sr := true }
  else none

/-- A VECTOR slot (R418); `full` adds R431, under which `SY` is even. -/
def vectorOk (full : Bool) (w : Nat) : Bool :=
  if w = 0 then true
  else match vecUse (w % 256) with
    | none => false
    | some u =>
      let sr := decide (fieldN w 49 49 = 1)
      (u.va || fieldN w 17 13 == 0) && (u.vb || fieldN w 22 18 == 0) && (u.vc || fieldN w 27 23 == 0)
        && (u.sx || fieldN w 33 28 == 0) && (u.t || fieldN w 44 40 == 0) && (u.sr || !sr)
        && (if sr then !full || fieldN w 34 34 == 0 else fieldN w 39 34 == 0) && decide (fieldN w 48 45 = 0 ∧ fieldN w 63 56 = 0)

/-- Bounds of the D, A, B and IMM fields of a CONTROL opcode, each exclusive; 1 where the field is unused (R434, R435). -/
def ctlBounds (op : Nat) : Option (Nat × Nat × Nat × Nat) :=
  let any : Nat := 2 ^ 32
  if op = 0x01 ∨ (7 ≤ op ∧ op ≤ 9) then some (64, 64, 64, any)
  else if (2 ≤ op ∧ op ≤ 6) ∨ op = 0x0A ∨ op = 0x0B then some (64, 64, 64, 1)
  else if op = 0x0C ∨ op = 0x0D then some (64, 1, 1, any)
  else if op = 0x10 then some (16, 64, 1, any)
  else if op = 0x11 then some (16, 16, 64, any)
  else if op = 0x12 then some (64, 16, 1, 1)
  else if op = 0x20 then some (1, 1, 1, 2 ^ 14)
  else if 0x21 ≤ op ∧ op ≤ 0x24 then some (1, 64, 64, 2 ^ 14)
  else if op = 0x25 then some (64, 1, 1, 2 ^ 14)
  else if op = 0x30 ∨ op = 0x31 then some (32, 1, 1, 2 ^ 16)
  else if op = 0x32 ∨ op = 0x39 then some (1, 1, 1, 1)
  else if op = 0x33 then some (64, 1, 1, 2 ^ 12)
  else if op = 0x38 then some (1, 1, 1, any)
  else if op = 0x3A then some (64, 1, 1, 8)
  else if op = 0x3B then some (1, 1, 1, 2 ^ 16)
  else if op = 0x40 then some (64, 64, 1, any)
  else if op = 0x41 then some (1, 64, 64, any)
  else if op = 0x42 then some (32, 64, 1, any)
  else if op = 0x43 then some (1, 64, 32, any)
  else if op = 0x44 then some (32, 32, 64, any)
  else none

/-- A CONTROL slot (R418: an unused field is zero); `full` adds the bounds of R434 and R435. -/
def controlOk (full : Bool) (w : Nat) : Bool :=
  if w = 0 then true
  else match ctlBounds (w % 256) with
    | none => false
    | some (d, a, b, i) =>
      let fits (v bound : Nat) : Bool := decide (v < bound) || (!full && decide (bound ≠ 1))
      fits (fieldN w 13 8) d && fits (fieldN w 19 14) a && fits (fieldN w 25 20) b && fieldN w 31 26 == 0 && fits (fieldN w 63 32) i
        && (!full || w % 256 != 0x30 || fieldN w 63 32 != 0)

/-- A bundle obeys R417 and R418; `full` adds the rest of check 6: R431, R434 and R435, and that `YIELD` and `HALT` stand alone (R437). -/
def bundleOk (full : Bool) (l : List DWord) : Bool :=
  let w (k : Nat) : Nat := (l.getD k 0).toNat
  moveOk (w 0) && matrixOk full (w 1) && vectorOk full (w 2) && controlOk full (w 3)
    && (!full || !(w 3 % 256 == 0x38 || w 3 % 256 == 0x39) || (w 0 == 0 && w 1 == 0 && w 2 == 0))

/-- A logical cluster's range: its bundles obey the opcode tables, its branch targets lie within it, and its last bundle leaves it (R446,
check 6). -/
def rangeOk (b : List Byte) (i : Nat) : Bool :=
  let (start, len, _) := imgCode b i
  let ctl (n : Nat) : Nat := ((imgBundle b (start + n)).getD 3 0).toNat
  (List.range len).all (fun n => bundleOk true (imgBundle b (start + n))) && (List.range len).all (fun n =>
    let op := ctl n % 256
    !(decide (0x20 ≤ op ∧ op ≤ 0x25)) || decide (fieldN (ctl n) 63 32 < len))
    && (let op := ctl (len - 1) % 256
        op == 0x20 || op == 0x38 || op == 0x39)

/-! ### Gates (R464, R465) -/

/-- The job entry of GATES. -/
def jobEntryOk (b : List Byte) : Bool :=
  let e := imgGate b 0
  let ref := jResultRef b
  let off := jResultOff b
  let r := (b.drop (imgSec b 5 + 16 * ref)).take 16
  decide (bytesAt e 0 1 = 2) && decide (1 ≤ jPolicy b ∧ jPolicy b ≤ 3) && decide (1 ≤ jSources b ∧ jSources b ≤ 1024)
    && decide (jCombine b = 1 ∨ jCombine b = 2) && decide (jRfmt b ≤ 1) && decide (1 ≤ jTopk b ∧ jTopk b ≤ 8)
    && (if jCombine b = 1 then
          decide (ref < imgExtrefs b ∧ bytesAt r 3 1 = 3 ∧ bytesAt r 2 1 / 2 % 2 = 1 ∧ off % 64 = 0)
        else decide (ref = 0 ∧ off = 0))
    && !(jPolicy b == 2 && jCombine b == 1 && jRfmt b != 0)

/-- One gate entry. -/
def gateOk (b g : List Byte) : Bool :=
  let n := gCap g
  let region (base size : Nat) : Bool := decide (base % 64 = 0 ∧ base + size ≤ imgStaging b)
  decide (bytesAt g 0 1 = 1) && decide (1 ≤ gFmt g ∧ gFmt g ≤ 7) && decide (gExpert g ≤ 4095 ∧ gLc g < imgLogical b)
    && decide (1 ≤ n ∧ n ≤ 4096) && decide (1 ≤ gWin g ∧ gWin g ≤ 64) && decide (1 ≤ gOut g ∧ gOut g ≤ 64)
    && decide (gOut g = gOut (imgGate b 1))
    && (if jPolicy b = 2 then decide (gSpill g ≤ 4096) else decide (gSpill g = 0))
    && region (bytesAt g 0x0C 4) (n * gSlotBytes g)
    && (if isMx (gFmt g) then region (bytesAt g 0x10 4) (n * gWin g * 8) else decide (bytesAt g 0x10 4 = 0))
    && region (bytesAt g 0x14 4) (n * 16) && region (bytesAt g 0x18 4) (gWin g * n)
    && region (bytesAt g 0x1C 4) (n * gOut g * 1024)

/-- The numbers rise strictly. -/
def rising : List Nat → Bool
  | a :: b :: r => decide (a < b) && rising (b :: r)
  | _ => true

/-- Check 9 (R465). -/
def gatesOk (b : List Byte) : Bool :=
  imgGates b == 0 || (jobEntryOk b && (imgGateList b).all (gateOk b) && rising ((imgGateList b).map gExpert))

/-! ### The checks (R446) -/

/-- The references of an image. -/
def imgRefs (b : List Byte) : List JRef :=
  (entriesOf b 5 16 (imgExtrefs b)).map (fun e =>
    { extent := bytesAt e 0 2, rights := bytesAt e 2 1, role := bytesAt e 3 1, va := bytesAt e 8 8 })

/-- No value occurs twice. -/
def distinct (l : List Nat) : Bool := (dedup l).length == l.length

/-- The rights that the tenant has in an extent: those in force in any map entry of its hosts (R118, R446; notes/assumptions/30.md). -/
def State.tenantRights (s : State) (e : Nat) : Nat :=
  (s.maps.flatMap (fun x => (x.2.filter (fun y => y.2.extent.toNat == e && y.2.mark != .draining)).map (fun y =>
    rightsCode (s.inForce y.2)))).foldl Nat.lor 0

/-- Check 7: carved extents of the job's tenant, within its rights in force. Outside Open no extent is a tenant's (R682). -/
def State.refsOk (s : State) (refs : List JRef) : Bool :=
  refs.all (fun r => s.ten.state == .open_ && (s.extents.get? r.extent).isSome && Nat.land r.rights (s.tenantRights r.extent) == r.rights)
    && distinct (refs.map (·.extent)) && distinct (refs.map (·.va))

/-- The load result of an image: 0 when it passes, otherwise that of the first check that fails (R446). -/
def State.imageResult (s : State) (b : List Byte) : Nat :=
  if ¬(b.take 4 = [0x46, 0x58, 0x52, 0x49] ∧ bytesAt b 4 2 = 1 ∧ bytesAt b 6 2 = 128 ∧ bytesAt b 0x0C 1 = 9
      ∧ bytesAt b 8 4 = b.length) then 1
  else if digestBytes (Config.sha512 (b.drop 0x80)) ≠ (b.drop 0x40).take 64 then 2
  else if ¬(bytesAt b 0x0D 1 = 1 ∧ bytesAt b 0x0E 1 = 1) then 3
  else if ¬(reservedOk b ∧ dirOk b 1 0x110 (secLengths b)) then 4
  else if ¬rangesOk b then 5
  else if ¬((List.range (imgBundles b)).all (fun n => bundleOk false (imgBundle b n)) ∧ (List.range (imgLogical b)).all (rangeOk b)) then 6
  else if ¬s.refsOk (imgRefs b) then 7
  else if imgPairs b ∧ s.eff.u8 .clusters 0 ≠ 1 then 8
  else if ¬gatesOk b then 9
  else 0

end Sys2Proof.Machine
end

