-- ==== Sys2Proof/Machine/Jobs.lean ====
section
/-! DEFINITION. Jobs.lean: the meanings of the job commands, the barrier, time slices and pairs mode (R489–R517, R437, R649). -/
namespace Sys2Proof.Machine
open Sys2Proof

/-! ### Entries (R489) -/

/-- `n` bytes of an entry's `OPERAND` from offset `off`. -/
def opB (e : SubEntry) (off n : Nat) : Nat := e.operand.toNat / 2 ^ (8 * off) % 2 ^ (8 * n)

/-- The fields of a job command lie in their ranges, and every field it does not use is 0 (R489). -/
def jobCmdOk (e : SubEntry) : Bool :=
  let op := e.opcode.toNat
  let pool := e.poolAddr.toNat
  !e.reserved && decide (e.length = 0 ∧ e.hostAddr = 0 ∧ e.rkey = 0 ∧ e.atop = 0 ∧ e.compare = 0)
    && (if op = 0x40 then decide (pool < 2 ^ 52 ∧ opB e 4 8 < 2 ^ 52 ∧ opB e 12 2 ≤ 60000 ∧ opB e 14 2 = 0)
        else if op = 0x41 then decide (pool = 0 ∧ opB e 2 1 < 4)
        else if op = 0x44 then decide (pool < 2 ^ 52 ∧ opB e 2 1 ≤ 1 ∧ opB e 3 13 = 0)
        else decide (0x40 ≤ op ∧ op ≤ 0x47 ∧ pool = 0 ∧ opB e 2 14 = 0))

/-! ### Reads and writes in chunks -/

/-- Starts reads of 4 KiB chunks of a host's pool addresses; answers the accesses. -/
def State.hostChunks (s : State) (unit id host addr bytes : Nat) (write : Bool) (data : List Byte) (media : List Medium) :
    List Nat → List Nat × State
  | [] => ([], s)
  | c :: r =>
    let acc := s.nextAccess
    let n := min 4096 (bytes - 4096 * c)
    let s := s.startHost (.engine unit id) host (addr + 4096 * c) n write ((data.drop (4096 * c)).take n) (media.drop (64 * c))
    let (l, s) := s.hostChunks unit id host addr bytes write data media r
    (acc :: l, s)

/-- Chunks of a length. -/
def chunksOf (bytes : Nat) : List Nat := List.range ((bytes + 4095) / 4096)

/-- Starts reads of bytes at a DPA by chunks of 4 KiB. -/
def State.dpaChunks (s : State) (unit id dpa bytes : Nat) (media : List Medium) : List Nat → List Nat × State
  | [] => ([], s)
  | c :: r =>
    let acc := s.nextAccess
    let s := s.startDpa unit id (dpa + 4096 * c) (min 4096 (bytes - 4096 * c)) false [] (media.drop (64 * c))
    let (l, s) := s.dpaChunks unit id dpa bytes media r
    (acc :: l, s)

/-- Starts the reads of a whole extent. -/
def State.extentRead (s : State) (unit id : Nat) (media : List Medium) (e : Nat) : List Nat × State :=
  s.dpaChunks unit id (e * 2 ^ 28) (2 ^ 28) media (chunksOf (2 ^ 28))

/-- Starts reads of whole extents, one after another. -/
def State.extentReads (s : State) (unit id : Nat) (media : List Medium) : List Nat → List Nat × State
  | [] => ([], s)
  | e :: r =>
    let p := s.extentRead unit id media e
    let q := p.2.extentReads unit id media r
    (p.1 ++ q.1, q.2)

/-- Every access of a list has finished and none was refused for retry. -/
def State.allOver (s : State) (l : List Nat) : Bool := l.all (fun id => s.accOver id && s.accStatus id != .retry)
/-- Every access of a list finished with status OK. -/
def State.allOk (s : State) (l : List Nat) : Bool := l.all (fun id => s.accStatus id == .ok)
/-- The bytes of a list of accesses, in order. -/
def State.bytesOfAll (s : State) (l : List Nat) : List Byte := l.flatMap s.accBytes

/-- The roots of extents whose bytes a list of accesses holds, one after another (R493). -/
def State.rootsOf (s : State) (n : Nat) (l : List Nat) : List (List Byte) :=
  (List.range n).map (fun k => treeRoot (s.bytesOfAll ((l.drop (65536 * k)).take 65536)))

/-! ### Loading (R492) -/

/-- `MAX_JOBS` of the CLUSTERS section. -/
def State.maxJobs (s : State) : Nat := s.eff.u16 .clusters 2
/-- `OVERCOMMIT`. -/
def State.overcommit (s : State) : Bool := s.eff.u8 .clusters 1 == 1

/-- What stands for the job in an access of a load that has no job number yet. -/
def noJob : Nat := 4096

/-- `JLOAD` (R489, R492): the part begins to read the image. -/
def execJload (queue : BitVec 14) (media : List Medium) (s : State) : Answer :=
  .next (s.issueCmd queue.toNat 0x40 (fun r s =>
    let e := r.entry
    let host := s.queueHost queue.toNat
    let bytes := opB e 0 4
    let (l, s) := s.hostChunks 2 noJob host e.poolAddr.toNat bytes false [] media (chunksOf bytes)
    let x : JLoad := { cmd := ⟨queue.toNat, r.id⟩, host := host, ckptAddr := opB e 4 8, bytes := bytes, watchdogMs := opB e 12 2,
                       accs := l }
    ({ s with jobg := { s.jobg with loads := s.jobg.loads ++ [x] } } : State).cohEnd .clean))

/-- Takes a load off the list. -/
def State.dropLoad (s : State) (x : JLoad) : State :=
  (s.accDrop x.accs |> fun s => { s with jobg := { s.jobg with loads := s.jobg.loads.filter (fun y => y.cmd != x.cmd) } })

/-- Replaces a load on the list. -/
def State.setLoad (s : State) (x : JLoad) : State :=
  { s with jobg := { s.jobg with loads := s.jobg.loads.map (fun y => if y.cmd = x.cmd then x else y) } }

/-- A load fails: everything it had taken is free again (R492), and a `JWAIT` on its job completes (R490): with 0x14 when the job was ended,
with 0x0F when it never came to be (notes/assumptions/30.md). -/
def State.loadFail (s : State) (x : JLoad) (jresult cause : Nat) : State :=
  let s := s.dropLoad x
  let s : State := match x.job with
    | some j =>
      (s.job j).waits.foldl (fun s c => s.completeCmd c.queue c.id .ok (jobResult (if cause = 0 then 0x0F else 0x14) j { cause := cause }) 0)
        { s with jobs := s.jobs.erase j, lcs := s.lcs.keep (fun k => k / 1024 != j) }
    | none => s
  s.completeCmd x.cmd.queue x.cmd.id .ok (jobResult jresult (x.job.getD 0) { cause := cause }) 0

/-- A load succeeds. -/
def State.loadDone (s : State) (x : JLoad) (j : Nat) : State :=
  ((s.dropLoad x).modJob j (fun y => { y with state := .loaded })).jobDone x.cmd 0 j

/-- Step 5: the checkpoint's header is read, or there is none. -/
def State.loadHead (s : State) (x : JLoad) (j : Nat) (media : List Medium) : State :=
  if x.ckptAddr = 0 then s.loadDone x j
  else
    let s := s.accDrop x.accs
    let (l, s) := s.hostChunks 2 j x.host x.ckptAddr 128 false [] media [0]
    (s.setLoad { x with phase := .head, accs := l }).cohEnd .clean

/-- The lowest number that no resident job holds. -/
def State.freeJob (s : State) : Nat := (List.range 4096).findIdx (fun j => (s.jobs.get? j).isNone)

/-- A load of `n` logical clusters on these save hubs would use a cluster whose `ALLOC` a commit changes, so that it waits (R98): a logical
cluster may run on every enabled cluster of its save hub (R494). -/
def State.loadHeld (s : State) (hubs : List Nat) (n : Nat) : Bool :=
  (hubs.take n).any (fun h => (List.range 14).any (fun k => s.si.hold.clusters.getLsbD (14 * h + k)))

/-- Steps 2 to 4: the checks, the job number, the tables and the save space, and the start of the weight reads. -/
def State.loadImage (s : State) (x : JLoad) (media : List Medium) : State :=
  let b := s.bytesOfAll x.accs
  if ¬s.allOk x.accs then s.loadFail x 0x0E 0
  else
    let r := s.imageResult b
    if r ≠ 0 then s.loadFail x r 0
    else if s.loadHeld s.saveCandidates (imgLogical b) then s
    else if s.maxJobs ≤ s.jobs.length then s.loadFail x 0x0C 0
    else
      let j := s.freeJob
      let s := s.accDrop x.accs
      let hubs := s.saveCandidates
      let job : Job := { state := .loading, image := b, watchdogMs := x.watchdogMs, saveHubs := hubs, refs := imgRefs b }
      let x := { x with job := some j, accs := [] }
      let s := ({ s with jobs := s.jobs.set j job } : State).setLoad x
      match s.buildTables j with
      | none => s.loadFail x 0x0B 0
      | some s =>
        let need (h : Nat) : Nat := if s.overcommit then 0 else job.reserveOn h
        if hubs.isEmpty ∨ ¬s.serviceHubs.all (fun h => decide (s.savedOn h + need h ≤ s.saveArea h * 2 ^ 30)) then s.loadFail x 0x0B 0
        else
          let s := s.modJob j (fun y => { y with reserved := !s.overcommit })
          match (imgRoots b).map (fun r => (job.refs.getD r.1 ⟨0, 0, 0, 0, true, false⟩).extent) with
          | [] => s.loadHead x j media
          | es =>
            let (l, s) := s.extentReads 2 j media es
            (s.setLoad { x with phase := .weights, accs := l }).cohEnd .clean

/-- Step 4: the weight roots are compared. -/
def State.loadWeights (s : State) (x : JLoad) (j : Nat) (media : List Medium) : State :=
  let roots := (imgRoots (s.job j).image).map (·.2)
  if s.allOk x.accs ∧ s.rootsOf roots.length x.accs = roots then s.loadHead x j media else s.loadFail x 0x0A 0

/-! ### Checkpoints (R510, R511) -/

/-- `n` little-endian values of `size` bytes at an offset, as a table without its zeros. -/
def valuesAt (b : List Byte) (off size n w : Nat) : SMap (BitVec w) :=
  (List.range n).filterMap (fun k =>
    let v : BitVec w := BitVec.ofNat w (bytesAt b (off + size * k) size)
    if v = 0 then none else some (k, v))

/-- The registers of a state block. -/
def regsOf (b : List Byte) : LcRegs :=
  { s := valuesAt b 0 8 64 64, a := valuesAt b 0x200 8 16 64, t := valuesAt b 0x280 16 32 128, sem := valuesAt b 0x480 2 32 16,
    pc := BitVec.ofNat 14 (bytesAt b 0x4C0 2), v := valuesAt b 0x800 1024 32 8192 }

/-- A state block: 64 KiB. -/
def blockBytes (r : LcRegs) : List Byte :=
  (List.range 64).flatMap (fun k => leBytes 8 (r.s.getD k 0).toNat) ++ (List.range 16).flatMap (fun k => leBytes 8 (r.a.getD k 0).toNat)
    ++ (List.range 32).flatMap (fun k => leBytes 16 (r.t.getD k 0).toNat)
    ++ (List.range 32).flatMap (fun k => leBytes 2 (r.sem.getD k 0).toNat) ++ leBytes 2 r.pc.toNat
    ++ List.replicate (0x800 - 0x4C2) 0 ++ (List.range 32).flatMap (fun k => leBytes 1024 (r.v.getD k 0).toNat)
    ++ List.replicate (65536 - 0x8800) 0

/-- The bytes of a staging table. -/
def stagingBytes (m : SMap Byte) (n : Nat) : List Byte := (List.range n).map (fun a => m.getD a 0)

/-- A staging table from its bytes. -/
def stagingOf (b : List Byte) : SMap Byte := b.zipIdx.filterMap (fun e => if e.1 = 0 then none else some (e.2, e.1))

/-- A spill record (R510). -/
def spillBytes (expert : Nat) (t : Token) : List Byte :=
  leBytes 2 expert ++ leBytes 2 t.source.toNat ++ leBytes 4 t.index.toNat ++ leBytes 4 t.weight.toNat ++ leBytes 4 t.data.length
    ++ List.replicate 16 0 ++ t.data ++ List.replicate ((64 - t.data.length % 64) % 64) 0

/-- The checkpoint of a job at its yield point (R510). -/
def State.ckptBytes (s : State) (j : Nat) : List Byte :=
  let x := s.job j
  let spills := x.spilledIn.flatMap (fun e => e.2.map (fun t => (e.1, t)))
  let body := x.lcs.flatMap (fun i => blockBytes (s.lc j i).regs ++ stagingBytes (s.lc j i).staging (imgStaging x.image))
    ++ spills.flatMap (fun e => spillBytes e.1 e.2)
  [0x46, 0x58, 0x43, 0x4B] ++ leBytes 2 1 ++ leBytes 2 (imgLogical x.image) ++ leBytes 4 x.step ++ leBytes 4 (imgStaging x.image)
    ++ leBytes 4 spills.length ++ leBytes 2 x.flags.toNat ++ leBytes 2 0 ++ leBytes 8 (128 + body.length)
    ++ (digestBytes (Config.sha512 body)).take 16 ++ leBytes 16 x.inputs.toNat ++ progDigest x.image ++ body

/-- Reads `n` spill records. -/
def spillsOf (b : List Byte) : Nat → Nat → List (Nat × Token)
  | 0, _ => []
  | n + 1, off =>
    let len := bytesAt b (off + 12) 4
    (bytesAt b off 2, { index := BitVec.ofNat 32 (bytesAt b (off + 4) 4), weight := BitVec.ofNat 32 (bytesAt b (off + 8) 4),
                        source := BitVec.ofNat 16 (bytesAt b (off + 2) 2), spilled := true, data := (b.drop (off + 32)).take len })
      :: spillsOf b n (off + 32 + (len + 63) / 64 * 64)

/-- A checkpoint's header matches the image (R511). -/
def ckptHeadOk (x : Job) (h : List Byte) : Bool :=
  decide (h.take 4 = [0x46, 0x58, 0x43, 0x4B]) && decide (bytesAt h 4 2 = 1 ∧ bytesAt h 6 2 = imgLogical x.image
    ∧ bytesAt h 0x0C 4 = imgStaging x.image ∧ bytesAt h 8 4 < imgSteps x.image ∧ 1 ≤ bytesAt h 8 4
    ∧ 128 + imgLogical x.image * (65536 + imgStaging x.image) ≤ bytesAt h 0x18 8) && decide ((h.drop 0x40).take 64 = progDigest x.image)

/-- The header has been read: compares it, and begins to read the body. -/
def State.loadBody (s : State) (x : JLoad) (j : Nat) (media : List Medium) : State :=
  if ¬s.allOk x.accs then s.loadFail x 0x0E 0
  else
    let h := s.bytesOfAll x.accs
    if ¬ckptHeadOk (s.job j) h then s.loadFail x 0x0D 0
    else
      let n := bytesAt h 0x18 8 - 128
      let (l, s) := s.hostChunks 2 j x.host (x.ckptAddr + 128) n false [] media (chunksOf n)
      (s.setLoad { x with phase := .body, accs := x.accs ++ l }).cohEnd .clean

/-- The whole checkpoint has been read: the job is loaded with what it holds (R511). -/
def State.loadCkpt (s : State) (x : JLoad) (j : Nat) : State :=
  let b := s.bytesOfAll x.accs
  if ¬s.allOk x.accs then s.loadFail x 0x0E 0
  else if (digestBytes (Config.sha512 (b.drop 128))).take 16 ≠ (b.drop 0x20).take 16 then s.loadFail x 0x0D 0
  else
    let job := s.job j
    let st := imgStaging job.image
    let n := bytesAt b 8 4
    let s := job.lcs.foldl (fun s i =>
      let blk := b.drop (128 + i * (65536 + st))
      let regs := regsOf (blk.take 65536)
      let stg := stagingOf ((blk.drop 65536).take st)
      s.modLc j i (fun _ => { regs := regs, staging := stg, copy := some { step := n, regs := regs, staging := stg } })) s
    let spills := spillsOf b (bytesAt b 0x10 4) (128 + imgLogical job.image * (65536 + st))
    let s := s.modJob j (fun y => { y with
      step := n, lastDone := some (n - 1), flags := BitVec.ofNat 5 (bytesAt b 0x14 2) ||| 2,
      inputs := BitVec.ofNat 128 (bytesAt b 0x30 16),
      spilledIn := spills.foldl (fun m e => m.mod e.1 [] (fun l => l ++ [e.2])) [] })
    s.loadDone x j

/-- `JLOAD_DONE`: what the load under way was reading has been read, and it takes its next step (R492). What was refused for retry is
asked for again. A load that would use a cluster whose `ALLOC` a commit changes waits where it stands (R98). -/
def execJloadDone (queue : BitVec 14) (id : Nat) (media : List Medium) (s : State) : Answer :=
  .next (match s.jobg.loads.find? (fun x => x.cmd == ⟨queue.toNat, id⟩) with
    | none => s
    | some x =>
      if s.fatal then s
      else
        let (l, s) := s.accResendAll media x.accs
        let x := { x with accs := l }
        let s := (s.setLoad x).cohEnd .clean
        if ¬s.allOver l then s
        else if (match x.job with | some j => s.loadHeld (s.job j).saveHubs (imgLogical (s.job j).image) | none => false) then s
        else match x.phase, x.job with
          | .image, _ => s.loadImage x media
          | .weights, some j => s.loadWeights x j media
          | .head, some j => s.loadBody x j media
          | .body, some j => s.loadCkpt x j
          | _, none => s)

/-! ### Launch (R497, R498, R512–R514) -/

/-- The job that a command names, while it is resident and the number is one a job can have. -/
def State.jobOf (s : State) (e : SubEntry) : Option Nat :=
  let j := opB e 0 2
  if (s.jobs.get? j).isSome then some j else none

/-- A launch is turned away: the job is loaded as before. -/
def State.launchFail (s : State) (j jresult : Nat) : State :=
  match (s.job j).launch with
  | none => s
  | some l =>
    let accs := (l.inputs.getD []) ++ (l.regions.getD [])
    let s := (s.accDrop accs).modJob j (fun x => { x with state := .loaded, launch := none })
    s.jobDone l.cmd jresult j

/-- The body of the part's own `PHELLO` (R513). -/
def State.helloBody (s : State) (x : Job) : List Byte :=
  (recordBytes { x with lastDone := none }).take 0x38 ++ leBytes 2 (imgLogical x.image) ++ [if s.zlg.locked then 1 else 0]
    ++ List.replicate 5 0

/-- The handshake fails: `PSTOP` goes out and the launch ends with 0x13 (R514). -/
def State.helloFail (s : State) (j : Nat) : State := (s.sendPair (s.job j) 0x12 0 0 0 0 []).launchFail j 0x13

/-- Changes the launch of a job. -/
def State.modLaunch (s : State) (j : Nat) (f : Launch → Launch) : State := s.modJob j (fun x => { x with launch := x.launch.map f })

/-- Sends the part's own `PHELLO` (R514), which passes only once the key exchange with the peer is complete (R694); until then it is not
sent. -/
def State.sendHello (s : State) (j : Nat) (l : Launch) : State :=
  if s.ten.peers.contains (BitVec.ofNat 8 l.peerDev) then
    (s.sendPair { s.job j with pairId := l.pairId, peerDev := l.peerDev } 0x10 0 0 0 l.time.toNat (s.helloBody (s.job j))).modLaunch j
      (fun l => { l with helloSent := true })
  else s

/-- Compares the peer's `PHELLO`, once it has come and the part's own has gone out (R514). -/
def State.compareHello (s : State) (j : Nat) : State :=
  let x := s.job j
  match x.launch with
  | none => s
  | some l =>
    match s.jobg.hellos.get? l.pairId.toNat with
    | none => s
    | some (body, time) =>
      if ¬l.helloSent ∨ l.helloOk then s
      else
        let s : State := { s with jobg := { s.jobg with hellos := s.jobg.hellos.erase l.pairId.toNat } }
        if body = s.helloBody x ∧ time = l.time ∧ s.zlg.locked ∧ (body.getD 58 0).getLsbD 0 ∧ l.peerDev ≠ s.zlg.devNum.toNat then
          s.modJob j (fun x => { x with launch := x.launch.map (fun l => { l with helloOk := true }) })
        else s.helloFail j

/-- The digest of the inputs is formed, or is not wanted (R497, R506). -/
def State.digestInputs (s : State) (j : Nat) (l : Launch) (media : List Medium) : State :=
  let x := s.job j
  if l.digested then s
  else if ¬imgDigest x.image ∨ x.flags.getLsbD 1 then s.modLaunch j (fun l => { l with digested := true })
  else
    let es := (x.refs.filter (fun r => r.role == 2)).map (·.extent)
    match l.inputs with
    | none =>
      let (a, s) := s.extentReads 8 j media es
      (s.modLaunch j (fun l => { l with inputs := some a })).cohEnd .clean
    | some a =>
      let (a, s) := s.accResendAll media a
      let s := (s.modLaunch j (fun l => { l with inputs := some a })).cohEnd .clean
      if ¬s.allOver a then s
      else if ¬s.allOk a then s.launchFail j 0x0E
      else
        let d := (digestBytes (Config.sha512 (s.rootsOf es.length a).flatten)).take 16
        (((s.accDrop a).modJob j (fun x => { x with inputs := BitVec.ofNat 128 (leNat d) })).modLaunch j (fun l =>
          { l with inputs := some [], digested := true }))

/-- The launch goes on: the inputs digest, then the handshake of a pair (R497, R514). -/
def State.launchGo (s : State) (j : Nat) (media : List Medium) : State :=
  match (s.job j).launch with
  | none => s
  | some l =>
    let s := s.digestInputs j l media
    match (s.job j).launch with
    | none => s
    | some l =>
      let x := s.job j
      if ¬imgPairs x.image ∨ ¬l.digested then s
      else
        (if l.helloSent then s else s.sendHello j l).compareHello j

/-- `JLAUNCH` (R489, R497). -/
def execJlaunch (queue : BitVec 14) (media : List Medium) (s : State) : Answer :=
  .next (s.issueCmd queue.toNat 0x41 (fun r s =>
    let e := r.entry
    let c : JCmd := ⟨queue.toNat, r.id⟩
    match s.jobOf e with
    | none => s.jobRefuse c 0x0F (opB e 0 2)
    | some j =>
      let x := s.job j
      let time := opB e 8 8
      let now := s.clk.poolTime.toNat
      if ¬imgPairs x.image ∧ (opB e 3 1 ≠ 0 ∨ opB e 4 4 ≠ 0) then s.completeStatus c.queue c.id .illegal
      else if x.state ≠ .loaded then s.jobDone c 0x10 j
      else if time ≠ 0 ∧ (time ≤ now ∨ now + 60000000000 < time) then s.jobDone c 0x11 j
      else if time ≠ 0 ∧ ¬s.zlg.locked then s.jobDone c 0x12 j
      else
        let fl := opB e 2 1
        let l : Launch := { cmd := c, time := BitVec.ofNat 64 time, locked := s.zlg.locked, saveAtYield := fl % 2 == 1, divContinue := fl / 2 == 1,
                            peerDev := opB e 3 1, pairId := BitVec.ofNat 32 (opB e 4 4) }
        (s.modJob j (fun x => { x with
          state := .launchPending, launch := some l, pairId := l.pairId, peerDev := l.peerDev })).launchGo j media))

/-- A staging region's bytes: from INIT, or as read from its extent. -/
def Job.regionData (x : Job) (k : Nat) : List Byte :=
  let e := (x.image.drop (imgSec x.image 3 + 32 * k)).take 32
  if bytesAt e 2 1 = 1 then (x.image.drop (imgSec x.image 4 + bytesAt e 0x0C 8)).take (bytesAt e 8 4) else x.regionBytes.getD k []

/-- The state of R413 of a logical cluster. -/
def Job.freshLc (x : Job) (i : Nat) : Lc :=
  let put (m : SMap Byte) (k : Nat) : SMap Byte :=
    let e := (x.image.drop (imgSec x.image 3 + 32 * k)).take 32
    if bytesAt e 0 2 = i ∨ bytesAt e 0 2 = 0xFFFF then
      (x.regionData k).zipIdx.foldl (fun m b =>
        if b.1 = 0 then m.erase (bytesAt e 4 4 + b.2) else m.set (bytesAt e 4 4 + b.2) b.1) m
    else m
  { regs := { pc := BitVec.ofNat 14 (imgCode x.image i).2.2 }, staging := (List.range (imgRegions x.image)).foldl put [] }

/-- Starts the reads of the staging regions taken from extents, in table order; those whose extent the job may not read any more
have no access. -/
def State.regionReads (s : State) (j : Nat) (media : List Medium) : List Nat → List Nat × State
  | [] => ([], s)
  | k :: r =>
    let x := s.job j
    let e := (x.image.drop (imgSec x.image 3 + 32 * k)).take 32
    let ref := x.refs.getD (bytesAt e 0x14 2) ⟨0, 0, 0, 0, false, false⟩
    let acc := s.nextAccess
    let s := s.startDpa 5 j (ref.extent * 2 ^ 28 + bytesAt e 0x0C 8) (bytesAt e 8 4) false [] media
    let (l, s) := s.regionReads j media r
    (acc :: l, s)

/-- The regions of an image that come from extents. -/
def extRegions (b : List Byte) : List Nat :=
  (List.range (imgRegions b)).filter (fun k => bytesAt b (imgSec b 3 + 32 * k + 2) 1 == 2)

/-- A superstep is offered to the ledger: its resident logical clusters wait for admission (R437, R498). -/
def State.offerAll (s : State) (j : Nat) : State :=
  (s.job j).lcs.foldl (fun s i =>
    if (s.lc j i).phase = .waiting ∧ (s.lc j i).place.isSome then
      s.modLc j i (fun x => { x with phase := .offered, since := s.clk.now })
    else s) (s.modJob j (fun x => { x with offered := true }))

/-- The launch instant (R498); `UNLOCKED` is set when `LOCKED` has cleared since the launch was accepted (R497). -/
def State.launchNow (s : State) (j : Nat) (l : Launch) : State :=
  let resumed := (s.job j).flags.getLsbD 1
  let flags : BitVec 5 := (if l.locked ∧ ¬s.zlg.locked then 8 else 0) ||| (if imgPairs (s.job j).image then 16 else 0)
  let s := s.modJob j (fun x => { x with
    state := .running, flags := x.flags ||| flags, saveAtYield := l.saveAtYield, divContinue := l.divContinue, launch := none,
    launched := true })
  let s := if resumed then s else (s.job j).lcs.foldl (fun s i => s.modLc j i (fun _ => (s.job j).freshLc i)) s
  ((s.openGates j).offerAll j).jobDone l.cmd 0 j

/-- `LAUNCH`: the launch instant has come, or the launch takes a step toward it (R496–R498, R514). -/
def execLaunch (job : BitVec 12) (media : List Medium) (s : State) : Answer :=
  let j := job.toNat
  .next (if s.fatal ∨ (s.job j).state ≠ .launchPending then s
    else
      let s := s.launchGo j media
      match (s.job j).launch with
      | none => s
      | some l =>
        let x := s.job j
        if ¬l.digested ∨ (imgPairs x.image ∧ ¬l.helloOk) ∨ s.clk.poolTime.toNat < l.time.toNat then s
        else if ¬x.reserved ∧ ¬s.saveRoom x then (if l.time = 0 then s else s.launchFail j 0x0B)
        else
          let s := s.modJob j (fun x => { x with reserved := true })
          let ks := extRegions x.image
          match l.regions with
          | none =>
            if ks.isEmpty ∨ x.flags.getLsbD 1 then s.launchNow j l
            else
              let (a, s) := s.regionReads j media ks
              let s := (s.modLaunch j (fun l => { l with regions := some a })).cohEnd .clean
              if s.allOver a ∧ s.allOk a then
                (((s.modJob j (fun x => { x with regionBytes := (ks.zip a).map (fun e => (e.1, s.accBytes e.2)) })).accDrop a).launchNow j l)
              else s
          | some a =>
            let (a, s) := s.accResendAll media a
            let s := (s.modLaunch j (fun l => { l with regions := some a })).cohEnd .clean
            if ¬s.allOver a then s
            else if ¬s.allOk a then s.launchFail j 0x0E
            else
              (((s.modJob j (fun x => { x with regionBytes := (ks.zip a).map (fun e => (e.1, s.accBytes e.2)) })).accDrop a).launchNow j
                l))

/-! ### The other job commands (R489–R491, R508, R517) -/

/-- `JWAIT` (R490). -/
def execJwait (queue : BitVec 14) (s : State) : Answer :=
  .next (s.issueCmd queue.toNat 0x42 (fun r s =>
    let c : JCmd := ⟨queue.toNat, r.id⟩
    match s.jobOf r.entry with
    | none => s.jobRefuse c 0x0F (opB r.entry 0 2)
    | some j =>
      if (s.job j).state = .ended ∨ (s.job j).state = .faulted then s.jobDone c (endResult (s.job j)) j
      else s.modJob j (fun x => { x with waits := x.waits ++ [c] })))

/-- `JSTATUS` (R491). -/
def execJstatus (queue : BitVec 14) (s : State) : Answer :=
  .next (s.issueCmd queue.toNat 0x43 (fun r s =>
    let c : JCmd := ⟨queue.toNat, r.id⟩
    match s.jobOf r.entry with
    | none => s.jobRefuse c 0x0F (opB r.entry 0 2)
    | some j => s.jobDone c 0 j))

/-- A checkpoint's area takes W on every byte (R508). -/
def State.areaOk (s : State) (host addr bytes : Nat) : Bool :=
  decide (addr + bytes ≤ 2 ^ 52) && (List.range ((addr + bytes - 1) / 2 ^ 28 + 1 - addr / 2 ^ 28)).all (fun k =>
    match (s.mapOf host).get? (addr / 2 ^ 28 + k) with
    | some m => m.mark != .draining && hasW (s.inForce m)
    | none => false)

/-- The first checkpoint asked for, of bytes `b`, is begun; an area that cannot take it turns it away (R508). -/
def State.beginCkpt (s : State) (j : Nat) (c : Ckpt) (r : List Ckpt) (b : List Byte) (media : List Medium) : State :=
  if ¬s.areaOk c.host c.area b.length then
    (s.modJob j (fun x => { x with ckpts := r })).jobDone c.cmd 0x15 j
  else
    let p := s.hostChunks 6 j c.host c.area b.length true b media (chunksOf b.length)
    (p.2.modJob j (fun x => { x with ckpts := { c with accs := some p.1 } :: r })).cohEnd .clean

/-- The first checkpoint asked for is begun, at a yield point. -/
def State.startCkpt (s : State) (j : Nat) (media : List Medium) : State :=
  match (s.job j).ckpts with
  | [] => s
  | c :: r => s.beginCkpt j c r (s.ckptBytes j) media

/-- Some checkpoint asked for is due at the yield point before the job's present superstep. -/
def Job.ckptDue (x : Job) : Bool := x.ckpts.any (fun c => decide (c.step < x.step))

/-- With no checkpoint left to write at the yield point, the job goes on, unless it is held. -/
def State.afterCkpts (s : State) (j : Nat) : State :=
  if ¬(s.job j).ckptDue ∧ (s.job j).state = .running ∧ ¬(s.job j).offered then s.offerAll j else s

/-- Begins the checkpoints that a job at its yield point has been asked for, passing over those that are turned away. -/
def State.ckptsGo (s : State) (j : Nat) (media : List Medium) : Nat → State
  | 0 => s
  | n + 1 =>
    match (s.job j).ckpts with
    | [] => s.afterCkpts j
    | c :: _ =>
      if (s.job j).step ≤ c.step then s.afterCkpts j
      else if c.accs.isSome then s else (s.startCkpt j media).ckptsGo j media n

/-- The superstep at whose barrier a checkpoint asked for now is due: of a held job, its last; else the next whose barrier is to open (R508,
R517). -/
def Job.ckptStep (x : Job) : Nat := if x.state = .held then x.step - 1 else if x.comparing.isSome then x.step + 1 else x.step

/-- A checkpoint joins those asked for, in the order in which they are due. -/
def addCkpt (k : Ckpt) (l : List Ckpt) : List Ckpt :=
  l.filter (fun c => decide (c.step ≤ k.step)) ++ k :: l.filter (fun c => decide (k.step < c.step))

/-- `JCHECKPOINT` (R508): the job stops at the next barrier to open; a held job's checkpoint is written at once (R517). -/
def execJcheckpoint (queue : BitVec 14) (media : List Medium) (s : State) : Answer :=
  .next (s.issueCmd queue.toNat 0x44 (fun r s =>
    let c : JCmd := ⟨queue.toNat, r.id⟩
    let e := r.entry
    match s.jobOf e with
    | none => s.jobRefuse c 0x0F (opB e 0 2)
    | some j =>
      let st := (s.job j).state
      if st ≠ .running ∧ st ≠ .held then s.jobDone c 0x10 j
      else
        let k : Ckpt := { cmd := c, host := s.queueHost queue.toNat, area := e.poolAddr.toNat, hold := opB e 2 1 == 1,
                          step := (s.job j).ckptStep }
        let s := s.modJob j (fun x => { x with ckpts := addCkpt k x.ckpts })
        if st = .held then s.ckptsGo j media 2 else s))

/-- `JCONTINUE` (R491, R509). -/
def execJcontinue (queue : BitVec 14) (s : State) : Answer :=
  .next (s.issueCmd queue.toNat 0x45 (fun r s =>
    let c : JCmd := ⟨queue.toNat, r.id⟩
    match s.jobOf r.entry with
    | none => s.jobRefuse c 0x0F (opB r.entry 0 2)
    | some j =>
      if (s.job j).state ≠ .held then s.jobDone c 0x10 j
      else ((s.modJob j (fun x => { x with state := .running })).afterCkpts j).jobDone c 0 j))

/-- The load that has taken job number `j`. -/
def State.loadOf (s : State) (j : Nat) : Option JLoad := s.jobg.loads.find? (fun x => x.job == some j)

/-- Aborts a job (R517). -/
def State.abortJob (s : State) (j : Nat) (c : Option JCmd) : State :=
  let tell (s : State) (r : Nat) : State := match c with | some c => s.jobDone c r j | none => s
  match (s.job j).state with
  | .loading =>
    match s.loadOf j with
    | some x => tell (s.loadFail x 0x14 9) 0
    | none => s
  | .loaded | .launchPending | .running | .held =>
    (s.modJob j (fun x => { x with aborts := x.aborts ++ c.toList })).endJob j 9 0 0
  | _ => tell s 0x10

/-- `JABORT` (R517). -/
def execJabort (queue : BitVec 14) (s : State) : Answer :=
  .next (s.issueCmd queue.toNat 0x46 (fun r s =>
    let c : JCmd := ⟨queue.toNat, r.id⟩
    match s.jobOf r.entry with
    | none => s.jobRefuse c 0x0F (opB r.entry 0 2)
    | some j => s.abortJob j (some c)))

/-- `JUNLOAD` (R491, R543): the whole context is shot down; the job's resources are free once that has completed. Digest records
that were refused for retry are sent once more. -/
def execJunload (queue : BitVec 14) (media : List Medium) (s : State) : Answer :=
  .next (s.issueCmd queue.toNat 0x47 (fun r s =>
    let c : JCmd := ⟨queue.toNat, r.id⟩
    match s.jobOf r.entry with
    | none => s.jobRefuse c 0x0F (opB r.entry 0 2)
    | some j =>
      let x := s.job j
      if (x.state ≠ .ended ∧ x.state ≠ .faulted) ∨ x.retiring then s.jobDone c 0x10 j
      else
        let (l, s) := s.accResendAll media x.records
        let s := (s.modJob j (fun x => { x with records := l, retiring := true, unload := some c })).cohEnd .clean
        s.shootJob j))

/-! ### Supersteps (R437, R475, R499, R515) -/

/-- The digests of the superstep have matched, in pairs mode (R502). -/
def Job.matched (x : Job) : Bool :=
  match x.comparing with
  | some ds => ds.zipIdx.all (fun d => x.peerDigests.get? (x.step * 1024 + d.2) == some d.1)
  | none => true

/-- The barrier of superstep `n` of a job is past, and the superstep is done unless its digests differed: the job ends, or its next superstep
begins (R437, R502). -/
def State.stepDone (s : State) (j : Nat) (media : List Medium) : State :=
  let x := s.job j
  let n := x.step
  let s := s.modJob j (fun x => { x with lastDone := if x.matched then some n else x.lastDone, comparing := none })
  if s.allHalted j then s.endJob j 0 0 0
  else
    let spilled := (imgGateList x.image).foldl (fun m g =>
      let l := (s.gate j (gExpert g)).spill
      if l.isEmpty then m else SMap.set m (gExpert g) l) ([] : SMap (List Token))
    let s := s.accDrop x.gates.writes
    let s := s.modJob j (fun x => { x with
      step := n + 1, offered := false, wrote := [], read := [], gates := {}, spilledIn := spilled,
      peerDigests := x.peerDigests.keep (fun k => decide ((n + 1) * 1024 ≤ k)) })
    let s : State := { s with gates := s.gates.keep (fun k => k / 4096 != j) }
    let s := x.lcs.foldl (fun s i => s.modLc j i (fun y =>
      if y.phase = .yielded then { y with phase := .waiting, wait := .none, digest := 0 } else { y with digest := 0 })) s
    s.ckptsGo j media (x.ckpts.length + 1)

/-- Records the first divergence of a job (R515, R521, R522). -/
def State.noteDiverge (s : State) (j i : Nat) (own peer : DWord) : State :=
  let x := s.job j
  if x.diverge.isSome then s
  else
    let at_ := (s.lc j i).ranOn
    (s.modJob j (fun x => { x with
      flags := x.flags ||| 4,
      diverge := some { step := BitVec.ofNat 20 x.step, lc := BitVec.ofNat 10 i, own := own, peer := peer,
                        hub := BitVec.ofNat 3 at_.1, cluster := BitVec.ofNat 4 at_.2 } })).fireOn 4

/-- Compares the part's digests with the peer's that have come, in ascending order; answers whether all are compared (R515). -/
def State.compareDigests (s : State) (j : Nat) : List (DWord × Nat) → Bool × State
  | [] => (true, s)
  | (d, i) :: r =>
    let x := s.job j
    match x.peerDigests.get? (x.step * 1024 + i) with
    | none => (false, s)
    | some p =>
      if p = d then s.compareDigests j r
      else
        let s := s.noteDiverge j i d p
        if x.divContinue then s.compareDigests j r else (false, s.endJob j 7 0 0)

/-- A job in pairs mode goes on with its comparison; a logical cluster that a partial reset has sent back must arrive again first (R503). -/
def State.pairGo (s : State) (j : Nat) (media : List Medium) : State :=
  match (s.job j).comparing with
  | none => s
  | some ds =>
    let (all, s) := s.compareDigests j ds.zipIdx
    if all ∧ s.allArrived j then s.stepDone j media else s

/-- Sends the digests of a superstep to the peer, in packets of up to 32 (R513, R515). -/
def State.sendDigests (s : State) (j : Nat) (ds : List DWord) : State :=
  (List.range ((ds.length + 31) / 32)).foldl (fun s p =>
    let l := (ds.drop (32 * p)).take 32
    s.sendPair (s.job j) 0x11 (s.job j).step (32 * p) l.length 0 (l.flatMap (fun d => leBytes 8 d.toNat))) s

/-- A copy of every resident logical cluster is written at the yield point (R503). -/
def State.saveCopies (s : State) (j : Nat) : State :=
  if ¬(s.job j).saveAtYield then s
  else (s.job j).lcs.foldl (fun s i =>
    if (s.lc j i).place.isSome then
      s.modLc j i (fun x => { x with copy := some { step := (s.job j).step + 1, regs := x.regs, staging := x.staging } })
    else s) s

/-- `BARRIER_OPEN`: every logical cluster has arrived and the step is combined (R437, R475, R515). -/
def execBarrierOpen (job : BitVec 12) (media : List Medium) (s : State) : Answer :=
  let j := job.toNat
  .next (
    let x := s.job j
    let st := x.gates.writes.map s.accStatus
    if x.state ≠ .running ∨ s.fatal ∨ ¬s.allArrived j ∨ (x.gates.seen ∧ ¬x.gates.combined) ∨ st.contains .retry then s
    else if x.comparing.isSome then s.pairGo j media
    else if ¬st.all (· == .ok) then
      s.gateFault (((x.gates.writes.find? (fun id => s.accStatus id != .ok)).bind s.accHub).getD (x.saveHub 0)) j 0 5
    else
      let s := x.lcs.foldl (fun s i =>
        match (s.lc j i).place with
        | some (h, k) => s.lcGoes h k (BitVec.ofNat 16 x.lastArrived)
        | none => s) s
      let s := s.saveCopies j
      if imgPairs x.image then
        let ds := x.lcs.map (fun i => (s.lc j i).digest)
        ((s.modJob j (fun x => { x with comparing := some ds })).sendDigests j ds).pairGo j media
      else s.stepDone j media)

/-- Whether one waiting start comes before another: the older, then the lower job, then the lower logical cluster (R649). -/
def startsFirst (a b : Nat × Nat × Nat) : Bool :=
  decide (a.1 < b.1) || (decide (a.1 = b.1) && (decide (a.2.1 < b.2.1) || (decide (a.2.1 = b.2.1) && decide (a.2.2 < b.2.2))))

/-- The starts that wait on a hub: since when, job and logical cluster, with the physical cluster. -/
def State.waitingStarts (s : State) (h : Nat) : List ((Nat × Nat × Nat) × Nat) :=
  (List.range 14).filterMap (fun k =>
    match (s.clu h k).resident with
    | some (j, i) => if (s.lc j i).phase = .offered ∧ ¬s.cluHeld h k then some (((s.lc j i).since, j, i), k) else none
    | none => none)

/-- The start that a hub's ledger admits next: the oldest (R649). -/
def State.nextStart (s : State) (h : Nat) : Option ((Nat × Nat × Nat) × Nat) :=
  match s.waitingStarts h with
  | [] => none
  | w :: r => some (r.foldl (fun a b => if startsFirst b.1 a.1 then b else a) w)

/-- The ledger of hub `h` admits logical cluster `i` of job `j`, on cluster `k`, which has waited since `since`, with charge `c`
(R649, R650, R763). -/
def State.admitStart (s : State) (h k j i since : Nat) (c : Charge) : State :=
  let s := (s.modPwr h (fun p => { p with charges := p.charges ++ [c] })).bump h 0x0F 0x80 0 (s.clk.now - since)
  let s : State := if (s.traceHubs.getD h {}).cluStep then
      s.resetCounters ([0x80, 0x81, 0x82, 0x83, 0x84].map (fun id => cntKey h (0x10 + k) id 0)) else s
  (s.modLc j i (fun x => { x with phase := .running })).openGates j

/-- `SUPERSTEP_ADMISSION`: the ledger of a hub admits the oldest waiting start that it holds back no longer (R649, R650); the gates of
the step are open from then on (R467). -/
def execSuperstepAdmission (hub : Fin 8) (s : State) : Answer :=
  let h := hub.val
  .next (match s.nextStart h with
    | none => s
    | some ((since, j, i), k) =>
      let p := s.pwrHub h
      let c := imgClass (s.job j).image (s.job j).step
      let uj := chargeUj c (s.clkStep h)
      if s.fatal ∨ (s.hub h).phase ≠ .none ∨ (p.computeUj < p.held + uj ∧ ¬p.charges.isEmpty) then s
      else s.admitStart h k j i since { cluster := k, eclass := c, uj := uj })

/-- `SUPERSTEP_WATCHDOG` (R499): a superstep of a job with a resident logical cluster has run for `WATCHDOG_MS` since it was admitted. -/
def execSuperstepWatchdog (job : BitVec 12) (s : State) : Answer :=
  let j := job.toNat
  let x := s.job j
  .next (if x.state = .running ∧ x.watchdogMs ≠ 0 ∧ x.comparing.isNone ∧ ¬s.fatal
      ∧ x.lcs.any (fun i => (s.lc j i).place.isSome)
      ∧ x.lcs.any (fun i => (s.lc j i).phase == .running || (s.lc j i).phase == .yielded) then s.endJob j 5 0 0
    else s)

/-! ### Time slices (R494, R495, R500) -/

/-- `TIME_SLICE_SAVE`: at a yield point the resident logical cluster's state and staging go to its save area (R500). -/
def execTimeSliceSave (c : CluAt) (s : State) : Answer :=
  .next (match (s.clu c.hub c.cluster).resident with
    | none => s
    | some (j, i) =>
      let x := s.lc j i
      if s.fatal ∨ (s.hub c.hub).phase ≠ .none ∨ ¬(x.phase = .yielded ∨ x.phase = .waiting ∨ x.phase = .offered) then s
      else
        let n := (s.job j).step + (if x.phase = .yielded then 1 else 0)
        (s.modLc j i (fun x => { x with
          copy := some { step := n, regs := x.regs, staging := x.staging },
          phase := if x.phase = .offered then .waiting else x.phase })).vacate j i)

/-- The physical cluster may run a logical cluster of job `j` (R494, R495). -/
def State.mayRun (s : State) (h k j : Nat) : Bool :=
  let c := s.clu h k
  s.alloc h k != 0 && c.resident.isNone && !c.stopped && !s.cluHeld h k && (s.alloc h k != 2 || c.job.isNone || c.job == some j)

/-- A job has a logical cluster that waits for a physical cluster of hub `h` to run the open superstep. -/
def State.wantsCluster (s : State) (h j : Nat) : Bool :=
  let x := s.job j
  x.state == .running && x.offered
    && x.lcs.any (fun i => (s.lc j i).phase == .waiting && (s.lc j i).place.isNone && x.saveHub i == h)

/-- Among the jobs that wait for H*h*.C*k*, job `j` is the next in rotation after the one that ran there (R501; notes/assumptions/82.md). -/
def State.turnOf (s : State) (h k j : Nat) : Bool :=
  let after (x : Nat) : Nat := match (s.clu h k).job with | some l => (x + 4095 - l) % 4096 | none => 0
  ((s.jobs.map (·.1)).filter (fun x => x != j && s.mayRun h k x && s.wantsCluster h x)).all (fun x =>
    s.wantsCluster h j && decide (after j ≤ after x))

/-- `TIME_SLICE_RESTORE`: the scheduler places a logical cluster on a physical cluster of its save hub, the jobs taking turns (R494, R495,
R500, R501). A load of another job onto the cluster clears its error registers and sequencer state, while its translations are tagged by job
and stay (R411, R488, R531, R799; notes/assumptions/30.md). -/
def execTimeSliceRestore (c : CluAt) (job : BitVec 12) (lc : BitVec 10) (s : State) : Answer :=
  let j := job.toNat
  let i := lc.toNat
  let h := c.hub.val
  let k := c.cluster.val
  .next (
    let x := s.job j
    if s.fatal ∨ (s.hub h).phase ≠ .none ∨ x.state ≠ .running ∨ imgLogical x.image ≤ i ∨ (s.lc j i).place.isSome
        ∨ (s.lc j i).phase = .halted ∨ x.saveHub i ≠ h ∨ ¬s.mayRun h k j ∨ ¬s.turnOf h k j then s
    else
      let s := if (s.clu h k).job = some j then s else s.clusterClear h k
      let s := s.modClu h k (fun y => { y with resident := some (j, i), job := some j })
      s.modLc j i (fun y => { y with
        place := some (h, k), ranOn := (h, k), since := s.clk.now,
        phase := if y.phase = .waiting ∧ x.offered then .offered else y.phase }))

/-- Logical cluster `i` of job `j` has lost its state to a partial reset (R503). A copy of the last yield point lets it run the superstep
again, and a copy taken at the barrier that has just opened is the state itself; without either the job ends. -/
def State.lcLost (s : State) (j i : Nat) : State :=
  let x := s.job j
  let y := s.lc j i
  match y.copy with
  | none => s.endJob j 6 0 0
  | some cp =>
    let back (p : LcPhase) : State :=
      s.modLc j i (fun y => { y with regs := cp.regs, staging := cp.staging, phase := p, digest := 0 })
    if cp.step = x.step ∧ (y.phase = .running ∨ y.phase = .yielded) then
      (back .waiting).modJob j (fun x => { x with flags := x.flags ||| 1 })
    else if cp.step = x.step then back .waiting
    else if x.comparing.isSome ∧ cp.step = x.step + 1 then back .yielded
    else s.endJob j 6 0 0

/-- The open gate of a job whose staging lies on hub `h`: that of a logical cluster resident there, or its copy in the save area (R466,
R484). -/
def State.gateLost (s : State) (h j : Nat) : Option Nat :=
  let x := s.job j
  if ¬x.gates.open_ ∨ x.gates.closed ∨ x.state ≠ .running then none
  else ((imgGateList x.image).find? (fun g => match (s.lc j (gLc g)).place with
    | some p => p.1 == h
    | none => x.saveHub (gLc g) == h)).map gExpert

/-- What a partial reset of hub `h` does to the jobs that it touches: gates whose step is open are lost (R484), and otherwise the copies of
the logical clusters resident there decide (R503). -/
def State.jobsReset (s : State) (h : Nat) : State :=
  let s := (s.jobs.map (·.1)).foldl (fun s j => match s.gateLost h j with
    | some e => s.gateFault h j e 6
    | none => s) s
  (List.range 14).foldl (fun s k =>
    match (s.clu h k).resident with
    | none => s
    | some (j, i) => ((s.modLc j i (fun x => { x.idle with phase := x.phase })).vacate j i).lcLost j i) s

/-! ### Pairs mode (R513–R516) -/

/-- The job of a pair. -/
def State.pairJob (s : State) (pairId : BitVec 32) : Option Nat :=
  (s.jobs.find? (fun e => imgPairs e.2.image && e.2.pairId == pairId
    && (e.2.state == .launchPending || e.2.state == .running || e.2.state == .held))).map (·.1)

/-- `PHELLO` of part `src`; none passes before the key exchange with that part is complete (R513, R514, R694). -/
def execPhello (src : BitVec 8) (pairId : BitVec 32) (time : BitVec 64) (body : List Byte) (s : State) : Answer :=
  .next (if s.fatal ∨ ¬s.ten.peers.contains src then s
    else
      let s : State := { s with jobg := { s.jobg with hellos := s.jobg.hellos.set pairId.toNat (body, time) } }
      match s.pairJob pairId with
      | some j => s.compareHello j
      | none => s)

/-- `PHELLO_TIMEOUT` (R514). -/
def execPhelloTimeout (job : BitVec 12) (s : State) : Answer :=
  let j := job.toNat
  .next (match (s.job j).launch with
    | some l => if imgPairs (s.job j).image ∧ ¬l.helloOk ∧ ¬s.fatal then s.helloFail j else s
    | none => s)

/-- `PDIGEST` (R513, R515). -/
def execPdigest (pairId : BitVec 32) (step : BitVec 20) (firstLc : BitVec 16) (digests : List DWord) (media : List Medium)
    (s : State) : Answer :=
  .next (match s.pairJob pairId with
    | none => s
    | some j =>
      if s.fatal ∨ 32 < digests.length then s
      else
        let s := s.modJob j (fun x => { x with
          peerDigests := digests.zipIdx.foldl (fun m d => m.set (step.toNat * 1024 + firstLc.toNat + d.2) d.1) x.peerDigests })
        s.pairGo j media)

/-- `PSTOP` with the `JCAUSE` of the sender (R513, R514, R516): one without a cause refuses the launch; otherwise the peer's job has ended and
this part's ends too. -/
def execPstop (stop : PairStop) (s : State) : Answer :=
  .next (match s.pairJob stop.pairId with
    | none => s
    | some j =>
      if s.fatal then s
      else if (s.job j).state = .launchPending ∧ stop.cause = 0 then s.launchFail j 0x13
      else s.endJob j 8 0 0)

/-- `PAIRS_PEER_LOST` (R516): every port with `ROLE` 2 has been down for 100 ms. -/
def execPairsPeerLost (s : State) : Answer :=
  .next (if ¬s.pairPorts.isEmpty ∨ s.fatal then s
    else (s.jobs.map (·.1)).foldl (fun s j =>
      let x := s.job j
      if imgPairs x.image ∧ (x.state = .running ∨ x.state = .held) then s.endJob j 8 0 0 else s) s)

/-- `CHECKPOINT_COMPLETE` (R508): the checkpoint has been written, and the job is held or goes on. What was refused for retry is
written again. -/
def execCheckpointComplete (job : BitVec 12) (media : List Medium) (s : State) : Answer :=
  let j := job.toNat
  .next (match (s.job j).ckpts with
    | [] => s
    | c :: r =>
      match c.accs with
      | none => s
      | some l =>
        if s.fatal then s
        else
          let (l, s) := s.accResendAll media l
          let s := (s.modJob j (fun x => { x with ckpts := { c with accs := some l } :: r })).cohEnd .clean
          if ¬s.allOver l then s
          else
            let ok := s.allOk l
            let s := (s.accDrop l).modJob j (fun x => { x with
              ckpts := r, state := if ok && c.hold then .held else x.state })
            (s.jobDone c.cmd (if ok then 0 else 0x15) j).ckptsGo j media (r.length + 1))

end Sys2Proof.Machine
end

