-- ==== Sys2Proof/Machine/Streams.lean ====
section
/-! DEFINITION. Streams.lean: the meanings of the stream mover's commands (R420–R425, R532, R533). -/
namespace Sys2Proof.Machine
open Sys2Proof

/-- A stream goes on with its head descriptor; a refusal is a stream fault (R423, R433). -/
def State.streamRun (s : State) (j i q : Nat) (media : List Medium) : State :=
  let s := s.streamGo j i q media
  match (s.lc j i).head q with
  | some d => if d.bad then s.jobFault j i 1 0 else s
  | none => s

/-- The descriptor that an `MDESC` copies for stream `q` from the 64 bytes at `p`, with base `base`: one taken from an unaligned address
or from bytes that are being written is of free bytes, and one whose spans other operations use is marked (R420–R423, R440). The rows of
an indexed descriptor are checked by the indices that staging holds at the copy, unless these are undefined or an earlier descriptor of the
stream has still to write them (R423; notes/assumptions/26.md). -/
def State.copyDesc (s : State) (j i q : Nat) (base p : DWord) (g : VSig) : StreamDesc × State :=
  let sp : Span := { lo := p.toNat, len := 64 }
  let x := s.lc j i
  let n := imgStaging (s.job j).image
  let unknown := p.toNat % 64 ≠ 0 ∨ x.readHazard n q sp
  let (b, s) := s.readStg j i q sp
  let d : StreamDesc := if unknown then freeDesc x.nextDesc base (leNat b) g.sem g.sig else parseDesc x.nextDesc base b g.sem g.sig
  let idxFree := d.idxSpan.any (x.readHazard n q)
  let rowsOk := idxFree || (x.streams.getD q []).any (fun e => d.idxSpan.any (fun sp => meetsAny sp e.writes))
    || d.idxSpan.all (fun sp => let l := x.bytesOf sp; (List.range d.rows).all (fun r => d.rowOk (bytesAt l (4 * r) 4)))
  ({ d with
     bad := !d.free && !(d.ok b && rowsOk), idxFree := idxFree,
     tainted := d.tainted || d.reads.any (x.readHazard n q) || d.writes.any (x.writeHazard q) }, s)

/-- The copied descriptor joins the queue of its stream; the place it came from is remembered for 4 bundles (R440). -/
def State.queueDesc (s : State) (j i q : Nat) (p : DWord) (d : StreamDesc) : State :=
  (d.writes.foldl (fun s sp => (s.spoilFetch j i sp).modLc j i (fun x => x.taint q sp)) s).modLc j i (fun x => { x with
    nextDesc := x.nextDesc + 1, streams := x.streams.mod q [] (fun l => l ++ [d]),
    fetches := x.fetches ++ [{ span := { lo := p.toNat, len := 64 }, bundle := x.bundle, target := .inr (q, d.id) }] })

/-- `MDESC` (R420–R423): the descriptor is copied and queued; a stream with 16 queued descriptors holds the bundle (R441). -/
def execMdesc (c : CluAt) (stream : Fin 8) (a : Fin 16) (sx : Fin 64) (g : VSig) (media : List Medium) (s : State) : Answer :=
  .next (s.issue c.hub c.cluster 0 (moveWord 1 stream a sx g.sem g.sig) (fun j i s =>
    if 16 ≤ ((s.lc j i).streams.getD stream []).length then .blocked (s.lcWaits c.hub c.cluster j i (.full 0) 4 0 0)
    else
      let s := s.lcGoes c.hub c.cluster (BitVec.ofNat 16 stream.val)
      let (p, s) := s.readS j i sx
      let (d, s) := s.copyDesc j i stream (s.readA j i a) p g
      if d.bad then .done (s.jobFault j i 1 0)
      else
        let s := s.queueDesc j i stream p d
        .done (if ((s.lc j i).streams.getD stream []).length = 1 then s.streamRun j i stream media else s)))

/-! ### Completion (R424, R425) -/

/-- The status of a segment's access so far: a write counts once every line has its place in its line's order (R187, R424). -/
def State.segStatus (s : State) (write : Bool) (x : Seg) : Option PStatus :=
  match x.st with
  | .sent id =>
    match s.accesses.get? id with
    | some a =>
      if write then some (worstOf a.statuses)
      else if a.complete then some (worstOf a.statuses) else none
    | none => some .ok
  | .gone => some .ok
  | _ => none

/-- The bytes that a read segment brings into staging, by line of pool memory: staging address and bytes. What R439 leaves undefined is
free. -/
def State.segBytes (s : State) (x : Seg) : List (Nat × List Byte) × State :=
  match x.st with
  | .sent id =>
    let (b, s) := s.spoilBytes x.spoilt x.dpa (s.accBytes id)
    ((asksOf x.va x.bytes).map (fun a => (x.stg + a.offset, (b.drop a.offset).take a.count)), s)
  | .gone => ([(x.stg, List.replicate x.bytes 0)], s)
  | _ => ([], s)

/-- Writes bytes for a stream, or free values in their place. -/
def State.streamWrite (s : State) (j i q : Nat) (tainted : Bool) (lo : Nat) (b : List Byte) : State :=
  if tainted then
    let (v, s) := s.draw .hazard
    s.writeStg j i q lo (leBytes b.length v)
  else s.writeStg j i q lo b

/-- The transfer of a descriptor is over: what it read reaches staging, and kind 5 copies its rows. -/
def State.descMove (s : State) (j i q : Nat) (d : StreamDesc) : State :=
  if d.kind = 5 then
    (List.range d.rows).foldl (fun s r =>
      let (b, s) := s.readStg j i q { lo := d.stg + r * d.stgStride, len := d.rowBytes }
      s.streamWrite j i q d.tainted (d.stgDst + r * d.stgStride) b) s
  else if d.write then s
  else d.segs.foldl (fun s x =>
    let (l, s) := s.segBytes x
    l.foldl (fun s p => s.streamWrite j i q d.tainted p.1 p.2) s) s

/-- The accesses of a descriptor. -/
def StreamDesc.accs (d : StreamDesc) : List Nat :=
  d.segs.filterMap (fun g => match g.st with | .sent a => some a | _ => none)

/-- `DESCRIPTOR_COMPLETE`: the head descriptor of a stream finishes; it signals and the stream goes on, or a status other than OK
stops it with a stream fault (R424, R425, R436). -/
def execDescriptorComplete (c : CluAt) (stream : Fin 8) (media : List Medium) (s : State) : Answer :=
  .next (match (s.clu c.hub c.cluster).resident with
    | none => s
    | some (j, i) =>
      match (s.lc j i).head stream with
      | none => s
      | some d =>
        let st := d.segs.map (s.segStatus d.write)
        if s.fatal ∨ d.bad ∨ ¬d.started ∨ st.any (fun x => x.isNone || x == some .retry) then s
        else if ¬d.free ∧ st.any (fun x => x != some .ok) then s.jobFault j i 1 0
        else
          let s := (s.descMove j i stream d).accDrop d.accs
          let s := s.modLc j i (fun x => { x with streams := x.streams.mod stream [] (·.drop 1) })
          let s := (s.unitDone j i (d.past stream)).bump c.hub (0x10 + c.cluster.val) 0x84 0 (d.rows * d.rowBytes)
          s.streamRun j i stream media)

/-- The parts of a segment that its home refused for retry, to be translated and sent again; a read is asked for again whole. -/
def State.retrySeg (s : State) (write : Bool) (x : Seg) : List Seg :=
  match x.st with
  | .sent id =>
    match s.accesses.get? id with
    | some a =>
      if ¬a.complete ∨ ¬a.pieces.contains .retry then [x]
      else if ¬write then [{ x with st := .todo }]
      else (a.lines.filter (fun l => a.pieces.getD l.piece .ok == .retry)).map (fun l =>
        { va := x.va + l.offset, bytes := (List.range 64).countP (fun b => l.mask.getLsbD b), stg := x.stg + l.offset })
    | none => [x]
  | _ => [x]

/-- `STREAM_RETRY`: the back-off of a refused request has passed and the stream mover sends it again (R425). -/
def execStreamRetry (c : CluAt) (stream : Fin 8) (media : List Medium) (s : State) : Answer :=
  .next (match (s.clu c.hub c.cluster).resident with
    | none => s
    | some (j, i) =>
      match (s.lc j i).head stream with
      | none => s
      | some d =>
        if s.fatal ∨ d.bad then s
        else
          let parts := d.segs.map (s.retrySeg d.write)
          let segs := parts.flatMap (·.take 1) ++ parts.flatMap (·.drop 1)
          let gone := d.accs.filter (fun a => !(segs.any (fun g => g.st == .sent a)))
          let s := (s.accDrop gone).modDesc j i stream d.id (fun d => { d with segs := segs })
          s.streamRun j i stream media)

end Sys2Proof.Machine
end

