-- ==== Sys2Proof/Machine/Translation.lean ====
section
/-! DEFINITION. Translation.lean: the meanings of the commands of the engine translation (R533–R544). -/
namespace Sys2Proof.Machine
open Sys2Proof

/-- A stream goes on after some of its misses have left its queue. -/
def State.missGo (s : State) (m : Miss) : State := s.streamRun m.job m.lc m.stream []

/-- The descriptor that a miss belongs to. -/
def State.missDesc (s : State) (m : Miss) : Option StreamDesc :=
  ((s.lc m.job m.lc).streams.getD m.stream []).find? (fun d => d.id == m.desc)

/-- A miss's segment takes a new state. -/
def State.missSeg (s : State) (m : Miss) (st : SegState) : State :=
  s.modSeg m.job m.lc m.stream m.desc m.seg (fun g => { g with st := st })

/-- A miss that ends in a stream fault is logged (R536, R549), unless its descriptor's bytes were free values. -/
def State.missLog (s : State) (h kind level : Nat) (m : Miss) : State :=
  match s.missDesc m with
  | none => s
  | some d =>
    if d.free then s
    else s.modTrn h (fun t => { t with log := {
      kind := BitVec.ofNat 3 kind, level := BitVec.ofNat 2 (level - 1), stream := BitVec.ofNat 3 m.stream,
      cluster := BitVec.ofNat 4 m.cluster, job := BitVec.ofNat 12 m.job, va := BitVec.ofNat 64 m.va, valid := true } })

/-- A miss ends in a stream fault (R433). A descriptor whose bytes were free values does not fault (R440): its part is left out. -/
def State.missStop (s : State) (m : Miss) : State :=
  match s.missDesc m with
  | none => s
  | some d => if d.free then (s.missSeg m .gone).missGo m else s.jobFault m.job m.lc 1 0

/-- A miss ends in a logged stream fault (R536, R549). -/
def State.missFault (s : State) (h kind level : Nat) (m : Miss) : State := (s.missLog h kind level m).missStop m

/-- The span of an entry at a level, as a power of two (R525). -/
def levelShift (level : Nat) : Nat := 12 + 9 * (level - 1)

/-- A miss that met a held entry joins the record that covers it, or opens one of the hub's 64; else it stays queued (R537). -/
def State.missHold (s : State) (h level : Nat) (m : Miss) : State :=
  let t := s.trnHub h
  let base := m.va / 2 ^ levelShift level * 2 ^ levelShift level
  let rest := t.misses.filter (fun x => x != m)
  let m : Miss := { m with table := none }
  match t.records.find? (fun r => r.job == m.job && r.level == level && r.va == base) with
  | some r =>
    let rs := t.records.map (fun x => if x.id = r.id then { x with waiters := x.waiters ++ [m] } else x)
    ((s.modTrn h (fun t => { t with misses := rest, records := rs })).missSeg m (.held r.id)).missGo m
  | none =>
    if 64 ≤ t.records.length then s
    else
      let r : FaultRec := { id := t.nextRec, job := m.job, level := level, va := base, opened := s.clk.poolTime.toNat, waiters := [m] }
      ((s.modTrn h (fun t => { t with misses := rest, records := t.records ++ [r], nextRec := t.nextRec + 1 })).missSeg m
        (.held r.id)).missGo m

/-- One miss takes the outcome of a walk for the address `va` (R530, R534): a miss for another page of a 4 KiB leaf stays queued
and walks level 1 alone. -/
def State.missEnd (s : State) (h va : Nat) (w : WalkEnd) (m : Miss) : State :=
  if !(s.trnHub h).misses.contains m then s
  else match w with
  | .leaf shift dpa rights table =>
    if va / 2 ^ shift ≠ m.va / 2 ^ shift then
      s.modTrn h (fun t => { t with misses := t.misses.map (fun x => if x = m then { x with table := some table } else x) })
    else
      let s := s.modTrn h (fun t => { t with misses := t.misses.filter (fun x => x != m) })
      if rights.getLsbD (b2n m.write) then
        let e : TlbEnt := { job := m.job, shift := shift, vpn := m.va / 2 ^ shift, dpa := dpa, rights := rights }
        ((s.modTrn h (fun t => t.fill m.cluster m.stream e)).missSeg m .todo).missGo m
      else s.missFault h 2 ((shift - 12) / 9 + 1) m
  | .fault kind level =>
    if va / 2 ^ levelShift level ≠ m.va / 2 ^ levelShift level then s
    else (s.modTrn h (fun t => { t with misses := t.misses.filter (fun x => x != m) })).missFault h kind level m
  | .held level => if va / 2 ^ levelShift level ≠ m.va / 2 ^ levelShift level then s else s.missHold h level m
  | .again _ _ => s

/-- The walk in progress of a miss. -/
def Trn.walkOf (t : Trn) (m : Miss) : Option WalkOn := t.walks.find? (fun w => w.miss == m)

/-- Two misses share a walk: one job and one VA[47:21] (R534). -/
def Miss.shares (a b : Miss) : Bool := a.job == b.job && a.va / 2 ^ 21 == b.va / 2 ^ 21

/-- A walker can take a miss now, or go on with it: a refused table read can be made again, or the miss joins no walk in progress and one of
the 16 walkers is free, with at most 2 on one stream (R534, R544). -/
def State.walkable (s : State) (h : Nat) (m : Miss) : Bool :=
  let t := s.trnHub h
  match t.walkOf m with
  | some w => s.tableReady (tableLine m.va w.level w.table)
  | none => !t.walks.any (fun w => w.miss.shares m) && decide (t.walks.length < 16)
      && decide (t.walks.countP (fun w => w.miss.cluster == m.cluster && w.miss.stream == m.stream) < 2)

/-- The stream of a miss within its hub. -/
def Miss.lane (m : Miss) : Nat := m.cluster * 8 + m.stream

/-- The miss that the walkers of a hub serve next: the streams take turns, each with its oldest miss (R534). -/
def State.nextWalk (s : State) (h : Nat) : Option Miss :=
  let t := s.trnHub h
  let turn (m : Miss) : Nat := (m.lane + 111 - t.lastWalk) % 112
  (t.misses.filter (s.walkable h)).foldl (fun a m => match a with
    | some b => if turn m < turn b then some m else a
    | none => some m) none

/-- Where a walk of a miss begins: at its level-1 table, where it walks that level alone, at the table that refused it, or at level 4. -/
def State.walkFrom (s : State) (h : Nat) (m : Miss) : Nat × Nat :=
  match (s.trnHub h).walkOf m, m.table with
  | some w, _ => (w.level, w.table)
  | none, some t => (1, t)
  | none, none => (4, ((s.job m.job).pages.headD 0) * 4096)

/-- A walk for miss `m` has ended so: the misses queued for the same job and VA[47:21] share its outcome (R534). The right is checked for each
miss, since misses of both kinds may share the walk. -/
def State.walkEnd (s : State) (h : Nat) (w : WalkEnd) (m : Miss) : State :=
  let s := s.modTrn h (fun t => { t with walks := t.walks.filter (fun x => x.miss != m), lastWalk := m.lane })
  match w with
  | .again level table => s.modTrn h (fun t => { t with walks := t.walks ++ [{ miss := m, level := level, table := table }] })
  | w =>
    let joined := (s.trnHub h).misses.filter (fun x => m.table.isNone && x.shares m && x != m
      && (x.write == m.write || (match w with | .fault 2 _ => false | _ => true)))
    (m :: joined).foldl (fun s x => s.missEnd h m.va w x) s

/-- `WALK`: a walker takes the next queued miss in the rotation, which must be one of this stream, and walks the tables; the misses queued for
the same job and the same VA[47:21] join it (R533–R537). A refused table read leaves the walk in progress (R544). `media` gives the DRAM
outcome of each table read. -/
def execWalk (hub : Fin 8) (cluster : Fin 14) (stream : Fin 8) (media : List Medium) (s : State) : Answer :=
  .next (match s.nextWalk hub with
    | none => s
    | some m =>
      if s.fatal ∨ m.cluster ≠ cluster.val ∨ m.stream ≠ stream.val then s
      else
        let (level, table) := s.walkFrom hub m
        let (w, s) := s.walk m.va (b2n m.write) level table media
        s.walkEnd hub w m)

/-- Bytes `lo` to `hi` of a context meet `count` units of 2 MiB from `base`. -/
def rangeMeets (base : BitVec 27) (count : BitVec 17) (lo hi : Nat) : Bool :=
  decide (lo < (base.toNat + count.toNat) * 2 ^ 21 ∧ base.toNat * 2 ^ 21 < hi)

/-- The record is one of job `j` in a range. -/
def FaultRec.inRange (r : FaultRec) (j : Nat) (base : BitVec 27) (count : BitVec 17) : Bool :=
  r.job == j && rangeMeets base count r.va (r.va + 2 ^ levelShift r.level)

/-- The records of a hub that `hit` names are resolved: their misses return to the queue in order of joining (R538). -/
def State.resolveOn (s : State) (hit : FaultRec → Bool) (h : Nat) : State :=
  let ms := ((s.trnHub h).records.filter hit).flatMap (·.waiters)
  ms.foldl (fun s m => s.missSeg m .missed)
    (s.modTrn h (fun t => { t with records := t.records.filter (fun r => !hit r), misses := t.misses ++ ms }))

/-- `RECORD_RESOLVE`: firmware, having cleared `HOLD` in the tables, resolves the records of a job in a range of 2 MiB units on
every hub; their misses return to their queues in order of joining (R538). -/
def execRecordResolve (job : BitVec 12) (base : BitVec 27) (count : BitVec 17) (s : State) : Answer :=
  .next (
    if (s.job job.toNat).refs.any (fun r => r.hold && rangeMeets base count r.va (r.va + 2 ^ 28)) then s
    else s.presentHubs.foldl (fun s h => s.resolveOn (fun r => r.inRange job.toNat base count) h) s)

/-- `HOLD_LIMIT`: a record of a hub has been open for `HOLD_LIMIT_MS`; it frees, and each of its misses ends in a stream fault logged as
kind 3 (R539). -/
def execHoldLimit (hub : Fin 8) (index : Fin 64) (s : State) : Answer :=
  .next (match (s.trnHub hub).records[index.val]? with
    | none => s
    | some r =>
      let s := s.modTrn hub (fun t => { t with records := t.records.filter (fun x => x.id != r.id) })
      r.waiters.foldl State.missStop (r.waiters.foldl (fun s m => s.missLog hub 3 r.level m) s))

/-- `SHOOTDOWN`: firmware writes `TR_SHOOT` with `GO`; a shootdown starts, or waits while another is in progress (R541, R544,
R547). -/
def execShootdown (job : BitVec 12) (scope : Bool) (base : BitVec 27) (count : BitVec 17) (s : State) : Answer :=
  let s : State := { s with shoot := { s.shoot with job := job, scope := scope, base := base, count := count, go := true } }
  .next (s.shootdown { job := job.toNat, range := if scope then some (base.toNat, count.toNat) else none })

/-- `SHOOTDOWN_COMPLETE`: every transfer that was sent has finished, and the digest records of a job being unloaded are written; `DONE` is set
and the next shootdown starts (R507, R542, R544). -/
def execShootdownComplete (s : State) : Answer :=
  .next (match s.shoot.now with
    | none => s
    | some x =>
      if x.sent.any (fun a => !s.accOver a) ∨ s.presentHubs.any s.hcRestarting
          ∨ (x.range.isNone ∧ (s.job x.job).retiring ∧ ¬s.allOver (s.job x.job).records) then s
      else
        let s : State := { s with shoot := { s.shoot with now := none, go := false, done := true } }
        let s := if x.range.isNone ∧ (s.job x.job).retiring then s.jobGone x.job else s
        match s.shoot.queue with
        | [] => s
        | y :: r => ({ s with shoot := { s.shoot with queue := r } } : State).shootStart y)

end Sys2Proof.Machine
end

