-- ==== Sys2Proof/Machine/Mem.lean ====
section
/-! DEFINITION. Mem.lean: the meanings of the commands of the DRAM controllers and of the lift engine (R557–R580). -/
namespace Sys2Proof.Machine
open Sys2Proof

/-! ### Refresh and temperatures (R557–R559) -/

/-- `REFRESH`: a channel issues its all-bank refresh, at its phase and never before; a fatal fault does not stop it (R557, R558,
R580). -/
def execRefresh (hub : Fin 8) (channel : ChanNo) (s : State) : Answer :=
  let x := s.chan hub channel
  .next (if (x.state = .inService ∨ x.state = .retraining) ∧ x.nextRefresh ≤ s.clk.now then s.refreshChan hub channel else s)

/-- A temperature reading of a channel: `trip` when it counts as a memory thermal trip; a movement of 8 °C asks for a retrain
(R559, R563). After a fatal fault no controller reads any more (R37, R580). The first reading after a training stands for the temperature at which it was made (notes/assumptions/74.md). -/
def State.chanTemp (s : State) (h c : Nat) (temp : BitVec 8) (trip : Bool) : State :=
  if ¬s.hubPresent h ∨ s.fatal then s
  else
    let s := s.modChan h c (fun x => { x with tempC := temp, thermal := trip, trainedC := some (x.trainedC.getD temp) })
    let s := if trip then s.thermalTrip h .memThermal else s
    if (s.chan h c).state = .inService ∧ (s.chan h c).moved then s.retrainAsk h c else s

/-- `MR4_POLL`: the refresh status and the temperature of a deep channel; `hot` when MR4 calls for refresh more often than every
3,900 ns (R559). -/
def execMr4Poll (hub : Fin 8) (channel : Fin 2) (temp : BitVec 8) (hot : Bool) (s : State) : Answer :=
  .next (s.chanTemp hub (32 + channel.val) temp hot)

/-- `STACK_SENSOR_POLL`: the sensor of a stack channel; above 95 °C it trips (R559). -/
def execStackSensorPoll (hub : Fin 8) (channel : Fin 32) (temp : BitVec 8) (s : State) : Answer :=
  .next (s.chanTemp hub channel temp (decide (95 < temp.toNat)))

/-! ### Live retraining (R563, R564) -/

/-- `LIVE_RETRAIN`: the first pending channel that is in service retrains, one channel of the part at a time (R563, R564). -/
def execLiveRetrain (s : State) : Answer :=
  .next (if s.integ.retrainNow.isSome ∨ s.fatal then s
    else match s.integ.retrainQueue.find? (fun e => (s.chan e.2.1 e.2.2).state == .inService && !s.hcRestarting e.2.1) with
      | none => s
      | some (_, h, c) =>
        let s := s.modChan h c (fun x => { x with state := .retraining })
        { s with integ := { s.integ with
            retrainNow := some (h, c), retrainQueue := s.integ.retrainQueue.filter (fun e => e.2 != (h, c)) } })

/-- `MEM_RETRAIN_CMD`: `MEM_CTL.RETRAIN` of a channel that is in service or in self-refresh (R563). -/
def State.retrainCmd (s : State) (h c : Nat) : State :=
  match (s.chan h c).state with
  | .inService | .retraining | .selfRefresh => (s.srExit h c).retrainAsk h c
  | _ => s

/-- The quiesce of a commit brings the first of the deep channels it has still to retrain to its live retrain; one that is not in use has
nothing to hold (R92, R563; notes/assumptions/85.md). -/
def State.chanHeld (s : State) : State :=
  let used (i : Nat) : Bool := match (s.chan (i / 2) (32 + i % 2)).state with
    | .inService | .retraining | .selfRefresh => true
    | _ => false
  let l := s.si.hold.channels.dropWhile (fun i => !used i)
  let s : State := { s with si := { s.si with hold := { s.si.hold with channels := l } } }
  match l with
  | i :: _ => s.retrainCmd (i / 2) (32 + i % 2)
  | [] => s

/-- A channel of the quiesce has been retrained: the next is held (R92). -/
def State.chanDone (s : State) (h c : Nat) : State :=
  match s.si.hold.channels with
  | i :: r =>
    if h = i / 2 ∧ c = 32 + i % 2 then
      ({ s with si := { s.si with hold := { s.si.hold with channels := r } } } : State).chanHeld
    else s
  | [] => s

/-- The channels of a hub have been retrained by its restart, so that a quiesce need retrain them no more (R92, R797). -/
def State.chanSkip (s : State) (h : Nat) : State :=
  let l := s.si.hold.channels
  let t : State := { s with si := { s.si with hold := { s.si.hold with channels := l.filter (fun i => i / 2 != h) } } }
  if l.head?.any (fun i => i / 2 == h) then t.chanHeld else t

/-- The live sweep of a channel's lanes around their present centres (R564). -/
def MemChan.live (x : MemChan) (c : Nat) (sweep : List LaneSweep) : List LaneRuns :=
  (List.range (byteLanes c)).map (fun i => liveSweep (sweep.getD i {}) (x.delays.getD i (64, 64)))

/-- `RETRAIN_COMPLETE`: the live retrain ends with what its sweeps found: the lanes are re-centred and suspect marks cleared (R564, R604),
or it has failed and is asked for again, and the third failure in a row is fatal (R564). -/
def execRetrainComplete (sweep : List LaneSweep) (s : State) : Answer :=
  .next (if s.fatal then s else match s.integ.retrainNow with
    | none => s
    | some (h, c) =>
      let l := (s.chan h c).live c sweep
      let pass := l.all LaneRuns.passes
      let s := s.modChan h c (fun x =>
        let y : MemChan := { x.measured l with state := .inService, retrains := satAdd x.retrains 1, suspects := [] }
        if pass then { y.centred l with trainedC := some x.tempC, failures := 0 } else { y with failures := x.failures + 1 })
      let again := if pass then [] else [(0, h, c)]
      let s : State := { s with integ := { s.integ with
          retrainNow := none, retrainQueue := again ++ s.integ.retrainQueue } }
      if 3 ≤ (s.chan h c).failures then
        (s.modChan h c (fun x => { x with state := .failed })).goFatal
      else if pass then s.chanDone h c
      else s)

/-- `MEM_RETRAIN_CMD` (R563, R586); a fatal fault bars every command other than refresh (R37). -/
def execMemRetrainCmd (hub : Fin 8) (channel : ChanNo) (s : State) : Answer := .next (if s.fatal then s else s.retrainCmd hub channel)

/-! ### Self-refresh (R577–R579) -/

/-- An extent has storage on a channel. -/
def State.extentOn (s : State) (e h c : Nat) : Bool :=
  let onHub := match s.extents.get? e with
    | some x => if x.fineSet = 0 then e / 8192 == h else x.fineSet.getLsbD h
    | none => false
  onHub && (if e % 8192 < 384 then decide (c < 32) else decide (32 ≤ c) && (s.chan h c).layout)

/-- The channel may enter self-refresh: in service, with no migration and no lift copy on it (R577). -/
def State.srMay (s : State) (h c : Nat) : Bool :=
  (s.chan h c).state == .inService
    && !(s.integ.migrations.any (fun m => match m with
      | .slot x _ _ => x == h && decide (c < 32)
      | .rank x k _ => x == h && k == c))
    && !(match s.lift.queue with
      | j :: _ => j.phase != .queued && (s.extentOn j.src.toNat h c || s.extentOn j.dest.toNat h c)
      | [] => false)

/-- `MEM_CTL.SR_ENTER` (R577). -/
def State.srEnterCmd (s : State) (h c : Nat) : State := if s.srMay h c ∧ ¬s.fatal then s.srEnter h c else s

/-- `SR_ENTER` (R577, R586). -/
def execSrEnter (hub : Fin 8) (channel : ChanNo) (s : State) : Answer := .next (s.srEnterCmd hub channel)

/-- `SR_EXIT`: the operator, or a request for the channel, takes it out of self-refresh (R578, R586), but in the fatal state
(R37). -/
def execSrExit (hub : Fin 8) (channel : ChanNo) (s : State) : Answer := .next (if s.fatal then s else s.srExit hub channel)

/-- `SR_IDLE`: a deep channel has had no request for `SR_IDLE_US` (R577). -/
def execSrIdle (hub : Fin 8) (channel : Fin 2) (s : State) : Answer :=
  .next (if (s.chan hub (32 + channel.val)).srIdleUs ≠ 0 then s.srEnterCmd hub (32 + channel.val) else s)

/-! ### Migration (R568, R569) -/

/-- The hub of a migration. -/
def Migration.hub : Migration → Nat
  | .slot h _ _ => h
  | .rank h _ _ => h

/-- A retrain on a channel of a migration pauses its copy: for a stack slot, on any stack channel of the hub (R550, R580). -/
def State.migrationPaused (s : State) : Migration → Bool
  | .slot h _ _ => (List.range 32).any (fun c => (s.chan h c).state == .retraining)
  | .rank h c _ => (s.chan h c).state == .retraining

/-- `MIGRATION_COMPLETE`: the oldest migration of a hub ends, unless a retrain pauses it. `lost` names the storage lines of the failing
unit that could not be read and were written to the target as poison: further hard errors in the unit (R568, R569, R580). -/
def execMigrationComplete (hub : Fin 8) (lost : List (BitVec 38)) (s : State) : Answer :=
  .next (match s.integ.migrations.find? (fun m => m.hub == hub.val) with
    | none => s
    | some m =>
      if s.fatal ∨ s.migrationPaused m then s
      else
        let s := (lost.filter (fun l => s.migrates (64 * l.toNat) m)).foldl (fun s l =>
          (s.lineLost l.toNat false).putPoison l.toNat) s
        { s with integ := { s.integ with migrations := s.integ.migrations.erase m } })

/-! ### The lift engine (R570–R576) -/

/-- The first reason for which a lift is refused (R571, R98), `0` for none; a source that is not carved belongs to no class that a commit
could hold. -/
def State.liftRefusal (s : State) (e cls : Nat) (hubGiven : Bool) (hub : Nat) : Nat :=
  let src := s.classOf e
  let reasons : List (Bool × Nat) := [
    ((s.extents.get? e).isNone, 4),
    (s.si.refusedClasses.getLsbD src || s.si.refusedClasses.getLsbD cls, 3),
    (!(s.classValid src && s.classValid cls && s.liftAllowed src && s.liftAllowed cls), 5),
    (s.classTier src == s.classTier cls, 6),
    (s.track src != s.track cls || decide (Nat.land (s.classRights src) (s.classRights cls) ≠ s.classRights src), 7),
    (decide (s.quota cls ≤ s.classCount cls), 8),
    ((s.chooseExtent cls hubGiven hub).isNone, 9),
    (decide (8 ≤ s.lift.queue.length), 10),
    (decide (s.drainingCount e ≠ 0) || s.lift.queue.any (fun j => j.src.toNat == e), 13)]
  ((reasons.find? (·.1)).map (·.2)).getD 0

/-- `LIFT_CMD` with `OP` 1 (R570–R572). -/
def State.liftStart (s : State) (e : BitVec 16) (cls : BitVec 4) (hubGiven : Bool) (hub : Nat) : State :=
  match s.liftRefusal e.toNat cls.toNat hubGiven hub with
  | 0 =>
    match s.chooseExtent cls.toNat hubGiven hub with
    | none => { s with lift := { s.lift with lastResult := 9 } }
    | some (d, f) =>
      let s := s.carve cls.toNat d f
      { s with lift := { queue := s.lift.queue ++ [{ src := e, dest := BitVec.ofNat 16 d, cls := cls }], lastResult := 1 } }
  | r => { s with lift := { s.lift with lastResult := BitVec.ofNat 4 r } }

/-- The session in a slot may command lifts and page retirements (R570, R614). -/
def State.slotMayCarve (s : State) (slot : Nat) : Bool :=
  match s.session slot with | some x => s.mayCarve x | none => false

/-- `LIFT_START`: `LIFT_CMD` `OP` 1 through a KMP session that holds the carving right (R570). -/
def execLiftStart (slot : Fin 32) (extent : BitVec 16) (cls : BitVec 4) (hubGiven : Bool) (hub : Fin 8) (s : State) : Answer :=
  .next (if s.slotMayCarve slot ∧ ¬s.fatal then s.liftStart extent cls hubGiven hub else s)

/-- Packets for the engines of a hub that a quiesce held are taken. -/
def State.enginesGo (s : State) : State :=
  s.si.heldEngine.foldl (fun s x => s.engineIn x []) { s with si := { s.si with heldEngine := [] } }

/-- What ingress held is delivered, and engines and queues whose work was held go on (R574, R74). -/
def State.release (s : State) (m : Medium) : State :=
  s.presentHubs.foldl (fun s h => s.tagHeads h) (s.deliverHeld 8 m).enginesGo

/-- A lift ends without its switch (R575, R576): the destination returns to Free, and in a switch under way the source serves on. -/
def State.liftDrop (s : State) (j : LiftJob) (result : BitVec 4) (m : Medium) : State :=
  let s := s.uncarve j.dest.toNat
  let s : State := { s with lift := { queue := s.lift.queue.erase j, lastResult := result } }
  if j.phase = .switching then
    let s := s.jobs.foldl (fun s x =>
      if x.2.refs.any (fun r => r.extent == j.src.toNat && r.hold) then
        (s.modJob x.1 (fun y => { y with
          refs := y.refs.map (fun r => if r.extent = j.src.toNat then { r with hold := false } else r) })).rebuild x.1
      else s) s
    s.release m
  else s

/-- `LIFT_CMD` with `OP` 2 (R575). -/
def State.liftCancel (s : State) (e : BitVec 16) : State :=
  match s.lift.queue.find? (fun j => j.src == e && j.phase != .switching) with
  | some j => s.liftDrop j 11 .clean
  | none => s

/-- `LIFT_CANCEL` (R570, R575). -/
def execLiftCancel (slot : Fin 32) (extent : BitVec 16) (s : State) : Answer :=
  .next (if s.slotMayCarve slot ∧ ¬s.fatal then s.liftCancel extent else s)

/-- A hub or class that a quiesce holds has part in a lift (R92). -/
def State.liftHeld (s : State) (k : SiHolds) (j : LiftJob) : Bool :=
  s.liftOn j (fun h => k.hubs.getLsbD h) || [j.src, j.dest].any (fun e => match s.extents.get? e.toNat with
    | some x => k.classes.getLsbD x.cls.toNat
    | none => false)

/-- `LIFT_BEGIN`: the head lift of the queue starts its copy (R573). -/
def execLiftBegin (s : State) : Answer :=
  .next (match s.lift.queue with
    | [] => s
    | j :: _ =>
      if j.phase ≠ .queued ∨ s.fatal ∨ s.liftOn j s.hcRestarting ∨ s.liftHeld s.si.hold j then s
      else s.modLift (fun j => { j with phase := .copying }))

/-- The storage slots of an extent with the first unit and the units it takes in each. -/
def State.extentUnits (s : State) (e : Nat) : List (Nat × Nat × Nat) :=
  match s.extents.get? e with
  | none => []
  | some x =>
    if x.fineSet = 0 then [(e, 0, 128)]
    else
      let hs := setHubs x.fineSet
      let k := max 1 hs.length
      hs.map (fun h => (h * 8192 + e % 8192, hs.findIdx (· == e / 8192) * (128 / k), 128 / k))

/-- Sets the `INIT` bits of an extent's units (R598). -/
def State.markInit (s : State) (e : Nat) : State :=
  (s.extentUnits e).foldl (fun s u =>
    let bits : BitVec 128 := BitVec.ofNat 128 ((2 ^ u.2.2 - 1) * 2 ^ u.2.1)
    { s with units := s.units.mod u.1 {} (fun x => { x with init := x.init ||| bits }) }) s

/-- Every read of the copy that the engines opened has been answered. -/
def State.liftRead (s : State) (j : LiftJob) : Bool :=
  s.lines.all (fun o => !inExtent j.src.toNat o.1
    || (!o.2.queue.any LineReq.engineRead && (match o.2.tx with | some t => !t.req.engineRead | none => true)))

/-- The switch of the head lift begins: translations are held and shot down, ingress holds new requests, and the homes recall the
extent's lines (R574). -/
def State.liftSwitch (s : State) (e : Nat) (m : Medium) : State :=
  let s := s.modLift (fun j => { j with phase := .switching, reading := false })
  let s := s.shootExtent e (fun r => { r with hold := true })
  (s.atomReleaseExtent e).cohEnd m

/-- `LIFT_COPY_DONE`: the engines read the rest of the source, and with the last answer the switch begins; while a read is still to be
answered, or waits for room, the copy goes on (R573, R574). `lost` names the lines that cannot be read. -/
def execLiftCopyDone (lost : List (BitVec 22)) (med : Medium) (s : State) : Answer :=
  .next (match s.lift.queue with
    | [] => s
    | j :: _ =>
      if j.phase ≠ .copying ∨ s.fatal ∨ s.liftPaused j then s
      else
        let s := (s.modLift (fun j => { j with reading := true })).liftReads (lost.map (·.toNat))
        if s.lift.queue.any (fun k => k.src == j.src && k.next == 2 ^ 22) ∧ s.liftRead j then s.liftSwitch j.src.toNat med else s.cohEnd med)

/-- Nothing of an extent is left in flight, tracked or held by a home atomic unit, and its shootdowns are over (R574). -/
def State.switchReady (s : State) (e : Nat) : Bool :=
  s.lines.all (fun o => !inExtent e o.1) && (s.linesOf e (fun _ => true)).isEmpty && s.atom.all (fun x => !inExtent e x.1)
    && s.accesses.all (fun a => a.2.complete || a.2.lines.all (fun l => !inExtent e l.line))
    && (match s.shoot.now with
      | some x => !((s.job x.job).refs.any (fun r => r.extent == e))
      | none => true)
    && s.shoot.queue.all (fun x => !((s.job x.job).refs.any (fun r => r.extent == e)))

/-- `LIFT_SWITCH_POINT`: map entries, withdrawals and translations take the destination's number, the source is freed, and what was
held goes to the destination (R143, R574, R598). -/
def execLiftSwitchPoint (med : Medium) (s : State) : Answer :=
  .next (match s.lift.queue with
    | [] => s
    | j :: rest =>
      let e := j.src.toNat
      if j.phase ≠ .switching ∨ ¬s.switchReady e ∨ s.fatal ∨ s.liftOn j s.hcRestarting then s
      else
        let move (x : BitVec 16) : BitVec 16 := if x = j.src then j.dest else x
        let s : State := { s with
          maps := s.maps.mapVals (fun _ m => m.mapVals (fun _ x => { x with extent := move x.extent })),
          drains := s.drains.map (fun d => { d with extent := move d.extent }),
          lift := { queue := rest, lastResult := 2 } }
        let s := s.jobs.foldl (fun s x =>
          if x.2.refs.any (fun r => r.extent == e) then
            (s.modJob x.1 (fun y => { y with refs := y.refs.map (fun r =>
              if r.extent = e then { r with extent := j.dest.toNat, hold := false } else r) })).rebuild x.1
          else s) s
        ((s.markInit j.dest.toNat).uncarve e).release med)

end Sys2Proof.Machine
end

