-- ==== Sys2Proof/Machine/Integrity.lean ====
section
/-! DEFINITION. Integrity.lean: the meanings of the commands of stored-data integrity (R598–R619). -/
namespace Sys2Proof.Machine
open Sys2Proof

/-! ### Patrol and repair (R605–R610) -/

/-- A storage address in a deep spare rank that start-up has filled and that has taken no rank's place (R601). -/
def State.spareAt (s : State) (a : Nat) : Bool :=
  let x := s.chan (a / 2 ^ 41) (s.chanOf a)
  !isStack a && x.spareInit && x.spareLeft && s.rankOf a == x.rankCount - 1

/-- The patrol reads a storage line: its unit is written, its slot is Carved, Reserved, or a spare or lent slot, or it lies in a spare
rank; its extent is not `TEST_ONLY`, its page is not retired, and the snowplough does not act on its hub (R605, R615, R653). -/
def State.patrols (s : State) (sl : Nat) : Bool :=
  let a := 64 * sl
  let h := a / 2 ^ 41
  let slot := slotOf a
  let m := s.memHub h
  let inUse := match s.slotAt a with
    | .carved | .reserved => true
    | _ => m.sparesFree.contains slot || m.sparesLent.any (fun x => x.1 == slot)
  let owners := s.extents.filter (fun e => (s.offsetIn e.1 a).isSome)
  ((s.initAt a && inUse) || s.spareAt a) && decide (m.scrubHours ≠ 0) && (s.chan h (s.chanOf a)).state == .inService && !(s.pwrHub h).acting
    && !(owners.any (fun e => s.testOnly e.2.cls.toNat
      || (match s.offsetIn e.1 a with | some o => s.pageRetired (e.1 * 2 ^ 28 + o) | none => false)))

/-- A patrol read finds a line as `m` says; one that finds poison does nothing (R596, R606). -/
def State.patrolled (s : State) (sl : Nat) (m : Medium) : State :=
  let raw := s.rawDecode sl
  match rawMedium raw m with
  | .clean => s
  | .corrected sy b r c => if (s.lmeta sl).poison ∨ raw = some .poison then s else s.corrected sl ⟨sy, b, r, c⟩
  | .uncorrectable t => s.hardData sl t
  | .commandError t => s.hardCommand sl t

/-- `PATROL_READ`: a paced read of storage line `line`, with what DRAM and decoder find; lines come in ascending channel address on each
channel, and `percent` is how far the hub's slowest channel now is in its pass, 100 at its end (R605, R606, R622). -/
def execPatrolRead (line : BitVec 38) (m : Medium) (percent : Fin 101) (s : State) : Answer :=
  let sl := line.toNat
  let h := sl / 2 ^ 35
  let c := s.chanOf (64 * sl)
  .next (if ¬s.patrols sl ∨ s.fatal ∨ s.sys.phase ≠ .awake ∨ s.chanPos (64 * sl) < (s.chan h c).patrolAt then s
    else
      let s := (s.bump h 5 0x80 c 1).modChan h c (fun x => { x with patrolAt := s.chanPos (64 * sl) + 64 })
      let s := if percent.val = 100 then (List.range 34).foldl (fun s k => s.modChan h k (fun x => { x with patrolAt := 0 })) s else s
      let s := s.modMemHub h (fun x =>
        if percent.val = 100 then { x with scrubActive := false, progress := 0, passes := satAdd x.passes 1 }
        else { x with scrubActive := true, progress := BitVec.ofNat 7 percent.val })
      s.patrolled sl m)

/-- A repair is made: the row or column is mapped to a spare, with its records (R608). -/
def State.repairDone (s : State) (x : Repair) : State :=
  let key := rankKey x.hub x.channel x.rank
  let s : State := { s with ranks := s.ranks.mod key {} (fun t => match x.column with
      | none => { t with
          rowsUsed := t.rowsUsed.mod x.bank.toNat 0 (· + 1),
          rows := t.rows.filter (fun r => !(r.bank == x.bank && r.row == x.row)) }
      | some _ => { t with colsUsed := t.colsUsed + 1 }) }
  let s := s.modMemHub x.hub (fun m => match x.column with
    | none => { m with rowsUsed := satAdd m.rowsUsed 1 }
    | some _ => { m with colsUsed := satAdd m.colsUsed 1 })
  (s.logRetire { s.placeEntry (if x.column.isSome then 2 else 1) x.at_ with
      bank := x.bank, column := x.column.getD 0, row := if x.column.isSome then 0 else x.row }).logError (s.lineRec 4 x.at_)

/-- A spare is left for a repair. -/
def State.spareLeft (s : State) (x : Repair) : Bool :=
  let t := s.ranks.getD (rankKey x.hub x.channel x.rank) {}
  s.rlogRoom && (match x.column with
    | none => decide (t.rowsUsed.getD x.bank.toNat 0 < 2)
    | some _ => decide (t.colsUsed < 4))

/-- `ROW_REPAIR`: the first repair that is due on a channel in service is made; `lost` names the storage lines of the row that stay
uncorrectable: in written units hard data errors, copied as poison; in others nothing is written (R600, R608, R610, R620). -/
def execRowRepair (lost : List (BitVec 38)) (s : State) : Answer :=
  .next (match s.integ.repairs.find? (fun x => (s.chan x.hub x.channel).state == .inService && !s.hcRestarting x.hub) with
    | none => s
    | some x =>
      if s.fatal then s
      else
        let s : State := { s with integ := { s.integ with repairs := s.integ.repairs.erase x } }
        if s.spareLeft x then
          let s := s.repairDone x
          (lost.filter (fun l => s.chanOf (64 * l.toNat) == x.channel && l.toNat / 2 ^ 35 == x.hub)).foldl (fun s l =>
            if s.initAt (64 * l.toNat) then (s.hardData l.toNat false).putPoison l.toNat else s.lineLost l.toNat false) s
        else s.exhaust x.at_ ⟨0, x.bank, x.row, x.column.getD 0⟩ x.column)

/-! ### The logs (R612) -/

/-- `INT_LOG_STATUS.ACK`: the oldest unread record is marked read and gives up its place (R612). -/
def State.logAck (s : State) : State := { s with integ := { s.integ with errLog := s.integ.errLog.drop 1 } }

/-- `LOG_ACK` (R612, R626). -/
def execLogAck (s : State) : Answer := .next s.logAck

/-! ### Retired pages (R614–R616) -/

/-- Nothing is in flight to the page of the retirement in progress, and its shootdowns are over (R614). -/
def State.pageQuiet (s : State) (p : Nat) : Bool :=
  let inPage (l : Nat) : Bool := l / 64 == p
  let named (j : Nat) : Bool := (s.job j).refs.any (fun r => r.extent == p / 65536)
  s.lines.all (fun o => !inPage o.1)
    && s.accesses.all (fun a => a.2.complete || a.2.lines.all (fun l => !inPage l.line))
    && (match s.shoot.now with | some x => !named x.job | none => true) && s.shoot.queue.all (fun x => !named x.job)

/-- A retirement in progress ends once its page is quiet: its log entry is written and `RESULT` is 1 (R614). -/
def State.retireProgress (s : State) : State :=
  let p := s.integ.retirePage.toNat
  if s.integ.retireBusy ∧ ¬s.integ.releasing ∧ s.pageQuiet p then
    let s := s.logRetire { s.placeEntry 5 (s.storage (4096 * p)) with dpa := BitVec.ofNat 64 (4096 * p) }
    { s with integ := { s.integ with retireBusy := false, retireResult := 1 } }
  else s

/-- Ends a retirement command with a result. -/
def State.retireEnd (s : State) (r : BitVec 4) : State := { s with integ := { s.integ with retireResult := r } }

/-- A lift or a migration is copying a page (R620). -/
def State.copying (s : State) (p : Nat) : Bool :=
  let e := p / 65536
  s.migratingAt (s.storage (4096 * p)) || s.lift.queue.any (fun j => j.phase != .queued
    && (j.src.toNat == e || j.dest.toNat == e))

/-- `INT_RETIRE_CMD` with `OP` 1: from now on host requests to the page find it unmapped, and the translations of resident jobs are
split and shot down (R614, R615, R528, R543). -/
def State.pageRetire (s : State) : State :=
  let p := s.integ.retirePage.toNat
  let e := p / 65536
  if s.integ.retireBusy then s
  else if s.slotState e = .absent then s.retireEnd 4
  else if s.integ.retired.contains p then s.retireEnd 2
  else if 4096 ≤ s.integ.retired.countP (fun q => q / 65536 / 8192 == e / 8192) then s.retireEnd 3
  else if s.copying p then s.retireEnd 5
  else if ¬s.rlogRoom then (s.exhausted (s.storage (4096 * p))).retireEnd 3
  else
    let s : State := { s with integ := { s.integ with
        retired := insNat p s.integ.retired, retireBusy := true, releasing := false } }
    let s := s.jobs.foldl (fun s x =>
      match x.2.refs.find? (fun r => r.extent == e) with
      | some r => (s.rebuild x.1).shootdown { job := x.1, range := some (r.va / 2 ^ 21 + p % 65536 / 512, 1) }
      | none => s) s
    s.retireProgress

/-- `PAGE_RETIRE`: through a KMP session that holds the carving right (R614, R627, R628). -/
def execPageRetire (slot : Fin 32) (page : BitVec 32) (s : State) : Answer :=
  let s : State := if s.integ.retireBusy then s else { s with integ := { s.integ with retirePage := page } }
  .next (if s.slotMayCarve slot ∧ ¬s.fatal then s.pageRetire else s)

/-- `INT_RETIRE_CMD` with `OP` 2: a retired page of a Free slot is filled and then serves again (R616). -/
def State.pageRelease (s : State) : State :=
  let p := s.integ.retirePage.toNat
  if s.integ.retireBusy then s
  else if s.slotState (p / 65536) ≠ .free then s.retireEnd 4
  else if ¬s.integ.retired.contains p then s.retireEnd 2
  else { s with integ := { s.integ with retireBusy := true, releasing := true } }

/-- `PAGE_RELEASE` (R616, R627, R628). -/
def execPageRelease (slot : Fin 32) (page : BitVec 32) (s : State) : Answer :=
  let s : State := if s.integ.retireBusy then s else { s with integ := { s.integ with retirePage := page } }
  .next (if s.slotMayCarve slot ∧ ¬s.fatal then s.pageRelease else s)

/-- The fill of a released page has ended: its lines hold zeros and its entry of kind 0x05 goes (R616). -/
def State.pageFilled (s : State) : State :=
  let p := s.integ.retirePage.toNat
  if s.integ.retireBusy ∧ s.integ.releasing then
    let s := (List.range 64).foldl (fun s i => s.putFill (p * 64 + i)) (s.wakeSlot (p / 65536))
    { s with integ := { s.integ with
        retired := delNat p s.integ.retired, retireBusy := false, releasing := false, retireResult := 1,
        rlog := s.integ.rlog.filter (fun e => !(e.kind == 5 && e.dpa.toNat == 4096 * p)) } }
  else s

/-- `FILL_COMPLETE`: the fill of a page release, or of the carving command in progress, ends (R124, R599, R616). -/
def execFillComplete (page : Bool) (s : State) : Answer :=
  .next (if s.fatal then s else if page then s.pageFilled else s.carveFilled)

/-! ### Split-write test mode (R617, R618) -/

/-- A raw access through a path is refused (R617). -/
def State.rawRefused (s : State) (path : Path) : Bool :=
  let operator := match path with
    | .kmp k => (match s.session k with | some x => s.isOperator x | none => false)
    | _ => false
  let test := match s.extents.get? s.integ.splitExt.toNat with
    | some x => s.testOnly x.cls.toNat
    | none => false
  s.epochOpen || !test || !operator

/-- Records the outcome of a raw access. -/
def State.rawEnd (s : State) (outcome : BitVec 3) (symbols : BitVec 4) : State :=
  { s with integ := { s.integ with splitOutcome := outcome, splitSymbols := symbols } }

/-- The storage line that `INT_SPLIT_EXT` and `INT_SPLIT_LINE` name. -/
def State.splitAt (s : State) : Nat := s.storage (s.integ.splitExt.toNat * 2 ^ 28 + 64 * s.integ.splitLine.toNat) / 64

/-- `INT_SPLIT_LINE` with `OP` 1: the line takes `INT_SPLIT_DATA` and `INT_SPLIT_CHECK` as they are (R618); the fatal state bars it (R37). -/
def State.rawWrite (s : State) (path : Path) : State :=
  if s.rawRefused path then s.rawEnd 4 0
  else if s.fatal then s
  else
    let sl := s.splitAt
    let s : State := (s.wakeChan (64 * sl))
    let s : State := { s with
      mem := memWriteBytes s.mem (64 * sl) (lineBytes s.integ.splitData),
      lineMeta := s.lineMeta.set sl { written := true, check := some s.integ.splitCheck, init := true } }
    s.rawEnd 0 0

/-- `RAW_WRITE` (R618, R631). -/
def execRawWrite (path : Path) (line : BitVec 22) (s : State) : Answer :=
  .next (({ s with integ := { s.integ with splitLine := line } } : State).rawWrite path)

/-- The stored data and check bytes of a storage line: undefined where nothing was ever written (R600, R618). -/
def State.rawBytes (s : State) (sl : Nat) : (Line × BitVec 128) × State :=
  let m := s.lmeta sl
  let stack := isStack (64 * sl)
  if m.written then
    let d := memLine s.mem sl
    ((d, match m.check with
      | some c => c
      | none => if m.poison then poisonCheck stack else if stack then stackCheck d else deepCheck d), s)
  else if s.filledAt (64 * sl) then ((0, 0), s)
  else
    let (c, s) := s.draw .hazard
    ((Config.unwritten s.freeCtr sl, BitVec.ofNat 128 c), s)

/-- `INT_SPLIT_LINE` with `OP` 2: the stored bytes come back uncorrected, as this read of the DRAM finds them (`flips` are the bits it
got wrong), with the outcome that the decoder reports for them (R618); the fatal state bars it (R37). -/
def State.rawRead (s : State) (path : Path) (flips : Line × BitVec 128) : State :=
  if s.rawRefused path then s.rawEnd 4 0
  else if s.fatal then s
  else
    let sl := s.splitAt
    let ((d, c), s) := (s.wakeChan (64 * sl)).rawBytes sl
    let d := d ^^^ flips.1
    let c := c ^^^ flips.2
    let s : State := { s with integ := { s.integ with splitData := d, splitCheck := c } }
    match rsDecode (isStack (64 * sl)) d c with
    | .clean => s.rawEnd 0 0
    | .corrected n _ => s.rawEnd 1 (BitVec.ofNat 4 n)
    | .uncorrectable => s.rawEnd 2 0
    | .poison => s.rawEnd 3 0

/-- `RAW_READ` (R618, R631). -/
def execRawRead (path : Path) (line : BitVec 22) (flips : Line × BitVec 128) (s : State) : Answer :=
  .next (({ s with integ := { s.integ with splitLine := line } } : State).rawRead path flips)

end Sys2Proof.Machine
end

