-- ==== Sys2Proof/Machine/Que.lean ====
section
/-! DEFINITION. Que.lean: the meanings of the queue commands, the arrival of submission entries, completions and the load
feedback (chapter "Queues, Policing and Fair Service"). -/
namespace Sys2Proof.Machine
open Sys2Proof

/-! ### Arrival (R350–R354, R369, R370, R373) -/

/-- A valid `CQ_RELEASE` (R351, R352). -/
def releaseOk (e : SubEntry) : Bool :=
  e.opcode == 5 && decide (1 ≤ e.length.toNat ∧ e.length.toNat ≤ 65535) && !e.reserved && decide (e.poolAddr.toNat < 2 ^ 52)
    && e.hostAddr == 0 && e.rkey == 0 && e.atop == 0 && e.compare == 0

/-- The fields of an entry lie in their ranges for its opcode, and its host may send it (R351, R354). -/
def entryOk (fabric : Bool) (e : SubEntry) : Bool :=
  let op := e.opcode.toNat
  let plain := e.hostAddr == 0 && e.rkey == 0 && e.length == 0
  if 0x40 ≤ op ∧ op ≤ 0x5F then jobCmdOk e
  else !e.reserved && decide (e.poolAddr.toNat < 2 ^ 52) && (match op with
    | 1 | 2 => !fabric && decide (1 ≤ e.length.toNat ∧ e.length.toNat ≤ 1048576) && e.atop == 0 && e.compare == 0
    | 3 => plain && (atomSize e.atop.toNat).isSome && (e.atop == 4 || e.atop == 5 || e.compare == 0)
    | 4 => plain && e.atop == 0 && e.compare == 0
    | _ => false)

/-- Adds completion credit, at most 65,535 (R352). -/
def State.addCredit (s : State) (q n : Nat) : State := s.modQueue q (fun x => { x with credit := min 65535 (x.credit + n) })

/-- An entry that its queue takes: `CQ_RELEASE` acts at once; every other takes a ring slot; one that is not valid, or that comes when
the part can serve none, completes at once (R352–R354, R373). -/
def State.takeEntry (s : State) (q : Nat) (e : SubEntry) (c : Colour) : State :=
  if releaseOk e then s.addCredit q e.length.toNat
  else
    let id := (s.queue q).nextId
    let s := s.modQueue q (fun x => { x with ring := x.ring ++ [{ id := id, entry := e, colour := c }], nextId := id + 1 })
    if s.fatal then s.completeStatus q id .failed
    else if ¬entryOk (decide (s.queueHost q < 0x400)) e then s.completeStatus q id .illegal
    else if s.ten.state = .ending ∨ s.ten.state = .resurfacing then s.completeStatus q id .withdrawn
    else s.tagHeads (q / 2048)

/-- A commit holds the queue or its hub, so that submissions are refused (R373). -/
def State.queueHeld (s : State) (q : Nat) : Bool := s.si.hold.queues.contains q || s.si.hold.hubs.getLsbD (q / 2048)

/-- Sends a refused packet (R355). -/
def State.queRefuse (s : State) (h : BitVec 10) (q : Nat) (reason : BitVec 8) (backoff : BitVec 4) (red : Bool) : State :=
  if (s.host h.toNat).dead ∨ s.sys.portsStopped then s
  else
    let b := if red then s.rsbRed (some h.toNat) else s.rsb (some h.toNat)
    let payload : BitVec 160 := BitVec.ofNat 160 (3 + q * 2 ^ 8 + reason.toNat * 2 ^ 24 + backoff.toNat * 2 ^ 32 + b.toNat * 2 ^ 40)
    (s.emit (.queRefused h q reason backoff b)).sendPkt h.toNat 6 2 payload []

/-- A submit packet of a fabric host (R350–R355, R369, R370, R654); in the fatal state one for which the ring has room completes with status
0x7 (R809). -/
def State.submitPkt (s : State) (host : BitVec 10) (q : Nat) (e : SubEntry) : State :=
  if ¬s.hears host then s
  else if s.queueHost q ≠ host.toNat ∧ (releaseOk e ∨ s.fatal ∨ (s.hub (q / 2048)).phase ≠ .none) then s.queRefuse host q 3 0 false
  else if releaseOk e then s.takeEntry q e .green
  else if s.fatal then (if 64 ≤ (s.queue q).ring.length then s.queRefuse host q 2 0 false else s.takeEntry q e .green)
  else if (s.hub (q / 2048)).phase ≠ .none then s
  else if s.throttles host.toNat then s.queRefuse host q 1 4 true
  else
    match s.meterArrive host.toNat 64 with
    | (.red, s) => s.queRefuse host q 1 (s.redBackoff host.toNat 64) true
    | (c, s) =>
      if s.queueHost q ≠ host.toNat then s.queRefuse host q 3 0 false
      else if s.queueHeld q then
        let (b, s) := s.freeBackoff
        s.queRefuse host q 2 b false
      else if 64 ≤ (s.queue q).ring.length then s.queRefuse host q 2 0 false
      else s.takeEntry q e c

/-- `QUEUE_SUBMIT`: a submit packet of a fabric host with one entry (R353, R355). -/
def execQueueSubmit (host : BitVec 10) (queue : BitVec 14) (entry : SubEntry) (s : State) : Answer :=
  .next (s.submitPkt host queue.toNat entry)

/-- `CQ_RELEASE`: a submit packet of a fabric host whose entry has that opcode (R352). -/
def execCqRelease (host : BitVec 10) (queue : BitVec 14) (entry : SubEntry) (s : State) : Answer :=
  .next (s.submitPkt host queue.toNat { entry with opcode := 5 })

/-! ### Issue of the memory commands (R319, R320, R325, R354, R359) -/

/-- Bytes that a transfer takes in the host buffer (R323). -/
def State.bufBytes (s : State) (n : Nat) : Nat := if s.ethCrypt then n + 28 * ((n + 4095) / 4096) else n

/-- The host buffer of a transfer lies in one of the queue's bounce regions, where the mode asks for it (R325). -/
def State.bounceOk (s : State) (q : Nat) (va : BitVec 64) (rkey : BitVec 32) (n : Nat) : Bool :=
  !s.sealed || (match s.qps.get? q with
    | some x => x.params.bounce.any (fun b =>
        b.2.2 == rkey && decide (b.1.toNat ≤ va.toNat ∧ va.toNat + n ≤ b.1.toNat + b.2.1.toNat))
    | none => false)

/-- `READ` is issued: the pool bytes are read and go to the host buffer (R320). `media` gives the DRAM outcome of each line served at
once. -/
def execRead (queue : BitVec 14) (media : List Medium) (s : State) : Answer :=
  let q := queue.toNat
  .next ((s.issueCmd q 1 (fun r s =>
    let e := r.entry
    if ¬s.bounceOk q e.hostAddr e.rkey (s.bufBytes e.length.toNat) then s.completeStatus q r.id .illegal
    else s.startHost (.queRead q r.id) (s.queueHost q) e.poolAddr.toNat e.length.toNat false [] media)).cohEnd
      (media.headD .clean))

/-- `WRITE` is issued: ingress checks its lines (R130, R354), and its data is fetched from the host buffer by RDMA READ (R320). -/
def execWrite (queue : BitVec 14) (s : State) : Answer :=
  let q := queue.toNat
  .next (s.issueCmd q 2 (fun r s =>
    let e := r.entry
    let n := s.bufBytes e.length.toNat
    if ¬s.bounceOk q e.hostAddr e.rkey n then s.completeStatus q r.id .illegal
    else (s.startFetch q r.id (s.queueHost q) e.poolAddr.toNat e.length.toNat).roceSend q (.read e.hostAddr e.rkey n) (some r.id)))

/-- `ATOMIC` is issued: the home atomic unit performs it (R181, R182, R354). -/
def execAtomic (queue : BitVec 14) (med : Medium) (s : State) : Answer :=
  let q := queue.toNat
  .next ((s.issueCmd q 3 (fun r s =>
    let e := r.entry
    let n := (atomSize e.atop.toNat).getD 8
    if e.poolAddr.toNat % n ≠ 0 then s.completeStatus q r.id .illegal
    else
      let asked := (asksOf e.poolAddr.toNat n).map (s.askHost (s.queueHost q) .atomic)
      s.startLines (.queAtomic q r.id) false true asked [] e.atop e.operand e.compare [med])).cohEnd med)

/-- `NOP` is issued (R351). -/
def execNop (queue : BitVec 14) (s : State) : Answer :=
  .next (s.issueCmd queue.toNat 4 (fun r s => s.completeStatus queue.toNat r.id .ok))

/-- `COMPLETION_WRITE`: the oldest held slot of a queue is written once credit is there (R357). -/
def execCompletionWrite (queue : BitVec 14) (s : State) : Answer :=
  .next (if s.sys.portsStopped then s else (s.writeHeld queue.toNat).tagHeads (queue.toNat / 2048))

/-- `YELLOW_PROMOTION`: the yellow eligible head of a queue competes as green (R366). -/
def execYellowPromotion (queue : BitVec 14) (s : State) : Answer :=
  let q := queue.toNat
  .next (match (s.queue q).head with
    | some r =>
      if r.colour = .yellow ∧ s.eligible q r then
        s.modQueue q (fun x => { x with ring := x.ring.map (fun y => if y.id = r.id then { y with promoted := true } else y) })
      else s
    | none => s)

/-! ### Load feedback (R371, R372) -/

/-- The use of a hub (R371). -/
def State.hubUse (s : State) (h : Nat) : Rat :=
  let qs := s.queues.filter (fun e => e.1 / 2048 == h)
  let slots : Nat := qs.foldl (fun a e => a + e.2.ring.length) 0
  max (max ((s.openCount h : Rat) / 8192) ((s.queuedCount h : Rat) / 32768)) (max ((s.engineBusy h : Rat) / 256) ((slots : Rat) / 131072))

/-- The threshold of a level (R372). -/
def loadThr : Nat → Rat
  | 1 => 1 / 2
  | 2 => 3 / 4
  | _ => 9 / 10

/-- The level after a measure (R372). -/
def nextLevel (x : Rat) (level : Nat) : Nat :=
  let rise (l : Nat) : Nat := if loadThr l ≤ x then l else 0
  let fall (l : Nat) : Nat := if 0 < l ∧ x < loadThr l - 1 / 20 then l - 1 else l
  max (max (rise 1) (max (rise 2) (rise 3))) (fall (fall (fall level)))

/-- `LOAD_MEASURE`: a hub in service measures its use and sets its level (R371, R372). -/
def execLoadMeasure (hub : Fin 8) (s : State) : Answer :=
  .next (if s.inService hub then
      let u := s.hubUse hub
      { s with queHubs := s.queHubs.mod hub.val {} (fun x =>
          let v := if x.measured then x.smoothed + (u - x.smoothed) / 8 else u
          { x with smoothed := v, measured := true, level := BitVec.ofNat 2 (nextLevel v x.level.toNat) }) }
    else s)

end Sys2Proof.Machine
end

