-- ==== Sys2Proof/Machine/SiOps.lean ====
section
/-! DEFINITION. SiOps.lean: structure images as bytes: their checks, effective values, legal combinations and classes of change
(chapters "The Structure Image" and "Modes and How They Combine"). -/
namespace Sys2Proof.Machine
open Sys2Proof

/-! ### Bytes and sections of an image (R48–R53) -/

/-- Byte `o`. -/
def SiImage.u8 (x : SiImage) (o : Nat) : Nat := (x.bytes.getD o 0).toNat
/-- The little-endian number in `n` bytes at `o`. -/
def SiImage.num (x : SiImage) (o n : Nat) : Nat := (List.range n).foldl (fun a i => a + x.u8 (o + i) * 256 ^ i) 0
/-- `n` bytes at `o`. -/
def SiImage.slice (x : SiImage) (o n : Nat) : List Byte := (List.range n).map (fun i => x.bytes.getD (o + i) 0)
/-- Every byte of a range is zero. -/
def SiImage.zeros (x : SiImage) (o n : Nat) : Bool := !x.bytes.any (fun b => decide (o ≤ b.1 ∧ b.1 < o + n) && b.2 != 0)
/-- `IMAGE_SIZE`. -/
def SiImage.imageSize (x : SiImage) : Nat := x.num 8 4
/-- `IMAGE_SERIAL`. -/
def SiImage.serial (x : SiImage) : BitVec 64 := BitVec.ofNat 64 (x.num 0x10 8)
/-- `MIN_FW`. -/
def SiImage.minFw (x : SiImage) : Nat := x.num 0x18 4
/-- `QUIESCE_LIMIT_MS`. -/
def SiImage.quiesceMs (x : SiImage) : Nat := x.num 0x1C 2
/-- `FLAGS.MGMT_CHECK`. -/
def SiImage.mgmtCheck (x : SiImage) : Bool := x.u8 0x0F % 2 == 1
/-- `BODY_DIGEST`. -/
def SiImage.bodyDigest (x : SiImage) : BitVec 512 := BitVec.ofNat 512 (beNat (x.slice 0x40 64))

/-- Where a section lies (R48, R52): each length is a multiple of 16. -/
def sectAt (c : Sect) : Nat := (Sect.all.filter (fun d => decide (d.id < c.id))).foldl (fun a d => a + d.length) 0x140

/-- The stored bytes of a section, zeros left out. -/
def SiImage.part (x : SiImage) (c : Sect) : SMap Byte :=
  (x.bytes.filter (fun b => decide (sectAt c ≤ b.1 ∧ b.1 < sectAt c + c.length) && b.2 != 0)).map (fun b => (b.1 - sectAt c, b.2))

/-- The stored sections. -/
def SiImage.sections (x : SiImage) : Sections := Sect.all.map (fun c => (c.id, x.part c))

/-- The DER SubjectPublicKeyInfo of an RSA-4096 key with exponent 65,537 (R672, R696). -/
def spki (m : BitVec 4096) : List Byte :=
  [0x30, 0x82, 0x02, 0x22, 0x30, 0x0D, 0x06, 0x09, 0x2A, 0x86, 0x48, 0x86, 0xF7, 0x0D, 0x01, 0x01, 0x01, 0x05, 0x00, 0x03, 0x82,
    0x02, 0x0F, 0x00, 0x30, 0x82, 0x02, 0x0A, 0x02, 0x82, 0x02, 0x01, 0x00] ++ beBytes 512 m.toNat
    ++ [0x02, 0x03, 0x01, 0x00, 0x01]

/-! ### Checks 1 to 7 (R68) -/

/-- Code of `PKG_ID.VARIANT` (R39). -/
def variantCode : Variant → Nat
  | .fx92 => 2 | .fx94 => 4 | .fx98 => 8

/-- Check 1: 0, or the result of the first clause that fails. -/
def SiImage.check1 (x : SiImage) : Nat :=
  if 262144 < x.imageSize then 3
  else if x.num 0 4 ≠ 0x49535846 ∨ x.num 4 2 ≠ 1 ∨ x.num 6 2 ≠ 128 ∨ x.u8 0x0C ≠ 12 then 2
  else if x.imageSize ≠ x.size ∨ x.imageSize < 848 then 3
  else 0

/-- Check 2: the signature verifies under the structure key of `KEY_SLOT` (R53, R675). -/
def State.siSigned (s : State) (x : SiImage) : Bool :=
  let b := x.size - 528
  match s.ten.slots.get? (x.u8 b) with
  | some (m, u) =>
    u.getLsbD 1 && decide (x.u8 b < 4) && decide (x.u8 (b + 1) = 1)
      && Config.rsaVerify m (Config.sha512 (x.slice 0 (x.size - 512))) (BitVec.ofNat 4096 (beNat (x.slice (x.size - 512) 512)))
  | none => false

/-- Check 3: `BODY_DIGEST` matches. -/
def SiImage.digestOk (x : SiImage) : Bool := Config.sha512 (x.slice 0x80 (x.size - 528 - 0x80)) == x.bodyDigest

/-- Signature and digest verify, as start-up and R675 ask. -/
def State.siVerifies (s : State) (x : SiImage) : Bool := s.siSigned x && x.digestOk

/-- Check 5: the image is for this part. -/
def State.siTarget (s : State) (x : SiImage) : Bool :=
  decide (x.u8 0x0D = variantCode s.fuses.variant) && (x.u8 0x0E == 0xFF || x.u8 0x0E == b2n s.fuses.grade.isB)
    && (x.zeros 0x20 16 || x.slice 0x20 16 == (beBytes 64 (Config.sha512 (spki Config.identityModulus)).toNat).take 16)

/-- The firmware image that hub `h`'s controller runs, or would run after a restart. -/
def Fw.hcImage (f : Fw) (h : Nat) : Option FwImage := if f.hcBank.getLsbD h then f.hcB else f.hcA
/-- The security processor's image. -/
def Fw.spImage (f : Fw) : Option FwImage := if f.spBank then f.spB else f.spA
/-- The version an image carries. -/
def versionOf (x : Option FwImage) : BitVec 32 := match x with | some y => y.version | none => 0

/-- Check 6: every present hub's firmware is new enough (R703). -/
def State.siFwOk (s : State) (x : SiImage) : Bool := s.presentHubs.all (fun h => decide (x.minFw ≤ (versionOf (s.fw.hcImage h)).toNat))

/-- Reserved bytes of a section, as offset and length (R54–R67). -/
def sectReserved : Sect → List (Nat × Nat)
  | .hubs => [(1, 15)]
  | .tiers => (List.range 8).map (fun n => (8 * n + 5, 3))
  | .interleave => [(1, 1), (4, 12)]
  | .extentPolicy => (List.range 16).flatMap (fun c => [(16 * c + 5, 3), (16 * c + 10, 6)])
  | .coherence => [(16, 16)]
  | .fabric => (List.range 32).flatMap (fun p => [(24 * p + 6, 2), (24 * p + 16, 8)]) ++ [(0x304, 12), (0x314, 12)]
      ++ (List.range 1024).map (fun h => (0x320 + 4 * h + 2, 2))
  | .queues => (List.range 16384).map (fun q => (8 * q + 7, 1)) ++ (List.range 1280).map (fun i => (0x20000 + 8 * i + 7, 1))
  | .clusters => (4, 12) :: (List.range 8).map (fun n => (0x10 + 16 * n + 14, 2))
  | .power => [(6, 2), (0x28, 24)]
  | .security => [(3, 13)]
  | .debugPolicy => [(6, 10)]
  | .compat => [(2, 14)]

/-- Check 7: reserved fields and bits are zero and the directory obeys R48 and R51. -/
def SiImage.check7 (x : SiImage) : Bool :=
  x.zeros 0x1E 2 && x.zeros 0x30 16 && decide (x.u8 0x0F < 2) && decide (x.size = 147696)
    && Sect.all.all (fun c =>
      let d := 0x80 + 16 * (c.id - 1)
      decide (x.u8 d = c.id) && decide (x.u8 (d + 1) = 1) && x.zeros (d + 2) 2 && decide (x.num (d + 4) 4 = sectAt c)
        && decide (x.num (d + 8) 4 = c.length) && x.zeros (d + 12) 4
        && (sectReserved c).all (fun r => x.zeros (sectAt c + r.1) r.2))
    && x.zeros (x.size - 526) 14
    -- reserved bits within bytes
    && (List.range 8).all (fun n => decide (x.u8 (sectAt .tiers + 8 * n) < 4) && decide (x.u8 (sectAt .tiers + 8 * n + 2) < 4))
    && (List.range 16).all (fun c => decide (x.u8 (sectAt .extentPolicy + 16 * c + 4) < 4))

/-! ### Check 8: legal values (R54–R67) -/

/-- Hub `n` is put in service by HUBS. -/
def Sections.hubOn (r : Sections) (n : Nat) : Bool := (BitVec.ofNat 8 (r.u8 .hubs 0)).getLsbD n
/-- Every byte of a range of a section is zero. -/
def Sections.zeros (r : Sections) (c : Sect) (o n : Nat) : Bool := (List.range n).all (fun i => r.u8 c (o + i) == 0)
/-- How many of the 8 low bits are set. -/
def bits8 (n : Nat) : Nat := (List.range 8).countP (fun i => n.testBit i)

/-- Two deep channels' DIMMs are alike (R553). -/
def chanAlike (a b : MemChan) : Bool :=
  a.dimms == b.dimms && a.ranks == b.ranks && a.gib == b.gib && a.spdSpeed == b.spdSpeed

/-- TIERS (R55, R56, R553). -/
def State.tiersLegal (s : State) (r : Sections) (h : Nat) : Bool :=
  let o := 8 * h
  if ¬s.hubPresent h then r.zeros .tiers o 8
  else
    let en := r.u8 .tiers o
    let sp := r.u8 .tiers (o + 2)
    let speed := r.u8 .tiers (o + 1)
    let on := [0, 1].filter (fun c => en.testBit c)
    let fitted := [0, 1].filter (fun c => (s.chan h (32 + c)).dimms != 0)
    decide (en < 4 ∧ speed ≤ 4 ∧ sp < 4) && decide (Nat.land sp en = sp)
      && decide (1 ≤ r.u8 .tiers (o + 3) ∧ r.u8 .tiers (o + 3) ≤ 4) && decide (r.u8 .tiers (o + 4) ≤ 24)
      && on.all (fun c =>
        let x := s.chan h (32 + c)
        x.usable && (decide (x.dimms ≠ 2) || decide (speed = 0)) && (!sp.testBit c || decide (2 ≤ x.rankCount)))
      && fitted.all (fun c => decide (speed ≤ (s.chan h (32 + c)).slowest.toNat))
      && (decide (on.length < 2) || chanAlike (s.chan h 32) (s.chan h 33))

/-- INTERLEAVE, EXTENT_POLICY and COHERENCE (R57–R60). -/
def classesLegal (r : Sections) : Bool :=
  let set := r.u8 .interleave 0
  let fine := r.u16 .interleave 2
  (bits8 set == 1 || bits8 set == 2 || bits8 set == 4 || bits8 set == 8) && decide (Nat.land set (r.u8 .hubs 0) = set)
    && (List.range 16).all (fun c =>
      let o := 16 * c
      let p (i : Nat) : Nat := r.u8 .extentPolicy (o + i)
      if p 0 = 0 then r.zeros .extentPolicy o 16 && !fine.testBit c && decide (r.u8 .coherence c = 0)
      else
        decide (p 0 = 1) && decide (p 1 ≤ 1) && (decide (p 2 ≤ 7) || decide (p 2 = 0xFF))
          && (p 3 == 1 || p 3 == 3 || p 3 == 7) && decide (p 4 < 4) && decide (1 ≤ r.u16 .extentPolicy (o + 8))
          && decide (r.u8 .coherence c ≤ 2)
          && (!fine.testBit c || decide (p 2 = 0xFF))
          && (decide (p 2 = 0xFF) || r.hubOn (p 2))
          && (!(p 4).testBit 1 || (!fine.testBit c && !(p 4).testBit 0 && decide (r.u8 .coherence c ≤ 1))))

/-- FABRIC (R61, R62). -/
def State.fabricLegal (s : State) (r : Sections) : Bool :=
  let f := r.u8 .fabric
  let port (v : Nat) : Bool := decide (v < 32) && decide (f (24 * v) = 1)
  (List.range 32).all (fun p =>
    let o := 24 * p
    if f o = 0 ∨ ¬s.hubPresent (p / 4) ∨ ¬r.hubOn (p / 4) then r.zeros .fabric o 24
    else
      decide (f o ≤ 2) && (f (o + 1) == 8 || f (o + 1) == 4 || f (o + 1) == 2) && decide (f (o + 2) ≤ 1)
        && decide (2 ≤ f (o + 3) ∧ f (o + 3) ≤ 64) && decide (r.u16 .fabric (o + 4) ≤ 1024)
        && (decide (f (o + 2) = 0) || decide (1 ≤ r.u16 .fabric (o + 4)))
        && decide ((List.range 8).foldl (fun a v => a + f (o + 8 + v)) 0 ≤ 128) && decide (f (o + 15) = 0)
        && (List.range 7).all (fun v => decide (3 ≤ f (o + 8 + v))))
    && [0, 1].all (fun e =>
      let o := 0x300 + 16 * e
      decide (f o ≤ 2) && (decide (e = 1) || decide (f o ≠ 0)) && decide (f (o + 1) ≤ 1) && decide (f (o + 2) ≤ 7))
    && (List.range 1024).all (fun h =>
      let a := f (0x320 + 4 * h)
      let b := f (0x320 + 4 * h + 1)
      (a == 0xFF || port a) && (b == 0xFF || (port b && b != a)))

/-- QUEUES (R63). -/
def State.queuesLegal (s : State) (r : Sections) : Bool :=
  (List.range 16384).all (fun q =>
    let o := 8 * q
    let host := r.u16 .queues o
    let rate := r.u16 .queues (o + 4)
    let burst := r.u8 .queues (o + 6)
    if host = 0xFFFF then
      decide (r.u16 .queues (o + 2) = 0) && (if s.hubPresent (q / 2048) then (decide (rate = 0) == decide (burst = 0))
        else r.zeros .queues (o + 2) 6)
    else
      decide (host < 0x500) && s.hubPresent (q / 2048) && decide (1 ≤ r.u16 .queues (o + 2))
        && (decide (rate = 0) == decide (burst = 0)))
    && (List.range 1280).all (fun i =>
      let o := 0x20000 + 8 * i
      let cir := r.u16 .queues o
      let pir := r.u16 .queues (o + 2)
      let cbs := r.u8 .queues (o + 4)
      let pbs := r.u8 .queues (o + 5)
      decide (cir ≤ pir) && (if pir = 0 then decide (cbs = 0 ∧ pbs = 0) else decide (1 ≤ cbs ∧ cbs ≤ pbs))
        && decide (r.u8 .queues (o + 6) ≤ (if 1024 ≤ i then 1 else 0)))

/-- CLUSTERS, POWER, SECURITY, DEBUG_POLICY and COMPAT (R64–R67). -/
def State.restLegal (s : State) (r : Sections) : Bool :=
  let c := r.u8 .clusters
  let w (n : Nat) : Nat := r.u16 .power (8 + 2 * n)
  let v (n : Nat) : Nat := r.u16 .power (0x18 + 2 * n)
  decide (c 0 ≤ 1 ∧ c 1 ≤ 1) && decide (1 ≤ r.u16 .clusters 2 ∧ r.u16 .clusters 2 ≤ 4096)
    && (decide (c 0 = 0) || (List.range 32).any (fun p => r.u8 .fabric (24 * p) == 2))
    && (List.range 8).all (fun n => (List.range 14).all (fun k =>
      let a := c (0x10 + 16 * n + k)
      if s.hubPresent n ∧ r.hubOn n then (decide (a ≤ 2) || !s.clusterPresent n k)
      else decide (a = 0) || (s.hubPresent n && !s.clusterPresent n k)))
    && decide (300 ≤ r.u16 .power 0 ∧ r.u16 .power 0 ≤ 1500) && decide (40 ≤ r.u8 .power 2 ∧ r.u8 .power 2 ≤ 140)
    && decide (85 ≤ r.u8 .power 3 ∧ r.u8 .power 3 ≤ 105)
    && decide (700 ≤ r.u16 .power 4 ∧ r.u16 .power 4 ≤ 2100 ∧ r.u16 .power 4 % 100 = 0)
    && (List.range 8).all (fun n => if s.hubPresent n ∧ r.hubOn n then decide (40 ≤ v n ∧ v n ≤ w n) else decide (w n = 0 ∧ v n = 0))
    && decide ((List.range 8).foldl (fun a n => a + w n) 0 ≤ r.u16 .power 0)
    && decide (r.u8 .security 0 ≤ 1 ∧ r.u8 .security 1 ≤ 1 ∧ r.u8 .security 2 ≤ 1)
    && (decide (r.u8 .security 0 = 0) || decide (r.u8 .security 1 = 1 ∧ r.u8 .security 2 = 1))
    && decide (r.u8 .debugPolicy 0 ≤ 1 ∧ r.u8 .debugPolicy 1 ≤ 2 ∧ r.u8 .debugPolicy 5 ≤ 1)
    && (if r.u8 .debugPolicy 1 = 2 then
        decide (1 ≤ r.u16 .debugPolicy 2 ∧ r.u16 .debugPolicy 2 ≤ 1024) && decide (r.u8 .debugPolicy 4 < 8)
          && r.hubOn (r.u8 .debugPolicy 4)
      else decide (r.u16 .debugPolicy 2 = 0 ∧ r.u8 .debugPolicy 4 = 0))
    && decide (r.u8 .compat 0 ≤ 1 ∧ r.u8 .compat 1 ≤ 1)

/-- Check 8. -/
def State.check8 (s : State) (x : SiImage) : Bool :=
  let r := x.sections
  decide (10 ≤ x.quiesceMs ∧ x.quiesceMs ≤ 60000) && decide (1 ≤ x.serial.toNat)
    && decide (r.u8 .hubs 0 % 2 = 1) && decide (Nat.land (r.u8 .hubs 0) (hubMask s.fuses.variant).toNat = r.u8 .hubs 0)
    && (List.range 8).all (s.tiersLegal r) && classesLegal r && s.fabricLegal r && s.queuesLegal r && s.restLegal r

/-! ### Effective values (R87) and the base image (R82) -/

/-- The host identities that some queue binds. -/
def boundHosts (r : Sections) : List Nat := ((List.range 16384).map (fun q => r.u16 .queues (8 * q))).filter (· < 0x500)

/-- A section with the bytes that `p` names made zero. -/
def cutBytes (m : SMap Byte) (p : Nat → Bool) : SMap Byte := m.filter (fun b => !p b.1)

/-- The effective values of an image's sections (R87). -/
def State.effective (s : State) (r : Sections) : Sections :=
  let bound := boundHosts r
  r.map (fun e =>
    if e.1 = Sect.tiers.id then
      (e.1, cutBytes e.2 (fun o => !r.hubOn (o / 8) && (o % 8 == 0 || o % 8 == 2 || o % 8 == 4)))
    else if e.1 = Sect.fabric.id then
      (e.1, cutBytes e.2 (fun o => decide (o < 0x300) && (o % 24 == 4 || o % 24 == 5) && r.u8 .fabric (o / 24 * 24 + 2) == 0))
    else if e.1 = Sect.queues.id then
      (e.1, cutBytes e.2 (fun o => decide (0x20000 ≤ o) && !bound.contains ((o - 0x20000) / 8)))
    else if e.1 = Sect.clusters.id then
      (e.1, cutBytes e.2 (fun o => decide (0x10 ≤ o) && !s.clusterPresent ((o - 0x10) / 16) ((o - 0x10) % 16)))
    else if e.1 = Sect.compat.id then
      (e.1, cutBytes e.2 (fun o => o == 1 && r.u8 .compat 0 == 0))
    else e)

/-- Bytes at an offset, zeros left out. -/
def bytesFrom (o : Nat) (b : List Nat) : SMap Byte := (b.zipIdx.filter (fun e => e.1 != 0)).map (fun e => (o + e.2, BitVec.ofNat 8 e.1))

/-- The channels that the base image enables on a hub: those with usable DIMMs, or channel 0 only when both are usable and
differ (R82, R553). -/
def State.baseChans (s : State) (h : Nat) : List Nat :=
  let u := [0, 1].filter (fun c => (s.chan h (32 + c)).usable)
  if u.length = 2 ∧ ¬chanAlike (s.chan h 32) (s.chan h 33) then [0] else u

/-- The highest speed that R56 allows on a hub whose enabled channels are `chans`; 0 where none is. -/
def State.topSpeed (s : State) (h : Nat) (chans : List Nat) : Nat :=
  if chans.isEmpty ∨ chans.any (fun c => (s.chan h (32 + c)).dimms == 2) then 0
  else ([0, 1].filter (fun c => (s.chan h (32 + c)).dimms != 0)).foldl (fun a c => min a (s.chan h (32 + c)).slowest.toNat) 4

/-- The sections of the base image (R82). -/
def State.baseSections (s : State) : Sections :=
  let hs := s.presentHubs
  let watts := 1500 / max 1 hs.length
  let perHub (f : Nat → Nat) : List Nat := (List.range 8).flatMap (fun h => if hs.contains h then [f h % 256, f h / 256] else [0, 0])
  let eth (e : Nat) : List Nat := [2, bitOf s.sys.ethMedium e |> b2n, 7, 0]
  [(Sect.hubs.id, bytesFrom 0 [(hubMask s.fuses.variant).toNat]),
   (Sect.tiers.id, hs.flatMap (fun h =>
      let l := s.baseChans h
      bytesFrom (8 * h) [l.foldl (fun a c => a + 2 ^ c) 0, s.topSpeed h l, 0, 1, 0])),
   (Sect.interleave.id, []), (Sect.extentPolicy.id, []), (Sect.coherence.id, []),
   (Sect.fabric.id, bytesFrom 0x300 (eth 0) ++ bytesFrom 0x310 (eth 1)
      ++ (List.range 1024).flatMap (fun h => bytesFrom (0x320 + 4 * h) [0xFF, 0xFF])),
   (Sect.queues.id, (List.range 16384).flatMap (fun q => bytesFrom (8 * q) [0xFF, 0xFF])),
   (Sect.clusters.id, []),
   (Sect.power.id, bytesFrom 0 [1500 % 256, 1500 / 256, 140, 105, 2100 % 256, 2100 / 256] ++ bytesFrom 8 (perHub (fun _ => watts))
      ++ bytesFrom 0x18 (perHub (fun _ => 40))),
   (Sect.security.id, []), (Sect.debugPolicy.id, []), (Sect.compat.id, [])]

/-- The effective sections of an image, or of the base image. -/
def State.sectionsOf (s : State) (x : Option SiImage) : Sections :=
  match x with
  | some y => s.effective y.sections
  | none => s.baseSections

/-! ### Check 9: legal combinations (R89) -/

/-- Enabled deep channels of a hub. -/
def Sections.deepChans (e : Sections) (h : Nat) : Nat := if e.hubOn h then bits8 (e.u8 .tiers (8 * h)) else 0
/-- A class is fine. -/
def Sections.fine (e : Sections) (c : Nat) : Bool := (e.u16 .interleave 2).testBit c
/-- A byte of a class's policy. -/
def Sections.cls (e : Sections) (c i : Nat) : Nat := e.u8 .extentPolicy (16 * c + i)
/-- The hub has a cluster that `p` describes by its `ALLOC`. -/
def Sections.anyAlloc (e : Sections) (h : Nat) (p : Nat → Bool) : Bool := (List.range 14).any (fun k => p (e.u8 .clusters (0x10 + 16 * h + k)))

/-- K1 to K12, on the image alone. -/
def combosAlone (e : Sections) : Bool :=
  let on := (List.range 8).filter e.hubOn
  let classes := (List.range 16).filter (fun c => e.cls c 0 == 1)
  let set := (List.range 8).filter (fun h => (e.u8 .interleave 0).testBit h)
  let anyDeep := on.any (fun h => decide (0 < e.deepChans h))
  -- K1
  (classes.filter (fun c => e.cls c 1 == 1)).all (fun c =>
    if e.fine c then
      set.all (fun h => decide (0 < e.deepChans h) && e.deepChans h == e.deepChans (set.headD 0)
        && e.u8 .tiers (8 * h + 1) == e.u8 .tiers (8 * set.headD 0 + 1))
    else if e.cls c 2 = 0xFF then anyDeep else decide (0 < e.deepChans (e.cls c 2)))
  -- K2, K3, K4
    && classes.all (fun c => !(e.cls c 3).testBit 2 || e.u8 .coherence c == 2)
    && classes.all (fun c => !(e.cls c 4).testBit 1 || (e.cls c 1 == 0 && e.u8 .coherence c == 0 && !(e.cls c 3).testBit 2))
    && classes.all (fun c => !(e.cls c 4).testBit 0 || anyDeep)
  -- K5
    && ((List.range 32).any (fun p => e.u8 .fabric (24 * p) == 2) == (e.u8 .clusters 0 == 1))
    && (List.range 32).all (fun p => e.u8 .fabric (24 * p) != 2 || e.u8 .fabric (24 * p + 2) == 0)
  -- K6
    && ((boundHosts e).filter (· < 0x400)).all (fun h => e.u8 .fabric (0x320 + 4 * h) != 0xFF)
  -- K7, K8
    && (List.range 8).all (fun h => !e.anyAlloc h (· != 0)
      || (decide (1 ≤ e.u8 .tiers (8 * h + 4)) && decide (e.u16 .power (0x18 + 2 * h) < e.u16 .power (8 + 2 * h))))
    && (e.u8 .clusters 1 != 1 || ((List.range 8).any (fun h => e.anyAlloc h (· == 1))
      && (List.range 8).all (fun h => !e.anyAlloc h (· == 1) || decide (8 ≤ e.u8 .tiers (8 * h + 4)))))
  -- K9, K10, K11
    && decide (e.u16 .power 0 ≤ 12 * e.u8 .power 2)
    && (e.u8 .compat 0 != 1 || (e.u8 .security 0 == 0 && e.u8 .clusters 0 == 0))
    && (e.u8 .compat 1 != 1 || (classes.filter (fun c => e.cls c 1 == 1)).all (fun c => !e.fine c))
  -- K12
    && [0, 1].all (fun p => e.u8 .fabric (0x300 + 16 * p) == 0
      || !(e.u8 .fabric (0x303 + 16 * p)).testBit (e.u8 .fabric (0x302 + 16 * p)))
    && (e.u8 .fabric 0x300 == 0 || e.u8 .fabric 0x310 == 0 || e.u8 .fabric 0x302 == e.u8 .fabric 0x312)

/-- Carved extents of a class. -/
def State.carvedIn (s : State) (c : Nat) : List (Nat × Extent) := s.extents.filter (fun e => e.2.cls.toNat == c)

/-- The reserved stack slots of a hub under sections `e` (R551). -/
def reservedUnder (e : Sections) (h : Nat) : Nat :=
  if ¬e.hubOn h then 384
  else 384 - e.u8 .tiers (8 * h + 3) - 4 * e.u8 .tiers (8 * h + 4)
    - (if e.u8 .debugPolicy 1 = 2 ∧ e.u8 .debugPolicy 4 = h then (e.u16 .debugPolicy 2 + 255) / 256 else 0)

/-- Bytes of the staging saves resident in a hub's save area: the copies that its logical clusters have there (R494, R496, R503). -/
def State.residentSaves (s : State) (h : Nat) : Nat :=
  s.jobs.foldl (fun a j => a + j.2.lcs.countP (fun i => j.2.saveHub i == h && (s.lc j.1 i).copy.isSome)
    * (imgStaging j.2.image + 65536)) 0

/-- A job is resident that was launched in pairs mode, or is being launched; it is so until `JUNLOAD` (R89). -/
def State.pairsResident (s : State) : Bool :=
  s.jobs.any (fun j => imgPairs j.2.image && (j.2.launched || j.2.state == .launchPending))

/-- K13 to K16, against the sections in force and the state of the part. -/
def State.combosState (s : State) (e : Sections) : Bool :=
  let c := s.eff
  let carved (k : Nat) : Bool := !(s.carvedIn k).isEmpty
  -- K13
  (e.u8 .interleave 0 == c.u8 .interleave 0 || !s.extents.any (fun x => x.2.fineSet != 0))
    && (List.range 16).all (fun k => !carved k
      || (e.fine k == c.fine k && e.cls k 1 == c.cls k 1 && e.cls k 2 == c.cls k 2 && (e.cls k 4).testBit 1 == (c.cls k 4).testBit 1
        && e.cls k 0 == 1))
  -- K14
    && (List.range 16).all (fun k => !carved k || c.u8 .coherence k != 1 || e.u8 .coherence k == 1)
  -- K15
    && (List.range 8).all (fun h => !c.hubOn h || e.hubOn h || !s.extents.any (fun x => extentHub x h))
    && (List.range 8).all (fun h =>
      let deepCarved := s.slots.any (fun x => x.1 / 8192 == h && decide (4096 ≤ x.1 % 8192) && x.2 == .carved)
      [0, 1].all (fun k => !(c.u8 .tiers (8 * h)).testBit k || (e.hubOn h && (e.u8 .tiers (8 * h)).testBit k)
        || !(s.chan h (32 + k)).layout || !deepCarved)
      && [0, 1].all (fun k => (c.u8 .tiers (8 * h + 2)).testBit k || !(e.u8 .tiers (8 * h + 2)).testBit k
        || !(s.chan h (32 + k)).layout
        || (s.layoutChans h).all (fun l => (s.slotsOfRank h (32 + l) ((s.chan h (32 + l)).rankCount - 1)).all (fun x =>
            s.slots.getD x .absent != .carved))))
    && (List.range 8).all (fun h => !s.inService h
      || ((List.range 384).filter (fun i => decide (reservedUnder e h ≤ i) && decide (i < s.reservedFrom h))).all (fun i =>
        s.slots.getD (h * 8192 + i) .absent == .free))
  -- K16
    && (List.range 8).all (fun h => decide (c.u8 .tiers (8 * h + 4) ≤ e.u8 .tiers (8 * h + 4))
      || decide (s.residentSaves h ≤ e.u8 .tiers (8 * h + 4) * 2 ^ 30))
    && (c.u8 .clusters 0 == e.u8 .clusters 0 || e.u8 .clusters 0 == 1 || !s.pairsResident)

/-- Check 9. -/
def State.check9 (s : State) (e : Sections) : Bool := combosAlone e && s.combosState e

/-- Check 10: an open epoch bars changes of SECURITY and DEBUG_POLICY. -/
def State.check10 (s : State) (x : SiImage) : Bool :=
  let now := match s.si.inForce with | some y => y.sections | none => s.baseSections
  !s.epochOpen || (x.part .security == now.getD Sect.security.id [] && x.part .debugPolicy == now.getD Sect.debugPolicy.id [])

/-- R68: 1, or the result of the first check that fails. -/
def State.validate (s : State) (x : SiImage) : Nat :=
  if x.check1 ≠ 0 then x.check1
  else if ¬s.siSigned x then 4
  else if ¬x.digestOk then 5
  else if x.serial ≤ s.si.maxSerial then 6
  else if ¬s.siTarget x then 7
  else if ¬s.siFwOk x then 15
  else if ¬x.check7 then 8
  else if ¬s.check8 x then 9
  else if ¬s.check9 (s.effective x.sections) then 10
  else if ¬s.check10 x then 11
  else 1

/-! ### Classes of change (R92–R95, R813) -/

/-- Byte `o` of a section differs. -/
def differ (a b : Sections) (c : Sect) (o : Nat) : Bool := a.u8 c o != b.u8 c o
/-- Some byte of a range differs. -/
def differIn (a b : Sections) (c : Sect) (o n : Nat) : Bool := (List.range n).any (fun i => differ a b c (o + i))

/-- Collects bits. -/
def maskBits {n : Nat} (l : List Nat) : BitVec n := BitVec.ofNat n (l.foldl (fun a i => Nat.lor a (2 ^ i)) 0)

/-- The classes whose `RIGHTS_MAX` loses a right. -/
def rightsCut (a b : Sections) : BitVec 16 :=
  maskBits ((List.range 16).filter (fun c => a.cls c 0 == 1 && b.cls c 0 == 1
    && decide (Nat.land (a.cls c 3) (b.cls c 3) ≠ a.cls c 3)))

/-- The units that a quiesce from `a` to `b` holds (R92). -/
def State.holdsOf (s : State) (a b : Sections) : SiHolds :=
  let hs := List.range 8
  let eth (p : Nat) : Bool := differIn a b .fabric (0x300 + 16 * p) 3
  { hubs := maskBits (hs.filter (fun h => a.hubOn h != b.hubOn h)),
    e0 := eth 0, e1 := eth 1,
    ports := maskBits ((List.range 32).filter (fun p =>
      differ a b .fabric (24 * p) || differ a b .fabric (24 * p + 2) || differIn a b .fabric (24 * p + 8) 8)),
    classes := rightsCut a b ||| maskBits ((List.range 16).filter (fun c => a.cls c 0 == 1 && b.cls c 0 == 1
      && (a.cls c 4).testBit 0 && !(b.cls c 4).testBit 0)),
    recalls := maskBits ((List.range 16).filter (fun c => a.u8 .coherence c == 2 && b.u8 .coherence c != 2
      && !(s.carvedIn c).isEmpty)),
    queues := (List.range 16384).filter (fun q => differIn a b .queues (8 * q) 2),
    clusters := maskBits ((List.range 112).filter (fun i => differ a b .clusters (0x10 + 16 * (i / 14) + i % 14))),
    channels := hs.flatMap (fun h => [0, 1].filterMap (fun c =>
      let x := a.u8 .tiers (8 * h)
      let y := b.u8 .tiers (8 * h)
      if x.testBit c != y.testBit c || (differ a b .tiers (8 * h + 1) && (x.testBit c || y.testBit c))
          || (a.u8 .tiers (8 * h + 2)).testBit c != (b.u8 .tiers (8 * h + 2)).testBit c
          || (differ a b .compat 1 && x.testBit c) then some (h * 2 + c) else none)),
    saves := maskBits (hs.filter (fun h => decide (b.u8 .tiers (8 * h + 3) < a.u8 .tiers (8 * h + 3))
      || decide (b.u8 .tiers (8 * h + 4) < a.u8 .tiers (8 * h + 4)))),
    exports := differ a b .debugPolicy 1 || differIn a b .debugPolicy 2 3 }

/-- The difference needs a reset (R92). -/
def needsReset (a b : Sections) : Bool :=
  (differIn a b .fabric 0x300 3 && differIn a b .fabric 0x310 3) || differIn a b .security 0 3 || differ a b .debugPolicy 5
    || differ a b .compat 0

/-- A field of the deep tier differs that R92 assigns to quiesce, whether or not a channel is there to be held. -/
def deepDiffers (a b : Sections) : Bool :=
  (List.range 8).any (fun h => differIn a b .tiers (8 * h) 3) || differ a b .compat 1

/-- The class of the difference: 1 live, 2 quiesce, 3 reset (R92–R94). -/
def State.classOfChange (s : State) (a b : Sections) : Nat :=
  if needsReset a b then 3 else if s.holdsOf a b = {} ∧ ¬deepDiffers a b then 1 else 2

/-- The hubs of which a quiesce holds a unit other than the bridge switch and the Ethernet port (R813). -/
def State.hubsHeld (s : State) (k : SiHolds) : BitVec 8 :=
  (if k.classes ≠ 0 ∨ k.exports then maskBits s.serviceHubs else 0)
    ||| k.hubs ||| k.saves ||| maskBits (k.queues.map (· / 2048)) ||| maskBits (k.channels.map (· / 2))
    ||| maskBits ((List.range 32).filter (fun p => k.ports.getLsbD p) |>.map (· / 4))
    ||| maskBits ((List.range 112).filter (fun i => k.clusters.getLsbD i) |>.map (· / 14))
    ||| maskBits ((List.range 8).filter (fun h => s.extents.any (fun e => k.recalls.getLsbD e.2.cls.toNat && extentHub e h)))

/-- `SI_CHANGE` for a staged image against the one in force (R103, R813). -/
def State.changeWord (s : State) (b : Sections) : Word :=
  let a := s.eff
  let c := s.classOfChange a b
  let k := s.holdsOf a b
  let diff := Sect.all.foldl (fun n x => n + (if a.getD x.id [] ≠ b.getD x.id [] then 2 ^ (x.id - 1) else 0)) 0
  packWord [(0, c), (4, diff), (16, if c = 3 then 0 else (s.hubsHeld k).toNat), (24, if c ≠ 3 ∧ (k.e0 ∨ k.e1) then 1 else 0)]

end Sys2Proof.Machine
end

