-- ==== Sys2Proof/Machine/Session.lean ====
section
/-! DEFINITION. Session.lean: access paths, their selectors and rights, and the opening and ending of KMP sessions. -/
namespace Sys2Proof.Machine
open Sys2Proof

/-- The number of a path: 0 firmware, 1 + k KMP slot k, 33 I3C, 34 JTAG. -/
def pathIndex : Path → Nat
  | .firmware => 0
  | .kmp k => 1 + k.val
  | .i3c => 33
  | .jtag => 34

/-- The selectors of a path (R679). -/
def State.sel (s : State) (p : Path) : Sel := s.sels.getD (pathIndex p) {}
/-- Changes them. -/
def State.modSel (s : State) (p : Path) (f : Sel → Sel) : State := { s with sels := s.sels.mod (pathIndex p) {} f }

/-- The session of a path, when it is one. -/
def State.sessionAt (s : State) (p : Path) : Option KmpSession := match p with | .kmp k => s.session k.val | _ => none

/-- The usages a path holds (R673, R678, R730): firmware all, JTAG `OPERATOR`, I3C none. -/
def State.pathUsage (s : State) (p : Path) : BitVec 4 :=
  match p with
  | .firmware => 0xF
  | .jtag => 1
  | .i3c => 0
  | .kmp _ => match s.sessionAt p with | some x => s.usage x | none => 0

/-- The path is a tenant session (R678). -/
def State.isTenant (s : State) (p : Path) : Bool := match s.sessionAt p with | some x => x.auth == .tenant | none => false

/-- The board and test access ports, whose writes the commands of sessions ignore (R71, R700). -/
def boardPath (p : Path) : Bool := p == .i3c || p == .jtag

/-- A command that the part ignores: it comes over I3C or JTAG, in the fatal state, or from a slot without a session (R71, R700,
R809). -/
def State.ignores (s : State) (p : Path) : Bool :=
  boardPath p || s.fatal || (match p with | .kmp k => (s.session k.val).isNone | _ => false)

/-- A staging buffer that the session in slot `k` owns. -/
def ownedBy (b : Option StageBuf) (k : Nat) (sid : BitVec 32) : Bool :=
  match b with | some b => b.owner.slot == k && b.owner.sid == sid | none => false

/-- The value that a write of `RTC_ALARM` in progress on a copy of the PWR window applies (R747); none when it is not one, or refused. -/
def Mbx.alarm (x : Mbx) : Option (BitVec 48) :=
  if x.busy ∧ x.writing ∧ ¬x.tenant ∧ x.idEcho = 1 ∧ x.index = 0 ∧ (x.data.getD 1 0).toNat < 2 ^ 16 then
    some (BitVec.ofNat 48 ((x.data.getD 0 0).toNat + (x.data.getD 1 0).toNat * 2 ^ 32))
  else none

/-- The key of a copy of a mailbox window (R741). -/
def mbxKey (p : Path) (hub block : Nat) : Nat := (pathIndex p * 8 + hub) * 256 + block

/-- Mailbox requests of a session that ends: a write completes as requested, and no result is kept (R750). -/
def State.endRequests (s : State) (k : Nat) : State :=
  let x := s.mbx.getD (mbxKey (.kmp (Fin.ofNat 32 k)) 0 0x0F) {}
  { s with
    clk := { s.clk with alarmPending := match x.alarm with | some v => some v | none => s.clk.alarmPending },
    mbx := s.mbx.keep (fun q => q / 2048 != 1 + k) }

/-- `SI_CHANGE` as a change of state out of Validated, other than into Quiescing, leaves it (R103). -/
def Si.changeLeft (x : Si) : Word := if x.state = .validated then 0 else x.change

/-- A KMP session ends (R71, R73, R328, R711): what it owned goes. -/
def State.endSession (s : State) (k : Nat) : State :=
  match s.session k with
  | none => s
  | some x =>
    let s : State :=
      if ownedBy s.si.stage k x.sid ∧ (s.si.state = .staging ∨ s.si.state = .validated) then
        { s with si := { s.si with state := .idle, stage := none, change := s.si.changeLeft } }
      else s
    let s : State := if ownedBy s.fw.stage k x.sid ∧ ¬s.fw.writing then { s with fw := { s.fw with stage := none } } else s
    let s : State := if s.trig.kmpTarget = some k then { s with trig := { s.trig with kmpTarget := none } } else s
    { s.endRequests k with kmp := s.kmp.erase k }

/-- Every session that `p` describes ends. -/
def State.endSessions (s : State) (p : KmpSession → Bool) : State :=
  s.kmp.foldl (fun s e => if p e.2 then s.endSession e.1 else s) s

/-- A session opens in slot `k`: its copies of the mailbox windows and of the selectors begin afresh (R679, R741). -/
def State.openSession (s : State) (k : Nat) (x : KmpSession) : State :=
  { s with
    kmp := s.kmp.set k x, sels := s.sels.erase (1 + k), mbx := s.mbx.keep (fun q => q / 2048 != 1 + k) }

/-- The lowest free session slot (R330). -/
def State.freeSession (s : State) : Option Nat := (List.range 32).find? (fun k => (s.kmp.get? k).isNone)

/-- Free session slots. -/
def State.freeSessions (s : State) : Nat := 32 - s.kmp.length

/-- The session that owns a buffer is still open. -/
def State.ownerLives (s : State) (b : Option StageBuf) : Bool :=
  match b with
  | some b => (match s.session b.owner.slot with | some x => x.sid == b.owner.sid | none => false)
  | none => false

/-- The owner that a path makes of a buffer: its session; slot 32 stands for firmware. -/
def State.ownerOf (s : State) (p : Path) : BufOwner :=
  match p, s.sessionAt p with
  | .kmp k, some x => { slot := k.val, sid := x.sid }
  | _, _ => { slot := 32, sid := 0 }

/-- The path may open a buffer: it owns it already, or no open session does (R72, R711). -/
def State.mayTake (s : State) (p : Path) (b : Option StageBuf) : Bool :=
  !s.ownerLives b || (match b with | some b => b.owner == s.ownerOf p | none => true)

end Sys2Proof.Machine
end

