-- ==== Sys2Proof/Machine/Tenancy.lean ====
section
/-! DEFINITION. Tenancy.lean: the meanings of the operator keys, of tenancy epochs and of resurfacing (chapter "Tenancy, Keys and
Attestation"). -/
namespace Sys2Proof.Machine
open Sys2Proof

/-- Sets `TEN_STATUS.LAST_RESULT` (R699). -/
def State.tenEnded (s : State) (r : BitVec 4) : State := { s with ten := { s.ten with lastResult := r } }

/-- `TEN_CMD.BUSY` (R700). -/
def State.tenBusy (s : State) : Bool := s.ten.state == .ending || s.ten.state == .resurfacing || s.si.heldEpoch.isSome

/-- The modulus in `TEN_KEY_WIN` (R702). -/
def State.keyWinModulus (s : State) : BitVec 4096 :=
  BitVec.ofNat 4096 (beNat ((List.range 128).flatMap (fun k => leBytes 4 (s.ten.keyWin.getD k 0).toNat)))

/-- A modulus that R674 refuses with result 4. -/
def badKey (m : BitVec 4096) : Bool := !m.msb || !m.getLsbD 0

/-! ### Operator keys (R673–R675) -/

/-- After a slot has changed: its sessions end, and a previous image that no longer verifies is gone (R674, R675). -/
def State.slotChanged (s : State) (k : Fin 4) : State :=
  let s := s.endSessions (fun x => x.auth == .slot k)
  match s.si.prev with
  | some x => if s.siVerifies x then s else { s with si := { s.si with prev := none } }
  | none => s

/-- `TEN_CMD` `OP` 1 (R674). -/
def State.enrol (s : State) (p : Path) (slot : Fin 4) (usage : BitVec 4) : State :=
  let m := s.keyWinModulus
  if s.ignores p then s
  else if ¬(s.pathUsage p).getLsbD 3 ∧ ¬(s.ten.slots.isEmpty ∧ (s.sessionAt p).isSome) then s.tenEnded 3
  else if badKey m then s.tenEnded 4
  else if s.ten.slots.any (fun e => e.1 != slot.val && e.2.1 == m) ∨ (s.epochOpen ∧ s.ten.tenantKey = some m) then s.tenEnded 5
  else
    let same := match s.ten.slots.get? slot.val with | some (k, _) => k == m | none => false
    let s : State := { s with ten := { s.ten with slots := s.ten.slots.set slot.val (m, usage), lastResult := 1 } }
    if same then { s with si := { s.si with prev := s.si.prev.filter s.siVerifies } } else s.slotChanged slot

/-- `ENROL` (R674). -/
def execEnrol (path : Path) (slot : Fin 4) (usage : BitVec 4) (s : State) : Answer := .next (s.enrol path slot usage)

/-- `TEN_CMD` `OP` 2 (R674). -/
def State.revoke (s : State) (p : Path) (slot : Fin 4) : State :=
  if s.ignores p then s
  else if ¬(s.pathUsage p).getLsbD 3 then s.tenEnded 3
  else if ¬s.ten.slots.any (fun e => e.1 != slot.val && e.2.2.getLsbD 3) then s.tenEnded 5
  else ({ s with ten := { s.ten with slots := s.ten.slots.erase slot.val, lastResult := 1 } } : State).slotChanged slot

/-- `REVOKE` (R674). -/
def execRevoke (path : Path) (slot : Fin 4) (s : State) : Answer := .next (s.revoke path slot)

/-! ### Opening and ending an epoch (R681–R683, R98) -/

/-- A firmware update is in progress (R711–R717). -/
def State.fwBusy (s : State) : Bool := s.fw.phase != 0 || s.fw.writing

/-- The refusal of `OP` 3, or 0 (R681); `mayOpen` tells whether the asker holds `OPERATOR`. -/
def State.openRefusal (s : State) (mayOpen : Bool) (m : BitVec 4096) : BitVec 4 :=
  if s.ten.state ≠ .clean then 2
  else if ¬mayOpen then 3
  else if badKey m then 4
  else if s.ten.slots.any (fun e => e.2.1 == m) then 5
  else if s.maps.any (fun e => !e.2.isEmpty) ∨ s.extents.any (fun e => s.testOnly e.2.cls.toNat) ∨ ¬s.jobs.isEmpty then 6
  else if s.fwBusy ∨ s.si.state = .pendingReset ∨ s.si.state = .returning then 7
  else 0

/-- The five actions of R681. -/
def State.openNow (s : State) (carve : Bool) (m : BitVec 4096) : State :=
  let e := satAdd s.ten.epoch 1
  { s with
    ten := { s.ten with epoch := e, tenantKey := some m, tenantCarve := carve, state := .open_, lastResult := 1 },
    memKey := e.toNat,
    queues := s.queues.mapVals (fun _ x => { x with nonce := 0 }) }

/-- Decides a request to open an epoch under the image in force. -/
def State.decideOpen (s : State) (mayOpen carve : Bool) (m : BitVec 4096) : State :=
  match s.openRefusal mayOpen m with
  | 0 => s.openNow carve m
  | r => s.tenEnded r

/-- `TEN_CMD` `OP` 3 (R681); while a commit quiesces every request waits, one that would be refused now too (R98). -/
def State.openEpoch (s : State) (p : Path) (carve : Bool) : State :=
  let may := (s.pathUsage p).getLsbD 0
  let m := s.keyWinModulus
  if s.ignores p then s
  else if s.tenBusy then s.tenEnded 2
  else if s.si.state = .quiescing then
    let owner : Nat × BitVec 32 := match p, s.sessionAt p with | .kmp k, some x => (k.val, x.sid) | _, _ => (32, 0)
    { s with si := { s.si with heldEpoch := some { slot := owner.1, sid := owner.2, may := may, carve := carve, modulus := m } } }
  else s.decideOpen may carve m

/-- `OPEN_EPOCH` (R681). -/
def execOpenEpoch (path : Path) (carve : Bool) (s : State) : Answer := .next (s.openEpoch path carve)

/-- Decides the request that a commit held, once the commit has ended (R98); the right is that of the asker when it asked. -/
def State.heldEpochNow (s : State) : State :=
  match s.si.heldEpoch with
  | none => s
  | some h => ({ s with si := { s.si with heldEpoch := none } } : State).decideOpen h.may h.carve h.modulus

/-- Every job ends with `JCAUSE` 10, loads included, and its whole context is shot down (R517, R543). -/
def State.endAllJobs (s : State) : State :=
  let s := s.jobg.loads.foldl (fun s x => s.loadFail x 0x14 10) s
  (s.jobs.map (·.1)).foldl (fun s j => (s.endJob j 10 0 0).shootJob j) s

/-- `TEN_CMD` `OP` 4 (R683, R215 steps 1 and 2): every extent enters withdrawal from every host, so that no retry record stays (R199). -/
def State.endEpoch (s : State) (p : Path) (m : Medium) : State :=
  if s.ignores p then s
  else if s.ten.state ≠ .open_ then s.tenEnded 2
  else if ¬(s.pathUsage p).getLsbD 0 ∧ ¬s.isTenant p then s.tenEnded 3
  else
    let s : State := { s with
      ten := { s.ten with state := .ending }, tenEnd := .draining, retry := [],
      maps := s.maps.mapVals (fun _ x => x.mapVals (fun _ e => { e with mark := .draining })),
      drains := s.drains.map (fun d => { d with tenancyEnd := true, todo := [] }) }
    s.endAllJobs.cohEnd m

/-- `END_EPOCH` (R683). -/
def execEndEpoch (path : Path) (med : Medium) (s : State) : Answer := .next (s.endEpoch path med)

/-- A withdrawal or narrowing is cut short: its map entry goes, and its completion event carries `STATUS` 2 (R215 step 5, R684). -/
def State.cutDrain (s : State) (d : Drain) : State :=
  let (op, r) : Nat × Nat := match d.goal with | none => (3, 0) | some r => (4, rightsCode r)
  (s.dropEntry d.host.toNat d.poolBase.toNat).entryEvent op 2 d.host.toNat d.poolBase.toNat d.extent.toNat r d.session true

/-- Every withdrawal and narrowing is cut short, and every map entry goes (R215 step 5, R684 step 2). -/
def State.dropMaps (s : State) : State := { s.drains.foldl State.cutDrain s with drains := [], maps := [] }

/-! ### Resurfacing (R684, R685) -/

/-- Steps 1 to 3 of R684; every job is unloaded first (R517). -/
def State.resurfaceStart (s : State) (fromDirty : Bool) (m : Medium) : State :=
  let s : State := { s with
    ten := { s.ten with state := .resurfacing, startedAt := s.clk.poolTime, tenantKey := none, tenantCarve := false, peers := [] },
    memKey := 0, ethg := { s.ethg with ethKeys := [] } }
  let s : State := { s with ten := (s.ten.links.map (·.1)).foldl Ten.dropLink s.ten }
  let s := s.endSessions (fun x => x.auth == .tenant)
  let s := s.lift.queue.foldl (fun s j => s.liftDrop j 12 m) s
  let s := (s.jobs.map (·.1)).foldl State.jobGone s.dropMaps
  let s := (s.extents.map (·.1)).foldl State.uncarve s
  { s with
    trn := s.trn.mapVals (fun _ t => { t with micro := [], cluster := [], second := [], misses := [], walks := [], records := [] }),
    shoot := { s.shoot with now := none, queue := [], go := false },
    gates := [], lcs := [], atom := [],
    clus := s.clus.mapVals (fun _ c => { c with resident := none, job := none }),
    slg := s.slg.mapVals (fun _ x => { x with gathers := [] }),
    jobg := { s.jobg with hellos := [], arriving := [] },
    dir := if fromDirty then [] else s.dir, retry := if fromDirty then [] else s.retry,
    accesses := s.accesses.filter (fun a => match a.2.owner with | .engine _ _ => false | _ => true) }

/-- `TEN_CMD` `OP` 5 (R684). -/
def State.resurface (s : State) (p : Path) (m : Medium) : State :=
  if s.ignores p then s
  else if (s.ten.state ≠ .dirty ∧ s.ten.state ≠ .clean) ∨ s.tenBusy then s.tenEnded 2
  else if ¬(s.pathUsage p).getLsbD 0 then s.tenEnded 3
  else s.endAllJobs.resurfaceStart (decide (s.ten.state = .dirty)) m

/-- `RESURFACE` (R684). -/
def execResurface (path : Path) (med : Medium) (s : State) : Answer := .next (s.resurface path med)

/-- `TENANCY_END_COMPLETE`: every directory is empty; map entries go with their events, then every queue pair enters error, and resurfacing starts at once
(R215 step 5, R339, R683). -/
def execTenancyEndComplete (med : Medium) (s : State) : Answer :=
  .next (if s.tenEnd = .recalling ∧ s.dir.isEmpty ∧ s.lines.isEmpty ∧ s.atom.isEmpty ∧ ¬s.fatal then
      let s := ({ s with tenEnd := .none } : State).dropMaps
      ({ s with qps := s.qps.mapVals (fun _ q => { q with error := true }) } : State).resurfaceStart false med
    else s)

/-- A channel of a hub in service is out of service, or has failed (R78, R685). One that retrains or is in self-refresh counts as in
service (DESIGN CHOICE, notes/assumptions/66.md). -/
def State.chanMissing (s : State) : Bool :=
  s.serviceHubs.any (fun h =>
    ((List.range 32) ++ ([0, 1].filter (s.deepEn h)).map (· + 32)).any (fun c =>
      let x : ChState := (s.chan h c).state
      x == ChState.failed || x == ChState.disabled || x == ChState.training))

/-- Fills every slot that is not Retired (R684 step 4). -/
def State.fillAll (s : State) : State :=
  (s.slots.filter (fun e => e.2 != .absent && e.2 != .retired)).foldl (fun s e => s.fillSlot e.1 0 128) s

/-- Slots filled on one tier. -/
def State.filledCount (s : State) (deep : Bool) : Nat :=
  s.slots.countP (fun e => e.2 != .absent && e.2 != .retired && (decide (4096 ≤ e.1 % 8192) == deep))

/-- `RESURFACING_COMPLETE`: the fill has ended; `poisoned` names the storage lines that met a hard data error during it, settled as R565 to R567 say
(R684 steps 4 to 6, R685, R763). -/
def execResurfacingComplete (poisoned : List (BitVec 38)) (s : State) : Answer :=
  .next (if s.ten.state = .resurfacing ∧ ¬s.fatal then
      let bad := s.chanMissing
      let s := s.fillAll
      let filled := (s.filledCount false, s.filledCount true)
      let s := poisoned.foldl (fun s l => s.hardData l.toNat false) s
      let s := (s.queues.map (·.1)).foldl (fun s q => s.queueInit q 0) s
      let r : Resurf := {
        epoch := s.ten.epoch, start := s.ten.startedAt, end_ := s.clk.poolTime,
        stackSlots := BitVec.ofNat 32 filled.1, deepSlots := BitVec.ofNat 32 filled.2,
        poisoned := BitVec.ofNat 32 poisoned.length, incomplete := bad }
      { s with
        ten := { s.ten with
          state := if bad then .dirty else .clean, lastResult := if bad then 8 else 1, record := some r },
        meters := [], queHubs := s.queHubs.mapVals (fun _ x => { x with v := 0 }), counters := [], cntGroups := [],
        traceUnits := [], traceHubs := s.traceHubs.mapVals (fun _ t => { t with queue := [], lost := 0 }),
        trig := { s.trig with head := 0, tail := 0, region := [] },
        slg := s.slg.mapVals (fun _ x => { x with late := 0, unknown := 0, residual := 0, gatherRefused := 0 }),
        pwrHubs := s.pwrHubs.mapVals (fun _ p => { p with switchovers := 0, trips := 0 }),
        clus := s.clus.mapVals (fun _ c => { stopped := c.stopped }) }
    else s)

end Sys2Proof.Machine
end

