-- ==== Sys2Proof/Machine/Spdm.lean ====
section
/-! DEFINITION. Spdm.lean: the meanings of the SPDM requests, of link keying and of sealing (chapter "Tenancy, Keys and
Attestation"). -/
namespace Sys2Proof.Machine
open Sys2Proof

/-! ### Requesters and carriers (R676, R690, R716) -/

/-- The requester behind a carrier. -/
def spdmFrom : SpdmCarrier → SpdmFrom
  | .kmp hdr => .kmp hdr.port hdr.srcIp
  | .zl h => .zl h
  | .peer d _ => .peer d

/-- What the responder keeps of a requester. -/
def State.spdmSt (s : State) (f : SpdmFrom) : SpdmSt := ((s.ten.spdm.find? (fun e => e.1 == f)).map (·.2)).getD {}

/-- Changes it. -/
def State.modSpdm (s : State) (f : SpdmFrom) (g : SpdmSt → SpdmSt) : State :=
  { s with ten := { s.ten with spdm := (f, g (s.spdmSt f)) :: s.ten.spdm.filter (fun e => e.1 != f) } }

/-- An SPDM fragment of the part (R690). -/
def fragPayload (index last mseq : Nat) (rsb : Byte) : BitVec 160 :=
  BitVec.ofNat 160 (1 + index * 2 ^ 8 + last * 2 ^ 16 + mseq % 2 ^ 24 * 2 ^ 24 + rsb.toNat * 2 ^ 152)

/-- Sends an SPDM response to a fabric host: the fragments of its bytes, 256 in each (R688, R690). -/
def State.spdmToHost (s : State) (h : BitVec 10) (r : SpdmResp) : State :=
  let n := s.ten.spdmSent
  let b := Config.spdmMessage n
  let m := max 1 ((b.length + 255) / 256)
  let s : State := ({ s with ten := { s.ten with spdmSent := n + 1 } } : State).emit (.spdm h r)
  (List.range m).foldl (fun s i =>
    let part := (b.drop (256 * i)).take 256
    s.sendPkt h.toNat 7 5 (fragPayload i (if i + 1 = m then 1 else 0) n (s.rsb (some h.toNat)))
      (bytesCells ((part.length + 31) / 32) part)) s

/-- The part is the requester of the exchange with this peer: its own `DEV_NUM` is the lower (R694). -/
def State.spdmLeads (s : State) (f : SpdmFrom) : Bool := match f with | .peer d => decide (s.zlg.devNum.toNat < d.toNat) | _ => false

/-- Sends an SPDM response to a pairs peer, in the form of R690 and in the flow between the two parts (R260). -/
def State.spdmToPeer (s : State) (d : BitVec 8) (r : SpdmResp) : State :=
  let n := s.ten.spdmSent
  let b := Config.spdmMessage n
  let m := max 1 ((b.length + 255) / 256)
  let s : State := ({ s with ten := { s.ten with spdmSent := n + 1 } } : State).emit (.spdmPeer d r)
  (List.range m).foldl (fun s i =>
    let part := (b.drop (256 * i)).take 256
    s.sendPkt (0x800 + d.toNat) 7 5 (fragPayload i (if i + 1 = m then 1 else 0) n (s.rsb none))
      (bytesCells ((part.length + 31) / 32) part)) s

/-- Responses of the exchange itself, which the requester of R694 receives and does not send. -/
def SpdmResp.ofExchange : SpdmResp → Bool
  | .keyExchange .. | .encapAck | .finish | .error _ => true
  | _ => false

/-- Answers a pairs peer; the requester of the exchange sends no response of it (R694). -/
def State.peerSend (s : State) (d : BitVec 8) (r : SpdmResp) : State :=
  if s.spdmLeads (.peer d) ∧ r.ofExchange then s else s.spdmToPeer d r

/-- What a request answers: an SPDM response, or over KMP a status without one (R329). -/
inductive SpdmAnswer where
  | resp (r : SpdmResp)
  | status (st : BitVec 8)
deriving DecidableEq, Repr

/-- The KMP response of an answer. -/
def SpdmAnswer.kmp : SpdmAnswer → KmpResp
  | .resp r => { status := 0, body := .spdm r }
  | .status st => { status := st }

/-- The fragments of a host's message are taken away (R676). -/
def State.dropFrags (s : State) (h : BitVec 10) : State :=
  { s with ten := { s.ten with frags := s.ten.frags.erase h.toNat } }

/-- Serves an SPDM request (R676). `perform` gets the slot of the session that carries it, when it travels in one. A request outside a
session carries session identifier 0 and is not protected; over ZL it is a message whose fragments have all arrived. -/
def State.spdmServe (s : State) (c : SpdmCarrier) (perform : SpdmFrom → Option Nat → State → SpdmAnswer × State) : State :=
  match c with
  | .kmp hdr =>
    if hdr.sessionId ≠ 0 then
      s.kmpRequest hdr 2 (!s.fatal) (fun k _ s => let (a, s) := perform (spdmFrom c) (some k) s; (some a.kmp, s))
    else
      match s.kmpArrive hdr with
      | (none, s) => s
      | (some s, _) =>
        if ¬kmpKnown hdr.type then s
        else if hdr.protected_ then s.kmpSend none hdr 2 { status := 2 }
        else if ¬kmpHdrOk hdr then s.kmpSend none hdr 2 { status := 4 }
        else if s.fatal ∨ s.ethQuiesced hdr.port then s.kmpSend none hdr 2 { status := 1 }
        else if s.spRestarting then s.kmpSend none hdr 2 { status := 1, body := .retry s.retryMs }
        else let (a, s) := perform (spdmFrom c) none s; s.kmpSend none hdr 2 a.kmp
  | .zl h =>
    match s.ten.frags.get? h.toNat with
    | some f =>
      if ¬f.whole ∨ ¬s.hears h ∨ s.fatal then s
      else
        let s := s.dropFrags h
        if s.spDown then s.spdmToHost h (.error .busy)
        else
          match perform (spdmFrom c) none s with
          | (.resp r, s) => s.spdmToHost h r
          | (.status _, s) => s.spdmToHost h (.error .busy)
    | none => s
  | .peer d _ =>
    if s.fatal ∨ s.pairPorts.isEmpty ∨ d = s.zlg.devNum then s
    else if s.spDown then s.peerSend d (.error .busy)
    else
      match perform (spdmFrom c) none s with
      | (.resp r, s) => s.peerSend d r
      | (.status _, s) => s.peerSend d (.error .busy)

/-- The requester has an SPDM session: the KMP session that carries the request, a keyed link, or a completed exchange of R694. -/
def State.spdmSecure (s : State) (f : SpdmFrom) (ses : Option Nat) : Bool :=
  ses.isSome || (match f with | .zl h => (s.linkOf h.toNat).isSome | .peer d => s.ten.peers.contains d | .kmp _ _ => false)

/-- A request of negotiation state 3, or within a session; any other is unexpected (DSP0274). -/
def State.spdmNegotiated (s : State) (f : SpdmFrom) (ses : Option Nat) (r : State → SpdmAnswer × State) : SpdmAnswer × State :=
  if (s.spdmSt f).level = 3 ∨ s.spdmSecure f ses then r s else (.resp (.error .unexpectedRequest), s)

/-! ### Negotiation and certificates (R672, R676) -/

/-- `GET_VERSION`: negotiation begins afresh. -/
def execGetVersion (c : SpdmCarrier) (s : State) : Answer :=
  .next (s.spdmServe c (fun f _ s => (.resp .version, s.modSpdm f (fun x => { level := 1, nextHandle := x.nextHandle }))))

/-- `GET_CAPABILITIES`. -/
def execGetCapabilities (c : SpdmCarrier) (s : State) : Answer :=
  .next (s.spdmServe c (fun f _ s =>
    if (s.spdmSt f).level = 0 then (.resp (.error .unexpectedRequest), s)
    else (.resp .capabilities, s.modSpdm f (fun x => { x with level := 2 }))))

/-- `NEGOTIATE_ALGORITHMS`: `common` tells whether the requester offers the algorithms of R676. -/
def execNegotiateAlgorithms (c : SpdmCarrier) (common : Bool) (s : State) : Answer :=
  .next (s.spdmServe c (fun f _ s =>
    if (s.spdmSt f).level < 2 then (.resp (.error .unexpectedRequest), s)
    else if ¬common then (.resp (.error .invalidRequest), s)
    else (.resp .algorithms, s.modSpdm f (fun x => { x with level := 3 }))))

/-- `GET_DIGESTS`: slot 0 alone holds a chain. -/
def execGetDigests (c : SpdmCarrier) (s : State) : Answer :=
  .next (s.spdmServe c (fun f ses s => s.spdmNegotiated f ses (fun s =>
    (.resp (.digests (Config.sha512 Config.certChain)), s))))

/-- `GET_CERTIFICATE`: a portion of the chain of slot 0; slots 1 to 7 are empty (R672). -/
def execGetCertificate (c : SpdmCarrier) (slot : Fin 16) (offset length : BitVec 16) (s : State) : Answer :=
  .next (s.spdmServe c (fun f ses s => s.spdmNegotiated f ses (fun s =>
    let all := Config.certChain
    if slot.val ≠ 0 ∨ all.length ≤ offset.toNat then (.resp (.error .invalidRequest), s)
    else
      let part := (all.drop offset.toNat).take (min length.toNat 1024)
      (.resp (.certificate part (all.length - offset.toNat - part.length)), s))))

/-- The 32 bytes of a nonce. -/
def nonceBytes (n : BitVec 256) : List Byte := beBytes 32 n.toNat

/-- `CHALLENGE`: answered under the identity key. -/
def execChallenge (c : SpdmCarrier) (slot : Fin 16) (nonce : BitVec 256) (s : State) : Answer :=
  .next (s.spdmServe c (fun f ses s => s.spdmNegotiated f ses (fun s =>
    if slot.val ≠ 0 then (.resp (.error .invalidRequest), s)
    else
      let (n, s) := s.draw .nonce
      let mine : BitVec 256 := BitVec.ofNat 256 n
      (.resp (.challengeAuth mine (Config.identitySign (nonceBytes nonce ++ nonceBytes mine))), s))))

/-! ### Attestation (R695, R696, R717) -/

/-- `PKG_ID` (R39). -/
def State.pkgId (s : State) : Word :=
  packWord [(0, variantCode s.fuses.variant), (4, b2n s.fuses.grade.isB), (8, s.fuses.stepping.toNat),
    (16, (hubMask s.fuses.variant).toNat)]

/-- `HUB_CLUSTERS` of a hub (R40). -/
def State.hubClusters (s : State) (h : Nat) : Word :=
  if s.hubPresent h then
    let e := s.clEnabled h
    packWord [(0, e.toNat), (16, (List.range 14).countP (fun i => e.getLsbD i))]
  else 0

/-- SHA-512 of an image's bytes; zero for none. -/
def imageDigest (x : Option FwImage) : List Byte :=
  match x with | some y => digestBytes (Config.sha512 y.bytes) | none => List.replicate 64 0

/-- The resurfacing record (R685). -/
def Resurf.bytes (r : Resurf) : List Byte :=
  leBytes 8 r.epoch.toNat ++ leBytes 8 r.start.toNat ++ leBytes 8 r.end_.toNat ++ leBytes 4 r.stackSlots.toNat
    ++ leBytes 4 r.deepSlots.toNat ++ leBytes 4 r.poisoned.toNat ++ [if r.incomplete then 1 else 0, 0, 0, 0]

/-- The tenancy block (R696). -/
def State.tenancyBlock (s : State) : List Byte :=
  let t := s.ten
  let digest := match t.tenantKey with | some m => digestBytes (Config.sha512 (spki m)) | none => List.replicate 64 0
  leBytes 1 t.state.ctorIdx ++ leBytes 1 (b2n s.sealed)
    ++ leBytes 1 (b2n t.tenantCarve + 2 * b2n s.linkCrypt + 4 * b2n s.ethCrypt) ++ leBytes 5 0 ++ leBytes 8 t.epoch.toNat
    ++ (if t.state = .open_ ∨ t.state = .ending then digest else List.replicate 64 0)
    ++ (match t.record with | some r => r.bytes | none => List.replicate 40 0) ++ leBytes 8 s.clk.poolTime.toNat

/-- The part and its peer are both in Open, for the same tenant, by the peer's tenancy block (R694, R696). -/
def State.peerTenant (s : State) (block : List Byte) : Bool :=
  s.ten.state == .open_ && block.take 1 == s.tenancyBlock.take 1 && (block.drop 16).take 64 == (s.tenancyBlock.drop 16).take 64

/-- `HUBS_DONE`: the hubs that run the pending hub controller version (R717). -/
def State.hubsDone (s : State) : BitVec 8 :=
  match s.fw.pendHc with
  | some x => if s.fw.phase < 2 then 0 else maskBits (s.presentHubs.filter (fun h => versionOf (s.fw.hcImage h) == x.version))
  | none => 0

/-- Block 13 (R717). -/
def State.updateBlock (s : State) : List Byte :=
  let f := s.fw
  leBytes 1 f.phase.toNat ++ leBytes 1 s.hubsDone.toNat ++ leBytes 2 0
    ++ leBytes 4 (versionOf f.pendHc).toNat ++ leBytes 4 (versionOf f.pendSp).toNat ++ imageDigest f.pendHc ++ imageDigest f.pendSp

/-- The content of a measurement block (R695). -/
def State.measurement (s : State) (i : Nat) : List Byte :=
  if i = 1 then imageDigest s.fw.spImage
  else if i ≤ 9 then
    let h := i - 2
    if ¬s.hubPresent h then 2 :: List.replicate 64 0
    else (if (s.hub h).phase ≠ .none ∨ s.hcRestarting h then 1 else 0) :: imageDigest (s.fw.hcImage h)
  else if i = 10 then
    match s.si.inForce with
    | some x => leBytes 8 x.serial.toNat ++ digestBytes x.bodyDigest
    | none => leBytes 8 0 ++ digestBytes Config.baseDigest
  else if i = 11 then leBytes 4 s.pkgId.toNat ++ (List.range 8).flatMap (fun h => leBytes 4 (s.hubClusters h).toNat)
  else if i = 12 then s.tenancyBlock
  else s.updateBlock

/-- The measurement blocks asked for: all, one, or their number alone (DSP0274); none where the index is reserved. -/
def State.measurements (s : State) (index : Nat) : Option (List (Nat × List Byte)) :=
  let all := (List.range 13).map (· + 1)
  if index = 0xFF then some (all.map (fun i => (i, s.measurement i)))
  else if index = 0 then some [(0, [13])]
  else if index ≤ 13 then some [(index, s.measurement index)]
  else none

/-- A response of about `size` bytes: over KMP one that exceeds a message goes out in chunks (R676). -/
def State.spdmSized (s : State) (f : SpdmFrom) (size : Nat) (r : SpdmResp) : SpdmAnswer × State :=
  match f with
  | .zl _ | .peer _ => (.resp r, s)
  | .kmp _ _ =>
    if size ≤ 1408 then (.resp r, s)
    else
      let h := (s.spdmSt f).nextHandle
      let b := Config.spdmMessage s.ten.spdmSent
      let s : State := { s with ten := { s.ten with spdmSent := s.ten.spdmSent + 1 } }
      (.resp (.error (.largeResponse h)), s.modSpdm f (fun x => { x with chunkOut := some (h, b), nextHandle := h + 1 }))

/-- `GET_MEASUREMENTS`: the signed quote, or blocks without a signature (R695). -/
def execGetMeasurements (c : SpdmCarrier) (index : BitVec 8) (sign : Bool) (nonce : BitVec 256) (s : State) : Answer :=
  .next (s.spdmServe c (fun f ses s => s.spdmNegotiated f ses (fun s =>
    match s.measurements index.toNat with
    | none => (.resp (.error .invalidRequest), s)
    | some bs =>
      let (n, s) := s.draw .nonce
      let mine : BitVec 256 := BitVec.ofNat 256 n
      let text := bs.flatMap (·.2)
      let size := bs.foldl (fun a b => a + 7 + b.2.length) (42 + if sign then 512 else 0)
      s.spdmSized f size (.measurements (if sign then some mine else none) bs
        (if sign then some (Config.identitySign (nonceBytes nonce ++ nonceBytes mine ++ text)) else none)))))

/-! ### Key exchange (R676–R678, R688, R693) -/

/-- The session slot that a key exchange takes: free, and promised to no other exchange (R330). -/
def State.exchangeSlot (s : State) : Option Nat :=
  (List.range 32).find? (fun k => (s.kmp.get? k).isNone
    && !s.ten.spdm.any (fun e => match e.2.exch with | some x => x.slot == some k | none => false))

/-- `KEY_EXCHANGE`: `both` tells whether the requester can authenticate itself (R676, R688, R698). With a pairs peer each part
authenticates the other, and an exchange takes the place of the one before (R694). -/
def execKeyExchange (c : SpdmCarrier) (reqSid : BitVec 16) (both : Bool) (s : State) : Answer :=
  .next (s.spdmServe c (fun f ses s =>
    if ((s.spdmSt f).level < 3 ∧ ¬s.spdmLeads f) ∨ ses.isSome then (.resp (.error .unexpectedRequest), s)
    else
      let s := s.modSpdm f (fun x => { x with exch := none })
      let (n, s) := s.draw .nonce
      let begin_ (slot : Option Nat) (both : Bool) (s : State) : SpdmAnswer × State :=
        let rsp : BitVec 16 := BitVec.ofNat 16 (n % 1024 * 64 + (match slot with | some k => k + 1 | none => 33))
        (.resp (.keyExchange rsp both (Config.identitySign (leBytes 4 (rsp.toNat * 65536 + reqSid.toNat)))),
          s.modSpdm f (fun x => { x with exch := some { slot := slot, reqSid := reqSid, rspSid := rsp, both := both } }))
      match f with
      | .kmp _ _ =>
        match s.exchangeSlot with
        | none => (.status 7, s)
        | some k => begin_ (some k) both s
      | .zl _ =>
        if s.ten.state = .ending ∨ s.ten.state = .resurfacing ∨ (s.sealed ∧ (s.ten.state ≠ .open_ ∨ ¬both)) then
          (.resp (.error .invalidRequest), s)
        else begin_ none s.sealed s
      | .peer d =>
        let s : State := { s with ten := { s.ten with peers := s.ten.peers.filter (· != d) } }
        if ¬both then (.resp (.error .invalidRequest), s) else begin_ none true s))

/-- Who a key authenticates (R678). -/
def State.authOf (s : State) (m : Option (BitVec 4096)) : Auth :=
  match m with
  | none => .nothing
  | some m =>
    match ([0, 1, 2, 3] : List (Fin 4)).find? (fun k => match s.ten.slots.get? k.val with | some e => e.1 == m | none => false) with
    | some k => .slot k
    | none => if s.ten.state = .open_ ∧ s.ten.tenantKey = some m then .tenant else .nothing

/-- A key exchange with a host that holds keys restarts its transport (R693): what was on the way goes, and every flow begins afresh. -/
def State.restartHost (s : State) (h : Nat) : State :=
  let s := s.modHost h (fun x => { x with waiting := [] })
  { s with
    ten := s.ten.dropLink h, flows := s.flows.keep (fun k => k / 8 != h),
    zl := s.zl.mapVals (fun _ p => { p with waiting := p.waiting.filter (fun k => k.dst.toNat != h) }) }

/-- `FINISH`: the session opens with its keys, the link is keyed, or the exchange with a pairs peer is complete; `macOk` and `sigOk` are
the outcomes of its checks (R671, R676–R678, R688, R693, R694). The exchange keys go in either case. -/
def execFinish (c : SpdmCarrier) (macOk sigOk : Bool) (s : State) : Answer :=
  .next (s.spdmServe c (fun f _ s =>
    match (s.spdmSt f).exch with
    | none => (.resp (.error .unexpectedRequest), s)
    | some x =>
      let s := s.modSpdm f (fun y => { y with exch := none })
      let auth := s.authOf (if x.both then x.root else none)
      if ¬macOk then (.resp (.error .decryptError), s)
      else if x.both ∧ (x.root.isNone ∨ ¬sigOk) then (.resp (.error .invalidRequest), s)
      else
        match f, x.slot with
        | .kmp port _, some k =>
          let (secret, s) := s.draw .key
          (.resp .finish, s.openSession k {
            sid := BitVec.ofNat 32 (x.rspSid.toNat * 65536 + x.reqSid.toNat), port := port, secret := secret, key := kmpKeyOf secret,
            auth := auth })
        | .zl h, _ =>
          if s.ten.state = .ending ∨ s.ten.state = .resurfacing ∨ (s.sealed ∧ auth ≠ .tenant) then (.resp (.error .invalidRequest), s)
          else
            let s := if (s.linkOf h.toNat).isSome then s.restartHost h.toNat else s
            let (secret, s) := s.draw .key
            (.resp .finish, { s with ten := { s.ten with
              links := s.ten.links.set h.toNat { txKey := linkTxKey secret, rxKey := linkRxKey secret } } })
        | .peer d, _ =>
          let block := match c with | .peer _ b => b | _ => []
          if x.root = some Config.kywynRoot ∧ (¬s.sealed ∨ s.peerTenant block) then
            (.resp .finish, { s with ten := { s.ten with peers := d :: s.ten.peers.filter (· != d) } })
          else (.resp (.error .invalidRequest), s)
        | _, _ => (.resp (.error .unexpectedRequest), s)))

/-- `GET_ENCAPSULATED_REQUEST`: the part asks for the requester's chain in slot 0. -/
def execGetEncapsulatedRequest (c : SpdmCarrier) (s : State) : Answer :=
  .next (s.spdmServe c (fun f _ s =>
    match (s.spdmSt f).exch with
    | some x => (.resp (if x.both then .encapRequest else .error .unexpectedRequest), s)
    | none => (.resp (.error .unexpectedRequest), s)))

/-- The requester's chain arrives: the key of its root, its number of certificates, and whether it verifies. -/
def State.takeChain (s : State) (f : SpdmFrom) (root : BitVec 4096) (certs : Nat) (valid : Bool) : SpdmAnswer × State :=
  match (s.spdmSt f).exch with
  | some x =>
    if ¬x.both then (.resp (.error .unexpectedRequest), s)
    else if certs = 0 ∨ 4 < certs ∨ ¬valid then (.resp (.error .invalidRequest), s)
    else (.resp .encapAck, s.modSpdm f (fun y => { y with exch := some { x with root := some root } }))
  | none => (.resp (.error .unexpectedRequest), s)

/-- `DELIVER_ENCAPSULATED_RESPONSE` (R676). -/
def execDeliverEncapsulatedResponse (c : SpdmCarrier) (root : BitVec 4096) (certs : BitVec 4) (valid : Bool) (s : State) : Answer :=
  .next (s.spdmServe c (fun f _ s => s.takeChain f root certs.toNat valid))

/-! ### Within a session; chunks; what is not supported (R676) -/

/-- `HEARTBEAT`. -/
def execHeartbeat (c : SpdmCarrier) (s : State) : Answer :=
  .next (s.spdmServe c (fun f ses s =>
    (.resp (if s.spdmSecure f ses then .heartbeatAck else .error .unexpectedRequest), s)))

/-- `KEY_UPDATE`: the SPDM session's own keys change, which nothing of the model names; the keys of a link are made at a key exchange alone
(R671). -/
def execKeyUpdate (c : SpdmCarrier) (s : State) : Answer :=
  .next (s.spdmServe c (fun f ses s =>
    (.resp (if s.spdmSecure f ses then .keyUpdateAck else .error .unexpectedRequest), s)))

/-- `END_SESSION`: the KMP session ends; a link's keys stay until R671 destroys them. -/
def execEndSession (c : SpdmCarrier) (s : State) : Answer :=
  .next (s.spdmServe c (fun f ses s =>
    if ¬s.spdmSecure f ses then (.resp (.error .unexpectedRequest), s)
    else (.resp .endSessionAck, match ses with | some k => s.endSession k | none => s)))

/-- `CHUNK_SEND`: a chunk of a large request. The last one completes it; the request that needs chunks is the delivery of a chain,
which it then is. -/
def execChunkSend (c : SpdmCarrier) (handle : BitVec 8) (seq : BitVec 16) (data : List Byte) (last : Bool)
    (root : BitVec 4096) (certs : BitVec 4) (valid : Bool) (s : State) : Answer :=
  .next (s.spdmServe c (fun f ses s => s.spdmNegotiated f ses (fun s =>
    let got := match (s.spdmSt f).chunkIn with
      | some (h, n, b) => if h = handle ∧ n = seq.toNat then some b else none
      | none => none
    match (if seq = 0 then some [] else got) with
    | none => (.resp (.error .invalidRequest), s.modSpdm f (fun x => { x with chunkIn := none }))
    | some b =>
      if last then
        let s := s.modSpdm f (fun x => { x with chunkIn := none })
        match s.takeChain f root certs.toNat valid with
        | (.resp .encapAck, s) => (.resp (.chunkSendAck handle seq), s)
        | r => r
      else (.resp (.chunkSendAck handle seq), s.modSpdm f (fun x => { x with chunkIn := some (handle, seq.toNat + 1, b ++ data) })))))

/-- Bytes of a chunk in a KMP message (R676). -/
def chunkBytes : Nat := 1392

/-- `CHUNK_GET`: a chunk of a large response. -/
def execChunkGet (c : SpdmCarrier) (handle : BitVec 8) (seq : BitVec 16) (s : State) : Answer :=
  .next (s.spdmServe c (fun f ses s => s.spdmNegotiated f ses (fun s =>
    match (s.spdmSt f).chunkOut with
    | some (h, b) =>
      if h ≠ handle ∨ (b.length ≤ chunkBytes * seq.toNat ∧ seq ≠ 0) then (.resp (.error .invalidRequest), s)
      else
        let last := decide (b.length ≤ chunkBytes * (seq.toNat + 1))
        (.resp (.chunk handle seq last ((b.drop (chunkBytes * seq.toNat)).take chunkBytes)),
          if last then s.modSpdm f (fun x => { x with chunkOut := none }) else s)
    | none => (.resp (.error .unexpectedRequest), s))))

/-- `UNSUPPORTED_SPDM_REQUEST` (R676). -/
def execUnsupportedSpdmRequest (c : SpdmCarrier) (s : State) : Answer :=
  .next (s.spdmServe c (fun _ _ s => (.resp (.error .unsupportedRequest), s)))

/-! ### Fragments and seals (R690–R692) -/

/-- `SPDM_FRAGMENT`: a fragment of a host's message; fragments go in order (R690). -/
def execSpdmFragment (host : BitVec 10) (index : BitVec 8) (last : Bool) (mseq : BitVec 24) (data : List Byte) (s : State) : Answer :=
  let h := host.toNat
  let i := index.toNat
  .next (if ¬s.hears host then s
    else
      let x : Option SpdmFrag := if i = 0 then some { mseq := mseq } else
        (s.ten.frags.get? h).filter (fun f => f.mseq == mseq && f.next == i && !f.whole)
      match x with
      | none => s
      | some f =>
        { s with ten := { s.ten with
          frags := s.ten.frags.set h { f with next := i + 1, bytes := f.bytes ++ data.take 256, whole := last } } })

/-- Takes one tag of a `SEAL`: a packet that waits for it is verified; otherwise it is kept unless `NEXT` has passed its packet. -/
def State.takeTag (s : State) (t : SealTag) : State :=
  let h := t.host.toNat
  match s.ten.sealedHeld.find? (fun e => s.tagFits e.2 t) with
  | some e =>
    ({ s with ten := { s.ten with sealedHeld := s.ten.sealedHeld.filter (· != e) } } : State).verifySealed e.1 e.2 t
  | none =>
    let lvc := t.lvc.toNat
    let passed := 2 ^ 23 ≤ (t.tseq - (s.flow h lvc).recvNext).toNat
    if passed ∨ (s.linkOf h).isNone then s
    else { s with ten := { s.ten with tagsIn := s.ten.tagsIn.filter (fun x => !(x.host == t.host && x.lvc == t.lvc && x.tseq == t.tseq)) ++ [t] } }

/-- Keeps of the tags only those whose packets `NEXT` has not passed (R692). -/
def State.pruneTags (s : State) : State :=
  { s with ten := { s.ten with
    tagsIn := s.ten.tagsIn.filter (fun t => decide ((t.tseq - (s.flow t.host.toNat t.lvc.toNat).recvNext).toNat < 2 ^ 23)) } }

/-- `SEAL`: the tags of a run of consecutive packets of flow `ALVC`, with the lap of the first (R690, R692). -/
def execSeal (host : BitVec 10) (alvc : BitVec 3) (tseq : BitVec 24) (lap : BitVec 40) (tags : List (BitVec 128)) (s : State) : Answer :=
  .next (if ¬s.hears host ∨ tags.isEmpty ∨ 16 < tags.length then s
    else
      (tags.zipIdx.foldl (fun s e =>
        let q := tseq + BitVec.ofNat 24 e.2
        s.takeTag { host := host, lvc := alvc, lap := lap.toNat + (if q < tseq then 1 else 0), tseq := q,
                    tag := leBytes 16 e.1.toNat }) s).pruneTags)

/-- The run of tags that one `SEAL` takes: up to 16 of consecutive packets; a retransmission's tag goes alone (R691). -/
def sealRun : SealTag → Nat → List SealTag → List SealTag
  | t, n + 1, u :: r => if !t.alone && !u.alone && u.tseq == t.tseq + 1 then u :: sealRun u n r else []
  | _, _, _ => []

/-- `SEAL_SEND`: 1 µs after a run of sealed packets, or once it has 16, the part sends the tags of the run (R691). -/
def execSealSend (host : BitVec 10) (lvc : BitVec 3) (s : State) : Answer :=
  .next (match s.ten.tagsOut.filter (fun t => t.host == host && t.lvc == lvc) with
    | [] => s
    | t :: r =>
      if s.sys.portsStopped ∨ (s.host host.toNat).dead then s
      else
        let run := t :: sealRun t 15 r
        let s : State := { s with ten := { s.ten with tagsOut := s.ten.tagsOut.filter (fun x => !run.contains x) } }
        let b := s.rsb (some host.toNat)
        let payload : BitVec 160 :=
          BitVec.ofNat 160 (2 + lvc.toNat * 2 ^ 8 + run.length * 2 ^ 16 + t.tseq.toNat * 2 ^ 24 + t.lap % 2 ^ 40 * 2 ^ 48 + b.toNat * 2 ^ 152)
        (s.emit (.seal host lvc t.tseq t.lap (run.map (·.tag)))).sendPkt host.toNat 7 5 payload
          (bytesCells ((run.length + 1) / 2) (run.flatMap (·.tag))))

end Sys2Proof.Machine
end

