-- ==== Sys2Proof/Machine/Firmware.lean ====
section
/-! DEFINITION. Firmware.lean: the meanings of the firmware commands and of the events of an update (chapter "Firmware and Its
Replacement in Service"). -/
namespace Sys2Proof.Machine
open Sys2Proof

/-- Sets `FW_STATUS.LAST_RESULT` (R727). -/
def State.fwEnded (s : State) (r : BitVec 4) : State := { s with fw := { s.fw with lastResult := r } }

/-- Changes the firmware unit. -/
def State.modFw (s : State) (f : Fw → Fw) : State := { s with fw := f s.fw }

/-- A write of `FW_CMD` is taken: it comes from firmware or from a session that holds `OPERATOR` (R711). -/
def State.fwTakes (s : State) (p : Path) : Bool := !s.ignores p && (s.pathUsage p).getLsbD 0 && !s.spDown

/-- `FW_CMD` `OP` 1 (R711). -/
def State.fwOpen (s : State) (p : Path) : State :=
  if ¬s.fwTakes p then s
  else if 1 < s.fw.phase ∨ s.fw.writing ∨ ¬s.mayTake p s.fw.stage then s.fwEnded 9
  else s.modFw (fun f => { f with stage := some { owner := s.ownerOf p }, lastResult := 1 })

/-- `FW_OPEN` (R711). -/
def execFwOpen (path : Path) (s : State) : Answer := .next (s.fwOpen path)

/-! ### Packages (R709, R710) -/

/-- The little-endian number in `n` staged bytes at `o`. -/
def stagedNum (b : StageBuf) (o n : Nat) : Nat := (List.range n).foldl (fun a i => a + (b.bytes.getD (o + i) 0).toNat * 256 ^ i) 0
/-- `n` staged bytes at `o`. -/
def stagedBytes (b : StageBuf) (o n : Nat) : List Byte := (List.range n).map (fun i => b.bytes.getD (o + i) 0)
/-- Every staged byte of a range is zero. -/
def stagedZeros (b : StageBuf) (o n : Nat) : Bool := !b.bytes.any (fun e => decide (o ≤ e.1 ∧ e.1 < o + n) && e.2 != 0)

/-- Bytes of a manifest (R709). -/
def manifestBytes : Nat := 1200

/-- Where an entry's payload ends. -/
def entryEnd (b : StageBuf) (o : Nat) : Nat := o + manifestBytes + stagedNum b (o + 0x10) 4

/-- The next 64-byte boundary. -/
def up64 (n : Nat) : Nat := (n + 63) / 64 * 64

/-- The places of the entries of a package: one, or two when bytes follow the first. -/
def packageEntries (b : StageBuf) : List Nat := if b.top ≤ entryEnd b 0 then [0] else [0, up64 (entryEnd b 0)]

/-- Component of an entry: 1 hub controller, 2 security processor. -/
def entryComponent (b : StageBuf) (o : Nat) : Nat := stagedNum b (o + 6) 1

/-- One manifest obeys R709. -/
def manifestOk (b : StageBuf) (o : Nat) : Bool :=
  let kind := stagedNum b (o + 7) 1
  let c := entryComponent b o
  stagedNum b o 4 == 0x57465846 && stagedNum b (o + 4) 2 == 1 && (c == 1 || c == 2) && (kind == 1 || kind == 2)
    && stagedZeros b (o + 0x18) 8 && stagedZeros b (o + 0x2A0) 16 && (kind == 2 || stagedZeros b (o + 0x20) 64)
    && decide (28 ≤ stagedNum b (o + 0x10) 4) && decide (stagedNum b (o + 0x14) 4 ≤ (if c = 1 then 3 else 1) * 2 ^ 20)

/-- Check 1 of R712. -/
def packageOk (b : StageBuf) : Bool :=
  decide (manifestBytes ≤ b.top ∧ b.top ≤ 4 * 2 ^ 20) && (match packageEntries b with
    | [o] => manifestOk b o && entryEnd b o == b.top
    | [o, q] => manifestOk b o && manifestOk b q && entryComponent b o == 1 && entryComponent b q == 2 && entryEnd b q == b.top
        && stagedZeros b (entryEnd b o) (q - entryEnd b o)
    | _ => false)

/-- The signature of an entry verifies (R709). -/
def entrySigned (b : StageBuf) (o : Nat) : Bool :=
  Config.rsaVerify Config.firmwareModulus (Config.sha512 (stagedBytes b o 0x2B0)) (BitVec.ofNat 4096 (beNat (stagedBytes b (o + 0x2B0) 512)))

/-- The decrypted payload of an entry (R706, R709). -/
def entryPlain (b : StageBuf) (o : Nat) : Option (List Byte) :=
  match Config.unwrapKey (BitVec.ofNat 4096 (beNat (stagedBytes b (o + 0xA0) 512))) with
  | none => none
  | some key =>
    let p := stagedBytes b (o + manifestBytes) (stagedNum b (o + 0x10) 4)
    gcmOpen key (p.take 12) (stagedBytes b o 0x80) ((p.drop 12).take (p.length - 28)) (p.drop (p.length - 16))

/-- Applies a difference to its base, one operation at each step (R710); none where it is not well formed. -/
def applyDiff (base : List Byte) : Nat → List Byte → List Byte → Option (List Byte)
  | _, [], acc => some acc
  | 0, _, _ => none
  | n + 1, d, acc =>
    let op := leNat (d.take 1)
    let len := leNat ((d.drop 4).take 4)
    if d.length < 8 ∨ leNat ((d.drop 1).take 3) ≠ 0 then none
    else if op = 1 then
      let off := leNat ((d.drop 8).take 4)
      if d.length < 12 ∨ base.length < off + len then none
      else applyDiff base n (d.drop 12) (acc ++ (base.drop off).take len)
    else if op = 2 then
      let whole := (len + 3) / 4 * 4
      if d.length < 8 + whole ∨ leNat (((d.drop 8).take whole).drop len) ≠ 0 then none
      else applyDiff base n (d.drop (8 + whole)) (acc ++ (d.drop 8).take len)
    else none

/-- The image in the active bank of an entry's component; of the hub controllers, the one that H0 runs (R710). -/
def State.activeImage (s : State) (component : Nat) : Option FwImage := if component = 1 then s.fw.hcImage 0 else s.fw.spImage

/-- Bytes of an image; none for no image. -/
def bytesOf (x : Option FwImage) : List Byte := match x with | some y => y.bytes | none => []

/-- The image that an entry gives, before its checks of length and digest. -/
def State.entryImage (s : State) (b : StageBuf) (o : Nat) : Option (List Byte) :=
  (entryPlain b o).bind (fun p =>
    if stagedNum b (o + 7) 1 = 1 then some p else applyDiff (bytesOf (s.activeImage (entryComponent b o))) p.length p [])

/-- Release of a version (R703). -/
def relOf (v : BitVec 32) : Nat := v.toNat / 65536

/-- Releases of the hub controllers that run. -/
def State.hubReleases (s : State) : List Nat := s.presentHubs.map (fun h => relOf (versionOf (s.fw.hcImage h)))

/-- The hub controller releases that a security processor of release `sp` permits (R704). -/
def releaseFits (sp : Nat) (r : Nat) : Bool := r == sp || r == sp + 1

/-- Check 7 of R712: no step of the procedure, completed or failed, leaves a combination that R704 bars. -/
def State.releasesOk (s : State) (hc sp : Option (BitVec 32)) : Bool :=
  let now := relOf (versionOf s.fw.spImage)
  let hubs := match hc with | some v => [relOf v] | none => s.hubReleases
  (match hc with | some v => releaseFits now (relOf v) | none => true)
    && (match sp with | some v => releaseFits now (relOf v) && hubs.all (· == relOf v) | none => true)

/-- The image of an entry that has passed. -/
def State.pendingOf (s : State) (b : StageBuf) (component : Nat) : Option FwImage :=
  ((packageEntries b).find? (fun o => entryComponent b o == component)).map (fun o =>
    { version := BitVec.ofNat 32 (stagedNum b (o + 8) 4), svn := BitVec.ofNat 32 (stagedNum b (o + 0xC) 4),
      bytes := (s.entryImage b o).getD [] })

/-- The result of checks 1 to 8 of R712: 0 when all pass. -/
def State.fwVerify (s : State) (b : StageBuf) : BitVec 4 :=
  let es := packageEntries b
  if ¬packageOk b then 2
  else if ¬es.all (entrySigned b) then 3
  else if ¬es.all (fun o => (entryPlain b o).isSome) then 4
  else if ¬es.all (fun o => stagedNum b (o + 7) 1 == 1
      || stagedBytes b (o + 0x20) 64 == digestBytes (Config.sha512 (bytesOf (s.activeImage (entryComponent b o))))) then 5
  else if ¬es.all (fun o => match s.entryImage b o with
      | some x => x.length == stagedNum b (o + 0x14) 4 && digestBytes (Config.sha512 x) == stagedBytes b (o + 0x60) 64
      | none => false) then 6
  else if ¬es.all (fun o => decide (s.fw.svn.toNat ≤ stagedNum b (o + 0xC) 4)) then 7
  else if ¬s.releasesOk ((s.pendingOf b 1).map (·.version)) ((s.pendingOf b 2).map (·.version)) then 8
  else if s.si.state ≠ .idle ∨ s.ten.state = .ending ∨ s.ten.state = .resurfacing then 9
  else 0

/-- The contents of the standby banks that a package with these images writes; `new` gives what each then holds (R708, R712). The hub
controllers' standby bank is the one that H0 does not run. -/
def Fw.setStandby (f : Fw) (new : Option FwImage → Option FwImage) : Fw :=
  let b := !f.hcBank.getLsbD 0
  { f with
    hcA := if f.pendHc.isSome ∧ ¬b then new f.pendHc else f.hcA, hcB := if f.pendHc.isSome ∧ b then new f.pendHc else f.hcB,
    spA := if f.pendSp.isSome ∧ f.spBank then new f.pendSp else f.spA,
    spB := if f.pendSp.isSome ∧ ¬f.spBank then new f.pendSp else f.spB }

/-- `FW_CMD` `OP` 2 (R712): when checks 1 to 8 pass, the images are being written to the standby banks, whose former images are gone
(R718). -/
def State.fwVerifyCmd (s : State) (p : Path) : State :=
  if ¬s.fwTakes p then s
  else if 1 < s.fw.phase ∨ s.fw.writing then s.fwEnded 9
  else match s.fw.stage with
  | none => s.fwEnded 9
  | some b =>
    match s.fwVerify b with
    | 0 => s.modFw (fun f =>
        { f with writing := true, phase := 0, pendHc := s.pendingOf b 1, pendSp := s.pendingOf b 2 }.setStandby (fun _ => none))
    | r => s.fwEnded r

/-- `VERIFY` (R712). -/
def execVerify (path : Path) (s : State) : Answer := .next (s.fwVerifyCmd path)

/-- `VERIFY_COMPLETE`: the images have been written to the standby banks; `equal` tells whether they read back equal (check 9 of
R712). -/
def execVerifyComplete (equal : Bool) (s : State) : Answer :=
  .next (if ¬s.fw.writing ∨ s.fatal then s
    else if ¬equal then
      s.modFw (fun f => { f with writing := false, pendHc := none, pendSp := none, lastResult := 10 })
    else s.modFw (fun f =>
      { f with writing := false, phase := 1, stage := none, lastResult := 1, done := 0, spDone := false }.setStandby (fun x => x)))

/-! ### The procedure (R713–R715) and the return (R719) -/

/-- The procedure is over: the pending fields clear, phase 0, and CAUSE 5 clears (R718, R719). -/
def Fw.ended (f : Fw) (r : BitVec 4) : Fw :=
  { f with
    phase := 0, pendHc := none, pendSp := none, done := 0, spDone := false, yielding := none, returning := [], cause := false,
    lastResult := r }

/-- The hubs that still have to take the pending version, in ascending order (R713). -/
def State.hubsLeft (s : State) : List Nat :=
  match s.fw.pendHc with
  | some x => s.presentHubs.filter (fun h => versionOf (s.fw.hcImage h) != x.version)
  | none => []

/-- The procedure goes on to its next unit (R713, R714, R719). -/
def State.fwGo (s : State) : State :=
  if s.fw.phase = 2 then
    match s.hubsLeft with
    | h :: _ => s.modFw (fun f => { f with yielding := some h })
    | [] => s.modFw (fun f => { f with yielding := none, phase := if f.pendSp.isSome ∧ ¬f.spDone then 4 else 5 })
  else if s.fw.phase = 6 then
    match s.fw.returning with
    | some h :: _ => s.modFw (fun f => { f with yielding := some h })
    | none :: _ => s.modFw (fun f => { f with yielding := none })
    | [] => s.modFw (fun f => f.ended f.returnResult)
  else s

/-- Starts a return of every unit updated, and of the hubs `also`, with the security processor first and the hubs in descending order
(R719). -/
def State.fwReturn (s : State) (r : BitVec 4) (also : List Nat) : State :=
  let hubs := (s.presentHubs.filter (fun h => s.fw.done.getLsbD h || also.contains h)).reverse
  (s.modFw (fun f => { f with
    phase := 6, restart := none, yielding := none, returnResult := r,
    returning := (if f.spDone then [none] else []) ++ hubs.map some })).fwGo

/-- `FW_CMD` `OP` 3 (R713); refused while the structure-image unit is not Idle (R80). -/
def State.fwStart (s : State) (p : Path) : State :=
  if ¬s.fwTakes p then s
  else if (s.fw.phase ≠ 1 ∧ s.fw.phase ≠ 3) ∨ s.fw.writing ∨ s.si.state ≠ .idle then s.fwEnded 9
  else (s.modFw (fun f => { f with phase := 2, cause := true })).fwGo

/-- `START` (R713). -/
def execStart (path : Path) (s : State) : Answer := .next (s.fwStart path)

/-- Every logical cluster on the hub is at a yield point (R713). -/
def State.hubYielded (s : State) (h : Nat) : Bool :=
  !s.lcs.any (fun e => e.2.phase == .running && (match e.2.place with | some (g, _) => g == h | none => false))

/-- `HUB_CONTROLLER_RESTART`: the clusters of the hub taken are at their yield points, so its controller restarts (R713). -/
def execHubControllerRestart (s : State) : Answer :=
  .next (match s.fw.yielding with
    | some h =>
      if s.fw.restart.isSome ∨ (s.hub h).phase ≠ .none ∨ ¬s.hubYielded h ∨ s.fatal then s
      else (s.modFw (fun f => { f with yielding := none, restart := some { hub := some h, since := s.clk.now } })).modHub h
        (fun x => { x with hcRunning := false })
    | none => s)

/-- Changes the active bank of a hub. -/
def Fw.flipHub (f : Fw) (h : Nat) : Fw := { f with hcBank := f.hcBank ^^^ (1#8 <<< h) }

/-- `HUB_CONTROLLER_RUNNING`: the hub controller reports itself running; its bank is recorded and the next unit is taken
(R713, R719). -/
def execHubControllerRunning (s : State) : Answer :=
  .next (match s.fw.restart with
    | some r =>
      match r.hub with
      | some h =>
        if s.fatal ∨ (s.hub h).phase ≠ .none then s
        else
          let s := s.modHub h (fun x => { x with hcRunning := true })
          let bit : BitVec 8 := 1#8 <<< h
          (s.modFw (fun f =>
            let f : Fw := { f with restart := none }
            if f.phase = 6#3 then
              let f : Fw := { f with returning := f.returning.drop 1 }
              if f.done.getLsbD h then { f.flipHub h with done := f.done &&& ~~~bit } else f
            else { f.flipHub h with done := f.done ||| bit })).fwGo
      | none => s
    | none => s)

/-- `YIELD_WAIT_EXPIRED`: a cluster of the hub has not reached a yield point within 5 s (R715). -/
def execYieldWaitExpired (s : State) : Answer :=
  .next (if s.fw.phase = 2 ∧ s.fw.yielding.isSome ∧ ¬s.fatal then
      s.modFw (fun f => { f with yielding := none, phase := 3, lastResult := 13 })
    else s)

/-- `SP_RESTART`: the security processor restarts, from its standby bank or in a return from its former one (R714, R719). -/
def execSpRestart (s : State) : Answer :=
  .next (if (s.fw.phase = 4 ∨ (s.fw.phase = 6 ∧ s.fw.returning.head? = some none)) ∧ s.fw.restart.isNone ∧ ¬s.fatal then
      s.modFw (fun f => { f with spDown := true, restart := some { hub := none, since := s.clk.now } })
    else s)

/-- `SP_RUNNING`: the security processor runs again; its bank is recorded, and confirmation begins or the return goes on
(R714, R718, R719). -/
def execSpRunning (s : State) : Answer :=
  .next (match s.fw.restart with
    | some r =>
      if r.hub.isSome ∨ s.fatal then s
      else
        (s.modFw (fun f =>
          let f := { f with restart := none, spDown := false }
          if f.phase = 4 then { f with spBank := !f.spBank, spDone := true, phase := 5 }
          else if f.phase = 6 then
            { f with spBank := if f.spDone then !f.spBank else f.spBank, spDone := false, returning := f.returning.drop 1 }
          else f)).fwGo
    | none => s)

/-- `FW_RESTART_TIMEOUT`: the unit that restarts is not running within 2 s (R719). In a return, and where the former security processor
is started again, the unit is started once more. -/
def execFwRestartTimeout (s : State) : Answer :=
  .next (match s.fw.restart with
    | some r =>
      if s.fatal then s
      else match r.hub with
      | some h => if s.fw.phase = 2 then s.fwReturn 11 [h] else s.modFw (fun f => { f with restart := some { r with since := s.clk.now } })
      | none =>
        s.modFw (fun f =>
          let f := { f with restart := some { r with since := s.clk.now } }
          if f.phase = 4 then f.ended 12 else f)
    | none => s)

/-- `CONFIRMATION_COMPLETE`: 60 s of confirmation have passed cleanly (R718). -/
def execConfirmationComplete (s : State) : Answer :=
  .next (if s.fw.phase = 5 ∧ ¬s.fatal then
      s.modFw (fun f =>
        let top (v : BitVec 32) (x : Option FwImage) : BitVec 32 := match x with | some y => if v < y.svn then y.svn else v | none => v
        { f.ended 1 with svn := top (top f.svn f.pendHc) f.pendSp })
    else s)

/-- `FW_CMD` `OP` 4 (R719). -/
def State.fwAbort (s : State) (p : Path) : State :=
  if ¬s.fwTakes p then s
  else if s.fw.writing then s.fwEnded 9
  else if s.fw.phase = 1 then s.modFw (fun f => f.ended 1)
  else if s.fw.phase = 3 ∨ s.fw.phase = 5 then s.fwReturn 14 []
  else s.fwEnded 9

/-- `ABORT` (R719). -/
def execAbort (path : Path) (s : State) : Answer := .next (s.fwAbort path)

/-- The image in the standby bank of a hub. -/
def Fw.hcStandby (f : Fw) (h : Nat) : Option FwImage := if f.hcBank.getLsbD h then f.hcA else f.hcB

/-- The image in the standby bank of the security processor. -/
def Fw.spStandby (f : Fw) : Option FwImage := if f.spBank then f.spA else f.spB

/-- `FW_CMD` `OP` 5 (R719): the units whose standby bank holds an image that R704 and R705 allow return to it; at no step do the
releases differ from what R704 allows. Refused while the structure-image unit is not Idle (R80). -/
def State.fwRollback (s : State) (p : Path) : State :=
  let fits (x : Option FwImage) : Bool := match x with | some y => decide (s.fw.svn ≤ y.svn) | none => false
  let hubs := s.presentHubs.filter (fun h => fits (s.fw.hcStandby h))
  let sp := fits s.fw.spStandby
  let r := relOf (versionOf (if sp then s.fw.spStandby else s.fw.spImage))
  let after := hubs.map (fun h => relOf (versionOf (s.fw.hcStandby h)))
  if ¬s.fwTakes p then s
  else if s.fw.phase ≠ 0 ∨ s.fw.writing ∨ s.fw.restart.isSome ∨ s.si.state ≠ .idle ∨ (hubs.isEmpty ∧ ¬sp)
      ∨ ¬(s.hubReleases ++ after).all (releaseFits r) then s.fwEnded 9
  else (s.modFw (fun f => { f with done := maskBits hubs, spDone := sp })).fwReturn 1 []

/-- `ROLLBACK` (R719). -/
def execRollback (path : Path) (s : State) : Answer := .next (s.fwRollback path)

end Sys2Proof.Machine
end

