-- ==== Sys2Proof/Machine/Reset.lean ====
section
/-! DEFINITION. Reset.lean: the power-on and package resets as shared operations (R789, R790). -/
namespace Sys2Proof.Machine
open Sys2Proof

/-- Draws the training ID of every port of the present hubs (R242). -/
def State.drawTrainIds (s : State) : State :=
  (s.presentHubs.flatMap (fun h => [4 * h, 4 * h + 1, 4 * h + 2, 4 * h + 3])).foldl (fun s p =>
    let (n, s) := s.draw .trainId
    s.modPort p (fun q => { q with trainId := BitVec.ofNat 32 n })) s

/-- The firmware unit over a package reset (R720): banks, counter and update record stay; an update staged or with hubs in progress
stops, and confirmation has failed, so that the former banks run. -/
def Fw.afterReset (f : Fw) : Fw :=
  let g : Fw := { hcA := f.hcA, hcB := f.hcB, spA := f.spA, spB := f.spB, hcBank := f.hcBank, spBank := f.spBank, svn := f.svn }
  if f.writing then g
  else if f.phase = 5 then
    { g with hcBank := f.hcBank ^^^ f.done, spBank := if f.spDone then !f.spBank else f.spBank, lastResult := if f.spDone then 12 else 11 }
  else
    { g with
      phase := if f.phase = 1 ∨ f.phase = 2 then 3 else f.phase, pendHc := f.pendHc, pendSp := f.pendSp, done := f.done,
      spDone := f.spDone, cause := f.cause, returning := f.returning, returnResult := f.returnResult }

/-- What every reset keeps: the fuses, flash and other non-volatile storage (R789), and the model's own fields. -/
def State.resetKeeping (s : State) : State :=
  let si : Si := { cur := s.si.cur, prev := s.si.prev, awaiting := s.si.awaiting, healthMark := s.si.healthMark,
                   healthAt := if s.si.healthMark then s.si.healthAt else none, mgmtSeen := s.si.healthMark && s.si.mgmtSeen,
                   maxSerial := s.si.maxSerial, commitTime := s.si.commitTime }
  { pending := s.pending, fuses := s.fuses, out := s.out, freeCtr := s.freeCtr, nextAccess := s.nextAccess,
    clk := { now := s.clk.now }, si := si, fw := s.fw.afterReset,
    ten := { slots := s.ten.slots, epoch := s.ten.epoch, record := s.ten.record, spdmSent := s.ten.spdmSent },
    integ := { rlog := s.integ.rlog, retired := s.integ.retired },
    ranks := s.ranks.mapVals (fun _ r => { rowsUsed := r.rowsUsed, colsUsed := r.colsUsed }),
    memHubs := s.memHubs.mapVals (fun _ m => { rowsUsed := m.rowsUsed, colsUsed := m.colsUsed, sparesLent := m.sparesLent }),
    chans := s.chans.mapVals (fun _ x => { spareUsed := x.spareUsed, spareRank := x.spareRank, deadRanks := x.deadRanks }),
    slots := s.slots.filter (fun e => e.2 == .retired),
    jtag := s.jtag, sys := { resetLow := s.sys.resetLow, phase := .inReset },
    hubs := s.hubs.mapVals (fun _ h => { refclkOk := h.refclkOk, sdsRefclkOk := h.sdsRefclkOk }) }

/-- A package reset: everything outside the always-on domain, with its cause (R790, R802). -/
def State.packageReset (s : State) (cause : BitVec 3) : State :=
  let t := s.resetKeeping
  ({ t with
    clk := { s.clk with slew := .free, slewAcc := 0 },
    integ := { t.integ with errLog := s.integ.errLog, dropped := s.integ.dropped },
    i3c := { s.i3c with lastCause := 0 },
    pwr := { feedAOk := s.pwr.feedAOk, feedBOk := s.pwr.feedBOk },
    hubs := s.hubs.mapVals (fun _ h => { refclkOk := h.refclkOk, sdsRefclkOk := h.sdsRefclkOk, bridgeLog := h.bridgeLog }),
    sys := { t.sys with
      lastCause := cause, afterFatal := s.fatal, clk32kLost := s.sys.clk32kLost, lastWake := s.sys.lastWake } } : State).drawTrainIds

/-- Power-on: everything, the always-on domain included (R789). -/
def State.powerOn (s : State) (feedA feedB : Bool) : State :=
  ({ s.resetKeeping with pwr := { feedAOk := feedA, feedBOk := feedB }, jtag := {} } : State).drawTrainIds

end Sys2Proof.Machine
end

