-- ==== Sys2Proof/Machine/StructImage.lean ====
section
/-! DEFINITION. StructImage.lean: the meanings of the structure-image commands, of commits and returns, and of the health window
(chapters "The Structure Image" and "Modes and How They Combine"). -/
namespace Sys2Proof.Machine
open Sys2Proof

/-- Changes the structure-image unit. -/
def State.modSi (s : State) (f : Si → Si) : State := { s with si := f s.si }

/-- Sets `SI_STATUS.LAST_RESULT` (R84). -/
def State.siEnded (s : State) (r : BitVec 4) : State := s.modSi (fun x => { x with lastResult := r })

/-- A write of `SI_CMD` is taken (R71, R673): it comes from firmware or from a session that holds `OPERATOR`. -/
def State.siTakes (s : State) (p : Path) : Bool := !s.ignores p && (s.pathUsage p).getLsbD 0 && !s.spDown

/-- A staging buffer as an image: its bytes count up to the highest chunk end (R71). -/
def stagedImage (b : StageBuf) : SiImage := { size := b.top, bytes := b.bytes }

/-! ### Applying an image (R74 step 4, R92) -/

/-- The state of deep channel `c` of hub `h` under the sections in force: one that is enabled anew trains, and counts as holding no usable
DIMMs where it does not (R553, R556, R792). -/
def State.applyDeep (s : State) (h c : Nat) (attempts : List (List LaneSweep)) : State :=
  let x := s.chan h (32 + c)
  if ¬(s.inService h ∧ s.deepEn h c ∧ x.usable) then s.modChan h (32 + c) (fun x => { x with state := .disabled })
  else if x.state = .disabled then
    let s := s.trainChan h (32 + c) attempts .failed
    s.modChan h (32 + c) (fun x => { x with usable := x.usable && decide (x.state ≠ .failed) })
  else s

/-- The flow control of a ZL port under changed sections: window mode follows `FC_MODE` (R92, R273, R277). -/
def State.applyFlow (s : State) (a : Sections) (p : Nat) : State :=
  let fc := differ a s.eff .fabric (24 * p + 2)
  let was := (s.port p).windowMode
  let s := s.modPort p (fun q => { q with
    fallback := q.fallback && s.fcMode p == 0, windowMode := s.fcMode p == 1 || (q.fallback && s.fcMode p == 0),
    credits := if fc then [] else q.credits })
  if was ∧ ¬(s.port p).windowMode then s.endWindow p else s

/-- A ZL port under changed sections (R92, R251, R273): a port without a role is disabled, and its link goes down; one whose flow control changed sends its
initial credits before new traffic, and one that runs below `LANES_MIN` asks for a retrain. -/
def State.applyPort (s : State) (a : Sections) (p : Nat) : State :=
  let fc := differ a s.eff .fabric (24 * p + 2)
  let s := s.applyFlow a p
  if s.role p = 0 then
    if (s.port p).state = .disabled then s else (s.modPort p (fun q => { q with state := .disabled })).linkDown p
  else if (s.port p).state = .disabled then s.modPort p (fun q => { q with state := .down })
  else
    let s := if fc ∨ differIn a s.eff .fabric (24 * p + 8) 8 then
        (if (s.port p).state = .up then s.sendInit p else s.modPort p (fun q => { q with initDue := true }))
      else s
    (s.checkWidth p).drainPort p

/-- A path of host `h` with a route entry is not lost. -/
def State.pathLeft (s : State) (h : Nat) (x : HostSt) (secondary : Bool) : Bool :=
  decide (s.route h secondary < 32) && !(x.path secondary).lost

/-- The paths of hosts whose route entries changed begin afresh, as paths with no probe answered (R284, R291); where every path was lost,
the new one is not, and R288 applies no longer. -/
def State.applyRoutes (s old : State) : State :=
  { s with hosts := s.hosts.mapVals (fun h x =>
      let x := if s.route h false = old.route h false then x else { x with primary := {} }
      let x := if s.route h true = old.route h true then x else { x with secondary := {} }
      let x := if x.onSecondary ∧ 32 ≤ s.route h true then { x with onSecondary := false } else x
      if x.allLost ∧ s.pathLeft h x x.onSecondary then { x with allLost := false }
      else if x.allLost ∧ s.pathLeft h x (!x.onSecondary) then { x with allLost := false, onSecondary := !x.onSecondary }
      else x) }

/-! ### Ethernet ports under changed sections (R92, R294, R339) -/

/-- PTP is a source no more (R294). -/
def State.ptpLost (s : State) : State :=
  ({ s with zlg := { s.zlg with ptpAvailable := false }, ethg := { s.ethg with ptpT1 := none, ptpSync := none, ptpMasters := [] } } : State).chooseSource

/-- An Ethernet port's link goes down (R339); what a peer's pause had stopped is forgotten, and PTP on the port is lost. -/
def State.ethDown (s : State) (e : Bool) : State :=
  let s := s.modEth e (fun p => { p with
    linkUp := false, speedAct := 0, paused := 0, pausing := 0, pauseUntil := [], pauseSince := [], ignoreUntil := [], txWait := [] })
  let s := s.waitEnd (b2n e) (.eth (b2n e)) (fun w => w.ekind == 9) none
  if s.ethg.ptpEn ∧ s.ethg.ptpPort = e ∧ s.zlg.ptpAvailable then s.ptpLost else s

/-- An Ethernet port whose `SPEED` or `MEDIUM` changed retrains: its link goes down, and comes up in the new mode (R92, R303). -/
def State.applyEth (s : State) (a : Sections) (e : Bool) : State :=
  if differIn a s.eff .fabric (0x300 + 16 * b2n e) 2 then s.ethDown e else s

/-- A queue becomes bound, or its binding changes: it starts afresh, without the connection of the host that it was bound to (R349,
R350). -/
def State.queueBind (s : State) (q : Nat) : State := ({ s with qps := s.qps.erase q } : State).queueInit q 0

/-- Before an image takes effect, heads that have become eligible take their tags at the weights in force, and every shaper bucket is filled
up to now at the rate in force (R361, R373). -/
def State.settleQueues (s : State) : State :=
  let s := s.presentHubs.foldl State.tagHeads s
  { s with queues := s.queues.mapVals (fun q _ => s.shaperNow q) }

/-- Shaper buckets keep their level, clamped to the new depth (R373); the buckets of a meter whose fields differ from those of `a` are full
(R367). -/
def State.clampQueues (s : State) (a : Sections) : State :=
  { s with
    queues := s.queues.mapVals (fun q x => { x with bucket := min (s.shaperDepth q) x.bucket }),
    meters := s.meters.mapVals (fun h m => if differIn a s.eff .queues (0x20000 + 8 * h) 8 then { m with full := true } else m) }

/-- The extents of the given classes that resident jobs name are mapped with the rights that are left (R91, R528, R543). -/
def State.shootClasses (s : State) (cut : BitVec 16) : State :=
  (dedup ((s.jobs.flatMap (fun e => e.2.refs.map (·.extent))).filter (fun e => cut.getLsbD (s.classOf e)))).foldl
    (fun s e => s.shootExtent e (fun r => r)) s

/-- A page lies in the save area of a hub under the sections in force. -/
def State.inSave (s : State) (h page : Nat) : Bool :=
  decide (s.savePage h ≤ page ∧ page < s.savePage h + 4 * s.saveArea h * 65536)

/-- Save hubs under a new image (R501, R529): a job of which a save hub has no cluster left has its save hubs formed anew, and its copies
move; a job whose tables no longer lie in the save area of the hub that saves L0 has them written afresh there. -/
def State.moveSaves (s : State) : State :=
  let ok := s.saveCandidates
  let s := (s.jobs.filter (fun e => !(e.2.saveHubs.take (imgLogical e.2.image)).all ok.contains)).foldl (fun s e =>
    s.modJob e.1 (fun x => { x with saveHubs := ok })) s
  let moved := (s.jobs.filter (fun e => !e.2.pages.all (s.inSave (e.2.saveHub 0)))).map (·.1)
  moved.foldl (fun s j => (s.buildTables j).getD s)
    (moved.foldl (fun s j => s.modJob j (fun x => { x with pages := [] })) s)

/-- All sections take effect together (R74, R92): hubs in service, slots, channels, ports, Ethernet modes, queues, clusters and the trace export follow;
`training` holds what the training attempts of deep channels find, by hub × 64 + channel. -/
def State.applyImage (s : State) (img : Option SiImage) (training : SMap (List (List LaneSweep))) : State :=
  let a := s.eff
  let b := s.sectionsOf img
  let old := s
  let s := s.settleQueues
  let s : State := { s with eff := b, si := { s.si with inForce := img, committed := img.isSome } }
  let s := s.applyRoutes old
  let s := s.atomReleaseClasses (rightsCut a b)
  let s := s.presentHubs.foldl (fun s h => s.modHub h (fun x => { x with inService := b.hubOn h })) s
  let s := s.presentHubs.foldl (fun s h =>
    ([0, 1].foldl (fun s c => s.applyDeep h c (training.getD (h * 64 + 32 + c) [])) s).laySlots h) s
  let s := (List.range 32).foldl (fun s p => if s.hubPresent (p / 4) then s.applyPort a p else s) s
  let s := (s.applyEth a false).applyEth a true
  let s := ((List.range 16384).filter (fun q => old.queueHost q != s.queueHost q)).foldl State.queueBind s
  let s := s.clampQueues a
  let s := ((List.range 112).filter (fun i => differ a b .clusters (0x10 + 16 * (i / 14) + i % 14))).foldl
    (fun s i => s.clusterReset (i / 14) (i % 14)) s
  let s : State := if differ a b .debugPolicy 1 ∨ differIn a b .debugPolicy 2 3 then
      { s with trig := { s.trig with head := 0, tail := 0, region := [] } } else s
  let s : State := if ¬s.traceEn ∧ s.trig.postOpen then { s with trig := { s.trig with postOpen := false, frozen := true } } else s
  (s.shootClasses (rightsCut a b)).moveSaves

/-! ### Quiesce (R74, R92, R98, R101) -/

/-- A logical cluster is on physical cluster `i` (14 to a hub). -/
def State.occupied (s : State) (i : Nat) : Bool := (s.clu (i / 14) (i % 14)).resident.isSome

/-- A held ZL port has drained: nothing waits in its replay buffer or for it, and with its link not Up no flow awaits an
acknowledgement over it any more (R99). -/
def State.portDrained (s : State) (p : Nat) : Bool :=
  let q := s.port p
  q.replay.isEmpty && q.waiting.isEmpty
    && (q.state == .up || s.flows.all (fun f => f.2.out.all (·.port != p)))

/-- A held Ethernet port has drained: no queue pair on it has an operation in flight; one in error has none that could still complete
(R99, R317, R339). -/
def State.ethDrained (s : State) (e : Bool) : Bool :=
  s.qps.all (fun q => q.2.params.port.toNat != b2n e || q.2.out.isEmpty || q.2.error)

/-- The line has requests in flight that cache it (R92). -/
def LineOrd.caches (o : LineOrd) : Bool :=
  let yes (k : ReqKind) : Bool := match k with | .rdS | .rdX _ | .upg _ | .acquire => true | _ => false
  o.queue.any (fun r => yes r.kind) || (match o.tx with | some t => yes t.req.kind | none => false)

/-- The hubs with a held unit, those of the held Ethernet ports among them (R101, R813). -/
def State.unitHubs (s : State) (k : SiHolds) : BitVec 8 :=
  s.hubsHeld k ||| (if k.e0 then 1 else 0) ||| (if k.e1 then 2 else 0)

/-- What a hub's save area holds: the saves of its logical clusters, and the tables of the jobs whose L0 it saves (R529). -/
def State.saveBytes (s : State) (h : Nat) : Nat :=
  s.residentSaves h + s.jobs.foldl (fun a j => a + if j.2.saveHub 0 = h then 4096 * j.2.pages.length else 0) 0

/-- A queue `WRITE` that ingress has accepted, and whose data is still on its way, touches a held hub or class (R74, R130). -/
def State.fetchesIn (s : State) (k : SiHolds) : Bool :=
  s.accesses.any (fun a => a.2.fetching && a.2.lines.any (fun l =>
    a.2.pieces.getD l.piece .ok == .ok && (k.hubs.getLsbD l.hub || s.lineIn k.classes l.line)))

/-- Every held unit has drained (R74, R92, R99, R101). -/
def State.quiesced (s : State) (k : SiHolds) (target : Sections) : Bool :=
  let hubs := (List.range 8).filter (k.hubs.getLsbD ·)
  (List.range 8).all (fun h => !(s.unitHubs k).getLsbD h || decide ((s.hub h).phase = .none))
    && (List.range 112).all (fun i => !(k.clusters.getLsbD i || k.hubs.getLsbD (i / 14)) || !s.occupied i)
    && (List.range 8).all (fun h => !k.saves.getLsbD h || decide (s.saveBytes h ≤ target.u8 .tiers (8 * h + 4) * 2 ^ 30))
    && (!k.e0 || s.ethDrained false) && (!k.e1 || s.ethDrained true)
    && (List.range 32).all (fun p => !k.ports.getLsbD p || s.portDrained p)
    && !s.lines.any (fun e => k.hubs.getLsbD e.2.hub.toNat || s.lineIn k.classes e.1 || (s.lineIn k.recalls e.1 && e.2.caches))
    && !s.fetchesIn k
    && !s.dir.any (fun e => s.lineIn k.recalls (lineOfWay e.1 e.2))
    && hubs.all (fun h => (s.slgHub h).gathers.isEmpty)
    && !(match s.lift.queue with | j :: _ => j.phase != .queued && s.liftHeld k j | [] => false)
    && k.queues.all (fun q => (s.queue q).ring.isEmpty && (s.queue q).held.isEmpty)
    && k.channels.isEmpty
    && (!k.exports || s.traceHubs.all (fun t => t.2.queue.isEmpty))

/-- Holds the units of a difference; the home atomic units release the lines of classes that are narrowed (R181), and the directories
recall those of classes that lose tracking (R92). -/
def State.hold_ (s : State) (target : Sections) (m : Medium) : State :=
  ((s.modSi (fun x => { x with hold := s.holdsOf s.eff target })).atomReleaseClasses (rightsCut s.eff target)).chanHeld.cohEnd m

/-- Held work resumes. -/
def State.unhold (s : State) (m : Medium) : State :=
  (((s.modSi (fun x => { x with hold := {}, refusedClasses := 0 })).unpark).release m).heldEpochNow

/-- Classes whose EXTENT_POLICY, INTERLEAVE or COHERENCE entries differ (R98); a change of `FINE_SET` counts for every class
(DESIGN CHOICE, notes/assumptions/63.md). -/
def classesDiffer (a b : Sections) : BitVec 16 :=
  maskBits ((List.range 16).filter (fun c => differIn a b .extentPolicy (16 * c) 16 || a.fine c != b.fine c
    || differ a b .interleave 0 || differ a b .coherence c))

/-- A commit is abandoned (R75, R97): the previous slot stays empty, and the staged image is Validated still while its owner's session is
open. -/
def State.commitLost (s : State) (r : BitVec 4) (m : Medium) : State :=
  (s.modSi (fun x =>
    if s.ownerLives x.stage then { x with state := .validated, lastResult := r }
    else { x with state := .idle, stage := none, lastResult := r })).unhold m

/-- The larger of two serials (R69). -/
def laterSerial (a b : BitVec 64) : BitVec 64 := if a < b then b else a

/-! ### The return (R76, R79, R102) -/

/-- The slot record names the previous image as current, and the previous slot as empty. -/
def Si.turnedBack (x : Si) (check : BitVec 3) : Si :=
  { x with cur := x.prev, prev := none, awaiting := false, healthMark := false, healthAt := none, failedCheck := check, returned := true }

/-- A return by package reset; the slot record and what the reset must not lose are written first, and a state that breaks K13 to K16
under the previous image is reported (R102). -/
def State.returnByReset (s : State) (check : BitVec 3) : State :=
  let bad := match s.si.prev with | some y => !s.combosState (s.effective y.sections) | none => false
  ((s.modSi (fun x => x.turnedBack check)).packageReset 5).modSi (fun x =>
    { x with returned := true, failedCheck := check, healthFail := x.healthFail || bad })

/-- The part returns to its previous image (R76). -/
def State.startReturn (s : State) (check : BitVec 3) (m : Medium) : State :=
  match s.si.prev with
  | none => s
  | some y =>
    let target := s.sectionsOf (some y)
    if s.classOfChange s.eff target = 3 then s.returnByReset check
    else (s.modSi (fun x => { x with state := .returning, returnCheck := check, healthAt := none })).hold_ target m

/-! ### The commands of R72 -/

/-- `SI_CMD` `OPEN` (R72). -/
def State.siOpen (s : State) (p : Path) : State :=
  if ¬s.siTakes p then s
  else if s.si.lock ∨ ¬(s.si.state = .idle ∨ s.si.state = .staging ∨ s.si.state = .validated) ∨ ¬s.mayTake p s.si.stage then s.siEnded 12
  else s.modSi (fun x => { x with state := .staging, stage := some { owner := s.ownerOf p }, change := x.changeLeft, lastResult := 1 })

/-- `OPEN` (R72). -/
def execOpen (path : Path) (s : State) : Answer := .next (s.siOpen path)

/-- `SI_CMD` `VALIDATE` (R68, R72, R103). -/
def State.siValidate (s : State) (p : Path) : State :=
  if ¬s.siTakes p then s
  else match s.si.lock, s.si.state, s.si.stage with
  | false, .staging, some b =>
    let x := stagedImage b
    let r := s.validate x
    if r = 1 then s.modSi (fun y => { y with state := .validated, change := s.changeWord (s.effective x.sections), lastResult := 1 })
    else s.siEnded (BitVec.ofNat 4 r)
  | _, _, _ => s.siEnded 12

/-- `VALIDATE` (R68). -/
def execValidate (path : Path) (s : State) : Answer := .next (s.siValidate path)

/-- A commit in some form may begin: Validated, unlocked, and no firmware update in progress (R72, R73, R80). -/
def State.mayCommit (s : State) : Bool := !s.si.lock && s.si.state == .validated && !s.fwBusy && s.si.stage.isSome

/-- `SI_CMD` `COMMIT` (R74, R77, R98). `LAST_RESULT` stays as it was until the commit ends (DESIGN CHOICE, notes/assumptions/64.md). -/
def State.siCommit (s : State) (p : Path) (m : Medium) : State :=
  if ¬s.siTakes p then s
  else match s.mayCommit, s.si.stage with
  | true, some b =>
    let target := s.effective (stagedImage b).sections
    if s.classOfChange s.eff target = 3 then s.siEnded 14
    else
      (s.modSi (fun x => { x with state := .quiescing, prev := none, refusedClasses := classesDiffer s.eff target })).hold_ target m
  | _, _ => s.siEnded 12

/-- `COMMIT` (R74). -/
def execCommit (path : Path) (med : Medium) (s : State) : Answer := .next (s.siCommit path med)

/-- `COMMIT_POINT`: every held unit has drained (R74, R97), in a commit or in a return by quiesce (R76, R102). -/
def execCommitPoint (training : SMap (List (List LaneSweep))) (med : Medium) (s : State) : Answer :=
  .next (if s.fatal then s
    else match s.si.state, s.si.stage, s.si.prev with
    | .quiescing, some b, _ =>
      let x := stagedImage b
      let target := s.effective x.sections
      if ¬s.quiesced s.si.hold target then s
      else if ¬s.check9 target then s.commitLost 10 med
      else if ¬s.check10 x then s.commitLost 11 med
      else
        ((s.applyImage (some x) training).modSi (fun y => { y with
          state := .health, prev := y.cur, cur := some x, stage := none, lastResult := 1,
          maxSerial := laterSerial y.maxSerial x.serial, commitTime := s.clk.poolTime, healthMark := true,
          healthAt := some s.clk.now, mgmtSeen := false })).unhold med
    | .returning, _, some x =>
      let target := s.effective x.sections
      if ¬s.quiesced s.si.hold target then s
      else
        let bad := !s.combosState target
        ((s.applyImage (some x) training).modSi (fun y =>
          { y.turnedBack y.returnCheck with
            state := .idle, healthFail := y.healthFail || bad, commitTime := s.clk.poolTime })).unhold med
    | _, _, _ => s)

/-- `QUIESCE_LIMIT_EXPIRED`: the limit of the image toward which the part moves has passed (R75, R76). -/
def execQuiesceLimitExpired (med : Medium) (s : State) : Answer :=
  .next (if s.fatal then s
    else match s.si.state with
    | .quiescing => s.commitLost 13 med
    | .returning => s.returnByReset s.si.returnCheck
    | _ => s)

/-- `SI_CMD` `COMMIT_ON_RESET` (R72). The image's serial counts as committed from its acceptance on (DESIGN CHOICE,
notes/assumptions/65.md). -/
def State.siCommitOnReset (s : State) (p : Path) : State :=
  if ¬s.siTakes p then s
  else match s.mayCommit, s.si.stage with
  | true, some b =>
    let x := stagedImage b
    s.modSi (fun y => { y with
      state := .pendingReset, prev := y.cur, cur := some x, awaiting := true, stage := none, change := 0, lastResult := 1,
      resetCause := true, maxSerial := laterSerial y.maxSerial x.serial })
  | _, _ => s.siEnded 12

/-- `COMMIT_ON_RESET` (R72). -/
def execCommitOnReset (path : Path) (s : State) : Answer := .next (s.siCommitOnReset path)

/-- `SI_CMD` `ABANDON` (R72). -/
def State.siAbandon (s : State) (p : Path) : State :=
  if ¬s.siTakes p then s
  else match s.si.lock, s.si.state with
  | false, .staging | false, .validated =>
    s.modSi (fun x => { x with state := .idle, stage := none, change := x.changeLeft, lastResult := 1 })
  | false, .pendingReset =>
    (s.modSi (fun x => { x with state := .idle, cur := x.prev, prev := none, awaiting := false, lastResult := 1 }))
  | _, _ => s.siEnded 12

/-- `ABANDON` (R72). -/
def execAbandon (path : Path) (s : State) : Answer := .next (s.siAbandon path)

/-- `SI_CMD` `REVERT` (R76); no check has failed, and `FAILED_CHECK` is 0 (notes/assumptions/84.md). -/
def State.siRevert (s : State) (p : Path) (m : Medium) : State :=
  if ¬s.siTakes p then s
  else if s.si.lock ∨ ¬(s.si.state = .idle ∨ s.si.state = .health) ∨ s.si.prev.isNone then s.siEnded 12
  else (s.siEnded 1).startReturn 0 m

/-- `REVERT` (R76). -/
def execRevert (path : Path) (med : Medium) (s : State) : Answer := .next (s.siRevert path med)

/-! ### The health window (R78, R79) -/

/-- What the part itself knows of a check: whether it can fail now (R78). -/
def State.checkFails (s : State) (check : BitVec 3) : Bool :=
  match check.toNat with
  | 1 => true
  | 2 => s.presentHubs.any (fun h => s.eff.hubOn h && !(s.hub h).inService)
  | 3 => s.chanMissing
  | 5 => (match s.si.inForce with | some x => x.mgmtCheck | none => false) && !s.si.mgmtSeen
  | _ => false

/-- A check of the health window fails: the part returns, or stays and reports it where no previous image is left (R78, R79). -/
def State.healthFails (s : State) (check : BitVec 3) (m : Medium) : State :=
  if s.si.prev.isSome then s.startReturn check m else s.modSi (fun x => { x with healthFail := true })

/-- `HEALTH_CHECK_FAIL`: check `check` of R78 has failed; of check 1 the hub controllers tell. -/
def execHealthCheckFail (check : BitVec 3) (med : Medium) (s : State) : Answer :=
  .next (if s.si.state = .health ∧ s.checkFails check ∧ ¬s.fatal then s.healthFails check med else s)

/-- `HEALTH_WINDOW_CLOSE`: 60 s after it opened; check 5 is settled then (R78, R79). -/
def execHealthWindowClose (med : Medium) (s : State) : Answer :=
  .next (if s.si.state ≠ .health ∨ s.fatal then s
    else
      let bad := s.checkFails 5
      if bad ∧ s.si.prev.isSome then s.startReturn 5 med
      else s.modSi (fun x => { x with
        state := .idle, healthMark := false, healthAt := none, healthFail := x.healthFail || bad }))

/-- `SI_LOCK_SET` (R86, R739). -/
def State.siLock (s : State) : State := s.modSi (fun x => { x with lock := true })

/-- `SI_LOCK_SET` (R86): through firmware, an operator session, or JTAG where it reaches the registers. -/
def execSiLockSet (path : Path) (s : State) : Answer :=
  .next (if (s.pathUsage path).getLsbD 0 ∧ ¬s.fatal ∧ (path ≠ .jtag ∨ s.jtagAllowed) then s.siLock else s)

/-! ### The transfer service (R333) -/

/-- Writes bytes into a staging buffer. -/
def StageBuf.put (b : StageBuf) (off : Nat) (d : List Byte) : StageBuf :=
  { b with
    bytes := d.zipIdx.foldl (fun m e => if e.1 = 0 then SMap.erase m (off + e.2) else SMap.set m (off + e.2) e.1) b.bytes,
    top := max b.top (off + d.length) }

/-- `TRANSFER`: writes a chunk of the structure-image or firmware staging buffer, or reads one back (R333, R71, R73, R711). -/
def execTransfer (hdr : KmpHdr) (target op : BitVec 8) (tlen : BitVec 16) (offset : BitVec 32) (data : List Byte) (reserved : Bool)
    (s : State) : Answer :=
  .next (s.kmpRequest hdr 5 false (fun k x s =>
    let n := tlen.toNat
    let o := offset.toNat
    if ¬s.isOperator x then (some { status := 3 }, s)
    else if (target ≠ 1 ∧ target ≠ 2) ∨ (op ≠ 1 ∧ op ≠ 2) ∨ n = 0 ∨ 1024 < n ∨ reserved ∨ (op = 1 ∧ data.length ≠ n) then
      (some { status := 6 }, s)
    else if (if target = 1 then 262144 else 4194304) < o + n then (some { status := 6 }, s)
    else
      let buf := if target = 1 then (if s.si.state = .staging ∨ s.si.state = .validated then s.si.stage else none)
        else if s.fw.writing then none else s.fw.stage
      match buf with
      | none => (some { status := 3 }, s)
      | some b =>
        if ¬ownedBy (some b) k x.sid then (some { status := 3 }, s)
        else if op = 2 then
          (some { status := 0, body := .transfer 0 ((List.range n).map (fun i => b.bytes.getD (o + i) 0)) }, s)
        else
          (some { status := 0, body := .transfer 0 [] },
            if target = 1 then s.modSi (fun y => { y with stage := some (b.put o data), state := .staging, change := y.changeLeft })
            else s.modFw (fun f => { f with stage := some (b.put o data) }))))

end Sys2Proof.Machine
end

