-- ==== Sys2Proof/Machine/Zl.lean ====
section
/-! DEFINITION. Zl.lean: the meanings of the commands of the Zorinka Link: cells received and sent, link changes, transport,
paths and beacons. -/
namespace Sys2Proof.Machine
open Sys2Proof

/-- `HEAD`: a sequenced head cell arrives (R233, R265–R267). -/
def execHead (port : Fin 32) (env : Envelope) (body : HeadBody) (s : State) : Answer :=
  .next (s.sequenced port env (fun s => s.fabricHead port env.vc.toNat body))

/-- `BODY`: a sequenced body cell arrives (R233, R261, R267). -/
def execBody (port : Fin 32) (env : Envelope) (data : BitVec 256) (s : State) : Answer :=
  .next (s.sequenced port env (fun s => s.fabricBody port env.vc.toNat data))

/-- Credits count on a port in credit mode (R270–R272). -/
def State.addCredits (s : State) (p v : Nat) (count : Nat) (init : Bool) : State :=
  let old := if init then 0 else (s.port p).credits.getD v 0
  let excess := decide (1024 < old + count)
  (s.modPort p (fun q => { q with
    credits := q.credits.set v (min 1024 (old + count)), creditSeen := true,
    initSeen := if init then q.initSeen ||| BitVec.ofNat 8 (2 ^ v) else q.initSeen,
    overflow := if excess then satAdd q.overflow 1 else q.overflow })).drainPort p

/-- A `CREDIT` cell, counted on acceptance (R235, R265, R270–R272). In window mode it is ignored (R275), but that an `INIT` within 100 µs
of a link-up brings a port that fell back earlier into credit mode (R274). -/
def State.takeCreditCell (s : State) (p v : Nat) (count : Nat) (init : Bool) : State :=
  let q := s.port p
  if 7 ≤ v then s.framingErr p
  else if ¬q.windowMode then s.addCredits p v count init
  else if q.fallback ∧ q.initOpen ∧ init then
    (((s.modPort p (fun q => { q with windowMode := false, fallback := false })).endWindow p).sendInit p).addCredits p v count init
  else s.modPort p (fun q => { q with creditSeen := true })

/-- `CREDIT`: a credit cell arrives (R233, R270). -/
def execCredit (port : Fin 32) (env : Envelope) (count : BitVec 11) (init : Bool) (s : State) : Answer :=
  .next (s.sequenced port env (fun s => s.takeCreditCell port env.vc.toNat count.toNat init))

/-- `NULL`: a null cell restarts the down timer and carries nothing (R227, R240); the timer itself is the command
LINK_DOWN. -/
def execNull (port : Fin 32) (env : Envelope) (s : State) : Answer :=
  .next (s.unsequenced port env id)

/-- `UNCORRECTABLE_CODEWORD`: 16 cells fail, which is a loss event (R224, R234). -/
def execUncorrectableCodeword (port : Fin 32) (s : State) : Answer :=
  .next (if s.hearsCells port then
      let s := s.modPort port (fun q => { q with uncorr := satAdd q.uncorr 1 })
      if s.receiving port then s.lossEvent port else s
    else s)

/-- `CELL_CRC_FAILURE`: a cell fails its CRC, which is a loss event (R234). -/
def execCellCrcFailure (port : Fin 32) (s : State) : Answer :=
  .next (if s.receiving port then s.lossEvent port else s)

/-- `RESERVED_KIND_CELL`: a cell that passes its CRC with a reserved `KIND` is discarded and counted (R230). -/
def execReservedKindCell (port : Fin 32) (s : State) : Answer :=
  .next (if s.hearsCells port then s.protoErr port else s)

/-- `ACK`: frees the acknowledged cells (R236, R237). -/
def execAck (port : Fin 32) (env : Envelope) (ackSeq : BitVec 12) (s : State) : Answer :=
  .next (s.control port env (fun s => s.ackUpTo port ackSeq))

/-- A `NAK` in range: frees the cells before it and replays from it, or starts a retrain from the eighth repeat on (R237,
R238); after a grant it is ignored (R251). -/
def State.nakIn (s : State) (p : Nat) (n : BitVec 12) : State :=
  if (s.port p).granted.isSome then s
  else
    match (s.port p).span n with
    | none => s.protoErr p
    | some d =>
      let s := s.modPort p (fun q =>
        { q with
          replay := q.replay.drop d,
          nakRepeats := if q.nakSeq = some n then q.nakRepeats + 1 else 1,
          nakSeq := some n })
      let s := (s.replayAll p).drainPort p
      if 8 ≤ (s.port p).nakRepeats then s.wantRetrain p else s

/-- `NAK`: a negative acknowledgement arrives (R237, R238). -/
def execNak (port : Fin 32) (env : Envelope) (seq : BitVec 12) (s : State) : Answer :=
  .next (s.control port env (fun s => s.nakIn port seq))

/-- `NAK_RESEND`: `NAK_RESEND_US` has passed in NAK-pending without an accepted cell (R234). -/
def execNakResend (port : Fin 32) (s : State) : Answer :=
  .next (if s.receiving port ∧ (s.port port).nakPending then s.sendCell port (.nak (s.port port).eseq) else s)

/-- `ACK_TIMER`: an accepted cell is 1 µs old and not acknowledged, or an `ACKREQ` is due (R236). -/
def execAckTimer (port : Fin 32) (s : State) : Answer :=
  .next (if s.receiving port ∧ (0 < (s.port port).unacked ∨ (s.port port).ackDue) then s.sendAck port else s)

/-- `STATE` of the keep-alive (R239). -/
def ZlPort.keepState (q : ZlPort) : BitVec 8 :=
  if q.state = .widthChange then 1
  else if q.granted = some .retrain ∨ q.request = some .retrain then 2 else 0

/-- `KEEPALIVE_SEND`: 1 µs has passed (R239); the cell acknowledges as an `ACK` does (R236). -/
def execKeepaliveSend (port : Fin 32) (s : State) : Answer :=
  .next (if s.receiving port then
      let q := s.port port
      (s.modPort port (fun q => { q with unacked := 0, ackDue := false })).sendCell port
        (.keepalive q.eseq q.laneMask q.keepState q.trainId)
    else s)

/-- `KEEPALIVE`: a keep-alive arrives and acknowledges cells (R236, R239); its `LANES`, `STATE` and `TRAIN_ID` only tell. -/
def execKeepalive (port : Fin 32) (env : Envelope) (ackSeq : BitVec 12) (_lanes _state : BitVec 8) (_trainId : BitVec 32)
    (s : State) : Answer :=
  .next (s.control port env (fun s => s.ackUpTo port ackSeq))

/-- `LINK_DOWN`: the down timer has reached `LINK_DOWN_US` while it runs, or 500 µs have passed while it is stopped
(R240, R241); a link that is not up since it was last declared down has no such timer. -/
def execLinkDown (port : Fin 32) (s : State) : Answer :=
  .next (if (s.port port).state = .disabled ∨ (s.port port).fresh then s else s.linkDown port)

/-- `TRAINING_ATTEMPT`: every 10 ms a port that is down starts an attempt (R241, R243, R244); a port with `ROLE` 0 never
leaves Down. -/
def execTrainingAttempt (port : Fin 32) (s : State) : Answer :=
  .next (if ((s.port port).state = .down ∨ (s.port port).state = .disabled) ∧ s.portUsable port then
      s.modPort port (fun q => { q with state := .training })
    else s)

/-- `TRAINING_TIMEOUT`: a state of training overruns its limit; the port returns to Down (R243). -/
def execTrainingTimeout (port : Fin 32) (s : State) : Answer :=
  .next (match (s.port port).state with
    | .training | .align | .handshake | .retraining => s.modPort port (fun q => { q with state := .down })
    | _ => s)

/-- `ADAPTATION_DONE`: adaptation ends with the lanes marked usable; the port enters Align (R221, R243). -/
def execAdaptationDone (port : Fin 32) (tx rx : BitVec 8) (s : State) : Answer :=
  .next (match (s.port port).state with
    | .training | .retraining =>
      s.modPort port (fun q => { q with state := .align, usableTx := tx, usableRx := rx })
    | _ => s)

/-- Sends this end's `TRAIN` cell (R244). -/
def State.sendTrain (s : State) (p : Nat) : State :=
  let q := s.port p
  s.sendCell p (.train q.trainId q.usableTx q.usableRx (BitVec.ofNat 8 (s.lanesMin p)))

/-- `ALIGN_DONE`: codeword lock and deskew are done; the port enters Handshake and sends `TRAIN` (R243, R244). -/
def execAlignDone (port : Fin 32) (s : State) : Answer :=
  .next (if (s.port port).state = .align then
      (s.modPort port (fun q => { q with state := .handshake })).sendTrain port
    else s)

/-- The handshake of R242 and R244 with the peer's `TRAIN` cell. -/
def State.trainIn (s : State) (p : Nat) (peerId : BitVec 32) (peerTx peerRx peerMin : BitVec 8) : State :=
  let q := s.port p
  if peerId = q.trainId then
    let (n, s) := s.draw .trainId
    (s.modPort p (fun q => { q with trainId := BitVec.ofNat 32 n })).sendTrain p
  else
    let least := max (s.lanesMin p) peerMin.toNat
    match bestMask (q.usableRx &&& peerTx), bestMask (q.usableTx &&& peerRx) with
    | some rx, some tx =>
      if laneCount rx < least ∨ laneCount tx < least then s.modPort p (fun q => { q with state := .down })
      else s.linkUp p rx tx
    | _, _ => s.modPort p (fun q => { q with state := .down })

/-- `TRAIN`: a training handshake cell arrives (R242, R244). -/
def execTrain (port : Fin 32) (env : Envelope) (peerId : BitVec 32) (peerTx peerRx peerMin : BitVec 8) (s : State) : Answer :=
  .next (s.unsequenced port env (fun s =>
    if (s.port port).state = .handshake then s.trainIn port peerId peerTx peerRx peerMin else s))

/-- What the peer's `RETRAIN` cell asks (R245). -/
def linkReqOf (op mask : BitVec 8) : Option LinkReq :=
  if op = 1 then some (.width mask) else if op = 2 then some .retrain else none

/-- Grants a request, or answers one below `LANES_MIN` with a retrain request (R246, R251). A width change only narrows
(R245); a request for the mask on which this end sends already, whose grant was lost, is granted once more. -/
def State.considerGrant (s : State) (p : Nat) (r : LinkReq) : State :=
  match r with
  | .retrain => s.sendGrant p .retrain
  | .width m =>
    if ¬legalMasks.contains m then s
    else if laneCount m < s.lanesMin p then s.request p .retrain
    else if m = (s.port p).txMask then s.sendCell p ((s.port p).grantCell r)
    else if laneCount m < laneCount (s.port p).txMask then s.sendGrant p (.width m)
    else s

/-- `RETRAIN` as received: requests, grants, a request repeated for want of its grant, and the collision rule (R246–R248, R251); a grant is
taken whatever its `MASK` (notes/assumptions/91.md). -/
def State.retrainIn (s : State) (p : Nat) (op mask : BitVec 8) (peerId : BitVec 32) : State :=
  let q := s.port p
  match q.granted with
  | some g => if linkReqOf op mask = some g then s.sendCell p (q.grantCell g) else s
  | none =>
    if op = 3 then
      match q.request with
      | some r => s.modPort p (fun q => { q.grant r with request := none })
      | none => s
    else
      match linkReqOf op mask, q.request with
      | none, _ => s
      | some r, none => s.considerGrant p r
      | some r, some _ =>
        if q.trainId < peerId then s
        else (s.modPort p (fun q => { q with request := none, abandoned := true })).considerGrant p r

/-- `RETRAIN`: a request or a grant arrives (R245–R248). -/
def execRetrain (port : Fin 32) (env : Envelope) (op mask : BitVec 8) (peerId : BitVec 32) (s : State) : Answer :=
  .next (s.control port env (fun s => s.retrainIn port op mask peerId))

/-- `RETRAIN_REQUEST_REPEAT`: 1 µs without a grant (R246). -/
def execRetrainRequestRepeat (port : Fin 32) (s : State) : Answer :=
  .next (match (s.port port).request with
    | some r => if (s.port port).state = .up then s.sendRequest port r else s
    | none => s)

/-- The port enters Training for a retrain (R245, R248); its down timer is stopped (R240). -/
def State.enterRetrain (s : State) (p : Nat) : State :=
  (s.modPort p (fun q => { q with
    state := .retraining, laneMask := 0, granted := none, request := none, rxNext := none, timerStopped := true })).chooseSource

/-- The switch of a width change (R248, R249): this end's transmit direction moves; credits that a commit has made due go out first (R273),
and a `LANES_MIN` raised meanwhile is held against the new width (R251). The end enters NAK-pending at its own switch
(notes/assumptions/81.md). -/
def State.switchWidth (s : State) (p : Nat) (m : BitVec 8) : State :=
  let s := (s.modPort p (fun q => { q with
    state := .up, txMask := m, granted := none, request := none, nakPending := true, timerStopped := false,
    echoFloor := s.clk.poolTime })).replayAll p
  let s := if (s.port p).initDue then s.sendInit p else s
  (s.drainPort p).checkWidth p

/-- `WIDTH_SWITCH`: the switch after a grant (R248, R249). -/
def execWidthSwitch (port : Fin 32) (s : State) : Answer :=
  .next (match (s.port port).granted with
    | some (.width m) => s.switchWidth port m
    | some .retrain => s.enterRetrain port
    | none => s)

/-- Lanes whose corrected symbols passed the threshold (R250, R253). -/
def ZlPort.badLanes (q : ZlPort) (corrected : List Nat) : BitVec 8 :=
  if q.laneErrThr = 0 then 0
  else BitVec.ofNat 8 ((corrected.take 8).zipIdx.foldl
    (fun a e => if 4096 * q.laneErrThr.toNat < e.1 ∧ q.laneMask.getLsbD e.2 then a + 2 ^ e.2 else a) 0)

/-- `LANE_ERROR_INTERVAL`: a 1 ms interval ends with these corrected symbols on each receive lane (R224, R250). -/
def execLaneErrorInterval (port : Fin 32) (corrected : List Nat) (s : State) : Answer :=
  .next (if s.receiving port then
      let q := s.port port
      let s := s.bump (port / 4) 8 0x83 (port % 4) (corrected.take 8).sum
      let bad := q.badLanes corrected
      if bad = 0 then s
      else match bestMask (q.laneMask &&& ~~~bad) with
        | some m => if s.lanesMin port ≤ laneCount m then s.request port (.width m) else s
        | none => s
    else s)

/-- `SILENCE_TRAINING`: no valid cell for 2 µs; the port enters Training at once and its down timer runs on. Or (`peer`) the peer has done
so, and the port follows its training signals, as after a grant (R240, R250). -/
def execSilenceTraining (port : Fin 32) (peer : Bool) (s : State) : Answer :=
  .next (if ¬s.receiving port then s
    else if peer then s.enterRetrain port
    else (s.modPort port (fun q => { q with
      state := .training, laneMask := 0, request := none, granted := none, rxNext := none, timerStopped := false })).chooseSource)

/-- `ZL_RETRAIN_CMD`: `ZL_LINK_CTL.RETRAIN` (R253). -/
def execZlRetrainCmd (port : Fin 32) (s : State) : Answer := .next (s.request port .retrain)

/-- `NARROW` of `ZL_LINK_CTL` (R253). -/
def State.narrow (s : State) (p : Nat) (m : BitVec 8) : State :=
  if legalMasks.contains m ∧ s.lanesMin p ≤ laneCount m ∧ laneCount m < laneCount (s.port p).laneMask then
    s.request p (.width m) else s

/-- `ZL_NARROW_CMD`: `ZL_LINK_CTL.NARROW` with `NARROW_MASK` (R253). -/
def execZlNarrowCmd (port : Fin 32) (mask : BitVec 8) (s : State) : Answer :=
  .next ((s.modPort port (fun q => { q with narrowMask := mask })).narrow port mask)

/-- `CREDIT_RETURN_TIMER`: 500 ns after a cell left the buffer (R271). -/
def execCreditReturnTimer (port : Fin 32) (s : State) : Answer :=
  .next (if (s.port port).state = .up then (List.range 7).foldl (fun s v => s.returnCredits port v) s else s)

/-- `CREDIT_FALLBACK`: 100 µs have passed since link-up; a port in credit mode that has had no `CREDIT` cell falls back (R274). -/
def execCreditFallback (port : Fin 32) (s : State) : Answer :=
  .next (if s.receiving port ∧ s.fcMode port = 0 ∧ (s.port port).initOpen then
      if (s.port port).creditSeen ∨ (s.port port).fallback then s.modPort port (fun q => { q with initOpen := false })
      else (s.modPort port (fun q => { q with windowMode := true, fallback := true, initOpen := false })).drainPort port
    else s)

/-- A round-trip sample updates SRTT, RTTVAR and RTO (R282; the smoothing of RFC 6298 in whole ns). -/
def Flow.sample (f : Flow) (r : Nat) : Flow :=
  let (srtt, var) := match f.srtt with
    | none => (r, r / 2)
    | some s => ((7 * s + r) / 8, (3 * f.rttvar + (if s < r then r - s else s - r)) / 4)
  { f with srtt := some srtt, rttvar := var, rto := clampNat (srtt + 4 * var) 5000 1000000 }

/-- Packet `t` comes before `cum` among the packets outstanding (R281). -/
def before24 (t cum : BitVec 24) : Bool := decide (0 < (cum - t).toNat ∧ (cum - t).toNat ≤ 4096)

/-- The receiver holds packet `t` (R281). -/
def sacked (cum : BitVec 24) (sack : BitVec 64) (t : BitVec 24) : Bool :=
  let i := (t - cum).toNat
  decide (1 ≤ i ∧ i ≤ 64) && sack.getLsbD (i - 1)

/-- `SACK` bits set beyond packet `t` (R282). -/
def sackBeyond (cum : BitVec 24) (sack : BitVec 64) (t : BitVec 24) : Nat :=
  (List.range 64).countP (fun i => sack.getLsbD i && decide ((t - cum).toNat < i + 1))

/-- A transport acknowledgement of the flow toward `h` on `lvc` (R281, R282). -/
def State.tackIn (s : State) (h lvc : Nat) (cum : BitVec 24) (sack : BitVec 64) : State :=
  let f := s.flow h lvc
  let done := f.out.filter (fun o => before24 o.pkt.tseq cum)
  let f' := match (done.filter (fun o => !o.resent)).getLast? with
    | some o => f.sample (s.clk.now - o.sentAt)
    | none => f
  let s := s.modFlow h lvc (fun _ => { f' with out := f.out.filter (fun o => !before24 o.pkt.tseq cum) })
  let due := (s.flow h lvc).out.filter (fun o =>
    !sacked cum sack o.pkt.tseq && decide (3 ≤ sackBeyond cum sack o.pkt.tseq)
      && (match o.sackAt with | none => true | some t => decide (t + (f'.srtt.getD f'.rto) ≤ s.clk.now)))
  let s := due.foldl (fun s o =>
    (s.modFlow h lvc (fun f =>
      { f with
        out := f.out.map (fun x => if x.pkt.tseq == o.pkt.tseq then { x with sackAt := some s.clk.now } else x) })).resend
      h lvc o.pkt.tseq) s
  s.drainHost h

/-- `TRANSPORT_ACK`: a transport acknowledgement from a host or a pairs peer; `ALVC` 6 and above are reserved and change nothing (R281). -/
def execTransportAck (src : BitVec 12) (alvc : BitVec 8) (cum : BitVec 24) (sack : BitVec 64) (s : State) : Answer :=
  .next (if alvc.toNat < 6 ∧ isEndpoint src.toNat ∧ ¬(s.host src.toNat).dead then s.tackIn src.toNat alvc.toNat cum sack else s)

/-- `TRANSPORT_ACK_TIMER`: 1 µs after a packet of a flow was received (R281). -/
def execTransportAckTimer (src : BitVec 12) (lvc : Fin 6) (s : State) : Answer :=
  .next (if 0 < (s.flow src.toNat lvc).ackOwed ∧ ¬(s.host src.toNat).dead then s.sendTack src.toNat lvc else s)

/-- `RTO_EXPIRY`: the timer of a packet expires; it is retransmitted and RTO doubles to at most 1 ms (R282). The timer
does not run while traffic is held and the path's link is not Up (R289). -/
def execRtoExpiry (dst : BitVec 12) (lvc : Fin 6) (tseq : BitVec 24) (s : State) : Answer :=
  .next (if (s.flow dst.toNat lvc).out.any (fun o => o.pkt.tseq == tseq)
        ∧ ¬(s.host dst.toNat).dead ∧ ¬(s.holding ∧ ¬s.receiving (s.txPort dst.toNat)) then
      (s.modFlow dst.toNat lvc (fun f => { f with rto := min 1000000 (2 * f.rto) })).resend dst.toNat lvc tseq
    else s)

/-- Sends a path probe or a reply to one on port `p` (R285). -/
def State.sendProbe (s : State) (h p : Nat) (reply : Bool) (number : BitVec 32) : State :=
  let payload : BitVec 160 := BitVec.ofNat 160 ((if reply then 2 else 1) + number.toNat * 2 ^ 8)
  if s.sys.portsStopped then s
  else (s.emit (.probe (BitVec.ofNat 10 h) p reply number)).toPort p
    { ptype := 4, dst := BitVec.ofNat 12 h, lvc := 5, src := s.ownEndpoint, payload := payload,
      path := decide (s.route h true = p) }

/-- `PATH_PROBE_SEND`: the probe interval passes on a path whose link is Up; when the last three probes sent with packets outstanding
have gone unanswered the path is lost (R284, R286). -/
def execPathProbeSend (host : BitVec 10) (secondary : Bool) (s : State) : Answer :=
  let h := host.toNat
  let p := s.route h secondary
  .next (if p < 32 ∧ s.receiving p ∧ ¬(s.host h).dead then
      let x := (s.host h).path secondary
      let busy := (List.range 6).any (fun v => (s.flow h v).out.any (fun o => o.port == p))
      if 3 ≤ x.unanswered ∧ busy ∧ ¬x.lost ∧ ¬s.holding then s.losePath h secondary
      else
        (s.modHost h (fun y => y.setPath secondary (fun x =>
          { x with probe := x.probe + 1, unanswered := if busy then x.unanswered + 1 else 0 }))).sendProbe h p false (x.probe + 1)
    else s)

/-- A reply over port `p` to a probe sent since the link came up brings the path up (R284, R287, R288). -/
def State.probeReply (s : State) (h : Nat) (secondary : Bool) (number : BitVec 32) : State :=
  let x := (s.host h).path secondary
  let n := (number - x.since).toNat
  if n = 0 ∨ (x.probe - x.since).toNat < n then s
  else
    let s := s.modHost h (fun y => y.setPath secondary (fun x =>
      { x with probed := true, lost := false, unanswered := min x.unanswered (x.probe - number).toNat }))
    if (s.host h).allLost ∧ s.pathUp h secondary then
      (((s.modHost h (fun y => { y with allLost := false, onSecondary := secondary })).resendAll h (fun _ => true)).drainHost h)
    else s

/-- `PATH_PROBE`: a probe is answered over its port; a reply marks its path up (R285). Other `PKIND` values are reserved
and change nothing. -/
def execPathProbe (port : Fin 32) (host : BitVec 10) (pkind : BitVec 8) (number : BitVec 32) (s : State) : Answer :=
  let h := host.toNat
  .next (if ¬s.receiving port ∨ s.role port = 2 ∨ (s.host h).dead then s
    else if pkind = 1 then s.sendProbe h port true number
    else if pkind = 2 then
      let s := if s.route h false = port then s.probeReply h false number else s
      if s.route h true = port then s.probeReply h true number else s
    else s)

/-- `PATH_HOLD_EXPIRY`: the port has been out of Up for `PATH_HOLD_US`; a width change does not count (R286). -/
def execPathHoldExpiry (port : Fin 32) (s : State) : Answer :=
  .next (if s.receiving port then s else s.losePort port)

/-- `PRIMARY_RETURN`: the primary path has been up for 100 ms without interruption (R287). -/
def execPrimaryReturn (host : BitVec 10) (s : State) : Answer :=
  let h := host.toNat
  .next (if (s.host h).onSecondary ∧ s.pathUp h false ∧ ¬s.holding then
      (s.modHost h (fun x => { x with onSecondary := false, allLost := false })).drainHost h
    else s)

/-- The holding of traffic has ended: what waits goes out (R289). -/
def State.resumeTraffic (s : State) : State :=
  if s.holding then s
  else
    let s := (s.hosts.map (·.1)).foldl State.drainHost s
    (s.zl.map (·.1)).foldl State.drainPort s

/-- A write of `ZLF_CTL` (R298). -/
def State.zlfCtl (s : State) (hold : Bool) (reason : BitVec 2) (pathHoldUs : BitVec 10) : State :=
  ({ s with
    zlg := { s.zlg with
      hold := hold, holdReason := if reason = 3 then 0 else reason,
      pathHoldUs := BitVec.ofNat 10 (clampNat pathHoldUs.toNat 5 1000) } } : State).resumeTraffic

/-- `ZLF_HOLD`: a write of `ZLF_CTL` (R289, R298). -/
def execZlfHold (hold : Bool) (reason : BitVec 2) (pathHoldUs : BitVec 10) (s : State) : Answer :=
  .next (s.zlfCtl hold reason pathHoldUs)

/-- `ID_LOCK_SET`: a write of 1 to `ZLF_ID.ID_LOCK` (R299, R739). -/
def execIdLockSet (s : State) : Answer := .next { s with zlg := { s.zlg with idLock := true } }

/-- `BEACON_SEND`: a port that is Up sends its beacon (R292). -/
def execBeaconSend (port : Fin 32) (s : State) : Answer :=
  .next (if (s.port port).state = .up then
      let q := s.port port
      s.sendCell port (.beacon s.clk.poolTime q.peerTx
        (if q.peerTx = 0 then 0 else (s.clk.poolTime - q.peerAt).setWidth 32) s.zlg.stratum s.zlg.locked)
    else s)

/-- The offset of R293: peer time less own time, from a beacon received now. -/
def beaconOffset (tr tx echo : BitVec 64) (dwell : BitVec 32) : Int :=
  let delay : Int := ((tr.toNat : Int) - echo.toNat - dwell.toNat) / 2
  (tx.toNat : Int) + delay - tr.toNat

/-- A beacon is used for time (R293–R295); `launchPending` tells of a pending job launch. -/
def State.beaconIn (s : State) (p : Nat) (tx echo : BitVec 64) (dwell : BitVec 32) (stratum : BitVec 4)
    (launchPending : Bool) : State :=
  let tr := s.clk.poolTime
  let q := s.port p
  let s := s.modPort p (fun q => { q with peerTx := tx, peerAt := tr, peerStratum := stratum })
  if echo = 0 ∨ echo < q.echoFloor then s.chooseSource
  else
    let off := beaconOffset tr tx echo dwell
    let l := (q.offsets ++ [(⟨s.clk.now, off⟩ : OffsetSample)]).drop (q.offsets.length + 1 - 64)
    let s := (s.modPort p (fun q => { q with offsets := l })).chooseSource
    if s.zlg.source = 2 ∧ s.zlg.sourcePort.toNat = p then (s.updateLock l 64).correct off launchPending else s

end Sys2Proof.Machine
end

