-- ==== Sys2Proof/Machine/Pins.lean ====
section
/-! DEFINITION. Pins.lean: the meanings of the resets, start-up, the clocks, deep sleep, the SYNC pins and the beacon (chapters "Pins,
Start-Up and Reset" and "Power, Feeds and Energy-Aware Scheduling"). -/
namespace Sys2Proof.Machine
open Sys2Proof

/-- Changes the SYS block. -/
def State.modSys (s : State) (f : Sys → Sys) : State := { s with sys := f s.sys }

/-! ### Resets of the package (R781, R789, R790, R802) -/

/-- `POWER_ON`: a feed rises above 9 V while both were below (R789). -/
def execPowerOn (feedA feedB : Bool) (s : State) : Answer :=
  .next (if (s.sys.phase = .unpowered ∨ (¬s.pwr.feedAOk ∧ ¬s.pwr.feedBOk)) ∧ (feedA ∨ feedB) then
      (s.powerOn feedA feedB).modSys (fun x => { x with resetLow := true })
    else s)

/-- `PACKAGE_RESET`: `RESET_N` is low for 1 µs or more (R781, R790). -/
def execPackageReset (s : State) : Answer :=
  .next (if s.sys.phase = .unpowered then s else (s.packageReset 1).modSys (fun x => { x with resetLow := true }))

/-- The housekeeping domain runs: the part is powered, out of reset and awake (R778, R784). -/
def State.running (s : State) : Bool := match s.sys.phase with | .unpowered | .inReset | .sleeping => false | _ => !s.pwr.shutOff

/-- `LAST_CAUSE` of a write of `SYS_RESET` by a path (R802). -/
def resetCause : Path → BitVec 3
  | .firmware => 6
  | .kmp _ => 2
  | .i3c => 3
  | .jtag => 4

/-- The path may write the SYS block: firmware, an operator session, I3C, and JTAG where it reaches the registers (R730, R802). -/
def State.maySys (s : State) (p : Path) : Bool :=
  match p with
  | .firmware | .i3c => true
  | .jtag => s.jtagAllowed
  | .kmp _ => (s.pathUsage p).getLsbD 0

/-- `PACKAGE_RESET_CMD`: a write of `SYS_RESET` with `OP` 1 (R802). In the fatal state it acts over I3C and JTAG alone, since KMP serves
no write then. -/
def execPackageResetCmd (path : Path) (s : State) : Answer :=
  .next (if s.maySys path ∧ s.running then
      s.packageReset (resetCause path) else s)

/-! ### Start-up (R792–R794, R81) -/

/-- Start-up stops at a step (R794). -/
def State.halt (s : State) (step : BitVec 4) (hub : Fin 8) (unit : BitVec 6) : State :=
  s.modSys (fun x => { x with phase := .halted, step := step, haltHub := BitVec.ofNat 3 hub.val, haltUnit := unit })

/-- What a reset in a health window makes of the slot record (R79): the return, or, where the previous slot is empty, `HEALTH_FAIL` in a
window that stays open. -/
def Si.resetInWindow (y : Si) : Si :=
  if ¬y.healthMark ∨ y.awaiting then { y with healthAt := none, mgmtSeen := false }
  else if y.prev.isSome then y.turnedBack 4
  else { y with state := .health, healthFail := true }

/-- The slot record as start-up leaves it: the current image where it verifies, else the previous one, else none (R79, R81). A slot
whose image does not verify is dropped for good, and with it, where it was the current one, its window (DESIGN CHOICE,
notes/assumptions/62.md). -/
def Si.loaded (y : Si) (verifies : SiImage → Bool) : Si :=
  if y.cur.any verifies then { y with prev := y.prev.filter verifies }
  else if y.prev.any verifies then { y with cur := y.prev, prev := none, awaiting := false, returned := true }
  else { y with state := .idle, cur := none, prev := none, awaiting := false, healthMark := false, healthAt := none }

/-- Start-up loads an image, with the window's record as the reset leaves it (R79, R81). -/
def State.loadSlots (s : State) : State :=
  let y := s.si.resetInWindow.loaded s.siVerifies
  { s with si := { y with commitTime := if y.awaiting then s.clk.poolTime else y.commitTime } }

/-- The first stack channel that fails its training (R562). -/
def State.stackFail (s : State) (f : StartUpFacts) : Option (Nat × Nat) :=
  (s.presentHubs.flatMap (fun h => (List.range 32).map (fun c => (h, c)))).find? (fun x =>
    (trainLanes x.2 3 (SMap.getD f.training (x.1 * 64 + x.2) [])).isNone)

/-- Step 5 of R792: every stack channel is trained. -/
def State.startStep5 (s : State) (f : StartUpFacts) : State :=
  s.presentHubs.foldl (fun s h => (List.range 32).foldl (fun s c =>
    s.trainChan h c (SMap.getD f.training (h * 64 + c) []) .failed) s) s

/-- Step 6 of R792 on one deep channel: its DIMMs are read and checked, and it trains at DDR5-6400; it is usable when both succeed. -/
def State.startDeep (s : State) (f : StartUpFacts) (d : DimmInfo) : State :=
  if ¬s.hubPresent d.hub then s
  else s.modChan d.hub (32 + d.channel) (fun x => { x.populated d.dimms with
    usable := populationOk d.dimms && (trainLanes (32 + d.channel) 3 (SMap.getD f.training (d.hub * 64 + 32 + d.channel) [])).isSome })

/-- The pending deep repairs for which a device has a resource left are made (R609, R792). -/
def State.makeHppr (s : State) (spent : List HpprAt) : State :=
  { s with integ := { s.integ with
      hpprSpent := spent,
      rlog := s.integ.rlog.map (fun e =>
        if e.kind = 3 ∧ s.hubPresent e.hub.toNat ∧ ¬spent.contains ⟨e.hub, e.channel, e.rank, e.device, e.bank.toNat / 4⟩
        then { e with kind := 4 } else e) } }

/-- An enabled deep channel that did not train at `DEEP_SPEED` has its record (R792, R611). -/
def State.noteFailed (s : State) : State :=
  (s.presentHubs.flatMap (fun h => [(h, 32), (h, 33)])).foldl (fun s x =>
    if (s.chan x.1 x.2).state = .failed then
      s.logError { type := 0x0B, hub := BitVec.ofNat 8 x.1, channel := BitVec.ofNat 8 x.2, dpa := BitVec.ofNat 64 (s.rankBase x.1 x.2 0) }
    else s) s

/-- Steps 5 to 7 of R792: memory is trained, the image is loaded, and steps 8 and 9 begin. -/
def State.startMemory (s : State) (f : StartUpFacts) : State :=
  let s := f.dimms.foldl (fun s d => s.startDeep f d) (s.startStep5 f)
  let s := s.loadSlots.modSys (fun x => { x with phase := .starting, step := 8, filling := true })
  let s := ((s.applyImage s.si.cur f.atSpeed).noteFailed).makeHppr f.hpprSpent
  s.serviceHubs.foldl State.firstUse s

/-- A present hub without its 100 MHz reference (R783). -/
def State.noRef (s : State) : Option (Fin 8) := (List.finRange 8).find? (fun h => s.hubPresent h.val && !(s.hub h.val).refclkOk)

/-- `RESET_N` has risen: the straps are sampled (R792). -/
def State.startBegins (s : State) (f : StartUpFacts) : State :=
  { s with
    sys := { s.sys with resetLow := false, ethMedium := f.ethMedium, i3cPid := f.i3cPid },
    jtag := { s.jtag with driving := false } }

/-- Step 1 of R792 has ended: every PLL is locked. -/
def State.startStep1 (s : State) : State := s.presentHubs.foldl (fun s h => s.modHub h (fun x => { x with pllLock := true })) s

/-- Step 2 of R792 has ended: the security processor runs from the bank that verified, and serves under the base image (R82). -/
def State.startStep2 (s : State) (f : StartUpFacts) : State :=
  { s with
    fw := { s.fw with spDown := false, spBank := if f.spBank then s.fw.spBank else !s.fw.spBank },
    eff := SMap.set s.eff Sect.fabric.id (SMap.getD s.baseSections Sect.fabric.id []) }

/-- Step 3 of R792 has ended: every hub controller runs, from the bank that verified. -/
def State.startStep3 (s : State) (f : StartUpFacts) : State :=
  let s := s.modFw (fun w => { w with hcBank := w.hcBank ^^^ f.hcOther })
  s.presentHubs.foldl (fun s h => s.modHub h (fun x => { x with hcRunning := true })) s

/-- Step 4 of R792: each bridge trains afresh, or does not (R35). -/
def State.startStep4 (s : State) (f : StartUpFacts) : State :=
  s.modSys (fun x => { x with bridges := s.bridges.filterMap (fun b => (bridgeTraining f b).map (fun t => (b, t))) })

/-- Start-up may run: the part is in reset and powered (R792). -/
def State.mayStart (s : State) : Bool := s.sys.phase == .inReset && (s.pwr.feedAOk || s.pwr.feedBOk)

/-- `START_UP`: `RESET_N` is high and steps 1 to 7 run in order, or start-up halts at the first that fails (R792, R794, R783). -/
def execStartUp (f : StartUpFacts) (s : State) : Answer :=
  .next (if ¬s.mayStart then s
    else
      let s := s.startBegins f
      match f.pllFail.orElse (fun _ => s.noRef) with
      | some h => s.halt 1 h 0
      | none =>
        let s := s.startStep1
        if ¬f.spBank ∧ ¬f.spOther then s.halt 2 0 0
        else
          let s := s.startStep2 f
          match f.hcFail with
          | some h => s.halt 3 h 0
          | none =>
            let s := s.startStep3 f
            let s := s.startStep4 f
            match s.bridgeFail f with
            | some (h, b) => s.halt 4 h b
            | none =>
              match s.stackFail f with
              | some (h, c) => s.halt 5 (Fin.ofNat 8 h) (BitVec.ofNat 6 c)
              | none => (s.startMemory f).fwGo)

/-- Step 8 of R792: the spare slots and ranks are filled, and the first patrol pass begins (R601, R605). -/
def State.fillSpares (s : State) : State :=
  s.serviceHubs.foldl (fun s h =>
    let s := (s.memHub h).sparesFree.foldl (fun s i => s.fillSlot (h * 8192 + i) 0 128) s
    let s := [32, 33].foldl (fun s c => s.modChan h c (fun x => { x with spareInit := x.spareSet })) s
    s.modMemHub h (fun m => { m with scrubActive := true, progress := 0 })) s

/-- The health window opens when an image awaits reset (R78). -/
def State.openHealth (s : State) : State :=
  if s.si.awaiting then
    s.modSi (fun x => { x with awaiting := false, state := .health, healthMark := true, healthAt := some s.clk.now, mgmtSeen := false })
  else s

/-- `START_UP_END`: steps 8 and 9 have ended (R793). -/
def execStartUpEnd (s : State) : Answer :=
  .next (if s.sys.phase ≠ .starting ∨ ¬s.sys.filling ∨ s.fatal then s
    else
      let s := s.modSys (fun x => { x with phase := .awake, step := 0, done := true, filling := false })
      let s := (s.presentHubs.foldl State.laySlots s).fillSpares.openHealth
      ({ s with
        zlg := { s.zlg with startup := false } } : State).resumeTraffic)

/-! ### Clocks (R783) -/

/-- Every link of a hub goes down. -/
def State.hubLinksDown (s : State) (h : Nat) : State :=
  let s := [4 * h, 4 * h + 1, 4 * h + 2, 4 * h + 3].foldl (fun s p => if (s.port p).state = .disabled then s else s.linkDown p) s
  if h < 2 then s.ethDown (h == 1) else s

/-- `REFCLK_LOSS` (R783): start-up halts at step 1, or the part is lost. -/
def execRefclkLoss (hub : Fin 8) (s : State) : Answer :=
  .next (if ¬s.hubPresent hub then s
    else
      let s := s.modHub hub (fun x => { x with refclkOk := false, pllLock := false })
      match s.sys.phase with
      | .starting | .awake | .waking => s.goFatal
      | _ => s)

/-- `SDS_REFCLK_LOSS` (R783). -/
def execSdsRefclkLoss (hub : Fin 8) (s : State) : Answer :=
  .next (if ¬s.hubPresent hub then s else (s.modHub hub (fun x => { x with sdsRefclkOk := false })).hubLinksDown hub)

/-- `SDS_REFCLK_RETURN` (R783). -/
def execSdsRefclkReturn (hub : Fin 8) (s : State) : Answer :=
  .next (if ¬s.hubPresent hub then s else s.modHub hub (fun x => { x with sdsRefclkOk := true }))

/-- `CLK32K_LOSS` (R783). -/
def execClk32kLoss (s : State) : Answer := .next (s.modSys (fun x => { x with clk32kLost := true }))

/-- `CLK32K_RETURN` (R783). -/
def execClk32kReturn (s : State) : Answer := .next (s.modSys (fun x => { x with clk32kLost := false }))

/-! ### Partial reset of a hub (R796–R798) -/

/-- The lifts that touch a hub are abandoned with its lift engine (R576). -/
def State.hubLifts (s : State) (h : Nat) (m : Medium) : State :=
  (s.lift.queue.filter (fun j => extentHub (j.src.toNat, (s.extents.get? j.src.toNat).getD { cls := 0 }) h
      || extentHub (j.dest.toNat, (s.extents.get? j.dest.toNat).getD { cls := 0 }) h)).foldl (fun s j => s.liftDrop j 12 m) s

/-- The ports of a hub return to their reset values but for `ZL_LINK_CTL` and the training ID (R798). -/
def State.resetPorts (s : State) (h : Nat) : State :=
  let s := s.hubLinksDown h
  let s := [4 * h, 4 * h + 1, 4 * h + 2, 4 * h + 3].foldl (fun s p => s.modPort p (fun q =>
    { trainId := q.trainId, narrowMask := q.narrowMask, nakResendUs := q.nakResendUs, laneErrThr := q.laneErrThr,
      state := if q.state = .disabled then .disabled else .down,
      -- R274: the mode that `FC_MODE` selects
      windowMode := s.fcMode p == 1 })) s
  if h < 2 then s.modEth (h == 1) (fun p => { limitMs := p.limitMs, addr := p.addr, isStatic := p.isStatic, prefix_ := p.prefix_ })
  else s

/-- A channel that a partial reset has placed in self-refresh: its registers at their reset values but for `MEM_CTL` (R797, R798). -/
def MemChan.partReset (x : MemChan) : MemChan :=
  if x.state = .disabled ∨ x.state = .failed then x
  else { x with thermal := false, tempC := 0, trainedC := none, delays := [], minEye := 0, minLane := 0, minWrite := false,
                retrains := 0, failures := 0, suspects := [], recent := [] }

/-- A partial reset places the channels of a hub in self-refresh (R578, R579, R797). -/
def State.chansReset (s : State) (h : Nat) : State :=
  (List.range 34).foldl (fun s c =>
    let x := (s.chan h c).state
    let s := if x = .disabled ∨ x = .failed ∨ x = .selfRefresh then s else s.srEnter h c
    s.modChan h c MemChan.partReset) s

/-- The phases Entry and Reset of R797: what the hub holds is reset, but for its directory, home atomic unit and memory. -/
def State.enterPartial (s : State) (h : Nat) (trig : BitVec 2) (m : Medium) : State :=
  let s := s.modSys (fun x => { x with
    hrHub := if trig = 1 then BitVec.ofNat 3 h else x.hrHub, hrGo := true, hrLastHub := BitVec.ofNat 3 h, hrLastTrig := trig })
  let s := s.modHub h (fun x => { x with phase := .reset, hcRunning := false })
  let s := s.shootLeave h
  -- a gate fault of the reset is recorded after the registers have taken their reset values (R487)
  let s := ((({ s with slg := s.slg.erase h } : State).jobsReset h).hubLifts h m).resetPorts h
  let s := s.chansReset h
  let s := if h = 0 then s.endSessions (fun _ => true) else s
  let s := ((s.queues.map (·.1)).filter (fun q => q / 2048 == h)).foldl (fun s q => s.queueInit q 0) s
  { s with
    clus := (List.range 14).foldl (fun c k => c.set (h * 16 + k) { stopped := true }) s.clus,
    queHubs := s.queHubs.erase h,
    trn := s.trn.set h { holdLimitMs := (s.trnHub h).holdLimitMs },
    cohHubs := s.cohHubs.erase h,
    memHubs := s.memHubs.mod h {} (fun x =>
      { scrubHours := x.scrubHours, ceRowThr := x.ceRowThr, rowsUsed := x.rowsUsed, colsUsed := x.colsUsed,
        sparesFree := x.sparesFree, sparesLent := x.sparesLent }),
    integ := { s.integ with
      retrainQueue := s.integ.retrainQueue.filter (fun e => e.2.1 != h),
      retrainNow := if s.integ.retrainNow.any (fun e => e.1 == h) then none else s.integ.retrainNow },
    traceUnits := s.traceUnits.keep (fun k => k / 64 != h),
    traceHubs := s.traceHubs.mod h {} (fun t => { minWaitNs := t.minWaitNs, cluStep := t.cluStep }),
    counters := s.counters.keep (fun k => k / 2 ^ 32 != h), cntGroups := s.cntGroups.keep (fun k => k / 256 != h),
    mbx := (s.mbx.keep (fun k => k / 256 % 8 != h || k % 256 == 1 || (s.mbx.getD k {}).busy)).mapVals (fun k x =>
      if k / 256 % 8 = h ∧ k % 256 ≠ 1 then { err := 5, idEcho := x.id } else x),
    trig := if s.exportHub = h then { s.trig with head := 0, tail := 0, region := [] } else s.trig,
    sels := s.sels.mapVals (fun _ x => { x with que := x.que.erase h, memCh := x.memCh.erase h }),
    pwrHubs := s.pwrHubs.mod h {} (fun p => { p with charges := [], switchovers := 0, trips := 0 }) }

/-- The reasons for which a command to reset a hub is refused (R796). -/
def State.partialBarred (s : State) (h : Nat) : Bool :=
  s.sys.hrGo || s.sys.phase != .awake || s.si.state == .quiescing || s.si.state == .returning
    || s.fw.phase == 2 || decide (4 ≤ s.fw.phase.toNat) || s.ten.state == .ending || s.ten.state == .resurfacing || !s.hubPresent h

/-- A write of `SYS_HUB_RESET` with `GO` (R796, R803). -/
def State.hubReset (s : State) (h : Nat) (m : Medium) : State :=
  if s.partialBarred h then s.modSys (fun x => { x with hrHub := BitVec.ofNat 3 h, hrResult := 2 })
  else s.enterPartial h 1 m

/-- `HUB_PARTIAL_RESET` (R796). -/
def execHubPartialReset (path : Path) (hub : Fin 8) (med : Medium) (s : State) : Answer :=
  .next (if s.maySys path ∧ ¬s.fatal then s.hubReset hub med else s)

/-- A hub controller has stopped: a confirmation under way fails with it (R719), and the hub is reset, or waits for the reset in
progress (R796). -/
def State.watchdog (s : State) (h : Nat) (m : Medium) : State :=
  let s := if s.fw.phase = 5 then s.fwReturn 11 [] else s
  if s.sys.hrWaiting.contains h then s
  else if s.sys.hrGo then s.modSys (fun x => { x with hrWaiting := x.hrWaiting ++ [h] }) else s.enterPartial h 2 m

/-- `HUB_WATCHDOG`: no heartbeat for 100 ms from a controller that ought to run (R796). -/
def execHubWatchdog (hub : Fin 8) (med : Medium) (s : State) : Answer :=
  .next (if s.hubPresent hub ∧ (s.hub hub).hcRunning ∧ (s.hub hub).phase = .none ∧ ¬s.fatal
      ∧ (s.sys.phase = .awake ∨ s.sys.phase = .starting ∨ s.sys.phase = .waking) then s.watchdog hub med
    else s)

/-- `PARTIAL_RESET_RESTART`: the controller starts, channels leave self-refresh and train from the full sweep, ports may train (R561, R797,
R662, R720). A channel that does not train stays out of service, and its hub does not return. -/
def execPartialResetRestart (hub : Fin 8) (training : SMap (List (List LaneSweep))) (s : State) : Answer :=
  let h := hub.val
  .next (if (s.hub h).phase ≠ .reset ∨ s.fatal then s
    else
      let s := s.modHub h (fun x => { x with phase := .restart, hcRunning := true })
      let s := ((List.range 34).filter (fun c => (s.chan h c).state == .selfRefresh)).foldl (fun s c =>
        (s.srExit h c).trainChan h c (training.getD (h * 64 + c) []) .training) s
      let s := (s.firstUse h).chanSkip h
      match s.fw.restart with
      | some r => if r.hub = some h then s.modFw (fun f => { f with restart := some { r with since := s.clk.now } }) else s
      | none => s)

/-- `PARTIAL_RESET_RETURN`: the hub serves again and what was held for it is delivered (R797); a watchdog that waited comes next. -/
def execPartialResetReturn (hub : Fin 8) (med : Medium) (s : State) : Answer :=
  let h := hub.val
  .next (if (s.hub h).phase ≠ .restart ∨ s.fatal ∨ (List.range 34).any (fun c => (s.chan h c).state == .training) then s
    else
      let s := s.modHub h (fun x => { x with phase := .none })
      let s := s.modSys (fun x => { x with hrGo := false, hrResult := 1 })
      let s : State := { s with
        clus := (List.range 14).foldl (fun c k => SMap.mod c (h * 16 + k) {} (fun x => { x with stopped := false })) s.clus }
      let s := ((s.deliverHeld h med).tagHeads h).cohEnd med
      match s.sys.hrWaiting with
      | g :: r => (s.modSys (fun x => { x with hrWaiting := r })).enterPartial g 2 med
      | [] => s)

/-- `PARTIAL_RESET_OVERRUN` (R797). -/
def execPartialResetOverrun (hub : Fin 8) (s : State) : Answer :=
  .next (if (s.hub hub).phase = .none then s else s.goFatal)

/-! ### Fatal faults (R37, R38, R43) -/

/-- `BRIDGE_PARITY_ERROR`: the groups that the bridge switches receive in one bridge cycle; a parity error on a trained bridge is fatal,
and the receiving hub of the error that R38 selects writes its record (R36–R38, R43). A record held from before the last package reset
is overwritten (DEDUCED from R37, notes/assumptions/54.md). Errors after the fatal fault set `MULTI` of its record alone. -/
def execBridgeParityError (groups : List BridgeGroup) (s : State) : Answer :=
  .next (match s.bridgeErrors groups with
    | [] => s
    | x :: r =>
      let e := x.first r
      if s.fatal then
        match s.sys.bridgeHub with
        | some h => s.modHub h (fun y => { y with bridgeLog := { y.bridgeLog with multi := true } })
        | none => s
      else
        ((s.modHub e.rxHub.toNat (fun y => { y with bridgeLog := { e with multi := !r.isEmpty } })).modSys
          (fun y => { y with bridgeHub := some (Fin.ofNat 8 e.rxHub.toNat) })).goFatal)

/-- `FATAL_PORT_STOP`: 100 µs after the fatal fault every port has stopped transmitting (R37); after a fatal temperature the regulators go
off (R644). -/
def execFatalPortStop (s : State) : Answer :=
  .next (if s.fatal then
      ({ s with pwr := { s.pwr with shutOff := s.pwr.overTemp } } : State).modSys (fun x => { x with portsStopped := true })
    else s)

/-! ### Deep sleep (R657–R661) -/

/-- The reasons for which deep sleep is refused (R659, R783). -/
def State.sleepBarred (s : State) : Bool :=
  s.epochOpen || !s.jobs.isEmpty || s.si.state != .idle || s.fwBusy || !s.lift.queue.isEmpty || !s.integ.migrations.isEmpty
    || s.integ.retrainNow.isSome || s.sys.clk32kLost || s.sys.phase != .awake

/-- `PWR_CMD` `OP` 4 (R659). -/
def State.sleep (s : State) : State :=
  if s.sleepBarred then { s with pwr := { s.pwr with cmdResult := 2 } }
  else
    let s : State := { s with pwr := { s.pwr with cmdResult := 1 }, zlg := { s.zlg with locked := false, meanInSince := none } }
    let s := s.presentHubs.foldl State.hubLinksDown s
    let s := s.presentHubs.foldl (fun s h => (List.range 34).foldl (fun s c =>
      if (s.chan h c).state = .inService then s.srEnter h c else s) s) s
    s.modSys (fun x => { x with phase := .sleeping, wake := false })

/-- `DEEP_SLEEP` (R659). -/
def execDeepSleep (s : State) : Answer := .next (if s.fatal then s else s.sleep)

/-- The part wakes; traffic is held until its ports are up (R660, R645, R807). -/
def State.wakeUp (s : State) (cause : BitVec 2) : State :=
  if s.sys.phase ≠ .sleeping then s
  else
    let s := s.modSys (fun x => { x with phase := .waking, wake := false, lastWake := cause })
    let s := s.presentHubs.foldl (fun s h => (List.range 34).foldl (fun s c => s.srExit h c) s) s
    s.serviceHubs.foldl State.firstUse { s with zlg := { s.zlg with startup := true } }

/-- `WAKE`: `WAKE_N` falls, or the real-time clock has reached the alarm (R660, R781). -/
def execWake (cause : WakeCause) (s : State) : Answer :=
  .next (match cause with
    | .pin => s.wakeUp 1
    | .alarm => if s.clk.rtc = s.clk.rtcAlarm ∧ s.clk.rtcAlarm ≠ 0 then s.wakeUp 2 else s)

/-- `WAKE_COMMAND`: a write of 1 to `SYS_WAKE.WAKE`, which only I3C reaches in sleep (R807). -/
def execWakeCommand (path : Path) (s : State) : Answer := .next (if path = .i3c then s.wakeUp 3 else s)

/-- `WAKE_COMPLETE`: the ports are up again (R660). -/
def execWakeComplete (s : State) : Answer :=
  .next (if s.sys.phase = .waking ∧ ¬s.fatal then
      ({ (s.modSys (fun x => { x with phase := .awake })) with zlg := { s.zlg with startup := false } } : State).resumeTraffic
    else s)

/-- An edge of the always-on clock: the real-time clock counts, an alarm that waits takes effect and the copies are made afresh (R657,
R738). -/
def State.aonEdge (s : State) : State :=
  { s with clk := { s.clk with
      rtc := s.clk.rtc + 1, rtcAlarm := s.clk.alarmPending.getD s.clk.rtcAlarm, alarmPending := none,
      copy := { feedAOk := s.pwr.feedAOk, feedBOk := s.pwr.feedBOk, sleeping := decide (s.sys.phase = .sleeping),
                lastWake := s.sys.lastWake, clk32kLost := s.sys.clk32kLost } } }

/-- `SLEEP_TICK`: pool time advances by 30,518 ns on 37 ticks of every 64, and by 30,517 ns on the others (R658). -/
def execSleepTick (s : State) : Answer :=
  .next (if s.sys.phase = .sleeping then
      let n := if s.clk.rtc.toNat % 64 < 37 then 30518 else 30517
      ({ s with clk := { s.clk with now := s.clk.now + n, poolTime := s.clk.poolTime + BitVec.ofNat 64 n } } : State).aonEdge
    else s)

/-- `SLEEP_FEED_LOSS`: a feed falls below 9 V in sleep; without either the contents of memory are lost (R661). -/
def execSleepFeedLoss (feedB : Bool) (s : State) : Answer :=
  .next (if s.sys.phase ≠ .sleeping then s
    else
      let s : State := { s with pwr := if feedB then { s.pwr with feedBOk := false } else { s.pwr with feedAOk := false } }
      if s.pwr.feedAOk ∨ s.pwr.feedBOk then s
      else { (s.modSys (fun x => { x with phase := .unpowered, bridges := [] })) with mem := [], lineMeta := [], units := [] })

/-! ### SYNC pins (R785, R786) and beacons (R293) -/

/-- Pool time takes part in no launch that waits (R295). -/
def State.launchWaits (s : State) : Bool := s.jobs.any (fun j => j.2.launch.isSome)

/-- `SYNC_IN` unlocks after two frames that are missing or wrong (R786); the offsets of frame edges before that count no more (R295). -/
def State.syncMiss (s : State) : State :=
  let m := s.sys.sync.misses + 1
  let locked := s.sys.sync.locked && decide (m < 2)
  let s := s.modSys (fun x => { x with sync := { x.sync with good := 0, misses := m, locked := locked } })
  (if locked then s else { s with zlg := { s.zlg with syncOffsets := [] } }).chooseSource

/-- One step of the CRC-16 of R785 over one bit. -/
def crc16Step (c : BitVec 16) (b : Bool) : BitVec 16 := if c.msb != b then (c <<< 1) ^^^ 0x1021 else c <<< 1

/-- The CRC-16 of a SYNC frame that states time `t`: its bits are taken as the line carries them (R785, notes/assumptions/76.md). -/
def syncCrc (t : BitVec 64) : BitVec 16 := (List.range 64).foldl (fun c i => crc16Step c (t.getLsbD i)) 0xFFFF

/-- The 80 bits of a SYNC frame, bit 0 first on the line (R785). -/
def syncBits (t : BitVec 64) : BitVec 80 := syncCrc t ++ t

/-- `SYNC_FRAME`: a frame's 80 bits state the pool time of its edge and carry its CRC-16 (R785, R786, R294, R295). -/
def execSyncFrame (bits : BitVec 80) (s : State) : Answer :=
  let time : BitVec 64 := bits.setWidth 64
  let crcOk := bits == syncBits time
  .next (if ¬s.sys.sync.inEn ∨ ¬s.running then s
    else
      let x := s.sys.sync
      let dt := s.clk.now - x.lastEdge
      let good := crcOk && (match x.lastTime with
        | some t => time == t + 1000000 && decide (999900 ≤ dt ∧ dt ≤ 1000100)
        | none => false)
      let s := s.modSys (fun y => { y with sync := { y.sync with lastTime := if crcOk then some time else none, lastEdge := s.clk.now } })
      if ¬good then (if x.lastTime.isNone ∧ crcOk ∧ ¬x.locked then s else s.syncMiss)
      else
        let n := min 8 (x.good + 1)
        let s := s.modSys (fun y => { y with sync := { y.sync with good := n, misses := 0, locked := y.sync.locked || n == 8 } })
        let off : Int := ((time + x.delayNs.setWidth 64).toNat : Int) - s.clk.poolTime.toNat
        let l := (s.zlg.syncOffsets ++ [(⟨s.clk.now, off⟩ : OffsetSample)]).drop (s.zlg.syncOffsets.length + 1 - 8)
        let s := ({ s with zlg := { s.zlg with syncOffsets := l } } : State)
        if ¬s.sys.sync.locked then s
        else
          let s := s.chooseSource
          (s.updateLock l 8).correct off s.launchWaits)

/-- `SYNC_IN_MISSING` (R786). -/
def execSyncInMissing (s : State) : Answer :=
  .next (if s.sys.sync.inEn ∧ s.running then s.syncMiss.modSys (fun x => { x with sync := { x.sync with lastTime := none } }) else s)

/-- The pool time of the edge of a SYNC frame sent now: the last multiple of 1,000,000 ns (R785). -/
def State.syncEdge (s : State) : BitVec 64 := BitVec.ofNat 64 (s.clk.poolTime.toNat / 1000000 * 1000000)

/-- `SYNC_OUT_FRAME` (R785). -/
def execSyncOutFrame (s : State) : Answer :=
  .next (if s.sys.sync.outEn ∧ s.zlg.stratum < 15 ∧ s.running then s.emit (.syncOut (syncBits s.syncEdge)) else s)

/-- `BEACON` (R292, R293). -/
def execBeacon (port : Fin 32) (env : Envelope) (txTime echoTime : BitVec 64) (dwell : BitVec 32) (stratum : BitVec 4) (s : State) :
    Answer :=
  .next (s.control port env (fun s => s.beaconIn port txTime echoTime dwell stratum s.launchWaits))

end Sys2Proof.Machine
end

