-- ==== Sys2Proof/Machine/Eth.lean ====
section
/-! DEFINITION. Eth.lean: the meanings of the Ethernet frames, the RoCEv2 packets, KMP's own messages and PTP (chapter "Ethernet
Attachment and Management Transport"). -/
namespace Sys2Proof.Machine
open Sys2Proof

/-! ### Links (R302, R303, R339) -/

/-- A port can train: its clocks run, its hub is not in reset and the security processor has started (R303, R783, R792, R797). -/
def State.ethTrains (s : State) (e : Bool) : Bool :=
  let h := s.hub (b2n e)
  h.refclkOk && h.sdsRefclkOk && h.phase != .reset && !s.sys.portsStopped && s.hubPresent (b2n e)
    && (match s.sys.phase with
      | .starting | .awake | .waking => true
      | .halted => !s.spDown
      | _ => false)

/-- Sends a DHCP message of the part to a station, in `KMP_TC` (R307). -/
def State.dhcpSend (s : State) (e : Bool) (mac : BitVec 48) (request : Bool) : State :=
  s.sendFrame e { mac := mac, cls := BitVec.ofNat 3 (s.kmpTc e) } (.dhcp request)

/-- The Ethernet broadcast address. -/
def broadcast : BitVec 48 := 0xFFFFFFFFFFFF

/-- A port without an address that is not to have a static one asks for a lease (R307). -/
def State.dhcpStart (s : State) (e : Bool) : State :=
  if (s.ethPort e).isStatic ∨ (s.ethPort e).lease.isSome then s else s.dhcpSend e broadcast false

/-- `ETH_LINK_UP`: the link comes up in the mode that the port's FABRIC entry selects (R302, R303); without an address the port asks
for one (R307). -/
def execEthLinkUp (port : Bool) (s : State) : Answer :=
  let n := s.ethSpeed port
  .next (if ¬s.ethTrains port ∨ (n ≠ 1 ∧ n ≠ 2) then s
    else
      let s := s.modEth port (fun p => { p with linkUp := true, speedAct := BitVec.ofNat 2 n })
      s.dhcpStart port)

/-- `ETH_LINK_DOWN`: the port's traffic waits for retransmission (R339). -/
def execEthLinkDown (port : Bool) (s : State) : Answer := .next (s.ethDown port)

/-! ### Frames of the network layer (R304, R306, R307, R309) -/

/-- The IPv6 link-local address of modified EUI-64 form (R307). -/
def linkLocal (mac : BitVec 48) : BitVec 128 :=
  let m := mac.toNat
  BitVec.ofNat 128 (0xFE80 * 2 ^ 112 + Nat.xor (m / 2 ^ 24) 0x020000 * 2 ^ 40 + 0xFFFE * 2 ^ 24 + m % 2 ^ 24)

/-- The IPv4-mapped form of an address. -/
def mapped4 (a : BitVec 32) : BitVec 128 := BitVec.ofNat 128 (0xFFFF * 2 ^ 32 + a.toNat)

/-- The port owns an address. -/
def State.ownIp (s : State) (e : Bool) (ip : BitVec 128) : Bool :=
  ip == linkLocal (s.mac e) || (match (s.ethPort e).ipv4 with | some a => ip == mapped4 a | none => false)

/-- The frame of a reply: to the source of the request, in its VLAN and its class (R307, R308, notes/assumptions/70.md). -/
def replyFrame (f : EthFrame) (srcMac : BitVec 48) : TxFrame := { mac := srcMac, cls := f.cls, vlan := f.vlan }

/-- `ARP_REQUEST` (R307). -/
def execArpRequest (port : Bool) (frame : EthFrame) (srcMac : BitVec 48) (target : BitVec 32) (s : State) : Answer :=
  .next (s.withFrame port frame (fun s =>
    if s.ownIp port (mapped4 target) then s.sendFrame port (replyFrame frame srcMac) (.arpReply (mapped4 target)) else s))

/-- `NEIGHBOUR_SOLICITATION` (R307). -/
def execNeighbourSolicitation (port : Bool) (frame : EthFrame) (srcMac : BitVec 48) (target : BitVec 128) (s : State) : Answer :=
  .next (s.withFrame port frame (fun s =>
    if target = linkLocal (s.mac port) then s.sendFrame port (replyFrame frame srcMac) (.arpReply target) else s))

/-- `ECHO_REQUEST`: `target` is an IPv6 address, or an IPv4 address in mapped form (R307). -/
def execEchoRequest (port : Bool) (frame : EthFrame) (srcMac : BitVec 48) (target : BitVec 128) (payload : List Byte) (s : State) :
    Answer :=
  .next (s.withFrame port frame (fun s =>
    if s.ownIp port target then
      s.sendFrame port (replyFrame frame srcMac) (.echoReply (target == linkLocal (s.mac port)) payload)
    else s))

/-- `DHCP_MESSAGE` (R307). -/
def execDhcpMessage (port : Bool) (frame : EthFrame) (srcMac : BitVec 48) (msg : DhcpMsg) (s : State) : Answer :=
  .next (s.withFrame port frame (fun s =>
    if (s.ethPort port).isStatic then s
    else match msg with
      | .offer => if (s.ethPort port).lease.isSome then s else s.dhcpSend port broadcast true
      | .ack a n => s.modEth port (fun p => { p with
          lease := some a, leaseAt := s.clk.now, leaseSecs := n.toNat, leaseFrom := srcMac, renewals := 0 })
      | .nak => (s.modEth port (fun p => { p with lease := none })).dhcpStart port))

/-- A write of `ETH_IPV4` ends the lease (R343); a port that is not static asks for another (R307). -/
def State.ipv4Write (s : State) (e : Bool) (v : Word) : State :=
  let s := s.modEth e (fun p => { p with addr := v, lease := none })
  if (s.ethPort e).linkUp then s.dhcpStart e else s

/-- `DISCARDED_FRAME`: a frame that is damaged, that the part does not accept, or that finds no room is discarded and counted (R304, R306,
R309, R341). -/
def execDiscardedFrame (port : Bool) (frame : EthFrame) (s : State) : Answer :=
  .next (s.withFrame port frame id)

/-! ### Priority flow control (R309, R310) -/

/-- Nanoseconds of a pause of `q` quanta of 512 bit times, rounded up. -/
def EthPort.quantaNs (p : EthPort) (q : Nat) : Nat := if p.speedAct = 2 then (q * 16 + 24) / 25 else (q * 32 + 24) / 25

/-- The peer pauses class `t` until true time `till` (R310). -/
def State.pauseClass (s : State) (e : Bool) (t till : Nat) : State :=
  let p := s.ethPort e
  let was := p.paused.getLsbD t
  let s := s.modEth e (fun p => { p with
    paused := p.paused ||| BitVec.ofNat 8 (2 ^ t), pauseUntil := p.pauseUntil.set t till,
    pauseSince := if was then p.pauseSince else p.pauseSince.set t s.clk.now })
  if was ∨ s.clk.now < p.ignoreUntil.getD t 0 then s
  else s.waitBegin (b2n e) (.eth (b2n e)) { ekind := 9, start := s.clk.now, object := BitVec.ofNat 16 t }

/-- The pause of class `t` ends. -/
def State.resumeClass (s : State) (e : Bool) (t : Nat) : State :=
  let s := s.modEth e (fun p => { p with
    paused := p.paused &&& ~~~(BitVec.ofNat 8 (2 ^ t)), pauseUntil := p.pauseUntil.erase t, pauseSince := p.pauseSince.erase t })
  (s.waitEnd (b2n e) (.eth (b2n e)) (fun w => w.ekind == 9 && w.object.toNat == t) none).classGo e t

/-- `PFC_FRAME`: the classes of `PFC_MASK` that the frame enables are paused for their quanta; quanta 0 ends a pause (R310). -/
def execPfcFrame (port : Bool) (frame : EthFrame) (enable : BitVec 8) (quanta : List (BitVec 16)) (s : State) : Answer :=
  .next (s.withControl port frame (fun s => (List.range 8).foldl (fun s t =>
    if ¬enable.getLsbD t ∨ ¬(s.pfcMask port).getLsbD t then s
    else
      let q := (quanta.getD t 0).toNat
      if q = 0 then s.resumeClass port t
      else s.pauseClass port t (s.clk.now + (s.ethPort port).quantaNs q)) s))

/-- `PFC_PAUSE_EXPIRY`: the pause of a class has run out (R310). -/
def execPfcPauseExpiry (port : Bool) (cls : Fin 8) (s : State) : Answer :=
  let p := s.ethPort port
  .next (if p.paused.getLsbD cls ∧ p.pauseUntil.getD cls 0 ≤ s.clk.now then s.resumeClass port cls else s)

/-- `PFC_WATCHDOG`: a pause that has lasted `LIMIT_MS` is ignored for as long (R310). -/
def execPfcWatchdog (port : Bool) (cls : Fin 8) (s : State) : Answer :=
  let p := s.ethPort port
  let limit := p.limitMs.toNat * 1000000
  .next (if p.paused.getLsbD cls ∧ p.pauseSince.getD cls s.clk.now + limit ≤ s.clk.now then
      (s.modEth port (fun p => { p with
        trips := satAdd p.trips 1, ignoreUntil := p.ignoreUntil.set cls (s.clk.now + limit),
        pauseSince := p.pauseSince.set cls (s.clk.now + limit) })).waitEnd (b2n port) (.eth (b2n port))
        (fun w => w.ekind == 9 && w.object.toNat == cls.val) none |>.classGo port cls
    else s)

/-- The occupancy of the receive buffer by a class, at most its share (R309). -/
def State.occupy (s : State) (e : Bool) (t n : Nat) : State :=
  let share := if (s.pfcMask e).getLsbD t then 524288 else s.sharedBuffer e
  s.modEth e (fun p => { p with occupancy := p.occupancy.set t (min share n) })

/-- Sends a PFC frame for a class of `PFC_MASK` (R309). -/
def State.pfcSend (s : State) (e : Bool) (t : Nat) (on : Bool) : State :=
  let bit := BitVec.ofNat 8 (2 ^ t)
  (s.modEth e (fun p => { p with pausing := if on then p.pausing ||| bit else p.pausing &&& ~~~bit })).emit
    (.pfc (b2n e) t (if on then 0xFFFF else 0))

/-- `PFC_REPEAT`: the receive buffer holds `occupancy` bytes of a class; for a class of `PFC_MASK` the port sends a PFC frame, repeats it,
or ends the pause (R309). -/
def execPfcRepeat (port : Bool) (cls : Fin 8) (occupancy : Nat) (s : State) : Answer :=
  .next (if ¬s.ethUp port then s
    else
      let s := s.occupy port cls occupancy
      let on := (s.ethPort port).pausing.getLsbD cls
      if ¬(s.pfcMask port).getLsbD cls then s
      else if 393216 ≤ occupancy ∨ (on ∧ 262144 ≤ occupancy) then s.pfcSend port cls true
      else if on ∧ occupancy < 262144 then s.pfcSend port cls false
      else s)

/-! ### RoCEv2 packets (R311–R317) -/

/-- `a` comes before `b` among packet sequence numbers. -/
def psnBefore (a b : BitVec 24) : Bool := decide ((a - b).toInt < 0)

/-- Sends a congestion notification to the packet's source, at most one in every 50 µs (R311). -/
def State.notifyCongestion (s : State) (q : Nat) (x : Qp) : State :=
  match x.lastCnpSent with
  | some t => if s.clk.now < t + 50000 then s else
      (s.modQp q (fun x => { x with lastCnpSent := some s.clk.now })).qpSend x (.cnp x.params.peerQpn)
  | none => (s.modQp q (fun x => { x with lastCnpSent := some s.clk.now })).qpSend x (.cnp x.params.peerQpn)

/-- A packet whose queue pair is that of a queue bound to an Ethernet host, in a frame that its meter lets pass (R321, R370), reaches the
connection. One for a queue without a connection, or from another station, is discarded as R314 says (R350, notes/assumptions/73.md). -/
def State.roceMetered (s : State) (h : RoceHdr) (q : Nat) (c : Colour) : Option (Nat × Qp × Colour) × State :=
  let bad := s.modEth h.port (fun p => { p with badQp := satAdd p.badQp 1 })
  match s.qps.get? q with
  | none => (none, bad)
  | some x =>
    if (x.params.port == 1) ≠ h.port ∨ x.params.peerIp ≠ h.srcIp then (none, bad)
    else if x.error then (none, s)
    else (some (q, x, c), if h.ce ∨ c = .red then s.notifyCongestion q x else s)

/-- A RoCEv2 packet arrives: its frame (R304, R306), its queue pair (R314), its meter (R321, R370), its connection, and the mark of R311. -/
def State.roceIn (s : State) (h : RoceHdr) : Option (Nat × Qp × Colour) × State :=
  let q := h.qpn.toNat - 0x10000
  let host := s.queueHost q
  if ¬s.ethUp h.port then (none, s)
  else
    match s.frameIn h.port h.frame with
    | (false, s) => (none, s)
    | (true, s) =>
      if h.qpn.toNat < 0x10000 ∨ 16384 ≤ q ∨ host < 0x400 ∨ 0x500 ≤ host then
        (none, s.modEth h.port (fun p => { p with badQp := satAdd p.badQp 1 }))
      else
        match s.meterArrive host h.frame.bytes with
        | (c, s) =>
          if c = .red ∧ s.redEth host = 0 then (none, s.modEth h.port (fun p => { p with redDrop := satAdd p.redDrop 1 }))
          else s.roceMetered h q c

/-- Answers a packet of the host. -/
def State.roceAnswer (s : State) (x : Qp) (psn : BitVec 24) (a : RoceSyn) : State :=
  s.qpSend x (.roceAck x.params.peerQpn psn a)

/-- The queue pair enters error and its queue stops (R317). -/
def State.qpError (s : State) (q : Nat) : State := s.modQp q (fun x => { x with error := true })

/-- The PSN from which a request has still to be served: a read goes on after the data that has arrived, a write after the packets that
are acknowledged. -/
def RoceOut.next (o : RoceOut) (mtu : Nat) : BitVec 24 := o.psn + BitVec.ofNat 24 (o.acked + o.got.length / mtu)

/-- Sends again everything from PSN `n` (R315). -/
def State.goBack (s : State) (q : Nat) (n : BitVec 24) : State :=
  match s.qps.get? q with
  | none => s
  | some x => x.out.foldl (fun s o =>
      if psnBefore (o.psn + BitVec.ofNat 24 (o.count - 1)) n then s
      else
        let a := o.next x.mtu
        let p := if psnBefore a n then n else a
        s.roceEmit x p (o.op.from_ x.mtu (p - o.psn).toNat)) s

/-- The oldest PSN not acknowledged. -/
def Qp.oldest (x : Qp) : Option (BitVec 24) := x.out.head?.map (fun o => o.next x.mtu)

/-- A retransmission that counts as an attempt: the queue pair enters error when its attempts are used up (R315, R317). -/
def State.retransmit (s : State) (q : Nat) (n : BitVec 24) : State :=
  match s.qps.get? q with
  | none => s
  | some x =>
    if x.params.retry.toNat ≤ x.retries then s.qpError q
    else (s.modQp q (fun x => { x with retries := x.retries + 1 })).goBack q n

/-- The request is a write. -/
def RoceOut.isWrite (o : RoceOut) : Bool := match o.op with | .write .. => true | .read .. => false

/-- Packets of writes up to PSN `n` are acknowledged; progress starts the attempts afresh. -/
def State.roceAcked (s : State) (q : Nat) (n : BitVec 24) : State :=
  s.modQp q (fun x =>
    let out := (x.out.filter (fun o => !(o.isWrite && !psnBefore n (o.psn + BitVec.ofNat 24 (o.count - 1))))).map (fun o =>
      if o.isWrite ∧ ¬psnBefore n o.psn then { o with acked := max o.acked ((n - o.psn).toNat + 1) } else o)
    { x with out := out, retries := if out.length < x.out.length ∨ out ≠ x.out then 0 else x.retries })

/-- `RDMA_ACKNOWLEDGE`: an Acknowledge or NAK of the host (R315). -/
def execRdmaAcknowledge (hdr : RoceHdr) (syn : RoceSyn) (s : State) : Answer :=
  .next (match s.roceIn hdr with
    | (none, s) => s
    | (some (q, _, _), s) =>
      match syn with
      | .ack => s.roceAcked q hdr.psn
      | .nakSequence => (s.roceAcked q (hdr.psn - 1)).retransmit q hdr.psn
      | .rnrNak _ => (s.roceAcked q (hdr.psn - 1)).goBack q hdr.psn
      | .nakInvalid | .nakAccess => s.qpError q)

/-- `ACK_TIMEOUT`: the part sends again from the oldest PSN that is not acknowledged (R315, R317). -/
def execAckTimeout (queue : BitVec 14) (s : State) : Answer :=
  let q := queue.toNat
  .next (match s.qps.get? q with
    | some x =>
      match x.oldest with
      | some n => if x.error ∨ s.sys.portsStopped then s else s.retransmit q n
      | none => s
    | none => s)

/-- `RDMA_REQUEST_TO_PART`: the part registers no memory; an opcode outside its subset is invalid (R313). -/
def execRdmaRequestToPart (hdr : RoceHdr) (req : RoceReq) (s : State) : Answer :=
  .next (match s.roceIn hdr with
    | (none, s) => s
    | (some (_, x, _), s) => s.roceAnswer x hdr.psn (match req with | .write | .read => .nakAccess | .other => .nakInvalid))

/-- `CNP`: the pacing rate falls to 7/8, at most once in 50 µs and not below 1 Gb/s (R312). -/
def execCnp (hdr : RoceHdr) (s : State) : Answer :=
  .next (match s.roceIn hdr with
    | (none, s) => s
    | (some (q, _, _), s) =>
      s.modQp q (fun x =>
        if (match x.lastCut with | some t => decide (s.clk.now < t + 50000) | none => false) then x
        else { x with rate := max 1000000000 (x.rate * 7 / 8), lastCut := some s.clk.now }))

/-- `RATE_INCREASE`: 100 µs have passed with no CNP (R312). -/
def execRateIncrease (queue : BitVec 14) (s : State) : Answer :=
  .next (s.modQp queue.toNat (fun x =>
    { x with rate := min (x.rate + 5000000000) (s.ethPort (x.params.port == 1)).lineRate }))

/-! ### SEND (R316, R318, R322, R324, R353, R369) -/

/-- The entry that 64 bytes spell (R351). -/
def subEntryOf (b : List Byte) : SubEntry :=
  let n (off len : Nat) : Nat := leNat ((b.drop off).take len)
  { opcode := BitVec.ofNat 8 (n 0 1), fence := n 1 1 % 2 == 1, tag := BitVec.ofNat 16 (n 2 2), length := BitVec.ofNat 32 (n 4 4),
    poolAddr := BitVec.ofNat 64 (n 8 8), hostAddr := BitVec.ofNat 64 (n 0x10 8), rkey := BitVec.ofNat 32 (n 0x18 4),
    atop := BitVec.ofNat 8 (n 0x1C 1), operand := BitVec.ofNat 128 (n 0x20 16), compare := BitVec.ofNat 128 (n 0x30 16),
    reserved := n 1 1 / 2 != 0 || n 0x1D 3 != 0 }

/-- The entries of plain bytes, 64 to each. -/
def sendEntries (b : List Byte) : List SubEntry := (List.range (b.length / 64)).map (fun i => subEntryOf ((b.drop (64 * i)).take 64))

/-- The plaintext of a record that the host wrote, or none when the part rejects it (R322, R324). -/
def State.unseal (s : State) (q kind : Nat) (addr : Option Nat) (sealed_ : List Byte) : Option (List Byte) :=
  let nonce := sealed_.take 12
  let body := sealed_.drop 12
  let n := body.length - 16
  let aad := leBytes 2 q ++ leBytes 1 kind ++ (match addr with | some a => leBytes 8 a | none => [])
  if sealed_.length < 29 ∨ 4096 < n ∨ (nonce.headD 0).getLsbD 0 then none
  else gcmOpen (s.ethg.ethKeys.getD (s.queueHost q) 0) nonce aad (body.take n) (body.drop n)

/-- The entries of a record, each with the colour of the frame that holds its first byte; a record that the part rejects counts as
commands that are Illegal, one for each 64 bytes. -/
def State.recordEntries (s : State) (q : Nat) (frames : List (List Byte × Colour)) : List (SubEntry × Colour) :=
  let sealed_ := frames.flatMap (·.1)
  let colours := frames.flatMap (fun f => f.1.map (fun _ => f.2))
  let at_ (i : Nat) : Colour := colours.getD (12 + 64 * i) .green
  match s.unseal q 1 none sealed_ with
  | some p =>
    if p.length % 64 = 0 then (sendEntries p).zipIdx.map (fun e => (e.1, at_ e.2))
    else [({ opcode := 0 }, at_ 0)]
  | none => (List.range (max 1 ((sealed_.length - 28) / 64))).map (fun i => ({ opcode := 0 }, at_ i))

/-- Ring slots that entries need. -/
def slotsFor (es : List (SubEntry × Colour)) : Nat := es.countP (fun e => !releaseOk e.1)

/-- A new SEND is answered RNR NAK: a commit holds the port, the queue or its hub, or the port's hub throttles pool service
(R316, R339, R654). -/
def State.sendHeld (s : State) (q : Nat) (e : Bool) : Bool :=
  !s.fatal && (s.ethQuiesced e || s.queueHeld q || (s.pwrHub (b2n e)).poolThr)

/-- A packet of a SEND in PSN order; `data` is its payload. Entries are placed as they are whole: with each packet, or with the last of
a sealed record. -/
def State.sendPart (s : State) (q : Nat) (x : Qp) (hdr : RoceHdr) (part : RocePart) (data : List Byte) (c : Colour) : State :=
  let starts := part == .first || part == .only
  let ends := part == .last || part == .only
  let shape := if ends then decide (1 ≤ data.length ∧ data.length ≤ x.mtu) else data.length == x.mtu
  if starts ≠ x.rx.isEmpty ∨ ¬shape then s.roceAnswer x hdr.psn .nakInvalid
  else if starts ∧ s.sendHeld q hdr.port then s.roceAnswer x hdr.psn (.rnrNak 1)
  else
    let frames := x.rx ++ [(data, c)]
    let es := if s.ethCrypt then (if ends then s.recordEntries q frames else []) else (sendEntries data).map (fun e => (e, c))
    if ¬s.ethCrypt ∧ data.length % 64 ≠ 0 then s.roceAnswer x hdr.psn .nakInvalid
    else if 64 < (s.queue q).ring.length + slotsFor es then s.roceAnswer x hdr.psn (.rnrNak 1)
    else
      let keep := if ends then [] else if s.ethCrypt then frames else [([], c)]
      let s := s.modQp q (fun x => { x with expectPsn := x.expectPsn + 1, rx := keep })
      (es.foldl (fun s e => s.takeEntry q e.1 e.2) s).roceAnswer x hdr.psn .ack

/-- `SEND`: one packet of a SEND with submission entries (R313, R316, R318). -/
def execSend (hdr : RoceHdr) (part : RocePart) (data : List Byte) (s : State) : Answer :=
  .next (match s.roceIn hdr with
    | (none, s) => s
    | (some (q, x, c), s) =>
      if (s.hub (q / 2048)).phase ≠ .none then s
      else if psnBefore hdr.psn x.expectPsn then s.roceAnswer x (x.expectPsn - 1) .ack
      else if hdr.psn ≠ x.expectPsn then s.roceAnswer x x.expectPsn .nakSequence
      else s.sendPart q x hdr part data c)

/-! ### RDMA READ responses (R320, R322–R324) -/

/-- The plaintext of a sealed write's data, or none when a record is rejected. -/
def State.unsealData (s : State) (q addr : Nat) (d : List Byte) : List Nat → Option (List Byte)
  | [] => some []
  | i :: r =>
    match s.unseal q 4 (some (addr + 4096 * i)) ((d.drop (4124 * i)).take 4124), s.unsealData q addr d r with
    | some a, some b => some (a ++ b)
    | _, _ => none

/-- Every byte of a `WRITE` has been fetched: the write is performed, or fails whole (R320, R324). -/
def State.fetched (s : State) (q id : Nat) (d : List Byte) (media : List Medium) : State :=
  match s.inRing q id with
  | none => s.fetchDrop q id
  | some r =>
    let e := r.entry
    let plain := if s.ethCrypt then s.unsealData q e.poolAddr.toNat d (List.range ((d.length + 4123) / 4124)) else some d
    match plain with
    | some b => (s.fetchedWrite q id e.poolAddr.toNat b media).cohEnd (media.headD .clean)
    | none => (s.fetchDrop q id).completeStatus q id .illegal

/-- `RDMA_READ_RESPONSE`: the next packet of the oldest read; with the last byte the write is performed (R315, R320). -/
def execRdmaReadResponse (hdr : RoceHdr) (data : List Byte) (media : List Medium) (s : State) : Answer :=
  .next (match s.roceIn hdr with
    | (none, s) => s
    | (some (q, _, _), s) =>
      let s := s.roceAcked q (hdr.psn - 1)
      match s.qps.get? q with
      | none => s
      | some x =>
        match x.out.find? (fun o => !o.isWrite) with
        | none => s
        | some o =>
          let total := match o.op with | .read _ _ n => n | .write _ _ b => b.length
          if hdr.psn ≠ o.next x.mtu ∨ data.length ≠ min x.mtu (total - o.got.length) then s
          else
            let got := o.got ++ data
            if got.length < total then
              s.modQp q (fun x => { x with
                retries := 0, out := x.out.map (fun y => if y.psn = o.psn then { y with got := got } else y) })
            else
              let s := s.modQp q (fun x => { x with retries := 0, out := x.out.filter (fun y => y.psn != o.psn) })
              match o.access with
              | some id => s.fetched q id got media
              | none => s)

/-! ### QP_CONNECT (R317, R325, R334, R349) -/

/-- The fields of R334 lie in their ranges. -/
def State.qpFieldsOk (s : State) (p : QpParams) (reserved : Bool) : Bool :=
  let h := s.queueHost p.queue.toNat
  let cq := p.cqBytes.toNat
  decide (p.queue.toNat < 16384) && decide (0x400 ≤ h ∧ h < 0x500)
    && decide (p.port.toNat ≤ 1) && decide (p.tc.toNat ≤ 7 ∧ p.tc.toNat ≠ s.kmpTc (p.port == 1)) && decide (p.vlan.toNat ≤ 4094)
    && decide (1 ≤ p.pmtu.toNat ∧ p.pmtu.toNat ≤ 3) && decide (8 ≤ p.ackTimeout.toNat ∧ p.ackTimeout.toNat ≤ 31)
    && decide (1 ≤ p.retry.toNat ∧ p.retry.toNat ≤ 7) && decide (p.bounce.length ≤ 16)
    && decide (p.peerQpn.toNat < 2 ^ 24 ∧ p.peerPsn.toNat < 2 ^ 24) && decide (0 < cq ∧ cq % s.slotSize = 0) && !reserved
    && (!s.sealed || p.bounce.any (fun b =>
          b.2.2 == p.cqRkey && decide (b.1.toNat ≤ p.cqVa.toNat ∧ p.cqVa.toNat + cq ≤ b.1.toNat + b.2.1.toNat)))

/-- Derives the Ethernet key of a host at the epoch's first connection, from the session that carries it (R671, R677). -/
def State.ethKeyFor (s : State) (secret h : Nat) : State :=
  if (s.ethg.ethKeys.get? h).isSome then s
  else { s with ethg := { s.ethg with ethKeys := s.ethg.ethKeys.set h (ethKeyOf secret h) } }

/-- Writes held slots while the queue can. -/
def State.writeHelds (s : State) (q : Nat) : Nat → State
  | 0 => s
  | n + 1 => (s.writeHeld q).writeHelds q n

/-- Sets up or replaces a queue's connection: the completions not yet written come first, then the requests outstanding go again
(R317, R349). -/
def State.connect (s : State) (k secret : Nat) (p : QpParams) : BitVec 24 × State :=
  let q := p.queue.toNat
  let old := match s.qps.get? q with | some x => x.out | none => []
  let s := s.ethKeyFor secret (s.queueHost q)
  let (n, s) := s.draw .choice
  let psn : BitVec 24 := BitVec.ofNat 24 n
  let x : Qp := {
    params := p, session := k, expectPsn := p.peerPsn.setWidth 24, nextPsn := psn, rate := (s.ethPort (p.port == 1)).lineRate }
  let s : State := { s with qps := s.qps.set q x }
  let s := s.modQueue q (fun y => { y with
    credit := min 65535 (p.cqBytes.toNat / s.slotSize), held := old.filterMap (·.slot) ++ y.held })
  let s := (old.filter (fun o => o.isWrite && o.slot.isNone)).foldl (fun s o => s.roceSend q o.op o.access) s
  let s := s.writeHelds q (s.queue q).held.length
  let s := (old.filter (fun o => !o.isWrite)).foldl (fun s o => s.roceSend q o.op o.access) s
  (psn, s.tagHeads (q / 2048))

/-- `QP_CONNECT` (R334, R678, R682). -/
def execQpConnect (hdr : KmpHdr) (p : QpParams) (reserved : Bool) (s : State) : Answer :=
  .next (s.kmpRequest hdr 7 false (fun k x s =>
    let holds := x.auth == .tenant || (!s.sealed && s.isOperator x)
    if ¬holds ∨ s.ten.state ≠ .open_ ∨ (p.port.toNat ≤ 1 ∧ (p.port == 1) ≠ hdr.port) then (some { status := 3 }, s)
    else if ¬s.qpFieldsOk p reserved then (some { status := 6 }, s)
    else
      let (psn, s) := s.connect k x.secret p
      (some { status := 0, body := .qp (BitVec.ofNat 24 (0x10000 + p.queue.toNat)) psn 0 }, s)))

/-! ### KMP's own messages (R328–R331) -/

/-- The answer to `DISCOVER` (R328). -/
def State.discoverBody (s : State) : KmpBody := .discover s.pkgId s.fuses.macE0 s.fuses.macE1 1 s.freeSessions

/-- `DISCOVER`, outside a session or within one (R328, R794, R809). -/
def execDiscover (hdr : KmpHdr) (s : State) : Answer :=
  .next (if hdr.sessionId ≠ 0 then
      s.kmpRequest hdr 1 (!s.fatal) (fun _ _ s =>
        (some (if hdr.bodyLen = 0 then { status := 0, body := s.discoverBody } else { status := 4 }), s))
    else match s.kmpArrive hdr with
      | (none, s) => s
      | (some s, _) =>
        if ¬kmpKnown hdr.type then s
        else if hdr.protected_ then s.kmpSend none hdr 1 { status := 2 }
        else if ¬kmpHdrOk hdr ∨ hdr.bodyLen ≠ 0 then s.kmpSend none hdr 1 { status := 4 }
        else if s.fatal ∨ s.ethQuiesced hdr.port then s.kmpSend none hdr 1 { status := 1 }
        else s.kmpSend none hdr 1 { status := 0, body := s.discoverBody })

/-- `EVENT_ACK`: the session acknowledges an EVENT (R328, R331). -/
def execEventAck (hdr : KmpHdr) (s : State) : Answer :=
  .next (match s.kmpArrive hdr with
    | (none, s) => s
    | (some s, _) =>
      match s.sessionOf hdr.sessionId with
      | none => s
      | some k =>
        match s.session k with
        | none => s
        | some x =>
          if ¬x.opens hdr ∨ x.port ≠ hdr.port then s
          else
            let s := s.noteMgmt x
            if ¬kmpHdrOk hdr ∨ ¬kmpKnown hdr.type then s
            else s.modSession k (fun x => { x with events := x.events.filter (fun e => e.1 != hdr.msgSeq) }))

/-- `EVENT_RETRANSMIT`: an EVENT goes again, at most 64 times (R331). -/
def execEventRetransmit (slot : Fin 32) (seq : BitVec 32) (s : State) : Answer :=
  .next (match s.session slot with
    | none => s
    | some x =>
      match x.events.find? (fun e => e.1 == seq) with
      | none => s
      | some (_, m, n) =>
        if 64 ≤ n then s.modSession slot (fun x => { x with events := x.events.filter (fun e => e.1 != seq) })
        else
          (s.modSession slot (fun x => { x with events := x.events.map (fun e => if e.1 = seq then (e.1, e.2.1, n + 1) else e) })).sendFrame
            x.port (s.sessionFrame x) (.kmp m))

/-- `KMP_KEEPALIVE` (R328). -/
def execKmpKeepalive (hdr : KmpHdr) (s : State) : Answer :=
  .next (s.kmpRequest hdr 0x0A false (fun _ _ s => (some { status := if hdr.bodyLen = 0 then 0 else 4 }, s)))

/-- `END`: the session closes (R328, R73). -/
def execEnd (hdr : KmpHdr) (s : State) : Answer :=
  .next (s.kmpRequest hdr 0x0B false (fun k _ s =>
    if hdr.bodyLen = 0 then (some { status := 0 }, s.endSession k) else (some { status := 4 }, s)))

/-- `SESSION_TIMEOUT`: 30 s after the last accepted message (R330); the timers stop while the security processor restarts (R716). -/
def execSessionTimeout (slot : Fin 32) (s : State) : Answer :=
  .next (if s.spRestarting then s else s.endSession slot)

/-! ### Leases (R307) -/

/-- What time does to a port's lease: it is renewed after half of its length, by any server after seven eighths, and lost at its end
(PRESUMED: RFC 2131, notes/assumptions/69.md). A lease of 0xFFFF_FFFF s has no end. -/
def State.leaseCycle (s : State) (e : Bool) : State :=
  let p := s.ethPort e
  let age := 8 * (s.clk.now - p.leaseAt)
  let len := p.leaseSecs * 1000000000
  if p.lease.isNone ∨ p.isStatic ∨ p.leaseSecs = 0xFFFFFFFF then s
  else if 8 * len ≤ age then (s.modEth e (fun p => { p with lease := none })).dhcpStart e
  else if 7 * len ≤ age ∧ p.renewals < 2 then (s.modEth e (fun p => { p with renewals := 2 })).dhcpSend e broadcast true
  else if 4 * len ≤ age ∧ p.renewals = 0 then (s.modEth e (fun p => { p with renewals := 1 })).dhcpSend e p.leaseFrom true
  else s

/-! ### PTP (R294, R295, R335) -/

/-- The group address of PTP messages other than those of peer delay, on each transport: the Layer-2 group, or that of 224.0.1.129 or
of FF0E::181 (PRESUMED: IEEE 1588, notes/assumptions/70.md). -/
def ptpGroup : PtpTransport → BitVec 48
  | .layer2 => 0x011B19000000
  | .ipv4 => 0x01005E000181
  | .ipv6 => 0x333300000181

/-- The masters that the port still hears: one falls silent after three of its announce intervals (R335). -/
def State.ptpHeard (s : State) : List PtpMaster := s.ethg.ptpMasters.filter (fun m => decide (s.clk.now < m.at_ + 3 * m.interval))

/-- The master that the part follows: the best of those heard twice (R335). -/
def State.ptpBest (s : State) : Option PtpMaster :=
  match s.ptpHeard.filter (·.twice) with
  | [] => none
  | m :: r => some (r.foldl (fun a b => if b.rank < a.rank then b else a) m)

/-- An Announce names a master, with its data set (R335). -/
def State.ptpAnnounce (s : State) (src : BitVec 80) (rank : BitVec 128) (logInterval : Nat) : State :=
  let l := s.ptpHeard
  let m : PtpMaster := { source := src, rank := rank, at_ := s.clk.now, interval := 2 ^ logInterval * 1000000000,
                         twice := l.any (fun x => x.source == src) }
  { s with ethg := { s.ethg with ptpMasters := m :: l.filter (fun x => x.source != src) } }

/-- The times of a sync are known: the part asks for the delay, on the transport of its master. -/
def State.ptpAsk (s : State) (via : PtpTransport) (t1 : BitVec 64) : State :=
  let n := s.ethg.ptpReq
  ({ s with ethg := { s.ethg with ptpT1 := some t1, ptpT3 := s.clk.poolTime, ptpReq := n + 1, ptpSync := none } } : State).sendFrame
    s.ethg.ptpPort { mac := ptpGroup via, cls := Config.ptpClass } (.ptpDelayReq via n s.clk.poolTime)

/-- The delay is known: the part's offset from its master, in ns, which it follows where PTP is its source (R294, R335). -/
def State.ptpAnswer (s : State) (t1 t4 : BitVec 64) (corr : Int) : State :=
  let g := s.ethg
  let off : Int := (((t4.toNat : Int) - corr - g.ptpT3.toNat) - ((g.ptpT2.toNat : Int) - t1.toNat - g.ptpCorr)) / 2
  let s : State := { s with ethg := { g with ptpT1 := none }, zlg := { s.zlg with ptpAvailable := true } }
  let s := s.chooseSource
  if s.zlg.source ≠ 3 then s
  else ({ s with zlg := { s.zlg with offsetNs := meanNs [⟨s.clk.now, off⟩] } } : State).correct off s.launchWaits

/-- What a message of the master that the part follows does (R335): a Sync begins an exchange; the Follow_Up with its number completes
it; the Delay_Resp that answers the part's last request gives the offset. -/
def State.ptpMaster (s : State) (f : PtpFrame) : State :=
  match f.msg with
  | .announce _ _ => s
  | .sync t corr =>
    let s : State := { s with ethg := { s.ethg with
      ptpT1 := none, ptpT2 := s.clk.poolTime, ptpCorr := corr, ptpSync := some f.seq } }
    match t with
    | some t1 => s.ptpAsk f.via t1
    | none => s
  | .followUp t1 corr =>
    if s.ethg.ptpSync = some f.seq then
      ({ s with ethg := { s.ethg with ptpCorr := s.ethg.ptpCorr + corr } } : State).ptpAsk f.via t1
    else s
  | .delayResp t4 corr =>
    match s.ethg.ptpT1 with
    | some t1 => if f.mine ∧ f.seq + 1 = s.ethg.ptpReq then s.ptpAnswer t1 t4 corr else s
    | none => s

/-- `PTP_MESSAGE`: a message on the port and domain that `PTP_CTL` selects (R335). -/
def execPtpMessage (port : Bool) (frame : EthFrame) (domain : BitVec 8) (msg : PtpFrame) (s : State) : Answer :=
  .next (s.withFrame port frame (fun s =>
    if ¬s.ethg.ptpEn ∨ s.ethg.ptpPort ≠ port ∨ s.ethg.ptpDomain ≠ domain then s
    else match msg.msg with
      | .announce rank n => s.ptpAnnounce msg.source rank n
      | _ => if (s.ptpBest.map (·.source)) = some msg.source then s.ptpMaster msg else s))

/-- What time alone does at the Ethernet ports: leases run, and a PTP master that has fallen silent is a source no more (R294, R307,
R335). -/
def State.ethCycle (s : State) : State :=
  let s := (s.leaseCycle false).leaseCycle true
  if s.zlg.ptpAvailable ∧ s.ptpBest.isNone then s.ptpLost else s

end Sys2Proof.Machine
end

