-- ==== Sys2Proof/Machine/Trace.lean ====
section
/-! DEFINITION. Trace.lean: the meanings of the trigger, the export of trace records and the resets of counters (chapter "Debug,
Synchronisation Trace and Counters"). -/
namespace Sys2Proof.Machine
open Sys2Proof

/-- A path writes registers of hub `h` with the operator right, now (R730, R673, R749, R750). -/
def State.operates (s : State) (p : Path) (h : Nat) : Bool :=
  (s.pathUsage p).getLsbD 0 && (p != .jtag || s.jtagAllowed) && !s.fatal && (s.hub h).phase == .none && s.hubPresent h
    && s.sys.phase != .sleeping && s.sys.phase != .unpowered && s.sys.phase != .inReset

/-- Changes the trigger. -/
def State.modTrig (s : State) (f : Trigger → Trigger) : State := { s with trig := f s.trig }

/-- `FIRE` (R756): a write of `DBG_TRIG.FIRE`. -/
def execFire (path : Path) (s : State) : Answer := .next (if s.operates path 0 then s.fire else s)

/-- `DBG_TRIG.REARM` (R758, R767): the stores empty, the rings run again and keep their content. -/
def State.rearm (s : State) : State :=
  { s with
    trig := { s.trig with armed := true, postOpen := false, frozen := false },
    traceUnits := s.traceUnits.mapVals (fun _ t => { t with store := [] }) }

/-- `REARM` (R758). -/
def execRearm (path : Path) (s : State) : Answer := .next (if s.operates path 0 then s.rearm else s)

/-- The unit under a key of `traceUnits`. -/
def unitOf (key : Nat) : TUnit :=
  match key / 16 % 4 with
  | 0 => .cluster (key % 16)
  | 1 => .zlPort (key % 16)
  | 2 => .eth (key % 16)
  | _ => .slalom

/-- The post-trigger windows close: at the units whose store has not filled before, waits still open are recorded, and every unit freezes
(R752, R757). -/
def State.closePost (s : State) : State :=
  let s := s.traceUnits.foldl (fun s e =>
    if s.storeFull (e.1 / 64) (unitOf e.1) then s
    else e.2.waits.foldl (fun s w => s.putWait (e.1 / 64) (unitOf e.1) w true w.by_) s) s
  s.modTrig (fun t => { t with postOpen := false, frozen := true })

/-- `POST_WINDOW_END`: `POST_US` has passed since *T* (R757). -/
def execPostWindowEnd (s : State) : Answer := .next (if s.trig.postOpen then s.closePost else s)

/-! ### Export (R760, R761) -/

/-- Takes up to `n` records from the export queues, lower hubs first. -/
def State.takeRecords (s : State) (n : Nat) : List Nat → List TraceRec × State
  | [] => ([], s)
  | h :: r =>
    let q := s.traceHubs.getD h {}
    let l := q.queue.take n
    let s : State := if l.isEmpty then s else { s with traceHubs := s.traceHubs.set h { q with queue := q.queue.drop n } }
    let (rest, s) := s.takeRecords (n - l.length) r
    (l ++ rest, s)

/-- Every queued record leaves and counts as lost (R760). -/
def State.loseRecords (s : State) : State :=
  { s with traceHubs := s.traceHubs.mapVals (fun _ q =>
      match q.queue with
      | [] => q
      | r :: _ => { q with queue := [], lost := q.lost + q.queue.length, lostEnd := if q.lost = 0 then r.endTime else q.lostEnd }) }

/-- `TRACE_SEND`: up to 43 queued records go to the export target, at most every 20 µs; without a target they are lost (R760). -/
def execTraceSend (s : State) : Answer :=
  .next (if s.exportMode ≠ 1 then s
    else match s.trig.kmpTarget with
    | none => s.loseRecords
    | some k =>
      match s.session k with
      | none => s.loseRecords
      | some _ =>
        if s.sys.portsStopped || (match s.trig.lastTraceAt with | some t => decide (s.clk.now < t + 20000) | none => false) then s
        else
          let (l, s) := s.takeRecords 43 (List.range 8)
          if l.isEmpty then s
          else
            (s.modTrig (fun t => { t with lastTraceAt := some s.clk.now })).kmpOwn k 9 false (.trace s.clk.poolTime l))

/-- A write of 1 to `DBG_CTL.KMP_TARGET` by the session in slot `k` (R760, R769). -/
def State.setTarget (s : State) (k : Nat) : State := if (s.session k).isSome then s.modTrig (fun t => { t with kmpTarget := some k }) else s

/-- `KMP_TARGET_SET` (R760). -/
def execKmpTargetSet (slot : Fin 32) (s : State) : Answer := .next (if s.operates (.kmp slot) 0 then s.setTarget slot else s)

/-- `DBG_EXPORT_HEAD` and `DBG_EXPORT_TAIL` exist on hub `h` (R772). -/
def State.exportHere (s : State) (h : Nat) : Bool := s.si.committed && s.exportMode == 2 && s.exportHub == h

/-- A write of `DBG_EXPORT_TAIL`: records that the region held back go on (R761, R772). -/
def State.setTail (s : State) (v : BitVec 25) : State :=
  let s := s.modTrig (fun t => { t with tail := BitVec.ofNat 25 (min v.toNat (s.regionSize - 1)) })
  s.presentHubs.foldl (fun s h => s.exportDrain h) s

/-- `EXPORT_TAIL_ADVANCE` (R761). -/
def execExportTailAdvance (path : Path) (tail : BitVec 25) (s : State) : Answer :=
  .next (if s.operates path s.exportHub ∧ s.exportHere s.exportHub then s.setTail tail else s)

/-! ### Counters (R763, R773) -/

/-- `DBG_CNT_CMD` with `GO`: the counters of a block, or of every block, of a hub are reset (R773); the time of a snowplough that acts
counts afresh. -/
def State.counterReset (s : State) (h block : Nat) (all : Bool) : State :=
  let s := if all then counterBlocks.foldl (fun s b => s.resetGroup h b) s
    else if counterBlocks.contains block then s.resetGroup h block else s
  if all ∨ block = 0x0F then s.modPwr h (fun p => { p with snowMark := s.clk.now }) else s

/-- `COUNTER_RESET` (R773). -/
def execCounterReset (path : Path) (hub : Fin 8) (block : BitVec 8) (all : Bool) (s : State) : Answer :=
  .next (if s.operates path hub then s.counterReset hub block.toNat all else s)

end Sys2Proof.Machine
end

