-- ==== Sys2Proof/Machine/RegRead.lean ====
section
/-! DEFINITION. RegRead.lean: the values that the registers of every block read (the register tables of all chapters; R728–R735). A
location that no table defines gives none. -/
namespace Sys2Proof.Machine
open Sys2Proof

/-- A count in a field of limited range. -/
def sat (n k : Nat) : Nat := min n (2 ^ k - 1)

/-- HUB_INFO (R39–R43). -/
def State.readHubInfo (s : State) (h o : Nat) : Option Word :=
  let x := s.hub h
  match o with
  | 0x0 => some s.pkgId
  | 0x4 => some (s.hubClusters h)
  | 0x8 => some (packWord [(0, 1), (1, b2n x.inService), (2, b2n (x.phase != .none)), (3, b2n (s.bridgesTrained h)), (4, b2n x.fatal)])
  | 0x10 =>
    let l := x.bridgeLog
    some (packWord [(0, l.bridge.toNat), (4, b2n l.parityLane), (5, l.lane.toNat), (15, l.rxHub.toNat), (30, b2n l.multi), (31, b2n l.valid)])
  | _ => none

/-- The base image is in force (R82, R83). -/
def State.baseInForce (s : State) : Bool :=
  s.si.inForce.isNone && (match s.sys.phase with | .starting | .awake | .sleeping | .waking => true | _ => false)

/-- SI (R83–R86, R103). -/
def State.readSi (s : State) (o : Nat) : Option Word :=
  let x := s.si
  match o with
  | 0x0 => some (packWord [
      (0, x.state.ctorIdx), (3, b2n x.inForce.isSome), (4, b2n x.prev.isSome), (5, b2n s.baseInForce), (8, x.lastResult.toNat),
      (12, b2n x.healthFail), (13, b2n x.returned), (16, x.failedCheck.toNat)])
  | 0x4 => some 0
  | 0x8 => some (packWord [(0, b2n x.lock)])
  | 0xC => some x.change
  | _ => none

/-- Free slots of one tier on a hub. -/
def State.freeSlots (s : State) (h : Nat) (deep : Bool) : Nat :=
  s.slots.countP (fun e => e.1 / 8192 == h && (decide (4096 ≤ e.1 % 8192) == deep) && e.2 == .free)

/-- POOL (R144–R146). `POOL_ACTIVITY.DRAINING` stays at 2,047 (notes/assumptions/60.md). -/
def State.readPool (s : State) (h o : Nat) : Option Word :=
  match o, h with
  | 0x0, _ => some (packWord [(0, s.freeSlots h false), (16, s.freeSlots h true)])
  | 0x4, 0 => some (packWord [(0, sat s.drains.length 11), (16, b2n (s.carver.filling.isSome || !s.carver.queue.isEmpty))])
  | 0x8, 0 => some (packWord [(0, 131072 - s.maps.foldl (fun a m => a + m.2.length) 0)])
  | _, _ => none

/-- `COH_DEAD_CMD.HOST` of a path (R218, R679). -/
def State.deadSel (s : State) (p : Path) : BitVec 10 := if p = .firmware then s.coh.cmdHost else (s.sel p).deadHost

/-- COH (R189–R191, R217–R220). -/
def State.readCoh (s : State) (p : Path) (h o : Nat) : Option Word :=
  let x := s.cohHub h
  match o, h with
  | 0x0, _ => some (packWord [(0, min 8192 (s.openCount h)), (16, min 32768 (s.queuedCount h))])
  | 0x4, _ =>
    let busy := s.lines.any (fun e => e.2.hub.toNat == h && (match e.2.tx with | some t => t.req.kind == .acquire | none => false))
    some (packWord [(0, s.atomCount h), (16, b2n busy)])
  | 0x8, _ =>
    let l := s.dir.filter (fun e => e.1 / 2 ^ 23 == h)
    some (packWord [(0, l.length), (24, b2n (l.any (fun e => e.2.coarse)))])
  | 0xC, 0 => some (packWord [(0, s.coh.timeoutUs.toNat), (14, b2n s.coh.autoEn), (16, s.coh.orphanUs.toNat)])
  | 0x10, 0 =>
    let d := s.deadSel p
    let y := s.host d.toNat
    some (packWord [(0, d.toNat), (16, b2n y.dead), (17, b2n !y.reclaiming.isEmpty), (18, s.coh.cmdResult.toNat)])
  | 0x14, _ => some (packWord [
      (0, b2n (s.hosts.any (fun e => e.2.reclaiming.contains h))), (1, b2n x.reclaimDone), (16, x.poisoned.toNat)])
  | 0x18, _ => some (packWord [(0, s.retry.countP (fun e => e.1 / 2 ^ 19 == h))])
  | _, _ => none

/-- The channel that a path selects on a hub (R581). -/
def State.memSel (s : State) (p : Path) (h : Nat) : Nat := ((s.sel p).memCh.getD h 0).toNat

/-- A migration is under way on a channel (R567, R568, R582). -/
def State.migratingOn (s : State) (h c : Nat) : Bool :=
  s.integ.migrations.any (fun m => match m with
    | .slot g _ _ => g == h && decide (c < 32)
    | .rank g k _ => g == h && k == c)

/-- MEM (R581–R586). -/
def State.readMem (s : State) (p : Path) (h o : Nat) : Option Word :=
  let c := s.memSel p h
  let x := s.chan h c
  match o with
  | 0x0 => some (packWord [(0, c)])
  | 0x4 => some (packWord [
      (0, x.state.ctorIdx), (3, b2n x.thermal), (4, b2n (s.migratingOn h c)), (5, b2n x.pasr), (16, x.tempC.toNat)])
  | 0x8 => some (packWord [(0, x.minEye.toNat), (7, x.minLane.toNat), (11, b2n x.minWrite), (12, x.retrains.toNat)])
  | 0xC => some (if c < 32 then 0 else packWord [
      (0, x.dimms.toNat), (2, x.ranks.toNat), (5, x.gib.toNat), (14, x.spdSpeed.toNat), (17, b2n x.usable), (18, b2n x.pasrCap)])
  | 0x10 =>
    let m := s.memHub h
    let a := s.chan h 32
    let b := s.chan h 33
    some (packWord [
      (0, m.sparesFree.length), (3, m.sparesLent.length), (8, a.spareRank.toNat), (11, b2n a.spareUsed), (12, b.spareRank.toNat),
      (15, b2n b.spareUsed)])
  | 0x14 => some (packWord [(16, x.srIdleUs.toNat)])
  | _ => none

/-- LIFT (R587, R588). `PROGRESS` is the share of the source's lines whose reads have begun, in whole 32nds, at most 31 (notes/assumptions/67.md). -/
def State.readLift (s : State) (o : Nat) : Option Word :=
  match o with
  | 0x0 => some 0
  | 0x4 =>
    let q := s.lift.queue
    let (dest, phase, progress) := match q with
      | j :: _ => (j.dest.toNat, 1 + j.phase.ctorIdx, min 31 (j.next / 2 ^ 17))
      | [] => (0, 0, 0)
    some (packWord [(0, dest), (16, phase), (19, q.length), (23, s.lift.lastResult.toNat), (27, progress)])
  | _ => none

/-- The retirement log has no entry left to replace (R613, R629). -/
def State.rlogFull (s : State) : Bool := decide (8192 ≤ s.integ.rlog.length) && !s.integ.rlog.any (fun e => e.kind == 6 || e.kind == 9)

/-- Deep repairs that are pending on a hub, at most 255 (R609, R624). -/
def State.deepPending (s : State) (h : Nat) : Nat := min 255 (s.integ.rlog.countP (fun e => e.kind == 3 && e.hub.toNat == h))

/-- INT (R621–R632). -/
def State.readInt (s : State) (p : Path) (h o : Nat) : Option Word :=
  let m := s.memHub h
  let i := s.integ
  match o with
  | 0x0 => some (packWord [(0, m.scrubHours.toNat), (8, m.ceRowThr.toNat)])
  | 0x4 => some (packWord [(0, m.progress.toNat), (7, b2n m.scrubActive), (8, m.passes.toNat)])
  | 0x8 => some (packWord [(0, m.ce.toNat), (16, m.ue.toNat)])
  | 0xC => some (packWord [(0, m.rowsUsed.toNat), (8, m.colsUsed.toNat), (16, s.deepPending h), (24, b2n m.exhausted)])
  | 0x10 => some (packWord [(0, m.suspectCh.toNat), (6, m.suspectSym.toNat), (13, b2n m.suspectValid)])
  | _ =>
    if h ≠ 0 then none
    else if o = 0x20 then some (packWord [(0, i.errLog.length), (12, i.dropped.toNat)])
    else if o = 0x24 then some i.retirePage
    else if o = 0x28 then some (packWord [(4, i.retireResult.toNat), (8, b2n i.retireBusy)])
    else if o = 0x2C then some (packWord [(0, i.rlog.length), (14, b2n s.rlogFull), (16, (s.sel p).rlogIndex.toNat)])
    else if o = 0x40 then some (packWord [(0, i.splitExt.toNat)])
    else if o = 0x44 then some (packWord [(0, i.splitLine.toNat), (24, i.splitOutcome.toNat), (27, i.splitSymbols.toNat)])
    else if 0x100 ≤ o ∧ o < 0x140 then some (BitVec.ofNat 32 (i.splitData.toNat / 2 ^ (8 * (o - 0x100))))
    else if 0x140 ≤ o ∧ o < 0x150 then some (BitVec.ofNat 32 (i.splitCheck.toNat / 2 ^ (8 * (o - 0x140))))
    else none

/-- ZLL (R252–R255). -/
def State.readZll (s : State) (h o : Nat) : Option Word :=
  let x := s.port (4 * h + o / 0x1000)
  if 0x4000 ≤ o then none
  else match o % 0x1000 with
  | 0x0 =>
    let up := match x.state with | .up | .widthChange | .retraining => true | _ => false
    some (packWord [
      (0, x.state.ctorIdx), (3, if up then x.laneMask.toNat else 0), (11, b2n x.nakPending), (12, b2n x.abandoned),
      (13, b2n x.request.isSome), (16, x.eseq.toNat)])
  | 0x4 => some (packWord [(2, x.narrowMask.toNat), (16, x.nakResendUs.toNat), (20, x.laneErrThr.toNat)])
  | 0x8 => some (packWord [(0, x.uncorr.toNat), (12, x.replays.toNat), (22, x.proto.toNat)])
  | 0xC => some x.trainId
  | _ => none

/-- ZLF (R296–R301). -/
def State.readZlf (s : State) (p : Path) (h o : Nat) : Option Word :=
  let g := s.zlg
  if o < 0x4000 then
    let x := s.port (4 * h + o / 0x1000)
    match o % 0x1000 with
    | 0x0 =>
      let waits := maskBits ((List.range 8).filter (fun v => x.creditWait v))
      some (packWord [(0, b2n x.windowMode), (1, b2n x.fallback), (2, x.initSeen.toNat), (10, (waits : BitVec 8).toNat)])
    | 0x4 => some (packWord [(0, x.overflow.toNat), (8, x.framing.toNat), (16, x.misroute.toNat), (24, x.windowDrop.toNat)])
    | _ => none
  else match o - 0x4000, h with
  | 0x0, 0 => some (packWord [(0, b2n g.hold), (1, g.holdReason.toNat), (3, b2n g.startup), (16, g.pathHoldUs.toNat)])
  | 0x4, 0 => some (packWord [(0, g.devNum.toNat), (31, b2n g.idLock)])
  | 0x8, 0 =>
    let n := (s.sel p).pathHost.toNat
    let x := s.host n
    some (packWord [
      (0, n), (12, b2n (s.pathUp n false)), (13, b2n (s.pathUp n true)), (14, b2n x.onSecondary), (15, b2n x.allLost)])
  | 0xC, 0 => some (packWord [
      (0, g.stratum.toNat), (4, b2n g.locked), (5, g.source.toNat), (7, g.sourcePort.toNat), (16, g.offsetNs.toNat)])
  | _, _ => none

/-- ETH (R340–R346). -/
def State.readEth (s : State) (h o : Nat) : Option Word :=
  let x := s.ethPort (h == 1)
  if 1 < h then none
  else match o, h with
  | 0x0, _ => some (packWord [
      (0, b2n x.linkUp), (1, x.speedAct.toNat), (3, b2n x.ipv4.isSome), (4, x.paused.toNat), (12, x.pausing.toNat)])
  | 0x4, _ => some (packWord [(0, x.fcs.toNat), (8, x.dropped.toNat), (16, x.badQp.toNat), (24, x.redDrop.toNat)])
  | 0x8, _ => some (packWord [(0, x.limitMs.toNat), (16, x.trips.toNat)])
  | 0xC, _ => some x.addr
  | 0x10, _ => some (packWord [(0, b2n x.isStatic), (1, x.prefix_.toNat)])
  | 0x1000, 0 => some (packWord [(0, b2n s.ethg.ptpEn), (1, b2n s.ethg.ptpPort), (2, s.ethg.ptpDomain.toNat)])
  | 0x1004, 0 => some (packWord [(0, s.kmp.length), (16, s.ethg.rejected.toNat)])
  | _, _ => none

/-- The queue that a path selects on a hub (R374). -/
def State.queSel (s : State) (p : Path) (h : Nat) : Nat := 2048 * h + ((s.sel p).que.getD h 0).toNat

/-- A fill in units of 1/255 of a depth. -/
def fillOf (t depth : Nat) : Nat := if depth = 0 then 0 else min 255 (t * 255 / depth)

/-- QUE (R374–R378). -/
def State.readQue (s : State) (p : Path) (h o : Nat) : Option Word :=
  match o, h with
  | 0x0, _ => some (packWord [(0, ((s.sel p).que.getD h 0).toNat)])
  | 0x4, _ =>
    let q := s.queSel p h
    let x := s.shaperNow q
    let err := match s.qps.get? q with | some y => y.error | none => false
    some (packWord [
      (0, x.ring.length), (7, x.ring.countP RingSlot.flying), (12, min 64 x.heldDone),
      (19, b2n (decide (s.queueRate q ≠ 0) && decide (x.bucket ≤ 0))), (20, b2n err)])
  | 0x8, _ =>
    let x := s.queHub h
    some (packWord [(0, x.level.toNat), (2, min 255 (x.smoothed * 256).floor.toNat), (10, min 255 (s.engineBusy h))])
  | 0xC, 0 => some (packWord [(0, (s.sel p).meter.toNat)])
  | 0x10, 0 =>
    let n := (s.sel p).meter.toNat
    let m := s.meterNow n
    some (if s.meterOn n then packWord [
        (0, 1), (1, m.last.ctorIdx), (3, fillOf m.tc (s.meterU8 n 4 * 65536 * 1000)), (11, fillOf m.tp (s.meterU8 n 5 * 65536 * 1000))]
      else 0)
  | _, _ => none

/-- The gates of a job whose save hub is `h`. -/
def State.gatesOn (s : State) (h j : Nat) : List (List Byte) :=
  (imgGateList (s.job j).image).filter (fun g => s.gateHub j g == h)

/-- SLG (R485–R487). -/
def State.readSlg (s : State) (h o : Nat) : Option Word :=
  let x := s.slgHub h
  match o with
  | 0x0 =>
    let all := s.jobs.flatMap (fun e => (s.gatesOn h e.1).map (fun g => (e.1, s.gate e.1 (gExpert g))))
    let opened := all.countP (fun g => (s.job g.1).gates.open_ && !(s.job g.1).gates.closed && (g.2.slots.any (·.isSome) || !g.2.spill.isEmpty || !g.2.residual.isEmpty))
    let next := s.jobs.foldl (fun a e => (s.gatesOn h e.1).foldl (fun a g => a + (e.2.spilledIn.getD (gExpert g) []).length) a) 0
    let spill := all.foldl (fun a g => a + g.2.spill.length) next
    let busy := s.jobs.any (fun e => (e.2.gates.reads.map (·.2) ++ e.2.gates.writes).any (fun id =>
      s.accHub id == some h && (!s.accOver id || s.accStatus id == .retry)))
    some (packWord [(0, sat opened 13), (13, sat spill 11), (24, b2n busy), (25, x.gathers.length)])
  | 0x4 => some (packWord [(0, x.late.toNat), (8, x.unknown.toNat), (16, x.residual.toNat), (24, x.gatherRefused.toNat)])
  | 0x8 => some (packWord [(0, x.faultExpert.toNat), (12, x.faultCause.toNat), (16, x.faultJob.toNat), (31, b2n x.faultValid)])
  | _ => none

/-- JOB (R518–R523). -/
def State.readJob (s : State) (p : Path) (h o : Nat) : Option Word :=
  let n := (s.sel p).job.toNat
  let x := s.job n
  match o, h with
  | 0x0, 0 => some (packWord [(0, n)])
  | 0x4, 0 => some (packWord [(0, x.state.ctorIdx), (8, x.cause), (16, x.flags.toNat)])
  | 0x8, 0 =>
    let resident := s.clus.countP (fun c => match c.2.resident with | some r => r.1 == n | none => false)
    some (packWord [(0, x.step % 2 ^ 20), (20, resident)])
  | 0xC, 0 => some (match x.diverge with
      | some d => packWord [(0, d.step.toNat), (20, d.lc.toNat), (31, 1)]
      | none => 0)
  | 0x10, 0 =>
    let (hub, k) := match x.diverge with | some d => (d.hub.toNat, d.cluster.toNat) | none => (0, 0)
    some (packWord [(0, hub), (3, k), (16, s.jobs.length)])
  | 0x14, _ => some (packWord [(0, sat ((s.savedOn h + 2 ^ 20 - 1) / 2 ^ 20) 16), (16, sat (s.saveArea h * 1024) 16)])
  | _, _ => none

/-- TRN (R545–R549). -/
def State.readTrn (s : State) (h o : Nat) : Option Word :=
  let x := s.trnHub h
  let l := x.log
  match o, h with
  | 0x0, _ => some (packWord [
      (0, x.walks.length), (5, x.records.length), (12, sat (x.second.foldl (fun a e => a + e.2.length) 0) 14),
      (26, b2n (s.shoot.now.any (fun y => y.hubs.contains h)))])
  | 0x4, _ => some (packWord [(0, x.holdLimitMs.toNat)])
  | 0x8, 0 => some (packWord [
      (0, s.shoot.job.toNat), (12, b2n s.shoot.scope), (13, b2n s.shoot.go), (14, b2n s.shoot.done), (15, s.shoot.count.toNat)])
  | 0xC, 0 => some (packWord [(0, s.shoot.base.toNat)])
  | 0x10, _ => some (packWord [
      (0, l.kind.toNat), (3, l.level.toNat), (5, l.stream.toNat), (8, l.cluster.toNat), (12, l.job.toNat), (31, b2n l.valid)])
  | _, _ => none

/-- The governing cap of a hub's clock (R641, R664); of equal caps, the first of `CLK_MAX_MHZ`, thermal, snowplough and first-use. -/
def State.capCode (s : State) (h : Nat) : Nat :=
  let p := s.pwrHub h
  let c := s.clkStep h
  if s.clkMax = c then 0 else if p.thermalStep = c then 1 else if p.snowCap.getD 14 = c then 2 else 3

/-- PWR (R663–R668). -/
def State.readPwr (s : State) (h o : Nat) : Option Word :=
  let x := s.pwrHub h
  match o, h with
  | 0x0, 0 => some (packWord [
      (0, b2n s.clk.copy.feedAOk), (1, b2n s.clk.copy.feedBOk), (2, s.pwr.ampsA.toNat), (11, s.pwr.ampsB.toNat), (20, b2n s.pwr.holdB)])
  | 0x4, _ => some (packWord [
      (0, b2n x.activeB), (1, s.clkStep h), (5, s.capCode h), (7, b2n (x.acting || x.snowCap.isSome)), (8, b2n x.poolThr), (9, x.duty),
      (16, x.switchovers.toNat)])
  | 0x8, _ => some (packWord [
      (0, sat (x.poolUj / 10) 11), (11, sat (x.held / 10) 11), (22, sat (s.waitingStarts h).length 10)])
  | 0xC, _ => some (packWord [(0, x.tj.toNat), (8, x.thermalStep), (12, b2n x.firstUse), (16, x.trips.toNat)])
  | 0x10, 0 =>
    let l := s.pwr.log
    some (packWord [(0, l.cause.toNat), (3, l.hub.toNat), (6, b2n l.feed), (7, b2n l.escalated), (31, b2n l.valid)])
  | 0x14, 0 => some (packWord [(4, s.pwr.cmdResult.toNat)])
  | _, _ => none

/-- The code of `CLU_SEQ_STATUS.WAIT_KIND` (R447). -/
def LcWait.code : LcWait → Nat
  | .none => 0 | .sem _ _ => 1 | .fence => 2 | .gate _ _ => 3 | .barrier => 4 | .full _ => 5

/-- CLU (R410–R412, R447, R448, R488). -/
def State.readClu (s : State) (h k o : Nat) : Option Word :=
  let x := s.clu h k
  let lc := match x.resident with | some (j, i) => some (i, s.lc j i) | none => none
  match o with
  | 0x0 =>
    let st := if x.stopped || s.fatal then 3 else match lc with
      | none => 0
      | some (_, l) => match l.phase with | .running => 1 | _ => 2
    let (m, v) := match lc with | some (_, l) => (!l.mat.isEmpty, !l.vec.isEmpty) | none => (false, false)
    some (packWord [(0, st), (2, b2n m), (3, b2n v)])
  | 0x4 => some (packWord [(0, b2n x.range), (1, b2n x.format)])
  | 0x8 => some (packWord [(0, 1), (8, 24), (16, 32)])
  | 0xC => some (match lc with
      | some (i, l) => packWord [(0, if s.sealed then 0 else l.regs.pc.toNat), (14, i), (24, l.wait.code)]
      | none => 0)
  | 0x10 => some (packWord [
      (0, b2n x.shape), (1, b2n x.align), (2, b2n x.semOvf), (3, b2n x.superstep), (4, b2n x.stream), (5, b2n x.trap),
      (16, x.trapCode.toNat)])
  | 0x14 => some (packWord [(0, b2n x.metaBad), (1, b2n x.aux)])
  | _ => none

/-- TEN (R699–R702). -/
def State.readTen (s : State) (o : Nat) : Option Word :=
  let t := s.ten
  match o with
  | 0x0 =>
    let keys : BitVec 4 := maskBits ((List.range 4).filter (fun k => (t.slots.get? k).isSome))
    some (packWord [
      (0, t.state.ctorIdx), (3, b2n s.sealed), (4, b2n t.tenantCarve), (8, if s.spDown ∧ ¬s.spRestarting then 0 else keys.toNat),
      (12, t.lastResult.toNat)])
  | 0x4 => some (packWord [(10, b2n s.tenBusy)])
  | 0x8 => some (packWord [(0, t.unkeyed.toNat), (16, t.tagFail.toNat)])
  | _ => if 0x400 ≤ o ∧ o < 0x600 then some (t.keyWin.getD ((o - 0x400) / 4) 0) else none

/-- FW (R721–R726). What start-up loads reads 0 until the security processor runs. -/
def State.readFw (s : State) (o : Nat) : Option Word :=
  let f := s.fw
  let started := !s.spDown || s.spRestarting
  match o with
  | 0x0 => some (packWord [
      (0, f.phase.toNat), (3, b2n (f.stage.any (fun b => decide (0 < b.top)))), (4, f.lastResult.toNat), (8, s.hubsDone.toNat), (16, b2n (f.writing || f.restart.isSome))])
  | 0x4 => some 0
  | 0x8 => some (if started then versionOf f.spImage else 0)
  | 0xC => some (if started then f.svn else 0)
  | 0x30 =>
    let pend := match f.pendSp with | some x => some x | none => f.pendHc
    some (packWord [
      (0, match pend with | some x => relOf x.version | none => 0), (16, b2n f.spBank), (17, f.hcBank.toNat)])
  | _ =>
    if 0x10 ≤ o ∧ o < 0x30 then
      let h := (o - 0x10) / 4
      some (if s.hubPresent h ∧ (s.hub h).hcRunning ∧ ¬s.hcRestarting h then versionOf (f.hcImage h) else 0)
    else none

/-- DBG (R768–R773). -/
def State.readDbg (s : State) (h o : Nat) : Option Word :=
  let x := s.traceHubs.getD h {}
  let t := s.trig
  match o with
  | 0x0 => some (packWord [(0, b2n s.traceEn), (1, b2n t.frozen), (2, b2n t.postOpen), (16, x.frozenLost.toNat)])
  | 0x4 => some (packWord [
      (0, x.minWaitNs.toNat), (16, b2n x.cluStep), (17, b2n (decide (h = 0) && (match t.kmpTarget with | some k => (s.session k).isSome | none => false)))])
  | 0x8 => if h ≠ 0 then none else some (packWord [
      (0, t.source.toNat), (3, t.ekind.toNat), (9, b2n t.armed), (10, t.waitUs.toNat), (20, t.postUs.toNat)])
  | 0xC => some (packWord [(0, x.ringType.toNat), (2, x.ringUnit.toNat)])
  | 0x10 => if s.exportHere h then some (packWord [(0, t.head.toNat)]) else none
  | 0x14 => if s.exportHere h then some (packWord [(0, t.tail.toNat)]) else none
  | 0x18 => some 0
  | _ => none

/-- SYS (R801–R807). -/
def State.readSys (s : State) (h o : Nat) : Option Word :=
  let x := s.sys
  match o, h with
  | 0x10, _ =>
    let y := s.hub h
    some (packWord [(0, b2n y.refclkOk), (1, b2n y.sdsRefclkOk), (2, b2n y.pllLock)])
  | 0x0, 0 =>
    let halted := x.phase == .halted
    some (packWord [
      (0, if x.done then 0 else x.step.toNat), (4, b2n halted), (5, if halted then x.haltHub.toNat else 0),
      (8, if halted then x.haltUnit.toNat else 0), (14, b2n x.done)])
  | 0x4, 0 => some (packWord [(4, x.lastCause.toNat), (7, b2n x.afterFatal)])
  | 0x8, 0 => some (packWord [
      (0, x.hrHub.toNat), (3, b2n x.hrGo), (4, x.hrResult.toNat), (8, x.hrLastHub.toNat), (11, x.hrLastTrig.toNat)])
  | 0xC, 0 => some (packWord [(0, x.ethMedium.toNat), (2, x.i3cPid.toNat)])
  | 0x14, 0 => some (packWord [(0, b2n x.sync.locked), (1, b2n x.sync.outEn), (2, b2n x.sync.inEn), (16, x.sync.delayNs.toNat)])
  | 0x18, 0 => some (packWord [
      (0, b2n x.wake), (1, b2n s.clk.copy.sleeping), (2, s.clk.copy.lastWake.toNat), (4, b2n s.clk.copy.clk32kLost)])
  | _, _ => none

/-- A block of a hub exists: it is in the map, its hub is present, and a cluster's block has an enabled cluster (R22, R41, R748). -/
def State.blockHere (s : State) (h b : Nat) : Bool :=
  s.hubPresent h && decide (1 ≤ b ∧ b ≤ 0x21) && (if 0x10 ≤ b ∧ b ≤ 0x1D then s.clusterPresent h (b - 0x10) else true)
    && (if b = 2 ∨ b = 6 ∨ b = 0x1E ∨ b = 0x1F then h == 0 else true)

/-- A mailbox copy (R740, R741). -/
def State.mbxAt (s : State) (p : Path) (h b : Nat) : Mbx := s.mbx.getD (mbxKey p h b) {}

/-- A mailbox window (R742–R744). -/
def Mbx.read (x : Mbx) (o : Nat) : Option Word :=
  if o = 0x3FE00 then some (packWord [(0, x.id.toNat), (8, x.index.toNat)])
  else if o = 0x3FE04 then some (packWord [
    (0, b2n x.valid), (1, b2n x.busy), (2, x.err.toNat), (8, x.len.toNat), (16, x.idEcho.toNat)])
  else if 0x3FF00 ≤ o then some (if x.busy then 0 else x.data.getD ((o - 0x3FF00) / 4) 0)
  else none

/-- What a register of a present block reads in full; none for a location that no table defines (R732). -/
def State.regRead (s : State) (p : Path) (h b o : Nat) : Option Word :=
  if ¬s.blockHere h b then none
  else if 0x3FE00 ≤ o then (s.mbxAt p h b).read o
  else match b with
  | 0x01 => s.readHubInfo h o
  | 0x02 => s.readSi o
  | 0x03 => s.readPool h o
  | 0x04 => s.readCoh p h o
  | 0x05 => s.readMem p h o
  | 0x06 => s.readLift o
  | 0x07 => s.readInt p h o
  | 0x08 => s.readZll h o
  | 0x09 => s.readZlf p h o
  | 0x0A => s.readEth h o
  | 0x0B => s.readQue p h o
  | 0x0C => s.readSlg h o
  | 0x0D => s.readJob p h o
  | 0x0E => s.readTrn h o
  | 0x0F => s.readPwr h o
  | 0x1E => s.readTen o
  | 0x1F => s.readFw o
  | 0x20 => s.readDbg h o
  | 0x21 => s.readSys h o
  | _ => s.readClu h (b - 0x10) o

/-! ### What a path reaches (R729, R730, R749) -/

/-- An illegal address (R729). -/
def illegalAddr (a : Word) : Bool := decide (a.toNat % 4 ≠ 0 ∨ 2 ^ 29 ≤ a.toNat)
/-- The hub of an address (R728). -/
def addrHub (a : Word) : Nat := a.toNat / 2 ^ 26 % 8
/-- The block. -/
def addrBlock (a : Word) : Nat := a.toNat / 2 ^ 18 % 256
/-- The offset. -/
def addrOff (a : Word) : Nat := a.toNat % 2 ^ 18

/-- The path reads block `b` now (R730, R794, R657): in sleep `SYS_WAKE` over I3C alone; at a halt I3C reads HUB_INFO and SYS. -/
def State.reads (s : State) (p : Path) (h b o : Nat) : Bool :=
  !s.pwr.shutOff && (match s.sys.phase with
    | .unpowered | .inReset => false
    | .sleeping => p == .i3c && b == 0x21 && h == 0 && o == 0x18
    | .halted => p != .i3c || b == 1 || b == 0x21
    | _ => true)
  && (match p with
    | .i3c => b == 0x01 || b == 0x05 || b == 0x0F || b == 0x21
    | .jtag => s.jtagAllowed
    | _ => true)

/-- A read over a path: 0 where the path does not reach, where nothing is defined, and where the hub is in partial reset (R730, R732,
R749). -/
def State.csrRead (s : State) (p : Path) (a : Word) : Word :=
  let h := addrHub a
  let b := addrBlock a
  if illegalAddr a ∨ ¬s.reads p h b (addrOff a) ∨ ((s.hub h).phase ≠ .none ∧ b ≠ 1) then 0
  else (s.regRead p h b (addrOff a)).getD 0

end Sys2Proof.Machine
end

