-- ==== Sys2Proof/Machine/RegWrite.lean ====
section
/-! DEFINITION. RegWrite.lean: what a write of a register does (the register tables of all chapters; R730–R739, R749, R750, R809). -/
namespace Sys2Proof.Machine
open Sys2Proof

/-- The result of a pair that is performed, or ignored (R737). -/
abbrev Written := BitVec 8 × State

/-! ### W1C fields (R731) -/

/-- Clears the W1C fields that a write of `v` names, by the register's block and offset; none when the register has no such field. -/
def State.writeW1c (s : State) (h b o : Nat) (v : Word) : Option State :=
  let on (i : Nat) : Bool := v.getLsbD i
  match b with
  | 0x02 => if o = 0 then some (s.modSi (fun x => { x with healthFail := x.healthFail && !on 12, returned := x.returned && !on 13 })) else none
  | 0x04 => if o = 0x14 then some (if on 1 then s.clearReclaim h else s) else none
  | 0x07 => if o = 0x10 then some (s.modMemHub h (fun x => { x with suspectValid := x.suspectValid && !on 13 })) else none
  | 0x08 =>
    if o < 0x4000 ∧ o % 0x1000 = 0 then some (s.modPort (4 * h + o / 0x1000) (fun x => { x with abandoned := x.abandoned && !on 12 }))
    else none
  | 0x0A => if o = 8 ∧ h < 2 then some (s.modEth (h == 1) (fun x => { x with trips := if on 16 then 0 else x.trips })) else none
  | 0x0C => if o = 8 then some (s.modSlg h (fun x => { x with faultValid := x.faultValid && !on 31 })) else none
  | 0x0E =>
    if o = 0x10 then some (s.modTrn h (fun x => { x with log := { x.log with valid := x.log.valid && !on 31 } }))
    else if o = 8 ∧ h = 0 then some { s with shoot := { s.shoot with done := s.shoot.done && !on 14 } }
    else none
  | 0x0F => if o = 0x10 ∧ h = 0 then some { s with pwr := { s.pwr with log := { s.pwr.log with valid := s.pwr.log.valid && !on 31 } } } else none
  | 0x20 => if o = 0 then some { s with traceHubs := s.traceHubs.mod h {} (fun x => { x with frozenLost := if on 16 then 0 else x.frozenLost }) } else none
  | _ =>
    if 0x10 ≤ b ∧ b ≤ 0x1D then
      let f (g : Clu → Clu) : Option State := some { s with clus := s.clus.mod (h * 16 + (b - 0x10)) {} g }
      if o = 4 then f (fun x => { x with range := x.range && !on 0, format := x.format && !on 1 })
      else if o = 0x10 then f (fun x => { x with
        shape := x.shape && !on 0, align := x.align && !on 1, semOvf := x.semOvf && !on 2, superstep := x.superstep && !on 3,
        stream := x.stream && !on 4, trap := x.trap && !on 5 })
      else if o = 0x14 then f (fun x => { x with metaBad := x.metaBad && !on 0, aux := x.aux && !on 1 })
      else none
    else none

/-! ### Registers that act or store, by block -/

/-- `SI_CMD` (R72, R85). -/
def State.siCommand (s : State) (p : Path) (cmd : Nat) (m : Medium) : State :=
  match cmd with
  | 1 => s.siOpen p
  | 2 => s.siValidate p
  | 3 => s.siCommit p m
  | 4 => s.siCommitOnReset p
  | 5 => s.siAbandon p
  | 6 => s.siRevert p m
  | _ => s

/-- `COH_DEAD_CMD` (R207, R213, R218): each path keeps its own `HOST`. -/
def State.deadCommand (s : State) (p : Path) (v : Word) (m : Medium) : State :=
  let d : BitVec 10 := v.setWidth 10
  let keep := s.coh.cmdHost
  let t := match field v 13 12 with
    | 1 => s.cohDeclare d m
    | 2 => s.cohReadmit d
    | _ => s.cohDeadQuery d
  if p = .firmware then t
  else ({ t with coh := { t.coh with cmdHost := keep } } : State).modSel p (fun x => { x with deadHost := d })

/-- `MEM_CTL` of the selected channel (R563, R577, R586). -/
def State.memCtl (s : State) (h c : Nat) (v : Word) : State :=
  let idle := field v 25 16
  let s := if c < 32 then s else s.modChan h c (fun x => { x with srIdleUs := BitVec.ofNat 10 (if idle = 0 then 0 else clampNat idle 10 1000) })
  let s := if v.getLsbD 0 then s.retrainCmd h c else s
  let s := if v.getLsbD 1 then s.srEnterCmd h c else s
  if v.getLsbD 2 then s.srExit h c else s

/-- `LIFT_CMD` (R570, R587). -/
def State.liftCommand (s : State) (v : Word) : State :=
  let e : BitVec 16 := v.setWidth 16
  match field v 25 24 with
  | 1 => s.liftStart e (BitVec.ofNat 4 (field v 19 16)) (v.getLsbD 23) (field v 22 20)
  | 2 => s.liftCancel e
  | _ => s

/-- Replaces 32-bit word `k` of a wide value. -/
def setWord {n : Nat} (x : BitVec n) (k : Nat) (v : Word) : BitVec n :=
  BitVec.ofNat n (x.toNat - x.toNat / 2 ^ (32 * k) % 2 ^ 32 * 2 ^ (32 * k) + v.toNat * 2 ^ (32 * k))

/-- INT (R603, R612–R618, R621–R632). -/
def State.writeInt (s : State) (p : Path) (h o : Nat) (v : Word) (e : WriteEnv) : State :=
  match o with
  | 0x0 =>
    let hours := field v 7 0
    s.modMemHub h (fun x => { x with
      scrubHours := BitVec.ofNat 8 hours, ceRowThr := BitVec.ofNat 4 (clampNat (field v 11 8) 2 15),
      scrubActive := if hours = 0 then false else x.scrubActive || x.scrubHours == 0 })
  | 0x8 => s.modMemHub h (fun x => { x with ce := BitVec.ofNat 16 (field v 15 0), ue := BitVec.ofNat 16 (field v 31 16) })
  | 0x20 => if v.getLsbD 31 then s.logAck else s
  | 0x24 => { s with integ := { s.integ with retirePage := v } }
  | 0x28 => match field v 1 0 with | 1 => s.pageRetire | 2 => s.pageRelease | _ => s
  | 0x2C => s.modSel p (fun x => { x with rlogIndex := BitVec.ofNat 13 (field v 28 16) })
  | 0x40 => { s with integ := { s.integ with splitExt := v.setWidth 16 } }
  | 0x44 =>
    let s : State := { s with integ := { s.integ with splitLine := v.setWidth 22 } }
    match field v 23 22 with
    | 1 => s.rawWrite p
    | 2 => s.rawRead p e.flips
    | _ => s
  | _ =>
    if 0x100 ≤ o ∧ o < 0x140 then { s with integ := { s.integ with splitData := setWord s.integ.splitData ((o - 0x100) / 4) v } }
    else if 0x140 ≤ o ∧ o < 0x150 then { s with integ := { s.integ with splitCheck := setWord s.integ.splitCheck ((o - 0x140) / 4) v } }
    else s

/-- ZLL (R253, R254). -/
def State.writeZll (s : State) (h o : Nat) (v : Word) : State :=
  let n := 4 * h + o / 0x1000
  match o % 0x1000 with
  | 0x4 =>
    let mask : BitVec 8 := BitVec.ofNat 8 (field v 9 2)
    let s := s.modPort n (fun x => { x with
      narrowMask := mask, nakResendUs := BitVec.ofNat 4 (clampNat (field v 19 16) 1 15), laneErrThr := BitVec.ofNat 8 (field v 27 20) })
    let s := if v.getLsbD 0 then s.request n .retrain else s
    if v.getLsbD 1 then s.narrow n mask else s
  | 0x8 => s.modPort n (fun x => { x with
      uncorr := BitVec.ofNat 12 (field v 11 0), replays := BitVec.ofNat 10 (field v 21 12), proto := BitVec.ofNat 8 (field v 29 22) })
  | _ => s

/-- ZLF (R297–R300); `ZLF_ID` answers 2 when a locked number would change (R739). -/
def State.writeZlf (s : State) (p : Path) (h o : Nat) (v : Word) : Written :=
  if o < 0x4000 then
    (0, if o % 0x1000 = 4 then s.modPort (4 * h + o / 0x1000) (fun x => { x with
        overflow := BitVec.ofNat 8 (field v 7 0), framing := BitVec.ofNat 8 (field v 15 8), misroute := BitVec.ofNat 8 (field v 23 16),
        windowDrop := BitVec.ofNat 8 (field v 31 24) })
      else s)
  else if o = 0x4000 then (0, s.zlfCtl (v.getLsbD 0) (BitVec.ofNat 2 (field v 2 1)) (BitVec.ofNat 10 (field v 25 16)))
  else if o = 0x4004 then
    let n : BitVec 8 := v.setWidth 8
    if s.zlg.idLock then (if n = s.zlg.devNum then 0 else 2, s)
    else (0, { s with zlg := { s.zlg with devNum := n, idLock := v.getLsbD 31 } })
  else if o = 0x4008 then (0, s.modSel p (fun x => { x with pathHost := v.setWidth 10 }))
  else (0, s)

/-- A write of `PTP_CTL` (R335, R345): another source begins afresh. -/
def State.ptpWrite (s : State) (v : Word) : State :=
  let t : State := { s with ethg := { s.ethg with
    ptpEn := v.getLsbD 0, ptpPort := v.getLsbD 1, ptpDomain := BitVec.ofNat 8 (field v 9 2) } }
  if t.ethg = s.ethg then s else t.ptpLost

/-- ETH (R341–R345). -/
def State.writeEth (s : State) (h o : Nat) (v : Word) : State :=
  let e := h == 1
  match o with
  | 0x4 => s.modEth e (fun x => { x with
      fcs := BitVec.ofNat 8 (field v 7 0), dropped := BitVec.ofNat 8 (field v 15 8), badQp := BitVec.ofNat 8 (field v 23 16),
      redDrop := BitVec.ofNat 8 (field v 31 24) })
  | 0x8 => s.modEth e (fun x => { x with limitMs := BitVec.ofNat 10 (clampNat (field v 9 0) 10 1000) })
  | 0xC => s.ipv4Write e v
  | 0x10 =>
    let s := s.modEth e (fun x => { x with isStatic := v.getLsbD 0, prefix_ := BitVec.ofNat 6 (field v 6 1) })
    if (s.ethPort e).linkUp then s.dhcpStart e else s
  | 0x1000 => s.ptpWrite v
  | _ => s

/-- QUE (R374, R377). -/
def State.writeQue (s : State) (p : Path) (h o : Nat) (v : Word) : State :=
  match o with
  | 0x0 => s.modSel p (fun x => { x with que := x.que.set h (v.setWidth 11) })
  | 0xC => s.modSel p (fun x => { x with meter := BitVec.ofNat 11 (min (field v 10 0) 0x4FF) })
  | _ => s

/-- `TR_SHOOT` and `TR_SHOOT_BASE`, which firmware alone writes (R547, R548). -/
def State.shootWrite (s : State) (o : Nat) (v : Word) : State :=
  if o = 0xC then { s with shoot := { s.shoot with base := v.setWidth 27 } }
  else
    let was := s.shoot.go
    let s : State := { s with shoot := { s.shoot with
      job := v.setWidth 12, scope := v.getLsbD 12, count := BitVec.ofNat 17 (field v 31 15) } }
    if v.getLsbD 13 ∧ ¬was then
      let x := s.shoot
      ({ s with shoot := { x with go := true } } : State).shootdown
        { job := x.job.toNat, range := if x.scope then some (x.base.toNat, x.count.toNat) else none }
    else s

/-- PWR (R664, R666, R668). -/
def State.writePwr (s : State) (h o : Nat) (v : Word) : State :=
  match o with
  | 0x4 => s.modPwr h (fun x => { x with switchovers := BitVec.ofNat 16 (field v 31 16) })
  | 0xC => s.modPwr h (fun x => { x with trips := BitVec.ofNat 16 (field v 31 16) })
  | 0x14 => match field v 2 0 with
    | 1 => s.holdB
    | 2 => s.releaseHold
    | 3 => s.snowTest
    | 4 => s.sleep
    | _ => s
  | _ => s

/-- `TEN_CMD` (R700). -/
def State.tenCommand (s : State) (p : Path) (v : Word) (m : Medium) : State :=
  let slot : Fin 4 := Fin.ofNat 4 (field v 4 3)
  match field v 2 0 with
  | 1 => s.enrol p slot (BitVec.ofNat 4 (field v 8 5))
  | 2 => s.revoke p slot
  | 3 => s.openEpoch p (v.getLsbD 9)
  | 4 => s.endEpoch p m
  | 5 => s.resurface p m
  | _ => s

/-- TEN (R700–R702). -/
def State.writeTen (s : State) (p : Path) (o : Nat) (v : Word) (m : Medium) : State :=
  match o with
  | 0x4 => s.tenCommand p v m
  | 0x8 => { s with ten := { s.ten with unkeyed := v.setWidth 16, tagFail := BitVec.ofNat 16 (field v 31 16) } }
  | _ => if 0x400 ≤ o ∧ o < 0x600 then { s with ten := { s.ten with keyWin := s.ten.keyWin.set ((o - 0x400) / 4) v } } else s

/-- `FW_CMD` (R722). -/
def State.fwCommand (s : State) (p : Path) (op : Nat) : State :=
  match op with
  | 1 => s.fwOpen p
  | 2 => s.fwVerifyCmd p
  | 3 => s.fwStart p
  | 4 => s.fwAbort p
  | 5 => s.fwRollback p
  | _ => s

/-- DBG (R769–R773). -/
def State.writeDbg (s : State) (p : Path) (h o : Nat) (v : Word) : State :=
  match o with
  | 0x4 =>
    let s : State := { s with traceHubs := s.traceHubs.mod h {} (fun x => { x with minWaitNs := v.setWidth 16, cluStep := v.getLsbD 16 }) }
    match p with
    | .kmp k => if h = 0 ∧ v.getLsbD 17 then s.setTarget k else s
    | _ => s
  | 0x8 =>
    let src := field v 2 0
    let s := s.modTrig (fun t => { t with
      source := BitVec.ofNat 3 (if 6 ≤ src then 0 else src), ekind := BitVec.ofNat 4 (field v 6 3),
      waitUs := BitVec.ofNat 10 (clampNat (field v 19 10) 1 1000), postUs := BitVec.ofNat 10 (clampNat (field v 29 20) 0 1000) })
    let s := if v.getLsbD 8 then s.rearm else s
    if v.getLsbD 7 then s.fire else s
  | 0xC => { s with traceHubs := s.traceHubs.mod h {} (fun x => { x with ringType := v.setWidth 2, ringUnit := BitVec.ofNat 4 (field v 5 2) }) }
  | 0x14 => s.setTail (v.setWidth 25)
  | 0x18 => if v.getLsbD 9 then s.counterReset h (field v 7 0) (v.getLsbD 8) else s
  | _ => s

/-- SYS (R802, R803, R806, R807). -/
def State.writeSys (s : State) (p : Path) (o : Nat) (v : Word) (m : Medium) : State :=
  match o with
  | 0x4 => if field v 1 0 = 1 then s.packageReset (resetCause p) else s
  | 0x8 => if v.getLsbD 3 then s.hubReset (field v 2 0) m else s.modSys (fun x => { x with hrHub := v.setWidth 3 })
  | 0x14 =>
    let s := s.modSys (fun x => { x with sync := { x.sync with
      outEn := v.getLsbD 1, inEn := v.getLsbD 2, delayNs := BitVec.ofNat 16 (field v 31 16) } })
    if v.getLsbD 2 then s
    else
      let s := s.modSys (fun x => { x with sync := { x.sync with locked := false, good := 0, misses := 0, lastTime := none } })
      ({ s with zlg := { s.zlg with syncOffsets := [] } } : State).chooseSource
  | 0x18 => if v.getLsbD 0 then s.wakeUp 3 else s
  | _ => s

/-! ### The mailbox (R740–R744) -/

/-- The security processor holds a value (R746). -/
def spHeld (b id : Nat) : Bool := b == 2 || b == 0x1E || b == 0x1F || (b == 7 && id == 1)

/-- The selector that a value of block `b` follows, as it stands now (R750). -/
def State.mbxSel (s : State) (p : Path) (h b id : Nat) : Nat :=
  match b with
  | 0x05 => s.memSel p h
  | 0x07 => (s.sel p).rlogIndex.toNat
  | 0x0B => if id < 0x88 then (s.sel p).meter.toNat else ((s.sel p).que.getD h 0).toNat
  | 0x0D => (s.sel p).job.toNat
  | 0x20 => let x := s.traceHubs.getD h {}; x.ringType.toNat * 16 + x.ringUnit.toNat
  | _ => 0

/-- Changes a mailbox copy. -/
def State.modMbx (s : State) (p : Path) (h b : Nat) (f : Mbx → Mbx) : State := { s with mbx := s.mbx.mod (mbxKey p h b) {} f }

/-- A write of `MBX_REQ` (R742, R744); a value of the security processor while it restarts completes at once (R746). -/
def State.mbxRequest (s : State) (p : Path) (h b : Nat) (v : Word) : Written :=
  if (s.mbxAt p h b).busy then (5, s)
  else
    let id : BitVec 8 := v.setWidth 8
    let op := field v 17 16
    let s := s.modMbx p h b (fun x => { x with id := id, index := BitVec.ofNat 8 (field v 15 8) })
    (0, if op ≠ 1 ∧ op ≠ 2 then s
      else if s.spDown ∧ spHeld b id.toNat then
        s.modMbx p h b (fun x => { x with valid := false, busy := false, err := 5, len := 0, idEcho := id, data := [] })
      else
        s.modMbx p h b (fun x => { x with
          valid := false, busy := true, writing := op == 2, err := 0, len := 0, idEcho := id, sel := s.mbxSel p h b id.toNat, tenant := s.isTenant p,
          data := if op = 2 then x.data else [] }))

/-- A write into a mailbox window (R742, R744). -/
def State.writeMbx (s : State) (p : Path) (h b o : Nat) (v : Word) : Written :=
  if o = 0x3FE00 then s.mbxRequest p h b v
  else if 0x3FF00 ≤ o then
    (if (s.mbxAt p h b).busy then (1, s) else (0, s.modMbx p h b (fun x => { x with data := x.data.set ((o - 0x3FF00) / 4) v })))
  else (0, s)

/-! ### Rights and reach (R673, R674, R678, R679, R730) -/

/-- The path holds the carving right (R121, R570, R614). -/
def State.pathCarves (s : State) (p : Path) : Bool :=
  match p with | .firmware => true | .kmp k => s.slotMayCarve k | _ => false

/-- The register takes writes of a holder of the carving right alone (R570, R614). -/
def carveReg (h b o : Nat) : Bool := h == 0 && ((b == 6 && o == 0) || (b == 7 && (o == 0x24 || o == 0x28)))

/-- `TEN_CMD` or `TEN_KEY_WIN`. -/
def keyReg (h b o : Nat) : Bool := h == 0 && b == 0x1E && (o == 4 || (decide (0x400 ≤ o) && decide (o < 0x600)))

/-- The path has the right to write a register (R673, R674, R678). -/
def State.mayWrite (s : State) (p : Path) (h b o : Nat) : Bool :=
  if carveReg h b o then s.pathCarves p || p == .jtag || p == .i3c
  else match p with
  | .kmp _ => (s.pathUsage p).getLsbD 0 || s.isTenant p
      || (keyReg h b o && ((s.pathUsage p).getLsbD 3 || s.ten.slots.isEmpty))
  | _ => true

/-- The blocks a tenant session reads (R679). -/
def tenantBlock (b : Nat) : Bool :=
  b == 0x01 || b == 0x03 || b == 0x0B || b == 0x0C || b == 0x0D || b == 0x0F || (decide (0x10 ≤ b) && decide (b ≤ 0x1D))

/-- A tenant session's `REG_READ` may name a location (R679). -/
def tenantReads (h b o : Nat) : Bool := tenantBlock b || (h == 0 && b == 0x1E && o == 0)

/-- A tenant session's `REG_WRITE` may name a location (R679, R741). -/
def tenantWrites (h b o : Nat) : Bool :=
  (b == 0x0D && o == 0 && h == 0) || (b == 0x0B && (o == 0 || (o == 0xC && h == 0))) || (b == 0x1E && o == 4 && h == 0)
    || (tenantBlock b && (o == 0x3FE00 || decide (0x3FF00 ≤ o)))

/-- Registers whose writes over I3C and JTAG the part ignores (R71, R207, R570, R614, R700, R711, and the PWR block). -/
def boardIgnored (b o : Nat) : Bool :=
  (b == 2 && o == 4) || (b == 4 && o == 0x10) || (b == 6 && o == 0) || (b == 7 && o == 0x28) || (b == 0x0F && o == 0x14)
    || (b == 0x1E && (o == 4 || (decide (0x400 ≤ o) && decide (o < 0x600)))) || (b == 0x1F && o == 4)

/-- The path's writes reach a location now (R730, R787, R545, R657, R794). -/
def State.writes (s : State) (p : Path) (h b o : Nat) : Bool :=
  !s.pwr.shutOff && (match s.sys.phase with
    | .unpowered | .inReset => false
    | .sleeping => p == .i3c && b == 0x21 && h == 0 && o == 0x18
    | .halted => p == .firmware || (b == 0x21 && o == 4)
    | _ => true)
  && (match p with
    | .i3c => (b == 0x21 && o != 8 && o != 0x14)
        || ((b == 0x01 || b == 0x05 || b == 0x0F || b == 0x21) && (o == 0x3FE00 || decide (0x3FF00 ≤ o)))
    | .jtag => s.jtagAllowed && !boardIgnored b o
    | _ => true)
  && (p == .firmware || !(b == 0x0E && (o == 8 || o == 0xC)))

/-- A write of a register that exists, outside the fatal state: its W1C fields, then what its block does with the value. -/
def State.regWrite (s : State) (p : Path) (h b o : Nat) (v : Word) (e : WriteEnv) : Written :=
  let s := (s.writeW1c h b o v).getD s
  match b with
  | 0x02 =>
    if o = 4 then (0, s.siCommand p (field v 3 0) e.med)
    else if o = 8 then (if s.si.lock ∧ ¬v.getLsbD 0 then 2 else 0, if v.getLsbD 0 then s.siLock else s)
    else (0, s)
  | 0x04 =>
    if o = 0xC then (0, { s with coh := { s.coh with
      timeoutUs := BitVec.ofNat 14 (clampNat (field v 13 0) 50 10000), autoEn := v.getLsbD 14,
      orphanUs := BitVec.ofNat 10 (clampNat (field v 25 16) 10 1000) } })
    else if o = 0x10 then (0, s.deadCommand p v e.med)
    else (0, s)
  | 0x05 =>
    if o = 0 then (0, s.modSel p (fun x => { x with memCh := x.memCh.set h (BitVec.ofNat 6 (min (field v 5 0) 33)) }))
    else if o = 0x14 then (0, s.memCtl h (s.memSel p h) v)
    else (0, s)
  | 0x06 => (0, if o = 0 then s.liftCommand v else s)
  | 0x07 => (0, s.writeInt p h o v e)
  | 0x08 => (0, s.writeZll h o v)
  | 0x09 => s.writeZlf p h o v
  | 0x0A => (0, s.writeEth h o v)
  | 0x0B => (0, s.writeQue p h o v)
  | 0x0C => (0, if o = 4 then s.modSlg h (fun x => { x with
      late := BitVec.ofNat 8 (field v 7 0), unknown := BitVec.ofNat 8 (field v 15 8), residual := BitVec.ofNat 8 (field v 23 16),
      gatherRefused := BitVec.ofNat 8 (field v 31 24) }) else s)
  | 0x0D => (0, if o = 0 then s.modSel p (fun x => { x with job := v.setWidth 12 }) else s)
  | 0x0E =>
    if o = 4 then (0, s.modTrn h (fun x => { x with holdLimitMs := BitVec.ofNat 8 (clampNat (field v 7 0) 5 100) }))
    else if o = 8 ∨ o = 0xC then (0, s.shootWrite o v)
    else (0, s)
  | 0x0F => (0, s.writePwr h o v)
  | 0x1E => (0, s.writeTen p o v e.med)
  | 0x1F => (0, if o = 4 then s.fwCommand p (field v 2 0) else s)
  | 0x20 => (0, s.writeDbg p h o v)
  | 0x21 => (0, s.writeSys p o v e.med)
  | _ => (0, s)

/-- In the fatal state only W1C fields act, and the reset command of a board path (R750, R809). -/
def State.fatalWrite (s : State) (p : Path) (h b o : Nat) (v : Word) (e : WriteEnv) : Written :=
  if 0x3FE00 ≤ o then (1, s)
  else match s.writeW1c h b o v with
  | some t => (0, t)
  | none => if b = 0x21 ∧ o = 4 ∧ boardPath p then s.regWrite p h b o v e else (1, s)

/-- A write over a path, with the result of R737. -/
def State.csrWrite (s : State) (p : Path) (a v : Word) (e : WriteEnv) : Written :=
  let h := addrHub a
  let b := addrBlock a
  let o := addrOff a
  if illegalAddr a then (6, s)
  else if ¬s.mayWrite p h b o then (3, s)
  else if ¬s.writes p h b o ∨ ¬s.blockHere h b then (1, s)
  else if (s.hub h).phase ≠ .none ∧ b ≠ 1 then (4, s)
  else if (s.regRead p h b o).isNone then (1, s)
  else if s.fatal then s.fatalWrite p h b o v e
  else if 0x3FE00 ≤ o then s.writeMbx p h b o v
  else s.regWrite p h b o v e

end Sys2Proof.Machine
end

