-- ==== Sys2Proof/Machine/Regs.lean ====
section
/-! DEFINITION. Regs.lean: the meanings of the commands that reach registers over each path: KMP, the mailbox, I3C and JTAG (chapters
"Register Interface and Map" and "Pins, Start-Up and Reset"). -/
namespace Sys2Proof.Machine
open Sys2Proof

/-- The address of a register (R728). -/
def csrAddr (hub block off : Nat) : Word := BitVec.ofNat 32 (hub * 2 ^ 26 + block * 2 ^ 18 + off)

/-- A write over a path, within the limits of a tenant session (R679, R730). -/
def State.pathWrite (s : State) (p : Path) (a v : Word) (e : WriteEnv) : State :=
  if s.isTenant p ∧ ¬tenantWrites (addrHub a) (addrBlock a) (addrOff a) then s else (s.csrWrite p a v e).2

/-- `REGISTER_WRITE` (R731). -/
def execRegisterWrite (path : Path) (addr value : Word) (env : WriteEnv) (s : State) : Answer :=
  .next (s.pathWrite path addr value env)

/-- `ETH_IPV4_WRITE` (R343). -/
def execEthIpv4Write (path : Path) (port : Bool) (value : Word) (s : State) : Answer :=
  .next (s.pathWrite path (csrAddr (b2n port) 0x0A 0xC) value {})

/-! ### The tenant view (R697, R766) -/

/-- A value that a tenant session sees as it was sampled last, when that is less than `every` ns ago; else `now` is the new sample.
Answers the value and its flags. -/
def State.sampled (s : State) (p : Path) (key every : Nat) (now flags : Nat) : (Nat × Nat) × State :=
  match (s.sel p).samples.get? key with
  | some (t, v, f) =>
    if s.clk.now < t + every then ((v, f), s)
    else ((now, flags), s.modSel p (fun x => { x with samples := x.samples.set key (s.clk.now, now, flags) }))
  | none => ((now, flags), s.modSel p (fun x => { x with samples := x.samples.set key (s.clk.now, now, flags) }))

/-- The key under which a register field is sampled. -/
def fieldKey (h b o lo : Nat) : Nat := 2 ^ 44 + (((h * 256 + b) * 2 ^ 18 + o) * 32 + lo)

/-- How a tenant session sees a field (R697). -/
inductive Coarse where
  | hidden             -- reads as 0
  | events             -- rounded down to a multiple of 1,024, sampled every 1 ms
  | watts              -- rounded to the nearest 1% of `PKG_LIMIT_W`, refreshed every 100 ms
  | steps              -- refreshed every 100 ms
deriving DecidableEq, Repr

/-- The fields of a register that a tenant session does not see in full: high bit, low bit and view. -/
def coarseFields (h b o : Nat) : List (Nat × Nat × Coarse) :=
  if b = 0x0C ∧ o = 4 then [(7, 0, .events), (15, 8, .events), (23, 16, .events), (31, 24, .events)]
  else if b ≠ 0x0F then []
  else if o = 0 ∧ h = 0 then [(10, 2, .hidden), (19, 11, .hidden)]
  else if o = 4 then [(4, 1, .steps), (13, 9, .steps), (31, 16, .events)]
  else if o = 8 then [(10, 0, .watts), (21, 11, .watts)]
  else if o = 0xC then [(7, 0, .hidden), (11, 8, .steps), (31, 16, .events)]
  else []

/-- A reading in W to the nearest 1% of the package limit, in whole W. -/
def roundWatts (limit w : Nat) : Nat := if limit = 0 then 0 else (w * 100 + limit / 2) / limit * limit / 100

/-- Replaces bits `hi` to `lo` of a word. -/
def setField (w : Word) (hi lo n : Nat) : Word :=
  BitVec.ofNat 32 (w.toNat - field w hi lo * 2 ^ lo + n % 2 ^ (hi + 1 - lo) * 2 ^ lo)

/-- A register's value as a tenant session sees it (R697). -/
def State.tenantView (s : State) (p : Path) (h b o : Nat) (v : Word) : Word × State :=
  (coarseFields h b o).foldl (fun r f =>
    let (hi, lo, c) := f
    let n := field v hi lo
    let key := fieldKey h b o lo
    match c with
    | .hidden => (setField r.1 hi lo 0, r.2)
    | .events => let x := r.2.sampled p key 1000000 (n / 1024 * 1024) 0; (setField r.1 hi lo x.1.1, x.2)
    | .watts => let x := r.2.sampled p key 100000000 (roundWatts (s.eff.u16 .power 0) n) 0; (setField r.1 hi lo x.1.1, x.2)
    | .steps => let x := r.2.sampled p key 100000000 n 0; (setField r.1 hi lo x.1.1, x.2)) (v, s)

/-! ### KMP (R736, R737) -/

/-- Reads `n` registers in a row over a session. -/
def State.readRun (s : State) (p : Path) (a : Word) : Nat → List Word × State
  | 0 => ([], s)
  | n + 1 =>
    let v := s.csrRead p a
    let (v, s) := if s.isTenant p then s.tenantView p (addrHub a) (addrBlock a) (addrOff a) v else (v, s)
    let (l, s) := s.readRun p (a + 4) n
    (v :: l, s)

/-- `REG_READ` (R736, R678, R679). -/
def execRegRead (hdr : KmpHdr) (addr : Word) (count : Byte) (s : State) : Answer :=
  .next (s.kmpRequest hdr 3 true (fun k _ s =>
    let p : Path := .kmp (Fin.ofNat 32 k)
    let n := count.toNat
    if illegalAddr addr ∨ n = 0 ∨ 64 < n ∨ 2 ^ 18 < addrOff addr + 4 * n then (some { status := 6 }, s)
    else if (s.pathUsage p).getLsbD 0
        ∨ (s.isTenant p ∧ (List.range n).all (fun i => tenantReads (addrHub addr) (addrBlock addr) (addrOff addr + 4 * i))) then
      let (l, s) := s.readRun p addr n
      (some { status := 0, body := .values l }, s)
    else (some { status := 3 }, s)))

/-- A result that is a refusal in the sense of R332 (R737). -/
def refusedPair (r : BitVec 8) : Bool := decide (2 ≤ r.toNat ∧ r.toNat ≤ 6)

/-- Performs pairs in order up to the first refusal (R332); those after it read 0x07. -/
def State.writePairs (s : State) (p : Path) (e : WriteEnv) : List (Word × Word) → List (BitVec 8) × State
  | [] => ([], s)
  | (a, v) :: l =>
    let (r, s) := s.csrWrite p a v e
    if refusedPair r then (r :: l.map (fun _ => 7), s)
    else
      let (rs, s) := s.writePairs p e l
      (r :: rs, s)

/-- A register whose writes need the security processor (R716): `SI_CMD`, `COH_DEAD_CMD`, `LIFT_CMD`, `TEN_CMD`, `FW_CMD`. -/
def spReg (a : Word) : Bool :=
  addrHub a == 0 && !illegalAddr a &&
    ((addrBlock a == 2 && addrOff a == 4) || (addrBlock a == 4 && addrOff a == 0x10) || (addrBlock a == 6 && addrOff a == 0)
      || (addrBlock a == 0x1E && addrOff a == 4) || (addrBlock a == 0x1F && addrOff a == 4))

/-- `REG_WRITE` (R332, R679, R716, R737). -/
def execRegWrite (hdr : KmpHdr) (pairs : List (Word × Word)) (env : WriteEnv) (s : State) : Answer :=
  .next (s.kmpRequest hdr 4 s.fatal (fun k _ s =>
    let p : Path := .kmp (Fin.ofNat 32 k)
    if pairs.isEmpty ∨ 128 < pairs.length then (some { status := 4 }, s)
    else if s.isTenant p ∧ ¬pairs.all (fun x => tenantWrites (addrHub x.1) (addrBlock x.1) (addrOff x.1) && !illegalAddr x.1) then
      (some { status := 3 }, s)
    else if s.spRestarting ∧ pairs.any (fun x => spReg x.1) then (some { status := 1, body := .retry s.retryMs }, s)
    else
      let (rs, s) := s.writePairs p env pairs
      (some { status := 0, body := .results rs }, s)))

/-! ### The mailbox (R740–R747) -/

/-- The address of `MBX_REQ` of a block. -/
def mbxReqAddr (hub block : Nat) : Word := csrAddr hub block 0x3FE00

/-- `MBX_READ` (R744). -/
def execMbxRead (path : Path) (hub : Fin 8) (block id index : Byte) (s : State) : Answer :=
  .next (s.pathWrite path (mbxReqAddr hub block.toNat) (packWord [(0, id.toNat), (8, index.toNat), (16, 1)]) {})

/-- `MBX_WRITE` (R744). -/
def execMbxWrite (path : Path) (hub : Fin 8) (block id index : Byte) (s : State) : Answer :=
  .next (s.pathWrite path (mbxReqAddr hub block.toNat) (packWord [(0, id.toNat), (8, index.toNat), (16, 2)]) {})

/-- An error record as bytes (R611). -/
def ErrRec.bytes (r : ErrRec) : List Byte :=
  [r.type, r.hub, r.channel, r.symbol] ++ leBytes 4 r.count.toNat ++ leBytes 8 r.dpa.toNat ++ leBytes 8 r.poolTime.toNat
    ++ leBytes 2 r.host.toNat ++ leBytes 6 0

/-- A retirement-log entry as bytes (R613). -/
def RlogEntry.bytes (r : RlogEntry) : List Byte :=
  [r.kind, r.hub, r.channel, r.rank, r.bank, r.device] ++ leBytes 2 r.column.toNat ++ leBytes 4 r.row.toNat ++ leBytes 4 0
    ++ leBytes 8 r.dpa.toNat ++ leBytes 8 r.poolTime.toNat

/-- A byte sequence as the words of a mailbox, padded with zero bytes (R745). -/
def mbxWords (l : List Byte) : List Word :=
  (List.range ((l.length + 3) / 4)).map (fun k => BitVec.ofNat 32 (leNat ((l.drop (4 * k)).take 4)))

/-- A number of 64 bits as two words. -/
def twoWords (n : Nat) : List Word := mbxWords (leBytes 8 n)

/-- What a capture gives: words, or an error (R743). -/
inductive Wide where
  | words (l : List Word)
  | err (code : BitVec 3)
deriving DecidableEq, Repr

/-- A value that may be absent. -/
def wideOr (o : Option (List Word)) : Wide := match o with | some l => .words l | none => .err 3

/-- The unit whose ring a hub's `DBG_RING_SEL` names (R758, R771). -/
def ringUnit (h sel : Nat) : Nat := (h * 4 + sel / 16) * 16 + sel % 16

/-- The records of the export region from its tail on (R761). -/
def State.regionRecords (s : State) : List TraceRec :=
  let t := s.trig
  let n := s.regionSize
  let held := if n = 0 then 0 else (t.head.toNat + n - t.tail.toNat) % n
  (List.range (min 8 held)).filterMap (fun i => t.region.get? ((t.tail.toNat + i) % n))

/-- The wide values of R747 and the records of R758 and R761. -/
def State.wideValue (s : State) (h b id index sel : Nat) : Wide :=
  let serial (x : Option SiImage) : Wide := .words (twoWords (match x with | some y => y.serial.toNat | none => 0))
  if b = 0x20 then
    let u := s.traceUnit (ringUnit h sel)
    if id = 1 then wideOr ((u.ring[index]?).map (fun r => mbxWords r.bytes))
    else if id = 2 then wideOr ((u.store[index]?).map (fun r => mbxWords r.bytes))
    else if index ≠ 0 then .err 1
    else if id = 3 ∧ s.exportHere h then
      (match s.regionRecords with | [] => .err 3 | l => .words (mbxWords (l.flatMap TraceRec.bytes)))
    else if id = 4 ∧ h = 0 then wideOr (s.trig.fired.map (fun t => twoWords t.toNat))
    else .err 1
  else if b = 0x1F then
    if id = 1 ∧ h = 0 ∧ 1 ≤ index ∧ index ≤ 13 then .words (mbxWords (s.measurement index)) else .err 1
  else if index ≠ 0 then .err 1
  else match b, id with
  | 0x01, 1 => .words (twoWords s.clk.poolTime.toNat)
  | 0x01, 2 => .words (twoWords s.clk.rtc.toNat)
  | 0x0E, 1 =>
    let l := (s.trnHub h).log
    if l.valid then .words (twoWords (if s.sealed then 0 else l.va.toNat % 2 ^ 48)) else .err 3
  | _, _ =>
    if h ≠ 0 then .err 1
    else match b, id with
    | 0x02, 1 => serial s.si.inForce
    | 0x02, 2 => serial s.si.prev
    | 0x02, 3 => .words (twoWords s.si.maxSerial.toNat)
    | 0x02, 4 => .words (twoWords s.si.commitTime.toNat)
    | 0x0D, 1 => wideOr ((s.job sel).diverge.map (fun d => twoWords d.own.toNat))
    | 0x0D, 2 => wideOr ((s.job sel).diverge.map (fun d => twoWords d.peer.toNat))
    | 0x0F, 1 => .words (twoWords s.clk.rtcAlarm.toNat)
    | 0x07, 1 => wideOr (s.integ.errLog.head?.map (fun r => mbxWords r.bytes))
    | 0x07, 2 => wideOr ((s.integ.rlog[sel]?).map (fun r => mbxWords r.bytes))
    | 0x1E, 1 => .words (twoWords s.ten.epoch.toNat)
    | 0x1E, 2 => .words (mbxWords s.tenancyBlock)
    | 0x1E, 3 => wideOr (s.ten.record.map (fun r => mbxWords r.bytes))
    | _, _ => .err 1

/-- The key of the counter that an identifier names on a block (R765); none where there is none. -/
def counterOf (h b id index sel : Nat) : Option Nat :=
  let at_ (top : Nat) (k : Nat) : Option Nat := if 0x80 ≤ id ∧ id ≤ top then some (cntKey h b id k) else none
  if b = 8 then at_ 0x83 (index % 4)
  else if b = 9 then at_ 0x81 (index % 4)
  else if index ≠ 0 then none
  else match b with
  | 4 => at_ 0x83 0
  | 5 => at_ 0x82 sel
  | 0x0B => if 0x88 ≤ id then at_ 0x8B sel else if h = 0 then at_ 0x82 sel else none
  | 0x0C => at_ 0x83 0
  | 0x0F => at_ 0x81 0
  | _ => if 0x10 ≤ b ∧ b ≤ 0x1D then at_ 0x84 0 else none

/-- A counter's count now (R765): the snowplough's includes the time it has acted so far; bank-port waits are a free value
(notes/assumptions/23.md). -/
def State.counterNow (s : State) (key : Nat) : (Nat × Nat × Bool) × State :=
  let (n, r, rolled) := s.readCounter key
  let id := key / 2 ^ 16 % 256
  let b := key / 2 ^ 24 % 256
  let h := key / 2 ^ 32
  if b = 0x0F ∧ id = 0x81 ∧ (s.pwrHub h).acting ∧ ¬rolled then
    ((n.toNat + (s.clk.now - (s.pwrHub h).snowMark), r.toNat, rolled), s)
  else if 0x10 ≤ b ∧ b ≤ 0x1D ∧ id = 0x83 then
    let (x, s) := s.draw .choice
    ((x % 2 ^ 64, r.toNat, rolled), s)
  else ((n.toNat, r.toNat, rolled), s)

/-- The three words of a counter (R762), coarsened for a tenant session (R766). -/
def State.counterWords (s : State) (p : Path) (tenant : Bool) (key : Nat) : List Word × State :=
  let ((n, r, rolled), s) := s.counterNow key
  let flags := b2n rolled + 256 * r
  if tenant then
    let ((n, f), s) := s.sampled p key 1000000 (n / 1024 * 1024) (flags + 2)
    (twoWords n ++ [BitVec.ofNat 32 f], s)
  else (twoWords n ++ [BitVec.ofNat 32 flags], s)

/-- A copy holds a completed value (R744). -/
def Mbx.holds (x : Mbx) (l : List Word) : Mbx :=
  { x with
    valid := true, busy := false, err := 0, len := BitVec.ofNat 8 l.length,
    data := (l.zipIdx.filter (fun e => e.1 != 0)).map (fun e => (e.2, e.1)) }

/-- A copy reports an error (R743). -/
def Mbx.fails (x : Mbx) (e : BitVec 3) : Mbx := { x with valid := false, busy := false, err := e, len := 0, data := [] }

/-- The holder finishes a read (R744, R747, R765). -/
def State.mbxCapture (s : State) (p : Path) (h b : Nat) (x : Mbx) : State :=
  let id := x.idEcho.toNat
  let index := x.index.toNat
  if 0x80 ≤ id then
    match counterOf h b id index x.sel with
    | some key => let (l, s) := s.counterWords p x.tenant key; s.modMbx p h b (fun y => y.holds l)
    | none => s.modMbx p h b (fun y => y.fails 1)
  else match s.wideValue h b id index x.sel with
  | .words l => s.modMbx p h b (fun y => y.holds l)
  | .err e => s.modMbx p h b (fun y => y.fails e)

/-- The holder finishes a write (R744, R747): `RTC_ALARM` takes the value; every other value is not writable. -/
def State.mbxApply (s : State) (p : Path) (h b : Nat) (x : Mbx) : State :=
  if b = 0x0F ∧ h = 0 ∧ x.idEcho = 1 ∧ x.index = 0 then
    match x.alarm with
    | some v =>
      ({ s with clk := { s.clk with alarmPending := some v } } : State).modMbx p h b (fun y => y.holds (twoWords v.toNat))
    | none => s.modMbx p h b (fun y => y.fails 4)
  else
    let known := if 0x80 ≤ x.idEcho.toNat then (counterOf h b x.idEcho.toNat x.index.toNat x.sel).isSome
      else s.wideValue h b x.idEcho.toNat x.index.toNat x.sel != .err 1
    s.modMbx p h b (fun y => y.fails (if known then 4 else 1))

/-- `MBX_COMPLETE` (R744, R746, R747, R750). -/
def execMbxComplete (path : Path) (hub : Fin 8) (block : Byte) (s : State) : Answer :=
  let h := hub.val
  let b := block.toNat
  let x := s.mbxAt path h b
  .next (if ¬x.busy ∨ ¬s.running then s
    else if s.spDown ∧ spHeld b x.idEcho.toNat then s.modMbx path h b (fun y => y.fails 5)
    else if path = .jtag ∧ (b = 0x1E ∨ b = 0x1F) then s.modMbx path h b (fun y => y.fails 2)
    else if x.writing ∧ x.tenant then s.modMbx path h b (fun y => y.fails 2)
    else if x.writing then s.mbxApply path h b x
    else s.mbxCapture path h b x)

/-! ### The I3C target (R787) -/

/-- The part number of R787. -/
def partNumber : Variant → Nat
  | .fx92 => 0x0F92
  | .fx94 => 0x0F94
  | .fx98 => 0x0F98

/-- The provisional ID (R787). -/
def State.provisionalId (s : State) : BitVec 48 :=
  BitVec.ofNat 48 (Config.mipiId.toNat * 2 ^ 33 + partNumber s.fuses.variant * 2 ^ 16 + s.sys.i3cPid.toNat)

/-- The I3C pins work: the part is powered and no package reset is in progress (R778). -/
def State.i3cOn (s : State) : Bool := match s.sys.phase with | .unpowered | .inReset => false | _ => true

/-- `ENTDAA`: a target without an address sends its provisional ID, BCR 0x06 and DCR 0x00, and takes the address. -/
def execEntdaa (addr : BitVec 7) (s : State) : Answer :=
  .next (if s.i3cOn ∧ s.i3c.dynAddr.isNone then
      ({ s with i3c := { s.i3c with dynAddr := some addr } } : State).emit (.entdaa s.provisionalId 0x06 0x00)
    else s)

/-- The little-endian word at the front of a transfer. -/
def wordOf (l : List Byte) : Word := BitVec.ofNat 32 (leNat (l.take 4))

/-- `I3C_CSR_READ`: a private write of the address, 4 bytes, then a private read. -/
def execI3cCsrRead (bytes : List Byte) (s : State) : Answer :=
  .next (if s.i3cOn ∧ s.i3c.dynAddr.isSome ∧ bytes.length = 4 then s.emit (.i3cRead (s.csrRead .i3c (wordOf bytes))) else s)

/-- `I3C_CSR_WRITE`: a private write of the address and the value, 8 bytes. -/
def execI3cCsrWrite (bytes : List Byte) (env : WriteEnv) (s : State) : Answer :=
  .next (if s.i3cOn ∧ s.i3c.dynAddr.isSome ∧ bytes.length = 8 then
      (s.csrWrite .i3c (wordOf bytes) (wordOf (bytes.drop 4)) env).2
    else s)

/-! ### The JTAG port (R788) -/

/-- The port works: its pins are driven by the housekeeping domain, which deep sleep turns off (R778). -/
def State.jtagOn (s : State) : Bool := match s.sys.phase with | .unpowered | .sleeping => false | _ => true

/-- Changes the port, when it works. -/
def State.modJtag (s : State) (f : Jtag → Jtag) : State := if s.jtagOn then { s with jtag := f s.jtag } else s

/-- The identification register. -/
def State.idcode (s : State) : Word :=
  packWord [(0, 1), (1, Config.jedecId.toNat), (12, partNumber s.fuses.variant), (28, s.fuses.stepping.toNat % 16)]

/-- `IDCODE`. -/
def execIdcode (s : State) : Answer :=
  .next (s.modJtag (fun j => { j with ir := 0x01, dr := s.idcode.setWidth 33, driving := false }))

/-- `SAMPLE/PRELOAD`: captures the pins' levels and preloads the levels shifted in. -/
def execSamplePreload (pins levels : List Bool) (s : State) : Answer :=
  .next (s.modJtag (fun j => { j with ir := 0x02, sampled := pins, boundary := levels, driving := false }))

/-- `EXTEST`: only while `RESET_N` is low does it capture the pins and drive the levels shifted in; otherwise it acts as `BYPASS`. -/
def execExtest (pins levels : List Bool) (s : State) : Answer :=
  .next (s.modJtag (fun j =>
    if s.sys.resetLow then { j with ir := 0x03, sampled := pins, boundary := levels, driving := true }
    else { j with ir := 0x03, dr := 0, driving := false }))

/-- `CSR_ADDR`. -/
def execCsrAddr (addr : Word) (s : State) : Answer :=
  .next (s.modJtag (fun j => { j with ir := 0x20, addr := addr, driving := false }))

/-- `CSR_WRITE`. -/
def execCsrWrite (value : Word) (env : WriteEnv) (s : State) : Answer :=
  .next (if s.jtagOn then
      ((s.modJtag (fun j => { j with ir := 0x21, driving := false })).csrWrite .jtag s.jtag.addr value env).2
    else s)

/-- `CSR_READ`: captures the latched register with bit 32 = 1 when the read has completed; until then bit 32 reads 0 and the others
are a free value. -/
def execCsrRead (completed : Bool) (s : State) : Answer :=
  .next (if ¬s.jtagOn then s
    else if completed then
      s.modJtag (fun j => { j with ir := 0x22, dr := 1#1 ++ s.csrRead .jtag s.jtag.addr, driving := false })
    else
      let (n, s) := s.draw .choice
      s.modJtag (fun j => { j with ir := 0x22, dr := BitVec.ofNat 33 (n % 2 ^ 32), driving := false }))

/-- `BYPASS`, and every code without an instruction of its own: the 1-bit register captures 0. -/
def execBypass (code : Byte) (s : State) : Answer :=
  .next (s.modJtag (fun j => { j with ir := code, dr := 0, driving := false }))

/-- `TRST_N`. -/
def execJtagReset (s : State) : Answer := .next (s.modJtag (fun _ => {}))

end Sys2Proof.Machine
end

