-- ==== Sys2Proof/Machine/Tick.lean ====
section
/-! DEFINITION. Tick.lean: what time alone does: one housekeeping cycle of 10 ns (R784) passes while no command waits. -/
namespace Sys2Proof.Machine
open Sys2Proof

/-- Pool time over one housekeeping cycle (R295): it runs free, at half rate until a lead is absorbed down to 1 µs, or it takes one
nanosecond of a correction every 4 µs. -/
def Clocks.cycle (c : Clocks) : Clocks :=
  match c.slew with
  | .free => { c with poolTime := c.poolTime + 10 }
  | .halfRate n =>
    { c with poolTime := c.poolTime + 5, slew := if n ≤ 5 then .slew (-1000) else .halfRate (n - 5), slewAcc := 0 }
  | .slew left =>
    if left = 0 then { c with poolTime := c.poolTime + 10, slew := .free, slewAcc := 0 }
    else if c.slewAcc + 10 < 4000 then { c with poolTime := c.poolTime + 10, slewAcc := c.slewAcc + 10 }
    else
      { c with
        poolTime := c.poolTime + (if 0 < left then 11 else 9), slew := .slew (if 0 < left then left - 1 else left + 1), slewAcc := 0 }

/-- The frequency of the always-on clock in Hz: CLK32K, or the internal oscillator within 3% of it (R782, R783). -/
def State.aonHz (s : State) : Nat := if s.sys.clk32kLost then clampNat Config.internalOscillatorHz 31785 33751 else 32768

/-- The always-on clock over 10 ns; its edges do what R738 says. -/
def State.aonCycle (s : State) : State :=
  let n := s.clk.aonPhase + 10 * s.aonHz
  if n < 1000000000 then { s with clk := { s.clk with aonPhase := n } }
  else ({ s with clk := { s.clk with aonPhase := n - 1000000000 } } : State).aonEdge

/-- The in-band interrupt at a change of the cause that `ATTN_N` shows to a non-zero one, at most once per 1 ms (R787). -/
def State.ibiCycle (s : State) : State :=
  let v : BitVec 3 := BitVec.ofNat 3 s.attnCause
  if v = s.i3c.lastCause ∨ s.i3c.dynAddr.isNone then s
  else if v = 0 then { s with i3c := { s.i3c with lastCause := 0 } }
  else if (match s.i3c.lastIbiAt with | some t => decide (s.clk.now < t + 1000000) | none => false) then s
  else ({ s with i3c := { s.i3c with lastCause := v, lastIbiAt := some s.clk.now } } : State).emit (.ibi v)

/-- Digest records that were refused for retry are written again (R131, R507; notes/assumptions/82.md). -/
def State.recordCycle (s : State) : State :=
  (s.jobs.filter (fun e => e.2.records.any (fun id => s.accStatus id == .retry))).foldl (fun s e =>
    let (l, s) := s.accResendAll [] (s.job e.1).records
    (s.modJob e.1 (fun x => { x with records := l })).cohEnd .clean) s

/-- What the engines do in time: digest records are written again, and the gates of closed steps prepared (R471, R507). -/
def State.engineCycle (s : State) : State :=
  if s.fatal then s else s.jobs.foldl (fun s e => s.prepareGo e.1) s.recordCycle

/-- One housekeeping cycle in which no command waits (notes/assumptions/1.md). The passing of time in deep sleep is the command
`SLEEP_TICK`'s; without power nothing runs. -/
def State.idle (s : State) : State :=
  match s.sys.phase with
  | .unpowered | .sleeping => s
  | .inReset => ({ s with clk := { s.clk.cycle with now := s.clk.now + 10 } } : State).aonCycle
  | _ => ({ s with clk := { s.clk.cycle with now := s.clk.now + 10 } } : State).aonCycle.ibiCycle.retireProgress.ethCycle.engineCycle

end Sys2Proof.Machine
end

