-- ==== Sys2Proof/Machine/Vector.lean ====
section
/-! DEFINITION. Vector.lean: the meanings of the vector operations (R394–R403, R431, R432, R458). -/
namespace Sys2Proof.Machine
open Sys2Proof

/-- The registers that the results of pending operations become readable from. -/
def Lc.pushVec (x : Lc) (p : VecPend) : Lc :=
  { x with
    vec := vecInsert p x.vec,
    vReady := p.regs.foldl (fun m r => SMap.set m r.1 (max (SMap.getD m r.1 0) p.ready)) x.vReady }

/-- Issues a vector operation with latency `lat`; `f` computes the registers it writes (R432). -/
def State.vecOp (s : State) (c : CluAt) (w : DWord) (lat : Nat) (g : VSig)
    (f : Nat → Nat → State → List (Nat × Vec) × State) : State :=
  s.issue c.hub c.cluster 2 w (fun j i s =>
    let (rs, s) := f j i s
    .done (s.modLc j i (fun x => x.pushVec { regs := rs, ready := x.bundle + lat, sem := g.sem, sig := g.sig })))

/-- An operation on two vector registers, lane by lane. -/
def State.vec2 (s : State) (c : CluAt) (op lat : Nat) (vd va vb : Fin 32) (g : VSig) (f : Word → Word → Word) : State :=
  s.vecOp c (vecWord op vd va vb 0 0 0 0 false g) lat g (fun j i s =>
    let (a, s) := s.readV j i va
    let (b, s) := s.readV j i vb
    ([(vd.val, vmap2 f a b)], s))

/-- An operation on one vector register, lane by lane. -/
def State.vec1 (s : State) (c : CluAt) (op lat : Nat) (vd va : Fin 32) (g : VSig) (f : Word → Word) : State :=
  s.vecOp c (vecWord op vd va 0 0 0 0 0 false g) lat g (fun j i s =>
    let (a, s) := s.readV j i va
    ([(vd.val, vmap f a)], s))

/-- A reduction of one vector into lane 0 (R397). -/
def State.vecReduce (s : State) (c : CluAt) (op : Nat) (vd va : Fin 32) (g : VSig) (f : Word → Word → Word) : State :=
  s.vecOp c (vecWord op vd va 0 0 0 0 0 false g) 12 g (fun j i s =>
    let (a, s) := s.readV j i va
    ([(vd.val, lane0 (reduce f a))], s))

/-- A reduction onto the running value in lane 0 of `vb`, its left operand (R432). -/
def State.vecReduceOn (s : State) (c : CluAt) (op : Nat) (vd va vb : Fin 32) (g : VSig) (f : Word → Word → Word) : State :=
  s.vecOp c (vecWord op vd va vb 0 0 0 0 false g) 12 g (fun j i s =>
    let (a, s) := s.readV j i va
    let (b, s) := s.readV j i vb
    ([(vd.val, lane0 (f (b.setWidth 32) (reduce f a)))], s))

/-- `FADD` (R394, R432). -/
def execFadd (c : CluAt) (vd va vb : Fin 32) (g : VSig) (s : State) : Answer :=
  .next (s.vec2 c 0x01 4 vd va vb g f32Add)

/-- `FSUB` (R394, R432). -/
def execFsub (c : CluAt) (vd va vb : Fin 32) (g : VSig) (s : State) : Answer :=
  .next (s.vec2 c 0x02 4 vd va vb g f32Sub)

/-- `FMUL` (R394, R432). -/
def execFmul (c : CluAt) (vd va vb : Fin 32) (g : VSig) (s : State) : Answer :=
  .next (s.vec2 c 0x03 4 vd va vb g f32Mul)

/-- `FMIN` (R394, R432). -/
def execFmin (c : CluAt) (vd va vb : Fin 32) (g : VSig) (s : State) : Answer :=
  .next (s.vec2 c 0x04 4 vd va vb g f32Min)

/-- `FMAX` (R394, R432). -/
def execFmax (c : CluAt) (vd va vb : Fin 32) (g : VSig) (s : State) : Answer :=
  .next (s.vec2 c 0x05 4 vd va vb g f32Max)

/-- `FCLT` (R432). -/
def execFclt (c : CluAt) (vd va vb : Fin 32) (g : VSig) (s : State) : Answer :=
  .next (s.vec2 c 0x06 4 vd va vb g (fun a b => if f32Lt a b then 1 else 0))

/-- `FCEQ` (R432). -/
def execFceq (c : CluAt) (vd va vb : Fin 32) (g : VSig) (s : State) : Answer :=
  .next (s.vec2 c 0x07 4 vd va vb g (fun a b => if f32Eq a b then 1 else 0))

/-- `IADD` (R432). -/
def execIadd (c : CluAt) (vd va vb : Fin 32) (g : VSig) (s : State) : Answer :=
  .next (s.vec2 c 0x08 4 vd va vb g (fun a b => a + b))

/-- `ISUB` (R432). -/
def execIsub (c : CluAt) (vd va vb : Fin 32) (g : VSig) (s : State) : Answer :=
  .next (s.vec2 c 0x09 4 vd va vb g (fun a b => a - b))

/-- `IMUL` (R432). -/
def execImul (c : CluAt) (vd va vb : Fin 32) (g : VSig) (s : State) : Answer :=
  .next (s.vec2 c 0x0A 4 vd va vb g (fun a b => a * b))

/-- `VECTOR_AND` (R432). -/
def execVectorAnd (c : CluAt) (vd va vb : Fin 32) (g : VSig) (s : State) : Answer :=
  .next (s.vec2 c 0x0B 4 vd va vb g (fun a b => a &&& b))

/-- `VECTOR_OR` (R432). -/
def execVectorOr (c : CluAt) (vd va vb : Fin 32) (g : VSig) (s : State) : Answer :=
  .next (s.vec2 c 0x0C 4 vd va vb g (fun a b => a ||| b))

/-- `VECTOR_XOR` (R432). -/
def execVectorXor (c : CluAt) (vd va vb : Fin 32) (g : VSig) (s : State) : Answer :=
  .next (s.vec2 c 0x0D 4 vd va vb g (fun a b => a ^^^ b))

/-- `EXP` (R396, R432). -/
def execExp (c : CluAt) (vd va : Fin 32) (g : VSig) (s : State) : Answer :=
  .next (s.vec1 c 0x10 16 vd va g f32Exp)

/-- `LOG` (R396, R432). -/
def execLog (c : CluAt) (vd va : Fin 32) (g : VSig) (s : State) : Answer :=
  .next (s.vec1 c 0x11 16 vd va g f32Log)

/-- `RECIP` (R396, R432). -/
def execRecip (c : CluAt) (vd va : Fin 32) (g : VSig) (s : State) : Answer :=
  .next (s.vec1 c 0x12 12 vd va g f32Recip)

/-- `RSQRT` (R396, R432). -/
def execRsqrt (c : CluAt) (vd va : Fin 32) (g : VSig) (s : State) : Answer :=
  .next (s.vec1 c 0x13 12 vd va g f32Rsqrt)

/-- `GELU` (R396, R432). -/
def execGelu (c : CluAt) (vd va : Fin 32) (g : VSig) (s : State) : Answer :=
  .next (s.vec1 c 0x14 36 vd va g f32Gelu)

/-- `SILU` (R396, R432). -/
def execSilu (c : CluAt) (vd va : Fin 32) (g : VSig) (s : State) : Answer :=
  .next (s.vec1 c 0x15 36 vd va g f32Silu)

/-- `VMOV` (R396, R432). -/
def execVmov (c : CluAt) (vd va : Fin 32) (g : VSig) (s : State) : Answer :=
  .next (s.vec1 c 0x16 4 vd va g (fun a => a))

/-- `CVTIF` (R396, R432). -/
def execCvtif (c : CluAt) (vd va : Fin 32) (g : VSig) (s : State) : Answer :=
  .next (s.vec1 c 0x28 6 vd va g cvtIf)

/-- `CVTFI` (R396, R432). -/
def execCvtfi (c : CluAt) (vd va : Fin 32) (g : VSig) (s : State) : Answer :=
  .next (s.vec1 c 0x29 6 vd va g cvtFi)

/-- `RSUM` (R397, R432). -/
def execRsum (c : CluAt) (vd va : Fin 32) (g : VSig) (s : State) : Answer :=
  .next (s.vecReduce c 0x18 vd va g f32Add)

/-- `RSUMA` (R397, R432). -/
def execRsuma (c : CluAt) (vd va vb : Fin 32) (g : VSig) (s : State) : Answer :=
  .next (s.vecReduceOn c 0x19 vd va vb g f32Add)

/-- `RMAX` (R397, R432). -/
def execRmax (c : CluAt) (vd va : Fin 32) (g : VSig) (s : State) : Answer :=
  .next (s.vecReduce c 0x1A vd va g f32Max)

/-- `RMAXA` (R397, R432). -/
def execRmaxa (c : CluAt) (vd va vb : Fin 32) (g : VSig) (s : State) : Answer :=
  .next (s.vecReduceOn c 0x1B vd va vb g f32Max)

/-- `RMIN` (R397, R432). -/
def execRmin (c : CluAt) (vd va : Fin 32) (g : VSig) (s : State) : Answer :=
  .next (s.vecReduce c 0x1C vd va g f32Min)

/-- `RMINA` (R397, R432). -/
def execRmina (c : CluAt) (vd va vb : Fin 32) (g : VSig) (s : State) : Answer :=
  .next (s.vecReduceOn c 0x1D vd va vb g f32Min)

/-- `SEL` (R432). -/
def execSel (c : CluAt) (vd va vb vc : Fin 32) (g : VSig) (s : State) : Answer :=
  .next (s.vecOp c (vecWord 0x0E vd va vb vc 0 0 0 false g) 4 g (fun j i s =>
    let (a, s) := s.readV j i va
    let (b, s) := s.readV j i vb
    let (m, s) := s.readV j i vc
    let l := ((lanes a).zip (lanes b)).zipWith (fun x k => if k = 0 then x.2 else x.1) (lanes m)
    ([(vd.val, ofLanes l)], s)))

/-- `BCAST` (R432). -/
def execBcast (c : CluAt) (vd : Fin 32) (sx : Fin 64) (g : VSig) (s : State) : Answer :=
  .next (s.vecOp c (vecWord 0x0F vd 0 0 0 sx 0 0 false g) 4 g (fun j i s =>
    let (x, s) := s.readS j i sx
    ([(vd.val, ofLanes (List.replicate 256 (x.setWidth 32)))], s)))

/-- `VIOTA` (R432). -/
def execViota (c : CluAt) (vd : Fin 32) (sx : Fin 64) (g : VSig) (s : State) : Answer :=
  .next (s.vecOp c (vecWord 0x17 vd 0 0 0 sx 0 0 false g) 4 g (fun j i s =>
    let (x, s) := s.readS j i sx
    ([(vd.val, ofLanes ((List.range 256).map (fun n => x.setWidth 32 + BitVec.ofNat 32 n)))], s)))

/-- The result of a selection of `k` entries; a `k` outside 1 to 256 gives free values (notes/assumptions/22.md). -/
def State.topResult (s : State) (vd vc : Nat) (k : Nat) (l : List (Word × Word)) : List (Nat × Vec) × State :=
  if 1 ≤ k ∧ k ≤ 256 then
    let t := topK k l
    ([(vd, ofLanes (t.map (·.1))), (vc, ofLanes (t.map (·.2)))], s)
  else
    let (x, s) := s.draw .hazard
    let (y, s) := s.draw .hazard
    ([(vd, BitVec.ofNat 8192 x), (vc, BitVec.ofNat 8192 y)], s)

/-- `TOPKI` (R399, R432). -/
def execTopki (c : CluAt) (vd va vb vc : Fin 32) (sx : Fin 64) (g : VSig) (s : State) : Answer :=
  .next (s.vecOp c (vecWord 0x20 vd va vb vc sx 0 0 false g) 40 g (fun j i s =>
    let (a, s) := s.readV j i va
    let (b, s) := s.readV j i vb
    let (k, s) := s.readS j i sx
    s.topResult vd vc k.toNat ((lanes a).zip (lanes b))))

/-- `TOPK` (R399, R432). -/
def execTopk (c : CluAt) (vd va vb vc : Fin 32) (sx : Fin 64) (g : VSig) (s : State) : Answer :=
  .next (s.vecOp c (vecWord 0x21 vd va vb vc sx 0 0 false g) 40 g (fun j i s =>
    let (a, s) := s.readV j i va
    let (b, s) := s.readV j i vb
    let (d, s) := s.readV j i vd
    let (e, s) := s.readV j i vc
    let (k, s) := s.readS j i sx
    s.topResult vd vc k.toNat (((lanes d).zip (lanes e)).take k.toNat ++ (lanes a).zip (lanes b))))

/-- `VLD` (R432): a row converted to FP32, lanes at or beyond `COLS` +0. -/
def execVld (c : CluAt) (vd : Fin 32) (sx : Fin 64) (t : Fin 32) (g : VSig) (s : State) : Answer :=
  .next (s.vecOp c (vecWord 0x30 vd 0 0 0 sx 0 t false g) 8 g (fun j i s =>
    let (row, s) := s.readS j i sx
    let (d, s) := s.readT j i t
    let cols := min 256 (tCols d)
    if tileUsable d && tileAligned d then
      let (bs, s) := s.readStg j i unitVector (rowSpan d row.toNat cols)
      let (sc, s) : List Byte × State :=
        if isMx (tFmt d) then s.readStg j i unitVector { scaleSpan d row.toNat with len := cols / 32 } else ([], s)
      ([(vd.val, ofLanes (rowValues (tFmt d) (codesOf (tFmt d) cols bs) (sc.map (·.toNat))))], s)
    else
      let (x, s) := s.draw .hazard
      ([(vd.val, BitVec.ofNat 8192 x)], s)))

/-- The staging bytes that a `VST` writes: elements, scales and, where the tile names an `AUX`, its zero-map byte (R458). -/
def vstBytes (d : BitVec 128) (row : Nat) (modes : List Rnd) (vs : List Word) : List (List (Nat × Byte)) :=
  if tileUsable d then
    let (codes, scales) := rowCodes (tFmt d) modes vs
    [placedAt (rowSpan d row 0).lo (packCodes (tFmt d) codes)]
      ++ (if isMx (tFmt d) then [placedAt (scaleSpan d row).lo (scales.map (BitVec.ofNat 8))] else [])
      ++ (if tAux d = 0 then [] else [placedAt (tAux d + row) [zeroMap (tFmt d) codes]])
  else []

/-- `VST` (R400–R403, R432, R458). -/
def execVst (c : CluAt) (vd : Fin 32) (sx : Fin 64) (t : Fin 32) (sr : Bool) (sy : Fin 64) (g : VSig) (s : State) : Answer :=
  .next (s.issue c.hub c.cluster 2 (vecWord 0x31 vd 0 0 0 sx sy t sr g) (fun j i s =>
    let (row, s) := s.readS j i sx
    let (d, s) := s.readT j i t
    let (v, s) := s.readV j i vd
    let (st, s) : DWord × State := if sr then s.readS j i sy else (0, s)
    let (co, s) : DWord × State := if sr then s.readS j i (sy.val + 1) else (0, s)
    let seed := imgSeed (s.job j).image 0
    let cols := min 256 (tCols d)
    let modes : List Rnd := if sr then (List.range cols).map (fun n =>
        .stochastic (srGen seed (st.setWidth 32) (co + BitVec.ofNat 64 n))) else []
    let bs := (vstBytes d row.toNat modes ((lanes v).take cols)).flatten
    let lo (x : List (Nat × Byte)) : Span := { lo := (x.headD (0, 0)).1, len := x.length }
    let s := (vstBytes d row.toNat modes ((lanes v).take cols)).foldl (fun s p =>
      ((s.noteRange j i (lo p)).modLc j i (fun x => x.taint unitVector (lo p))).modLc j i (fun x =>
        { x with stored := x.stored ++ [(lo p, x.bundle + 8)] })) s
    .done (s.modLc j i (fun x => x.pushVec
      { bytes := bs, ready := x.bundle + 8, sem := g.sem, sig := g.sig,
        tainted := !tileAligned d || (vstBytes d row.toNat modes ((lanes v).take cols)).any (fun p =>
          x.writeHazard unitVector (lo p)) }))))

/-- The runs of consecutive addresses in a list of bytes: first address and bytes. -/
def byteRuns : List (Nat × Byte) → List (Nat × List Byte)
  | [] => []
  | b :: r =>
    match byteRuns r with
    | (lo, l) :: rest => if lo = b.1 + 1 then (b.1, b.2 :: l) :: rest else (b.1, [b.2]) :: (lo, l) :: rest
    | [] => [(b.1, [b.2])]

/-- `VECTOR_RESULT_WRITTEN`: the operation that completes next writes its result and signals (R436); what a hazard spoilt is
written as free values (R440). -/
def execVectorResultWritten (c : CluAt) (s : State) : Answer :=
  .next (match (s.clu c.hub c.cluster).resident with
    | none => s
    | some (j, i) =>
      match (s.lc j i).vec with
      | [] => s
      | p :: r =>
        if s.fatal then s
        else
          let s := s.modLc j i (fun x => { x with
            vec := r, regs := { x.regs with v := p.regs.foldl (fun m e => SMap.set m e.1 e.2) x.regs.v } })
          let (bs, s) : List (Nat × Byte) × State :=
            if p.tainted then
              let (v, s) := s.draw .hazard
              (p.bytes.zipIdx.map (fun b => (b.1.1, BitVec.ofNat 8 (v / 256 ^ b.2))), s)
            else (p.bytes, s)
          let s := (byteRuns bs).foldl (fun s b => s.writeStg j i unitVector b.1 b.2) s
          s.unitDone j i p.past)

end Sys2Proof.Machine
end

