-- ==== Sys2Proof/Machine/Dispatch.lean ====
section
/-! DEFINITION. Dispatch.lean: the meaning of each command, one arm per constructor of `Instr`. -/
namespace Sys2Proof.Machine
open Sys2Proof

/-- What a command does to everything but the queue. -/
def exec (i : Instr) (s : State) : Host.Outcome State Fault Refusal :=
  match i with
  | .powerOn feedA feedB => Sys2Proof.Machine.execPowerOn feedA feedB s
  | .packageReset => Sys2Proof.Machine.execPackageReset s
  | .packageResetCmd path => Sys2Proof.Machine.execPackageResetCmd path s
  | .startUp f => Sys2Proof.Machine.execStartUp f s
  | .startUpEnd => Sys2Proof.Machine.execStartUpEnd s
  | .refclkLoss hub => Sys2Proof.Machine.execRefclkLoss hub s
  | .sdsRefclkLoss hub => Sys2Proof.Machine.execSdsRefclkLoss hub s
  | .clk32kLoss => Sys2Proof.Machine.execClk32kLoss s
  | .hubPartialReset path hub med => Sys2Proof.Machine.execHubPartialReset path hub med s
  | .hubWatchdog hub med => Sys2Proof.Machine.execHubWatchdog hub med s
  | .partialResetRestart hub training => Sys2Proof.Machine.execPartialResetRestart hub training s
  | .partialResetReturn hub med => Sys2Proof.Machine.execPartialResetReturn hub med s
  | .partialResetOverrun hub => Sys2Proof.Machine.execPartialResetOverrun hub s
  | .bridgeParityError groups => Sys2Proof.Machine.execBridgeParityError groups s
  | .fatalPortStop => Sys2Proof.Machine.execFatalPortStop s
  | .open_ path => Sys2Proof.Machine.execOpen path s
  | .validate path => Sys2Proof.Machine.execValidate path s
  | .commit path med => Sys2Proof.Machine.execCommit path med s
  | .commitPoint training med => Sys2Proof.Machine.execCommitPoint training med s
  | .quiesceLimitExpired med => Sys2Proof.Machine.execQuiesceLimitExpired med s
  | .commitOnReset path => Sys2Proof.Machine.execCommitOnReset path s
  | .abandon path => Sys2Proof.Machine.execAbandon path s
  | .revert path med => Sys2Proof.Machine.execRevert path med s
  | .healthCheckFail check med => Sys2Proof.Machine.execHealthCheckFail check med s
  | .healthWindowClose med => Sys2Proof.Machine.execHealthWindowClose med s
  | .siLockSet path => Sys2Proof.Machine.execSiLockSet path s
  | .transfer hdr target op tlen offset data reserved => Sys2Proof.Machine.execTransfer hdr target op tlen offset data reserved s
  | .carve hdr cmd => Sys2Proof.Machine.execCarve hdr cmd s
  | .grant hdr cmd => Sys2Proof.Machine.execGrant hdr cmd s
  | .rights hdr cmd => Sys2Proof.Machine.execRights hdr cmd s
  | .narrowingSnoop host extent med => Sys2Proof.Machine.execNarrowingSnoop host extent med s
  | .narrowingComplete host extent => Sys2Proof.Machine.execNarrowingComplete host extent s
  | .withdraw hdr cmd => Sys2Proof.Machine.execWithdraw hdr cmd s
  | .withdrawalRecall host extent med => Sys2Proof.Machine.execWithdrawalRecall host extent med s
  | .withdrawalComplete host extent => Sys2Proof.Machine.execWithdrawalComplete host extent s
  | .free hdr cmd => Sys2Proof.Machine.execFree hdr cmd s
  | .query hdr cmd => Sys2Proof.Machine.execQuery hdr cmd s
  | .rds host tag addr med => Sys2Proof.Machine.execRds host tag addr med s
  | .rdx host tag addr atomic med => Sys2Proof.Machine.execRdx host tag addr atomic med s
  | .upg host tag addr atomic med => Sys2Proof.Machine.execUpg host tag addr atomic med s
  | .wbm host tag addr poison data med => Sys2Proof.Machine.execWbm host tag addr poison data med s
  | .evc host tag addr med => Sys2Proof.Machine.execEvc host tag addr med s
  | .rdnc host tag addr med => Sys2Proof.Machine.execRdnc host tag addr med s
  | .wrfull host tag addr data med => Sys2Proof.Machine.execWrfull host tag addr data med s
  | .transactionOpen line med => Sys2Proof.Machine.execTransactionOpen line med s
  | .ackAnswer host htag state med => Sys2Proof.Machine.execAckAnswer host htag state med s
  | .snprspi host htag med => Sys2Proof.Machine.execSnprspi host htag med s
  | .snprspwb host htag state poison data med => Sys2Proof.Machine.execSnprspwb host htag state poison data med s
  | .fwddata host htag poison data med => Sys2Proof.Machine.execFwddata host htag poison data med s
  | .retryRecordExpiry hub set => Sys2Proof.Machine.execRetryRecordExpiry hub set s
  | .orphanTimeout line med => Sys2Proof.Machine.execOrphanTimeout line med s
  | .deadHostTimeout host med => Sys2Proof.Machine.execDeadHostTimeout host med s
  | .cohDeadQuery host => Sys2Proof.Machine.execCohDeadQuery host s
  | .declareDead host med => Sys2Proof.Machine.execDeclareDead host med s
  | .reclaimDone host => Sys2Proof.Machine.execReclaimDone host s
  | .readmit host => Sys2Proof.Machine.execReadmit host s
  | .cohReclaimDoneClear hub => Sys2Proof.Machine.execCohReclaimDoneClear hub s
  | .tenancyRecallTimeout host med => Sys2Proof.Machine.execTenancyRecallTimeout host med s
  | .tenancyEndComplete med => Sys2Proof.Machine.execTenancyEndComplete med s
  | .head port env body => Sys2Proof.Machine.execHead port env body s
  | .body port env data => Sys2Proof.Machine.execBody port env data s
  | .credit port env count init => Sys2Proof.Machine.execCredit port env count init s
  | .null port env => Sys2Proof.Machine.execNull port env s
  | .uncorrectableCodeword port => Sys2Proof.Machine.execUncorrectableCodeword port s
  | .ack port env ackSeq => Sys2Proof.Machine.execAck port env ackSeq s
  | .nak port env seq => Sys2Proof.Machine.execNak port env seq s
  | .nakResend port => Sys2Proof.Machine.execNakResend port s
  | .ackTimer port => Sys2Proof.Machine.execAckTimer port s
  | .keepaliveSend port => Sys2Proof.Machine.execKeepaliveSend port s
  | .keepalive port env ackSeq lanes state trainId => Sys2Proof.Machine.execKeepalive port env ackSeq lanes state trainId s
  | .linkDown port => Sys2Proof.Machine.execLinkDown port s
  | .trainingAttempt port => Sys2Proof.Machine.execTrainingAttempt port s
  | .trainingTimeout port => Sys2Proof.Machine.execTrainingTimeout port s
  | .adaptationDone port tx rx => Sys2Proof.Machine.execAdaptationDone port tx rx s
  | .alignDone port => Sys2Proof.Machine.execAlignDone port s
  | .train port env peerId peerTx peerRx peerMin => Sys2Proof.Machine.execTrain port env peerId peerTx peerRx peerMin s
  | .retrain port env op mask peerId => Sys2Proof.Machine.execRetrain port env op mask peerId s
  | .retrainRequestRepeat port => Sys2Proof.Machine.execRetrainRequestRepeat port s
  | .widthSwitch port => Sys2Proof.Machine.execWidthSwitch port s
  | .laneErrorInterval port corrected => Sys2Proof.Machine.execLaneErrorInterval port corrected s
  | .silenceTraining port peer => Sys2Proof.Machine.execSilenceTraining port peer s
  | .zlRetrainCmd port => Sys2Proof.Machine.execZlRetrainCmd port s
  | .zlNarrowCmd port mask => Sys2Proof.Machine.execZlNarrowCmd port mask s
  | .creditReturnTimer port => Sys2Proof.Machine.execCreditReturnTimer port s
  | .creditFallback port => Sys2Proof.Machine.execCreditFallback port s
  | .transportAck src alvc cum sack => Sys2Proof.Machine.execTransportAck src alvc cum sack s
  | .transportAckTimer src lvc => Sys2Proof.Machine.execTransportAckTimer src lvc s
  | .rtoExpiry dst lvc tseq => Sys2Proof.Machine.execRtoExpiry dst lvc tseq s
  | .pathProbeSend host secondary => Sys2Proof.Machine.execPathProbeSend host secondary s
  | .pathProbe port host pkind number => Sys2Proof.Machine.execPathProbe port host pkind number s
  | .pathHoldExpiry port => Sys2Proof.Machine.execPathHoldExpiry port s
  | .primaryReturn host => Sys2Proof.Machine.execPrimaryReturn host s
  | .zlfHold hold reason pathHoldUs => Sys2Proof.Machine.execZlfHold hold reason pathHoldUs s
  | .idLockSet => Sys2Proof.Machine.execIdLockSet s
  | .beaconSend port => Sys2Proof.Machine.execBeaconSend port s
  | .beacon port env txTime echoTime dwell stratum => Sys2Proof.Machine.execBeacon port env txTime echoTime dwell stratum s
  | .bulkReadRequest host tag addr bytes media => Sys2Proof.Machine.execBulkReadRequest host tag addr bytes media s
  | .bulkWriteData host tag addr bytes boff data media => Sys2Proof.Machine.execBulkWriteData host tag addr bytes boff data media s
  | .arpRequest port frame srcMac target => Sys2Proof.Machine.execArpRequest port frame srcMac target s
  | .neighbourSolicitation port frame srcMac target => Sys2Proof.Machine.execNeighbourSolicitation port frame srcMac target s
  | .echoRequest port frame srcMac target payload => Sys2Proof.Machine.execEchoRequest port frame srcMac target payload s
  | .dhcpMessage port frame srcMac msg => Sys2Proof.Machine.execDhcpMessage port frame srcMac msg s
  | .pfcFrame port frame enable quanta => Sys2Proof.Machine.execPfcFrame port frame enable quanta s
  | .pfcRepeat port cls occupancy => Sys2Proof.Machine.execPfcRepeat port cls occupancy s
  | .pfcWatchdog port cls => Sys2Proof.Machine.execPfcWatchdog port cls s
  | .cnp hdr => Sys2Proof.Machine.execCnp hdr s
  | .rateIncrease queue => Sys2Proof.Machine.execRateIncrease queue s
  | .send hdr part data => Sys2Proof.Machine.execSend hdr part data s
  | .rdmaReadResponse hdr data media => Sys2Proof.Machine.execRdmaReadResponse hdr data media s
  | .rdmaAcknowledge hdr syn => Sys2Proof.Machine.execRdmaAcknowledge hdr syn s
  | .rdmaRequestToPart hdr req => Sys2Proof.Machine.execRdmaRequestToPart hdr req s
  | .ackTimeout queue => Sys2Proof.Machine.execAckTimeout queue s
  | .ethLinkDown port => Sys2Proof.Machine.execEthLinkDown port s
  | .ethIpv4Write path port value => Sys2Proof.Machine.execEthIpv4Write path port value s
  | .discover hdr => Sys2Proof.Machine.execDiscover hdr s
  | .regRead hdr addr count => Sys2Proof.Machine.execRegRead hdr addr count s
  | .regWrite hdr pairs env => Sys2Proof.Machine.execRegWrite hdr pairs env s
  | .registerWrite path addr value env => Sys2Proof.Machine.execRegisterWrite path addr value env s
  | .qpConnect hdr p reserved => Sys2Proof.Machine.execQpConnect hdr p reserved s
  | .eventAck hdr => Sys2Proof.Machine.execEventAck hdr s
  | .eventRetransmit slot seq => Sys2Proof.Machine.execEventRetransmit slot seq s
  | .kmpKeepalive hdr => Sys2Proof.Machine.execKmpKeepalive hdr s
  | .end_ hdr => Sys2Proof.Machine.execEnd hdr s
  | .sessionTimeout slot => Sys2Proof.Machine.execSessionTimeout slot s
  | .ptpMessage port frame domain msg => Sys2Proof.Machine.execPtpMessage port frame domain msg s
  | .queueSubmit host queue entry => Sys2Proof.Machine.execQueueSubmit host queue entry s
  | .cqRelease host queue entry => Sys2Proof.Machine.execCqRelease host queue entry s
  | .read queue media => Sys2Proof.Machine.execRead queue media s
  | .write queue => Sys2Proof.Machine.execWrite queue s
  | .atomic queue med => Sys2Proof.Machine.execAtomic queue med s
  | .nop queue => Sys2Proof.Machine.execNop queue s
  | .completionWrite queue => Sys2Proof.Machine.execCompletionWrite queue s
  | .yellowPromotion queue => Sys2Proof.Machine.execYellowPromotion queue s
  | .loadMeasure hub => Sys2Proof.Machine.execLoadMeasure hub s
  | .mdesc c stream a sx g media => Sys2Proof.Machine.execMdesc c stream a sx g media s
  | .descriptorComplete c stream media => Sys2Proof.Machine.execDescriptorComplete c stream media s
  | .streamRetry c stream media => Sys2Proof.Machine.execStreamRetry c stream media s
  | .wload c tw buf sparse g => Sys2Proof.Machine.execWload c tw buf sparse g s
  | .wloadComplete c => Sys2Proof.Machine.execWloadComplete c s
  | .mma c ta out ti useInit buf zskip g => Sys2Proof.Machine.execMma c ta out ti useInit buf zskip g s
  | .mmaComplete c => Sys2Proof.Machine.execMmaComplete c s
  | .fadd c vd va vb g => Sys2Proof.Machine.execFadd c vd va vb g s
  | .fsub c vd va vb g => Sys2Proof.Machine.execFsub c vd va vb g s
  | .fmul c vd va vb g => Sys2Proof.Machine.execFmul c vd va vb g s
  | .fmin c vd va vb g => Sys2Proof.Machine.execFmin c vd va vb g s
  | .fmax c vd va vb g => Sys2Proof.Machine.execFmax c vd va vb g s
  | .fclt c vd va vb g => Sys2Proof.Machine.execFclt c vd va vb g s
  | .fceq c vd va vb g => Sys2Proof.Machine.execFceq c vd va vb g s
  | .iadd c vd va vb g => Sys2Proof.Machine.execIadd c vd va vb g s
  | .isub c vd va vb g => Sys2Proof.Machine.execIsub c vd va vb g s
  | .imul c vd va vb g => Sys2Proof.Machine.execImul c vd va vb g s
  | .vectorAnd c vd va vb g => Sys2Proof.Machine.execVectorAnd c vd va vb g s
  | .vectorOr c vd va vb g => Sys2Proof.Machine.execVectorOr c vd va vb g s
  | .vectorXor c vd va vb g => Sys2Proof.Machine.execVectorXor c vd va vb g s
  | .sel c vd va vb vc g => Sys2Proof.Machine.execSel c vd va vb vc g s
  | .bcast c vd sx g => Sys2Proof.Machine.execBcast c vd sx g s
  | .exp c vd va g => Sys2Proof.Machine.execExp c vd va g s
  | .log c vd va g => Sys2Proof.Machine.execLog c vd va g s
  | .recip c vd va g => Sys2Proof.Machine.execRecip c vd va g s
  | .rsqrt c vd va g => Sys2Proof.Machine.execRsqrt c vd va g s
  | .gelu c vd va g => Sys2Proof.Machine.execGelu c vd va g s
  | .silu c vd va g => Sys2Proof.Machine.execSilu c vd va g s
  | .vmov c vd va g => Sys2Proof.Machine.execVmov c vd va g s
  | .viota c vd sx g => Sys2Proof.Machine.execViota c vd sx g s
  | .rsum c vd va g => Sys2Proof.Machine.execRsum c vd va g s
  | .rsuma c vd va vb g => Sys2Proof.Machine.execRsuma c vd va vb g s
  | .rmax c vd va g => Sys2Proof.Machine.execRmax c vd va g s
  | .rmaxa c vd va vb g => Sys2Proof.Machine.execRmaxa c vd va vb g s
  | .rmin c vd va g => Sys2Proof.Machine.execRmin c vd va g s
  | .rmina c vd va vb g => Sys2Proof.Machine.execRmina c vd va vb g s
  | .topki c vd va vb vc sx g => Sys2Proof.Machine.execTopki c vd va vb vc sx g s
  | .topk c vd va vb vc sx g => Sys2Proof.Machine.execTopk c vd va vb vc sx g s
  | .cvtif c vd va g => Sys2Proof.Machine.execCvtif c vd va g s
  | .cvtfi c vd va g => Sys2Proof.Machine.execCvtfi c vd va g s
  | .vld c vd sx t g => Sys2Proof.Machine.execVld c vd sx t g s
  | .vst c vd sx t sr sy g => Sys2Proof.Machine.execVst c vd sx t sr sy g s
  | .vectorResultWritten c => Sys2Proof.Machine.execVectorResultWritten c s
  | .add c d a b imm => Sys2Proof.Machine.execAdd c d a b imm s
  | .sub c d a b => Sys2Proof.Machine.execSub c d a b s
  | .mul c d a b => Sys2Proof.Machine.execMul c d a b s
  | .and c d a b => Sys2Proof.Machine.execAnd c d a b s
  | .or c d a b => Sys2Proof.Machine.execOr c d a b s
  | .xor c d a b => Sys2Proof.Machine.execXor c d a b s
  | .shl c d a b imm => Sys2Proof.Machine.execShl c d a b imm s
  | .shr c d a b imm => Sys2Proof.Machine.execShr c d a b imm s
  | .sar c d a b imm => Sys2Proof.Machine.execSar c d a b imm s
  | .slt c d a b => Sys2Proof.Machine.execSlt c d a b s
  | .sltu c d a b => Sys2Proof.Machine.execSltu c d a b s
  | .li c d imm => Sys2Proof.Machine.execLi c d imm s
  | .lih c d imm => Sys2Proof.Machine.execLih c d imm s
  | .amov c d a imm => Sys2Proof.Machine.execAmov c d a imm s
  | .aadd c d a b imm => Sys2Proof.Machine.execAadd c d a b imm s
  | .aget c d a => Sys2Proof.Machine.execAget c d a s
  | .br c target => Sys2Proof.Machine.execBr c target s
  | .beq c a b target => Sys2Proof.Machine.execBeq c a b target s
  | .bne c a b target => Sys2Proof.Machine.execBne c a b target s
  | .blt c a b target => Sys2Proof.Machine.execBlt c a b target s
  | .bltu c a b target => Sys2Proof.Machine.execBltu c a b target s
  | .loop c d target => Sys2Proof.Machine.execLoop c d target s
  | .wait c sem n => Sys2Proof.Machine.execWait c sem n s
  | .signal c sem n => Sys2Proof.Machine.execSignal c sem n s
  | .fence c => Sys2Proof.Machine.execFence c s
  | .gwait c d expert => Sys2Proof.Machine.execGwait c d expert s
  | .yield c n => Sys2Proof.Machine.execYield c n s
  | .halt c => Sys2Proof.Machine.execHalt c s
  | .sysr c d n => Sys2Proof.Machine.execSysr c d n s
  | .trap c code => Sys2Proof.Machine.execTrap c code s
  | .sld c d a imm => Sys2Proof.Machine.execSld c d a imm s
  | .sst c a b imm => Sys2Proof.Machine.execSst c a b imm s
  | .tld c d a imm => Sys2Proof.Machine.execTld c d a imm s
  | .tst c a b imm => Sys2Proof.Machine.execTst c a b imm s
  | .tadd c d a b imm => Sys2Proof.Machine.execTadd c d a b imm s
  | .barrierOpen job media => Sys2Proof.Machine.execBarrierOpen job media s
  | .superstepAdmission hub => Sys2Proof.Machine.execSuperstepAdmission hub s
  | .token hub src job expert token weight step part data => Sys2Proof.Machine.execToken hub src job expert token weight step part data s
  | .close hub src job count step => Sys2Proof.Machine.execClose hub src job count step s
  | .combine job media => Sys2Proof.Machine.execCombine job media s
  | .gather hub host gtag gop efmt rowUnits count table part data media => Sys2Proof.Machine.execGather hub host gtag gop efmt rowUnits count table part data media s
  | .select hub host gtag k sfmt d sumAddr part data media => Sys2Proof.Machine.execSelect hub host gtag k sfmt d sumAddr part data media s
  | .gatherDone hub host gtag media => Sys2Proof.Machine.execGatherDone hub host gtag media s
  | .jload queue media => Sys2Proof.Machine.execJload queue media s
  | .jloadDone queue id media => Sys2Proof.Machine.execJloadDone queue id media s
  | .jlaunch queue media => Sys2Proof.Machine.execJlaunch queue media s
  | .launch job media => Sys2Proof.Machine.execLaunch job media s
  | .jwait queue => Sys2Proof.Machine.execJwait queue s
  | .jstatus queue => Sys2Proof.Machine.execJstatus queue s
  | .jcheckpoint queue media => Sys2Proof.Machine.execJcheckpoint queue media s
  | .jcontinue queue => Sys2Proof.Machine.execJcontinue queue s
  | .jabort queue => Sys2Proof.Machine.execJabort queue s
  | .junload queue media => Sys2Proof.Machine.execJunload queue media s
  | .superstepWatchdog job => Sys2Proof.Machine.execSuperstepWatchdog job s
  | .timeSliceSave c => Sys2Proof.Machine.execTimeSliceSave c s
  | .timeSliceRestore c job lc => Sys2Proof.Machine.execTimeSliceRestore c job lc s
  | .phello src pairId time body => Sys2Proof.Machine.execPhello src pairId time body s
  | .phelloTimeout job => Sys2Proof.Machine.execPhelloTimeout job s
  | .pdigest pairId step firstLc digests media => Sys2Proof.Machine.execPdigest pairId step firstLc digests media s
  | .pstop stop => Sys2Proof.Machine.execPstop stop s
  | .pairsPeerLost => Sys2Proof.Machine.execPairsPeerLost s
  | .walk hub cluster stream media => Sys2Proof.Machine.execWalk hub cluster stream media s
  | .recordResolve job base count => Sys2Proof.Machine.execRecordResolve job base count s
  | .holdLimit hub index => Sys2Proof.Machine.execHoldLimit hub index s
  | .shootdown job scope base count => Sys2Proof.Machine.execShootdown job scope base count s
  | .shootdownComplete => Sys2Proof.Machine.execShootdownComplete s
  | .refresh hub channel => Sys2Proof.Machine.execRefresh hub channel s
  | .mr4Poll hub channel temp hot => Sys2Proof.Machine.execMr4Poll hub channel temp hot s
  | .stackSensorPoll hub channel temp => Sys2Proof.Machine.execStackSensorPoll hub channel temp s
  | .liveRetrain => Sys2Proof.Machine.execLiveRetrain s
  | .retrainComplete sweep => Sys2Proof.Machine.execRetrainComplete sweep s
  | .memRetrainCmd hub channel => Sys2Proof.Machine.execMemRetrainCmd hub channel s
  | .srEnter hub channel => Sys2Proof.Machine.execSrEnter hub channel s
  | .srExit hub channel => Sys2Proof.Machine.execSrExit hub channel s
  | .srIdle hub channel => Sys2Proof.Machine.execSrIdle hub channel s
  | .migrationComplete hub lost => Sys2Proof.Machine.execMigrationComplete hub lost s
  | .liftStart slot extent cls hubGiven hub => Sys2Proof.Machine.execLiftStart slot extent cls hubGiven hub s
  | .liftCancel slot extent => Sys2Proof.Machine.execLiftCancel slot extent s
  | .liftBegin => Sys2Proof.Machine.execLiftBegin s
  | .liftCopyDone lost med => Sys2Proof.Machine.execLiftCopyDone lost med s
  | .liftSwitchPoint med => Sys2Proof.Machine.execLiftSwitchPoint med s
  | .patrolRead line m percent => Sys2Proof.Machine.execPatrolRead line m percent s
  | .rowRepair lost => Sys2Proof.Machine.execRowRepair lost s
  | .logAck => Sys2Proof.Machine.execLogAck s
  | .pageRetire slot page => Sys2Proof.Machine.execPageRetire slot page s
  | .pageRelease slot page => Sys2Proof.Machine.execPageRelease slot page s
  | .rawWrite path line => Sys2Proof.Machine.execRawWrite path line s
  | .rawRead path line flips => Sys2Proof.Machine.execRawRead path line flips s
  | .switchOver cause => Sys2Proof.Machine.execSwitchOver cause s
  | .aSetReturn hub => Sys2Proof.Machine.execASetReturn hub s
  | .holdB => Sys2Proof.Machine.execHoldB s
  | .releaseHold => Sys2Proof.Machine.execReleaseHold s
  | .overCurrent feedB amps => Sys2Proof.Machine.execOverCurrent feedB amps s
  | .sensorRead hub temps => Sys2Proof.Machine.execSensorRead hub temps s
  | .thermalCapAdjust hub => Sys2Proof.Machine.execThermalCapAdjust hub s
  | .firstUseEnd hub => Sys2Proof.Machine.execFirstUseEnd hub s
  | .ledgerWindow hub estimate => Sys2Proof.Machine.execLedgerWindow hub estimate s
  | .snowploughEscalate hub amps => Sys2Proof.Machine.execSnowploughEscalate hub amps s
  | .snowploughRelease hub cause amps => Sys2Proof.Machine.execSnowploughRelease hub cause amps s
  | .snowploughClimb hub => Sys2Proof.Machine.execSnowploughClimb hub s
  | .snowploughTest => Sys2Proof.Machine.execSnowploughTest s
  | .deepSleep => Sys2Proof.Machine.execDeepSleep s
  | .wake cause => Sys2Proof.Machine.execWake cause s
  | .wakeCommand path => Sys2Proof.Machine.execWakeCommand path s
  | .sleepTick => Sys2Proof.Machine.execSleepTick s
  | .sleepFeedLoss feedB => Sys2Proof.Machine.execSleepFeedLoss feedB s
  | .enrol path slot usage => Sys2Proof.Machine.execEnrol path slot usage s
  | .revoke path slot => Sys2Proof.Machine.execRevoke path slot s
  | .openEpoch path carve => Sys2Proof.Machine.execOpenEpoch path carve s
  | .endEpoch path med => Sys2Proof.Machine.execEndEpoch path med s
  | .resurface path med => Sys2Proof.Machine.execResurface path med s
  | .resurfacingComplete poisoned => Sys2Proof.Machine.execResurfacingComplete poisoned s
  | .getVersion c => Sys2Proof.Machine.execGetVersion c s
  | .getCapabilities c => Sys2Proof.Machine.execGetCapabilities c s
  | .negotiateAlgorithms c common => Sys2Proof.Machine.execNegotiateAlgorithms c common s
  | .getDigests c => Sys2Proof.Machine.execGetDigests c s
  | .getCertificate c slot offset length => Sys2Proof.Machine.execGetCertificate c slot offset length s
  | .challenge c slot nonce => Sys2Proof.Machine.execChallenge c slot nonce s
  | .getMeasurements c index sign nonce => Sys2Proof.Machine.execGetMeasurements c index sign nonce s
  | .keyExchange c reqSid both => Sys2Proof.Machine.execKeyExchange c reqSid both s
  | .finish c macOk sigOk => Sys2Proof.Machine.execFinish c macOk sigOk s
  | .heartbeat c => Sys2Proof.Machine.execHeartbeat c s
  | .keyUpdate c => Sys2Proof.Machine.execKeyUpdate c s
  | .endSession c => Sys2Proof.Machine.execEndSession c s
  | .chunkSend c handle seq data last root certs valid => Sys2Proof.Machine.execChunkSend c handle seq data last root certs valid s
  | .chunkGet c handle seq => Sys2Proof.Machine.execChunkGet c handle seq s
  | .getEncapsulatedRequest c => Sys2Proof.Machine.execGetEncapsulatedRequest c s
  | .deliverEncapsulatedResponse c root certs valid => Sys2Proof.Machine.execDeliverEncapsulatedResponse c root certs valid s
  | .unsupportedSpdmRequest c => Sys2Proof.Machine.execUnsupportedSpdmRequest c s
  | .spdmFragment host index last mseq data => Sys2Proof.Machine.execSpdmFragment host index last mseq data s
  | .seal_ host alvc tseq lap tags => Sys2Proof.Machine.execSeal host alvc tseq lap tags s
  | .sealSend host lvc => Sys2Proof.Machine.execSealSend host lvc s
  | .fwOpen path => Sys2Proof.Machine.execFwOpen path s
  | .verify path => Sys2Proof.Machine.execVerify path s
  | .start path => Sys2Proof.Machine.execStart path s
  | .hubControllerRestart => Sys2Proof.Machine.execHubControllerRestart s
  | .hubControllerRunning => Sys2Proof.Machine.execHubControllerRunning s
  | .yieldWaitExpired => Sys2Proof.Machine.execYieldWaitExpired s
  | .spRestart => Sys2Proof.Machine.execSpRestart s
  | .spRunning => Sys2Proof.Machine.execSpRunning s
  | .fwRestartTimeout => Sys2Proof.Machine.execFwRestartTimeout s
  | .confirmationComplete => Sys2Proof.Machine.execConfirmationComplete s
  | .abort path => Sys2Proof.Machine.execAbort path s
  | .rollback path => Sys2Proof.Machine.execRollback path s
  | .mbxRead path hub block id index => Sys2Proof.Machine.execMbxRead path hub block id index s
  | .mbxWrite path hub block id index => Sys2Proof.Machine.execMbxWrite path hub block id index s
  | .mbxComplete path hub block => Sys2Proof.Machine.execMbxComplete path hub block s
  | .entdaa addr => Sys2Proof.Machine.execEntdaa addr s
  | .i3cCsrRead bytes => Sys2Proof.Machine.execI3cCsrRead bytes s
  | .i3cCsrWrite bytes env => Sys2Proof.Machine.execI3cCsrWrite bytes env s
  | .idcode => Sys2Proof.Machine.execIdcode s
  | .samplePreload pins levels => Sys2Proof.Machine.execSamplePreload pins levels s
  | .extest pins levels => Sys2Proof.Machine.execExtest pins levels s
  | .csrAddr addr => Sys2Proof.Machine.execCsrAddr addr s
  | .csrWrite value env => Sys2Proof.Machine.execCsrWrite value env s
  | .csrRead completed => Sys2Proof.Machine.execCsrRead completed s
  | .bypass code => Sys2Proof.Machine.execBypass code s
  | .jtagReset => Sys2Proof.Machine.execJtagReset s
  | .syncFrame bits => Sys2Proof.Machine.execSyncFrame bits s
  | .syncInMissing => Sys2Proof.Machine.execSyncInMissing s
  | .syncOutFrame => Sys2Proof.Machine.execSyncOutFrame s
  | .fire path => Sys2Proof.Machine.execFire path s
  | .rearm path => Sys2Proof.Machine.execRearm path s
  | .postWindowEnd => Sys2Proof.Machine.execPostWindowEnd s
  | .traceSend => Sys2Proof.Machine.execTraceSend s
  | .kmpTargetSet slot => Sys2Proof.Machine.execKmpTargetSet slot s
  | .exportTailAdvance path tail => Sys2Proof.Machine.execExportTailAdvance path tail s
  | .counterReset path hub block all => Sys2Proof.Machine.execCounterReset path hub block all s
  | .reclaimWalk hub line med => Sys2Proof.Machine.execReclaimWalk hub line med s
  | .fillComplete page => Sys2Proof.Machine.execFillComplete page s
  | .checkpointComplete job media => Sys2Proof.Machine.execCheckpointComplete job media s
  | .verifyComplete equal => Sys2Proof.Machine.execVerifyComplete equal s
  | .ethLinkUp port => Sys2Proof.Machine.execEthLinkUp port s
  | .clk32kReturn => Sys2Proof.Machine.execClk32kReturn s
  | .sdsRefclkReturn hub => Sys2Proof.Machine.execSdsRefclkReturn hub s
  | .standbyFeedFault feedB within => Sys2Proof.Machine.execStandbyFeedFault feedB within s
  | .pfcPauseExpiry port cls => Sys2Proof.Machine.execPfcPauseExpiry port cls s
  | .wakeComplete => Sys2Proof.Machine.execWakeComplete s
  | .cellCrcFailure port => Sys2Proof.Machine.execCellCrcFailure port s
  | .reservedKindCell port => Sys2Proof.Machine.execReservedKindCell port s
  | .discardedFrame port frame => Sys2Proof.Machine.execDiscardedFrame port frame s

end Sys2Proof.Machine
end

