-- ==== Sys2Proof/Safety.lean ====
section
/-! DEFINITION. Safety.lean: the terms in which statements speak of the whole machine. -/
namespace Sys2Proof.Machine
open Sys2Proof

/-- The stored bytes are in their canonical form. -/
def State.memOk (s : State) : Prop := Memory.wf s.mem = true

/-- The fields of the state, by name. -/
inductive Field where
  | pending | fuses | sys | hubs | clk | traceUnits | traceHubs | trig | counters | cntGroups | mbx | jtag | i3c | zl | flows |
  hosts | zlg | delivered | slots | extents | maps | drains | carver | dir | lines | retry | atom | cohHubs | heldMsgs | coh |
  accesses | nextAccess | bulkRx | tenEnd | mem | lineMeta | units | ranks | chans | memHubs | lift | integ | memKey | eth | qps
  | kmp | queues | queHubs | meters | ethg | lcs | clus | jobs | gates | slg | trn | shoot | jobg | si | fw | ten | sels |
  pwrHubs | pwr | eff | out | freeCtr
deriving DecidableEq, Repr

/-- A field holds in `t` what it holds in `s`. -/
def Field.same (s t : State) : Field → Prop
  | .pending => t.pending = s.pending
  | .fuses => t.fuses = s.fuses
  | .sys => t.sys = s.sys
  | .hubs => t.hubs = s.hubs
  | .clk => t.clk = s.clk
  | .traceUnits => t.traceUnits = s.traceUnits
  | .traceHubs => t.traceHubs = s.traceHubs
  | .trig => t.trig = s.trig
  | .counters => t.counters = s.counters
  | .cntGroups => t.cntGroups = s.cntGroups
  | .mbx => t.mbx = s.mbx
  | .jtag => t.jtag = s.jtag
  | .i3c => t.i3c = s.i3c
  | .zl => t.zl = s.zl
  | .flows => t.flows = s.flows
  | .hosts => t.hosts = s.hosts
  | .zlg => t.zlg = s.zlg
  | .delivered => t.delivered = s.delivered
  | .slots => t.slots = s.slots
  | .extents => t.extents = s.extents
  | .maps => t.maps = s.maps
  | .drains => t.drains = s.drains
  | .carver => t.carver = s.carver
  | .dir => t.dir = s.dir
  | .lines => t.lines = s.lines
  | .retry => t.retry = s.retry
  | .atom => t.atom = s.atom
  | .cohHubs => t.cohHubs = s.cohHubs
  | .heldMsgs => t.heldMsgs = s.heldMsgs
  | .coh => t.coh = s.coh
  | .accesses => t.accesses = s.accesses
  | .nextAccess => t.nextAccess = s.nextAccess
  | .bulkRx => t.bulkRx = s.bulkRx
  | .tenEnd => t.tenEnd = s.tenEnd
  | .mem => t.mem = s.mem
  | .lineMeta => t.lineMeta = s.lineMeta
  | .units => t.units = s.units
  | .ranks => t.ranks = s.ranks
  | .chans => t.chans = s.chans
  | .memHubs => t.memHubs = s.memHubs
  | .lift => t.lift = s.lift
  | .integ => t.integ = s.integ
  | .memKey => t.memKey = s.memKey
  | .eth => t.eth = s.eth
  | .qps => t.qps = s.qps
  | .kmp => t.kmp = s.kmp
  | .queues => t.queues = s.queues
  | .queHubs => t.queHubs = s.queHubs
  | .meters => t.meters = s.meters
  | .ethg => t.ethg = s.ethg
  | .lcs => t.lcs = s.lcs
  | .clus => t.clus = s.clus
  | .jobs => t.jobs = s.jobs
  | .gates => t.gates = s.gates
  | .slg => t.slg = s.slg
  | .trn => t.trn = s.trn
  | .shoot => t.shoot = s.shoot
  | .jobg => t.jobg = s.jobg
  | .si => t.si = s.si
  | .fw => t.fw = s.fw
  | .ten => t.ten = s.ten
  | .sels => t.sels = s.sels
  | .pwrHubs => t.pwrHubs = s.pwrHubs
  | .pwr => t.pwr = s.pwr
  | .eff => t.eff = s.eff
  | .out => t.out = s.out
  | .freeCtr => t.freeCtr = s.freeCtr

/-- Nothing but the listed fields differs between `s` and `t`. -/
def OnlyChanges (l : List Field) (s t : State) : Prop := ∀ f : Field, f ∉ l → f.same s t

/-- Every field. -/
def Field.all : List Field :=
  [.pending, .fuses, .sys, .hubs, .clk, .traceUnits, .traceHubs, .trig, .counters, .cntGroups, .mbx, .jtag, .i3c, .zl, .flows,
   .hosts, .zlg, .delivered, .slots, .extents, .maps, .drains, .carver, .dir, .lines, .retry, .atom, .cohHubs, .heldMsgs, .coh,
   .accesses, .nextAccess, .bulkRx, .tenEnd, .mem, .lineMeta, .units, .ranks, .chans, .memHubs, .lift, .integ, .memKey, .eth,
   .qps, .kmp, .queues, .queHubs, .meters, .ethg, .lcs, .clus, .jobs, .gates, .slg, .trn, .shoot, .jobg, .si, .fw, .ten, .sels,
   .pwrHubs, .pwr, .eff, .out, .freeCtr]

/-- Every field but those listed. -/
def Field.allBut (l : List Field) : List Field := Field.all.filter (fun f => !l.contains f)

/-- What sending a packet over ZL touches. -/
def Field.sends : List Field := [.traceUnits, .traceHubs, .trig, .counters, .zl, .flows, .hosts, .ten, .out]

/-- What completing a request or a command touches. -/
def Field.answers : List Field := [.traceUnits, .traceHubs, .trig, .counters, .zl, .flows, .hosts, .eth, .qps, .queues, .ten, .out]

/-- What the end of a wait touches. -/
def Field.traces : List Field := [.traceUnits, .traceHubs, .trig]

/-- What an access to memory touches. -/
def Field.stores : List Field := [.slots, .mem, .lineMeta, .units, .ranks, .chans, .memHubs, .integ]

/-- What the homes of lines touch. -/
def Field.orders : List Field := [.drains, .dir, .lines, .retry, .atom, .cohHubs, .coh, .accesses, .tenEnd, .lift]

/-- What the run of a job touches. -/
def Field.runs : List Field := [.lcs, .clus, .jobs, .gates, .trn, .pwrHubs]

/-- The fields that a command may write (everything else it leaves as it was). -/
def writesOf : Instr → List Field
  | .powerOn .. =>
    Field.allBut [.pending, .fuses, .nextAccess, .out]
  | .packageReset | .packageResetCmd .. =>
    Field.allBut [.pending, .fuses, .jtag, .nextAccess, .out]
  | .startUp .. =>
    Field.answers ++ [.sys, .hubs, .jtag, .zlg, .slots, .dir, .atom, .accesses, .mem, .lineMeta, .units, .chans, .memHubs,
      .integ, .meters, .ethg, .clus, .jobs, .trn, .shoot, .si, .fw, .pwrHubs, .eff]
  | .startUpEnd =>
    Field.sends ++ [.sys, .zlg, .slots, .mem, .lineMeta, .units, .chans, .memHubs, .integ, .si]
  | .refclkLoss .. | .partialResetOverrun .. | .bridgeParityError .. =>
    Field.answers ++ [.sys, .hubs, .carver, .lines, .heldMsgs, .accesses, .bulkRx, .kmp, .ethg, .slg, .si]
  | .sdsRefclkLoss .. =>
    Field.sends ++ [.hubs, .zlg, .eth, .ethg]
  | .clk32kLoss | .clk32kReturn =>
    [.sys]
  | .hubPartialReset .. | .hubWatchdog .. | .partialResetReturn .. =>
    Field.allBut [.pending, .fuses, .jtag, .i3c, .delivered, .maps, .carver, .bulkRx, .memKey, .meters, .pwr, .eff]
  | .partialResetRestart .. =>
    [.hubs, .counters, .slots, .mem, .lineMeta, .units, .chans, .integ, .si, .fw, .pwrHubs]
  | .fatalPortStop =>
    [.sys, .pwr]
  | .open_ .. | .validate .. | .commitOnReset .. | .abandon .. | .siLockSet .. =>
    [.si]
  | .commit .. =>
    Field.answers ++ Field.stores ++ Field.orders ++ [.si]
  | .commitPoint .. =>
    Field.allBut [.pending, .fuses, .sys, .clk, .cntGroups, .mbx, .jtag, .i3c, .delivered, .extents, .maps, .carver,
      .bulkRx, .kmp, .queHubs, .fw, .sels, .pwr]
  | .quiesceLimitExpired .. | .ethIpv4Write .. | .regWrite .. | .registerWrite .. | .mbxRead .. | .mbxWrite .. |
  .i3cCsrWrite .. =>
    Field.allBut [.pending, .fuses, .jtag]
  | .revert .. | .healthCheckFail .. | .healthWindowClose .. =>
    Field.allBut [.pending, .fuses, .jtag, .nextAccess]
  | .transfer .. =>
    [.counters, .eth, .kmp, .meters, .ethg, .si, .fw, .ten, .out]
  | .carve .. | .grant .. | .rights .. | .withdraw .. | .free .. | .query .. =>
    Field.answers ++ [.slots, .extents, .maps, .drains, .carver, .dir, .retry, .atom, .mem, .lineMeta, .units, .chans,
      .integ, .kmp, .meters, .ethg, .jobs, .trn, .shoot, .si]
  | .narrowingSnoop .. | .withdrawalRecall .. | .transactionOpen .. | .orphanTimeout .. | .reclaimWalk .. =>
    Field.answers ++ Field.stores ++ Field.orders
  | .narrowingComplete .. | .withdrawalComplete .. =>
    Field.answers ++ [.maps, .drains, .kmp]
  | .rds .. | .rdx .. | .upg .. | .rdnc .. | .wrfull .. =>
    Field.answers ++ Field.stores ++ Field.orders ++ [.heldMsgs, .meters, .freeCtr]
  | .wbm .. | .evc .. | .ackAnswer .. | .snprspi .. | .snprspwb .. | .fwddata .. =>
    Field.answers ++ Field.stores ++ Field.orders ++ [.heldMsgs]
  | .retryRecordExpiry .. =>
    [.retry]
  | .deadHostTimeout .. | .declareDead .. | .tenancyRecallTimeout .. =>
    Field.answers ++ Field.stores ++ Field.orders ++ Field.runs ++ [.heldMsgs, .nextAccess, .bulkRx, .queHubs, .slg,
      .jobg]
  | .cohDeadQuery .. =>
    [.coh]
  | .reclaimDone .. =>
    [.hosts, .cohHubs, .integ]
  | .readmit .. =>
    [.hosts, .coh, .queues, .meters]
  | .cohReclaimDoneClear .. =>
    [.cohHubs]
  | .tenancyEndComplete .. | .resurface .. =>
    Field.allBut [.pending, .fuses, .sys, .hubs, .cntGroups, .jtag, .i3c, .zlg, .delivered, .carver, .bulkRx, .queHubs,
      .meters, .sels, .pwr, .eff]
  | .head .. | .body .. | .seal_ .. =>
    Field.sends ++ [.delivered]
  | .credit .. =>
    Field.traces ++ [.counters, .zl, .hosts, .out]
  | .null .. | .trainingAttempt .. | .trainingTimeout .. | .adaptationDone .. | .reservedKindCell .. =>
    [.zl]
  | .uncorrectableCodeword .. | .ackTimer .. | .keepaliveSend .. | .alignDone .. | .retrain .. | .zlRetrainCmd .. |
  .zlNarrowCmd .. | .cellCrcFailure .. =>
    [.zl, .out]
  | .ack .. | .nak .. | .keepalive .. | .creditFallback .. =>
    Field.traces ++ [.counters, .zl, .out]
  | .nakResend .. | .retrainRequestRepeat .. | .beaconSend .. | .i3cCsrRead .. | .syncOutFrame =>
    [.out]
  | .linkDown .. | .zlfHold .. =>
    Field.sends ++ [.zlg]
  | .train .. =>
    Field.traces ++ [.counters, .zl, .flows, .zlg, .ten, .out, .freeCtr]
  | .widthSwitch .. =>
    Field.traces ++ [.counters, .zl, .zlg, .out]
  | .laneErrorInterval .. | .creditReturnTimer .. =>
    [.counters, .zl, .out]
  | .silenceTraining .. =>
    [.zl, .zlg]
  | .transportAck .. | .pathProbeSend .. | .pathProbe .. | .pathHoldExpiry .. | .primaryReturn .. | .sealSend .. =>
    Field.sends
  | .transportAckTimer .. =>
    Field.traces ++ [.counters, .zl, .flows, .out]
  | .rtoExpiry .. =>
    Field.traces ++ [.counters, .zl, .flows, .ten, .out]
  | .idLockSet =>
    [.zlg]
  | .beacon .. =>
    [.clk, .zl, .zlg]
  | .bulkReadRequest .. =>
    Field.answers ++ Field.stores ++ Field.orders ++ [.heldMsgs, .nextAccess, .meters]
  | .bulkWriteData .. =>
    Field.answers ++ Field.stores ++ Field.orders ++ [.heldMsgs, .nextAccess, .bulkRx, .meters]
  | .arpRequest .. | .neighbourSolicitation .. | .echoRequest .. | .dhcpMessage .. | .pfcRepeat .. | .ethLinkUp .. =>
    [.eth, .out]
  | .pfcFrame .. | .pfcWatchdog .. | .pfcPauseExpiry .. =>
    Field.traces ++ [.eth, .out]
  | .cnp .. | .rdmaAcknowledge .. | .rdmaRequestToPart .. =>
    [.counters, .eth, .qps, .meters, .out]
  | .rateIncrease .. =>
    [.qps]
  | .send .. =>
    Field.answers ++ [.meters]
  | .rdmaReadResponse .. =>
    Field.answers ++ Field.stores ++ Field.orders ++ [.meters]
  | .ackTimeout .. =>
    [.eth, .qps, .out]
  | .ethLinkDown .. =>
    Field.traces ++ [.zlg, .eth, .ethg]
  | .discover .. | .kmpKeepalive .. =>
    [.counters, .eth, .kmp, .meters, .ethg, .si, .ten, .out]
  | .regRead .. =>
    [.counters, .eth, .kmp, .meters, .ethg, .si, .ten, .sels, .out]
  | .qpConnect .. =>
    Field.answers ++ [.kmp, .meters, .ethg, .si, .freeCtr]
  | .eventAck .. =>
    [.counters, .eth, .kmp, .meters, .si]
  | .eventRetransmit .. =>
    [.eth, .kmp, .out]
  | .end_ .. =>
    [.clk, .trig, .counters, .mbx, .eth, .kmp, .meters, .ethg, .si, .fw, .ten, .out]
  | .sessionTimeout .. =>
    [.clk, .trig, .mbx, .kmp, .si, .fw]
  | .ptpMessage .. =>
    [.clk, .zlg, .eth, .ethg, .out]
  | .queueSubmit .. | .cqRelease .. =>
    Field.answers ++ [.meters, .freeCtr]
  | .read .. | .atomic .. =>
    Field.answers ++ Field.stores ++ Field.orders ++ [.nextAccess, .queHubs]
  | .write .. =>
    Field.answers ++ [.accesses, .nextAccess, .queHubs]
  | .nop .. | .jstatus .. =>
    Field.answers ++ [.queHubs]
  | .completionWrite .. =>
    Field.answers
  | .yellowPromotion .. =>
    [.queues]
  | .loadMeasure .. =>
    [.queHubs]
  | .mdesc .. | .descriptorComplete .. | .streamRetry .. | .yield .. | .halt .. | .trap .. | .walk .. | .holdLimit .. =>
    Field.answers ++ Field.stores ++ Field.runs ++ [.dir, .lines, .retry, .atom, .cohHubs, .coh, .accesses, .nextAccess,
      .jobg, .freeCtr]
  | .wload .. | .mma .. | .wait .. | .fence .. | .gwait .. =>
    Field.traces ++ [.counters, .lcs, .freeCtr]
  | .wloadComplete .. | .mmaComplete .. | .vld .. | .vst .. | .signal .. | .sld .. | .sst .. | .tld .. | .tst .. =>
    [.counters, .lcs, .clus, .freeCtr]
  | .fadd .. | .fsub .. | .fmul .. | .fmin .. | .fmax .. | .fclt .. | .fceq .. | .iadd .. | .isub .. | .imul .. |
  .vectorAnd .. | .vectorOr .. | .vectorXor .. | .sel .. | .bcast .. | .exp .. | .log .. | .recip .. | .rsqrt .. |
  .gelu .. | .silu .. | .vmov .. | .viota .. | .rsum .. | .rsuma .. | .rmax .. | .rmaxa .. | .rmin .. | .rmina .. |
  .topki .. | .topk .. | .cvtif .. | .cvtfi .. | .add .. | .sub .. | .mul .. | .and .. | .or .. | .xor .. | .shl .. |
  .shr .. | .sar .. | .slt .. | .sltu .. | .li .. | .lih .. | .amov .. | .aadd .. | .aget .. | .br .. | .beq .. |
  .bne .. | .blt .. | .bltu .. | .loop .. | .sysr .. | .tadd .. =>
    [.counters, .lcs, .freeCtr]
  | .vectorResultWritten .. =>
    [.lcs, .clus, .freeCtr]
  | .barrierOpen .. | .combine .. | .launch .. =>
    Field.answers ++ Field.stores ++ Field.orders ++ Field.runs ++ [.nextAccess, .slg, .jobg]
  | .superstepAdmission .. =>
    Field.answers ++ Field.stores ++ Field.runs ++ [.dir, .lines, .retry, .atom, .cohHubs, .coh, .accesses, .nextAccess,
      .slg, .jobg]
  | .token .. | .close .. | .gather .. | .select .. =>
    Field.answers ++ Field.stores ++ Field.orders ++ Field.runs ++ [.nextAccess, .slg, .jobg, .si, .freeCtr]
  | .gatherDone .. =>
    Field.answers ++ Field.stores ++ Field.orders ++ [.nextAccess, .slg, .freeCtr]
  | .jload .. =>
    Field.answers ++ Field.stores ++ Field.orders ++ [.nextAccess, .queHubs, .jobg]
  | .jloadDone .. =>
    Field.answers ++ Field.stores ++ Field.orders ++ [.nextAccess, .lcs, .jobs, .trn, .jobg]
  | .jlaunch .. =>
    Field.answers ++ Field.stores ++ Field.orders ++ [.nextAccess, .queHubs, .jobs, .jobg]
  | .jwait .. =>
    Field.answers ++ [.queHubs, .jobs]
  | .jcheckpoint .. =>
    Field.answers ++ Field.stores ++ Field.orders ++ [.nextAccess, .queHubs, .lcs, .jobs]
  | .jcontinue .. =>
    Field.answers ++ [.queHubs, .lcs, .jobs]
  | .jabort .. =>
    Field.answers ++ Field.stores ++ Field.runs ++ [.dir, .lines, .retry, .atom, .cohHubs, .coh, .accesses, .nextAccess,
      .queHubs, .jobg]
  | .junload .. =>
    Field.answers ++ Field.stores ++ Field.orders ++ [.nextAccess, .queHubs, .jobs, .trn, .shoot]
  | .superstepWatchdog .. | .pstop .. | .pairsPeerLost =>
    Field.answers ++ Field.stores ++ Field.runs ++ [.dir, .lines, .retry, .atom, .cohHubs, .coh, .accesses, .nextAccess,
      .jobg]
  | .timeSliceSave .. =>
    [.lcs, .clus, .pwrHubs]
  | .timeSliceRestore .. =>
    [.lcs, .clus]
  | .phello .. =>
    Field.answers ++ [.accesses, .jobs, .jobg]
  | .phelloTimeout .. =>
    Field.answers ++ [.accesses, .jobs]
  | .pdigest .. =>
    Field.answers ++ Field.stores ++ Field.orders ++ Field.runs ++ [.nextAccess, .jobg]
  | .recordResolve .. =>
    [.lcs, .trn]
  | .shootdown .. =>
    [.trn, .shoot]
  | .shootdownComplete =>
    Field.answers ++ [.lcs, .jobs, .gates, .trn, .shoot]
  | .refresh .. =>
    [.counters, .chans]
  | .mr4Poll .. | .stackSensorPoll .. =>
    [.chans, .integ, .pwrHubs, .pwr]
  | .liveRetrain =>
    [.chans, .integ]
  | .retrainComplete .. =>
    Field.answers ++ [.sys, .hubs, .slots, .carver, .lines, .heldMsgs, .accesses, .bulkRx, .mem, .lineMeta, .units,
      .chans, .integ, .kmp, .ethg, .slg, .si]
  | .memRetrainCmd .. | .srExit .. | .rawWrite .. =>
    [.counters, .slots, .mem, .lineMeta, .units, .chans, .integ]
  | .srEnter .. | .srIdle .. =>
    [.slots, .chans]
  | .migrationComplete .. =>
    [.slots, .mem, .lineMeta, .chans, .memHubs, .integ]
  | .liftStart .. =>
    [.slots, .extents, .lift]
  | .liftCancel .. =>
    Field.answers ++ Field.stores ++ Field.orders ++ Field.runs ++ [.extents, .heldMsgs, .nextAccess, .slg, .jobg, .si,
      .freeCtr]
  | .liftBegin =>
    [.lift]
  | .liftCopyDone .. =>
    Field.answers ++ Field.stores ++ Field.orders ++ [.jobs, .trn, .shoot]
  | .liftSwitchPoint .. =>
    Field.answers ++ Field.stores ++ Field.orders ++ Field.runs ++ [.extents, .maps, .heldMsgs, .nextAccess, .slg, .jobg,
      .si, .freeCtr]
  | .patrolRead .. =>
    [.counters, .slots, .mem, .lineMeta, .ranks, .chans, .memHubs, .integ]
  | .rowRepair .. =>
    [.slots, .mem, .lineMeta, .ranks, .chans, .memHubs, .integ]
  | .logAck | .pageRelease .. =>
    [.integ]
  | .pageRetire .. =>
    [.mem, .lineMeta, .memHubs, .integ, .jobs, .trn, .shoot]
  | .rawRead .. =>
    [.counters, .slots, .mem, .lineMeta, .units, .chans, .integ, .freeCtr]
  | .switchOver .. | .sensorRead .. =>
    Field.answers ++ [.sys, .hubs, .carver, .lines, .heldMsgs, .accesses, .bulkRx, .kmp, .ethg, .slg, .si, .pwrHubs, .pwr]
  | .aSetReturn .. | .thermalCapAdjust .. | .firstUseEnd .. | .ledgerWindow .. | .snowploughClimb .. =>
    [.pwrHubs]
  | .holdB | .overCurrent .. | .snowploughEscalate .. | .snowploughTest =>
    [.pwrHubs, .pwr]
  | .releaseHold | .standbyFeedFault .. =>
    [.pwr]
  | .snowploughRelease .. =>
    [.counters, .pwrHubs, .pwr]
  | .deepSleep =>
    Field.sends ++ [.sys, .zlg, .slots, .chans, .eth, .ethg, .pwr]
  | .wake .. | .wakeCommand .. =>
    [.sys, .counters, .zlg, .slots, .mem, .lineMeta, .units, .chans, .integ, .pwrHubs]
  | .sleepTick =>
    [.clk]
  | .sleepFeedLoss .. =>
    [.sys, .mem, .lineMeta, .units, .pwr]
  | .enrol .. | .revoke .. =>
    [.clk, .trig, .mbx, .kmp, .si, .fw, .ten]
  | .openEpoch .. =>
    [.memKey, .queues, .si, .ten]
  | .endEpoch .. =>
    Field.answers ++ Field.stores ++ Field.orders ++ Field.runs ++ [.maps, .nextAccess, .shoot, .jobg]
  | .resurfacingComplete .. =>
    Field.traces ++ [.counters, .cntGroups, .slots, .accesses, .mem, .lineMeta, .units, .chans, .memHubs, .integ, .queues,
      .queHubs, .meters, .clus, .slg, .ten, .pwrHubs]
  | .getVersion .. | .getCapabilities .. | .negotiateAlgorithms .. | .getDigests .. | .getCertificate .. |
  .heartbeat .. | .keyUpdate .. | .chunkSend .. | .chunkGet .. | .getEncapsulatedRequest .. |
  .deliverEncapsulatedResponse .. | .unsupportedSpdmRequest .. =>
    Field.sends ++ [.eth, .kmp, .meters, .ethg, .si]
  | .challenge .. | .getMeasurements .. | .keyExchange .. =>
    Field.sends ++ [.eth, .kmp, .meters, .ethg, .si, .freeCtr]
  | .finish .. =>
    Field.sends ++ [.mbx, .eth, .kmp, .meters, .ethg, .si, .sels, .freeCtr]
  | .endSession .. =>
    Field.sends ++ [.clk, .mbx, .eth, .kmp, .meters, .ethg, .si, .fw]
  | .spdmFragment .. =>
    [.ten]
  | .fwOpen .. | .verify .. | .start .. | .yieldWaitExpired | .spRestart | .spRunning | .fwRestartTimeout |
  .confirmationComplete | .abort .. | .rollback .. | .verifyComplete .. =>
    [.fw]
  | .hubControllerRestart | .hubControllerRunning =>
    [.hubs, .fw]
  | .mbxComplete .. =>
    [.clk, .mbx, .sels, .freeCtr]
  | .entdaa .. =>
    [.i3c, .out]
  | .idcode | .samplePreload .. | .extest .. | .csrAddr .. | .bypass .. | .jtagReset =>
    [.jtag]
  | .csrWrite .. =>
    Field.allBut [.pending, .fuses]
  | .csrRead .. =>
    [.jtag, .freeCtr]
  | .syncFrame .. =>
    [.sys, .clk, .zlg]
  | .syncInMissing =>
    [.sys, .zlg]
  | .fire .. | .kmpTargetSet .. =>
    [.trig]
  | .rearm .. =>
    [.traceUnits, .trig]
  | .postWindowEnd =>
    Field.traces
  | .traceSend =>
    [.traceHubs, .trig, .eth, .kmp, .ten, .out]
  | .exportTailAdvance .. =>
    [.traceHubs, .trig]
  | .counterReset .. =>
    [.counters, .cntGroups, .pwrHubs]
  | .fillComplete .. =>
    Field.answers ++ [.slots, .extents, .maps, .drains, .carver, .dir, .retry, .atom, .mem, .lineMeta, .units, .chans,
      .integ, .kmp, .ethg, .jobs, .trn, .shoot]
  | .checkpointComplete .. =>
    Field.answers ++ Field.stores ++ Field.orders ++ [.nextAccess, .lcs, .jobs]
  | .sdsRefclkReturn .. =>
    [.hubs]
  | .wakeComplete =>
    Field.sends ++ [.sys, .zlg]
  | .discardedFrame .. =>
    [.eth]

/-! ### Resets and start-up (R781, R789–R794) -/

/-- What fuses, flash and the other non-volatile storage hold is the same (R789). -/
def KeptOverReset (s t : State) : Prop :=
  t.fuses = s.fuses ∧ t.fw.svn = s.fw.svn ∧ t.si.maxSerial = s.si.maxSerial ∧ t.si.cur = s.si.cur ∧ t.si.prev = s.si.prev ∧
    t.ten.epoch = s.ten.epoch ∧ t.ten.slots = s.ten.slots ∧ t.ten.record = s.ten.record ∧ t.integ.rlog = s.integ.rlog ∧
    t.integ.retired = s.integ.retired

/-- Nothing is carved, mapped, loaded, queued or in force; memory holds nothing; no key remains (R681, R683, R789, R790). -/
def Cleared (t : State) : Prop :=
  t.sys.phase = .inReset ∧ t.fatal = false ∧ t.mem = [] ∧ t.extents = [] ∧ t.maps = [] ∧ t.dir = [] ∧ t.jobs = [] ∧ t.queues = [] ∧
    t.kmp = [] ∧ t.eff = [] ∧ t.memKey = 0 ∧ t.ten.state = .dirty ∧ t.ten.tenantKey = none ∧ t.ten.links = []

/-- Start-up stands halted at a step, for a hub and a unit of it (R794). -/
def HaltedAt (t : State) (step : BitVec 4) (hub : Fin 8) (unit : BitVec 6) : Prop :=
  t.sys.phase = .halted ∧ t.sys.step = step ∧ t.sys.haltHub = BitVec.ofNat 3 hub.val ∧ t.sys.haltUnit = unit

/-- A partial reset of hub `h` has begun: its controller is stopped, its queues, engines, trace rings and counters are at reset, its
clusters are stopped, its channels keep their contents in self-refresh, and a reset of H0 has ended every KMP session (R796–R798). -/
structure HubInReset (h : Nat) (t : State) : Prop where
  phase : (t.hub h).phase = .reset
  controller : (t.hub h).hcRunning = false
  going : t.sys.hrGo = true
  last : t.sys.hrLastHub = BitVec.ofNat 3 h
  queueEngine : t.queHubs.get? h = none
  rings : ∀ q, q / 2048 = h → (t.queues.getD q {}).ring = []
  slalom : t.slg.get? h = none
  clusters : ∀ c, c < 14 → t.clus.get? (h * 16 + c) = some { stopped := true }
  channels : ∀ c, c < 34 → (t.chan h c).state = .selfRefresh ∨ (t.chan h c).state = .disabled ∨ (t.chan h c).state = .failed
  rows : ∀ k, k / 64 = h → t.traceUnits.get? k = none
  counters : ∀ k, k / 2 ^ 32 = h → t.counters.get? k = none
  sessions : h = 0 → ∀ k, t.session k = none

/-! ### When commands are served (the premises and answers the statements share) -/

/-- A KMP request reaches the session record `x` in slot `k`, and nothing but its own service answers it: it is protected under that
session and well formed, its sequence number is new, and the part serves requests (R326–R331, R339, R716, R809); `v` is the state
then, its frame metered and a management message noted. -/
structure KmpServed (s : State) (hdr : KmpHdr) (k : Nat) (x : KmpSession) (v : State) : Prop where
  arrives : ((s.kmpArrive hdr).1.map (fun u => u.noteMgmt x)) = some v
  slot : v.sessionOf hdr.sessionId = some k
  session : v.session k = some x
  opens : x.opens hdr = true
  port : x.port = hdr.port
  header : kmpHdrOk hdr = true
  notStored : x.stored.find? (fun e => e.1 == hdr.msgSeq) = none
  fresh : x.fresh hdr.msgSeq = true
  notFatal : v.fatal = false
  notHalted : v.sys.phase ≠ .halted
  notQuiesced : v.ethQuiesced hdr.port = false
  known : kmpKnown hdr.type = true
  notRestarting : v.spRestarting = false

/-- The service of a request of the session in slot `k`, whose record was `x` as it came, has left `v` and gives response `r`: the
message is formed under the session's key, the number counts as used and the message is stored, unless the response is busy, and the
message goes out (R327, R328, R331). -/
def State.replied (v : State) (k : Nat) (x : KmpSession) (hdr : KmpHdr) (type : BitVec 8) (r : KmpResp) : State :=
  let f := v.kmpForm (some (k, x.key)) hdr.sessionId type hdr.msgSeq (.resp r)
  (if r.status = 1 then f.2 else f.2.modSession k (fun y => (y.accept hdr).store hdr.msgSeq f.1)).kmpPut hdr f.1

/-- The request counts as used; its response follows later (R331). -/
def State.unreplied (v : State) (k : Nat) (hdr : KmpHdr) : State := v.modSession k (fun x => x.accept hdr)


/-- The KMP rows that carve, with the opcode each gives its command (R122). -/
def carveRows (hdr : KmpHdr) (cmd : CarveCmd) : List (BitVec 8 × Instr) :=
  [(1, .carve hdr cmd), (2, .grant hdr cmd), (3, .rights hdr cmd), (4, .withdraw hdr cmd), (5, .free hdr cmd), (6, .query hdr cmd)]

/-- A carving command is served now: its body has the 32 bytes of a command, the session may carve, and no fill is under way
(R121, R678). -/
def CarveServed (s : State) (hdr : KmpHdr) (cmd : CarveCmd) (k : Nat) (x : KmpSession) (v : State) : Prop :=
  KmpServed s hdr k x v ∧ hdr.bodyLen = 32 ∧ v.mayCarve x = true ∧ v.carver.filling = none ∧ carveReserved cmd.opcode = false

/-- The coherent requests that a meter may refuse, with their messages (R168). -/
def requestRows (h : BitVec 10) (tag : BitVec 12) (addr : BitVec 46) (at_ : Bool) (d : Line) (m : Medium) : List (CohMsg × Instr) :=
  [({ op := .rdS, tag := tag, addr := addr }, .rds h tag addr m), ({ op := .rdX, tag := tag, addr := addr, atomic := at_ }, .rdx h tag addr at_ m),
   ({ op := .upg, tag := tag, addr := addr, atomic := at_ }, .upg h tag addr at_ m), ({ op := .rdNc, tag := tag, addr := addr }, .rdnc h tag addr m),
   ({ op := .wrFull, tag := tag, addr := addr, data := some d }, .wrfull h tag addr d m)]

/-- A coherent request, message `m` of host `h`, passes its meter, and is not held: `u` is the state then (R111, R119, R368–R370, R92). -/
def RequestTaken (s : State) (h : BitVec 10) (m : CohMsg) (u : State) : Prop :=
  s.hears h = true ∧ s.fatal = false ∧ s.throttles h.toNat = false ∧ (s.meterArrive h.toNat 64).2 = u ∧
    (s.meterArrive h.toNat 64).1 ≠ .red ∧ u.heldRequest h m = false

/-- The answers to snoops that a host sends with the home's tag (R160, R162, R170, R171, R810). -/
def answerRows (h : BitVec 10) (htag : BitVec 13) (st : Moesi) (p : Bool) (d : Line) (m : Medium) : List (CohMsg × Instr) :=
  [({ op := .ack, htag := htag, state := st }, .ackAnswer h htag st m), ({ op := .snpRspI, htag := htag }, .snprspi h htag m),
   ({ op := .snpRspWb, htag := htag, state := st, poison := p, data := some d }, .snprspwb h htag st p d m)]

/-- The host is declared dead: `u` holds its declaration, its flows, its bulk writes and what it owned of the fabric are gone, and
what each line's order holds for it is settled from there (R208–R211, R283, R373). -/
def DeclaredDead (s : State) (d : BitVec 10) (m : Medium) (t : State) : Prop :=
  ∃ u : State, (u.host d.toNat).dead = true ∧ (u.host d.toNat).allLost = false ∧ (u.host d.toNat).waiting = [] ∧
    (u.host d.toNat).reclaiming = s.presentHubs.filter s.inService ∧ u.flows = s.flows.keep (fun k => k / 8 != d.toNat) ∧
    u.bulkRx = s.bulkRx.keep (fun k => k / 4096 != d.toNat) ∧ u.ten = s.ten.dropLink d.toNat ∧ u.dir = s.dir ∧ u.mem = s.mem ∧
    t = ((u.lines.map (·.1)).foldl (fun s l => s.deadOnLine d m l) ((u.deadQueues d.toNat).deadSource d.toNat)).cohEnd m

/-- A sequenced cell has been accepted: the next one is expected, and an acknowledgement is owed (R233, R236). -/
def State.cellTaken (s : State) (p : Nat) (env : Envelope) : State :=
  (s.modPort p (fun q => { q with
    eseq := q.eseq + 1, nakPending := false, unacked := q.unacked + 1, ackDue := q.ackDue || env.ackreq })).bump (p / 4) 8 0x81 (p % 4) 1

/-- An acknowledgement goes out at once with the 128th accepted cell (R236). -/
def State.ackAt128 (s : State) (p : Nat) : State := if 128 ≤ (s.port p).unacked then s.sendAck p else s


/-- The engine of queue `q`'s hub issues the queue's head next, as candidate `c`: nothing keeps it from issuing, `c` is what it
chooses, the opcode is `op`, and a place is free where `op` takes one (R359–R366, R490). -/
def QueueTurn (s : State) (q op : Nat) (c : Cand) : Prop :=
  s.fatal = false ∧ (s.hub (q / 2048)).phase = .none ∧ (s.tagHeads (q / 2048)).choice (q / 2048) = some c ∧ c.queue = q ∧
    c.slot.entry.opcode.toNat = op ∧ (op ≠ 0x42 → (s.tagHeads (q / 2048)).engineBusy (q / 2048) < 256)

/-- The head of queue `q` has been issued as `c`. -/
def State.issuedFrom (s : State) (q : Nat) (c : Cand) : State := (s.tagHeads (q / 2048)).issuedHead q c

/-- Slot `slot` of the bundle at which logical cluster `i` of job `j` stands on H*h*.C*k* holds the operation `w`, whose turn it is
(R417, R436). -/
def SlotReady (s : State) (c : CluAt) (slot : Nat) (w : DWord) (j i : Nat) : Prop :=
  s.runner c.hub c.cluster = some (j, i) ∧ w ≠ 0 ∧ ((s.job j).bundle i (s.issuePc j i)).getD slot 0 = w ∧
    (s.lc j i).slots.getLsbD slot = false ∧
    ((before ((s.job j).bundle i (s.issuePc j i)) slot).filter (fun q => ((s.job j).bundle i (s.issuePc j i)).getD q 0 != 0)).all
      (fun q => (s.lc j i).slots.getLsbD q) = true

/-- The logical cluster has passed over the bundles of `NOP`s alone before the one it stands at (R417). -/
def State.atTurn (s : State) (c : CluAt) (j i : Nat) : State :=
  (s.modLc j i (fun x => { x with
    bundle := x.bundle + (s.issuePc j i - (s.lc j i).regs.pc.toNat),
    regs := { x.regs with pc := BitVec.ofNat 14 (s.issuePc j i) } })).bump c.hub (0x10 + c.cluster) 0x80 0
      (s.issuePc j i - (s.lc j i).regs.pc.toNat)

/-- An operation that began in `s` has left `v`; with the last slot of its bundle the bundle ends, at branch target `t` if there is
one (R417). -/
def State.issuedAs (s : State) (c : CluAt) (slot j i : Nat) (v : State) (t : Option (BitVec 14)) : State :=
  v.slotEnds c.hub c.cluster j i slot ((s.job j).bundle i (s.issuePc j i)) t

/-- The vector operations of two registers and 4 bundles: opcode, operation of a lane, instruction (R432). -/
def vec2Rows (c : CluAt) (vd va vb : Fin 32) (g : VSig) : List (Nat × (Word → Word → Word) × Instr) :=
  [(0x01, f32Add, .fadd c vd va vb g), (0x02, f32Sub, .fsub c vd va vb g), (0x03, f32Mul, .fmul c vd va vb g),
   (0x04, f32Min, .fmin c vd va vb g), (0x05, f32Max, .fmax c vd va vb g),
   (0x06, (fun a b => if f32Lt a b then 1 else 0), .fclt c vd va vb g), (0x07, (fun a b => if f32Eq a b then 1 else 0), .fceq c vd va vb g),
   (0x08, (fun a b => a + b), .iadd c vd va vb g), (0x09, (fun a b => a - b), .isub c vd va vb g),
   (0x0A, (fun a b => a * b), .imul c vd va vb g), (0x0B, (fun a b => a &&& b), .vectorAnd c vd va vb g),
   (0x0C, (fun a b => a ||| b), .vectorOr c vd va vb g), (0x0D, (fun a b => a ^^^ b), .vectorXor c vd va vb g)]

/-- The vector operations of one register: opcode, bundles, operation of a lane, instruction (R432). -/
def vec1Rows (c : CluAt) (vd va : Fin 32) (g : VSig) : List (Nat × Nat × (Word → Word) × Instr) :=
  [(0x10, 16, f32Exp, .exp c vd va g), (0x11, 16, f32Log, .log c vd va g), (0x12, 12, f32Recip, .recip c vd va g),
   (0x13, 12, f32Rsqrt, .rsqrt c vd va g), (0x14, 36, f32Gelu, .gelu c vd va g), (0x15, 36, f32Silu, .silu c vd va g),
   (0x16, 4, (fun a => a), .vmov c vd va g), (0x28, 6, cvtIf, .cvtif c vd va g), (0x29, 6, cvtFi, .cvtfi c vd va g)]

/-- The reductions of one register, with their accumulating forms: opcodes, operation, instructions (R397, R432). -/
def reduceRows (c : CluAt) (vd va vb : Fin 32) (g : VSig) : List (Nat × Nat × (Word → Word → Word) × Instr × Instr) :=
  [(0x18, 0x19, f32Add, .rsum c vd va g, .rsuma c vd va vb g), (0x1A, 0x1B, f32Max, .rmax c vd va g, .rmaxa c vd va vb g),
   (0x1C, 0x1D, f32Min, .rmin c vd va g, .rmina c vd va vb g)]

/-- The sequencer's operations of two scalars: opcode, bundles, operation, instruction (R435). -/
def ctlRows (c : CluAt) (d a b : Fin 64) : List (Nat × Nat × (DWord → DWord → DWord) × Instr) :=
  [(0x02, 1, (fun x y => x - y), .sub c d a b), (0x03, 3, (fun x y => x * y), .mul c d a b), (0x04, 1, (fun x y => x &&& y), .and c d a b),
   (0x05, 1, (fun x y => x ||| y), .or c d a b), (0x06, 1, (fun x y => x ^^^ y), .xor c d a b),
   (0x0A, 1, (fun x y => if x.toInt < y.toInt then 1 else 0), .slt c d a b),
   (0x0B, 1, (fun x y => if x.toNat < y.toNat then 1 else 0), .sltu c d a b)]

/-- The shifts: opcode, operation, instruction (R435). -/
def shiftRows (c : CluAt) (d a b : Fin 64) (imm : Word) : List (Nat × (DWord → Nat → DWord) × Instr) :=
  [(0x07, (fun x n => x <<< n), .shl c d a b imm), (0x08, (fun x n => x >>> n), .shr c d a b imm),
   (0x09, (fun x n => x.sshiftRight n), .sar c d a b imm)]

/-- The branches on a comparison: opcode, condition, instruction (R435). -/
def branchRows (c : CluAt) (a b : Fin 64) (t : BitVec 14) : List (Nat × (DWord → DWord → Bool) × Instr) :=
  [(0x21, (fun x y => x == y), .beq c a b t), (0x22, (fun x y => x != y), .bne c a b t),
   (0x23, (fun x y => decide (x.toInt < y.toInt)), .blt c a b t), (0x24, (fun x y => decide (x.toNat < y.toNat)), .bltu c a b t)]

/-- The head of queue `q` issues next, with opcode `op`, and names the resident job `j`; `u` is the state once it is issued (R489,
R490). -/
def JobTurn (s : State) (q op : Nat) (c : Cand) (j : Nat) (u : State) : Prop :=
  QueueTurn s q op c ∧ u = s.issuedFrom q c ∧ u.jobOf c.slot.entry = some j

/-- The rows of the job commands that name a job, with their opcodes (R489). -/
def jobRows (q : BitVec 14) (l : List Medium) : List (Nat × Instr) :=
  [(0x41, .jlaunch q l), (0x42, .jwait q), (0x43, .jstatus q), (0x44, .jcheckpoint q l), (0x45, .jcontinue q), (0x46, .jabort q),
   (0x47, .junload q l)]

/-- A job command has been served, leaving `v`: heads of the hub's queues take their tags (R363). -/
def State.servedOn (v : State) (q : Nat) : State := v.tagHeads (q / 2048)

/-- Everything that holds up the barrier of job `j` is past: it runs, every logical cluster has arrived, the step's rows are combined
and written (R437, R475). -/
def BarrierReady (s : State) (j : Nat) : Prop :=
  (s.job j).state = .running ∧ s.fatal = false ∧ (s.job j).comparing = none ∧ s.allArrived j = true ∧
    ((s.job j).gates.seen = true → (s.job j).gates.combined = true) ∧ ∀ a ∈ (s.job j).gates.writes, s.accStatus a = .ok

/-- The waits of the clusters at the barrier end. -/
def State.barrierOver (s : State) (j : Nat) : State :=
  (s.job j).lcs.foldl (fun u i => match (u.lc j i).place with
    | some (h, k) => u.lcGoes h k (BitVec.ofNat 16 (s.job j).lastArrived)
    | none => u) s

/-- An SPDM request reaches its service in state `v`, in the session of a slot (`ses`, with its record) or outside one: over KMP, as a whole message of
fabric host fragments, or from a pairs peer (R326–R331, R676, R690, R694, R716, R809). -/
def SpdmServed (s : State) (c : SpdmCarrier) (ses : Option (Nat × KmpSession)) (v : State) : Prop :=
  match c with
  | .kmp hdr =>
    (∃ k x, ses = some (k, x) ∧ hdr.sessionId ≠ 0 ∧ KmpServed s hdr k x v) ∨
    (ses = none ∧ hdr.sessionId = 0 ∧ (s.kmpArrive hdr).1 = some v ∧ kmpKnown hdr.type = true ∧ hdr.protected_ = false ∧ kmpHdrOk hdr = true ∧ v.fatal = false ∧
      v.ethQuiesced hdr.port = false ∧ v.spRestarting = false)
  | .zl h => ses = none ∧ ∃ f, s.ten.frags.get? h.toNat = some f ∧ f.whole = true ∧ s.hears h = true ∧ s.fatal = false ∧
      s.spDown = false ∧ v = s.dropFrags h
  | .peer d _ => ses = none ∧ s.fatal = false ∧ s.pairPorts ≠ [] ∧ d ≠ s.zlg.devNum ∧ s.spDown = false ∧ v = s

/-- The service has left `v` and gives answer `a`, which goes back by the way the request came (R328, R331, R676, R690). -/
def State.spdmAnswered (v : State) (c : SpdmCarrier) (ses : Option (Nat × KmpSession)) (a : SpdmAnswer) : State :=
  match c with
  | .kmp hdr => match ses with
    | some (k, x) => v.replied k x hdr 2 a.kmp
    | none => v.kmpSend none hdr 2 a.kmp
  | .zl h => match a with
    | .resp r => v.spdmToHost h r
    | .status _ => v.spdmToHost h (.error .busy)
  | .peer d _ => match a with
    | .resp r => v.peerSend d r
    | .status _ => v.peerSend d (.error .busy)

/-- The requester has negotiated, or has a session (R676). -/
def State.spdmReady (s : State) (c : SpdmCarrier) (ses : Option (Nat × KmpSession)) : Prop :=
  (s.spdmSt (spdmFrom c)).level = 3 ∨ s.spdmSecure (spdmFrom c) (ses.map (·.1)) = true

/-- The codes of the reasons for refusing a carving command, in the order in which they are reported (R808). -/
def carveOrder : List Nat := [0x0D, 0x02, 0x03, 0x09, 0x0C, 0x06, 0x0A, 0x08, 0x07, 0x0B, 0x04, 0x05]

/-- The reason with code `n` applies to the carving command `c` (R112, R117, R122–R126, R133, R142, R682). -/
def CarveReason (s : State) (c : CarveCmd) (n : Nat) : Prop :=
  (n = 0x0D ∧ (carveShapeOk c = false ∨ s.carveHubOk c = false)) ∨
  (n = 0x02 ∧ s.si.refusedClasses.getLsbD (s.carveClass c) = true ∧
    (c.opcode = 1 ∨ (c.opcode ≠ 6 ∧ (s.extents.get? c.extent.toNat).isSome = true))) ∨
  (n = 0x03 ∧ c.opcode = 1 ∧ (16 ≤ c.cls.toNat ∨ s.classValid c.cls.toNat = false)) ∨
  (n = 0x09 ∧ ((c.opcode = 3 ∨ c.opcode = 4) ∧ s.entryFor c.host.toNat c.extent.toNat = none ∨
    (c.opcode = 2 ∨ c.opcode = 5) ∧ s.extents.get? c.extent.toNat = none)) ∨
  (n = 0x0C ∧ ((c.opcode = 1 ∨ c.opcode = 2) ∧ s.testOnly (s.carveClass c) = true ∧ s.epochOpen = true ∨
    c.opcode = 2 ∧ s.testOnly (s.carveClass c) = false ∧ s.ten.state ≠ .open_)) ∨
  (n = 0x06 ∧ (c.opcode = 2 ∨ c.opcode = 3) ∧ (rightsLegal c.rights = false ∨
    Nat.land c.rights.toNat (s.classRights (s.carveClass c)) ≠ c.rights.toNat)) ∨
  (n = 0x0A ∧ ((c.opcode = 2 ∨ c.opcode = 3 ∨ c.opcode = 4) ∧
      (∃ m, s.entryFor c.host.toNat c.extent.toNat = some m ∧ m.mark ≠ .none) ∨
    c.opcode = 5 ∧ (s.members c.extent.toNat ≠ [] ∨ s.jobNames c.extent.toNat = true ∨
      ∃ x ∈ s.lift.queue, x.src.toNat = c.extent.toNat))) ∨
  (n = 0x08 ∧ c.opcode = 2 ∧ (s.entryFor c.host.toNat c.extent.toNat).isSome = true) ∨
  (n = 0x07 ∧ c.opcode = 2 ∧ ((s.mapOf c.host.toNat).get? (c.poolBase.toNat / 2 ^ 28)).isSome = true) ∨
  (n = 0x0B ∧ c.opcode = 2 ∧ (65536 ≤ (s.mapOf c.host.toNat).length ∨ 131072 ≤ s.mapUse)) ∨
  (n = 0x04 ∧ c.opcode = 1 ∧ s.quota c.cls.toNat ≤ s.classCount c.cls.toNat) ∨
  (n = 0x05 ∧ c.opcode = 1 ∧ s.chooseExtent c.cls.toNat c.hubGiven c.hub.toNat = none)

/-- The pairs of a `REG_WRITE` are performed in order, up to the first that is refused (R332): results and state afterwards. -/
inductive PairsDone (p : Path) (e : WriteEnv) : State → List (Word × Word) → List (BitVec 8) → State → Prop where
  | done (s : State) : PairsDone p e s [] [] s
  | refused (s u : State) (a w : Word) (r : BitVec 8) (l : List (Word × Word)) :
    s.csrWrite p a w e = (r, u) → refusedPair r = true → PairsDone p e s ((a, w) :: l) (r :: List.replicate l.length 7) u
  | performed (s u t : State) (a w : Word) (r : BitVec 8) (l : List (Word × Word)) (rs : List (BitVec 8)) :
    s.csrWrite p a w e = (r, u) → refusedPair r = false → PairsDone p e u l rs t → PairsDone p e s ((a, w) :: l) (r :: rs) t

end Sys2Proof.Machine
end

