-- ==== Sys2Proof/WellFormed.lean ====
section
/-! DEFINITION. WellFormed.lean: the commands that the world outside can send: what the widths of the operands leave open but the
interfaces fix (the lengths of lists). The machine is total and does not consult it. -/
namespace Sys2Proof

/-- The JTAG instruction codes with an action of their own, other than `BYPASS` (R788). -/
def jtagCodes : List Byte := [0x01, 0x02, 0x03, 0x20, 0x21, 0x22]

/-- The header of a message of a KMP row: its body holds 1,408 bytes at most, and its `TYPE` is the row's, or one that names no message
(R327, R328). -/
def KmpHdr.wellFormed (h : KmpHdr) (type : Byte) : Bool :=
  decide (h.body.length ≤ 1408) && (h.type == type || h.type == 0 || decide (0x0C ≤ h.type.toNat))

/-- The carrier of an SPDM request. -/
def SpdmCarrier.wellFormed : SpdmCarrier → Bool
  | .kmp h => h.wellFormed 2
  | .zl _ | .peer _ _ => true

/-- A command is well formed. -/
def Instr.wellFormed : Instr → Bool
  | .laneErrorInterval _ corrected => corrected.length == 8                     -- one count for each lane (R234)
  | .pfcFrame _ _ _ quanta => quanta.length == 8                                  -- one quantum for each class (R310)
  | .sensorRead _ temps => temps.length == 24                                   -- the junction sensors of a hub (R642)
  | .transfer h _ _ _ _ data _ => h.wellFormed 5 && decide (data.length ≤ 1392) -- a KMP body holds 1,408 bytes (R327)
  | .regWrite h pairs _ => h.wellFormed 4 && decide (pairs.length ≤ 176)
  | .regRead h _ _ => h.wellFormed 3
  | .carve h _ | .grant h _ | .rights h _ | .withdraw h _ | .free h _ | .query h _ => h.wellFormed 6
  | .qpConnect h _ _ => h.wellFormed 7
  | .discover h => h.wellFormed 1
  | .eventAck h => h.wellFormed 8
  | .kmpKeepalive h => h.wellFormed 0x0A
  | .end_ h => h.wellFormed 0x0B
  | .getVersion c | .getCapabilities c | .getDigests c | .heartbeat c | .keyUpdate c | .endSession c | .getEncapsulatedRequest c
  | .unsupportedSpdmRequest c => c.wellFormed
  | .negotiateAlgorithms c _ | .challenge c _ _ | .finish c _ _ | .keyExchange c _ _ | .chunkGet c _ _ => c.wellFormed
  | .getCertificate c _ _ _ | .getMeasurements c _ _ _ | .deliverEncapsulatedResponse c _ _ _ => c.wellFormed
  | .chunkSend c .. => c.wellFormed
  | .send _ _ data => decide (data.length ≤ 4096)                               -- at most the path MTU (R313)
  | .rdmaReadResponse _ data _ => decide (data.length ≤ 4096)
  | .bulkWriteData _ _ _ _ _ data _ => decide (data.length ≤ 256)               -- at most 8 data cells of a packet (R259)
  | .token _ _ _ _ _ _ _ _ data => decide (data.length ≤ 256)
  | .gather _ _ _ _ _ _ _ _ _ data _ => decide (data.length ≤ 256)
  | .select _ _ _ _ _ _ _ _ data _ => decide (data.length ≤ 256)
  | .spdmFragment _ _ _ _ data => decide (data.length ≤ 256)
  | .seal_ _ _ _ _ tags => decide (1 ≤ tags.length ∧ tags.length ≤ 16)           -- R691
  | .pdigest _ _ _ digests _ => decide (1 ≤ digests.length ∧ digests.length ≤ 32)
  | .bypass code => !jtagCodes.contains code
  | _ => true

end Sys2Proof
end

