-- ==== Sys2Proof/Certificates/Slice0/Obligations.lean ====
section
/-! DEFINITION. Obligations.lean: the statements about the model. -/
open Sys2Proof Sys2Proof.Machine

/-! ### The block as a whole -/

/-- A step with a command waiting is that command's effect on the state with the rest of the queue. -/
def Obligations.StepRunsTheFrontCommand : Prop :=
  ∀ (c : Instr) (r : List Instr) (s : State), step { s with pending := c :: r } = exec c { s with pending := r }

/-- The model's choice for an empty queue (notes/assumptions/1.md, notes/assumptions/82.md): a step is one housekeeping cycle of 10 ns
(from R784), which moves the clocks, what follows them, and what the engines of jobs do in time; in deep sleep and without power
nothing moves. -/
def Obligations.AnEmptyQueueLetsTimePass : Prop :=
  ∀ s : State, s.pending = [] → ∃ t, step s = .next t ∧
    (s.jobs = [] ∨ s.fatal = true → OnlyChanges [.clk, .i3c, .zlg, .integ, .eth, .ethg, .out] s t) ∧
    OnlyChanges (Field.answers ++ Field.stores ++ Field.orders ++
      [.clk, .i3c, .zlg, .nextAccess, .ethg, .lcs, .clus, .jobs, .gates, .freeCtr]) s t ∧
    (s.sys.phase = .unpowered ∨ s.sys.phase = .sleeping → t = s) ∧
    (s.sys.phase ≠ .unpowered → s.sys.phase ≠ .sleeping → t.clk.now = s.clk.now + 10 ∧ t.clk.poolTime = s.clk.cycle.poolTime)

/-- The state after reset: a part just powered, with `RESET_N` low; nothing waits, nothing is stored, and every port has drawn a
training ID (from R242, R781, R789). -/
def Obligations.ResetLeavesThePartInReset : Prop :=
  State.reset.pending = [] ∧ State.reset.memOk ∧ Cleared State.reset ∧ State.reset.sys.resetLow = true ∧
    State.reset.clk.poolTime = 0 ∧ State.reset.si.state = .idle ∧ State.reset.out = [] ∧
    ∀ p : Fin 32, (State.reset.port p).trainId = BitVec.ofNat 32 (Config.free .trainId p) ∧ (State.reset.port p).state = .disabled

/-- No command stops, in whatever state and with whatever operands: each answers a next state; no step stops, and a step takes exactly
the front command off the queue. -/
def Obligations.EveryStepAnswers : Prop :=
  (∀ (c : Instr) (s : State), ∃ t, exec c s = .next t) ∧
  (∀ s : State, ∃ t, step s = .next t ∧ t.pending = s.pending.tail)

/-- Every step keeps the canonical form of memory: addresses rise, and nothing is listed that an unlisted address reads as. -/
def Obligations.EveryStepKeepsMemoryCanonical : Prop :=
  ∀ s t : State, s.memOk → step s = .next t → t.memOk

/-- The frame of every command: nothing but the fields of its row in `writesOf` differs. -/
def Obligations.EveryCommandWritesOnlyItsFields : Prop :=
  ∀ (c : Instr) (s t : State), exec c s = .next t → OnlyChanges (writesOf c) s t

/-- What never goes back, whatever step is taken: the fuses stay, and the minimum security version (R705), the largest committed
serial (R69), the epoch number and the model's clock never fall; a commit raises the serial to its image's (R69). -/
def Obligations.MonotonicCountersNeverFall : Prop :=
  (∀ s t : State, step s = .next t → t.fuses = s.fuses ∧ s.fw.svn.toNat ≤ t.fw.svn.toNat ∧
    s.si.maxSerial.toNat ≤ t.si.maxSerial.toNat ∧ s.ten.epoch.toNat ≤ t.ten.epoch.toNat ∧ s.clk.now ≤ t.clk.now) ∧
  (∀ (l : SMap (List (List LaneSweep))) (m : Medium) (b : StageBuf) (s : State), s.fatal = false → s.si.state = .quiescing → s.si.stage = some b →
    s.quiesced s.si.hold (s.effective (stagedImage b).sections) = true → s.check9 (s.effective (stagedImage b).sections) = true →
    s.check10 (stagedImage b) = true →
    ∃ t, exec (.commitPoint l m) s = .next t ∧ t.si.maxSerial.toNat = max s.si.maxSerial.toNat (stagedImage b).serial.toNat) ∧
  (∀ (p : Path) (b : StageBuf) (s : State), s.siTakes p = true → s.mayCommit = true → s.si.stage = some b →
    ∃ t, exec (.commitOnReset p) s = .next t ∧ t.si.maxSerial.toNat = max s.si.maxSerial.toNat (stagedImage b).serial.toNat)

/-! ### Clocks, resets, start-up and deep sleep (R657–R661, R781–R807) -/

/-- `POWER_ON`, `PACKAGE_RESET` and `SYS_RESET` leave the part in reset with what storage keeps, and nothing else (from R781, R789,
R790, R802, R683). -/
def Obligations.ResetsKeepNonVolatileState : Prop :=
  (∀ (a b : Bool) (s : State), s.sys.phase = .unpowered ∨ (s.pwr.feedAOk = false ∧ s.pwr.feedBOk = false) → (a || b) = true →
    ∃ t, exec (.powerOn a b) s = .next t ∧ KeptOverReset s t ∧ Cleared t ∧ t.sys.resetLow = true ∧
      t.pwr.feedAOk = a ∧ t.pwr.feedBOk = b ∧ t.clk.poolTime = 0 ∧ t.clk.rtc = 0) ∧
  (∀ s : State, s.sys.phase ≠ .unpowered →
    ∃ t, exec .packageReset s = .next t ∧ KeptOverReset s t ∧ Cleared t ∧ t.sys.resetLow = true ∧
      t.sys.lastCause = 1 ∧ t.sys.afterFatal = s.fatal ∧ t.clk.poolTime = s.clk.poolTime ∧ t.clk.rtc = s.clk.rtc ∧
      t.integ.errLog = s.integ.errLog ∧ t.pwr.feedAOk = s.pwr.feedAOk ∧ t.pwr.feedBOk = s.pwr.feedBOk) ∧
  (∀ (p : Path) (s : State), s.maySys p = true → s.sys.phase ≠ .unpowered → s.sys.phase ≠ .inReset → s.sys.phase ≠ .sleeping →
    ∃ t, exec (.packageResetCmd p) s = .next t ∧ KeptOverReset s t ∧ Cleared t ∧ t.sys.lastCause = resetCause p)

/-- `START_UP` halts at the first step that fails, or comes to steps 8 and 9; `START_UP_END` ends them (from R792–R794). -/
def Obligations.StartUpHaltsOrRuns : Prop :=
  (∀ (f : StartUpFacts) (h : Fin 8) (s : State), s.mayStart = true → f.pllFail = some h ∨ (f.pllFail = none ∧ s.noRef = some h) →
    ∃ t, exec (.startUp f) s = .next t ∧ HaltedAt t 1 h 0) ∧
  (∀ (f : StartUpFacts) (s : State), s.mayStart = true → f.pllFail = none → s.noRef = none → f.spBank = false → f.spOther = false →
    ∃ t, exec (.startUp f) s = .next t ∧ HaltedAt t 2 0 0) ∧
  (∀ (f : StartUpFacts) (h : Fin 8) (s : State), s.mayStart = true → f.pllFail = none → s.noRef = none → (f.spBank || f.spOther) = true →
    f.hcFail = some h → ∃ t, exec (.startUp f) s = .next t ∧ HaltedAt t 3 h 0) ∧
  (∀ (f : StartUpFacts) (h : Fin 8) (b : BitVec 6) (s : State), s.mayStart = true → f.pllFail = none → s.noRef = none →
    (f.spBank || f.spOther) = true → f.hcFail = none → s.bridgeFail f = some (h, b) →
    ∃ t, exec (.startUp f) s = .next t ∧ HaltedAt t 4 h b) ∧
  (∀ (f : StartUpFacts) (h c : Nat) (s : State), s.mayStart = true → f.pllFail = none → s.noRef = none →
    (f.spBank || f.spOther) = true → f.hcFail = none → s.bridgeFail f = none → s.stackFail f = some (h, c) →
    ∃ t, exec (.startUp f) s = .next t ∧ HaltedAt t 5 (Fin.ofNat 8 h) (BitVec.ofNat 6 c)) ∧
  (∀ (f : StartUpFacts) (s : State), s.mayStart = true → f.pllFail = none → s.noRef = none → (f.spBank || f.spOther) = true →
    f.hcFail = none → s.bridgeFail f = none → s.stackFail f = none →
    ∃ t, exec (.startUp f) s = .next t ∧ t.sys.phase = .starting ∧ t.sys.step = 8 ∧ t.sys.filling = true) ∧
  (∀ s : State, s.sys.phase = .starting → s.sys.filling = true → s.fatal = false →
    ∃ t, exec .startUpEnd s = .next t ∧ t.sys.phase = .awake ∧ t.sys.done = true ∧ t.sys.filling = false ∧
      t.zlg.startup = false ∧ (s.si.awaiting = true → t.si.state = .health ∧ t.si.healthAt = some s.clk.now))

/-- The references and pool time: loss of a hub's 100 MHz reference loses the part, loss of its SerDes reference takes its links
down, loss of the 32.768 kHz clock is recorded (from R783); the `SYNC` pins and the beacon carry pool time (from R292, R293, R785,
R786). -/
def Obligations.ClocksKeepTime : Prop :=
  (∀ (h : Fin 8) (s : State), s.hubPresent h = true → s.sys.phase = .awake ∨ s.sys.phase = .starting ∨ s.sys.phase = .waking →
    ∃ t, exec (.refclkLoss h) s = .next t ∧ t.fatal = true ∧ (t.hub h).pllLock = false ∧ (t.hub h).refclkOk = false) ∧
  (∀ (h : Fin 8) (s : State), s.hubPresent h = true → s.sys.phase ≠ .awake → s.sys.phase ≠ .starting → s.sys.phase ≠ .waking →
    exec (.refclkLoss h) s = .next (s.modHub h (fun x => { x with refclkOk := false, pllLock := false }))) ∧
  (∀ (h : Fin 8) (s : State), s.hubPresent h = true →
    ∃ t, exec (.sdsRefclkLoss h) s = .next t ∧
      t = (s.modHub h (fun x => { x with sdsRefclkOk := false })).hubLinksDown h ∧ (t.hub h).sdsRefclkOk = false ∧
      (h.val < 2 → (t.ethPort (h.val == 1)).linkUp = false)) ∧
  (∀ (h : Fin 8) (s : State), s.hubPresent h = true →
    exec (.sdsRefclkReturn h) s = .next (s.modHub h (fun x => { x with sdsRefclkOk := true }))) ∧
  (∀ s : State, exec .clk32kLoss s = .next { s with sys := { s.sys with clk32kLost := true } }) ∧
  (∀ s : State, exec .clk32kReturn s = .next { s with sys := { s.sys with clk32kLost := false } }) ∧
  (∀ (time : BitVec 64) (s : State), s.sys.sync.inEn = true → s.running = true → s.sys.sync.good + 1 < 8 →
    s.sys.sync.locked = false → s.sys.sync.lastTime = some (time - 1000000) →
    s.sys.sync.lastEdge + 999900 ≤ s.clk.now → s.clk.now ≤ s.sys.sync.lastEdge + 1000100 →
    ∃ t, exec (.syncFrame (syncBits time)) s = .next t ∧ t.sys.sync.good = s.sys.sync.good + 1 ∧ t.sys.sync.misses = 0 ∧
      t.sys.sync.locked = false ∧ t.sys.sync.lastTime = some time) ∧
  (∀ (time : BitVec 64) (off : Int) (l : List OffsetSample) (s : State), s.sys.sync.inEn = true → s.running = true →
    off = ((time + s.sys.sync.delayNs.setWidth 64).toNat : Int) - s.clk.poolTime.toNat →
    l = (s.zlg.syncOffsets ++ [(⟨s.clk.now, off⟩ : OffsetSample)]).drop (s.zlg.syncOffsets.length + 1 - 8) → 7 ≤ s.sys.sync.good →
    s.sys.sync.lastTime = some (time - 1000000) →
    s.sys.sync.lastEdge + 999900 ≤ s.clk.now → s.clk.now ≤ s.sys.sync.lastEdge + 1000100 →
    ∃ u v w : State, exec (.syncFrame (syncBits time)) s = .next w ∧ u.sys.sync = { s.sys.sync with
        lastTime := some time, lastEdge := s.clk.now, good := 8, misses := 0, locked := true } ∧ u.clk = s.clk ∧
      v = ({ u with zlg := { s.zlg with syncOffsets := l } } : State).chooseSource ∧ w = (v.updateLock l 8).correct off
        v.launchWaits ∧ w.sys.sync = u.sys.sync) ∧
  (∀ s : State, s.sys.sync.inEn = true → s.running = true →
    ∃ t, exec .syncInMissing s = .next t ∧ t.sys.sync.good = 0 ∧ t.sys.sync.misses = s.sys.sync.misses + 1 ∧
      t.sys.sync.lastTime = none ∧ (1 ≤ s.sys.sync.misses → t.sys.sync.locked = false)) ∧
  (∀ s : State, s.sys.sync.outEn = true → s.zlg.stratum < 15 → s.running = true →
    exec .syncOutFrame s = .next { s with out := s.out ++ [.syncOut (syncBits s.syncEdge)] }) ∧
  (∀ (p : Fin 32) (env : Envelope) (tx echo : BitVec 64) (d : BitVec 32) (st : BitVec 4) (s : State), s.receiving p = true →
    env.reserved = false → env.seq = 0 →
    ∃ t, exec (.beacon p env tx echo d st) s = .next t ∧ (t.port p).peerTx = tx ∧ (t.port p).peerAt = s.clk.poolTime ∧
      (t.port p).peerStratum = st)

/-- A partial reset of a hub, from its command or its watchdog to its return (from R796, R797, R803). -/
def Obligations.PartialResetRuns : Prop :=
  (∀ (p : Path) (h : Fin 8) (m : Medium) (s : State), s.maySys p = true → s.fatal = false → s.partialBarred h = false →
    ∃ t, exec (.hubPartialReset p h m) s = .next t ∧ HubInReset h t ∧ t.sys.hrLastTrig = 1 ∧ t.jtag = s.jtag ∧ t.eff = s.eff ∧
      t.memKey = s.memKey ∧ t.maps = s.maps) ∧
  (∀ (p : Path) (h : Fin 8) (m : Medium) (s : State), s.maySys p = true → s.fatal = false → s.partialBarred h = true →
    exec (.hubPartialReset p h m) s = .next { s with sys := { s.sys with hrHub := BitVec.ofNat 3 h, hrResult := 2 } }) ∧
  (∀ (h : Fin 8) (m : Medium) (s : State), s.hubPresent h = true → (s.hub h).hcRunning = true → (s.hub h).phase = .none →
    s.fatal = false → s.sys.phase = .awake → s.sys.hrGo = false → s.sys.hrWaiting.contains h.val = false →
    ∃ t, exec (.hubWatchdog h m) s = .next t ∧ HubInReset h t ∧ t.sys.hrLastTrig = 2) ∧
  (∀ (h : Fin 8) (m : Medium) (s : State), s.hubPresent h = true → (s.hub h).hcRunning = true → (s.hub h).phase = .none →
    s.fatal = false → s.sys.phase = .awake → s.sys.hrGo = true → s.sys.hrWaiting.contains h.val = false →
    ∃ t, exec (.hubWatchdog h m) s = .next t ∧ t.sys.hrWaiting = s.sys.hrWaiting ++ [h.val] ∧ t.hubs = s.hubs) ∧
  (∀ (h : Fin 8) (r : SMap (List (List LaneSweep))) (s : State), (s.hub h).phase = .reset → s.fatal = false →
    ∃ t, exec (.partialResetRestart h r) s = .next t ∧ (t.hub h).phase = .restart ∧ (t.hub h).hcRunning = true) ∧
  (∀ (h : Fin 8) (m : Medium) (s : State), (s.hub h).phase = .restart → s.fatal = false → s.sys.hrWaiting = [] →
    ((List.range 34).any (fun c => (s.chan h c).state == .training)) = false →
    ∃ t, exec (.partialResetReturn h m) s = .next t ∧ (t.hub h).phase = .none ∧ t.sys.hrGo = false ∧ t.sys.hrResult = 1) ∧
  (∀ (h : Fin 8) (s : State), (s.hub h).phase ≠ .none → ∃ t, exec (.partialResetOverrun h) s = .next t ∧ t.fatal = true) ∧
  (∀ (gs : List BridgeGroup) (x : BridgeLog) (r : List BridgeLog) (s : State), s.bridgeErrors gs = x :: r → s.fatal = false →
    ∃ t, exec (.bridgeParityError gs) s = .next t ∧ t.fatal = true ∧
      (t.hub (x.first r).rxHub.toNat).bridgeLog = { x.first r with multi := !r.isEmpty }) ∧
  (∀ (gs : List BridgeGroup) (h : Fin 8) (s : State), s.bridgeErrors gs ≠ [] → s.fatal = true → s.sys.bridgeHub = some h →
    exec (.bridgeParityError gs) s = .next (s.modHub h (fun y => { y with bridgeLog := { y.bridgeLog with multi := true } }))) ∧
  (∀ s : State, s.fatal = true → exec .fatalPortStop s = .next { s with
    pwr := { s.pwr with shutOff := s.pwr.overTemp }, sys := { s.sys with portsStopped := true } })

/-- Deep sleep, its clock and the three ways out of it (from R657–R661, R783, R807). -/
def Obligations.DeepSleepAndWake : Prop :=
  (∀ s : State, s.fatal = false → s.sleepBarred = false →
    ∃ t, exec .deepSleep s = .next t ∧ t.sys.phase = .sleeping ∧ t.pwr.cmdResult = 1 ∧ t.mem = s.mem) ∧
  (∀ s : State, s.fatal = false → s.sleepBarred = true →
    exec .deepSleep s = .next { s with pwr := { s.pwr with cmdResult := 2 } }) ∧
  (∀ s : State, s.sys.phase = .sleeping →
    ∃ t, exec (.wake .pin) s = .next t ∧ t.sys.phase = .waking ∧ t.sys.lastWake = 1 ∧ t.zlg.startup = true) ∧
  (∀ s : State, s.sys.phase = .sleeping → s.clk.rtc = s.clk.rtcAlarm → s.clk.rtcAlarm ≠ 0 →
    ∃ t, exec (.wake .alarm) s = .next t ∧ t.sys.phase = .waking ∧ t.sys.lastWake = 2 ∧ t.zlg.startup = true) ∧
  (∀ s : State, s.sys.phase = .sleeping →
    ∃ t, exec (.wakeCommand .i3c) s = .next t ∧ t.sys.phase = .waking ∧ t.sys.lastWake = 3 ∧ t.zlg.startup = true) ∧
  (∀ s : State, s.sys.phase = .waking → s.fatal = false →
    ∃ t, exec .wakeComplete s = .next t ∧ t.sys.phase = .awake ∧ t.zlg.startup = false) ∧
  (∀ s : State, s.sys.phase = .sleeping →
    ∃ t, exec .sleepTick s = .next t ∧ t.clk.rtc = s.clk.rtc + 1 ∧
      t.clk.poolTime = s.clk.poolTime + (if s.clk.rtc.toNat % 64 < 37 then 30518 else 30517) ∧ t.mem = s.mem) ∧
  (∀ s : State, s.sys.phase = .sleeping → s.pwr.feedBOk = true →
    exec (.sleepFeedLoss false) s = .next { s with pwr := { s.pwr with feedAOk := false } }) ∧
  (∀ s : State, s.sys.phase = .sleeping → s.pwr.feedAOk = true →
    exec (.sleepFeedLoss true) s = .next { s with pwr := { s.pwr with feedBOk := false } }) ∧
  (∀ (b : Bool) (s : State), s.sys.phase = .sleeping → (if b then s.pwr.feedAOk else s.pwr.feedBOk) = false →
    ∃ t, exec (.sleepFeedLoss b) s = .next t ∧ t.sys.phase = .unpowered ∧ t.mem = [])

/-! ### The structure image (R68–R86, R97, R98, R333) -/

/-- The commands of `SI_CMD`, taken (from R71–R77, R86): their results and states. -/
def Obligations.StructureImageCommands : Prop :=
  (∀ (p : Path) (s : State), s.siTakes p = true → s.si.lock = false → s.si.state = .idle ∨ s.si.state = .staging ∨ s.si.state = .validated →
    s.mayTake p s.si.stage = true →
    exec (.open_ p) s = .next { s with si := { s.si with
      state := .staging, stage := some { owner := s.ownerOf p }, change := s.si.changeLeft, lastResult := 1 } }) ∧
  (∀ (p : Path) (b : StageBuf) (s : State), s.siTakes p = true → s.si.lock = false → s.si.state = .staging → s.si.stage = some b →
    exec (.validate p) s = .next (if s.validate (stagedImage b) = 1 then { s with si := { s.si with
        state := .validated, change := s.changeWord (s.effective (stagedImage b).sections), lastResult := 1 } }
      else { s with si := { s.si with lastResult := BitVec.ofNat 4 (s.validate (stagedImage b)) } })) ∧
  (∀ (p : Path) (m : Medium) (b : StageBuf) (s : State), s.siTakes p = true → s.mayCommit = true → s.si.stage = some b →
    s.classOfChange s.eff (s.effective (stagedImage b).sections) ≠ 3 →
    ∃ t, exec (.commit p m) s = .next t ∧ t.si.state = .quiescing ∧ t.si.prev = none ∧ t.si.cur = s.si.cur ∧ t.eff = s.eff) ∧
  (∀ (p : Path) (m : Medium) (b : StageBuf) (s : State), s.siTakes p = true → s.mayCommit = true → s.si.stage = some b →
    s.classOfChange s.eff (s.effective (stagedImage b).sections) = 3 →
    exec (.commit p m) s = .next { s with si := { s.si with lastResult := 14 } }) ∧
  (∀ (p : Path) (b : StageBuf) (s : State), s.siTakes p = true → s.mayCommit = true → s.si.stage = some b →
    exec (.commitOnReset p) s = .next { s with si := { s.si with
      state := .pendingReset, prev := s.si.cur, cur := some (stagedImage b), awaiting := true, stage := none, change := 0,
      lastResult := 1, resetCause := true, maxSerial := laterSerial s.si.maxSerial (stagedImage b).serial } }) ∧
  (∀ (p : Path) (s : State), s.siTakes p = true → s.si.lock = false → s.si.state = .staging ∨ s.si.state = .validated →
    exec (.abandon p) s = .next { s with si := { s.si with
      state := .idle, stage := none, change := s.si.changeLeft, lastResult := 1 } }) ∧
  (∀ (p : Path) (s : State), s.siTakes p = true → s.si.lock = false → s.si.state = .pendingReset →
    exec (.abandon p) s = .next { s with si := { s.si with
      state := .idle, cur := s.si.prev, prev := none, awaiting := false, lastResult := 1 } }) ∧
  (∀ (p : Path) (m : Medium) (y : SiImage) (s : State), s.siTakes p = true → s.si.lock = false →
    s.si.state = .idle ∨ s.si.state = .health → s.si.prev = some y → s.classOfChange s.eff (s.sectionsOf (some y)) ≠ 3 →
    ∃ t, exec (.revert p m) s = .next t ∧ t.si.state = .returning ∧ t.si.prev = some y ∧ t.si.lastResult = 1 ∧ t.eff = s.eff) ∧
  (∀ (p : Path) (m : Medium) (y : SiImage) (s : State), s.siTakes p = true → s.si.lock = false →
    s.si.state = .idle ∨ s.si.state = .health → s.si.prev = some y → s.classOfChange s.eff (s.sectionsOf (some y)) = 3 →
    ∃ t, exec (.revert p m) s = .next t ∧ Cleared t ∧ t.si.cur = some y ∧ t.si.prev = none ∧ t.si.returned = true) ∧
  (∀ (p : Path) (s : State), (s.pathUsage p).getLsbD 0 = true → s.fatal = false → p ≠ .jtag ∨ s.jtagAllowed = true →
    exec (.siLockSet p) s = .next { s with si := { s.si with lock := true } }) ∧
  (∀ (p : Path) (s : State), s.siTakes p = true → s.si.lock = true →
    exec (.open_ p) s = .next { s with si := { s.si with lastResult := 12 } })

/-- The commit point, what abandons a commit or turns a return into a reset, and the health window (from R74–R79, R97, R102). -/
def Obligations.CommitEndsInHealthOrAsBefore : Prop :=
  (∀ (l : SMap (List (List LaneSweep))) (m : Medium) (b : StageBuf) (s : State), s.fatal = false → s.si.state = .quiescing → s.si.stage = some b →
    s.quiesced s.si.hold (s.effective (stagedImage b).sections) = true → s.check9 (s.effective (stagedImage b).sections) = true →
    s.check10 (stagedImage b) = true →
    ∃ t, exec (.commitPoint l m) s = .next t ∧ t.si.state = .health ∧ t.si.cur = some (stagedImage b) ∧ t.si.prev = s.si.cur ∧
      t.si.stage = none ∧ t.si.lastResult = 1 ∧ t.si.healthMark = true ∧ t.si.hold = {} ∧
      t.eff = s.effective (stagedImage b).sections) ∧
  (∀ (l : SMap (List (List LaneSweep))) (m : Medium) (b : StageBuf) (s : State), s.fatal = false → s.si.state = .quiescing → s.si.stage = some b →
    s.quiesced s.si.hold (s.effective (stagedImage b).sections) = true → s.check9 (s.effective (stagedImage b).sections) = false →
    ∃ t, exec (.commitPoint l m) s = .next t ∧ t.si.lastResult = 10 ∧ t.si.prev = s.si.prev ∧ t.si.hold = {} ∧ t.eff = s.eff ∧
      t.si.state = (if s.ownerLives s.si.stage then .validated else .idle)) ∧
  (∀ (l : SMap (List (List LaneSweep))) (m : Medium) (y : SiImage) (s : State), s.fatal = false → s.si.state = .returning → s.si.prev = some y →
    s.quiesced s.si.hold (s.effective y.sections) = true →
    ∃ t, exec (.commitPoint l m) s = .next t ∧ t.si.state = .idle ∧ t.si.cur = some y ∧ t.si.prev = none ∧ t.si.returned = true ∧
      t.si.hold = {} ∧ t.eff = s.effective y.sections) ∧
  (∀ (m : Medium) (s : State), s.fatal = false → s.si.state = .quiescing →
    ∃ t, exec (.quiesceLimitExpired m) s = .next t ∧ t.si.lastResult = 13 ∧ t.si.prev = s.si.prev ∧ t.si.hold = {} ∧ t.eff = s.eff ∧
      t.si.state = (if s.ownerLives s.si.stage then .validated else .idle)) ∧
  (∀ (m : Medium) (s : State), s.fatal = false → s.si.state = .returning →
    ∃ t, exec (.quiesceLimitExpired m) s = .next t ∧ Cleared t ∧ t.si.cur = s.si.prev ∧ t.si.prev = none ∧ t.si.returned = true) ∧
  (∀ (c : BitVec 3) (m : Medium) (s : State), s.fatal = false → s.si.state = .health → s.checkFails c = true → s.si.prev = none →
    exec (.healthCheckFail c m) s = .next { s with si := { s.si with healthFail := true } }) ∧
  (∀ (c : BitVec 3) (m : Medium) (y : SiImage) (s : State), s.fatal = false → s.si.state = .health → s.checkFails c = true →
    s.si.prev = some y → s.classOfChange s.eff (s.sectionsOf (some y)) ≠ 3 →
    ∃ t, exec (.healthCheckFail c m) s = .next t ∧ t.si.state = .returning ∧ t.si.returnCheck = c ∧ t.eff = s.eff) ∧
  (∀ (m : Medium) (s : State), s.fatal = false → s.si.state = .health → s.checkFails 5 = false →
    exec (.healthWindowClose m) s = .next { s with si := { s.si with state := .idle, healthMark := false, healthAt := none } })

/-- `TRANSFER` writes a chunk of a staging buffer of the asking session, or reads one back (from R333). -/
def Obligations.TransferMovesStagedBytes : Prop :=
  (∀ (hdr : KmpHdr) (n : BitVec 16) (o : BitVec 32) (d : List Byte) (k : Nat) (x : KmpSession) (b : StageBuf) (s v : State),
    KmpServed s hdr k x v → v.isOperator x = true → 0 < n.toNat → n.toNat ≤ 1024 → d.length = n.toNat → o.toNat + n.toNat ≤ 262144 →
    (v.si.state = .staging ∨ v.si.state = .validated) → v.si.stage = some b → ownedBy (some b) k x.sid = true →
    exec (.transfer hdr 1 1 n o d false) s = .next ((v.modSi (fun y =>
      { y with stage := some (b.put o.toNat d), state := .staging, change := y.changeLeft })).replied k x hdr 5
        { status := 0, body := .transfer 0 [] })) ∧
  (∀ (hdr : KmpHdr) (n : BitVec 16) (o : BitVec 32) (d : List Byte) (k : Nat) (x : KmpSession) (b : StageBuf) (s v : State),
    KmpServed s hdr k x v → v.isOperator x = true → 0 < n.toNat → n.toNat ≤ 1024 → d.length = n.toNat → o.toNat + n.toNat ≤ 4194304 →
    v.fw.writing = false → v.fw.stage = some b → ownedBy (some b) k x.sid = true →
    exec (.transfer hdr 2 1 n o d false) s = .next ((v.modFw (fun f =>
      { f with stage := some (b.put o.toNat d) })).replied k x hdr 5 { status := 0, body := .transfer 0 [] })) ∧
  (∀ (hdr : KmpHdr) (n : BitVec 16) (o : BitVec 32) (d : List Byte) (k : Nat) (x : KmpSession) (b : StageBuf) (s v : State),
    KmpServed s hdr k x v → v.isOperator x = true → 0 < n.toNat → n.toNat ≤ 1024 → o.toNat + n.toNat ≤ 262144 →
    (v.si.state = .staging ∨ v.si.state = .validated) → v.si.stage = some b → ownedBy (some b) k x.sid = true →
    exec (.transfer hdr 1 2 n o d false) s = .next (v.replied k x hdr 5
      { status := 0, body := .transfer 0 ((List.range n.toNat).map (fun i => b.bytes.getD (o.toNat + i) 0)) })) ∧
  (∀ (hdr : KmpHdr) (g op : BitVec 8) (n : BitVec 16) (o : BitVec 32) (d : List Byte) (r : Bool) (k : Nat) (x : KmpSession) (s v : State),
    KmpServed s hdr k x v → v.isOperator x = false →
    exec (.transfer hdr g op n o d r) s = .next (v.replied k x hdr 5 { status := 3 }))

/-! ### Carving the pool and tenancy epochs (R116, R121–R143, R199, R214, R673–R685, R808) -/

/-- A carving command for which a reason of R808 applies changes nothing but its own session: its response names the first such
reason; a session without the right gets `KSTATUS` 3; while a fill is under way a command waits (from R121, R124, R678, R808). -/
def Obligations.CarvingIsRefusedByTheFirstReason : Prop :=
  (∀ (hdr : KmpHdr) (cmd : CarveCmd) (k : Nat) (x : KmpSession) (s v : State), CarveServed s hdr cmd k x v →
    ∀ r ∈ carveRows hdr cmd, v.carveRefusal { cmd with opcode := r.1 } ≠ 0 →
    exec r.2 s = .next (v.replied k x hdr 6 { status := 0, body := .carve (v.carveDone { cmd with opcode := r.1 }
      (v.carveRefusal { cmd with opcode := r.1 }) (if r.1 = 1 then 0 else cmd.extent.toNat)) })) ∧
  (∀ (hdr : KmpHdr) (cmd : CarveCmd) (k : Nat) (x : KmpSession) (s v : State), KmpServed s hdr k x v → v.mayCarve x = false →
    ∀ r ∈ carveRows hdr cmd, exec r.2 s = .next (v.replied k x hdr 6 { status := 3 })) ∧
  (∀ (hdr : KmpHdr) (cmd : CarveCmd) (k : Nat) (x : KmpSession) (s v : State), KmpServed s hdr k x v → v.mayCarve x = true →
    carveReserved cmd.opcode = false → v.carver.filling.isSome = true →
    ∀ r ∈ carveRows hdr cmd, exec r.2 s = .next (({ v with carver := { v.carver with queue := v.carver.queue ++
      [{ slot := k, sid := x.sid, hdr := hdr, cmd := { cmd with opcode := r.1 } }] } } : State).unreplied k hdr))

/-! ### Single rules, whole -/

/-- R808: of several reasons for refusal, a carving command reports the first in the order of the rule. -/
def Obligations.CarvingReasonsComeInOrder : Prop :=
  ∀ (hdr : KmpHdr) (cmd : CarveCmd) (k n : Nat) (x : KmpSession) (pre post : List Nat) (s v : State), CarveServed s hdr cmd k x v →
    ∀ r ∈ carveRows hdr cmd, carveOrder = pre ++ n :: post → CarveReason v { cmd with opcode := r.1 } n →
      (∀ q ∈ pre, ¬CarveReason v { cmd with opcode := r.1 } q) →
      exec r.2 s = .next (v.replied k x hdr 6 { status := 0, body := .carve (v.carveDone { cmd with opcode := r.1 } n
        (if r.1 = 1 then 0 else cmd.extent.toNat)) }) ∧
      (v.carveDone { cmd with opcode := r.1 } n (if r.1 = 1 then 0 else cmd.extent.toNat)).result = BitVec.ofNat 8 n

/-! ### Carving the pool and tenancy epochs (R116, R121–R143, R199, R214, R673–R685, R808) -/

/-- What each carving command does that no reason refuses (from R116, R122–R127, R134, R142). -/
def Obligations.CarvingCommandsComplete : Prop :=
  (∀ (hdr : KmpHdr) (cmd : CarveCmd) (k e : Nat) (f : BitVec 8) (x : KmpSession) (s v : State), CarveServed s hdr cmd k x v →
    v.carveRefusal { cmd with opcode := 1 } = 0 → v.chooseExtent cmd.cls.toNat cmd.hubGiven cmd.hub.toNat = some (e, f) →
    cmd.fill = false →
    exec (.carve hdr cmd) s = .next ((v.carve cmd.cls.toNat e f).replied k x hdr 6
      { status := 0, body := .carve ((v.carve cmd.cls.toNat e f).carveDone { cmd with opcode := 1 } 0 e) })) ∧
  (∀ (hdr : KmpHdr) (cmd : CarveCmd) (k e : Nat) (f : BitVec 8) (x : KmpSession) (s v : State), CarveServed s hdr cmd k x v →
    v.carveRefusal { cmd with opcode := 1 } = 0 → v.chooseExtent cmd.cls.toNat cmd.hubGiven cmd.hub.toNat = some (e, f) →
    cmd.fill = true →
    ∃ t, exec (.carve hdr cmd) s = .next t ∧ t.extents = v.extents.set e { cls := BitVec.ofNat 4 cmd.cls.toNat, fineSet := f } ∧
      t.carver.filling.isSome = true ∧ t.out = v.out) ∧
  (∀ (hdr : KmpHdr) (cmd : CarveCmd) (k : Nat) (x : KmpSession) (s v : State), CarveServed s hdr cmd k x v →
    v.carveRefusal { cmd with opcode := 2 } = 0 →
    ∃ t, exec (.grant hdr cmd) s = .next t ∧ t.extents = v.extents ∧ t.mem = v.mem ∧
      t.maps = v.maps.mod cmd.host.toNat [] (fun m => SMap.set m (cmd.poolBase.toNat / 2 ^ 28)
        { extent := cmd.extent, rights := rightsOf cmd.rights.toNat })) ∧
  (∀ (hdr : KmpHdr) (cmd : CarveCmd) (k base : Nat) (m : MapEntry) (x : KmpSession) (s v : State), CarveServed s hdr cmd k x v →
    v.carveRefusal { cmd with opcode := 3 } = 0 → v.baseOf cmd.host.toNat cmd.extent.toNat = some base →
    v.entryFor cmd.host.toNat cmd.extent.toNat = some m →
    rightsCode m.rights < rightsCode (rightsOf cmd.rights.toNat) →
    ∃ t, exec (.rights hdr cmd) s = .next t ∧ t.drains = v.drains ∧
      t.maps = (v.modEntry cmd.host.toNat base (fun _ => { m with rights := rightsOf cmd.rights.toNat })).maps) ∧
  (∀ (hdr : KmpHdr) (cmd : CarveCmd) (k base : Nat) (m : MapEntry) (x : KmpSession) (s v : State), CarveServed s hdr cmd k x v →
    v.carveRefusal { cmd with opcode := 3 } = 0 → v.baseOf cmd.host.toNat cmd.extent.toNat = some base →
    v.entryFor cmd.host.toNat cmd.extent.toNat = some m → rightsOf cmd.rights.toNat ≠ m.rights →
    rightsCode (rightsOf cmd.rights.toNat) ≤ rightsCode m.rights →
    ∃ t, exec (.rights hdr cmd) s = .next t ∧
      t.drains = v.drains ++ [
        { host := cmd.host, extent := cmd.extent, poolBase := BitVec.ofNat 24 base, goal := some (rightsOf cmd.rights.toNat),
          session := some (k, x.sid), reclaimed := decide (cmd.host.toNat < 1024) && (v.host cmd.host.toNat).dead }] ∧
      t.maps = (v.modEntry cmd.host.toNat base (fun m => { m with mark := .narrowing (rightsOf cmd.rights.toNat) })).maps) ∧
  (∀ (hdr : KmpHdr) (cmd : CarveCmd) (k base : Nat) (m : MapEntry) (x : KmpSession) (s v : State), CarveServed s hdr cmd k x v →
    v.carveRefusal { cmd with opcode := 4 } = 0 → v.baseOf cmd.host.toNat cmd.extent.toNat = some base →
    v.entryFor cmd.host.toNat cmd.extent.toNat = some m →
    ∃ t, exec (.withdraw hdr cmd) s = .next t ∧ t.extents = v.extents ∧ t.drains.length = v.drains.length + 1 ∧
      t.maps = (v.modEntry cmd.host.toNat base (fun m => { m with mark := .draining })).maps) ∧
  (∀ (hdr : KmpHdr) (cmd : CarveCmd) (k : Nat) (x : KmpSession) (s v : State), CarveServed s hdr cmd k x v →
    v.carveRefusal { cmd with opcode := 5 } = 0 → (v.extents.get? cmd.extent.toNat).isSome = true →
    ∃ t, exec (.free hdr cmd) s = .next t ∧ t.extents = v.extents.erase cmd.extent.toNat ∧ t.maps = v.maps) ∧
  (∀ (hdr : KmpHdr) (cmd : CarveCmd) (k : Nat) (x : KmpSession) (s v : State), CarveServed s hdr cmd k x v →
    v.carveRefusal { cmd with opcode := 6 } = 0 →
    exec (.query hdr cmd) s = .next (v.replied k x hdr 6
      { status := 0, body := .carve (v.carveDone { cmd with opcode := 6 } 0 cmd.extent.toNat) }))

/-- A withdrawal recalls and then drops its entry; a narrowing snoops and then lowers the rights (from R137–R143). Operator keys are
enrolled and revoked, epochs open and end, and the pool is resurfaced (from R673–R675, R680–R685; a saturated epoch number stays,
notes/assumptions/18.md). -/
def Obligations.WithdrawalsKeysAndEpochsRun : Prop :=
  (∀ (h e : BitVec 16) (m : Medium) (d : Drain) (s : State), s.drainOf h.toNat e.toNat = some d → d.goal = none → d.phase = .marked →
    d.tenancyEnd = false → s.inFlightOn h.toNat e.toNat = false → s.fatal = false →
    ∃ t, exec (.withdrawalRecall h e m) s = .next t ∧ t.maps = s.maps ∧
      t = (s.modDrain h.toNat e.toNat (fun d => { d with
        phase := .recalling,
        todo := if 1024 ≤ h.toNat then [] else s.linesOf e.toNat (fun x =>
          ((x.dstate == .e || x.dstate == .o) && x.owner.toNat == h.toNat) || x.possible h.toNat) })).cohEnd m) ∧
  (∀ (h e : BitVec 16) (d : Drain) (s : State), s.drainOf h.toNat e.toNat = some d → d.goal = none → d.phase = .recalling →
    d.tenancyEnd = false → s.ownOpen d e.toNat (.recallFor (BitVec.ofNat 10 h.toNat)) = false → s.unreclaimed h.toNat e.toNat = false →
    s.fatal = false →
    ∃ t, exec (.withdrawalComplete h e) s = .next t ∧ t.maps = (s.dropEntry h.toNat d.poolBase.toNat).maps ∧
      t.extents = s.extents ∧ t.drains = s.drains.filter (fun x => !(x.host == h && x.extent == e))) ∧
  (∀ (h e : BitVec 16) (m : Medium) (d : Drain) (r : Rights) (s : State), s.drainOf h.toNat e.toNat = some d → d.goal = some r →
    d.phase = .marked → d.tenancyEnd = false → s.inFlightOn h.toNat e.toNat = false → s.fatal = false →
    ∃ t, exec (.narrowingSnoop h e m) s = .next t ∧ t.maps = s.maps ∧
      t = (s.modDrain h.toNat e.toNat (fun d => { d with
        phase := .recalling,
        todo := if 1024 ≤ h.toNat then [] else if hasW r then [] else s.linesOf e.toNat (fun x =>
          (x.dstate == .e || x.dstate == .o) && x.owner.toNat == h.toNat) })).cohEnd m) ∧
  (∀ (h e : BitVec 16) (d : Drain) (r : Rights) (s : State), s.drainOf h.toNat e.toNat = some d → d.goal = some r →
    d.phase = .recalling → d.tenancyEnd = false → s.ownOpen d e.toNat (.narrow (BitVec.ofNat 10 h.toNat)) = false →
    s.unreclaimed h.toNat e.toNat = false → s.fatal = false →
    ∃ t, exec (.narrowingComplete h e) s = .next t ∧ t.extents = s.extents ∧
      t.maps = (s.modEntry h.toNat d.poolBase.toNat (fun m => { m with rights := r, mark := .none })).maps ∧
      t.drains = s.drains.filter (fun x => !(x.host == h && x.extent == e))) ∧
  (∀ (p : Path) (k : Fin 4) (u : BitVec 4) (s : State), s.ignores p = false →
    ((s.pathUsage p).getLsbD 3 = true ∨ (s.ten.slots = [] ∧ (s.sessionAt p).isSome = true)) → badKey s.keyWinModulus = false →
    s.ten.slots.any (fun e => e.1 != k.val && e.2.1 == s.keyWinModulus) = false →
    (s.epochOpen = true → s.ten.tenantKey ≠ some s.keyWinModulus) →
    ∃ t, exec (.enrol p k u) s = .next t ∧
      t.ten = { s.ten with slots := s.ten.slots.set k.val (s.keyWinModulus, u), lastResult := 1 }) ∧
  (∀ (p : Path) (k : Fin 4) (u : BitVec 4) (s : State), s.ignores p = false →
    (s.pathUsage p).getLsbD 3 = true → badKey s.keyWinModulus = true →
    exec (.enrol p k u) s = .next { s with ten := { s.ten with lastResult := 4 } }) ∧
  (∀ (p : Path) (k : Fin 4) (s : State), s.ignores p = false → (s.pathUsage p).getLsbD 3 = true →
    s.ten.slots.any (fun e => e.1 != k.val && e.2.2.getLsbD 3) = true →
    ∃ t, exec (.revoke p k) s = .next t ∧ t.ten = { s.ten with slots := s.ten.slots.erase k.val, lastResult := 1 }) ∧
  (∀ (p : Path) (c : Bool) (s : State), s.ignores p = false → s.tenBusy = false → s.si.state ≠ .quiescing →
    s.openRefusal ((s.pathUsage p).getLsbD 0) s.keyWinModulus = 0 →
    ∃ t, exec (.openEpoch p c) s = .next t ∧ t.ten.state = .open_ ∧ t.ten.tenantKey = some s.keyWinModulus ∧ t.ten.tenantCarve = c ∧
      t.ten.epoch = satAdd s.ten.epoch 1 ∧ t.memKey = (satAdd s.ten.epoch 1).toNat ∧ t.ten.lastResult = 1) ∧
  (∀ (p : Path) (c : Bool) (s : State), s.ignores p = false → s.tenBusy = false → s.si.state ≠ .quiescing →
    s.openRefusal ((s.pathUsage p).getLsbD 0) s.keyWinModulus ≠ 0 →
    exec (.openEpoch p c) s = .next { s with ten := { s.ten with
      lastResult := s.openRefusal ((s.pathUsage p).getLsbD 0) s.keyWinModulus } }) ∧
  (∀ (p : Path) (m : Medium) (s : State), s.ignores p = false → s.ten.state = .open_ →
    ((s.pathUsage p).getLsbD 0 = true ∨ s.isTenant p = true) →
    ∃ u : State, exec (.endEpoch p m) s = .next (u.endAllJobs.cohEnd m) ∧ u.ten = { s.ten with state := .ending } ∧
      u.tenEnd = .draining ∧ u.extents = s.extents ∧
      ∀ h base e, (u.mapOf h).get? base = some e → e.mark = .draining) ∧
  (∀ (p : Path) (m : Medium) (s : State), s.ignores p = false → s.ten.state ≠ .open_ →
    exec (.endEpoch p m) s = .next { s with ten := { s.ten with lastResult := 2 } }) ∧
  (∀ (p : Path) (m : Medium) (s : State), s.ignores p = false → s.ten.state = .dirty ∨ s.ten.state = .clean → s.tenBusy = false →
    (s.pathUsage p).getLsbD 0 = true →
    ∃ t, exec (.resurface p m) s = .next t ∧ t.memKey = 0 ∧ t.maps = [] ∧ t.drains = [] ∧ t.gates = [] ∧ t.lcs = [] ∧ t.atom = [] ∧
      t.jobs = []) ∧
  (∀ (m : Medium) (s : State), s.tenEnd = .recalling → s.dir = [] → s.lines = [] → s.atom = [] → s.fatal = false →
    ∃ t, exec (.tenancyEndComplete m) s = .next t ∧ t.memKey = 0 ∧ t.maps = [] ∧ t.drains = [] ∧ t.gates = [] ∧ t.lcs = [] ∧
      t.atom = [] ∧ t.jobs = []) ∧
  (∀ (l : List (BitVec 38)) (s : State), s.ten.state = .resurfacing → s.fatal = false →
    ∃ t, exec (.resurfacingComplete l) s = .next t ∧ t.ten.state = (if s.chanMissing then .dirty else .clean) ∧
      t.ten.lastResult = (if s.chanMissing then 8 else 1) ∧ t.jobs = s.jobs ∧ t.meters = [] ∧ t.counters = [] ∧ t.ten.epoch = s.ten.epoch)

/-! ### Coherence (R111, R119, R157–R219, R263, R264, R368–R370, R797, R809, R810) -/

/-- A coherent request: refused by the fatal state with `FAILED`, by its meter for retry, at ingress with the status of the first
check that fails, by a home in partial reset or without room for retry, or else taken into its line's order (from R111, R119, R176,
R184, R186, R216, R370, R654, R797, R809). -/
def Obligations.CoherentRequestsAreTakenOrRefused : Prop :=
  ∀ (h : BitVec 10) (tag : BitVec 12) (addr : BitVec 46) (at_ : Bool) (d : Line) (m : Medium) (s : State),
    ∀ r ∈ requestRows h tag addr at_ d m,
    (s.hears h = true → s.fatal = true → exec r.2 s = .next (s.reply h tag .nack .i .failed none)) ∧
    (s.hears h = true → s.fatal = false → s.throttles h.toNat = true → exec r.2 s = .next (s.nackRetry h tag 4 true)) ∧
    (s.hears h = true → s.fatal = false → s.throttles h.toNat = false → (s.meterArrive h.toNat 64).1 = .red →
      exec r.2 s = .next ((s.meterArrive h.toNat 64).2.nackRetry h tag ((s.meterArrive h.toNat 64).2.redBackoff h.toNat 64) true)) ∧
    (∀ u : State, s.hears h = true → s.fatal = false → s.throttles h.toNat = false → (s.meterArrive h.toNat 64).2 = u →
      (s.meterArrive h.toNat 64).1 ≠ .red → u.heldRequest h r.1 = true → exec r.2 s = .next (u.hold 8 (.coh h r.1))) ∧
    (∀ u : State, RequestTaken s h r.1 u →
      (∀ (st : PStatus) (dpa : Nat) (w : Bool),
        u.ingress h.toNat (addr.toNat * 64) (needOf r.1) (trackAccepts r.1.op) = (st, dpa, w) → st ≠ .ok →
        exec r.2 s = .next ((u.reply h tag .nack .i st none).cohEnd m)) ∧
      (∀ (dpa : Nat) (w : Bool), u.ingress h.toNat (addr.toNat * 64) (needOf r.1) (trackAccepts r.1.op) = (.ok, dpa, w) →
        u.hubResetting (u.homeHub (dpa / 64)) = true → exec r.2 s = .next ((u.nackRetry h tag 15 true).cohEnd m)) ∧
      (∀ (dpa : Nat) (w : Bool), u.ingress h.toNat (addr.toNat * 64) (needOf r.1) (trackAccepts r.1.op) = (.ok, dpa, w) →
        u.hubResetting (u.homeHub (dpa / 64)) = false → u.lineRoom (dpa / 64) = false →
        exec r.2 s = .next (((u.freeBackoff.2.bump (u.homeHub (dpa / 64)) 4 0x80 0 1).nackRetry h tag u.freeBackoff.1 false).cohEnd m)) ∧
      (∀ (dpa : Nat) (w : Bool), u.ingress h.toNat (addr.toNat * 64) (needOf r.1) (trackAccepts r.1.op) = (.ok, dpa, w) →
        u.hubResetting (u.homeHub (dpa / 64)) = false → u.lineRoom (dpa / 64) = true →
        exec r.2 s = .next ((u.takeReq (dpa / 64) {
          kind := reqKind r.1, from_ := .host h tag, addr := addr, grantW := w, track := u.lineTrack (dpa / 64), data := r.1.data.getD 0,
          mask := BitVec.allOnes 64 } m).cohEnd m)))

/-! ### Single rules, whole -/

/-- R111: the map lookup at ingress: where a hit lands, and what a miss answers. -/
def Obligations.MapsAreLookedUpAtIngress : Prop :=
  ∀ (h : BitVec 10) (tag : BitVec 12) (addr : BitVec 46) (at_ : Bool) (d : Line) (m : Medium) (s u : State),
    ∀ r ∈ requestRows h tag addr at_ d m, RequestTaken s h r.1 u →
      ((u.mapOf h.toNat).get? (addr.toNat * 64 / 2 ^ 28) = none →
        exec r.2 s = .next ((u.reply h tag .nack .i .unmapped none).cohEnd m)) ∧
      ∀ (e : MapEntry) (dpa : Nat) (w : Bool), (u.mapOf h.toNat).get? (addr.toNat * 64 / 2 ^ 28) = some e →
        u.ingress h.toNat (addr.toNat * 64) (needOf r.1) (trackAccepts r.1.op) = (.ok, dpa, w) →
        dpa / 2 ^ 28 = e.extent.toNat ∧ dpa % 2 ^ 28 = addr.toNat * 64 % 2 ^ 28 ∧
        (u.hubResetting (u.homeHub (dpa / 64)) = false → u.lineRoom (dpa / 64) = true →
          exec r.2 s = .next ((u.takeReq (dpa / 64) {
            kind := reqKind r.1, from_ := .host h tag, addr := addr, grantW := w, track := u.lineTrack (dpa / 64), data := r.1.data.getD 0,
            mask := BitVec.allOnes 64 } m).cohEnd m))

/-! ### Coherence (R111, R119, R157–R219, R263, R264, R368–R370, R797, R809, R810) -/

/-- Write-backs and evictions are served at once where no transaction of the line is open: the owner's data is stored and it is
owner no more; a host that is not owner loses its place as sharer, and nothing is stored (from R119, R168, R202–R205, R809). An
answer to an outstanding snoop is taken by its transaction, forwarded data by the transaction that waits for it; what matches
nothing is discarded; and the transaction whose turn it is opens (from R160, R170, R171, R184, R810). -/
def Obligations.WriteBacksAndAnswersAreServed : Prop :=
  (∀ (h : BitVec 10) (tag : BitVec 12) (addr : BitVec 46) (e : MapEntry) (l : Nat) (m : Medium) (s : State),
    s.hears h = true → s.fatal = false → (s.mapOf h.toNat).get? (addr.toNat * 64 / 2 ^ 28) = some e →
    l = (e.extent.toNat * 2 ^ 28 + addr.toNat * 64 % 2 ^ 28) / 64 → s.track (s.classOf e.extent.toNat) = 2 →
    s.hubResetting (s.homeHub l) = false → s.tx l = none →
    (∀ (d : Line), s.isOwner (s.homeHub l) l h.toNat = true →
      exec (.wbm h tag addr false d m) s = .next ((((s.writeLine l d m).ownerGone (s.homeHub l) l h.toNat).reply h tag .cmp .i .ok none).cohEnd m)) ∧
    (∀ (d : Line), s.isOwner (s.homeHub l) l h.toNat = true →
      exec (.wbm h tag addr true d m) s = .next ((((s.storePoison l).ownerGone (s.homeHub l) l h.toNat).reply h tag .cmp .i .ok none).cohEnd m)) ∧
    (∀ (p : Bool) (d : Line), s.isOwner (s.homeHub l) l h.toNat = false →
      exec (.wbm h tag addr p d m) s = .next (((s.sharerGone (s.homeHub l) l h.toNat).reply h tag .cmp .i .ok none).cohEnd m)) ∧
    (∀ (k : Nat) (x : DirEntry), s.dirFind (s.homeHub l) l = some (k, x) → x.dstate = .e →
      exec (.evc h tag addr m) s = .next (((((s.ownerGone (s.homeHub l) l h.toNat).reply h tag .ack .i .ok none)).afterOwn
        (s.homeHub l) l h m).cohEnd m)) ∧
    (∀ (k : Nat) (x : DirEntry), s.dirFind (s.homeHub l) l = some (k, x) → x.dstate ≠ .e →
      exec (.evc h tag addr m) s = .next (((((s.sharerGone (s.homeHub l) l h.toNat).reply h tag .ack .i .ok none)).afterOwn
        (s.homeHub l) l h m).cohEnd m))) ∧
  (∀ (h : BitVec 10) (htag : BitVec 13) (st : Moesi) (p : Bool) (d : Line) (m : Medium) (s : State),
    s.hears h = true → s.fatal = false → ∀ r ∈ answerRows h htag st p d m,
    (∀ (l hub : Nat) (t : Tx) (x : Snoop), s.findSnoop h htag = some (l, hub, t, x) → s.hubResetting hub = false →
      exec r.2 s = .next ((s.answerAt l hub t x r.1 m).cohEnd m)) ∧
    (s.answerHub h r.1 = none → exec r.2 s = .next (s.cohEnd m))) ∧
  (∀ (h : BitVec 10) (htag : BitVec 13) (p : Bool) (d : Line) (m : Medium) (hub : Nat) (s : State),
    s.hears h = true → s.fatal = false →
    s.answerHub h { op := .fwdData, htag := htag, poison := p, data := some d } = some hub → s.hubResetting hub = false →
    exec (.fwddata h htag p d m) s = .next ((s.takeFwd h { op := .fwdData, htag := htag, poison := p, data := some d } m).cohEnd m)) ∧
  (∀ (l : BitVec 40) (m : Medium) (s : State), s.live = true → s.fatal = false → s.hubResetting (s.order l.toNat).hub.toNat = false →
    s.trackerFree (s.order l.toNat).hub.toNat = true →
    exec (.transactionOpen l m) s = .next ((s.openHead l.toNat m).cohEnd m)) ∧
  (∀ (l : BitVec 40) (m : Medium) (t : Tx) (s : State), s.tx l.toNat = some t → t.wait = .owner → s.fatal = false →
    exec (.orphanTimeout l m) s = .next ((((((s.ownerGone (s.order l.toNat).hub.toNat l.toNat t.req.from_.agent.toNat).losePoison
      (s.order l.toNat).hub.toNat l.toNat t.req.from_.agent.toNat).setTx l.toNat (some { t with wait := .none, poisoned := true })).poisonRound
      (s.order l.toNat).hub.toNat l.toNat { t with wait := .none, poisoned := true })).cohEnd m)) ∧
  (∀ (hub : Fin 8) (set : BitVec 19) (s : State),
    exec (.retryRecordExpiry hub set) s = .next { s with retry := s.retry.erase (hub.val * 2 ^ 19 + set.toNat) })

/-- Hosts are declared dead, reclaimed and readmitted (from R206–R213, R215, R218, R219). -/
def Obligations.DeadHostsAreReclaimed : Prop :=
  (∀ (d : BitVec 10) (m : Medium) (s : State), (s.host d.toNat).allLost = true → s.coh.autoEn = true → s.holding = false →
    s.fatal = false → (s.host d.toNat).dead = false → ∃ t, exec (.deadHostTimeout d m) s = .next t ∧ DeclaredDead s d m t) ∧
  (∀ (d : BitVec 10) (m : Medium) (s : State), s.fatal = false → (s.host d.toNat).dead = false →
    ∃ t, exec (.declareDead d m) s = .next t ∧
      DeclaredDead { s with coh := { s.coh with cmdHost := d, cmdResult := 1 } } d m t) ∧
  (∀ (d : BitVec 10) (m : Medium) (s : State), s.fatal = false → (s.host d.toNat).dead = true →
    exec (.declareDead d m) s = .next { s with coh := { s.coh with cmdHost := d, cmdResult := 3 } }) ∧
  (∀ (d : BitVec 10) (m : Medium) (l : Nat) (o : LineOrd) (t : Tx) (x : Snoop) (s : State), s.lines = [(l, o)] → o.tx = some t →
    t.req.kind = .recallAll → t.snoops = [x] → x.host = d → s.tenEnd = .recalling → s.holding = false → s.fatal = false →
    (s.host d.toNat).dead = false → ∃ u, exec (.tenancyRecallTimeout d m) s = .next u ∧ DeclaredDead s d m u) ∧
  (∀ (d : BitVec 10) (s : State), exec (.cohDeadQuery d) s = .next { s with coh := { s.coh with cmdHost := d } }) ∧
  (∀ (d : BitVec 10) (s : State), s.fatal = false → (s.host d.toNat).dead = true → (s.host d.toNat).reclaiming = [] →
    ∃ t, exec (.readmit d) s = .next t ∧ t.coh.cmdResult = 1 ∧ t.hosts = s.hosts.erase d.toNat ∧ t.meters = s.meters.erase d.toNat) ∧
  (∀ (d : BitVec 10) (s : State), s.fatal = false → (s.host d.toNat).dead = true → (s.host d.toNat).reclaiming ≠ [] →
    exec (.readmit d) s = .next { s with coh := { s.coh with cmdHost := d, cmdResult := 2 } }) ∧
  (∀ (d : BitVec 10) (s : State), s.fatal = false → (s.host d.toNat).dead = false →
    exec (.readmit d) s = .next { s with coh := { s.coh with cmdHost := d, cmdResult := 3 } }) ∧
  (∀ (h : Fin 8) (l : BitVec 40) (m : Medium) (k : Nat) (e : DirEntry) (s u : State), s.fatal = false → s.tx l.toNat = none →
    s.dirFind h.val l.toNat = some (k, e) → s.clearDead e = e → e.dstate = .e → e.owner.toNat < 1024 →
    (s.host e.owner.toNat).dead = true →
    u = (({ s with dir := s.dir.erase k } : State).losePoison h.val l.toNat e.owner.toNat).cohEnd m →
    exec (.reclaimWalk h l m) s = .next ((u.reclaimedOn h.val).foldl (fun v d => v.reclaimEnd d [h.val]) u)) ∧
  (∀ (h : Fin 8) (l : BitVec 40) (m : Medium) (k : Nat) (e : DirEntry) (s u : State), s.fatal = false → s.tx l.toNat = none →
    s.dirFind h.val l.toNat = some (k, e) → s.clearDead e ≠ e → (s.clearDead e).dstate = .s → (s.clearDead e).sharers ≠ 0 →
    u = s.setWay k (s.clearDead e) →
    exec (.reclaimWalk h l m) s = .next ((u.reclaimedOn h.val).foldl (fun v d => v.reclaimEnd d [h.val]) u)) ∧
  (∀ (d : BitVec 10) (s : State), (s.host d.toNat).dead = true → (s.host d.toNat).reclaiming ≠ [] →
    (s.host d.toNat).reclaiming.all (fun h => !s.reclaimsStill h d.toNat) = true → s.fatal = false →
    ∃ t, exec (.reclaimDone d) s = .next t ∧ (t.host d.toNat).reclaiming = [] ∧ (t.host d.toNat).dead = true ∧ t.dir = s.dir) ∧
  (∀ (h : Fin 8) (s : State), ∃ t, exec (.cohReclaimDoneClear h) s = .next t ∧ (t.cohHub h.val).reclaimDone = false ∧
    (t.cohHub h.val).poisoned = 0 ∧ t.dir = s.dir)

/-- Bulk reads and writes: of a wrong length refused as `ILLEGAL`, otherwise metered and performed; a write is kept until its last
byte has come (from R263, R264, R369, R370, R809). -/
def Obligations.BulkRequestsArePerformed : Prop :=
  (∀ (h : BitVec 10) (tag : BitVec 12) (a : BitVec 52) (n : BitVec 16) (media : List Medium) (s : State), s.hears h = true →
    s.fatal = false → 1 ≤ n.toNat → n.toNat ≤ 4096 → s.throttles h.toNat = false → (s.meterArrive h.toNat n.toNat).1 ≠ .red →
    (s.meterArrive h.toNat n.toNat).2.heldSpan h.toNat a.toNat n.toNat = false →
    exec (.bulkReadRequest h tag a n media) s = .next (((s.meterArrive h.toNat n.toNat).2.startHost
      (.bulkRead h tag a.toNat n.toNat) h.toNat a.toNat n.toNat false [] media).cohEnd (media.getD 0 .clean))) ∧
  (∀ (h : BitVec 10) (tag : BitVec 12) (a : BitVec 52) (n : BitVec 16) (media : List Medium) (s : State), s.hears h = true →
    s.fatal = false → (n.toNat = 0 ∨ 4096 < n.toNat) →
    exec (.bulkReadRequest h tag a n media) s = .next (s.bulkDone h tag a.toNat n.toNat .illegal (statusVec [.illegal]) false)) ∧
  (∀ (h : BitVec 10) (tag : BitVec 12) (a : BitVec 52) (n o : BitVec 16) (d : List Byte) (media : List Medium) (s : State),
    s.hears h = true → s.fatal = false → 1 ≤ n.toNat → n.toNat ≤ 4096 → s.throttles h.toNat = false →
    (s.meterArrive h.toNat n.toNat).1 ≠ .red → s.bulkFirst h tag o.toNat = true →
    exec (.bulkWriteData h tag a n o d media) s =
      .next ((s.meterArrive h.toNat n.toNat).2.bulkPacket h tag { addr := a.toNat, bytes := n.toNat } o.toNat d media)) ∧
  (∀ (h : BitVec 10) (tag : BitVec 12) (a : BitVec 52) (n o : BitVec 16) (d : List Byte) (media : List Medium) (x : BulkRx) (s : State),
    s.hears h = true → s.bulkFirst h tag o.toNat = false → s.bulkRx.get? (h.toNat * 4096 + tag.toNat) = some x →
    (d.zipIdx.foldl (fun (g : SMap Byte) e => if o.toNat + e.2 < x.bytes then g.set (o.toNat + e.2) e.1 else g) x.got).length < x.bytes →
    exec (.bulkWriteData h tag a n o d media) s = .next { s with
      bulkRx := s.bulkRx.set (h.toNat * 4096 + tag.toNat)
        { x with got := d.zipIdx.foldl (fun (g : SMap Byte) e => if o.toNat + e.2 < x.bytes then g.set (o.toNat + e.2) e.1 else g) x.got } })

/-! ### The Zorinka Link (R220–R301) -/

/-- A port that receives takes a sequenced cell as R233 says, discards and counts one with reserved fields, and hands what it
accepts to the fabric layer: a head opens a packet on its VC, a body extends it, a credit cell adds its credits (from R230,
R233–R236, R265–R275). -/
def Obligations.SequencedCellsAreTakenInOrder : Prop :=
  (∀ (p : Fin 32) (env : Envelope) (b : HeadBody) (d : BitVec 256) (n : BitVec 11) (i : Bool) (s u : State), s.receiving p = true →
    u = s.followWidth p env.width → ∀ c ∈ [Instr.head p env b, .body p env d, .credit p env n i],
    (env.reserved = true → exec c s = .next (u.protoErr p)) ∧
    (env.reserved = false → (s.port p).classify env.seq env.rpl = .discard → exec c s = .next u) ∧
    (env.reserved = false → (s.port p).classify env.seq env.rpl = .loss → exec c s = .next (u.lossEvent p))) ∧
  (∀ (p : Fin 32) (env : Envelope) (b : HeadBody) (d : BitVec 256) (n : BitVec 11) (i : Bool) (s u : State), s.receiving p = true →
    u = s.followWidth p env.width → env.reserved = false → (s.port p).classify env.seq env.rpl = .accept →
    exec (.head p env b) s = .next (((u.cellTaken p env).fabricHead p env.vc.toNat b).ackAt128 p) ∧
    exec (.body p env d) s = .next (((u.cellTaken p env).fabricBody p env.vc.toNat d).ackAt128 p) ∧
    exec (.credit p env n i) s = .next (((u.cellTaken p env).takeCreditCell p env.vc.toNat n.toNat i).ackAt128 p)) ∧
  (∀ (p : Nat) (w : BitVec 2) (s : State), (s.port p).rxNext = none → s.followWidth p w = s) ∧
  (∀ (p : Nat) (w : BitVec 2) (m : BitVec 8) (s : State), (s.port p).rxNext = some m →
    s.followWidth p w = if w = widthCode m then s.modPort p (fun q => { q with laneMask := m, rxNext := none }) else s) ∧
  (∀ (p v : Nat) (b : HeadBody) (u : State), v < 7 → (u.port p).windowMode = false → (u.port p).peerCredits.getD v 0 ≠ 0 →
    (u.port p).assembling.get? v = none → 0 < b.len.toNat → b.len.toNat ≤ 8 → b.lvc.toNat < 6 →
    (u.fabricHead p v b).port p = { u.port p with
      peerCredits := (u.port p).peerCredits.mod v 0 (· - 1), assembling := (u.port p).assembling.set v { head := b } }) ∧
  (∀ (p v : Nat) (d : BitVec 256) (a : Partial) (u : State), v < 7 → (u.port p).windowMode = false →
    (u.port p).peerCredits.getD v 0 ≠ 0 → (u.port p).assembling.get? v = some a → a.discarding = false →
    a.bodies.length + 1 ≠ a.head.len.toNat →
    (u.fabricBody p v d).port p = { u.port p with
      peerCredits := (u.port p).peerCredits.mod v 0 (· - 1),
      assembling := (u.port p).assembling.set v { a with bodies := a.bodies ++ [d] } }) ∧
  (∀ (p v n : Nat) (i : Bool) (u : State), v < 7 → (u.port p).windowMode = false →
    u.takeCreditCell p v n i = (u.modPort p (fun q => { q with
      credits := q.credits.set v (min 1024 ((if i then 0 else q.credits.getD v 0) + n)), creditSeen := true,
      initSeen := if i then q.initSeen ||| BitVec.ofNat 8 (2 ^ v) else q.initSeen,
      overflow := if 1024 < (if i then 0 else q.credits.getD v 0) + n then satAdd q.overflow 1 else q.overflow })).drainPort p) ∧
  (∀ (p v n : Nat) (i : Bool) (u : State), 7 ≤ v → u.takeCreditCell p v n i = u.framingErr p) ∧
  (∀ (p : Fin 32) (env : Envelope) (s : State), s.receiving p = true → env.reserved = false → env.seq = 0 →
    exec (.null p env) s = .next (s.followWidth p env.width)) ∧
  (∀ (p : Fin 32) (s : State), s.hearsCells p = true → ∃ t, exec (.reservedKindCell p) s = .next t ∧
    t.port p = { s.port p with proto := satAdd (s.port p).proto 1 } ∧ t.out = s.out)

/-- Cells as sent, loss events, acknowledgements, negative acknowledgements and keep-alives (from R224, R226, R229, R234–R240). -/
def Obligations.LinksAcknowledgeAndReplay : Prop :=
  (∀ c : Cell, c.wire.length = 40 ∧ crcPasses c.wire = true ∧ c.wire.drop 36 = leBytes 4 (crc32c (c.wire.take 36)).toNat) ∧
  (∀ (p : Fin 32) (s : State), s.receiving p = true → (s.port p).nakPending = false → s.sys.portsStopped = false →
    ∃ t, exec (.uncorrectableCodeword p) s = .next t ∧
      t.port p = { s.port p with uncorr := satAdd (s.port p).uncorr 1, nakPending := true } ∧
      t.out = s.out ++ [s.cellOn p (.nak (s.port p).eseq)]) ∧
  (∀ (p : Fin 32) (s : State), (s.port p).state = .handshake →
    exec (.uncorrectableCodeword p) s = .next (s.modPort p (fun q => { q with uncorr := satAdd q.uncorr 1 }))) ∧
  (∀ (p : Fin 32) (s : State), s.receiving p = true → (s.port p).nakPending = false → s.sys.portsStopped = false →
    ∃ t, exec (.cellCrcFailure p) s = .next t ∧ t.port p = { s.port p with nakPending := true } ∧
      t.out = s.out ++ [s.cellOn p (.nak (s.port p).eseq)]) ∧
  (∀ (p : Fin 32) (s : State), s.receiving p = true → (s.port p).nakPending = true → exec (.cellCrcFailure p) s = .next s) ∧
  (∀ (p : Fin 32) (env : Envelope) (a : BitVec 12) (l k : BitVec 8) (id : BitVec 32) (s : State), s.receiving p = true →
    env.reserved = false → env.seq = 0 →
    exec (.ack p env a) s = .next ((s.followWidth p env.width).ackUpTo p a) ∧
    exec (.keepalive p env a l k id) s = .next ((s.followWidth p env.width).ackUpTo p a)) ∧
  (∀ (p : Nat) (a : BitVec 12) (s : State), (s.port p).span a = none → s.ackUpTo p a = s.protoErr p) ∧
  (∀ (p d : Nat) (a : BitVec 12) (s : State), (s.port p).span a = some d → (s.port p).nakSeq = none →
    s.ackUpTo p a = (s.modPort p (fun q => { q with replay := q.replay.drop d, nakSeq := none })).drainPort p) ∧
  (∀ (p : Fin 32) (env : Envelope) (n : BitVec 12) (d : Nat) (s u : State), s.receiving p = true → env.reserved = false →
    env.seq = 0 → (s.port p).granted = none → (s.port p).span n = some d →
    u = ((((s.followWidth p env.width).modPort p (fun q => { q with
        replay := q.replay.drop d, nakRepeats := if q.nakSeq = some n then q.nakRepeats + 1 else 1,
        nakSeq := some n })).replayAll p).drainPort p) →
    exec (.nak p env n) s = .next (if 8 ≤ (u.port p).nakRepeats then u.wantRetrain p else u)) ∧
  (∀ (p : Fin 32) (env : Envelope) (n : BitVec 12) (s : State), s.receiving p = true → env.reserved = false → env.seq = 0 →
    (s.port p).granted = none → (s.port p).span n = none →
    exec (.nak p env n) s = .next ((s.followWidth p env.width).protoErr p)) ∧
  (∀ (p : Fin 32) (s : State), s.receiving p = true → (s.port p).nakPending = true → s.sys.portsStopped = false →
    exec (.nakResend p) s = .next { s with out := s.out ++ [s.cellOn p (.nak (s.port p).eseq)] }) ∧
  (∀ (p : Fin 32) (s : State), s.receiving p = true → 0 < (s.port p).unacked ∨ (s.port p).ackDue = true → s.sys.portsStopped = false →
    ∃ t, exec (.ackTimer p) s = .next t ∧ t.port p = { s.port p with unacked := 0, ackDue := false } ∧
      t.out = s.out ++ [s.cellOn p (.ack (s.port p).eseq)]) ∧
  (∀ (p : Fin 32) (s : State), s.receiving p = true → s.sys.portsStopped = false →
    ∃ t, exec (.keepaliveSend p) s = .next t ∧ t.port p = { s.port p with unacked := 0, ackDue := false } ∧
      t.out = s.out ++ [s.cellOn p (.keepalive (s.port p).eseq (s.port p).laneMask (s.port p).keepState (s.port p).trainId)])

/-- Training, requests and grants of width changes and retrains, and the switch (from R240–R253, R273–R275). The model's
choices: an end enters NAK-pending at its own switch (notes/assumptions/81.md), and the `MASK` of a grant is not looked at
(notes/assumptions/91.md). -/
def Obligations.LinksTrainAndChangeWidth : Prop :=
  (∀ (p : Fin 32) (s : State), (s.port p).state ≠ .disabled → (s.port p).fresh = false →
    ∃ u : State, exec (.linkDown p) s = .next (((u.losePort p).resendPeers (fun o => o.port == p.val)).chooseSource) ∧
      (u.port p).state = .down ∧ (u.port p).laneMask = 0 ∧ (u.port p).replay = [] ∧ (u.port p).waiting = [] ∧
      (u.port p).assembling = [] ∧ (u.port p).fresh = true ∧ u.out = s.out) ∧
  (∀ (p : Fin 32) (s : State), (s.port p).state = .down ∨ (s.port p).state = .disabled → s.portUsable p = true →
    exec (.trainingAttempt p) s = .next (s.modPort p (fun q => { q with state := .training }))) ∧
  (∀ (p : Fin 32) (s : State), (s.port p).state ∈ [.training, .align, .handshake, .retraining] →
    exec (.trainingTimeout p) s = .next (s.modPort p (fun q => { q with state := .down }))) ∧
  (∀ (p : Fin 32) (tx rx : BitVec 8) (s : State), (s.port p).state = .training ∨ (s.port p).state = .retraining →
    exec (.adaptationDone p tx rx) s = .next (s.modPort p (fun q => { q with state := .align, usableTx := tx, usableRx := rx }))) ∧
  (∀ (p : Fin 32) (s : State), (s.port p).state = .align → s.sys.portsStopped = false →
    ∃ t, exec (.alignDone p) s = .next t ∧ t.port p = { s.port p with state := .handshake } ∧
      t.out = s.out ++ [s.cellOn p
        (.train (s.port p).trainId (s.port p).usableTx (s.port p).usableRx (BitVec.ofNat 8 (s.lanesMin p)))]) ∧
  (∀ (p : Fin 32) (env : Envelope) (tx rx least : BitVec 8) (s : State), (s.port p).state = .handshake → env.reserved = false →
    env.seq = 0 → ∃ t, exec (.train p env (s.port p).trainId tx rx least) s = .next t ∧ t.freeCtr = s.freeCtr + 1 ∧
      t.port p = { (s.followWidth p env.width).port p with trainId := BitVec.ofNat 32 (Config.free .trainId s.freeCtr) }) ∧
  (∀ (p : Fin 32) (env : Envelope) (id : BitVec 32) (tx rx least mr mt : BitVec 8) (s : State), (s.port p).state = .handshake →
    env.reserved = false → env.seq = 0 → id ≠ (s.port p).trainId → bestMask ((s.port p).usableRx &&& tx) = some mr →
    bestMask ((s.port p).usableTx &&& rx) = some mt →
    exec (.train p env id tx rx least) s = .next (
      if laneCount mr < max (s.lanesMin p) least.toNat ∨ laneCount mt < max (s.lanesMin p) least.toNat then
        (s.followWidth p env.width).modPort p (fun q => { q with state := .down })
      else (s.followWidth p env.width).linkUp p mr mt)) ∧
  (∀ (p : Fin 32) (env : Envelope) (m : BitVec 8) (id : BitVec 32) (r : LinkReq) (s : State), s.receiving p = true →
    env.reserved = false → env.seq = 0 → (s.port p).granted = none → (s.port p).request = some r →
    exec (.retrain p env 3 m id) s = .next ((s.followWidth p env.width).modPort p (fun q => { q.grant r with request := none }))) ∧
  (∀ (p : Fin 32) (env : Envelope) (m : BitVec 8) (id : BitVec 32) (s : State), s.receiving p = true →
    env.reserved = false → env.seq = 0 → (s.port p).granted = none → (s.port p).request = none → s.sys.portsStopped = false →
    ∃ t, exec (.retrain p env 2 m id) s = .next t ∧
      t.port p = { (s.followWidth p env.width).port p with granted := some .retrain } ∧
      t.out = s.out ++ [s.cellOn p (.retrain 3 0xFF (s.port p).trainId)]) ∧
  (∀ (p : Fin 32) (env : Envelope) (m : BitVec 8) (id : BitVec 32) (s : State), s.receiving p = true →
    env.reserved = false → env.seq = 0 → (s.port p).granted = none → (s.port p).request = none → m ∈ legalMasks →
    s.lanesMin p ≤ laneCount m → m ≠ (s.port p).txMask → laneCount m < laneCount (s.port p).txMask →
    exec (.retrain p env 1 m id) s = .next ((s.followWidth p env.width).sendGrant p (.width m))) ∧
  (∀ (p : Fin 32) (r : LinkReq) (s : State), (s.port p).state = .up → (s.port p).request = some r →
    exec (.retrainRequestRepeat p) s = .next (s.sendRequest p r)) ∧
  (∀ (p : Fin 32) (m : BitVec 8) (s u : State), (s.port p).granted = some (.width m) →
    u = (s.modPort p (fun q => { q with
      state := .up, txMask := m, granted := none, request := none, nakPending := true,
      timerStopped := false, echoFloor := s.clk.poolTime })).replayAll p →
    ((u.port p).initDue = false → exec (.widthSwitch p) s = .next ((u.drainPort p).checkWidth p)) ∧
    ((u.port p).initDue = true → exec (.widthSwitch p) s = .next (((u.sendInit p).drainPort p).checkWidth p))) ∧
  (∀ (p : Nat) (s : State),
    (s.lanesMin p ≤ laneCount (s.port p).laneMask → s.lanesMin p ≤ laneCount (s.port p).txMask → s.checkWidth p = s) ∧
    (laneCount (s.port p).laneMask < s.lanesMin p ∨ laneCount (s.port p).txMask < s.lanesMin p →
      s.checkWidth p = s.wantRetrain p)) ∧
  (∀ (p : Fin 32) (s : State), (s.port p).granted = some .retrain →
    exec (.widthSwitch p) s = .next ((s.modPort p (fun q => { q with
      state := .retraining, laneMask := 0, granted := none, request := none, rxNext := none, timerStopped := true })).chooseSource)) ∧
  (∀ (p : Fin 32) (l : List Nat) (s : State), s.receiving p = true → (s.port p).badLanes l = 0 →
    exec (.laneErrorInterval p l) s = .next (s.bump (p / 4) 8 0x83 (p % 4) (l.take 8).sum)) ∧
  (∀ (p : Fin 32) (l : List Nat) (m : BitVec 8) (s : State), s.receiving p = true → (s.port p).badLanes l ≠ 0 →
    bestMask ((s.port p).laneMask &&& ~~~((s.port p).badLanes l)) = some m → s.lanesMin p ≤ laneCount m →
    exec (.laneErrorInterval p l) s = .next ((s.bump (p / 4) 8 0x83 (p % 4) (l.take 8).sum).request p (.width m))) ∧
  (∀ (p : Fin 32) (s : State), s.receiving p = true →
    exec (.silenceTraining p false) s = .next ((s.modPort p (fun q => { q with
      state := .training, laneMask := 0, request := none, granted := none, rxNext := none, timerStopped := false })).chooseSource) ∧
    exec (.silenceTraining p true) s = .next ((s.modPort p (fun q => { q with
      state := .retraining, laneMask := 0, granted := none, request := none, rxNext := none, timerStopped := true })).chooseSource)) ∧
  (∀ (p : Fin 32) (s : State), (s.port p).state = .up → (s.port p).request = none → (s.port p).granted = none →
    s.sys.portsStopped = false →
    ∃ t, exec (.zlRetrainCmd p) s = .next t ∧ t.port p = { s.port p with request := some .retrain } ∧
      t.out = s.out ++ [s.cellOn p (.retrain 2 0 (s.port p).trainId)]) ∧
  (∀ (p : Fin 32) (m : BitVec 8) (s : State), (s.port p).state = .up → (s.port p).request = none → (s.port p).granted = none →
    s.sys.portsStopped = false → m ∈ legalMasks → s.lanesMin p ≤ laneCount m → laneCount m < laneCount (s.port p).laneMask →
    ∃ t, exec (.zlNarrowCmd p m) s = .next t ∧ t.port p = { s.port p with narrowMask := m, request := some (.width m) } ∧
      t.out = s.out ++ [s.cellOn p (.retrain 1 m (s.port p).trainId)]) ∧
  (∀ (p : Fin 32) (s : State), (s.port p).state = .up →
    exec (.creditReturnTimer p) s = .next ((List.range 7).foldl (fun s v => s.returnCredits p v) s)) ∧
  (∀ (p : Fin 32) (s : State), s.receiving p = true → s.fcMode p = 0 → (s.port p).initOpen = true →
    (s.port p).creditSeen = false → (s.port p).fallback = false →
    exec (.creditFallback p) s = .next ((s.modPort p (fun q => { q with
      windowMode := true, fallback := true, initOpen := false })).drainPort p)) ∧
  (∀ (p : Fin 32) (s : State), s.receiving p = true → s.fcMode p = 0 → (s.port p).initOpen = true →
    (s.port p).creditSeen = true ∨ (s.port p).fallback = true →
    exec (.creditFallback p) s = .next (s.modPort p (fun q => { q with initOpen := false })))

/-- Transport acknowledgements and timers, paths and their probes, the holding of traffic, and beacons sent (from R206, R278–R292,
R298, R299). -/
def Obligations.TransportAndPathsRun : Prop :=
  (∀ (h : BitVec 12) (v : BitVec 8) (cum : BitVec 24) (s : State), v.toNat < 6 → isEndpoint h.toNat = true →
    (s.host h.toNat).dead = false →
    ∃ u : State, exec (.transportAck h v cum 0) s = .next (u.drainHost h.toNat) ∧ u.out = s.out ∧
      (u.flow h.toNat v.toNat).out = (s.flow h.toNat v.toNat).out.filter (fun o => !before24 o.pkt.tseq cum)) ∧
  (∀ (h : BitVec 12) (v : BitVec 8) (cum : BitVec 24) (sack : BitVec 64) (s : State), 6 ≤ v.toNat →
    exec (.transportAck h v cum sack) s = .next s) ∧
  (∀ (h : BitVec 12) (v : Fin 6) (s : State), 0 < (s.flow h.toNat v.val).ackOwed → (s.host h.toNat).dead = false →
    exec (.transportAckTimer h v) s = .next (s.sendTack h.toNat v.val)) ∧
  (∀ (h : BitVec 12) (v : Fin 6) (n : BitVec 24) (s : State), (s.flow h.toNat v.val).out.any (fun o => o.pkt.tseq == n) = true →
    (s.host h.toNat).dead = false → s.holding = false →
    exec (.rtoExpiry h v n) s =
      .next ((s.modFlow h.toNat v.val (fun f => { f with rto := min 1000000 (2 * f.rto) })).resend h.toNat v.val n)) ∧
  (∀ (h : BitVec 10) (b busy : Bool) (s : State), s.route h.toNat b < 32 → s.receiving (s.route h.toNat b) = true →
    (s.host h.toNat).dead = false → ((s.host h.toNat).path b).unanswered < 3 →
    busy = (List.range 6).any (fun v => (s.flow h.toNat v).out.any (fun o => o.port == s.route h.toNat b)) →
    exec (.pathProbeSend h b) s = .next ((s.modHost h.toNat (fun y => y.setPath b (fun x =>
      { x with probe := x.probe + 1, unanswered := if busy then x.unanswered + 1 else 0 }))).sendProbe h.toNat (s.route h.toNat b) false
        (((s.host h.toNat).path b).probe + 1))) ∧
  (∀ (h : BitVec 10) (b : Bool) (v : Fin 6) (s : State), s.route h.toNat b < 32 → s.receiving (s.route h.toNat b) = true →
    (s.host h.toNat).dead = false → 3 ≤ ((s.host h.toNat).path b).unanswered → ((s.host h.toNat).path b).lost = false →
    s.holding = false → (s.flow h.toNat v.val).out.any (fun o => o.port == s.route h.toNat b) = true →
    exec (.pathProbeSend h b) s = .next (s.losePath h.toNat b)) ∧
  (∀ (p : Fin 32) (h : BitVec 10) (n : BitVec 32) (s : State), s.receiving p = true → s.role p ≠ 2 → (s.host h.toNat).dead = false →
    exec (.pathProbe p h 1 n) s = .next (s.sendProbe h.toNat p true n)) ∧
  (∀ (p : Fin 32) (h : BitVec 10) (n : BitVec 32) (x : PathSt) (s : State), s.receiving p = true → s.role p ≠ 2 →
    (s.host h.toNat).dead = false → s.route h.toNat false = p.val → s.route h.toNat true ≠ p.val → x = (s.host h.toNat).primary →
    0 < (n - x.since).toNat → (n - x.since).toNat ≤ (x.probe - x.since).toNat → (s.host h.toNat).allLost = false →
    ∃ t, exec (.pathProbe p h 2 n) s = .next t ∧
      (t.host h.toNat).primary = { x with probed := true, lost := false, unanswered := min x.unanswered (x.probe - n).toNat }) ∧
  (∀ (p : Fin 32) (s : State), s.receiving p = false → exec (.pathHoldExpiry p) s = .next (s.losePort p)) ∧
  (∀ (h : Nat) (s : State), s.holding = false → (s.host h).onSecondary = false →
    32 ≤ s.route h true ∨ (s.host h).secondary.lost = true →
    ∃ u : State, s.losePath h false = u ∧ (u.host h).primary.lost = true ∧ (u.host h).allLost = true) ∧
  (∀ (h : Nat) (s : State), s.holding = false → (s.host h).onSecondary = false → s.route h true < 32 →
    (s.host h).secondary.lost = false →
    ∃ u : State, s.losePath h false = u.resendAll h (fun o => o.port == s.route h false) ∧ (u.host h).primary.lost = true ∧
      (u.host h).onSecondary = true ∧ u.out = s.out) ∧
  (∀ (h : BitVec 10) (s : State), (s.host h.toNat).onSecondary = true → s.pathUp h.toNat false = true → s.holding = false →
    exec (.primaryReturn h) s =
      .next ((s.modHost h.toNat (fun x => { x with onSecondary := false, allLost := false })).drainHost h.toNat)) ∧
  (∀ (a : Bool) (r : BitVec 2) (n : BitVec 10) (s : State), ∃ t, exec (.zlfHold a r n) s = .next t ∧ t.zlg = { s.zlg with
    hold := a, holdReason := if r = 3 then 0 else r, pathHoldUs := BitVec.ofNat 10 (clampNat n.toNat 5 1000) }) ∧
  (∀ s : State, exec .idLockSet s = .next { s with zlg := { s.zlg with idLock := true } }) ∧
  (∀ (p : Fin 32) (s : State), (s.port p).state = .up → s.sys.portsStopped = false →
    ∃ d : BitVec 32, exec (.beaconSend p) s = .next { s with out := s.out ++
      [s.cellOn p (.beacon s.clk.poolTime (s.port p).peerTx d s.zlg.stratum s.zlg.locked)] } ∧
      d = (if (s.port p).peerTx = 0 then 0 else (s.clk.poolTime - (s.port p).peerAt).setWidth 32))

/-! ### Single rules, whole -/

/-- R293: what a receiver makes of a beacon: of one whose `ECHO_TIME` is not 0 and not older than the link's last width change or
retrain, the one-way delay and the offset; of any other, nothing. -/
def Obligations.BeaconsAreMeasured : Prop :=
  ∀ (p : Fin 32) (env : Envelope) (tx echo : BitVec 64) (d : BitVec 32) (st : BitVec 4) (s : State), s.receiving p = true →
    env.reserved = false → env.seq = 0 →
    ∃ t, exec (.beacon p env tx echo d st) s = .next t ∧
      (echo ≠ 0 → (s.port p).echoFloor ≤ echo → ∃ delay offset : Int,
        delay = (((s.clk.poolTime.toNat : Int) - echo.toNat) - d.toNat) / 2 ∧
        offset = ((tx.toNat : Int) + delay) - s.clk.poolTime.toNat ∧
        (t.port p).offsets.getLast? = some ⟨s.clk.now, offset⟩) ∧
      (echo = 0 ∨ echo < (s.port p).echoFloor → (t.port p).offsets = (s.port p).offsets ∧ t.clk = s.clk)

/-! ### Ethernet, RoCEv2 and KMP (R302–R335, R339, R350, R370) -/

/-- Links, addresses, discards and priority flow control of the Ethernet ports (from R302–R310, R339, R341, R343). The class of a reply is
that of its request (the model's choice, notes/assumptions/70.md). -/
def Obligations.EthernetPortsAnswer : Prop :=
  (∀ (e : Bool) (s : State), s.ethTrains e = true → s.ethSpeed e = 1 ∨ s.ethSpeed e = 2 →
    ∃ t, exec (.ethLinkUp e) s = .next t ∧ (t.ethPort e).linkUp = true ∧ (t.ethPort e).speedAct = BitVec.ofNat 2 (s.ethSpeed e) ∧
      t.qps = s.qps) ∧
  (∀ (e : Bool) (s : State), ∃ t, exec (.ethLinkDown e) s = .next t ∧ (t.ethPort e).linkUp = false ∧ (t.ethPort e).paused = 0 ∧
    t.qps = s.qps) ∧
  (∀ (e : Bool) (f : EthFrame) (m : BitVec 48) (a : BitVec 32) (ip : BitVec 128) (d : List Byte) (x : DhcpMsg) (n : BitVec 8)
    (q : List (BitVec 16)) (y : PtpFrame) (s : State), s.ethUp e = true →
    ∀ c ∈ [Instr.arpRequest e f m a, .neighbourSolicitation e f m ip, .echoRequest e f m ip d, .dhcpMessage e f m x, .pfcFrame e f n q,
      .discardedFrame e f, .ptpMessage e f n y],
    (f.damaged = true → exec c s = .next (s.modEth e (fun p => { p with fcs := satAdd p.fcs 1 }))) ∧
    (f.damaged = false → f.accepted = false → exec c s = .next (s.modEth e (fun p => { p with dropped := satAdd p.dropped 1 })))) ∧
  (∀ (e : Bool) (f : EthFrame) (m : BitVec 48) (a : BitVec 32) (ip : BitVec 128) (d : List Byte) (x : DhcpMsg) (n : BitVec 8)
    (y : PtpFrame) (s : State), s.ethUp e = true → f.damaged = false → f.accepted = true → s.noRoom e f = true →
    ∀ c ∈ [Instr.arpRequest e f m a, .neighbourSolicitation e f m ip, .echoRequest e f m ip d, .dhcpMessage e f m x,
      .discardedFrame e f, .ptpMessage e f n y],
    exec c s = .next (s.modEth e (fun p => { p with dropped := satAdd p.dropped 1 }))) ∧
  (∀ (e : Bool) (f : TxFrame) (x : EthMsg) (s : State), s.ethUp e = true → s.classPaused e f.cls.toNat = true →
    s.sendFrame e f x = s.modEth e (fun p => { p with txWait := p.txWait ++ [(f, x)] })) ∧
  (∀ (e : Bool) (f : EthFrame) (m : BitVec 48) (a : BitVec 32) (s : State), s.ethUp e = true → f.damaged = false → f.accepted = true →
    s.noRoom e f = false → s.classPaused e f.cls.toNat = false → (s.ethPort e).ipv4 = some a →
    exec (.arpRequest e f m a) s = .next { s with
      out := s.out ++ [.eth (b2n e) { mac := m, cls := f.cls, vlan := f.vlan } (.arpReply (mapped4 a))] }) ∧
  (∀ (e : Bool) (f : EthFrame) (m : BitVec 48) (s : State), s.ethUp e = true → f.damaged = false → f.accepted = true →
    s.noRoom e f = false → s.classPaused e f.cls.toNat = false →
    exec (.neighbourSolicitation e f m (linkLocal (s.mac e))) s = .next { s with
      out := s.out ++ [.eth (b2n e) { mac := m, cls := f.cls, vlan := f.vlan } (.arpReply (linkLocal (s.mac e)))] }) ∧
  (∀ (e : Bool) (f : EthFrame) (m : BitVec 48) (a : BitVec 128) (d : List Byte) (s : State), s.ethUp e = true → f.damaged = false →
    f.accepted = true → s.noRoom e f = false → s.classPaused e f.cls.toNat = false → s.ownIp e a = true →
    exec (.echoRequest e f m a d) s = .next { s with
      out := s.out ++ [.eth (b2n e) { mac := m, cls := f.cls, vlan := f.vlan } (.echoReply (a == linkLocal (s.mac e)) d)] }) ∧
  (∀ (e : Bool) (f : EthFrame) (m : BitVec 48) (s : State), s.ethUp e = true → f.damaged = false → f.accepted = true →
    s.noRoom e f = false → (s.ethPort e).isStatic = false →
    ((s.ethPort e).lease = none → exec (.dhcpMessage e f m .offer) s =
      .next (s.sendFrame e { mac := 0xFFFFFFFFFFFF, cls := BitVec.ofNat 3 (s.kmpTc e) } (.dhcp true))) ∧
    (∀ a n : BitVec 32, exec (.dhcpMessage e f m (.ack a n)) s = .next (s.modEth e (fun p => { p with
      lease := some a, leaseAt := s.clk.now, leaseSecs := n.toNat, leaseFrom := m, renewals := 0 }))) ∧
    exec (.dhcpMessage e f m .nak) s = .next ((s.modEth e (fun p => { p with lease := none })).sendFrame e
      { mac := 0xFFFFFFFFFFFF, cls := BitVec.ofNat 3 (s.kmpTc e) } (.dhcp false))) ∧
  (∀ (e : Bool) (f : EthFrame) (s : State), s.ethUp e = true → f.damaged = false → f.accepted = true →
    s.noRoom e f = false → exec (.discardedFrame e f) s = .next s) ∧
  (∀ (e : Bool) (f : EthFrame) (c : Fin 8) (q : List (BitVec 16)) (s : State), s.ethUp e = true → f.damaged = false →
    f.accepted = true → (s.pfcMask e).getLsbD c.val = true →
    exec (.pfcFrame e f (BitVec.ofNat 8 (2 ^ c.val)) q) s = .next (
      if (q.getD c.val 0).toNat = 0 then s.resumeClass e c.val
      else s.pauseClass e c.val (s.clk.now + (s.ethPort e).quantaNs (q.getD c.val 0).toNat))) ∧
  (∀ (e : Bool) (c till : Nat) (s : State), ((s.pauseClass e c till).ethPort e).paused =
      (s.ethPort e).paused ||| BitVec.ofNat 8 (2 ^ c) ∧
    ((s.resumeClass e c).ethPort e).paused = (s.ethPort e).paused &&& ~~~(BitVec.ofNat 8 (2 ^ c))) ∧
  (∀ (e : Bool) (c : Fin 8) (s : State), (s.ethPort e).paused.getLsbD c.val = true →
    (s.ethPort e).pauseUntil.getD c.val 0 ≤ s.clk.now → exec (.pfcPauseExpiry e c) s = .next (s.resumeClass e c.val)) ∧
  (∀ (e : Bool) (c : Fin 8) (s : State), (s.ethPort e).paused.getLsbD c.val = true →
    (s.ethPort e).pauseSince.getD c.val s.clk.now + (s.ethPort e).limitMs.toNat * 1000000 ≤ s.clk.now →
    ∃ t, exec (.pfcWatchdog e c) s = .next t ∧ (t.ethPort e).trips = satAdd (s.ethPort e).trips 1 ∧
      (t.ethPort e).ignoreUntil = (s.ethPort e).ignoreUntil.set c.val (s.clk.now + (s.ethPort e).limitMs.toNat * 1000000)) ∧
  (∀ (e : Bool) (c : Fin 8) (n : Nat) (s : State), s.ethUp e = true → (s.pfcMask e).getLsbD c.val = true → 393216 ≤ n →
    ∃ t, exec (.pfcRepeat e c n) s = .next t ∧ (t.ethPort e).pausing = (s.ethPort e).pausing ||| BitVec.ofNat 8 (2 ^ c.val) ∧
      (t.ethPort e).occupancy = (s.ethPort e).occupancy.set c.val (min 524288 n) ∧
      t.out = s.out ++ [.pfc (b2n e) c.val 0xFFFF]) ∧
  (∀ (e : Bool) (c : Fin 8) (n : Nat) (s : State), s.ethUp e = true → (s.pfcMask e).getLsbD c.val = true →
    (s.ethPort e).pausing.getLsbD c.val = true → n < 262144 →
    ∃ t, exec (.pfcRepeat e c n) s = .next t ∧
      (t.ethPort e).pausing = (s.ethPort e).pausing &&& ~~~(BitVec.ofNat 8 (2 ^ c.val)) ∧ t.out = s.out ++ [.pfc (b2n e) c.val 0])

/-- RoCEv2: what reaches a queue pair is served there, and what R314 rejects changes nothing but its count (from R311–R320, R350).
-/
def Obligations.QueuePairsServeTheirPackets : Prop :=
  (∀ (h : RoceHdr) (part : RocePart) (d : List Byte) (l : List Medium) (y : RoceSyn) (r : RoceReq) (s : State), (s.roceIn h).1 = none →
    ∀ c ∈ [Instr.send h part d, .rdmaReadResponse h d l, .rdmaAcknowledge h y, .rdmaRequestToPart h r, .cnp h],
      exec c s = .next (s.roceIn h).2) ∧
  (∀ (h : RoceHdr) (part : RocePart) (d : List Byte) (q : Nat) (x : Qp) (c : Colour) (s u : State), s.roceIn h = (some (q, x, c), u) →
    (u.hub (q / 2048)).phase = .none →
    (h.psn = x.expectPsn → exec (.send h part d) s = .next (u.sendPart q x h part d c)) ∧
    (psnBefore h.psn x.expectPsn = true → exec (.send h part d) s = .next (u.roceAnswer x (x.expectPsn - 1) .ack)) ∧
    (psnBefore h.psn x.expectPsn = false → h.psn ≠ x.expectPsn →
      exec (.send h part d) s = .next (u.roceAnswer x x.expectPsn .nakSequence))) ∧
  (∀ (h : RoceHdr) (d : List Byte) (q : Nat) (x : Qp) (c : Colour) (u : State), u.ethCrypt = false → u.qps.get? q = some x →
    x.rx = [] → 1 ≤ d.length → d.length ≤ x.mtu → d.length % 64 = 0 → u.sendHeld q h.port = false →
    (u.queue q).ring.length + slotsFor ((sendEntries d).map (fun e => (e, c))) ≤ 64 →
    u.sendPart q x h .only d c = (((sendEntries d).map (fun e => (e, c))).foldl (fun s e => s.takeEntry q e.1 e.2)
      (u.modQp q (fun x => { x with expectPsn := x.expectPsn + 1, rx := [] }))).roceAnswer x h.psn .ack) ∧
  (∀ (h : RoceHdr) (d : List Byte) (q : Nat) (x : Qp) (c : Colour) (u : State), u.ethCrypt = false →
    x.rx = [] → 1 ≤ d.length → d.length ≤ x.mtu → d.length % 64 = 0 →
    u.sendHeld q h.port = true ∨ 64 < (u.queue q).ring.length + slotsFor ((sendEntries d).map (fun e => (e, c))) →
    u.sendPart q x h .only d c = u.roceAnswer x h.psn (.rnrNak 1)) ∧
  (∀ (h : RoceHdr) (q : Nat) (x : Qp) (c : Colour) (s u : State), s.roceIn h = (some (q, x, c), u) →
    exec (.rdmaAcknowledge h .ack) s = .next (u.roceAcked q h.psn) ∧
    exec (.rdmaAcknowledge h .nakSequence) s = .next ((u.roceAcked q (h.psn - 1)).retransmit q h.psn) ∧
    (∀ n : BitVec 5, exec (.rdmaAcknowledge h (.rnrNak n)) s = .next ((u.roceAcked q (h.psn - 1)).goBack q h.psn)) ∧
    exec (.rdmaAcknowledge h .nakInvalid) s = .next (u.modQp q (fun x => { x with error := true })) ∧
    exec (.rdmaAcknowledge h .nakAccess) s = .next (u.modQp q (fun x => { x with error := true }))) ∧
  (∀ (h : RoceHdr) (q : Nat) (x : Qp) (c : Colour) (s u : State), s.roceIn h = (some (q, x, c), u) →
    exec (.rdmaRequestToPart h .write) s = .next (u.roceAnswer x h.psn .nakAccess) ∧
    exec (.rdmaRequestToPart h .read) s = .next (u.roceAnswer x h.psn .nakAccess) ∧
    exec (.rdmaRequestToPart h .other) s = .next (u.roceAnswer x h.psn .nakInvalid)) ∧
  (∀ (h : RoceHdr) (q : Nat) (x : Qp) (c : Colour) (s u : State), s.roceIn h = (some (q, x, c), u) → u.qps.get? q = some x →
    x.lastCut = none →
    exec (.cnp h) s = .next { u with
      qps := u.qps.set q { x with rate := max 1000000000 (x.rate * 7 / 8), lastCut := some u.clk.now } }) ∧
  (∀ (q : BitVec 14) (x : Qp) (s : State), s.qps.get? q.toNat = some x →
    exec (.rateIncrease q) s = .next { s with
      qps := s.qps.set q.toNat { x with rate := min (x.rate + 5000000000) (s.ethPort (x.params.port == 1)).lineRate } }) ∧
  (∀ (h : RoceHdr) (d : List Byte) (l : List Medium) (q n : Nat) (x y : Qp) (o : RoceOut) (va : BitVec 64) (k : BitVec 32) (c : Colour)
    (s u : State), s.roceIn h = (some (q, x, c), u) →
    (u.roceAcked q (h.psn - 1)).qps.get? q = some y → y.out.find? (fun o => !o.isWrite) = some o → o.op = .read va k n →
    h.psn = o.next y.mtu → d.length = min y.mtu (n - o.got.length) → (o.got ++ d).length < n →
    exec (.rdmaReadResponse h d l) s = .next ((u.roceAcked q (h.psn - 1)).modQp q (fun x => { x with
      retries := 0, out := x.out.map (fun y => if y.psn = o.psn then { y with got := o.got ++ d } else y) }))) ∧
  (∀ (h : RoceHdr) (d : List Byte) (l : List Medium) (q n id : Nat) (x y : Qp) (o : RoceOut) (va : BitVec 64) (k : BitVec 32) (c : Colour)
    (s u : State), s.roceIn h = (some (q, x, c), u) →
    (u.roceAcked q (h.psn - 1)).qps.get? q = some y → y.out.find? (fun o => !o.isWrite) = some o → o.op = .read va k n →
    h.psn = o.next y.mtu → d.length = min y.mtu (n - o.got.length) → (o.got ++ d).length = n → o.access = some id →
    exec (.rdmaReadResponse h d l) s = .next (((u.roceAcked q (h.psn - 1)).modQp q (fun x => { x with
      retries := 0, out := x.out.filter (fun y => y.psn != o.psn) })).fetched q id (o.got ++ d) l)) ∧
  (∀ (q : BitVec 14) (x : Qp) (n : BitVec 24) (s : State), s.qps.get? q.toNat = some x → x.oldest = some n → x.error = false →
    s.sys.portsStopped = false → x.params.retry.toNat ≤ x.retries →
    exec (.ackTimeout q) s = .next { s with qps := s.qps.set q.toNat { x with error := true } }) ∧
  (∀ (q : BitVec 14) (x : Qp) (n : BitVec 24) (s : State), s.qps.get? q.toNat = some x → x.oldest = some n → x.error = false →
    s.sys.portsStopped = false → x.retries < x.params.retry.toNat →
    exec (.ackTimeout q) s = .next ((s.modQp q.toNat (fun x => { x with retries := x.retries + 1 })).goBack q.toNat n))

/-- KMP's own messages, the connection of queue pairs, and PTP (from R317, R325–R335, R349, R678, R682, R716). -/
def Obligations.ManagementMessagesAreServed : Prop :=
  (∀ (hdr : KmpHdr) (s u : State), hdr.sessionId = 0 → (s.kmpArrive hdr).1 = some u → kmpKnown hdr.type = true → hdr.protected_ = false →
    kmpHdrOk hdr = true → hdr.bodyLen = 0 → u.fatal = false → u.ethQuiesced hdr.port = false →
    exec (.discover hdr) s = .next (u.kmpSend none hdr 1 { status := 0, body := u.discoverBody })) ∧
  (∀ (hdr : KmpHdr) (k : Nat) (x : KmpSession) (s v : State), KmpServed s hdr k x v → hdr.sessionId ≠ 0 → hdr.bodyLen = 0 →
    exec (.discover hdr) s = .next (v.replied k x hdr 1 { status := 0, body := v.discoverBody })) ∧
  (∀ (hdr : KmpHdr) (p : QpParams) (k : Nat) (x : KmpSession) (s v : State), KmpServed s hdr k x v →
    (x.auth = .tenant ∨ (v.sealed = false ∧ v.isOperator x = true)) → v.ten.state = .open_ → (p.port == 1) = hdr.port →
    v.qpFieldsOk p false = true →
    exec (.qpConnect hdr p false) s = .next ((v.connect k x.secret p).2.replied k x hdr 7
      { status := 0, body := .qp (BitVec.ofNat 24 (0x10000 + p.queue.toNat)) (v.connect k x.secret p).1 0 })) ∧
  (∀ (hdr : KmpHdr) (p : QpParams) (r : Bool) (k : Nat) (x : KmpSession) (s v : State), KmpServed s hdr k x v → v.ten.state ≠ .open_ →
    exec (.qpConnect hdr p r) s = .next (v.replied k x hdr 7 { status := 3 })) ∧
  (∀ (hdr : KmpHdr) (k : Nat) (x : KmpSession) (s u : State), (s.kmpArrive hdr).1 = some u → u.sessionOf hdr.sessionId = some k →
    u.session k = some x → x.opens hdr = true → x.port = hdr.port → kmpHdrOk hdr = true → kmpKnown hdr.type = true →
    exec (.eventAck hdr) s =
      .next ((u.noteMgmt x).modSession k (fun y => { y with events := y.events.filter (fun e => e.1 != hdr.msgSeq) }))) ∧
  (∀ (k : Fin 32) (n : BitVec 32) (i : Nat) (x : KmpSession) (m : KmpMsg) (s : State), s.session k.val = some x →
    x.events.find? (fun e => e.1 == n) = some (n, m, i) → i < 64 →
    exec (.eventRetransmit k n) s = .next ((s.modSession k (fun y => { y with
      events := y.events.map (fun e => if e.1 = n then (e.1, e.2.1, i + 1) else e) })).sendFrame x.port (s.sessionFrame x) (.kmp m))) ∧
  (∀ (k : Fin 32) (n : BitVec 32) (i : Nat) (x : KmpSession) (m : KmpMsg) (s : State), s.session k.val = some x →
    x.events.find? (fun e => e.1 == n) = some (n, m, i) → 64 ≤ i →
    exec (.eventRetransmit k n) s =
      .next (s.modSession k (fun y => { y with events := y.events.filter (fun e => e.1 != n) }))) ∧
  (∀ (hdr : KmpHdr) (k : Nat) (x : KmpSession) (s v : State), KmpServed s hdr k x v → hdr.bodyLen = 0 →
    exec (.kmpKeepalive hdr) s = .next (v.replied k x hdr 0x0A { status := 0 }) ∧
    exec (.end_ hdr) s = .next ((v.endSession k).replied k x hdr 0x0B { status := 0 })) ∧
  (∀ (k : Fin 32) (x : KmpSession) (s : State), s.session k.val = some x → s.spRestarting = false →
    ∃ t, exec (.sessionTimeout k) s = .next t ∧ t.kmp = s.kmp.erase k.val ∧
      (ownedBy s.si.stage k.val x.sid = true → s.si.state = .staging → t.si.state = .idle ∧ t.si.stage = none)) ∧
  (∀ (e : Bool) (f : EthFrame) (d : BitVec 8) (y : PtpFrame) (s : State), s.ethUp e = true → f.damaged = false → f.accepted = true →
    s.noRoom e f = false → s.ethg.ptpEn = true → s.ethg.ptpPort = e → s.ethg.ptpDomain = d →
    (∀ (r : BitVec 128) (n : Fin 8), y.msg = .announce r n → exec (.ptpMessage e f d y) s = .next (s.ptpAnnounce y.source r n)) ∧
    (s.ptpBest.map (·.source) = some y.source →
      (∀ (t1 : BitVec 64) (c : Int), y.msg = .sync (some t1) c → s.classPaused e Config.ptpClass.toNat = false →
        ∃ t, exec (.ptpMessage e f d y) s = .next t ∧ t.ethg.ptpT1 = some t1 ∧ t.ethg.ptpT2 = s.clk.poolTime ∧
          t.ethg.ptpT3 = s.clk.poolTime ∧ t.ethg.ptpCorr = c ∧
          t.out = s.out ++ [.eth (b2n e) { mac := ptpGroup y.via, cls := Config.ptpClass }
            (.ptpDelayReq y.via s.ethg.ptpReq s.clk.poolTime)]) ∧
      (∀ c : Int, y.msg = .sync none c →
        ∃ t, exec (.ptpMessage e f d y) s = .next t ∧ t.ethg.ptpSync = some y.seq ∧ t.ethg.ptpT2 = s.clk.poolTime ∧ t.out = s.out) ∧
      (∀ (t1 : BitVec 64) (c : Int), y.msg = .followUp t1 c → s.ethg.ptpSync = some y.seq →
        ∃ t, exec (.ptpMessage e f d y) s = .next t ∧ t.ethg.ptpT1 = some t1 ∧ t.ethg.ptpT3 = s.clk.poolTime ∧
          t.ethg.ptpCorr = s.ethg.ptpCorr + c) ∧
      (∀ (t1 t4 : BitVec 64) (c : Int), y.msg = .delayResp t4 c → y.mine = true → y.seq + 1 = s.ethg.ptpReq →
        s.ethg.ptpT1 = some t1 →
        ∃ t, exec (.ptpMessage e f d y) s = .next t ∧ t.ethg.ptpT1 = none ∧ t.zlg.ptpAvailable = true)))

/-! ### Single rules, whole -/

/-- R332: `REG_WRITE` performs its pairs in order and stops at the first that is refused. -/
def Obligations.PairsAreWrittenInOrder : Prop :=
  ∀ (hdr : KmpHdr) (k : Fin 32) (x : KmpSession) (ps : List (Word × Word)) (e : WriteEnv) (s v : State), KmpServed s hdr k x v →
    ps ≠ [] → ps.length ≤ 128 →
    (v.isTenant (.kmp k) = false ∨ ∀ q ∈ ps, tenantWrites (addrHub q.1) (addrBlock q.1) (addrOff q.1) = true ∧ illegalAddr q.1 = false) →
    ∃ (rs : List (BitVec 8)) (u : State), PairsDone (.kmp k) e v ps rs u ∧
      exec (.regWrite hdr ps e) s = .next (u.replied k x hdr 4 { status := 0, body := .results rs })

/-! ### Queues (R349–R373, R490) -/

/-- What a queue does with a packet of its host and with an entry it takes (from R350–R356, R369, R370, R373, R654); the memory
commands when the engine issues them, completions, promotions and the load measure (from R319, R320, R325, R354–R366, R371, R372).
-/
def Obligations.QueueEntriesAreTakenAndIssued : Prop :=
  (∀ (h : BitVec 10) (q : BitVec 14) (e : SubEntry) (c : Colour) (s u : State), s.hears h = true → s.queueHost q.toNat = h.toNat →
    releaseOk e = false → s.fatal = false → (s.hub (q.toNat / 2048)).phase = .none → s.throttles h.toNat = false →
    s.meterArrive h.toNat 64 = (c, u) → c ≠ .red → u.queueHeld q.toNat = false → (u.queue q.toNat).ring.length < 64 →
    exec (.queueSubmit h q e) s = .next (u.takeEntry q.toNat e c)) ∧
  (∀ (h : BitVec 10) (q : BitVec 14) (e : SubEntry) (c : Colour) (b : BitVec 4) (u v s : State), s.hears h = true →
    s.queueHost q.toNat = h.toNat → releaseOk e = false → s.fatal = false → (s.hub (q.toNat / 2048)).phase = .none →
    s.throttles h.toNat = false → s.meterArrive h.toNat 64 = (c, u) → c ≠ .red → u.queueHeld q.toNat = true → u.freeBackoff = (b, v) →
    exec (.queueSubmit h q e) s = .next (v.queRefuse h q.toNat 2 b false)) ∧
  (∀ (h : BitVec 10) (q : BitVec 14) (e : SubEntry) (s : State), s.hears h = true → s.queueHost q.toNat = h.toNat →
    releaseOk e = false → s.fatal = true → exec (.queueSubmit h q e) s = .next (
      if 64 ≤ (s.queue q.toNat).ring.length then s.queRefuse h q.toNat 2 0 false else s.takeEntry q.toNat e .green)) ∧
  (∀ (h : BitVec 10) (q : BitVec 14) (e : SubEntry) (c : Colour) (u s : State), s.hears h = true → s.queueHost q.toNat ≠ h.toNat →
    releaseOk e = false → s.fatal = false → (s.hub (q.toNat / 2048)).phase = .none → s.throttles h.toNat = false →
    s.meterArrive h.toNat 64 = (c, u) → c ≠ .red → exec (.queueSubmit h q e) s = .next (u.queRefuse h q.toNat 3 0 false)) ∧
  (∀ (h : BitVec 10) (q : BitVec 14) (e : SubEntry) (s : State), s.hears h = true → s.queueHost q.toNat ≠ h.toNat →
    (releaseOk e = true ∨ s.fatal = true ∨ (s.hub (q.toNat / 2048)).phase ≠ .none) →
    exec (.queueSubmit h q e) s = .next (s.queRefuse h q.toNat 3 0 false)) ∧
  (∀ (h : BitVec 10) (q : BitVec 14) (e : SubEntry) (u s : State), s.hears h = true →
    releaseOk e = false → s.fatal = false → (s.hub (q.toNat / 2048)).phase = .none → s.throttles h.toNat = false →
    s.meterArrive h.toNat 64 = (.red, u) →
    exec (.queueSubmit h q e) s = .next (u.queRefuse h q.toNat 1 (u.redBackoff h.toNat 64) true)) ∧
  (∀ (h : BitVec 10) (q : BitVec 14) (e : SubEntry) (c : Colour) (u s : State), s.hears h = true → s.queueHost q.toNat = h.toNat →
    releaseOk e = false → s.fatal = false → (s.hub (q.toNat / 2048)).phase = .none → s.throttles h.toNat = false →
    s.meterArrive h.toNat 64 = (c, u) → c ≠ .red → u.queueHeld q.toNat = false → 64 ≤ (u.queue q.toNat).ring.length →
    exec (.queueSubmit h q e) s = .next (u.queRefuse h q.toNat 2 0 false)) ∧
  (∀ (h : BitVec 10) (q : BitVec 14) (e : SubEntry) (s : State), s.hears h = true → s.queueHost q.toNat = h.toNat →
    releaseOk { e with opcode := 5 } = true →
    exec (.cqRelease h q e) s = .next (s.modQueue q.toNat (fun x => { x with credit := min 65535 (x.credit + e.length.toNat) }))) ∧
  (∀ (q : Nat) (e : SubEntry) (c : Colour) (s : State), releaseOk e = false → s.fatal = false →
    entryOk (decide (s.queueHost q < 0x400)) e = true → s.ten.state ≠ .ending → s.ten.state ≠ .resurfacing →
    s.takeEntry q e c = (s.modQueue q (fun x => { x with
      ring := x.ring ++ [{ id := (s.queue q).nextId, entry := e, colour := c }], nextId := (s.queue q).nextId + 1 })).tagHeads (q / 2048)) ∧
  (∀ (q : Nat) (e : SubEntry) (c : Colour) (s : State), releaseOk e = false → s.fatal = false →
    entryOk (decide (s.queueHost q < 0x400)) e = false →
    s.takeEntry q e c = (s.modQueue q (fun x => { x with
      ring := x.ring ++ [{ id := (s.queue q).nextId, entry := e, colour := c }],
      nextId := (s.queue q).nextId + 1 })).completeStatus q (s.queue q).nextId .illegal) ∧
  (∀ (q : BitVec 14) (l : List Medium) (c : Cand) (u s : State), QueueTurn s q.toNat 1 c → u = s.issuedFrom q.toNat c →
    exec (.read q l) s = .next ((State.tagHeads (
      if u.bounceOk q.toNat c.slot.entry.hostAddr c.slot.entry.rkey (u.bufBytes c.slot.entry.length.toNat) then
        u.startHost (.queRead q.toNat c.slot.id) (u.queueHost q.toNat) c.slot.entry.poolAddr.toNat c.slot.entry.length.toNat false [] l
      else u.completeStatus q.toNat c.slot.id .illegal) (q.toNat / 2048)).cohEnd (l.headD .clean))) ∧
  (∀ (q : BitVec 14) (c : Cand) (u s : State), QueueTurn s q.toNat 2 c → u = s.issuedFrom q.toNat c →
    exec (.write q) s = .next (State.tagHeads (
      if u.bounceOk q.toNat c.slot.entry.hostAddr c.slot.entry.rkey (u.bufBytes c.slot.entry.length.toNat) then
        (u.startFetch q.toNat c.slot.id (u.queueHost q.toNat) c.slot.entry.poolAddr.toNat c.slot.entry.length.toNat).roceSend q.toNat
          (.read c.slot.entry.hostAddr c.slot.entry.rkey (u.bufBytes c.slot.entry.length.toNat)) (some c.slot.id)
      else u.completeStatus q.toNat c.slot.id .illegal) (q.toNat / 2048))) ∧
  (∀ (q : BitVec 14) (m : Medium) (c : Cand) (n : Nat) (u s : State), QueueTurn s q.toNat 3 c → u = s.issuedFrom q.toNat c →
    atomSize c.slot.entry.atop.toNat = some n →
    exec (.atomic q m) s = .next ((State.tagHeads (
      if c.slot.entry.poolAddr.toNat % n = 0 then
        u.startLines (.queAtomic q.toNat c.slot.id) false true
          ((asksOf c.slot.entry.poolAddr.toNat n).map (u.askHost (u.queueHost q.toNat) .atomic)) [] c.slot.entry.atop
          c.slot.entry.operand c.slot.entry.compare [m]
      else u.completeStatus q.toNat c.slot.id .illegal) (q.toNat / 2048)).cohEnd m)) ∧
  (∀ (q : BitVec 14) (c : Cand) (s : State), QueueTurn s q.toNat 4 c →
    exec (.nop q) s = .next (((s.issuedFrom q.toNat c).completeStatus q.toNat c.slot.id .ok).tagHeads (q.toNat / 2048))) ∧
  (∀ (q : BitVec 14) (s : State), s.sys.portsStopped = false →
    exec (.completionWrite q) s = .next ((s.writeHeld q.toNat).tagHeads (q.toNat / 2048))) ∧
  (∀ (q : BitVec 14) (r : RingSlot) (s : State), (s.queue q.toNat).head = some r → r.colour = .yellow → s.eligible q.toNat r = true →
    exec (.yellowPromotion q) s = .next (s.modQueue q.toNat (fun x => { x with
      ring := x.ring.map (fun y => if y.id = r.id then { y with promoted := true } else y) }))) ∧
  (∀ (h : Fin 8) (s : State), s.inService h.val = true →
    exec (.loadMeasure h) s = .next { s with queHubs := s.queHubs.mod h.val {} (fun x => { x with
      smoothed := if x.measured then x.smoothed + (s.hubUse h.val - x.smoothed) / 8 else s.hubUse h.val, measured := true,
      level := BitVec.ofNat 2 (nextLevel (if x.measured then x.smoothed + (s.hubUse h.val - x.smoothed) / 8 else s.hubUse h.val)
        x.level.toNat) }) }) ∧
  (∀ (q : BitVec 14) (s : State), s.fatal = true →
    exec (.nop q) s = .next s ∧ exec (.write q) s = .next s)

/-! ### The vector unit (R394–R403, R431, R432, R436, R440) -/

/-- The lane-wise vector operations, the reductions and the other vector operations: when its turn has come each queues its result,
which can be read as many bundles later as R432 gives (from R384, R394–R403, R431, R432, R436, R458); reads before a register is
ready give free values (notes/assumptions/5.md). -/
def Obligations.VectorOperationsQueueTheirResults : Prop :=
  (∀ (c : CluAt) (vd va vb : Fin 32) (g : VSig) (j i : Nat) (s u v : State) (a b : Vec), ∀ r ∈ vec2Rows c vd va vb g,
    SlotReady s c 2 (vecWord r.1 vd va vb 0 0 0 0 false g) j i → (s.atTurn c j i).readV j i va = (a, u) → u.readV j i vb = (b, v) →
    exec r.2.2 s = .next (s.issuedAs c 2 j i (v.modLc j i (fun x => x.pushVec
      { regs := [(vd.val, vmap2 r.2.1 a b)], ready := x.bundle + 4, sem := g.sem, sig := g.sig })) none)) ∧
  (∀ (c : CluAt) (vd va : Fin 32) (g : VSig) (j i : Nat) (s u : State) (a : Vec), ∀ r ∈ vec1Rows c vd va g,
    SlotReady s c 2 (vecWord r.1 vd va 0 0 0 0 0 false g) j i → (s.atTurn c j i).readV j i va = (a, u) →
    exec r.2.2.2 s = .next (s.issuedAs c 2 j i (u.modLc j i (fun x => x.pushVec
      { regs := [(vd.val, vmap r.2.2.1 a)], ready := x.bundle + r.2.1, sem := g.sem, sig := g.sig })) none)) ∧
  (∀ (c : CluAt) (vd va vb : Fin 32) (g : VSig) (j i : Nat) (s u v : State) (a b : Vec), ∀ r ∈ reduceRows c vd va vb g,
    (SlotReady s c 2 (vecWord r.1 vd va 0 0 0 0 0 false g) j i → (s.atTurn c j i).readV j i va = (a, u) →
      exec r.2.2.2.1 s = .next (s.issuedAs c 2 j i (u.modLc j i (fun x => x.pushVec
        { regs := [(vd.val, lane0 (reduce r.2.2.1 a))], ready := x.bundle + 12, sem := g.sem, sig := g.sig })) none)) ∧
    (SlotReady s c 2 (vecWord r.2.1 vd va vb 0 0 0 0 false g) j i → (s.atTurn c j i).readV j i va = (a, u) → u.readV j i vb = (b, v) →
      exec r.2.2.2.2 s = .next (s.issuedAs c 2 j i (v.modLc j i (fun x => x.pushVec
        { regs := [(vd.val, lane0 (r.2.2.1 (b.setWidth 32) (reduce r.2.2.1 a)))], ready := x.bundle + 12, sem := g.sem,
          sig := g.sig })) none))) ∧
  (∀ (j i n : Nat) (s : State), s.readV j i n = (if (s.lc j i).bundle < (s.lc j i).vReady.getD n 0 then
    (BitVec.ofNat 8192 (Config.free .hazard s.freeCtr), { s with freeCtr := s.freeCtr + 1 }) else ((s.lc j i).vecNow n, s))) ∧
  (∀ (c : CluAt) (vd va vb vc : Fin 32) (g : VSig) (j i : Nat) (s u v w : State) (a b m : Vec),
    SlotReady s c 2 (vecWord 0x0E vd va vb vc 0 0 0 false g) j i → (s.atTurn c j i).readV j i va = (a, u) →
    u.readV j i vb = (b, v) → v.readV j i vc = (m, w) →
    exec (.sel c vd va vb vc g) s = .next (s.issuedAs c 2 j i (w.modLc j i (fun x => x.pushVec
      { regs := [(vd.val, ofLanes (((lanes a).zip (lanes b)).zipWith (fun x k => if k = 0 then x.2 else x.1) (lanes m)))],
        ready := x.bundle + 4, sem := g.sem, sig := g.sig })) none)) ∧
  (∀ (c : CluAt) (vd : Fin 32) (sx : Fin 64) (g : VSig) (j i : Nat) (s u : State) (x : DWord),
    (s.atTurn c j i).readS j i sx = (x, u) →
    (SlotReady s c 2 (vecWord 0x0F vd 0 0 0 sx 0 0 false g) j i →
      exec (.bcast c vd sx g) s = .next (s.issuedAs c 2 j i (u.modLc j i (fun y => y.pushVec
        { regs := [(vd.val, ofLanes (List.replicate 256 (x.setWidth 32)))], ready := y.bundle + 4, sem := g.sem, sig := g.sig })) none)) ∧
    (SlotReady s c 2 (vecWord 0x17 vd 0 0 0 sx 0 0 false g) j i →
      exec (.viota c vd sx g) s = .next (s.issuedAs c 2 j i (u.modLc j i (fun y => y.pushVec
        { regs := [(vd.val, ofLanes ((List.range 256).map (fun n => x.setWidth 32 + BitVec.ofNat 32 n)))], ready := y.bundle + 4,
          sem := g.sem, sig := g.sig })) none))) ∧
  (∀ (c : CluAt) (vd va vb vc : Fin 32) (sx : Fin 64) (g : VSig) (j i : Nat) (s u v w : State) (a b : Vec) (k : DWord),
    SlotReady s c 2 (vecWord 0x20 vd va vb vc sx 0 0 false g) j i → (s.atTurn c j i).readV j i va = (a, u) →
    u.readV j i vb = (b, v) → v.readS j i sx = (k, w) → 1 ≤ k.toNat → k.toNat ≤ 256 →
    exec (.topki c vd va vb vc sx g) s = .next (s.issuedAs c 2 j i (w.modLc j i (fun x => x.pushVec
      { regs := [(vd.val, ofLanes ((topK k.toNat ((lanes a).zip (lanes b))).map (·.1))),
                 (vc.val, ofLanes ((topK k.toNat ((lanes a).zip (lanes b))).map (·.2)))],
        ready := x.bundle + 40, sem := g.sem, sig := g.sig })) none)) ∧
  (∀ (c : CluAt) (vd va vb vc : Fin 32) (sx : Fin 64) (g : VSig) (j i : Nat) (s u v w y z : State) (a b d e : Vec) (k : DWord),
    SlotReady s c 2 (vecWord 0x21 vd va vb vc sx 0 0 false g) j i → (s.atTurn c j i).readV j i va = (a, u) →
    u.readV j i vb = (b, v) → v.readV j i vd = (d, w) → w.readV j i vc = (e, y) → y.readS j i sx = (k, z) →
    1 ≤ k.toNat → k.toNat ≤ 256 →
    ∃ l : List (Word × Word), l = topK k.toNat (((lanes d).zip (lanes e)).take k.toNat ++ (lanes a).zip (lanes b)) ∧
      exec (.topk c vd va vb vc sx g) s = .next (s.issuedAs c 2 j i (z.modLc j i (fun x => x.pushVec
        { regs := [(vd.val, ofLanes (l.map (·.1))), (vc.val, ofLanes (l.map (·.2)))], ready := x.bundle + 40, sem := g.sem,
          sig := g.sig })) none)) ∧
  (∀ (c : CluAt) (vd : Fin 32) (sx : Fin 64) (n : Fin 32) (g : VSig) (j i : Nat) (s u v w : State) (row : DWord) (d : BitVec 128)
    (bs : List Byte), SlotReady s c 2 (vecWord 0x30 vd 0 0 0 sx 0 n false g) j i → (s.atTurn c j i).readS j i sx = (row, u) →
    u.readT j i n = (d, v) → tileUsable d = true → tileAligned d = true → isMx (tFmt d) = false →
    v.readStg j i unitVector (rowSpan d row.toNat (min 256 (tCols d))) = (bs, w) →
    exec (.vld c vd sx n g) s = .next (s.issuedAs c 2 j i (w.modLc j i (fun x => x.pushVec
      { regs := [(vd.val, ofLanes (rowValues (tFmt d) (codesOf (tFmt d) (min 256 (tCols d)) bs) []))], ready := x.bundle + 8,
        sem := g.sem, sig := g.sig })) none)) ∧
  (∀ (c : CluAt) (vd : Fin 32) (sx : Fin 64) (n : Fin 32) (sy : Fin 64) (g : VSig) (j i : Nat) (s u v w : State) (row : DWord)
    (d : BitVec 128) (a : Vec), SlotReady s c 2 (vecWord 0x31 vd 0 0 0 sx sy n false g) j i →
    (s.atTurn c j i).readS j i sx = (row, u) → u.readT j i n = (d, v) → v.readV j i vd = (a, w) →
    ∃ (y : State) (p : VecPend), exec (.vst c vd sx n false sy g) s = .next (s.issuedAs c 2 j i (y.modLc j i (fun x => x.pushVec p)) none) ∧
      p.bytes = (vstBytes d row.toNat [] ((lanes a).take (min 256 (tCols d)))).flatten ∧ p.ready = (y.lc j i).bundle + 8 ∧ p.regs = [] ∧
      p.sem = g.sem ∧ p.sig = g.sig ∧ (y.lc j i).staging = (w.lc j i).staging) ∧
  (∀ (c : CluAt) (j i : Nat) (p : VecPend) (r : List VecPend) (s : State), (s.clu c.hub c.cluster).resident = some (j, i) →
    (s.lc j i).vec = p :: r → s.fatal = false → p.tainted = false →
    exec (.vectorResultWritten c) s = .next (((byteRuns p.bytes).foldl (fun s b => s.writeStg j i unitVector b.1 b.2)
      (s.modLc j i (fun x => { x with
        vec := r, regs := { x.regs with v := p.regs.foldl (fun m e => SMap.set m e.1 e.2) x.regs.v } }))).unitDone j i p.past))

/-! ### The sequencer (R414–R419, R433–R440, R471) -/

/-- Scalar and address registers: s0 reads as zero and takes no write, a read before the producer's latency gives a free value (from
R414, R435, R440; notes/assumptions/5.md); the sequencer's arithmetic, its moves and its branches (from R414, R415, R435, R438). -/
def Obligations.SequencerOperationsComplete : Prop :=
  (∀ (j i : Nat) (s : State), s.readS j i 0 = (0, s)) ∧
  (∀ (j i latency : Nat) (v : DWord) (s : State), s.writeS j i 0 v latency = s) ∧
  (∀ (j i n : Nat) (s : State), n ≠ 0 → (s.lc j i).sReady.getD n 0 ≤ (s.lc j i).bundle →
    s.readS j i n = ((s.lc j i).regs.s.getD n 0, s)) ∧
  (∀ (j i n : Nat) (s : State), n ≠ 0 → (s.lc j i).bundle < (s.lc j i).sReady.getD n 0 →
    s.readS j i n = (BitVec.ofNat 64 (Config.free .hazard s.freeCtr), { s with freeCtr := s.freeCtr + 1 })) ∧
  (∀ (j i n latency : Nat) (v : DWord) (s : State), n ≠ 0 → (s.lc j i).sReady.getD n 0 ≤ (s.lc j i).bundle + latency →
    ((s.writeS j i n v latency).lc j i).regs.s.getD n 0 = v ∧
    ((s.writeS j i n v latency).lc j i).sReady.getD n 0 = max ((s.lc j i).sReady.getD n 0) ((s.lc j i).bundle + latency) ∧
    (∀ m, m ≠ n → ((s.writeS j i n v latency).lc j i).regs.s.getD m 0 = (s.lc j i).regs.s.getD m 0) ∧
    ((s.writeS j i n v latency).lc j i).regs.a = (s.lc j i).regs.a ∧ ((s.writeS j i n v latency).lc j i).regs.t = (s.lc j i).regs.t ∧
    ((s.writeS j i n v latency).lc j i).regs.v = (s.lc j i).regs.v ∧ ((s.writeS j i n v latency).lc j i).regs.sem = (s.lc j i).regs.sem ∧
    ((s.writeS j i n v latency).lc j i).regs.pc = (s.lc j i).regs.pc) ∧
  (∀ (c : CluAt) (d a b : Fin 64) (j i : Nat) (s u v : State) (x y : DWord), (s.atTurn c j i).readS j i a = (x, u) →
    u.readS j i b = (y, v) →
    (∀ r ∈ ctlRows c d a b, SlotReady s c 3 (ctlWord r.1 d a b 0) j i →
      exec r.2.2.2 s = .next (s.issuedAs c 3 j i (v.writeS j i d (r.2.2.1 x y) r.2.1) none)) ∧
    (∀ imm : Word, SlotReady s c 3 (ctlWord 0x01 d a b imm) j i →
      exec (.add c d a b imm) s = .next (s.issuedAs c 3 j i (v.writeS j i d (x + y + imm.signExtend 64) 1) none)) ∧
    (∀ imm : Word, ∀ r ∈ shiftRows c d a b imm, SlotReady s c 3 (ctlWord r.1 d a b imm) j i →
      exec r.2.2 s = .next (s.issuedAs c 3 j i (v.writeS j i d (r.2.1 x ((y.toNat + imm.toNat) % 64)) 1) none)) ∧
    (∀ t : BitVec 14, ∀ r ∈ branchRows c a b t, SlotReady s c 3 (ctlWord r.1 0 a b (t.setWidth 32)) j i →
      exec r.2.2 s = .next (s.issuedAs c 3 j i v (if r.2.1 x y then some t else none)))) ∧
  (∀ (c : CluAt) (d : Fin 64) (imm : Word) (j i : Nat) (s u : State) (x : DWord), (s.atTurn c j i).readS j i d = (x, u) →
    (SlotReady s c 3 (ctlWord 0x0C d 0 0 imm) j i →
      exec (.li c d imm) s = .next (s.issuedAs c 3 j i ((s.atTurn c j i).writeS j i d (imm.signExtend 64) 1) none)) ∧
    (SlotReady s c 3 (ctlWord 0x0D d 0 0 imm) j i →
      exec (.lih c d imm) s = .next (s.issuedAs c 3 j i (u.writeS j i d (BitVec.ofNat 64 (imm.toNat * 2 ^ 32 + x.toNat % 2 ^ 32)) 1) none))) ∧
  (∀ (c : CluAt) (d : Fin 16) (a : Fin 64) (imm : Word) (j i : Nat) (s u : State) (x : DWord), (s.atTurn c j i).readS j i a = (x, u) →
    (SlotReady s c 3 (ctlWord 0x10 d a 0 imm) j i →
      exec (.amov c d a imm) s = .next (s.issuedAs c 3 j i (u.writeA j i d (x + imm.signExtend 64)) none)) ∧
    (∀ e : Fin 16, SlotReady s c 3 (ctlWord 0x11 d e a imm) j i →
      exec (.aadd c d e a imm) s = .next (s.issuedAs c 3 j i (u.writeA j i d (u.readA j i e + x + imm.signExtend 64)) none))) ∧
  (∀ (c : CluAt) (d : Fin 64) (a : Fin 16) (j i : Nat) (s : State), SlotReady s c 3 (ctlWord 0x12 d a 0 0) j i →
    exec (.aget c d a) s = .next (s.issuedAs c 3 j i ((s.atTurn c j i).writeS j i d ((s.atTurn c j i).readA j i a) 1) none)) ∧
  (∀ (c : CluAt) (t : BitVec 14) (j i : Nat) (s : State), SlotReady s c 3 (ctlWord 0x20 0 0 0 (t.setWidth 32)) j i →
    exec (.br c t) s = .next (s.issuedAs c 3 j i (s.atTurn c j i) (some t))) ∧
  (∀ (c : CluAt) (d : Fin 64) (t : BitVec 14) (j i : Nat) (s u : State) (x : DWord),
    SlotReady s c 3 (ctlWord 0x25 d 0 0 (t.setWidth 32)) j i → (s.atTurn c j i).readS j i d = (x, u) →
    exec (.loop c d t) s = .next (s.issuedAs c 3 j i (u.writeS j i d (x - 1) 1) (if x - 1 = 0 then none else some t))) ∧
  (∀ (c : CluAt) (d : Fin 64) (n : Fin 8) (j i : Nat) (s : State), SlotReady s c 3 (ctlWord 0x3A d 0 0 (BitVec.ofNat 32 n.val)) j i →
    exec (.sysr c d n) s = .next (s.issuedAs c 3 j i ((s.atTurn c j i).writeS j i d ((s.atTurn c j i).sysValue j i n) 1) none)) ∧
  (∀ (c : CluAt) (d a : Fin 32) (b : Fin 64) (imm : Word) (j i : Nat) (s u v : State) (x : BitVec 128) (y : DWord),
    SlotReady s c 3 (ctlWord 0x44 d a b imm) j i → (s.atTurn c j i).readT j i a = (x, u) → u.readS j i b = (y, v) →
    exec (.tadd c d a b imm) s = .next (s.issuedAs c 3 j i (v.writeT j i d (BitVec.ofNat 128 (x.toNat / 2 ^ 25 * 2 ^ 25 +
      (BitVec.ofNat 64 (tBase x) + y + imm.signExtend 64).toNat % 2 ^ 25)) 1) none)) ∧
  (∀ (h k j i slot : Nat) (b : List DWord) (t : Option (BitVec 14)) (v : State),
    (v.lc j i).late = none →
    (liveSlots b).all (fun q => ((v.lc j i).slots ||| BitVec.ofNat 4 (2 ^ slot)).getLsbD q) = true →
    ((v.slotEnds h k j i slot b t).lc j i).regs.pc = t.getD ((v.lc j i).regs.pc + 1) ∧
    ((v.slotEnds h k j i slot b t).lc j i).bundle = (v.lc j i).bundle + 1 ∧ ((v.slotEnds h k j i slot b t).lc j i).slots = 0 ∧
    ((v.slotEnds h k j i slot b t).lc j i).wait = (if (v.lc j i).phase = .yielded then .barrier else .none) ∧
    ((v.slotEnds h k j i slot b t).lc j i).regs.s = (v.lc j i).regs.s)

/-- The sequencer's loads and stores of staging (from R435, R440): aligned reads bring the bytes, unaligned ones are noted. -/
def Obligations.SequencerLoadsAndStores : Prop :=
  (∀ (c : CluAt) (d a : Fin 64) (imm : Word) (j i : Nat) (s u v : State) (x : DWord) (b : List Byte),
    SlotReady s c 3 (ctlWord 0x40 d a 0 imm) j i → (s.atTurn c j i).readS j i a = (x, u) → (x + imm.signExtend 64).toNat % 8 = 0 →
    u.readStg j i unitSeq { lo := (x + imm.signExtend 64).toNat, len := 8 } = (b, v) →
    exec (.sld c d a imm) s = .next (s.issuedAs c 3 j i (v.writeS j i d (BitVec.ofNat 64 (leNat b)) 6) none)) ∧
  (∀ (c : CluAt) (a b : Fin 64) (imm : Word) (j i : Nat) (s u v : State) (x y : DWord),
    SlotReady s c 3 (ctlWord 0x41 0 a b imm) j i → (s.atTurn c j i).readS j i b = (y, u) → u.readS j i a = (x, v) →
    (x + imm.signExtend 64).toNat % 8 = 0 →
    (v.lc j i).writeHazard unitSeq { lo := (x + imm.signExtend 64).toNat, len := 8 } = false →
    exec (.sst c a b imm) s = .next (s.issuedAs c 3 j i ((v.writeStg j i unitSeq (x + imm.signExtend 64).toNat (leBytes 8 y.toNat)).modLc
      j i (fun z => { z with stored := z.stored ++ [({ lo := (x + imm.signExtend 64).toNat, len := 8 }, z.bundle + 6)] })) none)) ∧
  (∀ (c : CluAt) (d : Fin 32) (a : Fin 64) (imm : Word) (j i : Nat) (s u v : State) (x : DWord) (b : List Byte),
    SlotReady s c 3 (ctlWord 0x42 d a 0 imm) j i → (s.atTurn c j i).readS j i a = (x, u) → (x + imm.signExtend 64).toNat % 16 = 0 →
    u.readStg j i unitSeq { lo := (x + imm.signExtend 64).toNat, len := 16 } = (b, v) →
    exec (.tld c d a imm) s = .next (s.issuedAs c 3 j i ((v.writeT j i d (BitVec.ofNat 128 (leNat b)) 6).modLc j i (fun z => { z with
      fetches := z.fetches ++ [{ span := { lo := (x + imm.signExtend 64).toNat, len := 16 }, bundle := z.bundle, target := .inl d.val }] }))
      none)) ∧
  (∀ (c : CluAt) (a : Fin 64) (b : Fin 32) (imm : Word) (j i : Nat) (s u v : State) (x : DWord) (y : BitVec 128),
    SlotReady s c 3 (ctlWord 0x43 0 a b imm) j i → (s.atTurn c j i).readT j i b = (y, u) → u.readS j i a = (x, v) →
    (x + imm.signExtend 64).toNat % 16 = 0 →
    (v.lc j i).writeHazard unitSeq { lo := (x + imm.signExtend 64).toNat, len := 16 } = false →
    exec (.tst c a b imm) s = .next (s.issuedAs c 3 j i ((v.writeStg j i unitSeq (x + imm.signExtend 64).toNat (leBytes 16 y.toNat)).modLc
      j i (fun z => { z with stored := z.stored ++ [({ lo := (x + imm.signExtend 64).toNat, len := 16 }, z.bundle + 6)] })) none)) ∧
  (∀ (c : CluAt) (d a : Fin 64) (imm : Word) (j i : Nat) (s u : State) (x : DWord),
    SlotReady s c 3 (ctlWord 0x40 d a 0 imm) j i → (s.atTurn c j i).readS j i a = (x, u) → (x + imm.signExtend 64).toNat % 8 ≠ 0 →
    exec (.sld c d a imm) s = .next (s.issuedAs c 3 j i (({ u.modClu c.hub c.cluster (fun y => { y with align := true }) with
      freeCtr := u.freeCtr + 1 } : State).writeS j i d (BitVec.ofNat 64 (leNat (leBytes 8 (Config.free .hazard u.freeCtr)))) 6) none)) ∧
  (∀ (j i unit : Nat) (sp : Span) (s : State), sp.lo + sp.len ≤ stagingTop →
    (s.lc j i).readHazard (imgStaging (s.job j).image) unit sp = false →
    s.readStg j i unit sp = ((List.range sp.len).map (fun n => (s.lc j i).staging.getD (sp.lo + n) 0), s))

/-- Semaphores, fences, gate waits, yields, halts and traps (from R433–R437, R471, R649). -/
def Obligations.SequencerSynchronises : Prop :=
  (∀ (c : CluAt) (sem : Fin 32) (n : BitVec 16) (j i : Nat) (s u : State), u = s.atTurn c j i →
    SlotReady s c 3 (ctlWord 0x30 sem 0 0 (n.setWidth 32)) j i →
    exec (.wait c sem n) s = .next (if n.toNat ≤ ((u.lc j i).regs.sem.getD sem.val 0).toNat then
        s.issuedAs c 3 j i ((u.modLc j i (fun x => { x.order sem.val ((u.lc j i).regs.sem.getD sem.val 0 - n).toNat with
          regs := { x.regs with sem := x.regs.sem.set sem.val ((u.lc j i).regs.sem.getD sem.val 0 - n) } })).lcGoes c.hub c.cluster
          ((u.lc j i).sigBy.getD sem.val 0)) none
      else u.lcWaits c.hub c.cluster j i (.sem sem n.toNat) 1 (BitVec.ofNat 16 sem.val) (n.setWidth 32))) ∧
  (∀ (c : CluAt) (sem : Fin 32) (n : BitVec 16) (j i : Nat) (s : State), SlotReady s c 3 (ctlWord 0x31 sem 0 0 (n.setWidth 32)) j i →
    exec (.signal c sem n) s = .next (s.issuedAs c 3 j i ((s.atTurn c j i).signal j i sem n.toNat 0x30) none)) ∧
  (∀ (j i k n unit : Nat) (s : State), ((s.lc j i).regs.sem.getD k 0).toNat + n < 65536 →
    s.signal j i k n unit = s.modLc j i (fun x => { x with
      regs := { x.regs with sem := x.regs.sem.set k (BitVec.ofNat 16 (((s.lc j i).regs.sem.getD k 0).toNat + n)) },
      sigBy := x.sigBy.set k (BitVec.ofNat 16 unit) })) ∧
  (∀ (c : CluAt) (j i : Nat) (s u : State), u = s.atTurn c j i → SlotReady s c 3 (ctlWord 0x32 0 0 0 0) j i →
    exec (.fence c) s = .next (if (u.lc j i).quiet then
        s.issuedAs c 3 j i ((u.modLc j i (fun x => { x with sReady := [], tReady := [], vReady := [], stored := [], past := [] })).lcGoes
          c.hub c.cluster (u.lc j i).lastUnit) none
      else u.lcWaits c.hub c.cluster j i .fence 2 0 0)) ∧
  (∀ (c : CluAt) (d : Fin 64) (e : BitVec 12) (j i n : Nat) (s u : State), u = s.atTurn c j i →
    SlotReady s c 3 (ctlWord 0x33 d 0 0 (e.setWidth 32)) j i → gateOf (u.job j).image e.toNat = some n →
    bytesAt (imgGate (u.job j).image n) 4 2 = i →
    exec (.gwait c d e) s = .next (if (u.gates.getD (j * 4096 + e.toNat) {}).prepared then
        s.issuedAs c 3 j i ((u.modLc j i (fun y => { y with
          late := some (d.val, BitVec.ofNat 64 (u.gates.getD (j * 4096 + e.toNat) {}).count) })).lcGoes c.hub c.cluster
          (u.job j).gates.closedBy) none
      else u.lcWaits c.hub c.cluster j i (.gate e.toNat d) 5 (e.setWidth 16) (BitVec.ofNat 32 (u.job j).step))) ∧
  (∀ (c : CluAt) (d : Fin 64) (e : BitVec 12) (j i : Nat) (s : State), SlotReady s c 3 (ctlWord 0x33 d 0 0 (e.setWidth 32)) j i →
    gateOf ((s.atTurn c j i).job j).image e.toNat = none →
    exec (.gwait c d e) s = .next (s.issuedAs c 3 j i ((s.atTurn c j i).modLc j i (fun y => { y with late := some (d.val, 0) })) none)) ∧
  (∀ (c : CluAt) (n : Word) (j i : Nat) (s u : State), u = s.atTurn c j i → SlotReady s c 3 (ctlWord 0x38 0 0 0 n) j i →
    (u.lc j i).quiet = true → n.toNat = (u.job j).step → n.toNat + 1 < imgSteps (u.job j).image →
    ∃ v : State, exec (.yield c n) s = .next (s.issuedAs c 3 j i (v.lcWaits c.hub c.cluster j i .barrier 3
        (BitVec.ofNat 16 (v.job j).step) (BitVec.ofNat 32 (v.job j).step)) none) ∧
      (v.lc j i).phase = .yielded ∧ (v.lc j i).wbuf = [] ∧ (v.lc j i).staging = (u.lc j i).staging ∧ (v.lc j i).regs = (u.lc j i).regs) ∧
  (∀ (c : CluAt) (n : Word) (j i : Nat) (s u : State), u = s.atTurn c j i → SlotReady s c 3 (ctlWord 0x38 0 0 0 n) j i →
    (u.lc j i).quiet = true → n.toNat ≠ (u.job j).step ∨ imgSteps (u.job j).image ≤ n.toNat + 1 →
    ∃ v : State, exec (.yield c n) s = .next (s.issuedAs c 3 j i (v.jobFault j i 3 0) none) ∧ v.jobs = u.jobs) ∧
  (∀ (c : CluAt) (j i : Nat) (s u : State), u = s.atTurn c j i → SlotReady s c 3 (ctlWord 0x39 0 0 0 0) j i → (u.lc j i).quiet = true →
    ∃ v : State, (v.lc j i).phase = .halted ∧ (v.lc j i).wbuf = [] ∧ (v.lc j i).staging = (u.lc j i).staging ∧
      (v.lc j i).regs = (u.lc j i).regs ∧ exec (.halt c) s = .next (s.issuedAs c 3 j i (if v.allHalted j ∧ ¬imgPairs (v.job j).image ∧ ¬(v.job j).gates.touched ∧
          (v.job j).gates.closes.isEmpty then
        (v.modJob j (fun x => { x with lastDone := some (v.job j).step })).endJob j 0 0 0 else v) (some (v.lc j i).regs.pc))) ∧
  (∀ (c : CluAt) (code : BitVec 16) (j i : Nat) (s : State), SlotReady s c 3 (ctlWord 0x3B 0 0 0 (code.setWidth 32)) j i →
    exec (.trap c code) s = .next (s.issuedAs c 3 j i ((s.atTurn c j i).jobFault j i 2 code.toNat) none))

/-! ### The stream mover and the matrix unit (R384–R393, R420–R433, R441, R449–R460) -/

/-- The stream mover copies descriptors, finishes them and asks again (from R420–R425, R433, R436, R441); the matrix unit queues its
operations and performs the oldest (from R387–R389, R392, R426–R430, R436, R449–R460). -/
def Obligations.StreamAndMatrixCommandsComplete : Prop :=
  (∀ (c : CluAt) (q : Fin 8) (a : Fin 16) (sx : Fin 64) (g : VSig) (media : List Medium) (j i : Nat) (s u v : State) (p : DWord)
    (d : StreamDesc), SlotReady s c 0 (moveWord 1 q a sx g.sem g.sig) j i → ((s.atTurn c j i).lc j i |>.streams.getD q []).length < 16 →
    ((s.atTurn c j i).lcGoes c.hub c.cluster (BitVec.ofNat 16 q.val)).readS j i sx = (p, u) →
    u.copyDesc j i q (u.readA j i a) p g = (d, v) →
    exec (.mdesc c q a sx g media) s = .next (s.issuedAs c 0 j i (if d.bad then v.jobFault j i 1 0
      else if (((v.queueDesc j i q p d).lc j i).streams.getD q []).length = 1 then (v.queueDesc j i q p d).streamRun j i q media
      else v.queueDesc j i q p d) none)) ∧
  (∀ (c : CluAt) (q : Fin 8) (a : Fin 16) (sx : Fin 64) (g : VSig) (media : List Medium) (j i : Nat) (s : State),
    SlotReady s c 0 (moveWord 1 q a sx g.sem g.sig) j i → 16 ≤ ((s.atTurn c j i).lc j i |>.streams.getD q []).length →
    exec (.mdesc c q a sx g media) s = .next ((s.atTurn c j i).lcWaits c.hub c.cluster j i (.full 0) 4 0 0)) ∧
  (∀ (j i : Nat) (q : Fin 8) (p : DWord) (d : StreamDesc) (v : State),
    ∃ l : List StreamDesc, ((v.queueDesc j i q p d).lc j i).streams.getD q [] = l ++ [d] ∧
      l.length = ((v.lc j i).streams.getD q []).length ∧ ((v.queueDesc j i q p d).lc j i).staging = (v.lc j i).staging) ∧
  (∀ (c : CluAt) (q : Fin 8) (media : List Medium) (j i : Nat) (s : State) (d : StreamDesc),
    (s.clu c.hub c.cluster).resident = some (j, i) → (s.lc j i).head q = some d → s.fatal = false → d.bad = false → d.started = true →
    ((∀ x ∈ d.segs.map (s.segStatus d.write), x = some .ok) →
      exec (.descriptorComplete c q media) s = .next (((((((s.descMove j i q d).accDrop d.accs).modLc j i (fun x => { x with
        streams := x.streams.mod q [] (·.drop 1) })).unitDone j i (d.past q)).bump c.hub (0x10 + c.cluster.val) 0x84 0
          (d.rows * d.rowBytes)).streamRun j i q media))) ∧
    (d.free = false → (∀ x ∈ d.segs.map (s.segStatus d.write), x ≠ none ∧ x ≠ some .retry) →
      (∃ x ∈ d.segs.map (s.segStatus d.write), x ≠ some .ok) →
      exec (.descriptorComplete c q media) s = .next (s.jobFault j i 1 0))) ∧
  (∀ (c : CluAt) (q : Fin 8) (media : List Medium) (j i : Nat) (s : State) (d : StreamDesc) (segs : List Seg),
    (s.clu c.hub c.cluster).resident = some (j, i) → (s.lc j i).head q = some d → s.fatal = false → d.bad = false →
    segs = (d.segs.map (s.retrySeg d.write)).flatMap (·.take 1) ++ (d.segs.map (s.retrySeg d.write)).flatMap (·.drop 1) →
    exec (.streamRetry c q media) s = .next (((s.accDrop (d.accs.filter (fun a => !(segs.any (fun g => g.st == .sent a))))).modDesc j i q
      d.id (fun x => { x with segs := segs })).streamRun j i q media)) ∧
  (∀ (c : CluAt) (tw : Fin 32) (buf : Bool) (sp : Fin 3) (g : VSig) (j i : Nat) (s u : State) (x : BitVec 128) (map : List Byte),
    SlotReady s c 1 (wloadWord tw buf sp g.sem g.sig) j i → ((s.atTurn c j i).lc j i).mat.length < 4 →
    (s.atTurn c j i).readT j i tw = (x, u) → map = (if sp = 2 then (u.lc j i).bytesOf { lo := tAux x, len := 32 } else []) →
    exec (.wload c tw buf sp g) s = .next (s.issuedAs c 1 j i ((u.queueMat j i {
      op := .wload x buf (BitVec.ofNat 2 sp), bitmap := map, sem := g.sem, sig := g.sig,
      tainted := (u.lc j i).matHazard (imgStaging (u.job j).image) [x] map (.wload x buf (BitVec.ofNat 2 sp)) }).lcGoes c.hub c.cluster
        0x10) none)) ∧
  (∀ (c : CluAt) (ta out ti : Fin 32) (useInit buf zskip : Bool) (g : VSig) (j i : Nat) (s u : State) (ts : List (BitVec 128)) (o : MatOp),
    SlotReady s c 1 (mmaWord ta out ti useInit buf zskip g.sem g.sig) j i → ((s.atTurn c j i).lc j i).mat.length < 4 →
    (s.atTurn c j i).readTs j i (if useInit then [ta.val, out.val, ti.val] else [ta.val, out.val]) = (ts, u) →
    o = .mma (ts.getD 0 0) (ts.getD 1 0) (ts.getD 2 0) useInit buf zskip →
    exec (.mma c ta out ti useInit buf zskip g) s = .next (s.issuedAs c 1 j i ((u.queueMat j i {
      op := o, sem := g.sem, sig := g.sig,
      tainted := (u.lc j i).matHazard (imgStaging (u.job j).image) ts [] o }).lcGoes c.hub c.cluster 0x10) none)) ∧
  (∀ (c : CluAt) (tw : Fin 32) (buf : Bool) (sp : Fin 3) (g : VSig) (j i : Nat) (s : State),
    SlotReady s c 1 (wloadWord tw buf sp g.sem g.sig) j i → 4 ≤ ((s.atTurn c j i).lc j i).mat.length →
    exec (.wload c tw buf sp g) s = .next ((s.atTurn c j i).lcWaits c.hub c.cluster j i (.full 1) 4 1 0)) ∧
  (∀ (j i : Nat) (m : MatIss) (v : State), ∃ l : List MatIss, ((v.queueMat j i m).lc j i).mat = l ++ [m] ∧
    l.map (·.op) = (v.lc j i).mat.map (·.op) ∧ ((v.queueMat j i m).lc j i).staging = (v.lc j i).staging ∧
    ((v.queueMat j i m).lc j i).wbuf = (v.lc j i).wbuf) ∧
  (∀ (c : CluAt) (j i : Nat) (s : State) (m : MatIss) (r : List MatIss), (s.clu c.hub c.cluster).resident = some (j, i) →
    (s.lc j i).mat = m :: r → s.fatal = false →
    (∀ (t : BitVec 128) (buf : Bool) (sp : BitVec 2), m.op = .wload t buf sp →
      exec (.wloadComplete c) s = .next (((s.doWload j i m t buf sp.toNat).modLc j i (fun x => { x with mat := r })).unitDone j i m.past)) ∧
    (∀ (ta out ti : BitVec 128) (useInit buf zskip : Bool), m.op = .mma ta out ti useInit buf zskip →
      exec (.mmaComplete c) s = .next (((s.doMma j i m ta out ti useInit buf zskip).modLc j i (fun x => { x with mat := r })).unitDone
        j i m.past))) ∧
  (∀ (j i : Nat) (m : MatIss) (t : BitVec 128) (buf : Bool) (sp : Nat) (s : State),
    (wShapeOk t sp = false → ∃ format aux : Bool, s.doWload j i m t buf sp = s.matErr j i true format aux false) ∧
    (∀ (tile : WTile) (bad : Bool) (u : State), wShapeOk t sp = true → isMx (tFmt t) = true ∨ tFmt t = 1 →
      (sp = 1 → auxBad t 16 ((tRows t * tCols t + 7) / 8) = false) → (sp = 2 → auxBad t 64 64 = false) → m.tainted = false →
      (m.spans.foldl (fun v sp => v.noteRange j i sp) s).wloadTile j i t sp = (tile, bad, u) →
      s.doWload j i m t buf sp = (u.matErr j i false false false bad).modLc j i (fun x => { x with wbuf := x.wbuf.set (b2n buf) tile }))) ∧
  (∀ (j i : Nat) (sp : Span) (s : State),
    (sp.lo + sp.len ≤ stagingTop → s.noteRange j i sp = s) ∧
    (∀ h k, stagingTop < sp.lo + sp.len → (s.lc j i).place = some (h, k) → ((s.noteRange j i sp).clu h k).range = true))

/-! ### Jobs (R437, R489–R517, R649) -/

/-- The job commands when they are issued (from R489–R492, R497, R508, R509, R517, R543). -/
def Obligations.JobCommandsAreServed : Prop :=
  (∀ (q : BitVec 14) (l : List Medium) (c : Cand) (u s : State), u = s.issuedFrom q.toNat c → u.jobOf c.slot.entry = none →
    ∀ r ∈ jobRows q l, QueueTurn s q.toNat r.1 c →
      exec r.2 s = .next ((u.jobRefuse ⟨q.toNat, c.slot.id⟩ 0x0F (opB c.slot.entry 0 2)).servedOn q.toNat)) ∧
  (∀ (q : BitVec 14) (l : List Medium) (c : Cand) (acc : List Nat) (u v s : State), QueueTurn s q.toNat 0x40 c →
    u = s.issuedFrom q.toNat c →
    u.hostChunks 2 noJob (u.queueHost q.toNat) c.slot.entry.poolAddr.toNat (opB c.slot.entry 0 4) false [] l
      (chunksOf (opB c.slot.entry 0 4)) = (acc, v) →
    exec (.jload q l) s = .next ((({ v with jobg := { v.jobg with loads := v.jobg.loads ++ [{
      cmd := ⟨q.toNat, c.slot.id⟩, host := u.queueHost q.toNat, ckptAddr := opB c.slot.entry 4 8, bytes := opB c.slot.entry 0 4,
      watchdogMs := opB c.slot.entry 12 2, accs := acc }] } } : State).cohEnd .clean).servedOn q.toNat)) ∧
  (∀ (q : BitVec 14) (l : List Medium) (c : Cand) (j : Nat) (u s : State) (time fl : Nat), JobTurn s q.toNat 0x41 c j u →
    time = opB c.slot.entry 8 8 → fl = opB c.slot.entry 2 1 → imgPairs (u.job j).image = true ∨ (opB c.slot.entry 3 1 = 0 ∧ opB c.slot.entry 4 4 = 0) →
    ((u.job j).state ≠ .loaded → exec (.jlaunch q l) s = .next ((u.jobDone ⟨q.toNat, c.slot.id⟩ 0x10 j).servedOn q.toNat)) ∧
    ((u.job j).state = .loaded → time ≠ 0 → time ≤ u.clk.poolTime.toNat ∨ u.clk.poolTime.toNat + 60000000000 < time →
      exec (.jlaunch q l) s = .next ((u.jobDone ⟨q.toNat, c.slot.id⟩ 0x11 j).servedOn q.toNat)) ∧
    ((u.job j).state = .loaded → u.clk.poolTime.toNat < time → time ≤ u.clk.poolTime.toNat + 60000000000 → u.zlg.locked = false →
      exec (.jlaunch q l) s = .next ((u.jobDone ⟨q.toNat, c.slot.id⟩ 0x12 j).servedOn q.toNat)) ∧
    ((u.job j).state = .loaded →
      time = 0 ∨ (u.clk.poolTime.toNat < time ∧ time ≤ u.clk.poolTime.toNat + 60000000000 ∧ u.zlg.locked = true) →
      exec (.jlaunch q l) s = .next (((u.modJob j (fun x => { x with
        state := .launchPending, pairId := BitVec.ofNat 32 (opB c.slot.entry 4 4), peerDev := opB c.slot.entry 3 1,
        launch := some {
          cmd := ⟨q.toNat, c.slot.id⟩, time := BitVec.ofNat 64 time, locked := u.zlg.locked, saveAtYield := fl % 2 == 1,
          divContinue := fl / 2 == 1, peerDev := opB c.slot.entry 3 1,
          pairId := BitVec.ofNat 32 (opB c.slot.entry 4 4) } })).launchGo j l).servedOn q.toNat))) ∧
  (∀ (q : BitVec 14) (c : Cand) (j : Nat) (u s : State), JobTurn s q.toNat 0x42 c j u →
    exec (.jwait q) s = .next (State.servedOn (if (u.job j).state = .ended ∨ (u.job j).state = .faulted then
        u.jobDone ⟨q.toNat, c.slot.id⟩ (endResult (u.job j)) j
      else u.modJob j (fun x => { x with waits := x.waits ++ [⟨q.toNat, c.slot.id⟩] })) q.toNat)) ∧
  (∀ (q : BitVec 14) (c : Cand) (j : Nat) (u s : State), JobTurn s q.toNat 0x43 c j u →
    exec (.jstatus q) s = .next ((u.jobDone ⟨q.toNat, c.slot.id⟩ 0 j).servedOn q.toNat)) ∧
  (∀ (q : BitVec 14) (l : List Medium) (c : Cand) (j : Nat) (u s : State) (k : Ckpt), JobTurn s q.toNat 0x44 c j u →
    k = { cmd := ⟨q.toNat, c.slot.id⟩, host := u.queueHost q.toNat, area := c.slot.entry.poolAddr.toNat,
          hold := opB c.slot.entry 2 1 == 1, step := (u.job j).ckptStep } →
    exec (.jcheckpoint q l) s = .next (State.servedOn (
      if (u.job j).state = .running then u.modJob j (fun x => { x with ckpts := addCkpt k x.ckpts })
      else if (u.job j).state = .held then (u.modJob j (fun x => { x with ckpts := addCkpt k x.ckpts })).ckptsGo j l 2
      else u.jobDone ⟨q.toNat, c.slot.id⟩ 0x10 j) q.toNat)) ∧
  (∀ (q : BitVec 14) (c : Cand) (j : Nat) (u s : State), JobTurn s q.toNat 0x45 c j u →
    exec (.jcontinue q) s = .next (State.servedOn (if (u.job j).state = .held then
        ((u.modJob j (fun x => { x with state := .running })).afterCkpts j).jobDone ⟨q.toNat, c.slot.id⟩ 0 j
      else u.jobDone ⟨q.toNat, c.slot.id⟩ 0x10 j) q.toNat)) ∧
  (∀ (q : BitVec 14) (c : Cand) (j : Nat) (u s : State), JobTurn s q.toNat 0x46 c j u →
    ((u.job j).state = .loaded ∨ (u.job j).state = .launchPending ∨ (u.job j).state = .running ∨ (u.job j).state = .held →
      exec (.jabort q) s = .next (((u.modJob j (fun x => { x with aborts := x.aborts ++ [⟨q.toNat, c.slot.id⟩] })).endJob j 9 0 0).servedOn
        q.toNat)) ∧
    ((u.job j).state = .ended ∨ (u.job j).state = .faulted →
      exec (.jabort q) s = .next ((u.jobDone ⟨q.toNat, c.slot.id⟩ 0x10 j).servedOn q.toNat)) ∧
    (∀ x, (u.job j).state = .loading → u.loadOf j = some x →
      exec (.jabort q) s = .next (((u.loadFail x 0x14 9).jobDone ⟨q.toNat, c.slot.id⟩ 0 j).servedOn q.toNat))) ∧
  (∀ (q : BitVec 14) (l : List Medium) (c : Cand) (j : Nat) (u v s : State) (acc : List Nat), JobTurn s q.toNat 0x47 c j u →
    ((u.job j).state = .ended ∨ (u.job j).state = .faulted → (u.job j).retiring = false → u.accResendAll l (u.job j).records = (acc, v) →
      exec (.junload q l) s = .next ((((v.modJob j (fun x => { x with
        records := acc, retiring := true, unload := some ⟨q.toNat, c.slot.id⟩ })).cohEnd .clean).shootJob j).servedOn q.toNat)) ∧
    ((u.job j).state ≠ .ended → (u.job j).state ≠ .faulted →
      exec (.junload q l) s = .next ((u.jobDone ⟨q.toNat, c.slot.id⟩ 0x10 j).servedOn q.toNat)))

/-- The steps of a load and of a launch (from R492, R493, R497, R498, R511, R512, R514). -/
def Obligations.LoadsAndLaunchesGoOn : Prop :=
  (∀ (q : BitVec 14) (id : Nat) (l : List Medium) (x : JLoad) (acc : List Nat) (u v s : State),
    s.jobg.loads.find? (fun y => y.cmd == ⟨q.toNat, id⟩) = some x → s.fatal = false → s.accResendAll l x.accs = (acc, u) →
    v = (u.setLoad { x with accs := acc }).cohEnd .clean →
    (v.allOver acc = false → exec (.jloadDone q id l) s = .next v) ∧
    (v.allOver acc = true → x.phase = .image → x.job = none →
      exec (.jloadDone q id l) s = .next (v.loadImage { x with accs := acc } l)) ∧
    (∀ j, x.job = some j → v.allOver acc = true → v.loadHeld (v.job j).saveHubs (imgLogical (v.job j).image) = true →
      exec (.jloadDone q id l) s = .next v) ∧
    (∀ j, v.allOver acc = true → v.loadHeld (v.job j).saveHubs (imgLogical (v.job j).image) = false → x.phase = .weights →
      x.job = some j → exec (.jloadDone q id l) s = .next (v.loadWeights { x with accs := acc } j l)) ∧
    (∀ j, v.allOver acc = true → v.loadHeld (v.job j).saveHubs (imgLogical (v.job j).image) = false → x.phase = .head →
      x.job = some j → exec (.jloadDone q id l) s = .next (v.loadBody { x with accs := acc } j l)) ∧
    (∀ j, v.allOver acc = true → v.loadHeld (v.job j).saveHubs (imgLogical (v.job j).image) = false → x.phase = .body →
      x.job = some j → exec (.jloadDone q id l) s = .next (v.loadCkpt { x with accs := acc } j))) ∧
  (∀ (x : JLoad) (l : List Medium) (v : State), ∃ w : State, v.loadImage x l = if v.allOk x.accs = false then v.loadFail x 0x0E 0
    else if v.imageResult (v.bytesOfAll x.accs) ≠ 0 then v.loadFail x (v.imageResult (v.bytesOfAll x.accs)) 0
    else if v.loadHeld v.saveCandidates (imgLogical (v.bytesOfAll x.accs)) then v
    else if v.maxJobs ≤ v.jobs.length then v.loadFail x 0x0C 0 else w) ∧
  (∀ (x : JLoad) (j : Nat) (l : List Medium) (v : State),
    v.loadWeights x j l = if v.allOk x.accs ∧ v.rootsOf (imgRoots (v.job j).image).length x.accs = (imgRoots (v.job j).image).map (·.2) then
      v.loadHead x j l else v.loadFail x 0x0A 0) ∧
  (∀ (j : Nat) (x : JLoad) (r cause : Nat) (v : State), x.job = some j →
    (v.loadFail x r cause).jobs.get? j = none ∧ ∀ i, (v.loadFail x r cause).lcs.get? (j * 1024 + i % 1024) = none) ∧
  (∀ (job : BitVec 12) (m : List Medium) (l : Launch) (s u : State), s.fatal = false → (s.job job.toNat).state = .launchPending →
    u = s.launchGo job.toNat m → (u.job job.toNat).launch = some l →
    (l.digested = false ∨ (imgPairs (u.job job.toNat).image = true ∧ l.helloOk = false) ∨ u.clk.poolTime.toNat < l.time.toNat →
      exec (.launch job m) s = .next u) ∧
    (l.digested = true → (imgPairs (u.job job.toNat).image = true → l.helloOk = true) → l.time.toNat ≤ u.clk.poolTime.toNat →
      (u.job job.toNat).reserved = true ∨ u.saveRoom (u.job job.toNat) = true → l.regions = none →
      extRegions (u.job job.toNat).image = [] ∨ (u.job job.toNat).flags.getLsbD 1 = true →
      exec (.launch job m) s = .next ((u.modJob job.toNat (fun x => { x with reserved := true })).launchNow job.toNat l)) ∧
    (l.digested = true → (imgPairs (u.job job.toNat).image = true → l.helloOk = true) → l.time.toNat ≤ u.clk.poolTime.toNat →
      (u.job job.toNat).reserved = false → u.saveRoom (u.job job.toNat) = false → l.time ≠ 0 →
      exec (.launch job m) s = .next (u.launchFail job.toNat 0x0B))) ∧
  (∀ (j : Nat) (l : Launch) (x : Job) (s : State), s.jobs.get? j = some x →
    ∃ v : State, s.launchNow j l = ((v.openGates j).offerAll j).jobDone l.cmd 0 j ∧ (v.job j).state = .running ∧
      (v.job j).launch = none ∧ (v.job j).image = x.image ∧ (v.job j).saveAtYield = l.saveAtYield ∧
      (v.job j).divContinue = l.divContinue ∧ (v.job j).flags.getLsbD 3 = (x.flags.getLsbD 3 || (l.locked && !s.zlg.locked)) ∧ (v.job j).launched = true ∧
      (x.flags.getLsbD 1 = true → v.lcs = s.lcs) ∧
      (x.flags.getLsbD 1 = false → ∀ i, i < imgLogical x.image → v.lc j i = (v.job j).freshLc i))

/-- Barriers, admissions, the watchdog, time slices and checkpoints (from R437, R475, R494, R495, R499, R500, R503, R508, R515,
R649, R650). Whose turn it is on a cluster is
the model's choice (notes/assumptions/82.md). -/
def Obligations.SuperstepsGoOn : Prop :=
  (∀ (job : BitVec 12) (m : List Medium) (s u : State), BarrierReady s job.toNat → u = (s.barrierOver job.toNat).saveCopies job.toNat →
    (imgPairs (s.job job.toNat).image = false → exec (.barrierOpen job m) s = .next (u.stepDone job.toNat m)) ∧
    (∀ ds : List DWord, imgPairs (s.job job.toNat).image = true → ds = (s.job job.toNat).lcs.map (fun i => (u.lc job.toNat i).digest) →
      exec (.barrierOpen job m) s = .next (((u.modJob job.toNat (fun x => { x with comparing := some ds })).sendDigests job.toNat
        ds).pairGo job.toNat m))) ∧
  (∀ (h : Fin 8) (j i k since uj : Nat) (s : State), s.nextStart h.val = some ((since, j, i), k) → s.fatal = false →
    (s.hub h.val).phase = .none → uj = chargeUj (imgClass (s.job j).image (s.job j).step) (s.clkStep h.val) →
    ((s.pwrHub h.val).held + uj ≤ (s.pwrHub h.val).computeUj ∨ (s.pwrHub h.val).charges = [] →
      exec (.superstepAdmission h) s = .next (s.admitStart h.val k j i since
        { cluster := k, eclass := imgClass (s.job j).image (s.job j).step, uj := uj })) ∧
    ((s.pwrHub h.val).computeUj < (s.pwrHub h.val).held + uj → (s.pwrHub h.val).charges ≠ [] →
      exec (.superstepAdmission h) s = .next s)) ∧
  (∀ (h k j i since : Nat) (c : Charge) (s : State), ∃ v : State, s.admitStart h k j i since c = v.openGates j ∧
    (v.lc j i).phase = .running ∧ (v.pwrHub h).charges = (s.pwrHub h).charges ++ [c] ∧ v.jobs = s.jobs ∧ v.gates = s.gates) ∧
  (∀ (job : BitVec 12) (i : Nat) (s : State), (s.job job.toNat).state = .running → (s.job job.toNat).watchdogMs ≠ 0 →
    (s.job job.toNat).comparing = none → s.fatal = false → i < imgLogical (s.job job.toNat).image →
    (s.lc job.toNat i).phase = .running ∨ (s.lc job.toNat i).phase = .yielded →
    (∃ n, n < imgLogical (s.job job.toNat).image ∧ (s.lc job.toNat n).place.isSome = true) →
    exec (.superstepWatchdog job) s = .next (s.endJob job.toNat 5 0 0)) ∧
  (∀ (c : CluAt) (j i : Nat) (s : State), (s.clu c.hub c.cluster).resident = some (j, i) → s.fatal = false →
    (s.hub c.hub).phase = .none → (s.lc j i).place = some (c.hub.val, c.cluster.val) →
    (s.lc j i).phase = .yielded ∨ (s.lc j i).phase = .waiting ∨ (s.lc j i).phase = .offered →
    ∃ t, exec (.timeSliceSave c) s = .next t ∧ (t.lc j i).place = none ∧ (t.clu c.hub c.cluster).resident = none ∧
      (t.lc j i).copy = some { step := (s.job j).step + (if (s.lc j i).phase = .yielded then 1 else 0), regs := (s.lc j i).regs,
                               staging := (s.lc j i).staging } ∧
      (t.lc j i).phase = (if (s.lc j i).phase = .offered then .waiting else (s.lc j i).phase) ∧ t.mem = s.mem ∧ t.jobs = s.jobs) ∧
  (∀ (c : CluAt) (job : BitVec 12) (lc : BitVec 10) (s : State), s.fatal = false → (s.hub c.hub.val).phase = .none →
    (s.job job.toNat).state = .running → lc.toNat < imgLogical (s.job job.toNat).image → (s.lc job.toNat lc.toNat).place = none →
    (s.lc job.toNat lc.toNat).phase ≠ .halted → (s.job job.toNat).saveHub lc.toNat = c.hub.val →
    s.mayRun c.hub.val c.cluster.val job.toNat = true → s.turnOf c.hub.val c.cluster.val job.toNat = true →
    ∃ t, exec (.timeSliceRestore c job lc) s = .next t ∧ (t.lc job.toNat lc.toNat).place = some (c.hub.val, c.cluster.val) ∧
      (t.clu c.hub.val c.cluster.val).resident = some (job.toNat, lc.toNat) ∧ (t.clu c.hub.val c.cluster.val).job = some job.toNat ∧
      (t.lc job.toNat lc.toNat).regs = (s.lc job.toNat lc.toNat).regs ∧
      (t.lc job.toNat lc.toNat).staging = (s.lc job.toNat lc.toNat).staging ∧
      ((s.clu c.hub.val c.cluster.val).job ≠ some job.toNat → (t.clu c.hub.val c.cluster.val).trap = false ∧
        (t.clu c.hub.val c.cluster.val).range = false) ∧ t.trn = s.trn ∧ t.mem = s.mem ∧ t.jobs = s.jobs) ∧
  (∀ (job : BitVec 12) (m : List Medium) (k : Ckpt) (r : List Ckpt) (l acc : List Nat) (s u v : State),
    (s.job job.toNat).ckpts = k :: r → k.accs = some l → s.fatal = false → s.accResendAll m l = (acc, u) →
    v = (u.modJob job.toNat (fun x => { x with ckpts := { k with accs := some acc } :: r })).cohEnd .clean →
    (v.allOver acc = false → exec (.checkpointComplete job m) s = .next v) ∧
    (v.allOver acc = true → exec (.checkpointComplete job m) s = .next ((((v.accDrop acc).modJob job.toNat (fun x => { x with
      ckpts := r, state := if v.allOk acc && k.hold then .held else x.state })).jobDone k.cmd (if v.allOk acc then 0 else 0x15)
        job.toNat).ckptsGo job.toNat m (r.length + 1))))

/-- The messages of a pair (from R513–R516, R694). A job ends: its state, its cause and where it arose are kept for `JSTATUS`, its logical
clusters halt and leave their clusters, and nothing waits on it any more; no other job's record changes (from R433, R491, R499,
R502, R517). -/
def Obligations.PairsAndJobsEnd : Prop :=
  (∀ (src : BitVec 8) (p : BitVec 32) (time : BitVec 64) (body : List Byte) (s u : State), s.fatal = false →
    s.ten.peers.contains src = true →
    u = { s with jobg := { s.jobg with hellos := s.jobg.hellos.set p.toNat (body, time) } } →
    (∀ j, u.pairJob p = some j → exec (.phello src p time body) s = .next (u.compareHello j)) ∧
    (u.pairJob p = none → exec (.phello src p time body) s = .next u)) ∧
  (∀ (src : BitVec 8) (p : BitVec 32) (time : BitVec 64) (body : List Byte) (s : State), s.ten.peers.contains src = false →
    exec (.phello src p time body) s = .next s) ∧
  (∀ (j : Nat) (l : Launch) (body : List Byte) (time : BitVec 64) (s u : State), (s.job j).launch = some l →
    s.jobg.hellos.get? l.pairId.toNat = some (body, time) → l.helloSent = true → l.helloOk = false →
    u = { s with jobg := { s.jobg with hellos := s.jobg.hellos.erase l.pairId.toNat } } →
    (body = s.helloBody (s.job j) → time = l.time → s.zlg.locked = true → (body.getD 58 0).getLsbD 0 = true →
      l.peerDev ≠ s.zlg.devNum.toNat →
      s.compareHello j = u.modJob j (fun x => { x with launch := x.launch.map (fun l => { l with helloOk := true }) })) ∧
    (body ≠ s.helloBody (s.job j) ∨ time ≠ l.time ∨ s.zlg.locked = false ∨ (body.getD 58 0).getLsbD 0 = false ∨
      l.peerDev = s.zlg.devNum.toNat → s.compareHello j = u.helloFail j)) ∧
  (∀ (job : BitVec 12) (l : Launch) (s : State), (s.job job.toNat).launch = some l → imgPairs (s.job job.toNat).image = true →
    l.helloOk = false → s.fatal = false → exec (.phelloTimeout job) s = .next (s.helloFail job.toNat)) ∧
  (∀ (p : BitVec 32) (step : BitVec 20) (first : BitVec 16) (ds : List DWord) (m : List Medium) (j : Nat) (s : State),
    s.pairJob p = some j → s.fatal = false → ds.length ≤ 32 →
    exec (.pdigest p step first ds m) s = .next ((s.modJob j (fun x => { x with
      peerDigests := ds.zipIdx.foldl (fun d e => d.set (step.toNat * 1024 + first.toNat + e.2) e.1) x.peerDigests })).pairGo j m)) ∧
  (∀ (j i : Nat) (d p : DWord) (r : List (DWord × Nat)) (s : State),
    (s.job j).peerDigests.get? ((s.job j).step * 1024 + i) = some p →
    (p = d → s.compareDigests j ((d, i) :: r) = s.compareDigests j r) ∧
    (p ≠ d → (s.job j).divContinue = false → s.compareDigests j ((d, i) :: r) = (false, (s.noteDiverge j i d p).endJob j 7 0 0)) ∧
    (p ≠ d → (s.job j).divContinue = true → s.compareDigests j ((d, i) :: r) = (s.noteDiverge j i d p).compareDigests j r)) ∧
  (∀ (p : BitVec 32) (c : BitVec 8) (j : Nat) (s : State), s.pairJob p = some j → s.fatal = false →
    exec (.pstop ⟨p, c⟩) s = .next (if (s.job j).state = .launchPending ∧ c = 0 then s.launchFail j 0x13 else s.endJob j 8 0 0)) ∧
  (∀ s : State, s.pairPorts = [] → s.fatal = false →
    exec .pairsPeerLost s = .next ((s.jobs.map (·.1)).foldl (fun u j =>
      if imgPairs (u.job j).image ∧ ((u.job j).state = .running ∨ (u.job j).state = .held) then u.endJob j 8 0 0 else u) s)) ∧
  (∀ (j cause lc trap : Nat) (s t : State), t = s.endJob j cause lc trap →
    (s.job j).state = .running ∨ (s.job j).state = .held ∨ (s.job j).state = .launchPending ∨ (s.job j).state = .loaded →
    (t.job j).state = (if cause = 0 then .ended else .faulted) ∧ (t.job j).cause = cause ∧ (t.job j).faultLc = BitVec.ofNat 16 lc ∧
      (t.job j).trapCode = BitVec.ofNat 16 trap ∧ (t.job j).image = (s.job j).image ∧ (t.job j).lastDone = (s.job j).lastDone ∧
      (t.job j).flags = (s.job j).flags ∧ (t.job j).waits = [] ∧ (t.job j).aborts = [] ∧ (t.job j).ckpts = [] ∧
      (t.job j).launch = none ∧
      (∀ i, i < imgLogical (s.job j).image → (t.lc j i).phase = .halted ∧ (t.lc j i).place = none ∧ (t.lc j i).regs = (s.lc j i).regs) ∧
      (∀ k, k ≠ j → t.job k = s.job k))

/-! ### The slalom and the gather engines (R461–R484) -/

/-- Tokens, closes and combines (from R462, R463, R466–R475, R809). -/
def Obligations.SlalomStepsGoOn : Prop :=
  (∀ (h : Fin 8) (src : BitVec 10) (j e : BitVec 12) (tok w : Word) (n : BitVec 20) (d : List Byte) (g : List Byte) (s : State),
    s.hears src = true → s.fatal = false → s.engineHeld h j.toNat (some e.toNat) = false →
    gateEntry (s.job j.toNat).image e.toNat = some g → partFits g 0 d = true → s.jobg.arriving.get? src.toNat = none →
    (s.refusal true j.toNat n.toNat = none → exec (.token h src j e tok w n 0 d) s = .next (s.acceptToken src j.toNat g tok w d)) ∧
    (∀ r, s.refusal true j.toNat n.toNat = some r →
      exec (.token h src j e tok w n 0 d) s = .next ((s.refuse (if r = 2 then h else s.gateHub j.toNat g) src j.toNat (gExpert g)
        tok.toNat n.toNat 0 r).setArriving src (if partCount g ≤ 1 then none
          else some { job := j.toNat, gate := g, index := tok, next := 1, accepted := false })))) ∧
  (∀ (h : Fin 8) (src : BitVec 10) (j e : BitVec 12) (tok w : Word) (n : BitVec 20) (p : BitVec 16) (d : List Byte) (g : List Byte)
    (ok : Bool) (a : Arriving) (s u : State), s.hears src = true → s.fatal = false → s.engineHeld h j.toNat (some e.toNat) = false →
    a = { job := j.toNat, gate := g, index := tok, next := p.toNat, accepted := ok } → s.jobg.arriving.get? src.toNat = some a →
    gExpert g = e.toNat → partFits g p.toNat d = true →
    u = s.setArriving src (if p.toNat + 1 < partCount g then some { a with next := p.toNat + 1 } else none) →
    exec (.token h src j e tok w n p d) s = .next (if ok ∧ (u.job j.toNat).state = .running then
      (u.landPart j.toNat g tok p.toNat (d.take (partLen g p.toNat))).prepareGo j.toNat else u)) ∧
  (∀ (h : Fin 8) (src : BitVec 10) (j e : BitVec 12) (tok w : Word) (n : BitVec 20) (p : BitVec 16) (d : List Byte) (g : List Byte)
    (s u : State), s.hears src = true → s.fatal = false → s.engineHeld h j.toNat (some e.toNat) = false →
    gateEntry (s.job j.toNat).image e.toNat = some g →
    (∃ a, s.jobg.arriving.get? src.toNat = some a ∧ a.fits j.toNat e.toNat tok p.toNat d = false) ∨
      (s.jobg.arriving.get? src.toNat = none ∧ (p ≠ 0 ∨ partFits g 0 d = false)) →
    u = s.setArriving src none →
    ((u.job j.toNat).state = .running → exec (.token h src j e tok w n p d) s =
      .next (u.gateFault (s.gateHub j.toNat g) j.toNat e.toNat 7)) ∧
    ((u.job j.toNat).state ≠ .running → exec (.token h src j e tok w n p d) s = .next u)) ∧
  (∀ (a : Arriving) (j e : Nat) (tok : Word) (p : Nat) (d : List Byte), a.fits j e tok p d = true ↔
    a.job = j ∧ gExpert a.gate = e ∧ a.index = tok ∧ a.next = p ∧ partFits a.gate p d = true) ∧
  (∀ (h : Fin 8) (src : BitVec 10) (j e : BitVec 12) (tok w : Word) (n : BitVec 20) (d : List Byte) (s : State), s.hears src = true →
    (s.fatal = true → exec (.token h src j e tok w n 0 d) s = .next (s.sendRefused src j.toNat e.toNat tok.toNat n.toNat 0 4 0)) ∧
    (s.fatal = false → s.engineHeld h j.toNat (some e.toNat) = false → gateEntry (s.job j.toNat).image e.toNat = none →
      s.jobg.arriving.get? src.toNat = none →
      exec (.token h src j e tok w n 0 d) s = .next (s.refuse h src j.toNat e.toNat tok.toNat n.toNat 0 2))) ∧
  (∀ (src : BitVec 10) (j : Nat) (g : List Byte) (tok w : Word) (d : List Byte) (s : State),
    ((tok, gExpert g) ∈ (s.job j).gates.reached.map (fun r => (r.1, r.2.1)) →
      s.acceptToken src j g tok w d = s.gateFault (s.gateHub j g) j (gExpert g) 2) ∧
    ((tok, gExpert g) ∉ (s.job j).gates.reached.map (fun r => (r.1, r.2.1)) →
      (∀ t, some t ∈ (s.gate j (gExpert g)).slots → t.index ≠ tok) → (∀ r ∈ (s.gate j (gExpert g)).residual, r.1 ≠ tok) →
      (s.job j).gates.closes.get? src.toNat = none →
      jTopk (s.job j).image ≤ (s.job j).gates.reached.countP (fun r => r.1 == tok) →
      s.acceptToken src j g tok w d = s.gateFault (s.gateHub j g) j (gExpert g) 4)) ∧
  (∀ (h : Fin 8) (src : BitVec 10) (j : BitVec 12) (k : Word) (n : BitVec 20) (s : State), s.hears src = true →
    (s.fatal = true → exec (.close h src j k n) s = .next (s.sendRefused src j.toNat 0 0 n.toNat 0 4 0)) ∧
    (∀ r, s.fatal = false → s.engineHeld h j.toNat none = false → s.refusal false j.toNat n.toNat = some r →
      exec (.close h src j k n) s = .next (s.refuse h src j.toNat 0 0 n.toNat 0 r)) ∧
    (s.fatal = false → s.engineHeld h j.toNat none = false → s.refusal false j.toNat n.toNat = none → (s.job j.toNat).gates.closes.get? src.toNat = none →
      (s.job j.toNat).gates.accepted.getD src.toNat 0 ≤ k.toNat →
      exec (.close h src j k n) s = .next ((s.modStep j.toNat (fun y => { y with
        closes := y.closes.set src.toNat k.toNat })).tryClose j.toNat src.toNat)) ∧
    (s.fatal = false → s.engineHeld h j.toNat none = false → s.refusal false j.toNat n.toNat = none →
      (s.job j.toNat).gates.closes.get? src.toNat ≠ none ∨ k.toNat < (s.job j.toNat).gates.accepted.getD src.toNat 0 →
      exec (.close h src j k n) s = .next (s.gateFault h j.toNat 0 3))) ∧
  (∀ (h : Fin 8) (src : BitVec 10) (j e : BitVec 12) (tok w k : Word) (n : BitVec 20) (p : BitVec 16) (d : List Byte) (s : State),
    s.fatal = false →
    (s.engineHeld h j.toNat (some e.toNat) = true → exec (.token h src j e tok w n p d) s = .next { s with si := { s.si with
      heldEngine := s.si.heldEngine ++ [.token h src j e tok w n p d] } }) ∧
    (s.engineHeld h j.toNat none = true → exec (.close h src j k n) s = .next { s with si := { s.si with
      heldEngine := s.si.heldEngine ++ [.close h src j k n] } })) ∧
  (∀ (job : BitVec 12) (m : List Medium) (j : Nat) (l : List Nat) (s u : State), j = job.toNat → (s.job j).state = .running →
    s.fatal = false → s.allArrived j = true → (s.job j).gates.ready = true →
    ((s.job j).gates.combined = true → s.accResendAll m (s.job j).gates.writes = (l, u) →
      exec (.combine job m) s = .next ((u.modStep j (fun y => { y with writes := l })).cohEnd .clean)) ∧
    (∀ v, (s.job j).gates.combined = false → s.accResendAll m ((s.job j).gates.reads.map (·.2)) = (l, u) →
      v = ((u.modStep j (fun y => { y with reads := (y.reads.map (·.1)).zip l })).readRows j m).cohEnd .clean → (v.job j).state = .running →
      ((v.job j).gates.reads.all (fun r => v.accOver r.2 && v.accStatus r.2 != .retry) = false → exec (.combine job m) s = .next v) ∧
      (∀ v1 v2 : State, (v.job j).gates.reads.all (fun r => v.accOver r.2 && v.accStatus r.2 != .retry) = true →
        v1 = (v.freshTokens j).foldl (fun u t => if (u.job j).state = .running then u.combineFresh j m t else u) v →
        v2 = (v1.spilledTokens j).foldl (fun u t => if (u.job j).state = .running then u.combineSpilled j m t else u) v1 →
        exec (.combine job m) s = .next (((v2.accDrop ((v2.job j).gates.reads.map (·.2))).modStep j (fun y => { y with
          combined := true, closed := true, prepared := true, reads := [] })).cohEnd .clean))))

/-- Gathers and selections (from R477–R483, R809). -/
def Obligations.GatherEnginesServe : Prop :=
  (∀ (h : Fin 8) (host : BitVec 10) (tag : BitVec 12) (op : BitVec 2) (ef ru : BitVec 8) (n : BitVec 16) (tb : BitVec 52) (d : List Byte)
    (m : List Medium) (g : Gather) (s : State), s.hears host = true → s.fatal = false → s.si.hold.hubs.getLsbD h = false → 1 ≤ n.toNat → n.toNat ≤ 1024 →
    1 ≤ ru.toNat → ru.toNat ≤ 32 → tb.toNat % 64 = 0 → ef.toNat ≤ 1 → (op = 0 → ef = 0) →
    g = { host := host, gtag := tag, op := op.toNat, fmt := ef.toNat, count := n.toNat, rowBytes := ru.toNat * 64, addr := tb.toNat,
          parts := [(0, d)] } →
    (64 ≤ (s.gathers h.val).length →
      ∃ b u, s.freeBackoff = (b, u) ∧ exec (.gather h host tag op ef ru n tb 0 d m) s = .next ((u.modSlg h.val (fun x => { x with
        gatherRefused := satAdd x.gatherRefused 1 })).sendGresult host tag .retry b [])) ∧
    ((s.gathers h.val).length < 64 → d.length < 4 * n.toNat →
      exec (.gather h host tag op ef ru n tb 0 d m) s = .next (s.modSlg h.val (fun x => { x with gathers := x.gathers ++ [g] }))) ∧
    ((s.gathers h.val).length < 64 → 4 * n.toNat ≤ d.length →
      exec (.gather h host tag op ef ru n tb 0 d m) s = .next ((s.modSlg h.val (fun x => { x with gathers := x.gathers ++ [g] })).gatherGo
        h.val { g with idx := (List.range n.toNat).map (fun k => bytesAt d (4 * k) 4), started := true } m))) ∧
  (∀ (h : Fin 8) (host : BitVec 10) (tag : BitVec 12) (op : BitVec 2) (ef ru : BitVec 8) (n : BitVec 16) (tb : BitVec 52) (d : List Byte)
    (m : List Medium) (s : State), s.hears host = true →
    (s.fatal = true → exec (.gather h host tag op ef ru n tb 0 d m) s = .next (s.sendGresult host tag .failed 0 [])) ∧
    (s.fatal = false → s.si.hold.hubs.getLsbD h = true → exec (.gather h host tag op ef ru n tb 0 d m) s = .next { s with si := { s.si with
      heldEngine := s.si.heldEngine ++ [.gather h host tag op ef ru n tb 0 d] } }) ∧
    (s.fatal = false → s.si.hold.hubs.getLsbD h = false → n = 0 ∨ 1024 < n.toNat ∨ ru = 0 ∨ 32 < ru.toNat ∨ tb.toNat % 64 ≠ 0 ∨ 1 < ef.toNat ∨ (op = 0 ∧ ef ≠ 0) →
      exec (.gather h host tag op ef ru n tb 0 d m) s = .next (s.sendGresult host tag .illegal 0 []))) ∧
  (∀ (h : Fin 8) (host : BitVec 10) (tag : BitVec 12) (k sf : BitVec 8) (dim : BitVec 16) (sa : BitVec 52) (b : List Byte)
    (m : List Medium) (g : Gather) (size : Nat) (s : State), s.hears host = true → s.fatal = false → s.si.hold.hubs.getLsbD h = false →
    sf.toNat ≤ 1 → 32 ≤ dim.toNat →
    dim.toNat ≤ 1024 → dim.toNat % 32 = 0 → sa.toNat % 64 = 0 → size = (if sf = 1 then 2 else 4) → (s.gathers h.val).length < 64 →
    g = { host := host, gtag := tag, select := true, op := if k = 0 then 256 else k.toNat, fmt := sf.toNat, rowBytes := dim.toNat * size,
          addr := sa.toNat, parts := [(0, b)] } →
    (b.length < 32 + dim.toNat * size → exec (.select h host tag k sf dim sa 0 b m) s = .next (s.modSlg h.val (fun x => { x with
      gathers := x.gathers ++ [g] }))) ∧
    (32 + dim.toNat * size ≤ b.length → bytesAt b 0 8 < 2 ^ 52 → 1 ≤ bytesAt b 8 4 → bytesAt b 8 4 ≤ 1048576 → 64 ≤ bytesAt b 0x0C 4 →
      bytesAt b 0x0C 4 ≤ 65536 → bytesAt b 0x0C 4 % 64 = 0 → bytesAt b 0x10 1 ≤ 1 → bytesAt b 0x11 15 = 0 →
      exec (.select h host tag k sf dim sa 0 b m) s = .next ((s.modSlg h.val (fun x => { x with gathers := x.gathers ++ [g] })).gatherGo
        h.val { g with
          count := bytesAt b 8 4, idx := List.range (bytesAt b 8 4), query := rowFp g.fmt ((b.drop 32).take (dim.toNat * size)),
          blockAddr := bytesAt b 0 8, blockBytes := bytesAt b 0x0C 4, ret := bytesAt b 0x10 1 == 1, started := true } m))) ∧
  (∀ (h : Fin 8) (host : BitVec 10) (tag : BitVec 12) (m : List Medium) (g : Gather) (s : State),
    (s.gathers h.val).find? (fun y => y.host == host && y.gtag == tag && y.started) = some g → s.fatal = false →
    (s.gatherOver g = false → exec (.gatherDone h host tag m) s = .next (s.gatherGo h.val g m)) ∧
    (s.gatherOver g = true → (s.gatherResult g).1 ≠ .retry →
      exec (.gatherDone h host tag m) s = .next (((s.accDrop (g.rows ++ g.blocks)).dropGather h.val g).sendGresult host tag
        (s.gatherResult g).1 0 (s.gatherResult g).2)) ∧
    (s.gatherOver g = true → (s.gatherResult g).1 = .retry →
      ∃ b u, s.freeBackoff = (b, u) ∧ exec (.gatherDone h host tag m) s = .next (((u.accDrop (g.rows ++ g.blocks)).dropGather h.val
        g).sendGresult host tag .retry b (s.gatherResult g).2)))

/-! ### Engine translation (R525–R549) -/

/-- Walks, held records and shootdowns (from R530, R534–R544). Where the rotation of a
hub's streams starts is the model's choice (notes/assumptions/82.md). -/
def Obligations.TranslationsGoOn : Prop :=
  (∀ (h : Fin 8) (c : Fin 14) (q : Fin 8) (m : List Medium) (x : Miss) (w : WalkEnd) (level table : Nat) (s u : State),
    s.nextWalk h.val = some x → x.cluster = c.val → x.stream = q.val → s.fatal = false → s.walkFrom h.val x = (level, table) →
    s.walk x.va (b2n x.write) level table m = (w, u) → exec (.walk h c q m) s = .next (u.walkEnd h.val w x)) ∧
  (∀ (h : Nat) (x : Miss) (s : State),
    (∀ w, (s.trnHub h).walkOf x = some w → s.walkFrom h x = (w.level, w.table)) ∧
    (∀ t, (s.trnHub h).walkOf x = none → x.table = some t → s.walkFrom h x = (1, t)) ∧
    ((s.trnHub h).walkOf x = none → x.table = none → s.walkFrom h x = (4, (s.job x.job).pages.headD 0 * 4096))) ∧
  (∀ (h : Nat) (x : Miss) (w : WalkEnd) (joined : List Miss) (u v : State),
    v = u.modTrn h (fun t => { t with walks := t.walks.filter (fun y => y.miss != x), lastWalk := x.cluster * 8 + x.stream }) →
    joined = (if x.table = none then (v.trnHub h).misses.filter (fun y => y.job == x.job && y.va / 2 ^ 21 == x.va / 2 ^ 21 && y != x
      && (y.write == x.write || (match w with | .fault 2 _ => false | _ => true))) else []) →
    (∀ level table, w = .again level table → u.walkEnd h w x = v.modTrn h (fun t => { t with
      walks := t.walks ++ [{ miss := x, level := level, table := table }] })) ∧
    ((∀ level table, w ≠ .again level table) → u.walkEnd h w x = (x :: joined).foldl (fun y z => y.missEnd h x.va w z) v)) ∧
  (∀ (h va shift dpa table : Nat) (rights : BitVec 3) (x : Miss) (s u : State), (s.trnHub h).misses.contains x = true →
    va / 2 ^ shift = x.va / 2 ^ shift → u = s.modTrn h (fun t => { t with misses := t.misses.filter (fun y => y != x) }) →
    (rights.getLsbD (b2n x.write) = true → s.missEnd h va (.leaf shift dpa rights table) x = ((u.modTrn h (fun t => t.fill x.cluster x.stream
      { job := x.job, shift := shift, vpn := x.va / 2 ^ shift, dpa := dpa, rights := rights })).missSeg x .todo).missGo x) ∧
    (rights.getLsbD (b2n x.write) = false →
      s.missEnd h va (.leaf shift dpa rights table) x = u.missFault h 2 ((shift - 12) / 9 + 1) x)) ∧
  (∀ (job : BitVec 12) (b : BitVec 27) (n : BitVec 17) (s : State),
    ((∀ r ∈ (s.job job.toNat).refs, r.hold = true → rangeMeets b n r.va (r.va + 2 ^ 28) = false) →
      exec (.recordResolve job b n) s = .next (s.presentHubs.foldl (fun u h => u.resolveOn (fun r => r.inRange job.toNat b n) h) s)) ∧
    ((∃ r ∈ (s.job job.toNat).refs, r.hold = true ∧ rangeMeets b n r.va (r.va + 2 ^ 28) = true) →
      exec (.recordResolve job b n) s = .next s)) ∧
  (∀ (h : Nat) (hit : FaultRec → Bool) (s : State),
    ((s.resolveOn hit h).trnHub h).records = (s.trnHub h).records.filter (fun r => !hit r) ∧
    ((s.resolveOn hit h).trnHub h).misses = (s.trnHub h).misses ++ ((s.trnHub h).records.filter hit).flatMap (·.waiters)) ∧
  (∀ (h : Fin 8) (i : Fin 64) (r : FaultRec) (s : State), (s.trnHub h.val).records[i.val]? = some r →
    exec (.holdLimit h i) s = .next (r.waiters.foldl State.missStop (r.waiters.foldl (fun u m => u.missLog h.val 3 r.level m)
      (s.modTrn h.val (fun t => { t with records := t.records.filter (fun x => x.id != r.id) }))))) ∧
  (∀ (job : BitVec 12) (sc : Bool) (b : BitVec 27) (n : BitVec 17) (x : Shoot) (s : State),
    x = { job := job.toNat, range := if sc then some (b.toNat, n.toNat) else none } →
    (s.shoot.now.isSome = true → exec (.shootdown job sc b n) s = .next { s with shoot := { s.shoot with
      job := job, scope := sc, base := b, count := n, go := true, queue := s.shoot.queue ++ [x] } }) ∧
    (s.shoot.now = none → ∃ t y, exec (.shootdown job sc b n) s = .next t ∧ t.shoot.now = some y ∧ y.job = x.job ∧ y.range = x.range ∧
      t.shoot.go = true ∧ t.shoot.queue = s.shoot.queue ∧ t.mem = s.mem ∧ t.jobs = s.jobs ∧
      (∀ h e, e ∈ ((t.trnHub h).micro.flatMap (·.2)) ∨ e ∈ ((t.trnHub h).cluster.flatMap (·.2)) ∨ e ∈ ((t.trnHub h).second.flatMap (·.2)) →
        x.hitsEnt e = false))) ∧
  (∀ (x : Shoot) (s u : State), s.shoot.now = some x → (∀ a ∈ x.sent, s.accOver a = true) → s.presentHubs.any s.hcRestarting = false →
    (x.range = none → (s.job x.job).retiring = true → s.allOver (s.job x.job).records = true) →
    u = (if x.range = none ∧ (s.job x.job).retiring = true then
          ({ s with shoot := { s.shoot with now := none, go := false, done := true } } : State).jobGone x.job
        else { s with shoot := { s.shoot with now := none, go := false, done := true } }) →
    (s.shoot.queue = [] → exec .shootdownComplete s = .next u) ∧
    (∀ y r, s.shoot.queue = y :: r →
      exec .shootdownComplete s = .next (({ u with shoot := { u.shoot with queue := r } } : State).shootStart y))) ∧
  (∀ (x : Shoot) (a : Nat) (s : State), s.shoot.now = some x → a ∈ x.sent → s.accOver a = false → exec .shootdownComplete s = .next s)

/-! ### DRAM, lifts and stored-data integrity (R557–R580, R598–R622) -/

/-- Training, refresh, temperatures, retraining and self-refresh (from R557–R561, R563, R564, R577–R580, R586, R604, R644). -/
def Obligations.DramChannelsAreKept : Prop :=
  (∀ (pass : BitVec 128) (lo hi : Nat) (r : Run), r = longestRun pass lo hi →
    (∀ i, r.first ≤ i → i < r.first + r.len → lo ≤ i ∧ i < hi ∧ pass.getLsbD i = true) ∧
    (∀ f n, lo ≤ f → f + n ≤ hi → (∀ i, f ≤ i → i < f + n → pass.getLsbD i = true) → n ≤ r.len ∧ (n = r.len → 0 < n → r.first ≤ f))) ∧
  (∀ (h c : Nat) (attempts : List (List LaneSweep)) (bad : ChState) (s : State),
    (∀ l, trainLanes c 3 attempts = some l → ((s.trainChan h c attempts bad).chan h c).state = .inService ∧
      l.length = byteLanes c ∧ (∀ r ∈ l, 16 ≤ r.read.len ∧ 16 ≤ r.write.len) ∧ ((s.trainChan h c attempts bad).chan h c).delays =
        l.map (fun r => (BitVec.ofNat 7 (r.read.first + (r.read.len - 1) / 2), BitVec.ofNat 7 (r.write.first + (r.write.len - 1) / 2)))) ∧
    (trainLanes c 3 attempts = none → ((s.trainChan h c attempts bad).chan h c).state = bad)) ∧
  (∀ (h c : Nat) (s : State) (n : Nat), n = ((s.takePhase h c).chan h c).nextRefresh →
    s.clk.now ≤ n ∧ n < s.clk.now + 3900 ∧ (s.clk.poolTime.toNat + (n - s.clk.now)) % 3900 =
      (if c < 32 then 3900 * c / 32 + 15 * h else 3900 * (2 * h + (c - 32)) / 16 + 60) % 3900) ∧
  (∀ (h : Fin 8) (c : ChanNo) (s : State), (s.chan h c).state = .inService ∨ (s.chan h c).state = .retraining →
    ((s.chan h c).nextRefresh ≤ s.clk.now → exec (.refresh h c) s = .next ((s.modChan h c (fun x => { x with
      nextRefresh := x.nextRefresh + 3900 })).bump h 5 0x82 c
        (if c.val < 32 then 295 else (s.chan h c).trfc1.getD (s.eff.u8 .tiers (8 * h.val + 1)) 0))) ∧
    (s.clk.now < (s.chan h c).nextRefresh → exec (.refresh h c) s = .next s)) ∧
  (∀ (h c : Nat) (temp : BitVec 8) (trip : Bool) (s : State), s.fatal = true → s.chanTemp h c temp trip = s) ∧
  (∀ (h : Fin 8) (c : Fin 34) (temp : BitVec 8) (trip : Bool) (s : State), s.hubPresent h = true → s.fatal = false →
    ∃ t, s.chanTemp h c temp trip = t ∧ (t.chan h c).tempC = temp ∧ (t.chan h c).thermal = trip ∧
      (t.chan h c).trainedC = some ((s.chan h c).trainedC.getD temp) ∧
      (t.chan h c).state = (s.chan h c).state ∧ t.mem = s.mem ∧ t.lineMeta = s.lineMeta ∧
      (trip = true → (t.pwrHub h).causes.contains .memThermal = true) ∧ (trip = false → t.pwrHubs = s.pwrHubs) ∧
      (∀ x, (s.chan h c).trainedC = some x → (s.chan h c).state = .inService →
        temp.toNat + 8 ≤ x.toNat ∨ x.toNat + 8 ≤ temp.toNat →
        (∃ at_, (at_, h.val, c.val) ∈ t.integ.retrainQueue) ∨ t.integ.retrainNow = some (h.val, c.val))) ∧
  (∀ (h : Fin 8) (c : Fin 2) (temp : BitVec 8) (hot : Bool) (s : State), s.hubPresent h = true →
    exec (.mr4Poll h c temp hot) s = .next (s.chanTemp h (32 + c.val) temp hot)) ∧
  (∀ (h : Fin 8) (c : Fin 32) (temp : BitVec 8) (s : State), s.hubPresent h = true →
    exec (.stackSensorPoll h c temp) s = .next (s.chanTemp h c temp (decide (95 < temp.toNat)))) ∧
  (∀ (at_ h c : Nat) (s : State), s.integ.retrainNow = none → s.fatal = false →
    s.integ.retrainQueue.find? (fun e => (s.chan e.2.1 e.2.2).state == .inService && !s.hcRestarting e.2.1) = some (at_, h, c) →
    exec .liveRetrain s = .next { s.modChan h c (fun x => { x with state := .retraining }) with integ := { s.integ with
      retrainNow := some (h, c), retrainQueue := s.integ.retrainQueue.filter (fun e => e.2 != (h, c)) } }) ∧
  (∀ (sweep : List LaneSweep) (h c : Nat) (l : List LaneRuns) (s : State), s.integ.retrainNow = some (h, c) → s.fatal = false →
    l = (s.chan h c).live c sweep →
    ∃ u : State, (u.chan h c).state = .inService ∧ (u.chan h c).suspects = [] ∧ (u.chan h c).retrains = satAdd (s.chan h c).retrains 1 ∧
      (u.chan h c).failures = (if l.all LaneRuns.passes then 0 else (s.chan h c).failures + 1) ∧
      (u.chan h c).trainedC = (if l.all LaneRuns.passes then some (s.chan h c).tempC else (s.chan h c).trainedC) ∧
      (u.chan h c).delays = (if l.all LaneRuns.passes then l.map (fun r => (r.read.centre, r.write.centre)) else (s.chan h c).delays) ∧
      u.integ.retrainNow = none ∧
      u.integ.retrainQueue = (if l.all LaneRuns.passes then [] else [(0, h, c)]) ++ s.integ.retrainQueue ∧ u.mem = s.mem ∧ u.sys = s.sys ∧
      exec (.retrainComplete sweep) s = .next (if 3 ≤ (u.chan h c).failures then (u.modChan h c (fun x => { x with state := .failed })).goFatal
        else if l.all LaneRuns.passes then u.chanDone h c else u)) ∧
  (∀ (h c : Nat) (s : State), (s.si.hold.channels = [] → s.chanDone h c = s) ∧
    (∀ i r, s.si.hold.channels = i :: r → h = i / 2 → c = 32 + i % 2 →
      s.chanDone h c = ({ s with si := { s.si with hold := { s.si.hold with channels := r } } } : State).chanHeld)) ∧
  (∀ (h : Fin 8) (c : ChanNo) (s : State), (s.fatal = true → exec (.memRetrainCmd h c) s = .next s) ∧
    (s.fatal = false → (s.chan h c).state = .inService ∨ (s.chan h c).state = .retraining ∨ (s.chan h c).state = .selfRefresh →
      exec (.memRetrainCmd h c) s = .next ((s.srExit h c).retrainAsk h c))) ∧
  (∀ (h : Fin 8) (c : ChanNo) (s : State), s.srMay h c = true → s.fatal = false →
    ∃ t, exec (.srEnter h c) s = .next t ∧ (t.chan h c).state = .selfRefresh ∧ t.mem = s.mem ∧ t.lineMeta = s.lineMeta ∧
      (c.val < 32 → t.slots = s.slots ∧ (t.chan h c).masked = [])) ∧
  (∀ (h : Fin 8) (c : ChanNo) (s : State), (s.chan h c).state = .selfRefresh → (s.chan h c).masked = [] → s.fatal = false →
    ∃ t, exec (.srExit h c) s = .next t ∧ (t.chan h c).state = .inService ∧
      (t.chan h c).nextRefresh = s.clk.now + toPhase h c s.clk.poolTime.toNat ∧ t.mem = s.mem ∧ t.slots = s.slots) ∧
  (∀ (h : Fin 8) (c : Fin 2) (s : State), (s.chan h (32 + c.val)).srIdleUs ≠ 0 → s.srMay h (32 + c.val) = true → s.fatal = false →
    exec (.srIdle h c) s = .next (s.srEnter h (32 + c.val)))

/-- Migrations and lifts (from R143, R568, R570–R576, R598). -/
def Obligations.LiftsAndMigrationsGoOn : Prop :=
  (∀ (h : Fin 8) (lost : List (BitVec 38)) (m : Migration) (u s : State),
    s.integ.migrations.find? (fun x => x.hub == h.val) = some m → s.fatal = false →
    (s.migrationPaused m = true → exec (.migrationComplete h lost) s = .next s) ∧
    (s.migrationPaused m = false →
      u = (lost.filter (fun l => s.migrates (64 * l.toNat) m)).foldl (fun v l => (v.lineLost l.toNat false).putPoison l.toNat) s →
      exec (.migrationComplete h lost) s = .next { u with integ := { u.integ with migrations := u.integ.migrations.erase m } })) ∧
  (∀ (k : Fin 32) (e : BitVec 16) (cls : BitVec 4) (given : Bool) (h : Fin 8) (s : State), s.slotMayCarve k = true → s.fatal = false →
    (s.liftRefusal e.toNat cls.toNat given h ≠ 0 → exec (.liftStart k e cls given h) s = .next { s with lift := { s.lift with
      lastResult := BitVec.ofNat 4 (s.liftRefusal e.toNat cls.toNat given h) } }) ∧
    (∀ d f u, s.liftRefusal e.toNat cls.toNat given h = 0 → s.chooseExtent cls.toNat given h = some (d, f) → u = s.carve cls.toNat d f →
      exec (.liftStart k e cls given h) s = .next { u with lift := {
        queue := u.lift.queue ++ [{ src := e, dest := BitVec.ofNat 16 d, cls := cls }], lastResult := 1 } })) ∧
  (∀ (k : Fin 32) (e : BitVec 16) (j : LiftJob) (u s : State), s.slotMayCarve k = true → s.fatal = false →
    s.lift.queue.find? (fun x => x.src == e && x.phase != .switching) = some j → u = s.uncarve j.dest.toNat →
    exec (.liftCancel k e) s = .next { u with lift := { queue := u.lift.queue.erase j, lastResult := 11 } }) ∧
  (∀ (j : LiftJob) (r : List LiftJob) (s : State), s.fatal = false → s.lift.queue = j :: r → j.phase = .queued →
    (s.liftOn j s.hcRestarting = false → s.liftHeld s.si.hold j = false →
      exec .liftBegin s = .next { s with lift := { s.lift with queue := { j with phase := .copying } :: r } }) ∧
    (s.liftHeld s.si.hold j = true → exec .liftBegin s = .next s)) ∧
  (∀ (lost : List (BitVec 22)) (med : Medium) (j : LiftJob) (r : List LiftJob) (s u v : State), s.lift.queue = j :: r →
    j.phase = .copying → s.fatal = false →
    u = (s.modLift (fun x => { x with reading := true })).liftReads (lost.map (·.toNat)) →
    v = (u.modLift (fun x => { x with phase := .switching, reading := false })).shootExtent j.src.toNat (fun x => { x with hold := true }) →
    (s.liftPaused j = true → exec (.liftCopyDone lost med) s = .next s) ∧
    (s.liftPaused j = false → u.lift.queue.any (fun k => k.src == j.src && k.next == 2 ^ 22) = true → u.liftRead j = true →
      exec (.liftCopyDone lost med) s = .next ((v.atomReleaseExtent j.src.toNat).cohEnd med)) ∧
    (s.liftPaused j = false → u.lift.queue.any (fun k => k.src == j.src && k.next == 2 ^ 22) = false ∨ u.liftRead j = false →
      exec (.liftCopyDone lost med) s = .next (u.cohEnd med))) ∧
  (∀ (lost : List Nat) (n : Nat) (j : LiftJob) (r : List LiftJob) (s : State), s.lift.queue = j :: r →
    (j.next < 2 ^ 22 → s.ownRoom (j.src.toNat * 2 ^ 22 + j.next) = true →
      State.liftGo lost (n + 1) s = State.liftGo lost n (s.liftLine j lost)) ∧
    (2 ^ 22 ≤ j.next ∨ s.ownRoom (j.src.toNat * 2 ^ 22 + j.next) = false → State.liftGo lost (n + 1) s = s)) ∧
  (∀ (l : Nat) (d : Option Line) (j : LiftJob) (r : List LiftJob) (s : State), s.lift.queue = j :: r →
    (l / 2 ^ 22 = j.src.toNat → s.liftTake l d = s.putCopy (j.dest.toNat * 2 ^ 22 + l % 2 ^ 22) d) ∧
    (l / 2 ^ 22 ≠ j.src.toNat → s.liftTake l d = s)) ∧
  (∀ (med : Medium) (j : LiftJob) (r : List LiftJob) (s : State), s.lift.queue = j :: r → j.phase = .switching →
    s.switchReady j.src.toNat = true → s.fatal = false → s.liftOn j s.hcRestarting = false →
    ∃ u : State, exec (.liftSwitchPoint med) s = .next (((u.markInit j.dest.toNat).uncarve j.src.toNat).release med) ∧
      u.lift.queue = r ∧ u.lift.lastResult = 2 ∧
      u.maps = s.maps.mapVals (fun _ m => m.mapVals (fun _ x => { x with extent := if x.extent = j.src then j.dest else x.extent })) ∧
      u.drains = s.drains.map (fun d => { d with extent := if d.extent = j.src then j.dest else d.extent }) ∧
      u.slots = s.slots ∧ u.dir = s.dir)

/-- Patrol, repair, logs, retired pages and raw accesses (from R124, R598–R622, R626–R631). -/
def Obligations.StoredDataIsLookedAfter : Prop :=
  (∀ (l : BitVec 38) (m : Medium) (p : Fin 101) (h c : Nat) (s v u : State), s.patrols l.toNat = true → s.fatal = false →
    s.sys.phase = .awake → h = l.toNat / 2 ^ 35 → c = s.chanOf (64 * l.toNat) →
    (s.chanPos (64 * l.toNat) < (s.chan h c).patrolAt → exec (.patrolRead l m p) s = .next s) ∧
    ((s.chan h c).patrolAt ≤ s.chanPos (64 * l.toNat) →
      v = (s.bump h 5 0x80 c 1).modChan h c (fun x => { x with patrolAt := s.chanPos (64 * l.toNat) + 64 }) →
      u = (if p.val = 100 then (List.range 34).foldl (fun w k => w.modChan h k (fun x => { x with patrolAt := 0 })) v else v).modMemHub h
        (fun x => if p.val = 100 then { x with scrubActive := false, progress := 0, passes := satAdd x.passes 1 }
          else { x with scrubActive := true, progress := BitVec.ofNat 7 p.val }) →
      exec (.patrolRead l m p) s = .next (u.patrolled l.toNat m))) ∧
  (∀ (sl : Nat) (m : Medium) (u : State),
    (rawMedium (u.rawDecode sl) m = .clean → u.patrolled sl m = u) ∧
    (∀ sy b r c, rawMedium (u.rawDecode sl) m = .corrected sy b r c →
      ((u.lmeta sl).poison = true ∨ u.rawDecode sl = some .poison → u.patrolled sl m = u) ∧
      ((u.lmeta sl).poison = false → u.rawDecode sl ≠ some .poison → u.patrolled sl m = u.corrected sl ⟨sy, b, r, c⟩)) ∧
    (∀ t, rawMedium (u.rawDecode sl) m = .uncorrectable t → u.patrolled sl m = u.hardData sl t) ∧
    (∀ t, rawMedium (u.rawDecode sl) m = .commandError t → u.patrolled sl m = u.hardCommand sl t)) ∧
  (∀ (lost : List (BitVec 38)) (x : Repair) (s u : State),
    s.integ.repairs.find? (fun y => (s.chan y.hub y.channel).state == .inService && !s.hcRestarting y.hub) = some x → s.fatal = false →
    u = { s with integ := { s.integ with repairs := s.integ.repairs.erase x } } →
    (u.spareLeft x = false → exec (.rowRepair lost) s = .next (u.exhaust x.at_ ⟨0, x.bank, x.row, x.column.getD 0⟩ x.column)) ∧
    (∀ v, u.spareLeft x = true → v = u.repairDone x →
      exec (.rowRepair lost) s = .next ((lost.filter (fun l => v.chanOf (64 * l.toNat) == x.channel && l.toNat / 2 ^ 35 == x.hub)).foldl
        (fun w l => if w.initAt (64 * l.toNat) then (w.hardData l.toNat false).putPoison l.toNat else w.lineLost l.toNat false) v))) ∧
  (∀ s : State, exec .logAck s = .next { s with integ := { s.integ with errLog := s.integ.errLog.drop 1 } }) ∧
  (∀ (k : Fin 32) (p : BitVec 32) (s u : State), s.slotMayCarve k = true → s.fatal = false → s.integ.retireBusy = false →
    u = { s with integ := { s.integ with retirePage := p } } →
    (s.slotState (p.toNat / 65536) = .absent → exec (.pageRetire k p) s = .next (u.retireEnd 4)) ∧
    (s.slotState (p.toNat / 65536) ≠ .absent → s.integ.retired.contains p.toNat = true →
      exec (.pageRetire k p) s = .next (u.retireEnd 2)) ∧
    (s.slotState (p.toNat / 65536) ≠ .absent → s.integ.retired.contains p.toNat = false →
      s.integ.retired.countP (fun q => q / 65536 / 8192 == p.toNat / 65536 / 8192) < 4096 → s.copying p.toNat = false →
      s.rlogRoom = true → ∃ v : State, exec (.pageRetire k p) s = .next v.retireProgress ∧ v.integ.retireBusy = true ∧
        v.integ.releasing = false ∧ v.integ.retired = insNat p.toNat s.integ.retired ∧ v.integ.retirePage = p ∧ v.slots = s.slots ∧
        v.maps = s.maps ∧ v.extents = s.extents)) ∧
  (∀ (k : Fin 32) (p : BitVec 32) (s : State), s.slotMayCarve k = true → s.fatal = false → s.integ.retireBusy = false →
    s.slotState (p.toNat / 65536) = .free → s.integ.retired.contains p.toNat = true →
    exec (.pageRelease k p) s = .next { s with integ := { s.integ with retirePage := p, retireBusy := true, releasing := true } }) ∧
  (∀ (path : Path) (l : BitVec 22) (s u : State), u = { s with integ := { s.integ with splitLine := l } } →
    (u.rawRefused path = true → exec (.rawWrite path l) s = .next (u.rawEnd 4 0)) ∧
    (u.rawRefused path = false → u.fatal = true → exec (.rawWrite path l) s = .next u) ∧
    (∀ v, u.rawRefused path = false → u.fatal = false → v = u.wakeChan (64 * u.splitAt) →
      exec (.rawWrite path l) s = .next (({ v with
        mem := memWriteBytes v.mem (64 * u.splitAt) (lineBytes v.integ.splitData),
        lineMeta := v.lineMeta.set u.splitAt { written := true, check := some v.integ.splitCheck, init := true } } : State).rawEnd 0 0))) ∧
  (∀ (path : Path) (l : BitVec 22) (f : Line × BitVec 128) (s u : State), u = { s with integ := { s.integ with splitLine := l } } →
    (u.rawRefused path = true → exec (.rawRead path l f) s = .next (u.rawEnd 4 0)) ∧
    (u.rawRefused path = false → u.fatal = true → exec (.rawRead path l f) s = .next u) ∧
    (∀ d c v, u.rawRefused path = false → u.fatal = false → (u.wakeChan (64 * u.splitAt)).rawBytes u.splitAt = ((d, c), v) →
      ∃ (t : State) (o : BitVec 3) (n : BitVec 4), exec (.rawRead path l f) s = .next t ∧
        t = ({ v with integ := { v.integ with splitData := d ^^^ f.1, splitCheck := c ^^^ f.2 } } : State).rawEnd o n ∧
        (rsDecode (isStack (64 * u.splitAt)) (d ^^^ f.1) (c ^^^ f.2) = .clean → o = 0 ∧ n = 0) ∧
        (∀ k x, rsDecode (isStack (64 * u.splitAt)) (d ^^^ f.1) (c ^^^ f.2) = .corrected k x → o = 1 ∧ n = BitVec.ofNat 4 k) ∧
        (rsDecode (isStack (64 * u.splitAt)) (d ^^^ f.1) (c ^^^ f.2) = .uncorrectable → o = 2 ∧ n = 0) ∧
        (rsDecode (isStack (64 * u.splitAt)) (d ^^^ f.1) (c ^^^ f.2) = .poison → o = 3 ∧ n = 0))) ∧
  (∀ s : State, s.fatal = false → exec (.fillComplete false) s = .next s.carveFilled ∧ exec (.fillComplete true) s = .next s.pageFilled) ∧
  (∀ s : State, s.integ.retireBusy = true → s.integ.releasing = true →
    s.pageFilled.integ.retired = delNat s.integ.retirePage.toNat s.integ.retired ∧ s.pageFilled.integ.retireBusy = false ∧
      s.pageFilled.integ.retireResult = 1 ∧
      (∀ i, i < 64 → memLine s.pageFilled.mem (s.integ.retirePage.toNat * 64 + i) = 0 ∧
        s.pageFilled.lmeta (s.integ.retirePage.toNat * 64 + i) =
          { written := true, init := ((s.wakeSlot (s.integ.retirePage.toNat / 65536)).lmeta (s.integ.retirePage.toNat * 64 + i)).init }))

/-! ### Single rules, whole -/

/-- R617: in each of its three cases a raw write and a raw read are refused with `OUTCOME` 4; neither touches memory. -/
def Obligations.RawAccessesAreRefused : Prop :=
  ∀ (p : Path) (line : BitVec 22) (flips : Line × BitVec 128) (s : State),
    (s.ten.state = .open_ ∨ s.ten.state = .ending ∨ s.ten.state = .resurfacing) ∨
    (∀ x, s.extents.get? s.integ.splitExt.toNat = some x → s.testOnly x.cls.toNat = false) ∨
    (∀ k x, p = .kmp k → s.session k.val = some x → s.isOperator x = false) →
    exec (.rawWrite p line) s =
      .next { s with integ := { s.integ with splitLine := line, splitOutcome := 4, splitSymbols := 0 } } ∧
    exec (.rawRead p line flips) s =
      .next { s with integ := { s.integ with splitLine := line, splitOutcome := 4, splitSymbols := 0 } }

/-! ### Power (R634–R656, R659, R662, R667) -/

/-- Feeds and sets: the switch-over, the return and the hold (from R635–R640). -/
def Obligations.FeedsAndSetsSwitch : Prop :=
  (∀ (b : Bool) (hs : List Nat) (s u : State), u = { s with pwr := if b then { s.pwr with feedBOk := false } else { s.pwr with feedAOk := false } } →
    (b = false → s.pwr.holdB = true → exec (.switchOver (.feed b)) s = .next u) ∧
    (b = true ∨ s.pwr.holdB = false → hs = u.presentHubs.filter (fun h => (u.pwrHub h).activeB == b) →
      exec (.switchOver (.feed b)) s = .next (u.switchHubs hs b))) ∧
  (∀ (h : Fin 8) (s : State), s.hubPresent h = true →
    exec (.switchOver (.unit h)) s = .next (s.switchHubs [h.val] (s.pwrHub h).activeB)) ∧
  (∀ (hs : List Nat) (feed : Bool) (s : State), ((∃ h ∈ hs, s.feedOk (!(s.pwrHub h).activeB) = false) → s.switchHubs hs feed = s.goFatal) ∧
    ((∀ h ∈ hs, s.feedOk (!(s.pwrHub h).activeB) = true) → hs.Nodup → ∀ h ∈ hs,
      ((s.switchHubs hs feed).pwrHub h).activeB = !(s.pwrHub h).activeB ∧
      ((s.switchHubs hs feed).pwrHub h).switchovers = satAdd (s.pwrHub h).switchovers 1 ∧
      ((s.switchHubs hs feed).pwrHub h).causes.contains .switchOver = true ∧ ((s.switchHubs hs feed).pwrHub h).duty = 0)) ∧
  (∀ (h : Fin 8) (s : State), s.hubPresent h = true → (s.pwrHub h).activeB = true → (s.pwrHub h).acting = false → s.pwr.holdB = false →
    s.pwr.feedAOk = true → exec (.aSetReturn h) s = .next (s.modPwr h (fun p => { p with activeB := false }))) ∧
  (∀ s : State, (s.pwr.feedBOk = true → exec .holdB s = .next (s.presentHubs.foldl (fun u h => u.modPwr h (fun p => { p with
      activeB := true })) { s with pwr := { s.pwr with holdB := true, cmdResult := 1 } })) ∧
    (s.pwr.feedBOk = false → exec .holdB s = .next { s with pwr := { s.pwr with cmdResult := 2 } })) ∧
  (∀ s : State, exec .releaseHold s = .next { s with pwr := { s.pwr with holdB := false, cmdResult := 1 } }) ∧
  (∀ (b : Bool) (amps : BitVec 9) (s u : State), u = { s with pwr := if b then { s.pwr with ampsB := amps } else { s.pwr with ampsA := amps } } →
    (2 * s.eff.u8 .power 2 < amps.toNat →
      exec (.overCurrent b amps) s = .next (u.snow .overCurrent (u.presentHubs.filter (fun h => (u.pwrHub h).activeB == b)) b)) ∧
    (amps.toNat ≤ 2 * s.eff.u8 .power 2 → exec (.overCurrent b amps) s = .next u)) ∧
  (∀ (b within : Bool) (s : State), exec (.standbyFeedFault b within) s = .next { s with
    pwr := if b then { s.pwr with feedBOk := within } else { s.pwr with feedAOk := within } })

/-- Temperatures, caps, the energy ledger and the snowplough (from R642–R655, R662, R667). -/
def Obligations.PowerIsKeptWithinLimits : Prop :=
  (∀ (h : Fin 8) (ts : List (BitVec 8)) (t : BitVec 8) (s u : State), s.hubPresent h = true →
    t = (ts.take 24).foldl (fun a x => if a < x then x else a) 0 → u = s.modPwr h (fun p => { p with tj := t }) →
    (112 ≤ t.toNat → exec (.sensorRead h ts) s = .next ({ u with pwr := { u.pwr with overTemp := u.pwr.overTemp || !u.fatal } } : State).goFatal) ∧
    (105 ≤ t.toNat → t.toNat < 112 → exec (.sensorRead h ts) s = .next (u.thermalTrip h .thermal)) ∧
    (t.toNat < 105 → exec (.sensorRead h ts) s = .next u)) ∧
  (∀ (h : Fin 8) (s : State), s.hubPresent h = true →
    ∃ t, exec (.thermalCapAdjust h) s = .next t ∧ (t.pwrHub h).thermalStep = (
        if s.tjTarget < (s.pwrHub h).tj.toNat then (s.pwrHub h).thermalStep - 1
        else if (s.pwrHub h).tj.toNat + 3 < s.tjTarget ∧ (s.pwrHub h).firstUse = false then min s.clkMax ((s.pwrHub h).thermalStep + 1)
        else (s.pwrHub h).thermalStep) ∧ (∀ k, k ≠ h.val → t.pwrHub k = s.pwrHub k)) ∧
  (∀ (h : Fin 8) (s : State), exec (.firstUseEnd h) s = .next (s.modPwr h (fun p => { p with firstUse := false }))) ∧
  (∀ (h : Fin 8) (est : Nat) (s : State), s.inService h = true →
    ∃ t, exec (.ledgerWindow h est) s = .next t ∧ (∀ k, k ≠ h.val → t.pwrHub k = s.pwrHub k) ∧ (t.pwrHub h).firstWindow = false ∧
      (t.pwrHub h).poolUj = (if (s.pwrHub h).firstWindow then 10 * s.reserveW h else max (10 * s.reserveW h) est) ∧
      (t.pwrHub h).computeUj = 10 * s.budgetW h - (t.pwrHub h).poolUj ∧
      (t.pwrHub h).charges = (s.pwrHub h).charges.map (fun c => { c with uj := chargeUj c.eclass (s.clkStep h) }) ∧
      (t.pwrHub h).duty = (if (s.pwrHub h).acting then 0
        else if (t.pwrHub h).held ≤ (t.pwrHub h).computeUj then 16
        else 16 * (t.pwrHub h).computeUj / (t.pwrHub h).held)) ∧
  (∀ (h : Fin 8) (amps : BitVec 9) (s u : State), u = s.feedAmps (s.pwrHub h).activeB amps →
    ((s.pwrHub h).causes.contains .overCurrent = true ∧ 2 * u.feedLimit < amps.toNat) ∨
      ((s.pwrHub h).causes.contains .thermal = true ∧ 105 ≤ (s.pwrHub h).tj.toNat) →
    exec (.snowploughEscalate h amps) s = .next (({ u with pwr := { u.pwr with log := { u.pwr.log with escalated := true } } } : State).modPwr h
      (fun p => { p with poolThr := true }))) ∧
  (∀ (h : Fin 8) (c : SnowCause) (amps : BitVec 9) (s : State), (s.pwrHub h).causes.contains c = true → s.mayClear h c amps = true →
    ∃ t, exec (.snowploughRelease h c amps) s = .next t ∧ (t.pwrHub h).causes = (s.pwrHub h).causes.filter (· != c) ∧
      ((t.pwrHub h).causes = [] → (t.pwrHub h).poolThr = false ∧
        (t.pwrHub h).duty = dutyOf (s.pwrHub h).held (s.pwrHub h).computeUj) ∧
      ((t.pwrHub h).causes ≠ [] → (t.pwrHub h).poolThr = (s.pwrHub h).poolThr ∧ (t.pwrHub h).duty = (s.pwrHub h).duty) ∧
      (∀ k, k ≠ h.val → t.pwrHub k = s.pwrHub k)) ∧
  (∀ (h : Fin 8) (c others : Nat) (s : State), (s.pwrHub h).snowCap = some c → (s.pwrHub h).acting = false →
    others = min (min s.clkMax (s.pwrHub h).thermalStep) (if (s.pwrHub h).firstUse then 0 else 14) →
    exec (.snowploughClimb h) s = .next (s.modPwr h (fun p => { p with snowCap := if others ≤ c + 1 then none else some (c + 1) }))) ∧
  (∀ s : State, exec .snowploughTest s = .next (({ s with pwr := { s.pwr with cmdResult := 1 } } : State).snow .test s.serviceHubs false)) ∧
  (∀ (c : SnowCause) (h : Nat) (r : List Nat) (feed : Bool) (s : State),
    (s.snow c (h :: r) feed).pwr.log = { cause := snowCode c, hub := BitVec.ofNat 3 h, feed := feed, valid := true } ∧
    ∀ k ∈ h :: r, ((s.snow c (h :: r) feed).pwrHub k).causes.contains c = true ∧ ((s.snow c (h :: r) feed).pwrHub k).snowCap = some 0 ∧
      ((s.snow c (h :: r) feed).pwrHub k).duty = 0)

/-- The package fatal line (from R37, R809): from the moment it is asserted every hub that is present is stopped, and nothing is
outstanding any more; asserting it again changes nothing. -/
def Obligations.FatalStateFailsEverything : Prop :=
  (∀ s : State, s.fatal = true → s.goFatal = s) ∧
  (∀ s : State, s.fatal = false → s.goFatal.fatal = true ∧ s.goFatal.sys.fatalAt = some s.clk.now ∧ s.goFatal.lines = [] ∧
    s.goFatal.accesses = [] ∧ s.goFatal.carver = {} ∧ s.goFatal.heldMsgs = [] ∧ s.goFatal.si.heldEngine = [] ∧
    (∀ k, ∀ x ∈ s.goFatal.bulkRx.get? k, x.discard = true) ∧ s.goFatal.sys.hrGo = false ∧
    (∀ h ∈ s.presentHubs, (s.goFatal.hub h).fatal = true ∧ (s.goFatal.hub h).phase = .none ∧ (s.goFatal.slgHub h).gathers = []) ∧ s.goFatal.mem = s.mem ∧
    s.goFatal.maps = s.maps ∧ s.goFatal.extents = s.extents ∧ s.goFatal.dir = s.dir)

/-! ### SPDM, link keys and seals (R671–R702, R717) -/

/-- Negotiation, certificates and attestation (from R672, R676, R695, R717); key exchange, sessions, chunks and requests that are
not supported (from R330, R671, R676–R678, R688, R693). -/
def Obligations.SpdmSessionsAreMade : Prop :=
  (∀ (c : SpdmCarrier) (ses : Option (Nat × KmpSession)) (s v : State), SpdmServed s c ses v →
    exec (.getVersion c) s = .next ((v.modSpdm (spdmFrom c) (fun x => { level := 1, nextHandle := x.nextHandle })).spdmAnswered c ses
      (.resp .version)) ∧
    (1 ≤ (v.spdmSt (spdmFrom c)).level → exec (.getCapabilities c) s = .next ((v.modSpdm (spdmFrom c) (fun x => { x with
      level := 2 })).spdmAnswered c ses (.resp .capabilities))) ∧
    (2 ≤ (v.spdmSt (spdmFrom c)).level → exec (.negotiateAlgorithms c true) s = .next ((v.modSpdm (spdmFrom c) (fun x => { x with
      level := 3 })).spdmAnswered c ses (.resp .algorithms))) ∧
    ((v.spdmSt (spdmFrom c)).level < 2 → ∀ common,
      exec (.negotiateAlgorithms c common) s = .next (v.spdmAnswered c ses (.resp (.error .unexpectedRequest)))) ∧
    (2 ≤ (v.spdmSt (spdmFrom c)).level →
      exec (.negotiateAlgorithms c false) s = .next (v.spdmAnswered c ses (.resp (.error .invalidRequest)))) ∧
    ((v.spdmSt (spdmFrom c)).level = 0 →
      exec (.getCapabilities c) s = .next (v.spdmAnswered c ses (.resp (.error .unexpectedRequest))))) ∧
  (∀ (c : SpdmCarrier) (ses : Option (Nat × KmpSession)) (s v : State), SpdmServed s c ses v → v.spdmReady c ses →
    exec (.getDigests c) s = .next (v.spdmAnswered c ses (.resp (.digests (Config.sha512 Config.certChain)))) ∧
    (∀ off len : BitVec 16, exec (.getCertificate c 0 off len) s = .next (v.spdmAnswered c ses (.resp
      (if off.toNat < Config.certChain.length then .certificate ((Config.certChain.drop off.toNat).take (min len.toNat 1024))
        (Config.certChain.length - off.toNat - ((Config.certChain.drop off.toNat).take (min len.toNat 1024)).length)
      else .error .invalidRequest)))) ∧
    (∀ (k : Fin 16) (off len : BitVec 16), k ≠ 0 →
      exec (.getCertificate c k off len) s = .next (v.spdmAnswered c ses (.resp (.error .invalidRequest)))) ∧
    (∀ n : BitVec 256, ∃ mine : BitVec 256, exec (.challenge c 0 n) s = .next (({ v with freeCtr := v.freeCtr + 1 } : State).spdmAnswered c
      ses (.resp (.challengeAuth mine (Config.identitySign (nonceBytes n ++ nonceBytes mine)))))) ∧
    (∀ (k : Fin 16) (n : BitVec 256), k ≠ 0 →
      exec (.challenge c k n) s = .next (v.spdmAnswered c ses (.resp (.error .invalidRequest)))) ∧
    (∀ (i : BitVec 8) (sign : Bool) (n : BitVec 256) (bs : List (Nat × List Byte)) (size : Nat), v.measurements i.toNat = some bs →
      size = bs.foldl (fun a b => a + 7 + b.2.length) (42 + if sign then 512 else 0) →
      ∃ (mine : BitVec 256) (a : SpdmAnswer) (w : State), exec (.getMeasurements c i sign n) s = .next (w.spdmAnswered c ses a) ∧
        ({ v with freeCtr := v.freeCtr + 1 } : State).spdmSized (spdmFrom c) size (.measurements (if sign then some mine else none) bs
          (if sign then some (Config.identitySign (nonceBytes n ++ nonceBytes mine ++ bs.flatMap (·.2))) else none)) = (a, w)) ∧
    (∀ (i : BitVec 8) (sign : Bool) (n : BitVec 256), v.measurements i.toNat = none →
      exec (.getMeasurements c i sign n) s = .next (v.spdmAnswered c ses (.resp (.error .invalidRequest))))) ∧
  (∀ (c : SpdmCarrier) (ses : Option (Nat × KmpSession)) (s v : State), SpdmServed s c ses v → ¬v.spdmReady c ses →
    (∀ x ∈ ([.getDigests c, .getCertificate c 0 0 0, .challenge c 0 0, .getMeasurements c 0xFF true 0] : List Instr),
      exec x s = .next (v.spdmAnswered c ses (.resp (.error .unexpectedRequest))))) ∧
  (∀ (c : SpdmCarrier) (ses : Option (Nat × KmpSession)) (rq : BitVec 16) (both : Bool) (s v : State), SpdmServed s c ses v →
    (((v.spdmSt (spdmFrom c)).level < 3 ∧ v.spdmLeads (spdmFrom c) = false) ∨ ses.isSome = true →
      exec (.keyExchange c rq both) s = .next (v.spdmAnswered c ses (.resp (.error .unexpectedRequest))))) ∧
  (∀ (hdr : KmpHdr) (rq : BitVec 16) (both : Bool) (k : Nat) (s v u : State), SpdmServed s (.kmp hdr) none v →
    3 ≤ (v.spdmSt (spdmFrom (.kmp hdr))).level →
    u = { v.modSpdm (spdmFrom (.kmp hdr)) (fun x => { x with exch := none }) with freeCtr := v.freeCtr + 1 } → u.exchangeSlot = some k →
    ∃ rsp : BitVec 16, rsp.toNat % 64 = (k + 1) % 64 ∧ exec (.keyExchange (.kmp hdr) rq both) s = .next ((u.modSpdm (spdmFrom (.kmp hdr))
      (fun x => { x with exch := some { slot := some k, reqSid := rq, rspSid := rsp, both := both } })).spdmAnswered (.kmp hdr) none
      (.resp (.keyExchange rsp both (Config.identitySign (leBytes 4 (rsp.toNat * 65536 + rq.toNat))))))) ∧
  (∀ (h : BitVec 10) (rq : BitVec 16) (both : Bool) (s v u : State), SpdmServed s (.zl h) none v → 3 ≤ (v.spdmSt (.zl h)).level →
    v.ten.state ≠ .ending → v.ten.state ≠ .resurfacing → v.sealed = false ∨ (v.ten.state = .open_ ∧ both = true) →
    u = { v.modSpdm (.zl h) (fun x => { x with exch := none }) with freeCtr := v.freeCtr + 1 } →
    ∃ rsp : BitVec 16, exec (.keyExchange (.zl h) rq both) s = .next ((u.modSpdm (.zl h) (fun x => { x with
      exch := some { slot := none, reqSid := rq, rspSid := rsp, both := v.sealed } })).spdmAnswered (.zl h) none
      (.resp (.keyExchange rsp v.sealed (Config.identitySign (leBytes 4 (rsp.toNat * 65536 + rq.toNat))))))) ∧
  (∀ (d : BitVec 8) (b : List Byte) (rq : BitVec 16) (s v u : State), SpdmServed s (.peer d b) none v →
    3 ≤ (v.spdmSt (.peer d)).level ∨ v.spdmLeads (.peer d) = true →
    u = { v.modSpdm (.peer d) (fun x => { x with exch := none }) with freeCtr := v.freeCtr + 1 } →
    ∃ rsp : BitVec 16, exec (.keyExchange (.peer d b) rq true) s = .next ((({ u with ten := { u.ten with
      peers := u.ten.peers.filter (· != d) } } : State).modSpdm (.peer d) (fun x => { x with
      exch := some { slot := none, reqSid := rq, rspSid := rsp, both := true } })).spdmAnswered (.peer d b) none
      (.resp (.keyExchange rsp true (Config.identitySign (leBytes 4 (rsp.toNat * 65536 + rq.toNat))))))) ∧
  (∀ (c : SpdmCarrier) (ses : Option (Nat × KmpSession)) (mac sig : Bool) (x : SpdmExch) (s v u : State), SpdmServed s c ses v →
    (v.spdmSt (spdmFrom c)).exch = some x → u = v.modSpdm (spdmFrom c) (fun y => { y with exch := none }) →
    (mac = false → exec (.finish c mac sig) s = .next (u.spdmAnswered c ses (.resp (.error .decryptError)))) ∧
    (mac = true → x.both = true → x.root = none ∨ sig = false →
      exec (.finish c mac sig) s = .next (u.spdmAnswered c ses (.resp (.error .invalidRequest)))) ∧
    (∀ hdr k, mac = true → x.both = false ∨ (x.root ≠ none ∧ sig = true) → c = .kmp hdr → x.slot = some k →
      ∃ secret : Nat, exec (.finish c mac sig) s = .next ((({ u with freeCtr := u.freeCtr + 1 } : State).openSession k {
        sid := BitVec.ofNat 32 (x.rspSid.toNat * 65536 + x.reqSid.toNat), port := hdr.port, secret := secret, key := kmpKeyOf secret,
        auth := u.authOf (if x.both then x.root else none) }).spdmAnswered c ses (.resp .finish))) ∧
    (∀ h w, mac = true → x.both = false ∨ (x.root ≠ none ∧ sig = true) → c = .zl h → u.ten.state ≠ .ending →
      u.ten.state ≠ .resurfacing → u.sealed = false ∨ u.authOf (if x.both then x.root else none) = .tenant →
      w = (if (u.linkOf h.toNat).isSome then u.restartHost h.toNat else u) →
      ∃ secret : Nat, exec (.finish c mac sig) s = .next (({ w with
        freeCtr := w.freeCtr + 1
        ten := { w.ten with links := w.ten.links.set h.toNat { txKey := linkTxKey secret, rxKey := linkRxKey secret } } } : State).spdmAnswered
        c ses (.resp .finish))) ∧
    (∀ d b, mac = true → x.both = false ∨ (x.root ≠ none ∧ sig = true) → c = .peer d b →
      (x.root = some Config.kywynRoot → u.sealed = false ∨ u.peerTenant b = true →
        exec (.finish c mac sig) s = .next (({ u with ten := { u.ten with peers := d :: u.ten.peers.filter (· != d) } } : State).spdmAnswered
          c ses (.resp .finish))) ∧
      (x.root ≠ some Config.kywynRoot ∨ (u.sealed = true ∧ u.peerTenant b = false) →
        exec (.finish c mac sig) s = .next (u.spdmAnswered c ses (.resp (.error .invalidRequest)))))) ∧
  (∀ (c : SpdmCarrier) (ses : Option (Nat × KmpSession)) (s v : State), SpdmServed s c ses v →
    (v.spdmSecure (spdmFrom c) (ses.map (·.1)) = true →
      exec (.heartbeat c) s = .next (v.spdmAnswered c ses (.resp .heartbeatAck)) ∧
      exec (.keyUpdate c) s = .next (v.spdmAnswered c ses (.resp .keyUpdateAck)) ∧
      exec (.endSession c) s = .next ((match ses with | some (k, _) => v.endSession k | none => v).spdmAnswered c ses (.resp .endSessionAck))) ∧
    (v.spdmSecure (spdmFrom c) (ses.map (·.1)) = false → ∀ x ∈ ([.heartbeat c, .keyUpdate c, .endSession c] : List Instr),
      exec x s = .next (v.spdmAnswered c ses (.resp (.error .unexpectedRequest)))) ∧
    exec (.unsupportedSpdmRequest c) s = .next (v.spdmAnswered c ses (.resp (.error .unsupportedRequest)))) ∧
  (∀ (c : SpdmCarrier) (ses : Option (Nat × KmpSession)) (x : SpdmExch) (root : BitVec 4096) (n : BitVec 4) (s v : State), SpdmServed s c ses v →
    (v.spdmSt (spdmFrom c)).exch = some x → x.both = true →
    exec (.getEncapsulatedRequest c) s = .next (v.spdmAnswered c ses (.resp .encapRequest)) ∧
    (1 ≤ n.toNat → n.toNat ≤ 4 → exec (.deliverEncapsulatedResponse c root n true) s = .next ((v.modSpdm (spdmFrom c) (fun y => { y with
      exch := some { x with root := some root } })).spdmAnswered c ses (.resp .encapAck))) ∧
    (∀ ok, n = 0 ∨ 4 < n.toNat ∨ ok = false → exec (.deliverEncapsulatedResponse c root n ok) s = .next (v.spdmAnswered c ses
      (.resp (.error .invalidRequest))))) ∧
  (∀ (c : SpdmCarrier) (ses : Option (Nat × KmpSession)) (hd : BitVec 8) (n : BitVec 16) (d b : List Byte) (root : BitVec 4096) (k : BitVec 4) (ok : Bool)
    (s v : State), SpdmServed s c ses v → v.spdmReady c ses →
    (n = 0 ∧ b = []) ∨ (n ≠ 0 ∧ (v.spdmSt (spdmFrom c)).chunkIn = some (hd, n.toNat, b)) →
    exec (.chunkSend c hd n d false root k ok) s = .next ((v.modSpdm (spdmFrom c) (fun x => { x with
      chunkIn := some (hd, n.toNat + 1, b ++ d) })).spdmAnswered c ses (.resp (.chunkSendAck hd n)))) ∧
  (∀ (c : SpdmCarrier) (ses : Option (Nat × KmpSession)) (hd : BitVec 8) (n : BitVec 16) (b : List Byte) (s v : State), SpdmServed s c ses v →
    v.spdmReady c ses → (v.spdmSt (spdmFrom c)).chunkOut = some (hd, b) → n = 0 ∨ chunkBytes * n.toNat < b.length →
    exec (.chunkGet c hd n) s = .next ((if b.length ≤ chunkBytes * (n.toNat + 1) then
        v.modSpdm (spdmFrom c) (fun x => { x with chunkOut := none }) else v).spdmAnswered c ses
      (.resp (.chunk hd n (decide (b.length ≤ chunkBytes * (n.toNat + 1))) ((b.drop (chunkBytes * n.toNat)).take chunkBytes)))))

/-- Fragments and seals (from R690–R692). -/
def Obligations.FragmentsAndSealsAreKept : Prop :=
  (∀ (h : BitVec 10) (last : Bool) (m : BitVec 24) (d : List Byte) (s : State), s.hears h = true →
    exec (.spdmFragment h 0 last m d) s = .next { s with ten := { s.ten with
      frags := s.ten.frags.set h.toNat { mseq := m, next := 1, bytes := d.take 256, whole := last } } }) ∧
  (∀ (h : BitVec 10) (i : BitVec 8) (last : Bool) (m : BitVec 24) (d : List Byte) (f : SpdmFrag) (s : State), s.hears h = true → i ≠ 0 →
    s.ten.frags.get? h.toNat = some f →
    (f.mseq = m → f.next = i.toNat → f.whole = false →
      exec (.spdmFragment h i last m d) s = .next { s with ten := { s.ten with
        frags := s.ten.frags.set h.toNat { f with next := i.toNat + 1, bytes := f.bytes ++ d.take 256, whole := last } } }) ∧
    (f.mseq ≠ m ∨ f.next ≠ i.toNat ∨ f.whole = true → exec (.spdmFragment h i last m d) s = .next s)) ∧
  (∀ (h : BitVec 10) (lvc : BitVec 3) (q : BitVec 24) (lap : BitVec 40) (tags : List (BitVec 128)) (s : State), s.hears h = true →
    1 ≤ tags.length → tags.length ≤ 16 →
    exec (.seal_ h lvc q lap tags) s = .next ((tags.zipIdx.foldl (fun u e => u.takeTag {
      host := h, lvc := lvc, lap := lap.toNat + (if q + BitVec.ofNat 24 e.2 < q then 1 else 0), tseq := q + BitVec.ofNat 24 e.2, tag := leBytes 16 e.1.toNat })
      s).pruneTags)) ∧
  (∀ (h : BitVec 10) (lvc : BitVec 3) (t : SealTag) (r run : List SealTag) (s : State),
    s.ten.tagsOut.filter (fun x => x.host == h && x.lvc == lvc) = t :: r → s.sys.portsStopped = false → (s.host h.toNat).dead = false →
    run = t :: sealRun t 15 r →
    ∃ (u : State) (payload : BitVec 160), exec (.sealSend h lvc) s = .next (u.sendPkt h.toNat 7 5 payload (bytesCells ((run.length + 1) / 2)
        (run.flatMap (·.tag)))) ∧
      u.ten.tagsOut = s.ten.tagsOut.filter (fun x => !run.contains x) ∧
      u.out = s.out ++ [.seal h lvc t.tseq t.lap (run.map (·.tag))] ∧ u.flows = s.flows ∧ u.hosts = s.hosts) ∧
  (∀ (t : SealTag) (n : Nat) (r : List SealTag), (sealRun t n r).length ≤ n ∧ (t.alone = true → sealRun t n r = []) ∧
    ∀ i x, (sealRun t n r)[i]? = some x → x.tseq = t.tseq + BitVec.ofNat 24 (i + 1) ∧ x.alone = false)

/-! ### Firmware and the trace (R703–R727, R752–R773) -/

/-- The firmware commands (from R711–R713, R719) and the events of an update (from R712–R715, R718, R719). -/
def Obligations.FirmwareUpdatesGoOn : Prop :=
  (∀ (p : Path) (s : State), s.fwTakes p = false → ∀ x ∈ ([.fwOpen p, .verify p, .start p, .abort p, .rollback p] : List Instr),
    exec x s = .next s) ∧
  (∀ (p : Path) (s : State), s.fwTakes p = true →
    (s.fw.phase ≤ 1 → s.fw.writing = false → s.mayTake p s.fw.stage = true →
      exec (.fwOpen p) s = .next { s with fw := { s.fw with stage := some { owner := s.ownerOf p }, lastResult := 1 } }) ∧
    (1 < s.fw.phase ∨ s.fw.writing = true ∨ s.mayTake p s.fw.stage = false →
      exec (.fwOpen p) s = .next { s with fw := { s.fw with lastResult := 9 } })) ∧
  (∀ (p : Path) (b : StageBuf) (s : State), s.fwTakes p = true → s.fw.phase ≤ 1 → s.fw.writing = false → s.fw.stage = some b →
    exec (.verify p) s = .next { s with fw := if s.fwVerify b = 0 then ({ s.fw with
        writing := true, phase := 0, pendHc := s.pendingOf b 1, pendSp := s.pendingOf b 2 } : Fw).setStandby (fun _ => none)
      else { s.fw with lastResult := s.fwVerify b } }) ∧
  (∀ (f : Fw) (new : Option FwImage → Option FwImage), (f.setStandby new).hcImage 0 = f.hcImage 0 ∧
    (f.setStandby new).spImage = f.spImage ∧ (f.pendHc ≠ none → (f.setStandby new).hcStandby 0 = new f.pendHc) ∧
    (f.pendSp ≠ none → (f.setStandby new).spStandby = new f.pendSp)) ∧
  (∀ (b : StageBuf) (s : State), (packageOk b = false → s.fwVerify b = 2) ∧
    (packageOk b = true → (s.fwVerify b = 3 ↔ ∃ o ∈ packageEntries b, entrySigned b o = false) ∧
      (s.fwVerify b ≠ 0 ∨ ∀ o ∈ packageEntries b, entrySigned b o = true ∧ s.fw.svn.toNat ≤ stagedNum b (o + 0xC) 4))) ∧
  (∀ (p : Path) (s : State), s.fwTakes p = true → s.fw.phase = 1 ∨ s.fw.phase = 3 → s.fw.writing = false →
    (s.si.state = .idle → exec (.start p) s = .next (({ s with fw := { s.fw with phase := 2, cause := true } } : State).fwGo)) ∧
    (s.si.state ≠ .idle → exec (.start p) s = .next { s with fw := { s.fw with lastResult := 9 } })) ∧
  (∀ s : State, s.fw.phase = 2 → (∀ h r, s.hubsLeft = h :: r → s.fwGo = { s with fw := { s.fw with yielding := some h } }) ∧
    (s.hubsLeft = [] → s.fwGo = { s with fw := { s.fw with
      yielding := none, phase := if s.fw.pendSp.isSome ∧ s.fw.spDone = false then 4 else 5 } })) ∧
  (∀ (p : Path) (s : State), s.fwTakes p = true → s.fw.writing = false →
    (s.fw.phase = 1 → exec (.abort p) s = .next { s with fw := s.fw.ended 1 }) ∧
    (s.fw.phase = 3 ∨ s.fw.phase = 5 → exec (.abort p) s = .next (s.fwReturn 14 [])) ∧
    (s.fw.phase ≠ 1 → s.fw.phase ≠ 3 → s.fw.phase ≠ 5 → exec (.abort p) s = .next { s with fw := { s.fw with lastResult := 9 } })) ∧
  (∀ (p : Path) (hubs : List Nat) (sp : Bool) (s : State), s.fwTakes p = true → s.fw.phase = 0 → s.fw.writing = false →
    s.fw.restart = none → s.si.state = .idle → hubs = s.presentHubs.filter (fun h => match s.fw.hcStandby h with
      | some y => decide (s.fw.svn ≤ y.svn)
      | none => false) →
    sp = (match s.fw.spStandby with | some y => decide (s.fw.svn ≤ y.svn) | none => false) → hubs ≠ [] ∨ sp = true →
    (s.hubReleases ++ hubs.map (fun h => relOf (versionOf (s.fw.hcStandby h)))).all
      (releaseFits (relOf (versionOf (if sp then s.fw.spStandby else s.fw.spImage)))) = true →
    exec (.rollback p) s = .next (({ s with fw := { s.fw with done := maskBits hubs, spDone := sp } } : State).fwReturn 1 [])) ∧
  (∀ (p : Path) (s : State), s.fwTakes p = true → s.fw.phase ≠ 0 ∨ s.si.state ≠ .idle → exec (.rollback p) s = .next { s with fw := { s.fw with lastResult := 9 } }) ∧
  (∀ (equal : Bool) (s : State), s.fw.writing = true → s.fatal = false →
    (equal = false → exec (.verifyComplete equal) s = .next { s with fw := { s.fw with
      writing := false, pendHc := none, pendSp := none, lastResult := 10 } }) ∧
    (equal = true → ∃ t : State, exec (.verifyComplete equal) s = .next t ∧ t.fw.writing = false ∧ t.fw.phase = 1 ∧ t.fw.stage = none ∧
      t.fw.lastResult = 1 ∧ t.fw.svn = s.fw.svn ∧ t.fw.hcBank = s.fw.hcBank ∧ t.fw.spBank = s.fw.spBank ∧
      (∀ h, s.fw.hcBank.getLsbD h = s.fw.hcBank.getLsbD 0 → t.fw.hcImage h = s.fw.hcImage h) ∧
      t.fw.spImage = s.fw.spImage ∧ (s.fw.pendSp ≠ none → t.fw.spStandby = s.fw.pendSp) ∧
      (s.fw.pendHc ≠ none → t.fw.hcStandby 0 = s.fw.pendHc))) ∧
  (∀ (h : Nat) (s : State), s.fw.yielding = some h → s.fw.restart = none → (s.hub h).phase = .none → s.hubYielded h = true →
    s.fatal = false → exec .hubControllerRestart s = .next (({ s with fw := { s.fw with
      yielding := none, restart := some { hub := some h, since := s.clk.now } } } : State).modHub h (fun x => { x with
        hcRunning := false }))) ∧
  (∀ (h : Nat) (r : FwRestart) (s u : State), s.fw.restart = some r → r.hub = some h → s.fatal = false → (s.hub h).phase = .none →
    s.fw.phase ≠ 6 → u = s.modHub h (fun x => { x with hcRunning := true }) →
    exec .hubControllerRunning s = .next (({ u with fw := { u.fw.flipHub h with
      restart := none, done := u.fw.done ||| (1#8 <<< h) } } : State).fwGo)) ∧
  (∀ s : State, s.fw.phase = 2 → s.fw.yielding ≠ none → s.fatal = false →
    exec .yieldWaitExpired s = .next { s with fw := { s.fw with yielding := none, phase := 3, lastResult := 13 } }) ∧
  (∀ s : State, s.fw.phase = 4 ∨ (s.fw.phase = 6 ∧ s.fw.returning.head? = some none) → s.fw.restart = none → s.fatal = false →
    exec .spRestart s = .next { s with fw := { s.fw with spDown := true, restart := some { hub := none, since := s.clk.now } } }) ∧
  (∀ (r : FwRestart) (s : State), s.fw.restart = some r → r.hub = none → s.fatal = false → s.fw.phase = 4 →
    exec .spRunning s = .next { s with fw := { s.fw with
      restart := none, spDown := false, spBank := !s.fw.spBank, spDone := true, phase := 5 } }) ∧
  (∀ (r : FwRestart) (s : State), s.fw.restart = some r → s.fatal = false →
    (∀ h, r.hub = some h → s.fw.phase = 2 → exec .fwRestartTimeout s = .next (s.fwReturn 11 [h])) ∧
    (∀ h, r.hub = some h → s.fw.phase ≠ 2 →
      exec .fwRestartTimeout s = .next { s with fw := { s.fw with restart := some { r with since := s.clk.now } } }) ∧
    (r.hub = none → s.fw.phase = 4 → exec .fwRestartTimeout s = .next { s with
      fw := ({ s.fw with restart := some { r with since := s.clk.now } } : Fw).ended 12 })) ∧
  (∀ s : State, s.fw.phase = 5 → s.fatal = false →
    ∃ t : State, exec .confirmationComplete s = .next t ∧ t.fw.phase = 0 ∧ t.fw.pendHc = none ∧ t.fw.pendSp = none ∧
      t.fw.cause = false ∧ t.fw.lastResult = 1 ∧ s.fw.svn ≤ t.fw.svn ∧ (∀ x, s.fw.pendHc = some x → x.svn ≤ t.fw.svn) ∧
      (∀ x, s.fw.pendSp = some x → x.svn ≤ t.fw.svn) ∧ t.fw.hcBank = s.fw.hcBank ∧ t.fw.spBank = s.fw.spBank ∧ t.jobs = s.jobs ∧
      t.mem = s.mem)

/-- The trigger, the export of records and the resets of counters (from R752, R756–R763, R767–R773). -/
def Obligations.TraceCommandsComplete : Prop :=
  (∀ (p : Path) (s : State), s.operates p 0 = true →
    exec (.fire p) s = .next s.fire ∧
    exec (.rearm p) s = .next { s with
      trig := { s.trig with armed := true, postOpen := false, frozen := false },
      traceUnits := s.traceUnits.mapVals (fun _ t => { t with store := [] }) }) ∧
  (∀ (p : Path) (s : State), s.operates p 0 = false → exec (.fire p) s = .next s ∧ exec (.rearm p) s = .next s) ∧
  (∀ (k : Fin 32) (x : KmpSession) (s : State), s.operates (.kmp k) 0 = true → s.session k = some x →
    exec (.kmpTargetSet k) s = .next { s with trig := { s.trig with kmpTarget := some k.val } }) ∧
  (∀ s : State, s.trig.postOpen = true → ∃ t : State, exec .postWindowEnd s = .next t ∧ t.trig.postOpen = false ∧ t.trig.frozen = true ∧
    t.trig.armed = s.trig.armed ∧ t.mem = s.mem ∧ t.counters = s.counters) ∧
  (∀ s : State, s.exportMode = 1 → s.trig.kmpTarget = none → ∃ t : State, exec .traceSend s = .next t ∧
    (∀ h, (t.traceHubs.getD h {}).queue = [] ∧ (t.traceHubs.getD h {}).lost =
      (s.traceHubs.getD h {}).lost + (s.traceHubs.getD h {}).queue.length) ∧ t.out = s.out) ∧
  (∀ (k : Nat) (x : KmpSession) (l : List TraceRec) (s u : State), s.exportMode = 1 → s.trig.kmpTarget = some k → s.session k = some x →
    s.sys.portsStopped = false → (∀ t, s.trig.lastTraceAt = some t → t + 20000 ≤ s.clk.now) → s.takeRecords 43 (List.range 8) = (l, u) →
    l ≠ [] → ∃ v : State, exec .traceSend s = .next v ∧
      v = ({ u with trig := { u.trig with lastTraceAt := some s.clk.now } } : State).kmpOwn k 9 false (.trace s.clk.poolTime l) ∧
      l.length ≤ 43 ∧ v.trig.lastTraceAt = some s.clk.now ∧ v.traceHubs = u.traceHubs ∧ v.clk = s.clk ∧
      (∃ y, v.session k = some y ∧ y.eventSeq = x.eventSeq + 1)) ∧
  (∀ (p : Path) (tail : BitVec 25) (s : State), s.operates p s.exportHub = true → s.exportHere s.exportHub = true →
    exec (.exportTailAdvance p tail) s = .next (s.presentHubs.foldl (fun u h => u.exportDrain h) { s with
      trig := { s.trig with tail := BitVec.ofNat 25 (min tail.toNat (s.regionSize - 1)) } })) ∧
  (∀ (p : Path) (h : Fin 8) (b : BitVec 8) (s : State), s.operates p h = true →
    exec (.counterReset p h b true) s = .next ((counterBlocks.foldl (fun u x => u.resetGroup h x) s).modPwr h (fun x => { x with
      snowMark := s.clk.now })) ∧
    (counterBlocks.contains b.toNat = true → b.toNat ≠ 0x0F → exec (.counterReset p h b false) s = .next (s.resetGroup h b.toNat)) ∧
    (counterBlocks.contains b.toNat = false → b.toNat ≠ 0x0F → exec (.counterReset p h b false) s = .next s))

/-! ### Registers over every path (R332, R679, R728–R750, R787, R788) -/

/-- A write of a register over any path (from R332, R679, R730, R731, R737, R740, R744, R749, R750). -/
def Obligations.RegisterWritesAreResolved : Prop :=
  (∀ (p : Path) (a v : Word) (e : WriteEnv) (s : State),
    (s.isTenant p = false ∨ tenantWrites (addrHub a) (addrBlock a) (addrOff a) = true →
      exec (.registerWrite p a v e) s = .next (s.csrWrite p a v e).2) ∧
    (s.isTenant p = true → tenantWrites (addrHub a) (addrBlock a) (addrOff a) = false → exec (.registerWrite p a v e) s = .next s)) ∧
  (∀ (p : Path) (a v : Word) (e : WriteEnv) (s : State), (illegalAddr a = true → s.csrWrite p a v e = (6, s)) ∧
    (illegalAddr a = false → s.mayWrite p (addrHub a) (addrBlock a) (addrOff a) = false → s.csrWrite p a v e = (3, s)) ∧
    (illegalAddr a = false → s.mayWrite p (addrHub a) (addrBlock a) (addrOff a) = true →
      s.writes p (addrHub a) (addrBlock a) (addrOff a) = true → s.blockHere (addrHub a) (addrBlock a) = true →
      (s.hub (addrHub a)).phase ≠ .none → addrBlock a ≠ 1 → s.csrWrite p a v e = (4, s)) ∧
    (illegalAddr a = false → s.mayWrite p (addrHub a) (addrBlock a) (addrOff a) = true →
      s.writes p (addrHub a) (addrBlock a) (addrOff a) = false → s.csrWrite p a v e = (1, s))) ∧
  (∀ (p : Path) (port : Bool) (v : Word) (s : State), s.isTenant p = false →
    exec (.ethIpv4Write p port v) s = .next (s.csrWrite p (csrAddr (b2n port) 0x0A 0xC) v {}).2) ∧
  (∀ (p : Path) (h : Fin 8) (b id i : Byte) (s : State), s.isTenant p = false ∨ tenantWrites (addrHub (mbxReqAddr h b.toNat))
      (addrBlock (mbxReqAddr h b.toNat)) (addrOff (mbxReqAddr h b.toNat)) = true →
    exec (.mbxRead p h b id i) s = .next (s.csrWrite p (mbxReqAddr h b.toNat) (packWord [(0, id.toNat), (8, i.toNat), (16, 1)]) {}).2 ∧
    exec (.mbxWrite p h b id i) s = .next (s.csrWrite p (mbxReqAddr h b.toNat) (packWord [(0, id.toNat), (8, i.toNat), (16, 2)]) {}).2) ∧
  (∀ (hdr : KmpHdr) (k : Fin 32) (x : KmpSession) (a : Word) (n : Byte) (s v u : State) (l : List Word), KmpServed s hdr k x v →
    (illegalAddr a = true ∨ n = 0 ∨ 64 < n.toNat ∨ 2 ^ 18 < addrOff a + 4 * n.toNat →
      exec (.regRead hdr a n) s = .next (v.replied k x hdr 3 { status := 6 })) ∧
    (illegalAddr a = false → 1 ≤ n.toNat → n.toNat ≤ 64 → addrOff a + 4 * n.toNat ≤ 2 ^ 18 → (v.pathUsage (.kmp k)).getLsbD 0 = true →
      v.readRun (.kmp k) a n.toNat = (l, u) → exec (.regRead hdr a n) s = .next (u.replied k x hdr 3 { status := 0, body := .values l })) ∧
    (illegalAddr a = false → 1 ≤ n.toNat → n.toNat ≤ 64 → addrOff a + 4 * n.toNat ≤ 2 ^ 18 → (v.pathUsage (.kmp k)).getLsbD 0 = false →
      v.isTenant (.kmp k) = false → exec (.regRead hdr a n) s = .next (v.replied k x hdr 3 { status := 3 }))) ∧
  (∀ (hdr : KmpHdr) (k : Fin 32) (x : KmpSession) (ps : List (Word × Word)) (e : WriteEnv) (s v u : State) (rs : List (BitVec 8)),
    KmpServed s hdr k x v →
    (ps = [] ∨ 128 < ps.length → exec (.regWrite hdr ps e) s = .next (v.replied k x hdr 4 { status := 4 })) ∧
    (ps ≠ [] → ps.length ≤ 128 → v.isTenant (.kmp k) = false → v.writePairs (.kmp k) e ps = (rs, u) →
      exec (.regWrite hdr ps e) s = .next (u.replied k x hdr 4 { status := 0, body := .results rs }))) ∧
  (∀ (p : Path) (e : WriteEnv) (ps : List (Word × Word)) (s u : State) (rs : List (BitVec 8)), s.writePairs p e ps = (rs, u) →
    rs.length = ps.length ∧ ∀ i r, rs[i]? = some r → refusedPair r = true → ∀ k, i < k → k < ps.length → rs[k]? = some 7)

/-! ### Single rules, whole -/

/-- R729: which addresses are illegal, and that no path reads or writes a register there. -/
def Obligations.IllegalAddressesReachNoRegister : Prop :=
  ∀ (a : Word), a.extractLsb' 29 3 ≠ 0 ∨ a.extractLsb' 0 2 ≠ 0 →
    (∀ (p : Path) (v : Word) (e : WriteEnv) (s : State), exec (.registerWrite p a v e) s = .next s ∧ s.csrRead p a = 0) ∧
    (∀ (hdr : KmpHdr) (k : Nat) (x : KmpSession) (n : Byte) (s v : State), KmpServed s hdr k x v →
      exec (.regRead hdr a n) s = .next (v.replied k x hdr 3 { status := 6 })) ∧
    (∀ (hdr : KmpHdr) (k : Fin 32) (x : KmpSession) (w : Word) (l : List (Word × Word)) (e : WriteEnv) (s v : State),
      KmpServed s hdr k x v → l.length < 128 → v.isTenant (.kmp k) = false →
      exec (.regWrite hdr ((a, w) :: l) e) s =
        .next (v.replied k x hdr 4 { status := 0, body := .results (6 :: List.replicate l.length 7) })) ∧
    (∀ (v : Word) (e : WriteEnv) (s : State), s.jtagOn = true → s.jtag.addr = a →
      exec (.csrWrite v e) s = .next { s with jtag := { s.jtag with ir := 0x21, driving := false } } ∧
      exec (.csrRead true) s = .next { s with jtag := { s.jtag with ir := 0x22, dr := 1#1 ++ 0#32, driving := false } })

/-! ### Registers over every path (R332, R679, R728–R750, R787, R788) -/

/-- A mailbox request ends (from R742–R747, R750); the I3C target, the JTAG port and the status pins
(from R778, R779, R787, R788). -/
def Obligations.MailboxesAndSidebandsAnswer : Prop :=
  (∀ (p : Path) (h : Fin 8) (b : Byte) (x : Mbx) (s : State), s.mbxAt p h.val b.toNat = x → s.running = true →
    (x.busy = false → exec (.mbxComplete p h b) s = .next s) ∧
    (x.busy = true → s.spDown = true → spHeld b.toNat x.idEcho.toNat = true →
      exec (.mbxComplete p h b) s = .next (s.modMbx p h b.toNat (fun y => y.fails 5))) ∧
    (x.busy = true → s.spDown = false → p = .jtag → b = 0x1E ∨ b = 0x1F →
      exec (.mbxComplete p h b) s = .next (s.modMbx p h b.toNat (fun y => y.fails 2))) ∧
    (x.busy = true → s.spDown = false → p ≠ .jtag → x.writing = true → x.tenant = true →
      exec (.mbxComplete p h b) s = .next (s.modMbx p h b.toNat (fun y => y.fails 2))) ∧
    (∀ v, x.busy = true → s.spDown = false → p ≠ .jtag → x.writing = true → x.tenant = false → b = 0x0F → h = 0 → x.idEcho = 1 → x.index = 0 →
      x.alarm = some v → exec (.mbxComplete p h b) s = .next (({ s with clk := { s.clk with alarmPending := some v } } : State).modMbx p
        h b.toNat (fun y => y.holds (twoWords v.toNat)))) ∧
    (∀ l, x.busy = true → s.spDown = false → p ≠ .jtag → x.writing = false → x.idEcho.toNat < 0x80 →
      s.wideValue h.val b.toNat x.idEcho.toNat x.index.toNat x.sel = .words l →
      exec (.mbxComplete p h b) s = .next (s.modMbx p h b.toNat (fun y => y.holds l))) ∧
    (∀ c, x.busy = true → s.spDown = false → p ≠ .jtag → x.writing = false → x.idEcho.toNat < 0x80 →
      s.wideValue h.val b.toNat x.idEcho.toNat x.index.toNat x.sel = .err c →
      exec (.mbxComplete p h b) s = .next (s.modMbx p h b.toNat (fun y => y.fails c))) ∧
    (∀ key l u, x.busy = true → s.spDown = false → p ≠ .jtag → x.writing = false → 0x80 ≤ x.idEcho.toNat →
      counterOf h.val b.toNat x.idEcho.toNat x.index.toNat x.sel = some key → s.counterWords p x.tenant key = (l, u) →
      exec (.mbxComplete p h b) s = .next (u.modMbx p h b.toNat (fun y => y.holds l))) ∧
    ∀ (y : Mbx) (l : List Word), (y.holds l).valid = true ∧ (y.holds l).busy = false ∧ (y.holds l).err = 0 ∧
      (l.length < 256 → (y.holds l).len.toNat = l.length ∧ ∀ i, i < l.length → (y.holds l).data.getD i 0 = l.getD i 0)) ∧
  (∀ (a : BitVec 7) (s : State), s.i3cOn = true →
    (s.i3c.dynAddr = none → exec (.entdaa a) s = .next { s with
      i3c := { s.i3c with dynAddr := some a }, out := s.out ++ [.entdaa s.provisionalId 0x06 0x00] }) ∧
    (s.i3c.dynAddr ≠ none → exec (.entdaa a) s = .next s)) ∧
  (∀ (b : List Byte) (e : WriteEnv) (s : State), s.i3cOn = true → s.i3c.dynAddr ≠ none →
    (b.length = 4 → exec (.i3cCsrRead b) s = .next { s with out := s.out ++ [.i3cRead (s.csrRead .i3c (BitVec.ofNat 32 (leNat b)))] }) ∧
    (b.length = 8 → exec (.i3cCsrWrite b e) s = .next (s.csrWrite .i3c (BitVec.ofNat 32 (leNat (b.take 4)))
      (BitVec.ofNat 32 (leNat (b.drop 4))) e).2)) ∧
  (∀ (pins levels : List Bool) (a v : Word) (code : Byte) (e : WriteEnv) (s : State), s.jtagOn = true →
    exec .idcode s = .next { s with jtag := { s.jtag with ir := 0x01, dr := s.idcode.setWidth 33, driving := false } } ∧
    exec (.samplePreload pins levels) s = .next { s with
      jtag := { s.jtag with ir := 0x02, sampled := pins, boundary := levels, driving := false } } ∧
    (s.sys.resetLow = true → exec (.extest pins levels) s = .next { s with
      jtag := { s.jtag with ir := 0x03, sampled := pins, boundary := levels, driving := true } }) ∧
    (s.sys.resetLow = false → exec (.extest pins levels) s = .next { s with jtag := { s.jtag with ir := 0x03, dr := 0, driving := false } }) ∧
    exec (.csrAddr a) s = .next { s with jtag := { s.jtag with ir := 0x20, addr := a, driving := false } } ∧
    exec (.csrWrite v e) s = .next (({ s with jtag := { s.jtag with ir := 0x21, driving := false } } : State).csrWrite .jtag s.jtag.addr
      v e).2 ∧
    exec (.csrRead true) s = .next { s with
      jtag := { s.jtag with ir := 0x22, dr := 1#1 ++ s.csrRead .jtag s.jtag.addr, driving := false } } ∧
    (∃ d : BitVec 33, d.getLsbD 32 = false ∧ exec (.csrRead false) s = .next { s with
      freeCtr := s.freeCtr + 1, jtag := { s.jtag with ir := 0x22, dr := d, driving := false } }) ∧
    exec (.bypass code) s = .next { s with jtag := { s.jtag with ir := code, dr := 0, driving := false } } ∧
    exec .jtagReset s = .next { s with jtag := {} }) ∧
  (∀ (v : Word) (e : WriteEnv) (code : Byte) (s : State), s.jtagOn = false → ∀ x ∈ ([.idcode, .csrAddr v, .csrWrite v e, .csrRead true,
      .bypass code, .jtagReset] : List Instr), exec x s = .next s) ∧
  (∀ (q : StatusPin) (s : State), (s.sys.phase = .unpowered ∨ s.sys.phase = .inReset ∨ (s.sys.phase = .halted ∧ s.sys.step = 1) →
      s.pinLevel q = none) ∧
    (s.sys.phase = .sleeping → s.pinLevel q = some (q != .ready)) ∧
    (s.running = true → s.sys.phase ≠ .halted ∨ s.sys.step ≠ 1 → s.pinLevel .ready = some (s.sys.done && !s.fatal) ∧ s.pinLevel .fatalN = some (!s.fatal) ∧
      s.pinLevel .attnN = some (s.attnCause == 0) ∧ s.pinLevel .thrN = some (!s.throttled))) ∧
  (∀ s : State, s.idcode.getLsbD 0 = true ∧ s.idcode.toNat / 2 % 2 ^ 11 = Config.jedecId.toNat % 2 ^ 11 ∧
    s.idcode.toNat / 2 ^ 12 % 2 ^ 16 = partNumber s.fuses.variant ∧ s.idcode.toNat / 2 ^ 28 = s.fuses.stepping.toNat % 16)
end

