-- ==== Sys2Proof/Laws/Map.lean ====
section
/-! SUPPORT. Map.lean: the laws of the sparse tables: reading after writing, and that every operation keeps the canonical form. -/
namespace Sys2Proof
variable {α β : Type}

/-! ### Reading after writing -/

@[simp] theorem SMap.get?_nil (k : Nat) : SMap.get? ([] : SMap α) k = none := rfl
@[simp] theorem SMap.get?_cons (j k : Nat) (v : α) (r : SMap α) :
    SMap.get? ((j, v) :: r) k = if j = k then some v else SMap.get? r k := rfl
@[simp] theorem SMap.getD_nil (k : Nat) (d : α) : SMap.getD ([] : SMap α) k d = d := rfl

@[simp] theorem SMap.get?_set_self (m : SMap α) (k : Nat) (v : α) : SMap.get? (SMap.set m k v) k = some v := by
  induction m with
  | nil => simp [SMap.set]
  | cons e r ih =>
    obtain ⟨j, w⟩ := e
    by_cases h : k = j
    · simp [SMap.set, h]
    · by_cases h2 : k < j
      · simp [SMap.set, h, h2]
      · simp [SMap.set, h, h2, ih, Ne.symm h]

theorem SMap.get?_set_ne (m : SMap α) (k l : Nat) (v : α) (h : l ≠ k) : SMap.get? (SMap.set m k v) l = SMap.get? m l := by
  induction m with
  | nil => simp [SMap.set, Ne.symm h]
  | cons e r ih =>
    obtain ⟨j, w⟩ := e
    by_cases h1 : k = j
    · subst h1; simp [SMap.set, Ne.symm h]
    · by_cases h2 : k < j
      · simp [SMap.set, h1, h2, Ne.symm h]
      · simp [SMap.set, h1, h2, ih]

@[simp] theorem SMap.getD_set_self (m : SMap α) (k : Nat) (v d : α) : SMap.getD (SMap.set m k v) k d = v := by simp [SMap.getD]

theorem SMap.getD_set_ne (m : SMap α) (k l : Nat) (v d : α) (h : l ≠ k) :
    SMap.getD (SMap.set m k v) l d = SMap.getD m l d := by simp [SMap.getD, SMap.get?_set_ne _ _ _ _ h]

@[simp] theorem SMap.getD_mod_self (m : SMap α) (k : Nat) (d : α) (f : α → α) :
    SMap.getD (SMap.mod m k d f) k d = f (SMap.getD m k d) := by simp [SMap.mod]

theorem SMap.getD_mod_ne (m : SMap α) (k l : Nat) (d e : α) (f : α → α) (h : l ≠ k) :
    SMap.getD (SMap.mod m k d f) l e = SMap.getD m l e := by simp [SMap.mod, SMap.getD_set_ne _ _ _ _ _ h]

theorem SMap.get?_filter_ne (m : SMap α) (k l : Nat) (h : l ≠ k) :
    SMap.get? (m.filter (fun e => e.1 != k)) l = SMap.get? m l := by
  induction m with
  | nil => rfl
  | cons e r ih =>
    obtain ⟨j, w⟩ := e
    by_cases hj : j = k
    · subst hj; simp [ih, Ne.symm h]
    · simp [hj, ih]

theorem SMap.get?_erase_ne (m : SMap α) (k l : Nat) (h : l ≠ k) : SMap.get? (SMap.erase m k) l = SMap.get? m l :=
  SMap.get?_filter_ne m k l h

@[simp] theorem SMap.get?_erase_self (m : SMap α) (k : Nat) : SMap.get? (SMap.erase m k) k = none := by
  unfold SMap.erase
  induction m with
  | nil => rfl
  | cons e r ih =>
    obtain ⟨j, w⟩ := e
    by_cases hj : j = k <;> simp [hj, ih]

/-! ### Canonical form -/

/-- Every key of a table is at least `n`. -/
def SMap.above (m : SMap α) (n : Nat) : Prop := ∀ e ∈ m, n ≤ e.1

theorem SMap.sorted_iff (m : SMap α) : SMap.sorted m = true ↔ m.Pairwise (fun a b => a.1 < b.1) := by
  induction m with
  | nil => simp [SMap.sorted]
  | cons e r ih =>
    obtain ⟨j, w⟩ := e
    cases r with
    | nil => simp [SMap.sorted]
    | cons e2 r2 =>
      obtain ⟨k, x⟩ := e2
      rw [SMap.sorted, Bool.and_eq_true, ih, decide_eq_true_iff, List.pairwise_cons (a := (j, w))]
      refine ⟨fun h => ⟨fun a ha => ?_, h.2⟩, fun h => ⟨h.1 _ List.mem_cons_self, h.2⟩⟩
      rcases List.mem_cons.1 ha with rfl | ha
      · exact h.1
      · exact lt_trans h.1 ((List.pairwise_cons.1 h.2).1 a ha)

theorem SMap.mem_set (m : SMap α) (k : Nat) (v : α) (e : Nat × α) (h : e ∈ SMap.set m k v) : e = (k, v) ∨ e ∈ m := by
  induction m with
  | nil => simpa [SMap.set] using h
  | cons x r ih =>
    obtain ⟨j, w⟩ := x
    rw [SMap.set] at h
    split at h
    · rcases List.mem_cons.1 h with h | h
      · exact .inl h
      · exact .inr (List.mem_cons_of_mem _ h)
    · split at h
      · rcases List.mem_cons.1 h with h | h
        · exact .inl h
        · exact .inr h
      · rcases List.mem_cons.1 h with h | h
        · exact .inr (h ▸ List.mem_cons_self)
        · rcases ih h with h | h
          · exact .inl h
          · exact .inr (List.mem_cons_of_mem _ h)

theorem SMap.sorted_set (m : SMap α) (k : Nat) (v : α) (h : SMap.sorted m = true) : SMap.sorted (SMap.set m k v) = true := by
  rw [SMap.sorted_iff] at h ⊢
  induction m with
  | nil => simp [SMap.set]
  | cons x r ih =>
    obtain ⟨j, w⟩ := x
    rw [List.pairwise_cons] at h
    rw [SMap.set]
    split
    · next hk =>
      subst hk
      exact List.pairwise_cons.2 ⟨h.1, h.2⟩
    · split
      · next hk =>
        refine List.pairwise_cons.2 ⟨?_, List.pairwise_cons.2 h⟩
        intro a ha
        rcases List.mem_cons.1 ha with rfl | ha
        · exact hk
        · exact lt_trans hk (h.1 a ha)
      · next hne hk =>
        refine List.pairwise_cons.2 ⟨?_, ih h.2⟩
        intro a ha
        rcases SMap.mem_set _ _ _ _ ha with rfl | ha
        · exact lt_of_le_of_ne (not_lt.1 hk) (Ne.symm hne)
        · exact h.1 a ha

theorem SMap.sorted_filter (m : SMap α) (p : Nat × α → Bool) (h : SMap.sorted m = true) :
    SMap.sorted (m.filter p : SMap α) = true := by
  rw [SMap.sorted_iff] at h ⊢
  exact h.filter p

theorem SMap.sorted_erase (m : SMap α) (k : Nat) (h : SMap.sorted m = true) : SMap.sorted (SMap.erase m k) = true :=
  SMap.sorted_filter m _ h

theorem SMap.sorted_mod (m : SMap α) (k : Nat) (d : α) (f : α → α) (h : SMap.sorted m = true) :
    SMap.sorted (SMap.mod m k d f) = true := SMap.sorted_set _ _ _ h

namespace Machine

/-! ### Memory -/

theorem Memory.wf_nil : Memory.wf [] = true := rfl

theorem memWrite_wf (m : List Host.Cell) (a : Nat) (b : Byte) (h : Memory.wf m = true) : Memory.wf (memWrite m a b) = true := by
  unfold Memory.wf at h ⊢
  rw [Bool.and_eq_true, List.all_eq_true] at h ⊢
  unfold memWrite
  split
  · exact ⟨SMap.sorted_erase _ _ h.1, fun c hc => h.2 c (List.mem_of_mem_filter hc)⟩
  · next hb =>
    refine ⟨SMap.sorted_set _ _ _ h.1, fun c hc => ?_⟩
    rcases SMap.mem_set _ _ _ _ hc with rfl | hc
    · simpa using hb
    · exact h.2 c hc

theorem memWriteBytes_wf (l : List Byte) : ∀ (m : List Host.Cell) (a : Nat), Memory.wf m = true →
    Memory.wf (memWriteBytes m a l) = true := by
  induction l with
  | nil => intro m a h; exact h
  | cons b r ih => intro m a h; exact ih _ _ (memWrite_wf m a b h)

/-- A byte written reads back. -/
theorem memRead_memWrite_self (m : List Host.Cell) (a : Nat) (b : Byte) : memRead (memWrite m a b) a = b := by
  unfold memRead memWrite
  split
  · next h => simp [SMap.getD, h]
  · simp

/-- Every other byte stays. -/
theorem memRead_memWrite_ne (m : List Host.Cell) (a c : Nat) (b : Byte) (h : c ≠ a) : memRead (memWrite m a b) c = memRead m c := by
  unfold memRead memWrite
  split
  · simp [SMap.getD, SMap.get?_erase_ne _ _ _ h]
  · exact SMap.getD_set_ne _ _ _ _ _ h

/-- Bytes outside a run of stored bytes stay. -/
theorem memRead_memWriteBytes_out (l : List Byte) : ∀ (m : List Host.Cell) (a c : Nat), (c < a ∨ a + l.length ≤ c) →
    memRead (memWriteBytes m a l) c = memRead m c := by
  induction l with
  | nil => intro m a c _; rfl
  | cons b r ih =>
    intro m a c h
    rw [List.length_cons] at h
    rw [memWriteBytes, ih _ _ _ (by omega), memRead_memWrite_ne _ _ _ _ (by omega)]

/-- The stored bytes read back. -/
theorem memRead_memWriteBytes_in (l : List Byte) : ∀ (m : List Host.Cell) (a i : Nat) (h : i < l.length),
    memRead (memWriteBytes m a l) (a + i) = l[i] := by
  induction l with
  | nil => intro m a i h; simp at h
  | cons b r ih =>
    intro m a i h
    cases i with
    | zero =>
      rw [memWriteBytes, memRead_memWriteBytes_out _ _ _ _ (by omega)]
      simpa using memRead_memWrite_self m a b
    | succ i =>
      have h2 : i < r.length := by simpa using h
      rw [memWriteBytes, show a + (i + 1) = a + 1 + i by omega, ih _ _ _ h2]
      rfl

end Machine
end Sys2Proof
end

