-- ==== Sys2Proof/Laws/State.lean ====
section
/-! SUPPORT. State.lean: each update of one unit's record, as what it writes: every other field of the state reads as before. -/
namespace Sys2Proof.Machine

@[simp] theorem State.modHub_eq (s : State) (n : Nat) (f : HubInfo → HubInfo) : s.modHub n f = { s with hubs := s.hubs.mod n {} f } := rfl
@[simp] theorem State.modPwr_eq (s : State) (h : Nat) (f : PwrHub → PwrHub) : s.modPwr h f = { s with pwrHubs := s.pwrHubs.mod h {} f } := rfl
@[simp] theorem State.modPort_eq (s : State) (p : Nat) (f : ZlPort → ZlPort) : s.modPort p f = { s with zl := s.zl.mod p {} f } := rfl
@[simp] theorem State.modHost_eq (s : State) (h : Nat) (f : HostSt → HostSt) : s.modHost h f = { s with hosts := s.hosts.mod h {} f } := rfl
@[simp] theorem State.modFlow_eq (s : State) (h lvc : Nat) (f : Flow → Flow) : s.modFlow h lvc f = { s with flows := s.flows.mod (fkey h lvc) {} f } := rfl
@[simp] theorem State.modEth_eq (s : State) (e : Bool) (f : EthPort → EthPort) : s.modEth e f = { s with eth := s.eth.mod (b2n e) {} f } := rfl
@[simp] theorem State.modQueue_eq (s : State) (q : Nat) (f : Queue → Queue) : s.modQueue q f = { s with queues := s.queues.mod q {} f } := rfl
@[simp] theorem State.modMemHub_eq (s : State) (h : Nat) (f : MemHub → MemHub) : s.modMemHub h f = { s with memHubs := s.memHubs.mod h {} f } := rfl
@[simp] theorem State.modCohHub_eq (s : State) (n : Nat) (f : CohHub → CohHub) : s.modCohHub n f = { s with cohHubs := s.cohHubs.mod n {} f } := rfl
@[simp] theorem State.modLc_eq (s : State) (j i : Nat) (f : Lc → Lc) : s.modLc j i f = { s with lcs := s.lcs.mod (lcKey j i) {} f } := rfl
@[simp] theorem State.modClu_eq (s : State) (h k : Nat) (f : Clu → Clu) : s.modClu h k f = { s with clus := s.clus.mod (h * 16 + k) {} f } := rfl
@[simp] theorem State.modSlg_eq (s : State) (h : Nat) (f : Slg → Slg) : s.modSlg h f = { s with slg := s.slg.mod h {} f } := rfl
@[simp] theorem State.modTrn_eq (s : State) (h : Nat) (f : Trn → Trn) : s.modTrn h f = { s with trn := s.trn.mod h {} f } := rfl
@[simp] theorem State.modGate_eq (s : State) (j e : Nat) (f : Gate → Gate) : s.modGate j e f = { s with gates := s.gates.mod (j * 4096 + e) {} f } := rfl
@[simp] theorem State.modSel_eq (s : State) (p : Path) (f : Sel → Sel) : s.modSel p f = { s with sels := s.sels.mod (pathIndex p) {} f } := rfl
@[simp] theorem State.modMbx_eq (s : State) (p : Path) (h b : Nat) (f : Mbx → Mbx) : s.modMbx p h b f = { s with mbx := s.mbx.mod (mbxKey p h b) {} f } := rfl
@[simp] theorem State.modSys_eq (s : State) (f : Sys → Sys) : s.modSys f = { s with sys := f s.sys } := rfl
@[simp] theorem State.modSi_eq (s : State) (f : Si → Si) : s.modSi f = { s with si := f s.si } := rfl
@[simp] theorem State.modFw_eq (s : State) (f : Fw → Fw) : s.modFw f = { s with fw := f s.fw } := rfl
@[simp] theorem State.modTrig_eq (s : State) (f : Trigger → Trigger) : s.modTrig f = { s with trig := f s.trig } := rfl

@[simp] theorem State.emit_eq (s : State) (o : Out) : s.emit o = { s with out := s.out ++ [o] } := rfl
@[simp] theorem State.bump_eq (s : State) (h b i x k : Nat) : s.bump h b i x k =
    { s with counters := s.counters.mod (cntKey h b i x) {} (fun c => { c with count := c.count + BitVec.ofNat 64 k }) } := rfl
@[simp] theorem State.draw_fst (s : State) (k : Config.Draw) : (s.draw k).1 = Config.free k s.freeCtr := rfl
@[simp] theorem State.draw_snd (s : State) (k : Config.Draw) : (s.draw k).2 = { s with freeCtr := s.freeCtr + 1 } := rfl

/-! ### Reading a unit's record after an update -/

theorem State.hub_modHub (s : State) (n : Nat) (f : HubInfo → HubInfo) : (s.modHub n f).hub n = f (s.hub n) := by simp [State.hub]
theorem State.pwrHub_modPwr (s : State) (h : Nat) (f : PwrHub → PwrHub) : (s.modPwr h f).pwrHub h = f (s.pwrHub h) := by simp [State.pwrHub]
theorem State.port_modPort (s : State) (p : Nat) (f : ZlPort → ZlPort) : (s.modPort p f).port p = f (s.port p) := by simp [State.port]
theorem State.ethPort_modEth (s : State) (e : Bool) (f : EthPort → EthPort) : (s.modEth e f).ethPort e = f (s.ethPort e) := by simp [State.ethPort]
theorem State.host_modHost (s : State) (h : Nat) (f : HostSt → HostSt) : (s.modHost h f).host h = f (s.host h) := by simp [State.host]
theorem State.queue_modQueue (s : State) (q : Nat) (f : Queue → Queue) : (s.modQueue q f).queue q = f (s.queue q) := by simp [State.queue]
theorem State.lc_modLc (s : State) (j i : Nat) (f : Lc → Lc) : (s.modLc j i f).lc j i = f (s.lc j i) := by simp [State.lc]
theorem State.clu_modClu (s : State) (h k : Nat) (f : Clu → Clu) : (s.modClu h k f).clu h k = f (s.clu h k) := by simp [State.clu]
theorem State.slgHub_modSlg (s : State) (h : Nat) (f : Slg → Slg) : (s.modSlg h f).slgHub h = f (s.slgHub h) := by simp [State.slgHub]
theorem State.trnHub_modTrn (s : State) (h : Nat) (f : Trn → Trn) : (s.modTrn h f).trnHub h = f (s.trnHub h) := by simp [State.trnHub]
theorem State.gate_modGate (s : State) (j e : Nat) (f : Gate → Gate) : (s.modGate j e f).gate j e = f (s.gate j e) := by simp [State.gate]
theorem State.sel_modSel (s : State) (p : Path) (f : Sel → Sel) : (s.modSel p f).sel p = f (s.sel p) := by simp [State.sel]
theorem State.memHub_modMemHub (s : State) (h : Nat) (f : MemHub → MemHub) : (s.modMemHub h f).memHub h = f (s.memHub h) := by simp [State.memHub]

end Sys2Proof.Machine
end

