-- ==== Sys2Proof/Laws/Does.lean ====
section
/-! SUPPORT. Does.lean: what an operation that writes some fields alone does to a state (`Does`): those fields, by the mask of their
`Field.ctorIdx`, and what every operation keeps or lets only grow (`Keeps`); how an update, a fold and an answer do it. -/
namespace Sys2Proof.Machine
open Sys2Proof

/-- What every operation of the block leaves, or lets only grow: the queue of commands and the fuses stay; the stored bytes keep their
canonical form; the model's clock, the minimum security version, the largest committed serial, the epoch number and the count of
draws never fall. -/
structure Keeps (s t : State) : Prop where
  pending : t.pending = s.pending
  fuses : t.fuses = s.fuses
  mem : Memory.wf s.mem = true → Memory.wf t.mem = true
  now : s.clk.now ≤ t.clk.now
  svn : s.fw.svn.toNat ≤ t.fw.svn.toNat
  serial : s.si.maxSerial.toNat ≤ t.si.maxSerial.toNat
  epoch : s.ten.epoch.toNat ≤ t.ten.epoch.toNat
  free : s.freeCtr ≤ t.freeCtr

theorem Keeps.refl (s : State) : Keeps s s := ⟨rfl, rfl, id, le_rfl, le_rfl, le_rfl, le_rfl, le_rfl⟩

theorem Keeps.trans {s t u : State} (h : Keeps s t) (k : Keeps t u) : Keeps s u :=
  ⟨k.pending.trans h.pending, k.fuses.trans h.fuses, fun m => k.mem (h.mem m), h.now.trans k.now, h.svn.trans k.svn,
    h.serial.trans k.serial, h.epoch.trans k.epoch, h.free.trans k.free⟩

theorem Field.same_refl (s : State) (f : Field) : f.same s s := by cases f <;> exact Eq.refl _

theorem Field.same_trans {s t u : State} {f : Field} (h : f.same s t) (k : f.same t u) : f.same s u := by
  cases f <;> exact Eq.trans k h

/-- What an operation that writes only the fields of the mask `W` (bit `Field.ctorIdx` for each) does to a state. -/
structure Does (W : Nat) (s t : State) : Prop where
  keeps : Keeps s t
  same : ∀ f : Field, W.testBit f.ctorIdx = false → f.same s t

/-- The mask `W` names every field that `m` names. -/
def Covers (W m : Nat) : Prop := Nat.lor m W = W

theorem Covers.self {m : Nat} : Covers m m := Nat.or_self m

theorem Covers.of {W v m : Nat} (h : Covers W v) (k : Nat.lor m v = v) : Covers W m := by
  have h1 : m ||| v = v := k
  have h2 : v ||| W = W := h
  show m ||| W = W
  rw [← h2, ← Nat.or_assoc, h1]

theorem Covers.bit {W m : Nat} (h : Covers W m) (i : Nat) (k : W.testBit i = false) : m.testBit i = false := by
  have h2 : m ||| W = W := h
  rw [← h2, Nat.testBit_or, Bool.or_eq_false_iff] at k
  exact k.1

theorem Does.refl {W : Nat} (s : State) : Does W s s := ⟨Keeps.refl s, fun f _ => f.same_refl s⟩

/-- One more change, of the fields of `m` alone. -/
theorem Does.put {W : Nat} {s x y : State} (h : Does W s x) (m : Nat) (hW : Covers W m) (k : Keeps x y)
    (hs : ∀ f : Field, m.testBit f.ctorIdx = false → f.same x y) : Does W s y :=
  ⟨h.keeps.trans k, fun f hf => Field.same_trans (h.same f hf) (hs f (hW.bit _ hf))⟩

/-- The mask of a list of fields. -/
def Field.mask (l : List Field) : Nat := l.foldl (fun m f => m ||| 2 ^ f.ctorIdx) 0

theorem Field.ctorIdx_inj {f g : Field} (h : f.ctorIdx = g.ctorIdx) : f = g := by
  rw [← Field.ofNat_ctorIdx f, ← Field.ofNat_ctorIdx g, h]

theorem Field.mask_bit (l : List Field) (f : Field) (hf : f ∉ l) : (Field.mask l).testBit f.ctorIdx = false := by
  have key : ∀ (l : List Field) (m : Nat), f ∉ l → m.testBit f.ctorIdx = false →
      (l.foldl (fun m f => m ||| 2 ^ f.ctorIdx) m).testBit f.ctorIdx = false := by
    intro l
    induction l with
    | nil => intro m _ h; exact h
    | cons g r ih =>
      intro m hn h
      refine ih _ (fun hm => hn (List.mem_cons_of_mem _ hm)) ?_
      have hg : g.ctorIdx ≠ f.ctorIdx := fun e => hn (Field.ctorIdx_inj e ▸ List.mem_cons_self)
      rw [Nat.testBit_or, h, Nat.testBit_two_pow_of_ne hg, Bool.or_false]
  exact key l 0 hf (Nat.zero_testBit _)

/-- What is done within the mask of a list changes only the list's fields. -/
theorem Does.only {l : List Field} {s t : State} (h : Does (Field.mask l) s t) : OnlyChanges l s t :=
  fun f hf => h.same f (Field.mask_bit l f hf)

/-- The state `s` with the fields of the mask `W` as `t` has them. -/
def State.paste (W : Nat) (s t : State) : State :=
  {
    pending := if W.testBit 0 then t.pending else s.pending,
    fuses := if W.testBit 1 then t.fuses else s.fuses,
    sys := if W.testBit 2 then t.sys else s.sys,
    hubs := if W.testBit 3 then t.hubs else s.hubs,
    clk := if W.testBit 4 then t.clk else s.clk,
    traceUnits := if W.testBit 5 then t.traceUnits else s.traceUnits,
    traceHubs := if W.testBit 6 then t.traceHubs else s.traceHubs,
    trig := if W.testBit 7 then t.trig else s.trig,
    counters := if W.testBit 8 then t.counters else s.counters,
    cntGroups := if W.testBit 9 then t.cntGroups else s.cntGroups,
    mbx := if W.testBit 10 then t.mbx else s.mbx,
    jtag := if W.testBit 11 then t.jtag else s.jtag,
    i3c := if W.testBit 12 then t.i3c else s.i3c,
    zl := if W.testBit 13 then t.zl else s.zl,
    flows := if W.testBit 14 then t.flows else s.flows,
    hosts := if W.testBit 15 then t.hosts else s.hosts,
    zlg := if W.testBit 16 then t.zlg else s.zlg,
    delivered := if W.testBit 17 then t.delivered else s.delivered,
    slots := if W.testBit 18 then t.slots else s.slots,
    extents := if W.testBit 19 then t.extents else s.extents,
    maps := if W.testBit 20 then t.maps else s.maps,
    drains := if W.testBit 21 then t.drains else s.drains,
    carver := if W.testBit 22 then t.carver else s.carver,
    dir := if W.testBit 23 then t.dir else s.dir,
    lines := if W.testBit 24 then t.lines else s.lines,
    retry := if W.testBit 25 then t.retry else s.retry,
    atom := if W.testBit 26 then t.atom else s.atom,
    cohHubs := if W.testBit 27 then t.cohHubs else s.cohHubs,
    heldMsgs := if W.testBit 28 then t.heldMsgs else s.heldMsgs,
    coh := if W.testBit 29 then t.coh else s.coh,
    accesses := if W.testBit 30 then t.accesses else s.accesses,
    nextAccess := if W.testBit 31 then t.nextAccess else s.nextAccess,
    bulkRx := if W.testBit 32 then t.bulkRx else s.bulkRx,
    tenEnd := if W.testBit 33 then t.tenEnd else s.tenEnd,
    mem := if W.testBit 34 then t.mem else s.mem,
    lineMeta := if W.testBit 35 then t.lineMeta else s.lineMeta,
    units := if W.testBit 36 then t.units else s.units,
    ranks := if W.testBit 37 then t.ranks else s.ranks,
    chans := if W.testBit 38 then t.chans else s.chans,
    memHubs := if W.testBit 39 then t.memHubs else s.memHubs,
    lift := if W.testBit 40 then t.lift else s.lift,
    integ := if W.testBit 41 then t.integ else s.integ,
    memKey := if W.testBit 42 then t.memKey else s.memKey,
    eth := if W.testBit 43 then t.eth else s.eth,
    qps := if W.testBit 44 then t.qps else s.qps,
    kmp := if W.testBit 45 then t.kmp else s.kmp,
    queues := if W.testBit 46 then t.queues else s.queues,
    queHubs := if W.testBit 47 then t.queHubs else s.queHubs,
    meters := if W.testBit 48 then t.meters else s.meters,
    ethg := if W.testBit 49 then t.ethg else s.ethg,
    lcs := if W.testBit 50 then t.lcs else s.lcs,
    clus := if W.testBit 51 then t.clus else s.clus,
    jobs := if W.testBit 52 then t.jobs else s.jobs,
    gates := if W.testBit 53 then t.gates else s.gates,
    slg := if W.testBit 54 then t.slg else s.slg,
    trn := if W.testBit 55 then t.trn else s.trn,
    shoot := if W.testBit 56 then t.shoot else s.shoot,
    jobg := if W.testBit 57 then t.jobg else s.jobg,
    si := if W.testBit 58 then t.si else s.si,
    fw := if W.testBit 59 then t.fw else s.fw,
    ten := if W.testBit 60 then t.ten else s.ten,
    sels := if W.testBit 61 then t.sels else s.sels,
    pwrHubs := if W.testBit 62 then t.pwrHubs else s.pwrHubs,
    pwr := if W.testBit 63 then t.pwr else s.pwr,
    eff := if W.testBit 64 then t.eff else s.eff,
    out := if W.testBit 65 then t.out else s.out,
    freeCtr := if W.testBit 66 then t.freeCtr else s.freeCtr }

/-- What is done is the old state with some fields of the new: every other field reads as before, by `rfl`. -/
theorem Does.eq {W : Nat} {s t : State} (h : Does W s t) : t = s.paste W t := by
  have key : ∀ {α : Type} (a b : α) (n : Nat), (W.testBit n = false → a = b) → a = if W.testBit n then a else b := by
    intro α a b n k
    cases e : W.testBit n with
    | true => rfl
    | false => exact k e
  cases t
  unfold State.paste
  congr 1
  · exact key _ _ 0 (h.same .pending)
  · exact key _ _ 1 (h.same .fuses)
  · exact key _ _ 2 (h.same .sys)
  · exact key _ _ 3 (h.same .hubs)
  · exact key _ _ 4 (h.same .clk)
  · exact key _ _ 5 (h.same .traceUnits)
  · exact key _ _ 6 (h.same .traceHubs)
  · exact key _ _ 7 (h.same .trig)
  · exact key _ _ 8 (h.same .counters)
  · exact key _ _ 9 (h.same .cntGroups)
  · exact key _ _ 10 (h.same .mbx)
  · exact key _ _ 11 (h.same .jtag)
  · exact key _ _ 12 (h.same .i3c)
  · exact key _ _ 13 (h.same .zl)
  · exact key _ _ 14 (h.same .flows)
  · exact key _ _ 15 (h.same .hosts)
  · exact key _ _ 16 (h.same .zlg)
  · exact key _ _ 17 (h.same .delivered)
  · exact key _ _ 18 (h.same .slots)
  · exact key _ _ 19 (h.same .extents)
  · exact key _ _ 20 (h.same .maps)
  · exact key _ _ 21 (h.same .drains)
  · exact key _ _ 22 (h.same .carver)
  · exact key _ _ 23 (h.same .dir)
  · exact key _ _ 24 (h.same .lines)
  · exact key _ _ 25 (h.same .retry)
  · exact key _ _ 26 (h.same .atom)
  · exact key _ _ 27 (h.same .cohHubs)
  · exact key _ _ 28 (h.same .heldMsgs)
  · exact key _ _ 29 (h.same .coh)
  · exact key _ _ 30 (h.same .accesses)
  · exact key _ _ 31 (h.same .nextAccess)
  · exact key _ _ 32 (h.same .bulkRx)
  · exact key _ _ 33 (h.same .tenEnd)
  · exact key _ _ 34 (h.same .mem)
  · exact key _ _ 35 (h.same .lineMeta)
  · exact key _ _ 36 (h.same .units)
  · exact key _ _ 37 (h.same .ranks)
  · exact key _ _ 38 (h.same .chans)
  · exact key _ _ 39 (h.same .memHubs)
  · exact key _ _ 40 (h.same .lift)
  · exact key _ _ 41 (h.same .integ)
  · exact key _ _ 42 (h.same .memKey)
  · exact key _ _ 43 (h.same .eth)
  · exact key _ _ 44 (h.same .qps)
  · exact key _ _ 45 (h.same .kmp)
  · exact key _ _ 46 (h.same .queues)
  · exact key _ _ 47 (h.same .queHubs)
  · exact key _ _ 48 (h.same .meters)
  · exact key _ _ 49 (h.same .ethg)
  · exact key _ _ 50 (h.same .lcs)
  · exact key _ _ 51 (h.same .clus)
  · exact key _ _ 52 (h.same .jobs)
  · exact key _ _ 53 (h.same .gates)
  · exact key _ _ 54 (h.same .slg)
  · exact key _ _ 55 (h.same .trn)
  · exact key _ _ 56 (h.same .shoot)
  · exact key _ _ 57 (h.same .jobg)
  · exact key _ _ 58 (h.same .si)
  · exact key _ _ 59 (h.same .fw)
  · exact key _ _ 60 (h.same .ten)
  · exact key _ _ 61 (h.same .sels)
  · exact key _ _ 62 (h.same .pwrHubs)
  · exact key _ _ 63 (h.same .pwr)
  · exact key _ _ 64 (h.same .eff)
  · exact key _ _ 65 (h.same .out)
  · exact key _ _ 66 (h.same .freeCtr)

theorem Does.foldl {W : Nat} {α : Type} {s : State} (g : State → α → State) (l : List α)
    (hg : ∀ (x : State) (a : α), Does W s x → Does W s (g x a)) : ∀ {x : State}, Does W s x → Does W s (l.foldl g x) := by
  induction l with
  | nil => intro x h; exact h
  | cons a r ih => intro x h; exact ih (hg x a h)

theorem Does.foldl₂ {W : Nat} {α β : Type} {s : State} (g : β × State → α → β × State) (l : List α)
    (hg : ∀ (x : β × State) (a : α), Does W s x.2 → Does W s (g x a).2) :
    ∀ {x : β × State}, Does W s x.2 → Does W s (l.foldl g x).2 := by
  induction l with
  | nil => intro x h; exact h
  | cons a r ih => intro x h; exact ih (hg x a h)

theorem Does.foldl₁ {W : Nat} {α β : Type} {s : State} (g : State × β → α → State × β) (l : List α)
    (hg : ∀ (x : State × β) (a : α), Does W s x.1 → Does W s (g x a).1) :
    ∀ {x : State × β}, Does W s x.1 → Does W s (l.foldl g x).1 := by
  induction l with
  | nil => intro x h; exact h
  | cons a r ih => intro x h; exact ih (hg x a h)

theorem Does.of_pair {W : Nat} {α : Type} {s t : State} {p : α × State} {a : α} (h : p = (a, t)) (k : Does W s p.2) : Does W s t := by
  rw [h] at k; exact k

theorem Does.of_fst {W : Nat} {α : Type} {s t : State} {p : State × α} {a : α} (h : p = (t, a)) (k : Does W s p.1) : Does W s t := by
  rw [h] at k; exact k

theorem Does.blocked {W : Nat} {s x : State} (h : Does W s x) : Does W s (Issued.blocked x).split.1 := h
theorem Does.done {W : Nat} {s x : State} (h : Does W s x) : Does W s (Issued.done x).split.1 := h
theorem Does.jump {W : Nat} {s x : State} {n : BitVec 14} (h : Does W s x) : Does W s (Issued.jump x n).split.1 := h

theorem Does.getD {W : Nat} {s x : State} {o : Option State} (h : Does W s x) (k : ∀ t, o = some t → Does W s t) :
    Does W s (o.getD x) := by
  cases o with
  | none => exact h
  | some t => exact k t rfl

theorem wf_keep (m : List Host.Cell) (p : Nat → Bool) (h : Memory.wf m = true) : Memory.wf (SMap.keep m p) = true := by
  unfold Memory.wf SMap.keep at *
  rw [Bool.and_eq_true, List.all_eq_true] at h ⊢
  exact ⟨SMap.sorted_filter _ _ h.1, fun c hc => h.2 c (List.mem_of_mem_filter hc)⟩

theorem satAdd_le {n : Nat} (a : BitVec n) (k : Nat) : a.toNat ≤ (satAdd a k).toNat := by
  unfold satAdd
  split
  · next h => rw [BitVec.toNat_ofNat, Nat.mod_eq_of_lt h]; exact Nat.le_add_right _ _
  · rw [BitVec.toNat_allOnes]; exact Nat.le_sub_one_of_lt a.isLt

theorem laterSerial_le (a b : BitVec 64) : a.toNat ≤ (laterSerial a b).toNat := by
  unfold laterSerial
  split
  · next h => exact Nat.le_of_lt h
  · exact le_rfl

theorem Fw.afterReset_svn (f : Fw) : f.afterReset.svn = f.svn := by
  unfold Fw.afterReset
  dsimp only
  split
  · rfl
  · split <;> rfl

theorem Ten.dropLinks_epoch (l : List Nat) (t : Ten) : (l.foldl Ten.dropLink t).epoch = t.epoch := by
  induction l generalizing t with
  | nil => rfl
  | cons a r ih => exact ih (t.dropLink a)

theorem Does.upd_8 {W : Nat} (hW : Covers W 0x8) {s x : State} (h : Does W s x)
    {hubs'} :
    Does W s (State.mk
      x.pending x.fuses x.sys hubs' x.clk x.traceUnits x.traceHubs x.trig x.counters x.cntGroups x.mbx x.jtag x.i3c x.zl x.flows
      x.hosts x.zlg x.delivered x.slots x.extents x.maps x.drains x.carver x.dir x.lines x.retry x.atom x.cohHubs x.heldMsgs
      x.coh x.accesses x.nextAccess x.bulkRx x.tenEnd x.mem x.lineMeta x.units x.ranks x.chans x.memHubs x.lift x.integ x.memKey
      x.eth x.qps x.kmp x.queues x.queHubs x.meters x.ethg x.lcs x.clus x.jobs x.gates x.slg x.trn x.shoot x.jobg x.si x.fw
      x.ten x.sels x.pwrHubs x.pwr x.eff x.out x.freeCtr) :=
  h.put 0x8 hW ⟨rfl, rfl, id, le_rfl, le_rfl, le_rfl, le_rfl, le_rfl⟩ (fun f hf => by cases f <;> first | exact Eq.refl _ | cases hf)

theorem Does.upd_20000000000000000 {W : Nat} (hW : Covers W 0x20000000000000000) {s x : State} (h : Does W s x)
    {out'} :
    Does W s (State.mk
      x.pending x.fuses x.sys x.hubs x.clk x.traceUnits x.traceHubs x.trig x.counters x.cntGroups x.mbx x.jtag x.i3c x.zl
      x.flows x.hosts x.zlg x.delivered x.slots x.extents x.maps x.drains x.carver x.dir x.lines x.retry x.atom x.cohHubs
      x.heldMsgs x.coh x.accesses x.nextAccess x.bulkRx x.tenEnd x.mem x.lineMeta x.units x.ranks x.chans x.memHubs x.lift
      x.integ x.memKey x.eth x.qps x.kmp x.queues x.queHubs x.meters x.ethg x.lcs x.clus x.jobs x.gates x.slg x.trn x.shoot
      x.jobg x.si x.fw x.ten x.sels x.pwrHubs x.pwr x.eff out' x.freeCtr) :=
  h.put 0x20000000000000000 hW ⟨rfl, rfl, id, le_rfl, le_rfl, le_rfl, le_rfl, le_rfl⟩ (fun f hf => by cases f <;> first | exact Eq.refl _ | cases hf)

theorem Does.upd_40000000000000000 {W : Nat} (hW : Covers W 0x40000000000000000) {s x : State} (h : Does W s x)
    {freeCtr'}
    (hf : x.freeCtr ≤ freeCtr') :
    Does W s (State.mk
      x.pending x.fuses x.sys x.hubs x.clk x.traceUnits x.traceHubs x.trig x.counters x.cntGroups x.mbx x.jtag x.i3c x.zl
      x.flows x.hosts x.zlg x.delivered x.slots x.extents x.maps x.drains x.carver x.dir x.lines x.retry x.atom x.cohHubs
      x.heldMsgs x.coh x.accesses x.nextAccess x.bulkRx x.tenEnd x.mem x.lineMeta x.units x.ranks x.chans x.memHubs x.lift
      x.integ x.memKey x.eth x.qps x.kmp x.queues x.queHubs x.meters x.ethg x.lcs x.clus x.jobs x.gates x.slg x.trn x.shoot
      x.jobg x.si x.fw x.ten x.sels x.pwrHubs x.pwr x.eff x.out freeCtr') :=
  h.put 0x40000000000000000 hW ⟨rfl, rfl, id, le_rfl, le_rfl, le_rfl, le_rfl, hf⟩ (fun f hf => by cases f <;> first | exact Eq.refl _ | cases hf)

theorem Does.upd_4000000000000000 {W : Nat} (hW : Covers W 0x4000000000000000) {s x : State} (h : Does W s x)
    {pwrHubs'} :
    Does W s (State.mk
      x.pending x.fuses x.sys x.hubs x.clk x.traceUnits x.traceHubs x.trig x.counters x.cntGroups x.mbx x.jtag x.i3c x.zl
      x.flows x.hosts x.zlg x.delivered x.slots x.extents x.maps x.drains x.carver x.dir x.lines x.retry x.atom x.cohHubs
      x.heldMsgs x.coh x.accesses x.nextAccess x.bulkRx x.tenEnd x.mem x.lineMeta x.units x.ranks x.chans x.memHubs x.lift
      x.integ x.memKey x.eth x.qps x.kmp x.queues x.queHubs x.meters x.ethg x.lcs x.clus x.jobs x.gates x.slg x.trn x.shoot
      x.jobg x.si x.fw x.ten x.sels pwrHubs' x.pwr x.eff x.out x.freeCtr) :=
  h.put 0x4000000000000000 hW ⟨rfl, rfl, id, le_rfl, le_rfl, le_rfl, le_rfl, le_rfl⟩ (fun f hf => by cases f <;> first | exact Eq.refl _ | cases hf)

theorem Does.upd_100 {W : Nat} (hW : Covers W 0x100) {s x : State} (h : Does W s x)
    {counters'} :
    Does W s (State.mk
      x.pending x.fuses x.sys x.hubs x.clk x.traceUnits x.traceHubs x.trig counters' x.cntGroups x.mbx x.jtag x.i3c x.zl x.flows
      x.hosts x.zlg x.delivered x.slots x.extents x.maps x.drains x.carver x.dir x.lines x.retry x.atom x.cohHubs x.heldMsgs
      x.coh x.accesses x.nextAccess x.bulkRx x.tenEnd x.mem x.lineMeta x.units x.ranks x.chans x.memHubs x.lift x.integ x.memKey
      x.eth x.qps x.kmp x.queues x.queHubs x.meters x.ethg x.lcs x.clus x.jobs x.gates x.slg x.trn x.shoot x.jobg x.si x.fw
      x.ten x.sels x.pwrHubs x.pwr x.eff x.out x.freeCtr) :=
  h.put 0x100 hW ⟨rfl, rfl, id, le_rfl, le_rfl, le_rfl, le_rfl, le_rfl⟩ (fun f hf => by cases f <;> first | exact Eq.refl _ | cases hf)

theorem Does.upd_300 {W : Nat} (hW : Covers W 0x300) {s x : State} (h : Does W s x)
    {counters' cntGroups'} :
    Does W s (State.mk
      x.pending x.fuses x.sys x.hubs x.clk x.traceUnits x.traceHubs x.trig counters' cntGroups' x.mbx x.jtag x.i3c x.zl x.flows
      x.hosts x.zlg x.delivered x.slots x.extents x.maps x.drains x.carver x.dir x.lines x.retry x.atom x.cohHubs x.heldMsgs
      x.coh x.accesses x.nextAccess x.bulkRx x.tenEnd x.mem x.lineMeta x.units x.ranks x.chans x.memHubs x.lift x.integ x.memKey
      x.eth x.qps x.kmp x.queues x.queHubs x.meters x.ethg x.lcs x.clus x.jobs x.gates x.slg x.trn x.shoot x.jobg x.si x.fw
      x.ten x.sels x.pwrHubs x.pwr x.eff x.out x.freeCtr) :=
  h.put 0x300 hW ⟨rfl, rfl, id, le_rfl, le_rfl, le_rfl, le_rfl, le_rfl⟩ (fun f hf => by cases f <;> first | exact Eq.refl _ | cases hf)

theorem Does.upd_20 {W : Nat} (hW : Covers W 0x20) {s x : State} (h : Does W s x)
    {traceUnits'} :
    Does W s (State.mk
      x.pending x.fuses x.sys x.hubs x.clk traceUnits' x.traceHubs x.trig x.counters x.cntGroups x.mbx x.jtag x.i3c x.zl x.flows
      x.hosts x.zlg x.delivered x.slots x.extents x.maps x.drains x.carver x.dir x.lines x.retry x.atom x.cohHubs x.heldMsgs
      x.coh x.accesses x.nextAccess x.bulkRx x.tenEnd x.mem x.lineMeta x.units x.ranks x.chans x.memHubs x.lift x.integ x.memKey
      x.eth x.qps x.kmp x.queues x.queHubs x.meters x.ethg x.lcs x.clus x.jobs x.gates x.slg x.trn x.shoot x.jobg x.si x.fw
      x.ten x.sels x.pwrHubs x.pwr x.eff x.out x.freeCtr) :=
  h.put 0x20 hW ⟨rfl, rfl, id, le_rfl, le_rfl, le_rfl, le_rfl, le_rfl⟩ (fun f hf => by cases f <;> first | exact Eq.refl _ | cases hf)

theorem Does.upd_C0 {W : Nat} (hW : Covers W 0xC0) {s x : State} (h : Does W s x)
    {traceHubs' trig'} :
    Does W s (State.mk
      x.pending x.fuses x.sys x.hubs x.clk x.traceUnits traceHubs' trig' x.counters x.cntGroups x.mbx x.jtag x.i3c x.zl x.flows
      x.hosts x.zlg x.delivered x.slots x.extents x.maps x.drains x.carver x.dir x.lines x.retry x.atom x.cohHubs x.heldMsgs
      x.coh x.accesses x.nextAccess x.bulkRx x.tenEnd x.mem x.lineMeta x.units x.ranks x.chans x.memHubs x.lift x.integ x.memKey
      x.eth x.qps x.kmp x.queues x.queHubs x.meters x.ethg x.lcs x.clus x.jobs x.gates x.slg x.trn x.shoot x.jobg x.si x.fw
      x.ten x.sels x.pwrHubs x.pwr x.eff x.out x.freeCtr) :=
  h.put 0xC0 hW ⟨rfl, rfl, id, le_rfl, le_rfl, le_rfl, le_rfl, le_rfl⟩ (fun f hf => by cases f <;> first | exact Eq.refl _ | cases hf)

theorem Does.upd_40 {W : Nat} (hW : Covers W 0x40) {s x : State} (h : Does W s x)
    {traceHubs'} :
    Does W s (State.mk
      x.pending x.fuses x.sys x.hubs x.clk x.traceUnits traceHubs' x.trig x.counters x.cntGroups x.mbx x.jtag x.i3c x.zl x.flows
      x.hosts x.zlg x.delivered x.slots x.extents x.maps x.drains x.carver x.dir x.lines x.retry x.atom x.cohHubs x.heldMsgs
      x.coh x.accesses x.nextAccess x.bulkRx x.tenEnd x.mem x.lineMeta x.units x.ranks x.chans x.memHubs x.lift x.integ x.memKey
      x.eth x.qps x.kmp x.queues x.queHubs x.meters x.ethg x.lcs x.clus x.jobs x.gates x.slg x.trn x.shoot x.jobg x.si x.fw
      x.ten x.sels x.pwrHubs x.pwr x.eff x.out x.freeCtr) :=
  h.put 0x40 hW ⟨rfl, rfl, id, le_rfl, le_rfl, le_rfl, le_rfl, le_rfl⟩ (fun f hf => by cases f <;> first | exact Eq.refl _ | cases hf)

theorem Does.upd_80 {W : Nat} (hW : Covers W 0x80) {s x : State} (h : Does W s x)
    {trig'} :
    Does W s (State.mk
      x.pending x.fuses x.sys x.hubs x.clk x.traceUnits x.traceHubs trig' x.counters x.cntGroups x.mbx x.jtag x.i3c x.zl x.flows
      x.hosts x.zlg x.delivered x.slots x.extents x.maps x.drains x.carver x.dir x.lines x.retry x.atom x.cohHubs x.heldMsgs
      x.coh x.accesses x.nextAccess x.bulkRx x.tenEnd x.mem x.lineMeta x.units x.ranks x.chans x.memHubs x.lift x.integ x.memKey
      x.eth x.qps x.kmp x.queues x.queHubs x.meters x.ethg x.lcs x.clus x.jobs x.gates x.slg x.trn x.shoot x.jobg x.si x.fw
      x.ten x.sels x.pwrHubs x.pwr x.eff x.out x.freeCtr) :=
  h.put 0x80 hW ⟨rfl, rfl, id, le_rfl, le_rfl, le_rfl, le_rfl, le_rfl⟩ (fun f hf => by cases f <;> first | exact Eq.refl _ | cases hf)

theorem Does.upd_2000 {W : Nat} (hW : Covers W 0x2000) {s x : State} (h : Does W s x)
    {zl'} :
    Does W s (State.mk
      x.pending x.fuses x.sys x.hubs x.clk x.traceUnits x.traceHubs x.trig x.counters x.cntGroups x.mbx x.jtag x.i3c zl' x.flows
      x.hosts x.zlg x.delivered x.slots x.extents x.maps x.drains x.carver x.dir x.lines x.retry x.atom x.cohHubs x.heldMsgs
      x.coh x.accesses x.nextAccess x.bulkRx x.tenEnd x.mem x.lineMeta x.units x.ranks x.chans x.memHubs x.lift x.integ x.memKey
      x.eth x.qps x.kmp x.queues x.queHubs x.meters x.ethg x.lcs x.clus x.jobs x.gates x.slg x.trn x.shoot x.jobg x.si x.fw
      x.ten x.sels x.pwrHubs x.pwr x.eff x.out x.freeCtr) :=
  h.put 0x2000 hW ⟨rfl, rfl, id, le_rfl, le_rfl, le_rfl, le_rfl, le_rfl⟩ (fun f hf => by cases f <;> first | exact Eq.refl _ | cases hf)

theorem Does.upd_8000 {W : Nat} (hW : Covers W 0x8000) {s x : State} (h : Does W s x)
    {hosts'} :
    Does W s (State.mk
      x.pending x.fuses x.sys x.hubs x.clk x.traceUnits x.traceHubs x.trig x.counters x.cntGroups x.mbx x.jtag x.i3c x.zl
      x.flows hosts' x.zlg x.delivered x.slots x.extents x.maps x.drains x.carver x.dir x.lines x.retry x.atom x.cohHubs
      x.heldMsgs x.coh x.accesses x.nextAccess x.bulkRx x.tenEnd x.mem x.lineMeta x.units x.ranks x.chans x.memHubs x.lift
      x.integ x.memKey x.eth x.qps x.kmp x.queues x.queHubs x.meters x.ethg x.lcs x.clus x.jobs x.gates x.slg x.trn x.shoot
      x.jobg x.si x.fw x.ten x.sels x.pwrHubs x.pwr x.eff x.out x.freeCtr) :=
  h.put 0x8000 hW ⟨rfl, rfl, id, le_rfl, le_rfl, le_rfl, le_rfl, le_rfl⟩ (fun f hf => by cases f <;> first | exact Eq.refl _ | cases hf)

theorem Does.upd_4000 {W : Nat} (hW : Covers W 0x4000) {s x : State} (h : Does W s x)
    {flows'} :
    Does W s (State.mk
      x.pending x.fuses x.sys x.hubs x.clk x.traceUnits x.traceHubs x.trig x.counters x.cntGroups x.mbx x.jtag x.i3c x.zl flows'
      x.hosts x.zlg x.delivered x.slots x.extents x.maps x.drains x.carver x.dir x.lines x.retry x.atom x.cohHubs x.heldMsgs
      x.coh x.accesses x.nextAccess x.bulkRx x.tenEnd x.mem x.lineMeta x.units x.ranks x.chans x.memHubs x.lift x.integ x.memKey
      x.eth x.qps x.kmp x.queues x.queHubs x.meters x.ethg x.lcs x.clus x.jobs x.gates x.slg x.trn x.shoot x.jobg x.si x.fw
      x.ten x.sels x.pwrHubs x.pwr x.eff x.out x.freeCtr) :=
  h.put 0x4000 hW ⟨rfl, rfl, id, le_rfl, le_rfl, le_rfl, le_rfl, le_rfl⟩ (fun f hf => by cases f <;> first | exact Eq.refl _ | cases hf)

theorem Does.upd_1000000000000000 {W : Nat} (hW : Covers W 0x1000000000000000) {s x : State} (h : Does W s x)
    {ten'}
    (he : x.ten.epoch.toNat ≤ ten'.epoch.toNat) :
    Does W s (State.mk
      x.pending x.fuses x.sys x.hubs x.clk x.traceUnits x.traceHubs x.trig x.counters x.cntGroups x.mbx x.jtag x.i3c x.zl
      x.flows x.hosts x.zlg x.delivered x.slots x.extents x.maps x.drains x.carver x.dir x.lines x.retry x.atom x.cohHubs
      x.heldMsgs x.coh x.accesses x.nextAccess x.bulkRx x.tenEnd x.mem x.lineMeta x.units x.ranks x.chans x.memHubs x.lift
      x.integ x.memKey x.eth x.qps x.kmp x.queues x.queHubs x.meters x.ethg x.lcs x.clus x.jobs x.gates x.slg x.trn x.shoot
      x.jobg x.si x.fw ten' x.sels x.pwrHubs x.pwr x.eff x.out x.freeCtr) :=
  h.put 0x1000000000000000 hW ⟨rfl, rfl, id, le_rfl, le_rfl, le_rfl, he, le_rfl⟩ (fun f hf => by cases f <;> first | exact Eq.refl _ | cases hf)

theorem Does.upd_10000 {W : Nat} (hW : Covers W 0x10000) {s x : State} (h : Does W s x)
    {zlg'} :
    Does W s (State.mk
      x.pending x.fuses x.sys x.hubs x.clk x.traceUnits x.traceHubs x.trig x.counters x.cntGroups x.mbx x.jtag x.i3c x.zl
      x.flows x.hosts zlg' x.delivered x.slots x.extents x.maps x.drains x.carver x.dir x.lines x.retry x.atom x.cohHubs
      x.heldMsgs x.coh x.accesses x.nextAccess x.bulkRx x.tenEnd x.mem x.lineMeta x.units x.ranks x.chans x.memHubs x.lift
      x.integ x.memKey x.eth x.qps x.kmp x.queues x.queHubs x.meters x.ethg x.lcs x.clus x.jobs x.gates x.slg x.trn x.shoot
      x.jobg x.si x.fw x.ten x.sels x.pwrHubs x.pwr x.eff x.out x.freeCtr) :=
  h.put 0x10000 hW ⟨rfl, rfl, id, le_rfl, le_rfl, le_rfl, le_rfl, le_rfl⟩ (fun f hf => by cases f <;> first | exact Eq.refl _ | cases hf)

theorem Does.upd_20000 {W : Nat} (hW : Covers W 0x20000) {s x : State} (h : Does W s x)
    {delivered'} :
    Does W s (State.mk
      x.pending x.fuses x.sys x.hubs x.clk x.traceUnits x.traceHubs x.trig x.counters x.cntGroups x.mbx x.jtag x.i3c x.zl
      x.flows x.hosts x.zlg delivered' x.slots x.extents x.maps x.drains x.carver x.dir x.lines x.retry x.atom x.cohHubs
      x.heldMsgs x.coh x.accesses x.nextAccess x.bulkRx x.tenEnd x.mem x.lineMeta x.units x.ranks x.chans x.memHubs x.lift
      x.integ x.memKey x.eth x.qps x.kmp x.queues x.queHubs x.meters x.ethg x.lcs x.clus x.jobs x.gates x.slg x.trn x.shoot
      x.jobg x.si x.fw x.ten x.sels x.pwrHubs x.pwr x.eff x.out x.freeCtr) :=
  h.put 0x20000 hW ⟨rfl, rfl, id, le_rfl, le_rfl, le_rfl, le_rfl, le_rfl⟩ (fun f hf => by cases f <;> first | exact Eq.refl _ | cases hf)

theorem Does.upd_10 {W : Nat} (hW : Covers W 0x10) {s x : State} (h : Does W s x)
    {clk'}
    (hc : x.clk.now ≤ clk'.now) :
    Does W s (State.mk
      x.pending x.fuses x.sys x.hubs clk' x.traceUnits x.traceHubs x.trig x.counters x.cntGroups x.mbx x.jtag x.i3c x.zl x.flows
      x.hosts x.zlg x.delivered x.slots x.extents x.maps x.drains x.carver x.dir x.lines x.retry x.atom x.cohHubs x.heldMsgs
      x.coh x.accesses x.nextAccess x.bulkRx x.tenEnd x.mem x.lineMeta x.units x.ranks x.chans x.memHubs x.lift x.integ x.memKey
      x.eth x.qps x.kmp x.queues x.queHubs x.meters x.ethg x.lcs x.clus x.jobs x.gates x.slg x.trn x.shoot x.jobg x.si x.fw
      x.ten x.sels x.pwrHubs x.pwr x.eff x.out x.freeCtr) :=
  h.put 0x10 hW ⟨rfl, rfl, id, hc, le_rfl, le_rfl, le_rfl, le_rfl⟩ (fun f hf => by cases f <;> first | exact Eq.refl _ | cases hf)

theorem Does.upd_4000000000 {W : Nat} (hW : Covers W 0x4000000000) {s x : State} (h : Does W s x)
    {chans'} :
    Does W s (State.mk
      x.pending x.fuses x.sys x.hubs x.clk x.traceUnits x.traceHubs x.trig x.counters x.cntGroups x.mbx x.jtag x.i3c x.zl
      x.flows x.hosts x.zlg x.delivered x.slots x.extents x.maps x.drains x.carver x.dir x.lines x.retry x.atom x.cohHubs
      x.heldMsgs x.coh x.accesses x.nextAccess x.bulkRx x.tenEnd x.mem x.lineMeta x.units x.ranks chans' x.memHubs x.lift
      x.integ x.memKey x.eth x.qps x.kmp x.queues x.queHubs x.meters x.ethg x.lcs x.clus x.jobs x.gates x.slg x.trn x.shoot
      x.jobg x.si x.fw x.ten x.sels x.pwrHubs x.pwr x.eff x.out x.freeCtr) :=
  h.put 0x4000000000 hW ⟨rfl, rfl, id, le_rfl, le_rfl, le_rfl, le_rfl, le_rfl⟩ (fun f hf => by cases f <;> first | exact Eq.refl _ | cases hf)

theorem Does.upd_8000000000 {W : Nat} (hW : Covers W 0x8000000000) {s x : State} (h : Does W s x)
    {memHubs'} :
    Does W s (State.mk
      x.pending x.fuses x.sys x.hubs x.clk x.traceUnits x.traceHubs x.trig x.counters x.cntGroups x.mbx x.jtag x.i3c x.zl
      x.flows x.hosts x.zlg x.delivered x.slots x.extents x.maps x.drains x.carver x.dir x.lines x.retry x.atom x.cohHubs
      x.heldMsgs x.coh x.accesses x.nextAccess x.bulkRx x.tenEnd x.mem x.lineMeta x.units x.ranks x.chans memHubs' x.lift
      x.integ x.memKey x.eth x.qps x.kmp x.queues x.queHubs x.meters x.ethg x.lcs x.clus x.jobs x.gates x.slg x.trn x.shoot
      x.jobg x.si x.fw x.ten x.sels x.pwrHubs x.pwr x.eff x.out x.freeCtr) :=
  h.put 0x8000000000 hW ⟨rfl, rfl, id, le_rfl, le_rfl, le_rfl, le_rfl, le_rfl⟩ (fun f hf => by cases f <;> first | exact Eq.refl _ | cases hf)

theorem Does.upd_C00000000 {W : Nat} (hW : Covers W 0xC00000000) {s x : State} (h : Does W s x)
    {mem' lineMeta'}
    (hm : Memory.wf x.mem = true → Memory.wf mem' = true) :
    Does W s (State.mk
      x.pending x.fuses x.sys x.hubs x.clk x.traceUnits x.traceHubs x.trig x.counters x.cntGroups x.mbx x.jtag x.i3c x.zl
      x.flows x.hosts x.zlg x.delivered x.slots x.extents x.maps x.drains x.carver x.dir x.lines x.retry x.atom x.cohHubs
      x.heldMsgs x.coh x.accesses x.nextAccess x.bulkRx x.tenEnd mem' lineMeta' x.units x.ranks x.chans x.memHubs x.lift x.integ
      x.memKey x.eth x.qps x.kmp x.queues x.queHubs x.meters x.ethg x.lcs x.clus x.jobs x.gates x.slg x.trn x.shoot x.jobg x.si
      x.fw x.ten x.sels x.pwrHubs x.pwr x.eff x.out x.freeCtr) :=
  h.put 0xC00000000 hW ⟨rfl, rfl, hm, le_rfl, le_rfl, le_rfl, le_rfl, le_rfl⟩ (fun f hf => by cases f <;> first | exact Eq.refl _ | cases hf)

theorem Does.upd_1C00000000 {W : Nat} (hW : Covers W 0x1C00000000) {s x : State} (h : Does W s x)
    {mem' lineMeta' units'}
    (hm : Memory.wf x.mem = true → Memory.wf mem' = true) :
    Does W s (State.mk
      x.pending x.fuses x.sys x.hubs x.clk x.traceUnits x.traceHubs x.trig x.counters x.cntGroups x.mbx x.jtag x.i3c x.zl
      x.flows x.hosts x.zlg x.delivered x.slots x.extents x.maps x.drains x.carver x.dir x.lines x.retry x.atom x.cohHubs
      x.heldMsgs x.coh x.accesses x.nextAccess x.bulkRx x.tenEnd mem' lineMeta' units' x.ranks x.chans x.memHubs x.lift x.integ
      x.memKey x.eth x.qps x.kmp x.queues x.queHubs x.meters x.ethg x.lcs x.clus x.jobs x.gates x.slg x.trn x.shoot x.jobg x.si
      x.fw x.ten x.sels x.pwrHubs x.pwr x.eff x.out x.freeCtr) :=
  h.put 0x1C00000000 hW ⟨rfl, rfl, hm, le_rfl, le_rfl, le_rfl, le_rfl, le_rfl⟩ (fun f hf => by cases f <;> first | exact Eq.refl _ | cases hf)

theorem Does.upd_20000000000 {W : Nat} (hW : Covers W 0x20000000000) {s x : State} (h : Does W s x)
    {integ'} :
    Does W s (State.mk
      x.pending x.fuses x.sys x.hubs x.clk x.traceUnits x.traceHubs x.trig x.counters x.cntGroups x.mbx x.jtag x.i3c x.zl
      x.flows x.hosts x.zlg x.delivered x.slots x.extents x.maps x.drains x.carver x.dir x.lines x.retry x.atom x.cohHubs
      x.heldMsgs x.coh x.accesses x.nextAccess x.bulkRx x.tenEnd x.mem x.lineMeta x.units x.ranks x.chans x.memHubs x.lift
      integ' x.memKey x.eth x.qps x.kmp x.queues x.queHubs x.meters x.ethg x.lcs x.clus x.jobs x.gates x.slg x.trn x.shoot
      x.jobg x.si x.fw x.ten x.sels x.pwrHubs x.pwr x.eff x.out x.freeCtr) :=
  h.put 0x20000000000 hW ⟨rfl, rfl, id, le_rfl, le_rfl, le_rfl, le_rfl, le_rfl⟩ (fun f hf => by cases f <;> first | exact Eq.refl _ | cases hf)

theorem Does.upd_2000000000 {W : Nat} (hW : Covers W 0x2000000000) {s x : State} (h : Does W s x)
    {ranks'} :
    Does W s (State.mk
      x.pending x.fuses x.sys x.hubs x.clk x.traceUnits x.traceHubs x.trig x.counters x.cntGroups x.mbx x.jtag x.i3c x.zl
      x.flows x.hosts x.zlg x.delivered x.slots x.extents x.maps x.drains x.carver x.dir x.lines x.retry x.atom x.cohHubs
      x.heldMsgs x.coh x.accesses x.nextAccess x.bulkRx x.tenEnd x.mem x.lineMeta x.units ranks' x.chans x.memHubs x.lift
      x.integ x.memKey x.eth x.qps x.kmp x.queues x.queHubs x.meters x.ethg x.lcs x.clus x.jobs x.gates x.slg x.trn x.shoot
      x.jobg x.si x.fw x.ten x.sels x.pwrHubs x.pwr x.eff x.out x.freeCtr) :=
  h.put 0x2000000000 hW ⟨rfl, rfl, id, le_rfl, le_rfl, le_rfl, le_rfl, le_rfl⟩ (fun f hf => by cases f <;> first | exact Eq.refl _ | cases hf)

theorem Does.upd_22000000000 {W : Nat} (hW : Covers W 0x22000000000) {s x : State} (h : Does W s x)
    {ranks' integ'} :
    Does W s (State.mk
      x.pending x.fuses x.sys x.hubs x.clk x.traceUnits x.traceHubs x.trig x.counters x.cntGroups x.mbx x.jtag x.i3c x.zl
      x.flows x.hosts x.zlg x.delivered x.slots x.extents x.maps x.drains x.carver x.dir x.lines x.retry x.atom x.cohHubs
      x.heldMsgs x.coh x.accesses x.nextAccess x.bulkRx x.tenEnd x.mem x.lineMeta x.units ranks' x.chans x.memHubs x.lift integ'
      x.memKey x.eth x.qps x.kmp x.queues x.queHubs x.meters x.ethg x.lcs x.clus x.jobs x.gates x.slg x.trn x.shoot x.jobg x.si
      x.fw x.ten x.sels x.pwrHubs x.pwr x.eff x.out x.freeCtr) :=
  h.put 0x22000000000 hW ⟨rfl, rfl, id, le_rfl, le_rfl, le_rfl, le_rfl, le_rfl⟩ (fun f hf => by cases f <;> first | exact Eq.refl _ | cases hf)

theorem Does.upd_40000 {W : Nat} (hW : Covers W 0x40000) {s x : State} (h : Does W s x)
    {slots'} :
    Does W s (State.mk
      x.pending x.fuses x.sys x.hubs x.clk x.traceUnits x.traceHubs x.trig x.counters x.cntGroups x.mbx x.jtag x.i3c x.zl
      x.flows x.hosts x.zlg x.delivered slots' x.extents x.maps x.drains x.carver x.dir x.lines x.retry x.atom x.cohHubs
      x.heldMsgs x.coh x.accesses x.nextAccess x.bulkRx x.tenEnd x.mem x.lineMeta x.units x.ranks x.chans x.memHubs x.lift
      x.integ x.memKey x.eth x.qps x.kmp x.queues x.queHubs x.meters x.ethg x.lcs x.clus x.jobs x.gates x.slg x.trn x.shoot
      x.jobg x.si x.fw x.ten x.sels x.pwrHubs x.pwr x.eff x.out x.freeCtr) :=
  h.put 0x40000 hW ⟨rfl, rfl, id, le_rfl, le_rfl, le_rfl, le_rfl, le_rfl⟩ (fun f hf => by cases f <;> first | exact Eq.refl _ | cases hf)

theorem Does.upd_20000040000 {W : Nat} (hW : Covers W 0x20000040000) {s x : State} (h : Does W s x)
    {slots' integ'} :
    Does W s (State.mk
      x.pending x.fuses x.sys x.hubs x.clk x.traceUnits x.traceHubs x.trig x.counters x.cntGroups x.mbx x.jtag x.i3c x.zl
      x.flows x.hosts x.zlg x.delivered slots' x.extents x.maps x.drains x.carver x.dir x.lines x.retry x.atom x.cohHubs
      x.heldMsgs x.coh x.accesses x.nextAccess x.bulkRx x.tenEnd x.mem x.lineMeta x.units x.ranks x.chans x.memHubs x.lift
      integ' x.memKey x.eth x.qps x.kmp x.queues x.queHubs x.meters x.ethg x.lcs x.clus x.jobs x.gates x.slg x.trn x.shoot
      x.jobg x.si x.fw x.ten x.sels x.pwrHubs x.pwr x.eff x.out x.freeCtr) :=
  h.put 0x20000040000 hW ⟨rfl, rfl, id, le_rfl, le_rfl, le_rfl, le_rfl, le_rfl⟩ (fun f hf => by cases f <;> first | exact Eq.refl _ | cases hf)

theorem Does.upd_80000000000 {W : Nat} (hW : Covers W 0x80000000000) {s x : State} (h : Does W s x)
    {eth'} :
    Does W s (State.mk
      x.pending x.fuses x.sys x.hubs x.clk x.traceUnits x.traceHubs x.trig x.counters x.cntGroups x.mbx x.jtag x.i3c x.zl
      x.flows x.hosts x.zlg x.delivered x.slots x.extents x.maps x.drains x.carver x.dir x.lines x.retry x.atom x.cohHubs
      x.heldMsgs x.coh x.accesses x.nextAccess x.bulkRx x.tenEnd x.mem x.lineMeta x.units x.ranks x.chans x.memHubs x.lift
      x.integ x.memKey eth' x.qps x.kmp x.queues x.queHubs x.meters x.ethg x.lcs x.clus x.jobs x.gates x.slg x.trn x.shoot
      x.jobg x.si x.fw x.ten x.sels x.pwrHubs x.pwr x.eff x.out x.freeCtr) :=
  h.put 0x80000000000 hW ⟨rfl, rfl, id, le_rfl, le_rfl, le_rfl, le_rfl, le_rfl⟩ (fun f hf => by cases f <;> first | exact Eq.refl _ | cases hf)

theorem Does.upd_1000000000000 {W : Nat} (hW : Covers W 0x1000000000000) {s x : State} (h : Does W s x)
    {meters'} :
    Does W s (State.mk
      x.pending x.fuses x.sys x.hubs x.clk x.traceUnits x.traceHubs x.trig x.counters x.cntGroups x.mbx x.jtag x.i3c x.zl
      x.flows x.hosts x.zlg x.delivered x.slots x.extents x.maps x.drains x.carver x.dir x.lines x.retry x.atom x.cohHubs
      x.heldMsgs x.coh x.accesses x.nextAccess x.bulkRx x.tenEnd x.mem x.lineMeta x.units x.ranks x.chans x.memHubs x.lift
      x.integ x.memKey x.eth x.qps x.kmp x.queues x.queHubs meters' x.ethg x.lcs x.clus x.jobs x.gates x.slg x.trn x.shoot
      x.jobg x.si x.fw x.ten x.sels x.pwrHubs x.pwr x.eff x.out x.freeCtr) :=
  h.put 0x1000000000000 hW ⟨rfl, rfl, id, le_rfl, le_rfl, le_rfl, le_rfl, le_rfl⟩ (fun f hf => by cases f <;> first | exact Eq.refl _ | cases hf)

theorem Does.upd_400000000000 {W : Nat} (hW : Covers W 0x400000000000) {s x : State} (h : Does W s x)
    {queues'} :
    Does W s (State.mk
      x.pending x.fuses x.sys x.hubs x.clk x.traceUnits x.traceHubs x.trig x.counters x.cntGroups x.mbx x.jtag x.i3c x.zl
      x.flows x.hosts x.zlg x.delivered x.slots x.extents x.maps x.drains x.carver x.dir x.lines x.retry x.atom x.cohHubs
      x.heldMsgs x.coh x.accesses x.nextAccess x.bulkRx x.tenEnd x.mem x.lineMeta x.units x.ranks x.chans x.memHubs x.lift
      x.integ x.memKey x.eth x.qps x.kmp queues' x.queHubs x.meters x.ethg x.lcs x.clus x.jobs x.gates x.slg x.trn x.shoot
      x.jobg x.si x.fw x.ten x.sels x.pwrHubs x.pwr x.eff x.out x.freeCtr) :=
  h.put 0x400000000000 hW ⟨rfl, rfl, id, le_rfl, le_rfl, le_rfl, le_rfl, le_rfl⟩ (fun f hf => by cases f <;> first | exact Eq.refl _ | cases hf)

theorem Does.upd_40000000 {W : Nat} (hW : Covers W 0x40000000) {s x : State} (h : Does W s x)
    {accesses'} :
    Does W s (State.mk
      x.pending x.fuses x.sys x.hubs x.clk x.traceUnits x.traceHubs x.trig x.counters x.cntGroups x.mbx x.jtag x.i3c x.zl
      x.flows x.hosts x.zlg x.delivered x.slots x.extents x.maps x.drains x.carver x.dir x.lines x.retry x.atom x.cohHubs
      x.heldMsgs x.coh accesses' x.nextAccess x.bulkRx x.tenEnd x.mem x.lineMeta x.units x.ranks x.chans x.memHubs x.lift
      x.integ x.memKey x.eth x.qps x.kmp x.queues x.queHubs x.meters x.ethg x.lcs x.clus x.jobs x.gates x.slg x.trn x.shoot
      x.jobg x.si x.fw x.ten x.sels x.pwrHubs x.pwr x.eff x.out x.freeCtr) :=
  h.put 0x40000000 hW ⟨rfl, rfl, id, le_rfl, le_rfl, le_rfl, le_rfl, le_rfl⟩ (fun f hf => by cases f <;> first | exact Eq.refl _ | cases hf)

theorem Does.upd_100000000000 {W : Nat} (hW : Covers W 0x100000000000) {s x : State} (h : Does W s x)
    {qps'} :
    Does W s (State.mk
      x.pending x.fuses x.sys x.hubs x.clk x.traceUnits x.traceHubs x.trig x.counters x.cntGroups x.mbx x.jtag x.i3c x.zl
      x.flows x.hosts x.zlg x.delivered x.slots x.extents x.maps x.drains x.carver x.dir x.lines x.retry x.atom x.cohHubs
      x.heldMsgs x.coh x.accesses x.nextAccess x.bulkRx x.tenEnd x.mem x.lineMeta x.units x.ranks x.chans x.memHubs x.lift
      x.integ x.memKey x.eth qps' x.kmp x.queues x.queHubs x.meters x.ethg x.lcs x.clus x.jobs x.gates x.slg x.trn x.shoot
      x.jobg x.si x.fw x.ten x.sels x.pwrHubs x.pwr x.eff x.out x.freeCtr) :=
  h.put 0x100000000000 hW ⟨rfl, rfl, id, le_rfl, le_rfl, le_rfl, le_rfl, le_rfl⟩ (fun f hf => by cases f <;> first | exact Eq.refl _ | cases hf)

theorem Does.upd_200000000000 {W : Nat} (hW : Covers W 0x200000000000) {s x : State} (h : Does W s x)
    {kmp'} :
    Does W s (State.mk
      x.pending x.fuses x.sys x.hubs x.clk x.traceUnits x.traceHubs x.trig x.counters x.cntGroups x.mbx x.jtag x.i3c x.zl
      x.flows x.hosts x.zlg x.delivered x.slots x.extents x.maps x.drains x.carver x.dir x.lines x.retry x.atom x.cohHubs
      x.heldMsgs x.coh x.accesses x.nextAccess x.bulkRx x.tenEnd x.mem x.lineMeta x.units x.ranks x.chans x.memHubs x.lift
      x.integ x.memKey x.eth x.qps kmp' x.queues x.queHubs x.meters x.ethg x.lcs x.clus x.jobs x.gates x.slg x.trn x.shoot
      x.jobg x.si x.fw x.ten x.sels x.pwrHubs x.pwr x.eff x.out x.freeCtr) :=
  h.put 0x200000000000 hW ⟨rfl, rfl, id, le_rfl, le_rfl, le_rfl, le_rfl, le_rfl⟩ (fun f hf => by cases f <;> first | exact Eq.refl _ | cases hf)

theorem Does.upd_2000000000000 {W : Nat} (hW : Covers W 0x2000000000000) {s x : State} (h : Does W s x)
    {ethg'} :
    Does W s (State.mk
      x.pending x.fuses x.sys x.hubs x.clk x.traceUnits x.traceHubs x.trig x.counters x.cntGroups x.mbx x.jtag x.i3c x.zl
      x.flows x.hosts x.zlg x.delivered x.slots x.extents x.maps x.drains x.carver x.dir x.lines x.retry x.atom x.cohHubs
      x.heldMsgs x.coh x.accesses x.nextAccess x.bulkRx x.tenEnd x.mem x.lineMeta x.units x.ranks x.chans x.memHubs x.lift
      x.integ x.memKey x.eth x.qps x.kmp x.queues x.queHubs x.meters ethg' x.lcs x.clus x.jobs x.gates x.slg x.trn x.shoot
      x.jobg x.si x.fw x.ten x.sels x.pwrHubs x.pwr x.eff x.out x.freeCtr) :=
  h.put 0x2000000000000 hW ⟨rfl, rfl, id, le_rfl, le_rfl, le_rfl, le_rfl, le_rfl⟩ (fun f hf => by cases f <;> first | exact Eq.refl _ | cases hf)

theorem Does.upd_400000000000000 {W : Nat} (hW : Covers W 0x400000000000000) {s x : State} (h : Does W s x)
    {si'}
    (hs : x.si.maxSerial.toNat ≤ si'.maxSerial.toNat) :
    Does W s (State.mk
      x.pending x.fuses x.sys x.hubs x.clk x.traceUnits x.traceHubs x.trig x.counters x.cntGroups x.mbx x.jtag x.i3c x.zl
      x.flows x.hosts x.zlg x.delivered x.slots x.extents x.maps x.drains x.carver x.dir x.lines x.retry x.atom x.cohHubs
      x.heldMsgs x.coh x.accesses x.nextAccess x.bulkRx x.tenEnd x.mem x.lineMeta x.units x.ranks x.chans x.memHubs x.lift
      x.integ x.memKey x.eth x.qps x.kmp x.queues x.queHubs x.meters x.ethg x.lcs x.clus x.jobs x.gates x.slg x.trn x.shoot
      x.jobg si' x.fw x.ten x.sels x.pwrHubs x.pwr x.eff x.out x.freeCtr) :=
  h.put 0x400000000000000 hW ⟨rfl, rfl, id, le_rfl, le_rfl, hs, le_rfl, le_rfl⟩ (fun f hf => by cases f <;> first | exact Eq.refl _ | cases hf)

theorem Does.upd_800000 {W : Nat} (hW : Covers W 0x800000) {s x : State} (h : Does W s x)
    {dir'} :
    Does W s (State.mk
      x.pending x.fuses x.sys x.hubs x.clk x.traceUnits x.traceHubs x.trig x.counters x.cntGroups x.mbx x.jtag x.i3c x.zl
      x.flows x.hosts x.zlg x.delivered x.slots x.extents x.maps x.drains x.carver dir' x.lines x.retry x.atom x.cohHubs
      x.heldMsgs x.coh x.accesses x.nextAccess x.bulkRx x.tenEnd x.mem x.lineMeta x.units x.ranks x.chans x.memHubs x.lift
      x.integ x.memKey x.eth x.qps x.kmp x.queues x.queHubs x.meters x.ethg x.lcs x.clus x.jobs x.gates x.slg x.trn x.shoot
      x.jobg x.si x.fw x.ten x.sels x.pwrHubs x.pwr x.eff x.out x.freeCtr) :=
  h.put 0x800000 hW ⟨rfl, rfl, id, le_rfl, le_rfl, le_rfl, le_rfl, le_rfl⟩ (fun f hf => by cases f <;> first | exact Eq.refl _ | cases hf)

theorem Does.upd_8000000 {W : Nat} (hW : Covers W 0x8000000) {s x : State} (h : Does W s x)
    {cohHubs'} :
    Does W s (State.mk
      x.pending x.fuses x.sys x.hubs x.clk x.traceUnits x.traceHubs x.trig x.counters x.cntGroups x.mbx x.jtag x.i3c x.zl
      x.flows x.hosts x.zlg x.delivered x.slots x.extents x.maps x.drains x.carver x.dir x.lines x.retry x.atom cohHubs'
      x.heldMsgs x.coh x.accesses x.nextAccess x.bulkRx x.tenEnd x.mem x.lineMeta x.units x.ranks x.chans x.memHubs x.lift
      x.integ x.memKey x.eth x.qps x.kmp x.queues x.queHubs x.meters x.ethg x.lcs x.clus x.jobs x.gates x.slg x.trn x.shoot
      x.jobg x.si x.fw x.ten x.sels x.pwrHubs x.pwr x.eff x.out x.freeCtr) :=
  h.put 0x8000000 hW ⟨rfl, rfl, id, le_rfl, le_rfl, le_rfl, le_rfl, le_rfl⟩ (fun f hf => by cases f <;> first | exact Eq.refl _ | cases hf)

theorem Does.upd_1000000 {W : Nat} (hW : Covers W 0x1000000) {s x : State} (h : Does W s x)
    {lines'} :
    Does W s (State.mk
      x.pending x.fuses x.sys x.hubs x.clk x.traceUnits x.traceHubs x.trig x.counters x.cntGroups x.mbx x.jtag x.i3c x.zl
      x.flows x.hosts x.zlg x.delivered x.slots x.extents x.maps x.drains x.carver x.dir lines' x.retry x.atom x.cohHubs
      x.heldMsgs x.coh x.accesses x.nextAccess x.bulkRx x.tenEnd x.mem x.lineMeta x.units x.ranks x.chans x.memHubs x.lift
      x.integ x.memKey x.eth x.qps x.kmp x.queues x.queHubs x.meters x.ethg x.lcs x.clus x.jobs x.gates x.slg x.trn x.shoot
      x.jobg x.si x.fw x.ten x.sels x.pwrHubs x.pwr x.eff x.out x.freeCtr) :=
  h.put 0x1000000 hW ⟨rfl, rfl, id, le_rfl, le_rfl, le_rfl, le_rfl, le_rfl⟩ (fun f hf => by cases f <;> first | exact Eq.refl _ | cases hf)

theorem Does.upd_20000000 {W : Nat} (hW : Covers W 0x20000000) {s x : State} (h : Does W s x)
    {coh'} :
    Does W s (State.mk
      x.pending x.fuses x.sys x.hubs x.clk x.traceUnits x.traceHubs x.trig x.counters x.cntGroups x.mbx x.jtag x.i3c x.zl
      x.flows x.hosts x.zlg x.delivered x.slots x.extents x.maps x.drains x.carver x.dir x.lines x.retry x.atom x.cohHubs
      x.heldMsgs coh' x.accesses x.nextAccess x.bulkRx x.tenEnd x.mem x.lineMeta x.units x.ranks x.chans x.memHubs x.lift
      x.integ x.memKey x.eth x.qps x.kmp x.queues x.queHubs x.meters x.ethg x.lcs x.clus x.jobs x.gates x.slg x.trn x.shoot
      x.jobg x.si x.fw x.ten x.sels x.pwrHubs x.pwr x.eff x.out x.freeCtr) :=
  h.put 0x20000000 hW ⟨rfl, rfl, id, le_rfl, le_rfl, le_rfl, le_rfl, le_rfl⟩ (fun f hf => by cases f <;> first | exact Eq.refl _ | cases hf)

theorem Does.upd_4000000 {W : Nat} (hW : Covers W 0x4000000) {s x : State} (h : Does W s x)
    {atom'} :
    Does W s (State.mk
      x.pending x.fuses x.sys x.hubs x.clk x.traceUnits x.traceHubs x.trig x.counters x.cntGroups x.mbx x.jtag x.i3c x.zl
      x.flows x.hosts x.zlg x.delivered x.slots x.extents x.maps x.drains x.carver x.dir x.lines x.retry atom' x.cohHubs
      x.heldMsgs x.coh x.accesses x.nextAccess x.bulkRx x.tenEnd x.mem x.lineMeta x.units x.ranks x.chans x.memHubs x.lift
      x.integ x.memKey x.eth x.qps x.kmp x.queues x.queHubs x.meters x.ethg x.lcs x.clus x.jobs x.gates x.slg x.trn x.shoot
      x.jobg x.si x.fw x.ten x.sels x.pwrHubs x.pwr x.eff x.out x.freeCtr) :=
  h.put 0x4000000 hW ⟨rfl, rfl, id, le_rfl, le_rfl, le_rfl, le_rfl, le_rfl⟩ (fun f hf => by cases f <;> first | exact Eq.refl _ | cases hf)

theorem Does.upd_44000000 {W : Nat} (hW : Covers W 0x44000000) {s x : State} (h : Does W s x)
    {atom' accesses'} :
    Does W s (State.mk
      x.pending x.fuses x.sys x.hubs x.clk x.traceUnits x.traceHubs x.trig x.counters x.cntGroups x.mbx x.jtag x.i3c x.zl
      x.flows x.hosts x.zlg x.delivered x.slots x.extents x.maps x.drains x.carver x.dir x.lines x.retry atom' x.cohHubs
      x.heldMsgs x.coh accesses' x.nextAccess x.bulkRx x.tenEnd x.mem x.lineMeta x.units x.ranks x.chans x.memHubs x.lift
      x.integ x.memKey x.eth x.qps x.kmp x.queues x.queHubs x.meters x.ethg x.lcs x.clus x.jobs x.gates x.slg x.trn x.shoot
      x.jobg x.si x.fw x.ten x.sels x.pwrHubs x.pwr x.eff x.out x.freeCtr) :=
  h.put 0x44000000 hW ⟨rfl, rfl, id, le_rfl, le_rfl, le_rfl, le_rfl, le_rfl⟩ (fun f hf => by cases f <;> first | exact Eq.refl _ | cases hf)

theorem Does.upd_2000000 {W : Nat} (hW : Covers W 0x2000000) {s x : State} (h : Does W s x)
    {retry'} :
    Does W s (State.mk
      x.pending x.fuses x.sys x.hubs x.clk x.traceUnits x.traceHubs x.trig x.counters x.cntGroups x.mbx x.jtag x.i3c x.zl
      x.flows x.hosts x.zlg x.delivered x.slots x.extents x.maps x.drains x.carver x.dir x.lines retry' x.atom x.cohHubs
      x.heldMsgs x.coh x.accesses x.nextAccess x.bulkRx x.tenEnd x.mem x.lineMeta x.units x.ranks x.chans x.memHubs x.lift
      x.integ x.memKey x.eth x.qps x.kmp x.queues x.queHubs x.meters x.ethg x.lcs x.clus x.jobs x.gates x.slg x.trn x.shoot
      x.jobg x.si x.fw x.ten x.sels x.pwrHubs x.pwr x.eff x.out x.freeCtr) :=
  h.put 0x2000000 hW ⟨rfl, rfl, id, le_rfl, le_rfl, le_rfl, le_rfl, le_rfl⟩ (fun f hf => by cases f <;> first | exact Eq.refl _ | cases hf)

theorem Does.upd_80000000 {W : Nat} (hW : Covers W 0x80000000) {s x : State} (h : Does W s x)
    {nextAccess'} :
    Does W s (State.mk
      x.pending x.fuses x.sys x.hubs x.clk x.traceUnits x.traceHubs x.trig x.counters x.cntGroups x.mbx x.jtag x.i3c x.zl
      x.flows x.hosts x.zlg x.delivered x.slots x.extents x.maps x.drains x.carver x.dir x.lines x.retry x.atom x.cohHubs
      x.heldMsgs x.coh x.accesses nextAccess' x.bulkRx x.tenEnd x.mem x.lineMeta x.units x.ranks x.chans x.memHubs x.lift
      x.integ x.memKey x.eth x.qps x.kmp x.queues x.queHubs x.meters x.ethg x.lcs x.clus x.jobs x.gates x.slg x.trn x.shoot
      x.jobg x.si x.fw x.ten x.sels x.pwrHubs x.pwr x.eff x.out x.freeCtr) :=
  h.put 0x80000000 hW ⟨rfl, rfl, id, le_rfl, le_rfl, le_rfl, le_rfl, le_rfl⟩ (fun f hf => by cases f <;> first | exact Eq.refl _ | cases hf)

theorem Does.upd_C0000000 {W : Nat} (hW : Covers W 0xC0000000) {s x : State} (h : Does W s x)
    {accesses' nextAccess'} :
    Does W s (State.mk
      x.pending x.fuses x.sys x.hubs x.clk x.traceUnits x.traceHubs x.trig x.counters x.cntGroups x.mbx x.jtag x.i3c x.zl
      x.flows x.hosts x.zlg x.delivered x.slots x.extents x.maps x.drains x.carver x.dir x.lines x.retry x.atom x.cohHubs
      x.heldMsgs x.coh accesses' nextAccess' x.bulkRx x.tenEnd x.mem x.lineMeta x.units x.ranks x.chans x.memHubs x.lift x.integ
      x.memKey x.eth x.qps x.kmp x.queues x.queHubs x.meters x.ethg x.lcs x.clus x.jobs x.gates x.slg x.trn x.shoot x.jobg x.si
      x.fw x.ten x.sels x.pwrHubs x.pwr x.eff x.out x.freeCtr) :=
  h.put 0xC0000000 hW ⟨rfl, rfl, id, le_rfl, le_rfl, le_rfl, le_rfl, le_rfl⟩ (fun f hf => by cases f <;> first | exact Eq.refl _ | cases hf)

theorem Does.upd_10000000000000 {W : Nat} (hW : Covers W 0x10000000000000) {s x : State} (h : Does W s x)
    {jobs'} :
    Does W s (State.mk
      x.pending x.fuses x.sys x.hubs x.clk x.traceUnits x.traceHubs x.trig x.counters x.cntGroups x.mbx x.jtag x.i3c x.zl
      x.flows x.hosts x.zlg x.delivered x.slots x.extents x.maps x.drains x.carver x.dir x.lines x.retry x.atom x.cohHubs
      x.heldMsgs x.coh x.accesses x.nextAccess x.bulkRx x.tenEnd x.mem x.lineMeta x.units x.ranks x.chans x.memHubs x.lift
      x.integ x.memKey x.eth x.qps x.kmp x.queues x.queHubs x.meters x.ethg x.lcs x.clus jobs' x.gates x.slg x.trn x.shoot
      x.jobg x.si x.fw x.ten x.sels x.pwrHubs x.pwr x.eff x.out x.freeCtr) :=
  h.put 0x10000000000000 hW ⟨rfl, rfl, id, le_rfl, le_rfl, le_rfl, le_rfl, le_rfl⟩ (fun f hf => by cases f <;> first | exact Eq.refl _ | cases hf)

theorem Does.upd_4000000000000 {W : Nat} (hW : Covers W 0x4000000000000) {s x : State} (h : Does W s x)
    {lcs'} :
    Does W s (State.mk
      x.pending x.fuses x.sys x.hubs x.clk x.traceUnits x.traceHubs x.trig x.counters x.cntGroups x.mbx x.jtag x.i3c x.zl
      x.flows x.hosts x.zlg x.delivered x.slots x.extents x.maps x.drains x.carver x.dir x.lines x.retry x.atom x.cohHubs
      x.heldMsgs x.coh x.accesses x.nextAccess x.bulkRx x.tenEnd x.mem x.lineMeta x.units x.ranks x.chans x.memHubs x.lift
      x.integ x.memKey x.eth x.qps x.kmp x.queues x.queHubs x.meters x.ethg lcs' x.clus x.jobs x.gates x.slg x.trn x.shoot
      x.jobg x.si x.fw x.ten x.sels x.pwrHubs x.pwr x.eff x.out x.freeCtr) :=
  h.put 0x4000000000000 hW ⟨rfl, rfl, id, le_rfl, le_rfl, le_rfl, le_rfl, le_rfl⟩ (fun f hf => by cases f <;> first | exact Eq.refl _ | cases hf)

theorem Does.upd_8000000000000 {W : Nat} (hW : Covers W 0x8000000000000) {s x : State} (h : Does W s x)
    {clus'} :
    Does W s (State.mk
      x.pending x.fuses x.sys x.hubs x.clk x.traceUnits x.traceHubs x.trig x.counters x.cntGroups x.mbx x.jtag x.i3c x.zl
      x.flows x.hosts x.zlg x.delivered x.slots x.extents x.maps x.drains x.carver x.dir x.lines x.retry x.atom x.cohHubs
      x.heldMsgs x.coh x.accesses x.nextAccess x.bulkRx x.tenEnd x.mem x.lineMeta x.units x.ranks x.chans x.memHubs x.lift
      x.integ x.memKey x.eth x.qps x.kmp x.queues x.queHubs x.meters x.ethg x.lcs clus' x.jobs x.gates x.slg x.trn x.shoot
      x.jobg x.si x.fw x.ten x.sels x.pwrHubs x.pwr x.eff x.out x.freeCtr) :=
  h.put 0x8000000000000 hW ⟨rfl, rfl, id, le_rfl, le_rfl, le_rfl, le_rfl, le_rfl⟩ (fun f hf => by cases f <;> first | exact Eq.refl _ | cases hf)

theorem Does.upd_80000000000000 {W : Nat} (hW : Covers W 0x80000000000000) {s x : State} (h : Does W s x)
    {trn'} :
    Does W s (State.mk
      x.pending x.fuses x.sys x.hubs x.clk x.traceUnits x.traceHubs x.trig x.counters x.cntGroups x.mbx x.jtag x.i3c x.zl
      x.flows x.hosts x.zlg x.delivered x.slots x.extents x.maps x.drains x.carver x.dir x.lines x.retry x.atom x.cohHubs
      x.heldMsgs x.coh x.accesses x.nextAccess x.bulkRx x.tenEnd x.mem x.lineMeta x.units x.ranks x.chans x.memHubs x.lift
      x.integ x.memKey x.eth x.qps x.kmp x.queues x.queHubs x.meters x.ethg x.lcs x.clus x.jobs x.gates x.slg trn' x.shoot
      x.jobg x.si x.fw x.ten x.sels x.pwrHubs x.pwr x.eff x.out x.freeCtr) :=
  h.put 0x80000000000000 hW ⟨rfl, rfl, id, le_rfl, le_rfl, le_rfl, le_rfl, le_rfl⟩ (fun f hf => by cases f <;> first | exact Eq.refl _ | cases hf)

theorem Does.upd_100000000000000 {W : Nat} (hW : Covers W 0x100000000000000) {s x : State} (h : Does W s x)
    {shoot'} :
    Does W s (State.mk
      x.pending x.fuses x.sys x.hubs x.clk x.traceUnits x.traceHubs x.trig x.counters x.cntGroups x.mbx x.jtag x.i3c x.zl
      x.flows x.hosts x.zlg x.delivered x.slots x.extents x.maps x.drains x.carver x.dir x.lines x.retry x.atom x.cohHubs
      x.heldMsgs x.coh x.accesses x.nextAccess x.bulkRx x.tenEnd x.mem x.lineMeta x.units x.ranks x.chans x.memHubs x.lift
      x.integ x.memKey x.eth x.qps x.kmp x.queues x.queHubs x.meters x.ethg x.lcs x.clus x.jobs x.gates x.slg x.trn shoot'
      x.jobg x.si x.fw x.ten x.sels x.pwrHubs x.pwr x.eff x.out x.freeCtr) :=
  h.put 0x100000000000000 hW ⟨rfl, rfl, id, le_rfl, le_rfl, le_rfl, le_rfl, le_rfl⟩ (fun f hf => by cases f <;> first | exact Eq.refl _ | cases hf)

theorem Does.upd_2A8000040000000 {W : Nat} (hW : Covers W 0x2A8000040000000) {s x : State} (h : Does W s x)
    {accesses' clus' gates' trn' jobg'} :
    Does W s (State.mk
      x.pending x.fuses x.sys x.hubs x.clk x.traceUnits x.traceHubs x.trig x.counters x.cntGroups x.mbx x.jtag x.i3c x.zl
      x.flows x.hosts x.zlg x.delivered x.slots x.extents x.maps x.drains x.carver x.dir x.lines x.retry x.atom x.cohHubs
      x.heldMsgs x.coh accesses' x.nextAccess x.bulkRx x.tenEnd x.mem x.lineMeta x.units x.ranks x.chans x.memHubs x.lift
      x.integ x.memKey x.eth x.qps x.kmp x.queues x.queHubs x.meters x.ethg x.lcs clus' x.jobs gates' x.slg trn' x.shoot jobg'
      x.si x.fw x.ten x.sels x.pwrHubs x.pwr x.eff x.out x.freeCtr) :=
  h.put 0x2A8000040000000 hW ⟨rfl, rfl, id, le_rfl, le_rfl, le_rfl, le_rfl, le_rfl⟩ (fun f hf => by cases f <;> first | exact Eq.refl _ | cases hf)

theorem Does.upd_34000000000000 {W : Nat} (hW : Covers W 0x34000000000000) {s x : State} (h : Does W s x)
    {lcs' jobs' gates'} :
    Does W s (State.mk
      x.pending x.fuses x.sys x.hubs x.clk x.traceUnits x.traceHubs x.trig x.counters x.cntGroups x.mbx x.jtag x.i3c x.zl
      x.flows x.hosts x.zlg x.delivered x.slots x.extents x.maps x.drains x.carver x.dir x.lines x.retry x.atom x.cohHubs
      x.heldMsgs x.coh x.accesses x.nextAccess x.bulkRx x.tenEnd x.mem x.lineMeta x.units x.ranks x.chans x.memHubs x.lift
      x.integ x.memKey x.eth x.qps x.kmp x.queues x.queHubs x.meters x.ethg lcs' x.clus jobs' gates' x.slg x.trn x.shoot x.jobg
      x.si x.fw x.ten x.sels x.pwrHubs x.pwr x.eff x.out x.freeCtr) :=
  h.put 0x34000000000000 hW ⟨rfl, rfl, id, le_rfl, le_rfl, le_rfl, le_rfl, le_rfl⟩ (fun f hf => by cases f <;> first | exact Eq.refl _ | cases hf)

theorem Does.upd_40000000000000 {W : Nat} (hW : Covers W 0x40000000000000) {s x : State} (h : Does W s x)
    {slg'} :
    Does W s (State.mk
      x.pending x.fuses x.sys x.hubs x.clk x.traceUnits x.traceHubs x.trig x.counters x.cntGroups x.mbx x.jtag x.i3c x.zl
      x.flows x.hosts x.zlg x.delivered x.slots x.extents x.maps x.drains x.carver x.dir x.lines x.retry x.atom x.cohHubs
      x.heldMsgs x.coh x.accesses x.nextAccess x.bulkRx x.tenEnd x.mem x.lineMeta x.units x.ranks x.chans x.memHubs x.lift
      x.integ x.memKey x.eth x.qps x.kmp x.queues x.queHubs x.meters x.ethg x.lcs x.clus x.jobs x.gates slg' x.trn x.shoot
      x.jobg x.si x.fw x.ten x.sels x.pwrHubs x.pwr x.eff x.out x.freeCtr) :=
  h.put 0x40000000000000 hW ⟨rfl, rfl, id, le_rfl, le_rfl, le_rfl, le_rfl, le_rfl⟩ (fun f hf => by cases f <;> first | exact Eq.refl _ | cases hf)

theorem Does.upd_C00000000000 {W : Nat} (hW : Covers W 0xC00000000000) {s x : State} (h : Does W s x)
    {queues' queHubs'} :
    Does W s (State.mk
      x.pending x.fuses x.sys x.hubs x.clk x.traceUnits x.traceHubs x.trig x.counters x.cntGroups x.mbx x.jtag x.i3c x.zl
      x.flows x.hosts x.zlg x.delivered x.slots x.extents x.maps x.drains x.carver x.dir x.lines x.retry x.atom x.cohHubs
      x.heldMsgs x.coh x.accesses x.nextAccess x.bulkRx x.tenEnd x.mem x.lineMeta x.units x.ranks x.chans x.memHubs x.lift
      x.integ x.memKey x.eth x.qps x.kmp queues' queHubs' x.meters x.ethg x.lcs x.clus x.jobs x.gates x.slg x.trn x.shoot x.jobg
      x.si x.fw x.ten x.sels x.pwrHubs x.pwr x.eff x.out x.freeCtr) :=
  h.put 0xC00000000000 hW ⟨rfl, rfl, id, le_rfl, le_rfl, le_rfl, le_rfl, le_rfl⟩ (fun f hf => by cases f <;> first | exact Eq.refl _ | cases hf)

theorem Does.upd_800000000000 {W : Nat} (hW : Covers W 0x800000000000) {s x : State} (h : Does W s x)
    {queHubs'} :
    Does W s (State.mk
      x.pending x.fuses x.sys x.hubs x.clk x.traceUnits x.traceHubs x.trig x.counters x.cntGroups x.mbx x.jtag x.i3c x.zl
      x.flows x.hosts x.zlg x.delivered x.slots x.extents x.maps x.drains x.carver x.dir x.lines x.retry x.atom x.cohHubs
      x.heldMsgs x.coh x.accesses x.nextAccess x.bulkRx x.tenEnd x.mem x.lineMeta x.units x.ranks x.chans x.memHubs x.lift
      x.integ x.memKey x.eth x.qps x.kmp x.queues queHubs' x.meters x.ethg x.lcs x.clus x.jobs x.gates x.slg x.trn x.shoot
      x.jobg x.si x.fw x.ten x.sels x.pwrHubs x.pwr x.eff x.out x.freeCtr) :=
  h.put 0x800000000000 hW ⟨rfl, rfl, id, le_rfl, le_rfl, le_rfl, le_rfl, le_rfl⟩ (fun f hf => by cases f <;> first | exact Eq.refl _ | cases hf)

theorem Does.upd_200000 {W : Nat} (hW : Covers W 0x200000) {s x : State} (h : Does W s x)
    {drains'} :
    Does W s (State.mk
      x.pending x.fuses x.sys x.hubs x.clk x.traceUnits x.traceHubs x.trig x.counters x.cntGroups x.mbx x.jtag x.i3c x.zl
      x.flows x.hosts x.zlg x.delivered x.slots x.extents x.maps drains' x.carver x.dir x.lines x.retry x.atom x.cohHubs
      x.heldMsgs x.coh x.accesses x.nextAccess x.bulkRx x.tenEnd x.mem x.lineMeta x.units x.ranks x.chans x.memHubs x.lift
      x.integ x.memKey x.eth x.qps x.kmp x.queues x.queHubs x.meters x.ethg x.lcs x.clus x.jobs x.gates x.slg x.trn x.shoot
      x.jobg x.si x.fw x.ten x.sels x.pwrHubs x.pwr x.eff x.out x.freeCtr) :=
  h.put 0x200000 hW ⟨rfl, rfl, id, le_rfl, le_rfl, le_rfl, le_rfl, le_rfl⟩ (fun f hf => by cases f <;> first | exact Eq.refl _ | cases hf)

theorem Does.upd_10000000000 {W : Nat} (hW : Covers W 0x10000000000) {s x : State} (h : Does W s x)
    {lift'} :
    Does W s (State.mk
      x.pending x.fuses x.sys x.hubs x.clk x.traceUnits x.traceHubs x.trig x.counters x.cntGroups x.mbx x.jtag x.i3c x.zl
      x.flows x.hosts x.zlg x.delivered x.slots x.extents x.maps x.drains x.carver x.dir x.lines x.retry x.atom x.cohHubs
      x.heldMsgs x.coh x.accesses x.nextAccess x.bulkRx x.tenEnd x.mem x.lineMeta x.units x.ranks x.chans x.memHubs lift'
      x.integ x.memKey x.eth x.qps x.kmp x.queues x.queHubs x.meters x.ethg x.lcs x.clus x.jobs x.gates x.slg x.trn x.shoot
      x.jobg x.si x.fw x.ten x.sels x.pwrHubs x.pwr x.eff x.out x.freeCtr) :=
  h.put 0x10000000000 hW ⟨rfl, rfl, id, le_rfl, le_rfl, le_rfl, le_rfl, le_rfl⟩ (fun f hf => by cases f <;> first | exact Eq.refl _ | cases hf)

theorem Does.upd_200000000 {W : Nat} (hW : Covers W 0x200000000) {s x : State} (h : Does W s x)
    {tenEnd'} :
    Does W s (State.mk
      x.pending x.fuses x.sys x.hubs x.clk x.traceUnits x.traceHubs x.trig x.counters x.cntGroups x.mbx x.jtag x.i3c x.zl
      x.flows x.hosts x.zlg x.delivered x.slots x.extents x.maps x.drains x.carver x.dir x.lines x.retry x.atom x.cohHubs
      x.heldMsgs x.coh x.accesses x.nextAccess x.bulkRx tenEnd' x.mem x.lineMeta x.units x.ranks x.chans x.memHubs x.lift
      x.integ x.memKey x.eth x.qps x.kmp x.queues x.queHubs x.meters x.ethg x.lcs x.clus x.jobs x.gates x.slg x.trn x.shoot
      x.jobg x.si x.fw x.ten x.sels x.pwrHubs x.pwr x.eff x.out x.freeCtr) :=
  h.put 0x200000000 hW ⟨rfl, rfl, id, le_rfl, le_rfl, le_rfl, le_rfl, le_rfl⟩ (fun f hf => by cases f <;> first | exact Eq.refl _ | cases hf)

theorem Does.upd_10000000 {W : Nat} (hW : Covers W 0x10000000) {s x : State} (h : Does W s x)
    {heldMsgs'} :
    Does W s (State.mk
      x.pending x.fuses x.sys x.hubs x.clk x.traceUnits x.traceHubs x.trig x.counters x.cntGroups x.mbx x.jtag x.i3c x.zl
      x.flows x.hosts x.zlg x.delivered x.slots x.extents x.maps x.drains x.carver x.dir x.lines x.retry x.atom x.cohHubs
      heldMsgs' x.coh x.accesses x.nextAccess x.bulkRx x.tenEnd x.mem x.lineMeta x.units x.ranks x.chans x.memHubs x.lift
      x.integ x.memKey x.eth x.qps x.kmp x.queues x.queHubs x.meters x.ethg x.lcs x.clus x.jobs x.gates x.slg x.trn x.shoot
      x.jobg x.si x.fw x.ten x.sels x.pwrHubs x.pwr x.eff x.out x.freeCtr) :=
  h.put 0x10000000 hW ⟨rfl, rfl, id, le_rfl, le_rfl, le_rfl, le_rfl, le_rfl⟩ (fun f hf => by cases f <;> first | exact Eq.refl _ | cases hf)

theorem Does.upd_200000000000000 {W : Nat} (hW : Covers W 0x200000000000000) {s x : State} (h : Does W s x)
    {jobg'} :
    Does W s (State.mk
      x.pending x.fuses x.sys x.hubs x.clk x.traceUnits x.traceHubs x.trig x.counters x.cntGroups x.mbx x.jtag x.i3c x.zl
      x.flows x.hosts x.zlg x.delivered x.slots x.extents x.maps x.drains x.carver x.dir x.lines x.retry x.atom x.cohHubs
      x.heldMsgs x.coh x.accesses x.nextAccess x.bulkRx x.tenEnd x.mem x.lineMeta x.units x.ranks x.chans x.memHubs x.lift
      x.integ x.memKey x.eth x.qps x.kmp x.queues x.queHubs x.meters x.ethg x.lcs x.clus x.jobs x.gates x.slg x.trn x.shoot
      jobg' x.si x.fw x.ten x.sels x.pwrHubs x.pwr x.eff x.out x.freeCtr) :=
  h.put 0x200000000000000 hW ⟨rfl, rfl, id, le_rfl, le_rfl, le_rfl, le_rfl, le_rfl⟩ (fun f hf => by cases f <;> first | exact Eq.refl _ | cases hf)

theorem Does.upd_100000015A206000 {W : Nat} (hW : Covers W 0x100000015A206000) {s x : State} (h : Does W s x)
    {zl' flows' drains' retry' cohHubs' heldMsgs' accesses' bulkRx' ten'}
    (he : x.ten.epoch.toNat ≤ ten'.epoch.toNat) :
    Does W s (State.mk
      x.pending x.fuses x.sys x.hubs x.clk x.traceUnits x.traceHubs x.trig x.counters x.cntGroups x.mbx x.jtag x.i3c zl' flows'
      x.hosts x.zlg x.delivered x.slots x.extents x.maps drains' x.carver x.dir x.lines retry' x.atom cohHubs' heldMsgs' x.coh
      accesses' x.nextAccess bulkRx' x.tenEnd x.mem x.lineMeta x.units x.ranks x.chans x.memHubs x.lift x.integ x.memKey x.eth
      x.qps x.kmp x.queues x.queHubs x.meters x.ethg x.lcs x.clus x.jobs x.gates x.slg x.trn x.shoot x.jobg x.si x.fw ten'
      x.sels x.pwrHubs x.pwr x.eff x.out x.freeCtr) :=
  h.put 0x100000015A206000 hW ⟨rfl, rfl, id, le_rfl, le_rfl, le_rfl, he, le_rfl⟩ (fun f hf => by cases f <;> first | exact Eq.refl _ | cases hf)

theorem Does.upd_1400000008000 {W : Nat} (hW : Covers W 0x1400000008000) {s x : State} (h : Does W s x)
    {hosts' queues' meters'} :
    Does W s (State.mk
      x.pending x.fuses x.sys x.hubs x.clk x.traceUnits x.traceHubs x.trig x.counters x.cntGroups x.mbx x.jtag x.i3c x.zl
      x.flows hosts' x.zlg x.delivered x.slots x.extents x.maps x.drains x.carver x.dir x.lines x.retry x.atom x.cohHubs
      x.heldMsgs x.coh x.accesses x.nextAccess x.bulkRx x.tenEnd x.mem x.lineMeta x.units x.ranks x.chans x.memHubs x.lift
      x.integ x.memKey x.eth x.qps x.kmp queues' x.queHubs meters' x.ethg x.lcs x.clus x.jobs x.gates x.slg x.trn x.shoot x.jobg
      x.si x.fw x.ten x.sels x.pwrHubs x.pwr x.eff x.out x.freeCtr) :=
  h.put 0x1400000008000 hW ⟨rfl, rfl, id, le_rfl, le_rfl, le_rfl, le_rfl, le_rfl⟩ (fun f hf => by cases f <;> first | exact Eq.refl _ | cases hf)

theorem Does.upd_100000000 {W : Nat} (hW : Covers W 0x100000000) {s x : State} (h : Does W s x)
    {bulkRx'} :
    Does W s (State.mk
      x.pending x.fuses x.sys x.hubs x.clk x.traceUnits x.traceHubs x.trig x.counters x.cntGroups x.mbx x.jtag x.i3c x.zl
      x.flows x.hosts x.zlg x.delivered x.slots x.extents x.maps x.drains x.carver x.dir x.lines x.retry x.atom x.cohHubs
      x.heldMsgs x.coh x.accesses x.nextAccess bulkRx' x.tenEnd x.mem x.lineMeta x.units x.ranks x.chans x.memHubs x.lift
      x.integ x.memKey x.eth x.qps x.kmp x.queues x.queHubs x.meters x.ethg x.lcs x.clus x.jobs x.gates x.slg x.trn x.shoot
      x.jobg x.si x.fw x.ten x.sels x.pwrHubs x.pwr x.eff x.out x.freeCtr) :=
  h.put 0x100000000 hW ⟨rfl, rfl, id, le_rfl, le_rfl, le_rfl, le_rfl, le_rfl⟩ (fun f hf => by cases f <;> first | exact Eq.refl _ | cases hf)

theorem Does.upd_C0000 {W : Nat} (hW : Covers W 0xC0000) {s x : State} (h : Does W s x)
    {slots' extents'} :
    Does W s (State.mk
      x.pending x.fuses x.sys x.hubs x.clk x.traceUnits x.traceHubs x.trig x.counters x.cntGroups x.mbx x.jtag x.i3c x.zl
      x.flows x.hosts x.zlg x.delivered slots' extents' x.maps x.drains x.carver x.dir x.lines x.retry x.atom x.cohHubs
      x.heldMsgs x.coh x.accesses x.nextAccess x.bulkRx x.tenEnd x.mem x.lineMeta x.units x.ranks x.chans x.memHubs x.lift
      x.integ x.memKey x.eth x.qps x.kmp x.queues x.queHubs x.meters x.ethg x.lcs x.clus x.jobs x.gates x.slg x.trn x.shoot
      x.jobg x.si x.fw x.ten x.sels x.pwrHubs x.pwr x.eff x.out x.freeCtr) :=
  h.put 0xC0000 hW ⟨rfl, rfl, id, le_rfl, le_rfl, le_rfl, le_rfl, le_rfl⟩ (fun f hf => by cases f <;> first | exact Eq.refl _ | cases hf)

theorem Does.upd_80000 {W : Nat} (hW : Covers W 0x80000) {s x : State} (h : Does W s x)
    {extents'} :
    Does W s (State.mk
      x.pending x.fuses x.sys x.hubs x.clk x.traceUnits x.traceHubs x.trig x.counters x.cntGroups x.mbx x.jtag x.i3c x.zl
      x.flows x.hosts x.zlg x.delivered x.slots extents' x.maps x.drains x.carver x.dir x.lines x.retry x.atom x.cohHubs
      x.heldMsgs x.coh x.accesses x.nextAccess x.bulkRx x.tenEnd x.mem x.lineMeta x.units x.ranks x.chans x.memHubs x.lift
      x.integ x.memKey x.eth x.qps x.kmp x.queues x.queHubs x.meters x.ethg x.lcs x.clus x.jobs x.gates x.slg x.trn x.shoot
      x.jobg x.si x.fw x.ten x.sels x.pwrHubs x.pwr x.eff x.out x.freeCtr) :=
  h.put 0x80000 hW ⟨rfl, rfl, id, le_rfl, le_rfl, le_rfl, le_rfl, le_rfl⟩ (fun f hf => by cases f <;> first | exact Eq.refl _ | cases hf)

theorem Does.upd_100000 {W : Nat} (hW : Covers W 0x100000) {s x : State} (h : Does W s x)
    {maps'} :
    Does W s (State.mk
      x.pending x.fuses x.sys x.hubs x.clk x.traceUnits x.traceHubs x.trig x.counters x.cntGroups x.mbx x.jtag x.i3c x.zl
      x.flows x.hosts x.zlg x.delivered x.slots x.extents maps' x.drains x.carver x.dir x.lines x.retry x.atom x.cohHubs
      x.heldMsgs x.coh x.accesses x.nextAccess x.bulkRx x.tenEnd x.mem x.lineMeta x.units x.ranks x.chans x.memHubs x.lift
      x.integ x.memKey x.eth x.qps x.kmp x.queues x.queHubs x.meters x.ethg x.lcs x.clus x.jobs x.gates x.slg x.trn x.shoot
      x.jobg x.si x.fw x.ten x.sels x.pwrHubs x.pwr x.eff x.out x.freeCtr) :=
  h.put 0x100000 hW ⟨rfl, rfl, id, le_rfl, le_rfl, le_rfl, le_rfl, le_rfl⟩ (fun f hf => by cases f <;> first | exact Eq.refl _ | cases hf)

theorem Does.upd_2200000 {W : Nat} (hW : Covers W 0x2200000) {s x : State} (h : Does W s x)
    {drains' retry'} :
    Does W s (State.mk
      x.pending x.fuses x.sys x.hubs x.clk x.traceUnits x.traceHubs x.trig x.counters x.cntGroups x.mbx x.jtag x.i3c x.zl
      x.flows x.hosts x.zlg x.delivered x.slots x.extents x.maps drains' x.carver x.dir x.lines retry' x.atom x.cohHubs
      x.heldMsgs x.coh x.accesses x.nextAccess x.bulkRx x.tenEnd x.mem x.lineMeta x.units x.ranks x.chans x.memHubs x.lift
      x.integ x.memKey x.eth x.qps x.kmp x.queues x.queHubs x.meters x.ethg x.lcs x.clus x.jobs x.gates x.slg x.trn x.shoot
      x.jobg x.si x.fw x.ten x.sels x.pwrHubs x.pwr x.eff x.out x.freeCtr) :=
  h.put 0x2200000 hW ⟨rfl, rfl, id, le_rfl, le_rfl, le_rfl, le_rfl, le_rfl⟩ (fun f hf => by cases f <;> first | exact Eq.refl _ | cases hf)

theorem Does.upd_400000 {W : Nat} (hW : Covers W 0x400000) {s x : State} (h : Does W s x)
    {carver'} :
    Does W s (State.mk
      x.pending x.fuses x.sys x.hubs x.clk x.traceUnits x.traceHubs x.trig x.counters x.cntGroups x.mbx x.jtag x.i3c x.zl
      x.flows x.hosts x.zlg x.delivered x.slots x.extents x.maps x.drains carver' x.dir x.lines x.retry x.atom x.cohHubs
      x.heldMsgs x.coh x.accesses x.nextAccess x.bulkRx x.tenEnd x.mem x.lineMeta x.units x.ranks x.chans x.memHubs x.lift
      x.integ x.memKey x.eth x.qps x.kmp x.queues x.queHubs x.meters x.ethg x.lcs x.clus x.jobs x.gates x.slg x.trn x.shoot
      x.jobg x.si x.fw x.ten x.sels x.pwrHubs x.pwr x.eff x.out x.freeCtr) :=
  h.put 0x400000 hW ⟨rfl, rfl, id, le_rfl, le_rfl, le_rfl, le_rfl, le_rfl⟩ (fun f hf => by cases f <;> first | exact Eq.refl _ | cases hf)

theorem Does.upd_151400000 {W : Nat} (hW : Covers W 0x151400000) {s x : State} (h : Does W s x)
    {carver' lines' heldMsgs' accesses' bulkRx'} :
    Does W s (State.mk
      x.pending x.fuses x.sys x.hubs x.clk x.traceUnits x.traceHubs x.trig x.counters x.cntGroups x.mbx x.jtag x.i3c x.zl
      x.flows x.hosts x.zlg x.delivered x.slots x.extents x.maps x.drains carver' x.dir lines' x.retry x.atom x.cohHubs
      heldMsgs' x.coh accesses' x.nextAccess bulkRx' x.tenEnd x.mem x.lineMeta x.units x.ranks x.chans x.memHubs x.lift x.integ
      x.memKey x.eth x.qps x.kmp x.queues x.queHubs x.meters x.ethg x.lcs x.clus x.jobs x.gates x.slg x.trn x.shoot x.jobg x.si
      x.fw x.ten x.sels x.pwrHubs x.pwr x.eff x.out x.freeCtr) :=
  h.put 0x151400000 hW ⟨rfl, rfl, id, le_rfl, le_rfl, le_rfl, le_rfl, le_rfl⟩ (fun f hf => by cases f <;> first | exact Eq.refl _ | cases hf)

theorem Does.upd_C {W : Nat} (hW : Covers W 0xC) {s x : State} (h : Does W s x)
    {sys' hubs'} :
    Does W s (State.mk
      x.pending x.fuses sys' hubs' x.clk x.traceUnits x.traceHubs x.trig x.counters x.cntGroups x.mbx x.jtag x.i3c x.zl x.flows
      x.hosts x.zlg x.delivered x.slots x.extents x.maps x.drains x.carver x.dir x.lines x.retry x.atom x.cohHubs x.heldMsgs
      x.coh x.accesses x.nextAccess x.bulkRx x.tenEnd x.mem x.lineMeta x.units x.ranks x.chans x.memHubs x.lift x.integ x.memKey
      x.eth x.qps x.kmp x.queues x.queHubs x.meters x.ethg x.lcs x.clus x.jobs x.gates x.slg x.trn x.shoot x.jobg x.si x.fw
      x.ten x.sels x.pwrHubs x.pwr x.eff x.out x.freeCtr) :=
  h.put 0xC hW ⟨rfl, rfl, id, le_rfl, le_rfl, le_rfl, le_rfl, le_rfl⟩ (fun f hf => by cases f <;> first | exact Eq.refl _ | cases hf)

theorem Does.upd_8000000000000000 {W : Nat} (hW : Covers W 0x8000000000000000) {s x : State} (h : Does W s x)
    {pwr'} :
    Does W s (State.mk
      x.pending x.fuses x.sys x.hubs x.clk x.traceUnits x.traceHubs x.trig x.counters x.cntGroups x.mbx x.jtag x.i3c x.zl
      x.flows x.hosts x.zlg x.delivered x.slots x.extents x.maps x.drains x.carver x.dir x.lines x.retry x.atom x.cohHubs
      x.heldMsgs x.coh x.accesses x.nextAccess x.bulkRx x.tenEnd x.mem x.lineMeta x.units x.ranks x.chans x.memHubs x.lift
      x.integ x.memKey x.eth x.qps x.kmp x.queues x.queHubs x.meters x.ethg x.lcs x.clus x.jobs x.gates x.slg x.trn x.shoot
      x.jobg x.si x.fw x.ten x.sels x.pwrHubs pwr' x.eff x.out x.freeCtr) :=
  h.put 0x8000000000000000 hW ⟨rfl, rfl, id, le_rfl, le_rfl, le_rfl, le_rfl, le_rfl⟩ (fun f hf => by cases f <;> first | exact Eq.refl _ | cases hf)

theorem Does.upd_20000000000000 {W : Nat} (hW : Covers W 0x20000000000000) {s x : State} (h : Does W s x)
    {gates'} :
    Does W s (State.mk
      x.pending x.fuses x.sys x.hubs x.clk x.traceUnits x.traceHubs x.trig x.counters x.cntGroups x.mbx x.jtag x.i3c x.zl
      x.flows x.hosts x.zlg x.delivered x.slots x.extents x.maps x.drains x.carver x.dir x.lines x.retry x.atom x.cohHubs
      x.heldMsgs x.coh x.accesses x.nextAccess x.bulkRx x.tenEnd x.mem x.lineMeta x.units x.ranks x.chans x.memHubs x.lift
      x.integ x.memKey x.eth x.qps x.kmp x.queues x.queHubs x.meters x.ethg x.lcs x.clus x.jobs gates' x.slg x.trn x.shoot
      x.jobg x.si x.fw x.ten x.sels x.pwrHubs x.pwr x.eff x.out x.freeCtr) :=
  h.put 0x20000000000000 hW ⟨rfl, rfl, id, le_rfl, le_rfl, le_rfl, le_rfl, le_rfl⟩ (fun f hf => by cases f <;> first | exact Eq.refl _ | cases hf)

theorem Does.upd_14000000000000 {W : Nat} (hW : Covers W 0x14000000000000) {s x : State} (h : Does W s x)
    {lcs' jobs'} :
    Does W s (State.mk
      x.pending x.fuses x.sys x.hubs x.clk x.traceUnits x.traceHubs x.trig x.counters x.cntGroups x.mbx x.jtag x.i3c x.zl
      x.flows x.hosts x.zlg x.delivered x.slots x.extents x.maps x.drains x.carver x.dir x.lines x.retry x.atom x.cohHubs
      x.heldMsgs x.coh x.accesses x.nextAccess x.bulkRx x.tenEnd x.mem x.lineMeta x.units x.ranks x.chans x.memHubs x.lift
      x.integ x.memKey x.eth x.qps x.kmp x.queues x.queHubs x.meters x.ethg lcs' x.clus jobs' x.gates x.slg x.trn x.shoot x.jobg
      x.si x.fw x.ten x.sels x.pwrHubs x.pwr x.eff x.out x.freeCtr) :=
  h.put 0x14000000000000 hW ⟨rfl, rfl, id, le_rfl, le_rfl, le_rfl, le_rfl, le_rfl⟩ (fun f hf => by cases f <;> first | exact Eq.refl _ | cases hf)

theorem Does.upd_1000000000 {W : Nat} (hW : Covers W 0x1000000000) {s x : State} (h : Does W s x)
    {units'} :
    Does W s (State.mk
      x.pending x.fuses x.sys x.hubs x.clk x.traceUnits x.traceHubs x.trig x.counters x.cntGroups x.mbx x.jtag x.i3c x.zl
      x.flows x.hosts x.zlg x.delivered x.slots x.extents x.maps x.drains x.carver x.dir x.lines x.retry x.atom x.cohHubs
      x.heldMsgs x.coh x.accesses x.nextAccess x.bulkRx x.tenEnd x.mem x.lineMeta units' x.ranks x.chans x.memHubs x.lift
      x.integ x.memKey x.eth x.qps x.kmp x.queues x.queHubs x.meters x.ethg x.lcs x.clus x.jobs x.gates x.slg x.trn x.shoot
      x.jobg x.si x.fw x.ten x.sels x.pwrHubs x.pwr x.eff x.out x.freeCtr) :=
  h.put 0x1000000000 hW ⟨rfl, rfl, id, le_rfl, le_rfl, le_rfl, le_rfl, le_rfl⟩ (fun f hf => by cases f <;> first | exact Eq.refl _ | cases hf)

theorem Does.upd_10000300000 {W : Nat} (hW : Covers W 0x10000300000) {s x : State} (h : Does W s x)
    {maps' drains' lift'} :
    Does W s (State.mk
      x.pending x.fuses x.sys x.hubs x.clk x.traceUnits x.traceHubs x.trig x.counters x.cntGroups x.mbx x.jtag x.i3c x.zl
      x.flows x.hosts x.zlg x.delivered x.slots x.extents maps' drains' x.carver x.dir x.lines x.retry x.atom x.cohHubs
      x.heldMsgs x.coh x.accesses x.nextAccess x.bulkRx x.tenEnd x.mem x.lineMeta x.units x.ranks x.chans x.memHubs lift'
      x.integ x.memKey x.eth x.qps x.kmp x.queues x.queHubs x.meters x.ethg x.lcs x.clus x.jobs x.gates x.slg x.trn x.shoot
      x.jobg x.si x.fw x.ten x.sels x.pwrHubs x.pwr x.eff x.out x.freeCtr) :=
  h.put 0x10000300000 hW ⟨rfl, rfl, id, le_rfl, le_rfl, le_rfl, le_rfl, le_rfl⟩ (fun f hf => by cases f <;> first | exact Eq.refl _ | cases hf)

theorem Does.upd_2000000000000000 {W : Nat} (hW : Covers W 0x2000000000000000) {s x : State} (h : Does W s x)
    {sels'} :
    Does W s (State.mk
      x.pending x.fuses x.sys x.hubs x.clk x.traceUnits x.traceHubs x.trig x.counters x.cntGroups x.mbx x.jtag x.i3c x.zl
      x.flows x.hosts x.zlg x.delivered x.slots x.extents x.maps x.drains x.carver x.dir x.lines x.retry x.atom x.cohHubs
      x.heldMsgs x.coh x.accesses x.nextAccess x.bulkRx x.tenEnd x.mem x.lineMeta x.units x.ranks x.chans x.memHubs x.lift
      x.integ x.memKey x.eth x.qps x.kmp x.queues x.queHubs x.meters x.ethg x.lcs x.clus x.jobs x.gates x.slg x.trn x.shoot
      x.jobg x.si x.fw x.ten sels' x.pwrHubs x.pwr x.eff x.out x.freeCtr) :=
  h.put 0x2000000000000000 hW ⟨rfl, rfl, id, le_rfl, le_rfl, le_rfl, le_rfl, le_rfl⟩ (fun f hf => by cases f <;> first | exact Eq.refl _ | cases hf)

theorem Does.upd_410 {W : Nat} (hW : Covers W 0x410) {s x : State} (h : Does W s x)
    {clk' mbx'}
    (hc : x.clk.now ≤ clk'.now) :
    Does W s (State.mk
      x.pending x.fuses x.sys x.hubs clk' x.traceUnits x.traceHubs x.trig x.counters x.cntGroups mbx' x.jtag x.i3c x.zl x.flows
      x.hosts x.zlg x.delivered x.slots x.extents x.maps x.drains x.carver x.dir x.lines x.retry x.atom x.cohHubs x.heldMsgs
      x.coh x.accesses x.nextAccess x.bulkRx x.tenEnd x.mem x.lineMeta x.units x.ranks x.chans x.memHubs x.lift x.integ x.memKey
      x.eth x.qps x.kmp x.queues x.queHubs x.meters x.ethg x.lcs x.clus x.jobs x.gates x.slg x.trn x.shoot x.jobg x.si x.fw
      x.ten x.sels x.pwrHubs x.pwr x.eff x.out x.freeCtr) :=
  h.put 0x410 hW ⟨rfl, rfl, id, hc, le_rfl, le_rfl, le_rfl, le_rfl⟩ (fun f hf => by cases f <;> first | exact Eq.refl _ | cases hf)

theorem Does.upd_800000000000000 {W : Nat} (hW : Covers W 0x800000000000000) {s x : State} (h : Does W s x)
    {fw'}
    (hv : x.fw.svn.toNat ≤ fw'.svn.toNat) :
    Does W s (State.mk
      x.pending x.fuses x.sys x.hubs x.clk x.traceUnits x.traceHubs x.trig x.counters x.cntGroups x.mbx x.jtag x.i3c x.zl
      x.flows x.hosts x.zlg x.delivered x.slots x.extents x.maps x.drains x.carver x.dir x.lines x.retry x.atom x.cohHubs
      x.heldMsgs x.coh x.accesses x.nextAccess x.bulkRx x.tenEnd x.mem x.lineMeta x.units x.ranks x.chans x.memHubs x.lift
      x.integ x.memKey x.eth x.qps x.kmp x.queues x.queHubs x.meters x.ethg x.lcs x.clus x.jobs x.gates x.slg x.trn x.shoot
      x.jobg x.si fw' x.ten x.sels x.pwrHubs x.pwr x.eff x.out x.freeCtr) :=
  h.put 0x800000000000000 hW ⟨rfl, rfl, id, le_rfl, hv, le_rfl, le_rfl, le_rfl⟩ (fun f hf => by cases f <;> first | exact Eq.refl _ | cases hf)

theorem Does.upd_2000200000000400 {W : Nat} (hW : Covers W 0x2000200000000400) {s x : State} (h : Does W s x)
    {mbx' kmp' sels'} :
    Does W s (State.mk
      x.pending x.fuses x.sys x.hubs x.clk x.traceUnits x.traceHubs x.trig x.counters x.cntGroups mbx' x.jtag x.i3c x.zl x.flows
      x.hosts x.zlg x.delivered x.slots x.extents x.maps x.drains x.carver x.dir x.lines x.retry x.atom x.cohHubs x.heldMsgs
      x.coh x.accesses x.nextAccess x.bulkRx x.tenEnd x.mem x.lineMeta x.units x.ranks x.chans x.memHubs x.lift x.integ x.memKey
      x.eth x.qps kmp' x.queues x.queHubs x.meters x.ethg x.lcs x.clus x.jobs x.gates x.slg x.trn x.shoot x.jobg x.si x.fw x.ten
      sels' x.pwrHubs x.pwr x.eff x.out x.freeCtr) :=
  h.put 0x2000200000000400 hW ⟨rfl, rfl, id, le_rfl, le_rfl, le_rfl, le_rfl, le_rfl⟩ (fun f hf => by cases f <;> first | exact Eq.refl _ | cases hf)

theorem Does.upd_1400000000000000 {W : Nat} (hW : Covers W 0x1400000000000000) {s x : State} (h : Does W s x)
    {si' ten'}
    (hs : x.si.maxSerial.toNat ≤ si'.maxSerial.toNat) (he : x.ten.epoch.toNat ≤ ten'.epoch.toNat) :
    Does W s (State.mk
      x.pending x.fuses x.sys x.hubs x.clk x.traceUnits x.traceHubs x.trig x.counters x.cntGroups x.mbx x.jtag x.i3c x.zl
      x.flows x.hosts x.zlg x.delivered x.slots x.extents x.maps x.drains x.carver x.dir x.lines x.retry x.atom x.cohHubs
      x.heldMsgs x.coh x.accesses x.nextAccess x.bulkRx x.tenEnd x.mem x.lineMeta x.units x.ranks x.chans x.memHubs x.lift
      x.integ x.memKey x.eth x.qps x.kmp x.queues x.queHubs x.meters x.ethg x.lcs x.clus x.jobs x.gates x.slg x.trn x.shoot
      x.jobg si' x.fw ten' x.sels x.pwrHubs x.pwr x.eff x.out x.freeCtr) :=
  h.put 0x1400000000000000 hW ⟨rfl, rfl, id, le_rfl, le_rfl, hs, he, le_rfl⟩ (fun f hf => by cases f <;> first | exact Eq.refl _ | cases hf)

theorem Does.upd_1000440000000000 {W : Nat} (hW : Covers W 0x1000440000000000) {s x : State} (h : Does W s x)
    {memKey' queues' ten'}
    (he : x.ten.epoch.toNat ≤ ten'.epoch.toNat) :
    Does W s (State.mk
      x.pending x.fuses x.sys x.hubs x.clk x.traceUnits x.traceHubs x.trig x.counters x.cntGroups x.mbx x.jtag x.i3c x.zl
      x.flows x.hosts x.zlg x.delivered x.slots x.extents x.maps x.drains x.carver x.dir x.lines x.retry x.atom x.cohHubs
      x.heldMsgs x.coh x.accesses x.nextAccess x.bulkRx x.tenEnd x.mem x.lineMeta x.units x.ranks x.chans x.memHubs x.lift
      x.integ memKey' x.eth x.qps x.kmp queues' x.queHubs x.meters x.ethg x.lcs x.clus x.jobs x.gates x.slg x.trn x.shoot x.jobg
      x.si x.fw ten' x.sels x.pwrHubs x.pwr x.eff x.out x.freeCtr) :=
  h.put 0x1000440000000000 hW ⟨rfl, rfl, id, le_rfl, le_rfl, le_rfl, he, le_rfl⟩ (fun f hf => by cases f <;> first | exact Eq.refl _ | cases hf)

theorem Does.upd_1000000202300000 {W : Nat} (hW : Covers W 0x1000000202300000) {s x : State} (h : Does W s x)
    {maps' drains' retry' tenEnd' ten'}
    (he : x.ten.epoch.toNat ≤ ten'.epoch.toNat) :
    Does W s (State.mk
      x.pending x.fuses x.sys x.hubs x.clk x.traceUnits x.traceHubs x.trig x.counters x.cntGroups x.mbx x.jtag x.i3c x.zl
      x.flows x.hosts x.zlg x.delivered x.slots x.extents maps' drains' x.carver x.dir x.lines retry' x.atom x.cohHubs
      x.heldMsgs x.coh x.accesses x.nextAccess x.bulkRx tenEnd' x.mem x.lineMeta x.units x.ranks x.chans x.memHubs x.lift
      x.integ x.memKey x.eth x.qps x.kmp x.queues x.queHubs x.meters x.ethg x.lcs x.clus x.jobs x.gates x.slg x.trn x.shoot
      x.jobg x.si x.fw ten' x.sels x.pwrHubs x.pwr x.eff x.out x.freeCtr) :=
  h.put 0x1000000202300000 hW ⟨rfl, rfl, id, le_rfl, le_rfl, le_rfl, he, le_rfl⟩ (fun f hf => by cases f <;> first | exact Eq.refl _ | cases hf)

theorem Does.upd_300000 {W : Nat} (hW : Covers W 0x300000) {s x : State} (h : Does W s x)
    {maps' drains'} :
    Does W s (State.mk
      x.pending x.fuses x.sys x.hubs x.clk x.traceUnits x.traceHubs x.trig x.counters x.cntGroups x.mbx x.jtag x.i3c x.zl
      x.flows x.hosts x.zlg x.delivered x.slots x.extents maps' drains' x.carver x.dir x.lines x.retry x.atom x.cohHubs
      x.heldMsgs x.coh x.accesses x.nextAccess x.bulkRx x.tenEnd x.mem x.lineMeta x.units x.ranks x.chans x.memHubs x.lift
      x.integ x.memKey x.eth x.qps x.kmp x.queues x.queHubs x.meters x.ethg x.lcs x.clus x.jobs x.gates x.slg x.trn x.shoot
      x.jobg x.si x.fw x.ten x.sels x.pwrHubs x.pwr x.eff x.out x.freeCtr) :=
  h.put 0x300000 hW ⟨rfl, rfl, id, le_rfl, le_rfl, le_rfl, le_rfl, le_rfl⟩ (fun f hf => by cases f <;> first | exact Eq.refl _ | cases hf)

theorem Does.upd_3EC000046800000 {W : Nat} (hW : Covers W 0x3EC000046800000) {s x : State} (h : Does W s x)
    {dir' retry' atom' accesses' lcs' clus' gates' slg' trn' shoot' jobg'} :
    Does W s (State.mk
      x.pending x.fuses x.sys x.hubs x.clk x.traceUnits x.traceHubs x.trig x.counters x.cntGroups x.mbx x.jtag x.i3c x.zl
      x.flows x.hosts x.zlg x.delivered x.slots x.extents x.maps x.drains x.carver dir' x.lines retry' atom' x.cohHubs
      x.heldMsgs x.coh accesses' x.nextAccess x.bulkRx x.tenEnd x.mem x.lineMeta x.units x.ranks x.chans x.memHubs x.lift
      x.integ x.memKey x.eth x.qps x.kmp x.queues x.queHubs x.meters x.ethg lcs' clus' x.jobs gates' slg' trn' shoot' jobg' x.si
      x.fw x.ten x.sels x.pwrHubs x.pwr x.eff x.out x.freeCtr) :=
  h.put 0x3EC000046800000 hW ⟨rfl, rfl, id, le_rfl, le_rfl, le_rfl, le_rfl, le_rfl⟩ (fun f hf => by cases f <;> first | exact Eq.refl _ | cases hf)

theorem Does.upd_1002040000000000 {W : Nat} (hW : Covers W 0x1002040000000000) {s x : State} (h : Does W s x)
    {memKey' ethg' ten'}
    (he : x.ten.epoch.toNat ≤ ten'.epoch.toNat) :
    Does W s (State.mk
      x.pending x.fuses x.sys x.hubs x.clk x.traceUnits x.traceHubs x.trig x.counters x.cntGroups x.mbx x.jtag x.i3c x.zl
      x.flows x.hosts x.zlg x.delivered x.slots x.extents x.maps x.drains x.carver x.dir x.lines x.retry x.atom x.cohHubs
      x.heldMsgs x.coh x.accesses x.nextAccess x.bulkRx x.tenEnd x.mem x.lineMeta x.units x.ranks x.chans x.memHubs x.lift
      x.integ memKey' x.eth x.qps x.kmp x.queues x.queHubs x.meters ethg' x.lcs x.clus x.jobs x.gates x.slg x.trn x.shoot x.jobg
      x.si x.fw ten' x.sels x.pwrHubs x.pwr x.eff x.out x.freeCtr) :=
  h.put 0x1002040000000000 hW ⟨rfl, rfl, id, le_rfl, le_rfl, le_rfl, he, le_rfl⟩ (fun f hf => by cases f <;> first | exact Eq.refl _ | cases hf)

theorem Does.upd_50498000000003E0 {W : Nat} (hW : Covers W 0x50498000000003E0) {s x : State} (h : Does W s x)
    {traceUnits' traceHubs' trig' counters' cntGroups' queHubs' meters' clus' slg' ten' pwrHubs'}
    (he : x.ten.epoch.toNat ≤ ten'.epoch.toNat) :
    Does W s (State.mk
      x.pending x.fuses x.sys x.hubs x.clk traceUnits' traceHubs' trig' counters' cntGroups' x.mbx x.jtag x.i3c x.zl x.flows
      x.hosts x.zlg x.delivered x.slots x.extents x.maps x.drains x.carver x.dir x.lines x.retry x.atom x.cohHubs x.heldMsgs
      x.coh x.accesses x.nextAccess x.bulkRx x.tenEnd x.mem x.lineMeta x.units x.ranks x.chans x.memHubs x.lift x.integ x.memKey
      x.eth x.qps x.kmp x.queues queHubs' meters' x.ethg x.lcs clus' x.jobs x.gates slg' x.trn x.shoot x.jobg x.si x.fw ten'
      x.sels pwrHubs' x.pwr x.eff x.out x.freeCtr) :=
  h.put 0x50498000000003E0 hW ⟨rfl, rfl, id, le_rfl, le_rfl, le_rfl, he, le_rfl⟩ (fun f hf => by cases f <;> first | exact Eq.refl _ | cases hf)

theorem Does.upd_1000000000006000 {W : Nat} (hW : Covers W 0x1000000000006000) {s x : State} (h : Does W s x)
    {zl' flows' ten'}
    (he : x.ten.epoch.toNat ≤ ten'.epoch.toNat) :
    Does W s (State.mk
      x.pending x.fuses x.sys x.hubs x.clk x.traceUnits x.traceHubs x.trig x.counters x.cntGroups x.mbx x.jtag x.i3c zl' flows'
      x.hosts x.zlg x.delivered x.slots x.extents x.maps x.drains x.carver x.dir x.lines x.retry x.atom x.cohHubs x.heldMsgs
      x.coh x.accesses x.nextAccess x.bulkRx x.tenEnd x.mem x.lineMeta x.units x.ranks x.chans x.memHubs x.lift x.integ x.memKey
      x.eth x.qps x.kmp x.queues x.queHubs x.meters x.ethg x.lcs x.clus x.jobs x.gates x.slg x.trn x.shoot x.jobg x.si x.fw ten'
      x.sels x.pwrHubs x.pwr x.eff x.out x.freeCtr) :=
  h.put 0x1000000000006000 hW ⟨rfl, rfl, id, le_rfl, le_rfl, le_rfl, he, le_rfl⟩ (fun f hf => by cases f <;> first | exact Eq.refl _ | cases hf)

theorem Does.upd_2000000010000 {W : Nat} (hW : Covers W 0x2000000010000) {s x : State} (h : Does W s x)
    {zlg' ethg'} :
    Does W s (State.mk
      x.pending x.fuses x.sys x.hubs x.clk x.traceUnits x.traceHubs x.trig x.counters x.cntGroups x.mbx x.jtag x.i3c x.zl
      x.flows x.hosts zlg' x.delivered x.slots x.extents x.maps x.drains x.carver x.dir x.lines x.retry x.atom x.cohHubs
      x.heldMsgs x.coh x.accesses x.nextAccess x.bulkRx x.tenEnd x.mem x.lineMeta x.units x.ranks x.chans x.memHubs x.lift
      x.integ x.memKey x.eth x.qps x.kmp x.queues x.queHubs x.meters ethg' x.lcs x.clus x.jobs x.gates x.slg x.trn x.shoot
      x.jobg x.si x.fw x.ten x.sels x.pwrHubs x.pwr x.eff x.out x.freeCtr) :=
  h.put 0x2000000010000 hW ⟨rfl, rfl, id, le_rfl, le_rfl, le_rfl, le_rfl, le_rfl⟩ (fun f hf => by cases f <;> first | exact Eq.refl _ | cases hf)

theorem Does.upd_1400000000000 {W : Nat} (hW : Covers W 0x1400000000000) {s x : State} (h : Does W s x)
    {queues' meters'} :
    Does W s (State.mk
      x.pending x.fuses x.sys x.hubs x.clk x.traceUnits x.traceHubs x.trig x.counters x.cntGroups x.mbx x.jtag x.i3c x.zl
      x.flows x.hosts x.zlg x.delivered x.slots x.extents x.maps x.drains x.carver x.dir x.lines x.retry x.atom x.cohHubs
      x.heldMsgs x.coh x.accesses x.nextAccess x.bulkRx x.tenEnd x.mem x.lineMeta x.units x.ranks x.chans x.memHubs x.lift
      x.integ x.memKey x.eth x.qps x.kmp queues' x.queHubs meters' x.ethg x.lcs x.clus x.jobs x.gates x.slg x.trn x.shoot x.jobg
      x.si x.fw x.ten x.sels x.pwrHubs x.pwr x.eff x.out x.freeCtr) :=
  h.put 0x1400000000000 hW ⟨rfl, rfl, id, le_rfl, le_rfl, le_rfl, le_rfl, le_rfl⟩ (fun f hf => by cases f <;> first | exact Eq.refl _ | cases hf)

theorem Does.upd_10400000000000000 {W : Nat} (hW : Covers W 0x10400000000000000) {s x : State} (h : Does W s x)
    {si' eff'}
    (hs : x.si.maxSerial.toNat ≤ si'.maxSerial.toNat) :
    Does W s (State.mk
      x.pending x.fuses x.sys x.hubs x.clk x.traceUnits x.traceHubs x.trig x.counters x.cntGroups x.mbx x.jtag x.i3c x.zl
      x.flows x.hosts x.zlg x.delivered x.slots x.extents x.maps x.drains x.carver x.dir x.lines x.retry x.atom x.cohHubs
      x.heldMsgs x.coh x.accesses x.nextAccess x.bulkRx x.tenEnd x.mem x.lineMeta x.units x.ranks x.chans x.memHubs x.lift
      x.integ x.memKey x.eth x.qps x.kmp x.queues x.queHubs x.meters x.ethg x.lcs x.clus x.jobs x.gates x.slg x.trn x.shoot
      x.jobg si' x.fw x.ten x.sels x.pwrHubs x.pwr eff' x.out x.freeCtr) :=
  h.put 0x10400000000000000 hW ⟨rfl, rfl, id, le_rfl, le_rfl, hs, le_rfl, le_rfl⟩ (fun f hf => by cases f <;> first | exact Eq.refl _ | cases hf)

theorem Does.upd_4 {W : Nat} (hW : Covers W 0x4) {s x : State} (h : Does W s x)
    {sys'} :
    Does W s (State.mk
      x.pending x.fuses sys' x.hubs x.clk x.traceUnits x.traceHubs x.trig x.counters x.cntGroups x.mbx x.jtag x.i3c x.zl x.flows
      x.hosts x.zlg x.delivered x.slots x.extents x.maps x.drains x.carver x.dir x.lines x.retry x.atom x.cohHubs x.heldMsgs
      x.coh x.accesses x.nextAccess x.bulkRx x.tenEnd x.mem x.lineMeta x.units x.ranks x.chans x.memHubs x.lift x.integ x.memKey
      x.eth x.qps x.kmp x.queues x.queHubs x.meters x.ethg x.lcs x.clus x.jobs x.gates x.slg x.trn x.shoot x.jobg x.si x.fw
      x.ten x.sels x.pwrHubs x.pwr x.eff x.out x.freeCtr) :=
  h.put 0x4 hW ⟨rfl, rfl, id, le_rfl, le_rfl, le_rfl, le_rfl, le_rfl⟩ (fun f hf => by cases f <;> first | exact Eq.refl _ | cases hf)

theorem Does.upd_804 {W : Nat} (hW : Covers W 0x804) {s x : State} (h : Does W s x)
    {sys' jtag'} :
    Does W s (State.mk
      x.pending x.fuses sys' x.hubs x.clk x.traceUnits x.traceHubs x.trig x.counters x.cntGroups x.mbx jtag' x.i3c x.zl x.flows
      x.hosts x.zlg x.delivered x.slots x.extents x.maps x.drains x.carver x.dir x.lines x.retry x.atom x.cohHubs x.heldMsgs
      x.coh x.accesses x.nextAccess x.bulkRx x.tenEnd x.mem x.lineMeta x.units x.ranks x.chans x.memHubs x.lift x.integ x.memKey
      x.eth x.qps x.kmp x.queues x.queHubs x.meters x.ethg x.lcs x.clus x.jobs x.gates x.slg x.trn x.shoot x.jobg x.si x.fw
      x.ten x.sels x.pwrHubs x.pwr x.eff x.out x.freeCtr) :=
  h.put 0x804 hW ⟨rfl, rfl, id, le_rfl, le_rfl, le_rfl, le_rfl, le_rfl⟩ (fun f hf => by cases f <;> first | exact Eq.refl _ | cases hf)

theorem Does.upd_10800000000000000 {W : Nat} (hW : Covers W 0x10800000000000000) {s x : State} (h : Does W s x)
    {fw' eff'}
    (hv : x.fw.svn.toNat ≤ fw'.svn.toNat) :
    Does W s (State.mk
      x.pending x.fuses x.sys x.hubs x.clk x.traceUnits x.traceHubs x.trig x.counters x.cntGroups x.mbx x.jtag x.i3c x.zl
      x.flows x.hosts x.zlg x.delivered x.slots x.extents x.maps x.drains x.carver x.dir x.lines x.retry x.atom x.cohHubs
      x.heldMsgs x.coh x.accesses x.nextAccess x.bulkRx x.tenEnd x.mem x.lineMeta x.units x.ranks x.chans x.memHubs x.lift
      x.integ x.memKey x.eth x.qps x.kmp x.queues x.queHubs x.meters x.ethg x.lcs x.clus x.jobs x.gates x.slg x.trn x.shoot
      x.jobg x.si fw' x.ten x.sels x.pwrHubs x.pwr eff' x.out x.freeCtr) :=
  h.put 0x10800000000000000 hW ⟨rfl, rfl, id, le_rfl, hv, le_rfl, le_rfl, le_rfl⟩ (fun f hf => by cases f <;> first | exact Eq.refl _ | cases hf)

theorem Does.upd_60888280080007E0 {W : Nat} (hW : Covers W 0x60888280080007E0) {s x : State} (h : Does W s x)
    {traceUnits' traceHubs' trig' counters' cntGroups' mbx' cohHubs' memHubs' integ' queHubs' clus' trn' sels' pwrHubs'} :
    Does W s (State.mk
      x.pending x.fuses x.sys x.hubs x.clk traceUnits' traceHubs' trig' counters' cntGroups' mbx' x.jtag x.i3c x.zl x.flows
      x.hosts x.zlg x.delivered x.slots x.extents x.maps x.drains x.carver x.dir x.lines x.retry x.atom cohHubs' x.heldMsgs
      x.coh x.accesses x.nextAccess x.bulkRx x.tenEnd x.mem x.lineMeta x.units x.ranks x.chans memHubs' x.lift integ' x.memKey
      x.eth x.qps x.kmp x.queues queHubs' x.meters x.ethg x.lcs clus' x.jobs x.gates x.slg trn' x.shoot x.jobg x.si x.fw x.ten
      sels' pwrHubs' x.pwr x.eff x.out x.freeCtr) :=
  h.put 0x60888280080007E0 hW ⟨rfl, rfl, id, le_rfl, le_rfl, le_rfl, le_rfl, le_rfl⟩ (fun f hf => by cases f <;> first | exact Eq.refl _ | cases hf)

theorem Does.upd_8000000000010000 {W : Nat} (hW : Covers W 0x8000000000010000) {s x : State} (h : Does W s x)
    {zlg' pwr'} :
    Does W s (State.mk
      x.pending x.fuses x.sys x.hubs x.clk x.traceUnits x.traceHubs x.trig x.counters x.cntGroups x.mbx x.jtag x.i3c x.zl
      x.flows x.hosts zlg' x.delivered x.slots x.extents x.maps x.drains x.carver x.dir x.lines x.retry x.atom x.cohHubs
      x.heldMsgs x.coh x.accesses x.nextAccess x.bulkRx x.tenEnd x.mem x.lineMeta x.units x.ranks x.chans x.memHubs x.lift
      x.integ x.memKey x.eth x.qps x.kmp x.queues x.queHubs x.meters x.ethg x.lcs x.clus x.jobs x.gates x.slg x.trn x.shoot
      x.jobg x.si x.fw x.ten x.sels x.pwrHubs pwr' x.eff x.out x.freeCtr) :=
  h.put 0x8000000000010000 hW ⟨rfl, rfl, id, le_rfl, le_rfl, le_rfl, le_rfl, le_rfl⟩ (fun f hf => by cases f <;> first | exact Eq.refl _ | cases hf)

theorem Does.upd_A0 {W : Nat} (hW : Covers W 0xA0) {s x : State} (h : Does W s x)
    {traceUnits' trig'} :
    Does W s (State.mk
      x.pending x.fuses x.sys x.hubs x.clk traceUnits' x.traceHubs trig' x.counters x.cntGroups x.mbx x.jtag x.i3c x.zl x.flows
      x.hosts x.zlg x.delivered x.slots x.extents x.maps x.drains x.carver x.dir x.lines x.retry x.atom x.cohHubs x.heldMsgs
      x.coh x.accesses x.nextAccess x.bulkRx x.tenEnd x.mem x.lineMeta x.units x.ranks x.chans x.memHubs x.lift x.integ x.memKey
      x.eth x.qps x.kmp x.queues x.queHubs x.meters x.ethg x.lcs x.clus x.jobs x.gates x.slg x.trn x.shoot x.jobg x.si x.fw
      x.ten x.sels x.pwrHubs x.pwr x.eff x.out x.freeCtr) :=
  h.put 0xA0 hW ⟨rfl, rfl, id, le_rfl, le_rfl, le_rfl, le_rfl, le_rfl⟩ (fun f hf => by cases f <;> first | exact Eq.refl _ | cases hf)

theorem Does.upd_400 {W : Nat} (hW : Covers W 0x400) {s x : State} (h : Does W s x)
    {mbx'} :
    Does W s (State.mk
      x.pending x.fuses x.sys x.hubs x.clk x.traceUnits x.traceHubs x.trig x.counters x.cntGroups mbx' x.jtag x.i3c x.zl x.flows
      x.hosts x.zlg x.delivered x.slots x.extents x.maps x.drains x.carver x.dir x.lines x.retry x.atom x.cohHubs x.heldMsgs
      x.coh x.accesses x.nextAccess x.bulkRx x.tenEnd x.mem x.lineMeta x.units x.ranks x.chans x.memHubs x.lift x.integ x.memKey
      x.eth x.qps x.kmp x.queues x.queHubs x.meters x.ethg x.lcs x.clus x.jobs x.gates x.slg x.trn x.shoot x.jobg x.si x.fw
      x.ten x.sels x.pwrHubs x.pwr x.eff x.out x.freeCtr) :=
  h.put 0x400 hW ⟨rfl, rfl, id, le_rfl, le_rfl, le_rfl, le_rfl, le_rfl⟩ (fun f hf => by cases f <;> first | exact Eq.refl _ | cases hf)

theorem Does.upd_1000 {W : Nat} (hW : Covers W 0x1000) {s x : State} (h : Does W s x)
    {i3c'} :
    Does W s (State.mk
      x.pending x.fuses x.sys x.hubs x.clk x.traceUnits x.traceHubs x.trig x.counters x.cntGroups x.mbx x.jtag i3c' x.zl x.flows
      x.hosts x.zlg x.delivered x.slots x.extents x.maps x.drains x.carver x.dir x.lines x.retry x.atom x.cohHubs x.heldMsgs
      x.coh x.accesses x.nextAccess x.bulkRx x.tenEnd x.mem x.lineMeta x.units x.ranks x.chans x.memHubs x.lift x.integ x.memKey
      x.eth x.qps x.kmp x.queues x.queHubs x.meters x.ethg x.lcs x.clus x.jobs x.gates x.slg x.trn x.shoot x.jobg x.si x.fw
      x.ten x.sels x.pwrHubs x.pwr x.eff x.out x.freeCtr) :=
  h.put 0x1000 hW ⟨rfl, rfl, id, le_rfl, le_rfl, le_rfl, le_rfl, le_rfl⟩ (fun f hf => by cases f <;> first | exact Eq.refl _ | cases hf)

theorem Does.upd_800 {W : Nat} (hW : Covers W 0x800) {s x : State} (h : Does W s x)
    {jtag'} :
    Does W s (State.mk
      x.pending x.fuses x.sys x.hubs x.clk x.traceUnits x.traceHubs x.trig x.counters x.cntGroups x.mbx jtag' x.i3c x.zl x.flows
      x.hosts x.zlg x.delivered x.slots x.extents x.maps x.drains x.carver x.dir x.lines x.retry x.atom x.cohHubs x.heldMsgs
      x.coh x.accesses x.nextAccess x.bulkRx x.tenEnd x.mem x.lineMeta x.units x.ranks x.chans x.memHubs x.lift x.integ x.memKey
      x.eth x.qps x.kmp x.queues x.queHubs x.meters x.ethg x.lcs x.clus x.jobs x.gates x.slg x.trn x.shoot x.jobg x.si x.fw
      x.ten x.sels x.pwrHubs x.pwr x.eff x.out x.freeCtr) :=
  h.put 0x800 hW ⟨rfl, rfl, id, le_rfl, le_rfl, le_rfl, le_rfl, le_rfl⟩ (fun f hf => by cases f <;> first | exact Eq.refl _ | cases hf)

end Sys2Proof.Machine
end

