-- ==== Sys2Proof/Laws/DoesShared.lean ====
section
/-! SUPPORT. DoesShared.lean: what each operation of the shared operations of the units does (`Does`). -/
namespace Sys2Proof.Machine
open Sys2Proof

theorem State.modHub_does {W : Nat} (hW : Covers W 0x8) {s₀ : State} (n : Nat) (f : HubInfo → HubInfo) {s : State} (hk : Does W s₀ s) :
    Does W s₀ (State.modHub s n f) := by
  unfold State.modHub
  try dsimp only
  repeat' (first | with_reducible assumption | with_reducible apply Does.upd_8 (hW.of rfl))

theorem State.emit_does {W : Nat} (hW : Covers W 0x20000000000000000) {s₀ : State} (o : Out) {s : State} (hk : Does W s₀ s) :
    Does W s₀ (State.emit s o) := by
  unfold State.emit
  try dsimp only
  repeat' (first | with_reducible assumption | with_reducible apply Does.upd_20000000000000000 (hW.of rfl))

theorem State.draw_does {W : Nat} (hW : Covers W 0x40000000000000000) {s₀ : State} (k : Config.Draw) {s : State} (hk : Does W s₀ s) :
    Does W s₀ (State.draw s k).2 := by
  unfold State.draw
  try dsimp only
  repeat' (first
    | with_reducible assumption | with_reducible apply Does.upd_40000000000000000 (hW.of rfl) | with_reducible exact id
    | with_reducible exact le_rfl | with_reducible exact Nat.le_add_right _ _ | exact Nat.le_refl _)

theorem State.modPwr_does {W : Nat} (hW : Covers W 0x4000000000000000) {s₀ : State} (h : Nat) (f : PwrHub → PwrHub) {s : State} (hk : Does W s₀ s) :
    Does W s₀ (State.modPwr s h f) := by
  unfold State.modPwr
  try dsimp only
  repeat' (first | with_reducible assumption | with_reducible apply Does.upd_4000000000000000 (hW.of rfl))

theorem State.bump_does {W : Nat} (hW : Covers W 0x100) {s₀ : State} (hub block id sel k : Nat) {s : State} (hk : Does W s₀ s) :
    Does W s₀ (State.bump s hub block id sel k) := by
  unfold State.bump
  try dsimp only
  repeat' (first | with_reducible assumption | with_reducible apply Does.upd_100 (hW.of rfl))

theorem State.waitBegin_does {W : Nat} (hW : Covers W 0x20) {s₀ : State} (hub : Nat) (u : TUnit) (w : OpenWait) {s : State} (hk : Does W s₀ s) :
    Does W s₀ (State.waitBegin s hub u w) := by
  unfold State.waitBegin
  try dsimp only
  repeat' (first | with_reducible assumption | with_reducible apply Does.upd_20 (hW.of rfl))

theorem State.exportDrain_does {W : Nat} (hW : Covers W 0xC0) {s₀ : State} (h : Nat) {s : State} (hk : Does W s₀ s) :
    Does W s₀ (State.exportDrain s h) := by
  unfold State.exportDrain
  try dsimp only
  repeat' (first
    | with_reducible assumption | split | (with_reducible refine Does.of_pair (by with_reducible assumption) ?_)
    | with_reducible apply Does.upd_C0 (hW.of rfl) | (with_reducible intro _; intros; (try dsimp only)))

theorem State.exportPush_does {W : Nat} (hW : Covers W 0xC0) {s₀ : State} (h : Nat) (r : TraceRec) {s : State} (hk : Does W s₀ s) :
    Does W s₀ (State.exportPush s h r) := by
  unfold State.exportPush
  try dsimp only
  repeat' (first
    | with_reducible assumption | with_reducible apply State.exportDrain_does (hW.of rfl) | split
    | with_reducible apply Does.upd_40 (hW.of rfl) | (with_reducible intro _; intros; (try dsimp only)))

theorem State.storeRec_does {W : Nat} (hW : Covers W 0x60) {s₀ : State} (h : Nat) (u : TUnit) (r : TraceRec) {s : State} (hk : Does W s₀ s) :
    Does W s₀ (State.storeRec s h u r) := by
  unfold State.storeRec
  try dsimp only
  repeat' (first
    | with_reducible assumption | split | with_reducible apply Does.upd_20 (hW.of rfl)
    | with_reducible apply Does.upd_40 (hW.of rfl) | (with_reducible intro _; intros; (try dsimp only)))

theorem State.fire_does {W : Nat} (hW : Covers W 0x80) {s₀ : State} {s : State} (hk : Does W s₀ s) :
    Does W s₀ (State.fire s) := by
  unfold State.fire
  try dsimp only
  repeat' (first | with_reducible assumption | split | with_reducible apply Does.upd_80 (hW.of rfl))

theorem State.fireOn_does {W : Nat} (hW : Covers W 0x80) {s₀ : State} (src : Nat) {s : State} (hk : Does W s₀ s) :
    Does W s₀ (State.fireOn s src) := by
  unfold State.fireOn
  try dsimp only
  repeat' (first | with_reducible assumption | with_reducible apply State.fire_does (hW.of rfl) | split)

theorem State.putWait_does {W : Nat} (hW : Covers W 0xE0) {s₀ : State} (h : Nat) (u : TUnit) (w : OpenWait) (isOpen : Bool) (by_ : BitVec 16) {s : State} (hk : Does W s₀ s) :
    Does W s₀ (State.putWait s h u w isOpen by_) := by
  unfold State.putWait
  try dsimp only
  repeat' (first
    | with_reducible assumption | with_reducible apply State.exportPush_does (hW.of rfl)
    | with_reducible apply State.storeRec_does (hW.of rfl) | split | (with_reducible intro _; intros; (try dsimp only)))

theorem State.recordWait_does {W : Nat} (hW : Covers W 0xE0) {s₀ : State} (h : Nat) (u : TUnit) (w : OpenWait) (by_ : BitVec 16) {s : State} (hk : Does W s₀ s) :
    Does W s₀ (State.recordWait s h u w by_) := by
  unfold State.recordWait
  try dsimp only
  repeat' (first
    | with_reducible assumption | with_reducible apply State.fire_does (hW.of rfl)
    | with_reducible apply State.putWait_does (hW.of rfl) | (with_reducible apply Does.foldl; intro _ _ _) | split
    | (with_reducible intro _; intros; (try dsimp only)))

theorem State.waitEnd_does {W : Nat} (hW : Covers W 0xE0) {s₀ : State} (h : Nat) (u : TUnit) (p : OpenWait → Bool) (by_ : Option (BitVec 16)) {s : State} (hk : Does W s₀ s) :
    Does W s₀ (State.waitEnd s h u p by_) := by
  unfold State.waitEnd
  try dsimp only
  repeat' (first
    | with_reducible assumption | with_reducible apply State.recordWait_does (hW.of rfl)
    | (with_reducible apply Does.foldl; intro _ _ _) | with_reducible apply Does.getD
    | with_reducible apply Does.upd_20 (hW.of rfl))

theorem State.modPort_does {W : Nat} (hW : Covers W 0x2000) {s₀ : State} (p : Nat) (f : ZlPort → ZlPort) {s : State} (hk : Does W s₀ s) :
    Does W s₀ (State.modPort s p f) := by
  unfold State.modPort
  try dsimp only
  repeat' (first | with_reducible assumption | with_reducible apply Does.upd_2000 (hW.of rfl))

theorem State.sendCell_does {W : Nat} (hW : Covers W 0x20000000000000000) {s₀ : State} (p : Nat) (c : Cell) {s : State} (hk : Does W s₀ s) :
    Does W s₀ (State.sendCell s p c) := by
  unfold State.sendCell
  try dsimp only
  repeat' (first | with_reducible assumption | with_reducible apply State.emit_does (hW.of rfl) | split)

theorem State.numberCell_does {W : Nat} (hW : Covers W 0x20000000000002100) {s₀ : State} (p : Nat) (b : CellBody) {s : State} (hk : Does W s₀ s) :
    Does W s₀ (State.numberCell s p b) := by
  unfold State.numberCell
  try dsimp only
  repeat' (first
    | with_reducible assumption | with_reducible apply State.bump_does (hW.of rfl)
    | with_reducible apply State.modPort_does (hW.of rfl) | with_reducible apply State.sendCell_does (hW.of rfl))

theorem State.sendSeq_does {W : Nat} (hW : Covers W 0x20000000000002100) {s₀ : State} (p : Nat) (b : CellBody) {s : State} (hk : Does W s₀ s) :
    Does W s₀ (State.sendSeq s p b) := by
  unfold State.sendSeq
  try dsimp only
  repeat' (first
    | with_reducible assumption | with_reducible apply State.modPort_does (hW.of rfl)
    | with_reducible apply State.numberCell_does (hW.of rfl) | split | (with_reducible intro _; intros; (try dsimp only)))

theorem State.flushSeq_does {W : Nat} (hW : Covers W 0x20000000000002100) {s₀ : State} (p : Nat) {s : State} (hk : Does W s₀ s) :
    Does W s₀ (State.flushSeq s p) := by
  unfold State.flushSeq
  try dsimp only
  repeat' (first
    | with_reducible assumption | with_reducible apply State.modPort_does (hW.of rfl)
    | with_reducible apply State.numberCell_does (hW.of rfl) | (with_reducible apply Does.foldl; intro _ _ _))

theorem State.beginPacket_does {W : Nat} (hW : Covers W 0x20000000000002100) {s₀ : State} (p : Nat) (k : Packet) {s : State} (hk : Does W s₀ s) :
    Does W s₀ (State.beginPacket s p k) := by
  unfold State.beginPacket
  try dsimp only
  repeat' (first
    | with_reducible assumption | with_reducible apply State.modPort_does (hW.of rfl)
    | with_reducible apply State.numberCell_does (hW.of rfl) | (with_reducible apply Does.foldl; intro _ _ _) | split
    | (with_reducible intro _; intros; (try dsimp only)))

theorem State.drainList_does {W : Nat} (hW : Covers W 0x20000000000002100) {s₀ : State} (p : Nat) :
    ∀ (l0 : List Packet) (l1 : List Nat) (l2 : List Packet), ∀ {s : State}, Does W s₀ s → Does W s₀ (State.drainList s p l0 l1 l2) := by
  intro l0 l1 l2
  induction l0 generalizing p l1 l2 with
  | nil =>
    intro s hk
    unfold State.drainList
    try dsimp only
    repeat' (first
      | with_reducible assumption | with_reducible apply State.modPort_does (hW.of rfl)
      | with_reducible apply State.beginPacket_does (hW.of rfl) | split
      | (with_reducible refine Does.of_pair (by with_reducible assumption) ?_)
      | (with_reducible intro _; intros; (try dsimp only)))
  | cons x r ih =>
    intro s hk
    unfold State.drainList
    try dsimp only
    repeat' (first
      | with_reducible apply ih | with_reducible assumption | with_reducible apply State.modPort_does (hW.of rfl)
      | with_reducible apply State.beginPacket_does (hW.of rfl) | split
      | (with_reducible refine Does.of_pair (by with_reducible assumption) ?_)
      | (with_reducible intro _; intros; (try dsimp only)))

theorem State.noteCredit_does {W : Nat} (hW : Covers W 0x1E0) {s₀ : State} (p : Nat) (before : ZlPort) {s : State} (hk : Does W s₀ s) :
    Does W s₀ (State.noteCredit s p before) := by
  unfold State.noteCredit
  try dsimp only
  repeat' (first
    | with_reducible assumption | with_reducible apply State.bump_does (hW.of rfl)
    | with_reducible apply State.waitBegin_does (hW.of rfl) | with_reducible apply State.waitEnd_does (hW.of rfl)
    | (with_reducible apply Does.foldl; intro _ _ _) | split | (with_reducible refine Does.of_pair (by with_reducible assumption) ?_)
    | (with_reducible intro _; intros; (try dsimp only)))

theorem State.nullInstead_does {W : Nat} (hW : Covers W 0x20000000000000000) {s₀ : State} (p : Nat) {s : State} (hk : Does W s₀ s) :
    Does W s₀ (State.nullInstead s p) := by
  unfold State.nullInstead
  try dsimp only
  repeat' (first
    | with_reducible assumption | with_reducible apply State.sendCell_does (hW.of rfl) | split
    | (with_reducible intro _; intros; (try dsimp only)))

theorem State.drainPort_does {W : Nat} (hW : Covers W 0x200000000000021E0) {s₀ : State} (p : Nat) {s : State} (hk : Does W s₀ s) :
    Does W s₀ (State.drainPort s p) := by
  unfold State.drainPort
  try dsimp only
  repeat' (first
    | with_reducible assumption | with_reducible apply State.flushSeq_does (hW.of rfl)
    | with_reducible apply State.drainList_does (hW.of rfl) | with_reducible apply State.noteCredit_does (hW.of rfl)
    | with_reducible apply State.nullInstead_does (hW.of rfl))

theorem State.toPort_does {W : Nat} (hW : Covers W 0x200000000000021E0) {s₀ : State} (p : Nat) (k : Packet) {s : State} (hk : Does W s₀ s) :
    Does W s₀ (State.toPort s p k) := by
  unfold State.toPort
  try dsimp only
  repeat' (first
    | with_reducible assumption | with_reducible apply State.modPort_does (hW.of rfl)
    | with_reducible apply State.drainPort_does (hW.of rfl) | split | (with_reducible intro _; intros; (try dsimp only)))

theorem State.sendRequest_does {W : Nat} (hW : Covers W 0x20000000000000000) {s₀ : State} (p : Nat) (r : LinkReq) {s : State} (hk : Does W s₀ s) :
    Does W s₀ (State.sendRequest s p r) := by
  unfold State.sendRequest
  try dsimp only
  repeat' (first
    | with_reducible assumption | with_reducible apply State.sendCell_does (hW.of rfl) | split
    | (with_reducible refine Does.of_pair (by with_reducible assumption) ?_))

theorem State.wantRetrain_does {W : Nat} (hW : Covers W 0x20000000000002000) {s₀ : State} (p : Nat) {s : State} (hk : Does W s₀ s) :
    Does W s₀ (State.wantRetrain s p) := by
  unfold State.wantRetrain
  try dsimp only
  repeat' (first
    | with_reducible assumption | with_reducible apply State.modPort_does (hW.of rfl)
    | with_reducible apply State.sendRequest_does (hW.of rfl) | split | (with_reducible intro _; intros; (try dsimp only)))

theorem State.modHost_does {W : Nat} (hW : Covers W 0x8000) {s₀ : State} (h : Nat) (f : HostSt → HostSt) {s : State} (hk : Does W s₀ s) :
    Does W s₀ (State.modHost s h f) := by
  unfold State.modHost
  try dsimp only
  repeat' (first | with_reducible assumption | with_reducible apply Does.upd_8000 (hW.of rfl))

theorem State.modFlow_does {W : Nat} (hW : Covers W 0x4000) {s₀ : State} (h lvc : Nat) (f : Flow → Flow) {s : State} (hk : Does W s₀ s) :
    Does W s₀ (State.modFlow s h lvc f) := by
  unfold State.modFlow
  try dsimp only
  repeat' (first | with_reducible assumption | with_reducible apply Does.upd_4000 (hW.of rfl))

theorem State.sealOut_does {W : Nat} (hW : Covers W 0x1000000000000000) {s₀ : State} (h : Nat) (k : Packet) {s : State} (hk : Does W s₀ s) :
    Does W s₀ (State.sealOut s h k).2.2 := by
  unfold State.sealOut
  try dsimp only
  repeat' (first
    | with_reducible assumption | split | (with_reducible refine Does.of_pair (by with_reducible assumption) ?_)
    | with_reducible apply Does.upd_1000000000000000 (hW.of rfl) | with_reducible exact id | with_reducible exact le_rfl
    | with_reducible exact Nat.le_add_right _ _ | with_reducible exact satAdd_le _ _ | (rw [Ten.dropLinks_epoch])
    | (with_reducible intro _; intros; (try dsimp only)) | exact Nat.le_refl _)

theorem State.launchPkt_does {W : Nat} (hW : Covers W 0x210000000000061E0) {s₀ : State} (h : Nat) (k : Packet) {s : State} (hk : Does W s₀ s) :
    Does W s₀ (State.launchPkt s h k) := by
  unfold State.launchPkt
  try dsimp only
  repeat' (first
    | with_reducible assumption | with_reducible apply State.toPort_does (hW.of rfl)
    | with_reducible apply State.modFlow_does (hW.of rfl) | with_reducible apply State.sealOut_does (hW.of rfl) | split
    | (with_reducible refine Does.of_pair (by with_reducible assumption) ?_))

theorem State.drainHostList_does {W : Nat} (hW : Covers W 0x2100000000000E1E0) {s₀ : State} (h : Nat) :
    ∀ (l0 : List Packet) (l1 : List Packet), ∀ {s : State}, Does W s₀ s → Does W s₀ (State.drainHostList s h l0 l1) := by
  intro l0 l1
  induction l0 generalizing h l1 with
  | nil =>
    intro s hk
    unfold State.drainHostList
    try dsimp only
    repeat' (first
      | with_reducible assumption | with_reducible apply State.modHost_does (hW.of rfl)
      | with_reducible apply State.launchPkt_does (hW.of rfl) | split
      | (with_reducible refine Does.of_pair (by with_reducible assumption) ?_)
      | (with_reducible intro _; intros; (try dsimp only)))
  | cons x r ih =>
    intro s hk
    unfold State.drainHostList
    try dsimp only
    repeat' (first
      | with_reducible apply ih | with_reducible assumption | with_reducible apply State.modHost_does (hW.of rfl)
      | with_reducible apply State.launchPkt_does (hW.of rfl) | split
      | (with_reducible refine Does.of_pair (by with_reducible assumption) ?_)
      | (with_reducible intro _; intros; (try dsimp only)))

theorem State.drainHost_does {W : Nat} (hW : Covers W 0x2100000000000E1E0) {s₀ : State} (h : Nat) {s : State} (hk : Does W s₀ s) :
    Does W s₀ (State.drainHost s h) := by
  unfold State.drainHost
  try dsimp only
  repeat' (first
    | with_reducible assumption | with_reducible apply State.waitEnd_does (hW.of rfl)
    | with_reducible apply State.drainHostList_does (hW.of rfl) | split)

theorem State.sendPkt_does {W : Nat} (hW : Covers W 0x2100000000000E1E0) {s₀ : State} (h : Nat) (ptype : BitVec 4) (lvc : BitVec 3) (payload : BitVec 160) (data : List (BitVec 256)) {s : State} (hk : Does W s₀ s) :
    Does W s₀ (State.sendPkt s h ptype lvc payload data) := by
  unfold State.sendPkt
  try dsimp only
  repeat' (first
    | with_reducible assumption | with_reducible apply State.waitBegin_does (hW.of rfl)
    | with_reducible apply State.modHost_does (hW.of rfl) | with_reducible apply State.drainHost_does (hW.of rfl) | split)

theorem State.sendTack_does {W : Nat} (hW : Covers W 0x200000000000061E0) {s₀ : State} (h lvc : Nat) {s : State} (hk : Does W s₀ s) :
    Does W s₀ (State.sendTack s h lvc) := by
  unfold State.sendTack
  try dsimp only
  repeat' (first
    | with_reducible assumption | with_reducible apply State.emit_does (hW.of rfl)
    | with_reducible apply State.toPort_does (hW.of rfl) | with_reducible apply State.modFlow_does (hW.of rfl)
    | (with_reducible apply Does.foldl; intro _ _ _) | split)

theorem State.resend_does {W : Nat} (hW : Covers W 0x210000000000061E0) {s₀ : State} (h lvc : Nat) (tseq : BitVec 24) {s : State} (hk : Does W s₀ s) :
    Does W s₀ (State.resend s h lvc tseq) := by
  unfold State.resend
  try dsimp only
  repeat' (first
    | with_reducible assumption | with_reducible apply State.bump_does (hW.of rfl)
    | with_reducible apply State.toPort_does (hW.of rfl) | with_reducible apply State.modFlow_does (hW.of rfl) | split
    | (with_reducible refine Does.of_pair (by with_reducible assumption) ?_)
    | with_reducible apply Does.upd_1000000000000000 (hW.of rfl) | with_reducible exact id | with_reducible exact le_rfl
    | with_reducible exact Nat.le_add_right _ _ | with_reducible exact satAdd_le _ _ | (rw [Ten.dropLinks_epoch])
    | (with_reducible intro _; intros; (try dsimp only)) | exact Nat.le_refl _)

theorem State.resendAll_does {W : Nat} (hW : Covers W 0x210000000000061E0) {s₀ : State} (h : Nat) (p : OutPkt → Bool) {s : State} (hk : Does W s₀ s) :
    Does W s₀ (State.resendAll s h p) := by
  unfold State.resendAll
  try dsimp only
  repeat' (first
    | with_reducible assumption | with_reducible apply State.resend_does (hW.of rfl) | (with_reducible apply Does.foldl; intro _ _ _))

theorem State.losePath_does {W : Nat} (hW : Covers W 0x2100000000000E1E0) {s₀ : State} (h : Nat) (secondary : Bool) {s : State} (hk : Does W s₀ s) :
    Does W s₀ (State.losePath s h secondary) := by
  unfold State.losePath
  try dsimp only
  repeat' (first
    | with_reducible assumption | with_reducible apply State.modHost_does (hW.of rfl)
    | with_reducible apply State.resendAll_does (hW.of rfl) | split)

theorem State.losePort_does {W : Nat} (hW : Covers W 0x2100000000000E1E0) {s₀ : State} (p : Nat) {s : State} (hk : Does W s₀ s) :
    Does W s₀ (State.losePort s p) := by
  unfold State.losePort
  try dsimp only
  repeat' (first
    | with_reducible assumption | with_reducible apply State.losePath_does (hW.of rfl)
    | (with_reducible apply Does.foldl; intro _ _ _) | split)

theorem State.resendPeers_does {W : Nat} (hW : Covers W 0x210000000000061E0) {s₀ : State} (p : OutPkt → Bool) {s : State} (hk : Does W s₀ s) :
    Does W s₀ (State.resendPeers s p) := by
  unfold State.resendPeers
  try dsimp only
  repeat' (first
    | with_reducible assumption | with_reducible apply State.resendAll_does (hW.of rfl)
    | (with_reducible apply Does.foldl; intro _ _ _))

theorem State.checkWidth_does {W : Nat} (hW : Covers W 0x20000000000002000) {s₀ : State} (p : Nat) {s : State} (hk : Does W s₀ s) :
    Does W s₀ (State.checkWidth s p) := by
  unfold State.checkWidth
  try dsimp only
  repeat' (first
    | with_reducible assumption | with_reducible apply State.wantRetrain_does (hW.of rfl) | split
    | (with_reducible intro _; intros; (try dsimp only)))

theorem State.chooseSource_does {W : Nat} (hW : Covers W 0x10000) {s₀ : State} {s : State} (hk : Does W s₀ s) :
    Does W s₀ (State.chooseSource s) := by
  unfold State.chooseSource
  try dsimp only
  repeat' (first
    | with_reducible assumption | split | (with_reducible refine Does.of_pair (by with_reducible assumption) ?_)
    | with_reducible apply Does.upd_10000 (hW.of rfl))

theorem State.linkDown_does {W : Nat} (hW : Covers W 0x2100000000001E1E0) {s₀ : State} (p : Nat) {s : State} (hk : Does W s₀ s) :
    Does W s₀ (State.linkDown s p) := by
  unfold State.linkDown
  try dsimp only
  repeat' (first
    | with_reducible assumption | with_reducible apply State.modPort_does (hW.of rfl)
    | with_reducible apply State.modHost_does (hW.of rfl) | with_reducible apply State.losePort_does (hW.of rfl)
    | with_reducible apply State.resendPeers_does (hW.of rfl) | with_reducible apply State.chooseSource_does (hW.of rfl)
    | (with_reducible apply Does.foldl; intro _ _ _) | split | (with_reducible intro _; intros; (try dsimp only)))

theorem State.sendInit_does {W : Nat} (hW : Covers W 0x20000000000002100) {s₀ : State} (p : Nat) {s : State} (hk : Does W s₀ s) :
    Does W s₀ (State.sendInit s p) := by
  unfold State.sendInit
  try dsimp only
  repeat' (first
    | with_reducible assumption | with_reducible apply State.modPort_does (hW.of rfl)
    | with_reducible apply State.sendSeq_does (hW.of rfl) | (with_reducible apply Does.foldl; intro _ _ _) | split
    | (with_reducible intro _; intros; (try dsimp only)))

theorem State.endWindow_does {W : Nat} (hW : Covers W 0x8000) {s₀ : State} (p : Nat) {s : State} (hk : Does W s₀ s) :
    Does W s₀ (State.endWindow s p) := by
  unfold State.endWindow
  try dsimp only
  repeat' (first
    | with_reducible assumption | split | with_reducible apply Does.upd_8000 (hW.of rfl)
    | (with_reducible intro _; intros; (try dsimp only)))

theorem State.deliverChain_does {W : Nat} (hW : Covers W 0x24000) {s₀ : State} (h lvc : Nat) :
    ∀ (l0 : Nat), ∀ {s : State}, Does W s₀ s → Does W s₀ (State.deliverChain s h lvc l0) := by
  intro l0
  induction l0 generalizing h lvc with
  | zero =>
    intro s hk
    unfold State.deliverChain
    try dsimp only
    repeat' (first
      | with_reducible assumption | with_reducible apply State.modFlow_does (hW.of rfl) | split
      | (with_reducible refine Does.of_pair (by with_reducible assumption) ?_) | with_reducible apply Does.upd_20000 (hW.of rfl))
  | succ r ih =>
    intro s hk
    unfold State.deliverChain
    try dsimp only
    repeat' (first
      | with_reducible apply ih | with_reducible assumption | with_reducible apply State.modFlow_does (hW.of rfl) | split
      | (with_reducible refine Does.of_pair (by with_reducible assumption) ?_) | with_reducible apply Does.upd_20000 (hW.of rfl))

theorem State.oweTack_does {W : Nat} (hW : Covers W 0x200000000000061E0) {s₀ : State} (h lvc : Nat) {s : State} (hk : Does W s₀ s) :
    Does W s₀ (State.oweTack s h lvc) := by
  unfold State.oweTack
  try dsimp only
  repeat' (first
    | with_reducible assumption | with_reducible apply State.modFlow_does (hW.of rfl)
    | with_reducible apply State.sendTack_does (hW.of rfl) | split)

theorem State.flowRx_does {W : Nat} (hW : Covers W 0x200000000000261E0) {s₀ : State} (p : Nat) (k : Packet) {s : State} (hk : Does W s₀ s) :
    Does W s₀ (State.flowRx s p k) := by
  unfold State.flowRx
  try dsimp only
  repeat' (first
    | with_reducible assumption | with_reducible apply State.modFlow_does (hW.of rfl)
    | with_reducible apply State.sendTack_does (hW.of rfl) | with_reducible apply State.deliverChain_does (hW.of rfl)
    | with_reducible apply State.oweTack_does (hW.of rfl) | split | with_reducible apply Does.upd_20000 (hW.of rfl))

theorem State.flowRxSealed_does {W : Nat} (hW : Covers W 0x210000000000261E0) {s₀ : State} (p : Nat) (k : Packet) {s : State} (hk : Does W s₀ s) :
    Does W s₀ (State.flowRxSealed s p k) := by
  unfold State.flowRxSealed
  try dsimp only
  repeat' (first
    | with_reducible assumption | with_reducible apply State.flowRx_does (hW.of rfl) | split
    | (with_reducible refine Does.of_pair (by with_reducible assumption) ?_)
    | with_reducible apply Does.upd_1000000000000000 (hW.of rfl) | with_reducible exact id | with_reducible exact le_rfl
    | with_reducible exact Nat.le_add_right _ _ | with_reducible exact satAdd_le _ _ | (rw [Ten.dropLinks_epoch])
    | (with_reducible intro _; intros; (try dsimp only)) | exact Nat.le_refl _)

theorem State.verifySealed_does {W : Nat} (hW : Covers W 0x2100000000002E1E0) {s₀ : State} (p : Nat) (k : Packet) (t : SealTag) {s : State} (hk : Does W s₀ s) :
    Does W s₀ (State.verifySealed s p k t) := by
  unfold State.verifySealed
  try dsimp only
  repeat' (first
    | with_reducible assumption | with_reducible apply State.drainHost_does (hW.of rfl)
    | with_reducible apply State.flowRxSealed_does (hW.of rfl) | split
    | (with_reducible refine Does.of_pair (by with_reducible assumption) ?_)
    | with_reducible apply Does.upd_1000000000000000 (hW.of rfl) | with_reducible exact id | with_reducible exact le_rfl
    | with_reducible exact Nat.le_add_right _ _ | with_reducible exact satAdd_le _ _ | (rw [Ten.dropLinks_epoch])
    | (with_reducible intro _; intros; (try dsimp only)) | exact Nat.le_refl _)

theorem State.modChan_does {W : Nat} (hW : Covers W 0x4000000000) {s₀ : State} (h c : Nat) (f : MemChan → MemChan) {s : State} (hk : Does W s₀ s) :
    Does W s₀ (State.modChan s h c f) := by
  unfold State.modChan
  try dsimp only
  repeat' (first | with_reducible assumption | with_reducible apply Does.upd_4000000000 (hW.of rfl))

theorem State.modMemHub_does {W : Nat} (hW : Covers W 0x8000000000) {s₀ : State} (h : Nat) (f : MemHub → MemHub) {s : State} (hk : Does W s₀ s) :
    Does W s₀ (State.modMemHub s h f) := by
  unfold State.modMemHub
  try dsimp only
  repeat' (first | with_reducible assumption | with_reducible apply Does.upd_8000000000 (hW.of rfl))

theorem State.putLine_does {W : Nat} (hW : Covers W 0xC00000000) {s₀ : State} (sl key : Nat) (d : Line) {s : State} (hk : Does W s₀ s) :
    Does W s₀ (State.putLine s sl key d) := by
  unfold State.putLine
  try dsimp only
  repeat' (first
    | with_reducible assumption | with_reducible apply Does.upd_C00000000 (hW.of rfl) | with_reducible exact id
    | with_reducible exact le_rfl | with_reducible exact Nat.le_add_right _ _ | with_reducible exact memWriteBytes_wf _ _ _
    | with_reducible exact wf_keep _ _ | (exact fun _ => rfl) | exact Nat.le_refl _)

theorem State.putPoison_does {W : Nat} (hW : Covers W 0xC00000000) {s₀ : State} (sl : Nat) {s : State} (hk : Does W s₀ s) :
    Does W s₀ (State.putPoison s sl) := by
  unfold State.putPoison
  try dsimp only
  repeat' (first
    | with_reducible assumption | with_reducible apply Does.upd_C00000000 (hW.of rfl) | with_reducible exact id
    | with_reducible exact le_rfl | with_reducible exact Nat.le_add_right _ _ | with_reducible exact memWriteBytes_wf _ _ _
    | with_reducible exact wf_keep _ _ | (exact fun _ => rfl) | exact Nat.le_refl _)

theorem State.fillUnits_does {W : Nat} (hW : Covers W 0x1C00000000) {s₀ : State} (slot first count : Nat) {s : State} (hk : Does W s₀ s) :
    Does W s₀ (State.fillUnits s slot first count) := by
  unfold State.fillUnits
  try dsimp only
  repeat' (first
    | with_reducible assumption | with_reducible apply Does.upd_1C00000000 (hW.of rfl) | with_reducible exact id
    | with_reducible exact le_rfl | with_reducible exact Nat.le_add_right _ _ | with_reducible exact memWriteBytes_wf _ _ _
    | with_reducible exact wf_keep _ _ | (exact fun _ => rfl) | exact Nat.le_refl _)

theorem State.logError_does {W : Nat} (hW : Covers W 0x20000000000) {s₀ : State} (r : ErrRec) {s : State} (hk : Does W s₀ s) :
    Does W s₀ (State.logError s r) := by
  unfold State.logError
  try dsimp only
  repeat' (first | with_reducible assumption | split | with_reducible apply Does.upd_20000000000 (hW.of rfl))

theorem State.logRetire_does {W : Nat} (hW : Covers W 0x20000000000) {s₀ : State} (e : RlogEntry) {s : State} (hk : Does W s₀ s) :
    Does W s₀ (State.logRetire s e) := by
  unfold State.logRetire
  try dsimp only
  repeat' (first | with_reducible assumption | split | with_reducible apply Does.upd_20000000000 (hW.of rfl))

theorem State.exhausted_does {W : Nat} (hW : Covers W 0x28000000000) {s₀ : State} (a : Nat) {s : State} (hk : Does W s₀ s) :
    Does W s₀ (State.exhausted s a) := by
  unfold State.exhausted
  try dsimp only
  repeat' (first
    | with_reducible assumption | with_reducible apply State.modMemHub_does (hW.of rfl)
    | with_reducible apply State.logError_does (hW.of rfl))

theorem State.exhaust_does {W : Nat} (hW : Covers W 0x28000000000) {s₀ : State} (a : Nat) (e : ErrLoc) (column : Option (BitVec 16)) {s : State} (hk : Does W s₀ s) :
    Does W s₀ (State.exhaust s a e column) := by
  unfold State.exhaust
  try dsimp only
  repeat' (first
    | with_reducible assumption | with_reducible apply State.logRetire_does (hW.of rfl)
    | with_reducible apply State.exhausted_does (hW.of rfl) | (with_reducible apply Does.foldl; intro _ _ _))

theorem State.rowDue_does {W : Nat} (hW : Covers W 0x28000000000) {s₀ : State} (a : Nat) (e : ErrLoc) {s : State} (hk : Does W s₀ s) :
    Does W s₀ (State.rowDue s a e) := by
  unfold State.rowDue
  try dsimp only
  repeat' (first
    | with_reducible assumption | with_reducible apply State.logError_does (hW.of rfl)
    | with_reducible apply State.logRetire_does (hW.of rfl) | with_reducible apply State.exhaust_does (hW.of rfl) | split
    | with_reducible apply Does.upd_20000000000 (hW.of rfl) | (with_reducible intro _; intros; (try dsimp only)))

theorem State.columnDue_does {W : Nat} (hW : Covers W 0x2A000000000) {s₀ : State} (a : Nat) (e : ErrLoc) {s : State} (hk : Does W s₀ s) :
    Does W s₀ (State.columnDue s a e) := by
  unfold State.columnDue
  try dsimp only
  repeat' (first
    | with_reducible assumption | with_reducible apply State.exhaust_does (hW.of rfl) | split
    | with_reducible apply Does.upd_2000000000 (hW.of rfl) | with_reducible apply Does.upd_22000000000 (hW.of rfl)
    | with_reducible apply Does.upd_20000000000 (hW.of rfl) | (with_reducible intro _; intros; (try dsimp only)))

theorem State.noteSymbol_does {W : Nat} (hW : Covers W 0x2C000000000) {s₀ : State} (a : Nat) (e : ErrLoc) {s : State} (hk : Does W s₀ s) :
    Does W s₀ (State.noteSymbol s a e) := by
  unfold State.noteSymbol
  try dsimp only
  repeat' (first
    | with_reducible assumption | with_reducible apply State.modChan_does (hW.of rfl)
    | with_reducible apply State.modMemHub_does (hW.of rfl) | with_reducible apply State.logError_does (hW.of rfl)
    | with_reducible apply State.logRetire_does (hW.of rfl) | split)

theorem State.corrected_does {W : Nat} (hW : Covers W 0x2E000000000) {s₀ : State} (sl : Nat) (e : ErrLoc) {s : State} (hk : Does W s₀ s) :
    Does W s₀ (State.corrected s sl e) := by
  unfold State.corrected
  try dsimp only
  repeat' (first
    | with_reducible assumption | with_reducible apply State.modMemHub_does (hW.of rfl)
    | with_reducible apply State.rowDue_does (hW.of rfl) | with_reducible apply State.columnDue_does (hW.of rfl)
    | with_reducible apply State.noteSymbol_does (hW.of rfl) | split | with_reducible apply Does.upd_2000000000 (hW.of rfl)
    | (with_reducible intro _; intros; (try dsimp only)))

theorem State.hardStack_does {W : Nat} (hW : Covers W 0x28000040000) {s₀ : State} (a : Nat) {s : State} (hk : Does W s₀ s) :
    Does W s₀ (State.hardStack s a) := by
  unfold State.hardStack
  try dsimp only
  repeat' (first
    | with_reducible assumption | with_reducible apply State.modMemHub_does (hW.of rfl)
    | with_reducible apply State.logError_does (hW.of rfl) | with_reducible apply State.logRetire_does (hW.of rfl)
    | with_reducible apply State.exhausted_does (hW.of rfl) | split
    | (with_reducible refine Does.of_pair (by with_reducible assumption) ?_) | with_reducible apply Does.upd_40000 (hW.of rfl)
    | with_reducible apply Does.upd_20000040000 (hW.of rfl) | (with_reducible intro _; intros; (try dsimp only)))

theorem State.hardDeep_does {W : Nat} (hW : Covers W 0x2C000040000) {s₀ : State} (a : Nat) {s : State} (hk : Does W s₀ s) :
    Does W s₀ (State.hardDeep s a) := by
  unfold State.hardDeep
  try dsimp only
  repeat' (first
    | with_reducible assumption | with_reducible apply State.modChan_does (hW.of rfl)
    | with_reducible apply State.logError_does (hW.of rfl) | with_reducible apply State.logRetire_does (hW.of rfl)
    | with_reducible apply State.exhausted_does (hW.of rfl) | split | with_reducible apply Does.upd_20000000000 (hW.of rfl)
    | with_reducible apply Does.upd_40000 (hW.of rfl) | (with_reducible intro _; intros; (try dsimp only)))

theorem State.abandon_does {W : Nat} (hW : Covers W 0x2C000000000) {s₀ : State} (a : Nat) {s : State} (hk : Does W s₀ s) :
    Does W s₀ (State.abandon s a) := by
  unfold State.abandon
  try dsimp only
  repeat' (first
    | with_reducible assumption | with_reducible apply State.modChan_does (hW.of rfl)
    | with_reducible apply State.logError_does (hW.of rfl) | with_reducible apply State.logRetire_does (hW.of rfl)
    | with_reducible apply State.exhausted_does (hW.of rfl) | split
    | (with_reducible refine Does.of_pair (by with_reducible assumption) ?_)
    | with_reducible apply Does.upd_20000000000 (hW.of rfl) | (with_reducible intro _; intros; (try dsimp only)))

theorem State.settleHard_does {W : Nat} (hW : Covers W 0x2CC00040000) {s₀ : State} (sl : Nat) (inTarget lost : Bool) {s : State} (hk : Does W s₀ s) :
    Does W s₀ (State.settleHard s sl inTarget lost) := by
  unfold State.settleHard
  try dsimp only
  repeat' (first
    | with_reducible assumption | with_reducible apply State.putPoison_does (hW.of rfl)
    | with_reducible apply State.hardStack_does (hW.of rfl) | with_reducible apply State.hardDeep_does (hW.of rfl)
    | with_reducible apply State.abandon_does (hW.of rfl) | split
    | (with_reducible refine Does.of_pair (by with_reducible assumption) ?_)
    | (with_reducible intro _; intros; (try dsimp only)))

theorem State.hardData_does {W : Nat} (hW : Covers W 0x2CC00040000) {s₀ : State} (sl : Nat) (inTarget : Bool) {s : State} (hk : Does W s₀ s) :
    Does W s₀ (State.hardData s sl inTarget) := by
  unfold State.hardData
  try dsimp only
  repeat' (first
    | with_reducible assumption | with_reducible apply State.modMemHub_does (hW.of rfl)
    | with_reducible apply State.logError_does (hW.of rfl) | with_reducible apply State.settleHard_does (hW.of rfl))

theorem State.hardCommand_does {W : Nat} (hW : Covers W 0x2CC00040000) {s₀ : State} (sl : Nat) (inTarget : Bool) {s : State} (hk : Does W s₀ s) :
    Does W s₀ (State.hardCommand s sl inTarget) := by
  unfold State.hardCommand
  try dsimp only
  repeat' (first
    | with_reducible assumption | with_reducible apply State.logError_does (hW.of rfl)
    | with_reducible apply State.settleHard_does (hW.of rfl))

theorem State.retrainAsk_does {W : Nat} (hW : Covers W 0x20000000000) {s₀ : State} (h c : Nat) {s : State} (hk : Does W s₀ s) :
    Does W s₀ (State.retrainAsk s h c) := by
  unfold State.retrainAsk
  try dsimp only
  repeat' (first | with_reducible assumption | split | with_reducible apply Does.upd_20000000000 (hW.of rfl))

theorem State.refreshChan_does {W : Nat} (hW : Covers W 0x4000000100) {s₀ : State} (h c : Nat) {s : State} (hk : Does W s₀ s) :
    Does W s₀ (State.refreshChan s h c) := by
  unfold State.refreshChan
  try dsimp only
  repeat' (first
    | with_reducible assumption | with_reducible apply State.bump_does (hW.of rfl)
    | with_reducible apply State.modChan_does (hW.of rfl) | split)

theorem State.takePhase_does {W : Nat} (hW : Covers W 0x4000000000) {s₀ : State} (h c : Nat) {s : State} (hk : Does W s₀ s) :
    Does W s₀ (State.takePhase s h c) := by
  unfold State.takePhase
  try dsimp only
  repeat' (first | with_reducible assumption | with_reducible apply State.modChan_does (hW.of rfl))

theorem State.trainChan_does {W : Nat} (hW : Covers W 0x4000000000) {s₀ : State} (h c : Nat) (attempts : List (List LaneSweep)) (bad : ChState) {s : State} (hk : Does W s₀ s) :
    Does W s₀ (State.trainChan s h c attempts bad) := by
  unfold State.trainChan
  try dsimp only
  repeat' (first
    | with_reducible assumption | with_reducible apply State.modChan_does (hW.of rfl)
    | with_reducible apply State.takePhase_does (hW.of rfl) | split
    | (with_reducible refine Does.of_pair (by with_reducible assumption) ?_)
    | (with_reducible intro _; intros; (try dsimp only)))

theorem State.srEnter_does {W : Nat} (hW : Covers W 0x4000040000) {s₀ : State} (h c : Nat) {s : State} (hk : Does W s₀ s) :
    Does W s₀ (State.srEnter s h c) := by
  unfold State.srEnter
  try dsimp only
  repeat' (first
    | with_reducible assumption | with_reducible apply State.modChan_does (hW.of rfl)
    | (with_reducible apply Does.foldl; intro _ _ _) | split | with_reducible apply Does.upd_40000 (hW.of rfl))

theorem State.srLeave_does {W : Nat} (hW : Covers W 0x24000000100) {s₀ : State} (h c : Nat) {s : State} (hk : Does W s₀ s) :
    Does W s₀ (State.srLeave s h c) := by
  unfold State.srLeave
  try dsimp only
  repeat' (first
    | with_reducible assumption | with_reducible apply State.modChan_does (hW.of rfl)
    | with_reducible apply State.retrainAsk_does (hW.of rfl) | with_reducible apply State.refreshChan_does (hW.of rfl)
    | with_reducible apply State.takePhase_does (hW.of rfl) | split | (with_reducible intro _; intros; (try dsimp only)))

theorem State.fillMasked_does {W : Nat} (hW : Covers W 0x1C00040000) {s₀ : State} (l : List Nat) {s : State} (hk : Does W s₀ s) :
    Does W s₀ (State.fillMasked s l) := by
  unfold State.fillMasked
  try dsimp only
  repeat' (first
    | with_reducible assumption | with_reducible apply State.fillUnits_does (hW.of rfl)
    | (with_reducible apply Does.foldl; intro _ _ _) | with_reducible apply Does.upd_40000 (hW.of rfl))

theorem State.srExit_does {W : Nat} (hW : Covers W 0x25C00040100) {s₀ : State} (h c : Nat) {s : State} (hk : Does W s₀ s) :
    Does W s₀ (State.srExit s h c) := by
  unfold State.srExit
  try dsimp only
  repeat' (first
    | with_reducible assumption | with_reducible apply State.srLeave_does (hW.of rfl)
    | with_reducible apply State.fillMasked_does (hW.of rfl) | split | (with_reducible intro _; intros; (try dsimp only)))

theorem State.wakeChan_does {W : Nat} (hW : Covers W 0x25C00040100) {s₀ : State} (a : Nat) {s : State} (hk : Does W s₀ s) :
    Does W s₀ (State.wakeChan s a) := by
  unfold State.wakeChan
  try dsimp only
  repeat' (first | with_reducible assumption | with_reducible apply State.srExit_does (hW.of rfl))

theorem State.wakeSlot_does {W : Nat} (hW : Covers W 0x25C00040100) {s₀ : State} (e : Nat) {s : State} (hk : Does W s₀ s) :
    Does W s₀ (State.wakeSlot s e) := by
  unfold State.wakeSlot
  try dsimp only
  repeat' (first
    | with_reducible assumption | with_reducible apply State.srExit_does (hW.of rfl)
    | (with_reducible apply Does.foldl; intro _ _ _) | split | (with_reducible intro _; intros; (try dsimp only)))

theorem State.fillSlot_does {W : Nat} (hW : Covers W 0x25C00040100) {s₀ : State} (e first count : Nat) {s : State} (hk : Does W s₀ s) :
    Does W s₀ (State.fillSlot s e first count) := by
  unfold State.fillSlot
  try dsimp only
  repeat' (first
    | with_reducible assumption | with_reducible apply State.fillUnits_does (hW.of rfl)
    | with_reducible apply State.wakeSlot_does (hW.of rfl))

theorem State.putCopy_does {W : Nat} (hW : Covers W 0x25C00040100) {s₀ : State} (l : Nat) (d : Option Line) {s : State} (hk : Does W s₀ s) :
    Does W s₀ (State.putCopy s l d) := by
  unfold State.putCopy
  try dsimp only
  repeat' (first
    | with_reducible assumption | with_reducible apply State.putLine_does (hW.of rfl)
    | with_reducible apply State.putPoison_does (hW.of rfl) | with_reducible apply State.wakeChan_does (hW.of rfl) | split
    | (with_reducible refine Does.of_pair (by with_reducible assumption) ?_)
    | (with_reducible intro _; intros; (try dsimp only)))

theorem State.storeLine_does {W : Nat} (hW : Covers W 0x25C00040100) {s₀ : State} (l : Nat) (d : Line) {s : State} (hk : Does W s₀ s) :
    Does W s₀ (State.storeLine s l d) := by
  unfold State.storeLine
  try dsimp only
  repeat' (first
    | with_reducible assumption | with_reducible apply State.bump_does (hW.of rfl)
    | with_reducible apply State.putLine_does (hW.of rfl) | with_reducible apply State.wakeChan_does (hW.of rfl)
    | with_reducible apply State.putCopy_does (hW.of rfl) | split
    | (with_reducible refine Does.of_pair (by with_reducible assumption) ?_)
    | (with_reducible intro _; intros; (try dsimp only)))

theorem State.writeLine_does {W : Nat} (hW : Covers W 0x2DC00040100) {s₀ : State} (l : Nat) (d : Line) (m : Medium) {s : State} (hk : Does W s₀ s) :
    Does W s₀ (State.writeLine s l d m) := by
  unfold State.writeLine
  try dsimp only
  repeat' (first
    | with_reducible assumption | with_reducible apply State.hardCommand_does (hW.of rfl)
    | with_reducible apply State.storeLine_does (hW.of rfl) | split
    | (with_reducible refine Does.of_pair (by with_reducible assumption) ?_)
    | (with_reducible intro _; intros; (try dsimp only)))

theorem State.storePoison_does {W : Nat} (hW : Covers W 0x25C00040100) {s₀ : State} (l : Nat) {s : State} (hk : Does W s₀ s) :
    Does W s₀ (State.storePoison s l) := by
  unfold State.storePoison
  try dsimp only
  repeat' (first
    | with_reducible assumption | with_reducible apply State.putPoison_does (hW.of rfl)
    | with_reducible apply State.wakeChan_does (hW.of rfl) | with_reducible apply State.putCopy_does (hW.of rfl) | split
    | (with_reducible refine Does.of_pair (by with_reducible assumption) ?_)
    | (with_reducible intro _; intros; (try dsimp only)))

theorem State.liftTake_does {W : Nat} (hW : Covers W 0x25C00040100) {s₀ : State} (l : Nat) (d : Option Line) {s : State} (hk : Does W s₀ s) :
    Does W s₀ (State.liftTake s l d) := by
  unfold State.liftTake
  try dsimp only
  repeat' (first
    | with_reducible assumption | with_reducible apply State.putCopy_does (hW.of rfl) | split
    | (with_reducible refine Does.of_pair (by with_reducible assumption) ?_)
    | (with_reducible intro _; intros; (try dsimp only)))

theorem State.lineLost_does {W : Nat} (hW : Covers W 0x2CC00040000) {s₀ : State} (sl : Nat) (inTarget : Bool) {s : State} (hk : Does W s₀ s) :
    Does W s₀ (State.lineLost s sl inTarget) := by
  unfold State.lineLost
  try dsimp only
  repeat' (first
    | with_reducible assumption | with_reducible apply State.modMemHub_does (hW.of rfl)
    | with_reducible apply State.logError_does (hW.of rfl) | with_reducible apply State.hardData_does (hW.of rfl) | split
    | (with_reducible intro _; intros; (try dsimp only)))

theorem State.loadLine_does {W : Nat} (hW : Covers W 0x2FC00040100) {s₀ : State} (l : Nat) (m : Medium) {s : State} (hk : Does W s₀ s) :
    Does W s₀ (State.loadLine s l m).2 := by
  unfold State.loadLine
  try dsimp only
  repeat' (first
    | with_reducible assumption | with_reducible apply State.bump_does (hW.of rfl)
    | with_reducible apply State.corrected_does (hW.of rfl) | with_reducible apply State.hardCommand_does (hW.of rfl)
    | with_reducible apply State.wakeChan_does (hW.of rfl) | with_reducible apply State.lineLost_does (hW.of rfl) | split
    | (with_reducible refine Does.of_pair (by with_reducible assumption) ?_)
    | (with_reducible intro _; intros; (try dsimp only)))

theorem State.mergeStore_does {W : Nat} (hW : Covers W 0x2FC00040100) {s₀ : State} (l : Nat) (d : Line) (mask : BitVec 64) (m : Medium) {s : State} (hk : Does W s₀ s) :
    Does W s₀ (State.mergeStore s l d mask m).2 := by
  unfold State.mergeStore
  try dsimp only
  repeat' (first
    | with_reducible assumption | with_reducible apply State.storeLine_does (hW.of rfl)
    | with_reducible apply State.storePoison_does (hW.of rfl) | with_reducible apply State.loadLine_does (hW.of rfl) | split
    | (with_reducible refine Does.of_pair (by with_reducible assumption) ?_))

theorem State.relayDeep_does {W : Nat} (hW : Covers W 0x4000040000) {s₀ : State} (h : Nat) {s : State} (hk : Does W s₀ s) :
    Does W s₀ (State.relayDeep s h) := by
  unfold State.relayDeep
  try dsimp only
  repeat' (first
    | with_reducible assumption | with_reducible apply State.modChan_does (hW.of rfl)
    | (with_reducible apply Does.foldl; intro _ _ _) | split | with_reducible apply Does.upd_40000 (hW.of rfl)
    | (with_reducible intro _; intros; (try dsimp only)))

theorem State.laySlots_does {W : Nat} (hW : Covers W 0xC000040000) {s₀ : State} (h : Nat) {s : State} (hk : Does W s₀ s) :
    Does W s₀ (State.laySlots s h) := by
  unfold State.laySlots
  try dsimp only
  repeat' (first
    | with_reducible assumption | with_reducible apply State.modMemHub_does (hW.of rfl)
    | with_reducible apply State.relayDeep_does (hW.of rfl) | (with_reducible apply Does.foldl; intro _ _ _)
    | with_reducible apply Does.upd_40000 (hW.of rfl) | (with_reducible intro _; intros; (try dsimp only)))

theorem State.modEth_does {W : Nat} (hW : Covers W 0x80000000000) {s₀ : State} (e : Bool) (f : EthPort → EthPort) {s : State} (hk : Does W s₀ s) :
    Does W s₀ (State.modEth s e f) := by
  unfold State.modEth
  try dsimp only
  repeat' (first | with_reducible assumption | with_reducible apply Does.upd_80000000000 (hW.of rfl))

theorem State.frameOk_does {W : Nat} (hW : Covers W 0x80000000000) {s₀ : State} (e : Bool) (f : EthFrame) {s : State} (hk : Does W s₀ s) :
    Does W s₀ (State.frameOk s e f).2 := by
  unfold State.frameOk
  try dsimp only
  repeat' (first
    | with_reducible assumption | with_reducible apply State.modEth_does (hW.of rfl) | split
    | (with_reducible intro _; intros; (try dsimp only)))

theorem State.frameIn_does {W : Nat} (hW : Covers W 0x80000000000) {s₀ : State} (e : Bool) (f : EthFrame) {s : State} (hk : Does W s₀ s) :
    Does W s₀ (State.frameIn s e f).2 := by
  unfold State.frameIn
  try dsimp only
  repeat' (first
    | with_reducible assumption | with_reducible apply State.modEth_does (hW.of rfl)
    | with_reducible apply State.frameOk_does (hW.of rfl) | split
    | (with_reducible refine Does.of_pair (by with_reducible assumption) ?_)
    | (with_reducible intro _; intros; (try dsimp only)))

theorem State.sendFrame_does {W : Nat} (hW : Covers W 0x20000080000000000) {s₀ : State} (e : Bool) (f : TxFrame) (m : EthMsg) {s : State} (hk : Does W s₀ s) :
    Does W s₀ (State.sendFrame s e f m) := by
  unfold State.sendFrame
  try dsimp only
  repeat' (first
    | with_reducible assumption | with_reducible apply State.emit_does (hW.of rfl)
    | with_reducible apply State.modEth_does (hW.of rfl) | split | (with_reducible intro _; intros; (try dsimp only)))

theorem State.meterArrive_does {W : Nat} (hW : Covers W 0x1000000000100) {s₀ : State} (h b : Nat) {s : State} (hk : Does W s₀ s) :
    Does W s₀ (State.meterArrive s h b).2 := by
  unfold State.meterArrive
  try dsimp only
  repeat' (first
    | with_reducible assumption | with_reducible apply State.bump_does (hW.of rfl) | split
    | (with_reducible refine Does.of_pair (by with_reducible assumption) ?_)
    | with_reducible apply Does.upd_1000000000000 (hW.of rfl))

theorem State.modQueue_does {W : Nat} (hW : Covers W 0x400000000000) {s₀ : State} (q : Nat) (f : Queue → Queue) {s : State} (hk : Does W s₀ s) :
    Does W s₀ (State.modQueue s q f) := by
  unfold State.modQueue
  try dsimp only
  repeat' (first | with_reducible assumption | with_reducible apply Does.upd_400000000000 (hW.of rfl))

theorem State.queueInit_does {W : Nat} (hW : Covers W 0x400040000000) {s₀ : State} (q credit : Nat) {s : State} (hk : Does W s₀ s) :
    Does W s₀ (State.queueInit s q credit) := by
  unfold State.queueInit
  try dsimp only
  repeat' (first
    | with_reducible assumption | with_reducible apply State.modQueue_does (hW.of rfl)
    | with_reducible apply Does.upd_40000000 (hW.of rfl))

theorem State.qpSend_does {W : Nat} (hW : Covers W 0x20000080000000000) {s₀ : State} (x : Qp) (m : EthMsg) {s : State} (hk : Does W s₀ s) :
    Does W s₀ (State.qpSend s x m) := by
  unfold State.qpSend
  try dsimp only
  repeat' (first | with_reducible assumption | with_reducible apply State.sendFrame_does (hW.of rfl))

theorem State.roceEmit_does {W : Nat} (hW : Covers W 0x20000080000000000) {s₀ : State} (x : Qp) (psn : BitVec 24) (op : RoceOp) {s : State} (hk : Does W s₀ s) :
    Does W s₀ (State.roceEmit s x psn op) := by
  unfold State.roceEmit
  try dsimp only
  repeat' (first | with_reducible assumption | with_reducible apply State.qpSend_does (hW.of rfl))

theorem State.roceSend_does {W : Nat} (hW : Covers W 0x20000180000000000) {s₀ : State} (q : Nat) (op : RoceOp) (access : Option Nat) (slot : Option QSlot) {s : State} (hk : Does W s₀ s) :
    Does W s₀ (State.roceSend s q op access slot) := by
  unfold State.roceSend
  try dsimp only
  repeat' (first
    | with_reducible assumption | with_reducible apply State.roceEmit_does (hW.of rfl) | split
    | (with_reducible refine Does.of_pair (by with_reducible assumption) ?_) | with_reducible apply Does.upd_100000000000 (hW.of rfl))

theorem State.sealRecord_does {W : Nat} (hW : Covers W 0x400000000000) {s₀ : State} (q kind : Nat) (addr : Option Nat) (plain : List Byte) {s : State} (hk : Does W s₀ s) :
    Does W s₀ (State.sealRecord s q kind addr plain).2 := by
  unfold State.sealRecord
  try dsimp only
  repeat' (first
    | with_reducible assumption | with_reducible apply State.modQueue_does (hW.of rfl) | split
    | (with_reducible refine Does.of_pair (by with_reducible assumption) ?_) | (with_reducible intro _; intros; (try dsimp only)))

theorem State.modQp_does {W : Nat} (hW : Covers W 0x100000000000) {s₀ : State} (q : Nat) (f : Qp → Qp) {s : State} (hk : Does W s₀ s) :
    Does W s₀ (State.modQp s q f) := by
  unfold State.modQp
  try dsimp only
  repeat' (first
    | with_reducible assumption | split | (with_reducible refine Does.of_pair (by with_reducible assumption) ?_)
    | with_reducible apply Does.upd_100000000000 (hW.of rfl))

theorem State.writeSlot_does {W : Nat} (hW : Covers W 0x2100058000000E1E0) {s₀ : State} (q : Nat) (slot : QSlot) {s : State} (hk : Does W s₀ s) :
    Does W s₀ (State.writeSlot s q slot) := by
  unfold State.writeSlot
  try dsimp only
  repeat' (first
    | with_reducible assumption | with_reducible apply State.emit_does (hW.of rfl)
    | with_reducible apply State.sendPkt_does (hW.of rfl) | with_reducible apply State.modQueue_does (hW.of rfl)
    | with_reducible apply State.roceSend_does (hW.of rfl) | with_reducible apply State.sealRecord_does (hW.of rfl)
    | with_reducible apply State.modQp_does (hW.of rfl) | split
    | (with_reducible refine Does.of_pair (by with_reducible assumption) ?_)
    | (with_reducible intro _; intros; (try dsimp only)))

theorem State.pushSlot_does {W : Nat} (hW : Covers W 0x2100058000000E1E0) {s₀ : State} (q : Nat) (slot : QSlot) {s : State} (hk : Does W s₀ s) :
    Does W s₀ (State.pushSlot s q slot) := by
  unfold State.pushSlot
  try dsimp only
  repeat' (first
    | with_reducible assumption | with_reducible apply State.modQueue_does (hW.of rfl)
    | with_reducible apply State.writeSlot_does (hW.of rfl) | split
    | (with_reducible refine Does.of_pair (by with_reducible assumption) ?_))

theorem State.writeHeld_does {W : Nat} (hW : Covers W 0x2100058000000E1E0) {s₀ : State} (q : Nat) {s : State} (hk : Does W s₀ s) :
    Does W s₀ (State.writeHeld s q) := by
  unfold State.writeHeld
  try dsimp only
  repeat' (first
    | with_reducible assumption | with_reducible apply State.modQueue_does (hW.of rfl)
    | with_reducible apply State.writeSlot_does (hW.of rfl) | split
    | (with_reducible refine Does.of_pair (by with_reducible assumption) ?_))

theorem State.tagHead_does {W : Nat} (hW : Covers W 0x400000000000) {s₀ : State} (q : Nat) {s : State} (hk : Does W s₀ s) :
    Does W s₀ (State.tagHead s q) := by
  unfold State.tagHead
  try dsimp only
  repeat' (first
    | with_reducible assumption | with_reducible apply State.modQueue_does (hW.of rfl) | split
    | (with_reducible refine Does.of_pair (by with_reducible assumption) ?_))

theorem State.tagHeads_does {W : Nat} (hW : Covers W 0x400000000000) {s₀ : State} (h : Nat) {s : State} (hk : Does W s₀ s) :
    Does W s₀ (State.tagHeads s h) := by
  unfold State.tagHeads
  try dsimp only
  repeat' (first
    | with_reducible assumption | with_reducible apply State.tagHead_does (hW.of rfl)
    | (with_reducible apply Does.foldl; intro _ _ _))

theorem State.completeCmd_does {W : Nat} (hW : Covers W 0x2100058000000E1E0) {s₀ : State} (q id : Nat) (st : PStatus) (result : BitVec 128) (vec : BitVec 256) {s : State} (hk : Does W s₀ s) :
    Does W s₀ (State.completeCmd s q id st result vec) := by
  unfold State.completeCmd
  try dsimp only
  repeat' (first
    | with_reducible assumption | with_reducible apply State.bump_does (hW.of rfl)
    | with_reducible apply State.modQueue_does (hW.of rfl) | with_reducible apply State.pushSlot_does (hW.of rfl)
    | with_reducible apply State.tagHeads_does (hW.of rfl) | split
    | (with_reducible refine Does.of_pair (by with_reducible assumption) ?_))

theorem State.completeStatus_does {W : Nat} (hW : Covers W 0x2100058000000E1E0) {s₀ : State} (q id : Nat) (st : PStatus) {s : State} (hk : Does W s₀ s) :
    Does W s₀ (State.completeStatus s q id st) := by
  unfold State.completeStatus
  try dsimp only
  repeat' (first | with_reducible assumption | with_reducible apply State.completeCmd_does (hW.of rfl))

theorem State.modSession_does {W : Nat} (hW : Covers W 0x200000000000) {s₀ : State} (k : Nat) (f : KmpSession → KmpSession) {s : State} (hk : Does W s₀ s) :
    Does W s₀ (State.modSession s k f) := by
  unfold State.modSession
  try dsimp only
  repeat' (first
    | with_reducible assumption | split | (with_reducible refine Does.of_pair (by with_reducible assumption) ?_)
    | with_reducible apply Does.upd_200000000000 (hW.of rfl))

theorem State.kmpForm_does {W : Nat} (hW : Covers W 0x1000000000000000) {s₀ : State} (ses : Option (Nat × Nat)) (sid : BitVec 32) (type : BitVec 8) (seq : BitVec 32) (what : KmpSays) {s : State} (hk : Does W s₀ s) :
    Does W s₀ (State.kmpForm s ses sid type seq what).2 := by
  unfold State.kmpForm
  try dsimp only
  repeat' (first
    | with_reducible assumption | split | (with_reducible refine Does.of_pair (by with_reducible assumption) ?_)
    | with_reducible apply Does.upd_1000000000000000 (hW.of rfl) | with_reducible exact id | with_reducible exact le_rfl
    | with_reducible exact Nat.le_add_right _ _ | with_reducible exact satAdd_le _ _ | (rw [Ten.dropLinks_epoch])
    | (with_reducible intro _; intros; (try dsimp only)) | exact Nat.le_refl _)

theorem State.kmpPut_does {W : Nat} (hW : Covers W 0x20002080000000000) {s₀ : State} (hdr : KmpHdr) (m : KmpMsg) {s : State} (hk : Does W s₀ s) :
    Does W s₀ (State.kmpPut s hdr m) := by
  unfold State.kmpPut
  try dsimp only
  repeat' (first
    | with_reducible assumption | with_reducible apply State.sendFrame_does (hW.of rfl) | split
    | with_reducible apply Does.upd_2000000000000 (hW.of rfl) | (with_reducible intro _; intros; (try dsimp only)))

theorem State.kmpSend_does {W : Nat} (hW : Covers W 0x21002080000000000) {s₀ : State} (ses : Option (Nat × Nat)) (hdr : KmpHdr) (type : BitVec 8) (r : KmpResp) {s : State} (hk : Does W s₀ s) :
    Does W s₀ (State.kmpSend s ses hdr type r) := by
  unfold State.kmpSend
  try dsimp only
  repeat' (first
    | with_reducible assumption | with_reducible apply State.kmpForm_does (hW.of rfl)
    | with_reducible apply State.kmpPut_does (hW.of rfl) | split
    | (with_reducible refine Does.of_pair (by with_reducible assumption) ?_)
    | (with_reducible intro _; intros; (try dsimp only)))

theorem State.kmpArrive_does {W : Nat} (hW : Covers W 0x1080000000100) {s₀ : State} (hdr : KmpHdr) {s : State} (hk : Does W s₀ s) :
    Does W s₀ (State.kmpArrive s hdr).2 := by
  unfold State.kmpArrive
  try dsimp only
  repeat' (first
    | with_reducible assumption | with_reducible apply State.modEth_does (hW.of rfl)
    | with_reducible apply State.frameIn_does (hW.of rfl) | with_reducible apply State.meterArrive_does (hW.of rfl) | split
    | (with_reducible refine Does.of_pair (by with_reducible assumption) ?_)
    | (with_reducible intro _; intros; (try dsimp only)))

theorem State.kmpArrive_some {W : Nat} (hW : Covers W 0x1080000000100) {s₀ : State} {hdr : KmpHdr} {s t u : State} (hk : Does W s₀ s) (ht : s.kmpArrive hdr = (some t, u)) :
    Does W s₀ t := by
  have hu : u = t := by
    unfold State.kmpArrive at ht
    repeat' (first
      | split at ht
      | (simp only [Prod.mk.injEq, Option.some.injEq, reduceCtorEq, false_and] at ht; done)
      | (simp only [Prod.mk.injEq, Option.some.injEq] at ht; exact ht.2.symm.trans ht.1))
  have h := State.kmpArrive_does hW hdr hk
  rw [ht] at h
  exact hu ▸ h

theorem State.kmpAnswer_does {W : Nat} (hW : Covers W 0x21002280000000000) {s₀ : State} (k : Nat) (x : KmpSession) (hdr : KmpHdr) (type : BitVec 8) (r : KmpResp) {s : State} (hk : Does W s₀ s) :
    Does W s₀ (State.kmpAnswer s k x hdr type r) := by
  unfold State.kmpAnswer
  try dsimp only
  repeat' (first
    | with_reducible assumption | with_reducible apply State.modSession_does (hW.of rfl)
    | with_reducible apply State.kmpForm_does (hW.of rfl) | with_reducible apply State.kmpPut_does (hW.of rfl) | split
    | (with_reducible refine Does.of_pair (by with_reducible assumption) ?_)
    | (with_reducible intro _; intros; (try dsimp only)))

theorem State.kmpLater_does {W : Nat} (hW : Covers W 0x21002280000000000) {s₀ : State} (slot : Nat) (sid : BitVec 32) (hdr : KmpHdr) (type : BitVec 8) (r : KmpResp) {s : State} (hk : Does W s₀ s) :
    Does W s₀ (State.kmpLater s slot sid hdr type r) := by
  unfold State.kmpLater
  try dsimp only
  repeat' (first
    | with_reducible assumption | with_reducible apply State.modSession_does (hW.of rfl)
    | with_reducible apply State.kmpForm_does (hW.of rfl) | with_reducible apply State.kmpPut_does (hW.of rfl) | split
    | (with_reducible refine Does.of_pair (by with_reducible assumption) ?_)
    | (with_reducible intro _; intros; (try dsimp only)))

theorem State.noteMgmt_does {W : Nat} (hW : Covers W 0x400000000000000) {s₀ : State} (x : KmpSession) {s : State} (hk : Does W s₀ s) :
    Does W s₀ (State.noteMgmt s x) := by
  unfold State.noteMgmt
  try dsimp only
  repeat' (first
    | with_reducible assumption | split | (with_reducible refine Does.of_pair (by with_reducible assumption) ?_)
    | with_reducible apply Does.upd_400000000000000 (hW.of rfl) | with_reducible exact id | with_reducible exact le_rfl
    | with_reducible exact Nat.le_add_right _ _ | with_reducible exact laterSerial_le _ _
    | (with_reducible intro _; intros; (try dsimp only)) | exact Nat.le_refl _)

theorem State.kmpRequest_does {W : Nat} (hW : Covers W 0x21403280000000100) {s₀ : State} (hdr : KmpHdr) (type : BitVec 8) (servedWhenFatal : Bool) (perform : Nat → KmpSession → State → Option KmpResp × State) {s : State} (hk : Does W s₀ s)
    (hf_perform : ∀ (v0 : Nat) (v1 : KmpSession) (v2 : State), Does W s₀ v2 → Does W s₀ (perform v0 v1 v2).2) :
    Does W s₀ (State.kmpRequest s hdr type servedWhenFatal perform) := by
  unfold State.kmpRequest
  try dsimp only
  repeat' (first
    | with_reducible assumption | with_reducible apply State.modSession_does (hW.of rfl)
    | with_reducible apply State.kmpPut_does (hW.of rfl) | with_reducible apply State.kmpSend_does (hW.of rfl)
    | with_reducible apply State.kmpArrive_does (hW.of rfl) | with_reducible apply State.kmpAnswer_does (hW.of rfl)
    | with_reducible apply State.noteMgmt_does (hW.of rfl) | with_reducible apply hf_perform | split
    | (with_reducible refine Does.of_pair (by with_reducible assumption) ?_)
    | (with_reducible refine Does.of_fst (by with_reducible assumption) ?_)
    | refine State.kmpArrive_some (hW := hW.of rfl) (hk := ?_) (ht := by with_reducible assumption)
    | (with_reducible intro _; intros; (try dsimp only)))

theorem State.kmpOwn_does {W : Nat} (hW : Covers W 0x21000280000000000) {s₀ : State} (k : Nat) (type : BitVec 8) (keep : Bool) (what : KmpSays) {s : State} (hk : Does W s₀ s) :
    Does W s₀ (State.kmpOwn s k type keep what) := by
  unfold State.kmpOwn
  try dsimp only
  repeat' (first
    | with_reducible assumption | with_reducible apply State.sendFrame_does (hW.of rfl)
    | with_reducible apply State.modSession_does (hW.of rfl) | with_reducible apply State.kmpForm_does (hW.of rfl) | split
    | (with_reducible refine Does.of_pair (by with_reducible assumption) ?_)
    | (with_reducible intro _; intros; (try dsimp only)))

theorem State.sendEvent_does {W : Nat} (hW : Covers W 0x21000280000000000) {s₀ : State} (k : Nat) (e : KmpEvent) {s : State} (hk : Does W s₀ s) :
    Does W s₀ (State.sendEvent s k e) := by
  unfold State.sendEvent
  try dsimp only
  repeat' (first | with_reducible assumption | with_reducible apply State.kmpOwn_does (hW.of rfl))

theorem State.extentEvent_does {W : Nat} (hW : Covers W 0x2100078000000E1E0) {s₀ : State} (host : Nat) (session : Option (Nat × BitVec 32)) (e : ExtEvent) (ends : Bool) {s : State} (hk : Does W s₀ s) :
    Does W s₀ (State.extentEvent s host session e ends) := by
  unfold State.extentEvent
  try dsimp only
  repeat' (first
    | with_reducible assumption | with_reducible apply State.pushSlot_does (hW.of rfl)
    | with_reducible apply State.sendEvent_does (hW.of rfl) | split
    | (with_reducible refine Does.of_pair (by with_reducible assumption) ?_)
    | (with_reducible intro _; intros; (try dsimp only)))

theorem State.sendCoh_does {W : Nat} (hW : Covers W 0x2100000000000E1E0) {s₀ : State} (h : BitVec 10) (m : CohMsg) {s : State} (hk : Does W s₀ s) :
    Does W s₀ (State.sendCoh s h m) := by
  unfold State.sendCoh
  try dsimp only
  repeat' (first
    | with_reducible assumption | with_reducible apply State.emit_does (hW.of rfl)
    | with_reducible apply State.sendPkt_does (hW.of rfl) | split
    | (with_reducible refine Does.of_pair (by with_reducible assumption) ?_))

theorem State.reply_does {W : Nat} (hW : Covers W 0x2100000000000E1E0) {s₀ : State} (h : BitVec 10) (tag : BitVec 12) (op : CohOp) (state : Moesi) (status : PStatus) (data : Option Line) {s : State} (hk : Does W s₀ s) :
    Does W s₀ (State.reply s h tag op state status data) := by
  unfold State.reply
  try dsimp only
  repeat' (first | with_reducible assumption | with_reducible apply State.sendCoh_does (hW.of rfl))

theorem State.nackRetry_does {W : Nat} (hW : Covers W 0x2100000000000E1E0) {s₀ : State} (h : BitVec 10) (tag : BitVec 12) (backoff : BitVec 4) (load3 : Bool) {s : State} (hk : Does W s₀ s) :
    Does W s₀ (State.nackRetry s h tag backoff load3) := by
  unfold State.nackRetry
  try dsimp only
  repeat' (first | with_reducible assumption | with_reducible apply State.sendCoh_does (hW.of rfl) | split)

theorem State.freeBackoff_does {W : Nat} (hW : Covers W 0x40000000000000000) {s₀ : State} {s : State} (hk : Does W s₀ s) :
    Does W s₀ (State.freeBackoff s).2 := by
  unfold State.freeBackoff
  try dsimp only
  repeat' (first
    | with_reducible assumption | with_reducible apply State.draw_does (hW.of rfl) | split
    | (with_reducible refine Does.of_pair (by with_reducible assumption) ?_))

theorem State.setWay_does {W : Nat} (hW : Covers W 0x800000) {s₀ : State} (key : Nat) (e : DirEntry) {s : State} (hk : Does W s₀ s) :
    Does W s₀ (State.setWay s key e) := by
  unfold State.setWay
  try dsimp only
  repeat' (first
    | with_reducible assumption | split | (with_reducible refine Does.of_pair (by with_reducible assumption) ?_)
    | with_reducible apply Does.upd_800000 (hW.of rfl) | (with_reducible intro _; intros; (try dsimp only)))

theorem State.modCohHub_does {W : Nat} (hW : Covers W 0x8000000) {s₀ : State} (n : Nat) (f : CohHub → CohHub) {s : State} (hk : Does W s₀ s) :
    Does W s₀ (State.modCohHub s n f) := by
  unfold State.modCohHub
  try dsimp only
  repeat' (first | with_reducible assumption | with_reducible apply Does.upd_8000000 (hW.of rfl))

theorem State.setOrder_does {W : Nat} (hW : Covers W 0x1000000) {s₀ : State} (l : Nat) (o : LineOrd) {s : State} (hk : Does W s₀ s) :
    Does W s₀ (State.setOrder s l o) := by
  unfold State.setOrder
  try dsimp only
  repeat' (first | with_reducible assumption | split | with_reducible apply Does.upd_1000000 (hW.of rfl))

theorem State.setTx_does {W : Nat} (hW : Covers W 0x1000000) {s₀ : State} (l : Nat) (t : Option Tx) {s : State} (hk : Does W s₀ s) :
    Does W s₀ (State.setTx s l t) := by
  unfold State.setTx
  try dsimp only
  repeat' (first | with_reducible assumption | with_reducible apply State.setOrder_does (hW.of rfl))

theorem State.snoop_does {W : Nat} (hW : Covers W 0x2100000002000E1E0) {s₀ : State} (hub l h : Nat) (op : CohOp) (mode : SnpMode) (req : BitVec 11) (tag : BitVec 12) (asOwner : Bool) {s : State} (hk : Does W s₀ s) :
    Does W s₀ (State.snoop s hub l h op mode req tag asOwner).2 := by
  unfold State.snoop
  try dsimp only
  repeat' (first
    | with_reducible assumption | with_reducible apply State.bump_does (hW.of rfl)
    | with_reducible apply State.sendCoh_does (hW.of rfl) | with_reducible apply Does.getD | split
    | with_reducible apply Does.upd_20000000 (hW.of rfl) | (with_reducible intro _; intros; (try dsimp only)))

theorem State.snoopAll_does {W : Nat} (hW : Covers W 0x2100000002000E1E0) {s₀ : State} (hub l : Nat) (op : CohOp) (mode : SnpMode) (req : BitVec 11) (tag : BitVec 12) :
    ∀ (l0 : List Nat), ∀ {s : State}, Does W s₀ s → Does W s₀ (State.snoopAll s hub l op mode req tag l0).2 := by
  intro l0
  induction l0 generalizing hub l op mode req tag with
  | nil =>
    intro s hk
    unfold State.snoopAll
    try dsimp only
    repeat' (first
      | with_reducible assumption | with_reducible apply State.snoop_does (hW.of rfl) | split
      | (with_reducible refine Does.of_pair (by with_reducible assumption) ?_))
  | cons x r ih =>
    intro s hk
    unfold State.snoopAll
    try dsimp only
    repeat' (first
      | with_reducible apply ih | with_reducible assumption | with_reducible apply State.snoop_does (hW.of rfl) | split
      | (with_reducible refine Does.of_pair (by with_reducible assumption) ?_))

theorem State.countPoison_does {W : Nat} (hW : Covers W 0x8000000) {s₀ : State} (hub h : Nat) {s : State} (hk : Does W s₀ s) :
    Does W s₀ (State.countPoison s hub h) := by
  unfold State.countPoison
  try dsimp only
  repeat' (first
    | with_reducible assumption | with_reducible apply State.modCohHub_does (hW.of rfl) | split
    | (with_reducible intro _; intros; (try dsimp only)))

theorem State.orphan_does {W : Nat} (hW : Covers W 0x20000000000) {s₀ : State} (hub l h : Nat) {s : State} (hk : Does W s₀ s) :
    Does W s₀ (State.orphan s hub l h) := by
  unfold State.orphan
  try dsimp only
  repeat' (first | with_reducible assumption | with_reducible apply State.logError_does (hW.of rfl))

theorem State.losePoison_does {W : Nat} (hW : Covers W 0x25C08040100) {s₀ : State} (hub l h : Nat) {s : State} (hk : Does W s₀ s) :
    Does W s₀ (State.losePoison s hub l h) := by
  unfold State.losePoison
  try dsimp only
  repeat' (first
    | with_reducible assumption | with_reducible apply State.storePoison_does (hW.of rfl)
    | with_reducible apply State.countPoison_does (hW.of rfl) | with_reducible apply State.orphan_does (hW.of rfl) | split)

theorem State.accLine_does {W : Nat} (hW : Covers W 0x40000000) {s₀ : State} (id i : Nat) (data : Line) (poison : Bool) {s : State} (hk : Does W s₀ s) :
    Does W s₀ (State.accLine s id i data poison) := by
  unfold State.accLine
  try dsimp only
  repeat' (first
    | with_reducible assumption | split | (with_reducible refine Does.of_pair (by with_reducible assumption) ?_)
    | with_reducible apply Does.upd_40000000 (hW.of rfl))

theorem State.atomRelease_does {W : Nat} (hW : Covers W 0x25C04840100) {s₀ : State} (l : Nat) {s : State} (hk : Does W s₀ s) :
    Does W s₀ (State.atomRelease s l) := by
  unfold State.atomRelease
  try dsimp only
  repeat' (first
    | with_reducible assumption | with_reducible apply State.storeLine_does (hW.of rfl) | split
    | (with_reducible refine Does.of_pair (by with_reducible assumption) ?_) | with_reducible apply Does.upd_4000000 (hW.of rfl)
    | with_reducible apply Does.upd_800000 (hW.of rfl) | (with_reducible intro _; intros; (try dsimp only)))

theorem State.atomReleaseClasses_does {W : Nat} (hW : Covers W 0x25C04840100) {s₀ : State} (set : BitVec 16) {s : State} (hk : Does W s₀ s) :
    Does W s₀ (State.atomReleaseClasses s set) := by
  unfold State.atomReleaseClasses
  try dsimp only
  repeat' (first
    | with_reducible assumption | with_reducible apply State.atomRelease_does (hW.of rfl)
    | (with_reducible apply Does.foldl; intro _ _ _))

theorem State.atomRoom_does {W : Nat} (hW : Covers W 0x25C04840100) {s₀ : State} (hub : Nat) {s : State} (hk : Does W s₀ s) :
    Does W s₀ (State.atomRoom s hub) := by
  unfold State.atomRoom
  try dsimp only
  repeat' (first
    | with_reducible assumption | with_reducible apply State.atomRelease_does (hW.of rfl)
    | (with_reducible apply Does.foldl; intro _ _ _) | split | (with_reducible refine Does.of_pair (by with_reducible assumption) ?_))

theorem State.atomPerform_does {W : Nat} (hW : Covers W 0x44000000) {s₀ : State} (l id : Nat) {s : State} (hk : Does W s₀ s) :
    Does W s₀ (State.atomPerform s l id) := by
  unfold State.atomPerform
  try dsimp only
  repeat' (first
    | with_reducible assumption | with_reducible apply State.accLine_does (hW.of rfl) | split
    | (with_reducible refine Does.of_pair (by with_reducible assumption) ?_) | with_reducible apply Does.upd_44000000 (hW.of rfl))

theorem State.atomTake_does {W : Nat} (hW : Covers W 0x25C44840100) {s₀ : State} (hub l key id : Nat) (e : DirEntry) (d : Line) {s : State} (hk : Does W s₀ s) :
    Does W s₀ (State.atomTake s hub l key id e d) := by
  unfold State.atomTake
  try dsimp only
  repeat' (first
    | with_reducible assumption | with_reducible apply State.setWay_does (hW.of rfl)
    | with_reducible apply State.atomRoom_does (hW.of rfl) | with_reducible apply State.atomPerform_does (hW.of rfl)
    | with_reducible apply Does.upd_4000000 (hW.of rfl))

theorem State.txReply_does {W : Nat} (hW : Covers W 0x2100000000000E1E0) {s₀ : State} (t : Tx) (h : BitVec 10) (tag : BitVec 12) (op : CohOp) (state : Moesi) (data : Option Line) {s : State} (hk : Does W s₀ s) :
    Does W s₀ (State.txReply s t h tag op state data) := by
  unfold State.txReply
  try dsimp only
  repeat' (first
    | with_reducible assumption | with_reducible apply State.reply_does (hW.of rfl) | split
    | (with_reducible intro _; intros; (try dsimp only)))

theorem State.closeTx_does {W : Nat} (hW : Covers W 0x2100000000180E1E0) {s₀ : State} (hub l : Nat) {s : State} (hk : Does W s₀ s) :
    Does W s₀ (State.closeTx s hub l) := by
  unfold State.closeTx
  try dsimp only
  repeat' (first
    | with_reducible assumption | with_reducible apply State.reply_does (hW.of rfl)
    | with_reducible apply State.setTx_does (hW.of rfl) | (with_reducible apply Does.foldl; intro _ _ _) | split
    | (with_reducible refine Does.of_pair (by with_reducible assumption) ?_) | with_reducible apply Does.upd_800000 (hW.of rfl)
    | (with_reducible intro _; intros; (try dsimp only)))

theorem State.tellPoison_does {W : Nat} (hW : Covers W 0x21000025C4004E1E0) {s₀ : State} (l : Nat) (r : LineReq) (dead : Bool) {s : State} (hk : Does W s₀ s) :
    Does W s₀ (State.tellPoison s l r dead) := by
  unfold State.tellPoison
  try dsimp only
  repeat' (first
    | with_reducible assumption | with_reducible apply State.liftTake_does (hW.of rfl)
    | with_reducible apply State.reply_does (hW.of rfl) | with_reducible apply State.accLine_does (hW.of rfl) | split
    | (with_reducible refine Does.of_pair (by with_reducible assumption) ?_)
    | (with_reducible intro _; intros; (try dsimp only)))

theorem State.poisonRound_does {W : Nat} (hW : Covers W 0x21000025C6184E1E0) {s₀ : State} (hub l : Nat) (t : Tx) {s : State} (hk : Does W s₀ s) :
    Does W s₀ (State.poisonRound s hub l t) := by
  unfold State.poisonRound
  try dsimp only
  repeat' (first
    | with_reducible assumption | with_reducible apply State.setTx_does (hW.of rfl)
    | with_reducible apply State.snoopAll_does (hW.of rfl) | with_reducible apply State.closeTx_does (hW.of rfl)
    | with_reducible apply State.tellPoison_does (hW.of rfl) | split
    | (with_reducible refine Does.of_pair (by with_reducible assumption) ?_) | with_reducible apply Does.upd_800000 (hW.of rfl))

theorem State.serveMemory_does {W : Nat} (hW : Covers W 0x21000025C4484E1E0) {s₀ : State} (hub key l : Nat) (entry : Option DirEntry) (t : Tx) (d : Line) {s : State} (hk : Does W s₀ s) :
    Does W s₀ (State.serveMemory s hub key l entry t d) := by
  unfold State.serveMemory
  generalize t.req.kind = k
  generalize t.req.from_ = f
  cases k <;> cases f <;> dsimp only
  all_goals repeat' (first
    | with_reducible assumption | with_reducible apply State.liftTake_does (hW.of rfl)
    | with_reducible apply State.setWay_does (hW.of rfl) | with_reducible apply State.accLine_does (hW.of rfl)
    | with_reducible apply State.atomTake_does (hW.of rfl) | with_reducible apply State.txReply_does (hW.of rfl) | split
    | (with_reducible refine Does.of_pair (by with_reducible assumption) ?_) | with_reducible apply Does.upd_800000 (hW.of rfl)
    | (with_reducible intro _; intros; (try dsimp only)))

theorem State.liftForwarded_does {W : Nat} (hW : Covers W 0x2FC00040100) {s₀ : State} (l : Nat) (entry : Option DirEntry) (t : Tx) {s : State} (hk : Does W s₀ s) :
    Does W s₀ (State.liftForwarded s l entry t) := by
  unfold State.liftForwarded
  try dsimp only
  repeat' (first
    | with_reducible assumption | with_reducible apply State.liftTake_does (hW.of rfl)
    | with_reducible apply State.loadLine_does (hW.of rfl) | split
    | (with_reducible refine Does.of_pair (by with_reducible assumption) ?_)
    | (with_reducible intro _; intros; (try dsimp only)))

theorem State.finishForwarded_does {W : Nat} (hW : Covers W 0x2100002FC4C84E1E0) {s₀ : State} (hub key l : Nat) (entry : Option DirEntry) (t : Tx) {s : State} (hk : Does W s₀ s) :
    Does W s₀ (State.finishForwarded s hub key l entry t) := by
  unfold State.finishForwarded
  generalize t.req.kind = k
  generalize t.req.from_ = f
  cases k <;> cases f <;> dsimp only
  all_goals repeat' (first
    | with_reducible assumption | with_reducible apply State.bump_does (hW.of rfl)
    | with_reducible apply State.setWay_does (hW.of rfl) | with_reducible apply State.losePoison_does (hW.of rfl)
    | with_reducible apply State.accLine_does (hW.of rfl) | with_reducible apply State.atomTake_does (hW.of rfl)
    | with_reducible apply State.txReply_does (hW.of rfl) | with_reducible apply State.liftForwarded_does (hW.of rfl)
    | with_reducible apply Does.getD | split | (with_reducible refine Does.of_pair (by with_reducible assumption) ?_)
    | with_reducible apply Does.upd_800000 (hW.of rfl) | (with_reducible intro _; intros; (try dsimp only)))

theorem State.finishRecovery_does {W : Nat} (hW : Covers W 0x25C08840100) {s₀ : State} (hub key l : Nat) (entry : Option DirEntry) (t : Tx) {s : State} (hk : Does W s₀ s) :
    Does W s₀ (State.finishRecovery s hub key l entry t) := by
  unfold State.finishRecovery
  try dsimp only
  repeat' (first
    | with_reducible assumption | with_reducible apply State.setWay_does (hW.of rfl)
    | with_reducible apply State.losePoison_does (hW.of rfl) | (with_reducible apply Does.foldl; intro _ _ _) | split
    | (with_reducible refine Does.of_pair (by with_reducible assumption) ?_) | with_reducible apply Does.upd_800000 (hW.of rfl))

theorem State.finishTx_does {W : Nat} (hW : Covers W 0x2100002FC6D84E1E0) {s₀ : State} (hub l : Nat) (t : Tx) (m : Medium) {s : State} (hk : Does W s₀ s) :
    Does W s₀ (State.finishTx s hub l t m) := by
  unfold State.finishTx
  try dsimp only
  repeat' (first
    | with_reducible assumption | with_reducible apply State.writeLine_does (hW.of rfl)
    | with_reducible apply State.loadLine_does (hW.of rfl) | with_reducible apply State.mergeStore_does (hW.of rfl)
    | with_reducible apply State.setWay_does (hW.of rfl) | with_reducible apply State.losePoison_does (hW.of rfl)
    | with_reducible apply State.accLine_does (hW.of rfl) | with_reducible apply State.txReply_does (hW.of rfl)
    | with_reducible apply State.closeTx_does (hW.of rfl) | with_reducible apply State.poisonRound_does (hW.of rfl)
    | with_reducible apply State.serveMemory_does (hW.of rfl) | with_reducible apply State.finishForwarded_does (hW.of rfl)
    | with_reducible apply State.finishRecovery_does (hW.of rfl) | with_reducible apply Does.getD | split
    | (with_reducible refine Does.of_pair (by with_reducible assumption) ?_) | with_reducible apply Does.upd_800000 (hW.of rfl)
    | (with_reducible intro _; intros; (try dsimp only)))

theorem State.sendRound_does {W : Nat} (hW : Covers W 0x2100000002100E1E0) {s₀ : State} (hub l : Nat) (t : Tx) (owner : Option (Nat × CohOp × SnpMode)) (op : CohOp) (mode : SnpMode) (others : List Nat) {s : State} (hk : Does W s₀ s) :
    Does W s₀ (State.sendRound s hub l t owner op mode others).2 := by
  unfold State.sendRound
  try dsimp only
  repeat' (first
    | with_reducible assumption | with_reducible apply State.setTx_does (hW.of rfl)
    | with_reducible apply State.snoop_does (hW.of rfl) | with_reducible apply State.snoopAll_does (hW.of rfl) | split
    | (with_reducible refine Does.of_pair (by with_reducible assumption) ?_))

theorem State.refuseWay_does {W : Nat} (hW : Covers W 0x2100000000300E1E0) {s₀ : State} (hub l : Nat) (h : BitVec 10) (tag : BitVec 12) {s : State} (hk : Does W s₀ s) :
    Does W s₀ (State.refuseWay s hub l h tag) := by
  unfold State.refuseWay
  try dsimp only
  repeat' (first
    | with_reducible assumption | with_reducible apply State.bump_does (hW.of rfl)
    | with_reducible apply State.nackRetry_does (hW.of rfl) | with_reducible apply State.setTx_does (hW.of rfl) | split
    | (with_reducible refine Does.of_pair (by with_reducible assumption) ?_) | with_reducible apply Does.upd_2000000 (hW.of rfl))

theorem State.dropRetry_does {W : Nat} (hW : Covers W 0x2000000) {s₀ : State} (hub l : Nat) (a : BitVec 11) {s : State} (hk : Does W s₀ s) :
    Does W s₀ (State.dropRetry s hub l a) := by
  unfold State.dropRetry
  try dsimp only
  repeat' (first | with_reducible assumption | split | with_reducible apply Does.upd_2000000 (hW.of rfl))

theorem State.recoverWithin_does {W : Nat} (hW : Covers W 0x2100000002100E1E0) {s₀ : State} (hub l : Nat) (t : Tx) (dead : Nat) (live : List Nat) {s : State} (hk : Does W s₀ s) :
    Does W s₀ (State.recoverWithin s hub l t dead live) := by
  unfold State.recoverWithin
  try dsimp only
  repeat' (first
    | with_reducible assumption | with_reducible apply State.setTx_does (hW.of rfl)
    | with_reducible apply State.snoopAll_does (hW.of rfl) | split
    | (with_reducible refine Does.of_pair (by with_reducible assumption) ?_))

theorem State.openEvict_does {W : Nat} (hW : Covers W 0x2100002FC6D84E1E0) {s₀ : State} (hub v : Nat) (m : Medium) {s : State} (hk : Does W s₀ s) :
    Does W s₀ (State.openEvict s hub v m) := by
  unfold State.openEvict
  try dsimp only
  repeat' (first
    | with_reducible assumption | with_reducible apply State.bump_does (hW.of rfl)
    | with_reducible apply State.setTx_does (hW.of rfl) | with_reducible apply State.losePoison_does (hW.of rfl)
    | with_reducible apply State.atomRelease_does (hW.of rfl) | with_reducible apply State.finishTx_does (hW.of rfl)
    | with_reducible apply State.sendRound_does (hW.of rfl) | with_reducible apply State.recoverWithin_does (hW.of rfl) | split
    | (with_reducible refine Does.of_pair (by with_reducible assumption) ?_)
    | (with_reducible intro _; intros; (try dsimp only)))

theorem State.takeWay_does {W : Nat} (hW : Covers W 0x2100002FC6F84E1E0) {s₀ : State} (hub l : Nat) (t : Tx) (m : Medium) {s : State} (hk : Does W s₀ s) :
    Does W s₀ (State.takeWay s hub l t m) := by
  unfold State.takeWay
  try dsimp only
  repeat' (first
    | with_reducible assumption | with_reducible apply State.setTx_does (hW.of rfl)
    | with_reducible apply State.finishTx_does (hW.of rfl) | with_reducible apply State.refuseWay_does (hW.of rfl)
    | with_reducible apply State.dropRetry_does (hW.of rfl) | with_reducible apply State.openEvict_does (hW.of rfl) | split
    | (with_reducible refine Does.of_pair (by with_reducible assumption) ?_))

theorem State.snoopOrFinish_does {W : Nat} (hW : Covers W 0x2100002FC6D84E1E0) {s₀ : State} (hub l : Nat) (t : Tx) (m : Medium) (owner : Option (Nat × CohOp × SnpMode)) (op : CohOp) (mode : SnpMode) (others : List Nat) {s : State} (hk : Does W s₀ s) :
    Does W s₀ (State.snoopOrFinish s hub l t m owner op mode others) := by
  unfold State.snoopOrFinish
  try dsimp only
  repeat' (first
    | with_reducible assumption | with_reducible apply State.finishTx_does (hW.of rfl)
    | with_reducible apply State.sendRound_does (hW.of rfl) | split
    | (with_reducible refine Does.of_pair (by with_reducible assumption) ?_))

theorem State.dispatchCopy_does {W : Nat} (hW : Covers W 0x2100002FC6D84E1E0) {s₀ : State} (hub l : Nat) (t : Tx) (m : Medium) (e : DirEntry) (owns : Bool) {s : State} (hk : Does W s₀ s) :
    Does W s₀ (State.dispatchCopy s hub l t m e owns) := by
  unfold State.dispatchCopy
  try dsimp only
  repeat' (first
    | with_reducible assumption | with_reducible apply State.setTx_does (hW.of rfl)
    | with_reducible apply State.poisonRound_does (hW.of rfl) | with_reducible apply State.finishTx_does (hW.of rfl)
    | with_reducible apply State.snoopOrFinish_does (hW.of rfl) | split
    | (with_reducible refine Does.of_pair (by with_reducible assumption) ?_))

theorem State.dispatchLive_does {W : Nat} (hW : Covers W 0x2100002FC6D84E1E0) {s₀ : State} (hub l : Nat) (t : Tx) (m : Medium) (e : DirEntry) {s : State} (hk : Does W s₀ s) :
    Does W s₀ (State.dispatchLive s hub l t m e) := by
  unfold State.dispatchLive
  try dsimp only
  repeat' (first
    | with_reducible assumption | with_reducible apply State.finishTx_does (hW.of rfl)
    | with_reducible apply State.snoopOrFinish_does (hW.of rfl) | with_reducible apply State.dispatchCopy_does (hW.of rfl) | split
    | (with_reducible refine Does.of_pair (by with_reducible assumption) ?_))

theorem State.dispatchLost_does {W : Nat} (hW : Covers W 0x2100002FC6D84E1E0) {s₀ : State} (hub l : Nat) (t : Tx) (m : Medium) (k : Nat) (e : DirEntry) {s : State} (hk : Does W s₀ s) :
    Does W s₀ (State.dispatchLost s hub l t m k e) := by
  unfold State.dispatchLost
  try dsimp only
  repeat' (first
    | with_reducible assumption | with_reducible apply State.losePoison_does (hW.of rfl)
    | with_reducible apply State.poisonRound_does (hW.of rfl) | with_reducible apply State.finishTx_does (hW.of rfl)
    | with_reducible apply State.recoverWithin_does (hW.of rfl) | split
    | (with_reducible refine Does.of_pair (by with_reducible assumption) ?_) | with_reducible apply Does.upd_800000 (hW.of rfl))

theorem State.dispatchTx_does {W : Nat} (hW : Covers W 0x2100002FC6F84E1E0) {s₀ : State} (hub l : Nat) (t : Tx) (m : Medium) {s : State} (hk : Does W s₀ s) :
    Does W s₀ (State.dispatchTx s hub l t m) := by
  unfold State.dispatchTx
  try dsimp only
  repeat' (first
    | with_reducible assumption | with_reducible apply State.setWay_does (hW.of rfl)
    | with_reducible apply State.finishTx_does (hW.of rfl) | with_reducible apply State.takeWay_does (hW.of rfl)
    | with_reducible apply State.dispatchLive_does (hW.of rfl) | with_reducible apply State.dispatchLost_does (hW.of rfl) | split
    | (with_reducible refine Does.of_pair (by with_reducible assumption) ?_))

theorem State.serveUntracked_does {W : Nat} (hW : Covers W 0x2100002FC4004E1E0) {s₀ : State} (l : Nat) (r : LineReq) (m : Medium) {s : State} (hk : Does W s₀ s) :
    Does W s₀ (State.serveUntracked s l r m) := by
  unfold State.serveUntracked
  generalize r.kind = k
  generalize r.from_ = f
  cases k <;> cases f <;> dsimp only
  all_goals repeat' (first
    | with_reducible assumption | with_reducible apply State.writeLine_does (hW.of rfl)
    | with_reducible apply State.liftTake_does (hW.of rfl) | with_reducible apply State.loadLine_does (hW.of rfl)
    | with_reducible apply State.mergeStore_does (hW.of rfl) | with_reducible apply State.reply_does (hW.of rfl)
    | with_reducible apply State.accLine_does (hW.of rfl) | with_reducible apply State.tellPoison_does (hW.of rfl) | split
    | (with_reducible refine Does.of_pair (by with_reducible assumption) ?_)
    | (with_reducible intro _; intros; (try dsimp only)))

theorem State.clearRetry_does {W : Nat} (hW : Covers W 0x2000000) {s₀ : State} (hub l : Nat) (a : BitVec 11) {s : State} (hk : Does W s₀ s) :
    Does W s₀ (State.clearRetry s hub l a) := by
  unfold State.clearRetry
  try dsimp only
  repeat' (first | with_reducible assumption | with_reducible apply State.dropRetry_does (hW.of rfl) | split)

theorem State.openHead_does {W : Nat} (hW : Covers W 0x2100002FC6F84E1E0) {s₀ : State} (l : Nat) (m : Medium) {s : State} (hk : Does W s₀ s) :
    Does W s₀ (State.openHead s l m) := by
  unfold State.openHead
  try dsimp only
  repeat' (first
    | with_reducible assumption | with_reducible apply State.setOrder_does (hW.of rfl)
    | with_reducible apply State.setTx_does (hW.of rfl) | with_reducible apply State.atomRelease_does (hW.of rfl)
    | with_reducible apply State.atomPerform_does (hW.of rfl) | with_reducible apply State.dispatchTx_does (hW.of rfl)
    | with_reducible apply State.serveUntracked_does (hW.of rfl) | with_reducible apply State.clearRetry_does (hW.of rfl) | split
    | (with_reducible refine Does.of_pair (by with_reducible assumption) ?_))

theorem State.advanceTx_does {W : Nat} (hW : Covers W 0x2100002FC6F84E1E0) {s₀ : State} (hub l : Nat) (m : Medium) {s : State} (hk : Does W s₀ s) :
    Does W s₀ (State.advanceTx s hub l m) := by
  unfold State.advanceTx
  try dsimp only
  repeat' (first
    | with_reducible assumption | with_reducible apply State.setTx_does (hW.of rfl)
    | with_reducible apply State.poisonRound_does (hW.of rfl) | with_reducible apply State.finishRecovery_does (hW.of rfl)
    | with_reducible apply State.finishTx_does (hW.of rfl) | with_reducible apply State.dispatchTx_does (hW.of rfl) | split
    | (with_reducible refine Does.of_pair (by with_reducible assumption) ?_))

theorem State.settle_does {W : Nat} (hW : Covers W 0x2100002FC6F84E1E0) {s₀ : State} (m : Medium) :
    ∀ (l0 : Nat), ∀ {s : State}, Does W s₀ s → Does W s₀ (State.settle m l0 s) := by
  intro l0
  induction l0 generalizing m with
  | zero =>
    intro s hk
    unfold State.settle
    try dsimp only
    repeat' (first
      | with_reducible assumption | with_reducible apply State.setTx_does (hW.of rfl)
      | with_reducible apply State.finishTx_does (hW.of rfl) | with_reducible apply State.takeWay_does (hW.of rfl) | split
      | (with_reducible refine Does.of_pair (by with_reducible assumption) ?_))
  | succ r ih =>
    intro s hk
    unfold State.settle
    try dsimp only
    repeat' (first
      | with_reducible apply ih | with_reducible assumption | with_reducible apply State.setTx_does (hW.of rfl)
      | with_reducible apply State.finishTx_does (hW.of rfl) | with_reducible apply State.takeWay_does (hW.of rfl) | split
      | (with_reducible refine Does.of_pair (by with_reducible assumption) ?_))

theorem State.settled_does {W : Nat} (hW : Covers W 0x2100002FC6F84E1E0) {s₀ : State} (m : Medium) {s : State} (hk : Does W s₀ s) :
    Does W s₀ (State.settled s m) := by
  unfold State.settled
  try dsimp only
  repeat' (first | with_reducible assumption | with_reducible apply State.settle_does (hW.of rfl))

theorem State.takeReq_does {W : Nat} (hW : Covers W 0x2100002FC6F84E1E0) {s₀ : State} (l : Nat) (r : LineReq) (m : Medium) {s : State} (hk : Does W s₀ s) :
    Does W s₀ (State.takeReq s l r m) := by
  unfold State.takeReq
  try dsimp only
  repeat' (first
    | with_reducible assumption | with_reducible apply State.setOrder_does (hW.of rfl)
    | with_reducible apply State.serveUntracked_does (hW.of rfl) | with_reducible apply State.openHead_does (hW.of rfl) | split
    | (with_reducible intro _; intros; (try dsimp only)))

theorem State.admitLines_does {W : Nat} (hW : Covers W 0x2100002FC6F84E1E0) {s₀ : State} (id : Nat) (write atomic : Bool) (pieces : List PStatus) (media : List Medium) :
    ∀ (l0 : List (AccLine × Nat)), ∀ {s : State}, Does W s₀ s → Does W s₀ (State.admitLines s id write atomic pieces media l0) := by
  intro l0
  induction l0 generalizing id write atomic pieces media with
  | nil =>
    intro s hk
    unfold State.admitLines
    try dsimp only
    repeat' (first
      | with_reducible assumption | with_reducible apply State.takeReq_does (hW.of rfl) | split
      | (with_reducible refine Does.of_pair (by with_reducible assumption) ?_)
      | (with_reducible intro _; intros; (try dsimp only)))
  | cons x r ih =>
    intro s hk
    unfold State.admitLines
    try dsimp only
    repeat' (first
      | with_reducible apply ih | with_reducible assumption | with_reducible apply State.takeReq_does (hW.of rfl) | split
      | (with_reducible refine Does.of_pair (by with_reducible assumption) ?_)
      | (with_reducible intro _; intros; (try dsimp only)))

theorem State.admitAll_does {W : Nat} (hW : Covers W 0x2100002FC6F84E1E0) {s₀ : State} (id : Nat) (write atomic : Bool) (pieces : List PStatus) (media : List Medium) (ls : List AccLine) {s : State} (hk : Does W s₀ s) :
    Does W s₀ (State.admitAll s id write atomic pieces media ls) := by
  unfold State.admitAll
  try dsimp only
  repeat' (first | with_reducible assumption | with_reducible apply State.admitLines_does (hW.of rfl))

theorem State.admitAccess_does {W : Nat} (hW : Covers W 0x2100002FC6F84E1E0) {s₀ : State} (id : Nat) (a : Access) (atomic : Bool) (asked : List AskedLine) (media : List Medium) {s : State} (hk : Does W s₀ s) :
    Does W s₀ (State.admitAccess s id a atomic asked media) := by
  unfold State.admitAccess
  try dsimp only
  repeat' (first
    | with_reducible assumption | with_reducible apply State.bump_does (hW.of rfl)
    | with_reducible apply State.admitAll_does (hW.of rfl) | split
    | (with_reducible refine Does.of_pair (by with_reducible assumption) ?_)
    | with_reducible apply Does.upd_40000000 (hW.of rfl) | (with_reducible intro _; intros; (try dsimp only)))

theorem State.startLines_does {W : Nat} (hW : Covers W 0x2100002FCEF84E1E0) {s₀ : State} (owner : AccOwner) (write atomic : Bool) (asked : List AskedLine) (data : List Byte) (atop : BitVec 8) (operand compare : BitVec 128) (media : List Medium) {s : State} (hk : Does W s₀ s) :
    Does W s₀ (State.startLines s owner write atomic asked data atop operand compare media) := by
  unfold State.startLines
  try dsimp only
  repeat' (first
    | with_reducible assumption | with_reducible apply State.admitAccess_does (hW.of rfl)
    | with_reducible apply Does.upd_80000000 (hW.of rfl))

theorem State.startHost_does {W : Nat} (hW : Covers W 0x2100002FCEF84E1E0) {s₀ : State} (owner : AccOwner) (host addr bytes : Nat) (write : Bool) (data : List Byte) (media : List Medium) {s : State} (hk : Does W s₀ s) :
    Does W s₀ (State.startHost s owner host addr bytes write data media) := by
  unfold State.startHost
  try dsimp only
  repeat' (first | with_reducible assumption | with_reducible apply State.startLines_does (hW.of rfl) | split)

theorem State.bulkDone_does {W : Nat} (hW : Covers W 0x2100000000000E1E0) {s₀ : State} (h : BitVec 10) (tag : BitVec 12) (addr bytes : Nat) (st : PStatus) (vec : BitVec 256) (red : Bool) {s : State} (hk : Does W s₀ s) :
    Does W s₀ (State.bulkDone s h tag addr bytes st vec red) := by
  unfold State.bulkDone
  try dsimp only
  repeat' (first
    | with_reducible assumption | with_reducible apply State.emit_does (hW.of rfl)
    | with_reducible apply State.sendPkt_does (hW.of rfl) | split)

theorem State.bulkData_does {W : Nat} (hW : Covers W 0x2100000000000E1E0) {s₀ : State} (h : BitVec 10) (tag : BitVec 12) (addr bytes : Nat) (st : PStatus) (bs : List (Nat × Option Byte)) :
    ∀ (l0 : List Nat), ∀ {s : State}, Does W s₀ s → Does W s₀ (State.bulkData s h tag addr bytes st bs l0) := by
  intro l0
  induction l0 generalizing h tag addr bytes st bs with
  | nil =>
    intro s hk
    unfold State.bulkData
    try dsimp only
    repeat' (first
      | with_reducible assumption | with_reducible apply State.emit_does (hW.of rfl)
      | with_reducible apply State.sendPkt_does (hW.of rfl) | with_reducible apply Does.getD | split
      | (with_reducible refine Does.of_pair (by with_reducible assumption) ?_)
      | (with_reducible intro _; intros; (try dsimp only)))
  | cons x r ih =>
    intro s hk
    unfold State.bulkData
    try dsimp only
    repeat' (first
      | with_reducible apply ih | with_reducible assumption | with_reducible apply State.emit_does (hW.of rfl)
      | with_reducible apply State.sendPkt_does (hW.of rfl) | with_reducible apply Does.getD | split
      | (with_reducible refine Does.of_pair (by with_reducible assumption) ?_)
      | (with_reducible intro _; intros; (try dsimp only)))

theorem State.writeRecords_does {W : Nat} (hW : Covers W 0x20000580000000000) {s₀ : State} (q : Nat) (va : BitVec 64) (rkey : BitVec 32) (addr id : Nat) (d : List Byte) :
    ∀ (l0 : List Nat), ∀ {s : State}, Does W s₀ s → Does W s₀ (State.writeRecords s q va rkey addr id d l0) := by
  intro l0
  induction l0 generalizing q va rkey addr id d with
  | nil =>
    intro s hk
    unfold State.writeRecords
    try dsimp only
    repeat' (first
      | with_reducible assumption | with_reducible apply State.roceSend_does (hW.of rfl)
      | with_reducible apply State.sealRecord_does (hW.of rfl) | split
      | (with_reducible refine Does.of_pair (by with_reducible assumption) ?_))
  | cons x r ih =>
    intro s hk
    unfold State.writeRecords
    try dsimp only
    repeat' (first
      | with_reducible apply ih | with_reducible assumption | with_reducible apply State.roceSend_does (hW.of rfl)
      | with_reducible apply State.sealRecord_does (hW.of rfl) | split
      | (with_reducible refine Does.of_pair (by with_reducible assumption) ?_))

theorem State.readToHost_does {W : Nat} (hW : Covers W 0x20000580000000000) {s₀ : State} (q id : Nat) (e : SubEntry) (bs : List (Nat × Option Byte)) {s : State} (hk : Does W s₀ s) :
    Does W s₀ (State.readToHost s q id e bs) := by
  unfold State.readToHost
  try dsimp only
  repeat' (first
    | with_reducible assumption | with_reducible apply State.roceSend_does (hW.of rfl)
    | with_reducible apply State.writeRecords_does (hW.of rfl) | (with_reducible apply Does.foldl; intro _ _ _)
    | with_reducible apply Does.getD | split | (with_reducible intro _; intros; (try dsimp only)))

theorem State.countMoved_does {W : Nat} (hW : Covers W 0x100) {s₀ : State} (q n : Nat) {s : State} (hk : Does W s₀ s) :
    Does W s₀ (State.countMoved s q n) := by
  unfold State.countMoved
  try dsimp only
  repeat' (first | with_reducible assumption | with_reducible apply State.bump_does (hW.of rfl))

theorem State.accFinish_does {W : Nat} (hW : Covers W 0x2100058004000E1E0) {s₀ : State} (id : Nat) (a : Access) {s : State} (hk : Does W s₀ s) :
    Does W s₀ (State.accFinish s id a) := by
  unfold State.accFinish
  try dsimp only
  repeat' (first
    | with_reducible assumption | with_reducible apply State.completeCmd_does (hW.of rfl)
    | with_reducible apply State.bulkDone_does (hW.of rfl) | with_reducible apply State.bulkData_does (hW.of rfl)
    | with_reducible apply State.readToHost_does (hW.of rfl) | with_reducible apply State.countMoved_does (hW.of rfl) | split
    | (with_reducible refine Does.of_pair (by with_reducible assumption) ?_) | with_reducible apply Does.upd_40000000 (hW.of rfl))

theorem State.accFlush_does {W : Nat} (hW : Covers W 0x2100058004000E1E0) {s₀ : State} {s : State} (hk : Does W s₀ s) :
    Does W s₀ (State.accFlush s) := by
  unfold State.accFlush
  try dsimp only
  repeat' (first
    | with_reducible assumption | with_reducible apply State.accFinish_does (hW.of rfl)
    | (with_reducible apply Does.foldl; intro _ _ _) | split | (with_reducible refine Does.of_pair (by with_reducible assumption) ?_))

theorem State.modJob_does {W : Nat} (hW : Covers W 0x10000000000000) {s₀ : State} (j : Nat) (f : Job → Job) {s : State} (hk : Does W s₀ s) :
    Does W s₀ (State.modJob s j f) := by
  unfold State.modJob
  try dsimp only
  repeat' (first
    | with_reducible assumption | split | (with_reducible refine Does.of_pair (by with_reducible assumption) ?_)
    | with_reducible apply Does.upd_10000000000000 (hW.of rfl))

theorem State.modLc_does {W : Nat} (hW : Covers W 0x4000000000000) {s₀ : State} (j i : Nat) (f : Lc → Lc) {s : State} (hk : Does W s₀ s) :
    Does W s₀ (State.modLc s j i f) := by
  unfold State.modLc
  try dsimp only
  repeat' (first | with_reducible assumption | with_reducible apply Does.upd_4000000000000 (hW.of rfl))

theorem State.modClu_does {W : Nat} (hW : Covers W 0x8000000000000) {s₀ : State} (h k : Nat) (f : Clu → Clu) {s : State} (hk : Does W s₀ s) :
    Does W s₀ (State.modClu s h k f) := by
  unfold State.modClu
  try dsimp only
  repeat' (first | with_reducible assumption | with_reducible apply Does.upd_8000000000000 (hW.of rfl))

theorem State.writeT_does {W : Nat} (hW : Covers W 0x40004000000000000) {s₀ : State} (j i n : Nat) (v : BitVec 128) (latency : Nat) {s : State} (hk : Does W s₀ s) :
    Does W s₀ (State.writeT s j i n v latency) := by
  unfold State.writeT
  try dsimp only
  repeat' (first
    | with_reducible assumption | with_reducible apply State.draw_does (hW.of rfl)
    | with_reducible apply State.modLc_does (hW.of rfl) | split
    | (with_reducible refine Does.of_pair (by with_reducible assumption) ?_) | (with_reducible intro _; intros; (try dsimp only)))

theorem State.noteRange_does {W : Nat} (hW : Covers W 0x8000000000000) {s₀ : State} (j i : Nat) (sp : Span) {s : State} (hk : Does W s₀ s) :
    Does W s₀ (State.noteRange s j i sp) := by
  unfold State.noteRange
  try dsimp only
  repeat' (first
    | with_reducible assumption | with_reducible apply State.modClu_does (hW.of rfl) | split
    | (with_reducible refine Does.of_pair (by with_reducible assumption) ?_))

theorem State.spoilFetch_does {W : Nat} (hW : Covers W 0x40004000000000000) {s₀ : State} (j i : Nat) (sp : Span) {s : State} (hk : Does W s₀ s) :
    Does W s₀ (State.spoilFetch s j i sp) := by
  unfold State.spoilFetch
  try dsimp only
  repeat' (first
    | with_reducible assumption | with_reducible apply State.draw_does (hW.of rfl)
    | with_reducible apply State.modLc_does (hW.of rfl) | with_reducible apply State.writeT_does (hW.of rfl)
    | (with_reducible apply Does.foldl; intro _ _ _) | (with_reducible apply Does.foldl₂; intro _ _ _) | split
    | (with_reducible refine Does.of_pair (by with_reducible assumption) ?_))

theorem State.writeStg_does {W : Nat} (hW : Covers W 0x4000C000000000000) {s₀ : State} (j i u lo : Nat) (l : List Byte) {s : State} (hk : Does W s₀ s) :
    Does W s₀ (State.writeStg s j i u lo l) := by
  unfold State.writeStg
  try dsimp only
  repeat' (first
    | with_reducible assumption | with_reducible apply State.modLc_does (hW.of rfl)
    | with_reducible apply State.noteRange_does (hW.of rfl) | with_reducible apply State.spoilFetch_does (hW.of rfl))

theorem State.lcGoes_does {W : Nat} (hW : Covers W 0x1E0) {s₀ : State} (h k : Nat) (by_ : BitVec 16) {s : State} (hk : Does W s₀ s) :
    Does W s₀ (State.lcGoes s h k by_) := by
  unfold State.lcGoes
  try dsimp only
  repeat' (first
    | with_reducible assumption | with_reducible apply State.bump_does (hW.of rfl)
    | with_reducible apply State.waitEnd_does (hW.of rfl) | (with_reducible apply Does.foldl; intro _ _ _))

theorem State.restartWalks_does {W : Nat} (hW : Covers W 0x80000000000000) {s₀ : State} (hit : Miss → Bool) {s : State} (hk : Does W s₀ s) :
    Does W s₀ (State.restartWalks s hit) := by
  unfold State.restartWalks
  try dsimp only
  repeat' (first
    | with_reducible assumption | split | with_reducible apply Does.upd_80000000000000 (hW.of rfl)
    | (with_reducible intro _; intros; (try dsimp only)))

theorem State.writePage_does {W : Nat} (hW : Covers W 0xC00000000) {s₀ : State} (page : Nat) (es : List (Nat × Nat)) {s : State} (hk : Does W s₀ s) :
    Does W s₀ (State.writePage s page es) := by
  unfold State.writePage
  try dsimp only
  repeat' (first
    | with_reducible assumption | with_reducible apply State.putLine_does (hW.of rfl)
    | (with_reducible apply Does.foldl; intro _ _ _))

theorem State.buildTables_does {W : Nat} (hW : Covers W 0x90000C00000000) {s₀ : State} (j : Nat) {s t : State} (hk : Does W s₀ s) (ht : State.buildTables s j = some t) : Does W s₀ t := by
  unfold State.buildTables at ht
  (try dsimp only at ht)
  repeat' (first | split at ht | (injection ht; done) | (injection ht with ht; subst ht))
  all_goals repeat' (first
    | with_reducible assumption | with_reducible apply State.modJob_does (hW.of rfl)
    | with_reducible apply State.restartWalks_does (hW.of rfl) | with_reducible apply State.writePage_does (hW.of rfl)
    | (with_reducible apply Does.foldl; intro _ _ _) | split | (with_reducible intro _; intros; (try dsimp only)))

theorem State.rebuild_does {W : Nat} (hW : Covers W 0x90000C00000000) {s₀ : State} (j : Nat) {s : State} (hk : Does W s₀ s) :
    Does W s₀ (State.rebuild s j) := by
  unfold State.rebuild
  try dsimp only
  repeat' (first
    | with_reducible assumption | with_reducible apply Does.getD | split
    | (with_reducible refine Does.of_pair (by with_reducible assumption) ?_)
    | refine State.buildTables_does (hW := hW.of rfl) (hk := ?_) (ht := by with_reducible assumption)
    | (with_reducible intro _; intros; (try dsimp only)))

theorem State.modTrn_does {W : Nat} (hW : Covers W 0x80000000000000) {s₀ : State} (h : Nat) (f : Trn → Trn) {s : State} (hk : Does W s₀ s) :
    Does W s₀ (State.modTrn s h f) := by
  unfold State.modTrn
  try dsimp only
  repeat' (first | with_reducible assumption | with_reducible apply Does.upd_80000000000000 (hW.of rfl))

theorem State.shootStart_does {W : Nat} (hW : Covers W 0x180000000000000) {s₀ : State} (x : Shoot) {s : State} (hk : Does W s₀ s) :
    Does W s₀ (State.shootStart s x) := by
  unfold State.shootStart
  try dsimp only
  repeat' (first
    | with_reducible assumption | with_reducible apply State.restartWalks_does (hW.of rfl) | split
    | (with_reducible refine Does.of_pair (by with_reducible assumption) ?_)
    | with_reducible apply Does.upd_100000000000000 (hW.of rfl) | with_reducible apply Does.upd_80000000000000 (hW.of rfl)
    | (with_reducible intro _; intros; (try dsimp only)))

theorem State.shootdown_does {W : Nat} (hW : Covers W 0x180000000000000) {s₀ : State} (x : Shoot) {s : State} (hk : Does W s₀ s) :
    Does W s₀ (State.shootdown s x) := by
  unfold State.shootdown
  try dsimp only
  repeat' (first
    | with_reducible assumption | with_reducible apply State.shootStart_does (hW.of rfl) | split
    | with_reducible apply Does.upd_100000000000000 (hW.of rfl))

theorem State.shootExtent_does {W : Nat} (hW : Covers W 0x190000C00000000) {s₀ : State} (e : Nat) (f : JRef → JRef) {s : State} (hk : Does W s₀ s) :
    Does W s₀ (State.shootExtent s e f) := by
  unfold State.shootExtent
  try dsimp only
  repeat' (first
    | with_reducible assumption | with_reducible apply State.modJob_does (hW.of rfl)
    | with_reducible apply State.rebuild_does (hW.of rfl) | with_reducible apply State.shootdown_does (hW.of rfl)
    | (with_reducible apply Does.foldl; intro _ _ _) | split | (with_reducible refine Does.of_pair (by with_reducible assumption) ?_))

theorem State.shootJob_does {W : Nat} (hW : Covers W 0x180000000000000) {s₀ : State} (j : Nat) {s : State} (hk : Does W s₀ s) :
    Does W s₀ (State.shootJob s j) := by
  unfold State.shootJob
  try dsimp only
  repeat' (first
    | with_reducible assumption | with_reducible apply State.shootdown_does (hW.of rfl)
    | with_reducible apply Does.upd_80000000000000 (hW.of rfl))

theorem State.jobDone_does {W : Nat} (hW : Covers W 0x2100058000000E1E0) {s₀ : State} (c : JCmd) (jresult j : Nat) {s : State} (hk : Does W s₀ s) :
    Does W s₀ (State.jobDone s c jresult j) := by
  unfold State.jobDone
  try dsimp only
  repeat' (first | with_reducible assumption | with_reducible apply State.completeCmd_does (hW.of rfl))

theorem State.clusterClear_does {W : Nat} (hW : Covers W 0x8000000000000) {s₀ : State} (h k : Nat) {s : State} (hk : Does W s₀ s) :
    Does W s₀ (State.clusterClear s h k) := by
  unfold State.clusterClear
  try dsimp only
  repeat' (first | with_reducible assumption | with_reducible apply State.modClu_does (hW.of rfl))

theorem State.clusterReset_does {W : Nat} (hW : Covers W 0x88000000000000) {s₀ : State} (h k : Nat) {s : State} (hk : Does W s₀ s) :
    Does W s₀ (State.clusterReset s h k) := by
  unfold State.clusterReset
  try dsimp only
  repeat' (first
    | with_reducible assumption | with_reducible apply State.modTrn_does (hW.of rfl)
    | with_reducible apply State.clusterClear_does (hW.of rfl))

theorem State.dropCharge_does {W : Nat} (hW : Covers W 0x4000000000000000) {s₀ : State} (h k : Nat) {s : State} (hk : Does W s₀ s) :
    Does W s₀ (State.dropCharge s h k) := by
  unfold State.dropCharge
  try dsimp only
  repeat' (first | with_reducible assumption | with_reducible apply State.modPwr_does (hW.of rfl))

theorem State.vacate_does {W : Nat} (hW : Covers W 0x400C000000000000) {s₀ : State} (j i : Nat) {s : State} (hk : Does W s₀ s) :
    Does W s₀ (State.vacate s j i) := by
  unfold State.vacate
  try dsimp only
  repeat' (first
    | with_reducible assumption | with_reducible apply State.modLc_does (hW.of rfl)
    | with_reducible apply State.modClu_does (hW.of rfl) | with_reducible apply State.dropCharge_does (hW.of rfl) | split
    | (with_reducible refine Does.of_pair (by with_reducible assumption) ?_))

theorem State.stopLc_does {W : Nat} (hW : Covers W 0x408C0000000001E0) {s₀ : State} (j i : Nat) (reset : Bool) {s : State} (hk : Does W s₀ s) :
    Does W s₀ (State.stopLc s j i reset) := by
  unfold State.stopLc
  try dsimp only
  repeat' (first
    | with_reducible assumption | with_reducible apply State.modLc_does (hW.of rfl)
    | with_reducible apply State.lcGoes_does (hW.of rfl) | with_reducible apply State.clusterReset_does (hW.of rfl)
    | with_reducible apply State.vacate_does (hW.of rfl) | split
    | (with_reducible refine Does.of_pair (by with_reducible assumption) ?_))

theorem State.sendPair_does {W : Nat} (hW : Covers W 0x2100000000000E1E0) {s₀ : State} (x : Job) (eop step firstLc count extra : Nat) (data : List Byte) {s : State} (hk : Does W s₀ s) :
    Does W s₀ (State.sendPair s x eop step firstLc count extra data) := by
  unfold State.sendPair
  try dsimp only
  repeat' (first | with_reducible assumption | with_reducible apply State.sendPkt_does (hW.of rfl))

theorem State.startDpa_does {W : Nat} (hW : Covers W 0x2100002FCEF84E1E0) {s₀ : State} (unit id dpa bytes : Nat) (write : Bool) (data : List Byte) (media : List Medium) {s : State} (hk : Does W s₀ s) :
    Does W s₀ (State.startDpa s unit id dpa bytes write data media) := by
  unfold State.startDpa
  try dsimp only
  repeat' (first | with_reducible assumption | with_reducible apply State.startLines_does (hW.of rfl))

theorem State.accDrop_does {W : Nat} (hW : Covers W 0x40000000) {s₀ : State} (ids : List Nat) {s : State} (hk : Does W s₀ s) :
    Does W s₀ (State.accDrop s ids) := by
  unfold State.accDrop
  try dsimp only
  repeat' (first | with_reducible assumption | with_reducible apply Does.upd_40000000 (hW.of rfl))

theorem State.accResend_does {W : Nat} (hW : Covers W 0x2100002FCEF84E1E0) {s₀ : State} (id : Nat) (media : List Medium) {s : State} (hk : Does W s₀ s) :
    Does W s₀ (State.accResend s id media).2 := by
  unfold State.accResend
  try dsimp only
  repeat' (first
    | with_reducible assumption | with_reducible apply State.startLines_does (hW.of rfl)
    | (with_reducible apply Does.foldl; intro _ _ _) | (with_reducible apply Does.foldl₂; intro _ _ _) | split
    | (with_reducible refine Does.of_pair (by with_reducible assumption) ?_) | with_reducible apply Does.upd_40000000 (hW.of rfl)
    | (with_reducible intro _; intros; (try dsimp only)))

theorem State.accResendAll_does {W : Nat} (hW : Covers W 0x2100002FCEF84E1E0) {s₀ : State} (media : List Medium) :
    ∀ (l0 : List Nat), ∀ {s : State}, Does W s₀ s → Does W s₀ (State.accResendAll s media l0).2 := by
  intro l0
  induction l0 generalizing media with
  | nil =>
    intro s hk
    unfold State.accResendAll
    try dsimp only
    repeat' (first
      | with_reducible assumption | with_reducible apply State.accResend_does (hW.of rfl) | split
      | (with_reducible refine Does.of_pair (by with_reducible assumption) ?_))
  | cons x r ih =>
    intro s hk
    unfold State.accResendAll
    try dsimp only
    repeat' (first
      | with_reducible apply ih | with_reducible assumption | with_reducible apply State.accResend_does (hW.of rfl) | split
      | (with_reducible refine Does.of_pair (by with_reducible assumption) ?_))

theorem State.writeRecords7_does {W : Nat} (hW : Covers W 0x2101002FCEF84E1E0) {s₀ : State} (j : Nat) {s : State} (hk : Does W s₀ s) :
    Does W s₀ (State.writeRecords7 s j) := by
  unfold State.writeRecords7
  try dsimp only
  repeat' (first
    | with_reducible assumption | with_reducible apply State.modJob_does (hW.of rfl)
    | with_reducible apply State.startDpa_does (hW.of rfl) | (with_reducible apply Does.foldl; intro _ _ _) | split)

theorem State.stopJob_does {W : Nat} (hW : Covers W 0x42BC0000400001E0) {s₀ : State} (j cause lc trap : Nat) {s : State} (hk : Does W s₀ s) :
    Does W s₀ (State.stopJob s j cause lc trap) := by
  unfold State.stopJob
  try dsimp only
  repeat' (first
    | with_reducible assumption | with_reducible apply State.modJob_does (hW.of rfl)
    | with_reducible apply State.stopLc_does (hW.of rfl) | (with_reducible apply Does.foldl; intro _ _ _) | split
    | (with_reducible refine Does.of_pair (by with_reducible assumption) ?_)
    | with_reducible apply Does.upd_2A8000040000000 (hW.of rfl) | (with_reducible intro _; intros; (try dsimp only)))

theorem State.tellEnd_does {W : Nat} (hW : Covers W 0x2101002FCEF84E1E0) {s₀ : State} (x : Job) (j cause : Nat) {s : State} (hk : Does W s₀ s) :
    Does W s₀ (State.tellEnd s x j cause) := by
  unfold State.tellEnd
  try dsimp only
  repeat' (first
    | with_reducible assumption | with_reducible apply State.fireOn_does (hW.of rfl)
    | with_reducible apply State.sendPair_does (hW.of rfl) | with_reducible apply State.writeRecords7_does (hW.of rfl) | split)

theorem State.answerWaits_does {W : Nat} (hW : Covers W 0x2100058000000E1E0) {s₀ : State} (x : Job) (j cause r : Nat) {s : State} (hk : Does W s₀ s) :
    Does W s₀ (State.answerWaits s x j cause r) := by
  unfold State.answerWaits
  try dsimp only
  repeat' (first
    | with_reducible assumption | with_reducible apply State.jobDone_does (hW.of rfl)
    | (with_reducible apply Does.foldl; intro _ _ _) | split | (with_reducible refine Does.of_pair (by with_reducible assumption) ?_))

theorem State.endJob_does {W : Nat} (hW : Covers W 0x252BC5AFCEF84E1E0) {s₀ : State} (j cause lc trap : Nat) {s : State} (hk : Does W s₀ s) :
    Does W s₀ (State.endJob s j cause lc trap) := by
  unfold State.endJob
  try dsimp only
  repeat' (first
    | with_reducible assumption | with_reducible apply State.modJob_does (hW.of rfl)
    | with_reducible apply State.stopJob_does (hW.of rfl) | with_reducible apply State.tellEnd_does (hW.of rfl)
    | with_reducible apply State.answerWaits_does (hW.of rfl) | split)

theorem State.jobGone_does {W : Nat} (hW : Covers W 0x2103458000000E1E0) {s₀ : State} (j : Nat) {s : State} (hk : Does W s₀ s) :
    Does W s₀ (State.jobGone s j) := by
  unfold State.jobGone
  try dsimp only
  repeat' (first
    | with_reducible assumption | with_reducible apply State.jobDone_does (hW.of rfl) | split
    | (with_reducible refine Does.of_pair (by with_reducible assumption) ?_)
    | with_reducible apply Does.upd_34000000000000 (hW.of rfl))

theorem State.modSlg_does {W : Nat} (hW : Covers W 0x40000000000000) {s₀ : State} (h : Nat) (f : Slg → Slg) {s : State} (hk : Does W s₀ s) :
    Does W s₀ (State.modSlg s h f) := by
  unfold State.modSlg
  try dsimp only
  repeat' (first | with_reducible assumption | with_reducible apply Does.upd_40000000000000 (hW.of rfl))

theorem State.gateFault_does {W : Nat} (hW : Covers W 0x252FC5AFCEF84E1E0) {s₀ : State} (h j expert cause : Nat) {s : State} (hk : Does W s₀ s) :
    Does W s₀ (State.gateFault s h j expert cause) := by
  unfold State.gateFault
  try dsimp only
  repeat' (first
    | with_reducible assumption | with_reducible apply State.fireOn_does (hW.of rfl)
    | with_reducible apply State.endJob_does (hW.of rfl) | with_reducible apply State.modSlg_does (hW.of rfl))

theorem State.queIdle_does {W : Nat} (hW : Covers W 0xC00000000000) {s₀ : State} (h : Nat) {s : State} (hk : Does W s₀ s) :
    Does W s₀ (State.queIdle s h) := by
  unfold State.queIdle
  try dsimp only
  repeat' (first | with_reducible assumption | split | with_reducible apply Does.upd_C00000000000 (hW.of rfl))

theorem State.ownReq_does {W : Nat} (hW : Covers W 0x2100002FC6F84E1E0) {s₀ : State} (l : Nat) (r : LineReq) (m : Medium) {s : State} (hk : Does W s₀ s) :
    Does W s₀ (State.ownReq s l r m) := by
  unfold State.ownReq
  try dsimp only
  repeat' (first
    | with_reducible assumption | with_reducible apply State.setOrder_does (hW.of rfl)
    | with_reducible apply State.serveUntracked_does (hW.of rfl) | with_reducible apply State.openHead_does (hW.of rfl) | split
    | (with_reducible intro _; intros; (try dsimp only)))

theorem State.ownTx_does {W : Nat} (hW : Covers W 0x2100002FC6F84E1E0) {s₀ : State} (l : Nat) (k : ReqKind) (m : Medium) {s : State} (hk : Does W s₀ s) :
    Does W s₀ (State.ownTx s l k m) := by
  unfold State.ownTx
  try dsimp only
  repeat' (first | with_reducible assumption | with_reducible apply State.ownReq_does (hW.of rfl))

theorem State.recallMore_does {W : Nat} (hW : Covers W 0x2100002FC6F84E1E0) {s₀ : State} (m : Medium) {s : State} (hk : Does W s₀ s) :
    Does W s₀ (State.recallMore s m) := by
  unfold State.recallMore
  try dsimp only
  repeat' (first
    | with_reducible assumption | with_reducible apply State.ownTx_does (hW.of rfl)
    | (with_reducible apply Does.foldl; intro _ _ _) | split | (with_reducible intro _; intros; (try dsimp only)))

theorem State.ownMany_does {W : Nat} (hW : Covers W 0x2100002FC6F84E1E0) {s₀ : State} (k : ReqKind) (m : Medium) :
    ∀ (l0 : List Nat), ∀ {s : State}, Does W s₀ s → Does W s₀ (State.ownMany s k m l0).2 := by
  intro l0
  induction l0 generalizing k m with
  | nil =>
    intro s hk
    unfold State.ownMany
    try dsimp only
    repeat' (first
      | with_reducible assumption | with_reducible apply State.ownTx_does (hW.of rfl) | split
      | (with_reducible refine Does.of_pair (by with_reducible assumption) ?_)
      | (with_reducible intro _; intros; (try dsimp only)))
  | cons x r ih =>
    intro s hk
    unfold State.ownMany
    try dsimp only
    repeat' (first
      | with_reducible apply ih | with_reducible assumption | with_reducible apply State.ownTx_does (hW.of rfl) | split
      | (with_reducible refine Does.of_pair (by with_reducible assumption) ?_)
      | (with_reducible intro _; intros; (try dsimp only)))

theorem State.drainMore_does {W : Nat} (hW : Covers W 0x2100002FC6FA4E1E0) {s₀ : State} (m : Medium) (d : Drain) {s : State} (hk : Does W s₀ s) :
    Does W s₀ (State.drainMore s m d) := by
  unfold State.drainMore
  try dsimp only
  repeat' (first
    | with_reducible assumption | with_reducible apply State.ownMany_does (hW.of rfl) | split
    | (with_reducible refine Does.of_pair (by with_reducible assumption) ?_) | with_reducible apply Does.upd_200000 (hW.of rfl)
    | (with_reducible intro _; intros; (try dsimp only)))

theorem State.modLift_does {W : Nat} (hW : Covers W 0x10000000000) {s₀ : State} (f : LiftJob → LiftJob) {s : State} (hk : Does W s₀ s) :
    Does W s₀ (State.modLift s f) := by
  unfold State.modLift
  try dsimp only
  repeat' (first
    | with_reducible assumption | split | (with_reducible refine Does.of_pair (by with_reducible assumption) ?_)
    | with_reducible apply Does.upd_10000000000 (hW.of rfl))

theorem State.liftLine_does {W : Nat} (hW : Covers W 0x2100003FC6F84E1E0) {s₀ : State} (j : LiftJob) (lost : List Nat) {s : State} (hk : Does W s₀ s) :
    Does W s₀ (State.liftLine s j lost) := by
  unfold State.liftLine
  try dsimp only
  repeat' (first
    | with_reducible assumption | with_reducible apply State.ownReq_does (hW.of rfl)
    | with_reducible apply State.modLift_does (hW.of rfl) | split | (with_reducible intro _; intros; (try dsimp only)))

theorem State.liftGo_does {W : Nat} (hW : Covers W 0x2100003FC6F84E1E0) {s₀ : State} (lost : List Nat) :
    ∀ (l0 : Nat), ∀ {s : State}, Does W s₀ s → Does W s₀ (State.liftGo lost l0 s) := by
  intro l0
  induction l0 generalizing lost with
  | zero =>
    intro s hk
    unfold State.liftGo
    try dsimp only
    repeat' (first
      | with_reducible assumption | with_reducible apply State.liftLine_does (hW.of rfl) | split
      | (with_reducible refine Does.of_pair (by with_reducible assumption) ?_)
      | (with_reducible intro _; intros; (try dsimp only)))
  | succ r ih =>
    intro s hk
    unfold State.liftGo
    try dsimp only
    repeat' (first
      | with_reducible apply ih | with_reducible assumption | with_reducible apply State.liftLine_does (hW.of rfl) | split
      | (with_reducible refine Does.of_pair (by with_reducible assumption) ?_)
      | (with_reducible intro _; intros; (try dsimp only)))

theorem State.liftReads_does {W : Nat} (hW : Covers W 0x2100003FC6F84E1E0) {s₀ : State} (lost : List Nat) {s : State} (hk : Does W s₀ s) :
    Does W s₀ (State.liftReads s lost) := by
  unfold State.liftReads
  try dsimp only
  repeat' (first
    | with_reducible assumption | with_reducible apply State.liftGo_does (hW.of rfl) | split
    | (with_reducible refine Does.of_pair (by with_reducible assumption) ?_)
    | (with_reducible intro _; intros; (try dsimp only)))

theorem State.ownMore_does {W : Nat} (hW : Covers W 0x2100003FC6FA4E1E0) {s₀ : State} (m : Medium) {s : State} (hk : Does W s₀ s) :
    Does W s₀ (State.ownMore s m) := by
  unfold State.ownMore
  try dsimp only
  repeat' (first
    | with_reducible assumption | with_reducible apply State.recallMore_does (hW.of rfl)
    | with_reducible apply State.drainMore_does (hW.of rfl) | with_reducible apply State.liftReads_does (hW.of rfl)
    | (with_reducible apply Does.foldl; intro _ _ _))

theorem State.tenancyRecall_does {W : Nat} (hW : Covers W 0x2100002FE6F84E1E0) {s₀ : State} (m : Medium) {s : State} (hk : Does W s₀ s) :
    Does W s₀ (State.tenancyRecall s m) := by
  unfold State.tenancyRecall
  try dsimp only
  repeat' (first
    | with_reducible assumption | with_reducible apply State.atomRelease_does (hW.of rfl)
    | with_reducible apply State.recallMore_does (hW.of rfl) | (with_reducible apply Does.foldl; intro _ _ _)
    | with_reducible apply Does.upd_200000000 (hW.of rfl))

theorem State.tenancyProgress_does {W : Nat} (hW : Covers W 0x2100002FE6F84E1E0) {s₀ : State} (m : Medium) {s : State} (hk : Does W s₀ s) :
    Does W s₀ (State.tenancyProgress s m) := by
  unfold State.tenancyProgress
  try dsimp only
  repeat' (first | with_reducible assumption | with_reducible apply State.tenancyRecall_does (hW.of rfl) | split)

theorem State.cohEnd_does {W : Nat} (hW : Covers W 0x210005BFE6FA4E1E0) {s₀ : State} (m : Medium) {s : State} (hk : Does W s₀ s) :
    Does W s₀ (State.cohEnd s m) := by
  unfold State.cohEnd
  try dsimp only
  repeat' (first
    | with_reducible assumption | with_reducible apply State.settled_does (hW.of rfl)
    | with_reducible apply State.accFlush_does (hW.of rfl) | with_reducible apply State.ownMore_does (hW.of rfl)
    | with_reducible apply State.tenancyProgress_does (hW.of rfl))

theorem State.hold_does {W : Nat} (hW : Covers W 0x10000000) {s₀ : State} (key : Nat) (x : HeldMsg) {s : State} (hk : Does W s₀ s) :
    Does W s₀ (State.hold s key x) := by
  unfold State.hold
  try dsimp only
  repeat' (first | with_reducible assumption | with_reducible apply Does.upd_10000000 (hW.of rfl))

theorem State.homeRequest_does {W : Nat} (hW : Covers W 0x6100002FC6F84E1E0) {s₀ : State} (h : BitVec 10) (m : CohMsg) (med : Medium) {s : State} (hk : Does W s₀ s) :
    Does W s₀ (State.homeRequest s h m med) := by
  unfold State.homeRequest
  try dsimp only
  repeat' (first
    | with_reducible assumption | with_reducible apply State.bump_does (hW.of rfl)
    | with_reducible apply State.reply_does (hW.of rfl) | with_reducible apply State.nackRetry_does (hW.of rfl)
    | with_reducible apply State.freeBackoff_does (hW.of rfl) | with_reducible apply State.takeReq_does (hW.of rfl)
    | with_reducible apply Does.getD | split | (with_reducible refine Does.of_pair (by with_reducible assumption) ?_)
    | (with_reducible intro _; intros; (try dsimp only)))

theorem State.writeBack_does {W : Nat} (hW : Covers W 0x2DC00040100) {s₀ : State} (l : Nat) (poison : Bool) (data : Line) (med : Medium) {s : State} (hk : Does W s₀ s) :
    Does W s₀ (State.writeBack s l poison data med) := by
  unfold State.writeBack
  try dsimp only
  repeat' (first
    | with_reducible assumption | with_reducible apply State.writeLine_does (hW.of rfl)
    | with_reducible apply State.storePoison_does (hW.of rfl) | split | (with_reducible intro _; intros; (try dsimp only)))

theorem State.ownerGone_does {W : Nat} (hW : Covers W 0x800000) {s₀ : State} (hub l h : Nat) {s : State} (hk : Does W s₀ s) :
    Does W s₀ (State.ownerGone s hub l h) := by
  unfold State.ownerGone
  try dsimp only
  repeat' (first
    | with_reducible assumption | with_reducible apply State.setWay_does (hW.of rfl) | split
    | (with_reducible refine Does.of_pair (by with_reducible assumption) ?_))

theorem State.sharerGone_does {W : Nat} (hW : Covers W 0x800000) {s₀ : State} (hub l h : Nat) {s : State} (hk : Does W s₀ s) :
    Does W s₀ (State.sharerGone s hub l h) := by
  unfold State.sharerGone
  try dsimp only
  repeat' (first
    | with_reducible assumption | with_reducible apply State.setWay_does (hW.of rfl) | split
    | (with_reducible refine Does.of_pair (by with_reducible assumption) ?_) | with_reducible apply Does.upd_800000 (hW.of rfl))

theorem State.wbmNow_does {W : Nat} (hW : Covers W 0x2100002DC0084E1E0) {s₀ : State} (hub l : Nat) (h : BitVec 10) (m : CohMsg) (med : Medium) {s : State} (hk : Does W s₀ s) :
    Does W s₀ (State.wbmNow s hub l h m med) := by
  unfold State.wbmNow
  try dsimp only
  repeat' (first
    | with_reducible assumption | with_reducible apply State.reply_does (hW.of rfl)
    | with_reducible apply State.writeBack_does (hW.of rfl) | with_reducible apply State.ownerGone_does (hW.of rfl)
    | with_reducible apply State.sharerGone_does (hW.of rfl) | with_reducible apply Does.getD | split
    | (with_reducible intro _; intros; (try dsimp only)))

theorem State.afterOwn_does {W : Nat} (hW : Covers W 0x2100002FC6F84E1E0) {s₀ : State} (hub l : Nat) (h : BitVec 10) (med : Medium) {s : State} (hk : Does W s₀ s) :
    Does W s₀ (State.afterOwn s hub l h med) := by
  unfold State.afterOwn
  try dsimp only
  repeat' (first
    | with_reducible assumption | with_reducible apply State.setTx_does (hW.of rfl)
    | with_reducible apply State.dispatchTx_does (hW.of rfl) | split
    | (with_reducible refine Does.of_pair (by with_reducible assumption) ?_))

theorem State.wbmAt_does {W : Nat} (hW : Covers W 0x2100002FC6F84E1E0) {s₀ : State} (l : Nat) (h : BitVec 10) (m : CohMsg) (med : Medium) {s : State} (hk : Does W s₀ s) :
    Does W s₀ (State.wbmAt s l h m med) := by
  unfold State.wbmAt
  try dsimp only
  repeat' (first
    | with_reducible assumption | with_reducible apply State.setTx_does (hW.of rfl)
    | with_reducible apply State.writeBack_does (hW.of rfl) | with_reducible apply State.wbmNow_does (hW.of rfl)
    | with_reducible apply State.afterOwn_does (hW.of rfl) | with_reducible apply Does.getD | split
    | (with_reducible refine Does.of_pair (by with_reducible assumption) ?_)
    | (with_reducible intro _; intros; (try dsimp only)))

theorem State.evcAt_does {W : Nat} (hW : Covers W 0x2100002FC6F84E1E0) {s₀ : State} (l : Nat) (h : BitVec 10) (m : CohMsg) (med : Medium) {s : State} (hk : Does W s₀ s) :
    Does W s₀ (State.evcAt s l h m med) := by
  unfold State.evcAt
  try dsimp only
  repeat' (first
    | with_reducible assumption | with_reducible apply State.reply_does (hW.of rfl)
    | with_reducible apply State.ownerGone_does (hW.of rfl) | with_reducible apply State.sharerGone_does (hW.of rfl)
    | with_reducible apply State.afterOwn_does (hW.of rfl) | split
    | (with_reducible refine Does.of_pair (by with_reducible assumption) ?_))

theorem State.ownRelease_does {W : Nat} (hW : Covers W 0x2100002FC7F84E1E0) {s₀ : State} (h : BitVec 10) (m : CohMsg) (med : Medium) {s : State} (hk : Does W s₀ s) :
    Does W s₀ (State.ownRelease s h m med) := by
  unfold State.ownRelease
  try dsimp only
  repeat' (first
    | with_reducible assumption | with_reducible apply State.reply_does (hW.of rfl)
    | with_reducible apply State.hold_does (hW.of rfl) | with_reducible apply State.wbmAt_does (hW.of rfl)
    | with_reducible apply State.evcAt_does (hW.of rfl) | split
    | (with_reducible refine Does.of_pair (by with_reducible assumption) ?_))

theorem State.takeAck_does {W : Nat} (hW : Covers W 0x1800000) {s₀ : State} (hub l : Nat) (t : Tx) (x : Snoop) (st : Moesi) {s : State} (hk : Does W s₀ s) :
    Does W s₀ (State.takeAck s hub l t x st) := by
  unfold State.takeAck
  try dsimp only
  repeat' (first
    | with_reducible assumption | with_reducible apply State.setWay_does (hW.of rfl)
    | with_reducible apply State.setTx_does (hW.of rfl) | with_reducible apply State.ownerGone_does (hW.of rfl) | split
    | (with_reducible refine Does.of_pair (by with_reducible assumption) ?_)
    | (with_reducible intro _; intros; (try dsimp only)))

theorem State.takeRspI_does {W : Nat} (hW : Covers W 0x1800000) {s₀ : State} (hub l : Nat) (t : Tx) (x : Snoop) {s : State} (hk : Does W s₀ s) :
    Does W s₀ (State.takeRspI s hub l t x) := by
  unfold State.takeRspI
  try dsimp only
  repeat' (first
    | with_reducible assumption | with_reducible apply State.setTx_does (hW.of rfl)
    | with_reducible apply State.ownerGone_does (hW.of rfl) | with_reducible apply State.sharerGone_does (hW.of rfl) | split)

theorem State.takeRspWb_does {W : Nat} (hW : Covers W 0x2DC01840100) {s₀ : State} (hub l : Nat) (t : Tx) (x : Snoop) (m : CohMsg) (med : Medium) {s : State} (hk : Does W s₀ s) :
    Does W s₀ (State.takeRspWb s hub l t x m med) := by
  unfold State.takeRspWb
  try dsimp only
  repeat' (first
    | with_reducible assumption | with_reducible apply State.writeLine_does (hW.of rfl)
    | with_reducible apply State.setWay_does (hW.of rfl) | with_reducible apply State.setTx_does (hW.of rfl)
    | with_reducible apply State.writeBack_does (hW.of rfl) | with_reducible apply State.ownerGone_does (hW.of rfl)
    | with_reducible apply State.sharerGone_does (hW.of rfl) | with_reducible apply Does.getD | split
    | (with_reducible refine Does.of_pair (by with_reducible assumption) ?_)
    | (with_reducible intro _; intros; (try dsimp only)))

theorem State.answerAt_does {W : Nat} (hW : Covers W 0x2100002FC6F84E1E0) {s₀ : State} (l hub : Nat) (t : Tx) (x : Snoop) (m : CohMsg) (med : Medium) {s : State} (hk : Does W s₀ s) :
    Does W s₀ (State.answerAt s l hub t x m med) := by
  unfold State.answerAt
  try dsimp only
  repeat' (first
    | with_reducible assumption | with_reducible apply State.advanceTx_does (hW.of rfl)
    | with_reducible apply State.takeAck_does (hW.of rfl) | with_reducible apply State.takeRspI_does (hW.of rfl)
    | with_reducible apply State.takeRspWb_does (hW.of rfl) | split
    | (with_reducible refine Does.of_pair (by with_reducible assumption) ?_))

theorem State.takeFwd_does {W : Nat} (hW : Covers W 0x2100002FC6F84E1E0) {s₀ : State} (h : BitVec 10) (m : CohMsg) (med : Medium) {s : State} (hk : Does W s₀ s) :
    Does W s₀ (State.takeFwd s h m med) := by
  unfold State.takeFwd
  try dsimp only
  repeat' (first
    | with_reducible assumption | with_reducible apply State.setTx_does (hW.of rfl)
    | with_reducible apply State.advanceTx_does (hW.of rfl) | with_reducible apply Does.getD | split
    | (with_reducible refine Does.of_pair (by with_reducible assumption) ?_)
    | (with_reducible intro _; intros; (try dsimp only)))

theorem State.cohAnswer_does {W : Nat} (hW : Covers W 0x2100002FC7F84E1E0) {s₀ : State} (h : BitVec 10) (m : CohMsg) (med : Medium) {s : State} (hk : Does W s₀ s) :
    Does W s₀ (State.cohAnswer s h m med) := by
  unfold State.cohAnswer
  try dsimp only
  repeat' (first
    | with_reducible assumption | with_reducible apply State.hold_does (hW.of rfl)
    | with_reducible apply State.answerAt_does (hW.of rfl) | with_reducible apply State.takeFwd_does (hW.of rfl) | split
    | (with_reducible refine Does.of_pair (by with_reducible assumption) ?_))

theorem State.ownerDied_does {W : Nat} (hW : Covers W 0x21000025C2984E1E0) {s₀ : State} (hub l : Nat) (t : Tx) (d : Nat) {s : State} (hk : Does W s₀ s) :
    Does W s₀ (State.ownerDied s hub l t d) := by
  unfold State.ownerDied
  try dsimp only
  repeat' (first
    | with_reducible assumption | with_reducible apply State.setTx_does (hW.of rfl)
    | with_reducible apply State.snoopAll_does (hW.of rfl) | with_reducible apply State.losePoison_does (hW.of rfl) | split
    | (with_reducible refine Does.of_pair (by with_reducible assumption) ?_) | with_reducible apply Does.upd_800000 (hW.of rfl))

theorem State.dropQueued_does {W : Nat} (hW : Covers W 0x41000000) {s₀ : State} (d : BitVec 10) (l : Nat) {s : State} (hk : Does W s₀ s) :
    Does W s₀ (State.dropQueued s d l) := by
  unfold State.dropQueued
  try dsimp only
  repeat' (first
    | with_reducible assumption | with_reducible apply State.setOrder_does (hW.of rfl)
    | with_reducible apply State.accLine_does (hW.of rfl) | (with_reducible apply Does.foldl; intro _ _ _) | split
    | (with_reducible refine Does.of_pair (by with_reducible assumption) ?_)
    | (with_reducible intro _; intros; (try dsimp only)))

theorem State.deadOnLine_does {W : Nat} (hW : Covers W 0x2100002FC6F84E1E0) {s₀ : State} (d : BitVec 10) (m : Medium) (l : Nat) {s : State} (hk : Does W s₀ s) :
    Does W s₀ (State.deadOnLine s d m l) := by
  unfold State.deadOnLine
  try dsimp only
  repeat' (first
    | with_reducible assumption | with_reducible apply State.setTx_does (hW.of rfl)
    | with_reducible apply State.dispatchTx_does (hW.of rfl) | with_reducible apply State.advanceTx_does (hW.of rfl)
    | with_reducible apply State.ownerGone_does (hW.of rfl) | with_reducible apply State.sharerGone_does (hW.of rfl)
    | with_reducible apply State.ownerDied_does (hW.of rfl) | with_reducible apply State.dropQueued_does (hW.of rfl)
    | (with_reducible apply Does.foldl; intro _ _ _) | split
    | (with_reducible refine Does.of_pair (by with_reducible assumption) ?_)
    | (with_reducible intro _; intros; (try dsimp only)))

theorem State.deadQueues_does {W : Nat} (hW : Covers W 0xC00000000000) {s₀ : State} (d : Nat) {s : State} (hk : Does W s₀ s) :
    Does W s₀ (State.deadQueues s d) := by
  unfold State.deadQueues
  try dsimp only
  repeat' (first
    | with_reducible assumption | with_reducible apply State.queIdle_does (hW.of rfl)
    | (with_reducible apply Does.foldl; intro _ _ _) | split | with_reducible apply Does.upd_400000000000 (hW.of rfl)
    | (with_reducible intro _; intros; (try dsimp only)))

theorem State.deadSource_does {W : Nat} (hW : Covers W 0x252FC5AFCEF84E1E0) {s₀ : State} (d : Nat) {s : State} (hk : Does W s₀ s) :
    Does W s₀ (State.deadSource s d) := by
  unfold State.deadSource
  try dsimp only
  repeat' (first
    | with_reducible assumption | with_reducible apply State.gateFault_does (hW.of rfl)
    | (with_reducible apply Does.foldl; intro _ _ _) | split | with_reducible apply Does.upd_200000000000000 (hW.of rfl)
    | (with_reducible intro _; intros; (try dsimp only)))

theorem State.declareDead_does {W : Nat} (hW : Covers W 0x252FCDBFFFFA4E1E0) {s₀ : State} (d : BitVec 10) (m : Medium) {s : State} (hk : Does W s₀ s) :
    Does W s₀ (State.declareDead s d m) := by
  unfold State.declareDead
  try dsimp only
  repeat' (first
    | with_reducible assumption | with_reducible apply State.modHost_does (hW.of rfl)
    | with_reducible apply State.cohEnd_does (hW.of rfl) | with_reducible apply State.deadOnLine_does (hW.of rfl)
    | with_reducible apply State.deadQueues_does (hW.of rfl) | with_reducible apply State.deadSource_does (hW.of rfl)
    | (with_reducible apply Does.foldl; intro _ _ _) | split | with_reducible apply Does.upd_100000015A206000 (hW.of rfl)
    | with_reducible exact id | with_reducible exact le_rfl | with_reducible exact Nat.le_add_right _ _
    | with_reducible exact satAdd_le _ _ | (rw [Ten.dropLinks_epoch]) | (with_reducible intro _; intros; (try dsimp only))
    | exact Nat.le_refl _)

theorem State.cohDeadQuery_does {W : Nat} (hW : Covers W 0x20000000) {s₀ : State} (h : BitVec 10) {s : State} (hk : Does W s₀ s) :
    Does W s₀ (State.cohDeadQuery s h) := by
  unfold State.cohDeadQuery
  try dsimp only
  repeat' (first | with_reducible assumption | with_reducible apply Does.upd_20000000 (hW.of rfl))

theorem State.cohDeclare_does {W : Nat} (hW : Covers W 0x252FCDBFFFFA4E1E0) {s₀ : State} (h : BitVec 10) (m : Medium) {s : State} (hk : Does W s₀ s) :
    Does W s₀ (State.cohDeclare s h m) := by
  unfold State.cohDeclare
  try dsimp only
  repeat' (first
    | with_reducible assumption | with_reducible apply State.declareDead_does (hW.of rfl) | split
    | with_reducible apply Does.upd_20000000 (hW.of rfl))

theorem State.readmit_does {W : Nat} (hW : Covers W 0x1400000008000) {s₀ : State} (h : Nat) {s : State} (hk : Does W s₀ s) :
    Does W s₀ (State.readmit s h) := by
  unfold State.readmit
  try dsimp only
  repeat' (first | with_reducible assumption | split | with_reducible apply Does.upd_1400000008000 (hW.of rfl))

theorem State.cohReadmit_does {W : Nat} (hW : Covers W 0x1400020008000) {s₀ : State} (h : BitVec 10) {s : State} (hk : Does W s₀ s) :
    Does W s₀ (State.cohReadmit s h) := by
  unfold State.cohReadmit
  try dsimp only
  repeat' (first
    | with_reducible assumption | with_reducible apply State.readmit_does (hW.of rfl) | split
    | with_reducible apply Does.upd_20000000 (hW.of rfl))

theorem State.clearReclaim_does {W : Nat} (hW : Covers W 0x8000000) {s₀ : State} (hub : Nat) {s : State} (hk : Does W s₀ s) :
    Does W s₀ (State.clearReclaim s hub) := by
  unfold State.clearReclaim
  try dsimp only
  repeat' (first | with_reducible assumption | with_reducible apply State.modCohHub_does (hW.of rfl))

theorem State.bulkFatal_does {W : Nat} (hW : Covers W 0x2100000000000E1E0) {s₀ : State} (h : BitVec 10) (tag : BitVec 12) (addr bytes : Nat) {s : State} (hk : Does W s₀ s) :
    Does W s₀ (State.bulkFatal s h tag addr bytes) := by
  unfold State.bulkFatal
  try dsimp only
  repeat' (first | with_reducible assumption | with_reducible apply State.bulkDone_does (hW.of rfl))

theorem State.bulkReadNow_does {W : Nat} (hW : Covers W 0x2100002FCEF84E1E0) {s₀ : State} (h : BitVec 10) (tag : BitVec 12) (addr bytes : Nat) (media : List Medium) {s : State} (hk : Does W s₀ s) :
    Does W s₀ (State.bulkReadNow s h tag addr bytes media) := by
  unfold State.bulkReadNow
  try dsimp only
  repeat' (first | with_reducible assumption | with_reducible apply State.startHost_does (hW.of rfl))

theorem State.bulkWriteNow_does {W : Nat} (hW : Covers W 0x2100002FCEF84E1E0) {s₀ : State} (h : BitVec 10) (tag : BitVec 12) (addr : Nat) (data : List Byte) (media : List Medium) {s : State} (hk : Does W s₀ s) :
    Does W s₀ (State.bulkWriteNow s h tag addr data media) := by
  unfold State.bulkWriteNow
  try dsimp only
  repeat' (first | with_reducible assumption | with_reducible apply State.startHost_does (hW.of rfl))

theorem State.deliver_does {W : Nat} (hW : Covers W 0x610005BFEFFA4E1E0) {s₀ : State} (x : HeldMsg) (m : Medium) {s : State} (hk : Does W s₀ s) :
    Does W s₀ (State.deliver s x m) := by
  unfold State.deliver
  try dsimp only
  repeat' (first
    | with_reducible assumption | with_reducible apply State.cohEnd_does (hW.of rfl)
    | with_reducible apply State.hold_does (hW.of rfl) | with_reducible apply State.homeRequest_does (hW.of rfl)
    | with_reducible apply State.ownRelease_does (hW.of rfl) | with_reducible apply State.cohAnswer_does (hW.of rfl)
    | with_reducible apply State.bulkReadNow_does (hW.of rfl) | with_reducible apply State.bulkWriteNow_does (hW.of rfl) | split
    | (with_reducible refine Does.of_pair (by with_reducible assumption) ?_))

theorem State.popHeld_does {W : Nat} (hW : Covers W 0x10000000) {s₀ : State} (key : Nat) {s : State} (hk : Does W s₀ s) :
    Does W s₀ (State.popHeld s key) := by
  unfold State.popHeld
  try dsimp only
  repeat' (first
    | with_reducible assumption | split | (with_reducible refine Does.of_pair (by with_reducible assumption) ?_)
    | with_reducible apply Does.upd_10000000 (hW.of rfl) | (with_reducible intro _; intros; (try dsimp only)))

theorem State.deliverOne_does {W : Nat} (hW : Covers W 0x610005BFEFFA4E1E0) {s₀ : State} (key : Nat) (x : HeldMsg) (m : Medium) {s : State} (hk : Does W s₀ s) :
    Does W s₀ (State.deliverOne s key x m) := by
  unfold State.deliverOne
  try dsimp only
  repeat' (first
    | with_reducible assumption | with_reducible apply State.cohEnd_does (hW.of rfl)
    | with_reducible apply State.deadOnLine_does (hW.of rfl) | with_reducible apply State.deliver_does (hW.of rfl)
    | with_reducible apply State.popHeld_does (hW.of rfl) | (with_reducible apply Does.foldl; intro _ _ _) | split
    | (with_reducible intro _; intros; (try dsimp only)))

theorem State.deliverHeld_does {W : Nat} (hW : Covers W 0x610005BFEFFA4E1E0) {s₀ : State} (key : Nat) (m : Medium) {s : State} (hk : Does W s₀ s) :
    Does W s₀ (State.deliverHeld s key m) := by
  unfold State.deliverHeld
  try dsimp only
  repeat' (first
    | with_reducible assumption | with_reducible apply State.deliverOne_does (hW.of rfl)
    | (with_reducible apply Does.foldl; intro _ _ _))

theorem State.carve_does {W : Nat} (hW : Covers W 0xC0000) {s₀ : State} (c e : Nat) (fine : BitVec 8) {s : State} (hk : Does W s₀ s) :
    Does W s₀ (State.carve s c e fine) := by
  unfold State.carve
  try dsimp only
  repeat' (first
    | with_reducible assumption | (with_reducible apply Does.foldl; intro _ _ _) | split
    | with_reducible apply Does.upd_C0000 (hW.of rfl))

theorem State.uncarve_does {W : Nat} (hW : Covers W 0x40000C0000) {s₀ : State} (e : Nat) {s : State} (hk : Does W s₀ s) :
    Does W s₀ (State.uncarve s e) := by
  unfold State.uncarve
  try dsimp only
  repeat' (first
    | with_reducible assumption | with_reducible apply State.relayDeep_does (hW.of rfl)
    | (with_reducible apply Does.foldl; intro _ _ _) | split
    | (with_reducible refine Does.of_pair (by with_reducible assumption) ?_) | with_reducible apply Does.upd_C0000 (hW.of rfl)
    | with_reducible apply Does.upd_80000 (hW.of rfl) | with_reducible apply Does.upd_40000 (hW.of rfl)
    | (with_reducible intro _; intros; (try dsimp only)))

theorem State.atomReleaseExtent_does {W : Nat} (hW : Covers W 0x25C04840100) {s₀ : State} (e : Nat) {s : State} (hk : Does W s₀ s) :
    Does W s₀ (State.atomReleaseExtent s e) := by
  unfold State.atomReleaseExtent
  try dsimp only
  repeat' (first
    | with_reducible assumption | with_reducible apply State.atomRelease_does (hW.of rfl)
    | (with_reducible apply Does.foldl; intro _ _ _))

theorem State.modEntry_does {W : Nat} (hW : Covers W 0x100000) {s₀ : State} (host base : Nat) (f : MapEntry → MapEntry) {s : State} (hk : Does W s₀ s) :
    Does W s₀ (State.modEntry s host base f) := by
  unfold State.modEntry
  try dsimp only
  repeat' (first
    | with_reducible assumption | split | (with_reducible refine Does.of_pair (by with_reducible assumption) ?_)
    | with_reducible apply Does.upd_100000 (hW.of rfl) | (with_reducible intro _; intros; (try dsimp only)))

theorem State.dropEntry_does {W : Nat} (hW : Covers W 0x100000) {s₀ : State} (host base : Nat) {s : State} (hk : Does W s₀ s) :
    Does W s₀ (State.dropEntry s host base) := by
  unfold State.dropEntry
  try dsimp only
  repeat' (first | with_reducible assumption | split | with_reducible apply Does.upd_100000 (hW.of rfl))

theorem State.entryEvent_does {W : Nat} (hW : Covers W 0x2100078000000E1E0) {s₀ : State} (type status host base e rights : Nat) (session : Option (Nat × BitVec 32)) (ends : Bool) {s : State} (hk : Does W s₀ s) :
    Does W s₀ (State.entryEvent s type status host base e rights session ends) := by
  unfold State.entryEvent
  try dsimp only
  repeat' (first | with_reducible assumption | with_reducible apply State.extentEvent_does (hW.of rfl))

theorem State.grantDo_does {W : Nat} (hW : Covers W 0x2100078000010E1E0) {s₀ : State} (c : CarveCmd) (ses : Option (Nat × BitVec 32)) {s : State} (hk : Does W s₀ s) :
    Does W s₀ (State.grantDo s c ses) := by
  unfold State.grantDo
  try dsimp only
  repeat' (first
    | with_reducible assumption | with_reducible apply State.entryEvent_does (hW.of rfl)
    | with_reducible apply Does.upd_100000 (hW.of rfl))

theorem State.rightsDo_does {W : Nat} (hW : Covers W 0x211907A5C04B4E1E0) {s₀ : State} (c : CarveCmd) (ses : Option (Nat × BitVec 32)) {s : State} (hk : Does W s₀ s) :
    Does W s₀ (State.rightsDo s c ses).2 := by
  unfold State.rightsDo
  try dsimp only
  repeat' (first
    | with_reducible assumption | with_reducible apply State.shootExtent_does (hW.of rfl)
    | with_reducible apply State.atomReleaseExtent_does (hW.of rfl) | with_reducible apply State.modEntry_does (hW.of rfl)
    | with_reducible apply State.entryEvent_does (hW.of rfl) | split
    | (with_reducible refine Does.of_pair (by with_reducible assumption) ?_) | with_reducible apply Does.upd_200000 (hW.of rfl))

theorem State.withdrawDo_does {W : Nat} (hW : Covers W 0x211907A5C06B4E1E0) {s₀ : State} (c : CarveCmd) (ses : Option (Nat × BitVec 32)) {s : State} (hk : Does W s₀ s) :
    Does W s₀ (State.withdrawDo s c ses) := by
  unfold State.withdrawDo
  try dsimp only
  repeat' (first
    | with_reducible assumption | with_reducible apply State.shootExtent_does (hW.of rfl)
    | with_reducible apply State.atomReleaseExtent_does (hW.of rfl) | with_reducible apply State.modEntry_does (hW.of rfl)
    | with_reducible apply State.entryEvent_does (hW.of rfl) | split
    | (with_reducible refine Does.of_pair (by with_reducible assumption) ?_) | with_reducible apply Does.upd_2200000 (hW.of rfl))

theorem State.carveDo_does {W : Nat} (hW : Covers W 0x211907A5C06FCE1E0) {s₀ : State} (w : CarveWait) {s : State} (hk : Does W s₀ s) :
    Does W s₀ (State.carveDo s w).2 := by
  unfold State.carveDo
  try dsimp only
  repeat' (first
    | with_reducible assumption | with_reducible apply State.carve_does (hW.of rfl)
    | with_reducible apply State.uncarve_does (hW.of rfl) | with_reducible apply State.grantDo_does (hW.of rfl)
    | with_reducible apply State.rightsDo_does (hW.of rfl) | with_reducible apply State.withdrawDo_does (hW.of rfl) | split
    | (with_reducible refine Does.of_pair (by with_reducible assumption) ?_) | with_reducible apply Does.upd_400000 (hW.of rfl))

theorem State.sendGresult_does {W : Nat} (hW : Covers W 0x2100000000000E1E0) {s₀ : State} (host : BitVec 10) (gtag : BitVec 12) (st : PStatus) (backoff : BitVec 4) (data : List Byte) {s : State} (hk : Does W s₀ s) :
    Does W s₀ (State.sendGresult s host gtag st backoff data) := by
  unfold State.sendGresult
  try dsimp only
  repeat' (first
    | with_reducible assumption | with_reducible apply State.sendPkt_does (hW.of rfl)
    | (with_reducible apply Does.foldl; intro _ _ _))

theorem State.sendRefused_does {W : Nat} (hW : Covers W 0x2100000000000E1E0) {s₀ : State} (src : BitVec 10) (job expert token step part reason : Nat) (backoff : BitVec 4) {s : State} (hk : Does W s₀ s) :
    Does W s₀ (State.sendRefused s src job expert token step part reason backoff) := by
  unfold State.sendRefused
  try dsimp only
  repeat' (first | with_reducible assumption | with_reducible apply State.sendPkt_does (hW.of rfl))

theorem State.failEngine_does {W : Nat} (hW : Covers W 0x2100000000000E1E0) {s₀ : State} (x : EngineMsg) {s : State} (hk : Does W s₀ s) :
    Does W s₀ (State.failEngine s x) := by
  unfold State.failEngine
  try dsimp only
  repeat' (first
    | with_reducible assumption | with_reducible apply State.sendGresult_does (hW.of rfl)
    | with_reducible apply State.sendRefused_does (hW.of rfl) | split
    | (with_reducible refine Does.of_pair (by with_reducible assumption) ?_)
    | (with_reducible intro _; intros; (try dsimp only)))

theorem State.failReq_does {W : Nat} (hW : Covers W 0x2100000000000E1E0) {s₀ : State} (r : LineReq) {s : State} (hk : Does W s₀ s) :
    Does W s₀ (State.failReq s r) := by
  unfold State.failReq
  try dsimp only
  repeat' (first
    | with_reducible assumption | with_reducible apply State.reply_does (hW.of rfl) | split
    | (with_reducible refine Does.of_pair (by with_reducible assumption) ?_))

theorem State.failAccess_does {W : Nat} (hW : Covers W 0x2100000000000E1E0) {s₀ : State} (a : Access) {s : State} (hk : Does W s₀ s) :
    Does W s₀ (State.failAccess s a) := by
  unfold State.failAccess
  try dsimp only
  repeat' (first
    | with_reducible assumption | with_reducible apply State.bulkFatal_does (hW.of rfl) | split
    | (with_reducible refine Does.of_pair (by with_reducible assumption) ?_))

theorem State.failGathers_does {W : Nat} (hW : Covers W 0x2104000000000E1E0) {s₀ : State} (h : Nat) {s : State} (hk : Does W s₀ s) :
    Does W s₀ (State.failGathers s h) := by
  unfold State.failGathers
  try dsimp only
  repeat' (first
    | with_reducible assumption | with_reducible apply State.modSlg_does (hW.of rfl)
    | with_reducible apply State.sendGresult_does (hW.of rfl) | (with_reducible apply Does.foldl; intro _ _ _))

theorem State.failTx_does {W : Nat} (hW : Covers W 0x2100000000000E1E0) {s₀ : State} (t : Tx) {s : State} (hk : Does W s₀ s) :
    Does W s₀ (State.failTx s t) := by
  unfold State.failTx
  try dsimp only
  repeat' (first
    | with_reducible assumption | with_reducible apply State.reply_does (hW.of rfl)
    | with_reducible apply State.failReq_does (hW.of rfl) | (with_reducible apply Does.foldl; intro _ _ _) | split
    | (with_reducible intro _; intros; (try dsimp only)))

theorem State.failCoh_does {W : Nat} (hW : Covers W 0x2100000000000E1E0) {s₀ : State} (h : BitVec 10) (m : CohMsg) {s : State} (hk : Does W s₀ s) :
    Does W s₀ (State.failCoh s h m) := by
  unfold State.failCoh
  try dsimp only
  repeat' (first
    | with_reducible assumption | with_reducible apply State.reply_does (hW.of rfl) | split
    | (with_reducible refine Does.of_pair (by with_reducible assumption) ?_)
    | (with_reducible intro _; intros; (try dsimp only)))

theorem State.failHeld_does {W : Nat} (hW : Covers W 0x2100000000000E1E0) {s₀ : State} (x : HeldMsg) {s : State} (hk : Does W s₀ s) :
    Does W s₀ (State.failHeld s x) := by
  unfold State.failHeld
  try dsimp only
  repeat' (first
    | with_reducible assumption | with_reducible apply State.bulkFatal_does (hW.of rfl)
    | with_reducible apply State.failCoh_does (hW.of rfl) | split
    | (with_reducible refine Does.of_pair (by with_reducible assumption) ?_)
    | (with_reducible intro _; intros; (try dsimp only)))

theorem State.failRx_does {W : Nat} (hW : Covers W 0x2100000000000E1E0) {s₀ : State} (k : Nat) (x : BulkRx) {s : State} (hk : Does W s₀ s) :
    Does W s₀ (State.failRx s k x) := by
  unfold State.failRx
  try dsimp only
  repeat' (first
    | with_reducible assumption | with_reducible apply State.bulkFatal_does (hW.of rfl) | split
    | (with_reducible intro _; intros; (try dsimp only)))

theorem State.failAll_does {W : Nat} (hW : Covers W 0x2144278015140E1E0) {s₀ : State} {s : State} (hk : Does W s₀ s) :
    Does W s₀ (State.failAll s) := by
  unfold State.failAll
  try dsimp only
  repeat' (first
    | with_reducible assumption | with_reducible apply State.completeStatus_does (hW.of rfl)
    | with_reducible apply State.kmpLater_does (hW.of rfl) | with_reducible apply State.failEngine_does (hW.of rfl)
    | with_reducible apply State.failReq_does (hW.of rfl) | with_reducible apply State.failAccess_does (hW.of rfl)
    | with_reducible apply State.failGathers_does (hW.of rfl) | with_reducible apply State.failTx_does (hW.of rfl)
    | with_reducible apply State.failHeld_does (hW.of rfl) | with_reducible apply State.failRx_does (hW.of rfl)
    | (with_reducible apply Does.foldl; intro _ _ _) | split
    | (with_reducible refine Does.of_pair (by with_reducible assumption) ?_)
    | with_reducible apply Does.upd_151400000 (hW.of rfl) | with_reducible apply Does.upd_400000000000000 (hW.of rfl)
    | with_reducible exact id | with_reducible exact le_rfl | with_reducible exact Nat.le_add_right _ _
    | with_reducible exact laterSerial_le _ _ | (with_reducible intro _; intros; (try dsimp only)) | exact Nat.le_refl _)

theorem State.goFatal_does {W : Nat} (hW : Covers W 0x2144278015140E1EC) {s₀ : State} {s : State} (hk : Does W s₀ s) :
    Does W s₀ (State.goFatal s) := by
  unfold State.goFatal
  try dsimp only
  repeat' (first
    | with_reducible assumption | with_reducible apply State.failAll_does (hW.of rfl)
    | (with_reducible apply Does.foldl; intro _ _ _) | split | with_reducible apply Does.upd_C (hW.of rfl))

theorem State.snowHub_does {W : Nat} (hW : Covers W 0x4000000000000000) {s₀ : State} (c : SnowCause) (h : Nat) {s : State} (hk : Does W s₀ s) :
    Does W s₀ (State.snowHub s c h) := by
  unfold State.snowHub
  try dsimp only
  repeat' (first | with_reducible assumption | with_reducible apply State.modPwr_does (hW.of rfl) | split)

theorem State.snow_does {W : Nat} (hW : Covers W 0xC000000000000000) {s₀ : State} (c : SnowCause) (hs : List Nat) (feed : Bool) {s : State} (hk : Does W s₀ s) :
    Does W s₀ (State.snow s c hs feed) := by
  unfold State.snow
  try dsimp only
  repeat' (first
    | with_reducible assumption | with_reducible apply State.snowHub_does (hW.of rfl)
    | (with_reducible apply Does.foldl; intro _ _ _) | split | (with_reducible refine Does.of_pair (by with_reducible assumption) ?_)
    | with_reducible apply Does.upd_8000000000000000 (hW.of rfl))

theorem State.thermalTrip_does {W : Nat} (hW : Covers W 0xC000000000000000) {s₀ : State} (h : Nat) (c : SnowCause) {s : State} (hk : Does W s₀ s) :
    Does W s₀ (State.thermalTrip s h c) := by
  unfold State.thermalTrip
  try dsimp only
  repeat' (first
    | with_reducible assumption | with_reducible apply State.modPwr_does (hW.of rfl)
    | with_reducible apply State.snow_does (hW.of rfl) | split)

theorem State.holdB_does {W : Nat} (hW : Covers W 0xC000000000000000) {s₀ : State} {s : State} (hk : Does W s₀ s) :
    Does W s₀ (State.holdB s) := by
  unfold State.holdB
  try dsimp only
  repeat' (first
    | with_reducible assumption | with_reducible apply State.modPwr_does (hW.of rfl) | (with_reducible apply Does.foldl; intro _ _ _)
    | split | with_reducible apply Does.upd_8000000000000000 (hW.of rfl))

theorem State.releaseHold_does {W : Nat} (hW : Covers W 0x8000000000000000) {s₀ : State} {s : State} (hk : Does W s₀ s) :
    Does W s₀ (State.releaseHold s) := by
  unfold State.releaseHold
  try dsimp only
  repeat' (first | with_reducible assumption | with_reducible apply Does.upd_8000000000000000 (hW.of rfl))

theorem State.snowTest_does {W : Nat} (hW : Covers W 0xC000000000000000) {s₀ : State} {s : State} (hk : Does W s₀ s) :
    Does W s₀ (State.snowTest s) := by
  unfold State.snowTest
  try dsimp only
  repeat' (first
    | with_reducible assumption | with_reducible apply State.snow_does (hW.of rfl)
    | with_reducible apply Does.upd_8000000000000000 (hW.of rfl))

theorem State.modGate_does {W : Nat} (hW : Covers W 0x20000000000000) {s₀ : State} (j e : Nat) (f : Gate → Gate) {s : State} (hk : Does W s₀ s) :
    Does W s₀ (State.modGate s j e f) := by
  unfold State.modGate
  try dsimp only
  repeat' (first | with_reducible assumption | with_reducible apply Does.upd_20000000000000 (hW.of rfl))

theorem State.setArriving_does {W : Nat} (hW : Covers W 0x200000000000000) {s₀ : State} (src : BitVec 10) (a : Option Arriving) {s : State} (hk : Does W s₀ s) :
    Does W s₀ (State.setArriving s src a) := by
  unfold State.setArriving
  try dsimp only
  repeat' (first
    | with_reducible assumption | split | (with_reducible refine Does.of_pair (by with_reducible assumption) ?_)
    | with_reducible apply Does.upd_200000000000000 (hW.of rfl) | (with_reducible intro _; intros; (try dsimp only)))

theorem State.modStep_does {W : Nat} (hW : Covers W 0x10000000000000) {s₀ : State} (j : Nat) (f : GateStep → GateStep) {s : State} (hk : Does W s₀ s) :
    Does W s₀ (State.modStep s j f) := by
  unfold State.modStep
  try dsimp only
  repeat' (first | with_reducible assumption | with_reducible apply State.modJob_does (hW.of rfl))

theorem State.landStg_does {W : Nat} (hW : Covers W 0x4000000000000) {s₀ : State} (j i : Nat) (bytes : List (Nat × Byte)) {s : State} (hk : Does W s₀ s) :
    Does W s₀ (State.landStg s j i bytes) := by
  unfold State.landStg
  try dsimp only
  repeat' (first
    | with_reducible assumption | with_reducible apply State.modLc_does (hW.of rfl) | (with_reducible apply Does.foldl; intro _ _ _)
    | split)

theorem State.landData_does {W : Nat} (hW : Covers W 0x4000000000000) {s₀ : State} (j : Nat) (g : List Byte) (n o : Nat) (data : List Byte) {s : State} (hk : Does W s₀ s) :
    Does W s₀ (State.landData s j g n o data) := by
  unfold State.landData
  try dsimp only
  repeat' (first | with_reducible assumption | with_reducible apply State.landStg_does (hW.of rfl))

theorem State.toResidual_does {W : Nat} (hW : Covers W 0x60000000000000) {s₀ : State} (j : Nat) (g : List Byte) (t : Token) {s : State} (hk : Does W s₀ s) :
    Does W s₀ (State.toResidual s j g t) := by
  unfold State.toResidual
  try dsimp only
  repeat' (first
    | with_reducible assumption | with_reducible apply State.modSlg_does (hW.of rfl)
    | with_reducible apply State.modGate_does (hW.of rfl))

theorem State.intoSpill_does {W : Nat} (hW : Covers W 0x20000000000100) {s₀ : State} (j : Nat) (g : List Byte) (l : List Token) (t : Token) {s : State} (hk : Does W s₀ s) :
    Does W s₀ (State.intoSpill s j g l t) := by
  unfold State.intoSpill
  try dsimp only
  repeat' (first
    | with_reducible assumption | with_reducible apply State.bump_does (hW.of rfl)
    | with_reducible apply State.modGate_does (hW.of rfl))

theorem State.offerSpill_does {W : Nat} (hW : Covers W 0x60000000000100) {s₀ : State} (j : Nat) (g : List Byte) (t : Token) {s : State} (hk : Does W s₀ s) :
    Does W s₀ (State.offerSpill s j g t) := by
  unfold State.offerSpill
  try dsimp only
  repeat' (first
    | with_reducible assumption | with_reducible apply State.toResidual_does (hW.of rfl)
    | with_reducible apply State.intoSpill_does (hW.of rfl) | split
    | (with_reducible refine Does.of_pair (by with_reducible assumption) ?_))

theorem State.overflowed_does {W : Nat} (hW : Covers W 0x252FC5AFCEF84E1E0) {s₀ : State} (j : Nat) (g : List Byte) (t : Token) {s : State} (hk : Does W s₀ s) :
    Does W s₀ (State.overflowed s j g t) := by
  unfold State.overflowed
  try dsimp only
  repeat' (first
    | with_reducible assumption | with_reducible apply State.gateFault_does (hW.of rfl)
    | with_reducible apply State.toResidual_does (hW.of rfl) | with_reducible apply State.offerSpill_does (hW.of rfl) | split)

theorem State.takeSlot_does {W : Nat} (hW : Covers W 0x24000000000100) {s₀ : State} (j : Nat) (g : List Byte) (n : Nat) (t : Token) {s : State} (hk : Does W s₀ s) :
    Does W s₀ (State.takeSlot s j g n t) := by
  unfold State.takeSlot
  try dsimp only
  repeat' (first
    | with_reducible assumption | with_reducible apply State.bump_does (hW.of rfl)
    | with_reducible apply State.modGate_does (hW.of rfl) | with_reducible apply State.landData_does (hW.of rfl))

theorem State.intoGate_does {W : Nat} (hW : Covers W 0x252FC5AFCEF84E1E0) {s₀ : State} (j : Nat) (g : List Byte) (t : Token) {s : State} (hk : Does W s₀ s) :
    Does W s₀ (State.intoGate s j g t) := by
  unfold State.intoGate
  try dsimp only
  repeat' (first
    | with_reducible assumption | with_reducible apply State.overflowed_does (hW.of rfl)
    | with_reducible apply State.takeSlot_does (hW.of rfl) | split
    | (with_reducible refine Does.of_pair (by with_reducible assumption) ?_))

theorem State.prepareGate_does {W : Nat} (hW : Covers W 0x4002C000000000000) {s₀ : State} (j : Nat) (g : List Byte) {s : State} (hk : Does W s₀ s) :
    Does W s₀ (State.prepareGate s j g) := by
  unfold State.prepareGate
  try dsimp only
  repeat' (first
    | with_reducible assumption | with_reducible apply State.writeStg_does (hW.of rfl)
    | with_reducible apply State.modGate_does (hW.of rfl) | (with_reducible apply Does.foldl; intro _ _ _))

theorem State.prepareGo_does {W : Nat} (hW : Covers W 0x4003C000000000000) {s₀ : State} (j : Nat) {s : State} (hk : Does W s₀ s) :
    Does W s₀ (State.prepareGo s j) := by
  unfold State.prepareGo
  try dsimp only
  repeat' (first
    | with_reducible assumption | with_reducible apply State.modStep_does (hW.of rfl)
    | with_reducible apply State.prepareGate_does (hW.of rfl) | (with_reducible apply Does.foldl; intro _ _ _) | split
    | (with_reducible intro _; intros; (try dsimp only)))

theorem State.tryClose_does {W : Nat} (hW : Covers W 0x4003C000000000000) {s₀ : State} (j src : Nat) {s : State} (hk : Does W s₀ s) :
    Does W s₀ (State.tryClose s j src) := by
  unfold State.tryClose
  try dsimp only
  repeat' (first
    | with_reducible assumption | with_reducible apply State.modStep_does (hW.of rfl)
    | with_reducible apply State.prepareGo_does (hW.of rfl) | split | (with_reducible intro _; intros; (try dsimp only)))

theorem State.refuse_does {W : Nat} (hW : Covers W 0x6104000000000E1E0) {s₀ : State} (h : Nat) (src : BitVec 10) (job expert token step part reason : Nat) {s : State} (hk : Does W s₀ s) :
    Does W s₀ (State.refuse s h src job expert token step part reason) := by
  unfold State.refuse
  try dsimp only
  repeat' (first
    | with_reducible assumption | with_reducible apply State.waitBegin_does (hW.of rfl)
    | with_reducible apply State.freeBackoff_does (hW.of rfl) | with_reducible apply State.modSlg_does (hW.of rfl)
    | with_reducible apply State.sendRefused_does (hW.of rfl) | split
    | (with_reducible refine Does.of_pair (by with_reducible assumption) ?_))

theorem State.stallEnds_does {W : Nat} (hW : Covers W 0xE0) {s₀ : State} (h : Nat) (src : BitVec 10) (job expert : Nat) {s : State} (hk : Does W s₀ s) :
    Does W s₀ (State.stallEnds s h src job expert) := by
  unfold State.stallEnds
  try dsimp only
  repeat' (first | with_reducible assumption | with_reducible apply State.waitEnd_does (hW.of rfl))

theorem State.awaitParts_does {W : Nat} (hW : Covers W 0x200000000000000) {s₀ : State} (src : BitVec 10) (j : Nat) (g : List Byte) (index : Word) (accepted : Bool) {s : State} (hk : Does W s₀ s) :
    Does W s₀ (State.awaitParts s src j g index accepted) := by
  unfold State.awaitParts
  try dsimp only
  repeat' (first
    | with_reducible assumption | with_reducible apply State.setArriving_does (hW.of rfl) | split
    | (with_reducible intro _; intros; (try dsimp only)))

theorem State.acceptToken_does {W : Nat} (hW : Covers W 0x652FC5AFCEF84E1E0) {s₀ : State} (src : BitVec 10) (j : Nat) (g : List Byte) (index weight : Word) (data : List Byte) {s : State} (hk : Does W s₀ s) :
    Does W s₀ (State.acceptToken s src j g index weight data) := by
  unfold State.acceptToken
  try dsimp only
  repeat' (first
    | with_reducible assumption | with_reducible apply State.gateFault_does (hW.of rfl)
    | with_reducible apply State.modStep_does (hW.of rfl) | with_reducible apply State.intoGate_does (hW.of rfl)
    | with_reducible apply State.tryClose_does (hW.of rfl) | with_reducible apply State.stallEnds_does (hW.of rfl)
    | with_reducible apply State.awaitParts_does (hW.of rfl) | split
    | (with_reducible refine Does.of_pair (by with_reducible assumption) ?_)
    | (with_reducible intro _; intros; (try dsimp only)))

theorem State.landPart_does {W : Nat} (hW : Covers W 0x24000000000000) {s₀ : State} (j : Nat) (g : List Byte) (index : Word) (p : Nat) (data : List Byte) {s : State} (hk : Does W s₀ s) :
    Does W s₀ (State.landPart s j g index p data) := by
  unfold State.landPart
  try dsimp only
  repeat' (first
    | with_reducible assumption | with_reducible apply State.modGate_does (hW.of rfl)
    | with_reducible apply State.landData_does (hW.of rfl) | split
    | (with_reducible refine Does.of_pair (by with_reducible assumption) ?_))

theorem State.malformed_does {W : Nat} (hW : Covers W 0x252FC5AFCEF84E1E0) {s₀ : State} (src : BitVec 10) (h j expert : Nat) {s : State} (hk : Does W s₀ s) :
    Does W s₀ (State.malformed s src h j expert) := by
  unfold State.malformed
  try dsimp only
  repeat' (first
    | with_reducible assumption | with_reducible apply State.gateFault_does (hW.of rfl)
    | with_reducible apply State.setArriving_does (hW.of rfl) | split | (with_reducible intro _; intros; (try dsimp only)))

theorem State.nextPart_does {W : Nat} (hW : Covers W 0x4023C000000000000) {s₀ : State} (src : BitVec 10) (a : Arriving) (data : List Byte) {s : State} (hk : Does W s₀ s) :
    Does W s₀ (State.nextPart s src a data) := by
  unfold State.nextPart
  try dsimp only
  repeat' (first
    | with_reducible assumption | with_reducible apply State.setArriving_does (hW.of rfl)
    | with_reducible apply State.prepareGo_does (hW.of rfl) | with_reducible apply State.landPart_does (hW.of rfl) | split
    | (with_reducible intro _; intros; (try dsimp only)))

theorem State.firstPart_does {W : Nat} (hW : Covers W 0x652FC5AFCEF84E1E0) {s₀ : State} (hub : Nat) (src : BitVec 10) (j : Nat) (g : List Byte) (token weight : Word) (step : Nat) (data : List Byte) {s : State} (hk : Does W s₀ s) :
    Does W s₀ (State.firstPart s hub src j g token weight step data) := by
  unfold State.firstPart
  try dsimp only
  repeat' (first
    | with_reducible assumption | with_reducible apply State.refuse_does (hW.of rfl)
    | with_reducible apply State.awaitParts_does (hW.of rfl) | with_reducible apply State.acceptToken_does (hW.of rfl) | split
    | (with_reducible refine Does.of_pair (by with_reducible assumption) ?_)
    | (with_reducible intro _; intros; (try dsimp only)))

theorem State.tokenIn_does {W : Nat} (hW : Covers W 0x652FC5AFCEF84E1E0) {s₀ : State} (hub : Fin 8) (src : BitVec 10) (job expert : BitVec 12) (token weight : Word) (step : BitVec 20) (part : BitVec 16) (data : List Byte) {s : State} (hk : Does W s₀ s) :
    Does W s₀ (State.tokenIn s hub src job expert token weight step part data) := by
  unfold State.tokenIn
  try dsimp only
  repeat' (first
    | with_reducible assumption | with_reducible apply State.sendRefused_does (hW.of rfl)
    | with_reducible apply State.refuse_does (hW.of rfl) | with_reducible apply State.malformed_does (hW.of rfl)
    | with_reducible apply State.nextPart_does (hW.of rfl) | with_reducible apply State.firstPart_does (hW.of rfl) | split
    | (with_reducible refine Does.of_pair (by with_reducible assumption) ?_)
    | (with_reducible intro _; intros; (try dsimp only)))

theorem State.closeIn_does {W : Nat} (hW : Covers W 0x652FC5AFCEF84E1E0) {s₀ : State} (hub : Fin 8) (src : BitVec 10) (job : BitVec 12) (count : Word) (step : BitVec 20) {s : State} (hk : Does W s₀ s) :
    Does W s₀ (State.closeIn s hub src job count step) := by
  unfold State.closeIn
  try dsimp only
  repeat' (first
    | with_reducible assumption | with_reducible apply State.gateFault_does (hW.of rfl)
    | with_reducible apply State.sendRefused_does (hW.of rfl) | with_reducible apply State.modStep_does (hW.of rfl)
    | with_reducible apply State.tryClose_does (hW.of rfl) | with_reducible apply State.refuse_does (hW.of rfl) | split
    | (with_reducible refine Does.of_pair (by with_reducible assumption) ?_)
    | (with_reducible intro _; intros; (try dsimp only)))

theorem State.setGather_does {W : Nat} (hW : Covers W 0x40000000000000) {s₀ : State} (h : Nat) (g : Gather) {s : State} (hk : Does W s₀ s) :
    Does W s₀ (State.setGather s h g) := by
  unfold State.setGather
  try dsimp only
  repeat' (first | with_reducible assumption | with_reducible apply State.modSlg_does (hW.of rfl) | split)

theorem State.dropGather_does {W : Nat} (hW : Covers W 0x40000000000000) {s₀ : State} (h : Nat) (g : Gather) {s : State} (hk : Does W s₀ s) :
    Does W s₀ (State.dropGather s h g) := by
  unfold State.dropGather
  try dsimp only
  repeat' (first | with_reducible assumption | with_reducible apply State.modSlg_does (hW.of rfl))

theorem State.gatherReads_does {W : Nat} (hW : Covers W 0x2100002FCEF84E1E0) {s₀ : State} (h : Nat) (host : BitVec 10) (n : Nat) (media : List Medium) :
    ∀ (l0 : List Nat), ∀ {s : State}, Does W s₀ s → Does W s₀ (State.gatherReads s h host n media l0).2 := by
  intro l0
  induction l0 generalizing h host n media with
  | nil =>
    intro s hk
    unfold State.gatherReads
    try dsimp only
    repeat' (first
      | with_reducible assumption | with_reducible apply State.bump_does (hW.of rfl)
      | with_reducible apply State.startHost_does (hW.of rfl) | split
      | (with_reducible refine Does.of_pair (by with_reducible assumption) ?_)
      | (with_reducible intro _; intros; (try dsimp only)))
  | cons x r ih =>
    intro s hk
    unfold State.gatherReads
    try dsimp only
    repeat' (first
      | with_reducible apply ih | with_reducible assumption | with_reducible apply State.bump_does (hW.of rfl)
      | with_reducible apply State.startHost_does (hW.of rfl) | split
      | (with_reducible refine Does.of_pair (by with_reducible assumption) ?_)
      | (with_reducible intro _; intros; (try dsimp only)))

theorem State.gatherGo_does {W : Nat} (hW : Covers W 0x210405BFEEFA4E1E0) {s₀ : State} (h : Nat) (g : Gather) (media : List Medium) {s : State} (hk : Does W s₀ s) :
    Does W s₀ (State.gatherGo s h g media) := by
  unfold State.gatherGo
  try dsimp only
  repeat' (first
    | with_reducible assumption | with_reducible apply State.bump_does (hW.of rfl)
    | with_reducible apply State.cohEnd_does (hW.of rfl) | with_reducible apply State.setGather_does (hW.of rfl)
    | with_reducible apply State.gatherReads_does (hW.of rfl) | split
    | (with_reducible refine Does.of_pair (by with_reducible assumption) ?_))

theorem State.gatherPacket_does {W : Nat} (hW : Covers W 0x610405BFEEFA4E1E0) {s₀ : State} (h : Nat) (g : Gather) (part need : Nat) (data : List Byte) (valid : Gather → Option Gather) (media : List Medium) {s : State} (hk : Does W s₀ s) :
    Does W s₀ (State.gatherPacket s h g part need data valid media) := by
  unfold State.gatherPacket
  try dsimp only
  repeat' (first
    | with_reducible assumption | with_reducible apply State.freeBackoff_does (hW.of rfl)
    | with_reducible apply State.modSlg_does (hW.of rfl) | with_reducible apply State.sendGresult_does (hW.of rfl)
    | with_reducible apply State.setGather_does (hW.of rfl) | with_reducible apply State.dropGather_does (hW.of rfl)
    | with_reducible apply State.gatherGo_does (hW.of rfl) | split
    | (with_reducible refine Does.of_pair (by with_reducible assumption) ?_))

theorem State.gatherIn_does {W : Nat} (hW : Covers W 0x610405BFEEFA4E1E0) {s₀ : State} (hub : Fin 8) (host : BitVec 10) (gtag : BitVec 12) (gop : BitVec 2) (efmt rowUnits : BitVec 8) (count : BitVec 16) (table : BitVec 52) (part : Fin 16) (data : List Byte) (media : List Medium) {s : State} (hk : Does W s₀ s) :
    Does W s₀ (State.gatherIn s hub host gtag gop efmt rowUnits count table part data media) := by
  unfold State.gatherIn
  try dsimp only
  repeat' (first
    | with_reducible assumption | with_reducible apply State.sendGresult_does (hW.of rfl)
    | with_reducible apply State.gatherPacket_does (hW.of rfl) | split | (with_reducible intro _; intros; (try dsimp only)))

theorem State.selectIn_does {W : Nat} (hW : Covers W 0x610405BFEEFA4E1E0) {s₀ : State} (hub : Fin 8) (host : BitVec 10) (gtag : BitVec 12) (k sfmt : BitVec 8) (d : BitVec 16) (sumAddr : BitVec 52) (part : BitVec 8) (data : List Byte) (media : List Medium) {s : State} (hk : Does W s₀ s) :
    Does W s₀ (State.selectIn s hub host gtag k sfmt d sumAddr part data media) := by
  unfold State.selectIn
  try dsimp only
  repeat' (first
    | with_reducible assumption | with_reducible apply State.sendGresult_does (hW.of rfl)
    | with_reducible apply State.gatherPacket_does (hW.of rfl) | split | (with_reducible intro _; intros; (try dsimp only)))

theorem State.engineIn_does {W : Nat} (hW : Covers W 0x656FC5BFEEFA4E1E0) {s₀ : State} (x : EngineMsg) (media : List Medium) {s : State} (hk : Does W s₀ s) :
    Does W s₀ (State.engineIn s x media) := by
  unfold State.engineIn
  try dsimp only
  repeat' (first
    | with_reducible assumption | with_reducible apply State.tokenIn_does (hW.of rfl)
    | with_reducible apply State.closeIn_does (hW.of rfl) | with_reducible apply State.gatherIn_does (hW.of rfl)
    | with_reducible apply State.selectIn_does (hW.of rfl) | split
    | (with_reducible refine Does.of_pair (by with_reducible assumption) ?_)
    | with_reducible apply Does.upd_400000000000000 (hW.of rfl) | with_reducible exact id | with_reducible exact le_rfl
    | with_reducible exact Nat.le_add_right _ _ | with_reducible exact laterSerial_le _ _
    | (with_reducible intro _; intros; (try dsimp only)) | exact Nat.le_refl _)

theorem State.dropLoad_does {W : Nat} (hW : Covers W 0x200000040000000) {s₀ : State} (x : JLoad) {s : State} (hk : Does W s₀ s) :
    Does W s₀ (State.dropLoad s x) := by
  unfold State.dropLoad
  try dsimp only
  repeat' (first
    | with_reducible assumption | with_reducible apply State.accDrop_does (hW.of rfl)
    | with_reducible apply Does.upd_200000000000000 (hW.of rfl))

theorem State.loadFail_does {W : Nat} (hW : Covers W 0x2121458004000E1E0) {s₀ : State} (x : JLoad) (jresult cause : Nat) {s : State} (hk : Does W s₀ s) :
    Does W s₀ (State.loadFail s x jresult cause) := by
  unfold State.loadFail
  try dsimp only
  repeat' (first
    | with_reducible assumption | with_reducible apply State.completeCmd_does (hW.of rfl)
    | with_reducible apply State.dropLoad_does (hW.of rfl) | (with_reducible apply Does.foldl; intro _ _ _)
    | with_reducible apply Does.getD | split | (with_reducible refine Does.of_pair (by with_reducible assumption) ?_)
    | with_reducible apply Does.upd_14000000000000 (hW.of rfl) | (with_reducible intro _; intros; (try dsimp only)))

theorem State.retrainCmd_does {W : Nat} (hW : Covers W 0x25C00040100) {s₀ : State} (h c : Nat) {s : State} (hk : Does W s₀ s) :
    Does W s₀ (State.retrainCmd s h c) := by
  unfold State.retrainCmd
  try dsimp only
  repeat' (first
    | with_reducible assumption | with_reducible apply State.retrainAsk_does (hW.of rfl)
    | with_reducible apply State.srExit_does (hW.of rfl) | split
    | (with_reducible refine Does.of_pair (by with_reducible assumption) ?_))

theorem State.chanHeld_does {W : Nat} (hW : Covers W 0x400025C00040100) {s₀ : State} {s : State} (hk : Does W s₀ s) :
    Does W s₀ (State.chanHeld s) := by
  unfold State.chanHeld
  try dsimp only
  repeat' (first
    | with_reducible assumption | with_reducible apply State.retrainCmd_does (hW.of rfl) | split
    | (with_reducible refine Does.of_pair (by with_reducible assumption) ?_)
    | with_reducible apply Does.upd_400000000000000 (hW.of rfl) | with_reducible exact id | with_reducible exact le_rfl
    | with_reducible exact Nat.le_add_right _ _ | with_reducible exact laterSerial_le _ _
    | (with_reducible intro _; intros; (try dsimp only)) | exact Nat.le_refl _)

theorem State.srEnterCmd_does {W : Nat} (hW : Covers W 0x4000040000) {s₀ : State} (h c : Nat) {s : State} (hk : Does W s₀ s) :
    Does W s₀ (State.srEnterCmd s h c) := by
  unfold State.srEnterCmd
  try dsimp only
  repeat' (first | with_reducible assumption | with_reducible apply State.srEnter_does (hW.of rfl) | split)

theorem State.liftStart_does {W : Nat} (hW : Covers W 0x100000C0000) {s₀ : State} (e : BitVec 16) (cls : BitVec 4) (hubGiven : Bool) (hub : Nat) {s : State} (hk : Does W s₀ s) :
    Does W s₀ (State.liftStart s e cls hubGiven hub) := by
  unfold State.liftStart
  try dsimp only
  repeat' (first
    | with_reducible assumption | with_reducible apply State.carve_does (hW.of rfl) | split
    | (with_reducible refine Does.of_pair (by with_reducible assumption) ?_) | with_reducible apply Does.upd_10000000000 (hW.of rfl))

theorem State.enginesGo_does {W : Nat} (hW : Covers W 0x656FC5BFEEFA4E1E0) {s₀ : State} {s : State} (hk : Does W s₀ s) :
    Does W s₀ (State.enginesGo s) := by
  unfold State.enginesGo
  try dsimp only
  repeat' (first
    | with_reducible assumption | with_reducible apply State.engineIn_does (hW.of rfl)
    | (with_reducible apply Does.foldl; intro _ _ _) | with_reducible apply Does.upd_400000000000000 (hW.of rfl)
    | with_reducible exact id | with_reducible exact le_rfl | with_reducible exact Nat.le_add_right _ _
    | with_reducible exact laterSerial_le _ _ | exact Nat.le_refl _)

theorem State.release_does {W : Nat} (hW : Covers W 0x656FC5BFEFFA4E1E0) {s₀ : State} (m : Medium) {s : State} (hk : Does W s₀ s) :
    Does W s₀ (State.release s m) := by
  unfold State.release
  try dsimp only
  repeat' (first
    | with_reducible assumption | with_reducible apply State.tagHeads_does (hW.of rfl)
    | with_reducible apply State.deliverHeld_does (hW.of rfl) | with_reducible apply State.enginesGo_does (hW.of rfl)
    | (with_reducible apply Does.foldl; intro _ _ _))

theorem State.liftDrop_does {W : Nat} (hW : Covers W 0x656FC5BFEFFACE1E0) {s₀ : State} (j : LiftJob) (result : BitVec 4) (m : Medium) {s : State} (hk : Does W s₀ s) :
    Does W s₀ (State.liftDrop s j result m) := by
  unfold State.liftDrop
  try dsimp only
  repeat' (first
    | with_reducible assumption | with_reducible apply State.modJob_does (hW.of rfl)
    | with_reducible apply State.rebuild_does (hW.of rfl) | with_reducible apply State.uncarve_does (hW.of rfl)
    | with_reducible apply State.release_does (hW.of rfl) | (with_reducible apply Does.foldl; intro _ _ _) | split
    | with_reducible apply Does.upd_10000000000 (hW.of rfl) | (with_reducible intro _; intros; (try dsimp only)))

theorem State.liftCancel_does {W : Nat} (hW : Covers W 0x656FC5BFEFFACE1E0) {s₀ : State} (e : BitVec 16) {s : State} (hk : Does W s₀ s) :
    Does W s₀ (State.liftCancel s e) := by
  unfold State.liftCancel
  try dsimp only
  repeat' (first
    | with_reducible assumption | with_reducible apply State.liftDrop_does (hW.of rfl) | split
    | (with_reducible refine Does.of_pair (by with_reducible assumption) ?_))

theorem State.logAck_does {W : Nat} (hW : Covers W 0x20000000000) {s₀ : State} {s : State} (hk : Does W s₀ s) :
    Does W s₀ (State.logAck s) := by
  unfold State.logAck
  try dsimp only
  repeat' (first | with_reducible assumption | with_reducible apply Does.upd_20000000000 (hW.of rfl))

theorem State.retireProgress_does {W : Nat} (hW : Covers W 0x20000000000) {s₀ : State} {s : State} (hk : Does W s₀ s) :
    Does W s₀ (State.retireProgress s) := by
  unfold State.retireProgress
  try dsimp only
  repeat' (first
    | with_reducible assumption | with_reducible apply State.logRetire_does (hW.of rfl) | split
    | with_reducible apply Does.upd_20000000000 (hW.of rfl))

theorem State.retireEnd_does {W : Nat} (hW : Covers W 0x20000000000) {s₀ : State} (r : BitVec 4) {s : State} (hk : Does W s₀ s) :
    Does W s₀ (State.retireEnd s r) := by
  unfold State.retireEnd
  try dsimp only
  repeat' (first | with_reducible assumption | with_reducible apply Does.upd_20000000000 (hW.of rfl))

theorem State.pageRetire_does {W : Nat} (hW : Covers W 0x190028C00000000) {s₀ : State} {s : State} (hk : Does W s₀ s) :
    Does W s₀ (State.pageRetire s) := by
  unfold State.pageRetire
  try dsimp only
  repeat' (first
    | with_reducible assumption | with_reducible apply State.exhausted_does (hW.of rfl)
    | with_reducible apply State.rebuild_does (hW.of rfl) | with_reducible apply State.shootdown_does (hW.of rfl)
    | with_reducible apply State.retireProgress_does (hW.of rfl) | with_reducible apply State.retireEnd_does (hW.of rfl)
    | (with_reducible apply Does.foldl; intro _ _ _) | split
    | (with_reducible refine Does.of_pair (by with_reducible assumption) ?_)
    | with_reducible apply Does.upd_20000000000 (hW.of rfl) | (with_reducible intro _; intros; (try dsimp only)))

theorem State.pageRelease_does {W : Nat} (hW : Covers W 0x20000000000) {s₀ : State} {s : State} (hk : Does W s₀ s) :
    Does W s₀ (State.pageRelease s) := by
  unfold State.pageRelease
  try dsimp only
  repeat' (first
    | with_reducible assumption | with_reducible apply State.retireEnd_does (hW.of rfl) | split
    | with_reducible apply Does.upd_20000000000 (hW.of rfl))

theorem State.rawEnd_does {W : Nat} (hW : Covers W 0x20000000000) {s₀ : State} (outcome : BitVec 3) (symbols : BitVec 4) {s : State} (hk : Does W s₀ s) :
    Does W s₀ (State.rawEnd s outcome symbols) := by
  unfold State.rawEnd
  try dsimp only
  repeat' (first | with_reducible assumption | with_reducible apply Does.upd_20000000000 (hW.of rfl))

theorem State.rawWrite_does {W : Nat} (hW : Covers W 0x25C00040100) {s₀ : State} (path : Path) {s : State} (hk : Does W s₀ s) :
    Does W s₀ (State.rawWrite s path) := by
  unfold State.rawWrite
  try dsimp only
  repeat' (first
    | with_reducible assumption | with_reducible apply State.wakeChan_does (hW.of rfl)
    | with_reducible apply State.rawEnd_does (hW.of rfl) | split
    | (with_reducible refine Does.of_fst (by with_reducible assumption) ?_) | with_reducible apply Does.upd_C00000000 (hW.of rfl)
    | with_reducible exact id | with_reducible exact le_rfl | with_reducible exact Nat.le_add_right _ _
    | with_reducible exact memWriteBytes_wf _ _ _ | with_reducible exact wf_keep _ _ | (exact fun _ => rfl) | exact Nat.le_refl _)

theorem State.rawBytes_does {W : Nat} (hW : Covers W 0x40000000000000000) {s₀ : State} (sl : Nat) {s : State} (hk : Does W s₀ s) :
    Does W s₀ (State.rawBytes s sl).2 := by
  unfold State.rawBytes
  try dsimp only
  repeat' (first
    | with_reducible assumption | with_reducible apply State.draw_does (hW.of rfl) | split
    | (with_reducible refine Does.of_pair (by with_reducible assumption) ?_))

theorem State.rawRead_does {W : Nat} (hW : Covers W 0x40000025C00040100) {s₀ : State} (path : Path) (flips : Line × BitVec 128) {s : State} (hk : Does W s₀ s) :
    Does W s₀ (State.rawRead s path flips) := by
  unfold State.rawRead
  try dsimp only
  repeat' (first
    | with_reducible assumption | with_reducible apply State.wakeChan_does (hW.of rfl)
    | with_reducible apply State.rawEnd_does (hW.of rfl) | with_reducible apply State.rawBytes_does (hW.of rfl) | split
    | (with_reducible refine Does.of_pair (by with_reducible assumption) ?_)
    | with_reducible apply Does.upd_20000000000 (hW.of rfl) | (with_reducible intro _; intros; (try dsimp only)))

theorem State.addCredit_does {W : Nat} (hW : Covers W 0x400000000000) {s₀ : State} (q n : Nat) {s : State} (hk : Does W s₀ s) :
    Does W s₀ (State.addCredit s q n) := by
  unfold State.addCredit
  try dsimp only
  repeat' (first | with_reducible assumption | with_reducible apply State.modQueue_does (hW.of rfl))

theorem State.takeEntry_does {W : Nat} (hW : Covers W 0x2100058000000E1E0) {s₀ : State} (q : Nat) (e : SubEntry) (c : Colour) {s : State} (hk : Does W s₀ s) :
    Does W s₀ (State.takeEntry s q e c) := by
  unfold State.takeEntry
  try dsimp only
  repeat' (first
    | with_reducible assumption | with_reducible apply State.modQueue_does (hW.of rfl)
    | with_reducible apply State.tagHeads_does (hW.of rfl) | with_reducible apply State.completeStatus_does (hW.of rfl)
    | with_reducible apply State.addCredit_does (hW.of rfl) | split)

theorem State.endRequests_does {W : Nat} (hW : Covers W 0x410) {s₀ : State} (k : Nat) {s : State} (hk : Does W s₀ s) :
    Does W s₀ (State.endRequests s k) := by
  unfold State.endRequests
  try dsimp only
  repeat' (first
    | with_reducible assumption | split | (with_reducible refine Does.of_pair (by with_reducible assumption) ?_)
    | with_reducible apply Does.upd_410 (hW.of rfl) | with_reducible exact id | with_reducible exact le_rfl
    | with_reducible exact Nat.le_add_right _ _ | (with_reducible intro _; intros; (try dsimp only)) | exact Nat.le_refl _)

theorem State.endSession_does {W : Nat} (hW : Covers W 0xC00200000000490) {s₀ : State} (k : Nat) {s : State} (hk : Does W s₀ s) :
    Does W s₀ (State.endSession s k) := by
  unfold State.endSession
  try dsimp only
  repeat' (first
    | with_reducible assumption | with_reducible apply State.endRequests_does (hW.of rfl) | split
    | (with_reducible refine Does.of_pair (by with_reducible assumption) ?_)
    | with_reducible apply Does.upd_200000000000 (hW.of rfl) | with_reducible apply Does.upd_400000000000000 (hW.of rfl)
    | with_reducible apply Does.upd_800000000000000 (hW.of rfl) | with_reducible apply Does.upd_80 (hW.of rfl)
    | with_reducible exact id | with_reducible exact le_rfl | with_reducible exact Nat.le_add_right _ _
    | with_reducible exact laterSerial_le _ _ | (with_reducible intro _; intros; (try dsimp only)) | exact Nat.le_refl _)

theorem State.endSessions_does {W : Nat} (hW : Covers W 0xC00200000000490) {s₀ : State} (p : KmpSession → Bool) {s : State} (hk : Does W s₀ s) :
    Does W s₀ (State.endSessions s p) := by
  unfold State.endSessions
  try dsimp only
  repeat' (first
    | with_reducible assumption | with_reducible apply State.endSession_does (hW.of rfl)
    | (with_reducible apply Does.foldl; intro _ _ _) | split)

theorem State.tenEnded_does {W : Nat} (hW : Covers W 0x1000000000000000) {s₀ : State} (r : BitVec 4) {s : State} (hk : Does W s₀ s) :
    Does W s₀ (State.tenEnded s r) := by
  unfold State.tenEnded
  try dsimp only
  repeat' (first
    | with_reducible assumption | with_reducible apply Does.upd_1000000000000000 (hW.of rfl) | with_reducible exact id
    | with_reducible exact le_rfl | with_reducible exact Nat.le_add_right _ _ | with_reducible exact satAdd_le _ _
    | (rw [Ten.dropLinks_epoch]) | exact Nat.le_refl _)

theorem State.slotChanged_does {W : Nat} (hW : Covers W 0xC00200000000490) {s₀ : State} (k : Fin 4) {s : State} (hk : Does W s₀ s) :
    Does W s₀ (State.slotChanged s k) := by
  unfold State.slotChanged
  try dsimp only
  repeat' (first
    | with_reducible assumption | with_reducible apply State.endSessions_does (hW.of rfl) | split
    | (with_reducible refine Does.of_pair (by with_reducible assumption) ?_)
    | with_reducible apply Does.upd_400000000000000 (hW.of rfl) | with_reducible exact id | with_reducible exact le_rfl
    | with_reducible exact Nat.le_add_right _ _ | with_reducible exact laterSerial_le _ _
    | (with_reducible intro _; intros; (try dsimp only)) | exact Nat.le_refl _)

theorem State.enrol_does {W : Nat} (hW : Covers W 0x1C00200000000490) {s₀ : State} (p : Path) (slot : Fin 4) (usage : BitVec 4) {s : State} (hk : Does W s₀ s) :
    Does W s₀ (State.enrol s p slot usage) := by
  unfold State.enrol
  try dsimp only
  repeat' (first
    | with_reducible assumption | with_reducible apply State.tenEnded_does (hW.of rfl)
    | with_reducible apply State.slotChanged_does (hW.of rfl) | split
    | (with_reducible refine Does.of_pair (by with_reducible assumption) ?_)
    | with_reducible apply Does.upd_1400000000000000 (hW.of rfl) | with_reducible apply Does.upd_1000000000000000 (hW.of rfl)
    | with_reducible apply Does.upd_400000000000000 (hW.of rfl) | with_reducible exact id | with_reducible exact le_rfl
    | with_reducible exact Nat.le_add_right _ _ | with_reducible exact laterSerial_le _ _ | with_reducible exact satAdd_le _ _
    | (rw [Ten.dropLinks_epoch]) | (with_reducible intro _; intros; (try dsimp only)) | exact Nat.le_refl _)

theorem State.revoke_does {W : Nat} (hW : Covers W 0x1C00200000000490) {s₀ : State} (p : Path) (slot : Fin 4) {s : State} (hk : Does W s₀ s) :
    Does W s₀ (State.revoke s p slot) := by
  unfold State.revoke
  try dsimp only
  repeat' (first
    | with_reducible assumption | with_reducible apply State.tenEnded_does (hW.of rfl)
    | with_reducible apply State.slotChanged_does (hW.of rfl) | split
    | with_reducible apply Does.upd_1000000000000000 (hW.of rfl) | with_reducible exact id | with_reducible exact le_rfl
    | with_reducible exact Nat.le_add_right _ _ | with_reducible exact satAdd_le _ _ | (rw [Ten.dropLinks_epoch])
    | (with_reducible intro _; intros; (try dsimp only)) | exact Nat.le_refl _)

theorem State.openNow_does {W : Nat} (hW : Covers W 0x1000440000000000) {s₀ : State} (carve : Bool) (m : BitVec 4096) {s : State} (hk : Does W s₀ s) :
    Does W s₀ (State.openNow s carve m) := by
  unfold State.openNow
  try dsimp only
  repeat' (first
    | with_reducible assumption | with_reducible apply Does.upd_1000440000000000 (hW.of rfl) | with_reducible exact id
    | with_reducible exact le_rfl | with_reducible exact Nat.le_add_right _ _ | with_reducible exact satAdd_le _ _
    | (rw [Ten.dropLinks_epoch]) | exact Nat.le_refl _)

theorem State.decideOpen_does {W : Nat} (hW : Covers W 0x1000440000000000) {s₀ : State} (mayOpen carve : Bool) (m : BitVec 4096) {s : State} (hk : Does W s₀ s) :
    Does W s₀ (State.decideOpen s mayOpen carve m) := by
  unfold State.decideOpen
  try dsimp only
  repeat' (first
    | with_reducible assumption | with_reducible apply State.tenEnded_does (hW.of rfl)
    | with_reducible apply State.openNow_does (hW.of rfl) | split
    | (with_reducible refine Does.of_pair (by with_reducible assumption) ?_)
    | (with_reducible intro _; intros; (try dsimp only)))

theorem State.openEpoch_does {W : Nat} (hW : Covers W 0x1400440000000000) {s₀ : State} (p : Path) (carve : Bool) {s : State} (hk : Does W s₀ s) :
    Does W s₀ (State.openEpoch s p carve) := by
  unfold State.openEpoch
  try dsimp only
  repeat' (first
    | with_reducible assumption | with_reducible apply State.tenEnded_does (hW.of rfl)
    | with_reducible apply State.decideOpen_does (hW.of rfl) | split
    | (with_reducible refine Does.of_pair (by with_reducible assumption) ?_)
    | with_reducible apply Does.upd_400000000000000 (hW.of rfl) | with_reducible exact id | with_reducible exact le_rfl
    | with_reducible exact Nat.le_add_right _ _ | with_reducible exact laterSerial_le _ _
    | (with_reducible intro _; intros; (try dsimp only)) | exact Nat.le_refl _)

theorem State.endAllJobs_does {W : Nat} (hW : Covers W 0x253BC5AFCEF84E1E0) {s₀ : State} {s : State} (hk : Does W s₀ s) :
    Does W s₀ (State.endAllJobs s) := by
  unfold State.endAllJobs
  try dsimp only
  repeat' (first
    | with_reducible assumption | with_reducible apply State.shootJob_does (hW.of rfl)
    | with_reducible apply State.endJob_does (hW.of rfl) | with_reducible apply State.loadFail_does (hW.of rfl)
    | (with_reducible apply Does.foldl; intro _ _ _))

theorem State.endEpoch_does {W : Nat} (hW : Covers W 0x253BC5BFEEFB4E1E0) {s₀ : State} (p : Path) (m : Medium) {s : State} (hk : Does W s₀ s) :
    Does W s₀ (State.endEpoch s p m) := by
  unfold State.endEpoch
  try dsimp only
  repeat' (first
    | with_reducible assumption | with_reducible apply State.cohEnd_does (hW.of rfl)
    | with_reducible apply State.tenEnded_does (hW.of rfl) | with_reducible apply State.endAllJobs_does (hW.of rfl) | split
    | with_reducible apply Does.upd_1000000202300000 (hW.of rfl) | with_reducible exact id | with_reducible exact le_rfl
    | with_reducible exact Nat.le_add_right _ _ | with_reducible exact satAdd_le _ _ | (rw [Ten.dropLinks_epoch])
    | (with_reducible intro _; intros; (try dsimp only)) | exact Nat.le_refl _)

theorem State.cutDrain_does {W : Nat} (hW : Covers W 0x2100078000010E1E0) {s₀ : State} (d : Drain) {s : State} (hk : Does W s₀ s) :
    Does W s₀ (State.cutDrain s d) := by
  unfold State.cutDrain
  try dsimp only
  repeat' (first
    | with_reducible assumption | with_reducible apply State.dropEntry_does (hW.of rfl)
    | with_reducible apply State.entryEvent_does (hW.of rfl) | split
    | (with_reducible refine Does.of_pair (by with_reducible assumption) ?_)
    | (with_reducible intro _; intros; (try dsimp only)))

theorem State.dropMaps_does {W : Nat} (hW : Covers W 0x2100078000030E1E0) {s₀ : State} {s : State} (hk : Does W s₀ s) :
    Does W s₀ (State.dropMaps s) := by
  unfold State.dropMaps
  try dsimp only
  repeat' (first
    | with_reducible assumption | with_reducible apply State.cutDrain_does (hW.of rfl)
    | (with_reducible apply Does.foldl; intro _ _ _) | with_reducible apply Does.upd_300000 (hW.of rfl))

theorem State.resurfaceStart_does {W : Nat} (hW : Covers W 0x65FFE7FFEFFBCE5F0) {s₀ : State} (fromDirty : Bool) (m : Medium) {s : State} (hk : Does W s₀ s) :
    Does W s₀ (State.resurfaceStart s fromDirty m) := by
  unfold State.resurfaceStart
  try dsimp only
  repeat' (first
    | with_reducible assumption | with_reducible apply State.jobGone_does (hW.of rfl)
    | with_reducible apply State.uncarve_does (hW.of rfl) | with_reducible apply State.liftDrop_does (hW.of rfl)
    | with_reducible apply State.endSessions_does (hW.of rfl) | with_reducible apply State.dropMaps_does (hW.of rfl)
    | (with_reducible apply Does.foldl; intro _ _ _) | split
    | (with_reducible refine Does.of_pair (by with_reducible assumption) ?_)
    | with_reducible apply Does.upd_3EC000046800000 (hW.of rfl) | with_reducible apply Does.upd_1002040000000000 (hW.of rfl)
    | with_reducible apply Does.upd_1000000000000000 (hW.of rfl) | with_reducible exact id | with_reducible exact le_rfl
    | with_reducible exact Nat.le_add_right _ _ | with_reducible exact satAdd_le _ _ | (rw [Ten.dropLinks_epoch])
    | (with_reducible intro _; intros; (try dsimp only)) | exact Nat.le_refl _)

theorem State.resurface_does {W : Nat} (hW : Covers W 0x65FFE7FFEFFBCE5F0) {s₀ : State} (p : Path) (m : Medium) {s : State} (hk : Does W s₀ s) :
    Does W s₀ (State.resurface s p m) := by
  unfold State.resurface
  try dsimp only
  repeat' (first
    | with_reducible assumption | with_reducible apply State.tenEnded_does (hW.of rfl)
    | with_reducible apply State.endAllJobs_does (hW.of rfl) | with_reducible apply State.resurfaceStart_does (hW.of rfl) | split)

theorem State.fwEnded_does {W : Nat} (hW : Covers W 0x800000000000000) {s₀ : State} (r : BitVec 4) {s : State} (hk : Does W s₀ s) :
    Does W s₀ (State.fwEnded s r) := by
  unfold State.fwEnded
  try dsimp only
  repeat' (first
    | with_reducible assumption | with_reducible apply Does.upd_800000000000000 (hW.of rfl) | with_reducible exact id
    | with_reducible exact le_rfl | with_reducible exact Nat.le_add_right _ _ | exact Nat.le_refl _)

theorem State.modFw_does {W : Nat} (hW : Covers W 0x800000000000000) {s₀ : State} (f : Fw → Fw) {s : State} (hk : Does W s₀ s)
    (hf : ∀ x : Fw, x.svn.toNat ≤ (f x).svn.toNat) : Does W s₀ (s.modFw f) := Does.upd_800000000000000 (hW.of rfl) hk (hf _)

theorem State.fwOpen_does {W : Nat} (hW : Covers W 0x800000000000000) {s₀ : State} (p : Path) {s : State} (hk : Does W s₀ s) :
    Does W s₀ (State.fwOpen s p) := by
  unfold State.fwOpen
  try dsimp only
  repeat' (first
    | with_reducible assumption | with_reducible apply State.fwEnded_does (hW.of rfl)
    | with_reducible apply State.modFw_does (hW.of rfl) | split | (with_reducible intro _; intros; (try dsimp only))
    | exact fun _ => Nat.le_refl _ | exact fun _ => laterSerial_le _ _ | exact laterSerial_le _ _ | exact Nat.le_refl _)

theorem State.fwVerifyCmd_does {W : Nat} (hW : Covers W 0x800000000000000) {s₀ : State} (p : Path) {s : State} (hk : Does W s₀ s) :
    Does W s₀ (State.fwVerifyCmd s p) := by
  unfold State.fwVerifyCmd
  try dsimp only
  repeat' (first
    | with_reducible assumption | with_reducible apply State.fwEnded_does (hW.of rfl)
    | with_reducible apply State.modFw_does (hW.of rfl) | split
    | (with_reducible refine Does.of_pair (by with_reducible assumption) ?_)
    | (with_reducible intro _; intros; (try dsimp only)) | exact fun _ => Nat.le_refl _ | exact fun _ => laterSerial_le _ _
    | exact laterSerial_le _ _ | exact Nat.le_refl _)

theorem State.fwGo_does {W : Nat} (hW : Covers W 0x800000000000000) {s₀ : State} {s : State} (hk : Does W s₀ s) :
    Does W s₀ (State.fwGo s) := by
  unfold State.fwGo
  try dsimp only
  repeat' (first
    | with_reducible assumption | with_reducible apply State.modFw_does (hW.of rfl) | split
    | (with_reducible refine Does.of_pair (by with_reducible assumption) ?_)
    | (with_reducible intro _; intros; (try dsimp only)) | exact fun _ => Nat.le_refl _ | exact fun _ => laterSerial_le _ _
    | exact laterSerial_le _ _ | exact Nat.le_refl _)

theorem State.fwReturn_does {W : Nat} (hW : Covers W 0x800000000000000) {s₀ : State} (r : BitVec 4) (also : List Nat) {s : State} (hk : Does W s₀ s) :
    Does W s₀ (State.fwReturn s r also) := by
  unfold State.fwReturn
  try dsimp only
  repeat' (first
    | with_reducible assumption | with_reducible apply State.modFw_does (hW.of rfl)
    | with_reducible apply State.fwGo_does (hW.of rfl) | split | (with_reducible intro _; intros; (try dsimp only))
    | exact fun _ => Nat.le_refl _ | exact fun _ => laterSerial_le _ _ | exact laterSerial_le _ _ | exact Nat.le_refl _)

theorem State.fwStart_does {W : Nat} (hW : Covers W 0x800000000000000) {s₀ : State} (p : Path) {s : State} (hk : Does W s₀ s) :
    Does W s₀ (State.fwStart s p) := by
  unfold State.fwStart
  try dsimp only
  repeat' (first
    | with_reducible assumption | with_reducible apply State.fwEnded_does (hW.of rfl)
    | with_reducible apply State.modFw_does (hW.of rfl) | with_reducible apply State.fwGo_does (hW.of rfl) | split
    | (with_reducible intro _; intros; (try dsimp only)) | exact fun _ => Nat.le_refl _ | exact fun _ => laterSerial_le _ _
    | exact laterSerial_le _ _ | exact Nat.le_refl _)

theorem State.fwAbort_does {W : Nat} (hW : Covers W 0x800000000000000) {s₀ : State} (p : Path) {s : State} (hk : Does W s₀ s) :
    Does W s₀ (State.fwAbort s p) := by
  unfold State.fwAbort
  try dsimp only
  repeat' (first
    | with_reducible assumption | with_reducible apply State.fwEnded_does (hW.of rfl)
    | with_reducible apply State.modFw_does (hW.of rfl) | with_reducible apply State.fwReturn_does (hW.of rfl) | split
    | (with_reducible intro _; intros; (try dsimp only)) | exact fun _ => Nat.le_refl _ | exact fun _ => laterSerial_le _ _
    | exact laterSerial_le _ _ | exact Nat.le_refl _)

theorem State.fwRollback_does {W : Nat} (hW : Covers W 0x800000000000000) {s₀ : State} (p : Path) {s : State} (hk : Does W s₀ s) :
    Does W s₀ (State.fwRollback s p) := by
  unfold State.fwRollback
  try dsimp only
  repeat' (first
    | with_reducible assumption | with_reducible apply State.fwEnded_does (hW.of rfl)
    | with_reducible apply State.modFw_does (hW.of rfl) | with_reducible apply State.fwReturn_does (hW.of rfl) | split
    | (with_reducible refine Does.of_pair (by with_reducible assumption) ?_)
    | (with_reducible intro _; intros; (try dsimp only)) | exact fun _ => Nat.le_refl _ | exact fun _ => laterSerial_le _ _
    | exact laterSerial_le _ _ | exact Nat.le_refl _)

theorem State.drawTrainIds_does {W : Nat} (hW : Covers W 0x40000000000002000) {s₀ : State} {s : State} (hk : Does W s₀ s) :
    Does W s₀ (State.drawTrainIds s) := by
  unfold State.drawTrainIds
  try dsimp only
  repeat' (first
    | with_reducible assumption | with_reducible apply State.draw_does (hW.of rfl)
    | with_reducible apply State.modPort_does (hW.of rfl) | (with_reducible apply Does.foldl; intro _ _ _)
    | (with_reducible apply Does.foldl₂; intro _ _ _) | split
    | (with_reducible refine Does.of_pair (by with_reducible assumption) ?_))

theorem State.packageReset_does {W : Nat} (hW : Covers W 0x5FFFFFFFF7FFFF7FC) {s₀ : State} (cause : BitVec 3) {s : State} (hk : Does W s₀ s) :
    Does W s₀ (s.packageReset cause) :=
  State.drawTrainIds_does (hW.of rfl) (hk.put 0x1FFFFFFFF7FFFF7FC (hW.of rfl) ⟨rfl, rfl, fun _ => rfl, le_rfl, (congrArg BitVec.toNat (Fw.afterReset_svn s.fw)).symm.le, le_rfl, le_rfl, le_rfl⟩
    (fun f hf => by cases f <;> first | exact Eq.refl _ | cases hf))

theorem State.modSi_does {W : Nat} (hW : Covers W 0x400000000000000) {s₀ : State} (f : Si → Si) {s : State} (hk : Does W s₀ s)
    (hf : ∀ x : Si, x.maxSerial.toNat ≤ (f x).maxSerial.toNat) : Does W s₀ (s.modSi f) := Does.upd_400000000000000 (hW.of rfl) hk (hf _)

theorem State.siEnded_does {W : Nat} (hW : Covers W 0x400000000000000) {s₀ : State} (r : BitVec 4) {s : State} (hk : Does W s₀ s) :
    Does W s₀ (State.siEnded s r) := by
  unfold State.siEnded
  try dsimp only
  repeat' (first
    | with_reducible assumption | with_reducible apply State.modSi_does (hW.of rfl) | exact fun _ => Nat.le_refl _
    | exact fun _ => laterSerial_le _ _ | exact laterSerial_le _ _ | exact Nat.le_refl _)

theorem State.applyDeep_does {W : Nat} (hW : Covers W 0x4000000000) {s₀ : State} (h c : Nat) (attempts : List (List LaneSweep)) {s : State} (hk : Does W s₀ s) :
    Does W s₀ (State.applyDeep s h c attempts) := by
  unfold State.applyDeep
  try dsimp only
  repeat' (first
    | with_reducible assumption | with_reducible apply State.modChan_does (hW.of rfl)
    | with_reducible apply State.trainChan_does (hW.of rfl) | split | (with_reducible intro _; intros; (try dsimp only)))

theorem State.applyFlow_does {W : Nat} (hW : Covers W 0xA000) {s₀ : State} (a : Sections) (p : Nat) {s : State} (hk : Does W s₀ s) :
    Does W s₀ (State.applyFlow s a p) := by
  unfold State.applyFlow
  try dsimp only
  repeat' (first
    | with_reducible assumption | with_reducible apply State.modPort_does (hW.of rfl)
    | with_reducible apply State.endWindow_does (hW.of rfl) | split | (with_reducible intro _; intros; (try dsimp only)))

theorem State.applyPort_does {W : Nat} (hW : Covers W 0x2100000000001E1E0) {s₀ : State} (a : Sections) (p : Nat) {s : State} (hk : Does W s₀ s) :
    Does W s₀ (State.applyPort s a p) := by
  unfold State.applyPort
  try dsimp only
  repeat' (first
    | with_reducible assumption | with_reducible apply State.modPort_does (hW.of rfl)
    | with_reducible apply State.drainPort_does (hW.of rfl) | with_reducible apply State.checkWidth_does (hW.of rfl)
    | with_reducible apply State.linkDown_does (hW.of rfl) | with_reducible apply State.sendInit_does (hW.of rfl)
    | with_reducible apply State.applyFlow_does (hW.of rfl) | split | (with_reducible intro _; intros; (try dsimp only)))

theorem State.applyRoutes_does {W : Nat} (hW : Covers W 0x8000) {s₀ : State} (old : State) {s : State} (hk : Does W s₀ s) :
    Does W s₀ (State.applyRoutes s old) := by
  unfold State.applyRoutes
  try dsimp only
  repeat' (first
    | with_reducible assumption | split | with_reducible apply Does.upd_8000 (hW.of rfl)
    | (with_reducible intro _; intros; (try dsimp only)))

theorem State.ptpLost_does {W : Nat} (hW : Covers W 0x2000000010000) {s₀ : State} {s : State} (hk : Does W s₀ s) :
    Does W s₀ (State.ptpLost s) := by
  unfold State.ptpLost
  try dsimp only
  repeat' (first
    | with_reducible assumption | with_reducible apply State.chooseSource_does (hW.of rfl)
    | with_reducible apply Does.upd_2000000010000 (hW.of rfl))

theorem State.ethDown_does {W : Nat} (hW : Covers W 0x20800000100E0) {s₀ : State} (e : Bool) {s : State} (hk : Does W s₀ s) :
    Does W s₀ (State.ethDown s e) := by
  unfold State.ethDown
  try dsimp only
  repeat' (first
    | with_reducible assumption | with_reducible apply State.waitEnd_does (hW.of rfl)
    | with_reducible apply State.modEth_does (hW.of rfl) | with_reducible apply State.ptpLost_does (hW.of rfl) | split
    | (with_reducible intro _; intros; (try dsimp only)))

theorem State.applyEth_does {W : Nat} (hW : Covers W 0x20800000100E0) {s₀ : State} (a : Sections) (e : Bool) {s : State} (hk : Does W s₀ s) :
    Does W s₀ (State.applyEth s a e) := by
  unfold State.applyEth
  try dsimp only
  repeat' (first
    | with_reducible assumption | with_reducible apply State.ethDown_does (hW.of rfl) | split
    | (with_reducible intro _; intros; (try dsimp only)))

theorem State.queueBind_does {W : Nat} (hW : Covers W 0x500040000000) {s₀ : State} (q : Nat) {s : State} (hk : Does W s₀ s) :
    Does W s₀ (State.queueBind s q) := by
  unfold State.queueBind
  try dsimp only
  repeat' (first
    | with_reducible assumption | with_reducible apply State.queueInit_does (hW.of rfl)
    | with_reducible apply Does.upd_100000000000 (hW.of rfl))

theorem State.settleQueues_does {W : Nat} (hW : Covers W 0x400000000000) {s₀ : State} {s : State} (hk : Does W s₀ s) :
    Does W s₀ (State.settleQueues s) := by
  unfold State.settleQueues
  try dsimp only
  repeat' (first
    | with_reducible assumption | with_reducible apply State.tagHeads_does (hW.of rfl)
    | (with_reducible apply Does.foldl; intro _ _ _) | with_reducible apply Does.upd_400000000000 (hW.of rfl))

theorem State.clampQueues_does {W : Nat} (hW : Covers W 0x1400000000000) {s₀ : State} (a : Sections) {s : State} (hk : Does W s₀ s) :
    Does W s₀ (State.clampQueues s a) := by
  unfold State.clampQueues
  try dsimp only
  repeat' (first
    | with_reducible assumption | split | with_reducible apply Does.upd_1400000000000 (hW.of rfl)
    | (with_reducible intro _; intros; (try dsimp only)))

theorem State.shootClasses_does {W : Nat} (hW : Covers W 0x190000C00000000) {s₀ : State} (cut : BitVec 16) {s : State} (hk : Does W s₀ s) :
    Does W s₀ (State.shootClasses s cut) := by
  unfold State.shootClasses
  try dsimp only
  repeat' (first
    | with_reducible assumption | with_reducible apply State.shootExtent_does (hW.of rfl)
    | (with_reducible apply Does.foldl; intro _ _ _))

theorem State.moveSaves_does {W : Nat} (hW : Covers W 0x90000C00000000) {s₀ : State} {s : State} (hk : Does W s₀ s) :
    Does W s₀ (State.moveSaves s) := by
  unfold State.moveSaves
  try dsimp only
  repeat' (first
    | with_reducible assumption | with_reducible apply State.modJob_does (hW.of rfl)
    | (with_reducible apply Does.foldl; intro _ _ _) | with_reducible apply Does.getD | split
    | (with_reducible refine Does.of_pair (by with_reducible assumption) ?_)
    | refine State.buildTables_does (hW := hW.of rfl) (hk := ?_) (ht := by with_reducible assumption)
    | (with_reducible intro _; intros; (try dsimp only)))

theorem State.applyImage_does {W : Nat} (hW : Covers W 0x3159B5ADC4485E1E8) {s₀ : State} (img : Option SiImage) (training : SMap (List (List LaneSweep))) {s : State} (hk : Does W s₀ s) :
    Does W s₀ (State.applyImage s img training) := by
  unfold State.applyImage
  try dsimp only
  repeat' (first
    | with_reducible assumption | with_reducible apply State.modHub_does (hW.of rfl)
    | with_reducible apply State.laySlots_does (hW.of rfl) | with_reducible apply State.atomReleaseClasses_does (hW.of rfl)
    | with_reducible apply State.clusterReset_does (hW.of rfl) | with_reducible apply State.applyDeep_does (hW.of rfl)
    | with_reducible apply State.applyPort_does (hW.of rfl) | with_reducible apply State.applyRoutes_does (hW.of rfl)
    | with_reducible apply State.applyEth_does (hW.of rfl) | with_reducible apply State.queueBind_does (hW.of rfl)
    | with_reducible apply State.settleQueues_does (hW.of rfl) | with_reducible apply State.clampQueues_does (hW.of rfl)
    | with_reducible apply State.shootClasses_does (hW.of rfl) | with_reducible apply State.moveSaves_does (hW.of rfl)
    | (with_reducible apply Does.foldl; intro _ _ _) | split | with_reducible apply Does.upd_80 (hW.of rfl)
    | with_reducible apply Does.upd_10400000000000000 (hW.of rfl) | with_reducible exact id | with_reducible exact le_rfl
    | with_reducible exact Nat.le_add_right _ _ | with_reducible exact laterSerial_le _ _
    | (with_reducible intro _; intros; (try dsimp only)) | exact Nat.le_refl _)

theorem State.hold__does {W : Nat} (hW : Covers W 0x214005BFE6FA4E1E0) {s₀ : State} (target : Sections) (m : Medium) {s : State} (hk : Does W s₀ s) :
    Does W s₀ (State.hold_ s target m) := by
  unfold State.hold_
  try dsimp only
  repeat' (first
    | with_reducible assumption | with_reducible apply State.atomReleaseClasses_does (hW.of rfl)
    | with_reducible apply State.cohEnd_does (hW.of rfl) | with_reducible apply State.chanHeld_does (hW.of rfl)
    | with_reducible apply State.modSi_does (hW.of rfl) | exact fun _ => Nat.le_refl _ | exact fun _ => laterSerial_le _ _
    | exact laterSerial_le _ _ | exact Nat.le_refl _)

theorem State.returnByReset_does {W : Nat} (hW : Covers W 0x5FFFFFFFF7FFFF7FC) {s₀ : State} (check : BitVec 3) {s : State} (hk : Does W s₀ s) :
    Does W s₀ (State.returnByReset s check) := by
  unfold State.returnByReset
  try dsimp only
  repeat' (first
    | with_reducible assumption | with_reducible apply State.packageReset_does (hW.of rfl)
    | with_reducible apply State.modSi_does (hW.of rfl) | split
    | (with_reducible refine Does.of_pair (by with_reducible assumption) ?_)
    | (with_reducible intro _; intros; (try dsimp only)) | exact fun _ => Nat.le_refl _ | exact fun _ => laterSerial_le _ _
    | exact laterSerial_le _ _ | exact Nat.le_refl _)

theorem State.startReturn_does {W : Nat} (hW : Covers W 0x7FFFFFFFF7FFFF7FC) {s₀ : State} (check : BitVec 3) (m : Medium) {s : State} (hk : Does W s₀ s) :
    Does W s₀ (State.startReturn s check m) := by
  unfold State.startReturn
  try dsimp only
  repeat' (first
    | with_reducible assumption | with_reducible apply State.modSi_does (hW.of rfl)
    | with_reducible apply State.hold__does (hW.of rfl) | with_reducible apply State.returnByReset_does (hW.of rfl) | split
    | (with_reducible refine Does.of_pair (by with_reducible assumption) ?_)
    | (with_reducible intro _; intros; (try dsimp only)) | exact fun _ => Nat.le_refl _ | exact fun _ => laterSerial_le _ _
    | exact laterSerial_le _ _ | exact Nat.le_refl _)

theorem State.siOpen_does {W : Nat} (hW : Covers W 0x400000000000000) {s₀ : State} (p : Path) {s : State} (hk : Does W s₀ s) :
    Does W s₀ (State.siOpen s p) := by
  unfold State.siOpen
  try dsimp only
  repeat' (first
    | with_reducible assumption | with_reducible apply State.modSi_does (hW.of rfl)
    | with_reducible apply State.siEnded_does (hW.of rfl) | split | (with_reducible intro _; intros; (try dsimp only))
    | exact fun _ => Nat.le_refl _ | exact fun _ => laterSerial_le _ _ | exact laterSerial_le _ _ | exact Nat.le_refl _)

theorem State.siValidate_does {W : Nat} (hW : Covers W 0x400000000000000) {s₀ : State} (p : Path) {s : State} (hk : Does W s₀ s) :
    Does W s₀ (State.siValidate s p) := by
  unfold State.siValidate
  try dsimp only
  repeat' (first
    | with_reducible assumption | with_reducible apply State.modSi_does (hW.of rfl)
    | with_reducible apply State.siEnded_does (hW.of rfl) | split
    | (with_reducible refine Does.of_pair (by with_reducible assumption) ?_)
    | (with_reducible intro _; intros; (try dsimp only)) | exact fun _ => Nat.le_refl _ | exact fun _ => laterSerial_le _ _
    | exact laterSerial_le _ _ | exact Nat.le_refl _)

theorem State.siCommit_does {W : Nat} (hW : Covers W 0x214005BFE6FA4E1E0) {s₀ : State} (p : Path) (m : Medium) {s : State} (hk : Does W s₀ s) :
    Does W s₀ (State.siCommit s p m) := by
  unfold State.siCommit
  try dsimp only
  repeat' (first
    | with_reducible assumption | with_reducible apply State.modSi_does (hW.of rfl)
    | with_reducible apply State.siEnded_does (hW.of rfl) | with_reducible apply State.hold__does (hW.of rfl) | split
    | (with_reducible refine Does.of_pair (by with_reducible assumption) ?_)
    | (with_reducible intro _; intros; (try dsimp only)) | exact fun _ => Nat.le_refl _ | exact fun _ => laterSerial_le _ _
    | exact laterSerial_le _ _ | exact Nat.le_refl _)

theorem State.siCommitOnReset_does {W : Nat} (hW : Covers W 0x400000000000000) {s₀ : State} (p : Path) {s : State} (hk : Does W s₀ s) :
    Does W s₀ (State.siCommitOnReset s p) := by
  unfold State.siCommitOnReset
  try dsimp only
  repeat' (first
    | with_reducible assumption | with_reducible apply State.modSi_does (hW.of rfl)
    | with_reducible apply State.siEnded_does (hW.of rfl) | split
    | (with_reducible refine Does.of_pair (by with_reducible assumption) ?_)
    | (with_reducible intro _; intros; (try dsimp only)) | exact fun _ => Nat.le_refl _ | exact fun _ => laterSerial_le _ _
    | exact laterSerial_le _ _ | exact Nat.le_refl _)

theorem State.siAbandon_does {W : Nat} (hW : Covers W 0x400000000000000) {s₀ : State} (p : Path) {s : State} (hk : Does W s₀ s) :
    Does W s₀ (State.siAbandon s p) := by
  unfold State.siAbandon
  try dsimp only
  repeat' (first
    | with_reducible assumption | with_reducible apply State.modSi_does (hW.of rfl)
    | with_reducible apply State.siEnded_does (hW.of rfl) | split
    | (with_reducible refine Does.of_pair (by with_reducible assumption) ?_)
    | (with_reducible intro _; intros; (try dsimp only)) | exact fun _ => Nat.le_refl _ | exact fun _ => laterSerial_le _ _
    | exact laterSerial_le _ _ | exact Nat.le_refl _)

theorem State.siRevert_does {W : Nat} (hW : Covers W 0x7FFFFFFFF7FFFF7FC) {s₀ : State} (p : Path) (m : Medium) {s : State} (hk : Does W s₀ s) :
    Does W s₀ (State.siRevert s p m) := by
  unfold State.siRevert
  try dsimp only
  repeat' (first
    | with_reducible assumption | with_reducible apply State.siEnded_does (hW.of rfl)
    | with_reducible apply State.startReturn_does (hW.of rfl) | split)

theorem State.siLock_does {W : Nat} (hW : Covers W 0x400000000000000) {s₀ : State} {s : State} (hk : Does W s₀ s) :
    Does W s₀ (State.siLock s) := by
  unfold State.siLock
  try dsimp only
  repeat' (first
    | with_reducible assumption | with_reducible apply State.modSi_does (hW.of rfl) | exact fun _ => Nat.le_refl _
    | exact fun _ => laterSerial_le _ _ | exact laterSerial_le _ _ | exact Nat.le_refl _)

end Sys2Proof.Machine
end

