-- ==== Sys2Proof/Laws/DoesPool.lean ====
section
/-! SUPPORT. DoesPool.lean: what each operation of the pool, its coherence and power does (`Does`). -/
namespace Sys2Proof.Machine
open Sys2Proof

theorem State.cohRequest_does {W : Nat} (hW : Covers W 0x610015BFE7FA4E1E0) {s₀ : State} (h : BitVec 10) (m : CohMsg) (med : Medium) {s : State} (hk : Does W s₀ s) :
    Does W s₀ (State.cohRequest s h m med) := by
  unfold State.cohRequest
  try dsimp only
  repeat' (first
    | with_reducible assumption | with_reducible apply State.meterArrive_does (hW.of rfl)
    | with_reducible apply State.reply_does (hW.of rfl) | with_reducible apply State.nackRetry_does (hW.of rfl)
    | with_reducible apply State.cohEnd_does (hW.of rfl) | with_reducible apply State.hold_does (hW.of rfl)
    | with_reducible apply State.homeRequest_does (hW.of rfl) | split
    | (with_reducible refine Does.of_pair (by with_reducible assumption) ?_))

theorem execRds_does {W : Nat} (hW : Covers W 0x610015BFE7FA4E1E0) {s₀ : State} (host : BitVec 10) (tag : BitVec 12) (addr : BitVec 46) (med : Medium) {s s₁ : State} (hk : Does W s₀ s) (ht : execRds host tag addr med s = .next s₁) :
    Does W s₀ s₁ := by
  cases ht
  try dsimp only
  repeat' (first | with_reducible assumption | with_reducible apply State.cohRequest_does (hW.of rfl))

theorem execRdx_does {W : Nat} (hW : Covers W 0x610015BFE7FA4E1E0) {s₀ : State} (host : BitVec 10) (tag : BitVec 12) (addr : BitVec 46) (atomic : Bool) (med : Medium) {s s₁ : State} (hk : Does W s₀ s) (ht : execRdx host tag addr atomic med s = .next s₁) :
    Does W s₀ s₁ := by
  cases ht
  try dsimp only
  repeat' (first | with_reducible assumption | with_reducible apply State.cohRequest_does (hW.of rfl))

theorem execUpg_does {W : Nat} (hW : Covers W 0x610015BFE7FA4E1E0) {s₀ : State} (host : BitVec 10) (tag : BitVec 12) (addr : BitVec 46) (atomic : Bool) (med : Medium) {s s₁ : State} (hk : Does W s₀ s) (ht : execUpg host tag addr atomic med s = .next s₁) :
    Does W s₀ s₁ := by
  cases ht
  try dsimp only
  repeat' (first | with_reducible assumption | with_reducible apply State.cohRequest_does (hW.of rfl))

theorem execRdnc_does {W : Nat} (hW : Covers W 0x610015BFE7FA4E1E0) {s₀ : State} (host : BitVec 10) (tag : BitVec 12) (addr : BitVec 46) (med : Medium) {s s₁ : State} (hk : Does W s₀ s) (ht : execRdnc host tag addr med s = .next s₁) :
    Does W s₀ s₁ := by
  cases ht
  try dsimp only
  repeat' (first | with_reducible assumption | with_reducible apply State.cohRequest_does (hW.of rfl))

theorem execWrfull_does {W : Nat} (hW : Covers W 0x610015BFE7FA4E1E0) {s₀ : State} (host : BitVec 10) (tag : BitVec 12) (addr : BitVec 46) (data : Line) (med : Medium) {s s₁ : State} (hk : Does W s₀ s) (ht : execWrfull host tag addr data med s = .next s₁) :
    Does W s₀ s₁ := by
  cases ht
  try dsimp only
  repeat' (first | with_reducible assumption | with_reducible apply State.cohRequest_does (hW.of rfl))

theorem execTransactionOpen_does {W : Nat} (hW : Covers W 0x210005BFE6FA4E1E0) {s₀ : State} (line : BitVec 40) (med : Medium) {s s₁ : State} (hk : Does W s₀ s) (ht : execTransactionOpen line med s = .next s₁) :
    Does W s₀ s₁ := by
  cases ht
  try dsimp only
  repeat' (first
    | with_reducible assumption | with_reducible apply State.openHead_does (hW.of rfl)
    | with_reducible apply State.cohEnd_does (hW.of rfl) | split)

theorem execWbm_does {W : Nat} (hW : Covers W 0x210005BFE7FA4E1E0) {s₀ : State} (host : BitVec 10) (tag : BitVec 12) (addr : BitVec 46) (poison : Bool) (data : Line) (med : Medium) {s s₁ : State} (hk : Does W s₀ s) (ht : execWbm host tag addr poison data med s = .next s₁) :
    Does W s₀ s₁ := by
  cases ht
  try dsimp only
  repeat' (first
    | with_reducible assumption | with_reducible apply State.reply_does (hW.of rfl)
    | with_reducible apply State.cohEnd_does (hW.of rfl) | with_reducible apply State.ownRelease_does (hW.of rfl) | split)

theorem execEvc_does {W : Nat} (hW : Covers W 0x210005BFE7FA4E1E0) {s₀ : State} (host : BitVec 10) (tag : BitVec 12) (addr : BitVec 46) (med : Medium) {s s₁ : State} (hk : Does W s₀ s) (ht : execEvc host tag addr med s = .next s₁) :
    Does W s₀ s₁ := by
  cases ht
  try dsimp only
  repeat' (first
    | with_reducible assumption | with_reducible apply State.reply_does (hW.of rfl)
    | with_reducible apply State.cohEnd_does (hW.of rfl) | with_reducible apply State.ownRelease_does (hW.of rfl) | split)

theorem State.cohAnswerIn_does {W : Nat} (hW : Covers W 0x210005BFE7FA4E1E0) {s₀ : State} (h : BitVec 10) (m : CohMsg) (med : Medium) {s : State} (hk : Does W s₀ s) :
    Does W s₀ (State.cohAnswerIn s h m med) := by
  unfold State.cohAnswerIn
  try dsimp only
  repeat' (first
    | with_reducible assumption | with_reducible apply State.cohEnd_does (hW.of rfl)
    | with_reducible apply State.cohAnswer_does (hW.of rfl) | split)

theorem execAckAnswer_does {W : Nat} (hW : Covers W 0x210005BFE7FA4E1E0) {s₀ : State} (host : BitVec 10) (htag : BitVec 13) (state : Moesi) (med : Medium) {s s₁ : State} (hk : Does W s₀ s) (ht : execAckAnswer host htag state med s = .next s₁) :
    Does W s₀ s₁ := by
  cases ht
  try dsimp only
  repeat' (first | with_reducible assumption | with_reducible apply State.cohAnswerIn_does (hW.of rfl))

theorem execSnprspi_does {W : Nat} (hW : Covers W 0x210005BFE7FA4E1E0) {s₀ : State} (host : BitVec 10) (htag : BitVec 13) (med : Medium) {s s₁ : State} (hk : Does W s₀ s) (ht : execSnprspi host htag med s = .next s₁) :
    Does W s₀ s₁ := by
  cases ht
  try dsimp only
  repeat' (first | with_reducible assumption | with_reducible apply State.cohAnswerIn_does (hW.of rfl))

theorem execSnprspwb_does {W : Nat} (hW : Covers W 0x210005BFE7FA4E1E0) {s₀ : State} (host : BitVec 10) (htag : BitVec 13) (state : Moesi) (poison : Bool) (data : Line) (med : Medium) {s s₁ : State} (hk : Does W s₀ s) (ht : execSnprspwb host htag state poison data med s = .next s₁) :
    Does W s₀ s₁ := by
  cases ht
  try dsimp only
  repeat' (first | with_reducible assumption | with_reducible apply State.cohAnswerIn_does (hW.of rfl))

theorem execFwddata_does {W : Nat} (hW : Covers W 0x210005BFE7FA4E1E0) {s₀ : State} (host : BitVec 10) (htag : BitVec 13) (poison : Bool) (data : Line) (med : Medium) {s s₁ : State} (hk : Does W s₀ s) (ht : execFwddata host htag poison data med s = .next s₁) :
    Does W s₀ s₁ := by
  cases ht
  try dsimp only
  repeat' (first | with_reducible assumption | with_reducible apply State.cohAnswerIn_does (hW.of rfl))

theorem execRetryRecordExpiry_does {W : Nat} (hW : Covers W 0x2000000) {s₀ : State} (hub : Fin 8) (set : BitVec 19) {s s₁ : State} (hk : Does W s₀ s) (ht : execRetryRecordExpiry hub set s = .next s₁) :
    Does W s₀ s₁ := by
  cases ht
  try dsimp only
  repeat' (first | with_reducible assumption | with_reducible apply Does.upd_2000000 (hW.of rfl))

theorem execOrphanTimeout_does {W : Nat} (hW : Covers W 0x210005BFE6FA4E1E0) {s₀ : State} (line : BitVec 40) (med : Medium) {s s₁ : State} (hk : Does W s₀ s) (ht : execOrphanTimeout line med s = .next s₁) :
    Does W s₀ s₁ := by
  cases ht
  try dsimp only
  repeat' (first
    | with_reducible assumption | with_reducible apply State.setTx_does (hW.of rfl)
    | with_reducible apply State.losePoison_does (hW.of rfl) | with_reducible apply State.poisonRound_does (hW.of rfl)
    | with_reducible apply State.cohEnd_does (hW.of rfl) | with_reducible apply State.ownerGone_does (hW.of rfl) | split
    | (with_reducible refine Does.of_pair (by with_reducible assumption) ?_))

theorem execDeadHostTimeout_does {W : Nat} (hW : Covers W 0x252FCDBFFFFA4E1E0) {s₀ : State} (host : BitVec 10) (med : Medium) {s s₁ : State} (hk : Does W s₀ s) (ht : execDeadHostTimeout host med s = .next s₁) :
    Does W s₀ s₁ := by
  cases ht
  try dsimp only
  repeat' (first | with_reducible assumption | with_reducible apply State.declareDead_does (hW.of rfl) | split)

theorem execCohDeadQuery_does {W : Nat} (hW : Covers W 0x20000000) {s₀ : State} (host : BitVec 10) {s s₁ : State} (hk : Does W s₀ s) (ht : execCohDeadQuery host s = .next s₁) :
    Does W s₀ s₁ := by
  cases ht
  try dsimp only
  repeat' (first | with_reducible assumption | with_reducible apply State.cohDeadQuery_does (hW.of rfl))

theorem execDeclareDead_does {W : Nat} (hW : Covers W 0x252FCDBFFFFA4E1E0) {s₀ : State} (host : BitVec 10) (med : Medium) {s s₁ : State} (hk : Does W s₀ s) (ht : execDeclareDead host med s = .next s₁) :
    Does W s₀ s₁ := by
  cases ht
  try dsimp only
  repeat' (first
    | with_reducible assumption | with_reducible apply State.cohDeclare_does (hW.of rfl) | split
    | (with_reducible intro _; intros; (try dsimp only)))

theorem execReadmit_does {W : Nat} (hW : Covers W 0x1400020008000) {s₀ : State} (host : BitVec 10) {s s₁ : State} (hk : Does W s₀ s) (ht : execReadmit host s = .next s₁) :
    Does W s₀ s₁ := by
  cases ht
  try dsimp only
  repeat' (first
    | with_reducible assumption | with_reducible apply State.cohReadmit_does (hW.of rfl) | split
    | (with_reducible intro _; intros; (try dsimp only)))

theorem State.reclaimEnd_does {W : Nat} (hW : Covers W 0x20008008000) {s₀ : State} (d : Nat) (hs : List Nat) {s : State} (hk : Does W s₀ s) :
    Does W s₀ (State.reclaimEnd s d hs) := by
  unfold State.reclaimEnd
  try dsimp only
  repeat' (first
    | with_reducible assumption | with_reducible apply State.modHost_does (hW.of rfl)
    | with_reducible apply State.logError_does (hW.of rfl) | split | with_reducible apply Does.upd_8000000 (hW.of rfl)
    | (with_reducible intro _; intros; (try dsimp only)))

theorem State.reclaimLine_does {W : Nat} (hW : Covers W 0x210005BFE6FA4E1E0) {s₀ : State} (hub l : Nat) (m : Medium) {s : State} (hk : Does W s₀ s) :
    Does W s₀ (State.reclaimLine s hub l m) := by
  unfold State.reclaimLine
  try dsimp only
  repeat' (first
    | with_reducible assumption | with_reducible apply State.setWay_does (hW.of rfl)
    | with_reducible apply State.setTx_does (hW.of rfl) | with_reducible apply State.losePoison_does (hW.of rfl)
    | with_reducible apply State.sendRound_does (hW.of rfl) | with_reducible apply State.cohEnd_does (hW.of rfl) | split
    | (with_reducible refine Does.of_pair (by with_reducible assumption) ?_) | with_reducible apply Does.upd_800000 (hW.of rfl)
    | (with_reducible intro _; intros; (try dsimp only)))

theorem execReclaimWalk_does {W : Nat} (hW : Covers W 0x210005BFE6FA4E1E0) {s₀ : State} (hub : Fin 8) (line : BitVec 40) (med : Medium) {s s₁ : State} (hk : Does W s₀ s) (ht : execReclaimWalk hub line med s = .next s₁) :
    Does W s₀ s₁ := by
  cases ht
  try dsimp only
  repeat' (first
    | with_reducible assumption | with_reducible apply State.reclaimEnd_does (hW.of rfl)
    | with_reducible apply State.reclaimLine_does (hW.of rfl) | (with_reducible apply Does.foldl; intro _ _ _) | split
    | (with_reducible intro _; intros; (try dsimp only)))

theorem execReclaimDone_does {W : Nat} (hW : Covers W 0x20008008000) {s₀ : State} (host : BitVec 10) {s s₁ : State} (hk : Does W s₀ s) (ht : execReclaimDone host s = .next s₁) :
    Does W s₀ s₁ := by
  cases ht
  try dsimp only
  repeat' (first
    | with_reducible assumption | with_reducible apply State.reclaimEnd_does (hW.of rfl) | split
    | (with_reducible intro _; intros; (try dsimp only)))

theorem execCohReclaimDoneClear_does {W : Nat} (hW : Covers W 0x8000000) {s₀ : State} (hub : Fin 8) {s s₁ : State} (hk : Does W s₀ s) (ht : execCohReclaimDoneClear hub s = .next s₁) :
    Does W s₀ s₁ := by
  cases ht
  try dsimp only
  repeat' (first | with_reducible assumption | with_reducible apply State.clearReclaim_does (hW.of rfl))

theorem execTenancyRecallTimeout_does {W : Nat} (hW : Covers W 0x252FCDBFFFFA4E1E0) {s₀ : State} (host : BitVec 10) (med : Medium) {s s₁ : State} (hk : Does W s₀ s) (ht : execTenancyRecallTimeout host med s = .next s₁) :
    Does W s₀ s₁ := by
  cases ht
  try dsimp only
  repeat' (first
    | with_reducible assumption | with_reducible apply State.declareDead_does (hW.of rfl) | split
    | (with_reducible refine Does.of_pair (by with_reducible assumption) ?_))

theorem State.bulkIllegal_does {W : Nat} (hW : Covers W 0x2100000000000E1E0) {s₀ : State} (h : BitVec 10) (tag : BitVec 12) (addr bytes : Nat) {s : State} (hk : Does W s₀ s) :
    Does W s₀ (State.bulkIllegal s h tag addr bytes) := by
  unfold State.bulkIllegal
  try dsimp only
  repeat' (first | with_reducible assumption | with_reducible apply State.bulkDone_does (hW.of rfl))

theorem State.bulkRed_does {W : Nat} (hW : Covers W 0x2100000000000E1E0) {s₀ : State} (h : BitVec 10) (tag : BitVec 12) (addr bytes : Nat) {s : State} (hk : Does W s₀ s) :
    Does W s₀ (State.bulkRed s h tag addr bytes) := by
  unfold State.bulkRed
  try dsimp only
  repeat' (first | with_reducible assumption | with_reducible apply State.bulkDone_does (hW.of rfl))

theorem execBulkReadRequest_does {W : Nat} (hW : Covers W 0x210015BFEFFA4E1E0) {s₀ : State} (host : BitVec 10) (tag : BitVec 12) (addr : BitVec 52) (bytes : BitVec 16) (media : List Medium) {s s₁ : State} (hk : Does W s₀ s) (ht : execBulkReadRequest host tag addr bytes media s = .next s₁) :
    Does W s₀ s₁ := by
  cases ht
  try dsimp only
  repeat' (first
    | with_reducible assumption | with_reducible apply State.meterArrive_does (hW.of rfl)
    | with_reducible apply State.cohEnd_does (hW.of rfl) | with_reducible apply State.hold_does (hW.of rfl)
    | with_reducible apply State.bulkFatal_does (hW.of rfl) | with_reducible apply State.bulkIllegal_does (hW.of rfl)
    | with_reducible apply State.bulkRed_does (hW.of rfl) | with_reducible apply State.bulkReadNow_does (hW.of rfl) | split
    | (with_reducible refine Does.of_pair (by with_reducible assumption) ?_) | (with_reducible intro _; intros; (try dsimp only)))

theorem State.bulkPacket_does {W : Nat} (hW : Covers W 0x210005BFFFFA4E1E0) {s₀ : State} (h : BitVec 10) (tag : BitVec 12) (x : BulkRx) (boff : Nat) (data : List Byte) (media : List Medium) {s : State} (hk : Does W s₀ s) :
    Does W s₀ (State.bulkPacket s h tag x boff data media) := by
  unfold State.bulkPacket
  try dsimp only
  repeat' (first
    | with_reducible assumption | with_reducible apply State.cohEnd_does (hW.of rfl)
    | with_reducible apply State.hold_does (hW.of rfl) | with_reducible apply State.bulkWriteNow_does (hW.of rfl)
    | (with_reducible apply Does.foldl; intro _ _ _) | split | with_reducible apply Does.upd_100000000 (hW.of rfl)
    | (with_reducible intro _; intros; (try dsimp only)))

theorem State.bulkDiscard_does {W : Nat} (hW : Covers W 0x210005BFFFFA4E1E0) {s₀ : State} (h : BitVec 10) (tag : BitVec 12) (x : BulkRx) (boff : Nat) (data : List Byte) {s : State} (hk : Does W s₀ s) :
    Does W s₀ (State.bulkDiscard s h tag x boff data) := by
  unfold State.bulkDiscard
  try dsimp only
  repeat' (first
    | with_reducible assumption | with_reducible apply State.bulkPacket_does (hW.of rfl) | split
    | with_reducible apply Does.upd_100000000 (hW.of rfl) | (with_reducible intro _; intros; (try dsimp only)))

theorem execBulkWriteData_does {W : Nat} (hW : Covers W 0x210015BFFFFA4E1E0) {s₀ : State} (host : BitVec 10) (tag : BitVec 12) (addr : BitVec 52) (bytes boff : BitVec 16) (data : List Byte) (media : List Medium) {s s₁ : State} (hk : Does W s₀ s) (ht : execBulkWriteData host tag addr bytes boff data media s = .next s₁) :
    Does W s₀ s₁ := by
  cases ht
  try dsimp only
  repeat' (first
    | with_reducible assumption | with_reducible apply State.meterArrive_does (hW.of rfl)
    | with_reducible apply State.bulkFatal_does (hW.of rfl) | with_reducible apply State.bulkIllegal_does (hW.of rfl)
    | with_reducible apply State.bulkRed_does (hW.of rfl) | with_reducible apply State.bulkPacket_does (hW.of rfl)
    | with_reducible apply State.bulkDiscard_does (hW.of rfl) | split
    | (with_reducible refine Does.of_pair (by with_reducible assumption) ?_)
    | (with_reducible intro _; intros; (try dsimp only)))

theorem State.carveMsg_does {W : Nat} (hW : Covers W 0x215937A5C06FCE1E0) {s₀ : State} (hdr : KmpHdr) (op : BitVec 8) (cmd : CarveCmd) {s : State} (hk : Does W s₀ s) :
    Does W s₀ (State.carveMsg s hdr op cmd) := by
  unfold State.carveMsg
  try dsimp only
  repeat' (first
    | with_reducible assumption | with_reducible apply State.kmpRequest_does (hW.of rfl)
    | with_reducible apply State.carveDo_does (hW.of rfl) | split
    | (with_reducible refine Does.of_pair (by with_reducible assumption) ?_) | with_reducible apply Does.upd_400000 (hW.of rfl)
    | (with_reducible intro _; intros; (try dsimp only)))

theorem execCarve_does {W : Nat} (hW : Covers W 0x215937A5C06FCE1E0) {s₀ : State} (hdr : KmpHdr) (cmd : CarveCmd) {s s₁ : State} (hk : Does W s₀ s) (ht : execCarve hdr cmd s = .next s₁) :
    Does W s₀ s₁ := by
  cases ht
  try dsimp only
  repeat' (first | with_reducible assumption | with_reducible apply State.carveMsg_does (hW.of rfl))

theorem execGrant_does {W : Nat} (hW : Covers W 0x215937A5C06FCE1E0) {s₀ : State} (hdr : KmpHdr) (cmd : CarveCmd) {s s₁ : State} (hk : Does W s₀ s) (ht : execGrant hdr cmd s = .next s₁) :
    Does W s₀ s₁ := by
  cases ht
  try dsimp only
  repeat' (first | with_reducible assumption | with_reducible apply State.carveMsg_does (hW.of rfl))

theorem execRights_does {W : Nat} (hW : Covers W 0x215937A5C06FCE1E0) {s₀ : State} (hdr : KmpHdr) (cmd : CarveCmd) {s s₁ : State} (hk : Does W s₀ s) (ht : execRights hdr cmd s = .next s₁) :
    Does W s₀ s₁ := by
  cases ht
  try dsimp only
  repeat' (first | with_reducible assumption | with_reducible apply State.carveMsg_does (hW.of rfl))

theorem execWithdraw_does {W : Nat} (hW : Covers W 0x215937A5C06FCE1E0) {s₀ : State} (hdr : KmpHdr) (cmd : CarveCmd) {s s₁ : State} (hk : Does W s₀ s) (ht : execWithdraw hdr cmd s = .next s₁) :
    Does W s₀ s₁ := by
  cases ht
  try dsimp only
  repeat' (first | with_reducible assumption | with_reducible apply State.carveMsg_does (hW.of rfl))

theorem execFree_does {W : Nat} (hW : Covers W 0x215937A5C06FCE1E0) {s₀ : State} (hdr : KmpHdr) (cmd : CarveCmd) {s s₁ : State} (hk : Does W s₀ s) (ht : execFree hdr cmd s = .next s₁) :
    Does W s₀ s₁ := by
  cases ht
  try dsimp only
  repeat' (first | with_reducible assumption | with_reducible apply State.carveMsg_does (hW.of rfl))

theorem execQuery_does {W : Nat} (hW : Covers W 0x215937A5C06FCE1E0) {s₀ : State} (hdr : KmpHdr) (cmd : CarveCmd) {s s₁ : State} (hk : Does W s₀ s) (ht : execQuery hdr cmd s = .next s₁) :
    Does W s₀ s₁ := by
  cases ht
  try dsimp only
  repeat' (first | with_reducible assumption | with_reducible apply State.carveMsg_does (hW.of rfl))

theorem State.modDrain_does {W : Nat} (hW : Covers W 0x200000) {s₀ : State} (host e : Nat) (f : Drain → Drain) {s : State} (hk : Does W s₀ s) :
    Does W s₀ (State.modDrain s host e f) := by
  unfold State.modDrain
  try dsimp only
  repeat' (first
    | with_reducible assumption | split | with_reducible apply Does.upd_200000 (hW.of rfl)
    | (with_reducible intro _; intros; (try dsimp only)))

theorem State.drainLines_does {W : Nat} (hW : Covers W 0x210005BFE6FA4E1E0) {s₀ : State} (h e : Nat) (ls : List Nat) (m : Medium) {s : State} (hk : Does W s₀ s) :
    Does W s₀ (State.drainLines s h e ls m) := by
  unfold State.drainLines
  try dsimp only
  repeat' (first
    | with_reducible assumption | with_reducible apply State.cohEnd_does (hW.of rfl)
    | with_reducible apply State.modDrain_does (hW.of rfl) | split | (with_reducible intro _; intros; (try dsimp only)))

theorem execWithdrawalRecall_does {W : Nat} (hW : Covers W 0x210005BFE6FA4E1E0) {s₀ : State} (host extent : BitVec 16) (med : Medium) {s s₁ : State} (hk : Does W s₀ s) (ht : execWithdrawalRecall host extent med s = .next s₁) :
    Does W s₀ s₁ := by
  cases ht
  try dsimp only
  repeat' (first
    | with_reducible assumption | with_reducible apply State.drainLines_does (hW.of rfl) | split
    | (with_reducible refine Does.of_pair (by with_reducible assumption) ?_)
    | (with_reducible intro _; intros; (try dsimp only)))

theorem execWithdrawalComplete_does {W : Nat} (hW : Covers W 0x2100078000030E1E0) {s₀ : State} (host extent : BitVec 16) {s s₁ : State} (hk : Does W s₀ s) (ht : execWithdrawalComplete host extent s = .next s₁) :
    Does W s₀ s₁ := by
  cases ht
  try dsimp only
  repeat' (first
    | with_reducible assumption | with_reducible apply State.dropEntry_does (hW.of rfl)
    | with_reducible apply State.entryEvent_does (hW.of rfl) | split
    | (with_reducible refine Does.of_pair (by with_reducible assumption) ?_) | with_reducible apply Does.upd_200000 (hW.of rfl))

theorem execNarrowingSnoop_does {W : Nat} (hW : Covers W 0x210005BFE6FA4E1E0) {s₀ : State} (host extent : BitVec 16) (med : Medium) {s s₁ : State} (hk : Does W s₀ s) (ht : execNarrowingSnoop host extent med s = .next s₁) :
    Does W s₀ s₁ := by
  cases ht
  try dsimp only
  repeat' (first
    | with_reducible assumption | with_reducible apply State.drainLines_does (hW.of rfl) | split
    | (with_reducible refine Does.of_pair (by with_reducible assumption) ?_)
    | (with_reducible intro _; intros; (try dsimp only)))

theorem execNarrowingComplete_does {W : Nat} (hW : Covers W 0x2100078000030E1E0) {s₀ : State} (host extent : BitVec 16) {s s₁ : State} (hk : Does W s₀ s) (ht : execNarrowingComplete host extent s = .next s₁) :
    Does W s₀ s₁ := by
  cases ht
  try dsimp only
  repeat' (first
    | with_reducible assumption | with_reducible apply State.modEntry_does (hW.of rfl)
    | with_reducible apply State.entryEvent_does (hW.of rfl) | split
    | (with_reducible refine Does.of_pair (by with_reducible assumption) ?_) | with_reducible apply Does.upd_200000 (hW.of rfl))

theorem State.noteThermalCap_does {W : Nat} (hW : Covers W 0x4000000000000000) {s₀ : State} (h : Nat) {s : State} (hk : Does W s₀ s) :
    Does W s₀ (State.noteThermalCap s h) := by
  unfold State.noteThermalCap
  try dsimp only
  repeat' (first
    | with_reducible assumption | with_reducible apply State.modPwr_does (hW.of rfl) | with_reducible apply Does.getD | split
    | (with_reducible intro _; intros; (try dsimp only)))

theorem State.switchHubs_does {W : Nat} (hW : Covers W 0x2D44278015140E1EC) {s₀ : State} (hs : List Nat) (feed : Bool) {s : State} (hk : Does W s₀ s) :
    Does W s₀ (State.switchHubs s hs feed) := by
  unfold State.switchHubs
  try dsimp only
  repeat' (first
    | with_reducible assumption | with_reducible apply State.modPwr_does (hW.of rfl)
    | with_reducible apply State.goFatal_does (hW.of rfl) | with_reducible apply State.snow_does (hW.of rfl)
    | (with_reducible apply Does.foldl; intro _ _ _) | split)

theorem execSwitchOver_does {W : Nat} (hW : Covers W 0x2D44278015140E1EC) {s₀ : State} (cause : SwitchCause) {s s₁ : State} (hk : Does W s₀ s) (ht : execSwitchOver cause s = .next s₁) :
    Does W s₀ s₁ := by
  cases ht
  try dsimp only
  repeat' (first
    | with_reducible assumption | with_reducible apply State.switchHubs_does (hW.of rfl) | split
    | (with_reducible refine Does.of_pair (by with_reducible assumption) ?_)
    | with_reducible apply Does.upd_8000000000000000 (hW.of rfl))

theorem execASetReturn_does {W : Nat} (hW : Covers W 0x4000000000000000) {s₀ : State} (hub : Fin 8) {s s₁ : State} (hk : Does W s₀ s) (ht : execASetReturn hub s = .next s₁) :
    Does W s₀ s₁ := by
  cases ht
  try dsimp only
  repeat' (first
    | with_reducible assumption | with_reducible apply State.modPwr_does (hW.of rfl) | split
    | (with_reducible intro _; intros; (try dsimp only)))

theorem execHoldB_does {W : Nat} (hW : Covers W 0xC000000000000000) {s₀ : State} {s s₁ : State} (hk : Does W s₀ s) (ht : execHoldB s = .next s₁) :
    Does W s₀ s₁ := by
  cases ht
  try dsimp only
  repeat' (first | with_reducible assumption | with_reducible apply State.holdB_does (hW.of rfl))

theorem execReleaseHold_does {W : Nat} (hW : Covers W 0x8000000000000000) {s₀ : State} {s s₁ : State} (hk : Does W s₀ s) (ht : execReleaseHold s = .next s₁) :
    Does W s₀ s₁ := by
  cases ht
  try dsimp only
  repeat' (first | with_reducible assumption | with_reducible apply State.releaseHold_does (hW.of rfl))

theorem State.feedAmps_does {W : Nat} (hW : Covers W 0x8000000000000000) {s₀ : State} (b : Bool) (amps : BitVec 9) {s : State} (hk : Does W s₀ s) :
    Does W s₀ (State.feedAmps s b amps) := by
  unfold State.feedAmps
  try dsimp only
  repeat' (first | with_reducible assumption | split | with_reducible apply Does.upd_8000000000000000 (hW.of rfl))

theorem execOverCurrent_does {W : Nat} (hW : Covers W 0xC000000000000000) {s₀ : State} (feedB : Bool) (amps : BitVec 9) {s s₁ : State} (hk : Does W s₀ s) (ht : execOverCurrent feedB amps s = .next s₁) :
    Does W s₀ s₁ := by
  cases ht
  try dsimp only
  repeat' (first
    | with_reducible assumption | with_reducible apply State.snow_does (hW.of rfl)
    | with_reducible apply State.feedAmps_does (hW.of rfl) | split | (with_reducible intro _; intros; (try dsimp only)))

theorem execSensorRead_does {W : Nat} (hW : Covers W 0x2D44278015140E1EC) {s₀ : State} (hub : Fin 8) (temps : List (BitVec 8)) {s s₁ : State} (hk : Does W s₀ s) (ht : execSensorRead hub temps s = .next s₁) :
    Does W s₀ s₁ := by
  cases ht
  try dsimp only
  repeat' (first
    | with_reducible assumption | with_reducible apply State.modPwr_does (hW.of rfl)
    | with_reducible apply State.goFatal_does (hW.of rfl) | with_reducible apply State.thermalTrip_does (hW.of rfl)
    | (with_reducible apply Does.foldl; intro _ _ _) | split | with_reducible apply Does.upd_8000000000000000 (hW.of rfl))

theorem execThermalCapAdjust_does {W : Nat} (hW : Covers W 0x4000000000000000) {s₀ : State} (hub : Fin 8) {s s₁ : State} (hk : Does W s₀ s) (ht : execThermalCapAdjust hub s = .next s₁) :
    Does W s₀ s₁ := by
  cases ht
  try dsimp only
  repeat' (first
    | with_reducible assumption | with_reducible apply State.modPwr_does (hW.of rfl)
    | with_reducible apply State.noteThermalCap_does (hW.of rfl) | split | (with_reducible intro _; intros; (try dsimp only)))

theorem execFirstUseEnd_does {W : Nat} (hW : Covers W 0x4000000000000000) {s₀ : State} (hub : Fin 8) {s s₁ : State} (hk : Does W s₀ s) (ht : execFirstUseEnd hub s = .next s₁) :
    Does W s₀ s₁ := by
  cases ht
  try dsimp only
  repeat' (first | with_reducible assumption | with_reducible apply State.modPwr_does (hW.of rfl))

theorem execLedgerWindow_does {W : Nat} (hW : Covers W 0x4000000000000000) {s₀ : State} (hub : Fin 8) (estimate : Nat) {s s₁ : State} (hk : Does W s₀ s) (ht : execLedgerWindow hub estimate s = .next s₁) :
    Does W s₀ s₁ := by
  cases ht
  try dsimp only
  repeat' (first
    | with_reducible assumption | with_reducible apply State.modPwr_does (hW.of rfl) | split
    | (with_reducible intro _; intros; (try dsimp only)))

theorem execSnowploughEscalate_does {W : Nat} (hW : Covers W 0xC000000000000000) {s₀ : State} (hub : Fin 8) (amps : BitVec 9) {s s₁ : State} (hk : Does W s₀ s) (ht : execSnowploughEscalate hub amps s = .next s₁) :
    Does W s₀ s₁ := by
  cases ht
  try dsimp only
  repeat' (first
    | with_reducible assumption | with_reducible apply State.modPwr_does (hW.of rfl)
    | with_reducible apply State.feedAmps_does (hW.of rfl) | split | with_reducible apply Does.upd_8000000000000000 (hW.of rfl)
    | (with_reducible intro _; intros; (try dsimp only)))

theorem execSnowploughRelease_does {W : Nat} (hW : Covers W 0xC000000000000100) {s₀ : State} (hub : Fin 8) (cause : SnowCause) (amps : BitVec 9) {s s₁ : State} (hk : Does W s₀ s) (ht : execSnowploughRelease hub cause amps s = .next s₁) :
    Does W s₀ s₁ := by
  cases ht
  try dsimp only
  repeat' (first
    | with_reducible assumption | with_reducible apply State.modPwr_does (hW.of rfl)
    | with_reducible apply State.bump_does (hW.of rfl) | with_reducible apply State.feedAmps_does (hW.of rfl) | split
    | (with_reducible intro _; intros; (try dsimp only)))

theorem execSnowploughClimb_does {W : Nat} (hW : Covers W 0x4000000000000000) {s₀ : State} (hub : Fin 8) {s s₁ : State} (hk : Does W s₀ s) (ht : execSnowploughClimb hub s = .next s₁) :
    Does W s₀ s₁ := by
  cases ht
  try dsimp only
  repeat' (first
    | with_reducible assumption | with_reducible apply State.modPwr_does (hW.of rfl) | split
    | (with_reducible refine Does.of_pair (by with_reducible assumption) ?_)
    | (with_reducible intro _; intros; (try dsimp only)))

theorem execSnowploughTest_does {W : Nat} (hW : Covers W 0xC000000000000000) {s₀ : State} {s s₁ : State} (hk : Does W s₀ s) (ht : execSnowploughTest s = .next s₁) :
    Does W s₀ s₁ := by
  cases ht
  try dsimp only
  repeat' (first | with_reducible assumption | with_reducible apply State.snowTest_does (hW.of rfl))

theorem execStandbyFeedFault_does {W : Nat} (hW : Covers W 0x8000000000000000) {s₀ : State} (feedB within : Bool) {s s₁ : State} (hk : Does W s₀ s) (ht : execStandbyFeedFault feedB within s = .next s₁) :
    Does W s₀ s₁ := by
  cases ht
  try dsimp only
  repeat' (first | with_reducible assumption | split | with_reducible apply Does.upd_8000000000000000 (hW.of rfl))

end Sys2Proof.Machine
end

