-- ==== Sys2Proof/Laws/DoesCompute.lean ====
section
/-! SUPPORT. DoesCompute.lean: what each operation of the clusters, jobs and memory engines does (`Does`). -/
namespace Sys2Proof.Machine
open Sys2Proof

theorem State.resetCounters_does {W : Nat} (hW : Covers W 0x100) {s₀ : State} (keys : List Nat) {s : State} (hk : Does W s₀ s) :
    Does W s₀ (State.resetCounters s keys) := by
  unfold State.resetCounters
  try dsimp only
  repeat' (first
    | with_reducible assumption | (with_reducible apply Does.foldl; intro _ _ _) | with_reducible apply Does.upd_100 (hW.of rfl))

theorem State.putFill_does {W : Nat} (hW : Covers W 0xC00000000) {s₀ : State} (sl : Nat) {s : State} (hk : Does W s₀ s) :
    Does W s₀ (State.putFill s sl) := by
  unfold State.putFill
  try dsimp only
  repeat' (first
    | with_reducible assumption | with_reducible apply Does.upd_C00000000 (hW.of rfl) | with_reducible exact id
    | with_reducible exact le_rfl | with_reducible exact Nat.le_add_right _ _ | with_reducible exact memWriteBytes_wf _ _ _
    | with_reducible exact wf_keep _ _ | (exact fun _ => rfl) | exact Nat.le_refl _)

theorem State.startFetch_does {W : Nat} (hW : Covers W 0xC0000000) {s₀ : State} (q cmd host addr bytes : Nat) {s : State} (hk : Does W s₀ s) :
    Does W s₀ (State.startFetch s q cmd host addr bytes) := by
  unfold State.startFetch
  try dsimp only
  repeat' (first | with_reducible assumption | with_reducible apply Does.upd_C0000000 (hW.of rfl))

theorem State.readS_does {W : Nat} (hW : Covers W 0x40000000000000000) {s₀ : State} (j i n : Nat) {s : State} (hk : Does W s₀ s) :
    Does W s₀ (State.readS s j i n).2 := by
  unfold State.readS
  try dsimp only
  repeat' (first
    | with_reducible assumption | with_reducible apply State.draw_does (hW.of rfl) | split
    | (with_reducible refine Does.of_pair (by with_reducible assumption) ?_) | (with_reducible intro _; intros; (try dsimp only)))

theorem State.readT_does {W : Nat} (hW : Covers W 0x40000000000000000) {s₀ : State} (j i n : Nat) {s : State} (hk : Does W s₀ s) :
    Does W s₀ (State.readT s j i n).2 := by
  unfold State.readT
  try dsimp only
  repeat' (first
    | with_reducible assumption | with_reducible apply State.draw_does (hW.of rfl) | split
    | (with_reducible refine Does.of_pair (by with_reducible assumption) ?_) | (with_reducible intro _; intros; (try dsimp only)))

theorem State.readV_does {W : Nat} (hW : Covers W 0x40000000000000000) {s₀ : State} (j i n : Nat) {s : State} (hk : Does W s₀ s) :
    Does W s₀ (State.readV s j i n).2 := by
  unfold State.readV
  try dsimp only
  repeat' (first
    | with_reducible assumption | with_reducible apply State.draw_does (hW.of rfl) | split
    | (with_reducible refine Does.of_pair (by with_reducible assumption) ?_) | (with_reducible intro _; intros; (try dsimp only)))

theorem State.writeS_does {W : Nat} (hW : Covers W 0x40004000000000000) {s₀ : State} (j i n : Nat) (v : DWord) (latency : Nat) {s : State} (hk : Does W s₀ s) :
    Does W s₀ (State.writeS s j i n v latency) := by
  unfold State.writeS
  try dsimp only
  repeat' (first
    | with_reducible assumption | with_reducible apply State.draw_does (hW.of rfl)
    | with_reducible apply State.modLc_does (hW.of rfl) | split
    | (with_reducible refine Does.of_pair (by with_reducible assumption) ?_) | (with_reducible intro _; intros; (try dsimp only)))

theorem State.writeA_does {W : Nat} (hW : Covers W 0x4000000000000) {s₀ : State} (j i n : Nat) (v : DWord) {s : State} (hk : Does W s₀ s) :
    Does W s₀ (State.writeA s j i n v) := by
  unfold State.writeA
  try dsimp only
  repeat' (first | with_reducible assumption | with_reducible apply State.modLc_does (hW.of rfl))

theorem State.readStg_does {W : Nat} (hW : Covers W 0x40008000000000000) {s₀ : State} (j i u : Nat) (sp : Span) {s : State} (hk : Does W s₀ s) :
    Does W s₀ (State.readStg s j i u sp).2 := by
  unfold State.readStg
  try dsimp only
  repeat' (first
    | with_reducible assumption | with_reducible apply State.draw_does (hW.of rfl)
    | with_reducible apply State.noteRange_does (hW.of rfl) | split
    | (with_reducible refine Does.of_pair (by with_reducible assumption) ?_))

theorem State.signal_does {W : Nat} (hW : Covers W 0x4000C000000000000) {s₀ : State} (j i k n unit : Nat) {s : State} (hk : Does W s₀ s) :
    Does W s₀ (State.signal s j i k n unit) := by
  unfold State.signal
  try dsimp only
  repeat' (first
    | with_reducible assumption | with_reducible apply State.draw_does (hW.of rfl)
    | with_reducible apply State.modLc_does (hW.of rfl) | with_reducible apply State.modClu_does (hW.of rfl) | split
    | (with_reducible refine Does.of_pair (by with_reducible assumption) ?_) | (with_reducible intro _; intros; (try dsimp only)))

theorem State.unitDone_does {W : Nat} (hW : Covers W 0x4000C000000000000) {s₀ : State} (j i : Nat) (a : PastOp) {s : State} (hk : Does W s₀ s) :
    Does W s₀ (State.unitDone s j i a) := by
  unfold State.unitDone
  try dsimp only
  repeat' (first
    | with_reducible assumption | with_reducible apply State.modLc_does (hW.of rfl)
    | with_reducible apply State.signal_does (hW.of rfl) | split
    | (with_reducible refine Does.of_pair (by with_reducible assumption) ?_)
    | (with_reducible intro _; intros; (try dsimp only)))

theorem State.spoilBytes_does {W : Nat} (hW : Covers W 0x40000000000000000) {s₀ : State} (bad : List Span) (lo : Nat) (l : List Byte) {s : State} (hk : Does W s₀ s) :
    Does W s₀ (State.spoilBytes s bad lo l).2 := by
  unfold State.spoilBytes
  try dsimp only
  repeat' (first
    | with_reducible assumption | with_reducible apply State.draw_does (hW.of rfl) | split
    | (with_reducible refine Does.of_pair (by with_reducible assumption) ?_)
    | (with_reducible intro _; intros; (try dsimp only)))

theorem State.spoilLc_does {W : Nat} (hW : Covers W 0x40004000000000000) {s₀ : State} (j i : Nat) {s : State} (hk : Does W s₀ s) :
    Does W s₀ (State.spoilLc s j i) := by
  unfold State.spoilLc
  try dsimp only
  repeat' (first
    | with_reducible assumption | with_reducible apply State.draw_does (hW.of rfl)
    | with_reducible apply State.modLc_does (hW.of rfl) | split
    | (with_reducible refine Does.of_pair (by with_reducible assumption) ?_)
    | (with_reducible intro _; intros; (try dsimp only)))

theorem State.notePool_does {W : Nat} (hW : Covers W 0x40014000000000000) {s₀ : State} (j i q id : Nat) (sp : Span) {s : State} (hk : Does W s₀ s) :
    Does W s₀ (State.notePool s j i q id sp) := by
  unfold State.notePool
  try dsimp only
  repeat' (first
    | with_reducible assumption | with_reducible apply State.modJob_does (hW.of rfl)
    | with_reducible apply State.spoilLc_does (hW.of rfl) | (with_reducible apply Does.foldl; intro _ _ _) | split
    | with_reducible apply Does.upd_4000000000000 (hW.of rfl) | (with_reducible intro _; intros; (try dsimp only)))

theorem State.endBundle_does {W : Nat} (hW : Covers W 0x40004000000000100) {s₀ : State} (h k j i : Nat) (target : Option (BitVec 14)) {s : State} (hk : Does W s₀ s) :
    Does W s₀ (State.endBundle s h k j i target) := by
  unfold State.endBundle
  try dsimp only
  repeat' (first
    | with_reducible assumption | with_reducible apply State.bump_does (hW.of rfl)
    | with_reducible apply State.modLc_does (hW.of rfl) | with_reducible apply State.writeS_does (hW.of rfl)
    | with_reducible apply Does.getD | split | (with_reducible refine Does.of_pair (by with_reducible assumption) ?_)
    | (with_reducible intro _; intros; (try dsimp only)))

theorem State.slotEnds_does {W : Nat} (hW : Covers W 0x40004000000000100) {s₀ : State} (h k j i slot : Nat) (b : List DWord) (t : Option (BitVec 14)) {s : State} (hk : Does W s₀ s) :
    Does W s₀ (State.slotEnds s h k j i slot b t) := by
  unfold State.slotEnds
  try dsimp only
  repeat' (first
    | with_reducible assumption | with_reducible apply State.modLc_does (hW.of rfl)
    | with_reducible apply State.endBundle_does (hW.of rfl) | split)

theorem State.issue_does {W : Nat} (hW : Covers W 0x40004000000000100) {s₀ : State} (h k slot : Nat) (w : DWord) (f : Nat → Nat → State → Issued) {s : State} (hk : Does W s₀ s)
    (hf_f : ∀ (v0 : Nat) (v1 : Nat) (v2 : State), Does W s₀ v2 → Does W s₀ (f v0 v1 v2).split.1) :
    Does W s₀ (State.issue s h k slot w f) := by
  unfold State.issue
  try dsimp only
  repeat' (first
    | with_reducible assumption | with_reducible apply hf_f | with_reducible apply State.bump_does (hW.of rfl)
    | with_reducible apply State.modLc_does (hW.of rfl) | with_reducible apply State.slotEnds_does (hW.of rfl)
    | with_reducible apply Does.blocked | with_reducible apply Does.done | with_reducible apply Does.jump | split
    | (with_reducible refine Does.of_pair (by with_reducible assumption) ?_)
    | (with_reducible refine Does.of_fst (by with_reducible assumption) ?_) | (with_reducible intro _; intros; (try dsimp only)))

theorem State.lcWaits_does {W : Nat} (hW : Covers W 0x4000000000020) {s₀ : State} (h k j i : Nat) (w : LcWait) (ekind : BitVec 8) (object : BitVec 16) (detail : BitVec 32) {s : State} (hk : Does W s₀ s) :
    Does W s₀ (State.lcWaits s h k j i w ekind object detail) := by
  unfold State.lcWaits
  try dsimp only
  repeat' (first
    | with_reducible assumption | with_reducible apply State.waitBegin_does (hW.of rfl)
    | with_reducible apply State.modLc_does (hW.of rfl) | split)

theorem State.walk_does {W : Nat} (hW : Covers W 0x2FC00040100) {s₀ : State} (va need : Nat) :
    ∀ (l0 : Nat) (l1 : Nat) (l2 : List Medium), ∀ {s : State}, Does W s₀ s → Does W s₀ (State.walk va need l0 l1 l2 s).2 := by
  intro l0 l1 l2
  induction l0 generalizing va need l1 l2 with
  | zero =>
    intro s hk
    unfold State.walk
    try dsimp only
    repeat' (first
      | with_reducible assumption | with_reducible apply State.loadLine_does (hW.of rfl) | split
      | (with_reducible refine Does.of_pair (by with_reducible assumption) ?_))
  | succ r ih =>
    intro s hk
    unfold State.walk
    try dsimp only
    repeat' (first
      | with_reducible apply ih | with_reducible assumption | with_reducible apply State.loadLine_does (hW.of rfl) | split
      | (with_reducible refine Does.of_pair (by with_reducible assumption) ?_))

theorem State.modSeg_does {W : Nat} (hW : Covers W 0x4000000000000) {s₀ : State} (j i q id g : Nat) (f : Seg → Seg) {s : State} (hk : Does W s₀ s) :
    Does W s₀ (State.modSeg s j i q id g f) := by
  unfold State.modSeg
  try dsimp only
  repeat' (first | with_reducible assumption | with_reducible apply State.modLc_does (hW.of rfl) | split)

theorem State.sendSeg_does {W : Nat} (hW : Covers W 0x6101402FCEF84E1E0) {s₀ : State} (j i q : Nat) (d : StreamDesc) (g : Nat) (x : Seg) (dpa page : Nat) (media : List Medium) {s : State} (hk : Does W s₀ s) :
    Does W s₀ (State.sendSeg s j i q d g x dpa page media) := by
  unfold State.sendSeg
  try dsimp only
  repeat' (first
    | with_reducible assumption | with_reducible apply State.draw_does (hW.of rfl)
    | with_reducible apply State.startLines_does (hW.of rfl) | with_reducible apply State.modJob_does (hW.of rfl)
    | with_reducible apply State.spoilBytes_does (hW.of rfl) | with_reducible apply State.notePool_does (hW.of rfl)
    | with_reducible apply State.modSeg_does (hW.of rfl) | split
    | (with_reducible refine Does.of_pair (by with_reducible assumption) ?_)
    | (with_reducible intro _; intros; (try dsimp only)))

theorem State.cutSeg_does {W : Nat} (hW : Covers W 0x84000000000000) {s₀ : State} (j i h q id g n : Nat) {s : State} (hk : Does W s₀ s) :
    Does W s₀ (State.cutSeg s j i h q id g n) := by
  unfold State.cutSeg
  try dsimp only
  repeat' (first
    | with_reducible assumption | with_reducible apply State.modLc_does (hW.of rfl)
    | with_reducible apply State.modTrn_does (hW.of rfl) | split | (with_reducible intro _; intros; (try dsimp only)))

theorem State.streamSegs_does {W : Nat} (hW : Covers W 0x6109402FCEF84E1E0) {s₀ : State} (j i h k q : Nat) (media : List Medium) :
    ∀ (l0 : Nat) (l1 : Nat), ∀ {s : State}, Does W s₀ s → Does W s₀ (State.streamSegs j i h k q media l0 l1 s) := by
  intro l0 l1
  induction l0 generalizing j i h k q media l1 with
  | zero =>
    intro s hk
    unfold State.streamSegs
    try dsimp only
    repeat' (first
      | with_reducible assumption | with_reducible apply State.modTrn_does (hW.of rfl)
      | with_reducible apply State.modSeg_does (hW.of rfl) | with_reducible apply State.sendSeg_does (hW.of rfl)
      | with_reducible apply State.cutSeg_does (hW.of rfl) | split
      | (with_reducible refine Does.of_pair (by with_reducible assumption) ?_)
      | (with_reducible intro _; intros; (try dsimp only)))
  | succ r ih =>
    intro s hk
    unfold State.streamSegs
    try dsimp only
    repeat' (first
      | with_reducible apply ih | with_reducible assumption | with_reducible apply State.modTrn_does (hW.of rfl)
      | with_reducible apply State.modSeg_does (hW.of rfl) | with_reducible apply State.sendSeg_does (hW.of rfl)
      | with_reducible apply State.cutSeg_does (hW.of rfl) | split
      | (with_reducible refine Does.of_pair (by with_reducible assumption) ?_)
      | (with_reducible intro _; intros; (try dsimp only)))

theorem State.modDesc_does {W : Nat} (hW : Covers W 0x4000000000000) {s₀ : State} (j i q id : Nat) (f : StreamDesc → StreamDesc) {s : State} (hk : Does W s₀ s) :
    Does W s₀ (State.modDesc s j i q id f) := by
  unfold State.modDesc
  try dsimp only
  repeat' (first | with_reducible assumption | with_reducible apply State.modLc_does (hW.of rfl) | split)

theorem State.startDesc_does {W : Nat} (hW : Covers W 0x4000C000000000000) {s₀ : State} (j i q : Nat) (d : StreamDesc) {s : State} (hk : Does W s₀ s) :
    Does W s₀ (State.startDesc s j i q d) := by
  unfold State.startDesc
  try dsimp only
  repeat' (first
    | with_reducible assumption | with_reducible apply State.draw_does (hW.of rfl)
    | with_reducible apply State.readStg_does (hW.of rfl) | with_reducible apply State.modDesc_does (hW.of rfl) | split
    | (with_reducible refine Does.of_pair (by with_reducible assumption) ?_)
    | (with_reducible intro _; intros; (try dsimp only)))

theorem State.streamGo_does {W : Nat} (hW : Covers W 0x6109C02FCEF84E1E0) {s₀ : State} (j i q : Nat) (media : List Medium) {s : State} (hk : Does W s₀ s) :
    Does W s₀ (State.streamGo s j i q media) := by
  unfold State.streamGo
  try dsimp only
  repeat' (first
    | with_reducible assumption | with_reducible apply State.streamSegs_does (hW.of rfl)
    | with_reducible apply State.startDesc_does (hW.of rfl) | split
    | (with_reducible refine Does.of_pair (by with_reducible assumption) ?_))

theorem State.jobRefuse_does {W : Nat} (hW : Covers W 0x2100058000000E1E0) {s₀ : State} (c : JCmd) (jresult j : Nat) {s : State} (hk : Does W s₀ s) :
    Does W s₀ (State.jobRefuse s c jresult j) := by
  unfold State.jobRefuse
  try dsimp only
  repeat' (first | with_reducible assumption | with_reducible apply State.completeCmd_does (hW.of rfl))

theorem State.jobFault_does {W : Nat} (hW : Covers W 0x252BC5AFCEF84E1E0) {s₀ : State} (j i cause trap : Nat) {s : State} (hk : Does W s₀ s) :
    Does W s₀ (State.jobFault s j i cause trap) := by
  unfold State.jobFault
  try dsimp only
  repeat' (first
    | with_reducible assumption | with_reducible apply State.modClu_does (hW.of rfl)
    | with_reducible apply State.endJob_does (hW.of rfl) | split
    | (with_reducible refine Does.of_pair (by with_reducible assumption) ?_))

theorem State.commandCounters_does {W : Nat} (hW : Covers W 0x100) {s₀ : State} (q ns : Nat) {s : State} (hk : Does W s₀ s) :
    Does W s₀ (State.commandCounters s q ns) := by
  unfold State.commandCounters
  try dsimp only
  repeat' (first
    | with_reducible assumption | with_reducible apply State.bump_does (hW.of rfl)
    | with_reducible apply State.resetCounters_does (hW.of rfl))

theorem State.issuedHead_does {W : Nat} (hW : Covers W 0xC00000000100) {s₀ : State} (q : Nat) (c : Cand) {s : State} (hk : Does W s₀ s) :
    Does W s₀ (State.issuedHead s q c) := by
  unfold State.issuedHead
  try dsimp only
  repeat' (first
    | with_reducible assumption | with_reducible apply State.modQueue_does (hW.of rfl)
    | with_reducible apply State.queIdle_does (hW.of rfl) | with_reducible apply State.commandCounters_does (hW.of rfl) | split
    | with_reducible apply Does.upd_800000000000 (hW.of rfl))

theorem State.issueCmd_does {W : Nat} (hW : Covers W 0xC00000000100) {s₀ : State} (q op : Nat) (f : RingSlot → State → State) {s : State} (hk : Does W s₀ s)
    (hf_f : ∀ (v0 : RingSlot) (v1 : State), Does W s₀ v1 → Does W s₀ (f v0 v1)) :
    Does W s₀ (State.issueCmd s q op f) := by
  unfold State.issueCmd
  try dsimp only
  repeat' (first
    | with_reducible assumption | with_reducible apply State.tagHeads_does (hW.of rfl)
    | with_reducible apply State.issuedHead_does (hW.of rfl) | with_reducible apply hf_f | split
    | (with_reducible refine Does.of_pair (by with_reducible assumption) ?_)
    | (with_reducible refine Does.of_fst (by with_reducible assumption) ?_) | (with_reducible intro _; intros; (try dsimp only)))

theorem State.fillExtent_does {W : Nat} (hW : Covers W 0x25C00040100) {s₀ : State} (e : Nat) {s : State} (hk : Does W s₀ s) :
    Does W s₀ (State.fillExtent s e) := by
  unfold State.fillExtent
  try dsimp only
  repeat' (first
    | with_reducible assumption | with_reducible apply State.fillSlot_does (hW.of rfl)
    | (with_reducible apply Does.foldl; intro _ _ _) | split
    | (with_reducible refine Does.of_pair (by with_reducible assumption) ?_)
    | (with_reducible intro _; intros; (try dsimp only)))

theorem State.carveQueue_does {W : Nat} (hW : Covers W 0x211927A5C06FCE1E0) {s₀ : State} :
    ∀ (l0 : Nat), ∀ {s : State}, Does W s₀ s → Does W s₀ (State.carveQueue s l0) := by
  intro l0
  induction l0 with
  | zero =>
    intro s hk
    unfold State.carveQueue
    try dsimp only
    repeat' (first
      | with_reducible assumption | with_reducible apply State.kmpLater_does (hW.of rfl)
      | with_reducible apply State.carveDo_does (hW.of rfl) | split
      | (with_reducible refine Does.of_pair (by with_reducible assumption) ?_)
      | with_reducible apply Does.upd_400000 (hW.of rfl) | (with_reducible intro _; intros; (try dsimp only)))
  | succ r ih =>
    intro s hk
    unfold State.carveQueue
    try dsimp only
    repeat' (first
      | with_reducible apply ih | with_reducible assumption | with_reducible apply State.kmpLater_does (hW.of rfl)
      | with_reducible apply State.carveDo_does (hW.of rfl) | split
      | (with_reducible refine Does.of_pair (by with_reducible assumption) ?_)
      | with_reducible apply Does.upd_400000 (hW.of rfl) | (with_reducible intro _; intros; (try dsimp only)))

theorem State.carveFilled_does {W : Nat} (hW : Covers W 0x211927A5C06FCE1E0) {s₀ : State} {s : State} (hk : Does W s₀ s) :
    Does W s₀ (State.carveFilled s) := by
  unfold State.carveFilled
  try dsimp only
  repeat' (first
    | with_reducible assumption | with_reducible apply State.kmpLater_does (hW.of rfl)
    | with_reducible apply State.fillExtent_does (hW.of rfl) | with_reducible apply State.carveQueue_does (hW.of rfl) | split
    | (with_reducible refine Does.of_pair (by with_reducible assumption) ?_) | with_reducible apply Does.upd_400000 (hW.of rfl)
    | (with_reducible intro _; intros; (try dsimp only)))

theorem State.vecOp_does {W : Nat} (hW : Covers W 0x40004000000000100) {s₀ : State} (c : CluAt) (w : DWord) (lat : Nat) (g : VSig) (f : Nat → Nat → State → List (Nat × Vec) × State) {s : State} (hk : Does W s₀ s)
    (hf_f : ∀ (v0 : Nat) (v1 : Nat) (v2 : State), Does W s₀ v2 → Does W s₀ (f v0 v1 v2).2) :
    Does W s₀ (State.vecOp s c w lat g f) := by
  unfold State.vecOp
  try dsimp only
  repeat' (first
    | with_reducible assumption | with_reducible apply State.modLc_does (hW.of rfl)
    | with_reducible apply State.issue_does (hW.of rfl) | with_reducible apply hf_f | with_reducible apply Does.done | split
    | (with_reducible refine Does.of_pair (by with_reducible assumption) ?_)
    | (with_reducible refine Does.of_fst (by with_reducible assumption) ?_) | (with_reducible intro _; intros; (try dsimp only)))

theorem State.vec2_does {W : Nat} (hW : Covers W 0x40004000000000100) {s₀ : State} (c : CluAt) (op lat : Nat) (vd va vb : Fin 32) (g : VSig) (f : Word → Word → Word) {s : State} (hk : Does W s₀ s) :
    Does W s₀ (State.vec2 s c op lat vd va vb g f) := by
  unfold State.vec2
  try dsimp only
  repeat' (first
    | with_reducible assumption | with_reducible apply State.readV_does (hW.of rfl)
    | with_reducible apply State.vecOp_does (hW.of rfl) | split
    | (with_reducible refine Does.of_pair (by with_reducible assumption) ?_) | (with_reducible intro _; intros; (try dsimp only)))

theorem State.vec1_does {W : Nat} (hW : Covers W 0x40004000000000100) {s₀ : State} (c : CluAt) (op lat : Nat) (vd va : Fin 32) (g : VSig) (f : Word → Word) {s : State} (hk : Does W s₀ s) :
    Does W s₀ (State.vec1 s c op lat vd va g f) := by
  unfold State.vec1
  try dsimp only
  repeat' (first
    | with_reducible assumption | with_reducible apply State.readV_does (hW.of rfl)
    | with_reducible apply State.vecOp_does (hW.of rfl) | split
    | (with_reducible refine Does.of_pair (by with_reducible assumption) ?_) | (with_reducible intro _; intros; (try dsimp only)))

theorem State.vecReduce_does {W : Nat} (hW : Covers W 0x40004000000000100) {s₀ : State} (c : CluAt) (op : Nat) (vd va : Fin 32) (g : VSig) (f : Word → Word → Word) {s : State} (hk : Does W s₀ s) :
    Does W s₀ (State.vecReduce s c op vd va g f) := by
  unfold State.vecReduce
  try dsimp only
  repeat' (first
    | with_reducible assumption | with_reducible apply State.readV_does (hW.of rfl)
    | with_reducible apply State.vecOp_does (hW.of rfl) | split
    | (with_reducible refine Does.of_pair (by with_reducible assumption) ?_) | (with_reducible intro _; intros; (try dsimp only)))

theorem State.vecReduceOn_does {W : Nat} (hW : Covers W 0x40004000000000100) {s₀ : State} (c : CluAt) (op : Nat) (vd va vb : Fin 32) (g : VSig) (f : Word → Word → Word) {s : State} (hk : Does W s₀ s) :
    Does W s₀ (State.vecReduceOn s c op vd va vb g f) := by
  unfold State.vecReduceOn
  try dsimp only
  repeat' (first
    | with_reducible assumption | with_reducible apply State.readV_does (hW.of rfl)
    | with_reducible apply State.vecOp_does (hW.of rfl) | split
    | (with_reducible refine Does.of_pair (by with_reducible assumption) ?_) | (with_reducible intro _; intros; (try dsimp only)))

theorem execFadd_does {W : Nat} (hW : Covers W 0x40004000000000100) {s₀ : State} (c : CluAt) (vd va vb : Fin 32) (g : VSig) {s s₁ : State} (hk : Does W s₀ s) (ht : execFadd c vd va vb g s = .next s₁) :
    Does W s₀ s₁ := by
  cases ht
  try dsimp only
  repeat' (first | with_reducible assumption | with_reducible apply State.vec2_does (hW.of rfl))

theorem execFsub_does {W : Nat} (hW : Covers W 0x40004000000000100) {s₀ : State} (c : CluAt) (vd va vb : Fin 32) (g : VSig) {s s₁ : State} (hk : Does W s₀ s) (ht : execFsub c vd va vb g s = .next s₁) :
    Does W s₀ s₁ := by
  cases ht
  try dsimp only
  repeat' (first | with_reducible assumption | with_reducible apply State.vec2_does (hW.of rfl))

theorem execFmul_does {W : Nat} (hW : Covers W 0x40004000000000100) {s₀ : State} (c : CluAt) (vd va vb : Fin 32) (g : VSig) {s s₁ : State} (hk : Does W s₀ s) (ht : execFmul c vd va vb g s = .next s₁) :
    Does W s₀ s₁ := by
  cases ht
  try dsimp only
  repeat' (first | with_reducible assumption | with_reducible apply State.vec2_does (hW.of rfl))

theorem execFmin_does {W : Nat} (hW : Covers W 0x40004000000000100) {s₀ : State} (c : CluAt) (vd va vb : Fin 32) (g : VSig) {s s₁ : State} (hk : Does W s₀ s) (ht : execFmin c vd va vb g s = .next s₁) :
    Does W s₀ s₁ := by
  cases ht
  try dsimp only
  repeat' (first | with_reducible assumption | with_reducible apply State.vec2_does (hW.of rfl))

theorem execFmax_does {W : Nat} (hW : Covers W 0x40004000000000100) {s₀ : State} (c : CluAt) (vd va vb : Fin 32) (g : VSig) {s s₁ : State} (hk : Does W s₀ s) (ht : execFmax c vd va vb g s = .next s₁) :
    Does W s₀ s₁ := by
  cases ht
  try dsimp only
  repeat' (first | with_reducible assumption | with_reducible apply State.vec2_does (hW.of rfl))

theorem execFclt_does {W : Nat} (hW : Covers W 0x40004000000000100) {s₀ : State} (c : CluAt) (vd va vb : Fin 32) (g : VSig) {s s₁ : State} (hk : Does W s₀ s) (ht : execFclt c vd va vb g s = .next s₁) :
    Does W s₀ s₁ := by
  cases ht
  try dsimp only
  repeat' (first | with_reducible assumption | with_reducible apply State.vec2_does (hW.of rfl) | split)

theorem execFceq_does {W : Nat} (hW : Covers W 0x40004000000000100) {s₀ : State} (c : CluAt) (vd va vb : Fin 32) (g : VSig) {s s₁ : State} (hk : Does W s₀ s) (ht : execFceq c vd va vb g s = .next s₁) :
    Does W s₀ s₁ := by
  cases ht
  try dsimp only
  repeat' (first | with_reducible assumption | with_reducible apply State.vec2_does (hW.of rfl) | split)

theorem execIadd_does {W : Nat} (hW : Covers W 0x40004000000000100) {s₀ : State} (c : CluAt) (vd va vb : Fin 32) (g : VSig) {s s₁ : State} (hk : Does W s₀ s) (ht : execIadd c vd va vb g s = .next s₁) :
    Does W s₀ s₁ := by
  cases ht
  try dsimp only
  repeat' (first | with_reducible assumption | with_reducible apply State.vec2_does (hW.of rfl))

theorem execIsub_does {W : Nat} (hW : Covers W 0x40004000000000100) {s₀ : State} (c : CluAt) (vd va vb : Fin 32) (g : VSig) {s s₁ : State} (hk : Does W s₀ s) (ht : execIsub c vd va vb g s = .next s₁) :
    Does W s₀ s₁ := by
  cases ht
  try dsimp only
  repeat' (first | with_reducible assumption | with_reducible apply State.vec2_does (hW.of rfl))

theorem execImul_does {W : Nat} (hW : Covers W 0x40004000000000100) {s₀ : State} (c : CluAt) (vd va vb : Fin 32) (g : VSig) {s s₁ : State} (hk : Does W s₀ s) (ht : execImul c vd va vb g s = .next s₁) :
    Does W s₀ s₁ := by
  cases ht
  try dsimp only
  repeat' (first | with_reducible assumption | with_reducible apply State.vec2_does (hW.of rfl))

theorem execVectorAnd_does {W : Nat} (hW : Covers W 0x40004000000000100) {s₀ : State} (c : CluAt) (vd va vb : Fin 32) (g : VSig) {s s₁ : State} (hk : Does W s₀ s) (ht : execVectorAnd c vd va vb g s = .next s₁) :
    Does W s₀ s₁ := by
  cases ht
  try dsimp only
  repeat' (first | with_reducible assumption | with_reducible apply State.vec2_does (hW.of rfl))

theorem execVectorOr_does {W : Nat} (hW : Covers W 0x40004000000000100) {s₀ : State} (c : CluAt) (vd va vb : Fin 32) (g : VSig) {s s₁ : State} (hk : Does W s₀ s) (ht : execVectorOr c vd va vb g s = .next s₁) :
    Does W s₀ s₁ := by
  cases ht
  try dsimp only
  repeat' (first | with_reducible assumption | with_reducible apply State.vec2_does (hW.of rfl))

theorem execVectorXor_does {W : Nat} (hW : Covers W 0x40004000000000100) {s₀ : State} (c : CluAt) (vd va vb : Fin 32) (g : VSig) {s s₁ : State} (hk : Does W s₀ s) (ht : execVectorXor c vd va vb g s = .next s₁) :
    Does W s₀ s₁ := by
  cases ht
  try dsimp only
  repeat' (first | with_reducible assumption | with_reducible apply State.vec2_does (hW.of rfl))

theorem execExp_does {W : Nat} (hW : Covers W 0x40004000000000100) {s₀ : State} (c : CluAt) (vd va : Fin 32) (g : VSig) {s s₁ : State} (hk : Does W s₀ s) (ht : execExp c vd va g s = .next s₁) :
    Does W s₀ s₁ := by
  cases ht
  try dsimp only
  repeat' (first | with_reducible assumption | with_reducible apply State.vec1_does (hW.of rfl))

theorem execLog_does {W : Nat} (hW : Covers W 0x40004000000000100) {s₀ : State} (c : CluAt) (vd va : Fin 32) (g : VSig) {s s₁ : State} (hk : Does W s₀ s) (ht : execLog c vd va g s = .next s₁) :
    Does W s₀ s₁ := by
  cases ht
  try dsimp only
  repeat' (first | with_reducible assumption | with_reducible apply State.vec1_does (hW.of rfl))

theorem execRecip_does {W : Nat} (hW : Covers W 0x40004000000000100) {s₀ : State} (c : CluAt) (vd va : Fin 32) (g : VSig) {s s₁ : State} (hk : Does W s₀ s) (ht : execRecip c vd va g s = .next s₁) :
    Does W s₀ s₁ := by
  cases ht
  try dsimp only
  repeat' (first | with_reducible assumption | with_reducible apply State.vec1_does (hW.of rfl))

theorem execRsqrt_does {W : Nat} (hW : Covers W 0x40004000000000100) {s₀ : State} (c : CluAt) (vd va : Fin 32) (g : VSig) {s s₁ : State} (hk : Does W s₀ s) (ht : execRsqrt c vd va g s = .next s₁) :
    Does W s₀ s₁ := by
  cases ht
  try dsimp only
  repeat' (first | with_reducible assumption | with_reducible apply State.vec1_does (hW.of rfl))

theorem execGelu_does {W : Nat} (hW : Covers W 0x40004000000000100) {s₀ : State} (c : CluAt) (vd va : Fin 32) (g : VSig) {s s₁ : State} (hk : Does W s₀ s) (ht : execGelu c vd va g s = .next s₁) :
    Does W s₀ s₁ := by
  cases ht
  try dsimp only
  repeat' (first | with_reducible assumption | with_reducible apply State.vec1_does (hW.of rfl))

theorem execSilu_does {W : Nat} (hW : Covers W 0x40004000000000100) {s₀ : State} (c : CluAt) (vd va : Fin 32) (g : VSig) {s s₁ : State} (hk : Does W s₀ s) (ht : execSilu c vd va g s = .next s₁) :
    Does W s₀ s₁ := by
  cases ht
  try dsimp only
  repeat' (first | with_reducible assumption | with_reducible apply State.vec1_does (hW.of rfl))

theorem execVmov_does {W : Nat} (hW : Covers W 0x40004000000000100) {s₀ : State} (c : CluAt) (vd va : Fin 32) (g : VSig) {s s₁ : State} (hk : Does W s₀ s) (ht : execVmov c vd va g s = .next s₁) :
    Does W s₀ s₁ := by
  cases ht
  try dsimp only
  repeat' (first | with_reducible assumption | with_reducible apply State.vec1_does (hW.of rfl))

theorem execCvtif_does {W : Nat} (hW : Covers W 0x40004000000000100) {s₀ : State} (c : CluAt) (vd va : Fin 32) (g : VSig) {s s₁ : State} (hk : Does W s₀ s) (ht : execCvtif c vd va g s = .next s₁) :
    Does W s₀ s₁ := by
  cases ht
  try dsimp only
  repeat' (first | with_reducible assumption | with_reducible apply State.vec1_does (hW.of rfl))

theorem execCvtfi_does {W : Nat} (hW : Covers W 0x40004000000000100) {s₀ : State} (c : CluAt) (vd va : Fin 32) (g : VSig) {s s₁ : State} (hk : Does W s₀ s) (ht : execCvtfi c vd va g s = .next s₁) :
    Does W s₀ s₁ := by
  cases ht
  try dsimp only
  repeat' (first | with_reducible assumption | with_reducible apply State.vec1_does (hW.of rfl))

theorem execRsum_does {W : Nat} (hW : Covers W 0x40004000000000100) {s₀ : State} (c : CluAt) (vd va : Fin 32) (g : VSig) {s s₁ : State} (hk : Does W s₀ s) (ht : execRsum c vd va g s = .next s₁) :
    Does W s₀ s₁ := by
  cases ht
  try dsimp only
  repeat' (first | with_reducible assumption | with_reducible apply State.vecReduce_does (hW.of rfl))

theorem execRsuma_does {W : Nat} (hW : Covers W 0x40004000000000100) {s₀ : State} (c : CluAt) (vd va vb : Fin 32) (g : VSig) {s s₁ : State} (hk : Does W s₀ s) (ht : execRsuma c vd va vb g s = .next s₁) :
    Does W s₀ s₁ := by
  cases ht
  try dsimp only
  repeat' (first | with_reducible assumption | with_reducible apply State.vecReduceOn_does (hW.of rfl))

theorem execRmax_does {W : Nat} (hW : Covers W 0x40004000000000100) {s₀ : State} (c : CluAt) (vd va : Fin 32) (g : VSig) {s s₁ : State} (hk : Does W s₀ s) (ht : execRmax c vd va g s = .next s₁) :
    Does W s₀ s₁ := by
  cases ht
  try dsimp only
  repeat' (first | with_reducible assumption | with_reducible apply State.vecReduce_does (hW.of rfl))

theorem execRmaxa_does {W : Nat} (hW : Covers W 0x40004000000000100) {s₀ : State} (c : CluAt) (vd va vb : Fin 32) (g : VSig) {s s₁ : State} (hk : Does W s₀ s) (ht : execRmaxa c vd va vb g s = .next s₁) :
    Does W s₀ s₁ := by
  cases ht
  try dsimp only
  repeat' (first | with_reducible assumption | with_reducible apply State.vecReduceOn_does (hW.of rfl))

theorem execRmin_does {W : Nat} (hW : Covers W 0x40004000000000100) {s₀ : State} (c : CluAt) (vd va : Fin 32) (g : VSig) {s s₁ : State} (hk : Does W s₀ s) (ht : execRmin c vd va g s = .next s₁) :
    Does W s₀ s₁ := by
  cases ht
  try dsimp only
  repeat' (first | with_reducible assumption | with_reducible apply State.vecReduce_does (hW.of rfl))

theorem execRmina_does {W : Nat} (hW : Covers W 0x40004000000000100) {s₀ : State} (c : CluAt) (vd va vb : Fin 32) (g : VSig) {s s₁ : State} (hk : Does W s₀ s) (ht : execRmina c vd va vb g s = .next s₁) :
    Does W s₀ s₁ := by
  cases ht
  try dsimp only
  repeat' (first | with_reducible assumption | with_reducible apply State.vecReduceOn_does (hW.of rfl))

theorem execSel_does {W : Nat} (hW : Covers W 0x40004000000000100) {s₀ : State} (c : CluAt) (vd va vb vc : Fin 32) (g : VSig) {s s₁ : State} (hk : Does W s₀ s) (ht : execSel c vd va vb vc g s = .next s₁) :
    Does W s₀ s₁ := by
  cases ht
  try dsimp only
  repeat' (first
    | with_reducible assumption | with_reducible apply State.readV_does (hW.of rfl)
    | with_reducible apply State.vecOp_does (hW.of rfl) | split
    | (with_reducible refine Does.of_pair (by with_reducible assumption) ?_) | (with_reducible intro _; intros; (try dsimp only)))

theorem execBcast_does {W : Nat} (hW : Covers W 0x40004000000000100) {s₀ : State} (c : CluAt) (vd : Fin 32) (sx : Fin 64) (g : VSig) {s s₁ : State} (hk : Does W s₀ s) (ht : execBcast c vd sx g s = .next s₁) :
    Does W s₀ s₁ := by
  cases ht
  try dsimp only
  repeat' (first
    | with_reducible assumption | with_reducible apply State.readS_does (hW.of rfl)
    | with_reducible apply State.vecOp_does (hW.of rfl) | split
    | (with_reducible refine Does.of_pair (by with_reducible assumption) ?_) | (with_reducible intro _; intros; (try dsimp only)))

theorem execViota_does {W : Nat} (hW : Covers W 0x40004000000000100) {s₀ : State} (c : CluAt) (vd : Fin 32) (sx : Fin 64) (g : VSig) {s s₁ : State} (hk : Does W s₀ s) (ht : execViota c vd sx g s = .next s₁) :
    Does W s₀ s₁ := by
  cases ht
  try dsimp only
  repeat' (first
    | with_reducible assumption | with_reducible apply State.readS_does (hW.of rfl)
    | with_reducible apply State.vecOp_does (hW.of rfl) | split
    | (with_reducible refine Does.of_pair (by with_reducible assumption) ?_) | (with_reducible intro _; intros; (try dsimp only)))

theorem State.topResult_does {W : Nat} (hW : Covers W 0x40000000000000000) {s₀ : State} (vd vc k : Nat) (l : List (Word × Word)) {s : State} (hk : Does W s₀ s) :
    Does W s₀ (State.topResult s vd vc k l).2 := by
  unfold State.topResult
  try dsimp only
  repeat' (first
    | with_reducible assumption | with_reducible apply State.draw_does (hW.of rfl) | split
    | (with_reducible refine Does.of_pair (by with_reducible assumption) ?_))

theorem execTopki_does {W : Nat} (hW : Covers W 0x40004000000000100) {s₀ : State} (c : CluAt) (vd va vb vc : Fin 32) (sx : Fin 64) (g : VSig) {s s₁ : State} (hk : Does W s₀ s) (ht : execTopki c vd va vb vc sx g s = .next s₁) :
    Does W s₀ s₁ := by
  cases ht
  try dsimp only
  repeat' (first
    | with_reducible assumption | with_reducible apply State.readS_does (hW.of rfl)
    | with_reducible apply State.readV_does (hW.of rfl) | with_reducible apply State.vecOp_does (hW.of rfl)
    | with_reducible apply State.topResult_does (hW.of rfl) | split
    | (with_reducible refine Does.of_pair (by with_reducible assumption) ?_) | (with_reducible intro _; intros; (try dsimp only)))

theorem execTopk_does {W : Nat} (hW : Covers W 0x40004000000000100) {s₀ : State} (c : CluAt) (vd va vb vc : Fin 32) (sx : Fin 64) (g : VSig) {s s₁ : State} (hk : Does W s₀ s) (ht : execTopk c vd va vb vc sx g s = .next s₁) :
    Does W s₀ s₁ := by
  cases ht
  try dsimp only
  repeat' (first
    | with_reducible assumption | with_reducible apply State.readS_does (hW.of rfl)
    | with_reducible apply State.readV_does (hW.of rfl) | with_reducible apply State.vecOp_does (hW.of rfl)
    | with_reducible apply State.topResult_does (hW.of rfl) | split
    | (with_reducible refine Does.of_pair (by with_reducible assumption) ?_) | (with_reducible intro _; intros; (try dsimp only)))

theorem execVld_does {W : Nat} (hW : Covers W 0x4000C000000000100) {s₀ : State} (c : CluAt) (vd : Fin 32) (sx : Fin 64) (t : Fin 32) (g : VSig) {s s₁ : State} (hk : Does W s₀ s) (ht : execVld c vd sx t g s = .next s₁) :
    Does W s₀ s₁ := by
  cases ht
  try dsimp only
  repeat' (first
    | with_reducible assumption | with_reducible apply State.draw_does (hW.of rfl)
    | with_reducible apply State.readS_does (hW.of rfl) | with_reducible apply State.readT_does (hW.of rfl)
    | with_reducible apply State.readStg_does (hW.of rfl) | with_reducible apply State.vecOp_does (hW.of rfl) | split
    | (with_reducible refine Does.of_pair (by with_reducible assumption) ?_) | (with_reducible intro _; intros; (try dsimp only)))

theorem execVst_does {W : Nat} (hW : Covers W 0x4000C000000000100) {s₀ : State} (c : CluAt) (vd : Fin 32) (sx : Fin 64) (t : Fin 32) (sr : Bool) (sy : Fin 64) (g : VSig) {s s₁ : State} (hk : Does W s₀ s) (ht : execVst c vd sx t sr sy g s = .next s₁) :
    Does W s₀ s₁ := by
  cases ht
  try dsimp only
  repeat' (first
    | with_reducible assumption | with_reducible apply State.modLc_does (hW.of rfl)
    | with_reducible apply State.readS_does (hW.of rfl) | with_reducible apply State.readT_does (hW.of rfl)
    | with_reducible apply State.readV_does (hW.of rfl) | with_reducible apply State.noteRange_does (hW.of rfl)
    | with_reducible apply State.issue_does (hW.of rfl) | (with_reducible apply Does.foldl; intro _ _ _)
    | with_reducible apply Does.done | split | (with_reducible refine Does.of_pair (by with_reducible assumption) ?_)
    | (with_reducible refine Does.of_fst (by with_reducible assumption) ?_) | (with_reducible intro _; intros; (try dsimp only)))

theorem execVectorResultWritten_does {W : Nat} (hW : Covers W 0x4000C000000000000) {s₀ : State} (c : CluAt) {s s₁ : State} (hk : Does W s₀ s) (ht : execVectorResultWritten c s = .next s₁) :
    Does W s₀ s₁ := by
  cases ht
  try dsimp only
  repeat' (first
    | with_reducible assumption | with_reducible apply State.draw_does (hW.of rfl)
    | with_reducible apply State.modLc_does (hW.of rfl) | with_reducible apply State.writeStg_does (hW.of rfl)
    | with_reducible apply State.unitDone_does (hW.of rfl) | (with_reducible apply Does.foldl; intro _ _ _) | split
    | (with_reducible refine Does.of_pair (by with_reducible assumption) ?_))

theorem State.readTs_does {W : Nat} (hW : Covers W 0x40000000000000000) {s₀ : State} (j i : Nat) :
    ∀ (l0 : List Nat), ∀ {s : State}, Does W s₀ s → Does W s₀ (State.readTs s j i l0).2 := by
  intro l0
  induction l0 generalizing j i with
  | nil =>
    intro s hk
    unfold State.readTs
    try dsimp only
    repeat' (first
      | with_reducible assumption | with_reducible apply State.readT_does (hW.of rfl) | split
      | (with_reducible refine Does.of_pair (by with_reducible assumption) ?_))
  | cons x r ih =>
    intro s hk
    unfold State.readTs
    try dsimp only
    repeat' (first
      | with_reducible apply ih | with_reducible assumption | with_reducible apply State.readT_does (hW.of rfl) | split
      | (with_reducible refine Does.of_pair (by with_reducible assumption) ?_))

theorem State.queueMat_does {W : Nat} (hW : Covers W 0x40004000000000000) {s₀ : State} (j i : Nat) (m : MatIss) {s : State} (hk : Does W s₀ s) :
    Does W s₀ (State.queueMat s j i m) := by
  unfold State.queueMat
  try dsimp only
  repeat' (first
    | with_reducible assumption | with_reducible apply State.modLc_does (hW.of rfl)
    | with_reducible apply State.spoilFetch_does (hW.of rfl) | (with_reducible apply Does.foldl; intro _ _ _))

theorem State.issueMat_does {W : Nat} (hW : Covers W 0x400040000000001E0) {s₀ : State} (c : CluAt) (w : DWord) (sem : Nat) (sig : Bool) (tiles : List Nat) (op : List (BitVec 128) → MatOp) {s : State} (hk : Does W s₀ s) :
    Does W s₀ (State.issueMat s c w sem sig tiles op) := by
  unfold State.issueMat
  try dsimp only
  repeat' (first
    | with_reducible assumption | with_reducible apply State.issue_does (hW.of rfl)
    | with_reducible apply State.lcWaits_does (hW.of rfl) | with_reducible apply State.lcGoes_does (hW.of rfl)
    | with_reducible apply State.readTs_does (hW.of rfl) | with_reducible apply State.queueMat_does (hW.of rfl)
    | with_reducible apply Does.blocked | with_reducible apply Does.done | split
    | (with_reducible refine Does.of_pair (by with_reducible assumption) ?_)
    | (with_reducible refine Does.of_fst (by with_reducible assumption) ?_) | (with_reducible intro _; intros; (try dsimp only)))

theorem execWload_does {W : Nat} (hW : Covers W 0x400040000000001E0) {s₀ : State} (c : CluAt) (tw : Fin 32) (buf : Bool) (sparse : Fin 3) (g : VSig) {s s₁ : State} (hk : Does W s₀ s) (ht : execWload c tw buf sparse g s = .next s₁) :
    Does W s₀ s₁ := by
  cases ht
  try dsimp only
  repeat' (first
    | with_reducible assumption | with_reducible apply State.issueMat_does (hW.of rfl)
    | (with_reducible intro _; intros; (try dsimp only)))

theorem execMma_does {W : Nat} (hW : Covers W 0x400040000000001E0) {s₀ : State} (c : CluAt) (ta out ti : Fin 32) (useInit buf zskip : Bool) (g : VSig) {s s₁ : State} (hk : Does W s₀ s) (ht : execMma c ta out ti useInit buf zskip g s = .next s₁) :
    Does W s₀ s₁ := by
  cases ht
  try dsimp only
  repeat' (first
    | with_reducible assumption | with_reducible apply State.issueMat_does (hW.of rfl) | split
    | (with_reducible intro _; intros; (try dsimp only)))

theorem State.matErr_does {W : Nat} (hW : Covers W 0x8000000000000) {s₀ : State} (j i : Nat) (shape format aux metaBad : Bool) {s : State} (hk : Does W s₀ s) :
    Does W s₀ (State.matErr s j i shape format aux metaBad) := by
  unfold State.matErr
  try dsimp only
  repeat' (first
    | with_reducible assumption | with_reducible apply State.modClu_does (hW.of rfl) | split
    | (with_reducible refine Does.of_pair (by with_reducible assumption) ?_))

theorem State.readSpans_does {W : Nat} (hW : Covers W 0x40008000000000000) {s₀ : State} (j i : Nat) (l : List Span) {s : State} (hk : Does W s₀ s) :
    Does W s₀ (State.readSpans s j i l).2 := by
  unfold State.readSpans
  try dsimp only
  repeat' (first
    | with_reducible assumption | with_reducible apply State.readStg_does (hW.of rfl)
    | (with_reducible apply Does.foldl; intro _ _ _) | (with_reducible apply Does.foldl₂; intro _ _ _) | split
    | (with_reducible refine Does.of_pair (by with_reducible assumption) ?_))

theorem State.mogulRow_does {W : Nat} (hW : Covers W 0x40008000000000000) {s₀ : State} (j i : Nat) (map : List Byte) (t : BitVec 128) (n : Nat) {s : State} (hk : Does W s₀ s) :
    Does W s₀ (State.mogulRow s j i map t n).2 := by
  unfold State.mogulRow
  try dsimp only
  repeat' (first
    | with_reducible assumption | with_reducible apply State.readStg_does (hW.of rfl)
    | (with_reducible apply Does.foldl₂; intro _ _ _) | split
    | (with_reducible refine Does.of_pair (by with_reducible assumption) ?_)
    | (with_reducible intro _; intros; (try dsimp only)))

theorem State.rowsBy_does {W : Nat} (hW : Covers W 0x0) {s₀ : State} {α : Type} (f : State → Nat → α × State) (l : List Nat) {s : State}
    (hk : Does W s₀ s) (hf : ∀ (v : State) (n : Nat), Does W s₀ v → Does W s₀ (f v n).2) :
    Does W s₀ (State.rowsBy s f l).2 := by
  unfold State.rowsBy
  have _ := hW
  refine Does.foldl₂ (x := ([], s)) (fun (a : List α × State) n => (a.1 ++ [(f a.2 n).1], (f a.2 n).2)) l ?_ hk
  exact fun x n h => hf x.2 n h

theorem State.metaRow_does {W : Nat} (hW : Covers W 0x40008000000000000) {s₀ : State} (j i : Nat) (t : BitVec 128) (n : Nat) {s : State} (hk : Does W s₀ s) :
    Does W s₀ (State.metaRow s j i t n).2 := by
  unfold State.metaRow
  try dsimp only
  repeat' (first
    | with_reducible assumption | with_reducible apply State.draw_does (hW.of rfl)
    | with_reducible apply State.readStg_does (hW.of rfl) | split
    | (with_reducible refine Does.of_pair (by with_reducible assumption) ?_)
    | (with_reducible intro _; intros; (try dsimp only)))

theorem State.wloadTile_does {W : Nat} (hW : Covers W 0x40008000000000000) {s₀ : State} (j i : Nat) (t : BitVec 128) (sparse : Nat) {s : State} (hk : Does W s₀ s) :
    Does W s₀ (State.wloadTile s j i t sparse).2.2 := by
  unfold State.wloadTile
  try dsimp only
  repeat' (first
    | with_reducible assumption | with_reducible apply State.readStg_does (hW.of rfl)
    | with_reducible apply State.readSpans_does (hW.of rfl) | with_reducible apply State.mogulRow_does (hW.of rfl)
    | with_reducible apply State.rowsBy_does (hW.of rfl) | with_reducible apply State.metaRow_does (hW.of rfl) | split
    | (with_reducible refine Does.of_pair (by with_reducible assumption) ?_)
    | (with_reducible intro _; intros; (try dsimp only)))

theorem State.freeTile_does {W : Nat} (hW : Covers W 0x40000000000000000) {s₀ : State} (t : BitVec 128) {s : State} (hk : Does W s₀ s) :
    Does W s₀ (State.freeTile s t).2 := by
  unfold State.freeTile
  try dsimp only
  repeat' (first
    | with_reducible assumption | with_reducible apply State.draw_does (hW.of rfl) | split
    | (with_reducible refine Does.of_pair (by with_reducible assumption) ?_))

theorem State.doWload_does {W : Nat} (hW : Covers W 0x4000C000000000000) {s₀ : State} (j i : Nat) (m : MatIss) (t : BitVec 128) (buf : Bool) (sparse : Nat) {s : State} (hk : Does W s₀ s) :
    Does W s₀ (State.doWload s j i m t buf sparse) := by
  unfold State.doWload
  try dsimp only
  repeat' (first
    | with_reducible assumption | with_reducible apply State.draw_does (hW.of rfl)
    | with_reducible apply State.modLc_does (hW.of rfl) | with_reducible apply State.noteRange_does (hW.of rfl)
    | with_reducible apply State.matErr_does (hW.of rfl) | with_reducible apply State.wloadTile_does (hW.of rfl)
    | with_reducible apply State.freeTile_does (hW.of rfl) | (with_reducible apply Does.foldl; intro _ _ _) | split
    | (with_reducible refine Does.of_pair (by with_reducible assumption) ?_)
    | (with_reducible intro _; intros; (try dsimp only)))

theorem State.mmaRows_does {W : Nat} (hW : Covers W 0x4000C000000000000) {s₀ : State} (j i : Nat) (tile : WTile) (ta out ti : BitVec 128) (useInit zskip : Bool) :
    ∀ (l0 : List Nat) (l1 : Nat), ∀ {s : State}, Does W s₀ s → Does W s₀ (State.mmaRows s j i tile ta out ti useInit zskip l0 l1).2 := by
  intro l0 l1
  induction l0 generalizing j i tile ta out ti useInit zskip l1 with
  | nil =>
    intro s hk
    unfold State.mmaRows
    try dsimp only
    repeat' (first
      | with_reducible assumption | with_reducible apply State.readStg_does (hW.of rfl)
      | with_reducible apply State.writeStg_does (hW.of rfl) | split
      | (with_reducible refine Does.of_pair (by with_reducible assumption) ?_))
  | cons x r ih =>
    intro s hk
    unfold State.mmaRows
    try dsimp only
    repeat' (first
      | with_reducible apply ih | with_reducible assumption | with_reducible apply State.readStg_does (hW.of rfl)
      | with_reducible apply State.writeStg_does (hW.of rfl) | split
      | (with_reducible refine Does.of_pair (by with_reducible assumption) ?_))

theorem State.freeOut_does {W : Nat} (hW : Covers W 0x4000C000000000000) {s₀ : State} (j i : Nat) (out : BitVec 128) {s : State} (hk : Does W s₀ s) :
    Does W s₀ (State.freeOut s j i out) := by
  unfold State.freeOut
  try dsimp only
  repeat' (first
    | with_reducible assumption | with_reducible apply State.draw_does (hW.of rfl)
    | with_reducible apply State.writeStg_does (hW.of rfl) | (with_reducible apply Does.foldl; intro _ _ _)
    | (with_reducible apply Does.foldl₂; intro _ _ _) | split
    | (with_reducible refine Does.of_pair (by with_reducible assumption) ?_))

theorem State.doMma_does {W : Nat} (hW : Covers W 0x4000C000000000100) {s₀ : State} (j i : Nat) (m : MatIss) (ta out ti : BitVec 128) (useInit buf zskip : Bool) {s : State} (hk : Does W s₀ s) :
    Does W s₀ (State.doMma s j i m ta out ti useInit buf zskip) := by
  unfold State.doMma
  try dsimp only
  repeat' (first
    | with_reducible assumption | with_reducible apply State.bump_does (hW.of rfl)
    | with_reducible apply State.noteRange_does (hW.of rfl) | with_reducible apply State.matErr_does (hW.of rfl)
    | with_reducible apply State.mmaRows_does (hW.of rfl) | with_reducible apply State.freeOut_does (hW.of rfl)
    | (with_reducible apply Does.foldl; intro _ _ _) | split
    | (with_reducible refine Does.of_pair (by with_reducible assumption) ?_)
    | (with_reducible intro _; intros; (try dsimp only)))

theorem State.matDone_does {W : Nat} (hW : Covers W 0x4000C000000000100) {s₀ : State} (c : CluAt) (wload : Bool) {s : State} (hk : Does W s₀ s) :
    Does W s₀ (State.matDone s c wload) := by
  unfold State.matDone
  try dsimp only
  repeat' (first
    | with_reducible assumption | with_reducible apply State.modLc_does (hW.of rfl)
    | with_reducible apply State.unitDone_does (hW.of rfl) | with_reducible apply State.doWload_does (hW.of rfl)
    | with_reducible apply State.doMma_does (hW.of rfl) | split
    | (with_reducible refine Does.of_pair (by with_reducible assumption) ?_))

theorem execWloadComplete_does {W : Nat} (hW : Covers W 0x4000C000000000100) {s₀ : State} (c : CluAt) {s s₁ : State} (hk : Does W s₀ s) (ht : execWloadComplete c s = .next s₁) :
    Does W s₀ s₁ := by
  cases ht
  try dsimp only
  repeat' (first | with_reducible assumption | with_reducible apply State.matDone_does (hW.of rfl))

theorem execMmaComplete_does {W : Nat} (hW : Covers W 0x4000C000000000100) {s₀ : State} (c : CluAt) {s s₁ : State} (hk : Does W s₀ s) (ht : execMmaComplete c s = .next s₁) :
    Does W s₀ s₁ := by
  cases ht
  try dsimp only
  repeat' (first | with_reducible assumption | with_reducible apply State.matDone_does (hW.of rfl))

theorem State.openGates_does {W : Nat} (hW : Covers W 0x252FC5AFCEF84E1E0) {s₀ : State} (j : Nat) {s : State} (hk : Does W s₀ s) :
    Does W s₀ (State.openGates s j) := by
  unfold State.openGates
  try dsimp only
  repeat' (first
    | with_reducible assumption | with_reducible apply State.modJob_does (hW.of rfl)
    | with_reducible apply State.modGate_does (hW.of rfl) | with_reducible apply State.modStep_does (hW.of rfl)
    | with_reducible apply State.intoGate_does (hW.of rfl) | (with_reducible apply Does.foldl; intro _ _ _) | split
    | (with_reducible intro _; intros; (try dsimp only)))

theorem State.writeRow_does {W : Nat} (hW : Covers W 0x252FC5AFCEF84E1E0) {s₀ : State} (j : Nat) (token : Word) (row : List Word) (media : List Medium) {s : State} (hk : Does W s₀ s) :
    Does W s₀ (State.writeRow s j token row media) := by
  unfold State.writeRow
  try dsimp only
  repeat' (first
    | with_reducible assumption | with_reducible apply State.startDpa_does (hW.of rfl)
    | with_reducible apply State.gateFault_does (hW.of rfl) | with_reducible apply State.modStep_does (hW.of rfl) | split
    | (with_reducible refine Does.of_pair (by with_reducible assumption) ?_))

theorem State.sendRow_does {W : Nat} (hW : Covers W 0x2100000000000E1E0) {s₀ : State} (j : Nat) (token : Word) (rstatus : Nat) (data : List Byte) {s : State} (hk : Does W s₀ s) :
    Does W s₀ (State.sendRow s j token rstatus data) := by
  unfold State.sendRow
  try dsimp only
  repeat' (first
    | with_reducible assumption | with_reducible apply State.sendPkt_does (hW.of rfl)
    | (with_reducible apply Does.foldl; intro _ _ _) | split
    | (with_reducible refine Does.of_pair (by with_reducible assumption) ?_)
    | (with_reducible intro _; intros; (try dsimp only)))

theorem State.combineFresh_does {W : Nat} (hW : Covers W 0x252FC5AFCEF84E1E0) {s₀ : State} (j : Nat) (media : List Medium) (token : Word) {s : State} (hk : Does W s₀ s) :
    Does W s₀ (State.combineFresh s j media token) := by
  unfold State.combineFresh
  try dsimp only
  repeat' (first
    | with_reducible assumption | with_reducible apply State.writeRow_does (hW.of rfl)
    | with_reducible apply State.sendRow_does (hW.of rfl) | with_reducible apply Does.getD | split
    | (with_reducible refine Does.of_pair (by with_reducible assumption) ?_)
    | (with_reducible intro _; intros; (try dsimp only)))

theorem State.combineSpilled_does {W : Nat} (hW : Covers W 0x252FC5AFCEF84E1E0) {s₀ : State} (j : Nat) (media : List Medium) (token : Word) {s : State} (hk : Does W s₀ s) :
    Does W s₀ (State.combineSpilled s j media token) := by
  unfold State.combineSpilled
  try dsimp only
  repeat' (first
    | with_reducible assumption | with_reducible apply State.gateFault_does (hW.of rfl)
    | with_reducible apply State.writeRow_does (hW.of rfl) | with_reducible apply State.sendRow_does (hW.of rfl)
    | with_reducible apply Does.getD | split | (with_reducible refine Does.of_pair (by with_reducible assumption) ?_)
    | (with_reducible intro _; intros; (try dsimp only)))

theorem State.readRows_does {W : Nat} (hW : Covers W 0x252FC5AFCEF84E1E0) {s₀ : State} (j : Nat) (media : List Medium) {s : State} (hk : Does W s₀ s) :
    Does W s₀ (State.readRows s j media) := by
  unfold State.readRows
  try dsimp only
  repeat' (first
    | with_reducible assumption | with_reducible apply State.startDpa_does (hW.of rfl)
    | with_reducible apply State.gateFault_does (hW.of rfl) | with_reducible apply State.modStep_does (hW.of rfl)
    | (with_reducible apply Does.foldl; intro _ _ _) | split | (with_reducible refine Does.of_pair (by with_reducible assumption) ?_))

theorem execCombine_does {W : Nat} (hW : Covers W 0x252FC5BFEEFA4E1E0) {s₀ : State} (job : BitVec 12) (media : List Medium) {s s₁ : State} (hk : Does W s₀ s) (ht : execCombine job media s = .next s₁) :
    Does W s₀ s₁ := by
  cases ht
  try dsimp only
  repeat' (first
    | with_reducible assumption | with_reducible apply State.accDrop_does (hW.of rfl)
    | with_reducible apply State.accResendAll_does (hW.of rfl) | with_reducible apply State.cohEnd_does (hW.of rfl)
    | with_reducible apply State.modStep_does (hW.of rfl) | with_reducible apply State.combineFresh_does (hW.of rfl)
    | with_reducible apply State.combineSpilled_does (hW.of rfl) | with_reducible apply State.readRows_does (hW.of rfl)
    | (with_reducible apply Does.foldl; intro _ _ _) | split | (with_reducible refine Does.of_pair (by with_reducible assumption) ?_))

theorem execToken_does {W : Nat} (hW : Covers W 0x656FC5BFEEFA4E1E0) {s₀ : State} (hub : Fin 8) (src : BitVec 10) (job expert : BitVec 12) (token weight : Word) (step : BitVec 20) (part : BitVec 16) (data : List Byte) {s s₁ : State} (hk : Does W s₀ s) (ht : execToken hub src job expert token weight step part data s = .next s₁) :
    Does W s₀ s₁ := by
  cases ht
  try dsimp only
  repeat' (first | with_reducible assumption | with_reducible apply State.engineIn_does (hW.of rfl))

theorem execClose_does {W : Nat} (hW : Covers W 0x656FC5BFEEFA4E1E0) {s₀ : State} (hub : Fin 8) (src : BitVec 10) (job : BitVec 12) (count : Word) (step : BitVec 20) {s s₁ : State} (hk : Does W s₀ s) (ht : execClose hub src job count step s = .next s₁) :
    Does W s₀ s₁ := by
  cases ht
  try dsimp only
  repeat' (first | with_reducible assumption | with_reducible apply State.engineIn_does (hW.of rfl))

theorem execGather_does {W : Nat} (hW : Covers W 0x656FC5BFEEFA4E1E0) {s₀ : State} (hub : Fin 8) (host : BitVec 10) (gtag : BitVec 12) (gop : BitVec 2) (efmt rowUnits : BitVec 8) (count : BitVec 16) (table : BitVec 52) (part : Fin 16) (data : List Byte) (media : List Medium) {s s₁ : State} (hk : Does W s₀ s) (ht : execGather hub host gtag gop efmt rowUnits count table part data media s = .next s₁) :
    Does W s₀ s₁ := by
  cases ht
  try dsimp only
  repeat' (first | with_reducible assumption | with_reducible apply State.engineIn_does (hW.of rfl))

theorem execSelect_does {W : Nat} (hW : Covers W 0x656FC5BFEEFA4E1E0) {s₀ : State} (hub : Fin 8) (host : BitVec 10) (gtag : BitVec 12) (k sfmt : BitVec 8) (d : BitVec 16) (sumAddr : BitVec 52) (part : BitVec 8) (data : List Byte) (media : List Medium) {s s₁ : State} (hk : Does W s₀ s) (ht : execSelect hub host gtag k sfmt d sumAddr part data media s = .next s₁) :
    Does W s₀ s₁ := by
  cases ht
  try dsimp only
  repeat' (first | with_reducible assumption | with_reducible apply State.engineIn_does (hW.of rfl))

theorem execGatherDone_does {W : Nat} (hW : Covers W 0x610405BFEEFA4E1E0) {s₀ : State} (hub : Fin 8) (host : BitVec 10) (gtag : BitVec 12) (media : List Medium) {s s₁ : State} (hk : Does W s₀ s) (ht : execGatherDone hub host gtag media s = .next s₁) :
    Does W s₀ s₁ := by
  cases ht
  try dsimp only
  repeat' (first
    | with_reducible assumption | with_reducible apply State.freeBackoff_does (hW.of rfl)
    | with_reducible apply State.accDrop_does (hW.of rfl) | with_reducible apply State.sendGresult_does (hW.of rfl)
    | with_reducible apply State.dropGather_does (hW.of rfl) | with_reducible apply State.gatherGo_does (hW.of rfl) | split
    | (with_reducible refine Does.of_pair (by with_reducible assumption) ?_))

theorem State.ctlAlu_does {W : Nat} (hW : Covers W 0x40004000000000100) {s₀ : State} (c : CluAt) (op : Nat) (d a b : Fin 64) (latency : Nat) (f : DWord → DWord → DWord) {s : State} (hk : Does W s₀ s) :
    Does W s₀ (State.ctlAlu s c op d a b latency f) := by
  unfold State.ctlAlu
  try dsimp only
  repeat' (first
    | with_reducible assumption | with_reducible apply State.readS_does (hW.of rfl)
    | with_reducible apply State.writeS_does (hW.of rfl) | with_reducible apply State.issue_does (hW.of rfl)
    | with_reducible apply Does.done | split | (with_reducible refine Does.of_pair (by with_reducible assumption) ?_)
    | (with_reducible refine Does.of_fst (by with_reducible assumption) ?_) | (with_reducible intro _; intros; (try dsimp only)))

theorem execAdd_does {W : Nat} (hW : Covers W 0x40004000000000100) {s₀ : State} (c : CluAt) (d a b : Fin 64) (imm : Word) {s s₁ : State} (hk : Does W s₀ s) (ht : execAdd c d a b imm s = .next s₁) :
    Does W s₀ s₁ := by
  cases ht
  try dsimp only
  repeat' (first
    | with_reducible assumption | with_reducible apply State.readS_does (hW.of rfl)
    | with_reducible apply State.writeS_does (hW.of rfl) | with_reducible apply State.issue_does (hW.of rfl)
    | with_reducible apply Does.done | split | (with_reducible refine Does.of_pair (by with_reducible assumption) ?_)
    | (with_reducible refine Does.of_fst (by with_reducible assumption) ?_) | (with_reducible intro _; intros; (try dsimp only)))

theorem execSub_does {W : Nat} (hW : Covers W 0x40004000000000100) {s₀ : State} (c : CluAt) (d a b : Fin 64) {s s₁ : State} (hk : Does W s₀ s) (ht : execSub c d a b s = .next s₁) :
    Does W s₀ s₁ := by
  cases ht
  try dsimp only
  repeat' (first | with_reducible assumption | with_reducible apply State.ctlAlu_does (hW.of rfl))

theorem execMul_does {W : Nat} (hW : Covers W 0x40004000000000100) {s₀ : State} (c : CluAt) (d a b : Fin 64) {s s₁ : State} (hk : Does W s₀ s) (ht : execMul c d a b s = .next s₁) :
    Does W s₀ s₁ := by
  cases ht
  try dsimp only
  repeat' (first | with_reducible assumption | with_reducible apply State.ctlAlu_does (hW.of rfl))

theorem execAnd_does {W : Nat} (hW : Covers W 0x40004000000000100) {s₀ : State} (c : CluAt) (d a b : Fin 64) {s s₁ : State} (hk : Does W s₀ s) (ht : execAnd c d a b s = .next s₁) :
    Does W s₀ s₁ := by
  cases ht
  try dsimp only
  repeat' (first | with_reducible assumption | with_reducible apply State.ctlAlu_does (hW.of rfl))

theorem execOr_does {W : Nat} (hW : Covers W 0x40004000000000100) {s₀ : State} (c : CluAt) (d a b : Fin 64) {s s₁ : State} (hk : Does W s₀ s) (ht : execOr c d a b s = .next s₁) :
    Does W s₀ s₁ := by
  cases ht
  try dsimp only
  repeat' (first | with_reducible assumption | with_reducible apply State.ctlAlu_does (hW.of rfl))

theorem execXor_does {W : Nat} (hW : Covers W 0x40004000000000100) {s₀ : State} (c : CluAt) (d a b : Fin 64) {s s₁ : State} (hk : Does W s₀ s) (ht : execXor c d a b s = .next s₁) :
    Does W s₀ s₁ := by
  cases ht
  try dsimp only
  repeat' (first | with_reducible assumption | with_reducible apply State.ctlAlu_does (hW.of rfl))

theorem State.ctlShift_does {W : Nat} (hW : Covers W 0x40004000000000100) {s₀ : State} (c : CluAt) (op : Nat) (d a b : Fin 64) (imm : Word) (f : DWord → Nat → DWord) {s : State} (hk : Does W s₀ s) :
    Does W s₀ (State.ctlShift s c op d a b imm f) := by
  unfold State.ctlShift
  try dsimp only
  repeat' (first
    | with_reducible assumption | with_reducible apply State.readS_does (hW.of rfl)
    | with_reducible apply State.writeS_does (hW.of rfl) | with_reducible apply State.issue_does (hW.of rfl)
    | with_reducible apply Does.done | split | (with_reducible refine Does.of_pair (by with_reducible assumption) ?_)
    | (with_reducible refine Does.of_fst (by with_reducible assumption) ?_) | (with_reducible intro _; intros; (try dsimp only)))

theorem execShl_does {W : Nat} (hW : Covers W 0x40004000000000100) {s₀ : State} (c : CluAt) (d a b : Fin 64) (imm : Word) {s s₁ : State} (hk : Does W s₀ s) (ht : execShl c d a b imm s = .next s₁) :
    Does W s₀ s₁ := by
  cases ht
  try dsimp only
  repeat' (first | with_reducible assumption | with_reducible apply State.ctlShift_does (hW.of rfl))

theorem execShr_does {W : Nat} (hW : Covers W 0x40004000000000100) {s₀ : State} (c : CluAt) (d a b : Fin 64) (imm : Word) {s s₁ : State} (hk : Does W s₀ s) (ht : execShr c d a b imm s = .next s₁) :
    Does W s₀ s₁ := by
  cases ht
  try dsimp only
  repeat' (first | with_reducible assumption | with_reducible apply State.ctlShift_does (hW.of rfl))

theorem execSar_does {W : Nat} (hW : Covers W 0x40004000000000100) {s₀ : State} (c : CluAt) (d a b : Fin 64) (imm : Word) {s s₁ : State} (hk : Does W s₀ s) (ht : execSar c d a b imm s = .next s₁) :
    Does W s₀ s₁ := by
  cases ht
  try dsimp only
  repeat' (first | with_reducible assumption | with_reducible apply State.ctlShift_does (hW.of rfl))

theorem execSlt_does {W : Nat} (hW : Covers W 0x40004000000000100) {s₀ : State} (c : CluAt) (d a b : Fin 64) {s s₁ : State} (hk : Does W s₀ s) (ht : execSlt c d a b s = .next s₁) :
    Does W s₀ s₁ := by
  cases ht
  try dsimp only
  repeat' (first | with_reducible assumption | with_reducible apply State.ctlAlu_does (hW.of rfl) | split)

theorem execSltu_does {W : Nat} (hW : Covers W 0x40004000000000100) {s₀ : State} (c : CluAt) (d a b : Fin 64) {s s₁ : State} (hk : Does W s₀ s) (ht : execSltu c d a b s = .next s₁) :
    Does W s₀ s₁ := by
  cases ht
  try dsimp only
  repeat' (first | with_reducible assumption | with_reducible apply State.ctlAlu_does (hW.of rfl) | split)

theorem execLi_does {W : Nat} (hW : Covers W 0x40004000000000100) {s₀ : State} (c : CluAt) (d : Fin 64) (imm : Word) {s s₁ : State} (hk : Does W s₀ s) (ht : execLi c d imm s = .next s₁) :
    Does W s₀ s₁ := by
  cases ht
  try dsimp only
  repeat' (first
    | with_reducible assumption | with_reducible apply State.writeS_does (hW.of rfl)
    | with_reducible apply State.issue_does (hW.of rfl) | with_reducible apply Does.blocked | with_reducible apply Does.done
    | with_reducible apply Does.jump | (with_reducible intro _; intros; (try dsimp only)))

theorem execLih_does {W : Nat} (hW : Covers W 0x40004000000000100) {s₀ : State} (c : CluAt) (d : Fin 64) (imm : Word) {s s₁ : State} (hk : Does W s₀ s) (ht : execLih c d imm s = .next s₁) :
    Does W s₀ s₁ := by
  cases ht
  try dsimp only
  repeat' (first
    | with_reducible assumption | with_reducible apply State.readS_does (hW.of rfl)
    | with_reducible apply State.writeS_does (hW.of rfl) | with_reducible apply State.issue_does (hW.of rfl)
    | with_reducible apply Does.done | split | (with_reducible refine Does.of_pair (by with_reducible assumption) ?_)
    | (with_reducible refine Does.of_fst (by with_reducible assumption) ?_) | (with_reducible intro _; intros; (try dsimp only)))

theorem execAmov_does {W : Nat} (hW : Covers W 0x40004000000000100) {s₀ : State} (c : CluAt) (d : Fin 16) (a : Fin 64) (imm : Word) {s s₁ : State} (hk : Does W s₀ s) (ht : execAmov c d a imm s = .next s₁) :
    Does W s₀ s₁ := by
  cases ht
  try dsimp only
  repeat' (first
    | with_reducible assumption | with_reducible apply State.readS_does (hW.of rfl)
    | with_reducible apply State.writeA_does (hW.of rfl) | with_reducible apply State.issue_does (hW.of rfl)
    | with_reducible apply Does.done | split | (with_reducible refine Does.of_pair (by with_reducible assumption) ?_)
    | (with_reducible refine Does.of_fst (by with_reducible assumption) ?_) | (with_reducible intro _; intros; (try dsimp only)))

theorem execAadd_does {W : Nat} (hW : Covers W 0x40004000000000100) {s₀ : State} (c : CluAt) (d a : Fin 16) (b : Fin 64) (imm : Word) {s s₁ : State} (hk : Does W s₀ s) (ht : execAadd c d a b imm s = .next s₁) :
    Does W s₀ s₁ := by
  cases ht
  try dsimp only
  repeat' (first
    | with_reducible assumption | with_reducible apply State.readS_does (hW.of rfl)
    | with_reducible apply State.writeA_does (hW.of rfl) | with_reducible apply State.issue_does (hW.of rfl)
    | with_reducible apply Does.done | split | (with_reducible refine Does.of_pair (by with_reducible assumption) ?_)
    | (with_reducible refine Does.of_fst (by with_reducible assumption) ?_) | (with_reducible intro _; intros; (try dsimp only)))

theorem execAget_does {W : Nat} (hW : Covers W 0x40004000000000100) {s₀ : State} (c : CluAt) (d : Fin 64) (a : Fin 16) {s s₁ : State} (hk : Does W s₀ s) (ht : execAget c d a s = .next s₁) :
    Does W s₀ s₁ := by
  cases ht
  try dsimp only
  repeat' (first
    | with_reducible assumption | with_reducible apply State.writeS_does (hW.of rfl)
    | with_reducible apply State.issue_does (hW.of rfl) | with_reducible apply Does.blocked | with_reducible apply Does.done
    | with_reducible apply Does.jump | (with_reducible intro _; intros; (try dsimp only)))

theorem execBr_does {W : Nat} (hW : Covers W 0x40004000000000100) {s₀ : State} (c : CluAt) (target : BitVec 14) {s s₁ : State} (hk : Does W s₀ s) (ht : execBr c target s = .next s₁) :
    Does W s₀ s₁ := by
  cases ht
  try dsimp only
  repeat' (first
    | with_reducible assumption | with_reducible apply State.issue_does (hW.of rfl) | with_reducible apply Does.blocked
    | with_reducible apply Does.done | with_reducible apply Does.jump | (with_reducible intro _; intros; (try dsimp only)))

theorem State.ctlBranch_does {W : Nat} (hW : Covers W 0x40004000000000100) {s₀ : State} (c : CluAt) (op : Nat) (a b : Fin 64) (target : BitVec 14) (p : DWord → DWord → Bool) {s : State} (hk : Does W s₀ s) :
    Does W s₀ (State.ctlBranch s c op a b target p) := by
  unfold State.ctlBranch
  try dsimp only
  repeat' (first
    | with_reducible assumption | with_reducible apply State.readS_does (hW.of rfl)
    | with_reducible apply State.issue_does (hW.of rfl) | with_reducible apply Does.done | with_reducible apply Does.jump
    | split | (with_reducible refine Does.of_pair (by with_reducible assumption) ?_)
    | (with_reducible refine Does.of_fst (by with_reducible assumption) ?_) | (with_reducible intro _; intros; (try dsimp only)))

theorem execBeq_does {W : Nat} (hW : Covers W 0x40004000000000100) {s₀ : State} (c : CluAt) (a b : Fin 64) (target : BitVec 14) {s s₁ : State} (hk : Does W s₀ s) (ht : execBeq c a b target s = .next s₁) :
    Does W s₀ s₁ := by
  cases ht
  try dsimp only
  repeat' (first | with_reducible assumption | with_reducible apply State.ctlBranch_does (hW.of rfl))

theorem execBne_does {W : Nat} (hW : Covers W 0x40004000000000100) {s₀ : State} (c : CluAt) (a b : Fin 64) (target : BitVec 14) {s s₁ : State} (hk : Does W s₀ s) (ht : execBne c a b target s = .next s₁) :
    Does W s₀ s₁ := by
  cases ht
  try dsimp only
  repeat' (first | with_reducible assumption | with_reducible apply State.ctlBranch_does (hW.of rfl))

theorem execBlt_does {W : Nat} (hW : Covers W 0x40004000000000100) {s₀ : State} (c : CluAt) (a b : Fin 64) (target : BitVec 14) {s s₁ : State} (hk : Does W s₀ s) (ht : execBlt c a b target s = .next s₁) :
    Does W s₀ s₁ := by
  cases ht
  try dsimp only
  repeat' (first | with_reducible assumption | with_reducible apply State.ctlBranch_does (hW.of rfl))

theorem execBltu_does {W : Nat} (hW : Covers W 0x40004000000000100) {s₀ : State} (c : CluAt) (a b : Fin 64) (target : BitVec 14) {s s₁ : State} (hk : Does W s₀ s) (ht : execBltu c a b target s = .next s₁) :
    Does W s₀ s₁ := by
  cases ht
  try dsimp only
  repeat' (first | with_reducible assumption | with_reducible apply State.ctlBranch_does (hW.of rfl))

theorem execLoop_does {W : Nat} (hW : Covers W 0x40004000000000100) {s₀ : State} (c : CluAt) (d : Fin 64) (target : BitVec 14) {s s₁ : State} (hk : Does W s₀ s) (ht : execLoop c d target s = .next s₁) :
    Does W s₀ s₁ := by
  cases ht
  try dsimp only
  repeat' (first
    | with_reducible assumption | with_reducible apply State.readS_does (hW.of rfl)
    | with_reducible apply State.writeS_does (hW.of rfl) | with_reducible apply State.issue_does (hW.of rfl)
    | with_reducible apply Does.done | with_reducible apply Does.jump | split
    | (with_reducible refine Does.of_pair (by with_reducible assumption) ?_)
    | (with_reducible refine Does.of_fst (by with_reducible assumption) ?_) | (with_reducible intro _; intros; (try dsimp only)))

theorem execWait_does {W : Nat} (hW : Covers W 0x400040000000001E0) {s₀ : State} (c : CluAt) (sem : Fin 32) (n : BitVec 16) {s s₁ : State} (hk : Does W s₀ s) (ht : execWait c sem n s = .next s₁) :
    Does W s₀ s₁ := by
  cases ht
  try dsimp only
  repeat' (first
    | with_reducible assumption | with_reducible apply State.modLc_does (hW.of rfl)
    | with_reducible apply State.issue_does (hW.of rfl) | with_reducible apply State.lcWaits_does (hW.of rfl)
    | with_reducible apply State.lcGoes_does (hW.of rfl) | with_reducible apply Does.blocked | with_reducible apply Does.done
    | with_reducible apply Does.jump | split | (with_reducible intro _; intros; (try dsimp only)))

theorem execSignal_does {W : Nat} (hW : Covers W 0x4000C000000000100) {s₀ : State} (c : CluAt) (sem : Fin 32) (n : BitVec 16) {s s₁ : State} (hk : Does W s₀ s) (ht : execSignal c sem n s = .next s₁) :
    Does W s₀ s₁ := by
  cases ht
  try dsimp only
  repeat' (first
    | with_reducible assumption | with_reducible apply State.signal_does (hW.of rfl)
    | with_reducible apply State.issue_does (hW.of rfl) | with_reducible apply Does.blocked | with_reducible apply Does.done
    | with_reducible apply Does.jump | (with_reducible intro _; intros; (try dsimp only)))

theorem State.fence_does {W : Nat} (hW : Covers W 0x40000000001E0) {s₀ : State} (c : CluAt) (j i : Nat) (f : State → Issued) {s : State} (hk : Does W s₀ s)
    (hf_f : ∀ (v0 : State), Does W s₀ v0 → Does W s₀ (f v0).split.1) :
    Does W s₀ (State.fence s c j i f).split.1 := by
  unfold State.fence
  try dsimp only
  repeat' (first
    | with_reducible assumption | with_reducible apply hf_f | with_reducible apply State.modLc_does (hW.of rfl)
    | with_reducible apply State.lcWaits_does (hW.of rfl) | with_reducible apply State.lcGoes_does (hW.of rfl)
    | with_reducible apply Does.blocked | with_reducible apply Does.done | with_reducible apply Does.jump | split
    | (with_reducible refine Does.of_pair (by with_reducible assumption) ?_) | (with_reducible intro _; intros; (try dsimp only)))

theorem execFence_does {W : Nat} (hW : Covers W 0x400040000000001E0) {s₀ : State} (c : CluAt) {s s₁ : State} (hk : Does W s₀ s) (ht : execFence c s = .next s₁) :
    Does W s₀ s₁ := by
  cases ht
  try dsimp only
  repeat' (first
    | with_reducible assumption | with_reducible apply State.issue_does (hW.of rfl)
    | with_reducible apply State.fence_does (hW.of rfl) | with_reducible apply Does.done | split
    | (with_reducible refine Does.of_pair (by with_reducible assumption) ?_)
    | (with_reducible refine Does.of_fst (by with_reducible assumption) ?_) | (with_reducible intro _; intros; (try dsimp only)))

theorem execGwait_does {W : Nat} (hW : Covers W 0x400040000000001E0) {s₀ : State} (c : CluAt) (d : Fin 64) (expert : BitVec 12) {s s₁ : State} (hk : Does W s₀ s) (ht : execGwait c d expert s = .next s₁) :
    Does W s₀ s₁ := by
  cases ht
  try dsimp only
  repeat' (first
    | with_reducible assumption | with_reducible apply State.modLc_does (hW.of rfl)
    | with_reducible apply State.issue_does (hW.of rfl) | with_reducible apply State.lcWaits_does (hW.of rfl)
    | with_reducible apply State.lcGoes_does (hW.of rfl) | with_reducible apply Does.blocked | with_reducible apply Does.done
    | split | (with_reducible refine Does.of_pair (by with_reducible assumption) ?_)
    | (with_reducible refine Does.of_fst (by with_reducible assumption) ?_) | (with_reducible intro _; intros; (try dsimp only)))

theorem execYield_does {W : Nat} (hW : Covers W 0x652BC5AFCEF84E1E0) {s₀ : State} (c : CluAt) (n : Word) {s s₁ : State} (hk : Does W s₀ s) (ht : execYield c n s = .next s₁) :
    Does W s₀ s₁ := by
  cases ht
  try dsimp only
  repeat' (first
    | with_reducible assumption | with_reducible apply State.modJob_does (hW.of rfl)
    | with_reducible apply State.modLc_does (hW.of rfl) | with_reducible apply State.issue_does (hW.of rfl)
    | with_reducible apply State.lcWaits_does (hW.of rfl) | with_reducible apply State.dropCharge_does (hW.of rfl)
    | with_reducible apply State.jobFault_does (hW.of rfl) | with_reducible apply State.fence_does (hW.of rfl)
    | with_reducible apply Does.done | split | (with_reducible refine Does.of_pair (by with_reducible assumption) ?_)
    | (with_reducible refine Does.of_fst (by with_reducible assumption) ?_) | (with_reducible intro _; intros; (try dsimp only)))

theorem execHalt_does {W : Nat} (hW : Covers W 0x652BC5AFCEF84E1E0) {s₀ : State} (c : CluAt) {s s₁ : State} (hk : Does W s₀ s) (ht : execHalt c s = .next s₁) :
    Does W s₀ s₁ := by
  cases ht
  try dsimp only
  repeat' (first
    | with_reducible assumption | with_reducible apply State.modJob_does (hW.of rfl)
    | with_reducible apply State.modLc_does (hW.of rfl) | with_reducible apply State.issue_does (hW.of rfl)
    | with_reducible apply State.vacate_does (hW.of rfl) | with_reducible apply State.endJob_does (hW.of rfl)
    | with_reducible apply State.fence_does (hW.of rfl) | with_reducible apply Does.jump | split
    | (with_reducible refine Does.of_pair (by with_reducible assumption) ?_)
    | (with_reducible intro _; intros; (try dsimp only)))

theorem execTrap_does {W : Nat} (hW : Covers W 0x652BC5AFCEF84E1E0) {s₀ : State} (c : CluAt) (code : BitVec 16) {s s₁ : State} (hk : Does W s₀ s) (ht : execTrap c code s = .next s₁) :
    Does W s₀ s₁ := by
  cases ht
  try dsimp only
  repeat' (first
    | with_reducible assumption | with_reducible apply State.issue_does (hW.of rfl)
    | with_reducible apply State.jobFault_does (hW.of rfl) | with_reducible apply Does.blocked | with_reducible apply Does.done
    | with_reducible apply Does.jump | (with_reducible intro _; intros; (try dsimp only)))

theorem execSysr_does {W : Nat} (hW : Covers W 0x40004000000000100) {s₀ : State} (c : CluAt) (d : Fin 64) (n : Fin 8) {s s₁ : State} (hk : Does W s₀ s) (ht : execSysr c d n s = .next s₁) :
    Does W s₀ s₁ := by
  cases ht
  try dsimp only
  repeat' (first
    | with_reducible assumption | with_reducible apply State.writeS_does (hW.of rfl)
    | with_reducible apply State.issue_does (hW.of rfl) | with_reducible apply Does.blocked | with_reducible apply Does.done
    | with_reducible apply Does.jump | (with_reducible intro _; intros; (try dsimp only)))

theorem State.alignErr_does {W : Nat} (hW : Covers W 0x8000000000000) {s₀ : State} (c : CluAt) {s : State} (hk : Does W s₀ s) :
    Does W s₀ (State.alignErr s c) := by
  unfold State.alignErr
  try dsimp only
  repeat' (first | with_reducible assumption | with_reducible apply State.modClu_does (hW.of rfl))

theorem State.seqLoad_does {W : Nat} (hW : Covers W 0x40008000000000000) {s₀ : State} (c : CluAt) (j i a n : Nat) (imm : Word) {s : State} (hk : Does W s₀ s) :
    Does W s₀ (State.seqLoad s c j i a n imm).2.2 := by
  unfold State.seqLoad
  try dsimp only
  repeat' (first
    | with_reducible assumption | with_reducible apply State.draw_does (hW.of rfl)
    | with_reducible apply State.readS_does (hW.of rfl) | with_reducible apply State.readStg_does (hW.of rfl)
    | with_reducible apply State.alignErr_does (hW.of rfl) | split
    | (with_reducible refine Does.of_pair (by with_reducible assumption) ?_))

theorem State.seqStore_does {W : Nat} (hW : Covers W 0x4000C000000000000) {s₀ : State} (c : CluAt) (j i a : Nat) (imm : Word) (b : List Byte) {s : State} (hk : Does W s₀ s) :
    Does W s₀ (State.seqStore s c j i a imm b) := by
  unfold State.seqStore
  try dsimp only
  repeat' (first
    | with_reducible assumption | with_reducible apply State.draw_does (hW.of rfl)
    | with_reducible apply State.modLc_does (hW.of rfl) | with_reducible apply State.readS_does (hW.of rfl)
    | with_reducible apply State.writeStg_does (hW.of rfl) | with_reducible apply State.alignErr_does (hW.of rfl) | split
    | (with_reducible refine Does.of_pair (by with_reducible assumption) ?_))

theorem execSld_does {W : Nat} (hW : Covers W 0x4000C000000000100) {s₀ : State} (c : CluAt) (d a : Fin 64) (imm : Word) {s s₁ : State} (hk : Does W s₀ s) (ht : execSld c d a imm s = .next s₁) :
    Does W s₀ s₁ := by
  cases ht
  try dsimp only
  repeat' (first
    | with_reducible assumption | with_reducible apply State.writeS_does (hW.of rfl)
    | with_reducible apply State.issue_does (hW.of rfl) | with_reducible apply State.seqLoad_does (hW.of rfl)
    | with_reducible apply Does.done | split | (with_reducible refine Does.of_pair (by with_reducible assumption) ?_)
    | (with_reducible refine Does.of_fst (by with_reducible assumption) ?_) | (with_reducible intro _; intros; (try dsimp only)))

theorem execSst_does {W : Nat} (hW : Covers W 0x4000C000000000100) {s₀ : State} (c : CluAt) (a b : Fin 64) (imm : Word) {s s₁ : State} (hk : Does W s₀ s) (ht : execSst c a b imm s = .next s₁) :
    Does W s₀ s₁ := by
  cases ht
  try dsimp only
  repeat' (first
    | with_reducible assumption | with_reducible apply State.readS_does (hW.of rfl)
    | with_reducible apply State.issue_does (hW.of rfl) | with_reducible apply State.seqStore_does (hW.of rfl)
    | with_reducible apply Does.done | split | (with_reducible refine Does.of_pair (by with_reducible assumption) ?_)
    | (with_reducible refine Does.of_fst (by with_reducible assumption) ?_) | (with_reducible intro _; intros; (try dsimp only)))

theorem execTld_does {W : Nat} (hW : Covers W 0x4000C000000000100) {s₀ : State} (c : CluAt) (d : Fin 32) (a : Fin 64) (imm : Word) {s s₁ : State} (hk : Does W s₀ s) (ht : execTld c d a imm s = .next s₁) :
    Does W s₀ s₁ := by
  cases ht
  try dsimp only
  repeat' (first
    | with_reducible assumption | with_reducible apply State.modLc_does (hW.of rfl)
    | with_reducible apply State.writeT_does (hW.of rfl) | with_reducible apply State.issue_does (hW.of rfl)
    | with_reducible apply State.seqLoad_does (hW.of rfl) | with_reducible apply Does.done | split
    | (with_reducible refine Does.of_pair (by with_reducible assumption) ?_)
    | (with_reducible refine Does.of_fst (by with_reducible assumption) ?_) | (with_reducible intro _; intros; (try dsimp only)))

theorem execTst_does {W : Nat} (hW : Covers W 0x4000C000000000100) {s₀ : State} (c : CluAt) (a : Fin 64) (b : Fin 32) (imm : Word) {s s₁ : State} (hk : Does W s₀ s) (ht : execTst c a b imm s = .next s₁) :
    Does W s₀ s₁ := by
  cases ht
  try dsimp only
  repeat' (first
    | with_reducible assumption | with_reducible apply State.readT_does (hW.of rfl)
    | with_reducible apply State.issue_does (hW.of rfl) | with_reducible apply State.seqStore_does (hW.of rfl)
    | with_reducible apply Does.done | split | (with_reducible refine Does.of_pair (by with_reducible assumption) ?_)
    | (with_reducible refine Does.of_fst (by with_reducible assumption) ?_) | (with_reducible intro _; intros; (try dsimp only)))

theorem execTadd_does {W : Nat} (hW : Covers W 0x40004000000000100) {s₀ : State} (c : CluAt) (d a : Fin 32) (b : Fin 64) (imm : Word) {s s₁ : State} (hk : Does W s₀ s) (ht : execTadd c d a b imm s = .next s₁) :
    Does W s₀ s₁ := by
  cases ht
  try dsimp only
  repeat' (first
    | with_reducible assumption | with_reducible apply State.readS_does (hW.of rfl)
    | with_reducible apply State.readT_does (hW.of rfl) | with_reducible apply State.writeT_does (hW.of rfl)
    | with_reducible apply State.issue_does (hW.of rfl) | with_reducible apply Does.done | split
    | (with_reducible refine Does.of_pair (by with_reducible assumption) ?_)
    | (with_reducible refine Does.of_fst (by with_reducible assumption) ?_) | (with_reducible intro _; intros; (try dsimp only)))

theorem State.hostChunks_does {W : Nat} (hW : Covers W 0x2100002FCEF84E1E0) {s₀ : State} (unit id host addr bytes : Nat) (write : Bool) (data : List Byte) (media : List Medium) :
    ∀ (l0 : List Nat), ∀ {s : State}, Does W s₀ s → Does W s₀ (State.hostChunks s unit id host addr bytes write data media l0).2 := by
  intro l0
  induction l0 generalizing unit id host addr bytes write data media with
  | nil =>
    intro s hk
    unfold State.hostChunks
    try dsimp only
    repeat' (first
      | with_reducible assumption | with_reducible apply State.startHost_does (hW.of rfl) | split
      | (with_reducible refine Does.of_pair (by with_reducible assumption) ?_)
      | (with_reducible intro _; intros; (try dsimp only)))
  | cons x r ih =>
    intro s hk
    unfold State.hostChunks
    try dsimp only
    repeat' (first
      | with_reducible apply ih | with_reducible assumption | with_reducible apply State.startHost_does (hW.of rfl) | split
      | (with_reducible refine Does.of_pair (by with_reducible assumption) ?_)
      | (with_reducible intro _; intros; (try dsimp only)))

theorem State.dpaChunks_does {W : Nat} (hW : Covers W 0x2100002FCEF84E1E0) {s₀ : State} (unit id dpa bytes : Nat) (media : List Medium) :
    ∀ (l0 : List Nat), ∀ {s : State}, Does W s₀ s → Does W s₀ (State.dpaChunks s unit id dpa bytes media l0).2 := by
  intro l0
  induction l0 generalizing unit id dpa bytes media with
  | nil =>
    intro s hk
    unfold State.dpaChunks
    try dsimp only
    repeat' (first
      | with_reducible assumption | with_reducible apply State.startDpa_does (hW.of rfl) | split
      | (with_reducible refine Does.of_pair (by with_reducible assumption) ?_)
      | (with_reducible intro _; intros; (try dsimp only)))
  | cons x r ih =>
    intro s hk
    unfold State.dpaChunks
    try dsimp only
    repeat' (first
      | with_reducible apply ih | with_reducible assumption | with_reducible apply State.startDpa_does (hW.of rfl) | split
      | (with_reducible refine Does.of_pair (by with_reducible assumption) ?_)
      | (with_reducible intro _; intros; (try dsimp only)))

theorem State.extentRead_does {W : Nat} (hW : Covers W 0x2100002FCEF84E1E0) {s₀ : State} (unit id : Nat) (media : List Medium) (e : Nat) {s : State} (hk : Does W s₀ s) :
    Does W s₀ (State.extentRead s unit id media e).2 := by
  unfold State.extentRead
  try dsimp only
  repeat' (first
    | with_reducible assumption | with_reducible apply State.dpaChunks_does (hW.of rfl) | split
    | (with_reducible refine Does.of_pair (by with_reducible assumption) ?_)
    | (with_reducible intro _; intros; (try dsimp only)))

theorem State.extentReads_does {W : Nat} (hW : Covers W 0x2100002FCEF84E1E0) {s₀ : State} (unit id : Nat) (media : List Medium) :
    ∀ (l0 : List Nat), ∀ {s : State}, Does W s₀ s → Does W s₀ (State.extentReads s unit id media l0).2 := by
  intro l0
  induction l0 generalizing unit id media with
  | nil =>
    intro s hk
    unfold State.extentReads
    try dsimp only
    repeat' (first
      | with_reducible assumption | with_reducible apply State.extentRead_does (hW.of rfl) | split
      | (with_reducible refine Does.of_pair (by with_reducible assumption) ?_)
      | (with_reducible intro _; intros; (try dsimp only)))
  | cons x r ih =>
    intro s hk
    unfold State.extentReads
    try dsimp only
    repeat' (first
      | with_reducible apply ih | with_reducible assumption | with_reducible apply State.extentRead_does (hW.of rfl) | split
      | (with_reducible refine Does.of_pair (by with_reducible assumption) ?_)
      | (with_reducible intro _; intros; (try dsimp only)))

theorem execJload_does {W : Nat} (hW : Covers W 0x21200DBFEEFA4E1E0) {s₀ : State} (queue : BitVec 14) (media : List Medium) {s s₁ : State} (hk : Does W s₀ s) (ht : execJload queue media s = .next s₁) :
    Does W s₀ s₁ := by
  cases ht
  try dsimp only
  repeat' (first
    | with_reducible assumption | with_reducible apply State.cohEnd_does (hW.of rfl)
    | with_reducible apply State.issueCmd_does (hW.of rfl) | with_reducible apply State.hostChunks_does (hW.of rfl) | split
    | (with_reducible refine Does.of_pair (by with_reducible assumption) ?_)
    | with_reducible apply Does.upd_200000000000000 (hW.of rfl) | (with_reducible intro _; intros; (try dsimp only)))

theorem State.setLoad_does {W : Nat} (hW : Covers W 0x200000000000000) {s₀ : State} (x : JLoad) {s : State} (hk : Does W s₀ s) :
    Does W s₀ (State.setLoad s x) := by
  unfold State.setLoad
  try dsimp only
  repeat' (first | with_reducible assumption | split | with_reducible apply Does.upd_200000000000000 (hW.of rfl))

theorem State.loadDone_does {W : Nat} (hW : Covers W 0x2121058004000E1E0) {s₀ : State} (x : JLoad) (j : Nat) {s : State} (hk : Does W s₀ s) :
    Does W s₀ (State.loadDone s x j) := by
  unfold State.loadDone
  try dsimp only
  repeat' (first
    | with_reducible assumption | with_reducible apply State.modJob_does (hW.of rfl)
    | with_reducible apply State.jobDone_does (hW.of rfl) | with_reducible apply State.dropLoad_does (hW.of rfl))

theorem State.loadHead_does {W : Nat} (hW : Covers W 0x212105BFEEFA4E1E0) {s₀ : State} (x : JLoad) (j : Nat) (media : List Medium) {s : State} (hk : Does W s₀ s) :
    Does W s₀ (State.loadHead s x j media) := by
  unfold State.loadHead
  try dsimp only
  repeat' (first
    | with_reducible assumption | with_reducible apply State.accDrop_does (hW.of rfl)
    | with_reducible apply State.cohEnd_does (hW.of rfl) | with_reducible apply State.hostChunks_does (hW.of rfl)
    | with_reducible apply State.setLoad_does (hW.of rfl) | with_reducible apply State.loadDone_does (hW.of rfl) | split
    | (with_reducible refine Does.of_pair (by with_reducible assumption) ?_))

theorem State.loadImage_does {W : Nat} (hW : Covers W 0x212945BFEEFA4E1E0) {s₀ : State} (x : JLoad) (media : List Medium) {s : State} (hk : Does W s₀ s) :
    Does W s₀ (State.loadImage s x media) := by
  unfold State.loadImage
  try dsimp only
  repeat' (first
    | with_reducible assumption | with_reducible apply State.modJob_does (hW.of rfl)
    | with_reducible apply State.accDrop_does (hW.of rfl) | with_reducible apply State.cohEnd_does (hW.of rfl)
    | with_reducible apply State.extentReads_does (hW.of rfl) | with_reducible apply State.setLoad_does (hW.of rfl)
    | with_reducible apply State.loadFail_does (hW.of rfl) | with_reducible apply State.loadHead_does (hW.of rfl)
    | with_reducible apply Does.getD | split | (with_reducible refine Does.of_pair (by with_reducible assumption) ?_)
    | refine State.buildTables_does (hW := hW.of rfl) (hk := ?_) (ht := by with_reducible assumption)
    | with_reducible apply Does.upd_10000000000000 (hW.of rfl) | (with_reducible intro _; intros; (try dsimp only)))

theorem State.loadWeights_does {W : Nat} (hW : Covers W 0x212145BFEEFA4E1E0) {s₀ : State} (x : JLoad) (j : Nat) (media : List Medium) {s : State} (hk : Does W s₀ s) :
    Does W s₀ (State.loadWeights s x j media) := by
  unfold State.loadWeights
  try dsimp only
  repeat' (first
    | with_reducible assumption | with_reducible apply State.loadFail_does (hW.of rfl)
    | with_reducible apply State.loadHead_does (hW.of rfl) | split)

theorem State.loadBody_does {W : Nat} (hW : Covers W 0x212145BFEEFA4E1E0) {s₀ : State} (x : JLoad) (j : Nat) (media : List Medium) {s : State} (hk : Does W s₀ s) :
    Does W s₀ (State.loadBody s x j media) := by
  unfold State.loadBody
  try dsimp only
  repeat' (first
    | with_reducible assumption | with_reducible apply State.cohEnd_does (hW.of rfl)
    | with_reducible apply State.hostChunks_does (hW.of rfl) | with_reducible apply State.setLoad_does (hW.of rfl)
    | with_reducible apply State.loadFail_does (hW.of rfl) | split
    | (with_reducible refine Does.of_pair (by with_reducible assumption) ?_))

theorem State.loadCkpt_does {W : Nat} (hW : Covers W 0x2121458004000E1E0) {s₀ : State} (x : JLoad) (j : Nat) {s : State} (hk : Does W s₀ s) :
    Does W s₀ (State.loadCkpt s x j) := by
  unfold State.loadCkpt
  try dsimp only
  repeat' (first
    | with_reducible assumption | with_reducible apply State.modJob_does (hW.of rfl)
    | with_reducible apply State.modLc_does (hW.of rfl) | with_reducible apply State.loadFail_does (hW.of rfl)
    | with_reducible apply State.loadDone_does (hW.of rfl) | (with_reducible apply Does.foldl; intro _ _ _) | split)

theorem execJloadDone_does {W : Nat} (hW : Covers W 0x212945BFEEFA4E1E0) {s₀ : State} (queue : BitVec 14) (id : Nat) (media : List Medium) {s s₁ : State} (hk : Does W s₀ s) (ht : execJloadDone queue id media s = .next s₁) :
    Does W s₀ s₁ := by
  cases ht
  try dsimp only
  repeat' (first
    | with_reducible assumption | with_reducible apply State.accResendAll_does (hW.of rfl)
    | with_reducible apply State.cohEnd_does (hW.of rfl) | with_reducible apply State.setLoad_does (hW.of rfl)
    | with_reducible apply State.loadImage_does (hW.of rfl) | with_reducible apply State.loadWeights_does (hW.of rfl)
    | with_reducible apply State.loadBody_does (hW.of rfl) | with_reducible apply State.loadCkpt_does (hW.of rfl) | split
    | (with_reducible refine Does.of_pair (by with_reducible assumption) ?_))

theorem State.launchFail_does {W : Nat} (hW : Covers W 0x2101058004000E1E0) {s₀ : State} (j jresult : Nat) {s : State} (hk : Does W s₀ s) :
    Does W s₀ (State.launchFail s j jresult) := by
  unfold State.launchFail
  try dsimp only
  repeat' (first
    | with_reducible assumption | with_reducible apply State.modJob_does (hW.of rfl)
    | with_reducible apply State.jobDone_does (hW.of rfl) | with_reducible apply State.accDrop_does (hW.of rfl)
    | with_reducible apply Does.getD | split | (with_reducible refine Does.of_pair (by with_reducible assumption) ?_)
    | (with_reducible intro _; intros; (try dsimp only)))

theorem State.helloFail_does {W : Nat} (hW : Covers W 0x2101058004000E1E0) {s₀ : State} (j : Nat) {s : State} (hk : Does W s₀ s) :
    Does W s₀ (State.helloFail s j) := by
  unfold State.helloFail
  try dsimp only
  repeat' (first
    | with_reducible assumption | with_reducible apply State.sendPair_does (hW.of rfl)
    | with_reducible apply State.launchFail_does (hW.of rfl))

theorem State.modLaunch_does {W : Nat} (hW : Covers W 0x10000000000000) {s₀ : State} (j : Nat) (f : Launch → Launch) {s : State} (hk : Does W s₀ s) :
    Does W s₀ (State.modLaunch s j f) := by
  unfold State.modLaunch
  try dsimp only
  repeat' (first | with_reducible assumption | with_reducible apply State.modJob_does (hW.of rfl))

theorem State.sendHello_does {W : Nat} (hW : Covers W 0x2101000000000E1E0) {s₀ : State} (j : Nat) (l : Launch) {s : State} (hk : Does W s₀ s) :
    Does W s₀ (State.sendHello s j l) := by
  unfold State.sendHello
  try dsimp only
  repeat' (first
    | with_reducible assumption | with_reducible apply State.sendPair_does (hW.of rfl)
    | with_reducible apply State.modLaunch_does (hW.of rfl) | split | (with_reducible intro _; intros; (try dsimp only)))

theorem State.compareHello_does {W : Nat} (hW : Covers W 0x2121058004000E1E0) {s₀ : State} (j : Nat) {s : State} (hk : Does W s₀ s) :
    Does W s₀ (State.compareHello s j) := by
  unfold State.compareHello
  try dsimp only
  repeat' (first
    | with_reducible assumption | with_reducible apply State.modJob_does (hW.of rfl)
    | with_reducible apply State.helloFail_does (hW.of rfl) | split
    | (with_reducible refine Does.of_pair (by with_reducible assumption) ?_)
    | with_reducible apply Does.upd_200000000000000 (hW.of rfl) | (with_reducible intro _; intros; (try dsimp only)))

theorem State.digestInputs_does {W : Nat} (hW : Covers W 0x210105BFEEFA4E1E0) {s₀ : State} (j : Nat) (l : Launch) (media : List Medium) {s : State} (hk : Does W s₀ s) :
    Does W s₀ (State.digestInputs s j l media) := by
  unfold State.digestInputs
  try dsimp only
  repeat' (first
    | with_reducible assumption | with_reducible apply State.modJob_does (hW.of rfl)
    | with_reducible apply State.accDrop_does (hW.of rfl) | with_reducible apply State.accResendAll_does (hW.of rfl)
    | with_reducible apply State.cohEnd_does (hW.of rfl) | with_reducible apply State.extentReads_does (hW.of rfl)
    | with_reducible apply State.launchFail_does (hW.of rfl) | with_reducible apply State.modLaunch_does (hW.of rfl) | split
    | (with_reducible refine Does.of_pair (by with_reducible assumption) ?_))

theorem State.launchGo_does {W : Nat} (hW : Covers W 0x212105BFEEFA4E1E0) {s₀ : State} (j : Nat) (media : List Medium) {s : State} (hk : Does W s₀ s) :
    Does W s₀ (State.launchGo s j media) := by
  unfold State.launchGo
  try dsimp only
  repeat' (first
    | with_reducible assumption | with_reducible apply State.sendHello_does (hW.of rfl)
    | with_reducible apply State.compareHello_does (hW.of rfl) | with_reducible apply State.digestInputs_does (hW.of rfl)
    | split | (with_reducible refine Does.of_pair (by with_reducible assumption) ?_)
    | (with_reducible intro _; intros; (try dsimp only)))

theorem execJlaunch_does {W : Nat} (hW : Covers W 0x21210DBFEEFA4E1E0) {s₀ : State} (queue : BitVec 14) (media : List Medium) {s s₁ : State} (hk : Does W s₀ s) (ht : execJlaunch queue media s = .next s₁) :
    Does W s₀ s₁ := by
  cases ht
  try dsimp only
  repeat' (first
    | with_reducible assumption | with_reducible apply State.completeStatus_does (hW.of rfl)
    | with_reducible apply State.modJob_does (hW.of rfl) | with_reducible apply State.jobDone_does (hW.of rfl)
    | with_reducible apply State.jobRefuse_does (hW.of rfl) | with_reducible apply State.issueCmd_does (hW.of rfl)
    | with_reducible apply State.launchGo_does (hW.of rfl) | split
    | (with_reducible refine Does.of_pair (by with_reducible assumption) ?_) | (with_reducible intro _; intros; (try dsimp only)))

theorem State.regionReads_does {W : Nat} (hW : Covers W 0x2100002FCEF84E1E0) {s₀ : State} (j : Nat) (media : List Medium) :
    ∀ (l0 : List Nat), ∀ {s : State}, Does W s₀ s → Does W s₀ (State.regionReads s j media l0).2 := by
  intro l0
  induction l0 generalizing j media with
  | nil =>
    intro s hk
    unfold State.regionReads
    try dsimp only
    repeat' (first
      | with_reducible assumption | with_reducible apply State.startDpa_does (hW.of rfl) | split
      | (with_reducible refine Does.of_pair (by with_reducible assumption) ?_)
      | (with_reducible intro _; intros; (try dsimp only)))
  | cons x r ih =>
    intro s hk
    unfold State.regionReads
    try dsimp only
    repeat' (first
      | with_reducible apply ih | with_reducible assumption | with_reducible apply State.startDpa_does (hW.of rfl) | split
      | (with_reducible refine Does.of_pair (by with_reducible assumption) ?_)
      | (with_reducible intro _; intros; (try dsimp only)))

theorem State.offerAll_does {W : Nat} (hW : Covers W 0x14000000000000) {s₀ : State} (j : Nat) {s : State} (hk : Does W s₀ s) :
    Does W s₀ (State.offerAll s j) := by
  unfold State.offerAll
  try dsimp only
  repeat' (first
    | with_reducible assumption | with_reducible apply State.modJob_does (hW.of rfl)
    | with_reducible apply State.modLc_does (hW.of rfl) | (with_reducible apply Does.foldl; intro _ _ _) | split)

theorem State.launchNow_does {W : Nat} (hW : Covers W 0x252FC5AFCEF84E1E0) {s₀ : State} (j : Nat) (l : Launch) {s : State} (hk : Does W s₀ s) :
    Does W s₀ (State.launchNow s j l) := by
  unfold State.launchNow
  try dsimp only
  repeat' (first
    | with_reducible assumption | with_reducible apply State.modJob_does (hW.of rfl)
    | with_reducible apply State.modLc_does (hW.of rfl) | with_reducible apply State.jobDone_does (hW.of rfl)
    | with_reducible apply State.openGates_does (hW.of rfl) | with_reducible apply State.offerAll_does (hW.of rfl)
    | (with_reducible apply Does.foldl; intro _ _ _) | split)

theorem execLaunch_does {W : Nat} (hW : Covers W 0x252FC5BFEEFA4E1E0) {s₀ : State} (job : BitVec 12) (media : List Medium) {s s₁ : State} (hk : Does W s₀ s) (ht : execLaunch job media s = .next s₁) :
    Does W s₀ s₁ := by
  cases ht
  try dsimp only
  repeat' (first
    | with_reducible assumption | with_reducible apply State.modJob_does (hW.of rfl)
    | with_reducible apply State.accDrop_does (hW.of rfl) | with_reducible apply State.accResendAll_does (hW.of rfl)
    | with_reducible apply State.cohEnd_does (hW.of rfl) | with_reducible apply State.launchFail_does (hW.of rfl)
    | with_reducible apply State.modLaunch_does (hW.of rfl) | with_reducible apply State.launchGo_does (hW.of rfl)
    | with_reducible apply State.regionReads_does (hW.of rfl) | with_reducible apply State.launchNow_does (hW.of rfl) | split
    | (with_reducible refine Does.of_pair (by with_reducible assumption) ?_))

theorem execJwait_does {W : Nat} (hW : Covers W 0x21010D8000000E1E0) {s₀ : State} (queue : BitVec 14) {s s₁ : State} (hk : Does W s₀ s) (ht : execJwait queue s = .next s₁) :
    Does W s₀ s₁ := by
  cases ht
  try dsimp only
  repeat' (first
    | with_reducible assumption | with_reducible apply State.modJob_does (hW.of rfl)
    | with_reducible apply State.jobDone_does (hW.of rfl) | with_reducible apply State.jobRefuse_does (hW.of rfl)
    | with_reducible apply State.issueCmd_does (hW.of rfl) | split
    | (with_reducible refine Does.of_pair (by with_reducible assumption) ?_) | (with_reducible intro _; intros; (try dsimp only)))

theorem execJstatus_does {W : Nat} (hW : Covers W 0x21000D8000000E1E0) {s₀ : State} (queue : BitVec 14) {s s₁ : State} (hk : Does W s₀ s) (ht : execJstatus queue s = .next s₁) :
    Does W s₀ s₁ := by
  cases ht
  try dsimp only
  repeat' (first
    | with_reducible assumption | with_reducible apply State.jobDone_does (hW.of rfl)
    | with_reducible apply State.jobRefuse_does (hW.of rfl) | with_reducible apply State.issueCmd_does (hW.of rfl) | split
    | (with_reducible refine Does.of_pair (by with_reducible assumption) ?_) | (with_reducible intro _; intros; (try dsimp only)))

theorem State.beginCkpt_does {W : Nat} (hW : Covers W 0x210105BFEEFA4E1E0) {s₀ : State} (j : Nat) (c : Ckpt) (r : List Ckpt) (b : List Byte) (media : List Medium) {s : State} (hk : Does W s₀ s) :
    Does W s₀ (State.beginCkpt s j c r b media) := by
  unfold State.beginCkpt
  try dsimp only
  repeat' (first
    | with_reducible assumption | with_reducible apply State.modJob_does (hW.of rfl)
    | with_reducible apply State.jobDone_does (hW.of rfl) | with_reducible apply State.cohEnd_does (hW.of rfl)
    | with_reducible apply State.hostChunks_does (hW.of rfl) | split
    | (with_reducible refine Does.of_pair (by with_reducible assumption) ?_))

theorem State.startCkpt_does {W : Nat} (hW : Covers W 0x210105BFEEFA4E1E0) {s₀ : State} (j : Nat) (media : List Medium) {s : State} (hk : Does W s₀ s) :
    Does W s₀ (State.startCkpt s j media) := by
  unfold State.startCkpt
  try dsimp only
  repeat' (first
    | with_reducible assumption | with_reducible apply State.beginCkpt_does (hW.of rfl) | split
    | (with_reducible refine Does.of_pair (by with_reducible assumption) ?_))

theorem State.afterCkpts_does {W : Nat} (hW : Covers W 0x14000000000000) {s₀ : State} (j : Nat) {s : State} (hk : Does W s₀ s) :
    Does W s₀ (State.afterCkpts s j) := by
  unfold State.afterCkpts
  try dsimp only
  repeat' (first | with_reducible assumption | with_reducible apply State.offerAll_does (hW.of rfl) | split)

theorem State.ckptsGo_does {W : Nat} (hW : Covers W 0x210145BFEEFA4E1E0) {s₀ : State} (j : Nat) (media : List Medium) :
    ∀ (l0 : Nat), ∀ {s : State}, Does W s₀ s → Does W s₀ (State.ckptsGo s j media l0) := by
  intro l0
  induction l0 generalizing j media with
  | zero =>
    intro s hk
    unfold State.ckptsGo
    try dsimp only
    repeat' (first
      | with_reducible assumption | with_reducible apply State.startCkpt_does (hW.of rfl)
      | with_reducible apply State.afterCkpts_does (hW.of rfl) | split
      | (with_reducible refine Does.of_pair (by with_reducible assumption) ?_))
  | succ r ih =>
    intro s hk
    unfold State.ckptsGo
    try dsimp only
    repeat' (first
      | with_reducible apply ih | with_reducible assumption | with_reducible apply State.startCkpt_does (hW.of rfl)
      | with_reducible apply State.afterCkpts_does (hW.of rfl) | split
      | (with_reducible refine Does.of_pair (by with_reducible assumption) ?_))

theorem execJcheckpoint_does {W : Nat} (hW : Covers W 0x21014DBFEEFA4E1E0) {s₀ : State} (queue : BitVec 14) (media : List Medium) {s s₁ : State} (hk : Does W s₀ s) (ht : execJcheckpoint queue media s = .next s₁) :
    Does W s₀ s₁ := by
  cases ht
  try dsimp only
  repeat' (first
    | with_reducible assumption | with_reducible apply State.modJob_does (hW.of rfl)
    | with_reducible apply State.jobDone_does (hW.of rfl) | with_reducible apply State.jobRefuse_does (hW.of rfl)
    | with_reducible apply State.issueCmd_does (hW.of rfl) | with_reducible apply State.ckptsGo_does (hW.of rfl) | split
    | (with_reducible refine Does.of_pair (by with_reducible assumption) ?_)
    | (with_reducible intro _; intros; (try dsimp only)))

theorem execJcontinue_does {W : Nat} (hW : Covers W 0x21014D8000000E1E0) {s₀ : State} (queue : BitVec 14) {s s₁ : State} (hk : Does W s₀ s) (ht : execJcontinue queue s = .next s₁) :
    Does W s₀ s₁ := by
  cases ht
  try dsimp only
  repeat' (first
    | with_reducible assumption | with_reducible apply State.modJob_does (hW.of rfl)
    | with_reducible apply State.jobDone_does (hW.of rfl) | with_reducible apply State.jobRefuse_does (hW.of rfl)
    | with_reducible apply State.issueCmd_does (hW.of rfl) | with_reducible apply State.afterCkpts_does (hW.of rfl) | split
    | (with_reducible refine Does.of_pair (by with_reducible assumption) ?_) | (with_reducible intro _; intros; (try dsimp only)))

theorem State.abortJob_does {W : Nat} (hW : Covers W 0x252BC5AFCEF84E1E0) {s₀ : State} (j : Nat) (c : Option JCmd) {s : State} (hk : Does W s₀ s) :
    Does W s₀ (State.abortJob s j c) := by
  unfold State.abortJob
  try dsimp only
  repeat' (first
    | with_reducible assumption | with_reducible apply State.modJob_does (hW.of rfl)
    | with_reducible apply State.jobDone_does (hW.of rfl) | with_reducible apply State.endJob_does (hW.of rfl)
    | with_reducible apply State.loadFail_does (hW.of rfl) | split
    | (with_reducible refine Does.of_pair (by with_reducible assumption) ?_))

theorem execJabort_does {W : Nat} (hW : Covers W 0x252BCDAFCEF84E1E0) {s₀ : State} (queue : BitVec 14) {s s₁ : State} (hk : Does W s₀ s) (ht : execJabort queue s = .next s₁) :
    Does W s₀ s₁ := by
  cases ht
  try dsimp only
  repeat' (first
    | with_reducible assumption | with_reducible apply State.jobRefuse_does (hW.of rfl)
    | with_reducible apply State.issueCmd_does (hW.of rfl) | with_reducible apply State.abortJob_does (hW.of rfl) | split
    | (with_reducible refine Does.of_pair (by with_reducible assumption) ?_) | (with_reducible intro _; intros; (try dsimp only)))

theorem execJunload_does {W : Nat} (hW : Covers W 0x21190DBFEEFA4E1E0) {s₀ : State} (queue : BitVec 14) (media : List Medium) {s s₁ : State} (hk : Does W s₀ s) (ht : execJunload queue media s = .next s₁) :
    Does W s₀ s₁ := by
  cases ht
  try dsimp only
  repeat' (first
    | with_reducible assumption | with_reducible apply State.modJob_does (hW.of rfl)
    | with_reducible apply State.shootJob_does (hW.of rfl) | with_reducible apply State.jobDone_does (hW.of rfl)
    | with_reducible apply State.jobRefuse_does (hW.of rfl) | with_reducible apply State.accResendAll_does (hW.of rfl)
    | with_reducible apply State.cohEnd_does (hW.of rfl) | with_reducible apply State.issueCmd_does (hW.of rfl) | split
    | (with_reducible refine Does.of_pair (by with_reducible assumption) ?_) | (with_reducible intro _; intros; (try dsimp only)))

theorem State.stepDone_does {W : Nat} (hW : Covers W 0x252BC5BFEEFA4E1E0) {s₀ : State} (j : Nat) (media : List Medium) {s : State} (hk : Does W s₀ s) :
    Does W s₀ (State.stepDone s j media) := by
  unfold State.stepDone
  try dsimp only
  repeat' (first
    | with_reducible assumption | with_reducible apply State.modJob_does (hW.of rfl)
    | with_reducible apply State.modLc_does (hW.of rfl) | with_reducible apply State.accDrop_does (hW.of rfl)
    | with_reducible apply State.endJob_does (hW.of rfl) | with_reducible apply State.ckptsGo_does (hW.of rfl)
    | (with_reducible apply Does.foldl; intro _ _ _) | split | with_reducible apply Does.upd_20000000000000 (hW.of rfl)
    | (with_reducible intro _; intros; (try dsimp only)))

theorem State.noteDiverge_does {W : Nat} (hW : Covers W 0x10000000000080) {s₀ : State} (j i : Nat) (own peer : DWord) {s : State} (hk : Does W s₀ s) :
    Does W s₀ (State.noteDiverge s j i own peer) := by
  unfold State.noteDiverge
  try dsimp only
  repeat' (first
    | with_reducible assumption | with_reducible apply State.fireOn_does (hW.of rfl)
    | with_reducible apply State.modJob_does (hW.of rfl) | split)

theorem State.compareDigests_does {W : Nat} (hW : Covers W 0x252BC5AFCEF84E1E0) {s₀ : State} (j : Nat) :
    ∀ (l0 : List (DWord × Nat)), ∀ {s : State}, Does W s₀ s → Does W s₀ (State.compareDigests s j l0).2 := by
  intro l0
  induction l0 generalizing j with
  | nil =>
    intro s hk
    unfold State.compareDigests
    try dsimp only
    repeat' (first
      | with_reducible assumption | with_reducible apply State.endJob_does (hW.of rfl)
      | with_reducible apply State.noteDiverge_does (hW.of rfl) | split
      | (with_reducible refine Does.of_pair (by with_reducible assumption) ?_))
  | cons x r ih =>
    intro s hk
    unfold State.compareDigests
    try dsimp only
    repeat' (first
      | with_reducible apply ih | with_reducible assumption | with_reducible apply State.endJob_does (hW.of rfl)
      | with_reducible apply State.noteDiverge_does (hW.of rfl) | split
      | (with_reducible refine Does.of_pair (by with_reducible assumption) ?_))

theorem State.pairGo_does {W : Nat} (hW : Covers W 0x252BC5BFEEFA4E1E0) {s₀ : State} (j : Nat) (media : List Medium) {s : State} (hk : Does W s₀ s) :
    Does W s₀ (State.pairGo s j media) := by
  unfold State.pairGo
  try dsimp only
  repeat' (first
    | with_reducible assumption | with_reducible apply State.stepDone_does (hW.of rfl)
    | with_reducible apply State.compareDigests_does (hW.of rfl) | split
    | (with_reducible refine Does.of_pair (by with_reducible assumption) ?_))

theorem State.sendDigests_does {W : Nat} (hW : Covers W 0x2100000000000E1E0) {s₀ : State} (j : Nat) (ds : List DWord) {s : State} (hk : Does W s₀ s) :
    Does W s₀ (State.sendDigests s j ds) := by
  unfold State.sendDigests
  try dsimp only
  repeat' (first
    | with_reducible assumption | with_reducible apply State.sendPair_does (hW.of rfl)
    | (with_reducible apply Does.foldl; intro _ _ _))

theorem State.saveCopies_does {W : Nat} (hW : Covers W 0x4000000000000) {s₀ : State} (j : Nat) {s : State} (hk : Does W s₀ s) :
    Does W s₀ (State.saveCopies s j) := by
  unfold State.saveCopies
  try dsimp only
  repeat' (first
    | with_reducible assumption | with_reducible apply State.modLc_does (hW.of rfl) | (with_reducible apply Does.foldl; intro _ _ _)
    | split)

theorem execBarrierOpen_does {W : Nat} (hW : Covers W 0x252FC5BFEEFA4E1E0) {s₀ : State} (job : BitVec 12) (media : List Medium) {s s₁ : State} (hk : Does W s₀ s) (ht : execBarrierOpen job media s = .next s₁) :
    Does W s₀ s₁ := by
  cases ht
  try dsimp only
  repeat' (first
    | with_reducible assumption | with_reducible apply State.modJob_does (hW.of rfl)
    | with_reducible apply State.lcGoes_does (hW.of rfl) | with_reducible apply State.gateFault_does (hW.of rfl)
    | with_reducible apply State.stepDone_does (hW.of rfl) | with_reducible apply State.pairGo_does (hW.of rfl)
    | with_reducible apply State.sendDigests_does (hW.of rfl) | with_reducible apply State.saveCopies_does (hW.of rfl)
    | (with_reducible apply Does.foldl; intro _ _ _) | with_reducible apply Does.getD | split
    | (with_reducible refine Does.of_pair (by with_reducible assumption) ?_)
    | (with_reducible intro _; intros; (try dsimp only)))

theorem State.admitStart_does {W : Nat} (hW : Covers W 0x252FC5AFCEF84E1E0) {s₀ : State} (h k j i since : Nat) (c : Charge) {s : State} (hk : Does W s₀ s) :
    Does W s₀ (State.admitStart s h k j i since c) := by
  unfold State.admitStart
  try dsimp only
  repeat' (first
    | with_reducible assumption | with_reducible apply State.modPwr_does (hW.of rfl)
    | with_reducible apply State.bump_does (hW.of rfl) | with_reducible apply State.resetCounters_does (hW.of rfl)
    | with_reducible apply State.modLc_does (hW.of rfl) | with_reducible apply State.openGates_does (hW.of rfl) | split
    | (with_reducible intro _; intros; (try dsimp only)))

theorem execSuperstepAdmission_does {W : Nat} (hW : Covers W 0x252FC5AFCEF84E1E0) {s₀ : State} (hub : Fin 8) {s s₁ : State} (hk : Does W s₀ s) (ht : execSuperstepAdmission hub s = .next s₁) :
    Does W s₀ s₁ := by
  cases ht
  try dsimp only
  repeat' (first
    | with_reducible assumption | with_reducible apply State.admitStart_does (hW.of rfl) | split
    | (with_reducible refine Does.of_pair (by with_reducible assumption) ?_))

theorem execSuperstepWatchdog_does {W : Nat} (hW : Covers W 0x252BC5AFCEF84E1E0) {s₀ : State} (job : BitVec 12) {s s₁ : State} (hk : Does W s₀ s) (ht : execSuperstepWatchdog job s = .next s₁) :
    Does W s₀ s₁ := by
  cases ht
  try dsimp only
  repeat' (first | with_reducible assumption | with_reducible apply State.endJob_does (hW.of rfl) | split)

theorem execTimeSliceSave_does {W : Nat} (hW : Covers W 0x400C000000000000) {s₀ : State} (c : CluAt) {s s₁ : State} (hk : Does W s₀ s) (ht : execTimeSliceSave c s = .next s₁) :
    Does W s₀ s₁ := by
  cases ht
  try dsimp only
  repeat' (first
    | with_reducible assumption | with_reducible apply State.modLc_does (hW.of rfl)
    | with_reducible apply State.vacate_does (hW.of rfl) | split
    | (with_reducible refine Does.of_pair (by with_reducible assumption) ?_))

theorem execTimeSliceRestore_does {W : Nat} (hW : Covers W 0xC000000000000) {s₀ : State} (c : CluAt) (job : BitVec 12) (lc : BitVec 10) {s s₁ : State} (hk : Does W s₀ s) (ht : execTimeSliceRestore c job lc s = .next s₁) :
    Does W s₀ s₁ := by
  cases ht
  try dsimp only
  repeat' (first
    | with_reducible assumption | with_reducible apply State.modLc_does (hW.of rfl)
    | with_reducible apply State.modClu_does (hW.of rfl) | with_reducible apply State.clusterClear_does (hW.of rfl) | split
    | (with_reducible intro _; intros; (try dsimp only)))

theorem execPhello_does {W : Nat} (hW : Covers W 0x2121058004000E1E0) {s₀ : State} (src : BitVec 8) (pairId : BitVec 32) (time : BitVec 64) (body : List Byte) {s s₁ : State} (hk : Does W s₀ s) (ht : execPhello src pairId time body s = .next s₁) :
    Does W s₀ s₁ := by
  cases ht
  try dsimp only
  repeat' (first
    | with_reducible assumption | with_reducible apply State.compareHello_does (hW.of rfl) | split
    | (with_reducible refine Does.of_pair (by with_reducible assumption) ?_)
    | with_reducible apply Does.upd_200000000000000 (hW.of rfl))

theorem execPhelloTimeout_does {W : Nat} (hW : Covers W 0x2101058004000E1E0) {s₀ : State} (job : BitVec 12) {s s₁ : State} (hk : Does W s₀ s) (ht : execPhelloTimeout job s = .next s₁) :
    Does W s₀ s₁ := by
  cases ht
  try dsimp only
  repeat' (first
    | with_reducible assumption | with_reducible apply State.helloFail_does (hW.of rfl) | split
    | (with_reducible refine Does.of_pair (by with_reducible assumption) ?_))

theorem execPdigest_does {W : Nat} (hW : Covers W 0x252BC5BFEEFA4E1E0) {s₀ : State} (pairId : BitVec 32) (step : BitVec 20) (firstLc : BitVec 16) (digests : List DWord) (media : List Medium) {s s₁ : State} (hk : Does W s₀ s) (ht : execPdigest pairId step firstLc digests media s = .next s₁) :
    Does W s₀ s₁ := by
  cases ht
  try dsimp only
  repeat' (first
    | with_reducible assumption | with_reducible apply State.modJob_does (hW.of rfl)
    | with_reducible apply State.pairGo_does (hW.of rfl) | (with_reducible apply Does.foldl; intro _ _ _) | split
    | (with_reducible refine Does.of_pair (by with_reducible assumption) ?_))

theorem execPstop_does {W : Nat} (hW : Covers W 0x252BC5AFCEF84E1E0) {s₀ : State} (stop : PairStop) {s s₁ : State} (hk : Does W s₀ s) (ht : execPstop stop s = .next s₁) :
    Does W s₀ s₁ := by
  cases ht
  try dsimp only
  repeat' (first
    | with_reducible assumption | with_reducible apply State.endJob_does (hW.of rfl)
    | with_reducible apply State.launchFail_does (hW.of rfl) | split
    | (with_reducible refine Does.of_pair (by with_reducible assumption) ?_)
    | (with_reducible intro _; intros; (try dsimp only)))

theorem execPairsPeerLost_does {W : Nat} (hW : Covers W 0x252BC5AFCEF84E1E0) {s₀ : State} {s s₁ : State} (hk : Does W s₀ s) (ht : execPairsPeerLost s = .next s₁) :
    Does W s₀ s₁ := by
  cases ht
  try dsimp only
  repeat' (first
    | with_reducible assumption | with_reducible apply State.endJob_does (hW.of rfl) | (with_reducible apply Does.foldl; intro _ _ _)
    | split)

theorem execCheckpointComplete_does {W : Nat} (hW : Covers W 0x210145BFEEFA4E1E0) {s₀ : State} (job : BitVec 12) (media : List Medium) {s s₁ : State} (hk : Does W s₀ s) (ht : execCheckpointComplete job media s = .next s₁) :
    Does W s₀ s₁ := by
  cases ht
  try dsimp only
  repeat' (first
    | with_reducible assumption | with_reducible apply State.modJob_does (hW.of rfl)
    | with_reducible apply State.jobDone_does (hW.of rfl) | with_reducible apply State.accDrop_does (hW.of rfl)
    | with_reducible apply State.accResendAll_does (hW.of rfl) | with_reducible apply State.cohEnd_does (hW.of rfl)
    | with_reducible apply State.ckptsGo_does (hW.of rfl) | split
    | (with_reducible refine Does.of_pair (by with_reducible assumption) ?_)
    | (with_reducible intro _; intros; (try dsimp only)))

theorem State.streamRun_does {W : Nat} (hW : Covers W 0x652BC5AFCEF84E1E0) {s₀ : State} (j i q : Nat) (media : List Medium) {s : State} (hk : Does W s₀ s) :
    Does W s₀ (State.streamRun s j i q media) := by
  unfold State.streamRun
  try dsimp only
  repeat' (first
    | with_reducible assumption | with_reducible apply State.streamGo_does (hW.of rfl)
    | with_reducible apply State.jobFault_does (hW.of rfl) | split
    | (with_reducible refine Does.of_pair (by with_reducible assumption) ?_))

theorem State.copyDesc_does {W : Nat} (hW : Covers W 0x40008000000000000) {s₀ : State} (j i q : Nat) (base p : DWord) (g : VSig) {s : State} (hk : Does W s₀ s) :
    Does W s₀ (State.copyDesc s j i q base p g).2 := by
  unfold State.copyDesc
  try dsimp only
  repeat' (first
    | with_reducible assumption | with_reducible apply State.readStg_does (hW.of rfl) | split
    | (with_reducible refine Does.of_pair (by with_reducible assumption) ?_))

theorem State.queueDesc_does {W : Nat} (hW : Covers W 0x40004000000000000) {s₀ : State} (j i q : Nat) (p : DWord) (d : StreamDesc) {s : State} (hk : Does W s₀ s) :
    Does W s₀ (State.queueDesc s j i q p d) := by
  unfold State.queueDesc
  try dsimp only
  repeat' (first
    | with_reducible assumption | with_reducible apply State.modLc_does (hW.of rfl)
    | with_reducible apply State.spoilFetch_does (hW.of rfl) | (with_reducible apply Does.foldl; intro _ _ _))

theorem execMdesc_does {W : Nat} (hW : Covers W 0x652BC5AFCEF84E1E0) {s₀ : State} (c : CluAt) (stream : Fin 8) (a : Fin 16) (sx : Fin 64) (g : VSig) (media : List Medium) {s s₁ : State} (hk : Does W s₀ s) (ht : execMdesc c stream a sx g media s = .next s₁) :
    Does W s₀ s₁ := by
  cases ht
  try dsimp only
  repeat' (first
    | with_reducible assumption | with_reducible apply State.readS_does (hW.of rfl)
    | with_reducible apply State.issue_does (hW.of rfl) | with_reducible apply State.lcWaits_does (hW.of rfl)
    | with_reducible apply State.lcGoes_does (hW.of rfl) | with_reducible apply State.jobFault_does (hW.of rfl)
    | with_reducible apply State.streamRun_does (hW.of rfl) | with_reducible apply State.copyDesc_does (hW.of rfl)
    | with_reducible apply State.queueDesc_does (hW.of rfl) | with_reducible apply Does.blocked | with_reducible apply Does.done
    | split | (with_reducible refine Does.of_pair (by with_reducible assumption) ?_)
    | (with_reducible refine Does.of_fst (by with_reducible assumption) ?_) | (with_reducible intro _; intros; (try dsimp only)))

theorem State.segBytes_does {W : Nat} (hW : Covers W 0x40000000000000000) {s₀ : State} (x : Seg) {s : State} (hk : Does W s₀ s) :
    Does W s₀ (State.segBytes s x).2 := by
  unfold State.segBytes
  try dsimp only
  repeat' (first
    | with_reducible assumption | with_reducible apply State.spoilBytes_does (hW.of rfl) | split
    | (with_reducible refine Does.of_pair (by with_reducible assumption) ?_)
    | (with_reducible intro _; intros; (try dsimp only)))

theorem State.streamWrite_does {W : Nat} (hW : Covers W 0x4000C000000000000) {s₀ : State} (j i q : Nat) (tainted : Bool) (lo : Nat) (b : List Byte) {s : State} (hk : Does W s₀ s) :
    Does W s₀ (State.streamWrite s j i q tainted lo b) := by
  unfold State.streamWrite
  try dsimp only
  repeat' (first
    | with_reducible assumption | with_reducible apply State.draw_does (hW.of rfl)
    | with_reducible apply State.writeStg_does (hW.of rfl) | split
    | (with_reducible refine Does.of_pair (by with_reducible assumption) ?_))

theorem State.descMove_does {W : Nat} (hW : Covers W 0x4000C000000000000) {s₀ : State} (j i q : Nat) (d : StreamDesc) {s : State} (hk : Does W s₀ s) :
    Does W s₀ (State.descMove s j i q d) := by
  unfold State.descMove
  try dsimp only
  repeat' (first
    | with_reducible assumption | with_reducible apply State.readStg_does (hW.of rfl)
    | with_reducible apply State.segBytes_does (hW.of rfl) | with_reducible apply State.streamWrite_does (hW.of rfl)
    | (with_reducible apply Does.foldl; intro _ _ _) | split
    | (with_reducible refine Does.of_pair (by with_reducible assumption) ?_)
    | (with_reducible intro _; intros; (try dsimp only)))

theorem execDescriptorComplete_does {W : Nat} (hW : Covers W 0x652BC5AFCEF84E1E0) {s₀ : State} (c : CluAt) (stream : Fin 8) (media : List Medium) {s s₁ : State} (hk : Does W s₀ s) (ht : execDescriptorComplete c stream media s = .next s₁) :
    Does W s₀ s₁ := by
  cases ht
  try dsimp only
  repeat' (first
    | with_reducible assumption | with_reducible apply State.bump_does (hW.of rfl)
    | with_reducible apply State.modLc_does (hW.of rfl) | with_reducible apply State.unitDone_does (hW.of rfl)
    | with_reducible apply State.accDrop_does (hW.of rfl) | with_reducible apply State.jobFault_does (hW.of rfl)
    | with_reducible apply State.streamRun_does (hW.of rfl) | with_reducible apply State.descMove_does (hW.of rfl) | split
    | (with_reducible refine Does.of_pair (by with_reducible assumption) ?_))

theorem execStreamRetry_does {W : Nat} (hW : Covers W 0x652BC5AFCEF84E1E0) {s₀ : State} (c : CluAt) (stream : Fin 8) (media : List Medium) {s s₁ : State} (hk : Does W s₀ s) (ht : execStreamRetry c stream media s = .next s₁) :
    Does W s₀ s₁ := by
  cases ht
  try dsimp only
  repeat' (first
    | with_reducible assumption | with_reducible apply State.modDesc_does (hW.of rfl)
    | with_reducible apply State.accDrop_does (hW.of rfl) | with_reducible apply State.streamRun_does (hW.of rfl) | split
    | (with_reducible refine Does.of_pair (by with_reducible assumption) ?_))

theorem State.missGo_does {W : Nat} (hW : Covers W 0x652BC5AFCEF84E1E0) {s₀ : State} (m : Miss) {s : State} (hk : Does W s₀ s) :
    Does W s₀ (State.missGo s m) := by
  unfold State.missGo
  try dsimp only
  repeat' (first | with_reducible assumption | with_reducible apply State.streamRun_does (hW.of rfl))

theorem State.missSeg_does {W : Nat} (hW : Covers W 0x4000000000000) {s₀ : State} (m : Miss) (st : SegState) {s : State} (hk : Does W s₀ s) :
    Does W s₀ (State.missSeg s m st) := by
  unfold State.missSeg
  try dsimp only
  repeat' (first | with_reducible assumption | with_reducible apply State.modSeg_does (hW.of rfl))

theorem State.missLog_does {W : Nat} (hW : Covers W 0x80000000000000) {s₀ : State} (h kind level : Nat) (m : Miss) {s : State} (hk : Does W s₀ s) :
    Does W s₀ (State.missLog s h kind level m) := by
  unfold State.missLog
  try dsimp only
  repeat' (first
    | with_reducible assumption | with_reducible apply State.modTrn_does (hW.of rfl) | split
    | (with_reducible refine Does.of_pair (by with_reducible assumption) ?_)
    | (with_reducible intro _; intros; (try dsimp only)))

theorem State.missStop_does {W : Nat} (hW : Covers W 0x652BC5AFCEF84E1E0) {s₀ : State} (m : Miss) {s : State} (hk : Does W s₀ s) :
    Does W s₀ (State.missStop s m) := by
  unfold State.missStop
  try dsimp only
  repeat' (first
    | with_reducible assumption | with_reducible apply State.jobFault_does (hW.of rfl)
    | with_reducible apply State.missGo_does (hW.of rfl) | with_reducible apply State.missSeg_does (hW.of rfl) | split
    | (with_reducible refine Does.of_pair (by with_reducible assumption) ?_)
    | (with_reducible intro _; intros; (try dsimp only)))

theorem State.missFault_does {W : Nat} (hW : Covers W 0x652BC5AFCEF84E1E0) {s₀ : State} (h kind level : Nat) (m : Miss) {s : State} (hk : Does W s₀ s) :
    Does W s₀ (State.missFault s h kind level m) := by
  unfold State.missFault
  try dsimp only
  repeat' (first
    | with_reducible assumption | with_reducible apply State.missLog_does (hW.of rfl)
    | with_reducible apply State.missStop_does (hW.of rfl))

theorem State.missHold_does {W : Nat} (hW : Covers W 0x652BC5AFCEF84E1E0) {s₀ : State} (h level : Nat) (m : Miss) {s : State} (hk : Does W s₀ s) :
    Does W s₀ (State.missHold s h level m) := by
  unfold State.missHold
  try dsimp only
  repeat' (first
    | with_reducible assumption | with_reducible apply State.modTrn_does (hW.of rfl)
    | with_reducible apply State.missGo_does (hW.of rfl) | with_reducible apply State.missSeg_does (hW.of rfl) | split
    | (with_reducible refine Does.of_pair (by with_reducible assumption) ?_))

theorem State.missEnd_does {W : Nat} (hW : Covers W 0x652BC5AFCEF84E1E0) {s₀ : State} (h va : Nat) (w : WalkEnd) (m : Miss) {s : State} (hk : Does W s₀ s) :
    Does W s₀ (State.missEnd s h va w m) := by
  unfold State.missEnd
  try dsimp only
  repeat' (first
    | with_reducible assumption | with_reducible apply State.modTrn_does (hW.of rfl)
    | with_reducible apply State.missGo_does (hW.of rfl) | with_reducible apply State.missSeg_does (hW.of rfl)
    | with_reducible apply State.missFault_does (hW.of rfl) | with_reducible apply State.missHold_does (hW.of rfl) | split
    | (with_reducible refine Does.of_pair (by with_reducible assumption) ?_))

theorem State.walkEnd_does {W : Nat} (hW : Covers W 0x652BC5AFCEF84E1E0) {s₀ : State} (h : Nat) (w : WalkEnd) (m : Miss) {s : State} (hk : Does W s₀ s) :
    Does W s₀ (State.walkEnd s h w m) := by
  unfold State.walkEnd
  try dsimp only
  repeat' (first
    | with_reducible assumption | with_reducible apply State.modTrn_does (hW.of rfl)
    | with_reducible apply State.missEnd_does (hW.of rfl) | (with_reducible apply Does.foldl; intro _ _ _) | split
    | (with_reducible refine Does.of_pair (by with_reducible assumption) ?_)
    | (with_reducible intro _; intros; (try dsimp only)))

theorem execWalk_does {W : Nat} (hW : Covers W 0x652BC5AFCEF84E1E0) {s₀ : State} (hub : Fin 8) (cluster : Fin 14) (stream : Fin 8) (media : List Medium) {s s₁ : State} (hk : Does W s₀ s) (ht : execWalk hub cluster stream media s = .next s₁) :
    Does W s₀ s₁ := by
  cases ht
  try dsimp only
  repeat' (first
    | with_reducible assumption | with_reducible apply State.walk_does (hW.of rfl)
    | with_reducible apply State.walkEnd_does (hW.of rfl) | split
    | (with_reducible refine Does.of_pair (by with_reducible assumption) ?_)
    | (with_reducible intro _; intros; (try dsimp only)))

theorem State.resolveOn_does {W : Nat} (hW : Covers W 0x84000000000000) {s₀ : State} (hit : FaultRec → Bool) (h : Nat) {s : State} (hk : Does W s₀ s) :
    Does W s₀ (State.resolveOn s hit h) := by
  unfold State.resolveOn
  try dsimp only
  repeat' (first
    | with_reducible assumption | with_reducible apply State.modTrn_does (hW.of rfl)
    | with_reducible apply State.missSeg_does (hW.of rfl) | (with_reducible apply Does.foldl; intro _ _ _))

theorem execRecordResolve_does {W : Nat} (hW : Covers W 0x84000000000000) {s₀ : State} (job : BitVec 12) (base : BitVec 27) (count : BitVec 17) {s s₁ : State} (hk : Does W s₀ s) (ht : execRecordResolve job base count s = .next s₁) :
    Does W s₀ s₁ := by
  cases ht
  try dsimp only
  repeat' (first
    | with_reducible assumption | with_reducible apply State.resolveOn_does (hW.of rfl)
    | (with_reducible apply Does.foldl; intro _ _ _) | split | (with_reducible intro _; intros; (try dsimp only)))

theorem execHoldLimit_does {W : Nat} (hW : Covers W 0x652BC5AFCEF84E1E0) {s₀ : State} (hub : Fin 8) (index : Fin 64) {s s₁ : State} (hk : Does W s₀ s) (ht : execHoldLimit hub index s = .next s₁) :
    Does W s₀ s₁ := by
  cases ht
  try dsimp only
  repeat' (first
    | with_reducible assumption | with_reducible apply State.modTrn_does (hW.of rfl)
    | with_reducible apply State.missLog_does (hW.of rfl) | with_reducible apply State.missStop_does (hW.of rfl)
    | (with_reducible apply Does.foldl; intro _ _ _) | split
    | (with_reducible refine Does.of_pair (by with_reducible assumption) ?_)
    | (with_reducible intro _; intros; (try dsimp only)))

theorem execShootdown_does {W : Nat} (hW : Covers W 0x180000000000000) {s₀ : State} (job : BitVec 12) (scope : Bool) (base : BitVec 27) (count : BitVec 17) {s s₁ : State} (hk : Does W s₀ s) (ht : execShootdown job scope base count s = .next s₁) :
    Does W s₀ s₁ := by
  cases ht
  try dsimp only
  repeat' (first
    | with_reducible assumption | with_reducible apply State.shootdown_does (hW.of rfl) | split
    | with_reducible apply Does.upd_100000000000000 (hW.of rfl))

theorem execShootdownComplete_does {W : Nat} (hW : Covers W 0x211B458000000E1E0) {s₀ : State} {s s₁ : State} (hk : Does W s₀ s) (ht : execShootdownComplete s = .next s₁) :
    Does W s₀ s₁ := by
  cases ht
  try dsimp only
  repeat' (first
    | with_reducible assumption | with_reducible apply State.shootStart_does (hW.of rfl)
    | with_reducible apply State.jobGone_does (hW.of rfl) | split
    | (with_reducible refine Does.of_pair (by with_reducible assumption) ?_)
    | with_reducible apply Does.upd_100000000000000 (hW.of rfl))

theorem execRefresh_does {W : Nat} (hW : Covers W 0x4000000100) {s₀ : State} (hub : Fin 8) (channel : ChanNo) {s s₁ : State} (hk : Does W s₀ s) (ht : execRefresh hub channel s = .next s₁) :
    Does W s₀ s₁ := by
  cases ht
  try dsimp only
  repeat' (first | with_reducible assumption | with_reducible apply State.refreshChan_does (hW.of rfl) | split)

theorem State.chanTemp_does {W : Nat} (hW : Covers W 0xC000024000000000) {s₀ : State} (h c : Nat) (temp : BitVec 8) (trip : Bool) {s : State} (hk : Does W s₀ s) :
    Does W s₀ (State.chanTemp s h c temp trip) := by
  unfold State.chanTemp
  try dsimp only
  repeat' (first
    | with_reducible assumption | with_reducible apply State.modChan_does (hW.of rfl)
    | with_reducible apply State.retrainAsk_does (hW.of rfl) | with_reducible apply State.thermalTrip_does (hW.of rfl)
    | with_reducible apply Does.getD | split | (with_reducible intro _; intros; (try dsimp only)))

theorem execMr4Poll_does {W : Nat} (hW : Covers W 0xC000024000000000) {s₀ : State} (hub : Fin 8) (channel : Fin 2) (temp : BitVec 8) (hot : Bool) {s s₁ : State} (hk : Does W s₀ s) (ht : execMr4Poll hub channel temp hot s = .next s₁) :
    Does W s₀ s₁ := by
  cases ht
  try dsimp only
  repeat' (first | with_reducible assumption | with_reducible apply State.chanTemp_does (hW.of rfl))

theorem execStackSensorPoll_does {W : Nat} (hW : Covers W 0xC000024000000000) {s₀ : State} (hub : Fin 8) (channel : Fin 32) (temp : BitVec 8) {s s₁ : State} (hk : Does W s₀ s) (ht : execStackSensorPoll hub channel temp s = .next s₁) :
    Does W s₀ s₁ := by
  cases ht
  try dsimp only
  repeat' (first | with_reducible assumption | with_reducible apply State.chanTemp_does (hW.of rfl))

theorem execLiveRetrain_does {W : Nat} (hW : Covers W 0x24000000000) {s₀ : State} {s s₁ : State} (hk : Does W s₀ s) (ht : execLiveRetrain s = .next s₁) :
    Does W s₀ s₁ := by
  cases ht
  try dsimp only
  repeat' (first
    | with_reducible assumption | with_reducible apply State.modChan_does (hW.of rfl) | split
    | (with_reducible refine Does.of_pair (by with_reducible assumption) ?_) | with_reducible apply Does.upd_20000000000 (hW.of rfl))

theorem State.chanDone_does {W : Nat} (hW : Covers W 0x400025C00040100) {s₀ : State} (h c : Nat) {s : State} (hk : Does W s₀ s) :
    Does W s₀ (State.chanDone s h c) := by
  unfold State.chanDone
  try dsimp only
  repeat' (first
    | with_reducible assumption | with_reducible apply State.chanHeld_does (hW.of rfl) | split
    | (with_reducible refine Does.of_pair (by with_reducible assumption) ?_)
    | with_reducible apply Does.upd_400000000000000 (hW.of rfl) | with_reducible exact id | with_reducible exact le_rfl
    | with_reducible exact Nat.le_add_right _ _ | with_reducible exact laterSerial_le _ _
    | (with_reducible intro _; intros; (try dsimp only)) | exact Nat.le_refl _)

theorem execRetrainComplete_does {W : Nat} (hW : Covers W 0x214427A5D5144E1EC) {s₀ : State} (sweep : List LaneSweep) {s s₁ : State} (hk : Does W s₀ s) (ht : execRetrainComplete sweep s = .next s₁) :
    Does W s₀ s₁ := by
  cases ht
  try dsimp only
  repeat' (first
    | with_reducible assumption | with_reducible apply State.modChan_does (hW.of rfl)
    | with_reducible apply State.goFatal_does (hW.of rfl) | with_reducible apply State.chanDone_does (hW.of rfl) | split
    | (with_reducible refine Does.of_pair (by with_reducible assumption) ?_)
    | with_reducible apply Does.upd_20000000000 (hW.of rfl) | (with_reducible intro _; intros; (try dsimp only)))

theorem execMemRetrainCmd_does {W : Nat} (hW : Covers W 0x25C00040100) {s₀ : State} (hub : Fin 8) (channel : ChanNo) {s s₁ : State} (hk : Does W s₀ s) (ht : execMemRetrainCmd hub channel s = .next s₁) :
    Does W s₀ s₁ := by
  cases ht
  try dsimp only
  repeat' (first
    | with_reducible assumption | with_reducible apply State.retrainCmd_does (hW.of rfl) | split
    | (with_reducible intro _; intros; (try dsimp only)))

theorem execSrEnter_does {W : Nat} (hW : Covers W 0x4000040000) {s₀ : State} (hub : Fin 8) (channel : ChanNo) {s s₁ : State} (hk : Does W s₀ s) (ht : execSrEnter hub channel s = .next s₁) :
    Does W s₀ s₁ := by
  cases ht
  try dsimp only
  repeat' (first | with_reducible assumption | with_reducible apply State.srEnterCmd_does (hW.of rfl))

theorem execSrExit_does {W : Nat} (hW : Covers W 0x25C00040100) {s₀ : State} (hub : Fin 8) (channel : ChanNo) {s s₁ : State} (hk : Does W s₀ s) (ht : execSrExit hub channel s = .next s₁) :
    Does W s₀ s₁ := by
  cases ht
  try dsimp only
  repeat' (first
    | with_reducible assumption | with_reducible apply State.srExit_does (hW.of rfl) | split
    | (with_reducible intro _; intros; (try dsimp only)))

theorem execSrIdle_does {W : Nat} (hW : Covers W 0x4000040000) {s₀ : State} (hub : Fin 8) (channel : Fin 2) {s s₁ : State} (hk : Does W s₀ s) (ht : execSrIdle hub channel s = .next s₁) :
    Does W s₀ s₁ := by
  cases ht
  try dsimp only
  repeat' (first | with_reducible assumption | with_reducible apply State.srEnterCmd_does (hW.of rfl) | split)

theorem execMigrationComplete_does {W : Nat} (hW : Covers W 0x2CC00040000) {s₀ : State} (hub : Fin 8) (lost : List (BitVec 38)) {s s₁ : State} (hk : Does W s₀ s) (ht : execMigrationComplete hub lost s = .next s₁) :
    Does W s₀ s₁ := by
  cases ht
  try dsimp only
  repeat' (first
    | with_reducible assumption | with_reducible apply State.putPoison_does (hW.of rfl)
    | with_reducible apply State.lineLost_does (hW.of rfl) | (with_reducible apply Does.foldl; intro _ _ _) | split
    | (with_reducible refine Does.of_pair (by with_reducible assumption) ?_)
    | with_reducible apply Does.upd_20000000000 (hW.of rfl) | (with_reducible intro _; intros; (try dsimp only)))

theorem execLiftStart_does {W : Nat} (hW : Covers W 0x100000C0000) {s₀ : State} (slot : Fin 32) (extent : BitVec 16) (cls : BitVec 4) (hubGiven : Bool) (hub : Fin 8) {s s₁ : State} (hk : Does W s₀ s) (ht : execLiftStart slot extent cls hubGiven hub s = .next s₁) :
    Does W s₀ s₁ := by
  cases ht
  try dsimp only
  repeat' (first | with_reducible assumption | with_reducible apply State.liftStart_does (hW.of rfl) | split)

theorem execLiftCancel_does {W : Nat} (hW : Covers W 0x656FC5BFEFFACE1E0) {s₀ : State} (slot : Fin 32) (extent : BitVec 16) {s s₁ : State} (hk : Does W s₀ s) (ht : execLiftCancel slot extent s = .next s₁) :
    Does W s₀ s₁ := by
  cases ht
  try dsimp only
  repeat' (first | with_reducible assumption | with_reducible apply State.liftCancel_does (hW.of rfl) | split)

theorem execLiftBegin_does {W : Nat} (hW : Covers W 0x10000000000) {s₀ : State} {s s₁ : State} (hk : Does W s₀ s) (ht : execLiftBegin s = .next s₁) :
    Does W s₀ s₁ := by
  cases ht
  try dsimp only
  repeat' (first
    | with_reducible assumption | with_reducible apply State.modLift_does (hW.of rfl) | split
    | (with_reducible refine Does.of_pair (by with_reducible assumption) ?_)
    | (with_reducible intro _; intros; (try dsimp only)))

theorem State.markInit_does {W : Nat} (hW : Covers W 0x1000000000) {s₀ : State} (e : Nat) {s : State} (hk : Does W s₀ s) :
    Does W s₀ (State.markInit s e) := by
  unfold State.markInit
  try dsimp only
  repeat' (first
    | with_reducible assumption | (with_reducible apply Does.foldl; intro _ _ _)
    | with_reducible apply Does.upd_1000000000 (hW.of rfl))

theorem State.liftSwitch_does {W : Nat} (hW : Covers W 0x211905BFE6FA4E1E0) {s₀ : State} (e : Nat) (m : Medium) {s : State} (hk : Does W s₀ s) :
    Does W s₀ (State.liftSwitch s e m) := by
  unfold State.liftSwitch
  try dsimp only
  repeat' (first
    | with_reducible assumption | with_reducible apply State.shootExtent_does (hW.of rfl)
    | with_reducible apply State.modLift_does (hW.of rfl) | with_reducible apply State.cohEnd_does (hW.of rfl)
    | with_reducible apply State.atomReleaseExtent_does (hW.of rfl))

theorem execLiftCopyDone_does {W : Nat} (hW : Covers W 0x211905BFE6FA4E1E0) {s₀ : State} (lost : List (BitVec 22)) (med : Medium) {s s₁ : State} (hk : Does W s₀ s) (ht : execLiftCopyDone lost med s = .next s₁) :
    Does W s₀ s₁ := by
  cases ht
  try dsimp only
  repeat' (first
    | with_reducible assumption | with_reducible apply State.modLift_does (hW.of rfl)
    | with_reducible apply State.liftReads_does (hW.of rfl) | with_reducible apply State.cohEnd_does (hW.of rfl)
    | with_reducible apply State.liftSwitch_does (hW.of rfl) | split
    | (with_reducible refine Does.of_pair (by with_reducible assumption) ?_)
    | (with_reducible intro _; intros; (try dsimp only)))

theorem execLiftSwitchPoint_does {W : Nat} (hW : Covers W 0x656FC5BFEFFBCE1E0) {s₀ : State} (med : Medium) {s s₁ : State} (hk : Does W s₀ s) (ht : execLiftSwitchPoint med s = .next s₁) :
    Does W s₀ s₁ := by
  cases ht
  try dsimp only
  repeat' (first
    | with_reducible assumption | with_reducible apply State.modJob_does (hW.of rfl)
    | with_reducible apply State.rebuild_does (hW.of rfl) | with_reducible apply State.uncarve_does (hW.of rfl)
    | with_reducible apply State.release_does (hW.of rfl) | with_reducible apply State.markInit_does (hW.of rfl)
    | (with_reducible apply Does.foldl; intro _ _ _) | split
    | (with_reducible refine Does.of_pair (by with_reducible assumption) ?_)
    | with_reducible apply Does.upd_10000300000 (hW.of rfl) | (with_reducible intro _; intros; (try dsimp only)))

theorem State.patrolled_does {W : Nat} (hW : Covers W 0x2EC00040000) {s₀ : State} (sl : Nat) (m : Medium) {s : State} (hk : Does W s₀ s) :
    Does W s₀ (State.patrolled s sl m) := by
  unfold State.patrolled
  try dsimp only
  repeat' (first
    | with_reducible assumption | with_reducible apply State.corrected_does (hW.of rfl)
    | with_reducible apply State.hardData_does (hW.of rfl) | with_reducible apply State.hardCommand_does (hW.of rfl) | split
    | (with_reducible refine Does.of_pair (by with_reducible assumption) ?_)
    | (with_reducible intro _; intros; (try dsimp only)))

theorem execPatrolRead_does {W : Nat} (hW : Covers W 0x2EC00040100) {s₀ : State} (line : BitVec 38) (m : Medium) (percent : Fin 101) {s s₁ : State} (hk : Does W s₀ s) (ht : execPatrolRead line m percent s = .next s₁) :
    Does W s₀ s₁ := by
  cases ht
  try dsimp only
  repeat' (first
    | with_reducible assumption | with_reducible apply State.bump_does (hW.of rfl)
    | with_reducible apply State.modChan_does (hW.of rfl) | with_reducible apply State.modMemHub_does (hW.of rfl)
    | with_reducible apply State.patrolled_does (hW.of rfl) | (with_reducible apply Does.foldl; intro _ _ _) | split
    | (with_reducible intro _; intros; (try dsimp only)))

theorem State.repairDone_does {W : Nat} (hW : Covers W 0x2A000000000) {s₀ : State} (x : Repair) {s : State} (hk : Does W s₀ s) :
    Does W s₀ (State.repairDone s x) := by
  unfold State.repairDone
  try dsimp only
  repeat' (first
    | with_reducible assumption | with_reducible apply State.modMemHub_does (hW.of rfl)
    | with_reducible apply State.logError_does (hW.of rfl) | with_reducible apply State.logRetire_does (hW.of rfl)
    | with_reducible apply Does.getD | split | (with_reducible refine Does.of_pair (by with_reducible assumption) ?_)
    | with_reducible apply Does.upd_2000000000 (hW.of rfl) | (with_reducible intro _; intros; (try dsimp only)))

theorem execRowRepair_does {W : Nat} (hW : Covers W 0x2EC00040000) {s₀ : State} (lost : List (BitVec 38)) {s s₁ : State} (hk : Does W s₀ s) (ht : execRowRepair lost s = .next s₁) :
    Does W s₀ s₁ := by
  cases ht
  try dsimp only
  repeat' (first
    | with_reducible assumption | with_reducible apply State.putPoison_does (hW.of rfl)
    | with_reducible apply State.exhaust_does (hW.of rfl) | with_reducible apply State.hardData_does (hW.of rfl)
    | with_reducible apply State.lineLost_does (hW.of rfl) | with_reducible apply State.repairDone_does (hW.of rfl)
    | (with_reducible apply Does.foldl; intro _ _ _) | with_reducible apply Does.getD | split
    | (with_reducible refine Does.of_pair (by with_reducible assumption) ?_)
    | with_reducible apply Does.upd_20000000000 (hW.of rfl) | (with_reducible intro _; intros; (try dsimp only)))

theorem execLogAck_does {W : Nat} (hW : Covers W 0x20000000000) {s₀ : State} {s s₁ : State} (hk : Does W s₀ s) (ht : execLogAck s = .next s₁) :
    Does W s₀ s₁ := by
  cases ht
  try dsimp only
  repeat' (first | with_reducible assumption | with_reducible apply State.logAck_does (hW.of rfl))

theorem execPageRetire_does {W : Nat} (hW : Covers W 0x190028C00000000) {s₀ : State} (slot : Fin 32) (page : BitVec 32) {s s₁ : State} (hk : Does W s₀ s) (ht : execPageRetire slot page s = .next s₁) :
    Does W s₀ s₁ := by
  cases ht
  try dsimp only
  repeat' (first
    | with_reducible assumption | with_reducible apply State.pageRetire_does (hW.of rfl) | split
    | with_reducible apply Does.upd_20000000000 (hW.of rfl))

theorem execPageRelease_does {W : Nat} (hW : Covers W 0x20000000000) {s₀ : State} (slot : Fin 32) (page : BitVec 32) {s s₁ : State} (hk : Does W s₀ s) (ht : execPageRelease slot page s = .next s₁) :
    Does W s₀ s₁ := by
  cases ht
  try dsimp only
  repeat' (first
    | with_reducible assumption | with_reducible apply State.pageRelease_does (hW.of rfl) | split
    | with_reducible apply Does.upd_20000000000 (hW.of rfl))

theorem State.pageFilled_does {W : Nat} (hW : Covers W 0x25C00040100) {s₀ : State} {s : State} (hk : Does W s₀ s) :
    Does W s₀ (State.pageFilled s) := by
  unfold State.pageFilled
  try dsimp only
  repeat' (first
    | with_reducible assumption | with_reducible apply State.putFill_does (hW.of rfl)
    | with_reducible apply State.wakeSlot_does (hW.of rfl) | (with_reducible apply Does.foldl; intro _ _ _) | split
    | with_reducible apply Does.upd_20000000000 (hW.of rfl) | (with_reducible intro _; intros; (try dsimp only)))

theorem execFillComplete_does {W : Nat} (hW : Covers W 0x211927A5C06FCE1E0) {s₀ : State} (page : Bool) {s s₁ : State} (hk : Does W s₀ s) (ht : execFillComplete page s = .next s₁) :
    Does W s₀ s₁ := by
  cases ht
  try dsimp only
  repeat' (first
    | with_reducible assumption | with_reducible apply State.carveFilled_does (hW.of rfl)
    | with_reducible apply State.pageFilled_does (hW.of rfl) | split)

theorem execRawWrite_does {W : Nat} (hW : Covers W 0x25C00040100) {s₀ : State} (path : Path) (line : BitVec 22) {s s₁ : State} (hk : Does W s₀ s) (ht : execRawWrite path line s = .next s₁) :
    Does W s₀ s₁ := by
  cases ht
  try dsimp only
  repeat' (first
    | with_reducible assumption | with_reducible apply State.rawWrite_does (hW.of rfl)
    | with_reducible apply Does.upd_20000000000 (hW.of rfl))

theorem execRawRead_does {W : Nat} (hW : Covers W 0x40000025C00040100) {s₀ : State} (path : Path) (line : BitVec 22) (flips : Line × BitVec 128) {s s₁ : State} (hk : Does W s₀ s) (ht : execRawRead path line flips s = .next s₁) :
    Does W s₀ s₁ := by
  cases ht
  try dsimp only
  repeat' (first
    | with_reducible assumption | with_reducible apply State.rawRead_does (hW.of rfl)
    | with_reducible apply Does.upd_20000000000 (hW.of rfl))

theorem State.queRefuse_does {W : Nat} (hW : Covers W 0x2100000000000E1E0) {s₀ : State} (h : BitVec 10) (q : Nat) (reason : BitVec 8) (backoff : BitVec 4) (red : Bool) {s : State} (hk : Does W s₀ s) :
    Does W s₀ (State.queRefuse s h q reason backoff red) := by
  unfold State.queRefuse
  try dsimp only
  repeat' (first
    | with_reducible assumption | with_reducible apply State.emit_does (hW.of rfl)
    | with_reducible apply State.sendPkt_does (hW.of rfl) | split)

theorem State.submitPkt_does {W : Nat} (hW : Covers W 0x6100158000000E1E0) {s₀ : State} (host : BitVec 10) (q : Nat) (e : SubEntry) {s : State} (hk : Does W s₀ s) :
    Does W s₀ (State.submitPkt s host q e) := by
  unfold State.submitPkt
  try dsimp only
  repeat' (first
    | with_reducible assumption | with_reducible apply State.meterArrive_does (hW.of rfl)
    | with_reducible apply State.freeBackoff_does (hW.of rfl) | with_reducible apply State.takeEntry_does (hW.of rfl)
    | with_reducible apply State.queRefuse_does (hW.of rfl) | split
    | (with_reducible refine Does.of_pair (by with_reducible assumption) ?_))

theorem execQueueSubmit_does {W : Nat} (hW : Covers W 0x6100158000000E1E0) {s₀ : State} (host : BitVec 10) (queue : BitVec 14) (entry : SubEntry) {s s₁ : State} (hk : Does W s₀ s) (ht : execQueueSubmit host queue entry s = .next s₁) :
    Does W s₀ s₁ := by
  cases ht
  try dsimp only
  repeat' (first | with_reducible assumption | with_reducible apply State.submitPkt_does (hW.of rfl))

theorem execCqRelease_does {W : Nat} (hW : Covers W 0x6100158000000E1E0) {s₀ : State} (host : BitVec 10) (queue : BitVec 14) (entry : SubEntry) {s s₁ : State} (hk : Does W s₀ s) (ht : execCqRelease host queue entry s = .next s₁) :
    Does W s₀ s₁ := by
  cases ht
  try dsimp only
  repeat' (first | with_reducible assumption | with_reducible apply State.submitPkt_does (hW.of rfl))

theorem execRead_does {W : Nat} (hW : Covers W 0x21000DBFEEFA4E1E0) {s₀ : State} (queue : BitVec 14) (media : List Medium) {s s₁ : State} (hk : Does W s₀ s) (ht : execRead queue media s = .next s₁) :
    Does W s₀ s₁ := by
  cases ht
  try dsimp only
  repeat' (first
    | with_reducible assumption | with_reducible apply State.completeStatus_does (hW.of rfl)
    | with_reducible apply State.startHost_does (hW.of rfl) | with_reducible apply State.cohEnd_does (hW.of rfl)
    | with_reducible apply State.issueCmd_does (hW.of rfl) | split | (with_reducible intro _; intros; (try dsimp only)))

theorem execWrite_does {W : Nat} (hW : Covers W 0x21000D800C000E1E0) {s₀ : State} (queue : BitVec 14) {s s₁ : State} (hk : Does W s₀ s) (ht : execWrite queue s = .next s₁) :
    Does W s₀ s₁ := by
  cases ht
  try dsimp only
  repeat' (first
    | with_reducible assumption | with_reducible apply State.roceSend_does (hW.of rfl)
    | with_reducible apply State.completeStatus_does (hW.of rfl) | with_reducible apply State.startFetch_does (hW.of rfl)
    | with_reducible apply State.issueCmd_does (hW.of rfl) | split | (with_reducible intro _; intros; (try dsimp only)))

theorem execAtomic_does {W : Nat} (hW : Covers W 0x21000DBFEEFA4E1E0) {s₀ : State} (queue : BitVec 14) (med : Medium) {s s₁ : State} (hk : Does W s₀ s) (ht : execAtomic queue med s = .next s₁) :
    Does W s₀ s₁ := by
  cases ht
  try dsimp only
  repeat' (first
    | with_reducible assumption | with_reducible apply State.completeStatus_does (hW.of rfl)
    | with_reducible apply State.startLines_does (hW.of rfl) | with_reducible apply State.cohEnd_does (hW.of rfl)
    | with_reducible apply State.issueCmd_does (hW.of rfl) | with_reducible apply Does.getD | split
    | (with_reducible intro _; intros; (try dsimp only)))

theorem execNop_does {W : Nat} (hW : Covers W 0x21000D8000000E1E0) {s₀ : State} (queue : BitVec 14) {s s₁ : State} (hk : Does W s₀ s) (ht : execNop queue s = .next s₁) :
    Does W s₀ s₁ := by
  cases ht
  try dsimp only
  repeat' (first
    | with_reducible assumption | with_reducible apply State.completeStatus_does (hW.of rfl)
    | with_reducible apply State.issueCmd_does (hW.of rfl) | (with_reducible intro _; intros; (try dsimp only)))

theorem execCompletionWrite_does {W : Nat} (hW : Covers W 0x2100058000000E1E0) {s₀ : State} (queue : BitVec 14) {s s₁ : State} (hk : Does W s₀ s) (ht : execCompletionWrite queue s = .next s₁) :
    Does W s₀ s₁ := by
  cases ht
  try dsimp only
  repeat' (first
    | with_reducible assumption | with_reducible apply State.writeHeld_does (hW.of rfl)
    | with_reducible apply State.tagHeads_does (hW.of rfl) | split)

theorem execYellowPromotion_does {W : Nat} (hW : Covers W 0x400000000000) {s₀ : State} (queue : BitVec 14) {s s₁ : State} (hk : Does W s₀ s) (ht : execYellowPromotion queue s = .next s₁) :
    Does W s₀ s₁ := by
  cases ht
  try dsimp only
  repeat' (first
    | with_reducible assumption | with_reducible apply State.modQueue_does (hW.of rfl) | split
    | (with_reducible refine Does.of_pair (by with_reducible assumption) ?_))

theorem execLoadMeasure_does {W : Nat} (hW : Covers W 0x800000000000) {s₀ : State} (hub : Fin 8) {s s₁ : State} (hk : Does W s₀ s) (ht : execLoadMeasure hub s = .next s₁) :
    Does W s₀ s₁ := by
  cases ht
  try dsimp only
  repeat' (first | with_reducible assumption | split | with_reducible apply Does.upd_800000000000 (hW.of rfl))

end Sys2Proof.Machine
end

