-- ==== Sys2Proof/Laws/DoesSystem.lean ====
section
/-! SUPPORT. DoesSystem.lean: what each operation of sessions, tenancy, firmware and the structure image does (`Does`). -/
namespace Sys2Proof.Machine
open Sys2Proof

theorem State.unpark_does {W : Nat} (hW : Covers W 0x200000000000021E0) {s₀ : State} {s : State} (hk : Does W s₀ s) :
    Does W s₀ (State.unpark s) := by
  unfold State.unpark
  try dsimp only
  repeat' (first
    | with_reducible assumption | with_reducible apply State.modPort_does (hW.of rfl)
    | with_reducible apply State.drainPort_does (hW.of rfl) | (with_reducible apply Does.foldl; intro _ _ _))

theorem State.openSession_does {W : Nat} (hW : Covers W 0x2000200000000400) {s₀ : State} (k : Nat) (x : KmpSession) {s : State} (hk : Does W s₀ s) :
    Does W s₀ (State.openSession s k x) := by
  unfold State.openSession
  try dsimp only
  repeat' (first | with_reducible assumption | with_reducible apply Does.upd_2000200000000400 (hW.of rfl))

theorem execEnrol_does {W : Nat} (hW : Covers W 0x1C00200000000490) {s₀ : State} (path : Path) (slot : Fin 4) (usage : BitVec 4) {s s₁ : State} (hk : Does W s₀ s) (ht : execEnrol path slot usage s = .next s₁) :
    Does W s₀ s₁ := by
  cases ht
  try dsimp only
  repeat' (first | with_reducible assumption | with_reducible apply State.enrol_does (hW.of rfl))

theorem execRevoke_does {W : Nat} (hW : Covers W 0x1C00200000000490) {s₀ : State} (path : Path) (slot : Fin 4) {s s₁ : State} (hk : Does W s₀ s) (ht : execRevoke path slot s = .next s₁) :
    Does W s₀ s₁ := by
  cases ht
  try dsimp only
  repeat' (first | with_reducible assumption | with_reducible apply State.revoke_does (hW.of rfl))

theorem execOpenEpoch_does {W : Nat} (hW : Covers W 0x1400440000000000) {s₀ : State} (path : Path) (carve : Bool) {s s₁ : State} (hk : Does W s₀ s) (ht : execOpenEpoch path carve s = .next s₁) :
    Does W s₀ s₁ := by
  cases ht
  try dsimp only
  repeat' (first | with_reducible assumption | with_reducible apply State.openEpoch_does (hW.of rfl))

theorem State.heldEpochNow_does {W : Nat} (hW : Covers W 0x1400440000000000) {s₀ : State} {s : State} (hk : Does W s₀ s) :
    Does W s₀ (State.heldEpochNow s) := by
  unfold State.heldEpochNow
  try dsimp only
  repeat' (first
    | with_reducible assumption | with_reducible apply State.decideOpen_does (hW.of rfl) | split
    | (with_reducible refine Does.of_pair (by with_reducible assumption) ?_)
    | with_reducible apply Does.upd_400000000000000 (hW.of rfl) | with_reducible exact id | with_reducible exact le_rfl
    | with_reducible exact Nat.le_add_right _ _ | with_reducible exact laterSerial_le _ _
    | (with_reducible intro _; intros; (try dsimp only)) | exact Nat.le_refl _)

theorem execEndEpoch_does {W : Nat} (hW : Covers W 0x253BC5BFEEFB4E1E0) {s₀ : State} (path : Path) (med : Medium) {s s₁ : State} (hk : Does W s₀ s) (ht : execEndEpoch path med s = .next s₁) :
    Does W s₀ s₁ := by
  cases ht
  try dsimp only
  repeat' (first | with_reducible assumption | with_reducible apply State.endEpoch_does (hW.of rfl))

theorem execResurface_does {W : Nat} (hW : Covers W 0x65FFE7FFEFFBCE5F0) {s₀ : State} (path : Path) (med : Medium) {s s₁ : State} (hk : Does W s₀ s) (ht : execResurface path med s = .next s₁) :
    Does W s₀ s₁ := by
  cases ht
  try dsimp only
  repeat' (first | with_reducible assumption | with_reducible apply State.resurface_does (hW.of rfl))

theorem execTenancyEndComplete_does {W : Nat} (hW : Covers W 0x65FFE7FFEFFBCE5F0) {s₀ : State} (med : Medium) {s s₁ : State} (hk : Does W s₀ s) (ht : execTenancyEndComplete med s = .next s₁) :
    Does W s₀ s₁ := by
  cases ht
  try dsimp only
  repeat' (first
    | with_reducible assumption | with_reducible apply State.dropMaps_does (hW.of rfl)
    | with_reducible apply State.resurfaceStart_does (hW.of rfl) | split
    | with_reducible apply Does.upd_100000000000 (hW.of rfl) | with_reducible apply Does.upd_200000000 (hW.of rfl)
    | (with_reducible intro _; intros; (try dsimp only)))

theorem State.fillAll_does {W : Nat} (hW : Covers W 0x25C00040100) {s₀ : State} {s : State} (hk : Does W s₀ s) :
    Does W s₀ (State.fillAll s) := by
  unfold State.fillAll
  try dsimp only
  repeat' (first
    | with_reducible assumption | with_reducible apply State.fillSlot_does (hW.of rfl)
    | (with_reducible apply Does.foldl; intro _ _ _))

theorem execResurfacingComplete_does {W : Nat} (hW : Covers W 0x5049C2DC400403E0) {s₀ : State} (poisoned : List (BitVec 38)) {s s₁ : State} (hk : Does W s₀ s) (ht : execResurfacingComplete poisoned s = .next s₁) :
    Does W s₀ s₁ := by
  cases ht
  try dsimp only
  repeat' (first
    | with_reducible assumption | with_reducible apply State.hardData_does (hW.of rfl)
    | with_reducible apply State.queueInit_does (hW.of rfl) | with_reducible apply State.fillAll_does (hW.of rfl)
    | (with_reducible apply Does.foldl; intro _ _ _) | split | with_reducible apply Does.upd_50498000000003E0 (hW.of rfl)
    | with_reducible exact id | with_reducible exact le_rfl | with_reducible exact Nat.le_add_right _ _
    | with_reducible exact satAdd_le _ _ | (rw [Ten.dropLinks_epoch]) | (with_reducible intro _; intros; (try dsimp only))
    | exact Nat.le_refl _)

theorem State.modSpdm_does {W : Nat} (hW : Covers W 0x1000000000000000) {s₀ : State} (f : SpdmFrom) (g : SpdmSt → SpdmSt) {s : State} (hk : Does W s₀ s) :
    Does W s₀ (State.modSpdm s f g) := by
  unfold State.modSpdm
  try dsimp only
  repeat' (first
    | with_reducible assumption | with_reducible apply Does.upd_1000000000000000 (hW.of rfl) | with_reducible exact id
    | with_reducible exact le_rfl | with_reducible exact Nat.le_add_right _ _ | with_reducible exact satAdd_le _ _
    | (rw [Ten.dropLinks_epoch]) | exact Nat.le_refl _)

theorem State.spdmToHost_does {W : Nat} (hW : Covers W 0x2100000000000E1E0) {s₀ : State} (h : BitVec 10) (r : SpdmResp) {s : State} (hk : Does W s₀ s) :
    Does W s₀ (State.spdmToHost s h r) := by
  unfold State.spdmToHost
  try dsimp only
  repeat' (first
    | with_reducible assumption | with_reducible apply State.emit_does (hW.of rfl)
    | with_reducible apply State.sendPkt_does (hW.of rfl) | (with_reducible apply Does.foldl; intro _ _ _) | split
    | with_reducible apply Does.upd_1000000000000000 (hW.of rfl) | with_reducible exact id | with_reducible exact le_rfl
    | with_reducible exact Nat.le_add_right _ _ | with_reducible exact satAdd_le _ _ | (rw [Ten.dropLinks_epoch])
    | (with_reducible intro _; intros; (try dsimp only)) | exact Nat.le_refl _)

theorem State.spdmToPeer_does {W : Nat} (hW : Covers W 0x2100000000000E1E0) {s₀ : State} (d : BitVec 8) (r : SpdmResp) {s : State} (hk : Does W s₀ s) :
    Does W s₀ (State.spdmToPeer s d r) := by
  unfold State.spdmToPeer
  try dsimp only
  repeat' (first
    | with_reducible assumption | with_reducible apply State.emit_does (hW.of rfl)
    | with_reducible apply State.sendPkt_does (hW.of rfl) | (with_reducible apply Does.foldl; intro _ _ _) | split
    | with_reducible apply Does.upd_1000000000000000 (hW.of rfl) | with_reducible exact id | with_reducible exact le_rfl
    | with_reducible exact Nat.le_add_right _ _ | with_reducible exact satAdd_le _ _ | (rw [Ten.dropLinks_epoch])
    | (with_reducible intro _; intros; (try dsimp only)) | exact Nat.le_refl _)

theorem State.peerSend_does {W : Nat} (hW : Covers W 0x2100000000000E1E0) {s₀ : State} (d : BitVec 8) (r : SpdmResp) {s : State} (hk : Does W s₀ s) :
    Does W s₀ (State.peerSend s d r) := by
  unfold State.peerSend
  repeat' (first | with_reducible assumption | with_reducible apply State.spdmToPeer_does (hW.of rfl) | split)

theorem State.dropFrags_does {W : Nat} (hW : Covers W 0x1000000000000000) {s₀ : State} (h : BitVec 10) {s : State} (hk : Does W s₀ s) :
    Does W s₀ (State.dropFrags s h) := by
  unfold State.dropFrags
  try dsimp only
  repeat' (first
    | with_reducible assumption | with_reducible apply Does.upd_1000000000000000 (hW.of rfl) | with_reducible exact id
    | with_reducible exact le_rfl | with_reducible exact Nat.le_add_right _ _ | with_reducible exact satAdd_le _ _
    | (rw [Ten.dropLinks_epoch]) | exact Nat.le_refl _)

theorem State.spdmServe_does {W : Nat} (hW : Covers W 0x2140328000000E1E0) {s₀ : State} (c : SpdmCarrier) (perform : SpdmFrom → Option Nat → State → SpdmAnswer × State) {s : State} (hk : Does W s₀ s)
    (hf_perform : ∀ (v0 : SpdmFrom) (v1 : Option Nat) (v2 : State), Does W s₀ v2 → Does W s₀ (perform v0 v1 v2).2) :
    Does W s₀ (State.spdmServe s c perform) := by
  unfold State.spdmServe
  try dsimp only
  repeat' (first
    | with_reducible assumption | with_reducible apply State.kmpSend_does (hW.of rfl)
    | with_reducible apply State.kmpArrive_does (hW.of rfl) | with_reducible apply State.kmpRequest_does (hW.of rfl)
    | with_reducible apply State.spdmToHost_does (hW.of rfl) | with_reducible apply State.peerSend_does (hW.of rfl)
    | with_reducible apply State.dropFrags_does (hW.of rfl) | with_reducible apply hf_perform | split
    | (with_reducible refine Does.of_pair (by with_reducible assumption) ?_)
    | (with_reducible refine Does.of_fst (by with_reducible assumption) ?_)
    | refine State.kmpArrive_some (hW := hW.of rfl) (hk := ?_) (ht := by with_reducible assumption)
    | (with_reducible intro _; intros; (try dsimp only)))

theorem State.spdmNegotiated_does {W : Nat} (hW : Covers W 0x0) {s₀ : State} (f : SpdmFrom) (ses : Option Nat) (r : State → SpdmAnswer × State) {s : State} (hk : Does W s₀ s)
    (hf_r : ∀ (v0 : State), Does W s₀ v0 → Does W s₀ (r v0).2) :
    Does W s₀ (State.spdmNegotiated s f ses r).2 := by
  unfold State.spdmNegotiated
  try dsimp only
  repeat' (first
    | with_reducible assumption | with_reducible apply hf_r | split
    | (with_reducible refine Does.of_pair (by with_reducible assumption) ?_) | (with_reducible intro _; intros; (try dsimp only)))

theorem execGetVersion_does {W : Nat} (hW : Covers W 0x2140328000000E1E0) {s₀ : State} (c : SpdmCarrier) {s s₁ : State} (hk : Does W s₀ s) (ht : execGetVersion c s = .next s₁) :
    Does W s₀ s₁ := by
  cases ht
  try dsimp only
  repeat' (first
    | with_reducible assumption | with_reducible apply State.modSpdm_does (hW.of rfl)
    | with_reducible apply State.spdmServe_does (hW.of rfl) | (with_reducible intro _; intros; (try dsimp only)))

theorem execGetCapabilities_does {W : Nat} (hW : Covers W 0x2140328000000E1E0) {s₀ : State} (c : SpdmCarrier) {s s₁ : State} (hk : Does W s₀ s) (ht : execGetCapabilities c s = .next s₁) :
    Does W s₀ s₁ := by
  cases ht
  try dsimp only
  repeat' (first
    | with_reducible assumption | with_reducible apply State.modSpdm_does (hW.of rfl)
    | with_reducible apply State.spdmServe_does (hW.of rfl) | split | (with_reducible intro _; intros; (try dsimp only)))

theorem execNegotiateAlgorithms_does {W : Nat} (hW : Covers W 0x2140328000000E1E0) {s₀ : State} (c : SpdmCarrier) (common : Bool) {s s₁ : State} (hk : Does W s₀ s) (ht : execNegotiateAlgorithms c common s = .next s₁) :
    Does W s₀ s₁ := by
  cases ht
  try dsimp only
  repeat' (first
    | with_reducible assumption | with_reducible apply State.modSpdm_does (hW.of rfl)
    | with_reducible apply State.spdmServe_does (hW.of rfl) | split | (with_reducible intro _; intros; (try dsimp only)))

theorem execGetDigests_does {W : Nat} (hW : Covers W 0x2140328000000E1E0) {s₀ : State} (c : SpdmCarrier) {s s₁ : State} (hk : Does W s₀ s) (ht : execGetDigests c s = .next s₁) :
    Does W s₀ s₁ := by
  cases ht
  try dsimp only
  repeat' (first
    | with_reducible assumption | with_reducible apply State.spdmServe_does (hW.of rfl)
    | with_reducible apply State.spdmNegotiated_does (hW.of rfl) | split
    | (with_reducible refine Does.of_pair (by with_reducible assumption) ?_)
    | (with_reducible intro _; intros; (try dsimp only)))

theorem execGetCertificate_does {W : Nat} (hW : Covers W 0x2140328000000E1E0) {s₀ : State} (c : SpdmCarrier) (slot : Fin 16) (offset length : BitVec 16) {s s₁ : State} (hk : Does W s₀ s) (ht : execGetCertificate c slot offset length s = .next s₁) :
    Does W s₀ s₁ := by
  cases ht
  try dsimp only
  repeat' (first
    | with_reducible assumption | with_reducible apply State.spdmServe_does (hW.of rfl)
    | with_reducible apply State.spdmNegotiated_does (hW.of rfl) | split
    | (with_reducible refine Does.of_pair (by with_reducible assumption) ?_) | (with_reducible intro _; intros; (try dsimp only)))

theorem execChallenge_does {W : Nat} (hW : Covers W 0x6140328000000E1E0) {s₀ : State} (c : SpdmCarrier) (slot : Fin 16) (nonce : BitVec 256) {s s₁ : State} (hk : Does W s₀ s) (ht : execChallenge c slot nonce s = .next s₁) :
    Does W s₀ s₁ := by
  cases ht
  try dsimp only
  repeat' (first
    | with_reducible assumption | with_reducible apply State.draw_does (hW.of rfl)
    | with_reducible apply State.spdmServe_does (hW.of rfl) | with_reducible apply State.spdmNegotiated_does (hW.of rfl) | split
    | (with_reducible refine Does.of_pair (by with_reducible assumption) ?_) | (with_reducible intro _; intros; (try dsimp only)))

theorem State.spdmSized_does {W : Nat} (hW : Covers W 0x1000000000000000) {s₀ : State} (f : SpdmFrom) (size : Nat) (r : SpdmResp) {s : State} (hk : Does W s₀ s) :
    Does W s₀ (State.spdmSized s f size r).2 := by
  unfold State.spdmSized
  try dsimp only
  repeat' (first
    | with_reducible assumption | with_reducible apply State.modSpdm_does (hW.of rfl) | split
    | (with_reducible refine Does.of_pair (by with_reducible assumption) ?_)
    | with_reducible apply Does.upd_1000000000000000 (hW.of rfl) | with_reducible exact id | with_reducible exact le_rfl
    | with_reducible exact Nat.le_add_right _ _ | with_reducible exact satAdd_le _ _ | (rw [Ten.dropLinks_epoch])
    | (with_reducible intro _; intros; (try dsimp only)) | exact Nat.le_refl _)

theorem execGetMeasurements_does {W : Nat} (hW : Covers W 0x6140328000000E1E0) {s₀ : State} (c : SpdmCarrier) (index : BitVec 8) (sign : Bool) (nonce : BitVec 256) {s s₁ : State} (hk : Does W s₀ s) (ht : execGetMeasurements c index sign nonce s = .next s₁) :
    Does W s₀ s₁ := by
  cases ht
  try dsimp only
  repeat' (first
    | with_reducible assumption | with_reducible apply State.draw_does (hW.of rfl)
    | with_reducible apply State.spdmServe_does (hW.of rfl) | with_reducible apply State.spdmNegotiated_does (hW.of rfl)
    | with_reducible apply State.spdmSized_does (hW.of rfl) | (with_reducible apply Does.foldl; intro _ _ _) | split
    | (with_reducible refine Does.of_pair (by with_reducible assumption) ?_) | (with_reducible intro _; intros; (try dsimp only)))

theorem execKeyExchange_does {W : Nat} (hW : Covers W 0x6140328000000E1E0) {s₀ : State} (c : SpdmCarrier) (reqSid : BitVec 16) (both : Bool) {s s₁ : State} (hk : Does W s₀ s) (ht : execKeyExchange c reqSid both s = .next s₁) :
    Does W s₀ s₁ := by
  cases ht
  try dsimp only
  repeat' (first
    | with_reducible assumption | with_reducible apply State.draw_does (hW.of rfl)
    | with_reducible apply State.modSpdm_does (hW.of rfl) | with_reducible apply State.spdmServe_does (hW.of rfl) | split
    | (with_reducible refine Does.of_pair (by with_reducible assumption) ?_)
    | with_reducible apply Does.upd_1000000000000000 (hW.of rfl) | with_reducible exact id | with_reducible exact le_rfl
    | with_reducible exact Nat.le_add_right _ _ | with_reducible exact satAdd_le _ _ | (rw [Ten.dropLinks_epoch])
    | (with_reducible intro _; intros; (try dsimp only)) | exact Nat.le_refl _)

theorem State.restartHost_does {W : Nat} (hW : Covers W 0x100000000000E000) {s₀ : State} (h : Nat) {s : State} (hk : Does W s₀ s) :
    Does W s₀ (State.restartHost s h) := by
  unfold State.restartHost
  try dsimp only
  repeat' (first
    | with_reducible assumption | with_reducible apply State.modHost_does (hW.of rfl)
    | with_reducible apply Does.upd_1000000000006000 (hW.of rfl) | with_reducible exact id | with_reducible exact le_rfl
    | with_reducible exact Nat.le_add_right _ _ | with_reducible exact satAdd_le _ _ | (rw [Ten.dropLinks_epoch])
    | exact Nat.le_refl _)

theorem execFinish_does {W : Nat} (hW : Covers W 0x6340328000000E5E0) {s₀ : State} (c : SpdmCarrier) (macOk sigOk : Bool) {s s₁ : State} (hk : Does W s₀ s) (ht : execFinish c macOk sigOk s = .next s₁) :
    Does W s₀ s₁ := by
  cases ht
  try dsimp only
  repeat' (first
    | with_reducible assumption | with_reducible apply State.draw_does (hW.of rfl)
    | with_reducible apply State.openSession_does (hW.of rfl) | with_reducible apply State.modSpdm_does (hW.of rfl)
    | with_reducible apply State.spdmServe_does (hW.of rfl) | with_reducible apply State.restartHost_does (hW.of rfl) | split
    | (with_reducible refine Does.of_pair (by with_reducible assumption) ?_)
    | with_reducible apply Does.upd_1000000000000000 (hW.of rfl) | with_reducible exact id | with_reducible exact le_rfl
    | with_reducible exact Nat.le_add_right _ _ | with_reducible exact satAdd_le _ _ | (rw [Ten.dropLinks_epoch])
    | (with_reducible intro _; intros; (try dsimp only)) | exact Nat.le_refl _)

theorem execGetEncapsulatedRequest_does {W : Nat} (hW : Covers W 0x2140328000000E1E0) {s₀ : State} (c : SpdmCarrier) {s s₁ : State} (hk : Does W s₀ s) (ht : execGetEncapsulatedRequest c s = .next s₁) :
    Does W s₀ s₁ := by
  cases ht
  try dsimp only
  repeat' (first
    | with_reducible assumption | with_reducible apply State.spdmServe_does (hW.of rfl) | split
    | (with_reducible refine Does.of_pair (by with_reducible assumption) ?_) | (with_reducible intro _; intros; (try dsimp only)))

theorem State.takeChain_does {W : Nat} (hW : Covers W 0x1000000000000000) {s₀ : State} (f : SpdmFrom) (root : BitVec 4096) (certs : Nat) (valid : Bool) {s : State} (hk : Does W s₀ s) :
    Does W s₀ (State.takeChain s f root certs valid).2 := by
  unfold State.takeChain
  try dsimp only
  repeat' (first
    | with_reducible assumption | with_reducible apply State.modSpdm_does (hW.of rfl) | split
    | (with_reducible refine Does.of_pair (by with_reducible assumption) ?_))

theorem execDeliverEncapsulatedResponse_does {W : Nat} (hW : Covers W 0x2140328000000E1E0) {s₀ : State} (c : SpdmCarrier) (root : BitVec 4096) (certs : BitVec 4) (valid : Bool) {s s₁ : State} (hk : Does W s₀ s) (ht : execDeliverEncapsulatedResponse c root certs valid s = .next s₁) :
    Does W s₀ s₁ := by
  cases ht
  try dsimp only
  repeat' (first
    | with_reducible assumption | with_reducible apply State.spdmServe_does (hW.of rfl)
    | with_reducible apply State.takeChain_does (hW.of rfl) | split
    | (with_reducible refine Does.of_pair (by with_reducible assumption) ?_)
    | (with_reducible intro _; intros; (try dsimp only)))

theorem execHeartbeat_does {W : Nat} (hW : Covers W 0x2140328000000E1E0) {s₀ : State} (c : SpdmCarrier) {s s₁ : State} (hk : Does W s₀ s) (ht : execHeartbeat c s = .next s₁) :
    Does W s₀ s₁ := by
  cases ht
  try dsimp only
  repeat' (first
    | with_reducible assumption | with_reducible apply State.spdmServe_does (hW.of rfl) | split
    | (with_reducible intro _; intros; (try dsimp only)))

theorem execKeyUpdate_does {W : Nat} (hW : Covers W 0x2140328000000E1E0) {s₀ : State} (c : SpdmCarrier) {s s₁ : State} (hk : Does W s₀ s) (ht : execKeyUpdate c s = .next s₁) :
    Does W s₀ s₁ := by
  cases ht
  try dsimp only
  repeat' (first
    | with_reducible assumption | with_reducible apply State.spdmServe_does (hW.of rfl) | split
    | (with_reducible intro _; intros; (try dsimp only)))

theorem execEndSession_does {W : Nat} (hW : Covers W 0x21C0328000000E5F0) {s₀ : State} (c : SpdmCarrier) {s s₁ : State} (hk : Does W s₀ s) (ht : execEndSession c s = .next s₁) :
    Does W s₀ s₁ := by
  cases ht
  try dsimp only
  repeat' (first
    | with_reducible assumption | with_reducible apply State.endSession_does (hW.of rfl)
    | with_reducible apply State.spdmServe_does (hW.of rfl) | split
    | (with_reducible refine Does.of_pair (by with_reducible assumption) ?_) | (with_reducible intro _; intros; (try dsimp only)))

theorem execChunkSend_does {W : Nat} (hW : Covers W 0x2140328000000E1E0) {s₀ : State} (c : SpdmCarrier) (handle : BitVec 8) (seq : BitVec 16) (data : List Byte) (last : Bool) (root : BitVec 4096) (certs : BitVec 4) (valid : Bool) {s s₁ : State} (hk : Does W s₀ s) (ht : execChunkSend c handle seq data last root certs valid s = .next s₁) :
    Does W s₀ s₁ := by
  cases ht
  try dsimp only
  repeat' (first
    | with_reducible assumption | with_reducible apply State.modSpdm_does (hW.of rfl)
    | with_reducible apply State.spdmServe_does (hW.of rfl) | with_reducible apply State.spdmNegotiated_does (hW.of rfl)
    | with_reducible apply State.takeChain_does (hW.of rfl) | split
    | (with_reducible refine Does.of_pair (by with_reducible assumption) ?_) | (with_reducible intro _; intros; (try dsimp only)))

theorem execChunkGet_does {W : Nat} (hW : Covers W 0x2140328000000E1E0) {s₀ : State} (c : SpdmCarrier) (handle : BitVec 8) (seq : BitVec 16) {s s₁ : State} (hk : Does W s₀ s) (ht : execChunkGet c handle seq s = .next s₁) :
    Does W s₀ s₁ := by
  cases ht
  try dsimp only
  repeat' (first
    | with_reducible assumption | with_reducible apply State.modSpdm_does (hW.of rfl)
    | with_reducible apply State.spdmServe_does (hW.of rfl) | with_reducible apply State.spdmNegotiated_does (hW.of rfl) | split
    | (with_reducible refine Does.of_pair (by with_reducible assumption) ?_) | (with_reducible intro _; intros; (try dsimp only)))

theorem execUnsupportedSpdmRequest_does {W : Nat} (hW : Covers W 0x2140328000000E1E0) {s₀ : State} (c : SpdmCarrier) {s s₁ : State} (hk : Does W s₀ s) (ht : execUnsupportedSpdmRequest c s = .next s₁) :
    Does W s₀ s₁ := by
  cases ht
  try dsimp only
  repeat' (first
    | with_reducible assumption | with_reducible apply State.spdmServe_does (hW.of rfl)
    | (with_reducible intro _; intros; (try dsimp only)))

theorem execSpdmFragment_does {W : Nat} (hW : Covers W 0x1000000000000000) {s₀ : State} (host : BitVec 10) (index : BitVec 8) (last : Bool) (mseq : BitVec 24) (data : List Byte) {s s₁ : State} (hk : Does W s₀ s) (ht : execSpdmFragment host index last mseq data s = .next s₁) :
    Does W s₀ s₁ := by
  cases ht
  try dsimp only
  repeat' (first
    | with_reducible assumption | split | (with_reducible refine Does.of_pair (by with_reducible assumption) ?_)
    | with_reducible apply Does.upd_1000000000000000 (hW.of rfl) | with_reducible exact id | with_reducible exact le_rfl
    | with_reducible exact Nat.le_add_right _ _ | with_reducible exact satAdd_le _ _ | (rw [Ten.dropLinks_epoch])
    | (with_reducible intro _; intros; (try dsimp only)) | exact Nat.le_refl _)

theorem State.takeTag_does {W : Nat} (hW : Covers W 0x2100000000002E1E0) {s₀ : State} (t : SealTag) {s : State} (hk : Does W s₀ s) :
    Does W s₀ (State.takeTag s t) := by
  unfold State.takeTag
  try dsimp only
  repeat' (first
    | with_reducible assumption | with_reducible apply State.verifySealed_does (hW.of rfl) | split
    | (with_reducible refine Does.of_pair (by with_reducible assumption) ?_)
    | with_reducible apply Does.upd_1000000000000000 (hW.of rfl) | with_reducible exact id | with_reducible exact le_rfl
    | with_reducible exact Nat.le_add_right _ _ | with_reducible exact satAdd_le _ _ | (rw [Ten.dropLinks_epoch])
    | (with_reducible intro _; intros; (try dsimp only)) | exact Nat.le_refl _)

theorem State.pruneTags_does {W : Nat} (hW : Covers W 0x1000000000000000) {s₀ : State} {s : State} (hk : Does W s₀ s) :
    Does W s₀ (State.pruneTags s) := by
  unfold State.pruneTags
  try dsimp only
  repeat' (first
    | with_reducible assumption | with_reducible apply Does.upd_1000000000000000 (hW.of rfl) | with_reducible exact id
    | with_reducible exact le_rfl | with_reducible exact Nat.le_add_right _ _ | with_reducible exact satAdd_le _ _
    | (rw [Ten.dropLinks_epoch]) | exact Nat.le_refl _)

theorem execSeal_does {W : Nat} (hW : Covers W 0x2100000000002E1E0) {s₀ : State} (host : BitVec 10) (alvc : BitVec 3) (tseq : BitVec 24) (lap : BitVec 40) (tags : List (BitVec 128)) {s s₁ : State} (hk : Does W s₀ s) (ht : execSeal host alvc tseq lap tags s = .next s₁) :
    Does W s₀ s₁ := by
  cases ht
  try dsimp only
  repeat' (first
    | with_reducible assumption | with_reducible apply State.takeTag_does (hW.of rfl)
    | with_reducible apply State.pruneTags_does (hW.of rfl) | (with_reducible apply Does.foldl; intro _ _ _) | split)

theorem execSealSend_does {W : Nat} (hW : Covers W 0x2100000000000E1E0) {s₀ : State} (host : BitVec 10) (lvc : BitVec 3) {s s₁ : State} (hk : Does W s₀ s) (ht : execSealSend host lvc s = .next s₁) :
    Does W s₀ s₁ := by
  cases ht
  try dsimp only
  repeat' (first
    | with_reducible assumption | with_reducible apply State.emit_does (hW.of rfl)
    | with_reducible apply State.sendPkt_does (hW.of rfl) | split
    | (with_reducible refine Does.of_pair (by with_reducible assumption) ?_)
    | with_reducible apply Does.upd_1000000000000000 (hW.of rfl) | with_reducible exact id | with_reducible exact le_rfl
    | with_reducible exact Nat.le_add_right _ _ | with_reducible exact satAdd_le _ _ | (rw [Ten.dropLinks_epoch])
    | (with_reducible intro _; intros; (try dsimp only)) | exact Nat.le_refl _)

theorem execFwOpen_does {W : Nat} (hW : Covers W 0x800000000000000) {s₀ : State} (path : Path) {s s₁ : State} (hk : Does W s₀ s) (ht : execFwOpen path s = .next s₁) :
    Does W s₀ s₁ := by
  cases ht
  try dsimp only
  repeat' (first | with_reducible assumption | with_reducible apply State.fwOpen_does (hW.of rfl))

theorem execVerify_does {W : Nat} (hW : Covers W 0x800000000000000) {s₀ : State} (path : Path) {s s₁ : State} (hk : Does W s₀ s) (ht : execVerify path s = .next s₁) :
    Does W s₀ s₁ := by
  cases ht
  try dsimp only
  repeat' (first | with_reducible assumption | with_reducible apply State.fwVerifyCmd_does (hW.of rfl))

theorem execVerifyComplete_does {W : Nat} (hW : Covers W 0x800000000000000) {s₀ : State} (equal : Bool) {s s₁ : State} (hk : Does W s₀ s) (ht : execVerifyComplete equal s = .next s₁) :
    Does W s₀ s₁ := by
  cases ht
  try dsimp only
  repeat' (first
    | with_reducible assumption | with_reducible apply State.modFw_does (hW.of rfl) | split
    | (with_reducible intro _; intros; (try dsimp only)) | exact fun _ => Nat.le_refl _ | exact fun _ => laterSerial_le _ _
    | exact laterSerial_le _ _ | exact Nat.le_refl _)

theorem execStart_does {W : Nat} (hW : Covers W 0x800000000000000) {s₀ : State} (path : Path) {s s₁ : State} (hk : Does W s₀ s) (ht : execStart path s = .next s₁) :
    Does W s₀ s₁ := by
  cases ht
  try dsimp only
  repeat' (first | with_reducible assumption | with_reducible apply State.fwStart_does (hW.of rfl))

theorem execHubControllerRestart_does {W : Nat} (hW : Covers W 0x800000000000008) {s₀ : State} {s s₁ : State} (hk : Does W s₀ s) (ht : execHubControllerRestart s = .next s₁) :
    Does W s₀ s₁ := by
  cases ht
  try dsimp only
  repeat' (first
    | with_reducible assumption | with_reducible apply State.modHub_does (hW.of rfl)
    | with_reducible apply State.modFw_does (hW.of rfl) | split
    | (with_reducible refine Does.of_pair (by with_reducible assumption) ?_)
    | (with_reducible intro _; intros; (try dsimp only)) | exact fun _ => Nat.le_refl _ | exact fun _ => laterSerial_le _ _
    | exact laterSerial_le _ _ | exact Nat.le_refl _)

theorem execHubControllerRunning_does {W : Nat} (hW : Covers W 0x800000000000008) {s₀ : State} {s s₁ : State} (hk : Does W s₀ s) (ht : execHubControllerRunning s = .next s₁) :
    Does W s₀ s₁ := by
  cases ht
  try dsimp only
  repeat' (first
    | with_reducible assumption | with_reducible apply State.modHub_does (hW.of rfl)
    | with_reducible apply State.modFw_does (hW.of rfl) | with_reducible apply State.fwGo_does (hW.of rfl) | split
    | (with_reducible refine Does.of_pair (by with_reducible assumption) ?_)
    | (with_reducible intro _; intros; (try dsimp only)) | exact fun _ => Nat.le_refl _ | exact fun _ => laterSerial_le _ _
    | exact laterSerial_le _ _ | exact Nat.le_refl _)

theorem execYieldWaitExpired_does {W : Nat} (hW : Covers W 0x800000000000000) {s₀ : State} {s s₁ : State} (hk : Does W s₀ s) (ht : execYieldWaitExpired s = .next s₁) :
    Does W s₀ s₁ := by
  cases ht
  try dsimp only
  repeat' (first
    | with_reducible assumption | with_reducible apply State.modFw_does (hW.of rfl) | split
    | (with_reducible intro _; intros; (try dsimp only)) | exact fun _ => Nat.le_refl _ | exact fun _ => laterSerial_le _ _
    | exact laterSerial_le _ _ | exact Nat.le_refl _)

theorem execSpRestart_does {W : Nat} (hW : Covers W 0x800000000000000) {s₀ : State} {s s₁ : State} (hk : Does W s₀ s) (ht : execSpRestart s = .next s₁) :
    Does W s₀ s₁ := by
  cases ht
  try dsimp only
  repeat' (first
    | with_reducible assumption | with_reducible apply State.modFw_does (hW.of rfl) | split
    | (with_reducible intro _; intros; (try dsimp only)) | exact fun _ => Nat.le_refl _ | exact fun _ => laterSerial_le _ _
    | exact laterSerial_le _ _ | exact Nat.le_refl _)

theorem execSpRunning_does {W : Nat} (hW : Covers W 0x800000000000000) {s₀ : State} {s s₁ : State} (hk : Does W s₀ s) (ht : execSpRunning s = .next s₁) :
    Does W s₀ s₁ := by
  cases ht
  try dsimp only
  repeat' (first
    | with_reducible assumption | with_reducible apply State.modFw_does (hW.of rfl)
    | with_reducible apply State.fwGo_does (hW.of rfl) | split
    | (with_reducible refine Does.of_pair (by with_reducible assumption) ?_)
    | (with_reducible intro _; intros; (try dsimp only)) | exact fun _ => Nat.le_refl _ | exact fun _ => laterSerial_le _ _
    | exact laterSerial_le _ _ | exact Nat.le_refl _)

theorem execFwRestartTimeout_does {W : Nat} (hW : Covers W 0x800000000000000) {s₀ : State} {s s₁ : State} (hk : Does W s₀ s) (ht : execFwRestartTimeout s = .next s₁) :
    Does W s₀ s₁ := by
  cases ht
  try dsimp only
  repeat' (first
    | with_reducible assumption | with_reducible apply State.modFw_does (hW.of rfl)
    | with_reducible apply State.fwReturn_does (hW.of rfl) | split
    | (with_reducible refine Does.of_pair (by with_reducible assumption) ?_)
    | (with_reducible intro _; intros; (try dsimp only)) | exact fun _ => Nat.le_refl _ | exact fun _ => laterSerial_le _ _
    | exact laterSerial_le _ _ | exact Nat.le_refl _)

theorem execConfirmationComplete_does {W : Nat} (hW : Covers W 0x800000000000000) {s₀ : State} {s s₁ : State} (hk : Does W s₀ s) (ht : execConfirmationComplete s = .next s₁) :
    Does W s₀ s₁ := by
  cases ht
  try dsimp only
  repeat' (first
    | with_reducible assumption | with_reducible apply State.modFw_does (hW.of rfl) | split
    | (with_reducible refine Does.of_pair (by with_reducible assumption) ?_)
    | (with_reducible intro _; intros; (try dsimp only)) | exact fun _ => Nat.le_refl _ | exact fun _ => laterSerial_le _ _
    | exact laterSerial_le _ _ | exact Nat.le_refl _ | bv_omega)

theorem execAbort_does {W : Nat} (hW : Covers W 0x800000000000000) {s₀ : State} (path : Path) {s s₁ : State} (hk : Does W s₀ s) (ht : execAbort path s = .next s₁) :
    Does W s₀ s₁ := by
  cases ht
  try dsimp only
  repeat' (first | with_reducible assumption | with_reducible apply State.fwAbort_does (hW.of rfl))

theorem execRollback_does {W : Nat} (hW : Covers W 0x800000000000000) {s₀ : State} (path : Path) {s s₁ : State} (hk : Does W s₀ s) (ht : execRollback path s = .next s₁) :
    Does W s₀ s₁ := by
  cases ht
  try dsimp only
  repeat' (first | with_reducible assumption | with_reducible apply State.fwRollback_does (hW.of rfl))

theorem State.resetKeeping_does {W : Nat} (hW : Covers W 0x1FFFFFFFF7FFFF7FC) {s₀ s : State} (hk : Does W s₀ s) : Does W s₀ s.resetKeeping :=
  hk.put 0x1FFFFFFFF7FFFF7FC (hW.of rfl) ⟨rfl, rfl, fun _ => rfl, le_rfl, (congrArg BitVec.toNat (Fw.afterReset_svn s.fw)).symm.le, le_rfl, le_rfl, le_rfl⟩
    (fun f hf => by cases f <;> first | exact Eq.refl _ | cases hf)

theorem State.powerOn_does {W : Nat} (hW : Covers W 0x5FFFFFFFF7FFFFFFC) {s₀ : State} (feedA feedB : Bool) {s : State} (hk : Does W s₀ s) :
    Does W s₀ (s.powerOn feedA feedB) :=
  State.drawTrainIds_does (hW.of rfl) (hk.put 0x1FFFFFFFF7FFFFFFC (hW.of rfl) ⟨rfl, rfl, fun _ => rfl, le_rfl, (congrArg BitVec.toNat (Fw.afterReset_svn s.fw)).symm.le, le_rfl, le_rfl, le_rfl⟩
    (fun f hf => by cases f <;> first | exact Eq.refl _ | cases hf))

theorem State.unhold_does {W : Nat} (hW : Covers W 0x656FC5FFEFFA4E1E0) {s₀ : State} (m : Medium) {s : State} (hk : Does W s₀ s) :
    Does W s₀ (State.unhold s m) := by
  unfold State.unhold
  try dsimp only
  repeat' (first
    | with_reducible assumption | with_reducible apply State.unpark_does (hW.of rfl)
    | with_reducible apply State.release_does (hW.of rfl) | with_reducible apply State.heldEpochNow_does (hW.of rfl)
    | with_reducible apply State.modSi_does (hW.of rfl) | exact fun _ => Nat.le_refl _ | exact fun _ => laterSerial_le _ _
    | exact laterSerial_le _ _ | exact Nat.le_refl _)

theorem State.commitLost_does {W : Nat} (hW : Covers W 0x656FC5FFEFFA4E1E0) {s₀ : State} (r : BitVec 4) (m : Medium) {s : State} (hk : Does W s₀ s) :
    Does W s₀ (State.commitLost s r m) := by
  unfold State.commitLost
  try dsimp only
  repeat' (first
    | with_reducible assumption | with_reducible apply State.modSi_does (hW.of rfl)
    | with_reducible apply State.unhold_does (hW.of rfl) | split | (with_reducible intro _; intros; (try dsimp only))
    | exact fun _ => Nat.le_refl _ | exact fun _ => laterSerial_le _ _ | exact laterSerial_le _ _ | exact Nat.le_refl _)

theorem execOpen_does {W : Nat} (hW : Covers W 0x400000000000000) {s₀ : State} (path : Path) {s s₁ : State} (hk : Does W s₀ s) (ht : execOpen path s = .next s₁) :
    Does W s₀ s₁ := by
  cases ht
  try dsimp only
  repeat' (first | with_reducible assumption | with_reducible apply State.siOpen_does (hW.of rfl))

theorem execValidate_does {W : Nat} (hW : Covers W 0x400000000000000) {s₀ : State} (path : Path) {s s₁ : State} (hk : Does W s₀ s) (ht : execValidate path s = .next s₁) :
    Does W s₀ s₁ := by
  cases ht
  try dsimp only
  repeat' (first | with_reducible assumption | with_reducible apply State.siValidate_does (hW.of rfl))

theorem execCommit_does {W : Nat} (hW : Covers W 0x214005BFE6FA4E1E0) {s₀ : State} (path : Path) (med : Medium) {s s₁ : State} (hk : Does W s₀ s) (ht : execCommit path med s = .next s₁) :
    Does W s₀ s₁ := by
  cases ht
  try dsimp only
  repeat' (first | with_reducible assumption | with_reducible apply State.siCommit_does (hW.of rfl))

theorem execCommitPoint_does {W : Nat} (hW : Covers W 0x757FF5FFEFFA5E1E8) {s₀ : State} (training : SMap (List (List LaneSweep))) (med : Medium) {s s₁ : State} (hk : Does W s₀ s) (ht : execCommitPoint training med s = .next s₁) :
    Does W s₀ s₁ := by
  cases ht
  try dsimp only
  repeat' (first
    | with_reducible assumption | with_reducible apply State.modSi_does (hW.of rfl)
    | with_reducible apply State.applyImage_does (hW.of rfl) | with_reducible apply State.unhold_does (hW.of rfl)
    | with_reducible apply State.commitLost_does (hW.of rfl) | split
    | (with_reducible refine Does.of_pair (by with_reducible assumption) ?_)
    | (with_reducible intro _; intros; (try dsimp only)) | exact fun _ => Nat.le_refl _ | exact fun _ => laterSerial_le _ _
    | exact laterSerial_le _ _ | exact Nat.le_refl _)

theorem execQuiesceLimitExpired_does {W : Nat} (hW : Covers W 0x7FFFFFFFFFFFFF7FC) {s₀ : State} (med : Medium) {s s₁ : State} (hk : Does W s₀ s) (ht : execQuiesceLimitExpired med s = .next s₁) :
    Does W s₀ s₁ := by
  cases ht
  try dsimp only
  repeat' (first
    | with_reducible assumption | with_reducible apply State.commitLost_does (hW.of rfl)
    | with_reducible apply State.returnByReset_does (hW.of rfl) | split
    | (with_reducible refine Does.of_pair (by with_reducible assumption) ?_))

theorem execCommitOnReset_does {W : Nat} (hW : Covers W 0x400000000000000) {s₀ : State} (path : Path) {s s₁ : State} (hk : Does W s₀ s) (ht : execCommitOnReset path s = .next s₁) :
    Does W s₀ s₁ := by
  cases ht
  try dsimp only
  repeat' (first | with_reducible assumption | with_reducible apply State.siCommitOnReset_does (hW.of rfl))

theorem execAbandon_does {W : Nat} (hW : Covers W 0x400000000000000) {s₀ : State} (path : Path) {s s₁ : State} (hk : Does W s₀ s) (ht : execAbandon path s = .next s₁) :
    Does W s₀ s₁ := by
  cases ht
  try dsimp only
  repeat' (first | with_reducible assumption | with_reducible apply State.siAbandon_does (hW.of rfl))

theorem execRevert_does {W : Nat} (hW : Covers W 0x7FFFFFFFF7FFFF7FC) {s₀ : State} (path : Path) (med : Medium) {s s₁ : State} (hk : Does W s₀ s) (ht : execRevert path med s = .next s₁) :
    Does W s₀ s₁ := by
  cases ht
  try dsimp only
  repeat' (first | with_reducible assumption | with_reducible apply State.siRevert_does (hW.of rfl))

theorem State.healthFails_does {W : Nat} (hW : Covers W 0x7FFFFFFFF7FFFF7FC) {s₀ : State} (check : BitVec 3) (m : Medium) {s : State} (hk : Does W s₀ s) :
    Does W s₀ (State.healthFails s check m) := by
  unfold State.healthFails
  try dsimp only
  repeat' (first
    | with_reducible assumption | with_reducible apply State.modSi_does (hW.of rfl)
    | with_reducible apply State.startReturn_does (hW.of rfl) | split | (with_reducible intro _; intros; (try dsimp only))
    | exact fun _ => Nat.le_refl _ | exact fun _ => laterSerial_le _ _ | exact laterSerial_le _ _ | exact Nat.le_refl _)

theorem execHealthCheckFail_does {W : Nat} (hW : Covers W 0x7FFFFFFFF7FFFF7FC) {s₀ : State} (check : BitVec 3) (med : Medium) {s s₁ : State} (hk : Does W s₀ s) (ht : execHealthCheckFail check med s = .next s₁) :
    Does W s₀ s₁ := by
  cases ht
  try dsimp only
  repeat' (first | with_reducible assumption | with_reducible apply State.healthFails_does (hW.of rfl) | split)

theorem execHealthWindowClose_does {W : Nat} (hW : Covers W 0x7FFFFFFFF7FFFF7FC) {s₀ : State} (med : Medium) {s s₁ : State} (hk : Does W s₀ s) (ht : execHealthWindowClose med s = .next s₁) :
    Does W s₀ s₁ := by
  cases ht
  try dsimp only
  repeat' (first
    | with_reducible assumption | with_reducible apply State.modSi_does (hW.of rfl)
    | with_reducible apply State.startReturn_does (hW.of rfl) | split | (with_reducible intro _; intros; (try dsimp only))
    | exact fun _ => Nat.le_refl _ | exact fun _ => laterSerial_le _ _ | exact laterSerial_le _ _ | exact Nat.le_refl _)

theorem execSiLockSet_does {W : Nat} (hW : Covers W 0x400000000000000) {s₀ : State} (path : Path) {s s₁ : State} (hk : Does W s₀ s) (ht : execSiLockSet path s = .next s₁) :
    Does W s₀ s₁ := by
  cases ht
  try dsimp only
  repeat' (first | with_reducible assumption | with_reducible apply State.siLock_does (hW.of rfl) | split)

theorem execTransfer_does {W : Nat} (hW : Covers W 0x21C03280000000100) {s₀ : State} (hdr : KmpHdr) (target op : BitVec 8) (tlen : BitVec 16) (offset : BitVec 32) (data : List Byte) (reserved : Bool) {s s₁ : State} (hk : Does W s₀ s) (ht : execTransfer hdr target op tlen offset data reserved s = .next s₁) :
    Does W s₀ s₁ := by
  cases ht
  try dsimp only
  repeat' (first
    | with_reducible assumption | with_reducible apply State.kmpRequest_does (hW.of rfl)
    | with_reducible apply State.modFw_does (hW.of rfl) | with_reducible apply State.modSi_does (hW.of rfl) | split
    | (with_reducible refine Does.of_pair (by with_reducible assumption) ?_)
    | (with_reducible intro _; intros; (try dsimp only)) | exact fun _ => Nat.le_refl _ | exact fun _ => laterSerial_le _ _
    | exact laterSerial_le _ _ | exact Nat.le_refl _)

end Sys2Proof.Machine
end

