-- ==== Sys2Proof/Laws/DoesIo.lean ====
section
/-! SUPPORT. DoesIo.lean: what each operation of links, pins, Ethernet, trace, registers and the idle cycle does (`Does`). -/
namespace Sys2Proof.Machine
open Sys2Proof

theorem State.resetGroup_does {W : Nat} (hW : Covers W 0x300) {s₀ : State} (hub block : Nat) {s : State} (hk : Does W s₀ s) :
    Does W s₀ (State.resetGroup s hub block) := by
  unfold State.resetGroup
  try dsimp only
  repeat' (first | with_reducible assumption | split | with_reducible apply Does.upd_300 (hW.of rfl))

theorem State.sendAck_does {W : Nat} (hW : Covers W 0x20000000000002000) {s₀ : State} (p : Nat) {s : State} (hk : Does W s₀ s) :
    Does W s₀ (State.sendAck s p) := by
  unfold State.sendAck
  try dsimp only
  repeat' (first
    | with_reducible assumption | with_reducible apply State.modPort_does (hW.of rfl)
    | with_reducible apply State.sendCell_does (hW.of rfl))

theorem State.lossEvent_does {W : Nat} (hW : Covers W 0x20000000000002000) {s₀ : State} (p : Nat) {s : State} (hk : Does W s₀ s) :
    Does W s₀ (State.lossEvent s p) := by
  unfold State.lossEvent
  try dsimp only
  repeat' (first
    | with_reducible assumption | with_reducible apply State.modPort_does (hW.of rfl)
    | with_reducible apply State.sendCell_does (hW.of rfl) | split)

theorem State.protoErr_does {W : Nat} (hW : Covers W 0x2000) {s₀ : State} (p : Nat) {s : State} (hk : Does W s₀ s) :
    Does W s₀ (State.protoErr s p) := by
  unfold State.protoErr
  try dsimp only
  repeat' (first | with_reducible assumption | with_reducible apply State.modPort_does (hW.of rfl))

theorem State.replayAll_does {W : Nat} (hW : Covers W 0x20000000000002100) {s₀ : State} (p : Nat) {s : State} (hk : Does W s₀ s) :
    Does W s₀ (State.replayAll s p) := by
  unfold State.replayAll
  try dsimp only
  repeat' (first
    | with_reducible assumption | with_reducible apply State.bump_does (hW.of rfl)
    | with_reducible apply State.modPort_does (hW.of rfl) | with_reducible apply State.sendCell_does (hW.of rfl)
    | (with_reducible apply Does.foldl; intro _ _ _))

theorem State.ackUpTo_does {W : Nat} (hW : Covers W 0x200000000000021E0) {s₀ : State} (p : Nat) (a : BitVec 12) {s : State} (hk : Does W s₀ s) :
    Does W s₀ (State.ackUpTo s p a) := by
  unfold State.ackUpTo
  try dsimp only
  repeat' (first
    | with_reducible assumption | with_reducible apply State.modPort_does (hW.of rfl)
    | with_reducible apply State.drainPort_does (hW.of rfl) | with_reducible apply State.protoErr_does (hW.of rfl) | split
    | (with_reducible refine Does.of_pair (by with_reducible assumption) ?_))

theorem State.request_does {W : Nat} (hW : Covers W 0x20000000000002000) {s₀ : State} (p : Nat) (r : LinkReq) {s : State} (hk : Does W s₀ s) :
    Does W s₀ (State.request s p r) := by
  unfold State.request
  try dsimp only
  repeat' (first
    | with_reducible assumption | with_reducible apply State.modPort_does (hW.of rfl)
    | with_reducible apply State.sendRequest_does (hW.of rfl) | split)

theorem State.sendGrant_does {W : Nat} (hW : Covers W 0x20000000000002000) {s₀ : State} (p : Nat) (r : LinkReq) {s : State} (hk : Does W s₀ s) :
    Does W s₀ (State.sendGrant s p r) := by
  unfold State.sendGrant
  try dsimp only
  repeat' (first
    | with_reducible assumption | with_reducible apply State.modPort_does (hW.of rfl)
    | with_reducible apply State.sendCell_does (hW.of rfl) | split
    | (with_reducible refine Does.of_pair (by with_reducible assumption) ?_))

theorem State.linkUp_does {W : Nat} (hW : Covers W 0x210000000000161E0) {s₀ : State} (p : Nat) (rx tx : BitVec 8) {s : State} (hk : Does W s₀ s) :
    Does W s₀ (State.linkUp s p rx tx) := by
  unfold State.linkUp
  try dsimp only
  repeat' (first
    | with_reducible assumption | with_reducible apply State.modPort_does (hW.of rfl)
    | with_reducible apply State.drainPort_does (hW.of rfl) | with_reducible apply State.replayAll_does (hW.of rfl)
    | with_reducible apply State.resendPeers_does (hW.of rfl) | with_reducible apply State.chooseSource_does (hW.of rfl)
    | with_reducible apply State.sendInit_does (hW.of rfl) | split | (with_reducible intro _; intros; (try dsimp only)))

theorem State.sealedRx_does {W : Nat} (hW : Covers W 0x2100000000002E1E0) {s₀ : State} (p : Nat) (k : Packet) {s : State} (hk : Does W s₀ s) :
    Does W s₀ (State.sealedRx s p k) := by
  unfold State.sealedRx
  try dsimp only
  repeat' (first
    | with_reducible assumption | with_reducible apply State.flowRx_does (hW.of rfl)
    | with_reducible apply State.verifySealed_does (hW.of rfl) | split
    | (with_reducible refine Does.of_pair (by with_reducible assumption) ?_)
    | with_reducible apply Does.upd_1000000000000000 (hW.of rfl) | with_reducible exact id | with_reducible exact le_rfl
    | with_reducible exact Nat.le_add_right _ _ | with_reducible exact satAdd_le _ _ | (rw [Ten.dropLinks_epoch])
    | (with_reducible intro _; intros; (try dsimp only)) | exact Nat.le_refl _)

theorem State.reserve_does {W : Nat} (hW : Covers W 0x8000) {s₀ : State} (p h : Nat) {s : State} (hk : Does W s₀ s) :
    Does W s₀ (State.reserve s p h) := by
  unfold State.reserve
  try dsimp only
  repeat' (first | with_reducible assumption | with_reducible apply State.modHost_does (hW.of rfl) | split)

theorem State.packetIn_does {W : Nat} (hW : Covers W 0x2100000000002E1E0) {s₀ : State} (p : Nat) (k : Packet) {s : State} (hk : Does W s₀ s) :
    Does W s₀ (State.packetIn s p k) := by
  unfold State.packetIn
  try dsimp only
  repeat' (first
    | with_reducible assumption | with_reducible apply State.modPort_does (hW.of rfl)
    | with_reducible apply State.modHost_does (hW.of rfl) | with_reducible apply State.drainHost_does (hW.of rfl)
    | with_reducible apply State.flowRx_does (hW.of rfl) | with_reducible apply State.sealedRx_does (hW.of rfl)
    | with_reducible apply State.reserve_does (hW.of rfl) | split | with_reducible apply Does.upd_1000000000000000 (hW.of rfl)
    | with_reducible apply Does.upd_20000 (hW.of rfl) | with_reducible exact id | with_reducible exact le_rfl
    | with_reducible exact Nat.le_add_right _ _ | with_reducible exact satAdd_le _ _ | (rw [Ten.dropLinks_epoch])
    | (with_reducible intro _; intros; (try dsimp only)) | exact Nat.le_refl _)

theorem State.leaveBuffer_does {W : Nat} (hW : Covers W 0x20000000000002100) {s₀ : State} (p v n : Nat) {s : State} (hk : Does W s₀ s) :
    Does W s₀ (State.leaveBuffer s p v n) := by
  unfold State.leaveBuffer
  try dsimp only
  repeat' (first
    | with_reducible assumption | with_reducible apply State.modPort_does (hW.of rfl)
    | with_reducible apply State.sendSeq_does (hW.of rfl) | split | (with_reducible intro _; intros; (try dsimp only)))

theorem State.returnCredits_does {W : Nat} (hW : Covers W 0x20000000000002100) {s₀ : State} (p v : Nat) {s : State} (hk : Does W s₀ s) :
    Does W s₀ (State.returnCredits s p v) := by
  unfold State.returnCredits
  try dsimp only
  repeat' (first
    | with_reducible assumption | with_reducible apply State.modPort_does (hW.of rfl)
    | with_reducible apply State.sendSeq_does (hW.of rfl) | split | (with_reducible intro _; intros; (try dsimp only)))

theorem State.framingErr_does {W : Nat} (hW : Covers W 0x2000) {s₀ : State} (p : Nat) {s : State} (hk : Does W s₀ s) :
    Does W s₀ (State.framingErr s p) := by
  unfold State.framingErr
  try dsimp only
  repeat' (first | with_reducible assumption | with_reducible apply State.modPort_does (hW.of rfl))

theorem State.finishPartial_does {W : Nat} (hW : Covers W 0x2100000000002E1E0) {s₀ : State} (p v : Nat) {s : State} (hk : Does W s₀ s) :
    Does W s₀ (State.finishPartial s p v) := by
  unfold State.finishPartial
  try dsimp only
  repeat' (first
    | with_reducible assumption | with_reducible apply State.modPort_does (hW.of rfl)
    | with_reducible apply State.packetIn_does (hW.of rfl) | with_reducible apply State.leaveBuffer_does (hW.of rfl) | split
    | (with_reducible refine Does.of_pair (by with_reducible assumption) ?_))

theorem State.takeCredit_does {W : Nat} (hW : Covers W 0x2000) {s₀ : State} (p v : Nat) {s t : State} (hk : Does W s₀ s) (ht : State.takeCredit s p v = some t) : Does W s₀ t := by
  unfold State.takeCredit at ht
  (try dsimp only at ht)
  repeat' (first | split at ht | (injection ht; done) | (injection ht with ht; subst ht))
  all_goals repeat' (first
    | with_reducible assumption | with_reducible apply State.modPort_does (hW.of rfl) | split
    | (with_reducible intro _; intros; (try dsimp only)))

theorem State.discardVc_does {W : Nat} (hW : Covers W 0x2000) {s₀ : State} (p v : Nat) (h : HeadBody) {s : State} (hk : Does W s₀ s) :
    Does W s₀ (State.discardVc s p v h) := by
  unfold State.discardVc
  try dsimp only
  repeat' (first | with_reducible assumption | with_reducible apply State.modPort_does (hW.of rfl))

theorem State.fabricHead_does {W : Nat} (hW : Covers W 0x2100000000002E1E0) {s₀ : State} (p v : Nat) (h : HeadBody) {s : State} (hk : Does W s₀ s) :
    Does W s₀ (State.fabricHead s p v h) := by
  unfold State.fabricHead
  try dsimp only
  repeat' (first
    | with_reducible assumption | with_reducible apply State.modPort_does (hW.of rfl)
    | with_reducible apply State.leaveBuffer_does (hW.of rfl) | with_reducible apply State.framingErr_does (hW.of rfl)
    | with_reducible apply State.finishPartial_does (hW.of rfl) | with_reducible apply State.discardVc_does (hW.of rfl) | split
    | (with_reducible refine Does.of_pair (by with_reducible assumption) ?_)
    | refine State.takeCredit_does (hW := hW.of rfl) (hk := ?_) (ht := by with_reducible assumption))

theorem State.fabricBody_does {W : Nat} (hW : Covers W 0x2100000000002E1E0) {s₀ : State} (p v : Nat) (d : BitVec 256) {s : State} (hk : Does W s₀ s) :
    Does W s₀ (State.fabricBody s p v d) := by
  unfold State.fabricBody
  try dsimp only
  repeat' (first
    | with_reducible assumption | with_reducible apply State.modPort_does (hW.of rfl)
    | with_reducible apply State.leaveBuffer_does (hW.of rfl) | with_reducible apply State.framingErr_does (hW.of rfl)
    | with_reducible apply State.finishPartial_does (hW.of rfl) | with_reducible apply State.discardVc_does (hW.of rfl) | split
    | (with_reducible refine Does.of_pair (by with_reducible assumption) ?_)
    | refine State.takeCredit_does (hW := hW.of rfl) (hk := ?_) (ht := by with_reducible assumption))

theorem State.followWidth_does {W : Nat} (hW : Covers W 0x2000) {s₀ : State} (p : Nat) (w : BitVec 2) {s : State} (hk : Does W s₀ s) :
    Does W s₀ (State.followWidth s p w) := by
  unfold State.followWidth
  try dsimp only
  repeat' (first
    | with_reducible assumption | with_reducible apply State.modPort_does (hW.of rfl) | split
    | (with_reducible refine Does.of_pair (by with_reducible assumption) ?_)
    | (with_reducible intro _; intros; (try dsimp only)))

theorem State.sequenced_does {W : Nat} (hW : Covers W 0x20000000000002100) {s₀ : State} (p : Nat) (env : Envelope) (k : State → State) {s : State} (hk : Does W s₀ s)
    (hf_k : ∀ (v0 : State), Does W s₀ v0 → Does W s₀ (k v0)) :
    Does W s₀ (State.sequenced s p env k) := by
  unfold State.sequenced
  try dsimp only
  repeat' (first
    | with_reducible assumption | with_reducible apply State.bump_does (hW.of rfl)
    | with_reducible apply State.modPort_does (hW.of rfl) | with_reducible apply State.sendAck_does (hW.of rfl)
    | with_reducible apply State.lossEvent_does (hW.of rfl) | with_reducible apply State.protoErr_does (hW.of rfl)
    | with_reducible apply State.followWidth_does (hW.of rfl) | with_reducible apply hf_k | split
    | (with_reducible refine Does.of_pair (by with_reducible assumption) ?_)
    | (with_reducible refine Does.of_fst (by with_reducible assumption) ?_) | (with_reducible intro _; intros; (try dsimp only)))

theorem State.unsequenced_does {W : Nat} (hW : Covers W 0x2000) {s₀ : State} (p : Nat) (env : Envelope) (k : State → State) {s : State} (hk : Does W s₀ s)
    (hf_k : ∀ (v0 : State), Does W s₀ v0 → Does W s₀ (k v0)) :
    Does W s₀ (State.unsequenced s p env k) := by
  unfold State.unsequenced
  try dsimp only
  repeat' (first
    | with_reducible assumption | with_reducible apply State.protoErr_does (hW.of rfl)
    | with_reducible apply State.followWidth_does (hW.of rfl) | with_reducible apply hf_k | split
    | (with_reducible intro _; intros; (try dsimp only)))

theorem State.control_does {W : Nat} (hW : Covers W 0x2000) {s₀ : State} (p : Nat) (env : Envelope) (k : State → State) {s : State} (hk : Does W s₀ s)
    (hf_k : ∀ (v0 : State), Does W s₀ v0 → Does W s₀ (k v0)) :
    Does W s₀ (State.control s p env k) := by
  unfold State.control
  try dsimp only
  repeat' (first
    | with_reducible assumption | with_reducible apply State.unsequenced_does (hW.of rfl) | with_reducible apply hf_k | split
    | (with_reducible intro _; intros; (try dsimp only)))

theorem State.updateLock_does {W : Nat} (hW : Covers W 0x10000) {s₀ : State} (l : List OffsetSample) (n : Nat) {s : State} (hk : Does W s₀ s) :
    Does W s₀ (State.updateLock s l n) := by
  unfold State.updateLock
  try dsimp only
  repeat' (first
    | with_reducible assumption | with_reducible apply Does.getD | split | with_reducible apply Does.upd_10000 (hW.of rfl)
    | (with_reducible intro _; intros; (try dsimp only)))

theorem State.correct_does {W : Nat} (hW : Covers W 0x10) {s₀ : State} (offset : Int) (launchPending : Bool) {s : State} (hk : Does W s₀ s) :
    Does W s₀ (State.correct s offset launchPending) := by
  unfold State.correct
  try dsimp only
  repeat' (first
    | with_reducible assumption | split | (with_reducible refine Does.of_pair (by with_reducible assumption) ?_)
    | with_reducible apply Does.upd_10 (hW.of rfl) | with_reducible exact id | with_reducible exact le_rfl
    | with_reducible exact Nat.le_add_right _ _ | (with_reducible intro _; intros; (try dsimp only)) | exact Nat.le_refl _)

theorem State.withControl_does {W : Nat} (hW : Covers W 0x80000000000) {s₀ : State} (e : Bool) (f : EthFrame) (k : State → State) {s : State} (hk : Does W s₀ s)
    (hf_k : ∀ (v0 : State), Does W s₀ v0 → Does W s₀ (k v0)) :
    Does W s₀ (State.withControl s e f k) := by
  unfold State.withControl
  try dsimp only
  repeat' (first
    | with_reducible assumption | with_reducible apply State.frameOk_does (hW.of rfl) | with_reducible apply hf_k | split
    | (with_reducible refine Does.of_pair (by with_reducible assumption) ?_)
    | (with_reducible refine Does.of_fst (by with_reducible assumption) ?_) | (with_reducible intro _; intros; (try dsimp only)))

theorem State.withFrame_does {W : Nat} (hW : Covers W 0x80000000000) {s₀ : State} (e : Bool) (f : EthFrame) (k : State → State) {s : State} (hk : Does W s₀ s)
    (hf_k : ∀ (v0 : State), Does W s₀ v0 → Does W s₀ (k v0)) :
    Does W s₀ (State.withFrame s e f k) := by
  unfold State.withFrame
  try dsimp only
  repeat' (first
    | with_reducible assumption | with_reducible apply State.frameIn_does (hW.of rfl) | with_reducible apply hf_k | split
    | (with_reducible refine Does.of_pair (by with_reducible assumption) ?_)
    | (with_reducible refine Does.of_fst (by with_reducible assumption) ?_) | (with_reducible intro _; intros; (try dsimp only)))

theorem State.classGo_does {W : Nat} (hW : Covers W 0x20000080000000000) {s₀ : State} (e : Bool) (t : Nat) {s : State} (hk : Does W s₀ s) :
    Does W s₀ (State.classGo s e t) := by
  unfold State.classGo
  try dsimp only
  repeat' (first
    | with_reducible assumption | with_reducible apply State.modEth_does (hW.of rfl)
    | with_reducible apply State.sendFrame_does (hW.of rfl) | (with_reducible apply Does.foldl; intro _ _ _))

theorem State.fetchDrop_does {W : Nat} (hW : Covers W 0x40000000) {s₀ : State} (q cmd : Nat) {s : State} (hk : Does W s₀ s) :
    Does W s₀ (State.fetchDrop s q cmd) := by
  unfold State.fetchDrop
  try dsimp only
  repeat' (first | with_reducible assumption | with_reducible apply Does.upd_40000000 (hW.of rfl))

theorem State.fetchedWrite_does {W : Nat} (hW : Covers W 0x2100002FC6F84E1E0) {s₀ : State} (q cmd addr : Nat) (data : List Byte) (media : List Medium) {s : State} (hk : Does W s₀ s) :
    Does W s₀ (State.fetchedWrite s q cmd addr data media) := by
  unfold State.fetchedWrite
  try dsimp only
  repeat' (first
    | with_reducible assumption | with_reducible apply State.admitAccess_does (hW.of rfl) | split
    | (with_reducible refine Does.of_pair (by with_reducible assumption) ?_)
    | (with_reducible intro _; intros; (try dsimp only)))

theorem State.shootLeave_does {W : Nat} (hW : Covers W 0x100000000000000) {s₀ : State} (h : Nat) {s : State} (hk : Does W s₀ s) :
    Does W s₀ (State.shootLeave s h) := by
  unfold State.shootLeave
  try dsimp only
  repeat' (first | with_reducible assumption | with_reducible apply Does.upd_100000000000000 (hW.of rfl))

theorem State.firstUse_does {W : Nat} (hW : Covers W 0x4000000000000000) {s₀ : State} (h : Nat) {s : State} (hk : Does W s₀ s) :
    Does W s₀ (State.firstUse s h) := by
  unfold State.firstUse
  try dsimp only
  repeat' (first
    | with_reducible assumption | with_reducible apply State.modPwr_does (hW.of rfl) | split
    | (with_reducible intro _; intros; (try dsimp only)))

theorem State.lcLost_does {W : Nat} (hW : Covers W 0x252BC5AFCEF84E1E0) {s₀ : State} (j i : Nat) {s : State} (hk : Does W s₀ s) :
    Does W s₀ (State.lcLost s j i) := by
  unfold State.lcLost
  try dsimp only
  repeat' (first
    | with_reducible assumption | with_reducible apply State.modJob_does (hW.of rfl)
    | with_reducible apply State.modLc_does (hW.of rfl) | with_reducible apply State.endJob_does (hW.of rfl) | split
    | (with_reducible refine Does.of_pair (by with_reducible assumption) ?_)
    | (with_reducible intro _; intros; (try dsimp only)))

theorem State.jobsReset_does {W : Nat} (hW : Covers W 0x252FC5AFCEF84E1E0) {s₀ : State} (h : Nat) {s : State} (hk : Does W s₀ s) :
    Does W s₀ (State.jobsReset s h) := by
  unfold State.jobsReset
  try dsimp only
  repeat' (first
    | with_reducible assumption | with_reducible apply State.modLc_does (hW.of rfl)
    | with_reducible apply State.vacate_does (hW.of rfl) | with_reducible apply State.gateFault_does (hW.of rfl)
    | with_reducible apply State.lcLost_does (hW.of rfl) | (with_reducible apply Does.foldl; intro _ _ _) | split
    | (with_reducible refine Does.of_pair (by with_reducible assumption) ?_)
    | (with_reducible intro _; intros; (try dsimp only)))

theorem State.chanSkip_does {W : Nat} (hW : Covers W 0x400025C00040100) {s₀ : State} (h : Nat) {s : State} (hk : Does W s₀ s) :
    Does W s₀ (State.chanSkip s h) := by
  unfold State.chanSkip
  try dsimp only
  repeat' (first
    | with_reducible assumption | with_reducible apply State.chanHeld_does (hW.of rfl) | split
    | with_reducible apply Does.upd_400000000000000 (hW.of rfl) | with_reducible exact id | with_reducible exact le_rfl
    | with_reducible exact Nat.le_add_right _ _ | with_reducible exact laterSerial_le _ _
    | (with_reducible intro _; intros; (try dsimp only)) | exact Nat.le_refl _)

theorem State.modSel_does {W : Nat} (hW : Covers W 0x2000000000000000) {s₀ : State} (p : Path) (f : Sel → Sel) {s : State} (hk : Does W s₀ s) :
    Does W s₀ (State.modSel s p f) := by
  unfold State.modSel
  try dsimp only
  repeat' (first | with_reducible assumption | with_reducible apply Does.upd_2000000000000000 (hW.of rfl))

theorem execHead_does {W : Nat} (hW : Covers W 0x2100000000002E1E0) {s₀ : State} (port : Fin 32) (env : Envelope) (body : HeadBody) {s s₁ : State} (hk : Does W s₀ s) (ht : execHead port env body s = .next s₁) :
    Does W s₀ s₁ := by
  cases ht
  try dsimp only
  repeat' (first
    | with_reducible assumption | with_reducible apply State.fabricHead_does (hW.of rfl)
    | with_reducible apply State.sequenced_does (hW.of rfl) | (with_reducible intro _; intros; (try dsimp only)))

theorem execBody_does {W : Nat} (hW : Covers W 0x2100000000002E1E0) {s₀ : State} (port : Fin 32) (env : Envelope) (data : BitVec 256) {s s₁ : State} (hk : Does W s₀ s) (ht : execBody port env data s = .next s₁) :
    Does W s₀ s₁ := by
  cases ht
  try dsimp only
  repeat' (first
    | with_reducible assumption | with_reducible apply State.fabricBody_does (hW.of rfl)
    | with_reducible apply State.sequenced_does (hW.of rfl) | (with_reducible intro _; intros; (try dsimp only)))

theorem State.addCredits_does {W : Nat} (hW : Covers W 0x200000000000021E0) {s₀ : State} (p v count : Nat) (init : Bool) {s : State} (hk : Does W s₀ s) :
    Does W s₀ (State.addCredits s p v count init) := by
  unfold State.addCredits
  try dsimp only
  repeat' (first
    | with_reducible assumption | with_reducible apply State.modPort_does (hW.of rfl)
    | with_reducible apply State.drainPort_does (hW.of rfl) | split | (with_reducible intro _; intros; (try dsimp only)))

theorem State.takeCreditCell_does {W : Nat} (hW : Covers W 0x2000000000000A1E0) {s₀ : State} (p v count : Nat) (init : Bool) {s : State} (hk : Does W s₀ s) :
    Does W s₀ (State.takeCreditCell s p v count init) := by
  unfold State.takeCreditCell
  try dsimp only
  repeat' (first
    | with_reducible assumption | with_reducible apply State.modPort_does (hW.of rfl)
    | with_reducible apply State.sendInit_does (hW.of rfl) | with_reducible apply State.endWindow_does (hW.of rfl)
    | with_reducible apply State.framingErr_does (hW.of rfl) | with_reducible apply State.addCredits_does (hW.of rfl) | split
    | (with_reducible intro _; intros; (try dsimp only)))

theorem execCredit_does {W : Nat} (hW : Covers W 0x2000000000000A1E0) {s₀ : State} (port : Fin 32) (env : Envelope) (count : BitVec 11) (init : Bool) {s s₁ : State} (hk : Does W s₀ s) (ht : execCredit port env count init s = .next s₁) :
    Does W s₀ s₁ := by
  cases ht
  try dsimp only
  repeat' (first
    | with_reducible assumption | with_reducible apply State.sequenced_does (hW.of rfl)
    | with_reducible apply State.takeCreditCell_does (hW.of rfl) | (with_reducible intro _; intros; (try dsimp only)))

theorem execNull_does {W : Nat} (hW : Covers W 0x2000) {s₀ : State} (port : Fin 32) (env : Envelope) {s s₁ : State} (hk : Does W s₀ s) (ht : execNull port env s = .next s₁) :
    Does W s₀ s₁ := by
  cases ht
  try dsimp only
  repeat' (first
    | with_reducible assumption | with_reducible apply State.unsequenced_does (hW.of rfl) | split | assumption
    | (with_reducible intro _; intros; (try dsimp only)))

theorem execUncorrectableCodeword_does {W : Nat} (hW : Covers W 0x20000000000002000) {s₀ : State} (port : Fin 32) {s s₁ : State} (hk : Does W s₀ s) (ht : execUncorrectableCodeword port s = .next s₁) :
    Does W s₀ s₁ := by
  cases ht
  try dsimp only
  repeat' (first
    | with_reducible assumption | with_reducible apply State.modPort_does (hW.of rfl)
    | with_reducible apply State.lossEvent_does (hW.of rfl) | split)

theorem execCellCrcFailure_does {W : Nat} (hW : Covers W 0x20000000000002000) {s₀ : State} (port : Fin 32) {s s₁ : State} (hk : Does W s₀ s) (ht : execCellCrcFailure port s = .next s₁) :
    Does W s₀ s₁ := by
  cases ht
  try dsimp only
  repeat' (first | with_reducible assumption | with_reducible apply State.lossEvent_does (hW.of rfl) | split)

theorem execReservedKindCell_does {W : Nat} (hW : Covers W 0x2000) {s₀ : State} (port : Fin 32) {s s₁ : State} (hk : Does W s₀ s) (ht : execReservedKindCell port s = .next s₁) :
    Does W s₀ s₁ := by
  cases ht
  try dsimp only
  repeat' (first | with_reducible assumption | with_reducible apply State.protoErr_does (hW.of rfl) | split)

theorem execAck_does {W : Nat} (hW : Covers W 0x200000000000021E0) {s₀ : State} (port : Fin 32) (env : Envelope) (ackSeq : BitVec 12) {s s₁ : State} (hk : Does W s₀ s) (ht : execAck port env ackSeq s = .next s₁) :
    Does W s₀ s₁ := by
  cases ht
  try dsimp only
  repeat' (first
    | with_reducible assumption | with_reducible apply State.ackUpTo_does (hW.of rfl)
    | with_reducible apply State.control_does (hW.of rfl))

theorem State.nakIn_does {W : Nat} (hW : Covers W 0x200000000000021E0) {s₀ : State} (p : Nat) (n : BitVec 12) {s : State} (hk : Does W s₀ s) :
    Does W s₀ (State.nakIn s p n) := by
  unfold State.nakIn
  try dsimp only
  repeat' (first
    | with_reducible assumption | with_reducible apply State.modPort_does (hW.of rfl)
    | with_reducible apply State.drainPort_does (hW.of rfl) | with_reducible apply State.protoErr_does (hW.of rfl)
    | with_reducible apply State.replayAll_does (hW.of rfl) | with_reducible apply State.wantRetrain_does (hW.of rfl) | split
    | (with_reducible refine Does.of_pair (by with_reducible assumption) ?_)
    | (with_reducible intro _; intros; (try dsimp only)))

theorem execNak_does {W : Nat} (hW : Covers W 0x200000000000021E0) {s₀ : State} (port : Fin 32) (env : Envelope) (seq : BitVec 12) {s s₁ : State} (hk : Does W s₀ s) (ht : execNak port env seq s = .next s₁) :
    Does W s₀ s₁ := by
  cases ht
  try dsimp only
  repeat' (first
    | with_reducible assumption | with_reducible apply State.control_does (hW.of rfl)
    | with_reducible apply State.nakIn_does (hW.of rfl))

theorem execNakResend_does {W : Nat} (hW : Covers W 0x20000000000000000) {s₀ : State} (port : Fin 32) {s s₁ : State} (hk : Does W s₀ s) (ht : execNakResend port s = .next s₁) :
    Does W s₀ s₁ := by
  cases ht
  try dsimp only
  repeat' (first | with_reducible assumption | with_reducible apply State.sendCell_does (hW.of rfl) | split)

theorem execAckTimer_does {W : Nat} (hW : Covers W 0x20000000000002000) {s₀ : State} (port : Fin 32) {s s₁ : State} (hk : Does W s₀ s) (ht : execAckTimer port s = .next s₁) :
    Does W s₀ s₁ := by
  cases ht
  try dsimp only
  repeat' (first | with_reducible assumption | with_reducible apply State.sendAck_does (hW.of rfl) | split)

theorem execKeepaliveSend_does {W : Nat} (hW : Covers W 0x20000000000002000) {s₀ : State} (port : Fin 32) {s s₁ : State} (hk : Does W s₀ s) (ht : execKeepaliveSend port s = .next s₁) :
    Does W s₀ s₁ := by
  cases ht
  try dsimp only
  repeat' (first
    | with_reducible assumption | with_reducible apply State.modPort_does (hW.of rfl)
    | with_reducible apply State.sendCell_does (hW.of rfl) | split)

theorem execKeepalive_does {W : Nat} (hW : Covers W 0x200000000000021E0) {s₀ : State} (port : Fin 32) (env : Envelope) (ackSeq : BitVec 12) (_lanes _state : BitVec 8) (_trainId : BitVec 32) {s s₁ : State} (hk : Does W s₀ s) (ht : execKeepalive port env ackSeq _lanes _state _trainId s = .next s₁) :
    Does W s₀ s₁ := by
  cases ht
  try dsimp only
  repeat' (first
    | with_reducible assumption | with_reducible apply State.ackUpTo_does (hW.of rfl)
    | with_reducible apply State.control_does (hW.of rfl))

theorem execLinkDown_does {W : Nat} (hW : Covers W 0x2100000000001E1E0) {s₀ : State} (port : Fin 32) {s s₁ : State} (hk : Does W s₀ s) (ht : execLinkDown port s = .next s₁) :
    Does W s₀ s₁ := by
  cases ht
  try dsimp only
  repeat' (first | with_reducible assumption | with_reducible apply State.linkDown_does (hW.of rfl) | split)

theorem execTrainingAttempt_does {W : Nat} (hW : Covers W 0x2000) {s₀ : State} (port : Fin 32) {s s₁ : State} (hk : Does W s₀ s) (ht : execTrainingAttempt port s = .next s₁) :
    Does W s₀ s₁ := by
  cases ht
  try dsimp only
  repeat' (first | with_reducible assumption | with_reducible apply State.modPort_does (hW.of rfl) | split)

theorem execTrainingTimeout_does {W : Nat} (hW : Covers W 0x2000) {s₀ : State} (port : Fin 32) {s s₁ : State} (hk : Does W s₀ s) (ht : execTrainingTimeout port s = .next s₁) :
    Does W s₀ s₁ := by
  cases ht
  try dsimp only
  repeat' (first
    | with_reducible assumption | with_reducible apply State.modPort_does (hW.of rfl) | split
    | (with_reducible refine Does.of_pair (by with_reducible assumption) ?_))

theorem execAdaptationDone_does {W : Nat} (hW : Covers W 0x2000) {s₀ : State} (port : Fin 32) (tx rx : BitVec 8) {s s₁ : State} (hk : Does W s₀ s) (ht : execAdaptationDone port tx rx s = .next s₁) :
    Does W s₀ s₁ := by
  cases ht
  try dsimp only
  repeat' (first
    | with_reducible assumption | with_reducible apply State.modPort_does (hW.of rfl) | split
    | (with_reducible refine Does.of_pair (by with_reducible assumption) ?_))

theorem State.sendTrain_does {W : Nat} (hW : Covers W 0x20000000000000000) {s₀ : State} (p : Nat) {s : State} (hk : Does W s₀ s) :
    Does W s₀ (State.sendTrain s p) := by
  unfold State.sendTrain
  try dsimp only
  repeat' (first | with_reducible assumption | with_reducible apply State.sendCell_does (hW.of rfl))

theorem execAlignDone_does {W : Nat} (hW : Covers W 0x20000000000002000) {s₀ : State} (port : Fin 32) {s s₁ : State} (hk : Does W s₀ s) (ht : execAlignDone port s = .next s₁) :
    Does W s₀ s₁ := by
  cases ht
  try dsimp only
  repeat' (first
    | with_reducible assumption | with_reducible apply State.modPort_does (hW.of rfl)
    | with_reducible apply State.sendTrain_does (hW.of rfl) | split)

theorem State.trainIn_does {W : Nat} (hW : Covers W 0x610000000000161E0) {s₀ : State} (p : Nat) (peerId : BitVec 32) (peerTx peerRx peerMin : BitVec 8) {s : State} (hk : Does W s₀ s) :
    Does W s₀ (State.trainIn s p peerId peerTx peerRx peerMin) := by
  unfold State.trainIn
  try dsimp only
  repeat' (first
    | with_reducible assumption | with_reducible apply State.draw_does (hW.of rfl)
    | with_reducible apply State.modPort_does (hW.of rfl) | with_reducible apply State.linkUp_does (hW.of rfl)
    | with_reducible apply State.sendTrain_does (hW.of rfl) | split
    | (with_reducible refine Does.of_pair (by with_reducible assumption) ?_))

theorem execTrain_does {W : Nat} (hW : Covers W 0x610000000000161E0) {s₀ : State} (port : Fin 32) (env : Envelope) (peerId : BitVec 32) (peerTx peerRx peerMin : BitVec 8) {s s₁ : State} (hk : Does W s₀ s) (ht : execTrain port env peerId peerTx peerRx peerMin s = .next s₁) :
    Does W s₀ s₁ := by
  cases ht
  try dsimp only
  repeat' (first
    | with_reducible assumption | with_reducible apply State.unsequenced_does (hW.of rfl)
    | with_reducible apply State.trainIn_does (hW.of rfl) | split | (with_reducible intro _; intros; (try dsimp only)))

theorem State.considerGrant_does {W : Nat} (hW : Covers W 0x20000000000002000) {s₀ : State} (p : Nat) (r : LinkReq) {s : State} (hk : Does W s₀ s) :
    Does W s₀ (State.considerGrant s p r) := by
  unfold State.considerGrant
  try dsimp only
  repeat' (first
    | with_reducible assumption | with_reducible apply State.sendCell_does (hW.of rfl)
    | with_reducible apply State.request_does (hW.of rfl) | with_reducible apply State.sendGrant_does (hW.of rfl) | split
    | (with_reducible refine Does.of_pair (by with_reducible assumption) ?_)
    | (with_reducible intro _; intros; (try dsimp only)))

theorem State.retrainIn_does {W : Nat} (hW : Covers W 0x20000000000002000) {s₀ : State} (p : Nat) (op mask : BitVec 8) (peerId : BitVec 32) {s : State} (hk : Does W s₀ s) :
    Does W s₀ (State.retrainIn s p op mask peerId) := by
  unfold State.retrainIn
  try dsimp only
  repeat' (first
    | with_reducible assumption | with_reducible apply State.modPort_does (hW.of rfl)
    | with_reducible apply State.sendCell_does (hW.of rfl) | with_reducible apply State.considerGrant_does (hW.of rfl) | split
    | (with_reducible refine Does.of_pair (by with_reducible assumption) ?_)
    | (with_reducible intro _; intros; (try dsimp only)))

theorem execRetrain_does {W : Nat} (hW : Covers W 0x20000000000002000) {s₀ : State} (port : Fin 32) (env : Envelope) (op mask : BitVec 8) (peerId : BitVec 32) {s s₁ : State} (hk : Does W s₀ s) (ht : execRetrain port env op mask peerId s = .next s₁) :
    Does W s₀ s₁ := by
  cases ht
  try dsimp only
  repeat' (first
    | with_reducible assumption | with_reducible apply State.control_does (hW.of rfl)
    | with_reducible apply State.retrainIn_does (hW.of rfl))

theorem execRetrainRequestRepeat_does {W : Nat} (hW : Covers W 0x20000000000000000) {s₀ : State} (port : Fin 32) {s s₁ : State} (hk : Does W s₀ s) (ht : execRetrainRequestRepeat port s = .next s₁) :
    Does W s₀ s₁ := by
  cases ht
  try dsimp only
  repeat' (first
    | with_reducible assumption | with_reducible apply State.sendRequest_does (hW.of rfl) | split
    | (with_reducible refine Does.of_pair (by with_reducible assumption) ?_)
    | (with_reducible intro _; intros; (try dsimp only)))

theorem State.enterRetrain_does {W : Nat} (hW : Covers W 0x12000) {s₀ : State} (p : Nat) {s : State} (hk : Does W s₀ s) :
    Does W s₀ (State.enterRetrain s p) := by
  unfold State.enterRetrain
  try dsimp only
  repeat' (first
    | with_reducible assumption | with_reducible apply State.modPort_does (hW.of rfl)
    | with_reducible apply State.chooseSource_does (hW.of rfl))

theorem State.switchWidth_does {W : Nat} (hW : Covers W 0x200000000000021E0) {s₀ : State} (p : Nat) (m : BitVec 8) {s : State} (hk : Does W s₀ s) :
    Does W s₀ (State.switchWidth s p m) := by
  unfold State.switchWidth
  try dsimp only
  repeat' (first
    | with_reducible assumption | with_reducible apply State.modPort_does (hW.of rfl)
    | with_reducible apply State.drainPort_does (hW.of rfl) | with_reducible apply State.replayAll_does (hW.of rfl)
    | with_reducible apply State.checkWidth_does (hW.of rfl) | with_reducible apply State.sendInit_does (hW.of rfl) | split
    | (with_reducible intro _; intros; (try dsimp only)))

theorem execWidthSwitch_does {W : Nat} (hW : Covers W 0x200000000000121E0) {s₀ : State} (port : Fin 32) {s s₁ : State} (hk : Does W s₀ s) (ht : execWidthSwitch port s = .next s₁) :
    Does W s₀ s₁ := by
  cases ht
  try dsimp only
  repeat' (first
    | with_reducible assumption | with_reducible apply State.enterRetrain_does (hW.of rfl)
    | with_reducible apply State.switchWidth_does (hW.of rfl) | split
    | (with_reducible refine Does.of_pair (by with_reducible assumption) ?_)
    | (with_reducible intro _; intros; (try dsimp only)))

theorem execLaneErrorInterval_does {W : Nat} (hW : Covers W 0x20000000000002100) {s₀ : State} (port : Fin 32) (corrected : List Nat) {s s₁ : State} (hk : Does W s₀ s) (ht : execLaneErrorInterval port corrected s = .next s₁) :
    Does W s₀ s₁ := by
  cases ht
  try dsimp only
  repeat' (first
    | with_reducible assumption | with_reducible apply State.bump_does (hW.of rfl)
    | with_reducible apply State.request_does (hW.of rfl) | split
    | (with_reducible refine Does.of_pair (by with_reducible assumption) ?_)
    | (with_reducible intro _; intros; (try dsimp only)))

theorem execSilenceTraining_does {W : Nat} (hW : Covers W 0x12000) {s₀ : State} (port : Fin 32) (peer : Bool) {s s₁ : State} (hk : Does W s₀ s) (ht : execSilenceTraining port peer s = .next s₁) :
    Does W s₀ s₁ := by
  cases ht
  try dsimp only
  repeat' (first
    | with_reducible assumption | with_reducible apply State.modPort_does (hW.of rfl)
    | with_reducible apply State.chooseSource_does (hW.of rfl) | with_reducible apply State.enterRetrain_does (hW.of rfl)
    | split | (with_reducible intro _; intros; (try dsimp only)))

theorem execZlRetrainCmd_does {W : Nat} (hW : Covers W 0x20000000000002000) {s₀ : State} (port : Fin 32) {s s₁ : State} (hk : Does W s₀ s) (ht : execZlRetrainCmd port s = .next s₁) :
    Does W s₀ s₁ := by
  cases ht
  try dsimp only
  repeat' (first | with_reducible assumption | with_reducible apply State.request_does (hW.of rfl))

theorem State.narrow_does {W : Nat} (hW : Covers W 0x20000000000002000) {s₀ : State} (p : Nat) (m : BitVec 8) {s : State} (hk : Does W s₀ s) :
    Does W s₀ (State.narrow s p m) := by
  unfold State.narrow
  try dsimp only
  repeat' (first | with_reducible assumption | with_reducible apply State.request_does (hW.of rfl) | split)

theorem execZlNarrowCmd_does {W : Nat} (hW : Covers W 0x20000000000002000) {s₀ : State} (port : Fin 32) (mask : BitVec 8) {s s₁ : State} (hk : Does W s₀ s) (ht : execZlNarrowCmd port mask s = .next s₁) :
    Does W s₀ s₁ := by
  cases ht
  try dsimp only
  repeat' (first
    | with_reducible assumption | with_reducible apply State.modPort_does (hW.of rfl)
    | with_reducible apply State.narrow_does (hW.of rfl))

theorem execCreditReturnTimer_does {W : Nat} (hW : Covers W 0x20000000000002100) {s₀ : State} (port : Fin 32) {s s₁ : State} (hk : Does W s₀ s) (ht : execCreditReturnTimer port s = .next s₁) :
    Does W s₀ s₁ := by
  cases ht
  try dsimp only
  repeat' (first
    | with_reducible assumption | with_reducible apply State.returnCredits_does (hW.of rfl)
    | (with_reducible apply Does.foldl; intro _ _ _) | split)

theorem execCreditFallback_does {W : Nat} (hW : Covers W 0x200000000000021E0) {s₀ : State} (port : Fin 32) {s s₁ : State} (hk : Does W s₀ s) (ht : execCreditFallback port s = .next s₁) :
    Does W s₀ s₁ := by
  cases ht
  try dsimp only
  repeat' (first
    | with_reducible assumption | with_reducible apply State.modPort_does (hW.of rfl)
    | with_reducible apply State.drainPort_does (hW.of rfl) | split)

theorem State.tackIn_does {W : Nat} (hW : Covers W 0x2100000000000E1E0) {s₀ : State} (h lvc : Nat) (cum : BitVec 24) (sack : BitVec 64) {s : State} (hk : Does W s₀ s) :
    Does W s₀ (State.tackIn s h lvc cum sack) := by
  unfold State.tackIn
  try dsimp only
  repeat' (first
    | with_reducible assumption | with_reducible apply State.modFlow_does (hW.of rfl)
    | with_reducible apply State.drainHost_does (hW.of rfl) | with_reducible apply State.resend_does (hW.of rfl)
    | (with_reducible apply Does.foldl; intro _ _ _) | with_reducible apply Does.getD | split
    | (with_reducible refine Does.of_pair (by with_reducible assumption) ?_)
    | (with_reducible intro _; intros; (try dsimp only)))

theorem execTransportAck_does {W : Nat} (hW : Covers W 0x2100000000000E1E0) {s₀ : State} (src : BitVec 12) (alvc : BitVec 8) (cum : BitVec 24) (sack : BitVec 64) {s s₁ : State} (hk : Does W s₀ s) (ht : execTransportAck src alvc cum sack s = .next s₁) :
    Does W s₀ s₁ := by
  cases ht
  try dsimp only
  repeat' (first
    | with_reducible assumption | with_reducible apply State.tackIn_does (hW.of rfl) | split
    | (with_reducible intro _; intros; (try dsimp only)))

theorem execTransportAckTimer_does {W : Nat} (hW : Covers W 0x200000000000061E0) {s₀ : State} (src : BitVec 12) (lvc : Fin 6) {s s₁ : State} (hk : Does W s₀ s) (ht : execTransportAckTimer src lvc s = .next s₁) :
    Does W s₀ s₁ := by
  cases ht
  try dsimp only
  repeat' (first
    | with_reducible assumption | with_reducible apply State.sendTack_does (hW.of rfl) | split
    | (with_reducible intro _; intros; (try dsimp only)))

theorem execRtoExpiry_does {W : Nat} (hW : Covers W 0x210000000000061E0) {s₀ : State} (dst : BitVec 12) (lvc : Fin 6) (tseq : BitVec 24) {s s₁ : State} (hk : Does W s₀ s) (ht : execRtoExpiry dst lvc tseq s = .next s₁) :
    Does W s₀ s₁ := by
  cases ht
  try dsimp only
  repeat' (first
    | with_reducible assumption | with_reducible apply State.modFlow_does (hW.of rfl)
    | with_reducible apply State.resend_does (hW.of rfl) | split | (with_reducible intro _; intros; (try dsimp only)))

theorem State.sendProbe_does {W : Nat} (hW : Covers W 0x200000000000021E0) {s₀ : State} (h p : Nat) (reply : Bool) (number : BitVec 32) {s : State} (hk : Does W s₀ s) :
    Does W s₀ (State.sendProbe s h p reply number) := by
  unfold State.sendProbe
  try dsimp only
  repeat' (first
    | with_reducible assumption | with_reducible apply State.emit_does (hW.of rfl)
    | with_reducible apply State.toPort_does (hW.of rfl) | split | (with_reducible intro _; intros; (try dsimp only)))

theorem execPathProbeSend_does {W : Nat} (hW : Covers W 0x2100000000000E1E0) {s₀ : State} (host : BitVec 10) (secondary : Bool) {s s₁ : State} (hk : Does W s₀ s) (ht : execPathProbeSend host secondary s = .next s₁) :
    Does W s₀ s₁ := by
  cases ht
  try dsimp only
  repeat' (first
    | with_reducible assumption | with_reducible apply State.modHost_does (hW.of rfl)
    | with_reducible apply State.losePath_does (hW.of rfl) | with_reducible apply State.sendProbe_does (hW.of rfl) | split)

theorem State.probeReply_does {W : Nat} (hW : Covers W 0x2100000000000E1E0) {s₀ : State} (h : Nat) (secondary : Bool) (number : BitVec 32) {s : State} (hk : Does W s₀ s) :
    Does W s₀ (State.probeReply s h secondary number) := by
  unfold State.probeReply
  try dsimp only
  repeat' (first
    | with_reducible assumption | with_reducible apply State.modHost_does (hW.of rfl)
    | with_reducible apply State.drainHost_does (hW.of rfl) | with_reducible apply State.resendAll_does (hW.of rfl) | split)

theorem execPathProbe_does {W : Nat} (hW : Covers W 0x2100000000000E1E0) {s₀ : State} (port : Fin 32) (host : BitVec 10) (pkind : BitVec 8) (number : BitVec 32) {s s₁ : State} (hk : Does W s₀ s) (ht : execPathProbe port host pkind number s = .next s₁) :
    Does W s₀ s₁ := by
  cases ht
  try dsimp only
  repeat' (first
    | with_reducible assumption | with_reducible apply State.sendProbe_does (hW.of rfl)
    | with_reducible apply State.probeReply_does (hW.of rfl) | split)

theorem execPathHoldExpiry_does {W : Nat} (hW : Covers W 0x2100000000000E1E0) {s₀ : State} (port : Fin 32) {s s₁ : State} (hk : Does W s₀ s) (ht : execPathHoldExpiry port s = .next s₁) :
    Does W s₀ s₁ := by
  cases ht
  try dsimp only
  repeat' (first | with_reducible assumption | with_reducible apply State.losePort_does (hW.of rfl) | split)

theorem execPrimaryReturn_does {W : Nat} (hW : Covers W 0x2100000000000E1E0) {s₀ : State} (host : BitVec 10) {s s₁ : State} (hk : Does W s₀ s) (ht : execPrimaryReturn host s = .next s₁) :
    Does W s₀ s₁ := by
  cases ht
  try dsimp only
  repeat' (first
    | with_reducible assumption | with_reducible apply State.modHost_does (hW.of rfl)
    | with_reducible apply State.drainHost_does (hW.of rfl) | split)

theorem State.resumeTraffic_does {W : Nat} (hW : Covers W 0x2100000000000E1E0) {s₀ : State} {s : State} (hk : Does W s₀ s) :
    Does W s₀ (State.resumeTraffic s) := by
  unfold State.resumeTraffic
  try dsimp only
  repeat' (first
    | with_reducible assumption | with_reducible apply State.drainPort_does (hW.of rfl)
    | with_reducible apply State.drainHost_does (hW.of rfl) | (with_reducible apply Does.foldl; intro _ _ _) | split)

theorem State.zlfCtl_does {W : Nat} (hW : Covers W 0x2100000000001E1E0) {s₀ : State} (hold : Bool) (reason : BitVec 2) (pathHoldUs : BitVec 10) {s : State} (hk : Does W s₀ s) :
    Does W s₀ (State.zlfCtl s hold reason pathHoldUs) := by
  unfold State.zlfCtl
  try dsimp only
  repeat' (first
    | with_reducible assumption | with_reducible apply State.resumeTraffic_does (hW.of rfl) | split
    | with_reducible apply Does.upd_10000 (hW.of rfl) | (with_reducible intro _; intros; (try dsimp only)))

theorem execZlfHold_does {W : Nat} (hW : Covers W 0x2100000000001E1E0) {s₀ : State} (hold : Bool) (reason : BitVec 2) (pathHoldUs : BitVec 10) {s s₁ : State} (hk : Does W s₀ s) (ht : execZlfHold hold reason pathHoldUs s = .next s₁) :
    Does W s₀ s₁ := by
  cases ht
  try dsimp only
  repeat' (first | with_reducible assumption | with_reducible apply State.zlfCtl_does (hW.of rfl))

theorem execIdLockSet_does {W : Nat} (hW : Covers W 0x10000) {s₀ : State} {s s₁ : State} (hk : Does W s₀ s) (ht : execIdLockSet s = .next s₁) :
    Does W s₀ s₁ := by
  cases ht
  try dsimp only
  repeat' (first | with_reducible assumption | with_reducible apply Does.upd_10000 (hW.of rfl))

theorem execBeaconSend_does {W : Nat} (hW : Covers W 0x20000000000000000) {s₀ : State} (port : Fin 32) {s s₁ : State} (hk : Does W s₀ s) (ht : execBeaconSend port s = .next s₁) :
    Does W s₀ s₁ := by
  cases ht
  try dsimp only
  repeat' (first | with_reducible assumption | with_reducible apply State.sendCell_does (hW.of rfl) | split)

theorem State.beaconIn_does {W : Nat} (hW : Covers W 0x12010) {s₀ : State} (p : Nat) (tx echo : BitVec 64) (dwell : BitVec 32) (stratum : BitVec 4) (launchPending : Bool) {s : State} (hk : Does W s₀ s) :
    Does W s₀ (State.beaconIn s p tx echo dwell stratum launchPending) := by
  unfold State.beaconIn
  try dsimp only
  repeat' (first
    | with_reducible assumption | with_reducible apply State.modPort_does (hW.of rfl)
    | with_reducible apply State.chooseSource_does (hW.of rfl) | with_reducible apply State.updateLock_does (hW.of rfl)
    | with_reducible apply State.correct_does (hW.of rfl) | split)

theorem State.modSys_does {W : Nat} (hW : Covers W 0x4) {s₀ : State} (f : Sys → Sys) {s : State} (hk : Does W s₀ s) :
    Does W s₀ (State.modSys s f) := by
  unfold State.modSys
  try dsimp only
  repeat' (first | with_reducible assumption | with_reducible apply Does.upd_4 (hW.of rfl))

theorem execPowerOn_does {W : Nat} (hW : Covers W 0x5FFFFFFFF7FFFFFFC) {s₀ : State} (feedA feedB : Bool) {s s₁ : State} (hk : Does W s₀ s) (ht : execPowerOn feedA feedB s = .next s₁) :
    Does W s₀ s₁ := by
  cases ht
  try dsimp only
  repeat' (first
    | with_reducible assumption | with_reducible apply State.powerOn_does (hW.of rfl)
    | with_reducible apply State.modSys_does (hW.of rfl) | split)

theorem execPackageReset_does {W : Nat} (hW : Covers W 0x5FFFFFFFF7FFFF7FC) {s₀ : State} {s s₁ : State} (hk : Does W s₀ s) (ht : execPackageReset s = .next s₁) :
    Does W s₀ s₁ := by
  cases ht
  try dsimp only
  repeat' (first
    | with_reducible assumption | with_reducible apply State.packageReset_does (hW.of rfl)
    | with_reducible apply State.modSys_does (hW.of rfl) | split)

theorem execPackageResetCmd_does {W : Nat} (hW : Covers W 0x5FFFFFFFF7FFFF7FC) {s₀ : State} (path : Path) {s s₁ : State} (hk : Does W s₀ s) (ht : execPackageResetCmd path s = .next s₁) :
    Does W s₀ s₁ := by
  cases ht
  try dsimp only
  repeat' (first | with_reducible assumption | with_reducible apply State.packageReset_does (hW.of rfl) | split)

theorem State.halt_does {W : Nat} (hW : Covers W 0x4) {s₀ : State} (step : BitVec 4) (hub : Fin 8) (unit : BitVec 6) {s : State} (hk : Does W s₀ s) :
    Does W s₀ (State.halt s step hub unit) := by
  unfold State.halt
  try dsimp only
  repeat' (first | with_reducible assumption | with_reducible apply State.modSys_does (hW.of rfl))

@[simp] theorem Si.resetInWindow_maxSerial (y : Si) : y.resetInWindow.maxSerial = y.maxSerial := by
  unfold Si.resetInWindow Si.turnedBack
  split <;> [rfl; split <;> rfl]

@[simp] theorem Si.loaded_maxSerial (y : Si) (v : SiImage → Bool) : (y.loaded v).maxSerial = y.maxSerial := by
  unfold Si.loaded
  split <;> [rfl; split <;> rfl]

theorem State.loadSlots_does {W : Nat} (hW : Covers W 0x400000000000000) {s₀ : State} {s : State} (hk : Does W s₀ s) :
    Does W s₀ (State.loadSlots s) := by
  unfold State.loadSlots
  exact Does.upd_400000000000000 (hW.of rfl) hk (by simp)

theorem State.startStep5_does {W : Nat} (hW : Covers W 0x4000000000) {s₀ : State} (f : StartUpFacts) {s : State} (hk : Does W s₀ s) :
    Does W s₀ (State.startStep5 s f) := by
  unfold State.startStep5
  try dsimp only
  repeat' (first
    | with_reducible assumption | with_reducible apply State.trainChan_does (hW.of rfl)
    | (with_reducible apply Does.foldl; intro _ _ _))

theorem State.startDeep_does {W : Nat} (hW : Covers W 0x4000000000) {s₀ : State} (f : StartUpFacts) (d : DimmInfo) {s : State} (hk : Does W s₀ s) :
    Does W s₀ (State.startDeep s f d) := by
  unfold State.startDeep
  try dsimp only
  repeat' (first
    | with_reducible assumption | with_reducible apply State.modChan_does (hW.of rfl) | split
    | (with_reducible intro _; intros; (try dsimp only)))

theorem State.makeHppr_does {W : Nat} (hW : Covers W 0x20000000000) {s₀ : State} (spent : List HpprAt) {s : State} (hk : Does W s₀ s) :
    Does W s₀ (State.makeHppr s spent) := by
  unfold State.makeHppr
  try dsimp only
  repeat' (first
    | with_reducible assumption | split | with_reducible apply Does.upd_20000000000 (hW.of rfl)
    | (with_reducible intro _; intros; (try dsimp only)))

theorem State.noteFailed_does {W : Nat} (hW : Covers W 0x20000000000) {s₀ : State} {s : State} (hk : Does W s₀ s) :
    Does W s₀ (State.noteFailed s) := by
  unfold State.noteFailed
  try dsimp only
  repeat' (first
    | with_reducible assumption | with_reducible apply State.logError_does (hW.of rfl)
    | (with_reducible apply Does.foldl; intro _ _ _) | split | (with_reducible intro _; intros; (try dsimp only)))

theorem State.startMemory_does {W : Nat} (hW : Covers W 0x3559B5ADC4485E1EC) {s₀ : State} (f : StartUpFacts) {s : State} (hk : Does W s₀ s) :
    Does W s₀ (State.startMemory s f) := by
  unfold State.startMemory
  try dsimp only
  repeat' (first
    | with_reducible assumption | with_reducible apply State.firstUse_does (hW.of rfl)
    | with_reducible apply State.applyImage_does (hW.of rfl) | with_reducible apply State.modSys_does (hW.of rfl)
    | with_reducible apply State.loadSlots_does (hW.of rfl) | with_reducible apply State.startStep5_does (hW.of rfl)
    | with_reducible apply State.startDeep_does (hW.of rfl) | with_reducible apply State.makeHppr_does (hW.of rfl)
    | with_reducible apply State.noteFailed_does (hW.of rfl) | (with_reducible apply Does.foldl; intro _ _ _))

theorem State.startBegins_does {W : Nat} (hW : Covers W 0x804) {s₀ : State} (f : StartUpFacts) {s : State} (hk : Does W s₀ s) :
    Does W s₀ (State.startBegins s f) := by
  unfold State.startBegins
  try dsimp only
  repeat' (first | with_reducible assumption | with_reducible apply Does.upd_804 (hW.of rfl))

theorem State.startStep1_does {W : Nat} (hW : Covers W 0x8) {s₀ : State} {s : State} (hk : Does W s₀ s) :
    Does W s₀ (State.startStep1 s) := by
  unfold State.startStep1
  try dsimp only
  repeat' (first
    | with_reducible assumption | with_reducible apply State.modHub_does (hW.of rfl) | (with_reducible apply Does.foldl; intro _ _ _))

theorem State.startStep2_does {W : Nat} (hW : Covers W 0x10800000000000000) {s₀ : State} (f : StartUpFacts) {s : State} (hk : Does W s₀ s) :
    Does W s₀ (State.startStep2 s f) := by
  unfold State.startStep2
  try dsimp only
  repeat' (first
    | with_reducible assumption | split | with_reducible apply Does.upd_10800000000000000 (hW.of rfl) | with_reducible exact id
    | with_reducible exact le_rfl | with_reducible exact Nat.le_add_right _ _ | (with_reducible intro _; intros; (try dsimp only))
    | exact Nat.le_refl _)

theorem State.startStep3_does {W : Nat} (hW : Covers W 0x800000000000008) {s₀ : State} (f : StartUpFacts) {s : State} (hk : Does W s₀ s) :
    Does W s₀ (State.startStep3 s f) := by
  unfold State.startStep3
  try dsimp only
  repeat' (first
    | with_reducible assumption | with_reducible apply State.modHub_does (hW.of rfl)
    | with_reducible apply State.modFw_does (hW.of rfl) | (with_reducible apply Does.foldl; intro _ _ _)
    | exact fun _ => Nat.le_refl _ | exact fun _ => laterSerial_le _ _ | exact laterSerial_le _ _ | exact Nat.le_refl _)

theorem State.startStep4_does {W : Nat} (hW : Covers W 0x4) {s₀ : State} (f : StartUpFacts) {s : State} (hk : Does W s₀ s) :
    Does W s₀ (State.startStep4 s f) := by
  unfold State.startStep4
  try dsimp only
  repeat' (first | with_reducible assumption | with_reducible apply State.modSys_does (hW.of rfl))

theorem execStartUp_does {W : Nat} (hW : Covers W 0x35D9B5ADC4485E9EC) {s₀ : State} (f : StartUpFacts) {s s₁ : State} (hk : Does W s₀ s) (ht : execStartUp f s = .next s₁) :
    Does W s₀ s₁ := by
  cases ht
  try dsimp only
  repeat' (first
    | with_reducible assumption | with_reducible apply State.fwGo_does (hW.of rfl) | with_reducible apply State.halt_does (hW.of rfl)
    | with_reducible apply State.startMemory_does (hW.of rfl) | with_reducible apply State.startBegins_does (hW.of rfl)
    | with_reducible apply State.startStep1_does (hW.of rfl) | with_reducible apply State.startStep2_does (hW.of rfl)
    | with_reducible apply State.startStep3_does (hW.of rfl) | with_reducible apply State.startStep4_does (hW.of rfl) | split
    | (with_reducible refine Does.of_pair (by with_reducible assumption) ?_))

theorem State.fillSpares_does {W : Nat} (hW : Covers W 0x2DC00040100) {s₀ : State} {s : State} (hk : Does W s₀ s) :
    Does W s₀ (State.fillSpares s) := by
  unfold State.fillSpares
  try dsimp only
  repeat' (first
    | with_reducible assumption | with_reducible apply State.modChan_does (hW.of rfl)
    | with_reducible apply State.modMemHub_does (hW.of rfl) | with_reducible apply State.fillSlot_does (hW.of rfl)
    | (with_reducible apply Does.foldl; intro _ _ _))

theorem State.openHealth_does {W : Nat} (hW : Covers W 0x400000000000000) {s₀ : State} {s : State} (hk : Does W s₀ s) :
    Does W s₀ (State.openHealth s) := by
  unfold State.openHealth
  try dsimp only
  repeat' (first
    | with_reducible assumption | with_reducible apply State.modSi_does (hW.of rfl) | split
    | (with_reducible intro _; intros; (try dsimp only)) | exact fun _ => Nat.le_refl _ | exact fun _ => laterSerial_le _ _
    | exact laterSerial_le _ _ | exact Nat.le_refl _)

theorem execStartUpEnd_does {W : Nat} (hW : Covers W 0x2140002DC0005E1E4) {s₀ : State} {s s₁ : State} (hk : Does W s₀ s) (ht : execStartUpEnd s = .next s₁) :
    Does W s₀ s₁ := by
  cases ht
  try dsimp only
  repeat' (first
    | with_reducible assumption | with_reducible apply State.laySlots_does (hW.of rfl)
    | with_reducible apply State.resumeTraffic_does (hW.of rfl) | with_reducible apply State.modSys_does (hW.of rfl)
    | with_reducible apply State.fillSpares_does (hW.of rfl) | with_reducible apply State.openHealth_does (hW.of rfl)
    | (with_reducible apply Does.foldl; intro _ _ _) | split | with_reducible apply Does.upd_10000 (hW.of rfl)
    | (with_reducible intro _; intros; (try dsimp only)))

theorem State.hubLinksDown_does {W : Nat} (hW : Covers W 0x2100208000001E1E0) {s₀ : State} (h : Nat) {s : State} (hk : Does W s₀ s) :
    Does W s₀ (State.hubLinksDown s h) := by
  unfold State.hubLinksDown
  try dsimp only
  repeat' (first
    | with_reducible assumption | with_reducible apply State.linkDown_does (hW.of rfl)
    | with_reducible apply State.ethDown_does (hW.of rfl) | (with_reducible apply Does.foldl; intro _ _ _) | split)

theorem execRefclkLoss_does {W : Nat} (hW : Covers W 0x2144278015140E1EC) {s₀ : State} (hub : Fin 8) {s s₁ : State} (hk : Does W s₀ s) (ht : execRefclkLoss hub s = .next s₁) :
    Does W s₀ s₁ := by
  cases ht
  try dsimp only
  repeat' (first
    | with_reducible assumption | with_reducible apply State.modHub_does (hW.of rfl)
    | with_reducible apply State.goFatal_does (hW.of rfl) | split
    | (with_reducible refine Does.of_pair (by with_reducible assumption) ?_))

theorem execSdsRefclkLoss_does {W : Nat} (hW : Covers W 0x2100208000001E1E8) {s₀ : State} (hub : Fin 8) {s s₁ : State} (hk : Does W s₀ s) (ht : execSdsRefclkLoss hub s = .next s₁) :
    Does W s₀ s₁ := by
  cases ht
  try dsimp only
  repeat' (first
    | with_reducible assumption | with_reducible apply State.modHub_does (hW.of rfl)
    | with_reducible apply State.hubLinksDown_does (hW.of rfl) | split)

theorem execSdsRefclkReturn_does {W : Nat} (hW : Covers W 0x8) {s₀ : State} (hub : Fin 8) {s s₁ : State} (hk : Does W s₀ s) (ht : execSdsRefclkReturn hub s = .next s₁) :
    Does W s₀ s₁ := by
  cases ht
  try dsimp only
  repeat' (first | with_reducible assumption | with_reducible apply State.modHub_does (hW.of rfl) | split)

theorem execClk32kLoss_does {W : Nat} (hW : Covers W 0x4) {s₀ : State} {s s₁ : State} (hk : Does W s₀ s) (ht : execClk32kLoss s = .next s₁) :
    Does W s₀ s₁ := by
  cases ht
  try dsimp only
  repeat' (first | with_reducible assumption | with_reducible apply State.modSys_does (hW.of rfl))

theorem execClk32kReturn_does {W : Nat} (hW : Covers W 0x4) {s₀ : State} {s s₁ : State} (hk : Does W s₀ s) (ht : execClk32kReturn s = .next s₁) :
    Does W s₀ s₁ := by
  cases ht
  try dsimp only
  repeat' (first | with_reducible assumption | with_reducible apply State.modSys_does (hW.of rfl))

theorem State.hubLifts_does {W : Nat} (hW : Covers W 0x656FC5BFEFFACE1E0) {s₀ : State} (h : Nat) (m : Medium) {s : State} (hk : Does W s₀ s) :
    Does W s₀ (State.hubLifts s h m) := by
  unfold State.hubLifts
  try dsimp only
  repeat' (first
    | with_reducible assumption | with_reducible apply State.liftDrop_does (hW.of rfl)
    | (with_reducible apply Does.foldl; intro _ _ _) | with_reducible apply Does.getD)

theorem State.resetPorts_does {W : Nat} (hW : Covers W 0x2100208000001E1E0) {s₀ : State} (h : Nat) {s : State} (hk : Does W s₀ s) :
    Does W s₀ (State.resetPorts s h) := by
  unfold State.resetPorts
  try dsimp only
  repeat' (first
    | with_reducible assumption | with_reducible apply State.modPort_does (hW.of rfl)
    | with_reducible apply State.modEth_does (hW.of rfl) | with_reducible apply State.hubLinksDown_does (hW.of rfl)
    | (with_reducible apply Does.foldl; intro _ _ _) | split)

theorem State.chansReset_does {W : Nat} (hW : Covers W 0x4000040000) {s₀ : State} (h : Nat) {s : State} (hk : Does W s₀ s) :
    Does W s₀ (State.chansReset s h) := by
  unfold State.chansReset
  try dsimp only
  repeat' (first
    | with_reducible assumption | with_reducible apply State.modChan_does (hW.of rfl)
    | with_reducible apply State.srEnter_does (hW.of rfl) | (with_reducible apply Does.foldl; intro _ _ _) | split
    | (with_reducible intro _; intros; (try dsimp only)))

theorem State.enterPartial_does {W : Nat} (hW : Covers W 0x67FFEFBFEFFADE7FC) {s₀ : State} (h : Nat) (trig : BitVec 2) (m : Medium) {s : State} (hk : Does W s₀ s) :
    Does W s₀ (State.enterPartial s h trig m) := by
  unfold State.enterPartial
  try dsimp only
  repeat' (first
    | with_reducible assumption | with_reducible apply State.modHub_does (hW.of rfl)
    | with_reducible apply State.queueInit_does (hW.of rfl) | with_reducible apply State.shootLeave_does (hW.of rfl)
    | with_reducible apply State.jobsReset_does (hW.of rfl) | with_reducible apply State.endSessions_does (hW.of rfl)
    | with_reducible apply State.modSys_does (hW.of rfl) | with_reducible apply State.hubLifts_does (hW.of rfl)
    | with_reducible apply State.resetPorts_does (hW.of rfl) | with_reducible apply State.chansReset_does (hW.of rfl)
    | (with_reducible apply Does.foldl; intro _ _ _) | split | with_reducible apply Does.upd_60888280080007E0 (hW.of rfl)
    | with_reducible apply Does.upd_40000000000000 (hW.of rfl) | (with_reducible intro _; intros; (try dsimp only)))

theorem State.hubReset_does {W : Nat} (hW : Covers W 0x67FFEFBFEFFADE7FC) {s₀ : State} (h : Nat) (m : Medium) {s : State} (hk : Does W s₀ s) :
    Does W s₀ (State.hubReset s h m) := by
  unfold State.hubReset
  try dsimp only
  repeat' (first
    | with_reducible assumption | with_reducible apply State.modSys_does (hW.of rfl)
    | with_reducible apply State.enterPartial_does (hW.of rfl) | split)

theorem execHubPartialReset_does {W : Nat} (hW : Covers W 0x67FFEFBFEFFADE7FC) {s₀ : State} (path : Path) (hub : Fin 8) (med : Medium) {s s₁ : State} (hk : Does W s₀ s) (ht : execHubPartialReset path hub med s = .next s₁) :
    Does W s₀ s₁ := by
  cases ht
  try dsimp only
  repeat' (first | with_reducible assumption | with_reducible apply State.hubReset_does (hW.of rfl) | split)

theorem State.watchdog_does {W : Nat} (hW : Covers W 0x67FFEFBFEFFADE7FC) {s₀ : State} (h : Nat) (m : Medium) {s : State} (hk : Does W s₀ s) :
    Does W s₀ (State.watchdog s h m) := by
  unfold State.watchdog
  try dsimp only
  repeat' (first
    | with_reducible assumption | with_reducible apply State.fwReturn_does (hW.of rfl)
    | with_reducible apply State.modSys_does (hW.of rfl) | with_reducible apply State.enterPartial_does (hW.of rfl) | split)

theorem execHubWatchdog_does {W : Nat} (hW : Covers W 0x67FFEFBFEFFADE7FC) {s₀ : State} (hub : Fin 8) (med : Medium) {s s₁ : State} (hk : Does W s₀ s) (ht : execHubWatchdog hub med s = .next s₁) :
    Does W s₀ s₁ := by
  cases ht
  try dsimp only
  repeat' (first | with_reducible assumption | with_reducible apply State.watchdog_does (hW.of rfl) | split)

theorem execPartialResetRestart_does {W : Nat} (hW : Covers W 0x4C00025C00040108) {s₀ : State} (hub : Fin 8) (training : SMap (List (List LaneSweep))) {s s₁ : State} (hk : Does W s₀ s) (ht : execPartialResetRestart hub training s = .next s₁) :
    Does W s₀ s₁ := by
  cases ht
  try dsimp only
  repeat' (first
    | with_reducible assumption | with_reducible apply State.modHub_does (hW.of rfl)
    | with_reducible apply State.trainChan_does (hW.of rfl) | with_reducible apply State.srExit_does (hW.of rfl)
    | with_reducible apply State.firstUse_does (hW.of rfl) | with_reducible apply State.chanSkip_does (hW.of rfl)
    | with_reducible apply State.modFw_does (hW.of rfl) | (with_reducible apply Does.foldl; intro _ _ _) | split
    | (with_reducible refine Does.of_pair (by with_reducible assumption) ?_)
    | (with_reducible intro _; intros; (try dsimp only)) | exact fun _ => Nat.le_refl _ | exact fun _ => laterSerial_le _ _
    | exact laterSerial_le _ _ | exact Nat.le_refl _)

theorem execPartialResetReturn_does {W : Nat} (hW : Covers W 0x67FFEFBFEFFADE7FC) {s₀ : State} (hub : Fin 8) (med : Medium) {s s₁ : State} (hk : Does W s₀ s) (ht : execPartialResetReturn hub med s = .next s₁) :
    Does W s₀ s₁ := by
  cases ht
  try dsimp only
  repeat' (first
    | with_reducible assumption | with_reducible apply State.modHub_does (hW.of rfl)
    | with_reducible apply State.tagHeads_does (hW.of rfl) | with_reducible apply State.cohEnd_does (hW.of rfl)
    | with_reducible apply State.deliverHeld_does (hW.of rfl) | with_reducible apply State.modSys_does (hW.of rfl)
    | with_reducible apply State.enterPartial_does (hW.of rfl) | (with_reducible apply Does.foldl; intro _ _ _) | split
    | (with_reducible refine Does.of_pair (by with_reducible assumption) ?_)
    | with_reducible apply Does.upd_8000000000000 (hW.of rfl))

theorem execPartialResetOverrun_does {W : Nat} (hW : Covers W 0x2144278015140E1EC) {s₀ : State} (hub : Fin 8) {s s₁ : State} (hk : Does W s₀ s) (ht : execPartialResetOverrun hub s = .next s₁) :
    Does W s₀ s₁ := by
  cases ht
  try dsimp only
  repeat' (first | with_reducible assumption | with_reducible apply State.goFatal_does (hW.of rfl) | split)

theorem execBridgeParityError_does {W : Nat} (hW : Covers W 0x2144278015140E1EC) {s₀ : State} (groups : List BridgeGroup) {s s₁ : State} (hk : Does W s₀ s) (ht : execBridgeParityError groups s = .next s₁) :
    Does W s₀ s₁ := by
  cases ht
  try dsimp only
  repeat' (first
    | with_reducible assumption | with_reducible apply State.modHub_does (hW.of rfl)
    | with_reducible apply State.goFatal_does (hW.of rfl) | with_reducible apply State.modSys_does (hW.of rfl) | split
    | (with_reducible refine Does.of_pair (by with_reducible assumption) ?_)
    | (with_reducible intro _; intros; (try dsimp only)))

theorem execFatalPortStop_does {W : Nat} (hW : Covers W 0x8000000000000004) {s₀ : State} {s s₁ : State} (hk : Does W s₀ s) (ht : execFatalPortStop s = .next s₁) :
    Does W s₀ s₁ := by
  cases ht
  try dsimp only
  repeat' (first
    | with_reducible assumption | with_reducible apply State.modSys_does (hW.of rfl) | split
    | with_reducible apply Does.upd_8000000000000000 (hW.of rfl) | (with_reducible intro _; intros; (try dsimp only)))

theorem State.sleep_does {W : Nat} (hW : Covers W 0x2900208400005E1E4) {s₀ : State} {s : State} (hk : Does W s₀ s) :
    Does W s₀ (State.sleep s) := by
  unfold State.sleep
  try dsimp only
  repeat' (first
    | with_reducible assumption | with_reducible apply State.srEnter_does (hW.of rfl)
    | with_reducible apply State.modSys_does (hW.of rfl) | with_reducible apply State.hubLinksDown_does (hW.of rfl)
    | (with_reducible apply Does.foldl; intro _ _ _) | split | with_reducible apply Does.upd_8000000000000000 (hW.of rfl)
    | with_reducible apply Does.upd_8000000000010000 (hW.of rfl) | (with_reducible intro _; intros; (try dsimp only)))

theorem execDeepSleep_does {W : Nat} (hW : Covers W 0x2900208400005E1E4) {s₀ : State} {s s₁ : State} (hk : Does W s₀ s) (ht : execDeepSleep s = .next s₁) :
    Does W s₀ s₁ := by
  cases ht
  try dsimp only
  repeat' (first | with_reducible assumption | with_reducible apply State.sleep_does (hW.of rfl) | split)

theorem State.wakeUp_does {W : Nat} (hW : Covers W 0x4000025C00050104) {s₀ : State} (cause : BitVec 2) {s : State} (hk : Does W s₀ s) :
    Does W s₀ (State.wakeUp s cause) := by
  unfold State.wakeUp
  try dsimp only
  repeat' (first
    | with_reducible assumption | with_reducible apply State.srExit_does (hW.of rfl)
    | with_reducible apply State.firstUse_does (hW.of rfl) | with_reducible apply State.modSys_does (hW.of rfl)
    | (with_reducible apply Does.foldl; intro _ _ _) | split | with_reducible apply Does.upd_10000 (hW.of rfl))

theorem execWake_does {W : Nat} (hW : Covers W 0x4000025C00050104) {s₀ : State} (cause : WakeCause) {s s₁ : State} (hk : Does W s₀ s) (ht : execWake cause s = .next s₁) :
    Does W s₀ s₁ := by
  cases ht
  try dsimp only
  repeat' (first
    | with_reducible assumption | with_reducible apply State.wakeUp_does (hW.of rfl) | split
    | (with_reducible refine Does.of_pair (by with_reducible assumption) ?_))

theorem execWakeCommand_does {W : Nat} (hW : Covers W 0x4000025C00050104) {s₀ : State} (path : Path) {s s₁ : State} (hk : Does W s₀ s) (ht : execWakeCommand path s = .next s₁) :
    Does W s₀ s₁ := by
  cases ht
  try dsimp only
  repeat' (first | with_reducible assumption | with_reducible apply State.wakeUp_does (hW.of rfl) | split)

theorem execWakeComplete_does {W : Nat} (hW : Covers W 0x2100000000001E1E4) {s₀ : State} {s s₁ : State} (hk : Does W s₀ s) (ht : execWakeComplete s = .next s₁) :
    Does W s₀ s₁ := by
  cases ht
  try dsimp only
  repeat' (first
    | with_reducible assumption | with_reducible apply State.resumeTraffic_does (hW.of rfl)
    | with_reducible apply State.modSys_does (hW.of rfl) | split | with_reducible apply Does.upd_10000 (hW.of rfl))

theorem State.aonEdge_does {W : Nat} (hW : Covers W 0x10) {s₀ : State} {s : State} (hk : Does W s₀ s) :
    Does W s₀ (State.aonEdge s) := by
  unfold State.aonEdge
  try dsimp only
  repeat' (first
    | with_reducible assumption | with_reducible apply Does.getD | with_reducible apply Does.upd_10 (hW.of rfl)
    | with_reducible exact id | with_reducible exact le_rfl | with_reducible exact Nat.le_add_right _ _ | exact Nat.le_refl _)

theorem execSleepTick_does {W : Nat} (hW : Covers W 0x10) {s₀ : State} {s s₁ : State} (hk : Does W s₀ s) (ht : execSleepTick s = .next s₁) :
    Does W s₀ s₁ := by
  cases ht
  try dsimp only
  repeat' (first
    | with_reducible assumption | with_reducible apply State.aonEdge_does (hW.of rfl) | split
    | with_reducible apply Does.upd_10 (hW.of rfl) | with_reducible exact id | with_reducible exact le_rfl
    | with_reducible exact Nat.le_add_right _ _ | exact Nat.le_refl _)

theorem execSleepFeedLoss_does {W : Nat} (hW : Covers W 0x8000001C00000004) {s₀ : State} (feedB : Bool) {s s₁ : State} (hk : Does W s₀ s) (ht : execSleepFeedLoss feedB s = .next s₁) :
    Does W s₀ s₁ := by
  cases ht
  try dsimp only
  repeat' (first
    | with_reducible assumption | with_reducible apply State.modSys_does (hW.of rfl) | split
    | with_reducible apply Does.upd_8000000000000000 (hW.of rfl) | with_reducible apply Does.upd_1C00000000 (hW.of rfl)
    | with_reducible exact id | with_reducible exact le_rfl | with_reducible exact Nat.le_add_right _ _
    | with_reducible exact memWriteBytes_wf _ _ _ | with_reducible exact wf_keep _ _ | (exact fun _ => rfl)
    | (with_reducible intro _; intros; (try dsimp only)) | exact Nat.le_refl _)

theorem State.syncMiss_does {W : Nat} (hW : Covers W 0x10004) {s₀ : State} {s : State} (hk : Does W s₀ s) :
    Does W s₀ (State.syncMiss s) := by
  unfold State.syncMiss
  try dsimp only
  repeat' (first
    | with_reducible assumption | with_reducible apply State.chooseSource_does (hW.of rfl)
    | with_reducible apply State.modSys_does (hW.of rfl) | split | with_reducible apply Does.upd_10000 (hW.of rfl)
    | (with_reducible intro _; intros; (try dsimp only)))

theorem execSyncFrame_does {W : Nat} (hW : Covers W 0x10014) {s₀ : State} (bits : BitVec 80) {s s₁ : State} (hk : Does W s₀ s) (ht : execSyncFrame bits s = .next s₁) :
    Does W s₀ s₁ := by
  cases ht
  try dsimp only
  repeat' (first
    | with_reducible assumption | with_reducible apply State.chooseSource_does (hW.of rfl)
    | with_reducible apply State.updateLock_does (hW.of rfl) | with_reducible apply State.correct_does (hW.of rfl)
    | with_reducible apply State.modSys_does (hW.of rfl) | with_reducible apply State.syncMiss_does (hW.of rfl) | split
    | (with_reducible refine Does.of_pair (by with_reducible assumption) ?_) | with_reducible apply Does.upd_10000 (hW.of rfl)
    | (with_reducible intro _; intros; (try dsimp only)))

theorem execSyncInMissing_does {W : Nat} (hW : Covers W 0x10004) {s₀ : State} {s s₁ : State} (hk : Does W s₀ s) (ht : execSyncInMissing s = .next s₁) :
    Does W s₀ s₁ := by
  cases ht
  try dsimp only
  repeat' (first
    | with_reducible assumption | with_reducible apply State.modSys_does (hW.of rfl)
    | with_reducible apply State.syncMiss_does (hW.of rfl) | split)

theorem execSyncOutFrame_does {W : Nat} (hW : Covers W 0x20000000000000000) {s₀ : State} {s s₁ : State} (hk : Does W s₀ s) (ht : execSyncOutFrame s = .next s₁) :
    Does W s₀ s₁ := by
  cases ht
  try dsimp only
  repeat' (first | with_reducible assumption | with_reducible apply State.emit_does (hW.of rfl) | split)

theorem execBeacon_does {W : Nat} (hW : Covers W 0x12010) {s₀ : State} (port : Fin 32) (env : Envelope) (txTime echoTime : BitVec 64) (dwell : BitVec 32) (stratum : BitVec 4) {s s₁ : State} (hk : Does W s₀ s) (ht : execBeacon port env txTime echoTime dwell stratum s = .next s₁) :
    Does W s₀ s₁ := by
  cases ht
  try dsimp only
  repeat' (first
    | with_reducible assumption | with_reducible apply State.control_does (hW.of rfl)
    | with_reducible apply State.beaconIn_does (hW.of rfl) | (intro _ _))

theorem State.dhcpSend_does {W : Nat} (hW : Covers W 0x20000080000000000) {s₀ : State} (e : Bool) (mac : BitVec 48) (request : Bool) {s : State} (hk : Does W s₀ s) :
    Does W s₀ (State.dhcpSend s e mac request) := by
  unfold State.dhcpSend
  try dsimp only
  repeat' (first | with_reducible assumption | with_reducible apply State.sendFrame_does (hW.of rfl))

theorem State.dhcpStart_does {W : Nat} (hW : Covers W 0x20000080000000000) {s₀ : State} (e : Bool) {s : State} (hk : Does W s₀ s) :
    Does W s₀ (State.dhcpStart s e) := by
  unfold State.dhcpStart
  try dsimp only
  repeat' (first
    | with_reducible assumption | with_reducible apply State.dhcpSend_does (hW.of rfl) | split
    | (with_reducible intro _; intros; (try dsimp only)))

theorem execEthLinkUp_does {W : Nat} (hW : Covers W 0x20000080000000000) {s₀ : State} (port : Bool) {s s₁ : State} (hk : Does W s₀ s) (ht : execEthLinkUp port s = .next s₁) :
    Does W s₀ s₁ := by
  cases ht
  try dsimp only
  repeat' (first
    | with_reducible assumption | with_reducible apply State.modEth_does (hW.of rfl)
    | with_reducible apply State.dhcpStart_does (hW.of rfl) | split | (with_reducible intro _; intros; (try dsimp only)))

theorem execEthLinkDown_does {W : Nat} (hW : Covers W 0x20800000100E0) {s₀ : State} (port : Bool) {s s₁ : State} (hk : Does W s₀ s) (ht : execEthLinkDown port s = .next s₁) :
    Does W s₀ s₁ := by
  cases ht
  try dsimp only
  repeat' (first | with_reducible assumption | with_reducible apply State.ethDown_does (hW.of rfl))

theorem execArpRequest_does {W : Nat} (hW : Covers W 0x20000080000000000) {s₀ : State} (port : Bool) (frame : EthFrame) (srcMac : BitVec 48) (target : BitVec 32) {s s₁ : State} (hk : Does W s₀ s) (ht : execArpRequest port frame srcMac target s = .next s₁) :
    Does W s₀ s₁ := by
  cases ht
  try dsimp only
  repeat' (first
    | with_reducible assumption | with_reducible apply State.withFrame_does (hW.of rfl)
    | with_reducible apply State.sendFrame_does (hW.of rfl) | split | (with_reducible intro _; intros; (try dsimp only)))

theorem execNeighbourSolicitation_does {W : Nat} (hW : Covers W 0x20000080000000000) {s₀ : State} (port : Bool) (frame : EthFrame) (srcMac : BitVec 48) (target : BitVec 128) {s s₁ : State} (hk : Does W s₀ s) (ht : execNeighbourSolicitation port frame srcMac target s = .next s₁) :
    Does W s₀ s₁ := by
  cases ht
  try dsimp only
  repeat' (first
    | with_reducible assumption | with_reducible apply State.withFrame_does (hW.of rfl)
    | with_reducible apply State.sendFrame_does (hW.of rfl) | split | (with_reducible intro _; intros; (try dsimp only)))

theorem execEchoRequest_does {W : Nat} (hW : Covers W 0x20000080000000000) {s₀ : State} (port : Bool) (frame : EthFrame) (srcMac : BitVec 48) (target : BitVec 128) (payload : List Byte) {s s₁ : State} (hk : Does W s₀ s) (ht : execEchoRequest port frame srcMac target payload s = .next s₁) :
    Does W s₀ s₁ := by
  cases ht
  try dsimp only
  repeat' (first
    | with_reducible assumption | with_reducible apply State.withFrame_does (hW.of rfl)
    | with_reducible apply State.sendFrame_does (hW.of rfl) | split | (with_reducible intro _; intros; (try dsimp only)))

theorem execDhcpMessage_does {W : Nat} (hW : Covers W 0x20000080000000000) {s₀ : State} (port : Bool) (frame : EthFrame) (srcMac : BitVec 48) (msg : DhcpMsg) {s s₁ : State} (hk : Does W s₀ s) (ht : execDhcpMessage port frame srcMac msg s = .next s₁) :
    Does W s₀ s₁ := by
  cases ht
  try dsimp only
  repeat' (first
    | with_reducible assumption | with_reducible apply State.modEth_does (hW.of rfl)
    | with_reducible apply State.withFrame_does (hW.of rfl) | with_reducible apply State.dhcpSend_does (hW.of rfl)
    | with_reducible apply State.dhcpStart_does (hW.of rfl) | split
    | (with_reducible refine Does.of_pair (by with_reducible assumption) ?_)
    | (with_reducible intro _; intros; (try dsimp only)))

theorem State.ipv4Write_does {W : Nat} (hW : Covers W 0x20000080000000000) {s₀ : State} (e : Bool) (v : Word) {s : State} (hk : Does W s₀ s) :
    Does W s₀ (State.ipv4Write s e v) := by
  unfold State.ipv4Write
  try dsimp only
  repeat' (first
    | with_reducible assumption | with_reducible apply State.modEth_does (hW.of rfl)
    | with_reducible apply State.dhcpStart_does (hW.of rfl) | split | (with_reducible intro _; intros; (try dsimp only)))

theorem execDiscardedFrame_does {W : Nat} (hW : Covers W 0x80000000000) {s₀ : State} (port : Bool) (frame : EthFrame) {s s₁ : State} (hk : Does W s₀ s) (ht : execDiscardedFrame port frame s = .next s₁) :
    Does W s₀ s₁ := by
  cases ht
  try dsimp only
  repeat' (first | with_reducible assumption | with_reducible apply State.withFrame_does (hW.of rfl) | (exact fun _ h => h))

theorem State.pauseClass_does {W : Nat} (hW : Covers W 0x80000000020) {s₀ : State} (e : Bool) (t till : Nat) {s : State} (hk : Does W s₀ s) :
    Does W s₀ (State.pauseClass s e t till) := by
  unfold State.pauseClass
  try dsimp only
  repeat' (first
    | with_reducible assumption | with_reducible apply State.waitBegin_does (hW.of rfl)
    | with_reducible apply State.modEth_does (hW.of rfl) | split | (with_reducible intro _; intros; (try dsimp only)))

theorem State.resumeClass_does {W : Nat} (hW : Covers W 0x200000800000000E0) {s₀ : State} (e : Bool) (t : Nat) {s : State} (hk : Does W s₀ s) :
    Does W s₀ (State.resumeClass s e t) := by
  unfold State.resumeClass
  try dsimp only
  repeat' (first
    | with_reducible assumption | with_reducible apply State.waitEnd_does (hW.of rfl)
    | with_reducible apply State.modEth_does (hW.of rfl) | with_reducible apply State.classGo_does (hW.of rfl))

theorem execPfcFrame_does {W : Nat} (hW : Covers W 0x200000800000000E0) {s₀ : State} (port : Bool) (frame : EthFrame) (enable : BitVec 8) (quanta : List (BitVec 16)) {s s₁ : State} (hk : Does W s₀ s) (ht : execPfcFrame port frame enable quanta s = .next s₁) :
    Does W s₀ s₁ := by
  cases ht
  try dsimp only
  repeat' (first
    | with_reducible assumption | with_reducible apply State.withControl_does (hW.of rfl)
    | with_reducible apply State.pauseClass_does (hW.of rfl) | with_reducible apply State.resumeClass_does (hW.of rfl)
    | (with_reducible apply Does.foldl; intro _ _ _) | split | (with_reducible intro _; intros; (try dsimp only)))

theorem execPfcPauseExpiry_does {W : Nat} (hW : Covers W 0x200000800000000E0) {s₀ : State} (port : Bool) (cls : Fin 8) {s s₁ : State} (hk : Does W s₀ s) (ht : execPfcPauseExpiry port cls s = .next s₁) :
    Does W s₀ s₁ := by
  cases ht
  try dsimp only
  repeat' (first
    | with_reducible assumption | with_reducible apply State.resumeClass_does (hW.of rfl) | split
    | (with_reducible intro _; intros; (try dsimp only)))

theorem execPfcWatchdog_does {W : Nat} (hW : Covers W 0x200000800000000E0) {s₀ : State} (port : Bool) (cls : Fin 8) {s s₁ : State} (hk : Does W s₀ s) (ht : execPfcWatchdog port cls s = .next s₁) :
    Does W s₀ s₁ := by
  cases ht
  try dsimp only
  repeat' (first
    | with_reducible assumption | with_reducible apply State.waitEnd_does (hW.of rfl)
    | with_reducible apply State.modEth_does (hW.of rfl) | with_reducible apply State.classGo_does (hW.of rfl) | split
    | (with_reducible intro _; intros; (try dsimp only)))

theorem State.occupy_does {W : Nat} (hW : Covers W 0x80000000000) {s₀ : State} (e : Bool) (t n : Nat) {s : State} (hk : Does W s₀ s) :
    Does W s₀ (State.occupy s e t n) := by
  unfold State.occupy
  try dsimp only
  repeat' (first
    | with_reducible assumption | with_reducible apply State.modEth_does (hW.of rfl) | split
    | (with_reducible intro _; intros; (try dsimp only)))

theorem State.pfcSend_does {W : Nat} (hW : Covers W 0x20000080000000000) {s₀ : State} (e : Bool) (t : Nat) (on : Bool) {s : State} (hk : Does W s₀ s) :
    Does W s₀ (State.pfcSend s e t on) := by
  unfold State.pfcSend
  try dsimp only
  repeat' (first
    | with_reducible assumption | with_reducible apply State.emit_does (hW.of rfl)
    | with_reducible apply State.modEth_does (hW.of rfl) | split | (with_reducible intro _; intros; (try dsimp only)))

theorem execPfcRepeat_does {W : Nat} (hW : Covers W 0x20000080000000000) {s₀ : State} (port : Bool) (cls : Fin 8) (occupancy : Nat) {s s₁ : State} (hk : Does W s₀ s) (ht : execPfcRepeat port cls occupancy s = .next s₁) :
    Does W s₀ s₁ := by
  cases ht
  try dsimp only
  repeat' (first
    | with_reducible assumption | with_reducible apply State.occupy_does (hW.of rfl)
    | with_reducible apply State.pfcSend_does (hW.of rfl) | split | (with_reducible intro _; intros; (try dsimp only)))

theorem State.notifyCongestion_does {W : Nat} (hW : Covers W 0x20000180000000000) {s₀ : State} (q : Nat) (x : Qp) {s : State} (hk : Does W s₀ s) :
    Does W s₀ (State.notifyCongestion s q x) := by
  unfold State.notifyCongestion
  try dsimp only
  repeat' (first
    | with_reducible assumption | with_reducible apply State.qpSend_does (hW.of rfl)
    | with_reducible apply State.modQp_does (hW.of rfl) | split
    | (with_reducible refine Does.of_pair (by with_reducible assumption) ?_)
    | (with_reducible intro _; intros; (try dsimp only)))

theorem State.roceMetered_does {W : Nat} (hW : Covers W 0x20000180000000000) {s₀ : State} (h : RoceHdr) (q : Nat) (c : Colour) {s : State} (hk : Does W s₀ s) :
    Does W s₀ (State.roceMetered s h q c).2 := by
  unfold State.roceMetered
  try dsimp only
  repeat' (first
    | with_reducible assumption | with_reducible apply State.modEth_does (hW.of rfl)
    | with_reducible apply State.notifyCongestion_does (hW.of rfl) | split
    | (with_reducible refine Does.of_pair (by with_reducible assumption) ?_)
    | (with_reducible intro _; intros; (try dsimp only)))

theorem State.roceIn_does {W : Nat} (hW : Covers W 0x20001180000000100) {s₀ : State} (h : RoceHdr) {s : State} (hk : Does W s₀ s) :
    Does W s₀ (State.roceIn s h).2 := by
  unfold State.roceIn
  try dsimp only
  repeat' (first
    | with_reducible assumption | with_reducible apply State.modEth_does (hW.of rfl)
    | with_reducible apply State.frameIn_does (hW.of rfl) | with_reducible apply State.meterArrive_does (hW.of rfl)
    | with_reducible apply State.roceMetered_does (hW.of rfl) | split
    | (with_reducible refine Does.of_pair (by with_reducible assumption) ?_)
    | (with_reducible intro _; intros; (try dsimp only)))

theorem State.roceAnswer_does {W : Nat} (hW : Covers W 0x20000080000000000) {s₀ : State} (x : Qp) (psn : BitVec 24) (a : RoceSyn) {s : State} (hk : Does W s₀ s) :
    Does W s₀ (State.roceAnswer s x psn a) := by
  unfold State.roceAnswer
  try dsimp only
  repeat' (first | with_reducible assumption | with_reducible apply State.qpSend_does (hW.of rfl))

theorem State.qpError_does {W : Nat} (hW : Covers W 0x100000000000) {s₀ : State} (q : Nat) {s : State} (hk : Does W s₀ s) :
    Does W s₀ (State.qpError s q) := by
  unfold State.qpError
  try dsimp only
  repeat' (first | with_reducible assumption | with_reducible apply State.modQp_does (hW.of rfl))

theorem State.goBack_does {W : Nat} (hW : Covers W 0x20000080000000000) {s₀ : State} (q : Nat) (n : BitVec 24) {s : State} (hk : Does W s₀ s) :
    Does W s₀ (State.goBack s q n) := by
  unfold State.goBack
  try dsimp only
  repeat' (first
    | with_reducible assumption | with_reducible apply State.roceEmit_does (hW.of rfl)
    | (with_reducible apply Does.foldl; intro _ _ _) | split | (with_reducible refine Does.of_pair (by with_reducible assumption) ?_))

theorem State.retransmit_does {W : Nat} (hW : Covers W 0x20000180000000000) {s₀ : State} (q : Nat) (n : BitVec 24) {s : State} (hk : Does W s₀ s) :
    Does W s₀ (State.retransmit s q n) := by
  unfold State.retransmit
  try dsimp only
  repeat' (first
    | with_reducible assumption | with_reducible apply State.modQp_does (hW.of rfl)
    | with_reducible apply State.qpError_does (hW.of rfl) | with_reducible apply State.goBack_does (hW.of rfl) | split
    | (with_reducible refine Does.of_pair (by with_reducible assumption) ?_))

theorem State.roceAcked_does {W : Nat} (hW : Covers W 0x100000000000) {s₀ : State} (q : Nat) (n : BitVec 24) {s : State} (hk : Does W s₀ s) :
    Does W s₀ (State.roceAcked s q n) := by
  unfold State.roceAcked
  try dsimp only
  repeat' (first | with_reducible assumption | with_reducible apply State.modQp_does (hW.of rfl) | split)

theorem execRdmaAcknowledge_does {W : Nat} (hW : Covers W 0x20001180000000100) {s₀ : State} (hdr : RoceHdr) (syn : RoceSyn) {s s₁ : State} (hk : Does W s₀ s) (ht : execRdmaAcknowledge hdr syn s = .next s₁) :
    Does W s₀ s₁ := by
  cases ht
  try dsimp only
  repeat' (first
    | with_reducible assumption | with_reducible apply State.roceIn_does (hW.of rfl)
    | with_reducible apply State.qpError_does (hW.of rfl) | with_reducible apply State.goBack_does (hW.of rfl)
    | with_reducible apply State.retransmit_does (hW.of rfl) | with_reducible apply State.roceAcked_does (hW.of rfl) | split
    | (with_reducible refine Does.of_pair (by with_reducible assumption) ?_))

theorem execAckTimeout_does {W : Nat} (hW : Covers W 0x20000180000000000) {s₀ : State} (queue : BitVec 14) {s s₁ : State} (hk : Does W s₀ s) (ht : execAckTimeout queue s = .next s₁) :
    Does W s₀ s₁ := by
  cases ht
  try dsimp only
  repeat' (first
    | with_reducible assumption | with_reducible apply State.retransmit_does (hW.of rfl) | split
    | (with_reducible refine Does.of_pair (by with_reducible assumption) ?_))

theorem execRdmaRequestToPart_does {W : Nat} (hW : Covers W 0x20001180000000100) {s₀ : State} (hdr : RoceHdr) (req : RoceReq) {s s₁ : State} (hk : Does W s₀ s) (ht : execRdmaRequestToPart hdr req s = .next s₁) :
    Does W s₀ s₁ := by
  cases ht
  try dsimp only
  repeat' (first
    | with_reducible assumption | with_reducible apply State.roceIn_does (hW.of rfl)
    | with_reducible apply State.roceAnswer_does (hW.of rfl) | split
    | (with_reducible refine Does.of_pair (by with_reducible assumption) ?_))

theorem execCnp_does {W : Nat} (hW : Covers W 0x20001180000000100) {s₀ : State} (hdr : RoceHdr) {s s₁ : State} (hk : Does W s₀ s) (ht : execCnp hdr s = .next s₁) :
    Does W s₀ s₁ := by
  cases ht
  try dsimp only
  repeat' (first
    | with_reducible assumption | with_reducible apply State.modQp_does (hW.of rfl)
    | with_reducible apply State.roceIn_does (hW.of rfl) | split
    | (with_reducible refine Does.of_pair (by with_reducible assumption) ?_))

theorem execRateIncrease_does {W : Nat} (hW : Covers W 0x100000000000) {s₀ : State} (queue : BitVec 14) {s s₁ : State} (hk : Does W s₀ s) (ht : execRateIncrease queue s = .next s₁) :
    Does W s₀ s₁ := by
  cases ht
  try dsimp only
  repeat' (first | with_reducible assumption | with_reducible apply State.modQp_does (hW.of rfl))

theorem State.sendPart_does {W : Nat} (hW : Covers W 0x2100058000000E1E0) {s₀ : State} (q : Nat) (x : Qp) (hdr : RoceHdr) (part : RocePart) (data : List Byte) (c : Colour) {s : State} (hk : Does W s₀ s) :
    Does W s₀ (State.sendPart s q x hdr part data c) := by
  unfold State.sendPart
  try dsimp only
  repeat' (first
    | with_reducible assumption | with_reducible apply State.takeEntry_does (hW.of rfl)
    | with_reducible apply State.modQp_does (hW.of rfl) | with_reducible apply State.roceAnswer_does (hW.of rfl)
    | (with_reducible apply Does.foldl; intro _ _ _) | split)

theorem execSend_does {W : Nat} (hW : Covers W 0x2100158000000E1E0) {s₀ : State} (hdr : RoceHdr) (part : RocePart) (data : List Byte) {s s₁ : State} (hk : Does W s₀ s) (ht : execSend hdr part data s = .next s₁) :
    Does W s₀ s₁ := by
  cases ht
  try dsimp only
  repeat' (first
    | with_reducible assumption | with_reducible apply State.roceIn_does (hW.of rfl)
    | with_reducible apply State.roceAnswer_does (hW.of rfl) | with_reducible apply State.sendPart_does (hW.of rfl) | split
    | (with_reducible refine Does.of_pair (by with_reducible assumption) ?_))

theorem State.fetched_does {W : Nat} (hW : Covers W 0x210005BFE6FA4E1E0) {s₀ : State} (q id : Nat) (d : List Byte) (media : List Medium) {s : State} (hk : Does W s₀ s) :
    Does W s₀ (State.fetched s q id d media) := by
  unfold State.fetched
  try dsimp only
  repeat' (first
    | with_reducible assumption | with_reducible apply State.completeStatus_does (hW.of rfl)
    | with_reducible apply State.fetchDrop_does (hW.of rfl) | with_reducible apply State.fetchedWrite_does (hW.of rfl)
    | with_reducible apply State.cohEnd_does (hW.of rfl) | split
    | (with_reducible refine Does.of_pair (by with_reducible assumption) ?_)
    | (with_reducible intro _; intros; (try dsimp only)))

theorem execRdmaReadResponse_does {W : Nat} (hW : Covers W 0x210015BFE6FA4E1E0) {s₀ : State} (hdr : RoceHdr) (data : List Byte) (media : List Medium) {s s₁ : State} (hk : Does W s₀ s) (ht : execRdmaReadResponse hdr data media s = .next s₁) :
    Does W s₀ s₁ := by
  cases ht
  try dsimp only
  repeat' (first
    | with_reducible assumption | with_reducible apply State.modQp_does (hW.of rfl)
    | with_reducible apply State.roceIn_does (hW.of rfl) | with_reducible apply State.roceAcked_does (hW.of rfl)
    | with_reducible apply State.fetched_does (hW.of rfl) | split
    | (with_reducible refine Does.of_pair (by with_reducible assumption) ?_))

theorem State.ethKeyFor_does {W : Nat} (hW : Covers W 0x2000000000000) {s₀ : State} (secret h : Nat) {s : State} (hk : Does W s₀ s) :
    Does W s₀ (State.ethKeyFor s secret h) := by
  unfold State.ethKeyFor
  try dsimp only
  repeat' (first
    | with_reducible assumption | split | with_reducible apply Does.upd_2000000000000 (hW.of rfl)
    | (with_reducible intro _; intros; (try dsimp only)))

theorem State.writeHelds_does {W : Nat} (hW : Covers W 0x2100058000000E1E0) {s₀ : State} (q : Nat) :
    ∀ (l0 : Nat), ∀ {s : State}, Does W s₀ s → Does W s₀ (State.writeHelds s q l0) := by
  intro l0
  induction l0 generalizing q with
  | zero =>
    intro s hk
    unfold State.writeHelds
    try dsimp only
    repeat' (first
      | with_reducible assumption | with_reducible apply State.writeHeld_does (hW.of rfl) | split
      | (with_reducible refine Does.of_pair (by with_reducible assumption) ?_)
      | (with_reducible intro _; intros; (try dsimp only)))
  | succ r ih =>
    intro s hk
    unfold State.writeHelds
    try dsimp only
    repeat' (first
      | with_reducible apply ih | with_reducible assumption | with_reducible apply State.writeHeld_does (hW.of rfl) | split
      | (with_reducible refine Does.of_pair (by with_reducible assumption) ?_)
      | (with_reducible intro _; intros; (try dsimp only)))

theorem State.connect_does {W : Nat} (hW : Covers W 0x6100258000000E1E0) {s₀ : State} (k secret : Nat) (p : QpParams) {s : State} (hk : Does W s₀ s) :
    Does W s₀ (State.connect s k secret p).2 := by
  unfold State.connect
  try dsimp only
  repeat' (first
    | with_reducible assumption | with_reducible apply State.draw_does (hW.of rfl)
    | with_reducible apply State.modQueue_does (hW.of rfl) | with_reducible apply State.roceSend_does (hW.of rfl)
    | with_reducible apply State.tagHeads_does (hW.of rfl) | with_reducible apply State.ethKeyFor_does (hW.of rfl)
    | with_reducible apply State.writeHelds_does (hW.of rfl) | (with_reducible apply Does.foldl; intro _ _ _) | split
    | (with_reducible refine Does.of_pair (by with_reducible assumption) ?_)
    | with_reducible apply Does.upd_100000000000 (hW.of rfl) | (with_reducible intro _; intros; (try dsimp only)))

theorem execQpConnect_does {W : Nat} (hW : Covers W 0x6140378000000E1E0) {s₀ : State} (hdr : KmpHdr) (p : QpParams) (reserved : Bool) {s s₁ : State} (hk : Does W s₀ s) (ht : execQpConnect hdr p reserved s = .next s₁) :
    Does W s₀ s₁ := by
  cases ht
  try dsimp only
  repeat' (first
    | with_reducible assumption | with_reducible apply State.kmpRequest_does (hW.of rfl)
    | with_reducible apply State.connect_does (hW.of rfl) | split
    | (with_reducible refine Does.of_pair (by with_reducible assumption) ?_) | (with_reducible intro _; intros; (try dsimp only)))

theorem execDiscover_does {W : Nat} (hW : Covers W 0x21403280000000100) {s₀ : State} (hdr : KmpHdr) {s s₁ : State} (hk : Does W s₀ s) (ht : execDiscover hdr s = .next s₁) :
    Does W s₀ s₁ := by
  cases ht
  try dsimp only
  repeat' (first
    | with_reducible assumption | with_reducible apply State.kmpSend_does (hW.of rfl)
    | with_reducible apply State.kmpArrive_does (hW.of rfl) | with_reducible apply State.kmpRequest_does (hW.of rfl) | split
    | (with_reducible refine Does.of_pair (by with_reducible assumption) ?_)
    | refine State.kmpArrive_some (hW := hW.of rfl) (hk := ?_) (ht := by with_reducible assumption)
    | (with_reducible intro _; intros; (try dsimp only)))

theorem execEventAck_does {W : Nat} (hW : Covers W 0x401280000000100) {s₀ : State} (hdr : KmpHdr) {s s₁ : State} (hk : Does W s₀ s) (ht : execEventAck hdr s = .next s₁) :
    Does W s₀ s₁ := by
  cases ht
  try dsimp only
  repeat' (first
    | with_reducible assumption | with_reducible apply State.modSession_does (hW.of rfl)
    | with_reducible apply State.kmpArrive_does (hW.of rfl) | with_reducible apply State.noteMgmt_does (hW.of rfl) | split
    | (with_reducible refine Does.of_pair (by with_reducible assumption) ?_)
    | refine State.kmpArrive_some (hW := hW.of rfl) (hk := ?_) (ht := by with_reducible assumption)
    | (with_reducible intro _; intros; (try dsimp only)))

theorem execEventRetransmit_does {W : Nat} (hW : Covers W 0x20000280000000000) {s₀ : State} (slot : Fin 32) (seq : BitVec 32) {s s₁ : State} (hk : Does W s₀ s) (ht : execEventRetransmit slot seq s = .next s₁) :
    Does W s₀ s₁ := by
  cases ht
  try dsimp only
  repeat' (first
    | with_reducible assumption | with_reducible apply State.sendFrame_does (hW.of rfl)
    | with_reducible apply State.modSession_does (hW.of rfl) | split
    | (with_reducible refine Does.of_pair (by with_reducible assumption) ?_)
    | (with_reducible intro _; intros; (try dsimp only)))

theorem execKmpKeepalive_does {W : Nat} (hW : Covers W 0x21403280000000100) {s₀ : State} (hdr : KmpHdr) {s s₁ : State} (hk : Does W s₀ s) (ht : execKmpKeepalive hdr s = .next s₁) :
    Does W s₀ s₁ := by
  cases ht
  try dsimp only
  repeat' (first
    | with_reducible assumption | with_reducible apply State.kmpRequest_does (hW.of rfl) | split
    | (with_reducible intro _; intros; (try dsimp only)))

theorem execEnd_does {W : Nat} (hW : Covers W 0x21C03280000000590) {s₀ : State} (hdr : KmpHdr) {s s₁ : State} (hk : Does W s₀ s) (ht : execEnd hdr s = .next s₁) :
    Does W s₀ s₁ := by
  cases ht
  try dsimp only
  repeat' (first
    | with_reducible assumption | with_reducible apply State.kmpRequest_does (hW.of rfl)
    | with_reducible apply State.endSession_does (hW.of rfl) | split | (with_reducible intro _; intros; (try dsimp only)))

theorem execSessionTimeout_does {W : Nat} (hW : Covers W 0xC00200000000490) {s₀ : State} (slot : Fin 32) {s s₁ : State} (hk : Does W s₀ s) (ht : execSessionTimeout slot s = .next s₁) :
    Does W s₀ s₁ := by
  cases ht
  try dsimp only
  repeat' (first | with_reducible assumption | with_reducible apply State.endSession_does (hW.of rfl) | split)

theorem State.leaseCycle_does {W : Nat} (hW : Covers W 0x20000080000000000) {s₀ : State} (e : Bool) {s : State} (hk : Does W s₀ s) :
    Does W s₀ (State.leaseCycle s e) := by
  unfold State.leaseCycle
  try dsimp only
  repeat' (first
    | with_reducible assumption | with_reducible apply State.modEth_does (hW.of rfl)
    | with_reducible apply State.dhcpSend_does (hW.of rfl) | with_reducible apply State.dhcpStart_does (hW.of rfl) | split
    | (with_reducible intro _; intros; (try dsimp only)))

theorem State.ptpAnnounce_does {W : Nat} (hW : Covers W 0x2000000000000) {s₀ : State} (src : BitVec 80) (rank : BitVec 128) (logInterval : Nat) {s : State} (hk : Does W s₀ s) :
    Does W s₀ (State.ptpAnnounce s src rank logInterval) := by
  unfold State.ptpAnnounce
  try dsimp only
  repeat' (first | with_reducible assumption | with_reducible apply Does.upd_2000000000000 (hW.of rfl))

theorem State.ptpAsk_does {W : Nat} (hW : Covers W 0x20002080000000000) {s₀ : State} (via : PtpTransport) (t1 : BitVec 64) {s : State} (hk : Does W s₀ s) :
    Does W s₀ (State.ptpAsk s via t1) := by
  unfold State.ptpAsk
  try dsimp only
  repeat' (first
    | with_reducible assumption | with_reducible apply State.sendFrame_does (hW.of rfl)
    | with_reducible apply Does.upd_2000000000000 (hW.of rfl))

theorem State.ptpAnswer_does {W : Nat} (hW : Covers W 0x2000000010010) {s₀ : State} (t1 t4 : BitVec 64) (corr : Int) {s : State} (hk : Does W s₀ s) :
    Does W s₀ (State.ptpAnswer s t1 t4 corr) := by
  unfold State.ptpAnswer
  try dsimp only
  repeat' (first
    | with_reducible assumption | with_reducible apply State.chooseSource_does (hW.of rfl)
    | with_reducible apply State.correct_does (hW.of rfl) | split | with_reducible apply Does.upd_2000000010000 (hW.of rfl)
    | with_reducible apply Does.upd_10000 (hW.of rfl) | (with_reducible intro _; intros; (try dsimp only)))

theorem State.ptpMaster_does {W : Nat} (hW : Covers W 0x20002080000010010) {s₀ : State} (f : PtpFrame) {s : State} (hk : Does W s₀ s) :
    Does W s₀ (State.ptpMaster s f) := by
  unfold State.ptpMaster
  try dsimp only
  repeat' (first
    | with_reducible assumption | with_reducible apply State.ptpAsk_does (hW.of rfl)
    | with_reducible apply State.ptpAnswer_does (hW.of rfl) | split
    | (with_reducible refine Does.of_pair (by with_reducible assumption) ?_)
    | with_reducible apply Does.upd_2000000000000 (hW.of rfl) | (with_reducible intro _; intros; (try dsimp only)))

theorem execPtpMessage_does {W : Nat} (hW : Covers W 0x20002080000010010) {s₀ : State} (port : Bool) (frame : EthFrame) (domain : BitVec 8) (msg : PtpFrame) {s s₁ : State} (hk : Does W s₀ s) (ht : execPtpMessage port frame domain msg s = .next s₁) :
    Does W s₀ s₁ := by
  cases ht
  try dsimp only
  repeat' (first
    | with_reducible assumption | with_reducible apply State.withFrame_does (hW.of rfl)
    | with_reducible apply State.ptpAnnounce_does (hW.of rfl) | with_reducible apply State.ptpMaster_does (hW.of rfl) | split
    | (with_reducible refine Does.of_pair (by with_reducible assumption) ?_)
    | (with_reducible intro _; intros; (try dsimp only)))

theorem State.ethCycle_does {W : Nat} (hW : Covers W 0x20002080000010000) {s₀ : State} {s : State} (hk : Does W s₀ s) :
    Does W s₀ (State.ethCycle s) := by
  unfold State.ethCycle
  try dsimp only
  repeat' (first
    | with_reducible assumption | with_reducible apply State.ptpLost_does (hW.of rfl)
    | with_reducible apply State.leaseCycle_does (hW.of rfl) | split | (with_reducible intro _; intros; (try dsimp only)))

theorem State.modTrig_does {W : Nat} (hW : Covers W 0x80) {s₀ : State} (f : Trigger → Trigger) {s : State} (hk : Does W s₀ s) :
    Does W s₀ (State.modTrig s f) := by
  unfold State.modTrig
  try dsimp only
  repeat' (first | with_reducible assumption | with_reducible apply Does.upd_80 (hW.of rfl))

theorem execFire_does {W : Nat} (hW : Covers W 0x80) {s₀ : State} (path : Path) {s s₁ : State} (hk : Does W s₀ s) (ht : execFire path s = .next s₁) :
    Does W s₀ s₁ := by
  cases ht
  try dsimp only
  repeat' (first | with_reducible assumption | with_reducible apply State.fire_does (hW.of rfl) | split)

theorem State.rearm_does {W : Nat} (hW : Covers W 0xA0) {s₀ : State} {s : State} (hk : Does W s₀ s) :
    Does W s₀ (State.rearm s) := by
  unfold State.rearm
  try dsimp only
  repeat' (first | with_reducible assumption | with_reducible apply Does.upd_A0 (hW.of rfl))

theorem execRearm_does {W : Nat} (hW : Covers W 0xA0) {s₀ : State} (path : Path) {s s₁ : State} (hk : Does W s₀ s) (ht : execRearm path s = .next s₁) :
    Does W s₀ s₁ := by
  cases ht
  try dsimp only
  repeat' (first | with_reducible assumption | with_reducible apply State.rearm_does (hW.of rfl) | split)

theorem State.closePost_does {W : Nat} (hW : Covers W 0xE0) {s₀ : State} {s : State} (hk : Does W s₀ s) :
    Does W s₀ (State.closePost s) := by
  unfold State.closePost
  try dsimp only
  repeat' (first
    | with_reducible assumption | with_reducible apply State.putWait_does (hW.of rfl)
    | with_reducible apply State.modTrig_does (hW.of rfl) | (with_reducible apply Does.foldl; intro _ _ _) | split
    | (with_reducible intro _; intros; (try dsimp only)))

theorem execPostWindowEnd_does {W : Nat} (hW : Covers W 0xE0) {s₀ : State} {s s₁ : State} (hk : Does W s₀ s) (ht : execPostWindowEnd s = .next s₁) :
    Does W s₀ s₁ := by
  cases ht
  try dsimp only
  repeat' (first | with_reducible assumption | with_reducible apply State.closePost_does (hW.of rfl) | split)

theorem State.takeRecords_does {W : Nat} (hW : Covers W 0x40) {s₀ : State} (n : Nat) :
    ∀ (l0 : List Nat), ∀ {s : State}, Does W s₀ s → Does W s₀ (State.takeRecords s n l0).2 := by
  intro l0
  induction l0 generalizing n with
  | nil =>
    intro s hk
    unfold State.takeRecords
    try dsimp only
    repeat' (first
      | with_reducible assumption | split | (with_reducible refine Does.of_pair (by with_reducible assumption) ?_)
      | with_reducible apply Does.upd_40 (hW.of rfl) | (with_reducible intro _; intros; (try dsimp only)))
  | cons x r ih =>
    intro s hk
    unfold State.takeRecords
    try dsimp only
    repeat' (first
      | with_reducible apply ih | with_reducible assumption | split
      | (with_reducible refine Does.of_pair (by with_reducible assumption) ?_) | with_reducible apply Does.upd_40 (hW.of rfl)
      | (with_reducible intro _; intros; (try dsimp only)))

theorem State.loseRecords_does {W : Nat} (hW : Covers W 0x40) {s₀ : State} {s : State} (hk : Does W s₀ s) :
    Does W s₀ (State.loseRecords s) := by
  unfold State.loseRecords
  try dsimp only
  repeat' (first
    | with_reducible assumption | split | (with_reducible refine Does.of_pair (by with_reducible assumption) ?_)
    | with_reducible apply Does.upd_40 (hW.of rfl))

theorem execTraceSend_does {W : Nat} (hW : Covers W 0x210002800000000C0) {s₀ : State} {s s₁ : State} (hk : Does W s₀ s) (ht : execTraceSend s = .next s₁) :
    Does W s₀ s₁ := by
  cases ht
  try dsimp only
  repeat' (first
    | with_reducible assumption | with_reducible apply State.kmpOwn_does (hW.of rfl)
    | with_reducible apply State.modTrig_does (hW.of rfl) | with_reducible apply State.takeRecords_does (hW.of rfl)
    | with_reducible apply State.loseRecords_does (hW.of rfl) | split
    | (with_reducible refine Does.of_pair (by with_reducible assumption) ?_)
    | (with_reducible intro _; intros; (try dsimp only)))

theorem State.setTarget_does {W : Nat} (hW : Covers W 0x80) {s₀ : State} (k : Nat) {s : State} (hk : Does W s₀ s) :
    Does W s₀ (State.setTarget s k) := by
  unfold State.setTarget
  try dsimp only
  repeat' (first | with_reducible assumption | with_reducible apply State.modTrig_does (hW.of rfl) | split)

theorem execKmpTargetSet_does {W : Nat} (hW : Covers W 0x80) {s₀ : State} (slot : Fin 32) {s s₁ : State} (hk : Does W s₀ s) (ht : execKmpTargetSet slot s = .next s₁) :
    Does W s₀ s₁ := by
  cases ht
  try dsimp only
  repeat' (first | with_reducible assumption | with_reducible apply State.setTarget_does (hW.of rfl) | split)

theorem State.setTail_does {W : Nat} (hW : Covers W 0xC0) {s₀ : State} (v : BitVec 25) {s : State} (hk : Does W s₀ s) :
    Does W s₀ (State.setTail s v) := by
  unfold State.setTail
  try dsimp only
  repeat' (first
    | with_reducible assumption | with_reducible apply State.exportDrain_does (hW.of rfl)
    | with_reducible apply State.modTrig_does (hW.of rfl) | (with_reducible apply Does.foldl; intro _ _ _))

theorem execExportTailAdvance_does {W : Nat} (hW : Covers W 0xC0) {s₀ : State} (path : Path) (tail : BitVec 25) {s s₁ : State} (hk : Does W s₀ s) (ht : execExportTailAdvance path tail s = .next s₁) :
    Does W s₀ s₁ := by
  cases ht
  try dsimp only
  repeat' (first | with_reducible assumption | with_reducible apply State.setTail_does (hW.of rfl) | split)

theorem State.counterReset_does {W : Nat} (hW : Covers W 0x4000000000000300) {s₀ : State} (h block : Nat) (all : Bool) {s : State} (hk : Does W s₀ s) :
    Does W s₀ (State.counterReset s h block all) := by
  unfold State.counterReset
  try dsimp only
  repeat' (first
    | with_reducible assumption | with_reducible apply State.modPwr_does (hW.of rfl)
    | with_reducible apply State.resetGroup_does (hW.of rfl) | (with_reducible apply Does.foldl; intro _ _ _) | split)

theorem execCounterReset_does {W : Nat} (hW : Covers W 0x4000000000000300) {s₀ : State} (path : Path) (hub : Fin 8) (block : BitVec 8) (all : Bool) {s s₁ : State} (hk : Does W s₀ s) (ht : execCounterReset path hub block all s = .next s₁) :
    Does W s₀ s₁ := by
  cases ht
  try dsimp only
  repeat' (first | with_reducible assumption | with_reducible apply State.counterReset_does (hW.of rfl) | split)

theorem State.writeW1c_does {W : Nat} (hW : Covers W 0x85C8088008002040) {s₀ : State} (h b o : Nat) (v : Word) {s t : State} (hk : Does W s₀ s) (ht : State.writeW1c s h b o v = some t) : Does W s₀ t := by
  unfold State.writeW1c at ht
  (try dsimp only at ht)
  repeat' (first | split at ht | (injection ht; done) | (injection ht with ht; subst ht))
  all_goals repeat' (first
    | with_reducible assumption | with_reducible apply State.modPort_does (hW.of rfl)
    | with_reducible apply State.modMemHub_does (hW.of rfl) | with_reducible apply State.modEth_does (hW.of rfl)
    | with_reducible apply State.modTrn_does (hW.of rfl) | with_reducible apply State.modSlg_does (hW.of rfl)
    | with_reducible apply State.clearReclaim_does (hW.of rfl) | with_reducible apply State.modSi_does (hW.of rfl) | split
    | (with_reducible refine Does.of_pair (by with_reducible assumption) ?_)
    | with_reducible apply Does.upd_100000000000000 (hW.of rfl) | with_reducible apply Does.upd_8000000000000000 (hW.of rfl)
    | with_reducible apply Does.upd_40 (hW.of rfl) | with_reducible apply Does.upd_8000000000000 (hW.of rfl)
    | (with_reducible intro _; intros; (try dsimp only)) | exact fun _ => Nat.le_refl _ | exact fun _ => laterSerial_le _ _
    | exact laterSerial_le _ _ | exact Nat.le_refl _)

theorem State.siCommand_does {W : Nat} (hW : Covers W 0x7FFFFFFFF7FFFF7FC) {s₀ : State} (p : Path) (cmd : Nat) (m : Medium) {s : State} (hk : Does W s₀ s) :
    Does W s₀ (State.siCommand s p cmd m) := by
  unfold State.siCommand
  try dsimp only
  repeat' (first
    | with_reducible assumption | with_reducible apply State.siOpen_does (hW.of rfl)
    | with_reducible apply State.siValidate_does (hW.of rfl) | with_reducible apply State.siCommit_does (hW.of rfl)
    | with_reducible apply State.siCommitOnReset_does (hW.of rfl) | with_reducible apply State.siAbandon_does (hW.of rfl)
    | with_reducible apply State.siRevert_does (hW.of rfl) | split
    | (with_reducible refine Does.of_pair (by with_reducible assumption) ?_))

theorem State.deadCommand_does {W : Nat} (hW : Covers W 0x272FDDBFFFFA4E1E0) {s₀ : State} (p : Path) (v : Word) (m : Medium) {s : State} (hk : Does W s₀ s) :
    Does W s₀ (State.deadCommand s p v m) := by
  unfold State.deadCommand
  try dsimp only
  repeat' (first
    | with_reducible assumption | with_reducible apply State.cohDeadQuery_does (hW.of rfl)
    | with_reducible apply State.cohDeclare_does (hW.of rfl) | with_reducible apply State.cohReadmit_does (hW.of rfl)
    | with_reducible apply State.modSel_does (hW.of rfl) | split
    | (with_reducible refine Does.of_pair (by with_reducible assumption) ?_) | with_reducible apply Does.upd_20000000 (hW.of rfl))

theorem State.memCtl_does {W : Nat} (hW : Covers W 0x25C00040100) {s₀ : State} (h c : Nat) (v : Word) {s : State} (hk : Does W s₀ s) :
    Does W s₀ (State.memCtl s h c v) := by
  unfold State.memCtl
  try dsimp only
  repeat' (first
    | with_reducible assumption | with_reducible apply State.modChan_does (hW.of rfl)
    | with_reducible apply State.srExit_does (hW.of rfl) | with_reducible apply State.retrainCmd_does (hW.of rfl)
    | with_reducible apply State.srEnterCmd_does (hW.of rfl) | split)

theorem State.liftCommand_does {W : Nat} (hW : Covers W 0x656FC5BFEFFACE1E0) {s₀ : State} (v : Word) {s : State} (hk : Does W s₀ s) :
    Does W s₀ (State.liftCommand s v) := by
  unfold State.liftCommand
  try dsimp only
  repeat' (first
    | with_reducible assumption | with_reducible apply State.liftStart_does (hW.of rfl)
    | with_reducible apply State.liftCancel_does (hW.of rfl) | split
    | (with_reducible refine Does.of_pair (by with_reducible assumption) ?_))

theorem State.writeInt_does {W : Nat} (hW : Covers W 0x4219002DC00040100) {s₀ : State} (p : Path) (h o : Nat) (v : Word) (e : WriteEnv) {s : State} (hk : Does W s₀ s) :
    Does W s₀ (State.writeInt s p h o v e) := by
  unfold State.writeInt
  try dsimp only
  repeat' (first
    | with_reducible assumption | with_reducible apply State.modMemHub_does (hW.of rfl)
    | with_reducible apply State.logAck_does (hW.of rfl) | with_reducible apply State.pageRetire_does (hW.of rfl)
    | with_reducible apply State.pageRelease_does (hW.of rfl) | with_reducible apply State.rawWrite_does (hW.of rfl)
    | with_reducible apply State.rawRead_does (hW.of rfl) | with_reducible apply State.modSel_does (hW.of rfl) | split
    | (with_reducible refine Does.of_pair (by with_reducible assumption) ?_)
    | (with_reducible refine Does.of_fst (by with_reducible assumption) ?_) | with_reducible apply Does.upd_20000000000 (hW.of rfl))

theorem State.writeZll_does {W : Nat} (hW : Covers W 0x20000000000002000) {s₀ : State} (h o : Nat) (v : Word) {s : State} (hk : Does W s₀ s) :
    Does W s₀ (State.writeZll s h o v) := by
  unfold State.writeZll
  try dsimp only
  repeat' (first
    | with_reducible assumption | with_reducible apply State.modPort_does (hW.of rfl)
    | with_reducible apply State.request_does (hW.of rfl) | with_reducible apply State.narrow_does (hW.of rfl) | split
    | (with_reducible refine Does.of_pair (by with_reducible assumption) ?_))

theorem State.writeZlf_does {W : Nat} (hW : Covers W 0x2300000000001E1E0) {s₀ : State} (p : Path) (h o : Nat) (v : Word) {s : State} (hk : Does W s₀ s) :
    Does W s₀ (State.writeZlf s p h o v).2 := by
  unfold State.writeZlf
  try dsimp only
  repeat' (first
    | with_reducible assumption | with_reducible apply State.modPort_does (hW.of rfl)
    | with_reducible apply State.modSel_does (hW.of rfl) | with_reducible apply State.zlfCtl_does (hW.of rfl) | split
    | with_reducible apply Does.upd_10000 (hW.of rfl))

theorem State.ptpWrite_does {W : Nat} (hW : Covers W 0x2000000010000) {s₀ : State} (v : Word) {s : State} (hk : Does W s₀ s) :
    Does W s₀ (State.ptpWrite s v) := by
  unfold State.ptpWrite
  try dsimp only
  repeat' (first
    | with_reducible assumption | with_reducible apply State.ptpLost_does (hW.of rfl) | split
    | with_reducible apply Does.upd_2000000000000 (hW.of rfl))

theorem State.writeEth_does {W : Nat} (hW : Covers W 0x20002080000010000) {s₀ : State} (h o : Nat) (v : Word) {s : State} (hk : Does W s₀ s) :
    Does W s₀ (State.writeEth s h o v) := by
  unfold State.writeEth
  try dsimp only
  repeat' (first
    | with_reducible assumption | with_reducible apply State.modEth_does (hW.of rfl)
    | with_reducible apply State.dhcpStart_does (hW.of rfl) | with_reducible apply State.ipv4Write_does (hW.of rfl)
    | with_reducible apply State.ptpWrite_does (hW.of rfl) | split
    | (with_reducible refine Does.of_pair (by with_reducible assumption) ?_)
    | (with_reducible intro _; intros; (try dsimp only)))

theorem State.writeQue_does {W : Nat} (hW : Covers W 0x2000000000000000) {s₀ : State} (p : Path) (h o : Nat) (v : Word) {s : State} (hk : Does W s₀ s) :
    Does W s₀ (State.writeQue s p h o v) := by
  unfold State.writeQue
  try dsimp only
  repeat' (first
    | with_reducible assumption | with_reducible apply State.modSel_does (hW.of rfl) | split
    | (with_reducible refine Does.of_pair (by with_reducible assumption) ?_))

theorem State.shootWrite_does {W : Nat} (hW : Covers W 0x180000000000000) {s₀ : State} (o : Nat) (v : Word) {s : State} (hk : Does W s₀ s) :
    Does W s₀ (State.shootWrite s o v) := by
  unfold State.shootWrite
  try dsimp only
  repeat' (first
    | with_reducible assumption | with_reducible apply State.shootdown_does (hW.of rfl) | split
    | with_reducible apply Does.upd_100000000000000 (hW.of rfl))

theorem State.writePwr_does {W : Nat} (hW : Covers W 0x2D00208400005E1E4) {s₀ : State} (h o : Nat) (v : Word) {s : State} (hk : Does W s₀ s) :
    Does W s₀ (State.writePwr s h o v) := by
  unfold State.writePwr
  try dsimp only
  repeat' (first
    | with_reducible assumption | with_reducible apply State.modPwr_does (hW.of rfl)
    | with_reducible apply State.holdB_does (hW.of rfl) | with_reducible apply State.releaseHold_does (hW.of rfl)
    | with_reducible apply State.snowTest_does (hW.of rfl) | with_reducible apply State.sleep_does (hW.of rfl) | split
    | (with_reducible refine Does.of_pair (by with_reducible assumption) ?_))

theorem State.tenCommand_does {W : Nat} (hW : Covers W 0x65FFE7FFEFFBCE5F0) {s₀ : State} (p : Path) (v : Word) (m : Medium) {s : State} (hk : Does W s₀ s) :
    Does W s₀ (State.tenCommand s p v m) := by
  unfold State.tenCommand
  try dsimp only
  repeat' (first
    | with_reducible assumption | with_reducible apply State.enrol_does (hW.of rfl)
    | with_reducible apply State.revoke_does (hW.of rfl) | with_reducible apply State.openEpoch_does (hW.of rfl)
    | with_reducible apply State.endEpoch_does (hW.of rfl) | with_reducible apply State.resurface_does (hW.of rfl) | split
    | (with_reducible refine Does.of_pair (by with_reducible assumption) ?_))

theorem State.writeTen_does {W : Nat} (hW : Covers W 0x65FFE7FFEFFBCE5F0) {s₀ : State} (p : Path) (o : Nat) (v : Word) (m : Medium) {s : State} (hk : Does W s₀ s) :
    Does W s₀ (State.writeTen s p o v m) := by
  unfold State.writeTen
  try dsimp only
  repeat' (first
    | with_reducible assumption | with_reducible apply State.tenCommand_does (hW.of rfl) | split
    | (with_reducible refine Does.of_pair (by with_reducible assumption) ?_)
    | with_reducible apply Does.upd_1000000000000000 (hW.of rfl) | with_reducible exact id | with_reducible exact le_rfl
    | with_reducible exact Nat.le_add_right _ _ | with_reducible exact satAdd_le _ _ | (rw [Ten.dropLinks_epoch])
    | (with_reducible intro _; intros; (try dsimp only)) | exact Nat.le_refl _)

theorem State.fwCommand_does {W : Nat} (hW : Covers W 0x800000000000000) {s₀ : State} (p : Path) (op : Nat) {s : State} (hk : Does W s₀ s) :
    Does W s₀ (State.fwCommand s p op) := by
  unfold State.fwCommand
  try dsimp only
  repeat' (first
    | with_reducible assumption | with_reducible apply State.fwOpen_does (hW.of rfl)
    | with_reducible apply State.fwVerifyCmd_does (hW.of rfl) | with_reducible apply State.fwStart_does (hW.of rfl)
    | with_reducible apply State.fwAbort_does (hW.of rfl) | with_reducible apply State.fwRollback_does (hW.of rfl) | split
    | (with_reducible refine Does.of_pair (by with_reducible assumption) ?_))

theorem State.writeDbg_does {W : Nat} (hW : Covers W 0x40000000000003E0) {s₀ : State} (p : Path) (h o : Nat) (v : Word) {s : State} (hk : Does W s₀ s) :
    Does W s₀ (State.writeDbg s p h o v) := by
  unfold State.writeDbg
  try dsimp only
  repeat' (first
    | with_reducible assumption | with_reducible apply State.fire_does (hW.of rfl)
    | with_reducible apply State.modTrig_does (hW.of rfl) | with_reducible apply State.rearm_does (hW.of rfl)
    | with_reducible apply State.setTarget_does (hW.of rfl) | with_reducible apply State.setTail_does (hW.of rfl)
    | with_reducible apply State.counterReset_does (hW.of rfl) | split
    | (with_reducible refine Does.of_pair (by with_reducible assumption) ?_) | with_reducible apply Does.upd_40 (hW.of rfl))

theorem State.writeSys_does {W : Nat} (hW : Covers W 0x7FFFFFFFFFFFFF7FC) {s₀ : State} (p : Path) (o : Nat) (v : Word) (m : Medium) {s : State} (hk : Does W s₀ s) :
    Does W s₀ (State.writeSys s p o v m) := by
  unfold State.writeSys
  try dsimp only
  repeat' (first
    | with_reducible assumption | with_reducible apply State.chooseSource_does (hW.of rfl)
    | with_reducible apply State.packageReset_does (hW.of rfl) | with_reducible apply State.modSys_does (hW.of rfl)
    | with_reducible apply State.hubReset_does (hW.of rfl) | with_reducible apply State.wakeUp_does (hW.of rfl) | split
    | (with_reducible refine Does.of_pair (by with_reducible assumption) ?_) | with_reducible apply Does.upd_10000 (hW.of rfl)
    | (with_reducible intro _; intros; (try dsimp only)))

theorem State.modMbx_does {W : Nat} (hW : Covers W 0x400) {s₀ : State} (p : Path) (h b : Nat) (f : Mbx → Mbx) {s : State} (hk : Does W s₀ s) :
    Does W s₀ (State.modMbx s p h b f) := by
  unfold State.modMbx
  try dsimp only
  repeat' (first | with_reducible assumption | with_reducible apply Does.upd_400 (hW.of rfl))

theorem State.mbxRequest_does {W : Nat} (hW : Covers W 0x400) {s₀ : State} (p : Path) (h b : Nat) (v : Word) {s : State} (hk : Does W s₀ s) :
    Does W s₀ (State.mbxRequest s p h b v).2 := by
  unfold State.mbxRequest
  try dsimp only
  repeat' (first | with_reducible assumption | with_reducible apply State.modMbx_does (hW.of rfl) | split)

theorem State.writeMbx_does {W : Nat} (hW : Covers W 0x400) {s₀ : State} (p : Path) (h b o : Nat) (v : Word) {s : State} (hk : Does W s₀ s) :
    Does W s₀ (State.writeMbx s p h b o v).2 := by
  unfold State.writeMbx
  try dsimp only
  repeat' (first
    | with_reducible assumption | with_reducible apply State.modMbx_does (hW.of rfl)
    | with_reducible apply State.mbxRequest_does (hW.of rfl) | split
    | (with_reducible refine Does.of_pair (by with_reducible assumption) ?_))

theorem State.regWrite_does {W : Nat} (hW : Covers W 0x7FFFFFFFFFFFFF7FC) {s₀ : State} (p : Path) (h b o : Nat) (v : Word) (e : WriteEnv) {s : State} (hk : Does W s₀ s) :
    Does W s₀ (State.regWrite s p h b o v e).2 := by
  unfold State.regWrite
  try dsimp only
  repeat' (first
    | with_reducible assumption | with_reducible apply State.modTrn_does (hW.of rfl)
    | with_reducible apply State.modSlg_does (hW.of rfl) | with_reducible apply State.modSel_does (hW.of rfl)
    | with_reducible apply State.siLock_does (hW.of rfl) | with_reducible apply State.siCommand_does (hW.of rfl)
    | with_reducible apply State.deadCommand_does (hW.of rfl) | with_reducible apply State.memCtl_does (hW.of rfl)
    | with_reducible apply State.liftCommand_does (hW.of rfl) | with_reducible apply State.writeInt_does (hW.of rfl)
    | with_reducible apply State.writeZll_does (hW.of rfl) | with_reducible apply State.writeZlf_does (hW.of rfl)
    | with_reducible apply State.writeEth_does (hW.of rfl) | with_reducible apply State.writeQue_does (hW.of rfl)
    | with_reducible apply State.shootWrite_does (hW.of rfl) | with_reducible apply State.writePwr_does (hW.of rfl)
    | with_reducible apply State.writeTen_does (hW.of rfl) | with_reducible apply State.fwCommand_does (hW.of rfl)
    | with_reducible apply State.writeDbg_does (hW.of rfl) | with_reducible apply State.writeSys_does (hW.of rfl)
    | with_reducible apply Does.getD | split | (with_reducible refine Does.of_pair (by with_reducible assumption) ?_)
    | refine State.writeW1c_does (hW := hW.of rfl) (hk := ?_) (ht := by with_reducible assumption)
    | with_reducible apply Does.upd_20000000 (hW.of rfl) | (with_reducible intro _; intros; (try dsimp only)))

theorem State.fatalWrite_does {W : Nat} (hW : Covers W 0x7FFFFFFFFFFFFF7FC) {s₀ : State} (p : Path) (h b o : Nat) (v : Word) (e : WriteEnv) {s : State} (hk : Does W s₀ s) :
    Does W s₀ (State.fatalWrite s p h b o v e).2 := by
  unfold State.fatalWrite
  try dsimp only
  repeat' (first
    | with_reducible assumption | with_reducible apply State.regWrite_does (hW.of rfl) | split
    | (with_reducible refine Does.of_pair (by with_reducible assumption) ?_)
    | refine State.writeW1c_does (hW := hW.of rfl) (hk := ?_) (ht := by with_reducible assumption))

theorem State.csrWrite_does {W : Nat} (hW : Covers W 0x7FFFFFFFFFFFFF7FC) {s₀ : State} (p : Path) (a v : Word) (e : WriteEnv) {s : State} (hk : Does W s₀ s) :
    Does W s₀ (State.csrWrite s p a v e).2 := by
  unfold State.csrWrite
  try dsimp only
  repeat' (first
    | with_reducible assumption | with_reducible apply State.writeMbx_does (hW.of rfl)
    | with_reducible apply State.regWrite_does (hW.of rfl) | with_reducible apply State.fatalWrite_does (hW.of rfl) | split
    | (with_reducible refine Does.of_pair (by with_reducible assumption) ?_))

theorem State.pathWrite_does {W : Nat} (hW : Covers W 0x7FFFFFFFFFFFFF7FC) {s₀ : State} (p : Path) (a v : Word) (e : WriteEnv) {s : State} (hk : Does W s₀ s) :
    Does W s₀ (State.pathWrite s p a v e) := by
  unfold State.pathWrite
  try dsimp only
  repeat' (first
    | with_reducible assumption | with_reducible apply State.csrWrite_does (hW.of rfl) | split
    | (with_reducible refine Does.of_pair (by with_reducible assumption) ?_))

theorem execRegisterWrite_does {W : Nat} (hW : Covers W 0x7FFFFFFFFFFFFF7FC) {s₀ : State} (path : Path) (addr value : Word) (env : WriteEnv) {s s₁ : State} (hk : Does W s₀ s) (ht : execRegisterWrite path addr value env s = .next s₁) :
    Does W s₀ s₁ := by
  cases ht
  try dsimp only
  repeat' (first | with_reducible assumption | with_reducible apply State.pathWrite_does (hW.of rfl))

theorem execEthIpv4Write_does {W : Nat} (hW : Covers W 0x7FFFFFFFFFFFFF7FC) {s₀ : State} (path : Path) (port : Bool) (value : Word) {s s₁ : State} (hk : Does W s₀ s) (ht : execEthIpv4Write path port value s = .next s₁) :
    Does W s₀ s₁ := by
  cases ht
  try dsimp only
  repeat' (first | with_reducible assumption | with_reducible apply State.pathWrite_does (hW.of rfl))

theorem State.sampled_does {W : Nat} (hW : Covers W 0x2000000000000000) {s₀ : State} (p : Path) (key every now flags : Nat) {s : State} (hk : Does W s₀ s) :
    Does W s₀ (State.sampled s p key every now flags).2 := by
  unfold State.sampled
  try dsimp only
  repeat' (first
    | with_reducible assumption | with_reducible apply State.modSel_does (hW.of rfl) | split
    | (with_reducible refine Does.of_pair (by with_reducible assumption) ?_))

theorem State.tenantView_does {W : Nat} (hW : Covers W 0x2000000000000000) {s₀ : State} (p : Path) (h b o : Nat) (v : Word) {s : State} (hk : Does W s₀ s) :
    Does W s₀ (State.tenantView s p h b o v).2 := by
  unfold State.tenantView
  try dsimp only
  repeat' (first
    | with_reducible assumption | with_reducible apply State.sampled_does (hW.of rfl)
    | (with_reducible apply Does.foldl; intro _ _ _) | (with_reducible apply Does.foldl₂; intro _ _ _) | split
    | (with_reducible refine Does.of_pair (by with_reducible assumption) ?_))

theorem State.readRun_does {W : Nat} (hW : Covers W 0x2000000000000000) {s₀ : State} (p : Path) (a : Word) :
    ∀ (l0 : Nat), ∀ {s : State}, Does W s₀ s → Does W s₀ (State.readRun s p a l0).2 := by
  intro l0
  induction l0 generalizing p a with
  | zero =>
    intro s hk
    unfold State.readRun
    try dsimp only
    repeat' (first
      | with_reducible assumption | with_reducible apply State.tenantView_does (hW.of rfl) | split
      | (with_reducible refine Does.of_pair (by with_reducible assumption) ?_))
  | succ r ih =>
    intro s hk
    unfold State.readRun
    try dsimp only
    repeat' (first
      | with_reducible apply ih | with_reducible assumption | with_reducible apply State.tenantView_does (hW.of rfl) | split
      | (with_reducible refine Does.of_pair (by with_reducible assumption) ?_))

theorem execRegRead_does {W : Nat} (hW : Covers W 0x23403280000000100) {s₀ : State} (hdr : KmpHdr) (addr : Word) (count : Byte) {s s₁ : State} (hk : Does W s₀ s) (ht : execRegRead hdr addr count s = .next s₁) :
    Does W s₀ s₁ := by
  cases ht
  try dsimp only
  repeat' (first
    | with_reducible assumption | with_reducible apply State.kmpRequest_does (hW.of rfl)
    | with_reducible apply State.readRun_does (hW.of rfl) | split
    | (with_reducible refine Does.of_pair (by with_reducible assumption) ?_) | (with_reducible intro _; intros; (try dsimp only)))

theorem State.writePairs_does {W : Nat} (hW : Covers W 0x7FFFFFFFFFFFFF7FC) {s₀ : State} (p : Path) (e : WriteEnv) :
    ∀ (l0 : List (Word × Word)), ∀ {s : State}, Does W s₀ s → Does W s₀ (State.writePairs s p e l0).2 := by
  intro l0
  induction l0 generalizing p e with
  | nil =>
    intro s hk
    unfold State.writePairs
    try dsimp only
    repeat' (first
      | with_reducible assumption | with_reducible apply State.csrWrite_does (hW.of rfl) | split
      | (with_reducible refine Does.of_pair (by with_reducible assumption) ?_))
  | cons x r ih =>
    intro s hk
    unfold State.writePairs
    try dsimp only
    repeat' (first
      | with_reducible apply ih | with_reducible assumption | with_reducible apply State.csrWrite_does (hW.of rfl) | split
      | (with_reducible refine Does.of_pair (by with_reducible assumption) ?_))

theorem execRegWrite_does {W : Nat} (hW : Covers W 0x7FFFFFFFFFFFFF7FC) {s₀ : State} (hdr : KmpHdr) (pairs : List (Word × Word)) (env : WriteEnv) {s s₁ : State} (hk : Does W s₀ s) (ht : execRegWrite hdr pairs env s = .next s₁) :
    Does W s₀ s₁ := by
  cases ht
  try dsimp only
  repeat' (first
    | with_reducible assumption | with_reducible apply State.kmpRequest_does (hW.of rfl)
    | with_reducible apply State.writePairs_does (hW.of rfl) | split
    | (with_reducible refine Does.of_pair (by with_reducible assumption) ?_) | (with_reducible intro _; intros; (try dsimp only)))

theorem execMbxRead_does {W : Nat} (hW : Covers W 0x7FFFFFFFFFFFFF7FC) {s₀ : State} (path : Path) (hub : Fin 8) (block id index : Byte) {s s₁ : State} (hk : Does W s₀ s) (ht : execMbxRead path hub block id index s = .next s₁) :
    Does W s₀ s₁ := by
  cases ht
  try dsimp only
  repeat' (first | with_reducible assumption | with_reducible apply State.pathWrite_does (hW.of rfl))

theorem execMbxWrite_does {W : Nat} (hW : Covers W 0x7FFFFFFFFFFFFF7FC) {s₀ : State} (path : Path) (hub : Fin 8) (block id index : Byte) {s s₁ : State} (hk : Does W s₀ s) (ht : execMbxWrite path hub block id index s = .next s₁) :
    Does W s₀ s₁ := by
  cases ht
  try dsimp only
  repeat' (first | with_reducible assumption | with_reducible apply State.pathWrite_does (hW.of rfl))

theorem State.counterNow_does {W : Nat} (hW : Covers W 0x40000000000000000) {s₀ : State} (key : Nat) {s : State} (hk : Does W s₀ s) :
    Does W s₀ (State.counterNow s key).2 := by
  unfold State.counterNow
  try dsimp only
  repeat' (first
    | with_reducible assumption | with_reducible apply State.draw_does (hW.of rfl) | split
    | (with_reducible refine Does.of_pair (by with_reducible assumption) ?_))

theorem State.counterWords_does {W : Nat} (hW : Covers W 0x42000000000000000) {s₀ : State} (p : Path) (tenant : Bool) (key : Nat) {s : State} (hk : Does W s₀ s) :
    Does W s₀ (State.counterWords s p tenant key).2 := by
  unfold State.counterWords
  try dsimp only
  repeat' (first
    | with_reducible assumption | with_reducible apply State.sampled_does (hW.of rfl)
    | with_reducible apply State.counterNow_does (hW.of rfl) | split
    | (with_reducible refine Does.of_pair (by with_reducible assumption) ?_))

theorem State.mbxCapture_does {W : Nat} (hW : Covers W 0x42000000000000400) {s₀ : State} (p : Path) (h b : Nat) (x : Mbx) {s : State} (hk : Does W s₀ s) :
    Does W s₀ (State.mbxCapture s p h b x) := by
  unfold State.mbxCapture
  try dsimp only
  repeat' (first
    | with_reducible assumption | with_reducible apply State.modMbx_does (hW.of rfl)
    | with_reducible apply State.counterWords_does (hW.of rfl) | split
    | (with_reducible refine Does.of_pair (by with_reducible assumption) ?_))

theorem State.mbxApply_does {W : Nat} (hW : Covers W 0x410) {s₀ : State} (p : Path) (h b : Nat) (x : Mbx) {s : State} (hk : Does W s₀ s) :
    Does W s₀ (State.mbxApply s p h b x) := by
  unfold State.mbxApply
  try dsimp only
  repeat' (first
    | with_reducible assumption | with_reducible apply State.modMbx_does (hW.of rfl) | split
    | (with_reducible refine Does.of_pair (by with_reducible assumption) ?_) | with_reducible apply Does.upd_10 (hW.of rfl)
    | with_reducible exact id | with_reducible exact le_rfl | with_reducible exact Nat.le_add_right _ _ | exact Nat.le_refl _)

theorem execMbxComplete_does {W : Nat} (hW : Covers W 0x42000000000000410) {s₀ : State} (path : Path) (hub : Fin 8) (block : Byte) {s s₁ : State} (hk : Does W s₀ s) (ht : execMbxComplete path hub block s = .next s₁) :
    Does W s₀ s₁ := by
  cases ht
  try dsimp only
  repeat' (first
    | with_reducible assumption | with_reducible apply State.modMbx_does (hW.of rfl)
    | with_reducible apply State.mbxCapture_does (hW.of rfl) | with_reducible apply State.mbxApply_does (hW.of rfl) | split)

theorem execEntdaa_does {W : Nat} (hW : Covers W 0x20000000000001000) {s₀ : State} (addr : BitVec 7) {s s₁ : State} (hk : Does W s₀ s) (ht : execEntdaa addr s = .next s₁) :
    Does W s₀ s₁ := by
  cases ht
  try dsimp only
  repeat' (first
    | with_reducible assumption | with_reducible apply State.emit_does (hW.of rfl) | split
    | with_reducible apply Does.upd_1000 (hW.of rfl))

theorem execI3cCsrRead_does {W : Nat} (hW : Covers W 0x20000000000000000) {s₀ : State} (bytes : List Byte) {s s₁ : State} (hk : Does W s₀ s) (ht : execI3cCsrRead bytes s = .next s₁) :
    Does W s₀ s₁ := by
  cases ht
  try dsimp only
  repeat' (first | with_reducible assumption | with_reducible apply State.emit_does (hW.of rfl) | split)

theorem execI3cCsrWrite_does {W : Nat} (hW : Covers W 0x7FFFFFFFFFFFFF7FC) {s₀ : State} (bytes : List Byte) (env : WriteEnv) {s s₁ : State} (hk : Does W s₀ s) (ht : execI3cCsrWrite bytes env s = .next s₁) :
    Does W s₀ s₁ := by
  cases ht
  try dsimp only
  repeat' (first
    | with_reducible assumption | with_reducible apply State.csrWrite_does (hW.of rfl) | split
    | (with_reducible refine Does.of_pair (by with_reducible assumption) ?_))

theorem State.modJtag_does {W : Nat} (hW : Covers W 0x800) {s₀ : State} (f : Jtag → Jtag) {s : State} (hk : Does W s₀ s) :
    Does W s₀ (State.modJtag s f) := by
  unfold State.modJtag
  try dsimp only
  repeat' (first | with_reducible assumption | split | with_reducible apply Does.upd_800 (hW.of rfl))

theorem execIdcode_does {W : Nat} (hW : Covers W 0x800) {s₀ : State} {s s₁ : State} (hk : Does W s₀ s) (ht : execIdcode s = .next s₁) :
    Does W s₀ s₁ := by
  cases ht
  try dsimp only
  repeat' (first | with_reducible assumption | with_reducible apply State.modJtag_does (hW.of rfl))

theorem execSamplePreload_does {W : Nat} (hW : Covers W 0x800) {s₀ : State} (pins levels : List Bool) {s s₁ : State} (hk : Does W s₀ s) (ht : execSamplePreload pins levels s = .next s₁) :
    Does W s₀ s₁ := by
  cases ht
  try dsimp only
  repeat' (first | with_reducible assumption | with_reducible apply State.modJtag_does (hW.of rfl))

theorem execExtest_does {W : Nat} (hW : Covers W 0x800) {s₀ : State} (pins levels : List Bool) {s s₁ : State} (hk : Does W s₀ s) (ht : execExtest pins levels s = .next s₁) :
    Does W s₀ s₁ := by
  cases ht
  try dsimp only
  repeat' (first
    | with_reducible assumption | with_reducible apply State.modJtag_does (hW.of rfl) | split
    | (with_reducible intro _; intros; (try dsimp only)))

theorem execCsrAddr_does {W : Nat} (hW : Covers W 0x800) {s₀ : State} (addr : Word) {s s₁ : State} (hk : Does W s₀ s) (ht : execCsrAddr addr s = .next s₁) :
    Does W s₀ s₁ := by
  cases ht
  try dsimp only
  repeat' (first | with_reducible assumption | with_reducible apply State.modJtag_does (hW.of rfl))

theorem execCsrWrite_does {W : Nat} (hW : Covers W 0x7FFFFFFFFFFFFFFFC) {s₀ : State} (value : Word) (env : WriteEnv) {s s₁ : State} (hk : Does W s₀ s) (ht : execCsrWrite value env s = .next s₁) :
    Does W s₀ s₁ := by
  cases ht
  try dsimp only
  repeat' (first
    | with_reducible assumption | with_reducible apply State.csrWrite_does (hW.of rfl)
    | with_reducible apply State.modJtag_does (hW.of rfl) | split
    | (with_reducible refine Does.of_pair (by with_reducible assumption) ?_))

theorem execCsrRead_does {W : Nat} (hW : Covers W 0x40000000000000800) {s₀ : State} (completed : Bool) {s s₁ : State} (hk : Does W s₀ s) (ht : execCsrRead completed s = .next s₁) :
    Does W s₀ s₁ := by
  cases ht
  try dsimp only
  repeat' (first
    | with_reducible assumption | with_reducible apply State.draw_does (hW.of rfl)
    | with_reducible apply State.modJtag_does (hW.of rfl) | split
    | (with_reducible refine Does.of_pair (by with_reducible assumption) ?_))

theorem execBypass_does {W : Nat} (hW : Covers W 0x800) {s₀ : State} (code : Byte) {s s₁ : State} (hk : Does W s₀ s) (ht : execBypass code s = .next s₁) :
    Does W s₀ s₁ := by
  cases ht
  try dsimp only
  repeat' (first | with_reducible assumption | with_reducible apply State.modJtag_does (hW.of rfl))

theorem execJtagReset_does {W : Nat} (hW : Covers W 0x800) {s₀ : State} {s s₁ : State} (hk : Does W s₀ s) (ht : execJtagReset s = .next s₁) :
    Does W s₀ s₁ := by
  cases ht
  try dsimp only
  repeat' (first | with_reducible assumption | with_reducible apply State.modJtag_does (hW.of rfl))

theorem State.aonCycle_does {W : Nat} (hW : Covers W 0x10) {s₀ : State} {s : State} (hk : Does W s₀ s) :
    Does W s₀ (State.aonCycle s) := by
  unfold State.aonCycle
  try dsimp only
  repeat' (first
    | with_reducible assumption | with_reducible apply State.aonEdge_does (hW.of rfl) | split
    | with_reducible apply Does.upd_10 (hW.of rfl) | with_reducible exact id | with_reducible exact le_rfl
    | with_reducible exact Nat.le_add_right _ _ | exact Nat.le_refl _)

theorem State.ibiCycle_does {W : Nat} (hW : Covers W 0x20000000000001000) {s₀ : State} {s : State} (hk : Does W s₀ s) :
    Does W s₀ (State.ibiCycle s) := by
  unfold State.ibiCycle
  try dsimp only
  repeat' (first
    | with_reducible assumption | with_reducible apply State.emit_does (hW.of rfl) | split
    | (with_reducible refine Does.of_pair (by with_reducible assumption) ?_) | with_reducible apply Does.upd_1000 (hW.of rfl))

theorem State.recordCycle_does {W : Nat} (hW : Covers W 0x210105BFEEFA4E1E0) {s₀ : State} {s : State} (hk : Does W s₀ s) :
    Does W s₀ (State.recordCycle s) := by
  unfold State.recordCycle
  try dsimp only
  repeat' (first
    | with_reducible assumption | with_reducible apply State.modJob_does (hW.of rfl)
    | with_reducible apply State.accResendAll_does (hW.of rfl) | with_reducible apply State.cohEnd_does (hW.of rfl)
    | (with_reducible apply Does.foldl; intro _ _ _) | split
    | (with_reducible refine Does.of_pair (by with_reducible assumption) ?_)
    | (with_reducible intro _; intros; (try dsimp only)))

theorem State.engineCycle_does {W : Nat} (hW : Covers W 0x6103C5BFEEFA4E1E0) {s₀ : State} {s : State} (hk : Does W s₀ s) :
    Does W s₀ (State.engineCycle s) := by
  unfold State.engineCycle
  try dsimp only
  repeat' (first
    | with_reducible assumption | with_reducible apply State.prepareGo_does (hW.of rfl)
    | with_reducible apply State.recordCycle_does (hW.of rfl) | (with_reducible apply Does.foldl; intro _ _ _) | split
    | (with_reducible intro _; intros; (try dsimp only)))

theorem State.idle_does {W : Nat} (hW : Covers W 0x6103E5BFEEFA5F1F0) {s₀ : State} {s : State} (hk : Does W s₀ s) :
    Does W s₀ (State.idle s) := by
  unfold State.idle
  try dsimp only
  repeat' (first
    | with_reducible assumption | with_reducible apply State.retireProgress_does (hW.of rfl)
    | with_reducible apply State.ethCycle_does (hW.of rfl) | with_reducible apply State.aonCycle_does (hW.of rfl)
    | with_reducible apply State.ibiCycle_does (hW.of rfl) | with_reducible apply State.engineCycle_does (hW.of rfl) | split
    | (with_reducible refine Does.of_pair (by with_reducible assumption) ?_) | with_reducible apply Does.upd_10 (hW.of rfl)
    | with_reducible exact id | with_reducible exact le_rfl | with_reducible exact Nat.le_add_right _ _
    | (with_reducible intro _; intros; (try dsimp only)) | exact Nat.le_refl _)

end Sys2Proof.Machine
end

