-- ==== Sys2Proof/Laws/Issue.lean ====
section
/-! SUPPORT. Issue.lean: what the issue of a cluster operation (`SlotReady`) and of a queue command (`QueueTurn`) comes to: the operation itself, between its turn and the end of its slot. -/
namespace Sys2Proof.Machine
open Sys2Proof

theorem SlotReady.issue_eq {s : State} {c : CluAt} {slot : Nat} {w : DWord} {j i : Nat} (h : SlotReady s c slot w j i)
    (f : Nat → Nat → State → Issued) :
    s.issue c.hub c.cluster slot w f = (match (f j i (s.atTurn c j i)).split with
      | (v, none) => v
      | (v, some t) => s.issuedAs c slot j i v t) := by
  obtain ⟨h1, h2, h3, h4, h5⟩ := h
  unfold State.issue
  rw [h1]
  dsimp only
  rw [if_neg]
  · rfl
  · rintro (h | h | h | h)
    · exact h h3
    · exact h2 h
    · rw [h4] at h; cases h
    · exact h h5

/-- An operation that issues at once. -/
theorem SlotReady.done_eq {s v : State} {c : CluAt} {slot : Nat} {w : DWord} {j i : Nat} (h : SlotReady s c slot w j i)
    (f : Nat → Nat → State → Issued) (hf : f j i (s.atTurn c j i) = .done v) :
    s.issue c.hub c.cluster slot w f = s.issuedAs c slot j i v none := by
  rw [h.issue_eq, hf]; rfl

/-- A branch that is taken. -/
theorem SlotReady.jump_eq {s v : State} {c : CluAt} {slot : Nat} {w : DWord} {j i : Nat} {t : BitVec 14} (h : SlotReady s c slot w j i)
    (f : Nat → Nat → State → Issued) (hf : f j i (s.atTurn c j i) = .jump v t) :
    s.issue c.hub c.cluster slot w f = s.issuedAs c slot j i v (some t) := by
  rw [h.issue_eq, hf]; rfl

/-- An operation that waits. -/
theorem SlotReady.blocked_eq {s v : State} {c : CluAt} {slot : Nat} {w : DWord} {j i : Nat} (h : SlotReady s c slot w j i)
    (f : Nat → Nat → State → Issued) (hf : f j i (s.atTurn c j i) = .blocked v) :
    s.issue c.hub c.cluster slot w f = v := by
  rw [h.issue_eq, hf]; rfl

theorem QueueTurn.issue_eq {s : State} {q op : Nat} {c : Cand} (h : QueueTurn s q op c) (f : RingSlot → State → State) :
    s.issueCmd q op f = (f c.slot (s.issuedFrom q c)).tagHeads (q / 2048) := by
  obtain ⟨h1, h2, h3, h4, h5, h6⟩ := h
  unfold State.issueCmd
  dsimp only
  rw [if_neg (by simp [h1, h2]), h3]
  dsimp only
  rw [if_neg]
  · rfl
  · rintro (h | h | h)
    · exact h h4
    · exact h h5
    · have := h6 h.1; omega

end Sys2Proof.Machine
end

