-- ==== Sys2Proof/Laws/Kmp.lean ====
section
/-! SUPPORT. Kmp.lean: what a KMP request does that reaches its session (`KmpServed`): the service of its command, then the
response. -/
namespace Sys2Proof.Machine
open Sys2Proof

theorem State.noteMgmt_cases (u : State) (x : KmpSession) :
    u.noteMgmt x = u ∨ u.noteMgmt x = { u with si := { u.si with mgmtSeen := true } } := by
  unfold State.noteMgmt
  split
  · split
    · exact .inr rfl
    · exact .inl rfl
  · exact .inl rfl

theorem KmpServed.request_eq {s v : State} {hdr : KmpHdr} {k : Nat} {x : KmpSession} (h : KmpServed s hdr k x v) (type : BitVec 8)
    (served : Bool) (perform : Nat → KmpSession → State → Option KmpResp × State) :
    s.kmpRequest hdr type served perform =
      (match perform k x v with
      | (none, v) => v.unreplied k hdr
      | (some r, v) => v.replied k x hdr type r) := by
  unfold State.kmpRequest
  have ha := h.arrives
  rcases hk : s.kmpArrive hdr with ⟨a, b⟩
  rw [hk] at ha
  rcases a with _ | u
  · cases ha
  have hv : u.noteMgmt x = v := Option.some.inj ha
  have hs : u.sessionOf hdr.sessionId = v.sessionOf hdr.sessionId ∧ u.session k = v.session k := by
    rcases u.noteMgmt_cases x with e | e <;> rw [← hv, e] <;> exact ⟨rfl, rfl⟩
  simp only [hs.1, hs.2, h.slot, h.session, h.opens, h.port, h.header, h.notStored, h.fresh, h.notFatal, h.notHalted, h.notQuiesced,
    h.known, h.notRestarting, not_true_eq_false, ne_eq, or_self, Bool.false_eq_true, if_false, false_and, hv]
  rfl

/-- A service that answers at once. -/
theorem KmpServed.replied_eq {s v w : State} {hdr : KmpHdr} {k : Nat} {x : KmpSession} {r : KmpResp} (h : KmpServed s hdr k x v)
    (type : BitVec 8) (served : Bool) (perform : Nat → KmpSession → State → Option KmpResp × State)
    (hp : perform k x v = (some r, w)) :
    s.kmpRequest hdr type served perform = w.replied k x hdr type r := by
  rw [h.request_eq, hp]

/-- A service that answers later. -/
theorem KmpServed.unreplied_eq {s v w : State} {hdr : KmpHdr} {k : Nat} {x : KmpSession} (h : KmpServed s hdr k x v)
    (type : BitVec 8) (served : Bool) (perform : Nat → KmpSession → State → Option KmpResp × State)
    (hp : perform k x v = (none, w)) :
    s.kmpRequest hdr type served perform = w.unreplied k hdr := by
  rw [h.request_eq, hp]

/-- A carving message that is served. -/
theorem carveMsg_served {hdr : KmpHdr} {cmd : CarveCmd} {k : Nat} {x : KmpSession} {s v : State} (h : CarveServed s hdr cmd k x v) (op : BitVec 8) :
   s.carveMsg hdr op cmd = (match v.carveDo { slot := k, sid := x.sid, hdr := hdr, cmd := { cmd with opcode := op } } with
    | (some d, u) => u.replied k x hdr 6 { status := 0, body := .carve d }
    | (none, u) => u.unreplied k hdr) := by
  obtain ⟨h, len, a, b, c⟩ := h
  unfold State.carveMsg
  rw [h.request_eq]
  simp only [len, a, b, c]
  simp
  rcases v.carveDo _ with ⟨_ | d, u⟩
  · rfl
  · rfl

end Sys2Proof.Machine
end

