-- ==== Sys2Proof/Laws/Spdm.lean ====
section
/-! SUPPORT. Spdm.lean: what an SPDM request does that reaches its service (`SpdmServed`): the service, then the answer by the way the request came. -/
namespace Sys2Proof.Machine
open Sys2Proof

/-- The service of a request. -/
theorem SpdmServed.serve_eq {s v w : State} {c : SpdmCarrier} {ses : Option (Nat × KmpSession)} {a : SpdmAnswer}
    (h : SpdmServed s c ses v) (perform : SpdmFrom → Option Nat → State → SpdmAnswer × State)
    (hp : perform (spdmFrom c) (ses.map (·.1)) v = (a, w)) : s.spdmServe c perform = w.spdmAnswered c ses a := by
  cases c with
  | kmp hdr =>
    rcases h with ⟨k, x, rfl, h1, h2⟩ | ⟨rfl, h1, h2, h3, h4, h5, h6, h7, h8⟩
    · unfold State.spdmServe
      dsimp only
      rw [if_pos h1]
      exact h2.replied_eq 2 _ _ (by simp only [Option.map] at hp; simp only [hp])
    · unfold State.spdmServe
      dsimp only
      rw [if_neg (by simp [h1])]
      rcases he : s.kmpArrive hdr with ⟨x, y⟩
      rw [he] at h2
      dsimp only at h2
      subst h2
      simp only [Option.map] at hp
      simp only [h3, h4, h5, h6, h7, h8, Bool.false_eq_true, if_false, not_true_eq_false, or_self, hp]
      rfl
  | zl h0 =>
    obtain ⟨rfl, f, h1, h2, h3, h4, h5, rfl⟩ := h
    unfold State.spdmServe
    dsimp only
    rw [h1]
    dsimp only
    rw [if_neg (by simp [h2, h3, h4])]
    have h5' : (s.dropFrags h0).spDown = false := h5
    rw [if_neg (by simp [h5'])]
    simp only [Option.map] at hp
    simp only [hp]
    cases a <;> rfl
  | peer d block =>
    obtain ⟨rfl, h1, h2, h3, h4, rfl⟩ := h
    unfold State.spdmServe
    dsimp only
    rw [if_neg (by simp [h1, h2, h3]), if_neg (by simp [h4])]
    simp only [Option.map] at hp
    simp only [hp]
    cases a <;> rfl

end Sys2Proof.Machine
end

