-- ==== Sys2Proof/Tests/Slice0.lean ====
section
/-! SUPPORT. Slice0.lean: tests of the model: the lists that the interfaces bound, the worked examples of the specification, single steps,
and for every statement with hypotheses a witness that each of its clauses can be met. -/
namespace Sys2Proof.Machine.Tests
open Sys2Proof Sys2Proof.Machine

set_option maxRecDepth 20000
set_option Elab.async false

/-! ### Small states -/

def upHub : HubInfo := { inService := true, pllLock := true, hcRunning := true }
def up : State := {
  sys := { phase := .awake, resetLow := false, done := true }, fw := { spDown := false },
  hubs := (List.range 8).map (fun h => (h, upHub)), pwr := { feedAOk := true, feedBOk := true }, zlg := { startup := false } }
def tEnvelope : Envelope := ⟨0, 0, false, false, false, 0⟩
def tStageBuf : StageBuf := { owner := ⟨0, 1⟩ }
def tSiImage : SiImage := ⟨0, []⟩
/-- A message of type `t` in session 1 with a body of `n` zeros, sealed under key 0. -/
def kmpHdr (t : BitVec 8) (n : Nat) : KmpHdr := {
  type := t, sessionId := 1, msgSeq := 1, bodyLen := BitVec.ofNat 16 n, body := List.replicate n 0,
  tag := gcmTagBytes 0 (kmpNonce 1 1 false) (kmpHead 1 t 2 0 1 1 (BitVec.ofNat 16 n).toNat 0 0) (List.replicate n 0) }
def tKmpHdr : KmpHdr := kmpHdr 0x0A 0
/-- The header of a carving command. -/
def tCarveHdr : KmpHdr := kmpHdr 0x0A 32
def tKmpSession : KmpSession := { sid := 1, auth := .slot 0 }
def ops : State := { up with
  eth := [(0, { linkUp := true })], kmp := [(0, tKmpSession)], ten := { slots := [(0, (3, 0xF))], state := .clean } }
def pool : Sections := [(4, [(0, 1), (2, 0xFF), (3, 7), (8, 4)]), (5, [(0, 2)])]
def carving : State := { ops with
  eff := pool, slots := [(0, .carved), (1, .free)], extents := [(0, { cls := 0 })], maps := [(5, [(1, { extent := 0, rights := .rw })])],
  ten := { ops.ten with state := .open_ } }
def tCarveCmd : CarveCmd := { opcode := 1 }
def tDrain : Drain := { host := 5, extent := 0, poolBase := 1 }
def tMapEntry : MapEntry := { extent := 0, rights := .rw }
def tWin : SMap Word := [(0, 0x80), (127, 0x01000000)]
def tHeadBody : HeadBody := ⟨0, 1, 0, 0, 0, 0, false, false, false, 0, 0⟩
def tPartial : Partial := { head := { tHeadBody with len := 3 } }
def port (q : ZlPort) : State := { up with zl := [(0, q)] }
def hostSt (x : HostSt) : State := { up with hosts := [(5, x)] }
def ethAt (p : EthPort) : State := { up with eth := [(0, p)], eff := [(6, [(0x300, 1), (0x303, 1)])] }
def tDirEntry : DirEntry := { tag := 0, dstate := .e, owner := 5 }
def tReq : LineReq := { kind := .rdX false, from_ := .host 7 0 }
def tSnoop : Snoop := { host := 5, op := .snpX, mode := .fwd, htag := 9, asOwner := true }
def tTx : Tx := { req := tReq, snoops := [tSnoop] }
def tLineOrd : LineOrd := { hub := 0, tx := some tTx }
def line (o : LineOrd) : State := { carving with lines := [(0, o)] }
def routed : State := { up with
  si := { committed := true }, eff := [(6, [(0x334, 0), (0x335, 1)])],
  zl := [(0, { state := .up, initSeen := 0x7F, creditSeen := true }), (1, { state := .up, initSeen := 0x7F, creditSeen := true })] }
def tBulkRx : BulkRx := { addr := 0, bytes := 4 }

/-- An RdS of host 5 for the first line of its pool block 1. -/
def tRds : CohMsg × Instr := ({ op := .rdS, tag := 0, addr := 0x400000 }, .rds 5 0 0x400000 .clean)
def tFrame : EthFrame := {}
/-- PTP is enabled, and the master with data set 1 has been heard twice. -/
def ptp (x : EthGlobal) : State := { ops with
  ethg := { x with ptpEn := true, ptpMasters := [{ source := 7, rank := 1, at_ := 0, interval := 1000000000, twice := true }] } }
def tKmpMsg : KmpMsg := { slot := some 0, type := 8, seq := 1, what := .trace 0 [], head := [], body := [] }
def tDhcp : DhcpMsg := .offer
def tPtp : PtpFrame := { source := 7, seq := 0, msg := .followUp 0 0 }

def tPacket : Packet := { ptype := 0, dst := 5, lvc := 0, src := 0 }
def tOut : OutPkt := { pkt := tPacket, port := 0, sentAt := 0 }
def tRoceHdr : RoceHdr := { port := false, qpn := 0x10000, psn := 0, srcIp := 0 }
def tQpParams : QpParams := {
  queue := 0, port := 0, tc := 1, vlan := 0, pmtu := 1, ackTimeout := 8, retry := 1, peerMac := 0, peerIp := 0, peerQpn := 1, peerPsn := 0,
  cqVa := 0, cqRkey := 0, cqBytes := 4096 }
def tQp : Qp := { params := tQpParams }
def tRoceOut : RoceOut := { psn := 0, count := 1, op := .read 0 0 64, access := some 3 }
def queuesOf (host : BitVec 16) : Sections := [(7, [(0, host.setWidth 8), (1, (host >>> 8).setWidth 8), (2, 1)])]
def roce (x : Qp) : State := { up with
  si := { committed := true }, eff := queuesOf 0x400, eth := [(0, { linkUp := true })], qps := [(0, x)] }
def fab : State := { up with si := { committed := true }, eff := queuesOf 5 }
def tSubEntry : SubEntry := { opcode := 4 }
def tRingSlot : RingSlot := { id := 0, entry := tSubEntry }
def tCand : Cand := ⟨0, tRingSlot, 0⟩
def queued (e : SubEntry) : State := { fab with queues := [(0, { ring := [{ id := 0, entry := e }] })] }
/-- A run image of one logical cluster, two supersteps and four bundles, of which the first holds `w` in slot `k`; gate 1 is its own,
for expert 3. -/
def image (k : Nat) (w : DWord) : List Byte := (List.range 0x240).map (fun i =>
  if i = 0x10 then 1 else if i = 0x14 then 2 else if i = 0x1A then 1 else if i = 0x22 then 2
  else if i = 0x84 then 0x80 else if i = 0x85 ∨ i = 0x95 then 1 else if i = 0x94 then 0xC0 else if i = 0x105 then 2
  else if i = 0x228 then 1 else if i = 0x184 then 4 else if i = 0x222 then 3
  else if 0x1C0 + 8 * k ≤ i ∧ i < 0x1C8 + 8 * k then (w >>> (8 * (i - 0x1C0 - 8 * k))).setWidth 8 else 0)
def run (k : Nat) (w : DWord) (x : Lc) : State := { up with
  clus := [(0, { resident := some (0, 0) })], jobs := [(0, { state := .running, image := image k w })],
  lcs := [(lcKey 0 0, { x with phase := .running, place := some (0, 0) })] }
def tG : VSig := { sem := 0, sig := false }
def tStreamDesc : StreamDesc := ⟨0, 1, 1, 64, 0, 0, 0, 0, 0, 0, 0, false, false, [], false, false, false, false⟩
def tMatIss : MatIss := { op := .wload 0 false 0, sem := 0, sig := false }
def tMatOp : MatOp := .wload 0 false 0
def tLaunch : Launch := { cmd := ⟨0, 0⟩ }
def tJLoad : JLoad := { cmd := ⟨0, 0⟩, host := 5, ckptAddr := 0, bytes := 0, watchdogMs := 0 }
def tCkpt : Ckpt := { cmd := ⟨0, 0⟩, host := 5, area := 0, hold := false, step := 0 }
/-- A finished access with one piece of status `p`. -/
def accSt (p : PStatus) : Access := { owner := .engine 2 0, write := false, pieces := [p] }
def jobIs (j : Job) : State := { fab with jobs := [(0, j)] }
/-- Host 5's queue 0 holds the job command `op` with operand `v`. -/
def jobQ (op : BitVec 8) (v : BitVec 128) (j : Job) : State := { queued { opcode := op, operand := v } with jobs := [(0, j)] }
/-- The image with its pair flag set. -/
def imageP : List Byte := (image 3 0).set 0xF 2
/-- Job 0 runs its image; its logical cluster stands as `x`, and the gates of its step as `y`. -/
def gated (y : GateStep) (x : Lc) : State := { up with
  clus := [(0, { resident := some (0, 0) })], jobs := [(0, { state := .running, image := image 3 0, gates := y })],
  lcs := [(lcKey 0 0, x)] }
def yielded : Lc := { phase := .yielded, place := some (0, 0) }
/-- Job 0 with the pair flag in its image. -/
def pairs (x : Job) : State := { up with jobs := [(0, { x with image := imageP })] }
/-- A pairs job waits for the hello of the pairs peer 3. -/
def helloWait : State := { pairs { state := .launchPending, launch := some { tLaunch with helloSent := true, peerDev := 3 } } with
  zlg := { startup := false, locked := true } }
def tGather : Gather := { host := 5, gtag := 0 }
def tToken : Token := { index := 0, weight := 0, source := 0 }
def tMiss : Miss := ⟨0, 0, 0, 0, 0, 0, 0, false, none⟩
def tFaultRec : FaultRec := { id := 0, job := 0, level := 1, va := 0, opened := 0 }
def tShoot : Shoot := { job := 0 }
def tMigration : Migration := .slot 0 3 9
def tLiftJob : LiftJob := { src := 0, dest := 1, cls := 0 }
def tRepair : Repair := { hub := 0, channel := 0, rank := 0, bank := 0, row := 0 }
/-- Host 5's selection of the best of one block: its block list and query. -/
def selBytes : List Byte := (List.range 160).map (fun i => if i = 8 then 1 else if i = 12 then 64 else 0)
def slgAt (l : List Gather) : State := { up with slg := [(0, { gathers := l })] }
def trnAt (t : Trn) : State := { up with trn := [(0, t)] }
def integAt (i : Integ) : State := { up with integ := i }
def chanAt (c : MemChan) : State := { up with chans := [(0, c), (32, c)] }
def lifting (l : List LiftJob) : State := { ops with
  eff := [(4, [(0, 1), (2, 0xFF), (3, 7), (4, 1), (8, 4), (16, 1), (17, 1), (18, 0xFF), (19, 7), (20, 1), (24, 4)]), (5, [(0, 2), (1, 2)])],
  slots := [(0, .carved), (4096, .free)], extents := [(0, { cls := 0 })], lift := { queue := l } }
def patrolled (m : LineMeta) : State := { up with
  units := [(0, { init := 1 })], slots := [(0, .carved)], memHubs := [(0, { scrubHours := 24 })], chans := [(0, { state := .inService })],
  lineMeta := [(0, m)] }
def rawing : State := { ops with eff := [(4, [(0, 1), (4, 2)])], extents := [(0, { cls := 0 })], slots := [(0, .carved)] }
def pwrAt (p : PwrHub) : State := { up with pwrHubs := [(0, p)] }
def half : Access := { accSt .ok with lines := [{ piece := 0, line := 0, offset := 0, mask := 0 }] }
def hdr0 : KmpHdr := { type := 2, kflags := 0, sessionId := 0, msgSeq := 1 }
def c0 : SpdmCarrier := .kmp hdr0
def sp (x : SpdmSt) : State := { ops with ten := { ops.ten with spdm := [(spdmFrom c0, x)] } }
/-- Host 5's requests have reached `x`; one more whole message of its fragments waits. -/
def spz (x : SpdmSt) : State := { up with ten := { spdm := [(.zl 5, x)], frags := [(5, { mseq := 0, whole := true })] } }
/-- The pairs peer 3, reached over port 0, has come to `x`. -/
def spp (x : SpdmSt) : State := { up with eff := [(6, [(0, 2)])], zl := [(0, { state := .up })], ten := { spdm := [(.peer 3, x)] } }
def tSpdmExch : SpdmExch := { slot := some 2, reqSid := 1, rspSid := 3, both := false }
/-- Path `p` has the mailbox of block `b` of H0 as `x`. -/
def mailbox (p : Path) (b : Nat) (x : Mbx) : State := { ops with mbx := [(mbxKey p 0 b, x)] }
def tSealTag : SealTag := { host := 5, lvc := 0, lap := 0, tseq := 0, tag := [] }
def tSpdmFrag : SpdmFrag := { mseq := 0, next := 1 }
def fwAt (f : Fw) : State := { ops with fw := { f with spDown := false } }
def tFwRestart : FwRestart := { since := 0 , hub := some 0}
def oldFw : FwImage := { version := 0, svn := 0, bytes := [] }
/-- A package of one manifest and its 28 bytes. -/
def package : StageBuf := { owner := ⟨0, 1⟩, top := 1228, bytes := [(0, 0x46), (1, 0x58), (2, 0x46), (3, 0x57), (4, 1), (6, 1), (7, 1), (0x10, 28)] }

/-! ### How a witness meets an equation -/

theorem some_getD {α : Type} {o : Option α} {d : α} (h : o.isSome = true) : o = some (o.getD d) := by
  cases o with
  | none => cases h
  | some x => rfl
theorem some_pair {α β : Type} {o : Option (α × β)} {d : α × β} (h : o.isSome = true) : o = some ((o.getD d).1, (o.getD d).2) :=
  some_getD h
theorem prod_eta {α β : Type} (p : α × β) : p = (p.1, p.2) := rfl
theorem prod_eta3 {α β γ : Type} (p : α × β × γ) : p = (p.1, p.2.1, p.2.2) := rfl
theorem three {a b c d : Prop} (h : a ∧ b ∧ c) (k : d) : a ∧ b ∧ c ∧ d := ⟨h.1, h.2.1, h.2.2, k⟩
theorem of_empty {α β : Type} {l : List α} {f : β → α} {p : β → Prop} (h : l = []) : ∀ r, f r ∈ l → p r := by
  subst h
  exact fun r k => absurd k List.not_mem_nil
/-- The sections of an image without any byte. -/
def emptySections : Sections := (List.range 12).map (fun n => (n + 1, []))
theorem combos_empty : combosAlone emptySections = true := by decide +kernel
theorem check9_empty {s : State} {e : Sections} (h : e = emptySections) (k : s.combosState emptySections = true) : s.check9 e = true := by
  subst h
  simp only [State.check9, combos_empty, k, Bool.and_self]
theorem check9_fails {s : State} {e : Sections} (h : s.combosState e = false) : s.check9 e = false := by
  simp only [State.check9, h, Bool.and_false]
theorem not_a_reset {s : State} {a b : Sections} (h : needsReset a b = false) : s.classOfChange a b ≠ 3 := by
  unfold State.classOfChange
  rw [h]
  simp only [Bool.false_eq_true, if_false]
  split <;> decide

/-- A body sealed under the session's key opens under it. -/
theorem kmpHdr_opens (t : BitVec 8) (n : Nat) (x : KmpSession) (h : x.key = 0) : x.opens (kmpHdr t n) = true := by
  simp [KmpSession.opens, gcmOpen, h, kmpHdr, KmpHdr.protected_]
/-- The state in which a message of type `t` in session record `x` is served. -/
def reached (t : BitVec 8) (n : Nat) (x : KmpSession) (s : State) : State :=
  ((s.kmpArrive (kmpHdr t n)).1.map (fun u => u.noteMgmt x)).getD up
/-- What must hold, apart from the seal, for a message of type `t` to be served in session record `x` of slot 0. -/
def mayServe (t : BitVec 8) (n : Nat) (x : KmpSession) (s : State) : Bool :=
  ((s.kmpArrive (kmpHdr t n)).1.map (fun u => u.noteMgmt x)).isSome && (reached t n x s).sessionOf 1 == some 0
    && (reached t n x s).session 0 == some x && x.key == 0 && !x.port && (x.stored.find? (fun e => e.1 == 1)).isNone && x.fresh 1
    && kmpKnown t && !(reached t n x s).fatal && (reached t n x s).sys.phase != .halted && !(reached t n x s).ethQuiesced false
    && !(reached t n x s).spRestarting && kmpHdrOk (kmpHdr t n)
theorem served {t : BitVec 8} {n : Nat} {x : KmpSession} {s : State} (h : mayServe t n x s = true) :
    KmpServed s (kmpHdr t n) 0 x (reached t n x s) := by
  simp only [mayServe, Bool.and_eq_true, beq_iff_eq, Bool.not_eq_true', bne_iff_ne, Option.isNone_iff_eq_none] at h
  obtain ⟨⟨⟨⟨⟨⟨⟨⟨⟨⟨⟨⟨h1, h2⟩, h3⟩, h4⟩, h5⟩, h6⟩, h7⟩, h8⟩, h9⟩, h10⟩, h11⟩, h12⟩, h13⟩ := h
  exact ⟨some_getD h1, h2, h3, kmpHdr_opens t n x h4, h5, h13, h6, h7, h9, h10, h11, h8, h12⟩

/-! ### Lists that the interfaces bound -/

theorem test_wf_lane_errors : Instr.wellFormed (.laneErrorInterval 0 [1, 2, 3]) = false := by decide
theorem test_wf_pfc : Instr.wellFormed (.pfcFrame false {} 0 [1]) = false := by decide
theorem test_wf_sensors : Instr.wellFormed (.sensorRead 0 [40]) = false := by decide
theorem test_wf_transfer : Instr.wellFormed (.transfer tKmpHdr 1 1 0 0 (List.replicate 1393 0) false) = false := by decide +kernel
theorem test_wf_reg_write : Instr.wellFormed (.regWrite tKmpHdr (List.replicate 177 (0, 0)) {}) = false := by decide +kernel
theorem test_wf_send : Instr.wellFormed (.send tRoceHdr .only (List.replicate 4097 0)) = false := by decide +kernel
theorem test_wf_read_response : Instr.wellFormed (.rdmaReadResponse tRoceHdr (List.replicate 4097 0) []) = false := by decide +kernel
theorem test_wf_bulk : Instr.wellFormed (.bulkWriteData 5 0 0 512 0 (List.replicate 257 0) []) = false := by decide +kernel
theorem test_wf_token : Instr.wellFormed (.token 0 5 0 0 0 0 0 0 (List.replicate 257 0)) = false := by decide +kernel
theorem test_wf_gather : Instr.wellFormed (.gather 0 5 0 0 0 1 1 0 0 (List.replicate 257 0) []) = false := by decide +kernel
theorem test_wf_select : Instr.wellFormed (.select 0 5 0 1 0 32 0 0 (List.replicate 257 0) []) = false := by decide +kernel
theorem test_wf_fragment : Instr.wellFormed (.spdmFragment 5 0 true 0 (List.replicate 257 0)) = false := by decide +kernel
theorem test_wf_seal : Instr.wellFormed (.seal_ 5 0 0 0 []) = false := by decide
theorem test_wf_digests : Instr.wellFormed (.pdigest 0 0 0 [] []) = false := by decide
theorem test_wf_bypass : Instr.wellFormed (.bypass 0x20) = false := by decide

/-! ### The queue of commands -/

theorem test_step_takes_the_front : (match step { up with pending := [.csrAddr 4, .csrAddr 8] } with
    | .next t => t.pending == [.csrAddr 8] && t.jtag.addr == 4
    | _ => false) = true := by decide +kernel
theorem test_no_word_spells_a_command : decodeTableWord 32 0x04A51A01 = none := by decide
theorem test_reset : State.reset.sys.phase = .inReset ∧ State.reset.pending = [] ∧ State.reset.mem = [] := by decide +kernel

/-! ### Worked examples of the specification -/

/-- The published check value of the CRC of R229, over the nine digits "123456789". -/
theorem test_crc_of_nine_digits : crc32c [0x31, 0x32, 0x33, 0x34, 0x35, 0x36, 0x37, 0x38, 0x39] = 0xE3069283 := by decide +kernel
/-- The bundle of the example after R440. -/
theorem test_bundle_move : moveWord 1 2 3 10 5 true = 0x04A51A01 := by decide +kernel
theorem test_bundle_matrix : mmaWord 2 3 3 true true false 4 true = 0x48318C4002 := by decide +kernel
theorem test_bundle_vector : vecWord 0x10 5 6 0 0 0 0 0 false ⟨0, false⟩ = 0xC510 := by decide +kernel
theorem test_bundle_control : ctlWord 0x25 7 0 0 0x12 = 0x0000001200000725 := by decide +kernel
/-- The segment of the example after R393: a tie that the sticky bit decides. -/
theorem test_segment_sticky : segment [(⟨2, 2, 0x7F⟩, ⟨2, 2, 0x7F⟩), (⟨2, 2, 0x67⟩, ⟨2, 2, 0x7F⟩), (⟨2, 1, 0x39⟩, ⟨2, 1, 0x7F⟩)] =
    0x3F800001 := by decide +kernel
/-- The byte of a fine extent of the example after R116: H5, slot 40. -/
theorem test_fine_byte : ({ State.reset with extents := [(24616, { cls := 0, fineSet := 0xFF })] } : State).storage 0x060281234560 =
    5 * 2 ^ 41 + 40 * 2 ^ 28 + 0x06246860 := by decide +kernel
/-- The deep line of the example after R556: channel 1, rank 0. -/
theorem test_deep_line : (fun s : State => (s.chanOf (3 * 2 ^ 41 + 4100 * 2 ^ 28 + 0x7654321), s.rankOf (3 * 2 ^ 41 + 4100 * 2 ^ 28 + 0x7654321)))
    { State.reset with chans := [(3 * 64 + 32, { layout := true, dimms := 2, ranks := 2, gib := 128 }),
      (3 * 64 + 33, { layout := true, dimms := 2, ranks := 2, gib := 128 })] } = (33, 0) := by decide +kernel
/-- The charges of the example after R651. -/
theorem test_charges : chargeUj 11 14 = 96 ∧ chargeUj 11 12 = 87 := by decide
/-- The event record of the example after R758. -/
theorem test_trace_bytes : TraceRec.bytes ⟨3, false, true, 2, 5, 0x21, 17, 0x58A3C1F40, 48200, 5, 5, 5, 0x140⟩ =
    [0x03, 0x02, 0x02, 0x05, 0x21, 0x00, 0x11, 0x00, 0x40, 0x1F, 0x3C, 0x8A, 0x05, 0x00, 0x00, 0x00, 0x48, 0xBC, 0x00, 0x00, 0x05, 0x00,
      0x05, 0x00, 0x05, 0x00, 0x00, 0x00, 0x40, 0x01, 0x00, 0x00] := by decide +kernel
/-- The tenancy block of the example after R747. -/
theorem test_tenancy_word : (mbxWords (({ up with ten := { state := .open_, epoch := 47 }, eff := [(10, [(0, 1), (1, 1), (2, 1)])] } :
    State).tenancyBlock)).take 4 = [0x00060102, 0, 0x2F, 0] := by decide +kernel
/-- The address of `CLU` of H2.C5 in the example after R411, and of P9's `ZLL` window. -/
theorem test_clu_address : csrAddr 2 (0x10 + 5) 0 = 0x08540000 := by decide +kernel
/-- Every NaN result is 0x7FC00000; max(+0, −0) is +0 and min(+0, −0) is −0 (R394). -/
theorem test_f32_corners : f32Max 0 0x80000000 = 0 ∧ f32Min 0 0x80000000 = 0x80000000 ∧ f32Max 0x3F800000 0x7F800001 = 0x7FC00000 ∧
    f32Add 0x7F800000 0xFF800000 = 0x7FC00000 := by decide +kernel

/-! ### Single steps -/

theorem test_jtag_idcode_selects : (match exec .idcode up with | .next t => t.jtag.ir == 1 && t.pending == [] | _ => false) = true := by decide +kernel
theorem test_counter_reset_needs_operator : exec (.counterReset .i3c 0 4 false) ops = .next ops := by rfl
theorem test_illegal_register_address : (up.csrWrite .firmware 0x20000000 0 {}).1 = 6 ∧ (up.csrWrite .firmware 2 0 {}).1 = 6 := by decide +kernel
theorem test_fragment_kept : (match exec (.spdmFragment 5 0 false 7 [1, 2]) up with
    | .next t => (t.ten.frags.get? 5).map (fun f => (f.next, f.bytes, f.whole)) == some (1, [1, 2], false)
    | _ => false) = true := by decide +kernel
theorem test_watchdog_ends_job : (match exec (.superstepWatchdog 0) { gated {} yielded with
      jobs := [(0, { state := .running, image := image 3 0, watchdogMs := 7 })] } with
    | .next t => (t.job 0).state == .faulted && (t.job 0).cause == 5 && (t.lc 0 0).phase == .halted
    | _ => false) = true := by decide +kernel
theorem test_sub_wraps : (match exec (.sub ⟨0, 0⟩ 1 2 3) (run 3 (ctlWord 2 1 2 3 0) { regs := { s := [(3, 1)] } }) with
    | .next t => (t.lc 0 0).regs.s.getD 1 0 == 0xFFFFFFFFFFFFFFFF
    | _ => false) = true := by decide +kernel
theorem test_switch_over_of_a_lost_pair_is_fatal : (match exec (.switchOver (.feed false)) { up with pwr := { feedAOk := true } } with
    | .next t => t.fatal
    | _ => false) = true := by decide +kernel

/-! ### Witnesses: the hypotheses of each clause of a statement are met together -/

theorem witness_AnEmptyQueueLetsTimePass :
    ∃ s : State, s.pending = [] :=
  ⟨up, by decide +kernel⟩
theorem witness_EveryStepKeepsMemoryCanonical :
    ∃ s : State, ∃ t : State, s.memOk ∧ step s = Host.Outcome.next t :=
  ⟨up, up.idle, rfl, rfl⟩
theorem witness_EveryCommandWritesOnlyItsFields :
    ∃ c : Instr, ∃ s : State, ∃ t : State, exec c s = Host.Outcome.next t :=
  ⟨.jtagReset, up, { up with jtag := {} }, rfl⟩
theorem witness_MonotonicCountersNeverFall :
    (∃ s : State, ∃ t : State, step s = Host.Outcome.next t) ∧
    (∃ b : StageBuf, ∃ s : State, s.fatal = false ∧ s.si.state = SiState.quiescing ∧ s.si.stage = some b ∧ s.quiesced s.si.hold
      (s.effective (stagedImage b).sections) = true ∧ s.check9 (s.effective (stagedImage b).sections) = true ∧ s.check10
      (stagedImage b) = true) ∧
    (∃ p : Path, ∃ b : StageBuf, ∃ s : State, s.siTakes p = true ∧ s.mayCommit = true ∧ s.si.stage = some b) :=
  ⟨⟨up, up.idle, rfl⟩,
   ⟨_, { up with si := { state := .quiescing, stage := some tStageBuf } }, by decide +kernel, by decide +kernel, some_getD (d :=
     tStageBuf) (by decide +kernel), by decide +kernel, check9_empty (by decide +kernel) (by decide +kernel), by decide +kernel⟩,
   ⟨.firmware, _, { up with si := { state := .validated, stage := some tStageBuf } }, by decide +kernel, by decide +kernel,
     some_getD (d := tStageBuf) (by decide +kernel)⟩⟩
theorem witness_ResetsKeepNonVolatileState :
    (∃ a : Bool, ∃ b : Bool, ∃ s : State, (s.sys.phase = Phase.unpowered ∨ s.pwr.feedAOk = false ∧ s.pwr.feedBOk = false) ∧ (a || b)
      = true) ∧
    (∃ s : State, s.sys.phase ≠ Phase.unpowered) ∧
    (∃ p : Path, ∃ s : State, s.maySys p = true ∧ s.sys.phase ≠ Phase.unpowered ∧ s.sys.phase ≠ Phase.inReset ∧ s.sys.phase ≠
      Phase.sleeping) :=
  ⟨⟨true, false, { sys := { phase := .unpowered } }, by decide +kernel⟩,
   ⟨up, by decide +kernel⟩,
   ⟨.firmware, up, by decide +kernel⟩⟩
theorem witness_StartUpHaltsOrRuns :
    (∃ f : StartUpFacts, ∃ h : Fin 8, ∃ s : State, s.mayStart = true ∧ (f.pllFail = some h ∨ f.pllFail = none ∧ s.noRef = some h)) ∧
    (∃ f : StartUpFacts, ∃ s : State, s.mayStart = true ∧ f.pllFail = none ∧ s.noRef = none ∧ f.spBank = false ∧ f.spOther = false)
      ∧
    (∃ f : StartUpFacts, ∃ h : Fin 8, ∃ s : State, s.mayStart = true ∧ f.pllFail = none ∧ s.noRef = none ∧ (f.spBank || f.spOther) =
      true ∧ f.hcFail = some h) ∧
    (∃ f : StartUpFacts, ∃ h : Fin 8, ∃ b : BitVec 6, ∃ s : State, s.mayStart = true ∧ f.pllFail = none ∧ s.noRef = none ∧ (f.spBank
      || f.spOther) = true ∧ f.hcFail = none ∧ s.bridgeFail f = some (h, b)) ∧
    (∃ f : StartUpFacts, ∃ h : Nat, ∃ c : Nat, ∃ s : State, s.mayStart = true ∧ f.pllFail = none ∧ s.noRef = none ∧ (f.spBank ||
      f.spOther) = true ∧ f.hcFail = none ∧ s.bridgeFail f = none ∧ s.stackFail f = some (h, c)) ∧
    (∃ f : StartUpFacts, ∃ s : State, s.mayStart = true ∧ f.pllFail = none ∧ s.noRef = none ∧ (f.spBank || f.spOther) = true ∧
      f.hcFail = none ∧ s.bridgeFail f = none ∧ s.stackFail f = none) ∧
    (∃ s : State, s.sys.phase = Phase.starting ∧ s.sys.filling = true ∧ s.fatal = false) :=
  ⟨⟨{ pllFail := some 0, ethMedium := 0, i3cPid := 0 }, 0, { State.reset with sys := { phase := .inReset, resetLow := false } },
    by decide +kernel⟩,
   ⟨{ spBank := false, spOther := false, ethMedium := 0, i3cPid := 0 },
     { State.reset with sys := { phase := .inReset, resetLow := false } }, by decide +kernel⟩,
   ⟨{ spBank := true, hcFail := some 1, ethMedium := 0, i3cPid := 0 }, _,
     { State.reset with sys := { phase := .inReset, resetLow := false } }, by decide +kernel, three (by decide +kernel) (some_getD
     (d := 0) (by decide +kernel))⟩,
   ⟨{ spOther := true, bridges := [(6, List.replicate 3 { ok := false })], ethMedium := 0, i3cPid := 0 }, 0, 6,
     { State.reset with sys := { phase := .inReset, resetLow := false } }, by decide +kernel⟩,
   ⟨{ training := [(7 * 64 + 31, List.replicate 3 [{ read := 0 }])], ethMedium := 0, i3cPid := 0 }, 7, 31,
     { State.reset with sys := { phase := .inReset, resetLow := false } }, by decide +kernel⟩,
   ⟨{ spBank := true, ethMedium := 0, i3cPid := 0 }, { State.reset with sys := { phase := .inReset, resetLow := false } },
     by decide +kernel⟩,
   ⟨{ up with sys := { up.sys with phase := .starting, filling := true } }, by decide +kernel⟩⟩
theorem witness_ClocksKeepTime :
    (∃ h : Fin 8, ∃ s : State, s.hubPresent h.val = true ∧ (s.sys.phase = Phase.awake ∨ s.sys.phase = Phase.starting ∨ s.sys.phase =
      Phase.waking)) ∧
    (∃ h : Fin 8, ∃ s : State, s.hubPresent h.val = true ∧ s.sys.phase ≠ Phase.awake ∧ s.sys.phase ≠ Phase.starting ∧ s.sys.phase ≠
      Phase.waking) ∧
    (∃ h : Fin 8, ∃ s : State, s.hubPresent h.val = true) ∧
    (∃ time : BitVec 64, ∃ s : State, s.sys.sync.inEn = true ∧ s.running = true ∧ s.sys.sync.good + 1 < 8 ∧ s.sys.sync.locked =
      false ∧ s.sys.sync.lastTime = some (time - 1000000) ∧ s.sys.sync.lastEdge + 999900 ≤ s.clk.now ∧ s.clk.now ≤
      s.sys.sync.lastEdge + 1000100) ∧
    (∃ time : BitVec 64, ∃ s : State, s.sys.sync.inEn = true ∧ s.running = true ∧ 7 ≤ s.sys.sync.good ∧ s.sys.sync.lastTime = some
      (time - 1000000) ∧ s.sys.sync.lastEdge + 999900 ≤ s.clk.now ∧ s.clk.now ≤ s.sys.sync.lastEdge + 1000100) ∧
    (∃ s : State, s.sys.sync.inEn = true ∧ s.running = true) ∧
    (∃ s : State, s.sys.sync.outEn = true ∧ s.zlg.stratum < 15 ∧ s.running = true) ∧
    (∃ p : Fin 32, ∃ env : Envelope, ∃ s : State, s.receiving p.val = true ∧ env.reserved = false ∧ env.seq = 0) :=
  ⟨⟨0, up, by decide +kernel⟩,
   ⟨0, { up with sys := { up.sys with phase := .halted } }, by decide +kernel⟩,
   ⟨0, up, by decide +kernel⟩,
   ⟨1000000, { up with sys := { up.sys with sync := { inEn := true, lastTime := some 0 } }, clk := { now := 1000000 } },
     by decide +kernel⟩,
   ⟨1000000, { up with sys := { up.sys with sync := { inEn := true, good := 7, lastTime := some 0 } }, clk := { now := 1000000 } },
     by decide +kernel⟩,
   ⟨{ up with sys := { up.sys with sync := { inEn := true } } }, by decide +kernel⟩,
   ⟨{ up with sys := { up.sys with sync := { outEn := true } }, zlg := { stratum := 14 } }, by decide +kernel⟩,
   ⟨0, tEnvelope, { up with zl := [(0, { state := .up })] }, by decide +kernel⟩⟩
theorem witness_PartialResetRuns :
    (∃ p : Path, ∃ h : Fin 8, ∃ s : State, s.maySys p = true ∧ s.fatal = false ∧ s.partialBarred h.val = false) ∧
    (∃ p : Path, ∃ h : Fin 8, ∃ s : State, s.maySys p = true ∧ s.fatal = false ∧ s.partialBarred h.val = true) ∧
    (∃ h : Fin 8, ∃ s : State, s.hubPresent h.val = true ∧ (s.hub h.val).hcRunning = true ∧ (s.hub h.val).phase = PartialPhase.none
      ∧ s.fatal = false ∧ s.sys.phase = Phase.awake ∧ s.sys.hrGo = false ∧ s.sys.hrWaiting.contains h.val = false) ∧
    (∃ h : Fin 8, ∃ s : State, s.hubPresent h.val = true ∧ (s.hub h.val).hcRunning = true ∧ (s.hub h.val).phase = PartialPhase.none
      ∧ s.fatal = false ∧ s.sys.phase = Phase.awake ∧ s.sys.hrGo = true ∧ s.sys.hrWaiting.contains h.val = false) ∧
    (∃ h : Fin 8, ∃ s : State, (s.hub h.val).phase = PartialPhase.reset ∧ s.fatal = false) ∧
    (∃ h : Fin 8, ∃ s : State, (s.hub h.val).phase = PartialPhase.restart ∧ s.fatal = false ∧ s.sys.hrWaiting = [] ∧ ((List.range
      34).any fun c => (s.chan (h.val) c).state == ChState.training) = false) ∧
    (∃ h : Fin 8, ∃ s : State, (s.hub h.val).phase ≠ PartialPhase.none) ∧
    (∃ gs : List BridgeGroup, ∃ x : BridgeLog, ∃ r : List BridgeLog, ∃ s : State, s.bridgeErrors gs = x :: r ∧ s.fatal = false) ∧
    (∃ gs : List BridgeGroup, ∃ h : Fin 8, ∃ s : State, s.bridgeErrors gs ≠ [] ∧ s.fatal = true ∧ s.sys.bridgeHub = some h) ∧
    (∃ s : State, s.fatal = true) :=
  ⟨⟨.firmware, 0, up, by decide +kernel⟩,
   ⟨.firmware, 0, { up with sys := { up.sys with hrGo := true } }, by decide +kernel⟩,
   ⟨0, up, by decide +kernel⟩,
   ⟨0, { up with sys := { up.sys with hrGo := true } }, by decide +kernel⟩,
   ⟨0, { up with hubs := [(0, { upHub with phase := .reset })] }, by decide +kernel⟩,
   ⟨0, { up with hubs := [(0, { upHub with phase := .restart })] }, by decide +kernel⟩,
   ⟨0, { up with hubs := [(0, { upHub with phase := .reset })] }, by decide +kernel⟩,
   ⟨[⟨6, 4, [(5, 1)]⟩], { bridge := 6, parityLane := false, lane := 5, rxHub := 4, valid := true }, [],
     { up with sys := { up.sys with bridges := [(6, ([], []))] } }, by decide +kernel⟩,
   ⟨[⟨6, 4, [(5, 1)]⟩], 4, { up with sys := { up.sys with bridges := [(6, ([], []))], fatalAt := some 0, bridgeHub := some 4 } },
     by decide +kernel⟩,
   ⟨{ up with sys := { up.sys with fatalAt := some 0 } }, by decide +kernel⟩⟩
theorem witness_DeepSleepAndWake :
    (∃ s : State, s.fatal = false ∧ s.sleepBarred = false) ∧
    (∃ s : State, s.fatal = false ∧ s.sleepBarred = true) ∧
    (∃ s : State, s.sys.phase = Phase.sleeping) ∧
    (∃ s : State, s.sys.phase = Phase.sleeping ∧ s.clk.rtc = s.clk.rtcAlarm ∧ s.clk.rtcAlarm ≠ 0) ∧
    (∃ s : State, s.sys.phase = Phase.waking ∧ s.fatal = false) ∧
    (∃ s : State, s.sys.phase = Phase.sleeping ∧ s.pwr.feedBOk = true) ∧
    (∃ s : State, s.sys.phase = Phase.sleeping ∧ s.pwr.feedAOk = true) ∧
    (∃ b : Bool, ∃ s : State, s.sys.phase = Phase.sleeping ∧ (if b = true then s.pwr.feedAOk else s.pwr.feedBOk) = false) :=
  ⟨⟨up, by decide +kernel⟩,
   ⟨{ up with si := { state := .quiescing } }, by decide +kernel⟩,
   ⟨{ up with sys := { up.sys with phase := .sleeping } }, by decide +kernel⟩,
   ⟨{ up with sys := { up.sys with phase := .sleeping }, clk := { rtc := 5, rtcAlarm := 5 } }, by decide +kernel⟩,
   ⟨{ up with sys := { up.sys with phase := .waking } }, by decide +kernel⟩,
   ⟨{ up with sys := { up.sys with phase := .sleeping } }, by decide +kernel⟩,
   ⟨{ up with sys := { up.sys with phase := .sleeping } }, by decide +kernel⟩,
   ⟨false, { up with sys := { up.sys with phase := .sleeping }, pwr := { up.pwr with feedBOk := false } }, by decide +kernel⟩⟩
theorem witness_StructureImageCommands :
    (∃ p : Path, ∃ s : State, s.siTakes p = true ∧ s.si.lock = false ∧ (s.si.state = SiState.idle ∨ s.si.state = SiState.staging ∨
      s.si.state = SiState.validated) ∧ s.mayTake p s.si.stage = true) ∧
    (∃ p : Path, ∃ b : StageBuf, ∃ s : State, s.siTakes p = true ∧ s.si.lock = false ∧ s.si.state = SiState.staging ∧ s.si.stage =
      some b) ∧
    (∃ p : Path, ∃ b : StageBuf, ∃ s : State, s.siTakes p = true ∧ s.mayCommit = true ∧ s.si.stage = some b ∧ s.classOfChange s.eff
      (s.effective (stagedImage b).sections) ≠ 3) ∧
    (∃ p : Path, ∃ b : StageBuf, ∃ s : State, s.siTakes p = true ∧ s.mayCommit = true ∧ s.si.stage = some b ∧ s.classOfChange s.eff
      (s.effective (stagedImage b).sections) = 3) ∧
    (∃ p : Path, ∃ b : StageBuf, ∃ s : State, s.siTakes p = true ∧ s.mayCommit = true ∧ s.si.stage = some b) ∧
    (∃ p : Path, ∃ s : State, s.siTakes p = true ∧ s.si.lock = false ∧ (s.si.state = SiState.staging ∨ s.si.state =
      SiState.validated)) ∧
    (∃ p : Path, ∃ s : State, s.siTakes p = true ∧ s.si.lock = false ∧ s.si.state = SiState.pendingReset) ∧
    (∃ p : Path, ∃ y : SiImage, ∃ s : State, s.siTakes p = true ∧ s.si.lock = false ∧ (s.si.state = SiState.idle ∨ s.si.state =
      SiState.health) ∧ s.si.prev = some y ∧ s.classOfChange s.eff (s.sectionsOf (some y)) ≠ 3) ∧
    (∃ p : Path, ∃ y : SiImage, ∃ s : State, s.siTakes p = true ∧ s.si.lock = false ∧ (s.si.state = SiState.idle ∨ s.si.state =
      SiState.health) ∧ s.si.prev = some y ∧ s.classOfChange s.eff (s.sectionsOf (some y)) = 3) ∧
    (∃ p : Path, ∃ s : State, (s.pathUsage p).getLsbD 0 = true ∧ s.fatal = false ∧ (p ≠ Path.jtag ∨ s.jtagAllowed = true)) ∧
    (∃ p : Path, ∃ s : State, s.siTakes p = true ∧ s.si.lock = true) :=
  ⟨⟨.firmware, up, by decide +kernel⟩,
   ⟨.firmware, _, { up with si := { state := .staging, stage := some tStageBuf } }, three (by decide +kernel) (some_getD (d :=
     tStageBuf) (by decide +kernel))⟩,
   ⟨.firmware, _, { up with si := { state := .validated, stage := some tStageBuf } }, by decide +kernel, by decide +kernel,
     some_getD (d := tStageBuf) (by decide +kernel), not_a_reset (by decide +kernel)⟩,
   ⟨.firmware, _, { up with si := { state := .validated, stage := some tStageBuf }, eff := [(12, [(0, 9)])] }, by decide +kernel,
     by decide +kernel, some_getD (d := tStageBuf) (by decide +kernel), by decide +kernel⟩,
   ⟨.firmware, _, { up with si := { state := .validated, stage := some tStageBuf } }, by decide +kernel, by decide +kernel,
     some_getD (d := tStageBuf) (by decide +kernel)⟩,
   ⟨.firmware, { up with si := { state := .staging } }, by decide +kernel⟩,
   ⟨.firmware, { up with si := { state := .pendingReset } }, by decide +kernel⟩,
   ⟨.firmware, _, { up with si := { prev := some tSiImage } }, three (by decide +kernel) ⟨some_getD (d := tSiImage)
     (by decide +kernel), not_a_reset (by decide +kernel)⟩⟩,
   ⟨.firmware, _, { up with si := { prev := some tSiImage }, eff := [(12, [(0, 9)])] }, three (by decide +kernel) ⟨some_getD (d :=
     tSiImage) (by decide +kernel), by decide +kernel⟩⟩,
   ⟨.firmware, up, by decide +kernel⟩,
   ⟨.firmware, { up with si := { lock := true } }, by decide +kernel⟩⟩
theorem witness_CommitEndsInHealthOrAsBefore :
    (∃ b : StageBuf, ∃ s : State, s.fatal = false ∧ s.si.state = SiState.quiescing ∧ s.si.stage = some b ∧ s.quiesced s.si.hold
      (s.effective (stagedImage b).sections) = true ∧ s.check9 (s.effective (stagedImage b).sections) = true ∧ s.check10
      (stagedImage b) = true) ∧
    (∃ b : StageBuf, ∃ s : State, s.fatal = false ∧ s.si.state = SiState.quiescing ∧ s.si.stage = some b ∧ s.quiesced s.si.hold
      (s.effective (stagedImage b).sections) = true ∧ s.check9 (s.effective (stagedImage b).sections) = false) ∧
    (∃ y : SiImage, ∃ s : State, s.fatal = false ∧ s.si.state = SiState.returning ∧ s.si.prev = some y ∧ s.quiesced s.si.hold
      (s.effective y.sections) = true) ∧
    (∃ s : State, s.fatal = false ∧ s.si.state = SiState.quiescing) ∧
    (∃ s : State, s.fatal = false ∧ s.si.state = SiState.returning) ∧
    (∃ c : BitVec 3, ∃ s : State, s.fatal = false ∧ s.si.state = SiState.health ∧ s.checkFails c = true ∧ s.si.prev = none) ∧
    (∃ c : BitVec 3, ∃ y : SiImage, ∃ s : State, s.fatal = false ∧ s.si.state = SiState.health ∧ s.checkFails c = true ∧ s.si.prev =
      some y ∧ s.classOfChange s.eff (s.sectionsOf (some y)) ≠ 3) ∧
    (∃ s : State, s.fatal = false ∧ s.si.state = SiState.health ∧ s.checkFails 5 = false) :=
  ⟨⟨_, { up with si := { state := .quiescing, stage := some tStageBuf } }, by decide +kernel, by decide +kernel, some_getD (d :=
    tStageBuf) (by decide +kernel), by decide +kernel, check9_empty (by decide +kernel) (by decide +kernel), by decide +kernel⟩,
   ⟨_, { carving with si := { state := .quiescing, stage := some tStageBuf } }, by decide +kernel, by decide +kernel, some_getD (d
     := tStageBuf) (by decide +kernel), by decide +kernel, check9_fails (by decide +kernel)⟩,
   ⟨_, { up with si := { state := .returning, prev := some tSiImage } }, by decide +kernel, by decide +kernel, some_getD (d :=
     tSiImage) (by decide +kernel), by decide +kernel⟩,
   ⟨{ up with si := { state := .quiescing } }, by decide +kernel⟩,
   ⟨{ up with si := { state := .returning } }, by decide +kernel⟩,
   ⟨1, { up with si := { state := .health } }, by decide +kernel⟩,
   ⟨1, _, { up with si := { state := .health, prev := some tSiImage } }, three (by decide +kernel) ⟨some_getD (d := tSiImage)
     (by decide +kernel), not_a_reset (by decide +kernel)⟩⟩,
   ⟨{ up with si := { state := .health } }, by decide +kernel⟩⟩
theorem witness_TransferMovesStagedBytes :
    (∃ hdr : KmpHdr, ∃ n : BitVec 16, ∃ o : BitVec 32, ∃ d : List Byte, ∃ k : Nat, ∃ x : KmpSession, ∃ b : StageBuf, ∃ s : State, ∃
      v : State, KmpServed s hdr k x v ∧ v.isOperator x = true ∧ 0 < n.toNat ∧ n.toNat ≤ 1024 ∧ d.length = n.toNat ∧ o.toNat +
      n.toNat ≤ 262144 ∧ (v.si.state = SiState.staging ∨ v.si.state = SiState.validated) ∧ v.si.stage = some b ∧ ownedBy (some b) k
      x.sid = true) ∧
    (∃ hdr : KmpHdr, ∃ n : BitVec 16, ∃ o : BitVec 32, ∃ d : List Byte, ∃ k : Nat, ∃ x : KmpSession, ∃ b : StageBuf, ∃ s : State, ∃
      v : State, KmpServed s hdr k x v ∧ v.isOperator x = true ∧ 0 < n.toNat ∧ n.toNat ≤ 1024 ∧ d.length = n.toNat ∧ o.toNat +
      n.toNat ≤ 4194304 ∧ v.fw.writing = false ∧ v.fw.stage = some b ∧ ownedBy (some b) k x.sid = true) ∧
    (∃ hdr : KmpHdr, ∃ n : BitVec 16, ∃ o : BitVec 32, ∃ k : Nat, ∃ x : KmpSession, ∃ b : StageBuf, ∃ s : State, ∃ v : State,
      KmpServed s hdr k x v ∧ v.isOperator x = true ∧ 0 < n.toNat ∧ n.toNat ≤ 1024 ∧ o.toNat + n.toNat ≤ 262144 ∧ (v.si.state =
      SiState.staging ∨ v.si.state = SiState.validated) ∧ v.si.stage = some b ∧ ownedBy (some b) k x.sid = true) ∧
    (∃ hdr : KmpHdr, ∃ k : Nat, ∃ x : KmpSession, ∃ s : State, ∃ v : State, KmpServed s hdr k x v ∧ v.isOperator x = false) :=
  ⟨⟨tKmpHdr, 1, 0, [7], 0, tKmpSession, _, { ops with si := { state := .staging, stage := some tStageBuf } }, _, served
    (by decide +kernel), three (by decide +kernel) (three (by decide +kernel) ⟨some_getD (d := tStageBuf) (by decide +kernel),
    by decide +kernel⟩)⟩,
   ⟨tKmpHdr, 1, 0, [7], 0, tKmpSession, _, { ops with fw := { spDown := false, stage := some tStageBuf } }, _, served
     (by decide +kernel), three (by decide +kernel) (three (by decide +kernel) ⟨some_getD (d := tStageBuf) (by decide +kernel),
     by decide +kernel⟩)⟩,
   ⟨tKmpHdr, 1, 0, 0, tKmpSession, _, { ops with si := { state := .staging, stage := some tStageBuf } }, _, served
     (by decide +kernel), by decide +kernel, by decide +kernel, three (by decide +kernel) ⟨some_getD (d := tStageBuf)
     (by decide +kernel), by decide +kernel⟩⟩,
   ⟨tKmpHdr, 0, tKmpSession, { ops with ten := {} }, _, served (by decide +kernel), by decide +kernel⟩⟩
theorem witness_CarvingIsRefusedByTheFirstReason :
    (∃ hdr : KmpHdr, ∃ cmd : CarveCmd, ∃ k : Nat, ∃ x : KmpSession, ∃ s : State, ∃ v : State, ∃ r : BitVec 8 × Instr, CarveServed s
      hdr cmd k x v ∧ r ∈ carveRows hdr cmd ∧ v.carveRefusal {cmd with opcode := r.1} ≠ 0) ∧
    (∃ hdr : KmpHdr, ∃ cmd : CarveCmd, ∃ k : Nat, ∃ x : KmpSession, ∃ s : State, ∃ v : State, ∃ r : BitVec 8 × Instr, KmpServed s
      hdr k x v ∧ v.mayCarve x = false ∧ r ∈ carveRows hdr cmd) ∧
    (∃ hdr : KmpHdr, ∃ cmd : CarveCmd, ∃ k : Nat, ∃ x : KmpSession, ∃ s : State, ∃ v : State, ∃ r : BitVec 8 × Instr, KmpServed s
      hdr k x v ∧ v.mayCarve x = true ∧ carveReserved cmd.opcode = false ∧ v.carver.filling.isSome = true ∧ r ∈ carveRows hdr cmd)
      :=
  ⟨⟨tCarveHdr, tCarveCmd, 0, tKmpSession, ops, _, (1, .carve tCarveHdr tCarveCmd), ⟨served (by decide +kernel), by decide +kernel⟩,
    by simp [carveRows], by decide +kernel⟩,
   ⟨tCarveHdr, tCarveCmd, 0, tKmpSession, { ops with ten := {} }, _, (1, .carve tCarveHdr tCarveCmd), served (by decide +kernel),
     by decide +kernel, by simp [carveRows]⟩,
   ⟨tCarveHdr, tCarveCmd, 0, tKmpSession, { ops with carver := { filling := some (⟨0, 1, tCarveHdr, tCarveCmd⟩, 0) } }, _, (1,
     .carve tCarveHdr tCarveCmd), served (by decide +kernel), three (by decide +kernel) (by simp [carveRows])⟩⟩
theorem witness_CarvingReasonsComeInOrder :
    ∃ hdr : KmpHdr, ∃ cmd : CarveCmd, ∃ k : Nat, ∃ n : Nat, ∃ x : KmpSession, ∃ pre : List Nat, ∃ post : List Nat, ∃ s : State, ∃ v
      : State, ∃ r : BitVec 8 × Instr, CarveServed s hdr cmd k x v ∧ r ∈ carveRows hdr cmd ∧ carveOrder = pre ++ n :: post ∧
      CarveReason v {cmd with opcode := r.1} n ∧ ∀ q ∈ pre, ¬CarveReason v {cmd with opcode := r.1} q :=
  ⟨tCarveHdr, { opcode := 1, reserved := true }, 0, 0x0D, tKmpSession, [], [0x02, 0x03, 0x09, 0x0C, 0x06, 0x0A, 0x08, 0x07, 0x0B,
    0x04, 0x05], ops, _, (1, .carve tCarveHdr { opcode := 1, reserved := true }), ⟨served (by decide +kernel), by decide +kernel⟩,
    by simp [carveRows], by decide +kernel, .inl ⟨rfl, .inl (by decide +kernel)⟩, by simp⟩
theorem witness_CarvingCommandsComplete :
    (∃ hdr : KmpHdr, ∃ cmd : CarveCmd, ∃ k : Nat, ∃ e : Nat, ∃ f : BitVec 8, ∃ x : KmpSession, ∃ s : State, ∃ v : State, CarveServed
      s hdr cmd k x v ∧ v.carveRefusal {cmd with opcode := 1} = 0 ∧ v.chooseExtent cmd.cls.toNat cmd.hubGiven cmd.hub.toNat = some
      (e, f) ∧ cmd.fill = false) ∧
    (∃ hdr : KmpHdr, ∃ cmd : CarveCmd, ∃ k : Nat, ∃ e : Nat, ∃ f : BitVec 8, ∃ x : KmpSession, ∃ s : State, ∃ v : State, CarveServed
      s hdr cmd k x v ∧ v.carveRefusal {cmd with opcode := 1} = 0 ∧ v.chooseExtent cmd.cls.toNat cmd.hubGiven cmd.hub.toNat = some
      (e, f) ∧ cmd.fill = true) ∧
    (∃ hdr : KmpHdr, ∃ cmd : CarveCmd, ∃ k : Nat, ∃ x : KmpSession, ∃ s : State, ∃ v : State, CarveServed s hdr cmd k x v ∧
      v.carveRefusal {cmd with opcode := 2} = 0) ∧
    (∃ hdr : KmpHdr, ∃ cmd : CarveCmd, ∃ k : Nat, ∃ base : Nat, ∃ m : MapEntry, ∃ x : KmpSession, ∃ s : State, ∃ v : State,
      CarveServed s hdr cmd k x v ∧ v.carveRefusal {cmd with opcode := 3} = 0 ∧ v.baseOf cmd.host.toNat cmd.extent.toNat = some base
      ∧ v.entryFor cmd.host.toNat cmd.extent.toNat = some m ∧ rightsCode m.rights < rightsCode (rightsOf cmd.rights.toNat)) ∧
    (∃ hdr : KmpHdr, ∃ cmd : CarveCmd, ∃ k : Nat, ∃ base : Nat, ∃ m : MapEntry, ∃ x : KmpSession, ∃ s : State, ∃ v : State,
      CarveServed s hdr cmd k x v ∧ v.carveRefusal {cmd with opcode := 3} = 0 ∧ v.baseOf cmd.host.toNat cmd.extent.toNat = some base
      ∧ v.entryFor cmd.host.toNat cmd.extent.toNat = some m ∧ rightsOf cmd.rights.toNat ≠ m.rights ∧ rightsCode (rightsOf
      cmd.rights.toNat) ≤ rightsCode m.rights) ∧
    (∃ hdr : KmpHdr, ∃ cmd : CarveCmd, ∃ k : Nat, ∃ base : Nat, ∃ m : MapEntry, ∃ x : KmpSession, ∃ s : State, ∃ v : State,
      CarveServed s hdr cmd k x v ∧ v.carveRefusal {cmd with opcode := 4} = 0 ∧ v.baseOf cmd.host.toNat cmd.extent.toNat = some base
      ∧ v.entryFor cmd.host.toNat cmd.extent.toNat = some m) ∧
    (∃ hdr : KmpHdr, ∃ cmd : CarveCmd, ∃ k : Nat, ∃ x : KmpSession, ∃ s : State, ∃ v : State, CarveServed s hdr cmd k x v ∧
      v.carveRefusal {cmd with opcode := 5} = 0 ∧ (v.extents.get? cmd.extent.toNat).isSome = true) ∧
    (∃ hdr : KmpHdr, ∃ cmd : CarveCmd, ∃ k : Nat, ∃ x : KmpSession, ∃ s : State, ∃ v : State, CarveServed s hdr cmd k x v ∧
      v.carveRefusal {cmd with opcode := 6} = 0) :=
  ⟨⟨tCarveHdr, tCarveCmd, 0, _, _, tKmpSession, carving, _, ⟨served (by decide +kernel), by decide +kernel⟩, by decide +kernel,
    some_pair (d := (0, 0)) (by decide +kernel), by decide +kernel⟩,
   ⟨tCarveHdr, { opcode := 1, fill := true }, 0, _, _, tKmpSession, carving, _, ⟨served (by decide +kernel), by decide +kernel⟩,
     by decide +kernel, some_pair (d := (0, 0)) (by decide +kernel), by decide +kernel⟩,
   ⟨tCarveHdr, { opcode := 2, host := 6, extent := 0, rights := 3 }, 0, tKmpSession, carving, _, ⟨served (by decide +kernel),
     by decide +kernel⟩, by decide +kernel⟩,
   ⟨tCarveHdr, { opcode := 3, host := 5, extent := 0, rights := 7 }, 0, _, _, tKmpSession, carving, _, ⟨served (by decide +kernel),
     by decide +kernel⟩, by decide +kernel, some_getD (d := 0) (by decide +kernel), some_getD (d := tMapEntry) (by decide +kernel),
     by decide +kernel⟩,
   ⟨tCarveHdr, { opcode := 3, host := 5, extent := 0, rights := 1 }, 0, _, _, tKmpSession, carving, _, ⟨served (by decide +kernel),
     by decide +kernel⟩, by decide +kernel, some_getD (d := 0) (by decide +kernel), some_getD (d := tMapEntry) (by decide +kernel),
     by decide +kernel⟩,
   ⟨tCarveHdr, { opcode := 4, host := 5, extent := 0 }, 0, _, _, tKmpSession, carving, _, ⟨served (by decide +kernel),
     by decide +kernel⟩, by decide +kernel, some_getD (d := 0) (by decide +kernel), some_getD (d := tMapEntry) (by decide +kernel)⟩,
   ⟨tCarveHdr, { opcode := 5, extent := 0 }, 0, tKmpSession, { carving with maps := [] }, _, ⟨served (by decide +kernel),
     by decide +kernel⟩, by decide +kernel⟩,
   ⟨tCarveHdr, { opcode := 6 }, 0, tKmpSession, carving, _, ⟨served (by decide +kernel), by decide +kernel⟩, by decide +kernel⟩⟩
theorem witness_WithdrawalsKeysAndEpochsRun :
    (∃ h : BitVec 16, ∃ e : BitVec 16, ∃ d : Drain, ∃ s : State, s.drainOf h.toNat e.toNat = some d ∧ d.goal = none ∧ d.phase =
      DrainPhase.marked ∧ d.tenancyEnd = false ∧ s.inFlightOn h.toNat e.toNat = false ∧ s.fatal = false) ∧
    (∃ h : BitVec 16, ∃ e : BitVec 16, ∃ d : Drain, ∃ s : State, s.drainOf h.toNat e.toNat = some d ∧ d.goal = none ∧ d.phase =
      DrainPhase.recalling ∧ d.tenancyEnd = false ∧ s.ownOpen d e.toNat (ReqKind.recallFor (BitVec.ofNat 10 h.toNat)) = false ∧
      s.unreclaimed h.toNat e.toNat = false ∧ s.fatal = false) ∧
    (∃ h : BitVec 16, ∃ e : BitVec 16, ∃ d : Drain, ∃ n : Rights, ∃ s : State, s.drainOf h.toNat e.toNat = some d ∧ d.goal = some n
      ∧ d.phase = DrainPhase.marked ∧ d.tenancyEnd = false ∧ s.inFlightOn h.toNat e.toNat = false ∧ s.fatal = false) ∧
    (∃ h : BitVec 16, ∃ e : BitVec 16, ∃ d : Drain, ∃ n : Rights, ∃ s : State, s.drainOf h.toNat e.toNat = some d ∧ d.goal = some n
      ∧ d.phase = DrainPhase.recalling ∧ d.tenancyEnd = false ∧ s.ownOpen d e.toNat (ReqKind.narrow (BitVec.ofNat 10 h.toNat)) =
      false ∧ s.unreclaimed h.toNat e.toNat = false ∧ s.fatal = false) ∧
    (∃ p : Path, ∃ k : Fin 4, ∃ s : State, s.ignores p = false ∧ ((s.pathUsage p).getLsbD 3 = true ∨ s.ten.slots = [] ∧ (s.sessionAt
      p).isSome = true) ∧ badKey s.keyWinModulus = false ∧ (List.any s.ten.slots fun e => e.1 != k.val && e.2.1 == s.keyWinModulus)
      = false ∧ (s.epochOpen = true → s.ten.tenantKey ≠ some s.keyWinModulus)) ∧
    (∃ p : Path, ∃ s : State, s.ignores p = false ∧ (s.pathUsage p).getLsbD 3 = true ∧ badKey s.keyWinModulus = true) ∧
    (∃ p : Path, ∃ k : Fin 4, ∃ s : State, s.ignores p = false ∧ (s.pathUsage p).getLsbD 3 = true ∧ (List.any s.ten.slots fun e =>
      e.1 != k.val && e.2.2.getLsbD 3) = true) ∧
    (∃ p : Path, ∃ s : State, s.ignores p = false ∧ s.tenBusy = false ∧ s.si.state ≠ SiState.quiescing ∧ s.openRefusal ((s.pathUsage
      p).getLsbD 0) s.keyWinModulus = 0) ∧
    (∃ p : Path, ∃ s : State, s.ignores p = false ∧ s.tenBusy = false ∧ s.si.state ≠ SiState.quiescing ∧ s.openRefusal ((s.pathUsage
      p).getLsbD 0) s.keyWinModulus ≠ 0) ∧
    (∃ p : Path, ∃ s : State, s.ignores p = false ∧ s.ten.state = TenState.open_ ∧ ((s.pathUsage p).getLsbD 0 = true ∨ s.isTenant p
      = true)) ∧
    (∃ p : Path, ∃ s : State, s.ignores p = false ∧ s.ten.state ≠ TenState.open_) ∧
    (∃ p : Path, ∃ s : State, s.ignores p = false ∧ (s.ten.state = TenState.dirty ∨ s.ten.state = TenState.clean) ∧ s.tenBusy =
      false ∧ (s.pathUsage p).getLsbD 0 = true) ∧
    (∃ s : State, s.tenEnd = TenEnd.recalling ∧ s.dir = [] ∧ s.lines = [] ∧ s.atom = [] ∧ s.fatal = false) ∧
    (∃ s : State, s.ten.state = TenState.resurfacing ∧ s.fatal = false) :=
  ⟨⟨5, 0, _, { carving with drains := [{ tDrain with phase := .marked }] }, some_getD (d := tDrain) (by decide +kernel),
    by decide +kernel⟩,
   ⟨5, 0, _, { carving with drains := [{ tDrain with phase := .recalling }] }, some_getD (d := tDrain) (by decide +kernel),
     by decide +kernel⟩,
   ⟨5, 0, _, .r, { carving with drains := [{ tDrain with goal := some .r }] }, some_getD (d := tDrain) (by decide +kernel),
     by decide +kernel⟩,
   ⟨5, 0, _, .r, { carving with drains := [{ tDrain with goal := some .r, phase := .recalling }] }, some_getD (d := tDrain)
     (by decide +kernel), by decide +kernel⟩,
   ⟨.kmp 0, 0, { ops with ten := { ops.ten with keyWin := tWin } }, by decide +kernel⟩,
   ⟨.kmp 0, ops, by decide +kernel⟩,
   ⟨.kmp 0, 0, { ops with ten := { ops.ten with slots := [(0, (3, 0xF)), (1, (5, 8))] } }, by decide +kernel⟩,
   ⟨.kmp 0, { ops with ten := { ops.ten with keyWin := tWin } }, by decide +kernel⟩,
   ⟨.kmp 0, { ops with ten := {} }, by decide +kernel⟩,
   ⟨.kmp 0, carving, by decide +kernel⟩,
   ⟨.kmp 0, ops, by decide +kernel⟩,
   ⟨.kmp 0, ops, by decide +kernel⟩,
   ⟨{ up with tenEnd := .recalling }, by decide +kernel⟩,
   ⟨{ up with ten := { state := .resurfacing } }, by decide +kernel⟩⟩
theorem witness_CoherentRequestsAreTakenOrRefused :
    (∃ h : BitVec 10, ∃ tag : BitVec 12, ∃ addr : BitVec 46, ∃ at_ : Bool, ∃ d : Line, ∃ m : Medium, ∃ s : State, ∃ r : CohMsg ×
      Instr, r ∈ requestRows h tag addr at_ d m ∧ s.hears h = true ∧ s.fatal = true) ∧
    (∃ h : BitVec 10, ∃ tag : BitVec 12, ∃ addr : BitVec 46, ∃ at_ : Bool, ∃ d : Line, ∃ m : Medium, ∃ s : State, ∃ r : CohMsg ×
      Instr, r ∈ requestRows h tag addr at_ d m ∧ s.hears h = true ∧ s.fatal = false ∧ s.throttles h.toNat = true) ∧
    (∃ h : BitVec 10, ∃ tag : BitVec 12, ∃ addr : BitVec 46, ∃ at_ : Bool, ∃ d : Line, ∃ m : Medium, ∃ s : State, ∃ r : CohMsg ×
      Instr, r ∈ requestRows h tag addr at_ d m ∧ s.hears h = true ∧ s.fatal = false ∧ s.throttles h.toNat = false ∧ (s.meterArrive
      h.toNat 64).1 = Colour.red) ∧
    (∃ h : BitVec 10, ∃ tag : BitVec 12, ∃ addr : BitVec 46, ∃ at_ : Bool, ∃ d : Line, ∃ m : Medium, ∃ s : State, ∃ r : CohMsg ×
      Instr, r ∈ requestRows h tag addr at_ d m ∧ s.hears h = true ∧ s.fatal = false ∧ s.throttles h.toNat = false ∧ (s.meterArrive
      h.toNat 64).1 ≠ Colour.red ∧ (s.meterArrive h.toNat 64).2.heldRequest h r.1 = true) ∧
    (∃ h : BitVec 10, ∃ tag : BitVec 12, ∃ addr : BitVec 46, ∃ at_ : Bool, ∃ d : Line, ∃ m : Medium, ∃ s : State, ∃ r : CohMsg ×
      Instr, ∃ u : State, ∃ st : PStatus, ∃ dpa : Nat, ∃ w : Bool, r ∈ requestRows h tag addr at_ d m ∧ RequestTaken s h r.1 u ∧
      u.ingress h.toNat (addr.toNat * 64) (needOf r.1) (trackAccepts r.1.op) = (st, dpa, w) ∧ st ≠ PStatus.ok) ∧
    (∃ h : BitVec 10, ∃ tag : BitVec 12, ∃ addr : BitVec 46, ∃ at_ : Bool, ∃ d : Line, ∃ m : Medium, ∃ s : State, ∃ r : CohMsg ×
      Instr, ∃ u : State, ∃ dpa : Nat, ∃ w : Bool, r ∈ requestRows h tag addr at_ d m ∧ RequestTaken s h r.1 u ∧ u.ingress h.toNat
      (addr.toNat * 64) (needOf r.1) (trackAccepts r.1.op) = (PStatus.ok, dpa, w) ∧ u.hubResetting (u.homeHub (dpa / 64)) = true) ∧
    (∃ h : BitVec 10, ∃ tag : BitVec 12, ∃ addr : BitVec 46, ∃ at_ : Bool, ∃ d : Line, ∃ m : Medium, ∃ s : State, ∃ r : CohMsg ×
      Instr, ∃ u : State, ∃ dpa : Nat, ∃ w : Bool, r ∈ requestRows h tag addr at_ d m ∧ RequestTaken s h r.1 u ∧ u.ingress h.toNat
      (addr.toNat * 64) (needOf r.1) (trackAccepts r.1.op) = (PStatus.ok, dpa, w) ∧ u.hubResetting (u.homeHub (dpa / 64)) = false ∧
      u.lineRoom (dpa / 64) = false) ∧
    (∃ h : BitVec 10, ∃ tag : BitVec 12, ∃ addr : BitVec 46, ∃ at_ : Bool, ∃ d : Line, ∃ m : Medium, ∃ s : State, ∃ r : CohMsg ×
      Instr, ∃ u : State, ∃ dpa : Nat, ∃ w : Bool, r ∈ requestRows h tag addr at_ d m ∧ RequestTaken s h r.1 u ∧ u.ingress h.toNat
      (addr.toNat * 64) (needOf r.1) (trackAccepts r.1.op) = (PStatus.ok, dpa, w) ∧ u.hubResetting (u.homeHub (dpa / 64)) = false ∧
      u.lineRoom (dpa / 64) = true) :=
  ⟨⟨5, 0, 0x400000, false, 0, .clean, { carving with sys := { up.sys with fatalAt := some 0 } },
    (({ op := .rdS, tag := 0, addr := 0x400000 }, .rds 5 0 0x400000 .clean) : CohMsg × Instr), by decide +kernel⟩,
   ⟨5, 0, 0x400000, false, 0, .clean, { routed with pwrHubs := [(0, { poolThr := true })] },
     (({ op := .rdS, tag := 0, addr := 0x400000 }, .rds 5 0 0x400000 .clean) : CohMsg × Instr), by decide +kernel⟩,
   ⟨5, 0, 0x400000, false, 0, .clean, { up with si := { committed := true }, eff := [(7, [(0x20028, 1)])] },
     (({ op := .rdS, tag := 0, addr := 0x400000 }, .rds 5 0 0x400000 .clean) : CohMsg × Instr), by decide +kernel⟩,
   ⟨5, 0, 0x400000, false, 0, .clean, { carving with si := { hold := { classes := 1 } } }, tRds, by decide +kernel⟩,
   ⟨5, 0, 0x400000, false, 0, .clean, up, (({ op := .rdS, tag := 0, addr := 0x400000 }, .rds 5 0 0x400000 .clean) : CohMsg × Instr),
     _, _, _, _, by decide +kernel, (three (by decide +kernel) ⟨rfl, by decide +kernel⟩), prod_eta3 _, by decide +kernel⟩,
   ⟨5, 0, 0x400000, false, 0, .clean, { carving with hubs := [(0, { upHub with phase := .reset })] },
     (({ op := .rdS, tag := 0, addr := 0x400000 }, .rds 5 0 0x400000 .clean) : CohMsg × Instr), _,
     (((({ carving with hubs := [(0, { upHub with phase := .reset })] }).meterArrive (5 : BitVec 10).toNat 64).2 : State).ingress (5
     : BitVec 10).toNat ((0x400000 : BitVec 46).toNat * 64) (needOf ((({ op := .rdS, tag := 0, addr := 0x400000 }, .rds 5 0 0x400000
     .clean) : CohMsg × Instr)).1) (trackAccepts ((({ op := .rdS, tag := 0, addr := 0x400000 }, .rds 5 0 0x400000 .clean) : CohMsg ×
     Instr)).1.op)).2.1, (((({ carving with hubs := [(0, { upHub with phase := .reset })] }).meterArrive (5 : BitVec 10).toNat 64).2
     : State).ingress (5 : BitVec 10).toNat ((0x400000 : BitVec 46).toNat * 64) (needOf
     ((({ op := .rdS, tag := 0, addr := 0x400000 }, .rds 5 0 0x400000 .clean) : CohMsg × Instr)).1) (trackAccepts
     ((({ op := .rdS, tag := 0, addr := 0x400000 }, .rds 5 0 0x400000 .clean) : CohMsg × Instr)).1.op)).2.2, by decide +kernel,
     (three (by decide +kernel) ⟨rfl, by decide +kernel⟩), by decide +kernel⟩,
   ⟨5, 0, 0x400000, false, 0, .clean,
     { carving with lines := [(0, { hub := 0, tx := some tTx, queue := List.replicate 16 tReq })] }, tRds, _, 0, true,
     by decide +kernel, (three (by decide +kernel) ⟨rfl, by decide +kernel⟩), by decide +kernel⟩,
   ⟨5, 0, 0x400000, false, 0, .clean, carving, tRds, _, 0, true, by decide +kernel, (three (by decide +kernel) ⟨rfl,
     by decide +kernel⟩), by decide +kernel⟩⟩
theorem witness_MapsAreLookedUpAtIngress :
    (∃ h : BitVec 10, ∃ tag : BitVec 12, ∃ addr : BitVec 46, ∃ at_ : Bool, ∃ d : Line, ∃ m : Medium, ∃ s : State, ∃ u : State, ∃ r :
      CohMsg × Instr, r ∈ requestRows h tag addr at_ d m ∧ RequestTaken s h r.1 u ∧ (u.mapOf h.toNat).get? (addr.toNat * 64 / 2 ^
      28) = none) ∧
    (∃ h : BitVec 10, ∃ tag : BitVec 12, ∃ addr : BitVec 46, ∃ at_ : Bool, ∃ d : Line, ∃ m : Medium, ∃ s : State, ∃ u : State, ∃ r :
      CohMsg × Instr, ∃ e : MapEntry, ∃ dpa : Nat, ∃ w : Bool, r ∈ requestRows h tag addr at_ d m ∧ RequestTaken s h r.1 u ∧
      (u.mapOf h.toNat).get? (addr.toNat * 64 / 2 ^ 28) = some e ∧ u.ingress h.toNat (addr.toNat * 64) (needOf r.1) (trackAccepts
      r.1.op) = (PStatus.ok, dpa, w)) ∧
    (∃ h : BitVec 10, ∃ tag : BitVec 12, ∃ addr : BitVec 46, ∃ at_ : Bool, ∃ d : Line, ∃ m : Medium, ∃ s : State, ∃ u : State, ∃ r :
      CohMsg × Instr, ∃ e : MapEntry, ∃ dpa : Nat, ∃ w : Bool, r ∈ requestRows h tag addr at_ d m ∧ RequestTaken s h r.1 u ∧
      (u.mapOf h.toNat).get? (addr.toNat * 64 / 2 ^ 28) = some e ∧ u.ingress h.toNat (addr.toNat * 64) (needOf r.1) (trackAccepts
      r.1.op) = (PStatus.ok, dpa, w) ∧ u.hubResetting (u.homeHub (dpa / 64)) = false ∧ u.lineRoom (dpa / 64) = true) :=
  ⟨⟨5, 0, 0x400000, false, 0, .clean, up, _, tRds, by decide +kernel, (three (by decide +kernel) ⟨rfl, by decide +kernel⟩),
    by decide +kernel⟩,
   ⟨5, 0, 0x400000, false, 0, .clean, carving, _, tRds, tMapEntry, 0, true, by decide +kernel, (three (by decide +kernel) ⟨rfl,
     by decide +kernel⟩), by decide +kernel⟩,
   ⟨5, 0, 0x400000, false, 0, .clean, carving, _, tRds, tMapEntry, 0, true, by decide +kernel, (three (by decide +kernel) ⟨rfl,
     by decide +kernel⟩), by decide +kernel⟩⟩
theorem witness_WriteBacksAndAnswersAreServed :
    (∃ h : BitVec 10, ∃ addr : BitVec 46, ∃ e : MapEntry, ∃ l : Nat, ∃ s : State, s.hears h = true ∧ s.fatal = false ∧ (s.mapOf
      h.toNat).get? (addr.toNat * 64 / 2 ^ 28) = some e ∧ l = (e.extent.toNat * 2 ^ 28 + addr.toNat * 64 % 2 ^ 28) / 64 ∧ s.track
      (s.classOf e.extent.toNat) = 2 ∧ s.hubResetting (s.homeHub l) = false ∧ s.tx l = none ∧ s.isOwner (s.homeHub l) l h.toNat =
      true) ∧
    (∃ h : BitVec 10, ∃ addr : BitVec 46, ∃ e : MapEntry, ∃ l : Nat, ∃ s : State, s.hears h = true ∧ s.fatal = false ∧ (s.mapOf
      h.toNat).get? (addr.toNat * 64 / 2 ^ 28) = some e ∧ l = (e.extent.toNat * 2 ^ 28 + addr.toNat * 64 % 2 ^ 28) / 64 ∧ s.track
      (s.classOf e.extent.toNat) = 2 ∧ s.hubResetting (s.homeHub l) = false ∧ s.tx l = none ∧ s.isOwner (s.homeHub l) l h.toNat =
      false) ∧
    (∃ h : BitVec 10, ∃ addr : BitVec 46, ∃ e : MapEntry, ∃ l : Nat, ∃ s : State, ∃ k : Nat, ∃ x : DirEntry, s.hears h = true ∧
      s.fatal = false ∧ (s.mapOf h.toNat).get? (addr.toNat * 64 / 2 ^ 28) = some e ∧ l = (e.extent.toNat * 2 ^ 28 + addr.toNat * 64
      % 2 ^ 28) / 64 ∧ s.track (s.classOf e.extent.toNat) = 2 ∧ s.hubResetting (s.homeHub l) = false ∧ s.tx l = none ∧ s.dirFind
      (s.homeHub l) l = some (k, x) ∧ x.dstate = DState.e) ∧
    (∃ h : BitVec 10, ∃ addr : BitVec 46, ∃ e : MapEntry, ∃ l : Nat, ∃ s : State, ∃ k : Nat, ∃ x : DirEntry, s.hears h = true ∧
      s.fatal = false ∧ (s.mapOf h.toNat).get? (addr.toNat * 64 / 2 ^ 28) = some e ∧ l = (e.extent.toNat * 2 ^ 28 + addr.toNat * 64
      % 2 ^ 28) / 64 ∧ s.track (s.classOf e.extent.toNat) = 2 ∧ s.hubResetting (s.homeHub l) = false ∧ s.tx l = none ∧ s.dirFind
      (s.homeHub l) l = some (k, x) ∧ x.dstate ≠ DState.e) ∧
    (∃ h : BitVec 10, ∃ htag : BitVec 13, ∃ st : Moesi, ∃ p : Bool, ∃ d : Line, ∃ m : Medium, ∃ s : State, ∃ r : CohMsg × Instr, ∃ l
      : Nat, ∃ hub : Nat, ∃ t : Tx, ∃ x : Snoop, s.hears h = true ∧ s.fatal = false ∧ r ∈ answerRows h htag st p d m ∧ s.findSnoop h
      htag = some (l, hub, t, x) ∧ s.hubResetting hub = false) ∧
    (∃ h : BitVec 10, ∃ htag : BitVec 13, ∃ st : Moesi, ∃ p : Bool, ∃ d : Line, ∃ m : Medium, ∃ s : State, ∃ r : CohMsg × Instr,
      s.hears h = true ∧ s.fatal = false ∧ r ∈ answerRows h htag st p d m ∧ s.answerHub h r.1 = none) ∧
    (∃ h : BitVec 10, ∃ htag : BitVec 13, ∃ p : Bool, ∃ d : Line, ∃ hub : Nat, ∃ s : State, s.hears h = true ∧ s.fatal = false ∧
      s.answerHub h
      {op := CohOp.fwdData, req := 0, tag := 0, htag := htag, addr := 0, mode := SnpMode.fwd, state := Moesi.i, atomic := false, poison := p, status := PStatus.ok, backoff := 0, rsb := 0, data := some d}
      = some hub ∧ s.hubResetting hub = false) ∧
    (∃ l : BitVec 40, ∃ s : State, s.live = true ∧ s.fatal = false ∧ s.hubResetting (s.order l.toNat).hub.toNat = false ∧
      s.trackerFree (s.order l.toNat).hub.toNat = true) ∧
    (∃ l : BitVec 40, ∃ t : Tx, ∃ s : State, s.tx l.toNat = some t ∧ t.wait = TxWait.owner ∧ s.fatal = false) :=
  ⟨⟨5, 0x400000, _, _, { carving with dir := [(0, { tDirEntry with owner := 5 })] }, by decide +kernel, by decide +kernel, some_getD
    (d := tMapEntry) (by decide +kernel), rfl, by decide +kernel⟩,
   ⟨5, 0x400000, _, _, { carving with dir := [(0, { tDirEntry with dstate := .s })] }, by decide +kernel, by decide +kernel,
     some_getD (d := tMapEntry) (by decide +kernel), rfl, by decide +kernel⟩,
   ⟨5, 0x400000, _, _, { carving with dir := [(0, { tDirEntry with owner := 5 })] }, _, _, by decide +kernel, by decide +kernel,
     some_getD (d := tMapEntry) (by decide +kernel), rfl, three (by decide +kernel) ⟨some_pair (d := (0, tDirEntry))
     (by decide +kernel), by decide +kernel⟩⟩,
   ⟨5, 0x400000, _, _, { carving with dir := [(0, { tDirEntry with dstate := .s })] }, _, _, by decide +kernel, by decide +kernel,
     some_getD (d := tMapEntry) (by decide +kernel), rfl, three (by decide +kernel) ⟨some_pair (d := (0, tDirEntry))
     (by decide +kernel), by decide +kernel⟩⟩,
   ⟨5, 9, .i, false, 0, .clean, line tLineOrd, ({ op := .ack, htag := 9, state := .i }, .ackAnswer 5 9 .i .clean), 0, 0, tTx,
     tSnoop, by decide +kernel⟩,
   ⟨5, 8, .i, false, 0, .clean, line tLineOrd, ({ op := .ack, htag := 8, state := .i }, .ackAnswer 5 8 .i .clean),
     by decide +kernel⟩,
   ⟨5, 3, false, 0, _, line { tLineOrd with tx := some { tTx with fwdFrom := some (5, 3) } }, by decide +kernel, by decide +kernel,
     some_getD (d := 0) (by decide +kernel), by decide +kernel⟩,
   ⟨0, carving, by decide +kernel⟩,
   ⟨0, { tTx with wait := .owner }, line { tLineOrd with tx := some { tTx with wait := .owner } }, by decide +kernel⟩⟩
theorem witness_DeadHostsAreReclaimed :
    (∃ d : BitVec 10, ∃ s : State, (s.host d.toNat).allLost = true ∧ s.coh.autoEn = true ∧ s.holding = false ∧ s.fatal = false ∧
      (s.host d.toNat).dead = false) ∧
    (∃ d : BitVec 10, ∃ s : State, s.fatal = false ∧ (s.host d.toNat).dead = false) ∧
    (∃ d : BitVec 10, ∃ s : State, s.fatal = false ∧ (s.host d.toNat).dead = true) ∧
    (∃ l : Nat, ∃ o : LineOrd, ∃ t : Tx, ∃ x : Snoop, ∃ s : State, s.lines = [(l, o)] ∧ o.tx = some t ∧ t.req.kind =
      ReqKind.recallAll ∧ t.snoops = [x] ∧ s.tenEnd = TenEnd.recalling ∧ s.holding = false ∧ s.fatal = false ∧ (s.host
      x.host.toNat).dead = false) ∧
    (∃ d : BitVec 10, ∃ s : State, s.fatal = false ∧ (s.host d.toNat).dead = true ∧ (s.host d.toNat).reclaiming = []) ∧
    (∃ d : BitVec 10, ∃ s : State, s.fatal = false ∧ (s.host d.toNat).dead = true ∧ (s.host d.toNat).reclaiming ≠ []) ∧
    (∃ h : Fin 8, ∃ l : BitVec 40, ∃ k : Nat, ∃ e : DirEntry, ∃ s : State, s.fatal = false ∧ s.tx l.toNat = none ∧ s.dirFind (h.val)
      l.toNat = some (k, e) ∧ s.clearDead e = e ∧ e.dstate = DState.e ∧ e.owner.toNat < 1024 ∧ (s.host e.owner.toNat).dead = true) ∧
    (∃ h : Fin 8, ∃ l : BitVec 40, ∃ k : Nat, ∃ e : DirEntry, ∃ s : State, s.fatal = false ∧ s.tx l.toNat = none ∧ s.dirFind (h.val)
      l.toNat = some (k, e) ∧ s.clearDead e ≠ e ∧ (s.clearDead e).dstate = DState.s ∧ (s.clearDead e).sharers ≠ 0) ∧
    (∃ d : BitVec 10, ∃ s : State, (s.host d.toNat).dead = true ∧ (s.host d.toNat).reclaiming ≠ [] ∧ ((s.host
      d.toNat).reclaiming.all fun h => !s.reclaimsStill h d.toNat) = true ∧ s.fatal = false) :=
  ⟨⟨5, hostSt { allLost := true }, by decide +kernel⟩,
   ⟨5, up, by decide +kernel⟩,
   ⟨5, hostSt { dead := true }, by decide +kernel⟩,
   ⟨0, { hub := 0, tx := some { tTx with req := { tReq with kind := .recallAll } } },
     { tTx with req := { tReq with kind := .recallAll } }, tSnoop,
     { carving with lines := [(0, { hub := 0, tx := some { tTx with req := { tReq with kind := .recallAll } } })], tenEnd := .recalling },
     by decide +kernel⟩,
   ⟨5, hostSt { dead := true }, by decide +kernel⟩,
   ⟨5, hostSt { dead := true, reclaiming := [0] }, by decide +kernel⟩,
   ⟨0, 0, 0, tDirEntry, { hostSt { dead := true } with dir := [(0, tDirEntry)] }, by decide +kernel⟩,
   ⟨0, 0, 0, { tDirEntry with dstate := .s, sharers := exactField [5, 6] },
     { hostSt { dead := true } with dir := [(0, { tDirEntry with dstate := .s, sharers := exactField [5, 6] })] },
     by decide +kernel⟩,
   ⟨5, hostSt { dead := true, reclaiming := [0] }, by decide +kernel⟩⟩
theorem witness_BulkRequestsArePerformed :
    (∃ h : BitVec 10, ∃ a : BitVec 52, ∃ n : BitVec 16, ∃ s : State, s.hears h = true ∧ s.fatal = false ∧ 1 ≤ n.toNat ∧ n.toNat ≤
      4096 ∧ s.throttles h.toNat = false ∧ (s.meterArrive h.toNat n.toNat).1 ≠ Colour.red ∧ (s.meterArrive h.toNat
      n.toNat).2.heldSpan h.toNat a.toNat n.toNat = false) ∧
    (∃ h : BitVec 10, ∃ n : BitVec 16, ∃ s : State, s.hears h = true ∧ s.fatal = false ∧ (n.toNat = 0 ∨ 4096 < n.toNat)) ∧
    (∃ h : BitVec 10, ∃ tag : BitVec 12, ∃ n : BitVec 16, ∃ o : BitVec 16, ∃ s : State, s.hears h = true ∧ s.fatal = false ∧ 1 ≤
      n.toNat ∧ n.toNat ≤ 4096 ∧ s.throttles h.toNat = false ∧ (s.meterArrive h.toNat n.toNat).1 ≠ Colour.red ∧ s.bulkFirst h tag
      o.toNat = true) ∧
    (∃ h : BitVec 10, ∃ tag : BitVec 12, ∃ o : BitVec 16, ∃ d : List Byte, ∃ x : BulkRx, ∃ s : State, s.hears h = true ∧ s.bulkFirst
      h tag o.toNat = false ∧ s.bulkRx.get? (h.toNat * 4096 + tag.toNat) = some x ∧ (d.zipIdx.foldl (fun (g : SMap Byte) e => if
      o.toNat + e.2 < x.bytes then g.set (o.toNat + e.2) e.1 else g) x.got).length < x.bytes) :=
  ⟨⟨5, 0, 64, up, by decide +kernel⟩,
   ⟨5, 0, up, by decide +kernel⟩,
   ⟨5, 0, 64, 0, up, by decide +kernel⟩,
   ⟨5, 0, 1, [7], tBulkRx, { up with bulkRx := [(0x5000, tBulkRx)] }, by decide +kernel⟩⟩
theorem witness_SequencedCellsAreTakenInOrder :
    (∃ p : Fin 32, ∃ env : Envelope, ∃ b : HeadBody, ∃ d : BitVec 256, ∃ n : BitVec 11, ∃ i : Bool, ∃ s : State, ∃ c : Instr,
      s.receiving p.val = true ∧ c ∈ [Instr.head p env b, Instr.body p env d, Instr.credit p env n i] ∧ env.reserved = true) ∧
    (∃ p : Fin 32, ∃ env : Envelope, ∃ b : HeadBody, ∃ d : BitVec 256, ∃ n : BitVec 11, ∃ i : Bool, ∃ s : State, ∃ c : Instr,
      s.receiving p.val = true ∧ c ∈ [Instr.head p env b, Instr.body p env d, Instr.credit p env n i] ∧ env.reserved = false ∧
      (s.port p.val).classify env.seq env.rpl = RxClass.discard) ∧
    (∃ p : Fin 32, ∃ env : Envelope, ∃ b : HeadBody, ∃ d : BitVec 256, ∃ n : BitVec 11, ∃ i : Bool, ∃ s : State, ∃ c : Instr,
      s.receiving p.val = true ∧ c ∈ [Instr.head p env b, Instr.body p env d, Instr.credit p env n i] ∧ env.reserved = false ∧
      (s.port p.val).classify env.seq env.rpl = RxClass.loss) ∧
    (∃ p : Fin 32, ∃ env : Envelope, ∃ s : State, s.receiving p.val = true ∧ env.reserved = false ∧ (s.port p.val).classify env.seq
      env.rpl = RxClass.accept) ∧
    (∃ p : Nat, ∃ s : State, (s.port p).rxNext = none) ∧
    (∃ p : Nat, ∃ m : BitVec 8, ∃ s : State, (s.port p).rxNext = some m) ∧
    (∃ p : Nat, ∃ v : Nat, ∃ b : HeadBody, ∃ u : State, v < 7 ∧ (u.port p).windowMode = false ∧ (u.port p).peerCredits.getD v 0 ≠ 0
      ∧ (u.port p).assembling.get? v = none ∧ 0 < b.len.toNat ∧ b.len.toNat ≤ 8 ∧ b.lvc.toNat < 6) ∧
    (∃ p : Nat, ∃ v : Nat, ∃ a : Partial, ∃ u : State, v < 7 ∧ (u.port p).windowMode = false ∧ (u.port p).peerCredits.getD v 0 ≠ 0 ∧
      (u.port p).assembling.get? v = some a ∧ a.discarding = false ∧ a.bodies.length + 1 ≠ a.head.len.toNat) ∧
    (∃ p : Nat, ∃ v : Nat, ∃ u : State, v < 7 ∧ (u.port p).windowMode = false) ∧
    (∃ v : Nat, 7 ≤ v) ∧
    (∃ p : Fin 32, ∃ env : Envelope, ∃ s : State, s.receiving p.val = true ∧ env.reserved = false ∧ env.seq = 0) ∧
    (∃ p : Fin 32, ∃ s : State, s.hearsCells p.val = true) :=
  ⟨⟨0, { tEnvelope with reserved := true }, tHeadBody, 0, 0, false, port { state := .up }, Instr.head 0
    { tEnvelope with reserved := true } tHeadBody, by decide +kernel⟩,
   ⟨0, { tEnvelope with seq := 4095 }, tHeadBody, 0, 0, false, port { state := .up }, Instr.head 0 { tEnvelope with seq := 4095 }
     tHeadBody, by decide +kernel⟩,
   ⟨0, { tEnvelope with seq := 1 }, tHeadBody, 0, 0, false, port { state := .up }, Instr.head 0 { tEnvelope with seq := 1 }
     tHeadBody, by decide +kernel⟩,
   ⟨0, tEnvelope, port { state := .up }, by decide +kernel⟩,
   ⟨0, port { state := .up, peerCredits := [(0, 5)] }, by decide +kernel⟩,
   ⟨0, 0x0F, port { state := .up, rxNext := some 0x0F }, by decide +kernel⟩,
   ⟨0, 0, tHeadBody, port { state := .up, peerCredits := [(0, 5)] }, by decide +kernel⟩,
   ⟨0, 0, _, port { state := .up, peerCredits := [(0, 5)], assembling := [(0, tPartial)] }, three (by decide +kernel) ⟨some_getD (d
     := tPartial) (by decide +kernel), by decide +kernel⟩⟩,
   ⟨0, 6, port { state := .up }, by decide +kernel⟩,
   ⟨7, by decide +kernel⟩,
   ⟨0, tEnvelope, port { state := .up }, by decide +kernel⟩,
   ⟨0, port { state := .up }, by decide +kernel⟩⟩
theorem witness_LinksAcknowledgeAndReplay :
    (∃ p : Fin 32, ∃ s : State, s.receiving p.val = true ∧ (s.port p.val).nakPending = false ∧ s.sys.portsStopped = false) ∧
    (∃ p : Fin 32, ∃ s : State, (s.port p.val).state = LinkState.handshake) ∧
    (∃ p : Fin 32, ∃ s : State, s.receiving p.val = true ∧ (s.port p.val).nakPending = true) ∧
    (∃ p : Fin 32, ∃ env : Envelope, ∃ s : State, s.receiving p.val = true ∧ env.reserved = false ∧ env.seq = 0) ∧
    (∃ p : Nat, ∃ a : BitVec 12, ∃ s : State, (s.port p).span a = none) ∧
    (∃ p : Nat, ∃ d : Nat, ∃ a : BitVec 12, ∃ s : State, (s.port p).span a = some d ∧ (s.port p).nakSeq = none) ∧
    (∃ p : Fin 32, ∃ env : Envelope, ∃ n : BitVec 12, ∃ d : Nat, ∃ s : State, s.receiving p.val = true ∧ env.reserved = false ∧
      env.seq = 0 ∧ (s.port p.val).granted = none ∧ (s.port p.val).span n = some d) ∧
    (∃ p : Fin 32, ∃ env : Envelope, ∃ n : BitVec 12, ∃ s : State, s.receiving p.val = true ∧ env.reserved = false ∧ env.seq = 0 ∧
      (s.port p.val).granted = none ∧ (s.port p.val).span n = none) ∧
    (∃ p : Fin 32, ∃ s : State, s.receiving p.val = true ∧ (s.port p.val).nakPending = true ∧ s.sys.portsStopped = false) ∧
    (∃ p : Fin 32, ∃ s : State, s.receiving p.val = true ∧ (0 < (s.port p.val).unacked ∨ (s.port p.val).ackDue = true) ∧
      s.sys.portsStopped = false) ∧
    (∃ p : Fin 32, ∃ s : State, s.receiving p.val = true ∧ s.sys.portsStopped = false) :=
  ⟨⟨0, port { state := .up }, by decide +kernel⟩,
   ⟨0, port { state := .handshake }, by decide +kernel⟩,
   ⟨0, port { state := .up, nakPending := true }, by decide +kernel⟩,
   ⟨0, tEnvelope, port { state := .up }, by decide +kernel⟩,
   ⟨0, 1, port { state := .up }, by decide +kernel⟩,
   ⟨0, _, 0, port { state := .up }, some_getD (d := 0) (by decide +kernel), by decide +kernel⟩,
   ⟨0, tEnvelope, 0, 0, port { state := .up }, by decide +kernel⟩,
   ⟨0, tEnvelope, 1, port { state := .up }, by decide +kernel⟩,
   ⟨0, port { state := .up, nakPending := true }, by decide +kernel⟩,
   ⟨0, port { state := .up, ackDue := true }, by decide +kernel⟩,
   ⟨0, port { state := .up }, by decide +kernel⟩⟩
theorem witness_LinksTrainAndChangeWidth :
    (∃ p : Fin 32, ∃ s : State, (s.port p.val).state ≠ LinkState.disabled ∧ (s.port p.val).fresh = false) ∧
    (∃ p : Fin 32, ∃ s : State, ((s.port p.val).state = LinkState.down ∨ (s.port p.val).state = LinkState.disabled) ∧ s.portUsable
      p.val = true) ∧
    (∃ p : Fin 32, ∃ s : State, (s.port p.val).state ∈ [LinkState.training, LinkState.align, LinkState.handshake,
      LinkState.retraining]) ∧
    (∃ p : Fin 32, ∃ s : State, (s.port p.val).state = LinkState.training ∨ (s.port p.val).state = LinkState.retraining) ∧
    (∃ p : Fin 32, ∃ s : State, (s.port p.val).state = LinkState.align ∧ s.sys.portsStopped = false) ∧
    (∃ p : Fin 32, ∃ env : Envelope, ∃ s : State, (s.port p.val).state = LinkState.handshake ∧ env.reserved = false ∧ env.seq = 0) ∧
    (∃ p : Fin 32, ∃ env : Envelope, ∃ id : BitVec 32, ∃ tx : BitVec 8, ∃ rx : BitVec 8, ∃ mr : BitVec 8, ∃ mt : BitVec 8, ∃ s :
      State, (s.port p.val).state = LinkState.handshake ∧ env.reserved = false ∧ env.seq = 0 ∧ id ≠ (s.port p.val).trainId ∧
      bestMask ((s.port p.val).usableRx &&& tx) = some mr ∧ bestMask ((s.port p.val).usableTx &&& rx) = some mt) ∧
    (∃ p : Fin 32, ∃ env : Envelope, ∃ r : LinkReq, ∃ s : State, s.receiving p.val = true ∧ env.reserved = false ∧ env.seq = 0 ∧
      (s.port p.val).granted = none ∧ (s.port p.val).request = some r) ∧
    (∃ p : Fin 32, ∃ env : Envelope, ∃ s : State, s.receiving p.val = true ∧ env.reserved = false ∧ env.seq = 0 ∧ (s.port
      p.val).granted = none ∧ (s.port p.val).request = none ∧ s.sys.portsStopped = false) ∧
    (∃ p : Fin 32, ∃ env : Envelope, ∃ m : BitVec 8, ∃ s : State, s.receiving p.val = true ∧ env.reserved = false ∧ env.seq = 0 ∧
      (s.port p.val).granted = none ∧ (s.port p.val).request = none ∧ m ∈ legalMasks ∧ s.lanesMin p.val ≤ laneCount m ∧ m ≠ (s.port
      p.val).txMask ∧ laneCount m < laneCount (s.port p.val).txMask) ∧
    (∃ p : Fin 32, ∃ r : LinkReq, ∃ s : State, (s.port p.val).state = LinkState.up ∧ (s.port p.val).request = some r) ∧
    (∃ p : Fin 32, ∃ m : BitVec 8, ∃ s : State, ∃ u : State, (s.port p.val).granted = some (LinkReq.width m) ∧ u = (s.modPort p.val
      fun q =>
      { q with state := LinkState.up, nakPending := true, request := none, granted := none, timerStopped := false, txMask := m, echoFloor := s.clk.poolTime }).replayAll
      p.val ∧ (u.port p.val).initDue = false) ∧
    (∃ p : Fin 32, ∃ m : BitVec 8, ∃ s : State, ∃ u : State, (s.port p.val).granted = some (LinkReq.width m) ∧ u = (s.modPort p.val
      fun q =>
      { q with state := LinkState.up, nakPending := true, request := none, granted := none, timerStopped := false, txMask := m, echoFloor := s.clk.poolTime }).replayAll
      p.val ∧ (u.port p.val).initDue = true) ∧
    (∃ p : Nat, ∃ s : State, s.lanesMin p ≤ laneCount (s.port p).laneMask ∧ s.lanesMin p ≤ laneCount (s.port p).txMask) ∧
    (∃ p : Nat, ∃ s : State, laneCount (s.port p).laneMask < s.lanesMin p ∨ laneCount (s.port p).txMask < s.lanesMin p) ∧
    (∃ p : Fin 32, ∃ s : State, (s.port p.val).granted = some LinkReq.retrain) ∧
    (∃ p : Fin 32, ∃ l : List Nat, ∃ s : State, s.receiving p.val = true ∧ (s.port p.val).badLanes l = 0) ∧
    (∃ p : Fin 32, ∃ l : List Nat, ∃ m : BitVec 8, ∃ s : State, s.receiving p.val = true ∧ (s.port p.val).badLanes l ≠ 0 ∧ bestMask
      ((s.port p.val).laneMask &&& ~~~(s.port p.val).badLanes l) = some m ∧ s.lanesMin p.val ≤ laneCount m) ∧
    (∃ p : Fin 32, ∃ s : State, s.receiving p.val = true) ∧
    (∃ p : Fin 32, ∃ s : State, (s.port p.val).state = LinkState.up ∧ (s.port p.val).request = none ∧ (s.port p.val).granted = none
      ∧ s.sys.portsStopped = false) ∧
    (∃ p : Fin 32, ∃ m : BitVec 8, ∃ s : State, (s.port p.val).state = LinkState.up ∧ (s.port p.val).request = none ∧ (s.port
      p.val).granted = none ∧ s.sys.portsStopped = false ∧ m ∈ legalMasks ∧ s.lanesMin p.val ≤ laneCount m ∧ laneCount m < laneCount
      (s.port p.val).laneMask) ∧
    (∃ p : Fin 32, ∃ s : State, (s.port p.val).state = LinkState.up) ∧
    (∃ p : Fin 32, ∃ s : State, s.receiving p.val = true ∧ s.fcMode p.val = 0 ∧ (s.port p.val).initOpen = true ∧ (s.port
      p.val).creditSeen = false ∧ (s.port p.val).fallback = false) ∧
    (∃ p : Fin 32, ∃ s : State, s.receiving p.val = true ∧ s.fcMode p.val = 0 ∧ (s.port p.val).initOpen = true ∧ ((s.port
      p.val).creditSeen = true ∨ (s.port p.val).fallback = true)) :=
  ⟨⟨0, port { state := .up, fresh := false }, by decide +kernel⟩,
   ⟨0, { up with eff := [(6, [(0, 1)])] }, by decide +kernel⟩,
   ⟨0, port { state := .align }, by decide +kernel⟩,
   ⟨0, port { state := .training }, by decide +kernel⟩,
   ⟨0, port { state := .align }, by decide +kernel⟩,
   ⟨0, tEnvelope, port { state := .handshake }, by decide +kernel⟩,
   ⟨0, tEnvelope, 5, 0xFF, 0xFF, _, _, port { state := .handshake, usableTx := 0xFF, usableRx := 0xFF }, by decide +kernel, three
     (by decide +kernel) ⟨some_getD (d := 0) (by decide +kernel), some_getD (d := 0) (by decide +kernel)⟩⟩,
   ⟨0, tEnvelope, .retrain, port { state := .up, request := some .retrain }, by decide +kernel⟩,
   ⟨0, tEnvelope, port { state := .up }, by decide +kernel⟩,
   ⟨0, tEnvelope, 0x0F, port { state := .up, txMask := 0xFF }, by decide +kernel⟩,
   ⟨0, .retrain, port { state := .up, request := some .retrain }, by decide +kernel⟩,
   ⟨0, 0x0F, port { state := .widthChange, granted := some (.width 0x0F) }, _, by decide +kernel, rfl, by decide +kernel⟩,
   ⟨0, 0x0F, port { state := .widthChange, granted := some (.width 0x0F), initDue := true }, _, by decide +kernel, rfl,
     by decide +kernel⟩,
   ⟨0, { port { laneMask := 0x0F, txMask := 0x0F } with eff := [(6, [(1, 4)])] }, by decide +kernel⟩,
   ⟨0, { port { laneMask := 0x0F, txMask := 0x03 } with eff := [(6, [(1, 4)])] }, by decide +kernel⟩,
   ⟨0, port { state := .up, granted := some .retrain }, by decide +kernel⟩,
   ⟨0, [], port { state := .up }, by decide +kernel⟩,
   ⟨0, [0, 0, 0, 0, 0, 0, 0, 5000], _, port { state := .up, laneErrThr := 1, laneMask := 0xFF }, by decide +kernel,
     by decide +kernel, some_getD (d := 0) (by decide +kernel), by decide +kernel⟩,
   ⟨0, port { state := .up }, by decide +kernel⟩,
   ⟨0, port { state := .up }, by decide +kernel⟩,
   ⟨0, 0x0F, port { state := .up, laneMask := 0xFF }, by decide +kernel⟩,
   ⟨0, port { state := .up }, by decide +kernel⟩,
   ⟨0, port { state := .up, initOpen := true }, by decide +kernel⟩,
   ⟨0, port { state := .up, initOpen := true, creditSeen := true }, by decide +kernel⟩⟩
theorem witness_TransportAndPathsRun :
    (∃ h : BitVec 12, ∃ v : BitVec 8, ∃ s : State, v.toNat < 6 ∧ isEndpoint h.toNat = true ∧ (s.host h.toNat).dead = false) ∧
    (∃ v : BitVec 8, 6 ≤ v.toNat) ∧
    (∃ h : BitVec 12, ∃ v : Fin 6, ∃ s : State, 0 < (s.flow h.toNat v.val).ackOwed ∧ (s.host h.toNat).dead = false) ∧
    (∃ h : BitVec 12, ∃ v : Fin 6, ∃ n : BitVec 24, ∃ s : State, ((s.flow h.toNat v.val).out.any fun o => o.pkt.tseq == n) = true ∧
      (s.host h.toNat).dead = false ∧ s.holding = false) ∧
    (∃ h : BitVec 10, ∃ b : Bool, ∃ s : State, s.route h.toNat b < 32 ∧ s.receiving (s.route h.toNat b) = true ∧ (s.host
      h.toNat).dead = false ∧ ((s.host h.toNat).path b).unanswered < 3) ∧
    (∃ h : BitVec 10, ∃ b : Bool, ∃ v : Fin 6, ∃ s : State, s.route h.toNat b < 32 ∧ s.receiving (s.route h.toNat b) = true ∧
      (s.host h.toNat).dead = false ∧ 3 ≤ ((s.host h.toNat).path b).unanswered ∧ ((s.host h.toNat).path b).lost = false ∧ s.holding
      = false ∧ ((s.flow h.toNat v.val).out.any fun o => o.port == s.route h.toNat b) = true) ∧
    (∃ p : Fin 32, ∃ h : BitVec 10, ∃ s : State, s.receiving p.val = true ∧ s.role p.val ≠ 2 ∧ (s.host h.toNat).dead = false) ∧
    (∃ p : Fin 32, ∃ h : BitVec 10, ∃ n : BitVec 32, ∃ s : State, s.receiving p.val = true ∧ s.role p.val ≠ 2 ∧ (s.host
      h.toNat).dead = false ∧ s.route h.toNat false = p.val ∧ s.route h.toNat true ≠ p.val ∧ 0 < (n - (s.host
      h.toNat).primary.since).toNat ∧ (n - (s.host h.toNat).primary.since).toNat ≤ ((s.host h.toNat).primary.probe - (s.host
      h.toNat).primary.since).toNat ∧ (s.host h.toNat).allLost = false) ∧
    (∃ p : Fin 32, ∃ s : State, s.receiving p.val = false) ∧
    (∃ h : Nat, ∃ s : State, s.holding = false ∧ (s.host h).onSecondary = false ∧ (32 ≤ s.route h true ∨ (s.host h).secondary.lost =
      true)) ∧
    (∃ h : Nat, ∃ s : State, s.holding = false ∧ (s.host h).onSecondary = false ∧ s.route h true < 32 ∧ (s.host h).secondary.lost =
      false) ∧
    (∃ h : BitVec 10, ∃ s : State, (s.host h.toNat).onSecondary = true ∧ s.pathUp h.toNat false = true ∧ s.holding = false) ∧
    (∃ p : Fin 32, ∃ s : State, (s.port p.val).state = LinkState.up ∧ s.sys.portsStopped = false) :=
  ⟨⟨5, 0, up, by decide +kernel⟩,
   ⟨6, by decide +kernel⟩,
   ⟨5, 0, { up with flows := [(fkey 5 0, { ackOwed := 1 })] }, by decide +kernel⟩,
   ⟨5, 0, 0, { up with flows := [(fkey 5 0, { out := [tOut] })] }, by decide +kernel⟩,
   ⟨5, false, routed, by decide +kernel⟩,
   ⟨5, false, 0,
     { routed with hosts := [(5, { primary := { unanswered := 3, probed := true, lost := false } })], flows := [(fkey 5 0, { out := [tOut] })] },
     by decide +kernel⟩,
   ⟨0, 5, port { state := .up }, by decide +kernel⟩,
   ⟨0, 5, 1, { routed with hosts := [(5, { primary := { probe := 1 } })] }, by decide +kernel⟩,
   ⟨0, up, by decide +kernel⟩,
   ⟨5, up, by decide +kernel⟩,
   ⟨5, routed, by decide +kernel⟩,
   ⟨5, { routed with hosts := [(5, { onSecondary := true, primary := { probed := true, lost := false } })] }, by decide +kernel⟩,
   ⟨0, port { state := .up }, by decide +kernel⟩⟩
theorem witness_BeaconsAreMeasured :
    ∃ p : Fin 32, ∃ env : Envelope, ∃ s : State, s.receiving p.val = true ∧ env.reserved = false ∧ env.seq = 0 :=
  ⟨0, tEnvelope, port { state := .up }, by decide +kernel⟩
theorem witness_EthernetPortsAnswer :
    (∃ e : Bool, ∃ s : State, s.ethTrains e = true ∧ (s.ethSpeed e = 1 ∨ s.ethSpeed e = 2)) ∧
    (∃ e : Bool, ∃ f : EthFrame, ∃ m : BitVec 48, ∃ a : BitVec 32, ∃ ip : BitVec 128, ∃ d : List Byte, ∃ x : DhcpMsg, ∃ n : BitVec
      8, ∃ q : List (BitVec 16), ∃ y : PtpFrame, ∃ s : State, ∃ c : Instr, s.ethUp e = true ∧ c ∈ [Instr.arpRequest e f m a,
      Instr.neighbourSolicitation e f m ip, Instr.echoRequest e f m ip d, Instr.dhcpMessage e f m x, Instr.pfcFrame e f n q,
      Instr.discardedFrame e f, Instr.ptpMessage e f n y] ∧ f.damaged = true) ∧
    (∃ e : Bool, ∃ f : EthFrame, ∃ m : BitVec 48, ∃ a : BitVec 32, ∃ ip : BitVec 128, ∃ d : List Byte, ∃ x : DhcpMsg, ∃ n : BitVec
      8, ∃ q : List (BitVec 16), ∃ y : PtpFrame, ∃ s : State, ∃ c : Instr, s.ethUp e = true ∧ c ∈ [Instr.arpRequest e f m a,
      Instr.neighbourSolicitation e f m ip, Instr.echoRequest e f m ip d, Instr.dhcpMessage e f m x, Instr.pfcFrame e f n q,
      Instr.discardedFrame e f, Instr.ptpMessage e f n y] ∧ f.damaged = false ∧ f.accepted = false) ∧
    (∃ e : Bool, ∃ f : EthFrame, ∃ m : BitVec 48, ∃ a : BitVec 32, ∃ ip : BitVec 128, ∃ d : List Byte, ∃ x : DhcpMsg, ∃ n : BitVec
      8, ∃ y : PtpFrame, ∃ s : State, ∃ c : Instr, s.ethUp e = true ∧ f.damaged = false ∧ f.accepted = true ∧ s.noRoom e f = true ∧
      c ∈ [Instr.arpRequest e f m a, Instr.neighbourSolicitation e f m ip, Instr.echoRequest e f m ip d, Instr.dhcpMessage e f m x,
      Instr.discardedFrame e f, Instr.ptpMessage e f n y]) ∧
    (∃ e : Bool, ∃ f : TxFrame, ∃ s : State, s.ethUp e = true ∧ s.classPaused e f.cls.toNat = true) ∧
    (∃ e : Bool, ∃ f : EthFrame, ∃ a : BitVec 32, ∃ s : State, s.ethUp e = true ∧ f.damaged = false ∧ f.accepted = true ∧ s.noRoom e
      f = false ∧ s.classPaused e f.cls.toNat = false ∧ (s.ethPort e).ipv4 = some a) ∧
    (∃ e : Bool, ∃ f : EthFrame, ∃ s : State, s.ethUp e = true ∧ f.damaged = false ∧ f.accepted = true ∧ s.noRoom e f = false ∧
      s.classPaused e f.cls.toNat = false) ∧
    (∃ e : Bool, ∃ f : EthFrame, ∃ a : BitVec 128, ∃ s : State, s.ethUp e = true ∧ f.damaged = false ∧ f.accepted = true ∧ s.noRoom
      e f = false ∧ s.classPaused e f.cls.toNat = false ∧ s.ownIp e a = true) ∧
    (∃ e : Bool, ∃ f : EthFrame, ∃ s : State, s.ethUp e = true ∧ f.damaged = false ∧ f.accepted = true ∧ s.noRoom e f = false ∧
      (s.ethPort e).isStatic = false ∧ (s.ethPort e).lease = none) ∧
    (∃ e : Bool, ∃ f : EthFrame, ∃ s : State, s.ethUp e = true ∧ f.damaged = false ∧ f.accepted = true ∧ s.noRoom e f = false ∧
      (s.ethPort e).isStatic = false) ∧
    (∃ e : Bool, ∃ f : EthFrame, ∃ s : State, s.ethUp e = true ∧ f.damaged = false ∧ f.accepted = true ∧ s.noRoom e f = false) ∧
    (∃ e : Bool, ∃ f : EthFrame, ∃ c : Fin 8, ∃ s : State, s.ethUp e = true ∧ f.damaged = false ∧ f.accepted = true ∧ (s.pfcMask
      e).getLsbD c.val = true) ∧
    (∃ e : Bool, ∃ c : Fin 8, ∃ s : State, (s.ethPort e).paused.getLsbD c.val = true ∧ (s.ethPort e).pauseUntil.getD (c.val) 0 ≤
      s.clk.now) ∧
    (∃ e : Bool, ∃ c : Fin 8, ∃ s : State, (s.ethPort e).paused.getLsbD c.val = true ∧ (s.ethPort e).pauseSince.getD (c.val)
      s.clk.now + (s.ethPort e).limitMs.toNat * 1000000 ≤ s.clk.now) ∧
    (∃ e : Bool, ∃ c : Fin 8, ∃ n : Nat, ∃ s : State, s.ethUp e = true ∧ (s.pfcMask e).getLsbD c.val = true ∧ 393216 ≤ n) ∧
    (∃ e : Bool, ∃ c : Fin 8, ∃ n : Nat, ∃ s : State, s.ethUp e = true ∧ (s.pfcMask e).getLsbD c.val = true ∧ (s.ethPort
      e).pausing.getLsbD c.val = true ∧ n < 262144) :=
  ⟨⟨false, ethAt { linkUp := true }, by decide +kernel⟩,
   ⟨false, { fcsOk := false }, 0, 0, 0, [], tDhcp, 0, [], tPtp, ethAt { linkUp := true }, .arpRequest false { fcsOk := false } 0 0,
     by decide +kernel⟩,
   ⟨false, { etherType := 0 }, 0, 0, 0, [], tDhcp, 0, [], tPtp, ethAt { linkUp := true }, .arpRequest false { etherType := 0 } 0 0,
     by decide +kernel⟩,
   ⟨false, tFrame, 0, 0, 0, [], tDhcp, 0, tPtp,
     { ethAt { linkUp := true, occupancy := [(0, 6291456)] } with eff := [(6, [(0x300, 1)])] }, .arpRequest false tFrame 0 0,
     by decide +kernel⟩,
   ⟨false, { mac := 0, cls := 3 }, ethAt { linkUp := true, paused := 8 }, by decide +kernel⟩,
   ⟨false, tFrame, 7, ethAt { linkUp := true, lease := some 7 }, by decide +kernel⟩,
   ⟨false, tFrame, ethAt { linkUp := true }, by decide +kernel⟩,
   ⟨false, tFrame, linkLocal (State.mac (ethAt { linkUp := true }) false), ethAt { linkUp := true }, by decide +kernel⟩,
   ⟨false, tFrame, ethAt { linkUp := true }, by decide +kernel⟩,
   ⟨false, tFrame, ethAt { linkUp := true }, by decide +kernel⟩,
   ⟨false, tFrame, ethAt { linkUp := true }, by decide +kernel⟩,
   ⟨false, tFrame, 0, ethAt { linkUp := true }, by decide +kernel⟩,
   ⟨false, 0, ethAt { linkUp := true, paused := 1 }, by decide +kernel⟩,
   ⟨false, 0, { ethAt { linkUp := true, paused := 1, pauseSince := [(0, 0)] } with clk := { now := 10000000000 } },
     by decide +kernel⟩,
   ⟨false, 0, 393216, ethAt { linkUp := true }, by decide +kernel⟩,
   ⟨false, 0, 262143, ethAt { linkUp := true, pausing := 1 }, by decide +kernel⟩⟩
theorem witness_QueuePairsServeTheirPackets :
    (∃ h : RoceHdr, ∃ part : RocePart, ∃ d : List Byte, ∃ l : List Medium, ∃ y : RoceSyn, ∃ r : RoceReq, ∃ s : State, ∃ c : Instr,
      (s.roceIn h).1 = none ∧ c ∈ [Instr.send h part d, Instr.rdmaReadResponse h d l, Instr.rdmaAcknowledge h y,
      Instr.rdmaRequestToPart h r, Instr.cnp h]) ∧
    (∃ h : RoceHdr, ∃ q : Nat, ∃ x : Qp, ∃ c : Colour, ∃ s : State, ∃ u : State, s.roceIn h = (some (q, x, c), u) ∧ (u.hub (q /
      2048)).phase = PartialPhase.none ∧ h.psn = x.expectPsn) ∧
    (∃ h : RoceHdr, ∃ q : Nat, ∃ x : Qp, ∃ c : Colour, ∃ s : State, ∃ u : State, s.roceIn h = (some (q, x, c), u) ∧ (u.hub (q /
      2048)).phase = PartialPhase.none ∧ psnBefore h.psn x.expectPsn = true) ∧
    (∃ h : RoceHdr, ∃ q : Nat, ∃ x : Qp, ∃ c : Colour, ∃ s : State, ∃ u : State, s.roceIn h = (some (q, x, c), u) ∧ (u.hub (q /
      2048)).phase = PartialPhase.none ∧ psnBefore h.psn x.expectPsn = false ∧ h.psn ≠ x.expectPsn) ∧
    (∃ h : RoceHdr, ∃ d : List Byte, ∃ q : Nat, ∃ x : Qp, ∃ c : Colour, ∃ u : State, u.ethCrypt = false ∧ u.qps.get? q = some x ∧
      x.rx = [] ∧ 1 ≤ d.length ∧ d.length ≤ x.mtu ∧ d.length % 64 = 0 ∧ u.sendHeld q h.port = false ∧ (u.queue q).ring.length +
      slotsFor (List.map (fun e => (e, c)) (sendEntries d)) ≤ 64) ∧
    (∃ h : RoceHdr, ∃ d : List Byte, ∃ q : Nat, ∃ x : Qp, ∃ c : Colour, ∃ u : State, u.ethCrypt = false ∧ x.rx = [] ∧ 1 ≤ d.length ∧
      d.length ≤ x.mtu ∧ d.length % 64 = 0 ∧ (u.sendHeld q h.port = true ∨ 64 < (u.queue q).ring.length + slotsFor (List.map (fun e
      => (e, c)) (sendEntries d)))) ∧
    (∃ h : RoceHdr, ∃ q : Nat, ∃ x : Qp, ∃ c : Colour, ∃ s : State, ∃ u : State, s.roceIn h = (some (q, x, c), u)) ∧
    (∃ h : RoceHdr, ∃ q : Nat, ∃ x : Qp, ∃ c : Colour, ∃ s : State, ∃ u : State, s.roceIn h = (some (q, x, c), u) ∧ u.qps.get? q =
      some x ∧ x.lastCut = none) ∧
    (∃ q : BitVec 14, ∃ x : Qp, ∃ s : State, s.qps.get? q.toNat = some x) ∧
    (∃ h : RoceHdr, ∃ d : List Byte, ∃ q : Nat, ∃ n : Nat, ∃ x : Qp, ∃ y : Qp, ∃ o : RoceOut, ∃ va : BitVec 64, ∃ k : BitVec 32, ∃ c
      : Colour, ∃ s : State, ∃ u : State, s.roceIn h = (some (q, x, c), u) ∧ (u.roceAcked q (h.psn - 1)).qps.get? q = some y ∧
      List.find? (fun o => !o.isWrite) y.out = some o ∧ o.op = RoceOp.read va k n ∧ h.psn = o.next y.mtu ∧ d.length = min y.mtu (n -
      o.got.length) ∧ (o.got ++ d).length < n) ∧
    (∃ h : RoceHdr, ∃ d : List Byte, ∃ q : Nat, ∃ id : Nat, ∃ x : Qp, ∃ y : Qp, ∃ o : RoceOut, ∃ va : BitVec 64, ∃ k : BitVec 32, ∃
      c : Colour, ∃ s : State, ∃ u : State, s.roceIn h = (some (q, x, c), u) ∧ (u.roceAcked q (h.psn - 1)).qps.get? q = some y ∧
      List.find? (fun o => !o.isWrite) y.out = some o ∧ o.op = RoceOp.read va k (o.got ++ d).length ∧ h.psn = o.next y.mtu ∧
      d.length = min y.mtu ((o.got ++ d).length - o.got.length) ∧ o.access = some id) ∧
    (∃ q : BitVec 14, ∃ x : Qp, ∃ n : BitVec 24, ∃ s : State, s.qps.get? q.toNat = some x ∧ x.oldest = some n ∧ x.error = false ∧
      s.sys.portsStopped = false ∧ x.params.retry.toNat ≤ x.retries) ∧
    (∃ q : BitVec 14, ∃ x : Qp, ∃ n : BitVec 24, ∃ s : State, s.qps.get? q.toNat = some x ∧ x.oldest = some n ∧ x.error = false ∧
      s.sys.portsStopped = false ∧ x.retries < x.params.retry.toNat) :=
  ⟨⟨tRoceHdr, .only, [], [], .ack, .read, up, Instr.cnp tRoceHdr, by decide +kernel⟩,
   ⟨tRoceHdr, 0, tQp, .green, roce tQp, roce tQp, by decide +kernel⟩,
   ⟨{ tRoceHdr with psn := 0xFFFFFF }, 0, tQp, .green, roce tQp, roce tQp, by decide +kernel⟩,
   ⟨{ tRoceHdr with psn := 1 }, 0, tQp, .green, roce tQp, roce tQp, by decide +kernel⟩,
   ⟨tRoceHdr, List.replicate 64 0, 0, tQp, .green, roce tQp, by decide +kernel⟩,
   ⟨tRoceHdr, List.replicate 64 0, 0, tQp, .green, { roce tQp with queues := [(0, { ring := List.replicate 64 tRingSlot })] },
     by decide +kernel⟩,
   ⟨tRoceHdr, 0, tQp, .green, roce tQp, roce tQp, by decide +kernel⟩,
   ⟨tRoceHdr, 0, tQp, .green, roce tQp, roce tQp, by decide +kernel⟩,
   ⟨0, tQp, roce tQp, by decide +kernel⟩,
   ⟨tRoceHdr, List.replicate 1024 0, 0, 2048, { tQp with out := [{ tRoceOut with op := .read 0 0 2048 }] },
     { tQp with out := [{ tRoceOut with op := .read 0 0 2048 }] }, { tRoceOut with op := .read 0 0 2048 }, 0, 0, .green, roce
     { tQp with out := [{ tRoceOut with op := .read 0 0 2048 }] }, roce
     { tQp with out := [{ tRoceOut with op := .read 0 0 2048 }] }, by decide +kernel⟩,
   ⟨tRoceHdr, List.replicate 64 0, 0, 3, { tQp with out := [tRoceOut] }, { tQp with out := [tRoceOut] }, tRoceOut, 0, 0, .green,
     roce { tQp with out := [tRoceOut] }, (roce { tQp with out := [tRoceOut] }).roceIn tRoceHdr |>.2, rfl, by decide +kernel⟩,
   ⟨0, { tQp with out := [tRoceOut], retries := 1 }, 0, roce { tQp with out := [tRoceOut], retries := 1 }, by decide +kernel⟩,
   ⟨0, { tQp with out := [tRoceOut] }, 0, roce { tQp with out := [tRoceOut] }, by decide +kernel⟩⟩
theorem witness_ManagementMessagesAreServed :
    (∃ hdr : KmpHdr, ∃ s : State, ∃ u : State, hdr.sessionId = 0 ∧ (s.kmpArrive hdr).1 = some u ∧ kmpKnown hdr.type = true ∧
      hdr.protected_ = false ∧ kmpHdrOk hdr = true ∧ hdr.bodyLen = 0 ∧ u.fatal = false ∧ u.ethQuiesced hdr.port = false) ∧
    (∃ hdr : KmpHdr, ∃ k : Nat, ∃ x : KmpSession, ∃ s : State, ∃ v : State, KmpServed s hdr k x v ∧ hdr.sessionId ≠ 0 ∧ hdr.bodyLen
      = 0) ∧
    (∃ hdr : KmpHdr, ∃ p : QpParams, ∃ k : Nat, ∃ x : KmpSession, ∃ s : State, ∃ v : State, KmpServed s hdr k x v ∧ (x.auth =
      Auth.tenant ∨ v.sealed = false ∧ v.isOperator x = true) ∧ v.ten.state = TenState.open_ ∧ (p.port == 1) = hdr.port ∧
      v.qpFieldsOk p false = true) ∧
    (∃ hdr : KmpHdr, ∃ k : Nat, ∃ x : KmpSession, ∃ s : State, ∃ v : State, KmpServed s hdr k x v ∧ v.ten.state ≠ TenState.open_) ∧
    (∃ hdr : KmpHdr, ∃ k : Nat, ∃ x : KmpSession, ∃ s : State, ∃ u : State, (s.kmpArrive hdr).1 = some u ∧ u.sessionOf hdr.sessionId
      = some k ∧ u.session k = some x ∧ x.opens hdr = true ∧ x.port = hdr.port ∧ kmpHdrOk hdr = true ∧ kmpKnown hdr.type = true) ∧
    (∃ k : Fin 32, ∃ n : BitVec 32, ∃ i : Nat, ∃ x : KmpSession, ∃ m : KmpMsg, ∃ s : State, s.session k.val = some x ∧ List.find?
      (fun e => e.1 == n) x.events = some (n, m, i) ∧ i < 64) ∧
    (∃ k : Fin 32, ∃ n : BitVec 32, ∃ i : Nat, ∃ x : KmpSession, ∃ m : KmpMsg, ∃ s : State, s.session k.val = some x ∧ List.find?
      (fun e => e.1 == n) x.events = some (n, m, i) ∧ 64 ≤ i) ∧
    (∃ hdr : KmpHdr, ∃ k : Nat, ∃ x : KmpSession, ∃ s : State, ∃ v : State, KmpServed s hdr k x v ∧ hdr.bodyLen = 0) ∧
    (∃ k : Fin 32, ∃ x : KmpSession, ∃ s : State, s.session k.val = some x ∧ s.spRestarting = false) ∧
    (∃ f : EthFrame, ∃ y : PtpFrame, ∃ s : State, ∃ r : BitVec 128, ∃ n : Fin 8, s.ethUp s.ethg.ptpPort = true ∧ f.damaged = false ∧
      f.accepted = true ∧ s.noRoom s.ethg.ptpPort f = false ∧ s.ethg.ptpEn = true ∧ y.msg = PtpMsg.announce r n) ∧
    (∃ f : EthFrame, ∃ y : PtpFrame, ∃ s : State, ∃ t1 : BitVec 64, ∃ c : Int, s.ethUp s.ethg.ptpPort = true ∧ f.damaged = false ∧
      f.accepted = true ∧ s.noRoom s.ethg.ptpPort f = false ∧ s.ethg.ptpEn = true ∧ Option.map (fun x => x.source) s.ptpBest = some
      y.source ∧ y.msg = PtpMsg.sync (some t1) c ∧ s.classPaused s.ethg.ptpPort Config.ptpClass.toNat = false) ∧
    (∃ f : EthFrame, ∃ y : PtpFrame, ∃ s : State, ∃ c : Int, s.ethUp s.ethg.ptpPort = true ∧ f.damaged = false ∧ f.accepted = true ∧
      s.noRoom s.ethg.ptpPort f = false ∧ s.ethg.ptpEn = true ∧ Option.map (fun x => x.source) s.ptpBest = some y.source ∧ y.msg =
      PtpMsg.sync none c) ∧
    (∃ f : EthFrame, ∃ y : PtpFrame, ∃ s : State, ∃ t1 : BitVec 64, ∃ c : Int, s.ethUp s.ethg.ptpPort = true ∧ f.damaged = false ∧
      f.accepted = true ∧ s.noRoom s.ethg.ptpPort f = false ∧ s.ethg.ptpEn = true ∧ Option.map (fun x => x.source) s.ptpBest = some
      y.source ∧ y.msg = PtpMsg.followUp t1 c ∧ s.ethg.ptpSync = some y.seq) ∧
    (∃ f : EthFrame, ∃ y : PtpFrame, ∃ s : State, ∃ t1 : BitVec 64, ∃ t4 : BitVec 64, ∃ c : Int, s.ethUp s.ethg.ptpPort = true ∧
      f.damaged = false ∧ f.accepted = true ∧ s.noRoom s.ethg.ptpPort f = false ∧ s.ethg.ptpEn = true ∧ Option.map (fun x =>
      x.source) s.ptpBest = some y.source ∧ y.msg = PtpMsg.delayResp t4 c ∧ y.mine = true ∧ y.seq + 1 = s.ethg.ptpReq ∧ s.ethg.ptpT1
      = some t1) :=
  ⟨⟨hdr0, ops, _, rfl, some_getD (d := up) (by decide +kernel), by decide +kernel⟩,
   ⟨tKmpHdr, 0, tKmpSession, ops, _, served (by decide +kernel), by decide +kernel⟩,
   ⟨tKmpHdr, tQpParams, 0, tKmpSession,
     { ops with si := { committed := true }, eff := queuesOf 0x400, ten := { ops.ten with state := .open_ } }, _, served
     (by decide +kernel), by decide +kernel⟩,
   ⟨tKmpHdr, 0, tKmpSession, ops, _, served (by decide +kernel), by decide +kernel⟩,
   ⟨tKmpHdr, 0, tKmpSession, ops, _, some_getD (d := up) (by decide +kernel), by decide +kernel, by decide +kernel, kmpHdr_opens _ _
     _ rfl, by decide +kernel⟩,
   ⟨0, 1, 63, { tKmpSession with events := [(1, tKmpMsg, 63)] }, tKmpMsg,
     { ops with kmp := [(0, { tKmpSession with events := [(1, tKmpMsg, 63)] })] }, by decide +kernel⟩,
   ⟨0, 1, 64, { tKmpSession with events := [(1, tKmpMsg, 64)] }, tKmpMsg,
     { ops with kmp := [(0, { tKmpSession with events := [(1, tKmpMsg, 64)] })] }, by decide +kernel⟩,
   ⟨tKmpHdr, 0, tKmpSession, ops, _, served (by decide +kernel), by decide +kernel⟩,
   ⟨0, _, ops, some_getD (d := tKmpSession) (by decide +kernel), by decide +kernel⟩,
   ⟨tFrame, { tPtp with msg := .announce 1 0 }, ptp {}, 1, 0, by decide +kernel⟩,
   ⟨tFrame, { tPtp with msg := .sync (some 5) 0 }, ptp {}, 5, 0, three (by decide +kernel) (three (by decide +kernel)
     (by simp [State.classPaused, State.ethPort, ptp, ops, SMap.getD, SMap.get?, b2n]))⟩,
   ⟨tFrame, { tPtp with msg := .sync none 0 }, ptp {}, 0, by decide +kernel⟩,
   ⟨tFrame, tPtp, ptp { ptpSync := some 0 }, 0, 0, by decide +kernel⟩,
   ⟨tFrame, { tPtp with msg := .delayResp 9 0 }, ptp { ptpReq := 1, ptpT1 := some 5 }, 5, 9, 0, by decide +kernel⟩⟩
theorem witness_PairsAreWrittenInOrder :
    ∃ hdr : KmpHdr, ∃ k : Fin 32, ∃ x : KmpSession, ∃ ps : List (Word × Word), ∃ s : State, ∃ v : State, KmpServed s hdr (k.val) x v
      ∧ ps ≠ [] ∧ ps.length ≤ 128 ∧ (v.isTenant (Path.kmp k) = false ∨ ∀ q ∈ ps, tenantWrites (addrHub q.1) (addrBlock q.1) (addrOff
      q.1) = true ∧ illegalAddr q.1 = false) :=
  ⟨tKmpHdr, 0, tKmpSession, [(0, 0)], ops, _, served (by decide +kernel), by decide +kernel⟩
theorem witness_QueueEntriesAreTakenAndIssued :
    (∃ h : BitVec 10, ∃ q : BitVec 14, ∃ e : SubEntry, ∃ c : Colour, ∃ s : State, ∃ u : State, s.hears h = true ∧ s.queueHost
      q.toNat = h.toNat ∧ releaseOk e = false ∧ s.fatal = false ∧ (s.hub (q.toNat / 2048)).phase = PartialPhase.none ∧ s.throttles
      h.toNat = false ∧ s.meterArrive h.toNat 64 = (c, u) ∧ c ≠ Colour.red ∧ u.queueHeld q.toNat = false ∧ (u.queue
      q.toNat).ring.length < 64) ∧
    (∃ h : BitVec 10, ∃ q : BitVec 14, ∃ e : SubEntry, ∃ c : Colour, ∃ b : BitVec 4, ∃ u : State, ∃ v : State, ∃ s : State, s.hears
      h = true ∧ s.queueHost q.toNat = h.toNat ∧ releaseOk e = false ∧ s.fatal = false ∧ (s.hub (q.toNat / 2048)).phase =
      PartialPhase.none ∧ s.throttles h.toNat = false ∧ s.meterArrive h.toNat 64 = (c, u) ∧ c ≠ Colour.red ∧ u.queueHeld q.toNat =
      true ∧ u.freeBackoff = (b, v)) ∧
    (∃ h : BitVec 10, ∃ q : BitVec 14, ∃ e : SubEntry, ∃ s : State, s.hears h = true ∧ s.queueHost q.toNat = h.toNat ∧ releaseOk e =
      false ∧ s.fatal = true) ∧
    (∃ h : BitVec 10, ∃ q : BitVec 14, ∃ e : SubEntry, ∃ c : Colour, ∃ u : State, ∃ s : State, s.hears h = true ∧ s.queueHost
      q.toNat ≠ h.toNat ∧ releaseOk e = false ∧ s.fatal = false ∧ (s.hub (q.toNat / 2048)).phase = PartialPhase.none ∧ s.throttles
      h.toNat = false ∧ s.meterArrive h.toNat 64 = (c, u) ∧ c ≠ Colour.red) ∧
    (∃ h : BitVec 10, ∃ q : BitVec 14, ∃ e : SubEntry, ∃ s : State, s.hears h = true ∧ s.queueHost q.toNat ≠ h.toNat ∧ (releaseOk e
      = true ∨ s.fatal = true ∨ (s.hub (q.toNat / 2048)).phase ≠ PartialPhase.none)) ∧
    (∃ h : BitVec 10, ∃ q : BitVec 14, ∃ e : SubEntry, ∃ u : State, ∃ s : State, s.hears h = true ∧ releaseOk e = false ∧ s.fatal =
      false ∧ (s.hub (q.toNat / 2048)).phase = PartialPhase.none ∧ s.throttles h.toNat = false ∧ s.meterArrive h.toNat 64 =
      (Colour.red, u)) ∧
    (∃ h : BitVec 10, ∃ q : BitVec 14, ∃ e : SubEntry, ∃ c : Colour, ∃ u : State, ∃ s : State, s.hears h = true ∧ s.queueHost
      q.toNat = h.toNat ∧ releaseOk e = false ∧ s.fatal = false ∧ (s.hub (q.toNat / 2048)).phase = PartialPhase.none ∧ s.throttles
      h.toNat = false ∧ s.meterArrive h.toNat 64 = (c, u) ∧ c ≠ Colour.red ∧ u.queueHeld q.toNat = false ∧ 64 ≤ (u.queue
      q.toNat).ring.length) ∧
    (∃ h : BitVec 10, ∃ q : BitVec 14, ∃ e : SubEntry, ∃ s : State, s.hears h = true ∧ s.queueHost q.toNat = h.toNat ∧ releaseOk
      { e with opcode := 5 } = true) ∧
    (∃ q : Nat, ∃ e : SubEntry, ∃ s : State, releaseOk e = false ∧ s.fatal = false ∧ entryOk (decide (s.queueHost q < 1024)) e =
      true ∧ s.ten.state ≠ TenState.ending ∧ s.ten.state ≠ TenState.resurfacing) ∧
    (∃ q : Nat, ∃ e : SubEntry, ∃ s : State, releaseOk e = false ∧ s.fatal = false ∧ entryOk (decide (s.queueHost q < 1024)) e =
      false) ∧
    (∃ q : BitVec 14, ∃ c : Cand, ∃ s : State, QueueTurn s q.toNat 1 c) ∧
    (∃ q : BitVec 14, ∃ c : Cand, ∃ s : State, QueueTurn s q.toNat 2 c) ∧
    (∃ q : BitVec 14, ∃ c : Cand, ∃ n : Nat, ∃ s : State, QueueTurn s q.toNat 3 c ∧ atomSize c.slot.entry.atop.toNat = some n) ∧
    (∃ q : BitVec 14, ∃ c : Cand, ∃ s : State, QueueTurn s q.toNat 4 c) ∧
    (∃ s : State, s.sys.portsStopped = false) ∧
    (∃ q : BitVec 14, ∃ r : RingSlot, ∃ s : State, (s.queue q.toNat).head = some r ∧ r.colour = Colour.yellow ∧ s.eligible q.toNat r
      = true) ∧
    (∃ h : Fin 8, ∃ s : State, s.inService h.val = true) ∧
    (∃ s : State, s.fatal = true) :=
  ⟨⟨5, 0, tSubEntry, _, fab, _, three (by decide +kernel) (three (by decide +kernel) ⟨prod_eta _, by decide +kernel⟩)⟩,
   ⟨5, 0, tSubEntry, _, _, _, _, { fab with si := { committed := true, hold := { hubs := 1 } } }, three (by decide +kernel) (three
     (by decide +kernel) ⟨prod_eta _, by decide +kernel, by decide +kernel, prod_eta _⟩)⟩,
   ⟨5, 0, tSubEntry, { fab with sys := { up.sys with fatalAt := some 0 } }, by decide +kernel⟩,
   ⟨5, 0, tSubEntry, _, _, { fab with eff := queuesOf 6 }, three (by decide +kernel) (three (by decide +kernel) ⟨prod_eta _,
     by decide +kernel⟩)⟩,
   ⟨5, 0, tSubEntry, { fab with eff := queuesOf 6, sys := { up.sys with fatalAt := some 0 } }, by decide +kernel⟩,
   ⟨5, 0, tSubEntry, (({ fab with eff := [(7, [(0, 5), (2, 1), (0x20028, 1)])] }).meterArrive (5 : BitVec 10).toNat 64).2,
     { fab with eff := [(7, [(0, 5), (2, 1), (0x20028, 1)])] }, by decide +kernel⟩,
   ⟨5, 0, tSubEntry, _, _, { fab with queues := [(0, { ring := List.replicate 64 tRingSlot })] }, three (by decide +kernel) (three
     (by decide +kernel) ⟨prod_eta _, by decide +kernel⟩)⟩,
   ⟨5, 0, { opcode := 5, length := 1 }, fab, by decide +kernel⟩,
   ⟨0, tSubEntry, fab, by decide +kernel⟩,
   ⟨0, { opcode := 9 }, fab, by decide +kernel⟩,
   ⟨0, _, queued { opcode := 1, poolAddr := 0x10000000, length := 64 }, ⟨by decide +kernel, by decide +kernel, some_getD (d :=
     tCand) (by decide +kernel), by decide +kernel⟩⟩,
   ⟨0, _, queued { opcode := 2, poolAddr := 0x10000000, length := 64 }, ⟨by decide +kernel, by decide +kernel, some_getD (d :=
     tCand) (by decide +kernel), by decide +kernel⟩⟩,
   ⟨0, _, 8, queued { opcode := 3, poolAddr := 0x10000000, atop := 2 }, ⟨by decide +kernel, by decide +kernel, some_getD (d :=
     tCand) (by decide +kernel), by decide +kernel⟩, by decide +kernel⟩,
   ⟨0, _, queued { opcode := 4, poolAddr := 0x10000000 }, ⟨by decide +kernel, by decide +kernel, some_getD (d := tCand)
     (by decide +kernel), by decide +kernel⟩⟩,
   ⟨fab, by decide +kernel⟩,
   ⟨0, _, { fab with queues := [(0, { ring := [{ tRingSlot with colour := .yellow }] })] }, some_getD (d := tRingSlot)
     (by decide +kernel), by decide +kernel⟩,
   ⟨0, fab, by decide +kernel⟩,
   ⟨{ up with sys := { up.sys with fatalAt := some 0 } }, by decide +kernel⟩⟩
theorem witness_VectorOperationsQueueTheirResults :
    (∃ c : CluAt, ∃ vd : Fin 32, ∃ va : Fin 32, ∃ vb : Fin 32, ∃ g : VSig, ∃ j : Nat, ∃ i : Nat, ∃ s : State, ∃ u : State, ∃ v :
      State, ∃ a : Vec, ∃ b : Vec, ∃ r : Nat × (Word → Word → Word) × Instr, r ∈ vec2Rows c vd va vb g ∧ SlotReady s c 2 (vecWord
      r.1 (vd.val) (va.val) (vb.val) 0 0 0 0 false g) j i ∧ (s.atTurn c j i).readV j i va.val = (a, u) ∧ u.readV j i vb.val = (b,
      v)) ∧
    (∃ c : CluAt, ∃ vd : Fin 32, ∃ va : Fin 32, ∃ g : VSig, ∃ j : Nat, ∃ i : Nat, ∃ s : State, ∃ u : State, ∃ a : Vec, ∃ r : Nat ×
      Nat × (Word → Word) × Instr, r ∈ vec1Rows c vd va g ∧ SlotReady s c 2 (vecWord r.1 (vd.val) (va.val) 0 0 0 0 0 false g) j i ∧
      (s.atTurn c j i).readV j i va.val = (a, u)) ∧
    (∃ c : CluAt, ∃ vd : Fin 32, ∃ va : Fin 32, ∃ vb : Fin 32, ∃ g : VSig, ∃ j : Nat, ∃ i : Nat, ∃ s : State, ∃ u : State, ∃ a :
      Vec, ∃ r : Nat × Nat × (Word → Word → Word) × Instr × Instr, r ∈ reduceRows c vd va vb g ∧ SlotReady s c 2 (vecWord r.1
      (vd.val) (va.val) 0 0 0 0 0 false g) j i ∧ (s.atTurn c j i).readV j i va.val = (a, u)) ∧
    (∃ c : CluAt, ∃ vd : Fin 32, ∃ va : Fin 32, ∃ vb : Fin 32, ∃ g : VSig, ∃ j : Nat, ∃ i : Nat, ∃ s : State, ∃ u : State, ∃ v :
      State, ∃ a : Vec, ∃ b : Vec, ∃ r : Nat × Nat × (Word → Word → Word) × Instr × Instr, r ∈ reduceRows c vd va vb g ∧ SlotReady s
      c 2 (vecWord r.2.1 (vd.val) (va.val) (vb.val) 0 0 0 0 false g) j i ∧ (s.atTurn c j i).readV j i va.val = (a, u) ∧ u.readV j i
      vb.val = (b, v)) ∧
    (∃ c : CluAt, ∃ vd : Fin 32, ∃ va : Fin 32, ∃ vb : Fin 32, ∃ vc : Fin 32, ∃ g : VSig, ∃ j : Nat, ∃ i : Nat, ∃ s : State, ∃ u :
      State, ∃ v : State, ∃ w : State, ∃ a : Vec, ∃ b : Vec, ∃ m : Vec, SlotReady s c 2 (vecWord 14 (vd.val) (va.val) (vb.val)
      (vc.val) 0 0 0 false g) j i ∧ (s.atTurn c j i).readV j i va.val = (a, u) ∧ u.readV j i vb.val = (b, v) ∧ v.readV j i vc.val =
      (m, w)) ∧
    (∃ c : CluAt, ∃ vd : Fin 32, ∃ sx : Fin 64, ∃ g : VSig, ∃ j : Nat, ∃ i : Nat, ∃ s : State, ∃ u : State, ∃ x : DWord, (s.atTurn c
      j i).readS j i sx.val = (x, u) ∧ SlotReady s c 2 (vecWord 15 (vd.val) 0 0 0 (sx.val) 0 0 false g) j i) ∧
    (∃ c : CluAt, ∃ vd : Fin 32, ∃ sx : Fin 64, ∃ g : VSig, ∃ j : Nat, ∃ i : Nat, ∃ s : State, ∃ u : State, ∃ x : DWord, (s.atTurn c
      j i).readS j i sx.val = (x, u) ∧ SlotReady s c 2 (vecWord 23 (vd.val) 0 0 0 (sx.val) 0 0 false g) j i) ∧
    (∃ c : CluAt, ∃ vd : Fin 32, ∃ va : Fin 32, ∃ vb : Fin 32, ∃ vc : Fin 32, ∃ sx : Fin 64, ∃ g : VSig, ∃ j : Nat, ∃ i : Nat, ∃ s :
      State, ∃ u : State, ∃ v : State, ∃ w : State, ∃ a : Vec, ∃ b : Vec, ∃ k : DWord, SlotReady s c 2 (vecWord 32 (vd.val) (va.val)
      (vb.val) (vc.val) (sx.val) 0 0 false g) j i ∧ (s.atTurn c j i).readV j i va.val = (a, u) ∧ u.readV j i vb.val = (b, v) ∧
      v.readS j i sx.val = (k, w) ∧ 1 ≤ BitVec.toNat k ∧ BitVec.toNat k ≤ 256) ∧
    (∃ c : CluAt, ∃ vd : Fin 32, ∃ va : Fin 32, ∃ vb : Fin 32, ∃ vc : Fin 32, ∃ sx : Fin 64, ∃ g : VSig, ∃ j : Nat, ∃ i : Nat, ∃ s :
      State, ∃ u : State, ∃ v : State, ∃ w : State, ∃ y : State, ∃ z : State, ∃ a : Vec, ∃ b : Vec, ∃ d : Vec, ∃ e : Vec, ∃ k :
      DWord, SlotReady s c 2 (vecWord 33 (vd.val) (va.val) (vb.val) (vc.val) (sx.val) 0 0 false g) j i ∧ (s.atTurn c j i).readV j i
      va.val = (a, u) ∧ u.readV j i vb.val = (b, v) ∧ v.readV j i vd.val = (d, w) ∧ w.readV j i vc.val = (e, y) ∧ y.readS j i sx.val
      = (k, z) ∧ 1 ≤ BitVec.toNat k ∧ BitVec.toNat k ≤ 256) ∧
    (∃ c : CluAt, ∃ vd : Fin 32, ∃ sx : Fin 64, ∃ n : Fin 32, ∃ g : VSig, ∃ j : Nat, ∃ i : Nat, ∃ s : State, ∃ u : State, ∃ v :
      State, ∃ w : State, ∃ row : DWord, ∃ d : BitVec 128, ∃ bs : List Byte, SlotReady s c 2 (vecWord 48 (vd.val) 0 0 0 (sx.val) 0
      (n.val) false g) j i ∧ (s.atTurn c j i).readS j i sx.val = (row, u) ∧ u.readT j i n.val = (d, v) ∧ tileUsable d = true ∧
      tileAligned d = true ∧ isMx (tFmt d) = false ∧ v.readStg j i unitVector (rowSpan d (BitVec.toNat row) (min 256 (tCols d))) =
      (bs, w)) ∧
    (∃ c : CluAt, ∃ vd : Fin 32, ∃ sx : Fin 64, ∃ n : Fin 32, ∃ sy : Fin 64, ∃ g : VSig, ∃ j : Nat, ∃ i : Nat, ∃ s : State, ∃ u :
      State, ∃ v : State, ∃ w : State, ∃ row : DWord, ∃ d : BitVec 128, ∃ a : Vec, SlotReady s c 2 (vecWord 49 (vd.val) 0 0 0
      (sx.val) (sy.val) (n.val) false g) j i ∧ (s.atTurn c j i).readS j i sx.val = (row, u) ∧ u.readT j i n.val = (d, v) ∧ v.readV j
      i vd.val = (a, w)) ∧
    (∃ c : CluAt, ∃ j : Nat, ∃ i : Nat, ∃ p : VecPend, ∃ r : List VecPend, ∃ s : State, (s.clu ↑c.hub ↑c.cluster).resident = some
      (j, i) ∧ (s.lc j i).vec = p :: r ∧ s.fatal = false ∧ p.tainted = false) :=
  ⟨⟨⟨0, 0⟩, 1, 2, 3, tG, 0, 0, run 2 (vecWord 0x01 1 2 3 0 0 0 0 false tG) {}, _, _, _, _, ((0x01, f32Add, .fadd ⟨0, 0⟩ 1 2 3 tG) :
    Nat × (Word → Word → Word) × Instr), by unfold vec2Rows; exact List.mem_cons_self, by unfold SlotReady; decide +kernel, prod_eta
    _, prod_eta _⟩,
   ⟨⟨0, 0⟩, 1, 2, tG, 0, 0, run 2 (vecWord 0x10 1 2 0 0 0 0 0 false tG) {}, _, _, ((0x10, 16, f32Exp, .exp ⟨0, 0⟩ 1 2 tG) : Nat ×
     Nat × (Word → Word) × Instr), by unfold vec1Rows; exact List.mem_cons_self, by unfold SlotReady; decide +kernel, prod_eta _⟩,
   ⟨⟨0, 0⟩, 1, 2, 3, tG, 0, 0, run 2 (vecWord 0x18 1 2 0 0 0 0 0 false tG) {}, (((run 2 (vecWord 0x18 1 2 0 0 0 0 0 false tG)
     {}).atTurn (⟨0, 0⟩ : CluAt) (0 : Nat) (0 : Nat)).readV (0 : Nat) (0 : Nat) (2 : Fin 32)).2, 0, ((0x18, 0x19, f32Add, .rsum ⟨0,
     0⟩ 1 2 tG, .rsuma ⟨0, 0⟩ 1 2 3 tG) : _), by unfold reduceRows; exact List.mem_cons_self, by unfold SlotReady; decide +kernel,
     by decide +kernel⟩,
   ⟨⟨0, 0⟩, 1, 2, 3, tG, 0, 0, run 2 (vecWord 0x19 1 2 3 0 0 0 0 false tG) {}, (((run 2 (vecWord 0x19 1 2 3 0 0 0 0 false tG)
     {}).atTurn (⟨0, 0⟩ : CluAt) (0 : Nat) (0 : Nat)).readV (0 : Nat) (0 : Nat) (2 : Fin 32)).2, (((((run 2 (vecWord 0x19 1 2 3 0 0
     0 0 false tG) {}).atTurn (⟨0, 0⟩ : CluAt) (0 : Nat) (0 : Nat)).readV (0 : Nat) (0 : Nat) (2 : Fin 32)).2 : State).readV (0 :
     Nat) (0 : Nat) (3 : Fin 32)).2, 0, 0, ((0x18, 0x19, f32Add, .rsum ⟨0, 0⟩ 1 2 tG, .rsuma ⟨0, 0⟩ 1 2 3 tG) : _),
     by unfold reduceRows; exact List.mem_cons_self, by unfold SlotReady; decide +kernel, by decide +kernel⟩,
   ⟨⟨0, 0⟩, 1, 2, 3, 4, tG, 0, 0, run 2 (vecWord 0x0E 1 2 3 4 0 0 0 false tG) {}, _, _, _, _, _, _,
     by unfold SlotReady; decide +kernel, prod_eta _, prod_eta _, prod_eta _⟩,
   ⟨⟨0, 0⟩, 1, 1, tG, 0, 0, run 2 (vecWord 15 1 0 0 0 1 0 0 false tG) {}, _, _, prod_eta _, by unfold SlotReady; decide +kernel⟩,
   ⟨⟨0, 0⟩, 1, 1, tG, 0, 0, run 2 (vecWord 0x17 1 0 0 0 1 0 0 false tG) {}, _, _, prod_eta _, by unfold SlotReady; decide +kernel⟩,
   ⟨⟨0, 0⟩, 1, 2, 3, 4, 1, tG, 0, 0, run 2 (vecWord 0x20 1 2 3 4 1 0 0 false tG) { regs := { s := [(1, 256)] } }, _, _, _, _, _, _,
     by unfold SlotReady; decide +kernel, prod_eta _, prod_eta _, prod_eta _, by decide +kernel⟩,
   ⟨⟨0, 0⟩, 1, 2, 3, 4, 1, tG, 0, 0, run 2 (vecWord 0x21 1 2 3 4 1 0 0 false tG) { regs := { s := [(1, 1)] } }, _, _, _, _, _, _, _,
     _, _, _, by unfold SlotReady; decide +kernel, prod_eta _, prod_eta _, prod_eta _, prod_eta _, prod_eta _, by decide +kernel⟩,
   ⟨⟨0, 0⟩, 1, 1, 5, tG, 0, 0, run 2 (vecWord 0x30 1 0 0 0 1 0 5 false tG)
     { regs := { t := [(5, 0x00000040000000000000000000000000#128)] } }, _, _, _, _, _, _, by unfold SlotReady; decide +kernel,
     prod_eta _, prod_eta _, three (by decide +kernel) (prod_eta _)⟩,
   ⟨⟨0, 0⟩, 1, 1, 5, 2, tG, 0, 0, run 2 (vecWord 0x31 1 0 0 0 1 2 5 false tG) {}, _, _, _, _, _, _,
     by unfold SlotReady; decide +kernel, prod_eta _, prod_eta _, prod_eta _⟩,
   ⟨⟨0, 0⟩, 0, 0, {}, [], run 2 (0) { vec := [{}] }, by decide +kernel⟩⟩
theorem witness_SequencerOperationsComplete :
    (∃ j : Nat, ∃ i : Nat, ∃ n : Nat, ∃ s : State, n ≠ 0 ∧ (s.lc j i).sReady.getD n 0 ≤ (s.lc j i).bundle) ∧
    (∃ j : Nat, ∃ i : Nat, ∃ n : Nat, ∃ s : State, n ≠ 0 ∧ (s.lc j i).bundle < (s.lc j i).sReady.getD n 0) ∧
    (∃ j : Nat, ∃ i : Nat, ∃ n : Nat, ∃ latency : Nat, ∃ s : State, n ≠ 0 ∧ (s.lc j i).sReady.getD n 0 ≤ (s.lc j i).bundle +
      latency) ∧
    (∃ j : Nat, ∃ i : Nat, ∃ n : Nat, ∃ latency : Nat, ∃ s : State, ∃ m : Nat, n ≠ 0 ∧ (s.lc j i).sReady.getD n 0 ≤ (s.lc j
      i).bundle + latency ∧ m ≠ n) ∧
    (∃ c : CluAt, ∃ d : Fin 64, ∃ a : Fin 64, ∃ b : Fin 64, ∃ j : Nat, ∃ i : Nat, ∃ s : State, ∃ u : State, ∃ v : State, ∃ x :
      DWord, ∃ y : DWord, ∃ r : Nat × Nat × (DWord → DWord → DWord) × Instr, (s.atTurn c j i).readS j i a.val = (x, u) ∧ u.readS j i
      b.val = (y, v) ∧ r ∈ ctlRows c d a b ∧ SlotReady s c 3 (ctlWord r.1 (d.val) (a.val) (b.val) 0) j i) ∧
    (∃ c : CluAt, ∃ d : Fin 64, ∃ a : Fin 64, ∃ b : Fin 64, ∃ j : Nat, ∃ i : Nat, ∃ s : State, ∃ u : State, ∃ v : State, ∃ x :
      DWord, ∃ y : DWord, ∃ imm : Word, (s.atTurn c j i).readS j i a.val = (x, u) ∧ u.readS j i b.val = (y, v) ∧ SlotReady s c 3
      (ctlWord 1 (d.val) (a.val) (b.val) imm) j i) ∧
    (∃ c : CluAt, ∃ d : Fin 64, ∃ a : Fin 64, ∃ b : Fin 64, ∃ j : Nat, ∃ i : Nat, ∃ s : State, ∃ u : State, ∃ v : State, ∃ x :
      DWord, ∃ y : DWord, ∃ imm : Word, ∃ r : Nat × (DWord → Nat → DWord) × Instr, (s.atTurn c j i).readS j i a.val = (x, u) ∧
      u.readS j i b.val = (y, v) ∧ r ∈ shiftRows c d a b imm ∧ SlotReady s c 3 (ctlWord r.1 (d.val) (a.val) (b.val) imm) j i) ∧
    (∃ c : CluAt, ∃ a : Fin 64, ∃ b : Fin 64, ∃ j : Nat, ∃ i : Nat, ∃ s : State, ∃ u : State, ∃ v : State, ∃ x : DWord, ∃ y : DWord,
      ∃ t : BitVec 14, ∃ r : Nat × (DWord → DWord → Bool) × Instr, (s.atTurn c j i).readS j i a.val = (x, u) ∧ u.readS j i b.val =
      (y, v) ∧ r ∈ branchRows c a b t ∧ SlotReady s c 3 (ctlWord r.1 0 (a.val) (b.val) (BitVec.setWidth 32 t)) j i) ∧
    (∃ c : CluAt, ∃ d : Fin 64, ∃ imm : Word, ∃ j : Nat, ∃ i : Nat, ∃ s : State, ∃ u : State, ∃ x : DWord, (s.atTurn c j i).readS j
      i d.val = (x, u) ∧ SlotReady s c 3 (ctlWord 12 (d.val) 0 0 imm) j i) ∧
    (∃ c : CluAt, ∃ d : Fin 64, ∃ imm : Word, ∃ j : Nat, ∃ i : Nat, ∃ s : State, ∃ u : State, ∃ x : DWord, (s.atTurn c j i).readS j
      i d.val = (x, u) ∧ SlotReady s c 3 (ctlWord 13 (d.val) 0 0 imm) j i) ∧
    (∃ c : CluAt, ∃ d : Fin 16, ∃ a : Fin 64, ∃ imm : Word, ∃ j : Nat, ∃ i : Nat, ∃ s : State, ∃ u : State, ∃ x : DWord, (s.atTurn c
      j i).readS j i a.val = (x, u) ∧ SlotReady s c 3 (ctlWord 16 (d.val) (a.val) 0 imm) j i) ∧
    (∃ c : CluAt, ∃ d : Fin 16, ∃ a : Fin 64, ∃ imm : Word, ∃ j : Nat, ∃ i : Nat, ∃ s : State, ∃ u : State, ∃ x : DWord, ∃ e : Fin
      16, (s.atTurn c j i).readS j i a.val = (x, u) ∧ SlotReady s c 3 (ctlWord 17 (d.val) (e.val) (a.val) imm) j i) ∧
    (∃ c : CluAt, ∃ d : Fin 64, ∃ a : Fin 16, ∃ j : Nat, ∃ i : Nat, ∃ s : State, SlotReady s c 3 (ctlWord 18 (d.val) (a.val) 0 0) j
      i) ∧
    (∃ c : CluAt, ∃ t : BitVec 14, ∃ j : Nat, ∃ i : Nat, ∃ s : State, SlotReady s c 3 (ctlWord 32 0 0 0 (BitVec.setWidth 32 t)) j i)
      ∧
    (∃ c : CluAt, ∃ d : Fin 64, ∃ t : BitVec 14, ∃ j : Nat, ∃ i : Nat, ∃ s : State, ∃ u : State, ∃ x : DWord, SlotReady s c 3
      (ctlWord 37 (d.val) 0 0 (BitVec.setWidth 32 t)) j i ∧ (s.atTurn c j i).readS j i d.val = (x, u)) ∧
    (∃ c : CluAt, ∃ d : Fin 64, ∃ n : Fin 8, ∃ j : Nat, ∃ i : Nat, ∃ s : State, SlotReady s c 3 (ctlWord 58 (d.val) 0 0
      (BitVec.ofNat 32 n.val)) j i) ∧
    (∃ c : CluAt, ∃ d : Fin 32, ∃ a : Fin 32, ∃ b : Fin 64, ∃ imm : Word, ∃ j : Nat, ∃ i : Nat, ∃ s : State, ∃ u : State, ∃ v :
      State, ∃ x : BitVec 128, ∃ y : DWord, SlotReady s c 3 (ctlWord 68 (d.val) (a.val) (b.val) imm) j i ∧ (s.atTurn c j i).readT j
      i a.val = (x, u) ∧ u.readS j i b.val = (y, v)) ∧
    (∃ j : Nat, ∃ i : Nat, ∃ slot : Nat, ∃ b : List DWord, ∃ v : State, (v.lc j i).late = none ∧ ((liveSlots b).all fun q => ((v.lc
      j i).slots ||| BitVec.ofNat 4 (2 ^ slot)).getLsbD q) = true) :=
  ⟨⟨0, 0, 1, up, by decide +kernel⟩,
   ⟨0, 0, 1, { up with lcs := [(lcKey 0 0, { sReady := [(1, 5)], bundle := 2 })] }, by decide +kernel⟩,
   ⟨0, 0, 1, 3, up, by decide +kernel⟩,
   ⟨0, 0, 1, 3, up, 2, by decide +kernel⟩,
   ⟨⟨0, 0⟩, 1, 2, 3, 0, 0, run 3 (ctlWord 0x02 1 2 3 0) {}, _, _, _, _, ((0x02, 1, (fun p_ q_ => p_ - q_), .sub ⟨0, 0⟩ 1 2 3) : Nat
     × Nat × (DWord → DWord → DWord) × Instr), prod_eta _, prod_eta _, by unfold ctlRows; exact List.mem_cons_self,
     by unfold SlotReady; decide +kernel⟩,
   ⟨⟨0, 0⟩, 1, 2, 3, 0, 0, run 3 (ctlWord 0x01 1 2 3 8) {}, _, _, _, _, 8, prod_eta _, prod_eta _,
     by unfold SlotReady; decide +kernel⟩,
   ⟨⟨0, 0⟩, 1, 2, 3, 0, 0, run 3 (ctlWord 0x07 1 2 3 8) {}, _, _, _, _, 8, ((0x07, (fun p_ q_ => p_ <<< q_), .shl ⟨0, 0⟩ 1 2 3 8) :
     Nat × (DWord → Nat → DWord) × Instr), prod_eta _, prod_eta _, by unfold shiftRows; exact List.mem_cons_self,
     by unfold SlotReady; decide +kernel⟩,
   ⟨⟨0, 0⟩, 2, 3, 0, 0, run 3 (ctlWord 0x21 0 2 3 (BitVec.setWidth 32 (2 : BitVec 14))) {}, _, _, _, _, 2, ((0x21, (fun p_ q_ => p_
     == q_), .beq ⟨0, 0⟩ 2 3 2) : Nat × (DWord → DWord → Bool) × Instr), prod_eta _, prod_eta _,
     by unfold branchRows; exact List.mem_cons_self, by unfold SlotReady; decide +kernel⟩,
   ⟨⟨0, 0⟩, 1, 8, 0, 0, run 3 (ctlWord 12 1 0 0 8) {}, _, _, prod_eta _, by unfold SlotReady; decide +kernel⟩,
   ⟨⟨0, 0⟩, 1, 8, 0, 0, run 3 (ctlWord 0x0D 1 0 0 8) {}, _, _, prod_eta _, by unfold SlotReady; decide +kernel⟩,
   ⟨⟨0, 0⟩, 1, 2, 8, 0, 0, run 3 (ctlWord 0x10 1 2 0 8) {}, _, _, prod_eta _, by unfold SlotReady; decide +kernel⟩,
   ⟨⟨0, 0⟩, 1, 2, 8, 0, 0, run 3 (ctlWord 0x11 1 4 2 8) {}, _, _, 4, prod_eta _, by unfold SlotReady; decide +kernel⟩,
   ⟨⟨0, 0⟩, 1, 2, 0, 0, run 3 (ctlWord 0x12 1 2 0 0) {}, by unfold SlotReady; decide +kernel⟩,
   ⟨⟨0, 0⟩, 2, 0, 0, run 3 (ctlWord 0x20 0 0 0 2) {}, by unfold SlotReady; decide +kernel⟩,
   ⟨⟨0, 0⟩, 1, 2, 0, 0, run 3 (ctlWord 0x25 1 0 0 2) {}, _, _, by unfold SlotReady; decide +kernel, prod_eta _⟩,
   ⟨⟨0, 0⟩, 1, 1, 0, 0, run 3 (ctlWord 0x3A 1 0 0 1) {}, by unfold SlotReady; decide +kernel⟩,
   ⟨⟨0, 0⟩, 1, 2, 3, 8, 0, 0, run 3 (ctlWord 0x44 1 2 3 8) {}, _, _, _, _, by unfold SlotReady; decide +kernel, prod_eta _, prod_eta
     _⟩,
   ⟨0, 0, 0, [5, 0, 0, 0], up, by decide +kernel⟩⟩
theorem witness_SequencerLoadsAndStores :
    (∃ c : CluAt, ∃ d : Fin 64, ∃ a : Fin 64, ∃ imm : Word, ∃ j : Nat, ∃ i : Nat, ∃ s : State, ∃ u : State, ∃ v : State, ∃ x :
      DWord, ∃ b : List Byte, SlotReady s c 3 (ctlWord 64 (d.val) (a.val) 0 imm) j i ∧ (s.atTurn c j i).readS j i a.val = (x, u) ∧
      BitVec.toNat (x + BitVec.signExtend 64 imm) % 8 = 0 ∧ u.readStg j i unitSeq
      {lo := BitVec.toNat (x + BitVec.signExtend 64 imm), len := 8} = (b, v)) ∧
    (∃ c : CluAt, ∃ a : Fin 64, ∃ b : Fin 64, ∃ imm : Word, ∃ j : Nat, ∃ i : Nat, ∃ s : State, ∃ u : State, ∃ v : State, ∃ x :
      DWord, ∃ y : DWord, SlotReady s c 3 (ctlWord 65 0 (a.val) (b.val) imm) j i ∧ (s.atTurn c j i).readS j i b.val = (y, u) ∧
      u.readS j i a.val = (x, v) ∧ BitVec.toNat (x + BitVec.signExtend 64 imm) % 8 = 0 ∧ (v.lc j i).writeHazard unitSeq
      {lo := BitVec.toNat (x + BitVec.signExtend 64 imm), len := 8} = false) ∧
    (∃ c : CluAt, ∃ d : Fin 32, ∃ a : Fin 64, ∃ imm : Word, ∃ j : Nat, ∃ i : Nat, ∃ s : State, ∃ u : State, ∃ v : State, ∃ x :
      DWord, ∃ b : List Byte, SlotReady s c 3 (ctlWord 66 (d.val) (a.val) 0 imm) j i ∧ (s.atTurn c j i).readS j i a.val = (x, u) ∧
      BitVec.toNat (x + BitVec.signExtend 64 imm) % 16 = 0 ∧ u.readStg j i unitSeq
      {lo := BitVec.toNat (x + BitVec.signExtend 64 imm), len := 16} = (b, v)) ∧
    (∃ c : CluAt, ∃ a : Fin 64, ∃ b : Fin 32, ∃ imm : Word, ∃ j : Nat, ∃ i : Nat, ∃ s : State, ∃ u : State, ∃ v : State, ∃ x :
      DWord, ∃ y : BitVec 128, SlotReady s c 3 (ctlWord 67 0 (a.val) (b.val) imm) j i ∧ (s.atTurn c j i).readT j i b.val = (y, u) ∧
      u.readS j i a.val = (x, v) ∧ BitVec.toNat (x + BitVec.signExtend 64 imm) % 16 = 0 ∧ (v.lc j i).writeHazard unitSeq
      {lo := BitVec.toNat (x + BitVec.signExtend 64 imm), len := 16} = false) ∧
    (∃ c : CluAt, ∃ d : Fin 64, ∃ a : Fin 64, ∃ imm : Word, ∃ j : Nat, ∃ i : Nat, ∃ s : State, ∃ u : State, ∃ x : DWord, SlotReady s
      c 3 (ctlWord 64 (d.val) (a.val) 0 imm) j i ∧ (s.atTurn c j i).readS j i a.val = (x, u) ∧ BitVec.toNat (x + BitVec.signExtend
      64 imm) % 8 ≠ 0) ∧
    (∃ j : Nat, ∃ i : Nat, ∃ unit : Nat, ∃ sp : Span, ∃ s : State, sp.lo + sp.len ≤ stagingTop ∧ (s.lc j i).readHazard (imgStaging
      (s.job j).image) unit sp = false) :=
  ⟨⟨⟨0, 0⟩, 1, 2, 16, 0, 0, run 3 (ctlWord 0x40 1 2 0 16) {}, _, _, _, _, by unfold SlotReady; decide +kernel, prod_eta _,
    by decide +kernel, prod_eta _⟩,
   ⟨⟨0, 0⟩, 2, 3, 16, 0, 0, run 3 (ctlWord 0x41 0 2 3 16) {}, _, _, _, _, by unfold SlotReady; decide +kernel, prod_eta _, prod_eta
     _, by decide +kernel⟩,
   ⟨⟨0, 0⟩, 1, 2, 16, 0, 0, run 3 (ctlWord 0x42 1 2 0 16) {}, _, _, _, _, by unfold SlotReady; decide +kernel, prod_eta _,
     by decide +kernel, prod_eta _⟩,
   ⟨⟨0, 0⟩, 2, 3, 16, 0, 0, run 3 (ctlWord 0x43 0 2 3 16) {}, _, _, _, _, by unfold SlotReady; decide +kernel, prod_eta _, prod_eta
     _, by decide +kernel⟩,
   ⟨⟨0, 0⟩, 1, 2, 4, 0, 0, run 3 (ctlWord 0x40 1 2 0 4) {}, _, _, by unfold SlotReady; decide +kernel, prod_eta _,
     by decide +kernel⟩,
   ⟨0, 0, 0, ⟨0, 8⟩, run 3 (ctlWord 0x40 1 2 0 16) {}, by decide +kernel⟩⟩
theorem witness_SequencerSynchronises :
    (∃ c : CluAt, ∃ sem : Fin 32, ∃ n : BitVec 16, ∃ j : Nat, ∃ i : Nat, ∃ s : State, SlotReady s c 3 (ctlWord 48 (sem.val) 0 0
      (BitVec.setWidth 32 n)) j i) ∧
    (∃ c : CluAt, ∃ sem : Fin 32, ∃ n : BitVec 16, ∃ j : Nat, ∃ i : Nat, ∃ s : State, SlotReady s c 3 (ctlWord 49 (sem.val) 0 0
      (BitVec.setWidth 32 n)) j i) ∧
    (∃ j : Nat, ∃ i : Nat, ∃ k : Nat, ∃ n : Nat, ∃ s : State, ((s.lc j i).regs.sem.getD k 0).toNat + n < 65536) ∧
    (∃ c : CluAt, ∃ j : Nat, ∃ i : Nat, ∃ s : State, SlotReady s c 3 (ctlWord 50 0 0 0 0) j i) ∧
    (∃ c : CluAt, ∃ d : Fin 64, ∃ e : BitVec 12, ∃ j : Nat, ∃ i : Nat, ∃ n : Nat, ∃ s : State, SlotReady s c 3 (ctlWord 51 (d.val) 0
      0 (BitVec.setWidth 32 e)) j i ∧ gateOf ((s.atTurn c j i).job j).image e.toNat = some n ∧ bytesAt (imgGate ((s.atTurn c j
      i).job j).image n) 4 2 = i) ∧
    (∃ c : CluAt, ∃ d : Fin 64, ∃ e : BitVec 12, ∃ j : Nat, ∃ i : Nat, ∃ s : State, SlotReady s c 3 (ctlWord 51 (d.val) 0 0
      (BitVec.setWidth 32 e)) j i ∧ gateOf ((s.atTurn c j i).job j).image e.toNat = none) ∧
    (∃ c : CluAt, ∃ n : Word, ∃ j : Nat, ∃ i : Nat, ∃ s : State, SlotReady s c 3 (ctlWord 56 0 0 0 n) j i ∧ ((s.atTurn c j i).lc j
      i).quiet = true ∧ BitVec.toNat n = ((s.atTurn c j i).job j).step ∧ BitVec.toNat n + 1 < imgSteps ((s.atTurn c j i).job
      j).image) ∧
    (∃ c : CluAt, ∃ n : Word, ∃ j : Nat, ∃ i : Nat, ∃ s : State, SlotReady s c 3 (ctlWord 56 0 0 0 n) j i ∧ ((s.atTurn c j i).lc j
      i).quiet = true ∧ (BitVec.toNat n ≠ ((s.atTurn c j i).job j).step ∨ imgSteps ((s.atTurn c j i).job j).image ≤ BitVec.toNat n +
      1)) ∧
    (∃ c : CluAt, ∃ j : Nat, ∃ i : Nat, ∃ s : State, SlotReady s c 3 (ctlWord 57 0 0 0 0) j i ∧ ((s.atTurn c j i).lc j i).quiet =
      true) ∧
    (∃ c : CluAt, ∃ code : BitVec 16, ∃ j : Nat, ∃ i : Nat, ∃ s : State, SlotReady s c 3 (ctlWord 59 0 0 0 (BitVec.setWidth 32
      code)) j i) :=
  ⟨⟨⟨0, 0⟩, 1, 5, 0, 0, run 3 (ctlWord 48 1 0 0 5) {}, by unfold SlotReady; decide +kernel⟩,
   ⟨⟨0, 0⟩, 1, 5, 0, 0, run 3 (ctlWord 0x31 1 0 0 5) {}, by unfold SlotReady; decide +kernel⟩,
   ⟨0, 0, 0, 1, up, by decide +kernel⟩,
   ⟨⟨0, 0⟩, 0, 0, run 3 (ctlWord 0x32 0 0 0 0) {}, by unfold SlotReady; decide +kernel⟩,
   ⟨⟨0, 0⟩, 1, 3, 0, 0, 1, run 3 (ctlWord 0x33 1 0 0 3) {}, by unfold SlotReady; decide +kernel, by decide +kernel⟩,
   ⟨⟨0, 0⟩, 1, 9, 0, 0, run 3 (ctlWord 0x33 1 0 0 9) {}, by unfold SlotReady; decide +kernel, by decide +kernel⟩,
   ⟨⟨0, 0⟩, 0, 0, 0, run 3 (ctlWord 0x38 0 0 0 0) {}, by unfold SlotReady; decide +kernel, by decide +kernel⟩,
   ⟨⟨0, 0⟩, 1, 0, 0, run 3 (ctlWord 0x38 0 0 0 1) {}, by unfold SlotReady; decide +kernel, by decide +kernel⟩,
   ⟨⟨0, 0⟩, 0, 0, run 3 (ctlWord 0x39 0 0 0 0) {}, by unfold SlotReady; decide +kernel, by decide +kernel⟩,
   ⟨⟨0, 0⟩, 7, 0, 0, run 3 (ctlWord 0x3B 0 0 0 7) {}, by unfold SlotReady; decide +kernel⟩⟩
theorem witness_StreamAndMatrixCommandsComplete :
    (∃ c : CluAt, ∃ q : Fin 8, ∃ a : Fin 16, ∃ sx : Fin 64, ∃ g : VSig, ∃ j : Nat, ∃ i : Nat, ∃ s : State, ∃ u : State, ∃ v : State,
      ∃ p : DWord, ∃ d : StreamDesc, SlotReady s c 0 (moveWord 1 (q.val) (a.val) (sx.val) (↑g.sem) g.sig) j i ∧ (((s.atTurn c j
      i).lc j i).streams.getD q.val []).length < 16 ∧ ((s.atTurn c j i).lcGoes (↑c.hub) (↑c.cluster) (BitVec.ofNat 16 q.val)).readS
      j i sx.val = (p, u) ∧ u.copyDesc j i (q.val) (u.readA j i a.val) p g = (d, v)) ∧
    (∃ c : CluAt, ∃ q : Fin 8, ∃ a : Fin 16, ∃ sx : Fin 64, ∃ g : VSig, ∃ j : Nat, ∃ i : Nat, ∃ s : State, SlotReady s c 0 (moveWord
      1 (q.val) (a.val) (sx.val) (↑g.sem) g.sig) j i ∧ 16 ≤ (((s.atTurn c j i).lc j i).streams.getD q.val []).length) ∧
    (∃ c : CluAt, ∃ q : Fin 8, ∃ j : Nat, ∃ i : Nat, ∃ s : State, ∃ d : StreamDesc, (s.clu ↑c.hub ↑c.cluster).resident = some (j, i)
      ∧ (s.lc j i).head q.val = some d ∧ s.fatal = false ∧ d.bad = false ∧ d.started = true ∧ ∀ x ∈ List.map (s.segStatus d.write)
      d.segs, x = some PStatus.ok) ∧
    (∃ c : CluAt, ∃ q : Fin 8, ∃ j : Nat, ∃ i : Nat, ∃ s : State, ∃ d : StreamDesc, (s.clu ↑c.hub ↑c.cluster).resident = some (j, i)
      ∧ (s.lc j i).head q.val = some d ∧ s.fatal = false ∧ d.bad = false ∧ d.started = true ∧ d.free = false ∧ (∀ x ∈ List.map
      (s.segStatus d.write) d.segs, x ≠ none ∧ x ≠ some PStatus.retry) ∧ ∃ x ∈ List.map (s.segStatus d.write) d.segs, x ≠ some
      PStatus.ok) ∧
    (∃ c : CluAt, ∃ q : Fin 8, ∃ j : Nat, ∃ i : Nat, ∃ s : State, ∃ d : StreamDesc, (s.clu ↑c.hub ↑c.cluster).resident = some (j, i)
      ∧ (s.lc j i).head q.val = some d ∧ s.fatal = false ∧ d.bad = false) ∧
    (∃ c : CluAt, ∃ tw : Fin 32, ∃ buf : Bool, ∃ sp : Fin 3, ∃ g : VSig, ∃ j : Nat, ∃ i : Nat, ∃ s : State, ∃ u : State, ∃ x :
      BitVec 128, SlotReady s c 1 (wloadWord (tw.val) buf (sp.val) (↑g.sem) g.sig) j i ∧ ((s.atTurn c j i).lc j i).mat.length < 4 ∧
      (s.atTurn c j i).readT j i tw.val = (x, u)) ∧
    (∃ c : CluAt, ∃ ta : Fin 32, ∃ out : Fin 32, ∃ ti : Fin 32, ∃ useInit : Bool, ∃ buf : Bool, ∃ zskip : Bool, ∃ g : VSig, ∃ j :
      Nat, ∃ i : Nat, ∃ s : State, ∃ u : State, ∃ ts : List (BitVec 128), SlotReady s c 1 (mmaWord (ta.val) (out.val) (ti.val)
      useInit buf zskip (↑g.sem) g.sig) j i ∧ ((s.atTurn c j i).lc j i).mat.length < 4 ∧ (s.atTurn c j i).readTs j i (if useInit =
      true then [ta.val, out.val, ti.val] else [ta.val, out.val]) = (ts, u)) ∧
    (∃ c : CluAt, ∃ tw : Fin 32, ∃ buf : Bool, ∃ sp : Fin 3, ∃ g : VSig, ∃ j : Nat, ∃ i : Nat, ∃ s : State, SlotReady s c 1
      (wloadWord (tw.val) buf (sp.val) (↑g.sem) g.sig) j i ∧ 4 ≤ ((s.atTurn c j i).lc j i).mat.length) ∧
    (∃ c : CluAt, ∃ j : Nat, ∃ i : Nat, ∃ s : State, ∃ m : MatIss, ∃ r : List MatIss, ∃ t : BitVec 128, ∃ buf : Bool, ∃ sp : BitVec
      2, (s.clu ↑c.hub ↑c.cluster).resident = some (j, i) ∧ (s.lc j i).mat = m :: r ∧ s.fatal = false ∧ m.op = MatOp.wload t buf sp)
      ∧
    (∃ c : CluAt, ∃ j : Nat, ∃ i : Nat, ∃ s : State, ∃ m : MatIss, ∃ r : List MatIss, ∃ ta : BitVec 128, ∃ out : BitVec 128, ∃ ti :
      BitVec 128, ∃ useInit : Bool, ∃ buf : Bool, ∃ zskip : Bool, (s.clu ↑c.hub ↑c.cluster).resident = some (j, i) ∧ (s.lc j i).mat
      = m :: r ∧ s.fatal = false ∧ m.op = MatOp.mma ta out ti useInit buf zskip) ∧
    (∃ t : BitVec 128, ∃ sp : Nat, wShapeOk t sp = false) ∧
    (∃ j : Nat, ∃ i : Nat, ∃ m : MatIss, ∃ t : BitVec 128, ∃ sp : Nat, ∃ s : State, ∃ tile : WTile, ∃ bad : Bool, ∃ u : State,
      wShapeOk t sp = true ∧ (isMx (tFmt t) = true ∨ tFmt t = 1) ∧ (sp = 1 → auxBad t 16 ((tRows t * tCols t + 7) / 8) = false) ∧
      (sp = 2 → auxBad t 64 64 = false) ∧ m.tainted = false ∧ (List.foldl (fun v sp => v.noteRange j i sp) s m.spans).wloadTile j i
      t sp = (tile, bad, u)) ∧
    (∃ sp : Span, sp.lo + sp.len ≤ stagingTop) ∧
    (∃ j : Nat, ∃ i : Nat, ∃ sp : Span, ∃ s : State, ∃ h : Nat, ∃ k : Nat, stagingTop < sp.lo + sp.len ∧ (s.lc j i).place = some (h,
      k)) :=
  ⟨⟨⟨0, 0⟩, 0, 0, 0, tG, 0, 0, run 0 (moveWord 1 0 0 0 0 false) {}, _, _, _, _, by unfold SlotReady; decide +kernel,
    by decide +kernel, prod_eta _, prod_eta _⟩,
   ⟨⟨0, 0⟩, 0, 0, 0, tG, 0, 0, run 0 (moveWord 1 0 0 0 0 false) { streams := [(0, List.replicate 16 tStreamDesc)] },
     by unfold SlotReady; decide +kernel, by decide +kernel⟩,
   ⟨⟨0, 0⟩, 0, 0, 0, run 3 0 { streams := [(0, [{ tStreamDesc with started := true }])] }, _, by decide +kernel, some_getD (d :=
     tStreamDesc) (by decide +kernel), by decide +kernel⟩,
   ⟨⟨0, 0⟩, 0, 0, 0,
     { run 3 0 { streams := [(0, [{ tStreamDesc with started := true, segs := [{ va := 0, bytes := 64, stg := 0, st := .sent 9 }] }])] } with accesses := [(9, accSt .failed)] },
     _, by decide +kernel, some_getD (d := tStreamDesc) (by decide +kernel), by decide +kernel⟩,
   ⟨⟨0, 0⟩, 0, 0, 0, run 3 0 { streams := [(0, [{ tStreamDesc with started := true }])] }, _, by decide +kernel, some_getD (d :=
     tStreamDesc) (by decide +kernel), by decide +kernel⟩,
   ⟨⟨0, 0⟩, 1, false, 0, tG, 0, 0, run 1 (wloadWord 1 false 0 0 false) {}, _, _, by unfold SlotReady; decide +kernel,
     by decide +kernel, prod_eta _⟩,
   ⟨⟨0, 0⟩, 1, 2, 3, false, false, false, tG, 0, 0, run 1 (mmaWord 1 2 3 false false false 0 false) {}, _, _,
     by unfold SlotReady; decide +kernel, by decide +kernel, prod_eta _⟩,
   ⟨⟨0, 0⟩, 1, false, 0, tG, 0, 0, run 1 (wloadWord 1 false 0 0 false) { mat := List.replicate 4 tMatIss },
     by unfold SlotReady; decide +kernel, by decide +kernel⟩,
   ⟨⟨0, 0⟩, 0, 0, run 3 0 { mat := [tMatIss] }, tMatIss, [], 0, false, 0, by decide +kernel⟩,
   ⟨⟨0, 0⟩, 0, 0, run 3 0 { mat := [{ tMatIss with op := .mma 1 2 3 true false false }] },
     { tMatIss with op := .mma 1 2 3 true false false }, [], 1, 2, 3, true, false, false, by decide +kernel⟩,
   ⟨(0xFFF#128 <<< 54), 0, by decide +kernel⟩,
   ⟨0, 0, tMatIss, (1#128 <<< 50), 0, up, _, _, _, by decide +kernel, by decide +kernel, three (by decide +kernel) (prod_eta3 _)⟩,
   ⟨⟨0x17FFFFF, 1⟩, by decide +kernel⟩,
   ⟨0, 0, ⟨0x17FFFFF, 2⟩, run 3 0 {}, 0, 0, by decide +kernel⟩⟩
theorem witness_JobCommandsAreServed :
    (∃ q : BitVec 14, ∃ l : List Medium, ∃ c : Cand, ∃ s : State, ∃ r : Nat × Instr, (s.issuedFrom q.toNat c).jobOf c.slot.entry =
      none ∧ r ∈ jobRows q l ∧ QueueTurn s q.toNat r.1 c) ∧
    (∃ q : BitVec 14, ∃ l : List Medium, ∃ c : Cand, ∃ acc : List Nat, ∃ v : State, ∃ s : State, QueueTurn s q.toNat 64 c ∧
      (s.issuedFrom q.toNat c).hostChunks 2 noJob ((s.issuedFrom q.toNat c).queueHost q.toNat) c.slot.entry.poolAddr.toNat (opB
      c.slot.entry 0 4) false [] l (chunksOf (opB c.slot.entry 0 4)) = (acc, v)) ∧
    (∃ q : BitVec 14, ∃ c : Cand, ∃ j : Nat, ∃ u : State, ∃ s : State, JobTurn s q.toNat 65 c j u ∧ (imgPairs (u.job j).image = true
      ∨ opB c.slot.entry 3 1 = 0 ∧ opB c.slot.entry 4 4 = 0) ∧ (u.job j).state ≠ JState.loaded) ∧
    (∃ q : BitVec 14, ∃ c : Cand, ∃ j : Nat, ∃ u : State, ∃ s : State, JobTurn s q.toNat 65 c j u ∧ (imgPairs (u.job j).image = true
      ∨ opB c.slot.entry 3 1 = 0 ∧ opB c.slot.entry 4 4 = 0) ∧ (u.job j).state = JState.loaded ∧ opB c.slot.entry 8 8 ≠ 0 ∧ (opB
      c.slot.entry 8 8 ≤ u.clk.poolTime.toNat ∨ u.clk.poolTime.toNat + 60000000000 < opB c.slot.entry 8 8)) ∧
    (∃ q : BitVec 14, ∃ c : Cand, ∃ j : Nat, ∃ u : State, ∃ s : State, JobTurn s q.toNat 65 c j u ∧ (imgPairs (u.job j).image = true
      ∨ opB c.slot.entry 3 1 = 0 ∧ opB c.slot.entry 4 4 = 0) ∧ (u.job j).state = JState.loaded ∧ u.clk.poolTime.toNat < opB
      c.slot.entry 8 8 ∧ opB c.slot.entry 8 8 ≤ u.clk.poolTime.toNat + 60000000000 ∧ u.zlg.locked = false) ∧
    (∃ q : BitVec 14, ∃ c : Cand, ∃ j : Nat, ∃ u : State, ∃ s : State, JobTurn s q.toNat 65 c j u ∧ (imgPairs (u.job j).image = true
      ∨ opB c.slot.entry 3 1 = 0 ∧ opB c.slot.entry 4 4 = 0) ∧ (u.job j).state = JState.loaded ∧ (opB c.slot.entry 8 8 = 0 ∨
      u.clk.poolTime.toNat < opB c.slot.entry 8 8 ∧ opB c.slot.entry 8 8 ≤ u.clk.poolTime.toNat + 60000000000 ∧ u.zlg.locked =
      true)) ∧
    (∃ q : BitVec 14, ∃ c : Cand, ∃ j : Nat, ∃ u : State, ∃ s : State, JobTurn s q.toNat 66 c j u) ∧
    (∃ q : BitVec 14, ∃ c : Cand, ∃ j : Nat, ∃ u : State, ∃ s : State, JobTurn s q.toNat 67 c j u) ∧
    (∃ q : BitVec 14, ∃ c : Cand, ∃ j : Nat, ∃ u : State, ∃ s : State, JobTurn s q.toNat 68 c j u) ∧
    (∃ q : BitVec 14, ∃ c : Cand, ∃ j : Nat, ∃ u : State, ∃ s : State, JobTurn s q.toNat 69 c j u) ∧
    (∃ q : BitVec 14, ∃ c : Cand, ∃ j : Nat, ∃ u : State, ∃ s : State, JobTurn s q.toNat 70 c j u ∧ ((u.job j).state = JState.loaded
      ∨ (u.job j).state = JState.launchPending ∨ (u.job j).state = JState.running ∨ (u.job j).state = JState.held)) ∧
    (∃ q : BitVec 14, ∃ c : Cand, ∃ j : Nat, ∃ u : State, ∃ s : State, JobTurn s q.toNat 70 c j u ∧ ((u.job j).state = JState.ended
      ∨ (u.job j).state = JState.faulted)) ∧
    (∃ q : BitVec 14, ∃ c : Cand, ∃ j : Nat, ∃ u : State, ∃ s : State, ∃ x : JLoad, JobTurn s q.toNat 70 c j u ∧ (u.job j).state =
      JState.loading ∧ u.loadOf j = some x) ∧
    (∃ q : BitVec 14, ∃ l : List Medium, ∃ c : Cand, ∃ j : Nat, ∃ u : State, ∃ v : State, ∃ s : State, ∃ acc : List Nat, JobTurn s
      q.toNat 71 c j u ∧ ((u.job j).state = JState.ended ∨ (u.job j).state = JState.faulted) ∧ (u.job j).retiring = false ∧
      u.accResendAll l (u.job j).records = (acc, v)) ∧
    (∃ q : BitVec 14, ∃ c : Cand, ∃ j : Nat, ∃ u : State, ∃ s : State, JobTurn s q.toNat 71 c j u ∧ (u.job j).state ≠ JState.ended ∧
      (u.job j).state ≠ JState.faulted) :=
  ⟨⟨0, [], _, queued { opcode := 0x43 }, ((0x43, .jstatus 0) : Nat × Instr), by decide +kernel, by decide +kernel,
    ⟨by decide +kernel, by decide +kernel, some_getD (d := tCand) (by decide +kernel), by decide +kernel⟩⟩,
   ⟨0, [], _, _, _, queued { opcode := 0x40 }, ⟨by decide +kernel, by decide +kernel, some_getD (d := tCand) (by decide +kernel),
     by decide +kernel⟩, prod_eta _⟩,
   ⟨0, _, 0, _, jobQ 0x41 0 {}, ⟨⟨by decide +kernel, by decide +kernel, some_getD (d := tCand) (by decide +kernel),
     by decide +kernel⟩, rfl, by decide +kernel⟩, by decide +kernel⟩,
   ⟨0, _, 0, _, { jobQ 0x41 ((50#128 <<< 64)) { state := .loaded } with clk := { poolTime := 100 } }, ⟨⟨by decide +kernel,
     by decide +kernel, some_getD (d := tCand) (by decide +kernel), by decide +kernel⟩, rfl, by decide +kernel⟩, by decide +kernel⟩,
   ⟨0, _, 0, _, jobQ 0x41 ((50#128 <<< 64)) { state := .loaded }, ⟨⟨by decide +kernel, by decide +kernel, some_getD (d := tCand)
     (by decide +kernel), by decide +kernel⟩, rfl, by decide +kernel⟩, by decide +kernel⟩,
   ⟨0, _, 0, _, jobQ 0x41 0 { state := .loaded }, ⟨⟨by decide +kernel, by decide +kernel, some_getD (d := tCand)
     (by decide +kernel), by decide +kernel⟩, rfl, by decide +kernel⟩, by decide +kernel⟩,
   ⟨0, _, 0, _, jobQ 0x42 0 {}, ⟨⟨by decide +kernel, by decide +kernel, some_getD (d := tCand) (by decide +kernel),
     by decide +kernel⟩, rfl, by decide +kernel⟩⟩,
   ⟨0, _, 0, _, jobQ 0x43 0 {}, ⟨⟨by decide +kernel, by decide +kernel, some_getD (d := tCand) (by decide +kernel),
     by decide +kernel⟩, rfl, by decide +kernel⟩⟩,
   ⟨0, _, 0, _, jobQ 0x44 0 {}, ⟨⟨by decide +kernel, by decide +kernel, some_getD (d := tCand) (by decide +kernel),
     by decide +kernel⟩, rfl, by decide +kernel⟩⟩,
   ⟨0, _, 0, _, jobQ 0x45 0 {}, ⟨⟨by decide +kernel, by decide +kernel, some_getD (d := tCand) (by decide +kernel),
     by decide +kernel⟩, rfl, by decide +kernel⟩⟩,
   ⟨0, _, 0, _, jobQ 0x46 0 { state := .running }, ⟨⟨by decide +kernel, by decide +kernel, some_getD (d := tCand)
     (by decide +kernel), by decide +kernel⟩, rfl, by decide +kernel⟩, by decide +kernel⟩,
   ⟨0, _, 0, _, jobQ 0x46 0 { state := .ended }, ⟨⟨by decide +kernel, by decide +kernel, some_getD (d := tCand) (by decide +kernel),
     by decide +kernel⟩, rfl, by decide +kernel⟩, by decide +kernel⟩,
   ⟨0, _, 0, _, { jobQ 0x46 0 { state := .loading } with jobg := { loads := [{ tJLoad with job := some 0 }] } },
     { tJLoad with job := some 0 }, ⟨⟨by decide +kernel, by decide +kernel, some_getD (d := tCand) (by decide +kernel),
     by decide +kernel⟩, rfl, by decide +kernel⟩, by decide +kernel⟩,
   ⟨0, [], _, 0, _, _, jobQ 0x47 0 { state := .ended }, _, ⟨⟨by decide +kernel, by decide +kernel, some_getD (d := tCand)
     (by decide +kernel), by decide +kernel⟩, rfl, by decide +kernel⟩, by decide +kernel, by decide +kernel, prod_eta _⟩,
   ⟨0, _, 0, _, jobQ 0x47 0 { state := .running }, ⟨⟨by decide +kernel, by decide +kernel, some_getD (d := tCand)
     (by decide +kernel), by decide +kernel⟩, rfl, by decide +kernel⟩, by decide +kernel⟩⟩
theorem witness_LoadsAndLaunchesGoOn :
    (∃ q : BitVec 14, ∃ id : Nat, ∃ l : List Medium, ∃ x : JLoad, ∃ acc : List Nat, ∃ u : State, ∃ s : State, List.find? (fun y =>
      y.cmd == {queue := q.toNat, id := id}) s.jobg.loads = some x ∧ s.fatal = false ∧ s.accResendAll l x.accs = (acc, u) ∧
      ((u.setLoad { x with accs := acc }).cohEnd Medium.clean).allOver acc = false) ∧
    (∃ q : BitVec 14, ∃ id : Nat, ∃ l : List Medium, ∃ x : JLoad, ∃ acc : List Nat, ∃ u : State, ∃ s : State, List.find? (fun y =>
      y.cmd == {queue := q.toNat, id := id}) s.jobg.loads = some x ∧ s.fatal = false ∧ s.accResendAll l x.accs = (acc, u) ∧
      ((u.setLoad { x with accs := acc }).cohEnd Medium.clean).allOver acc = true ∧ x.phase = LoadPhase.image ∧ x.job = none) ∧
    (∃ q : BitVec 14, ∃ id : Nat, ∃ l : List Medium, ∃ x : JLoad, ∃ acc : List Nat, ∃ u : State, ∃ s : State, ∃ j : Nat, List.find?
      (fun y => y.cmd == {queue := q.toNat, id := id}) s.jobg.loads = some x ∧ s.fatal = false ∧ s.accResendAll l x.accs = (acc, u)
      ∧ x.job = some j ∧ ((u.setLoad { x with accs := acc }).cohEnd Medium.clean).allOver acc = true ∧ ((u.setLoad
      { x with accs := acc }).cohEnd Medium.clean).loadHeld (((u.setLoad { x with accs := acc }).cohEnd Medium.clean).job
      j).saveHubs (imgLogical (((u.setLoad { x with accs := acc }).cohEnd Medium.clean).job j).image) = true) ∧
    (∃ q : BitVec 14, ∃ id : Nat, ∃ l : List Medium, ∃ x : JLoad, ∃ acc : List Nat, ∃ u : State, ∃ s : State, ∃ j : Nat, List.find?
      (fun y => y.cmd == {queue := q.toNat, id := id}) s.jobg.loads = some x ∧ s.fatal = false ∧ s.accResendAll l x.accs = (acc, u)
      ∧ ((u.setLoad { x with accs := acc }).cohEnd Medium.clean).allOver acc = true ∧ ((u.setLoad { x with accs := acc }).cohEnd
      Medium.clean).loadHeld (((u.setLoad { x with accs := acc }).cohEnd Medium.clean).job j).saveHubs (imgLogical (((u.setLoad
      { x with accs := acc }).cohEnd Medium.clean).job j).image) = false ∧ x.phase = LoadPhase.weights ∧ x.job = some j) ∧
    (∃ q : BitVec 14, ∃ id : Nat, ∃ l : List Medium, ∃ x : JLoad, ∃ acc : List Nat, ∃ u : State, ∃ s : State, ∃ j : Nat, List.find?
      (fun y => y.cmd == {queue := q.toNat, id := id}) s.jobg.loads = some x ∧ s.fatal = false ∧ s.accResendAll l x.accs = (acc, u)
      ∧ ((u.setLoad { x with accs := acc }).cohEnd Medium.clean).allOver acc = true ∧ ((u.setLoad { x with accs := acc }).cohEnd
      Medium.clean).loadHeld (((u.setLoad { x with accs := acc }).cohEnd Medium.clean).job j).saveHubs (imgLogical (((u.setLoad
      { x with accs := acc }).cohEnd Medium.clean).job j).image) = false ∧ x.phase = LoadPhase.head ∧ x.job = some j) ∧
    (∃ q : BitVec 14, ∃ id : Nat, ∃ l : List Medium, ∃ x : JLoad, ∃ acc : List Nat, ∃ u : State, ∃ s : State, ∃ j : Nat, List.find?
      (fun y => y.cmd == {queue := q.toNat, id := id}) s.jobg.loads = some x ∧ s.fatal = false ∧ s.accResendAll l x.accs = (acc, u)
      ∧ ((u.setLoad { x with accs := acc }).cohEnd Medium.clean).allOver acc = true ∧ ((u.setLoad { x with accs := acc }).cohEnd
      Medium.clean).loadHeld (((u.setLoad { x with accs := acc }).cohEnd Medium.clean).job j).saveHubs (imgLogical (((u.setLoad
      { x with accs := acc }).cohEnd Medium.clean).job j).image) = false ∧ x.phase = LoadPhase.body ∧ x.job = some j) ∧
    (∃ j : Nat, ∃ x : JLoad, x.job = some j) ∧
    (∃ job : BitVec 12, ∃ m : List Medium, ∃ l : Launch, ∃ s : State, s.fatal = false ∧ (s.job job.toNat).state =
      JState.launchPending ∧ ((s.launchGo job.toNat m).job job.toNat).launch = some l ∧ (l.digested = false ∨ imgPairs ((s.launchGo
      job.toNat m).job job.toNat).image = true ∧ l.helloOk = false ∨ (s.launchGo job.toNat m).clk.poolTime.toNat < l.time.toNat)) ∧
    (∃ job : BitVec 12, ∃ m : List Medium, ∃ l : Launch, ∃ s : State, s.fatal = false ∧ (s.job job.toNat).state =
      JState.launchPending ∧ ((s.launchGo job.toNat m).job job.toNat).launch = some l ∧ l.digested = true ∧ (imgPairs ((s.launchGo
      job.toNat m).job job.toNat).image = true → l.helloOk = true) ∧ l.time.toNat ≤ (s.launchGo job.toNat m).clk.poolTime.toNat ∧
      (((s.launchGo job.toNat m).job job.toNat).reserved = true ∨ (s.launchGo job.toNat m).saveRoom ((s.launchGo job.toNat m).job
      job.toNat) = true) ∧ l.regions = none ∧ (extRegions ((s.launchGo job.toNat m).job job.toNat).image = [] ∨ ((s.launchGo
      job.toNat m).job job.toNat).flags.getLsbD 1 = true)) ∧
    (∃ job : BitVec 12, ∃ m : List Medium, ∃ l : Launch, ∃ s : State, s.fatal = false ∧ (s.job job.toNat).state =
      JState.launchPending ∧ ((s.launchGo job.toNat m).job job.toNat).launch = some l ∧ l.digested = true ∧ (imgPairs ((s.launchGo
      job.toNat m).job job.toNat).image = true → l.helloOk = true) ∧ l.time.toNat ≤ (s.launchGo job.toNat m).clk.poolTime.toNat ∧
      ((s.launchGo job.toNat m).job job.toNat).reserved = false ∧ (s.launchGo job.toNat m).saveRoom ((s.launchGo job.toNat m).job
      job.toNat) = false ∧ l.time ≠ 0) ∧
    (∃ j : Nat, ∃ x : Job, ∃ s : State, s.jobs.get? j = some x) :=
  ⟨⟨0, 0, [], _, _, _,
    { { up with jobg := { loads := [{ tJLoad with accs := [9] }] }, accesses := [(9, accSt .ok)] } with accesses := [(9, half)] },
    some_getD (d := tJLoad) (by decide +kernel), by decide +kernel, prod_eta _, by decide +kernel⟩,
   ⟨0, 0, [], _, _, _, { up with jobg := { loads := [{ tJLoad with accs := [9] }] }, accesses := [(9, accSt .ok)] }, some_getD (d :=
     tJLoad) (by decide +kernel), by decide +kernel, prod_eta _, rfl, by decide +kernel⟩,
   ⟨0, 0, [], { tJLoad with accs := [9], job := some 0 }, _, _,
     { up with jobs := [(0, { image := image 3 0, saveHubs := [0] })], jobg := { loads := [{ tJLoad with accs := [9], job := some 0 }] }, accesses := [(9, accSt .ok)], si := { hold := { clusters := 1 } } },
     0, by decide +kernel, by decide +kernel, prod_eta _, rfl, by decide +kernel⟩,
   ⟨0, 0, [], _, _, _,
     { up with jobg := { loads := [{ tJLoad with accs := [9], phase := .weights, job := some 0 }] }, accesses := [(9, accSt .ok)] },
     0, some_getD (d := tJLoad) (by decide +kernel), by decide +kernel, prod_eta _, rfl, by decide +kernel⟩,
   ⟨0, 0, [], _, _, _,
     { up with jobg := { loads := [{ tJLoad with accs := [9], phase := .head, job := some 0 }] }, accesses := [(9, accSt .ok)] }, 0,
     some_getD (d := tJLoad) (by decide +kernel), by decide +kernel, prod_eta _, rfl, by decide +kernel⟩,
   ⟨0, 0, [], _, _, _,
     { up with jobg := { loads := [{ tJLoad with accs := [9], phase := .body, job := some 0 }] }, accesses := [(9, accSt .ok)] }, 0,
     some_getD (d := tJLoad) (by decide +kernel), by decide +kernel, prod_eta _, rfl, by decide +kernel⟩,
   ⟨0, { tJLoad with job := some 0 }, by decide +kernel⟩,
   ⟨0, [], _, jobIs { state := .launchPending, image := image 3 0, launch := some { tLaunch with digested := true, time := 5 } },
     by decide +kernel, rfl, some_getD (d := tLaunch) (by decide +kernel), by decide +kernel⟩,
   ⟨0, [], _, jobIs
     { state := .launchPending, image := image 3 0, launch := some { tLaunch with digested := true }, reserved := true },
     by decide +kernel, rfl, some_getD (d := tLaunch) (by decide +kernel), by decide +kernel⟩,
   ⟨0, [], _,
     { jobIs { state := .launchPending, image := image 3 0, launch := some { tLaunch with digested := true, time := 5 } } with clk := { poolTime := 100 } },
     by decide +kernel, rfl, some_getD (d := tLaunch) (by decide +kernel), by decide +kernel⟩,
   ⟨0, {}, jobIs {}, by decide +kernel⟩⟩
theorem witness_SuperstepsGoOn :
    (∃ job : BitVec 12, ∃ s : State, BarrierReady s job.toNat ∧ imgPairs (s.job job.toNat).image = false) ∧
    (∃ job : BitVec 12, ∃ s : State, BarrierReady s job.toNat ∧ imgPairs (s.job job.toNat).image = true) ∧
    (∃ h : Fin 8, ∃ j : Nat, ∃ i : Nat, ∃ k : Nat, ∃ since : Nat, ∃ s : State, s.nextStart h.val = some ((since, j, i), k) ∧ s.fatal
      = false ∧ (s.hub h.val).phase = PartialPhase.none ∧ ((s.pwrHub h.val).held + chargeUj (imgClass (s.job j).image (s.job
      j).step) (s.clkStep h.val) ≤ (s.pwrHub h.val).computeUj ∨ (s.pwrHub h.val).charges = [])) ∧
    (∃ h : Fin 8, ∃ j : Nat, ∃ i : Nat, ∃ k : Nat, ∃ since : Nat, ∃ s : State, s.nextStart h.val = some ((since, j, i), k) ∧ s.fatal
      = false ∧ (s.hub h.val).phase = PartialPhase.none ∧ (s.pwrHub h.val).computeUj < (s.pwrHub h.val).held + chargeUj (imgClass
      (s.job j).image (s.job j).step) (s.clkStep h.val) ∧ (s.pwrHub h.val).charges ≠ []) ∧
    (∃ job : BitVec 12, ∃ i : Nat, ∃ s : State, (s.job job.toNat).state = JState.running ∧ (s.job job.toNat).watchdogMs ≠ 0 ∧ (s.job
      job.toNat).comparing = none ∧ s.fatal = false ∧ i < imgLogical (s.job job.toNat).image ∧ ((s.lc job.toNat i).phase =
      LcPhase.running ∨ (s.lc job.toNat i).phase = LcPhase.yielded) ∧ ∃ n < imgLogical (s.job job.toNat).image, (s.lc job.toNat
      n).place.isSome = true) ∧
    (∃ c : CluAt, ∃ j : Nat, ∃ i : Nat, ∃ s : State, (s.clu ↑c.hub ↑c.cluster).resident = some (j, i) ∧ s.fatal = false ∧ (s.hub
      ↑c.hub).phase = PartialPhase.none ∧ (s.lc j i).place = some (↑c.hub, ↑c.cluster) ∧ ((s.lc j i).phase = LcPhase.yielded ∨ (s.lc
      j i).phase = LcPhase.waiting ∨ (s.lc j i).phase = LcPhase.offered)) ∧
    (∃ c : CluAt, ∃ job : BitVec 12, ∃ lc : BitVec 10, ∃ s : State, s.fatal = false ∧ (s.hub ↑c.hub).phase = PartialPhase.none ∧
      (s.job job.toNat).state = JState.running ∧ lc.toNat < imgLogical (s.job job.toNat).image ∧ (s.lc job.toNat lc.toNat).place =
      none ∧ (s.lc job.toNat lc.toNat).phase ≠ LcPhase.halted ∧ (s.job job.toNat).saveHub lc.toNat = ↑c.hub ∧ s.mayRun (↑c.hub)
      (↑c.cluster) job.toNat = true ∧ s.turnOf (↑c.hub) (↑c.cluster) job.toNat = true) ∧
    (∃ job : BitVec 12, ∃ m : List Medium, ∃ k : Ckpt, ∃ r : List Ckpt, ∃ l : List Nat, ∃ acc : List Nat, ∃ s : State, ∃ u : State,
      ∃ v : State, (s.job job.toNat).ckpts = k :: r ∧ k.accs = some l ∧ s.fatal = false ∧ s.accResendAll m l = (acc, u) ∧ v =
      (u.modJob job.toNat fun x => { x with ckpts := { k with accs := some acc } :: r }).cohEnd Medium.clean ∧ v.allOver acc =
      false) ∧
    (∃ job : BitVec 12, ∃ m : List Medium, ∃ k : Ckpt, ∃ r : List Ckpt, ∃ l : List Nat, ∃ acc : List Nat, ∃ s : State, ∃ u : State,
      ∃ v : State, (s.job job.toNat).ckpts = k :: r ∧ k.accs = some l ∧ s.fatal = false ∧ s.accResendAll m l = (acc, u) ∧ v =
      (u.modJob job.toNat fun x => { x with ckpts := { k with accs := some acc } :: r }).cohEnd Medium.clean ∧ v.allOver acc = true)
      :=
  ⟨⟨0, gated {} yielded, by unfold BarrierReady; decide +kernel, by decide +kernel⟩,
   ⟨0, { gated {} yielded with jobs := [(0, { state := .running, image := imageP })] }, by unfold BarrierReady; decide +kernel⟩,
   ⟨0, 0, 0, 0, 0, gated {} { yielded with phase := .offered }, by decide +kernel, by decide +kernel, rfl, by decide +kernel⟩,
   ⟨0, 0, 0, 0, 0, { gated {} { yielded with phase := .offered } with pwrHubs := [(0, { charges := [⟨1, 0, 5⟩] })] },
     by decide +kernel, by decide +kernel, rfl, by decide +kernel⟩,
   ⟨0, 0, { gated {} yielded with jobs := [(0, { state := .running, image := image 3 0, watchdogMs := 7 })] }, by decide +kernel⟩,
   ⟨⟨0, 0⟩, 0, 0, gated {} yielded, by decide +kernel⟩,
   ⟨⟨0, 0⟩, 0, 0, { gated {} {} with clus := [], eff := [(8, [(0x10, 1)])] }, by decide +kernel⟩,
   ⟨0, [], { tCkpt with accs := some [9] }, [], [9], _,
     { jobIs { ckpts := [{ tCkpt with accs := some [9] }] } with accesses := [(9, half)] }, _, _, three (by decide +kernel)
     ⟨prod_eta _, rfl, by decide +kernel⟩⟩,
   ⟨0, [], { tCkpt with accs := some [] }, [], [], _, jobIs { ckpts := [{ tCkpt with accs := some [] }] }, _, _, three
     (by decide +kernel) ⟨prod_eta _, rfl, by decide +kernel⟩⟩⟩
theorem witness_PairsAndJobsEnd :
    (∃ src : BitVec 8, ∃ p : BitVec 32, ∃ time : BitVec 64, ∃ body : List Byte, ∃ s : State, ∃ u : State, ∃ j : Nat, s.fatal = false
      ∧ s.ten.peers.contains src = true ∧ u = { s with jobg := { s.jobg with hellos := s.jobg.hellos.set p.toNat (body, time) } } ∧
      u.pairJob p = some j) ∧
    (∃ src : BitVec 8, ∃ p : BitVec 32, ∃ time : BitVec 64, ∃ body : List Byte, ∃ s : State, ∃ u : State, s.fatal = false ∧
      s.ten.peers.contains src = true ∧ u = { s with jobg := { s.jobg with hellos := s.jobg.hellos.set p.toNat (body, time) } } ∧
      u.pairJob p = none) ∧
    (∃ src : BitVec 8, ∃ s : State, s.ten.peers.contains src = false) ∧
    (∃ j : Nat, ∃ l : Launch, ∃ s : State, (s.job j).launch = some l ∧ s.jobg.hellos.get? l.pairId.toNat = some (s.helloBody (s.job
      j), l.time) ∧ l.helloSent = true ∧ l.helloOk = false ∧ s.zlg.locked = true ∧ BitVec.getLsbD ((s.helloBody (s.job j)).getD 58
      0) 0 = true ∧ l.peerDev ≠ s.zlg.devNum.toNat) ∧
    (∃ j : Nat, ∃ l : Launch, ∃ body : List Byte, ∃ time : BitVec 64, ∃ s : State, (s.job j).launch = some l ∧ s.jobg.hellos.get?
      l.pairId.toNat = some (body, time) ∧ l.helloSent = true ∧ l.helloOk = false ∧ (body ≠ s.helloBody (s.job j) ∨ time ≠ l.time ∨
      s.zlg.locked = false ∨ BitVec.getLsbD (body.getD 58 0) 0 = false ∨ l.peerDev = s.zlg.devNum.toNat)) ∧
    (∃ job : BitVec 12, ∃ l : Launch, ∃ s : State, (s.job job.toNat).launch = some l ∧ imgPairs (s.job job.toNat).image = true ∧
      l.helloOk = false ∧ s.fatal = false) ∧
    (∃ p : BitVec 32, ∃ ds : List DWord, ∃ j : Nat, ∃ s : State, s.pairJob p = some j ∧ s.fatal = false ∧ ds.length ≤ 32) ∧
    (∃ j : Nat, ∃ i : Nat, ∃ d : DWord, ∃ s : State, (s.job j).peerDigests.get? ((s.job j).step * 1024 + i) = some d) ∧
    (∃ j : Nat, ∃ i : Nat, ∃ d : DWord, ∃ p : DWord, ∃ s : State, (s.job j).peerDigests.get? ((s.job j).step * 1024 + i) = some p ∧
      p ≠ d ∧ (s.job j).divContinue = false) ∧
    (∃ j : Nat, ∃ i : Nat, ∃ d : DWord, ∃ p : DWord, ∃ s : State, (s.job j).peerDigests.get? ((s.job j).step * 1024 + i) = some p ∧
      p ≠ d ∧ (s.job j).divContinue = true) ∧
    (∃ p : BitVec 32, ∃ j : Nat, ∃ s : State, s.pairJob p = some j ∧ s.fatal = false) ∧
    (∃ s : State, s.pairPorts = [] ∧ s.fatal = false) ∧
    (∃ j : Nat, ∃ s : State, (s.job j).state = JState.running ∨ (s.job j).state = JState.held ∨ (s.job j).state =
      JState.launchPending ∨ (s.job j).state = JState.loaded) ∧
    (∃ j : Nat, ∃ s : State, ∃ i : Nat, ((s.job j).state = JState.running ∨ (s.job j).state = JState.held ∨ (s.job j).state =
      JState.launchPending ∨ (s.job j).state = JState.loaded) ∧ i < imgLogical (s.job j).image) ∧
    (∃ j : Nat, ∃ s : State, ∃ k : Nat, ((s.job j).state = JState.running ∨ (s.job j).state = JState.held ∨ (s.job j).state =
      JState.launchPending ∨ (s.job j).state = JState.loaded) ∧ k ≠ j) :=
  ⟨⟨3, 0, 0, [], { pairs { state := .running } with ten := { peers := [3] } }, _, 0, by decide +kernel, by decide +kernel, rfl,
    by decide +kernel⟩,
   ⟨3, 0, 0, [], { up with ten := { peers := [3] } }, _, by decide +kernel, by decide +kernel, rfl, by decide +kernel⟩,
   ⟨3, up, by decide +kernel⟩,
   ⟨0, { tLaunch with helloSent := true, peerDev := 3 },
     { helloWait with jobg := { hellos := [(0, (State.helloBody helloWait (helloWait.job 0), 0))] } }, by decide +kernel, rfl,
     by decide +kernel⟩,
   ⟨0, { tLaunch with helloSent := true, peerDev := 3 }, [], 0,
     { pairs { state := .launchPending, launch := some { tLaunch with helloSent := true, peerDev := 3 } } with jobg := { hellos := [(0, ([], 0))] } },
     three (by decide +kernel) ⟨rfl, by decide +kernel⟩⟩,
   ⟨0, { tLaunch with helloSent := true, peerDev := 3 }, pairs
     { state := .launchPending, launch := some { tLaunch with helloSent := true, peerDev := 3 } }, by decide +kernel⟩,
   ⟨0, [7], 0, pairs { state := .running }, by decide +kernel⟩,
   ⟨0, 0, 7, pairs { peerDigests := [(0, 7)] }, by decide +kernel⟩,
   ⟨0, 0, 8, 7, pairs { peerDigests := [(0, 7)] }, by decide +kernel⟩,
   ⟨0, 0, 8, 7, pairs { peerDigests := [(0, 7)], divContinue := true }, by decide +kernel⟩,
   ⟨0, 0, pairs { state := .running }, by decide +kernel⟩,
   ⟨up, by decide +kernel⟩,
   ⟨0, gated {} yielded, by decide +kernel⟩,
   ⟨0, gated {} yielded, 0, by decide +kernel⟩,
   ⟨0, gated {} yielded, 1, by decide +kernel⟩⟩
theorem witness_SlalomStepsGoOn :
    (∃ h : Fin 8, ∃ src : BitVec 10, ∃ j : BitVec 12, ∃ e : BitVec 12, ∃ n : BitVec 20, ∃ d : List Byte, ∃ g : List Byte, ∃ s :
      State, s.hears src = true ∧ s.fatal = false ∧ s.engineHeld (h.val) j.toNat (some e.toNat) = false ∧ gateEntry (s.job
      j.toNat).image e.toNat = some g ∧ partFits g 0 d = true ∧ s.jobg.arriving.get? src.toNat = none ∧ s.refusal true j.toNat
      n.toNat = none) ∧
    (∃ h : Fin 8, ∃ src : BitVec 10, ∃ j : BitVec 12, ∃ e : BitVec 12, ∃ n : BitVec 20, ∃ d : List Byte, ∃ g : List Byte, ∃ s :
      State, ∃ r : Nat, s.hears src = true ∧ s.fatal = false ∧ s.engineHeld (h.val) j.toNat (some e.toNat) = false ∧ gateEntry
      (s.job j.toNat).image e.toNat = some g ∧ partFits g 0 d = true ∧ s.jobg.arriving.get? src.toNat = none ∧ s.refusal true
      j.toNat n.toNat = some r) ∧
    (∃ h : Fin 8, ∃ src : BitVec 10, ∃ j : BitVec 12, ∃ e : BitVec 12, ∃ tok : Word, ∃ p : BitVec 16, ∃ d : List Byte, ∃ g : List
      Byte, ∃ ok : Bool, ∃ s : State, s.hears src = true ∧ s.fatal = false ∧ s.engineHeld (h.val) j.toNat (some e.toNat) = false ∧
      s.jobg.arriving.get? src.toNat = some {job := j.toNat, gate := g, index := tok, next := p.toNat, accepted := ok} ∧ gExpert g =
      e.toNat ∧ partFits g p.toNat d = true) ∧
    (∃ h : Fin 8, ∃ src : BitVec 10, ∃ j : BitVec 12, ∃ e : BitVec 12, ∃ tok : Word, ∃ p : BitVec 16, ∃ d : List Byte, ∃ g : List
      Byte, ∃ s : State, s.hears src = true ∧ s.fatal = false ∧ s.engineHeld (h.val) j.toNat (some e.toNat) = false ∧ gateEntry
      (s.job j.toNat).image e.toNat = some g ∧ ((∃ a, s.jobg.arriving.get? src.toNat = some a ∧ a.fits j.toNat e.toNat tok p.toNat d
      = false) ∨ s.jobg.arriving.get? src.toNat = none ∧ (p ≠ 0 ∨ partFits g 0 d = false)) ∧ ((s.setArriving src none).job
      j.toNat).state = JState.running) ∧
    (∃ h : Fin 8, ∃ src : BitVec 10, ∃ j : BitVec 12, ∃ e : BitVec 12, ∃ tok : Word, ∃ p : BitVec 16, ∃ d : List Byte, ∃ g : List
      Byte, ∃ s : State, s.hears src = true ∧ s.fatal = false ∧ s.engineHeld (h.val) j.toNat (some e.toNat) = false ∧ gateEntry
      (s.job j.toNat).image e.toNat = some g ∧ ((∃ a, s.jobg.arriving.get? src.toNat = some a ∧ a.fits j.toNat e.toNat tok p.toNat d
      = false) ∨ s.jobg.arriving.get? src.toNat = none ∧ (p ≠ 0 ∨ partFits g 0 d = false)) ∧ ((s.setArriving src none).job
      j.toNat).state ≠ JState.running) ∧
    (∃ src : BitVec 10, ∃ s : State, s.hears src = true ∧ s.fatal = true) ∧
    (∃ h : Fin 8, ∃ src : BitVec 10, ∃ j : BitVec 12, ∃ e : BitVec 12, ∃ s : State, s.hears src = true ∧ s.fatal = false ∧
      s.engineHeld (h.val) j.toNat (some e.toNat) = false ∧ gateEntry (s.job j.toNat).image e.toNat = none ∧ s.jobg.arriving.get?
      src.toNat = none) ∧
    (∃ j : Nat, ∃ g : List Byte, ∃ tok : Word, ∃ s : State, (tok, gExpert g) ∈ List.map (fun r => (r.1, r.2.1)) (s.job
      j).gates.reached) ∧
    (∃ src : BitVec 10, ∃ j : Nat, ∃ g : List Byte, ∃ tok : Word, ∃ s : State, (tok, gExpert g) ∉ List.map (fun r => (r.1, r.2.1))
      (s.job j).gates.reached ∧ (∀ (t : Token), some t ∈ (s.gate j (gExpert g)).slots → t.index ≠ tok) ∧ (∀ r ∈ (s.gate j (gExpert
      g)).residual, r.1 ≠ tok) ∧ (s.job j).gates.closes.get? src.toNat = none ∧ jTopk (s.job j).image ≤ List.countP (fun r => r.1 ==
      tok) (s.job j).gates.reached) ∧
    (∃ h : Fin 8, ∃ src : BitVec 10, ∃ j : BitVec 12, ∃ n : BitVec 20, ∃ s : State, ∃ r : Nat, s.hears src = true ∧ s.fatal = false
      ∧ s.engineHeld (h.val) j.toNat none = false ∧ s.refusal false j.toNat n.toNat = some r) ∧
    (∃ h : Fin 8, ∃ src : BitVec 10, ∃ j : BitVec 12, ∃ k : Word, ∃ n : BitVec 20, ∃ s : State, s.hears src = true ∧ s.fatal = false
      ∧ s.engineHeld (h.val) j.toNat none = false ∧ s.refusal false j.toNat n.toNat = none ∧ (s.job j.toNat).gates.closes.get?
      src.toNat = none ∧ (s.job j.toNat).gates.accepted.getD src.toNat 0 ≤ BitVec.toNat k) ∧
    (∃ h : Fin 8, ∃ src : BitVec 10, ∃ j : BitVec 12, ∃ k : Word, ∃ n : BitVec 20, ∃ s : State, s.hears src = true ∧ s.fatal = false
      ∧ s.engineHeld (h.val) j.toNat none = false ∧ s.refusal false j.toNat n.toNat = none ∧ ((s.job j.toNat).gates.closes.get?
      src.toNat ≠ none ∨ BitVec.toNat k < (s.job j.toNat).gates.accepted.getD src.toNat 0)) ∧
    (∃ h : Fin 8, ∃ j : BitVec 12, ∃ e : BitVec 12, ∃ s : State, s.fatal = false ∧ s.engineHeld (h.val) j.toNat (some e.toNat) =
      true) ∧
    (∃ h : Fin 8, ∃ j : BitVec 12, ∃ s : State, s.fatal = false ∧ s.engineHeld (h.val) j.toNat none = true) ∧
    (∃ job : BitVec 12, ∃ m : List Medium, ∃ l : List Nat, ∃ s : State, ∃ u : State, (s.job job.toNat).state = JState.running ∧
      s.fatal = false ∧ s.allArrived job.toNat = true ∧ (s.job job.toNat).gates.ready = true ∧ (s.job job.toNat).gates.combined =
      true ∧ s.accResendAll m (s.job job.toNat).gates.writes = (l, u)) ∧
    (∃ job : BitVec 12, ∃ m : List Medium, ∃ l : List Nat, ∃ s : State, ∃ u : State, ∃ v : State, (s.job job.toNat).state =
      JState.running ∧ s.fatal = false ∧ s.allArrived job.toNat = true ∧ (s.job job.toNat).gates.ready = true ∧ (s.job
      job.toNat).gates.combined = false ∧ s.accResendAll m (List.map (fun x => x.2) (s.job job.toNat).gates.reads) = (l, u) ∧ v =
      ((u.modStep job.toNat fun y => { y with reads := (List.map (fun x => x.1) y.reads).zip l }).readRows job.toNat m).cohEnd
      Medium.clean ∧ (v.job job.toNat).state = JState.running ∧ ((v.job job.toNat).gates.reads.all fun r => v.accOver r.2 &&
      v.accStatus r.2 != PStatus.retry) = false) ∧
    (∃ job : BitVec 12, ∃ m : List Medium, ∃ l : List Nat, ∃ s : State, ∃ u : State, ∃ v : State, (s.job job.toNat).state =
      JState.running ∧ s.fatal = false ∧ s.allArrived job.toNat = true ∧ (s.job job.toNat).gates.ready = true ∧ (s.job
      job.toNat).gates.combined = false ∧ s.accResendAll m (List.map (fun x => x.2) (s.job job.toNat).gates.reads) = (l, u) ∧ v =
      ((u.modStep job.toNat fun y => { y with reads := (List.map (fun x => x.1) y.reads).zip l }).readRows job.toNat m).cohEnd
      Medium.clean ∧ (v.job job.toNat).state = JState.running ∧ ((v.job job.toNat).gates.reads.all fun r => v.accOver r.2 &&
      v.accStatus r.2 != PStatus.retry) = true) :=
  ⟨⟨0, 5, 0, 3, 0, List.replicate 256 0, imgGate (image 3 0) 1, gated { open_ := true } {}, by decide +kernel⟩,
   ⟨0, 5, 0, 3, 1, List.replicate 256 0, imgGate (image 3 0) 1, gated { open_ := true } {}, 1, by decide +kernel⟩,
   ⟨0, 5, 0, 3, 0, 1, List.replicate 256 0, imgGate (image 3 0) 1, true,
     { gated { open_ := true } {} with jobg := { arriving := [(5, ⟨0, imgGate (image 3 0) 1, 0, 1, true⟩)] } }, by decide +kernel⟩,
   ⟨0, 5, 0, 3, 1, 1, List.replicate 256 0, imgGate (image 3 0) 1,
     { gated { open_ := true } {} with jobg := { arriving := [(5, ⟨0, imgGate (image 3 0) 1, 0, 1, true⟩)] } }, by decide +kernel,
     three (by decide +kernel) ⟨.inl ⟨⟨0, imgGate (image 3 0) 1, 0, 1, true⟩, by decide +kernel⟩, by decide +kernel⟩⟩,
   ⟨0, 5, 0, 3, 0, 1, List.replicate 256 0, imgGate (image 3 0) 1,
     { gated {} {} with jobs := [(0, { state := .loaded, image := image 3 0 })] }, by decide +kernel, three (by decide +kernel)
     ⟨.inr ⟨by decide +kernel, by decide +kernel⟩, by decide +kernel⟩⟩,
   ⟨5, { up with sys := { up.sys with fatalAt := some 0 } }, by decide +kernel⟩,
   ⟨0, 5, 0, 4, gated { open_ := true } {}, by decide +kernel⟩,
   ⟨0, imgGate (image 3 0) 1, 0, gated { open_ := true, reached := [(0, 3, 0)] } {}, by decide +kernel⟩,
   ⟨5, 0, imgGate (image 3 0) 1, 0, gated { open_ := true } {}, by decide +kernel, of_empty (f := some) (by decide +kernel),
     of_empty (f := id) (by decide +kernel), by decide +kernel⟩,
   ⟨0, 5, 0, 1, gated { open_ := true } {}, 1, by decide +kernel⟩,
   ⟨0, 5, 0, 0, 0, gated { open_ := true } {}, by decide +kernel⟩,
   ⟨0, 5, 0, 0, 0, gated { open_ := true, accepted := [(5, 2)] } {}, by decide +kernel⟩,
   ⟨0, 0, 0, { gated {} {} with si := { hold := { hubs := 1 } } }, by decide +kernel⟩,
   ⟨0, 0, { gated {} {} with si := { hold := { hubs := 1 } } }, by decide +kernel⟩,
   ⟨0, [], _, gated { open_ := true, touched := true, closed := true, prepared := true, combined := true } yielded, _,
     by decide +kernel, by decide +kernel, three (by decide +kernel) (prod_eta _)⟩,
   ⟨0, [], _,
     { gated { open_ := true, touched := true, closed := true, prepared := true, reads := [(0, 9)] } yielded with accesses := [(9, half)] },
     _, _, by decide +kernel, by decide +kernel, three (by decide +kernel) ⟨prod_eta _, rfl, by decide +kernel⟩⟩,
   ⟨0, [], _, gated { open_ := true, touched := true, closed := true, prepared := true } yielded, _, _, by decide +kernel,
     by decide +kernel, three (by decide +kernel) ⟨prod_eta _, rfl, by decide +kernel⟩⟩⟩
theorem witness_GatherEnginesServe :
    (∃ h : Fin 8, ∃ host : BitVec 10, ∃ op : BitVec 2, ∃ ef : BitVec 8, ∃ ru : BitVec 8, ∃ n : BitVec 16, ∃ tb : BitVec 52, ∃ s :
      State, s.hears host = true ∧ s.fatal = false ∧ s.si.hold.hubs.getLsbD h.val = false ∧ 1 ≤ n.toNat ∧ n.toNat ≤ 1024 ∧ 1 ≤
      ru.toNat ∧ ru.toNat ≤ 32 ∧ tb.toNat % 64 = 0 ∧ ef.toNat ≤ 1 ∧ (op = 0 → ef = 0) ∧ 64 ≤ (s.gathers h.val).length) ∧
    (∃ h : Fin 8, ∃ host : BitVec 10, ∃ op : BitVec 2, ∃ ef : BitVec 8, ∃ ru : BitVec 8, ∃ n : BitVec 16, ∃ tb : BitVec 52, ∃ d :
      List Byte, ∃ s : State, s.hears host = true ∧ s.fatal = false ∧ s.si.hold.hubs.getLsbD h.val = false ∧ 1 ≤ n.toNat ∧ n.toNat ≤
      1024 ∧ 1 ≤ ru.toNat ∧ ru.toNat ≤ 32 ∧ tb.toNat % 64 = 0 ∧ ef.toNat ≤ 1 ∧ (op = 0 → ef = 0) ∧ (s.gathers h.val).length < 64 ∧
      d.length < 4 * n.toNat) ∧
    (∃ h : Fin 8, ∃ host : BitVec 10, ∃ op : BitVec 2, ∃ ef : BitVec 8, ∃ ru : BitVec 8, ∃ n : BitVec 16, ∃ tb : BitVec 52, ∃ d :
      List Byte, ∃ s : State, s.hears host = true ∧ s.fatal = false ∧ s.si.hold.hubs.getLsbD h.val = false ∧ 1 ≤ n.toNat ∧ n.toNat ≤
      1024 ∧ 1 ≤ ru.toNat ∧ ru.toNat ≤ 32 ∧ tb.toNat % 64 = 0 ∧ ef.toNat ≤ 1 ∧ (op = 0 → ef = 0) ∧ (s.gathers h.val).length < 64 ∧ 4
      * n.toNat ≤ d.length) ∧
    (∃ host : BitVec 10, ∃ s : State, s.hears host = true ∧ s.fatal = true) ∧
    (∃ h : Fin 8, ∃ host : BitVec 10, ∃ s : State, s.hears host = true ∧ s.fatal = false ∧ s.si.hold.hubs.getLsbD h.val = true) ∧
    (∃ h : Fin 8, ∃ host : BitVec 10, ∃ op : BitVec 2, ∃ ef : BitVec 8, ∃ ru : BitVec 8, ∃ n : BitVec 16, ∃ tb : BitVec 52, ∃ s :
      State, s.hears host = true ∧ s.fatal = false ∧ s.si.hold.hubs.getLsbD h.val = false ∧ (n = 0 ∨ 1024 < n.toNat ∨ ru = 0 ∨ 32 <
      ru.toNat ∨ tb.toNat % 64 ≠ 0 ∨ 1 < ef.toNat ∨ op = 0 ∧ ef ≠ 0)) ∧
    (∃ h : Fin 8, ∃ host : BitVec 10, ∃ sf : BitVec 8, ∃ dim : BitVec 16, ∃ sa : BitVec 52, ∃ b : List Byte, ∃ size : Nat, ∃ s :
      State, s.hears host = true ∧ s.fatal = false ∧ s.si.hold.hubs.getLsbD h.val = false ∧ sf.toNat ≤ 1 ∧ 32 ≤ dim.toNat ∧
      dim.toNat ≤ 1024 ∧ dim.toNat % 32 = 0 ∧ sa.toNat % 64 = 0 ∧ (size = if sf = 1 then 2 else 4) ∧ (s.gathers h.val).length < 64 ∧
      b.length < 32 + dim.toNat * size) ∧
    (∃ h : Fin 8, ∃ host : BitVec 10, ∃ sf : BitVec 8, ∃ dim : BitVec 16, ∃ sa : BitVec 52, ∃ b : List Byte, ∃ size : Nat, ∃ s :
      State, s.hears host = true ∧ s.fatal = false ∧ s.si.hold.hubs.getLsbD h.val = false ∧ sf.toNat ≤ 1 ∧ 32 ≤ dim.toNat ∧
      dim.toNat ≤ 1024 ∧ dim.toNat % 32 = 0 ∧ sa.toNat % 64 = 0 ∧ (size = if sf = 1 then 2 else 4) ∧ (s.gathers h.val).length < 64 ∧
      32 + dim.toNat * size ≤ b.length ∧ bytesAt b 0 8 < 2 ^ 52 ∧ 1 ≤ bytesAt b 8 4 ∧ bytesAt b 8 4 ≤ 1048576 ∧ 64 ≤ bytesAt b 12 4
      ∧ bytesAt b 12 4 ≤ 65536 ∧ bytesAt b 12 4 % 64 = 0 ∧ bytesAt b 16 1 ≤ 1 ∧ bytesAt b 17 15 = 0) ∧
    (∃ h : Fin 8, ∃ host : BitVec 10, ∃ tag : BitVec 12, ∃ g : Gather, ∃ s : State, List.find? (fun y => y.host == host && y.gtag ==
      tag && y.started) (s.gathers h.val) = some g ∧ s.fatal = false ∧ s.gatherOver g = false) ∧
    (∃ h : Fin 8, ∃ host : BitVec 10, ∃ tag : BitVec 12, ∃ g : Gather, ∃ s : State, List.find? (fun y => y.host == host && y.gtag ==
      tag && y.started) (s.gathers h.val) = some g ∧ s.fatal = false ∧ s.gatherOver g = true ∧ (s.gatherResult g).1 ≠ PStatus.retry)
      ∧
    (∃ h : Fin 8, ∃ host : BitVec 10, ∃ tag : BitVec 12, ∃ g : Gather, ∃ s : State, List.find? (fun y => y.host == host && y.gtag ==
      tag && y.started) (s.gathers h.val) = some g ∧ s.fatal = false ∧ s.gatherOver g = true ∧ (s.gatherResult g).1 = PStatus.retry)
      :=
  ⟨⟨0, 5, 0, 0, 1, 1, 0, slgAt (List.replicate 64 tGather), by decide +kernel⟩,
   ⟨0, 5, 0, 0, 1, 1, 0, [], up, by decide +kernel⟩,
   ⟨0, 5, 0, 0, 1, 1, 0, [0, 0, 0, 0], up, by decide +kernel⟩,
   ⟨5, { up with sys := { up.sys with fatalAt := some 0 } }, by decide +kernel⟩,
   ⟨0, 5, { up with si := { hold := { hubs := 1 } } }, by decide +kernel⟩,
   ⟨0, 5, 0, 0, 0, 0, 0, up, by decide +kernel⟩,
   ⟨0, 5, 0, 32, 0, [], 4, up, by decide +kernel⟩,
   ⟨0, 5, 0, 32, 0, selBytes, 4, up, by decide +kernel⟩,
   ⟨0, 5, 0, _, slgAt [{ tGather with started := true, count := 1 }], some_getD (d := tGather) (by decide +kernel),
     by decide +kernel⟩,
   ⟨0, 5, 0, _, slgAt [{ tGather with started := true }], some_getD (d := tGather) (by decide +kernel), by decide +kernel⟩,
   ⟨0, 5, 0, _, { slgAt [{ tGather with started := true, count := 1, rows := [9] }] with accesses := [(9, accSt .retry)] },
     some_getD (d := tGather) (by decide +kernel), by decide +kernel⟩⟩
theorem witness_TranslationsGoOn :
    (∃ h : Fin 8, ∃ c : Fin 14, ∃ q : Fin 8, ∃ m : List Medium, ∃ x : Miss, ∃ w : WalkEnd, ∃ level : Nat, ∃ table : Nat, ∃ s :
      State, ∃ u : State, s.nextWalk h.val = some x ∧ x.cluster = c.val ∧ x.stream = q.val ∧ s.fatal = false ∧ s.walkFrom (h.val) x
      = (level, table) ∧ State.walk x.va (b2n x.write) level table m s = (w, u)) ∧
    (∃ h : Nat, ∃ x : Miss, ∃ s : State, ∃ w : WalkOn, (s.trnHub h).walkOf x = some w) ∧
    (∃ h : Nat, ∃ x : Miss, ∃ s : State, ∃ t : Nat, (s.trnHub h).walkOf x = none ∧ x.table = some t) ∧
    (∃ h : Nat, ∃ x : Miss, ∃ s : State, (s.trnHub h).walkOf x = none ∧ x.table = none) ∧
    (∃ w : WalkEnd, ∀ (level table : Nat), w ≠ WalkEnd.again level table) ∧
    (∃ h : Nat, ∃ va : Nat, ∃ shift : Nat, ∃ rights : BitVec 3, ∃ x : Miss, ∃ s : State, (s.trnHub h).misses.contains x = true ∧ va
      / 2 ^ shift = x.va / 2 ^ shift ∧ rights.getLsbD (b2n x.write) = true) ∧
    (∃ h : Nat, ∃ va : Nat, ∃ shift : Nat, ∃ rights : BitVec 3, ∃ x : Miss, ∃ s : State, (s.trnHub h).misses.contains x = true ∧ va
      / 2 ^ shift = x.va / 2 ^ shift ∧ rights.getLsbD (b2n x.write) = false) ∧
    (∃ job : BitVec 12, ∃ b : BitVec 27, ∃ n : BitVec 17, ∃ s : State, ∀ r ∈ (s.job job.toNat).refs, r.hold = true → rangeMeets b n
      r.va (r.va + 2 ^ 28) = false) ∧
    (∃ job : BitVec 12, ∃ b : BitVec 27, ∃ n : BitVec 17, ∃ s : State, ∃ r ∈ (s.job job.toNat).refs, r.hold = true ∧ rangeMeets b n
      r.va (r.va + 2 ^ 28) = true) ∧
    (∃ h : Fin 8, ∃ i : Fin 64, ∃ r : FaultRec, ∃ s : State, (s.trnHub h.val).records[i.val]? = some r) ∧
    (∃ s : State, s.shoot.now.isSome = true) ∧
    (∃ s : State, s.shoot.now = none) ∧
    (∃ x : Shoot, ∃ s : State, s.shoot.now = some x ∧ (∀ a ∈ x.sent, s.accOver a = true) ∧ s.presentHubs.any s.hcRestarting = false
      ∧ (x.range = none → (s.job x.job).retiring = true → s.allOver (s.job x.job).records = true) ∧ s.shoot.queue = []) ∧
    (∃ x : Shoot, ∃ s : State, ∃ y : Shoot, ∃ r : List Shoot, s.shoot.now = some x ∧ (∀ a ∈ x.sent, s.accOver a = true) ∧
      s.presentHubs.any s.hcRestarting = false ∧ (x.range = none → (s.job x.job).retiring = true → s.allOver (s.job x.job).records =
      true) ∧ s.shoot.queue = y :: r) ∧
    (∃ x : Shoot, ∃ a : Nat, ∃ s : State, s.shoot.now = some x ∧ a ∈ x.sent ∧ s.accOver a = false) :=
  ⟨⟨0, 0, 0, [], tMiss, _, _, _, trnAt { misses := [tMiss] }, _, by decide +kernel, three (by decide +kernel) ⟨prod_eta _, prod_eta
    _⟩⟩,
   ⟨0, tMiss, trnAt { walks := [⟨tMiss, 4, 0⟩] }, ⟨tMiss, 4, 0⟩, by decide +kernel⟩,
   ⟨0, { tMiss with table := some 3 }, trnAt {}, 3, by decide +kernel⟩,
   ⟨0, tMiss, trnAt {}, by decide +kernel⟩,
   ⟨.held 0, by intro _ _ h; cases h⟩,
   ⟨0, 0, 21, 7, tMiss, trnAt { misses := [tMiss] }, by decide +kernel, rfl, by decide +kernel⟩,
   ⟨0, 0, 21, 0, tMiss, trnAt { misses := [tMiss] }, by decide +kernel, rfl, by decide +kernel⟩,
   ⟨0, 0, 1, up, by decide +kernel⟩,
   ⟨0, 0, 1, { up with jobs := [(0, { refs := [⟨0, 0, 0, 0, true, true⟩] })] }, by decide +kernel⟩,
   ⟨0, 0, _, trnAt { records := [tFaultRec] }, some_getD (d := tFaultRec) (by decide +kernel)⟩,
   ⟨{ up with shoot := { now := some tShoot } }, by decide +kernel⟩,
   ⟨up, by decide +kernel⟩,
   ⟨tShoot, { up with shoot := { now := some tShoot } }, by decide +kernel⟩,
   ⟨tShoot, { up with shoot := { now := some tShoot, queue := [tShoot] } }, tShoot, [], by decide +kernel⟩,
   ⟨_, 9, { { up with shoot := { now := some { tShoot with sent := [9] } } } with accesses := [(9, half)] }, some_getD (d := tShoot)
     (by decide +kernel), by decide +kernel⟩⟩
theorem witness_DramChannelsAreKept :
    (∃ pass : BitVec 128, ∃ lo : Nat, ∃ hi : Nat, ∃ i : Nat, (longestRun pass lo hi).first ≤ i ∧ i < (longestRun pass lo hi).first +
      (longestRun pass lo hi).len) ∧
    (∃ pass : BitVec 128, ∃ lo : Nat, ∃ hi : Nat, ∃ f : Nat, ∃ n : Nat, lo ≤ f ∧ f + n ≤ hi ∧ ∀ (i : Nat), f ≤ i → i < f + n →
      pass.getLsbD i = true) ∧
    (∃ pass : BitVec 128, ∃ lo : Nat, ∃ hi : Nat, ∃ f : Nat, lo ≤ f ∧ f + (longestRun pass lo hi).len ≤ hi ∧ (∀ (i : Nat), f ≤ i → i
      < f + (longestRun pass lo hi).len → pass.getLsbD i = true) ∧ 0 < (longestRun pass lo hi).len) ∧
    (∃ c : Nat, ∃ attempts : List (List LaneSweep), ∃ l : List LaneRuns, trainLanes c 3 attempts = some l) ∧
    (∃ c : Nat, ∃ attempts : List (List LaneSweep), ∃ l : List LaneRuns, ∃ r : LaneRuns, trainLanes c 3 attempts = some l ∧ r ∈ l) ∧
    (∃ c : Nat, ∃ attempts : List (List LaneSweep), trainLanes c 3 attempts = none) ∧
    (∃ h : Fin 8, ∃ c : ChanNo, ∃ s : State, ((s.chan h.val ↑c).state = ChState.inService ∨ (s.chan h.val ↑c).state =
      ChState.retraining) ∧ (s.chan h.val ↑c).nextRefresh ≤ s.clk.now) ∧
    (∃ h : Fin 8, ∃ c : ChanNo, ∃ s : State, ((s.chan h.val ↑c).state = ChState.inService ∨ (s.chan h.val ↑c).state =
      ChState.retraining) ∧ s.clk.now < (s.chan h.val ↑c).nextRefresh) ∧
    (∃ s : State, s.fatal = true) ∧
    (∃ h : Fin 8, ∃ s : State, s.hubPresent h.val = true ∧ s.fatal = false) ∧
    (∃ h : Fin 8, ∃ s : State, s.hubPresent h.val = true) ∧
    (∃ at_ : Nat, ∃ h : Nat, ∃ c : Nat, ∃ s : State, s.integ.retrainNow = none ∧ s.fatal = false ∧ List.find? (fun e => (s.chan
      e.2.1 e.2.2).state == ChState.inService && !s.hcRestarting e.2.1) s.integ.retrainQueue = some (at_, h, c)) ∧
    (∃ h : Nat, ∃ c : Nat, ∃ s : State, s.integ.retrainNow = some (h, c) ∧ s.fatal = false) ∧
    (∃ s : State, s.si.hold.channels = []) ∧
    (∃ s : State, ∃ i : Nat, ∃ r : List Nat, s.si.hold.channels = i :: r) ∧
    (∃ h : Fin 8, ∃ c : ChanNo, ∃ s : State, s.fatal = false ∧ ((s.chan h.val ↑c).state = ChState.inService ∨ (s.chan h.val
      ↑c).state = ChState.retraining ∨ (s.chan h.val ↑c).state = ChState.selfRefresh)) ∧
    (∃ h : Fin 8, ∃ c : ChanNo, ∃ s : State, s.srMay h.val ↑c = true ∧ s.fatal = false) ∧
    (∃ h : Fin 8, ∃ c : ChanNo, ∃ s : State, (s.chan h.val ↑c).state = ChState.selfRefresh ∧ (s.chan h.val ↑c).masked = [] ∧ s.fatal
      = false) ∧
    (∃ h : Fin 8, ∃ c : Fin 2, ∃ s : State, (s.chan (h.val) (32 + c.val)).srIdleUs ≠ 0 ∧ s.srMay (h.val) (32 + c.val) = true ∧
      s.fatal = false) :=
  ⟨⟨BitVec.allOnes 128, 0, 128, 0, by decide +kernel⟩,
   ⟨BitVec.allOnes 128, 0, 2, 0, 2, by decide +kernel, by decide +kernel, fun i _ h =>
     by rw [BitVec.getLsbD_allOnes]; exact decide_eq_true (by omega)⟩,
   ⟨BitVec.allOnes 128, 0, 2, 0, by decide +kernel, by decide +kernel, fun i _ h => BitVec.getLsbD_allOnes.trans (decide_eq_true
     (Nat.lt_trans h (by decide +kernel))), by decide +kernel⟩,
   ⟨0, [], _, rfl⟩,
   ⟨0, [], List.replicate (byteLanes 0) {}, {}, rfl, by decide +kernel⟩,
   ⟨0, List.replicate 3 [{ read := 0 }], by decide +kernel⟩,
   ⟨0, 0, chanAt { state := .inService }, by decide +kernel⟩,
   ⟨0, 0, chanAt { state := .inService, nextRefresh := 5 }, by decide +kernel⟩,
   ⟨{ up with sys := { up.sys with fatalAt := some 0 } }, by decide +kernel⟩,
   ⟨0, up, by decide +kernel⟩,
   ⟨0, up, by decide +kernel⟩,
   ⟨0, 0, 0, { chanAt { state := .inService } with integ := { retrainQueue := [(0, 0, 0)] } }, by decide +kernel⟩,
   ⟨0, 0, { chanAt { failures := 2 } with integ := { retrainNow := some (0, 0) } }, rfl, by decide +kernel⟩,
   ⟨up, by decide +kernel⟩,
   ⟨{ up with si := { hold := { channels := [3] } } }, 3, [], by decide +kernel⟩,
   ⟨0, 0, chanAt { state := .selfRefresh }, by decide +kernel⟩,
   ⟨0, 0, chanAt { state := .inService }, by decide +kernel⟩,
   ⟨0, 0, chanAt { state := .selfRefresh }, by decide +kernel⟩,
   ⟨0, 0, chanAt { state := .inService, srIdleUs := 5 }, by decide +kernel⟩⟩
theorem witness_LiftsAndMigrationsGoOn :
    (∃ h : Fin 8, ∃ m : Migration, ∃ s : State, List.find? (fun x => x.hub == h.val) s.integ.migrations = some m ∧ s.fatal = false ∧
      s.migrationPaused m = true) ∧
    (∃ h : Fin 8, ∃ m : Migration, ∃ s : State, List.find? (fun x => x.hub == h.val) s.integ.migrations = some m ∧ s.fatal = false ∧
      s.migrationPaused m = false) ∧
    (∃ k : Fin 32, ∃ e : BitVec 16, ∃ cls : BitVec 4, ∃ given : Bool, ∃ h : Fin 8, ∃ s : State, s.slotMayCarve k.val = true ∧
      s.fatal = false ∧ s.liftRefusal e.toNat cls.toNat given h.val ≠ 0) ∧
    (∃ k : Fin 32, ∃ e : BitVec 16, ∃ cls : BitVec 4, ∃ given : Bool, ∃ h : Fin 8, ∃ s : State, ∃ d : Nat, ∃ f : BitVec 8,
      s.slotMayCarve k.val = true ∧ s.fatal = false ∧ s.liftRefusal e.toNat cls.toNat given h.val = 0 ∧ s.chooseExtent cls.toNat
      given h.val = some (d, f)) ∧
    (∃ k : Fin 32, ∃ e : BitVec 16, ∃ j : LiftJob, ∃ s : State, s.slotMayCarve k.val = true ∧ s.fatal = false ∧ List.find? (fun x =>
      x.src == e && x.phase != LiftPhase.switching) s.lift.queue = some j) ∧
    (∃ j : LiftJob, ∃ r : List LiftJob, ∃ s : State, s.fatal = false ∧ s.lift.queue = j :: r ∧ j.phase = LiftPhase.queued ∧ s.liftOn
      j s.hcRestarting = false ∧ s.liftHeld s.si.hold j = false) ∧
    (∃ j : LiftJob, ∃ r : List LiftJob, ∃ s : State, s.fatal = false ∧ s.lift.queue = j :: r ∧ j.phase = LiftPhase.queued ∧
      s.liftHeld s.si.hold j = true) ∧
    (∃ j : LiftJob, ∃ r : List LiftJob, ∃ s : State, s.lift.queue = j :: r ∧ j.phase = LiftPhase.copying ∧ s.fatal = false ∧
      s.liftPaused j = true) ∧
    (∃ lost : List (BitVec 22), ∃ j : LiftJob, ∃ r : List LiftJob, ∃ s : State, ∃ u : State, s.lift.queue = j :: r ∧ j.phase =
      LiftPhase.copying ∧ s.fatal = false ∧ u = (s.modLift fun x => { x with reading := true }).liftReads (List.map (fun x =>
      x.toNat) lost) ∧ s.liftPaused j = false ∧ (u.lift.queue.any fun k => k.src == j.src && k.next == 2 ^ 22) = true ∧ u.liftRead j
      = true) ∧
    (∃ lost : List (BitVec 22), ∃ j : LiftJob, ∃ r : List LiftJob, ∃ s : State, ∃ u : State, s.lift.queue = j :: r ∧ j.phase =
      LiftPhase.copying ∧ s.fatal = false ∧ u = (s.modLift fun x => { x with reading := true }).liftReads (List.map (fun x =>
      x.toNat) lost) ∧ s.liftPaused j = false ∧ ((u.lift.queue.any fun k => k.src == j.src && k.next == 2 ^ 22) = false ∨ u.liftRead
      j = false)) ∧
    (∃ j : LiftJob, ∃ r : List LiftJob, ∃ s : State, s.lift.queue = j :: r ∧ j.next < 2 ^ 22 ∧ s.ownRoom (j.src.toNat * 2 ^ 22 +
      j.next) = true) ∧
    (∃ j : LiftJob, ∃ r : List LiftJob, ∃ s : State, s.lift.queue = j :: r ∧ (2 ^ 22 ≤ j.next ∨ s.ownRoom (j.src.toNat * 2 ^ 22 +
      j.next) = false)) ∧
    (∃ l : Nat, ∃ j : LiftJob, ∃ r : List LiftJob, ∃ s : State, s.lift.queue = j :: r ∧ l / 2 ^ 22 = j.src.toNat) ∧
    (∃ l : Nat, ∃ j : LiftJob, ∃ r : List LiftJob, ∃ s : State, s.lift.queue = j :: r ∧ l / 2 ^ 22 ≠ j.src.toNat) ∧
    (∃ j : LiftJob, ∃ r : List LiftJob, ∃ s : State, s.lift.queue = j :: r ∧ j.phase = LiftPhase.switching ∧ s.switchReady
      j.src.toNat = true ∧ s.fatal = false ∧ s.liftOn j s.hcRestarting = false) :=
  ⟨⟨0, tMigration, { integAt { migrations := [tMigration] } with chans := [(31, { state := .retraining })] }, by decide +kernel⟩,
   ⟨0, tMigration, integAt { migrations := [tMigration] }, by decide +kernel⟩,
   ⟨0, 0, 2, true, 0, lifting [], by decide +kernel⟩,
   ⟨0, 0, 1, true, 0, lifting [], 4096, 0, three (by decide +kernel) rfl⟩,
   ⟨0, 0, _, lifting [tLiftJob], by decide +kernel, by decide +kernel, some_getD (d := tLiftJob) (by decide +kernel)⟩,
   ⟨tLiftJob, [], lifting [tLiftJob], by decide +kernel⟩,
   ⟨tLiftJob, [], { lifting [tLiftJob] with si := { hold := { classes := 1 } } }, by decide +kernel⟩,
   ⟨{ tLiftJob with phase := .copying }, [],
     { lifting [{ tLiftJob with phase := .copying }] with pwrHubs := [(0, { causes := [.thermal] })] }, by decide +kernel⟩,
   ⟨[], { tLiftJob with phase := .copying, next := 4194304 }, [], lifting [{ tLiftJob with phase := .copying, next := 4194304 }], _,
     three (by decide +kernel) ⟨rfl, by decide +kernel⟩⟩,
   ⟨[], { tLiftJob with phase := .copying, next := 4194304 }, [],
     { lifting [{ tLiftJob with phase := .copying, next := 4194304 }] with lines := [(0, { hub := 0, queue := [{ kind := .rdNc, from_ := .home }] })] },
     _, three (by decide +kernel) ⟨rfl, by decide +kernel⟩⟩,
   ⟨tLiftJob, [], { lifting [tLiftJob] with si := { hold := { classes := 1 } } }, by decide +kernel⟩,
   ⟨{ tLiftJob with next := 4194304 }, [], lifting [{ tLiftJob with next := 4194304 }], by decide +kernel⟩,
   ⟨4194303, tLiftJob, [], lifting [tLiftJob], by decide +kernel⟩,
   ⟨4194304, tLiftJob, [], lifting [tLiftJob], by decide +kernel⟩,
   ⟨{ tLiftJob with phase := .switching }, [], lifting [{ tLiftJob with phase := .switching }], by decide +kernel⟩⟩
theorem witness_StoredDataIsLookedAfter :
    (∃ l : BitVec 38, ∃ h : Nat, ∃ c : Nat, ∃ s : State, s.patrols l.toNat = true ∧ s.fatal = false ∧ s.sys.phase = Phase.awake ∧ h
      = l.toNat / 2 ^ 35 ∧ c = s.chanOf (64 * l.toNat) ∧ s.chanPos (64 * l.toNat) < (s.chan h c).patrolAt) ∧
    (∃ l : BitVec 38, ∃ h : Nat, ∃ c : Nat, ∃ s : State, s.patrols l.toNat = true ∧ s.fatal = false ∧ s.sys.phase = Phase.awake ∧ h
      = l.toNat / 2 ^ 35 ∧ c = s.chanOf (64 * l.toNat) ∧ (s.chan h c).patrolAt ≤ s.chanPos (64 * l.toNat)) ∧
    (∃ sl : Nat, ∃ m : Medium, ∃ u : State, rawMedium (u.rawDecode sl) m = Medium.clean) ∧
    (∃ sl : Nat, ∃ m : Medium, ∃ u : State, ∃ sy : BitVec 7, ∃ b : BitVec 8, ∃ r : BitVec 32, ∃ c : BitVec 16, rawMedium
      (u.rawDecode sl) m = Medium.corrected sy b r c ∧ ((u.lmeta sl).poison = true ∨ u.rawDecode sl = some RsOut.poison)) ∧
    (∃ sl : Nat, ∃ m : Medium, ∃ u : State, ∃ sy : BitVec 7, ∃ b : BitVec 8, ∃ r : BitVec 32, ∃ c : BitVec 16, rawMedium
      (u.rawDecode sl) m = Medium.corrected sy b r c ∧ (u.lmeta sl).poison = false ∧ u.rawDecode sl ≠ some RsOut.poison) ∧
    (∃ sl : Nat, ∃ m : Medium, ∃ u : State, ∃ t : Bool, rawMedium (u.rawDecode sl) m = Medium.uncorrectable t) ∧
    (∃ sl : Nat, ∃ m : Medium, ∃ u : State, ∃ t : Bool, rawMedium (u.rawDecode sl) m = Medium.commandError t) ∧
    (∃ x : Repair, ∃ s : State, ∃ u : State, List.find? (fun y => (s.chan y.hub y.channel).state == ChState.inService &&
      !s.hcRestarting y.hub) s.integ.repairs = some x ∧ s.fatal = false ∧ u =
      { s with integ := { s.integ with repairs := s.integ.repairs.erase x } } ∧ u.spareLeft x = false) ∧
    (∃ x : Repair, ∃ s : State, ∃ u : State, List.find? (fun y => (s.chan y.hub y.channel).state == ChState.inService &&
      !s.hcRestarting y.hub) s.integ.repairs = some x ∧ s.fatal = false ∧ u =
      { s with integ := { s.integ with repairs := s.integ.repairs.erase x } } ∧ u.spareLeft x = true) ∧
    (∃ k : Fin 32, ∃ p : BitVec 32, ∃ s : State, s.slotMayCarve k.val = true ∧ s.fatal = false ∧ s.integ.retireBusy = false ∧
      s.slotState (p.toNat / 65536) = SlotState.absent) ∧
    (∃ k : Fin 32, ∃ p : BitVec 32, ∃ s : State, s.slotMayCarve k.val = true ∧ s.fatal = false ∧ s.integ.retireBusy = false ∧
      s.slotState (p.toNat / 65536) ≠ SlotState.absent ∧ s.integ.retired.contains p.toNat = true) ∧
    (∃ k : Fin 32, ∃ p : BitVec 32, ∃ s : State, s.slotMayCarve k.val = true ∧ s.fatal = false ∧ s.integ.retireBusy = false ∧
      s.slotState (p.toNat / 65536) ≠ SlotState.absent ∧ s.integ.retired.contains p.toNat = false ∧ List.countP (fun q => q / 65536
      / 8192 == p.toNat / 65536 / 8192) s.integ.retired < 4096 ∧ s.copying p.toNat = false ∧ s.rlogRoom = true) ∧
    (∃ k : Fin 32, ∃ p : BitVec 32, ∃ s : State, s.slotMayCarve k.val = true ∧ s.fatal = false ∧ s.integ.retireBusy = false ∧
      s.slotState (p.toNat / 65536) = SlotState.free ∧ s.integ.retired.contains p.toNat = true) ∧
    (∃ path : Path, ∃ l : BitVec 22, ∃ s : State, ∃ u : State, u = { s with integ := { s.integ with splitLine := l } } ∧
      u.rawRefused path = true) ∧
    (∃ path : Path, ∃ l : BitVec 22, ∃ s : State, ∃ u : State, u = { s with integ := { s.integ with splitLine := l } } ∧
      u.rawRefused path = false ∧ u.fatal = true) ∧
    (∃ path : Path, ∃ l : BitVec 22, ∃ s : State, ∃ u : State, u = { s with integ := { s.integ with splitLine := l } } ∧
      u.rawRefused path = false ∧ u.fatal = false) ∧
    (∃ path : Path, ∃ l : BitVec 22, ∃ s : State, ∃ u : State, ∃ d : Line, ∃ c : BitVec 128, ∃ v : State, u =
      { s with integ := { s.integ with splitLine := l } } ∧ u.rawRefused path = false ∧ u.fatal = false ∧ (u.wakeChan (64 *
      u.splitAt)).rawBytes u.splitAt = ((d, c), v)) ∧
    (∃ s : State, s.fatal = false) ∧
    (∃ s : State, s.integ.retireBusy = true ∧ s.integ.releasing = true) ∧
    (∃ s : State, ∃ i : Nat, s.integ.retireBusy = true ∧ s.integ.releasing = true ∧ i < 64) :=
  ⟨⟨0, 0, 0, { patrolled { written := true } with chans := [(0, { state := .inService, patrolAt := 5 })] }, by decide +kernel⟩,
   ⟨0, 0, 0, patrolled { written := true }, by decide +kernel⟩,
   ⟨0, .clean, up, by decide +kernel⟩,
   ⟨0, .corrected 1 2 3 4, patrolled { written := true, poison := true }, 1, 2, 3, 4, by decide +kernel⟩,
   ⟨0, .corrected 1 2 3 4, patrolled { written := true }, 1, 2, 3, 4, by decide +kernel⟩,
   ⟨0, .uncorrectable false, up, false, by decide +kernel⟩,
   ⟨0, .commandError false, up, false, by decide +kernel⟩,
   ⟨_, { chanAt { state := .inService } with integ := { repairs := [tRepair] }, ranks := [(0, { rowsUsed := [(0, 2)] })] }, _,
     some_getD (d := tRepair) (by decide +kernel), by decide +kernel, rfl, by decide +kernel⟩,
   ⟨_, { chanAt { state := .inService } with integ := { repairs := [tRepair] }, ranks := [(0, { rowsUsed := [(0, 1)] })] }, _,
     some_getD (d := tRepair) (by decide +kernel), by decide +kernel, rfl, by decide +kernel⟩,
   ⟨0, 0x00090000, carving, by decide +kernel⟩,
   ⟨0, 0x10007, { carving with integ := { retired := [0x10007] } }, by decide +kernel⟩,
   ⟨0, 7, carving, by decide +kernel, by decide +kernel, rfl, by decide +kernel⟩,
   ⟨0, 0x10007, { carving with integ := { retired := [0x10007] } }, by decide +kernel⟩,
   ⟨.kmp 0, 0, carving, _, rfl, by decide +kernel⟩,
   ⟨.kmp 0, 0, { rawing with sys := { up.sys with fatalAt := some 0 } }, _, rfl, by decide +kernel⟩,
   ⟨.kmp 0, 0, rawing, _, rfl, by decide +kernel⟩,
   ⟨.kmp 0, 0, rawing, _, ((({ (rawing) with integ := { (rawing).integ with splitLine := (0 : BitVec 22) } } : State).wakeChan (64 *
     ({ (rawing) with integ := { (rawing).integ with splitLine := (0 : BitVec 22) } } : State).splitAt)).rawBytes
     ({ (rawing) with integ := { (rawing).integ with splitLine := (0 : BitVec 22) } } : State).splitAt).1.1,
     ((({ (rawing) with integ := { (rawing).integ with splitLine := (0 : BitVec 22) } } : State).wakeChan (64 *
     ({ (rawing) with integ := { (rawing).integ with splitLine := (0 : BitVec 22) } } : State).splitAt)).rawBytes
     ({ (rawing) with integ := { (rawing).integ with splitLine := (0 : BitVec 22) } } : State).splitAt).1.2,
     ((({ (rawing) with integ := { (rawing).integ with splitLine := (0 : BitVec 22) } } : State).wakeChan (64 *
     ({ (rawing) with integ := { (rawing).integ with splitLine := (0 : BitVec 22) } } : State).splitAt)).rawBytes
     ({ (rawing) with integ := { (rawing).integ with splitLine := (0 : BitVec 22) } } : State).splitAt).2, rfl, by decide +kernel,
     by decide +kernel, rfl⟩,
   ⟨up, by decide +kernel⟩,
   ⟨integAt { retireBusy := true, releasing := true }, by decide +kernel⟩,
   ⟨integAt { retireBusy := true, releasing := true }, 0, by decide +kernel⟩⟩
theorem witness_RawAccessesAreRefused :
    ∃ p : Path, ∃ s : State, (s.ten.state = TenState.open_ ∨ s.ten.state = TenState.ending ∨ s.ten.state = TenState.resurfacing) ∨
      (∀ (x : Extent), s.extents.get? s.integ.splitExt.toNat = some x → s.testOnly x.cls.toNat = false) ∨ ∀ (k : Fin 32) (x :
      KmpSession), p = Path.kmp k → s.session ↑k = some x → s.isOperator x = false :=
  ⟨.kmp 0, carving, .inl (.inl (by decide +kernel))⟩
theorem witness_FeedsAndSetsSwitch :
    (∃ s : State, s.pwr.holdB = true) ∧
    (∃ b : Bool, ∃ s : State, b = true ∨ s.pwr.holdB = false) ∧
    (∃ h : Fin 8, ∃ s : State, s.hubPresent h.val = true) ∧
    (∃ hs : List Nat, ∃ s : State, ∃ h ∈ hs, (s.feedOk !(s.pwrHub h).activeB) = false) ∧
    (∃ hs : List Nat, ∃ s : State, ∃ h : Nat, (∀ h ∈ hs, (s.feedOk !(s.pwrHub h).activeB) = true) ∧ hs.Nodup ∧ h ∈ hs) ∧
    (∃ h : Fin 8, ∃ s : State, s.hubPresent h.val = true ∧ (s.pwrHub h.val).activeB = true ∧ (s.pwrHub h.val).acting = false ∧
      s.pwr.holdB = false ∧ s.pwr.feedAOk = true) ∧
    (∃ s : State, s.pwr.feedBOk = true) ∧
    (∃ s : State, s.pwr.feedBOk = false) ∧
    (∃ amps : BitVec 9, ∃ s : State, 2 * s.eff.u8 Sect.power 2 < amps.toNat) ∧
    (∃ amps : BitVec 9, ∃ s : State, amps.toNat ≤ 2 * s.eff.u8 Sect.power 2) :=
  ⟨⟨{ up with pwr := { up.pwr with holdB := true } }, by decide +kernel⟩,
   ⟨true, up, by decide +kernel⟩,
   ⟨0, up, by decide +kernel⟩,
   ⟨[0], { up with pwr := { up.pwr with feedBOk := false } }, by decide +kernel⟩,
   ⟨[0], up, 0, by decide +kernel⟩,
   ⟨0, pwrAt { activeB := true }, by decide +kernel⟩,
   ⟨up, by decide +kernel⟩,
   ⟨{ up with pwr := { up.pwr with feedBOk := false } }, by decide +kernel⟩,
   ⟨1, up, by decide +kernel⟩,
   ⟨0, up, by decide +kernel⟩⟩
theorem witness_PowerIsKeptWithinLimits :
    (∃ h : Fin 8, ∃ ts : List (BitVec 8), ∃ t : BitVec 8, ∃ s : State, s.hubPresent h.val = true ∧ t = List.foldl (fun a x => if a <
      x then x else a) 0 (List.take 24 ts) ∧ 112 ≤ t.toNat) ∧
    (∃ h : Fin 8, ∃ ts : List (BitVec 8), ∃ t : BitVec 8, ∃ s : State, s.hubPresent h.val = true ∧ t = List.foldl (fun a x => if a <
      x then x else a) 0 (List.take 24 ts) ∧ 105 ≤ t.toNat ∧ t.toNat < 112) ∧
    (∃ h : Fin 8, ∃ ts : List (BitVec 8), ∃ t : BitVec 8, ∃ s : State, s.hubPresent h.val = true ∧ t = List.foldl (fun a x => if a <
      x then x else a) 0 (List.take 24 ts) ∧ t.toNat < 105) ∧
    (∃ h : Fin 8, ∃ s : State, s.hubPresent h.val = true) ∧
    (∃ h : Fin 8, ∃ s : State, s.inService h.val = true) ∧
    (∃ h : Fin 8, ∃ amps : BitVec 9, ∃ s : State, (s.pwrHub h.val).causes.contains SnowCause.overCurrent = true ∧ 2 * (s.feedAmps
      (s.pwrHub h.val).activeB amps).feedLimit < amps.toNat ∨ (s.pwrHub h.val).causes.contains SnowCause.thermal = true ∧ 105 ≤
      (s.pwrHub h.val).tj.toNat) ∧
    (∃ h : Fin 8, ∃ c : SnowCause, ∃ amps : BitVec 9, ∃ s : State, (s.pwrHub h.val).causes.contains c = true ∧ s.mayClear (h.val) c
      amps = true) ∧
    (∃ h : Fin 8, ∃ c : Nat, ∃ s : State, (s.pwrHub h.val).snowCap = some c ∧ (s.pwrHub h.val).acting = false) ∧
    (∃ h : Nat, ∃ r : List Nat, ∃ k : Nat, k ∈ h :: r) :=
  ⟨⟨0, [90, 115], _, up, rfl, rfl, by decide +kernel⟩,
   ⟨0, [106, 40], _, up, rfl, rfl, by decide +kernel⟩,
   ⟨0, [90, 40], _, up, rfl, rfl, by decide +kernel⟩,
   ⟨0, up, by decide +kernel⟩,
   ⟨0, up, by decide +kernel⟩,
   ⟨0, 1, pwrAt { causes := [.overCurrent] }, by decide +kernel⟩,
   ⟨0, .test, 0, pwrAt { causes := [.test] }, by decide +kernel⟩,
   ⟨0, 9, pwrAt { snowCap := some 9 }, by decide +kernel, rfl⟩,
   ⟨0, [1], 1, by decide +kernel⟩⟩
theorem witness_FatalStateFailsEverything :
    (∃ s : State, s.fatal = true) ∧
    (∃ s : State, s.fatal = false) ∧
    (∃ s : State, ∃ k : Nat, ∃ x : BulkRx, s.fatal = false ∧ x ∈ s.goFatal.bulkRx.get? k) ∧
    (∃ s : State, ∃ h : Nat, s.fatal = false ∧ h ∈ s.presentHubs) :=
  ⟨⟨{ up with sys := { up.sys with fatalAt := some 0 } }, by decide +kernel⟩,
   ⟨up, by decide +kernel⟩,
   ⟨{ up with bulkRx := [(0, tBulkRx)] }, 0, { tBulkRx with discard := true }, by decide +kernel, by decide +kernel⟩,
   ⟨up, 0, by decide +kernel⟩⟩
theorem witness_SpdmSessionsAreMade :
    (∃ c : SpdmCarrier, ∃ ses : Option (Nat × KmpSession), ∃ s : State, ∃ v : State, SpdmServed s c ses v) ∧
    (∃ c : SpdmCarrier, ∃ ses : Option (Nat × KmpSession), ∃ s : State, ∃ v : State, SpdmServed s c ses v ∧ 1 ≤ (v.spdmSt (spdmFrom
      c)).level) ∧
    (∃ c : SpdmCarrier, ∃ ses : Option (Nat × KmpSession), ∃ s : State, ∃ v : State, SpdmServed s c ses v ∧ 2 ≤ (v.spdmSt (spdmFrom
      c)).level) ∧
    (∃ c : SpdmCarrier, ∃ ses : Option (Nat × KmpSession), ∃ s : State, ∃ v : State, SpdmServed s c ses v ∧ (v.spdmSt (spdmFrom
      c)).level < 2) ∧
    (∃ c : SpdmCarrier, ∃ ses : Option (Nat × KmpSession), ∃ s : State, ∃ v : State, SpdmServed s c ses v ∧ (v.spdmSt (spdmFrom
      c)).level = 0) ∧
    (∃ c : SpdmCarrier, ∃ ses : Option (Nat × KmpSession), ∃ s : State, ∃ v : State, SpdmServed s c ses v ∧ v.spdmReady c ses) ∧
    (∃ c : SpdmCarrier, ∃ ses : Option (Nat × KmpSession), ∃ s : State, ∃ v : State, ∃ k : Fin 16, SpdmServed s c ses v ∧
      v.spdmReady c ses ∧ k ≠ 0) ∧
    (∃ c : SpdmCarrier, ∃ ses : Option (Nat × KmpSession), ∃ s : State, ∃ v : State, ∃ i : BitVec 8, ∃ bs : List (Nat × List Byte),
      SpdmServed s c ses v ∧ v.spdmReady c ses ∧ v.measurements i.toNat = some bs) ∧
    (∃ c : SpdmCarrier, ∃ ses : Option (Nat × KmpSession), ∃ s : State, ∃ v : State, ∃ i : BitVec 8, SpdmServed s c ses v ∧
      v.spdmReady c ses ∧ v.measurements i.toNat = none) ∧
    (∃ c : SpdmCarrier, ∃ ses : Option (Nat × KmpSession), ∃ s : State, ∃ v : State, ∃ x : Instr, SpdmServed s c ses v ∧
      ¬v.spdmReady c ses ∧ x ∈ [Instr.getDigests c, Instr.getCertificate c 0 0 0, Instr.challenge c 0 0, Instr.getMeasurements c 255
      true 0]) ∧
    (∃ c : SpdmCarrier, ∃ ses : Option (Nat × KmpSession), ∃ s : State, ∃ v : State, SpdmServed s c ses v ∧ ((v.spdmSt (spdmFrom
      c)).level < 3 ∧ v.spdmLeads (spdmFrom c) = false ∨ ses.isSome = true)) ∧
    (∃ hdr : KmpHdr, ∃ k : Nat, ∃ s : State, ∃ v : State, ∃ u : State, SpdmServed s (SpdmCarrier.kmp hdr) none v ∧ 3 ≤ (v.spdmSt
      (spdmFrom (SpdmCarrier.kmp hdr))).level ∧ (u = have __src := v.modSpdm (spdmFrom (SpdmCarrier.kmp hdr)) fun x =>
      { x with exch := none }; { __src with freeCtr := v.freeCtr + 1 }) ∧ u.exchangeSlot = some k) ∧
    (∃ h : BitVec 10, ∃ both : Bool, ∃ s : State, ∃ v : State, SpdmServed s (SpdmCarrier.zl h) none v ∧ 3 ≤ (v.spdmSt (SpdmFrom.zl
      h)).level ∧ v.ten.state ≠ TenState.ending ∧ v.ten.state ≠ TenState.resurfacing ∧ (v.sealed = false ∨ v.ten.state =
      TenState.open_ ∧ both = true)) ∧
    (∃ d : BitVec 8, ∃ b : List Byte, ∃ s : State, ∃ v : State, SpdmServed s (SpdmCarrier.peer d b) none v ∧ (3 ≤ (v.spdmSt
      (SpdmFrom.peer d)).level ∨ v.spdmLeads (SpdmFrom.peer d) = true)) ∧
    (∃ c : SpdmCarrier, ∃ ses : Option (Nat × KmpSession), ∃ x : SpdmExch, ∃ s : State, ∃ v : State, SpdmServed s c ses v ∧
      (v.spdmSt (spdmFrom c)).exch = some x) ∧
    (∃ c : SpdmCarrier, ∃ ses : Option (Nat × KmpSession), ∃ sig : Bool, ∃ x : SpdmExch, ∃ s : State, ∃ v : State, SpdmServed s c
      ses v ∧ (v.spdmSt (spdmFrom c)).exch = some x ∧ x.both = true ∧ (x.root = none ∨ sig = false)) ∧
    (∃ ses : Option (Nat × KmpSession), ∃ sig : Bool, ∃ x : SpdmExch, ∃ s : State, ∃ v : State, ∃ hdr : KmpHdr, ∃ k : Nat,
      SpdmServed s (SpdmCarrier.kmp hdr) ses v ∧ (v.spdmSt (spdmFrom (SpdmCarrier.kmp hdr))).exch = some x ∧ (x.both = false ∨
      x.root ≠ none ∧ sig = true) ∧ x.slot = some k) ∧
    (∃ ses : Option (Nat × KmpSession), ∃ sig : Bool, ∃ x : SpdmExch, ∃ s : State, ∃ v : State, ∃ h : BitVec 10, SpdmServed s
      (SpdmCarrier.zl h) ses v ∧ (v.spdmSt (spdmFrom (SpdmCarrier.zl h))).exch = some x ∧ (x.both = false ∨ x.root ≠ none ∧ sig =
      true) ∧ (v.modSpdm (spdmFrom (SpdmCarrier.zl h)) fun y => { y with exch := none }).ten.state ≠ TenState.ending ∧ (v.modSpdm
      (spdmFrom (SpdmCarrier.zl h)) fun y => { y with exch := none }).ten.state ≠ TenState.resurfacing ∧ ((v.modSpdm (spdmFrom
      (SpdmCarrier.zl h)) fun y => { y with exch := none }).sealed = false ∨ (v.modSpdm (spdmFrom (SpdmCarrier.zl h)) fun y =>
      { y with exch := none }).authOf (if x.both = true then x.root else none) = Auth.tenant)) ∧
    (∃ ses : Option (Nat × KmpSession), ∃ sig : Bool, ∃ x : SpdmExch, ∃ s : State, ∃ v : State, ∃ d : BitVec 8, ∃ b : List Byte,
      SpdmServed s (SpdmCarrier.peer d b) ses v ∧ (v.spdmSt (spdmFrom (SpdmCarrier.peer d b))).exch = some x ∧ (x.both = false ∨
      x.root ≠ none ∧ sig = true) ∧ x.root = some Config.kywynRoot ∧ ((v.modSpdm (spdmFrom (SpdmCarrier.peer d b)) fun y =>
      { y with exch := none }).sealed = false ∨ (v.modSpdm (spdmFrom (SpdmCarrier.peer d b)) fun y =>
      { y with exch := none }).peerTenant b = true)) ∧
    (∃ ses : Option (Nat × KmpSession), ∃ sig : Bool, ∃ x : SpdmExch, ∃ s : State, ∃ v : State, ∃ d : BitVec 8, ∃ b : List Byte,
      SpdmServed s (SpdmCarrier.peer d b) ses v ∧ (v.spdmSt (spdmFrom (SpdmCarrier.peer d b))).exch = some x ∧ (x.both = false ∨
      x.root ≠ none ∧ sig = true) ∧ (x.root ≠ some Config.kywynRoot ∨ (v.modSpdm (spdmFrom (SpdmCarrier.peer d b)) fun y =>
      { y with exch := none }).sealed = true ∧ (v.modSpdm (spdmFrom (SpdmCarrier.peer d b)) fun y =>
      { y with exch := none }).peerTenant b = false)) ∧
    (∃ c : SpdmCarrier, ∃ ses : Option (Nat × KmpSession), ∃ s : State, ∃ v : State, SpdmServed s c ses v ∧ v.spdmSecure (spdmFrom
      c) (Option.map (fun x => x.1) ses) = true) ∧
    (∃ c : SpdmCarrier, ∃ ses : Option (Nat × KmpSession), ∃ s : State, ∃ v : State, ∃ x : Instr, SpdmServed s c ses v ∧
      v.spdmSecure (spdmFrom c) (Option.map (fun x => x.1) ses) = false ∧ x ∈ [Instr.heartbeat c, Instr.keyUpdate c,
      Instr.endSession c]) ∧
    (∃ c : SpdmCarrier, ∃ ses : Option (Nat × KmpSession), ∃ x : SpdmExch, ∃ s : State, ∃ v : State, SpdmServed s c ses v ∧
      (v.spdmSt (spdmFrom c)).exch = some x ∧ x.both = true) ∧
    (∃ c : SpdmCarrier, ∃ ses : Option (Nat × KmpSession), ∃ x : SpdmExch, ∃ n : BitVec 4, ∃ s : State, ∃ v : State, SpdmServed s c
      ses v ∧ (v.spdmSt (spdmFrom c)).exch = some x ∧ x.both = true ∧ 1 ≤ n.toNat ∧ n.toNat ≤ 4) ∧
    (∃ c : SpdmCarrier, ∃ ses : Option (Nat × KmpSession), ∃ x : SpdmExch, ∃ n : BitVec 4, ∃ s : State, ∃ v : State, ∃ ok : Bool,
      SpdmServed s c ses v ∧ (v.spdmSt (spdmFrom c)).exch = some x ∧ x.both = true ∧ (n = 0 ∨ 4 < n.toNat ∨ ok = false)) ∧
    (∃ c : SpdmCarrier, ∃ ses : Option (Nat × KmpSession), ∃ hd : BitVec 8, ∃ n : BitVec 16, ∃ b : List Byte, ∃ s : State, ∃ v :
      State, SpdmServed s c ses v ∧ v.spdmReady c ses ∧ (n = 0 ∧ b = [] ∨ n ≠ 0 ∧ (v.spdmSt (spdmFrom c)).chunkIn = some (hd,
      n.toNat, b))) ∧
    (∃ c : SpdmCarrier, ∃ ses : Option (Nat × KmpSession), ∃ hd : BitVec 8, ∃ n : BitVec 16, ∃ b : List Byte, ∃ s : State, ∃ v :
      State, SpdmServed s c ses v ∧ v.spdmReady c ses ∧ (v.spdmSt (spdmFrom c)).chunkOut = some (hd, b) ∧ (n = 0 ∨ chunkBytes *
      n.toNat < b.length)) :=
  ⟨⟨c0, none, sp { level := 3 }, _, .inr ⟨rfl, rfl, some_getD (d := up) (by decide +kernel), by decide +kernel⟩⟩,
   ⟨c0, none, sp { level := 1 }, _, .inr ⟨rfl, rfl, some_getD (d := up) (by decide +kernel), by decide +kernel⟩, by decide +kernel⟩,
   ⟨c0, none, sp { level := 2 }, _, .inr ⟨rfl, rfl, some_getD (d := up) (by decide +kernel), by decide +kernel⟩, by decide +kernel⟩,
   ⟨c0, none, sp { level := 0 }, _, .inr ⟨rfl, rfl, some_getD (d := up) (by decide +kernel), by decide +kernel⟩, by decide +kernel⟩,
   ⟨c0, none, sp { level := 0 }, _, .inr ⟨rfl, rfl, some_getD (d := up) (by decide +kernel), by decide +kernel⟩, by decide +kernel⟩,
   ⟨c0, none, sp { level := 3 }, _, .inr ⟨rfl, rfl, some_getD (d := up) (by decide +kernel), by decide +kernel⟩,
     by unfold State.spdmReady; decide +kernel⟩,
   ⟨c0, none, sp { level := 3 }, _, 1, .inr ⟨rfl, rfl, some_getD (d := up) (by decide +kernel), by decide +kernel⟩,
     by unfold State.spdmReady; decide +kernel, by decide +kernel⟩,
   ⟨c0, none, sp { level := 3 }, _, 0, [(0, [13])], .inr ⟨rfl, rfl, some_getD (d := up) (by decide +kernel), by decide +kernel⟩,
     by unfold State.spdmReady; decide +kernel, by decide +kernel⟩,
   ⟨c0, none, sp { level := 3 }, _, 20, .inr ⟨rfl, rfl, some_getD (d := up) (by decide +kernel), by decide +kernel⟩,
     by unfold State.spdmReady; decide +kernel, by decide +kernel⟩,
   ⟨c0, none, sp { level := 1 }, _, .getDigests c0, .inr ⟨rfl, rfl, some_getD (d := up) (by decide +kernel), by decide +kernel⟩,
     by unfold State.spdmReady; decide +kernel, by decide +kernel⟩,
   ⟨c0, none, sp { level := 1 }, _, .inr ⟨rfl, rfl, some_getD (d := up) (by decide +kernel), by decide +kernel⟩, by decide +kernel⟩,
   ⟨hdr0, _, sp { level := 3 }, _, _, .inr ⟨rfl, rfl, some_getD (d := up) (by decide +kernel), by decide +kernel⟩,
     by decide +kernel, rfl, some_getD (d := 0) (by decide +kernel)⟩,
   ⟨5, true, spz { level := 3 }, { (spz { level := 3 }) with ten := { (spz { level := 3 }).ten with frags := [] } }, ⟨rfl, _, rfl,
     by decide +kernel, three (by decide +kernel) rfl⟩, by decide +kernel⟩,
   ⟨3, [], spp {}, _, ⟨rfl, by decide +kernel, three (by decide +kernel) rfl⟩, by decide +kernel⟩,
   ⟨c0, none, { tSpdmExch with both := true, root := none }, sp
     { level := 3, exch := some { tSpdmExch with both := true, root := none } }, _, .inr ⟨rfl, rfl, some_getD (d := up)
     (by decide +kernel), by decide +kernel⟩, by decide +kernel⟩,
   ⟨c0, none, false, { tSpdmExch with both := true }, sp { level := 3, exch := some { tSpdmExch with both := true } }, _, .inr ⟨rfl,
     rfl, some_getD (d := up) (by decide +kernel), by decide +kernel⟩, by decide +kernel⟩,
   ⟨none, false, tSpdmExch, sp { level := 3, exch := some tSpdmExch }, _, hdr0, 2, .inr ⟨rfl, rfl, some_getD (d := up)
     (by decide +kernel), by decide +kernel⟩, by decide +kernel⟩,
   ⟨none, false, tSpdmExch, spz { level := 3, exch := some tSpdmExch }, _, 5, ⟨rfl, _, rfl, by decide +kernel, three
     (by decide +kernel) rfl⟩, by decide +kernel⟩,
   ⟨none, true, { tSpdmExch with root := some Config.kywynRoot }, spp
     { exch := some { tSpdmExch with root := some Config.kywynRoot } }, _, 3, [], ⟨rfl, by decide +kernel, three (by decide +kernel)
     rfl⟩, rfl, .inl rfl, rfl, .inl (by decide +kernel)⟩,
   ⟨none, true, tSpdmExch, spp { exch := some tSpdmExch }, _, 3, [], ⟨rfl, by decide +kernel, three (by decide +kernel) rfl⟩,
     by decide +kernel, .inl rfl, .inl (by simp [tSpdmExch])⟩,
   ⟨.kmp tKmpHdr, some (0, tKmpSession), ops, _, .inl ⟨0, tKmpSession, rfl, by decide +kernel, served (by decide +kernel)⟩, rfl⟩,
   ⟨c0, none, sp { level := 3 }, _, .heartbeat c0, .inr ⟨rfl, rfl, some_getD (d := up) (by decide +kernel), by decide +kernel⟩,
     by decide +kernel⟩,
   ⟨c0, none, { tSpdmExch with both := true, root := none }, sp
     { level := 3, exch := some { tSpdmExch with both := true, root := none } }, _, .inr ⟨rfl, rfl, some_getD (d := up)
     (by decide +kernel), by decide +kernel⟩, by decide +kernel⟩,
   ⟨c0, none, { tSpdmExch with both := true, root := none }, 2, sp
     { level := 3, exch := some { tSpdmExch with both := true, root := none } }, _, .inr ⟨rfl, rfl, some_getD (d := up)
     (by decide +kernel), by decide +kernel⟩, by decide +kernel⟩,
   ⟨c0, none, { tSpdmExch with both := true, root := none }, 0, sp
     { level := 3, exch := some { tSpdmExch with both := true, root := none } }, _, false, .inr ⟨rfl, rfl, some_getD (d := up)
     (by decide +kernel), by decide +kernel⟩, by decide +kernel⟩,
   ⟨c0, none, 0, 0, [], sp { level := 3 }, _, .inr ⟨rfl, rfl, some_getD (d := up) (by decide +kernel), by decide +kernel⟩,
     by unfold State.spdmReady; decide +kernel, by decide +kernel⟩,
   ⟨c0, none, 7, 0, [1, 2], sp { level := 3, chunkOut := some (7, [1, 2]) }, _, .inr ⟨rfl, rfl, some_getD (d := up)
     (by decide +kernel), by decide +kernel⟩, by unfold State.spdmReady; decide +kernel, by decide +kernel⟩⟩
theorem witness_FragmentsAndSealsAreKept :
    (∃ h : BitVec 10, ∃ s : State, s.hears h = true) ∧
    (∃ h : BitVec 10, ∃ i : BitVec 8, ∃ f : SpdmFrag, ∃ s : State, s.hears h = true ∧ i ≠ 0 ∧ s.ten.frags.get? h.toNat = some f ∧
      f.next = i.toNat ∧ f.whole = false) ∧
    (∃ h : BitVec 10, ∃ i : BitVec 8, ∃ m : BitVec 24, ∃ f : SpdmFrag, ∃ s : State, s.hears h = true ∧ i ≠ 0 ∧ s.ten.frags.get?
      h.toNat = some f ∧ (f.mseq ≠ m ∨ f.next ≠ i.toNat ∨ f.whole = true)) ∧
    (∃ h : BitVec 10, ∃ tags : List (BitVec 128), ∃ s : State, s.hears h = true ∧ 1 ≤ tags.length ∧ tags.length ≤ 16) ∧
    (∃ h : BitVec 10, ∃ lvc : BitVec 3, ∃ t : SealTag, ∃ r : List SealTag, ∃ s : State, List.filter (fun x => x.host == h && x.lvc
      == lvc) s.ten.tagsOut = t :: r ∧ s.sys.portsStopped = false ∧ (s.host h.toNat).dead = false) ∧
    (∃ t : SealTag, t.alone = true) ∧
    (∃ t : SealTag, ∃ n : Nat, ∃ r : List SealTag, ∃ i : Nat, ∃ x : SealTag, (sealRun t n r)[i]? = some x) :=
  ⟨⟨5, up, by decide +kernel⟩,
   ⟨5, 1, tSpdmFrag, { up with ten := { frags := [(5, tSpdmFrag)] } }, by decide +kernel⟩,
   ⟨5, 2, 0, _, { up with ten := { frags := [(5, tSpdmFrag)] } }, by decide +kernel, by decide +kernel, some_getD (d := tSpdmFrag)
     (by decide +kernel), by decide +kernel⟩,
   ⟨5, [9], up, by decide +kernel⟩,
   ⟨5, 0, tSealTag, [], { up with ten := { tagsOut := [tSealTag] } }, by decide +kernel, by decide +kernel, rfl⟩,
   ⟨{ tSealTag with alone := true }, by decide +kernel⟩,
   ⟨tSealTag, 15, [{ tSealTag with tseq := 1 }], 0, { tSealTag with tseq := 1 }, by decide +kernel⟩⟩
theorem witness_FirmwareUpdatesGoOn :
    (∃ p : Path, ∃ s : State, ∃ x : Instr, s.fwTakes p = false ∧ x ∈ [Instr.fwOpen p, Instr.verify p, Instr.start p, Instr.abort p,
      Instr.rollback p]) ∧
    (∃ p : Path, ∃ s : State, s.fwTakes p = true ∧ s.fw.phase ≤ 1 ∧ s.fw.writing = false ∧ s.mayTake p s.fw.stage = true) ∧
    (∃ p : Path, ∃ s : State, s.fwTakes p = true ∧ (1 < s.fw.phase ∨ s.fw.writing = true ∨ s.mayTake p s.fw.stage = false)) ∧
    (∃ p : Path, ∃ b : StageBuf, ∃ s : State, s.fwTakes p = true ∧ s.fw.phase ≤ 1 ∧ s.fw.writing = false ∧ s.fw.stage = some b) ∧
    (∃ f : Fw, f.pendHc ≠ none) ∧
    (∃ f : Fw, f.pendSp ≠ none) ∧
    (∃ b : StageBuf, packageOk b = false) ∧
    (∃ b : StageBuf, packageOk b = true) ∧
    (∃ p : Path, ∃ s : State, s.fwTakes p = true ∧ (s.fw.phase = 1 ∨ s.fw.phase = 3) ∧ s.fw.writing = false ∧ s.si.state =
      SiState.idle) ∧
    (∃ p : Path, ∃ s : State, s.fwTakes p = true ∧ (s.fw.phase = 1 ∨ s.fw.phase = 3) ∧ s.fw.writing = false ∧ s.si.state ≠
      SiState.idle) ∧
    (∃ s : State, ∃ h : Nat, ∃ r : List Nat, s.fw.phase = 2 ∧ s.hubsLeft = h :: r) ∧
    (∃ s : State, s.fw.phase = 2 ∧ s.hubsLeft = []) ∧
    (∃ p : Path, ∃ s : State, s.fwTakes p = true ∧ s.fw.writing = false ∧ s.fw.phase = 1) ∧
    (∃ p : Path, ∃ s : State, s.fwTakes p = true ∧ s.fw.writing = false ∧ (s.fw.phase = 3 ∨ s.fw.phase = 5)) ∧
    (∃ p : Path, ∃ s : State, s.fwTakes p = true ∧ s.fw.writing = false ∧ s.fw.phase ≠ 1 ∧ s.fw.phase ≠ 3 ∧ s.fw.phase ≠ 5) ∧
    (∃ p : Path, ∃ hubs : List Nat, ∃ sp : Bool, ∃ s : State, s.fwTakes p = true ∧ s.fw.phase = 0 ∧ s.fw.writing = false ∧
      s.fw.restart = none ∧ s.si.state = SiState.idle ∧ hubs = List.filter (fun h =>
      match s.fw.hcStandby h with | some y => decide (s.fw.svn ≤ y.svn) | none => false) s.presentHubs ∧ (sp =
      match s.fw.spStandby with | some y => decide (s.fw.svn ≤ y.svn) | none => false) ∧ (hubs ≠ [] ∨ sp = true) ∧ (s.hubReleases ++
      List.map (fun h => relOf (versionOf (s.fw.hcStandby h))) hubs).all (releaseFits (relOf (versionOf (if sp = true then
      s.fw.spStandby else s.fw.spImage)))) = true) ∧
    (∃ p : Path, ∃ s : State, s.fwTakes p = true ∧ (s.fw.phase ≠ 0 ∨ s.si.state ≠ SiState.idle)) ∧
    (∃ s : State, s.fw.writing = true ∧ s.fatal = false) ∧
    (∃ h : Nat, ∃ s : State, s.fw.yielding = some h ∧ s.fw.restart = none ∧ (s.hub h).phase = PartialPhase.none ∧ s.hubYielded h =
      true ∧ s.fatal = false) ∧
    (∃ h : Nat, ∃ r : FwRestart, ∃ s : State, s.fw.restart = some r ∧ r.hub = some h ∧ s.fatal = false ∧ (s.hub h).phase =
      PartialPhase.none ∧ s.fw.phase ≠ 6) ∧
    (∃ s : State, s.fw.phase = 2 ∧ s.fw.yielding ≠ none ∧ s.fatal = false) ∧
    (∃ s : State, (s.fw.phase = 4 ∨ s.fw.phase = 6 ∧ s.fw.returning.head? = some none) ∧ s.fw.restart = none ∧ s.fatal = false) ∧
    (∃ r : FwRestart, ∃ s : State, s.fw.restart = some r ∧ r.hub = none ∧ s.fatal = false ∧ s.fw.phase = 4) ∧
    (∃ r : FwRestart, ∃ s : State, ∃ h : Nat, s.fw.restart = some r ∧ s.fatal = false ∧ r.hub = some h ∧ s.fw.phase = 2) ∧
    (∃ r : FwRestart, ∃ s : State, ∃ h : Nat, s.fw.restart = some r ∧ s.fatal = false ∧ r.hub = some h ∧ s.fw.phase ≠ 2) ∧
    (∃ r : FwRestart, ∃ s : State, s.fw.restart = some r ∧ s.fatal = false ∧ r.hub = none ∧ s.fw.phase = 4) ∧
    (∃ s : State, s.fw.phase = 5 ∧ s.fatal = false) :=
  ⟨⟨.i3c, fwAt { }, .start .i3c, by decide +kernel⟩,
   ⟨.kmp 0, fwAt { }, by decide +kernel⟩,
   ⟨.kmp 0, fwAt { phase := 2 }, by decide +kernel⟩,
   ⟨.kmp 0, package, fwAt { stage := some package }, by decide +kernel⟩,
   ⟨{ pendHc := some oldFw }, by decide +kernel⟩,
   ⟨{ pendSp := some oldFw }, by decide +kernel⟩,
   ⟨tStageBuf, by decide +kernel⟩,
   ⟨package, by decide +kernel⟩,
   ⟨.kmp 0, fwAt { phase := 1 }, by decide +kernel⟩,
   ⟨.kmp 0, { fwAt { phase := 1 } with si := { state := .staging } }, by decide +kernel⟩,
   ⟨fwAt { phase := 2, pendHc := some { oldFw with version := 9 } }, (0 : Nat), [1, 2, 3, 4, 5, 6, 7], by decide +kernel⟩,
   ⟨fwAt { phase := 2 }, by decide +kernel⟩,
   ⟨.kmp 0, fwAt { phase := 1 }, by decide +kernel⟩,
   ⟨.kmp 0, fwAt { phase := 5 }, by decide +kernel⟩,
   ⟨.kmp 0, fwAt { phase := 4 }, by decide +kernel⟩,
   ⟨.kmp 0, _, _, fwAt { hcB := some oldFw }, by decide +kernel, by decide +kernel, three (by decide +kernel) ⟨rfl, rfl,
     by decide +kernel⟩⟩,
   ⟨.kmp 0, fwAt { phase := 4 }, by decide +kernel⟩,
   ⟨fwAt { writing := true }, by decide +kernel⟩,
   ⟨0, fwAt { yielding := some 0 }, by decide +kernel⟩,
   ⟨0, tFwRestart, fwAt { phase := 4, restart := some tFwRestart }, by decide +kernel⟩,
   ⟨fwAt { phase := 2, yielding := some 0 }, by decide +kernel⟩,
   ⟨fwAt { phase := 4 }, by decide +kernel⟩,
   ⟨_, fwAt { phase := 4, restart := some { tFwRestart with hub := none } }, some_getD (d := tFwRestart) (by decide +kernel),
     by decide +kernel⟩,
   ⟨_, fwAt { phase := 2, restart := some tFwRestart }, 0, some_getD (d := tFwRestart) (by decide +kernel), by decide +kernel⟩,
   ⟨_, fwAt { phase := 6, restart := some tFwRestart }, 0, some_getD (d := tFwRestart) (by decide +kernel), by decide +kernel⟩,
   ⟨_, fwAt { phase := 4, restart := some { tFwRestart with hub := none } }, some_getD (d := tFwRestart) (by decide +kernel),
     by decide +kernel⟩,
   ⟨fwAt { phase := 5 }, by decide +kernel⟩⟩
theorem witness_TraceCommandsComplete :
    (∃ p : Path, ∃ s : State, s.operates p 0 = true) ∧
    (∃ p : Path, ∃ s : State, s.operates p 0 = false) ∧
    (∃ k : Fin 32, ∃ x : KmpSession, ∃ s : State, s.operates (Path.kmp k) 0 = true ∧ s.session k.val = some x) ∧
    (∃ s : State, s.trig.postOpen = true) ∧
    (∃ s : State, s.exportMode = 1 ∧ s.trig.kmpTarget = none) ∧
    (∃ k : Nat, ∃ x : KmpSession, ∃ l : List TraceRec, ∃ s : State, ∃ u : State, s.exportMode = 1 ∧ s.trig.kmpTarget = some k ∧
      s.session k = some x ∧ s.sys.portsStopped = false ∧ (∀ (t : Nat), s.trig.lastTraceAt = some t → t + 20000 ≤ s.clk.now) ∧
      s.takeRecords 43 (List.range 8) = (l, u) ∧ l ≠ []) ∧
    (∃ p : Path, ∃ s : State, s.operates p s.exportHub = true ∧ s.exportHere s.exportHub = true) ∧
    (∃ p : Path, ∃ h : Fin 8, ∃ s : State, s.operates p h.val = true) ∧
    (∃ p : Path, ∃ h : Fin 8, ∃ b : BitVec 8, ∃ s : State, s.operates p h.val = true ∧ counterBlocks.contains b.toNat = true ∧
      b.toNat ≠ 15) ∧
    (∃ p : Path, ∃ h : Fin 8, ∃ b : BitVec 8, ∃ s : State, s.operates p h.val = true ∧ counterBlocks.contains b.toNat = false ∧
      b.toNat ≠ 15) :=
  ⟨⟨.kmp 0, ops, by decide +kernel⟩,
   ⟨.i3c, ops, by decide +kernel⟩,
   ⟨0, _, ops, by decide +kernel, some_getD (d := tKmpSession) (by decide +kernel)⟩,
   ⟨{ ops with si := { committed := true }, eff := [(11, [(0, 1), (1, 0), (2, 1), (4, 0)])], trig := { postOpen := true } },
     by decide +kernel⟩,
   ⟨{ ops with si := { committed := true }, eff := [(11, [(0, 1), (1, 1), (2, 1), (4, 0)])], trig := { } }, by decide +kernel⟩,
   ⟨0, tKmpSession, _,
     { { ops with si := { committed := true }, eff := [(11, [(0, 1), (1, 1), (2, 1), (4, 0)])], trig := { kmpTarget := some 0 } } with traceHubs := [(0, { queue := [⟨0, false, false, 0, 0, 0, 0, 0, 0, 0, 0, 0, 0⟩] })] },
     _, by decide +kernel, by decide +kernel, three (by decide +kernel) ⟨prod_eta _, by decide +kernel⟩⟩,
   ⟨.kmp 0, { ops with si := { committed := true }, eff := [(11, [(0, 1), (1, 2), (2, 1), (4, 0)])], trig := { } },
     by decide +kernel⟩,
   ⟨.kmp 0, 0, ops, by decide +kernel⟩,
   ⟨.kmp 0, 0, 4, ops, by decide +kernel⟩,
   ⟨.kmp 0, 0, 0, ops, by decide +kernel⟩⟩
theorem witness_RegisterWritesAreResolved :
    (∃ p : Path, ∃ a : Word, ∃ s : State, s.isTenant p = false ∨ tenantWrites (addrHub a) (addrBlock a) (addrOff a) = true) ∧
    (∃ p : Path, ∃ a : Word, ∃ s : State, s.isTenant p = true ∧ tenantWrites (addrHub a) (addrBlock a) (addrOff a) = false) ∧
    (∃ a : Word, illegalAddr a = true) ∧
    (∃ p : Path, ∃ a : Word, ∃ s : State, illegalAddr a = false ∧ s.mayWrite p (addrHub a) (addrBlock a) (addrOff a) = false) ∧
    (∃ p : Path, ∃ a : Word, ∃ s : State, illegalAddr a = false ∧ s.mayWrite p (addrHub a) (addrBlock a) (addrOff a) = true ∧
      s.writes p (addrHub a) (addrBlock a) (addrOff a) = true ∧ s.blockHere (addrHub a) (addrBlock a) = true ∧ (s.hub (addrHub
      a)).phase ≠ PartialPhase.none ∧ addrBlock a ≠ 1) ∧
    (∃ p : Path, ∃ a : Word, ∃ s : State, illegalAddr a = false ∧ s.mayWrite p (addrHub a) (addrBlock a) (addrOff a) = true ∧
      s.writes p (addrHub a) (addrBlock a) (addrOff a) = false) ∧
    (∃ p : Path, ∃ s : State, s.isTenant p = false) ∧
    (∃ p : Path, ∃ h : Fin 8, ∃ b : Byte, ∃ s : State, s.isTenant p = false ∨ tenantWrites (addrHub (mbxReqAddr (h.val)
      (BitVec.toNat b))) (addrBlock (mbxReqAddr (h.val) (BitVec.toNat b))) (addrOff (mbxReqAddr (h.val) (BitVec.toNat b))) = true) ∧
    (∃ hdr : KmpHdr, ∃ k : Fin 32, ∃ x : KmpSession, ∃ a : Word, ∃ n : Byte, ∃ s : State, ∃ v : State, KmpServed s hdr (k.val) x v ∧
      (illegalAddr a = true ∨ n = 0 ∨ 64 < BitVec.toNat n ∨ 2 ^ 18 < addrOff a + 4 * BitVec.toNat n)) ∧
    (∃ hdr : KmpHdr, ∃ k : Fin 32, ∃ x : KmpSession, ∃ a : Word, ∃ n : Byte, ∃ s : State, ∃ v : State, ∃ u : State, ∃ l : List Word,
      KmpServed s hdr (k.val) x v ∧ illegalAddr a = false ∧ 1 ≤ BitVec.toNat n ∧ BitVec.toNat n ≤ 64 ∧ addrOff a + 4 * BitVec.toNat
      n ≤ 2 ^ 18 ∧ (v.pathUsage (Path.kmp k)).getLsbD 0 = true ∧ v.readRun (Path.kmp k) a (BitVec.toNat n) = (l, u)) ∧
    (∃ hdr : KmpHdr, ∃ k : Fin 32, ∃ x : KmpSession, ∃ a : Word, ∃ n : Byte, ∃ s : State, ∃ v : State, KmpServed s hdr (k.val) x v ∧
      illegalAddr a = false ∧ 1 ≤ BitVec.toNat n ∧ BitVec.toNat n ≤ 64 ∧ addrOff a + 4 * BitVec.toNat n ≤ 2 ^ 18 ∧ (v.pathUsage
      (Path.kmp k)).getLsbD 0 = false ∧ v.isTenant (Path.kmp k) = false) ∧
    (∃ hdr : KmpHdr, ∃ k : Fin 32, ∃ x : KmpSession, ∃ ps : List (Word × Word), ∃ s : State, ∃ v : State, KmpServed s hdr (k.val) x
      v ∧ (ps = [] ∨ 128 < ps.length)) ∧
    (∃ hdr : KmpHdr, ∃ k : Fin 32, ∃ x : KmpSession, ∃ ps : List (Word × Word), ∃ e : WriteEnv, ∃ s : State, ∃ v : State, ∃ u :
      State, ∃ rs : List (BitVec 8), KmpServed s hdr (k.val) x v ∧ ps ≠ [] ∧ ps.length ≤ 128 ∧ v.isTenant (Path.kmp k) = false ∧
      v.writePairs (Path.kmp k) e ps = (rs, u)) ∧
    (∃ p : Path, ∃ e : WriteEnv, ∃ ps : List (Word × Word), ∃ s : State, ∃ u : State, ∃ rs : List (BitVec 8), s.writePairs p e ps =
      (rs, u)) ∧
    (∃ p : Path, ∃ e : WriteEnv, ∃ ps : List (Word × Word), ∃ s : State, ∃ u : State, ∃ rs : List (BitVec 8), ∃ i : Nat, ∃ r :
      BitVec 8, ∃ k : Nat, s.writePairs p e ps = (rs, u) ∧ rs[i]? = some r ∧ refusedPair r = true ∧ i < k ∧ k < ps.length) :=
  ⟨⟨.kmp 0, 0, ops, by decide +kernel⟩,
   ⟨.kmp 0, 0, { ops with kmp := [(0, { tKmpSession with auth := .tenant })] }, by decide +kernel⟩,
   ⟨1, by decide +kernel⟩,
   ⟨.kmp 0, 0, { ops with kmp := [(0, { tKmpSession with auth := .nothing })] }, by decide +kernel⟩,
   ⟨.kmp 0, BitVec.ofNat 32 (0x10 * 2 ^ 18), { ops with hubs := [(0, { upHub with phase := .reset })] }, by decide +kernel⟩,
   ⟨.jtag, 0, ops, by decide +kernel⟩,
   ⟨.kmp 0, ops, by decide +kernel⟩,
   ⟨.kmp 0, 0, 4, ops, by decide +kernel⟩,
   ⟨tKmpHdr, 0, tKmpSession, 0, 0, ops, _, served (by decide +kernel), by decide +kernel⟩,
   ⟨tKmpHdr, 0, tKmpSession, 0, 1, ops, _, _, _, served (by decide +kernel), by decide +kernel, by decide +kernel, three
     (by decide +kernel) (prod_eta _)⟩,
   ⟨tKmpHdr, 0, { tKmpSession with auth := .nothing }, 0, 1, { ops with kmp := [(0, { tKmpSession with auth := .nothing })] }, _,
     served (by decide +kernel), by decide +kernel⟩,
   ⟨tKmpHdr, 0, tKmpSession, [], ops, _, served (by decide +kernel), by decide +kernel⟩,
   ⟨tKmpHdr, 0, tKmpSession, [(0, 0)], {}, ops, _, _, _, served (by decide +kernel), three (by decide +kernel) (prod_eta _)⟩,
   ⟨.kmp 0, {}, [(1, 0)], ops, _, _, prod_eta _⟩,
   ⟨.kmp 0, {}, [(1, 0), (5, 0)], ops, _, _, 0, 6, 1, prod_eta _, by decide +kernel⟩⟩
theorem witness_IllegalAddressesReachNoRegister :
    (∃ a : Word, BitVec.extractLsb' 29 3 a ≠ 0 ∨ BitVec.extractLsb' 0 2 a ≠ 0) ∧
    (∃ a : Word, ∃ hdr : KmpHdr, ∃ k : Nat, ∃ x : KmpSession, ∃ s : State, ∃ v : State, (BitVec.extractLsb' 29 3 a ≠ 0 ∨
      BitVec.extractLsb' 0 2 a ≠ 0) ∧ KmpServed s hdr k x v) ∧
    (∃ a : Word, ∃ hdr : KmpHdr, ∃ k : Fin 32, ∃ x : KmpSession, ∃ l : List (Word × Word), ∃ s : State, ∃ v : State,
      (BitVec.extractLsb' 29 3 a ≠ 0 ∨ BitVec.extractLsb' 0 2 a ≠ 0) ∧ KmpServed s hdr (k.val) x v ∧ l.length < 128 ∧ v.isTenant
      (Path.kmp k) = false) ∧
    (∃ s : State, (BitVec.extractLsb' 29 3 s.jtag.addr ≠ 0 ∨ BitVec.extractLsb' 0 2 s.jtag.addr ≠ 0) ∧ s.jtagOn = true) :=
  ⟨⟨1, by decide +kernel⟩,
   ⟨1, tKmpHdr, 0, tKmpSession, ops, _, by decide +kernel, served (by decide +kernel)⟩,
   ⟨1, tKmpHdr, 0, tKmpSession, [], ops, _, by decide +kernel, served (by decide +kernel), by decide +kernel⟩,
   ⟨{ ops with jtag := { addr := 1 } }, by decide +kernel⟩⟩
theorem witness_MailboxesAndSidebandsAnswer :
    (∃ p : Path, ∃ h : Fin 8, ∃ b : Byte, ∃ s : State, s.running = true ∧ (s.mbxAt p (h.val) (BitVec.toNat b)).busy = false) ∧
    (∃ p : Path, ∃ h : Fin 8, ∃ b : Byte, ∃ s : State, s.running = true ∧ (s.mbxAt p (h.val) (BitVec.toNat b)).busy = true ∧
      s.spDown = true ∧ spHeld (BitVec.toNat b) (s.mbxAt p (h.val) (BitVec.toNat b)).idEcho.toNat = true) ∧
    (∃ h : Fin 8, ∃ b : Byte, ∃ s : State, s.running = true ∧ (s.mbxAt Path.jtag (h.val) (BitVec.toNat b)).busy = true ∧ s.spDown =
      false ∧ (b = 30 ∨ b = 31)) ∧
    (∃ p : Path, ∃ h : Fin 8, ∃ b : Byte, ∃ s : State, s.running = true ∧ (s.mbxAt p (h.val) (BitVec.toNat b)).busy = true ∧
      s.spDown = false ∧ p ≠ Path.jtag ∧ (s.mbxAt p (h.val) (BitVec.toNat b)).writing = true ∧ (s.mbxAt p (h.val) (BitVec.toNat
      b)).tenant = true) ∧
    (∃ p : Path, ∃ s : State, ∃ v : BitVec 48, s.running = true ∧ (s.mbxAt p 0 15).busy = true ∧ s.spDown = false ∧ p ≠ Path.jtag ∧
      (s.mbxAt p 0 15).writing = true ∧ (s.mbxAt p 0 15).tenant = false ∧ (s.mbxAt p 0 15).idEcho = 1 ∧ (s.mbxAt p 0 15).index = 0 ∧
      (s.mbxAt p 0 15).alarm = some v) ∧
    (∃ p : Path, ∃ h : Fin 8, ∃ b : Byte, ∃ s : State, ∃ l : List Word, s.running = true ∧ (s.mbxAt p (h.val) (BitVec.toNat b)).busy
      = true ∧ s.spDown = false ∧ p ≠ Path.jtag ∧ (s.mbxAt p (h.val) (BitVec.toNat b)).writing = false ∧ (s.mbxAt p (h.val)
      (BitVec.toNat b)).idEcho.toNat < 128 ∧ s.wideValue (h.val) (BitVec.toNat b) (s.mbxAt p (h.val) (BitVec.toNat b)).idEcho.toNat
      (s.mbxAt p (h.val) (BitVec.toNat b)).index.toNat (s.mbxAt p (h.val) (BitVec.toNat b)).sel = Wide.words l) ∧
    (∃ p : Path, ∃ h : Fin 8, ∃ b : Byte, ∃ s : State, ∃ c : BitVec 3, s.running = true ∧ (s.mbxAt p (h.val) (BitVec.toNat b)).busy
      = true ∧ s.spDown = false ∧ p ≠ Path.jtag ∧ (s.mbxAt p (h.val) (BitVec.toNat b)).writing = false ∧ (s.mbxAt p (h.val)
      (BitVec.toNat b)).idEcho.toNat < 128 ∧ s.wideValue (h.val) (BitVec.toNat b) (s.mbxAt p (h.val) (BitVec.toNat b)).idEcho.toNat
      (s.mbxAt p (h.val) (BitVec.toNat b)).index.toNat (s.mbxAt p (h.val) (BitVec.toNat b)).sel = Wide.err c) ∧
    (∃ p : Path, ∃ h : Fin 8, ∃ b : Byte, ∃ s : State, ∃ key : Nat, ∃ l : List Word, ∃ u : State, s.running = true ∧ (s.mbxAt p
      (h.val) (BitVec.toNat b)).busy = true ∧ s.spDown = false ∧ p ≠ Path.jtag ∧ (s.mbxAt p (h.val) (BitVec.toNat b)).writing =
      false ∧ 128 ≤ (s.mbxAt p (h.val) (BitVec.toNat b)).idEcho.toNat ∧ counterOf (h.val) (BitVec.toNat b) (s.mbxAt p (h.val)
      (BitVec.toNat b)).idEcho.toNat (s.mbxAt p (h.val) (BitVec.toNat b)).index.toNat (s.mbxAt p (h.val) (BitVec.toNat b)).sel =
      some key ∧ s.counterWords p (s.mbxAt p (h.val) (BitVec.toNat b)).tenant key = (l, u)) ∧
    (∃ s : State, s.running = true) ∧
    (∃ s : State, ∃ l : List Word, s.running = true ∧ l.length < 256) ∧
    (∃ s : State, ∃ l : List Word, ∃ i : Nat, s.running = true ∧ l.length < 256 ∧ i < l.length) ∧
    (∃ s : State, s.i3cOn = true ∧ s.i3c.dynAddr = none) ∧
    (∃ s : State, s.i3cOn = true ∧ s.i3c.dynAddr ≠ none) ∧
    (∃ b : List Byte, ∃ s : State, s.i3cOn = true ∧ s.i3c.dynAddr ≠ none ∧ b.length = 4) ∧
    (∃ b : List Byte, ∃ s : State, s.i3cOn = true ∧ s.i3c.dynAddr ≠ none ∧ b.length = 8) ∧
    (∃ s : State, s.jtagOn = true) ∧
    (∃ s : State, s.jtagOn = true ∧ s.sys.resetLow = true) ∧
    (∃ s : State, s.jtagOn = true ∧ s.sys.resetLow = false) ∧
    (∃ v : Word, ∃ e : WriteEnv, ∃ code : Byte, ∃ s : State, ∃ x : Instr, s.jtagOn = false ∧ x ∈ [Instr.idcode, Instr.csrAddr v,
      Instr.csrWrite v e, Instr.csrRead true, Instr.bypass code, Instr.jtagReset]) ∧
    (∃ s : State, s.sys.phase = Phase.unpowered ∨ s.sys.phase = Phase.inReset ∨ s.sys.phase = Phase.halted ∧ s.sys.step = 1) ∧
    (∃ s : State, s.sys.phase = Phase.sleeping) ∧
    (∃ s : State, s.running = true ∧ (s.sys.phase ≠ Phase.halted ∨ s.sys.step ≠ 1)) :=
  ⟨⟨.kmp 0, 0, 4, ops, by decide +kernel⟩,
   ⟨.kmp 0, 0, 2, { mailbox (.kmp 0) 2 { busy := true } with fw := {} }, by decide +kernel⟩,
   ⟨0, 0x1E, mailbox .jtag 0x1E { busy := true }, by decide +kernel⟩,
   ⟨.kmp 0, 0, 4, mailbox (.kmp 0) 4 { busy := true, writing := true, tenant := true }, by decide +kernel⟩,
   ⟨.kmp 0, mailbox (.kmp 0) 0x0F { busy := true, writing := true, idEcho := 1 }, 0, by decide +kernel⟩,
   ⟨.kmp 0, 0, 1, mailbox (.kmp 0) 1 { busy := true, idEcho := 1 }, [0, 0], by decide +kernel⟩,
   ⟨.kmp 0, 0, 0x20, mailbox (.kmp 0) 0x20 { busy := true, idEcho := 0x40 }, 1, by decide +kernel⟩,
   ⟨.kmp 0, 0, 4, mailbox (.kmp 0) 4 { busy := true, idEcho := 0x80 }, cntKey 0 4 0x80 0, _, _, by decide +kernel, three
     (by decide +kernel) (three (by decide +kernel) (prod_eta _))⟩,
   ⟨ops, by decide +kernel⟩,
   ⟨ops, [7], by decide +kernel⟩,
   ⟨ops, [7], 0, by decide +kernel⟩,
   ⟨ops, by decide +kernel⟩,
   ⟨{ ops with i3c := { dynAddr := some 9 } }, by decide +kernel⟩,
   ⟨[0, 0, 0, 0], { ops with i3c := { dynAddr := some 9 } }, by decide +kernel⟩,
   ⟨List.replicate 8 0, { ops with i3c := { dynAddr := some 9 } }, by decide +kernel⟩,
   ⟨ops, by decide +kernel⟩,
   ⟨{ ops with sys := { ops.sys with resetLow := true } }, by decide +kernel⟩,
   ⟨ops, by decide +kernel⟩,
   ⟨0, {}, 0xFF, { ops with sys := { ops.sys with phase := .sleeping } }, .idcode, by decide +kernel⟩,
   ⟨{ ops with sys := { ops.sys with phase := .inReset } }, by decide +kernel⟩,
   ⟨{ ops with sys := { ops.sys with phase := .sleeping } }, by decide +kernel⟩,
   ⟨ops, by decide +kernel⟩⟩

end Sys2Proof.Machine.Tests
end

section
/-! What no step brings back (R69, R705): each command and the idle cycle only keep or raise the counters
(`Keeps`), and a commit leaves exactly the larger of two serials, since nothing else that the commit does writes the counter. -/
namespace Sys2Proof.Machine
open Sys2Proof

/-! ### Every step keeps the fuses and lowers no counter -/

/-- What every operation keeps, every command keeps: each row by what its own meaning does (`Does`). -/
theorem exec_keeps {s t : State} : ∀ c : Instr, exec c s = .next t → Keeps s t
  | .powerOn .., h => (execPowerOn_does .self (hk := .refl s) (ht := h) ..).keeps
  | .packageReset .., h => (execPackageReset_does .self (hk := .refl s) (ht := h) ..).keeps
  | .packageResetCmd .., h => (execPackageResetCmd_does .self (hk := .refl s) (ht := h) ..).keeps
  | .startUp .., h => (execStartUp_does .self (hk := .refl s) (ht := h) ..).keeps
  | .startUpEnd .., h => (execStartUpEnd_does .self (hk := .refl s) (ht := h) ..).keeps
  | .refclkLoss .., h => (execRefclkLoss_does .self (hk := .refl s) (ht := h) ..).keeps
  | .sdsRefclkLoss .., h => (execSdsRefclkLoss_does .self (hk := .refl s) (ht := h) ..).keeps
  | .clk32kLoss .., h => (execClk32kLoss_does .self (hk := .refl s) (ht := h) ..).keeps
  | .hubPartialReset .., h => (execHubPartialReset_does .self (hk := .refl s) (ht := h) ..).keeps
  | .hubWatchdog .., h => (execHubWatchdog_does .self (hk := .refl s) (ht := h) ..).keeps
  | .partialResetRestart .., h => (execPartialResetRestart_does .self (hk := .refl s) (ht := h) ..).keeps
  | .partialResetReturn .., h => (execPartialResetReturn_does .self (hk := .refl s) (ht := h) ..).keeps
  | .partialResetOverrun .., h => (execPartialResetOverrun_does .self (hk := .refl s) (ht := h) ..).keeps
  | .bridgeParityError .., h => (execBridgeParityError_does .self (hk := .refl s) (ht := h) ..).keeps
  | .fatalPortStop .., h => (execFatalPortStop_does .self (hk := .refl s) (ht := h) ..).keeps
  | .open_ .., h => (execOpen_does .self (hk := .refl s) (ht := h) ..).keeps
  | .validate .., h => (execValidate_does .self (hk := .refl s) (ht := h) ..).keeps
  | .commit .., h => (execCommit_does .self (hk := .refl s) (ht := h) ..).keeps
  | .commitPoint .., h => (execCommitPoint_does .self (hk := .refl s) (ht := h) ..).keeps
  | .quiesceLimitExpired .., h => (execQuiesceLimitExpired_does .self (hk := .refl s) (ht := h) ..).keeps
  | .commitOnReset .., h => (execCommitOnReset_does .self (hk := .refl s) (ht := h) ..).keeps
  | .abandon .., h => (execAbandon_does .self (hk := .refl s) (ht := h) ..).keeps
  | .revert .., h => (execRevert_does .self (hk := .refl s) (ht := h) ..).keeps
  | .healthCheckFail .., h => (execHealthCheckFail_does .self (hk := .refl s) (ht := h) ..).keeps
  | .healthWindowClose .., h => (execHealthWindowClose_does .self (hk := .refl s) (ht := h) ..).keeps
  | .siLockSet .., h => (execSiLockSet_does .self (hk := .refl s) (ht := h) ..).keeps
  | .transfer .., h => (execTransfer_does .self (hk := .refl s) (ht := h) ..).keeps
  | .carve .., h => (execCarve_does .self (hk := .refl s) (ht := h) ..).keeps
  | .grant .., h => (execGrant_does .self (hk := .refl s) (ht := h) ..).keeps
  | .rights .., h => (execRights_does .self (hk := .refl s) (ht := h) ..).keeps
  | .narrowingSnoop .., h => (execNarrowingSnoop_does .self (hk := .refl s) (ht := h) ..).keeps
  | .narrowingComplete .., h => (execNarrowingComplete_does .self (hk := .refl s) (ht := h) ..).keeps
  | .withdraw .., h => (execWithdraw_does .self (hk := .refl s) (ht := h) ..).keeps
  | .withdrawalRecall .., h => (execWithdrawalRecall_does .self (hk := .refl s) (ht := h) ..).keeps
  | .withdrawalComplete .., h => (execWithdrawalComplete_does .self (hk := .refl s) (ht := h) ..).keeps
  | .free .., h => (execFree_does .self (hk := .refl s) (ht := h) ..).keeps
  | .query .., h => (execQuery_does .self (hk := .refl s) (ht := h) ..).keeps
  | .rds .., h => (execRds_does .self (hk := .refl s) (ht := h) ..).keeps
  | .rdx .., h => (execRdx_does .self (hk := .refl s) (ht := h) ..).keeps
  | .upg .., h => (execUpg_does .self (hk := .refl s) (ht := h) ..).keeps
  | .wbm .., h => (execWbm_does .self (hk := .refl s) (ht := h) ..).keeps
  | .evc .., h => (execEvc_does .self (hk := .refl s) (ht := h) ..).keeps
  | .rdnc .., h => (execRdnc_does .self (hk := .refl s) (ht := h) ..).keeps
  | .wrfull .., h => (execWrfull_does .self (hk := .refl s) (ht := h) ..).keeps
  | .transactionOpen .., h => (execTransactionOpen_does .self (hk := .refl s) (ht := h) ..).keeps
  | .ackAnswer .., h => (execAckAnswer_does .self (hk := .refl s) (ht := h) ..).keeps
  | .snprspi .., h => (execSnprspi_does .self (hk := .refl s) (ht := h) ..).keeps
  | .snprspwb .., h => (execSnprspwb_does .self (hk := .refl s) (ht := h) ..).keeps
  | .fwddata .., h => (execFwddata_does .self (hk := .refl s) (ht := h) ..).keeps
  | .retryRecordExpiry .., h => (execRetryRecordExpiry_does .self (hk := .refl s) (ht := h) ..).keeps
  | .orphanTimeout .., h => (execOrphanTimeout_does .self (hk := .refl s) (ht := h) ..).keeps
  | .deadHostTimeout .., h => (execDeadHostTimeout_does .self (hk := .refl s) (ht := h) ..).keeps
  | .cohDeadQuery .., h => (execCohDeadQuery_does .self (hk := .refl s) (ht := h) ..).keeps
  | .declareDead .., h => (execDeclareDead_does .self (hk := .refl s) (ht := h) ..).keeps
  | .reclaimDone .., h => (execReclaimDone_does .self (hk := .refl s) (ht := h) ..).keeps
  | .readmit .., h => (execReadmit_does .self (hk := .refl s) (ht := h) ..).keeps
  | .cohReclaimDoneClear .., h => (execCohReclaimDoneClear_does .self (hk := .refl s) (ht := h) ..).keeps
  | .tenancyRecallTimeout .., h => (execTenancyRecallTimeout_does .self (hk := .refl s) (ht := h) ..).keeps
  | .tenancyEndComplete .., h => (execTenancyEndComplete_does .self (hk := .refl s) (ht := h) ..).keeps
  | .head .., h => (execHead_does .self (hk := .refl s) (ht := h) ..).keeps
  | .body .., h => (execBody_does .self (hk := .refl s) (ht := h) ..).keeps
  | .credit .., h => (execCredit_does .self (hk := .refl s) (ht := h) ..).keeps
  | .null .., h => (execNull_does .self (hk := .refl s) (ht := h) ..).keeps
  | .uncorrectableCodeword .., h => (execUncorrectableCodeword_does .self (hk := .refl s) (ht := h) ..).keeps
  | .ack .., h => (execAck_does .self (hk := .refl s) (ht := h) ..).keeps
  | .nak .., h => (execNak_does .self (hk := .refl s) (ht := h) ..).keeps
  | .nakResend .., h => (execNakResend_does .self (hk := .refl s) (ht := h) ..).keeps
  | .ackTimer .., h => (execAckTimer_does .self (hk := .refl s) (ht := h) ..).keeps
  | .keepaliveSend .., h => (execKeepaliveSend_does .self (hk := .refl s) (ht := h) ..).keeps
  | .keepalive _ _ _ lanes state trainId, h => (execKeepalive_does .self _ _ _ lanes state trainId (.refl s) h).keeps
  | .linkDown .., h => (execLinkDown_does .self (hk := .refl s) (ht := h) ..).keeps
  | .trainingAttempt .., h => (execTrainingAttempt_does .self (hk := .refl s) (ht := h) ..).keeps
  | .trainingTimeout .., h => (execTrainingTimeout_does .self (hk := .refl s) (ht := h) ..).keeps
  | .adaptationDone .., h => (execAdaptationDone_does .self (hk := .refl s) (ht := h) ..).keeps
  | .alignDone .., h => (execAlignDone_does .self (hk := .refl s) (ht := h) ..).keeps
  | .train .., h => (execTrain_does .self (hk := .refl s) (ht := h) ..).keeps
  | .retrain .., h => (execRetrain_does .self (hk := .refl s) (ht := h) ..).keeps
  | .retrainRequestRepeat .., h => (execRetrainRequestRepeat_does .self (hk := .refl s) (ht := h) ..).keeps
  | .widthSwitch .., h => (execWidthSwitch_does .self (hk := .refl s) (ht := h) ..).keeps
  | .laneErrorInterval .., h => (execLaneErrorInterval_does .self (hk := .refl s) (ht := h) ..).keeps
  | .silenceTraining .., h => (execSilenceTraining_does .self (hk := .refl s) (ht := h) ..).keeps
  | .zlRetrainCmd .., h => (execZlRetrainCmd_does .self (hk := .refl s) (ht := h) ..).keeps
  | .zlNarrowCmd .., h => (execZlNarrowCmd_does .self (hk := .refl s) (ht := h) ..).keeps
  | .creditReturnTimer .., h => (execCreditReturnTimer_does .self (hk := .refl s) (ht := h) ..).keeps
  | .creditFallback .., h => (execCreditFallback_does .self (hk := .refl s) (ht := h) ..).keeps
  | .transportAck .., h => (execTransportAck_does .self (hk := .refl s) (ht := h) ..).keeps
  | .transportAckTimer .., h => (execTransportAckTimer_does .self (hk := .refl s) (ht := h) ..).keeps
  | .rtoExpiry .., h => (execRtoExpiry_does .self (hk := .refl s) (ht := h) ..).keeps
  | .pathProbeSend .., h => (execPathProbeSend_does .self (hk := .refl s) (ht := h) ..).keeps
  | .pathProbe .., h => (execPathProbe_does .self (hk := .refl s) (ht := h) ..).keeps
  | .pathHoldExpiry .., h => (execPathHoldExpiry_does .self (hk := .refl s) (ht := h) ..).keeps
  | .primaryReturn .., h => (execPrimaryReturn_does .self (hk := .refl s) (ht := h) ..).keeps
  | .zlfHold .., h => (execZlfHold_does .self (hk := .refl s) (ht := h) ..).keeps
  | .idLockSet .., h => (execIdLockSet_does .self (hk := .refl s) (ht := h) ..).keeps
  | .beaconSend .., h => (execBeaconSend_does .self (hk := .refl s) (ht := h) ..).keeps
  | .beacon .., h => (execBeacon_does .self (hk := .refl s) (ht := h) ..).keeps
  | .bulkReadRequest .., h => (execBulkReadRequest_does .self (hk := .refl s) (ht := h) ..).keeps
  | .bulkWriteData .., h => (execBulkWriteData_does .self (hk := .refl s) (ht := h) ..).keeps
  | .arpRequest .., h => (execArpRequest_does .self (hk := .refl s) (ht := h) ..).keeps
  | .neighbourSolicitation .., h => (execNeighbourSolicitation_does .self (hk := .refl s) (ht := h) ..).keeps
  | .echoRequest .., h => (execEchoRequest_does .self (hk := .refl s) (ht := h) ..).keeps
  | .dhcpMessage .., h => (execDhcpMessage_does .self (hk := .refl s) (ht := h) ..).keeps
  | .pfcFrame .., h => (execPfcFrame_does .self (hk := .refl s) (ht := h) ..).keeps
  | .pfcRepeat .., h => (execPfcRepeat_does .self (hk := .refl s) (ht := h) ..).keeps
  | .pfcWatchdog .., h => (execPfcWatchdog_does .self (hk := .refl s) (ht := h) ..).keeps
  | .cnp .., h => (execCnp_does .self (hk := .refl s) (ht := h) ..).keeps
  | .rateIncrease .., h => (execRateIncrease_does .self (hk := .refl s) (ht := h) ..).keeps
  | .send .., h => (execSend_does .self (hk := .refl s) (ht := h) ..).keeps
  | .rdmaReadResponse .., h => (execRdmaReadResponse_does .self (hk := .refl s) (ht := h) ..).keeps
  | .rdmaAcknowledge .., h => (execRdmaAcknowledge_does .self (hk := .refl s) (ht := h) ..).keeps
  | .rdmaRequestToPart .., h => (execRdmaRequestToPart_does .self (hk := .refl s) (ht := h) ..).keeps
  | .ackTimeout .., h => (execAckTimeout_does .self (hk := .refl s) (ht := h) ..).keeps
  | .ethLinkDown .., h => (execEthLinkDown_does .self (hk := .refl s) (ht := h) ..).keeps
  | .ethIpv4Write .., h => (execEthIpv4Write_does .self (hk := .refl s) (ht := h) ..).keeps
  | .discover .., h => (execDiscover_does .self (hk := .refl s) (ht := h) ..).keeps
  | .regRead .., h => (execRegRead_does .self (hk := .refl s) (ht := h) ..).keeps
  | .regWrite .., h => (execRegWrite_does .self (hk := .refl s) (ht := h) ..).keeps
  | .registerWrite .., h => (execRegisterWrite_does .self (hk := .refl s) (ht := h) ..).keeps
  | .qpConnect .., h => (execQpConnect_does .self (hk := .refl s) (ht := h) ..).keeps
  | .eventAck .., h => (execEventAck_does .self (hk := .refl s) (ht := h) ..).keeps
  | .eventRetransmit .., h => (execEventRetransmit_does .self (hk := .refl s) (ht := h) ..).keeps
  | .kmpKeepalive .., h => (execKmpKeepalive_does .self (hk := .refl s) (ht := h) ..).keeps
  | .end_ .., h => (execEnd_does .self (hk := .refl s) (ht := h) ..).keeps
  | .sessionTimeout .., h => (execSessionTimeout_does .self (hk := .refl s) (ht := h) ..).keeps
  | .ptpMessage .., h => (execPtpMessage_does .self (hk := .refl s) (ht := h) ..).keeps
  | .queueSubmit .., h => (execQueueSubmit_does .self (hk := .refl s) (ht := h) ..).keeps
  | .cqRelease .., h => (execCqRelease_does .self (hk := .refl s) (ht := h) ..).keeps
  | .read .., h => (execRead_does .self (hk := .refl s) (ht := h) ..).keeps
  | .write .., h => (execWrite_does .self (hk := .refl s) (ht := h) ..).keeps
  | .atomic .., h => (execAtomic_does .self (hk := .refl s) (ht := h) ..).keeps
  | .nop .., h => (execNop_does .self (hk := .refl s) (ht := h) ..).keeps
  | .completionWrite .., h => (execCompletionWrite_does .self (hk := .refl s) (ht := h) ..).keeps
  | .yellowPromotion .., h => (execYellowPromotion_does .self (hk := .refl s) (ht := h) ..).keeps
  | .loadMeasure .., h => (execLoadMeasure_does .self (hk := .refl s) (ht := h) ..).keeps
  | .mdesc .., h => (execMdesc_does .self (hk := .refl s) (ht := h) ..).keeps
  | .descriptorComplete .., h => (execDescriptorComplete_does .self (hk := .refl s) (ht := h) ..).keeps
  | .streamRetry .., h => (execStreamRetry_does .self (hk := .refl s) (ht := h) ..).keeps
  | .wload .., h => (execWload_does .self (hk := .refl s) (ht := h) ..).keeps
  | .wloadComplete .., h => (execWloadComplete_does .self (hk := .refl s) (ht := h) ..).keeps
  | .mma .., h => (execMma_does .self (hk := .refl s) (ht := h) ..).keeps
  | .mmaComplete .., h => (execMmaComplete_does .self (hk := .refl s) (ht := h) ..).keeps
  | .fadd .., h => (execFadd_does .self (hk := .refl s) (ht := h) ..).keeps
  | .fsub .., h => (execFsub_does .self (hk := .refl s) (ht := h) ..).keeps
  | .fmul .., h => (execFmul_does .self (hk := .refl s) (ht := h) ..).keeps
  | .fmin .., h => (execFmin_does .self (hk := .refl s) (ht := h) ..).keeps
  | .fmax .., h => (execFmax_does .self (hk := .refl s) (ht := h) ..).keeps
  | .fclt .., h => (execFclt_does .self (hk := .refl s) (ht := h) ..).keeps
  | .fceq .., h => (execFceq_does .self (hk := .refl s) (ht := h) ..).keeps
  | .iadd .., h => (execIadd_does .self (hk := .refl s) (ht := h) ..).keeps
  | .isub .., h => (execIsub_does .self (hk := .refl s) (ht := h) ..).keeps
  | .imul .., h => (execImul_does .self (hk := .refl s) (ht := h) ..).keeps
  | .vectorAnd .., h => (execVectorAnd_does .self (hk := .refl s) (ht := h) ..).keeps
  | .vectorOr .., h => (execVectorOr_does .self (hk := .refl s) (ht := h) ..).keeps
  | .vectorXor .., h => (execVectorXor_does .self (hk := .refl s) (ht := h) ..).keeps
  | .sel .., h => (execSel_does .self (hk := .refl s) (ht := h) ..).keeps
  | .bcast .., h => (execBcast_does .self (hk := .refl s) (ht := h) ..).keeps
  | .exp .., h => (execExp_does .self (hk := .refl s) (ht := h) ..).keeps
  | .log .., h => (execLog_does .self (hk := .refl s) (ht := h) ..).keeps
  | .recip .., h => (execRecip_does .self (hk := .refl s) (ht := h) ..).keeps
  | .rsqrt .., h => (execRsqrt_does .self (hk := .refl s) (ht := h) ..).keeps
  | .gelu .., h => (execGelu_does .self (hk := .refl s) (ht := h) ..).keeps
  | .silu .., h => (execSilu_does .self (hk := .refl s) (ht := h) ..).keeps
  | .vmov .., h => (execVmov_does .self (hk := .refl s) (ht := h) ..).keeps
  | .viota .., h => (execViota_does .self (hk := .refl s) (ht := h) ..).keeps
  | .rsum .., h => (execRsum_does .self (hk := .refl s) (ht := h) ..).keeps
  | .rsuma .., h => (execRsuma_does .self (hk := .refl s) (ht := h) ..).keeps
  | .rmax .., h => (execRmax_does .self (hk := .refl s) (ht := h) ..).keeps
  | .rmaxa .., h => (execRmaxa_does .self (hk := .refl s) (ht := h) ..).keeps
  | .rmin .., h => (execRmin_does .self (hk := .refl s) (ht := h) ..).keeps
  | .rmina .., h => (execRmina_does .self (hk := .refl s) (ht := h) ..).keeps
  | .topki .., h => (execTopki_does .self (hk := .refl s) (ht := h) ..).keeps
  | .topk .., h => (execTopk_does .self (hk := .refl s) (ht := h) ..).keeps
  | .cvtif .., h => (execCvtif_does .self (hk := .refl s) (ht := h) ..).keeps
  | .cvtfi .., h => (execCvtfi_does .self (hk := .refl s) (ht := h) ..).keeps
  | .vld .., h => (execVld_does .self (hk := .refl s) (ht := h) ..).keeps
  | .vst .., h => (execVst_does .self (hk := .refl s) (ht := h) ..).keeps
  | .vectorResultWritten .., h => (execVectorResultWritten_does .self (hk := .refl s) (ht := h) ..).keeps
  | .add .., h => (execAdd_does .self (hk := .refl s) (ht := h) ..).keeps
  | .sub .., h => (execSub_does .self (hk := .refl s) (ht := h) ..).keeps
  | .mul .., h => (execMul_does .self (hk := .refl s) (ht := h) ..).keeps
  | .and .., h => (execAnd_does .self (hk := .refl s) (ht := h) ..).keeps
  | .or .., h => (execOr_does .self (hk := .refl s) (ht := h) ..).keeps
  | .xor .., h => (execXor_does .self (hk := .refl s) (ht := h) ..).keeps
  | .shl .., h => (execShl_does .self (hk := .refl s) (ht := h) ..).keeps
  | .shr .., h => (execShr_does .self (hk := .refl s) (ht := h) ..).keeps
  | .sar .., h => (execSar_does .self (hk := .refl s) (ht := h) ..).keeps
  | .slt .., h => (execSlt_does .self (hk := .refl s) (ht := h) ..).keeps
  | .sltu .., h => (execSltu_does .self (hk := .refl s) (ht := h) ..).keeps
  | .li .., h => (execLi_does .self (hk := .refl s) (ht := h) ..).keeps
  | .lih .., h => (execLih_does .self (hk := .refl s) (ht := h) ..).keeps
  | .amov .., h => (execAmov_does .self (hk := .refl s) (ht := h) ..).keeps
  | .aadd .., h => (execAadd_does .self (hk := .refl s) (ht := h) ..).keeps
  | .aget .., h => (execAget_does .self (hk := .refl s) (ht := h) ..).keeps
  | .br .., h => (execBr_does .self (hk := .refl s) (ht := h) ..).keeps
  | .beq .., h => (execBeq_does .self (hk := .refl s) (ht := h) ..).keeps
  | .bne .., h => (execBne_does .self (hk := .refl s) (ht := h) ..).keeps
  | .blt .., h => (execBlt_does .self (hk := .refl s) (ht := h) ..).keeps
  | .bltu .., h => (execBltu_does .self (hk := .refl s) (ht := h) ..).keeps
  | .loop .., h => (execLoop_does .self (hk := .refl s) (ht := h) ..).keeps
  | .wait .., h => (execWait_does .self (hk := .refl s) (ht := h) ..).keeps
  | .signal .., h => (execSignal_does .self (hk := .refl s) (ht := h) ..).keeps
  | .fence .., h => (execFence_does .self (hk := .refl s) (ht := h) ..).keeps
  | .gwait .., h => (execGwait_does .self (hk := .refl s) (ht := h) ..).keeps
  | .yield .., h => (execYield_does .self (hk := .refl s) (ht := h) ..).keeps
  | .halt .., h => (execHalt_does .self (hk := .refl s) (ht := h) ..).keeps
  | .sysr .., h => (execSysr_does .self (hk := .refl s) (ht := h) ..).keeps
  | .trap .., h => (execTrap_does .self (hk := .refl s) (ht := h) ..).keeps
  | .sld .., h => (execSld_does .self (hk := .refl s) (ht := h) ..).keeps
  | .sst .., h => (execSst_does .self (hk := .refl s) (ht := h) ..).keeps
  | .tld .., h => (execTld_does .self (hk := .refl s) (ht := h) ..).keeps
  | .tst .., h => (execTst_does .self (hk := .refl s) (ht := h) ..).keeps
  | .tadd .., h => (execTadd_does .self (hk := .refl s) (ht := h) ..).keeps
  | .barrierOpen .., h => (execBarrierOpen_does .self (hk := .refl s) (ht := h) ..).keeps
  | .superstepAdmission .., h => (execSuperstepAdmission_does .self (hk := .refl s) (ht := h) ..).keeps
  | .token .., h => (execToken_does .self (hk := .refl s) (ht := h) ..).keeps
  | .close .., h => (execClose_does .self (hk := .refl s) (ht := h) ..).keeps
  | .combine .., h => (execCombine_does .self (hk := .refl s) (ht := h) ..).keeps
  | .gather .., h => (execGather_does .self (hk := .refl s) (ht := h) ..).keeps
  | .select .., h => (execSelect_does .self (hk := .refl s) (ht := h) ..).keeps
  | .gatherDone .., h => (execGatherDone_does .self (hk := .refl s) (ht := h) ..).keeps
  | .jload .., h => (execJload_does .self (hk := .refl s) (ht := h) ..).keeps
  | .jloadDone .., h => (execJloadDone_does .self (hk := .refl s) (ht := h) ..).keeps
  | .jlaunch .., h => (execJlaunch_does .self (hk := .refl s) (ht := h) ..).keeps
  | .launch .., h => (execLaunch_does .self (hk := .refl s) (ht := h) ..).keeps
  | .jwait .., h => (execJwait_does .self (hk := .refl s) (ht := h) ..).keeps
  | .jstatus .., h => (execJstatus_does .self (hk := .refl s) (ht := h) ..).keeps
  | .jcheckpoint .., h => (execJcheckpoint_does .self (hk := .refl s) (ht := h) ..).keeps
  | .jcontinue .., h => (execJcontinue_does .self (hk := .refl s) (ht := h) ..).keeps
  | .jabort .., h => (execJabort_does .self (hk := .refl s) (ht := h) ..).keeps
  | .junload .., h => (execJunload_does .self (hk := .refl s) (ht := h) ..).keeps
  | .superstepWatchdog .., h => (execSuperstepWatchdog_does .self (hk := .refl s) (ht := h) ..).keeps
  | .timeSliceSave .., h => (execTimeSliceSave_does .self (hk := .refl s) (ht := h) ..).keeps
  | .timeSliceRestore .., h => (execTimeSliceRestore_does .self (hk := .refl s) (ht := h) ..).keeps
  | .phello .., h => (execPhello_does .self (hk := .refl s) (ht := h) ..).keeps
  | .phelloTimeout .., h => (execPhelloTimeout_does .self (hk := .refl s) (ht := h) ..).keeps
  | .pdigest .., h => (execPdigest_does .self (hk := .refl s) (ht := h) ..).keeps
  | .pstop .., h => (execPstop_does .self (hk := .refl s) (ht := h) ..).keeps
  | .pairsPeerLost .., h => (execPairsPeerLost_does .self (hk := .refl s) (ht := h) ..).keeps
  | .walk .., h => (execWalk_does .self (hk := .refl s) (ht := h) ..).keeps
  | .recordResolve .., h => (execRecordResolve_does .self (hk := .refl s) (ht := h) ..).keeps
  | .holdLimit .., h => (execHoldLimit_does .self (hk := .refl s) (ht := h) ..).keeps
  | .shootdown .., h => (execShootdown_does .self (hk := .refl s) (ht := h) ..).keeps
  | .shootdownComplete .., h => (execShootdownComplete_does .self (hk := .refl s) (ht := h) ..).keeps
  | .refresh .., h => (execRefresh_does .self (hk := .refl s) (ht := h) ..).keeps
  | .mr4Poll .., h => (execMr4Poll_does .self (hk := .refl s) (ht := h) ..).keeps
  | .stackSensorPoll .., h => (execStackSensorPoll_does .self (hk := .refl s) (ht := h) ..).keeps
  | .liveRetrain .., h => (execLiveRetrain_does .self (hk := .refl s) (ht := h) ..).keeps
  | .retrainComplete .., h => (execRetrainComplete_does .self (hk := .refl s) (ht := h) ..).keeps
  | .memRetrainCmd .., h => (execMemRetrainCmd_does .self (hk := .refl s) (ht := h) ..).keeps
  | .srEnter .., h => (execSrEnter_does .self (hk := .refl s) (ht := h) ..).keeps
  | .srExit .., h => (execSrExit_does .self (hk := .refl s) (ht := h) ..).keeps
  | .srIdle .., h => (execSrIdle_does .self (hk := .refl s) (ht := h) ..).keeps
  | .migrationComplete .., h => (execMigrationComplete_does .self (hk := .refl s) (ht := h) ..).keeps
  | .liftStart .., h => (execLiftStart_does .self (hk := .refl s) (ht := h) ..).keeps
  | .liftCancel .., h => (execLiftCancel_does .self (hk := .refl s) (ht := h) ..).keeps
  | .liftBegin .., h => (execLiftBegin_does .self (hk := .refl s) (ht := h) ..).keeps
  | .liftCopyDone .., h => (execLiftCopyDone_does .self (hk := .refl s) (ht := h) ..).keeps
  | .liftSwitchPoint .., h => (execLiftSwitchPoint_does .self (hk := .refl s) (ht := h) ..).keeps
  | .patrolRead .., h => (execPatrolRead_does .self (hk := .refl s) (ht := h) ..).keeps
  | .rowRepair .., h => (execRowRepair_does .self (hk := .refl s) (ht := h) ..).keeps
  | .logAck .., h => (execLogAck_does .self (hk := .refl s) (ht := h) ..).keeps
  | .pageRetire .., h => (execPageRetire_does .self (hk := .refl s) (ht := h) ..).keeps
  | .pageRelease .., h => (execPageRelease_does .self (hk := .refl s) (ht := h) ..).keeps
  | .rawWrite .., h => (execRawWrite_does .self (hk := .refl s) (ht := h) ..).keeps
  | .rawRead .., h => (execRawRead_does .self (hk := .refl s) (ht := h) ..).keeps
  | .switchOver .., h => (execSwitchOver_does .self (hk := .refl s) (ht := h) ..).keeps
  | .aSetReturn .., h => (execASetReturn_does .self (hk := .refl s) (ht := h) ..).keeps
  | .holdB .., h => (execHoldB_does .self (hk := .refl s) (ht := h) ..).keeps
  | .releaseHold .., h => (execReleaseHold_does .self (hk := .refl s) (ht := h) ..).keeps
  | .overCurrent .., h => (execOverCurrent_does .self (hk := .refl s) (ht := h) ..).keeps
  | .sensorRead .., h => (execSensorRead_does .self (hk := .refl s) (ht := h) ..).keeps
  | .thermalCapAdjust .., h => (execThermalCapAdjust_does .self (hk := .refl s) (ht := h) ..).keeps
  | .firstUseEnd .., h => (execFirstUseEnd_does .self (hk := .refl s) (ht := h) ..).keeps
  | .ledgerWindow .., h => (execLedgerWindow_does .self (hk := .refl s) (ht := h) ..).keeps
  | .snowploughEscalate .., h => (execSnowploughEscalate_does .self (hk := .refl s) (ht := h) ..).keeps
  | .snowploughRelease .., h => (execSnowploughRelease_does .self (hk := .refl s) (ht := h) ..).keeps
  | .snowploughClimb .., h => (execSnowploughClimb_does .self (hk := .refl s) (ht := h) ..).keeps
  | .snowploughTest .., h => (execSnowploughTest_does .self (hk := .refl s) (ht := h) ..).keeps
  | .deepSleep .., h => (execDeepSleep_does .self (hk := .refl s) (ht := h) ..).keeps
  | .wake .., h => (execWake_does .self (hk := .refl s) (ht := h) ..).keeps
  | .wakeCommand .., h => (execWakeCommand_does .self (hk := .refl s) (ht := h) ..).keeps
  | .sleepTick .., h => (execSleepTick_does .self (hk := .refl s) (ht := h) ..).keeps
  | .sleepFeedLoss .., h => (execSleepFeedLoss_does .self (hk := .refl s) (ht := h) ..).keeps
  | .enrol .., h => (execEnrol_does .self (hk := .refl s) (ht := h) ..).keeps
  | .revoke .., h => (execRevoke_does .self (hk := .refl s) (ht := h) ..).keeps
  | .openEpoch .., h => (execOpenEpoch_does .self (hk := .refl s) (ht := h) ..).keeps
  | .endEpoch .., h => (execEndEpoch_does .self (hk := .refl s) (ht := h) ..).keeps
  | .resurface .., h => (execResurface_does .self (hk := .refl s) (ht := h) ..).keeps
  | .resurfacingComplete .., h => (execResurfacingComplete_does .self (hk := .refl s) (ht := h) ..).keeps
  | .getVersion .., h => (execGetVersion_does .self (hk := .refl s) (ht := h) ..).keeps
  | .getCapabilities .., h => (execGetCapabilities_does .self (hk := .refl s) (ht := h) ..).keeps
  | .negotiateAlgorithms .., h => (execNegotiateAlgorithms_does .self (hk := .refl s) (ht := h) ..).keeps
  | .getDigests .., h => (execGetDigests_does .self (hk := .refl s) (ht := h) ..).keeps
  | .getCertificate .., h => (execGetCertificate_does .self (hk := .refl s) (ht := h) ..).keeps
  | .challenge .., h => (execChallenge_does .self (hk := .refl s) (ht := h) ..).keeps
  | .getMeasurements .., h => (execGetMeasurements_does .self (hk := .refl s) (ht := h) ..).keeps
  | .keyExchange .., h => (execKeyExchange_does .self (hk := .refl s) (ht := h) ..).keeps
  | .finish .., h => (execFinish_does .self (hk := .refl s) (ht := h) ..).keeps
  | .heartbeat .., h => (execHeartbeat_does .self (hk := .refl s) (ht := h) ..).keeps
  | .keyUpdate .., h => (execKeyUpdate_does .self (hk := .refl s) (ht := h) ..).keeps
  | .endSession .., h => (execEndSession_does .self (hk := .refl s) (ht := h) ..).keeps
  | .chunkSend .., h => (execChunkSend_does .self (hk := .refl s) (ht := h) ..).keeps
  | .chunkGet .., h => (execChunkGet_does .self (hk := .refl s) (ht := h) ..).keeps
  | .getEncapsulatedRequest .., h => (execGetEncapsulatedRequest_does .self (hk := .refl s) (ht := h) ..).keeps
  | .deliverEncapsulatedResponse .., h => (execDeliverEncapsulatedResponse_does .self (hk := .refl s) (ht := h) ..).keeps
  | .unsupportedSpdmRequest .., h => (execUnsupportedSpdmRequest_does .self (hk := .refl s) (ht := h) ..).keeps
  | .spdmFragment .., h => (execSpdmFragment_does .self (hk := .refl s) (ht := h) ..).keeps
  | .seal_ .., h => (execSeal_does .self (hk := .refl s) (ht := h) ..).keeps
  | .sealSend .., h => (execSealSend_does .self (hk := .refl s) (ht := h) ..).keeps
  | .fwOpen .., h => (execFwOpen_does .self (hk := .refl s) (ht := h) ..).keeps
  | .verify .., h => (execVerify_does .self (hk := .refl s) (ht := h) ..).keeps
  | .start .., h => (execStart_does .self (hk := .refl s) (ht := h) ..).keeps
  | .hubControllerRestart .., h => (execHubControllerRestart_does .self (hk := .refl s) (ht := h) ..).keeps
  | .hubControllerRunning .., h => (execHubControllerRunning_does .self (hk := .refl s) (ht := h) ..).keeps
  | .yieldWaitExpired .., h => (execYieldWaitExpired_does .self (hk := .refl s) (ht := h) ..).keeps
  | .spRestart .., h => (execSpRestart_does .self (hk := .refl s) (ht := h) ..).keeps
  | .spRunning .., h => (execSpRunning_does .self (hk := .refl s) (ht := h) ..).keeps
  | .fwRestartTimeout .., h => (execFwRestartTimeout_does .self (hk := .refl s) (ht := h) ..).keeps
  | .confirmationComplete .., h => (execConfirmationComplete_does .self (hk := .refl s) (ht := h) ..).keeps
  | .abort .., h => (execAbort_does .self (hk := .refl s) (ht := h) ..).keeps
  | .rollback .., h => (execRollback_does .self (hk := .refl s) (ht := h) ..).keeps
  | .mbxRead .., h => (execMbxRead_does .self (hk := .refl s) (ht := h) ..).keeps
  | .mbxWrite .., h => (execMbxWrite_does .self (hk := .refl s) (ht := h) ..).keeps
  | .mbxComplete .., h => (execMbxComplete_does .self (hk := .refl s) (ht := h) ..).keeps
  | .entdaa .., h => (execEntdaa_does .self (hk := .refl s) (ht := h) ..).keeps
  | .i3cCsrRead .., h => (execI3cCsrRead_does .self (hk := .refl s) (ht := h) ..).keeps
  | .i3cCsrWrite .., h => (execI3cCsrWrite_does .self (hk := .refl s) (ht := h) ..).keeps
  | .idcode .., h => (execIdcode_does .self (hk := .refl s) (ht := h) ..).keeps
  | .samplePreload .., h => (execSamplePreload_does .self (hk := .refl s) (ht := h) ..).keeps
  | .extest .., h => (execExtest_does .self (hk := .refl s) (ht := h) ..).keeps
  | .csrAddr .., h => (execCsrAddr_does .self (hk := .refl s) (ht := h) ..).keeps
  | .csrWrite .., h => (execCsrWrite_does .self (hk := .refl s) (ht := h) ..).keeps
  | .csrRead .., h => (execCsrRead_does .self (hk := .refl s) (ht := h) ..).keeps
  | .bypass .., h => (execBypass_does .self (hk := .refl s) (ht := h) ..).keeps
  | .jtagReset .., h => (execJtagReset_does .self (hk := .refl s) (ht := h) ..).keeps
  | .syncFrame .., h => (execSyncFrame_does .self (hk := .refl s) (ht := h) ..).keeps
  | .syncInMissing .., h => (execSyncInMissing_does .self (hk := .refl s) (ht := h) ..).keeps
  | .syncOutFrame .., h => (execSyncOutFrame_does .self (hk := .refl s) (ht := h) ..).keeps
  | .fire .., h => (execFire_does .self (hk := .refl s) (ht := h) ..).keeps
  | .rearm .., h => (execRearm_does .self (hk := .refl s) (ht := h) ..).keeps
  | .postWindowEnd .., h => (execPostWindowEnd_does .self (hk := .refl s) (ht := h) ..).keeps
  | .traceSend .., h => (execTraceSend_does .self (hk := .refl s) (ht := h) ..).keeps
  | .kmpTargetSet .., h => (execKmpTargetSet_does .self (hk := .refl s) (ht := h) ..).keeps
  | .exportTailAdvance .., h => (execExportTailAdvance_does .self (hk := .refl s) (ht := h) ..).keeps
  | .counterReset .., h => (execCounterReset_does .self (hk := .refl s) (ht := h) ..).keeps
  | .reclaimWalk .., h => (execReclaimWalk_does .self (hk := .refl s) (ht := h) ..).keeps
  | .fillComplete .., h => (execFillComplete_does .self (hk := .refl s) (ht := h) ..).keeps
  | .checkpointComplete .., h => (execCheckpointComplete_does .self (hk := .refl s) (ht := h) ..).keeps
  | .verifyComplete .., h => (execVerifyComplete_does .self (hk := .refl s) (ht := h) ..).keeps
  | .ethLinkUp .., h => (execEthLinkUp_does .self (hk := .refl s) (ht := h) ..).keeps
  | .clk32kReturn .., h => (execClk32kReturn_does .self (hk := .refl s) (ht := h) ..).keeps
  | .sdsRefclkReturn .., h => (execSdsRefclkReturn_does .self (hk := .refl s) (ht := h) ..).keeps
  | .standbyFeedFault .., h => (execStandbyFeedFault_does .self (hk := .refl s) (ht := h) ..).keeps
  | .pfcPauseExpiry .., h => (execPfcPauseExpiry_does .self (hk := .refl s) (ht := h) ..).keeps
  | .wakeComplete .., h => (execWakeComplete_does .self (hk := .refl s) (ht := h) ..).keeps
  | .cellCrcFailure .., h => (execCellCrcFailure_does .self (hk := .refl s) (ht := h) ..).keeps
  | .reservedKindCell .., h => (execReservedKindCell_does .self (hk := .refl s) (ht := h) ..).keeps
  | .discardedFrame .., h => (execDiscardedFrame_does .self (hk := .refl s) (ht := h) ..).keeps

theorem step_cases {s t : State} (h : step s = .next t) :
    (∃ c rest, s.pending = c :: rest ∧ exec c { s with pending := rest } = .next t) ∨ (s.pending = [] ∧ t = s.idle) := by
  unfold step at h
  cases hp : s.pending with
  | cons c rest => rw [hp] at h; exact .inl ⟨c, rest, rfl, h⟩
  | nil => rw [hp] at h; cases h; exact .inr ⟨rfl, rfl⟩

/-- A step keeps what every operation keeps, but for the command it takes off the queue. -/
theorem step_keeps {s t : State} (h : step s = .next t) : Keeps { s with pending := s.pending.tail } t := by
  obtain ⟨c, rest, hp, hc⟩ | ⟨hp, rfl⟩ := step_cases h
  · rw [hp]
    exact exec_keeps c hc
  · have same : { s with pending := s.pending.tail } = s := by rw [hp, List.tail_nil, ← hp]
    rw [same]
    exact (State.idle_does .self (.refl s)).keeps

/-! ### What leaves the largest committed serial as it is

The end of a commit writes the structure-image unit, so that `Does` gives of the counter that it does not fall; these say that it
does not rise either. -/

/-- An operation that does not write the structure-image unit leaves the counter. -/
theorem Does.maxSerial_eq {W : Nat} {s t : State} (h : Does W s t) (hW : W.testBit Field.si.ctorIdx = false) :
    t.si.maxSerial = s.si.maxSerial :=
  congrArg Si.maxSerial (h.same .si hW)

theorem State.engineIn_maxSerial (s : State) (x : EngineMsg) (media : List Medium) :
    (s.engineIn x media).si.maxSerial = s.si.maxSerial := by
  unfold State.engineIn
  split
  · rfl
  · cases x with
    | token => exact (State.tokenIn_does .self _ _ _ _ _ _ _ _ _ (.refl s)).maxSerial_eq rfl
    | close => exact (State.closeIn_does .self _ _ _ _ _ (.refl s)).maxSerial_eq rfl
    | gather => exact (State.gatherIn_does .self _ _ _ _ _ _ _ _ _ _ _ (.refl s)).maxSerial_eq rfl
    | select => exact (State.selectIn_does .self _ _ _ _ _ _ _ _ _ _ (.refl s)).maxSerial_eq rfl

theorem State.enginesGo_maxSerial (s : State) : s.enginesGo.si.maxSerial = s.si.maxSerial :=
  List.foldlRecOn (motive := fun x : State => x.si.maxSerial = s.si.maxSerial) s.si.heldEngine _ rfl
    (fun x hx a _ => (x.engineIn_maxSerial a []).trans hx)

theorem State.release_maxSerial (s : State) (m : Medium) : (s.release m).si.maxSerial = s.si.maxSerial := by
  have tags : (s.release m).si.maxSerial = (s.deliverHeld 8 m).enginesGo.si.maxSerial :=
    (Does.foldl _ _ (fun _ h hx => State.tagHeads_does .self h hx) (.refl _)).maxSerial_eq rfl
  rw [tags, State.enginesGo_maxSerial, (State.deliverHeld_does .self 8 m (.refl s)).maxSerial_eq rfl]

theorem State.heldEpochNow_maxSerial (s : State) : s.heldEpochNow.si.maxSerial = s.si.maxSerial := by
  unfold State.heldEpochNow
  split
  · rfl
  · exact ((State.decideOpen_does .self _ _ _ (.refl _)).maxSerial_eq rfl).trans rfl

theorem State.unhold_maxSerial (s : State) (m : Medium) : (s.unhold m).si.maxSerial = s.si.maxSerial := by
  unfold State.unhold
  rw [State.heldEpochNow_maxSerial, State.release_maxSerial, (State.unpark_does .self (.refl _)).maxSerial_eq rfl]
  rfl

/-- The state within `State.applyImage` in which the image is in force and nothing yet follows it: the one place where it writes the
structure-image unit. -/
def State.underImage (s : State) (img : Option SiImage) : State :=
  { s.settleQueues with
    eff := s.sectionsOf img, si := { s.settleQueues.si with inForce := img, committed := img.isSome } }

theorem State.underImage_maxSerial (s : State) (img : Option SiImage) : (s.underImage img).si.maxSerial = s.si.maxSerial := by
  show s.settleQueues.si.maxSerial = s.si.maxSerial
  rw [(State.settleQueues_does .self (.refl s)).maxSerial_eq rfl]

/-- What follows an image writes neither the sections in force nor the structure-image unit. -/
theorem State.applyImage_does_underImage {W : Nat} (hW : Covers W 0x2119B5ADC4485E1E8) {s₀ : State} (img : Option SiImage)
    (training : SMap (List (List LaneSweep))) {s : State} (hk : Does W s₀ (s.underImage img)) :
    Does W s₀ (s.applyImage img training) := by
  unfold State.applyImage
  extract_lets a b old _ _ inForce routed released served channels ports eths bound clamped reset _ exported _ frozen
  have hrouted : Does W s₀ routed := State.applyRoutes_does (hW.of rfl) old hk
  have hreleased : Does W s₀ released := State.atomReleaseClasses_does (hW.of rfl) _ hrouted
  have hserved : Does W s₀ served := .foldl _ _ (fun _ _ h => State.modHub_does (hW.of rfl) _ _ h) hreleased
  have hchannels : Does W s₀ channels := .foldl _ _ (fun _ _ h => State.laySlots_does (hW.of rfl) _
    (.foldl _ _ (fun _ _ h => State.applyDeep_does (hW.of rfl) _ _ _ h) h)) hserved
  have hports : Does W s₀ ports := by
    refine .foldl _ _ (fun x p h => ?_) hchannels
    split
    · exact State.applyPort_does (hW.of rfl) a p h
    · exact h
  have heths : Does W s₀ eths := State.applyEth_does (hW.of rfl) a _ (State.applyEth_does (hW.of rfl) a _ hports)
  have hbound : Does W s₀ bound := .foldl _ _ (fun _ q h => State.queueBind_does (hW.of rfl) q h) heths
  have hclamped : Does W s₀ clamped := State.clampQueues_does (hW.of rfl) a hbound
  have hreset : Does W s₀ reset := .foldl _ _ (fun _ _ h => State.clusterReset_does (hW.of rfl) _ _ h) hclamped
  have hexported : Does W s₀ exported := by
    dsimp only [exported]
    split
    · exact Does.upd_80 (hW.of rfl) hreset
    · exact hreset
  have hfrozen : Does W s₀ frozen := by
    dsimp only [frozen]
    split
    · exact Does.upd_80 (hW.of rfl) hexported
    · exact hexported
  exact State.moveSaves_does (hW.of rfl) (State.shootClasses_does (hW.of rfl) _ hfrozen)

theorem State.applyImage_maxSerial (s : State) (img : Option SiImage) (training : SMap (List (List LaneSweep))) :
    (s.applyImage img training).si.maxSerial = s.si.maxSerial := by
  rw [(State.applyImage_does_underImage .self img training (.refl _)).maxSerial_eq rfl, State.underImage_maxSerial]

/-! ### What a commit sets the counter to -/

theorem laterSerial_toNat (a b : BitVec 64) : (laterSerial a b).toNat = max a.toNat b.toNat := by
  unfold laterSerial
  split
  · next h => exact (max_eq_right (BitVec.le_of_lt h)).symm
  · next h => exact (max_eq_left (BitVec.not_lt.mp h)).symm

/-- What the slot record and the unit hold once the commit of image `x` has passed its checks in state `s` (R69, R74, R78). -/
def Si.afterCommit (y : Si) (x : SiImage) (s : State) : Si :=
  { y with
    state := .health, prev := y.cur, cur := some x, stage := none, lastResult := 1,
    maxSerial := laterSerial y.maxSerial x.serial, commitTime := s.clk.poolTime, healthMark := true,
    healthAt := some s.clk.now, mgmtSeen := false }

@[simp] theorem Si.afterCommit_maxSerial (y : Si) (x : SiImage) (s : State) :
    (y.afterCommit x s).maxSerial = laterSerial y.maxSerial x.serial := rfl

theorem State.si_modSi (s : State) (f : Si → Si) : (s.modSi f).si = f s.si := rfl

/-- A commit point that passes its checks: the image takes effect, the unit enters the health window, held work resumes (R74). -/
theorem execCommitPoint_commits (l : SMap (List (List LaneSweep))) (m : Medium) {b : StageBuf} {s : State} (hf : s.fatal = false)
    (hstate : s.si.state = .quiescing) (hstage : s.si.stage = some b)
    (hq : s.quiesced s.si.hold (s.effective (stagedImage b).sections) = true)
    (h9 : s.check9 (s.effective (stagedImage b).sections) = true) (h10 : s.check10 (stagedImage b) = true) :
    execCommitPoint l m s =
      .next (((s.applyImage (some (stagedImage b)) l).modSi (fun y => y.afterCommit (stagedImage b) s)).unhold m) := by
  unfold execCommitPoint
  rw [hf, hstate, hstage]
  dsimp only
  rw [hq, h9, h10]
  rfl

theorem execCommitPoint_maxSerial (l : SMap (List (List LaneSweep))) (m : Medium) {b : StageBuf} {s : State} (hf : s.fatal = false)
    (hstate : s.si.state = .quiescing) (hstage : s.si.stage = some b)
    (hq : s.quiesced s.si.hold (s.effective (stagedImage b).sections) = true)
    (h9 : s.check9 (s.effective (stagedImage b).sections) = true) (h10 : s.check10 (stagedImage b) = true) :
    ∃ t, exec (.commitPoint l m) s = .next t ∧ t.si.maxSerial = laterSerial s.si.maxSerial (stagedImage b).serial := by
  refine ⟨_, execCommitPoint_commits l m hf hstate hstage hq h9 h10, ?_⟩
  rw [State.unhold_maxSerial, State.si_modSi, Si.afterCommit_maxSerial, State.applyImage_maxSerial]

theorem execCommitOnReset_maxSerial {p : Path} {b : StageBuf} {s : State} (ht : s.siTakes p = true) (hc : s.mayCommit = true)
    (hstage : s.si.stage = some b) :
    ∃ t, exec (.commitOnReset p) s = .next t ∧ t.si.maxSerial = laterSerial s.si.maxSerial (stagedImage b).serial := by
  refine ⟨_, rfl, ?_⟩
  show (s.siCommitOnReset p).si.maxSerial = _
  unfold State.siCommitOnReset
  rw [ht, hc, hstage]
  rfl

/-- Settles O7: every step does what `Keeps` allows, and both forms of commit set the counter by `laterSerial`, the larger of two. -/
theorem monotonicCountersNeverFall : Obligations.MonotonicCountersNeverFall := by
  refine ⟨fun s t h => ?never, fun l m b s hf hstate hstage hq h9 h10 => ?commit, fun p b s ht hc hstage => ?onReset⟩
  case never =>
    have k := step_keeps h
    exact ⟨k.fuses, k.svn, k.serial, k.epoch, k.now⟩
  case commit =>
    obtain ⟨t, run, serial⟩ := execCommitPoint_maxSerial l m hf hstate hstage hq h9 h10
    exact ⟨t, run, by rw [serial, laterSerial_toNat]⟩
  case onReset =>
    obtain ⟨t, run, serial⟩ := execCommitOnReset_maxSerial ht hc hstage
    exact ⟨t, run, by rw [serial, laterSerial_toNat]⟩

end Sys2Proof.Machine
end

section
/-! The reason that a refused carving command reports (R808): the model looks for the first set flag in a list of codes; the codes
stand in the order of the rule (`carveOrder`), and each flag says whether its reason applies (`CarveReason`). Which code a non-zero
reserved field or an unknown class gives is deduced (notes/assumptions/15.md), and that a refused `CARVE` reports extent 0 is the
model's own choice (notes/assumptions/60.md). -/
namespace Sys2Proof.Machine
open Sys2Proof

/-! ### The reason that is reported -/

/-- Where each flag says whether `P` holds of its code, the first flagged code is the first code of the list with `P`. -/
theorem firstFlagged_eq {P : Nat → Prop} {flags : List (Bool × Nat)} (sound : ∀ x ∈ flags, (x.1 = true ↔ P x.2))
    {pre post : List Nat} {n : Nat} (order : flags.map Prod.snd = pre ++ n :: post) (hn : P n) (hpre : ∀ q ∈ pre, ¬P q) :
    ((flags.find? (·.1)).map (·.2)).getD 0 = n := by
  obtain ⟨before, rest, rfl, rfl, hrest⟩ := List.map_eq_append_iff.mp order
  obtain ⟨x, after, rfl, rfl, -⟩ := List.map_eq_cons_iff.mp hrest
  have flagged : x.1 = true := (sound x (by simp)).mpr hn
  have unflagged : before.find? (·.1) = none := List.find?_eq_none.mpr fun y hy h =>
    hpre y.2 (List.mem_map_of_mem hy) ((sound y (List.mem_append_left _ hy)).mp h)
  simp [List.find?_append, unflagged, flagged]

theorem State.carveClass_of_carve {s : State} {c : CarveCmd} (h : c.opcode = 1) : s.carveClass c = c.cls.toNat := if_pos h

/-- The refusal of a command is the first code, in the order of R808, whose reason applies. -/
theorem State.carveRefusal_eq_first {s : State} {c : CarveCmd} {pre post : List Nat} {n : Nat}
    (order : carveOrder = pre ++ n :: post) (hn : CarveReason s c n) (hpre : ∀ q ∈ pre, ¬CarveReason s c q) :
    s.carveRefusal c = n := by
  refine firstFlagged_eq (P := CarveReason s c) ?sound order hn hpre
  have opcode {k : Nat} (hk : k < 256) : c.opcode.toNat = k ↔ c.opcode = BitVec.ofNat 8 k := by
    rw [← BitVec.toNat_inj, BitVec.toNat_ofNat, Nat.mod_eq_of_lt hk]
  simp only [List.forall_mem_cons, List.not_mem_nil, IsEmpty.forall_iff, implies_true, and_true]
  refine ⟨?shape, ?retry, ?cls, ?absent, ?epoch, ?rights, ?draining, ?member, ?base, ?full, ?quota, ?noSlot⟩
  case retry =>
    by_cases h1 : c.opcode = 1#8 <;> simp [CarveReason, opcode, h1, and_left_comm, and_assoc]
  case epoch =>
    simp [CarveReason, opcode, or_and_right, and_assoc, or_assoc]
  case draining =>
    cases entry : s.entryFor c.host.toNat c.extent.toNat <;> simp [CarveReason, opcode, entry, or_assoc]
  case cls | quota | noSlot =>
    simp +contextual [CarveReason, opcode, State.carveClass_of_carve]
  case shape | absent | rights | member | base | full =>
    simp [CarveReason, opcode]

theorem CarveReason.mem_carveOrder {s : State} {c : CarveCmd} {n : Nat} (h : CarveReason s c n) : n ∈ carveOrder := by
  rcases h with h | h | h | h | h | h | h | h | h | h | h | h <;> rw [h.1] <;> decide

theorem CarveReason.ne_zero {s : State} {c : CarveCmd} {n : Nat} (h : CarveReason s c n) : n ≠ 0 := by
  rintro rfl
  exact absurd h.mem_carveOrder (by decide)

/-! ### What a refused command does -/

theorem State.carveDo_refused {s : State} (w : CarveWait) (h : s.carveRefusal w.cmd ≠ 0) :
    s.carveDo w = (some (s.carveDone w.cmd (s.carveRefusal w.cmd) (if w.cmd.opcode = 1 then 0 else w.cmd.extent.toNat)), s) := by
  unfold State.carveDo
  dsimp only
  split
  · next h0 => exact absurd h0 h
  · rfl

theorem exec_carveRow {hdr : KmpHdr} {cmd : CarveCmd} {r : BitVec 8 × Instr} (hr : r ∈ carveRows hdr cmd) (s : State) :
    exec r.2 s = .next (s.carveMsg hdr r.1 cmd) := by
  simp only [carveRows, List.mem_cons, List.not_mem_nil, or_false] at hr
  rcases hr with rfl | rfl | rfl | rfl | rfl | rfl <;> rfl

/-- A served carving command that is refused answers with its refusal and changes nothing but its session. -/
theorem exec_carveRow_refused {hdr : KmpHdr} {cmd : CarveCmd} {k : Nat} {x : KmpSession} {s v : State}
    (served : CarveServed s hdr cmd k x v) {r : BitVec 8 × Instr} (hr : r ∈ carveRows hdr cmd)
    (h : v.carveRefusal { cmd with opcode := r.1 } ≠ 0) :
    exec r.2 s = .next (v.replied k x hdr 6 { status := 0, body := .carve (v.carveDone { cmd with opcode := r.1 }
      (v.carveRefusal { cmd with opcode := r.1 }) (if r.1 = 1 then 0 else cmd.extent.toNat)) }) := by
  rw [exec_carveRow hr, carveMsg_served served, State.carveDo_refused { slot := k, sid := x.sid, hdr := hdr, cmd := _ } h]

/-- Settles O17: a served command answers with its refusal, which is the first code of `carveOrder` whose reason applies. -/
theorem carvingReasonsComeInOrder : Obligations.CarvingReasonsComeInOrder := by
  intro hdr cmd k n x pre post s v served r hr order hn hpre
  have first : v.carveRefusal { cmd with opcode := r.1 } = n := State.carveRefusal_eq_first order hn hpre
  refine ⟨?_, rfl⟩
  rw [exec_carveRow_refused served hr (first ▸ hn.ne_zero), first]

end Sys2Proof.Machine
end

section
/-! The map lookup at ingress (R111): what the checks at ingress answer on a miss and on a hit, and what becomes of a coherent request
that its meter lets pass. -/
namespace Sys2Proof.Machine
open Sys2Proof

/-! ### What the checks at ingress answer -/

theorem State.ingress_miss {s : State} {host addr : Nat} (h : (s.mapOf host).get? (addr / 2 ^ 28) = none) (need : Need)
    (legal : Nat → Bool) : s.ingress host addr need legal = (.unmapped, 0, false) := by
  unfold State.ingress
  rw [h]

/-- An access that passes every check lands in the extent of its map entry, at its own offset. -/
theorem State.ingress_ok_dpa {s : State} {host addr dpa : Nat} {need : Need} {legal : Nat → Bool} {e : MapEntry} {w : Bool}
    (he : (s.mapOf host).get? (addr / 2 ^ 28) = some e) (h : s.ingress host addr need legal = (.ok, dpa, w)) :
    dpa = e.extent.toNat * 2 ^ 28 + addr % 2 ^ 28 := by
  unfold State.ingress at h
  rw [he] at h
  dsimp only at h
  split_ifs at h <;> cases h
  rfl

/-! ### What becomes of a coherent request -/

theorem State.homeRequest_refused {s : State} {h : BitVec 10} {q : CohMsg} {st : PStatus} {dpa : Nat} {w : Bool} (hst : st ≠ .ok)
    (checks : s.ingress h.toNat (q.addr.toNat * 64) (needOf q) (trackAccepts q.op) = (st, dpa, w)) (m : Medium) :
    s.homeRequest h q m = s.reply h q.tag .nack .i st none := by
  unfold State.homeRequest
  rw [checks]
  split
  · next passed => exact absurd (congrArg Prod.fst passed) hst
  · next refused => cases refused; rfl

theorem State.homeRequest_taken {s : State} {h : BitVec 10} {q : CohMsg} {dpa : Nat} {w : Bool}
    (checks : s.ingress h.toNat (q.addr.toNat * 64) (needOf q) (trackAccepts q.op) = (.ok, dpa, w))
    (ready : s.hubResetting (s.homeHub (dpa / 64)) = false) (room : s.lineRoom (dpa / 64) = true) (m : Medium) :
    s.homeRequest h q m = s.takeReq (dpa / 64) {
      kind := reqKind q, from_ := .host h q.tag, addr := q.addr, grantW := w, track := s.lineTrack (dpa / 64), data := q.data.getD 0,
      mask := BitVec.allOnes 64 } m := by
  unfold State.homeRequest
  rw [checks]
  simp only [ready, room]
  rfl

theorem RequestTaken.cohRequest_eq {s u : State} {h : BitVec 10} {q : CohMsg} (taken : RequestTaken s h q u) (m : Medium) :
    s.cohRequest h q m = (u.homeRequest h q m).cohEnd m := by
  obtain ⟨hears, alive, unthrottled, rfl, passes, unheld⟩ := taken
  unfold State.cohRequest
  rw [hears, alive, unthrottled]
  rcases hm : s.meterArrive h.toNat 64 with ⟨colour, u⟩
  rw [hm] at passes unheld
  cases colour
  case red => exact absurd rfl passes
  all_goals
    dsimp only at unheld ⊢
    simp [unheld]

/-- The rows of the coherent requests all do what the arrival of their messages does; tag and address are the row's own. -/
theorem exec_requestRow {h : BitVec 10} {tag : BitVec 12} {addr : BitVec 46} {at_ : Bool} {d : Line} {m : Medium}
    {r : CohMsg × Instr} (hr : r ∈ requestRows h tag addr at_ d m) :
    r.1.tag = tag ∧ r.1.addr = addr ∧ ∀ s, exec r.2 s = .next (s.cohRequest h r.1 m) := by
  simp only [requestRows, List.mem_cons, List.not_mem_nil, or_false] at hr
  rcases hr with rfl | rfl | rfl | rfl | rfl <;> exact ⟨rfl, rfl, fun _ => rfl⟩

/-- Settles O21: a miss is refused by the checks at ingress as `Unmapped`; a hit that passes them is taken at the line of its DPA. -/
theorem mapsAreLookedUpAtIngress : Obligations.MapsAreLookedUpAtIngress := by
  intro h tag addr at_ d m s u r hr taken
  obtain ⟨rfl, rfl, run⟩ := exec_requestRow hr
  rw [run, taken.cohRequest_eq]
  refine ⟨fun miss => ?miss, fun e dpa w hit checks => ?hit⟩
  case miss =>
    rw [State.homeRequest_refused (by decide) (State.ingress_miss miss _ _)]
  case hit =>
    have hdpa := State.ingress_ok_dpa hit checks
    refine ⟨by omega, by omega, fun ready room => ?_⟩
    rw [State.homeRequest_taken checks ready room]

end Sys2Proof.Machine
end

section
/-! What a receiver makes of a beacon (R293): in a port in service the cell leads to `State.beaconIn` on a state in which, at most, the
receive direction has followed the `WIDTH` of the codeword (R248); the choice of the source, `LOCKED` and the correction of pool time
(R294, R295) come after and leave the ports. -/
namespace Sys2Proof.Machine
open Sys2Proof

theorem Does.port_eq {W : Nat} {s t : State} (h : Does W s t) (hW : W.testBit Field.zl.ctorIdx = false) (p : Nat) :
    t.port p = s.port p := congrArg (fun zl : SMap ZlPort => zl.getD p {}) (h.same .zl hW)

/-! ### From the cell to the beacon -/

/-- The receive direction that follows its codeword changes the lanes of the port alone. -/
theorem State.followWidth_port (s : State) (p : Nat) (w : BitVec 2) :
    ∃ lanes next, (s.followWidth p w).port p = { s.port p with laneMask := lanes, rxNext := next } := by
  unfold State.followWidth
  split
  · next m _ =>
    split
    · exact ⟨m, none, s.port_modPort p _⟩
    · exact ⟨_, _, rfl⟩
  · exact ⟨_, _, rfl⟩

theorem State.followWidth_clk (s : State) (p : Nat) (w : BitVec 2) : (s.followWidth p w).clk = s.clk :=
  (State.followWidth_does .self p w (.refl s)).same .clk rfl

/-- A port in service acts on an unsequenced cell without reserved bits. -/
theorem State.control_receiving {s : State} {p : Nat} {env : Envelope} (hears : s.receiving p = true) (plain : env.reserved = false)
    (unsequenced : env.seq = 0) (k : State → State) : s.control p env k = k (s.followWidth p env.width) := by
  have still : (s.followWidth p env.width).receiving p = true := by
    obtain ⟨_, _, hp⟩ := s.followWidth_port p env.width
    unfold State.receiving at hears ⊢
    rwa [hp]
  unfold State.control State.unsequenced
  simp [State.hearsCells, hears, plain, unsequenced, still]

/-! ### What the beacon leaves -/

theorem State.chooseSource_port (s : State) (p : Nat) : s.chooseSource.port p = s.port p :=
  (State.chooseSource_does .self (.refl s)).port_eq rfl p

theorem State.chooseSource_clk (s : State) : s.chooseSource.clk = s.clk := (State.chooseSource_does .self (.refl s)).same .clk rfl

theorem State.updateLock_port (s : State) (l : List OffsetSample) (n p : Nat) : (s.updateLock l n).port p = s.port p :=
  (State.updateLock_does .self l n (.refl s)).port_eq rfl p

theorem State.correct_port (s : State) (off : Int) (launch : Bool) (p : Nat) : (s.correct off launch).port p = s.port p :=
  (State.correct_does .self off launch (.refl s)).port_eq rfl p

/-- A beacon without an echo, or with one older than the floor, is noted and no more. -/
theorem State.beaconIn_unused {s : State} {p : Nat} {tx echo : BitVec 64} {d : BitVec 32} {st : BitVec 4} {launch : Bool}
    (unused : echo = 0 ∨ echo < (s.port p).echoFloor) :
    ((s.beaconIn p tx echo d st launch).port p).offsets = (s.port p).offsets ∧ (s.beaconIn p tx echo d st launch).clk = s.clk := by
  unfold State.beaconIn
  rw [if_pos unused, State.chooseSource_port, State.chooseSource_clk, State.port_modPort]
  exact ⟨rfl, rfl⟩

/-- A beacon whose echo counts adds the offset that it measures to the samples of its port, of which the last 64 stay (R295). -/
theorem State.beaconIn_used {s : State} {p : Nat} {tx echo : BitVec 64} {d : BitVec 32} {st : BitVec 4} {launch : Bool}
    (used : ¬(echo = 0 ∨ echo < (s.port p).echoFloor)) :
    ((s.beaconIn p tx echo d st launch).port p).offsets =
      ((s.port p).offsets ++ [(⟨s.clk.now, beaconOffset s.clk.poolTime tx echo d⟩ : OffsetSample)]).drop
        ((s.port p).offsets.length + 1 - 64) := by
  unfold State.beaconIn
  rw [if_neg used]
  dsimp only
  split
  case isTrue =>
    rw [State.correct_port, State.updateLock_port, State.chooseSource_port, State.port_modPort]
    rfl
  case isFalse =>
    rw [State.chooseSource_port, State.port_modPort]
    rfl

theorem getLast?_drop_concat {α : Type} {l : List α} {n : Nat} (short : n ≤ l.length) (x : α) :
    ((l ++ [x]).drop n).getLast? = some x := by
  rw [List.drop_append_of_le_length short, List.getLast?_concat]

/-- Settles O29: a beacon that counts adds its measured offset as the newest sample; any other leaves samples and clocks. -/
theorem beaconsAreMeasured : Obligations.BeaconsAreMeasured := by
  intro p env tx echo d st s hears plain unsequenced
  obtain ⟨_, _, hport⟩ := s.followWidth_port p env.width
  have hclk := s.followWidth_clk p env.width
  refine ⟨_, congrArg Host.Outcome.next (State.control_receiving hears plain unsequenced _), fun echoed recent => ?used, fun old => ?unused⟩
  case used =>
    have used : ¬(echo = 0 ∨ echo < ((s.followWidth p env.width).port p).echoFloor) := by
      rw [hport]
      exact not_or.mpr ⟨echoed, BitVec.not_lt.mpr recent⟩
    refine ⟨_, _, rfl, rfl, ?_⟩
    rw [State.beaconIn_used used, hport, hclk]
    exact getLast?_drop_concat (by omega) _
  case unused =>
    have unused : echo = 0 ∨ echo < ((s.followWidth p env.width).port p).echoFloor := by rwa [hport]
    obtain ⟨samples, clocks⟩ := State.beaconIn_unused (tx := tx) (d := d) (st := st)
      (launch := (s.followWidth p env.width).launchWaits) unused
    exact ⟨by rw [samples, hport], clocks.trans hclk⟩

end Sys2Proof.Machine
end

section
/-! The pairs of a `REG_WRITE` (R332): performing them gives what `PairsDone` describes, and a served message answers with their
results. -/
namespace Sys2Proof.Machine
open Sys2Proof

/-! ### What performing the pairs gives -/

theorem State.writePairs_cons_refused {s u : State} {p : Path} {e : WriteEnv} {a w : Word} {r : BitVec 8}
    (hw : s.csrWrite p a w e = (r, u)) (hr : refusedPair r = true) (l : List (Word × Word)) :
    s.writePairs p e ((a, w) :: l) = (r :: List.replicate l.length 7, u) := by
  rw [State.writePairs, hw, ← List.map_const']
  exact if_pos hr

theorem State.writePairs_cons_performed {s u : State} {p : Path} {e : WriteEnv} {a w : Word} {r : BitVec 8}
    (hw : s.csrWrite p a w e = (r, u)) (hr : refusedPair r = false) (l : List (Word × Word)) :
    s.writePairs p e ((a, w) :: l) = (r :: (u.writePairs p e l).1, (u.writePairs p e l).2) := by
  rw [State.writePairs, hw]
  exact if_neg (ne_true_of_eq_false hr)

theorem State.writePairs_pairsDone (p : Path) (e : WriteEnv) (ps : List (Word × Word)) (s : State) :
    PairsDone p e s ps (s.writePairs p e ps).1 (s.writePairs p e ps).2 := by
  induction ps generalizing s with
  | nil => exact .done s
  | cons q l ih =>
    obtain ⟨a, w⟩ := q
    rcases hw : s.csrWrite p a w e with ⟨r, u⟩
    cases hr : refusedPair r with
    | true =>
      rw [State.writePairs_cons_refused hw hr]
      exact .refused s u a w r l hw hr
    | false =>
      rw [State.writePairs_cons_performed hw hr]
      exact .performed s u _ a w r l _ hw hr (ih u)

/-! ### What a served message answers -/

/-- The security processor runs whenever a request is served, so no pair that needs it is told to come again (R716). -/
theorem exec_regWrite_served {hdr : KmpHdr} {k : Fin 32} {x : KmpSession} {ps : List (Word × Word)} {e : WriteEnv} {s v : State}
    (served : KmpServed s hdr k x v) (hne : ps ≠ []) (hlen : ps.length ≤ 128)
    (may : v.isTenant (.kmp k) = false ∨
      ∀ q ∈ ps, tenantWrites (addrHub q.1) (addrBlock q.1) (addrOff q.1) = true ∧ illegalAddr q.1 = false) :
    exec (.regWrite hdr ps e) s = .next ((v.writePairs (.kmp k) e ps).2.replied k x hdr 4
      { status := 0, body := .results (v.writePairs (.kmp k) e ps).1 }) := by
  have inLength : ¬(ps.isEmpty = true ∨ 128 < ps.length) := by simp [hne, hlen]
  have inRights : ¬(v.isTenant (.kmp k) = true ∧
      ¬ps.all (fun q => tenantWrites (addrHub q.1) (addrBlock q.1) (addrOff q.1) && !illegalAddr q.1) = true) := by
    rintro ⟨tenant, beyond⟩
    rcases may with free | may
    · exact absurd tenant (ne_true_of_eq_false free)
    · exact beyond (List.all_eq_true.mpr fun q hq => by simp [may q hq])
  refine congrArg Host.Outcome.next (served.replied_eq 4 s.fatal _ ?_)
  dsimp only
  rw [Fin.ofNat_val_eq_self, if_neg inLength, if_neg inRights,
    if_neg fun restarting => ne_true_of_eq_false served.notRestarting restarting.1]

/-- Settles O33: the results and the state are those of `writePairs`, by induction on the pairs and on whether each is refused. -/
theorem pairsAreWrittenInOrder : Obligations.PairsAreWrittenInOrder :=
  fun _ k _ ps e _ v served hne hlen may =>
    ⟨_, _, v.writePairs_pairsDone (.kmp k) e ps, exec_regWrite_served served hne hlen may⟩

end Sys2Proof.Machine
end

section
/-! Illegal register addresses (R729): the three operations that every path goes through, a write, a read and the latched address
of JTAG, stop at the address before they look at a register, and what each path answers follows (R730, R736, R737). -/
namespace Sys2Proof.Machine
open Sys2Proof

/-- The model's test, by the fields that the rule names. -/
theorem illegalAddr_iff (a : Word) : illegalAddr a = true ↔ a.extractLsb' 29 3 ≠ 0 ∨ a.extractLsb' 0 2 ≠ 0 := by
  have low : a.extractLsb' 0 2 = 0 ↔ a.toNat % 4 = 0 := by
    rw [← BitVec.toNat_inj, BitVec.extractLsb'_toNat, Nat.shiftRight_zero, BitVec.ofNat_eq_ofNat, BitVec.toNat_zero]
  have high : a.extractLsb' 29 3 = 0 ↔ a.toNat < 2 ^ 29 := by
    rw [← BitVec.toNat_inj, BitVec.extractLsb'_toNat, Nat.shiftRight_eq_div_pow, BitVec.ofNat_eq_ofNat, BitVec.toNat_zero]
    omega
  rw [illegalAddr, decide_eq_true_eq, or_comm, ← not_lt]
  exact or_congr (not_congr high.symm) (not_congr low.symm)

/-! ### What every path goes through -/

theorem State.csrWrite_illegal {a : Word} (h : illegalAddr a = true) (s : State) (p : Path) (v : Word) (e : WriteEnv) :
    s.csrWrite p a v e = (6, s) := if_pos h

theorem State.csrRead_illegal {a : Word} (h : illegalAddr a = true) (s : State) (p : Path) : s.csrRead p a = 0 :=
  if_pos (.inl h)

/-- The limits of a tenant session can only stop a write that already does nothing. -/
theorem State.pathWrite_illegal {a : Word} (h : illegalAddr a = true) (s : State) (p : Path) (v : Word) (e : WriteEnv) :
    s.pathWrite p a v e = s := by
  rw [State.pathWrite, s.csrWrite_illegal h, ite_self]

theorem State.modJtag_on {s : State} (h : s.jtagOn = true) (f : Jtag → Jtag) : s.modJtag f = { s with jtag := f s.jtag } :=
  if_pos h

/-! ### What the paths answer -/

theorem exec_regRead_illegal {hdr : KmpHdr} {k : Nat} {x : KmpSession} {s v : State} (served : KmpServed s hdr k x v)
    {a : Word} (h : illegalAddr a = true) (n : Byte) :
    exec (.regRead hdr a n) s = .next (v.replied k x hdr 3 { status := 6 }) :=
  congrArg Host.Outcome.next (served.replied_eq 3 true _ (if_pos (.inl h)))

/-- The first pair is refused for its address, so that no later one is performed. -/
theorem State.writePairs_cons_illegal {a : Word} (h : illegalAddr a = true) (s : State) (p : Path) (e : WriteEnv) (w : Word)
    (l : List (Word × Word)) : s.writePairs p e ((a, w) :: l) = (6 :: List.replicate l.length 7, s) :=
  State.writePairs_cons_refused (s.csrWrite_illegal h p w e) (by decide) l

theorem exec_csrWrite_on {s : State} (on : s.jtagOn = true) (v : Word) (e : WriteEnv) :
    exec (.csrWrite v e) s =
      .next (({ s with jtag := { s.jtag with ir := 0x21, driving := false } } : State).csrWrite .jtag s.jtag.addr v e).2 := by
  rw [← State.modJtag_on on (fun j => { j with ir := 0x21, driving := false })]
  exact congrArg Host.Outcome.next (if_pos on)

theorem exec_csrRead_completed {s : State} (on : s.jtagOn = true) :
    exec (.csrRead true) s = .next { s with
      jtag := { s.jtag with ir := 0x22, dr := 1#1 ++ s.csrRead .jtag s.jtag.addr, driving := false } } := by
  rw [← State.modJtag_on on (fun j => { j with ir := 0x22, dr := 1#1 ++ s.csrRead .jtag s.jtag.addr, driving := false })]
  exact congrArg Host.Outcome.next (if_neg (not_not_intro on))

/-- Settles O59: each path ends in `csrWrite` or `csrRead`, which stop at an illegal address, or in a request that tests the address
itself. -/
theorem illegalAddressesReachNoRegister : Obligations.IllegalAddressesReachNoRegister := by
  intro a fields
  have illegal : illegalAddr a = true := (illegalAddr_iff a).mpr fields
  refine ⟨fun p v e s => ?everyPath, fun hdr k x n s v served => ?regRead, fun hdr k x w l e s v served short notTenant => ?regWrite,
    fun v e s on latched => ?jtag⟩
  case everyPath =>
    exact ⟨congrArg Host.Outcome.next (s.pathWrite_illegal illegal p v e), s.csrRead_illegal illegal p⟩
  case regRead =>
    exact exec_regRead_illegal served illegal n
  case regWrite =>
    rw [exec_regWrite_served served (List.cons_ne_nil _ l) short (.inl notTenant), State.writePairs_cons_illegal illegal]
  case jtag =>
    rw [exec_csrWrite_on on, exec_csrRead_completed on, latched, State.csrWrite_illegal illegal, State.csrRead_illegal illegal]
    exact ⟨rfl, rfl⟩

end Sys2Proof.Machine
end

section
/-! The block as a whole: every command answers, each writes within its row of `writesOf`, every step keeps what `Keeps` says, and an
empty queue lets one cycle pass. -/
namespace Sys2Proof.Machine
open Sys2Proof

/-! ### Steps -/

/-- Settles O1: `step` looks at the front of the queue. -/
theorem stepRunsTheFrontCommand : Obligations.StepRunsTheFrontCommand :=
  fun _ _ _ => rfl

/-- Settles O5: a step keeps what every operation keeps, the canonical form of memory among it. -/
theorem everyStepKeepsMemoryCanonical : Obligations.EveryStepKeepsMemoryCanonical :=
  fun _ _ canonical h => (step_keeps h).mem canonical

theorem exec_answers (c : Instr) (s : State) : ∃ t, exec c s = .next t := by
  cases c <;> exact ⟨_, rfl⟩

theorem step_answers (s : State) : ∃ t, step s = .next t := by
  unfold step
  split
  · exact exec_answers _ _
  · exact ⟨_, rfl⟩

/-- Settles O4: every arm of `exec` answers a next state, and a step keeps what waits behind its command. -/
theorem everyStepAnswers : Obligations.EveryStepAnswers := by
  refine ⟨exec_answers, fun s => ?_⟩
  obtain ⟨t, h⟩ := step_answers s
  exact ⟨t, h, (step_keeps h).pending⟩

/-! ### What each command writes -/

/-- Each command's own meaning writes fields of its row alone. -/
theorem exec_writes {s t : State} (c : Instr) (h : exec c s = .next t) :
    ∃ m, Does m s t ∧ Covers (Field.mask (writesOf c)) m := by
  refine match c, h with
  | .powerOn .., h => ⟨_, execPowerOn_does .self (hk := .refl s) (ht := h) .., ?_⟩
  | .packageReset .., h => ⟨_, execPackageReset_does .self (hk := .refl s) (ht := h) .., ?_⟩
  | .packageResetCmd .., h => ⟨_, execPackageResetCmd_does .self (hk := .refl s) (ht := h) .., ?_⟩
  | .startUp .., h => ⟨_, execStartUp_does .self (hk := .refl s) (ht := h) .., ?_⟩
  | .startUpEnd .., h => ⟨_, execStartUpEnd_does .self (hk := .refl s) (ht := h) .., ?_⟩
  | .refclkLoss .., h => ⟨_, execRefclkLoss_does .self (hk := .refl s) (ht := h) .., ?_⟩
  | .sdsRefclkLoss .., h => ⟨_, execSdsRefclkLoss_does .self (hk := .refl s) (ht := h) .., ?_⟩
  | .clk32kLoss .., h => ⟨_, execClk32kLoss_does .self (hk := .refl s) (ht := h) .., ?_⟩
  | .hubPartialReset .., h => ⟨_, execHubPartialReset_does .self (hk := .refl s) (ht := h) .., ?_⟩
  | .hubWatchdog .., h => ⟨_, execHubWatchdog_does .self (hk := .refl s) (ht := h) .., ?_⟩
  | .partialResetRestart .., h => ⟨_, execPartialResetRestart_does .self (hk := .refl s) (ht := h) .., ?_⟩
  | .partialResetReturn .., h => ⟨_, execPartialResetReturn_does .self (hk := .refl s) (ht := h) .., ?_⟩
  | .partialResetOverrun .., h => ⟨_, execPartialResetOverrun_does .self (hk := .refl s) (ht := h) .., ?_⟩
  | .bridgeParityError .., h => ⟨_, execBridgeParityError_does .self (hk := .refl s) (ht := h) .., ?_⟩
  | .fatalPortStop .., h => ⟨_, execFatalPortStop_does .self (hk := .refl s) (ht := h) .., ?_⟩
  | .open_ .., h => ⟨_, execOpen_does .self (hk := .refl s) (ht := h) .., ?_⟩
  | .validate .., h => ⟨_, execValidate_does .self (hk := .refl s) (ht := h) .., ?_⟩
  | .commit .., h => ⟨_, execCommit_does .self (hk := .refl s) (ht := h) .., ?_⟩
  | .commitPoint .., h => ⟨_, execCommitPoint_does .self (hk := .refl s) (ht := h) .., ?_⟩
  | .quiesceLimitExpired .., h => ⟨_, execQuiesceLimitExpired_does .self (hk := .refl s) (ht := h) .., ?_⟩
  | .commitOnReset .., h => ⟨_, execCommitOnReset_does .self (hk := .refl s) (ht := h) .., ?_⟩
  | .abandon .., h => ⟨_, execAbandon_does .self (hk := .refl s) (ht := h) .., ?_⟩
  | .revert .., h => ⟨_, execRevert_does .self (hk := .refl s) (ht := h) .., ?_⟩
  | .healthCheckFail .., h => ⟨_, execHealthCheckFail_does .self (hk := .refl s) (ht := h) .., ?_⟩
  | .healthWindowClose .., h => ⟨_, execHealthWindowClose_does .self (hk := .refl s) (ht := h) .., ?_⟩
  | .siLockSet .., h => ⟨_, execSiLockSet_does .self (hk := .refl s) (ht := h) .., ?_⟩
  | .transfer .., h => ⟨_, execTransfer_does .self (hk := .refl s) (ht := h) .., ?_⟩
  | .carve .., h => ⟨_, execCarve_does .self (hk := .refl s) (ht := h) .., ?_⟩
  | .grant .., h => ⟨_, execGrant_does .self (hk := .refl s) (ht := h) .., ?_⟩
  | .rights .., h => ⟨_, execRights_does .self (hk := .refl s) (ht := h) .., ?_⟩
  | .narrowingSnoop .., h => ⟨_, execNarrowingSnoop_does .self (hk := .refl s) (ht := h) .., ?_⟩
  | .narrowingComplete .., h => ⟨_, execNarrowingComplete_does .self (hk := .refl s) (ht := h) .., ?_⟩
  | .withdraw .., h => ⟨_, execWithdraw_does .self (hk := .refl s) (ht := h) .., ?_⟩
  | .withdrawalRecall .., h => ⟨_, execWithdrawalRecall_does .self (hk := .refl s) (ht := h) .., ?_⟩
  | .withdrawalComplete .., h => ⟨_, execWithdrawalComplete_does .self (hk := .refl s) (ht := h) .., ?_⟩
  | .free .., h => ⟨_, execFree_does .self (hk := .refl s) (ht := h) .., ?_⟩
  | .query .., h => ⟨_, execQuery_does .self (hk := .refl s) (ht := h) .., ?_⟩
  | .rds .., h => ⟨_, execRds_does .self (hk := .refl s) (ht := h) .., ?_⟩
  | .rdx .., h => ⟨_, execRdx_does .self (hk := .refl s) (ht := h) .., ?_⟩
  | .upg .., h => ⟨_, execUpg_does .self (hk := .refl s) (ht := h) .., ?_⟩
  | .wbm .., h => ⟨_, execWbm_does .self (hk := .refl s) (ht := h) .., ?_⟩
  | .evc .., h => ⟨_, execEvc_does .self (hk := .refl s) (ht := h) .., ?_⟩
  | .rdnc .., h => ⟨_, execRdnc_does .self (hk := .refl s) (ht := h) .., ?_⟩
  | .wrfull .., h => ⟨_, execWrfull_does .self (hk := .refl s) (ht := h) .., ?_⟩
  | .transactionOpen .., h => ⟨_, execTransactionOpen_does .self (hk := .refl s) (ht := h) .., ?_⟩
  | .ackAnswer .., h => ⟨_, execAckAnswer_does .self (hk := .refl s) (ht := h) .., ?_⟩
  | .snprspi .., h => ⟨_, execSnprspi_does .self (hk := .refl s) (ht := h) .., ?_⟩
  | .snprspwb .., h => ⟨_, execSnprspwb_does .self (hk := .refl s) (ht := h) .., ?_⟩
  | .fwddata .., h => ⟨_, execFwddata_does .self (hk := .refl s) (ht := h) .., ?_⟩
  | .retryRecordExpiry .., h => ⟨_, execRetryRecordExpiry_does .self (hk := .refl s) (ht := h) .., ?_⟩
  | .orphanTimeout .., h => ⟨_, execOrphanTimeout_does .self (hk := .refl s) (ht := h) .., ?_⟩
  | .deadHostTimeout .., h => ⟨_, execDeadHostTimeout_does .self (hk := .refl s) (ht := h) .., ?_⟩
  | .cohDeadQuery .., h => ⟨_, execCohDeadQuery_does .self (hk := .refl s) (ht := h) .., ?_⟩
  | .declareDead .., h => ⟨_, execDeclareDead_does .self (hk := .refl s) (ht := h) .., ?_⟩
  | .reclaimDone .., h => ⟨_, execReclaimDone_does .self (hk := .refl s) (ht := h) .., ?_⟩
  | .readmit .., h => ⟨_, execReadmit_does .self (hk := .refl s) (ht := h) .., ?_⟩
  | .cohReclaimDoneClear .., h => ⟨_, execCohReclaimDoneClear_does .self (hk := .refl s) (ht := h) .., ?_⟩
  | .tenancyRecallTimeout .., h => ⟨_, execTenancyRecallTimeout_does .self (hk := .refl s) (ht := h) .., ?_⟩
  | .tenancyEndComplete .., h => ⟨_, execTenancyEndComplete_does .self (hk := .refl s) (ht := h) .., ?_⟩
  | .head .., h => ⟨_, execHead_does .self (hk := .refl s) (ht := h) .., ?_⟩
  | .body .., h => ⟨_, execBody_does .self (hk := .refl s) (ht := h) .., ?_⟩
  | .credit .., h => ⟨_, execCredit_does .self (hk := .refl s) (ht := h) .., ?_⟩
  | .null .., h => ⟨_, execNull_does .self (hk := .refl s) (ht := h) .., ?_⟩
  | .uncorrectableCodeword .., h => ⟨_, execUncorrectableCodeword_does .self (hk := .refl s) (ht := h) .., ?_⟩
  | .ack .., h => ⟨_, execAck_does .self (hk := .refl s) (ht := h) .., ?_⟩
  | .nak .., h => ⟨_, execNak_does .self (hk := .refl s) (ht := h) .., ?_⟩
  | .nakResend .., h => ⟨_, execNakResend_does .self (hk := .refl s) (ht := h) .., ?_⟩
  | .ackTimer .., h => ⟨_, execAckTimer_does .self (hk := .refl s) (ht := h) .., ?_⟩
  | .keepaliveSend .., h => ⟨_, execKeepaliveSend_does .self (hk := .refl s) (ht := h) .., ?_⟩
  | .keepalive _ _ _ lanes state trainId, h => ⟨_, execKeepalive_does .self _ _ _ lanes state trainId (.refl s) h, ?_⟩
  | .linkDown .., h => ⟨_, execLinkDown_does .self (hk := .refl s) (ht := h) .., ?_⟩
  | .trainingAttempt .., h => ⟨_, execTrainingAttempt_does .self (hk := .refl s) (ht := h) .., ?_⟩
  | .trainingTimeout .., h => ⟨_, execTrainingTimeout_does .self (hk := .refl s) (ht := h) .., ?_⟩
  | .adaptationDone .., h => ⟨_, execAdaptationDone_does .self (hk := .refl s) (ht := h) .., ?_⟩
  | .alignDone .., h => ⟨_, execAlignDone_does .self (hk := .refl s) (ht := h) .., ?_⟩
  | .train .., h => ⟨_, execTrain_does .self (hk := .refl s) (ht := h) .., ?_⟩
  | .retrain .., h => ⟨_, execRetrain_does .self (hk := .refl s) (ht := h) .., ?_⟩
  | .retrainRequestRepeat .., h => ⟨_, execRetrainRequestRepeat_does .self (hk := .refl s) (ht := h) .., ?_⟩
  | .widthSwitch .., h => ⟨_, execWidthSwitch_does .self (hk := .refl s) (ht := h) .., ?_⟩
  | .laneErrorInterval .., h => ⟨_, execLaneErrorInterval_does .self (hk := .refl s) (ht := h) .., ?_⟩
  | .silenceTraining .., h => ⟨_, execSilenceTraining_does .self (hk := .refl s) (ht := h) .., ?_⟩
  | .zlRetrainCmd .., h => ⟨_, execZlRetrainCmd_does .self (hk := .refl s) (ht := h) .., ?_⟩
  | .zlNarrowCmd .., h => ⟨_, execZlNarrowCmd_does .self (hk := .refl s) (ht := h) .., ?_⟩
  | .creditReturnTimer .., h => ⟨_, execCreditReturnTimer_does .self (hk := .refl s) (ht := h) .., ?_⟩
  | .creditFallback .., h => ⟨_, execCreditFallback_does .self (hk := .refl s) (ht := h) .., ?_⟩
  | .transportAck .., h => ⟨_, execTransportAck_does .self (hk := .refl s) (ht := h) .., ?_⟩
  | .transportAckTimer .., h => ⟨_, execTransportAckTimer_does .self (hk := .refl s) (ht := h) .., ?_⟩
  | .rtoExpiry .., h => ⟨_, execRtoExpiry_does .self (hk := .refl s) (ht := h) .., ?_⟩
  | .pathProbeSend .., h => ⟨_, execPathProbeSend_does .self (hk := .refl s) (ht := h) .., ?_⟩
  | .pathProbe .., h => ⟨_, execPathProbe_does .self (hk := .refl s) (ht := h) .., ?_⟩
  | .pathHoldExpiry .., h => ⟨_, execPathHoldExpiry_does .self (hk := .refl s) (ht := h) .., ?_⟩
  | .primaryReturn .., h => ⟨_, execPrimaryReturn_does .self (hk := .refl s) (ht := h) .., ?_⟩
  | .zlfHold .., h => ⟨_, execZlfHold_does .self (hk := .refl s) (ht := h) .., ?_⟩
  | .idLockSet .., h => ⟨_, execIdLockSet_does .self (hk := .refl s) (ht := h) .., ?_⟩
  | .beaconSend .., h => ⟨_, execBeaconSend_does .self (hk := .refl s) (ht := h) .., ?_⟩
  | .beacon .., h => ⟨_, execBeacon_does .self (hk := .refl s) (ht := h) .., ?_⟩
  | .bulkReadRequest .., h => ⟨_, execBulkReadRequest_does .self (hk := .refl s) (ht := h) .., ?_⟩
  | .bulkWriteData .., h => ⟨_, execBulkWriteData_does .self (hk := .refl s) (ht := h) .., ?_⟩
  | .arpRequest .., h => ⟨_, execArpRequest_does .self (hk := .refl s) (ht := h) .., ?_⟩
  | .neighbourSolicitation .., h => ⟨_, execNeighbourSolicitation_does .self (hk := .refl s) (ht := h) .., ?_⟩
  | .echoRequest .., h => ⟨_, execEchoRequest_does .self (hk := .refl s) (ht := h) .., ?_⟩
  | .dhcpMessage .., h => ⟨_, execDhcpMessage_does .self (hk := .refl s) (ht := h) .., ?_⟩
  | .pfcFrame .., h => ⟨_, execPfcFrame_does .self (hk := .refl s) (ht := h) .., ?_⟩
  | .pfcRepeat .., h => ⟨_, execPfcRepeat_does .self (hk := .refl s) (ht := h) .., ?_⟩
  | .pfcWatchdog .., h => ⟨_, execPfcWatchdog_does .self (hk := .refl s) (ht := h) .., ?_⟩
  | .cnp .., h => ⟨_, execCnp_does .self (hk := .refl s) (ht := h) .., ?_⟩
  | .rateIncrease .., h => ⟨_, execRateIncrease_does .self (hk := .refl s) (ht := h) .., ?_⟩
  | .send .., h => ⟨_, execSend_does .self (hk := .refl s) (ht := h) .., ?_⟩
  | .rdmaReadResponse .., h => ⟨_, execRdmaReadResponse_does .self (hk := .refl s) (ht := h) .., ?_⟩
  | .rdmaAcknowledge .., h => ⟨_, execRdmaAcknowledge_does .self (hk := .refl s) (ht := h) .., ?_⟩
  | .rdmaRequestToPart .., h => ⟨_, execRdmaRequestToPart_does .self (hk := .refl s) (ht := h) .., ?_⟩
  | .ackTimeout .., h => ⟨_, execAckTimeout_does .self (hk := .refl s) (ht := h) .., ?_⟩
  | .ethLinkDown .., h => ⟨_, execEthLinkDown_does .self (hk := .refl s) (ht := h) .., ?_⟩
  | .ethIpv4Write .., h => ⟨_, execEthIpv4Write_does .self (hk := .refl s) (ht := h) .., ?_⟩
  | .discover .., h => ⟨_, execDiscover_does .self (hk := .refl s) (ht := h) .., ?_⟩
  | .regRead .., h => ⟨_, execRegRead_does .self (hk := .refl s) (ht := h) .., ?_⟩
  | .regWrite .., h => ⟨_, execRegWrite_does .self (hk := .refl s) (ht := h) .., ?_⟩
  | .registerWrite .., h => ⟨_, execRegisterWrite_does .self (hk := .refl s) (ht := h) .., ?_⟩
  | .qpConnect .., h => ⟨_, execQpConnect_does .self (hk := .refl s) (ht := h) .., ?_⟩
  | .eventAck .., h => ⟨_, execEventAck_does .self (hk := .refl s) (ht := h) .., ?_⟩
  | .eventRetransmit .., h => ⟨_, execEventRetransmit_does .self (hk := .refl s) (ht := h) .., ?_⟩
  | .kmpKeepalive .., h => ⟨_, execKmpKeepalive_does .self (hk := .refl s) (ht := h) .., ?_⟩
  | .end_ .., h => ⟨_, execEnd_does .self (hk := .refl s) (ht := h) .., ?_⟩
  | .sessionTimeout .., h => ⟨_, execSessionTimeout_does .self (hk := .refl s) (ht := h) .., ?_⟩
  | .ptpMessage .., h => ⟨_, execPtpMessage_does .self (hk := .refl s) (ht := h) .., ?_⟩
  | .queueSubmit .., h => ⟨_, execQueueSubmit_does .self (hk := .refl s) (ht := h) .., ?_⟩
  | .cqRelease .., h => ⟨_, execCqRelease_does .self (hk := .refl s) (ht := h) .., ?_⟩
  | .read .., h => ⟨_, execRead_does .self (hk := .refl s) (ht := h) .., ?_⟩
  | .write .., h => ⟨_, execWrite_does .self (hk := .refl s) (ht := h) .., ?_⟩
  | .atomic .., h => ⟨_, execAtomic_does .self (hk := .refl s) (ht := h) .., ?_⟩
  | .nop .., h => ⟨_, execNop_does .self (hk := .refl s) (ht := h) .., ?_⟩
  | .completionWrite .., h => ⟨_, execCompletionWrite_does .self (hk := .refl s) (ht := h) .., ?_⟩
  | .yellowPromotion .., h => ⟨_, execYellowPromotion_does .self (hk := .refl s) (ht := h) .., ?_⟩
  | .loadMeasure .., h => ⟨_, execLoadMeasure_does .self (hk := .refl s) (ht := h) .., ?_⟩
  | .mdesc .., h => ⟨_, execMdesc_does .self (hk := .refl s) (ht := h) .., ?_⟩
  | .descriptorComplete .., h => ⟨_, execDescriptorComplete_does .self (hk := .refl s) (ht := h) .., ?_⟩
  | .streamRetry .., h => ⟨_, execStreamRetry_does .self (hk := .refl s) (ht := h) .., ?_⟩
  | .wload .., h => ⟨_, execWload_does .self (hk := .refl s) (ht := h) .., ?_⟩
  | .wloadComplete .., h => ⟨_, execWloadComplete_does .self (hk := .refl s) (ht := h) .., ?_⟩
  | .mma .., h => ⟨_, execMma_does .self (hk := .refl s) (ht := h) .., ?_⟩
  | .mmaComplete .., h => ⟨_, execMmaComplete_does .self (hk := .refl s) (ht := h) .., ?_⟩
  | .fadd .., h => ⟨_, execFadd_does .self (hk := .refl s) (ht := h) .., ?_⟩
  | .fsub .., h => ⟨_, execFsub_does .self (hk := .refl s) (ht := h) .., ?_⟩
  | .fmul .., h => ⟨_, execFmul_does .self (hk := .refl s) (ht := h) .., ?_⟩
  | .fmin .., h => ⟨_, execFmin_does .self (hk := .refl s) (ht := h) .., ?_⟩
  | .fmax .., h => ⟨_, execFmax_does .self (hk := .refl s) (ht := h) .., ?_⟩
  | .fclt .., h => ⟨_, execFclt_does .self (hk := .refl s) (ht := h) .., ?_⟩
  | .fceq .., h => ⟨_, execFceq_does .self (hk := .refl s) (ht := h) .., ?_⟩
  | .iadd .., h => ⟨_, execIadd_does .self (hk := .refl s) (ht := h) .., ?_⟩
  | .isub .., h => ⟨_, execIsub_does .self (hk := .refl s) (ht := h) .., ?_⟩
  | .imul .., h => ⟨_, execImul_does .self (hk := .refl s) (ht := h) .., ?_⟩
  | .vectorAnd .., h => ⟨_, execVectorAnd_does .self (hk := .refl s) (ht := h) .., ?_⟩
  | .vectorOr .., h => ⟨_, execVectorOr_does .self (hk := .refl s) (ht := h) .., ?_⟩
  | .vectorXor .., h => ⟨_, execVectorXor_does .self (hk := .refl s) (ht := h) .., ?_⟩
  | .sel .., h => ⟨_, execSel_does .self (hk := .refl s) (ht := h) .., ?_⟩
  | .bcast .., h => ⟨_, execBcast_does .self (hk := .refl s) (ht := h) .., ?_⟩
  | .exp .., h => ⟨_, execExp_does .self (hk := .refl s) (ht := h) .., ?_⟩
  | .log .., h => ⟨_, execLog_does .self (hk := .refl s) (ht := h) .., ?_⟩
  | .recip .., h => ⟨_, execRecip_does .self (hk := .refl s) (ht := h) .., ?_⟩
  | .rsqrt .., h => ⟨_, execRsqrt_does .self (hk := .refl s) (ht := h) .., ?_⟩
  | .gelu .., h => ⟨_, execGelu_does .self (hk := .refl s) (ht := h) .., ?_⟩
  | .silu .., h => ⟨_, execSilu_does .self (hk := .refl s) (ht := h) .., ?_⟩
  | .vmov .., h => ⟨_, execVmov_does .self (hk := .refl s) (ht := h) .., ?_⟩
  | .viota .., h => ⟨_, execViota_does .self (hk := .refl s) (ht := h) .., ?_⟩
  | .rsum .., h => ⟨_, execRsum_does .self (hk := .refl s) (ht := h) .., ?_⟩
  | .rsuma .., h => ⟨_, execRsuma_does .self (hk := .refl s) (ht := h) .., ?_⟩
  | .rmax .., h => ⟨_, execRmax_does .self (hk := .refl s) (ht := h) .., ?_⟩
  | .rmaxa .., h => ⟨_, execRmaxa_does .self (hk := .refl s) (ht := h) .., ?_⟩
  | .rmin .., h => ⟨_, execRmin_does .self (hk := .refl s) (ht := h) .., ?_⟩
  | .rmina .., h => ⟨_, execRmina_does .self (hk := .refl s) (ht := h) .., ?_⟩
  | .topki .., h => ⟨_, execTopki_does .self (hk := .refl s) (ht := h) .., ?_⟩
  | .topk .., h => ⟨_, execTopk_does .self (hk := .refl s) (ht := h) .., ?_⟩
  | .cvtif .., h => ⟨_, execCvtif_does .self (hk := .refl s) (ht := h) .., ?_⟩
  | .cvtfi .., h => ⟨_, execCvtfi_does .self (hk := .refl s) (ht := h) .., ?_⟩
  | .vld .., h => ⟨_, execVld_does .self (hk := .refl s) (ht := h) .., ?_⟩
  | .vst .., h => ⟨_, execVst_does .self (hk := .refl s) (ht := h) .., ?_⟩
  | .vectorResultWritten .., h => ⟨_, execVectorResultWritten_does .self (hk := .refl s) (ht := h) .., ?_⟩
  | .add .., h => ⟨_, execAdd_does .self (hk := .refl s) (ht := h) .., ?_⟩
  | .sub .., h => ⟨_, execSub_does .self (hk := .refl s) (ht := h) .., ?_⟩
  | .mul .., h => ⟨_, execMul_does .self (hk := .refl s) (ht := h) .., ?_⟩
  | .and .., h => ⟨_, execAnd_does .self (hk := .refl s) (ht := h) .., ?_⟩
  | .or .., h => ⟨_, execOr_does .self (hk := .refl s) (ht := h) .., ?_⟩
  | .xor .., h => ⟨_, execXor_does .self (hk := .refl s) (ht := h) .., ?_⟩
  | .shl .., h => ⟨_, execShl_does .self (hk := .refl s) (ht := h) .., ?_⟩
  | .shr .., h => ⟨_, execShr_does .self (hk := .refl s) (ht := h) .., ?_⟩
  | .sar .., h => ⟨_, execSar_does .self (hk := .refl s) (ht := h) .., ?_⟩
  | .slt .., h => ⟨_, execSlt_does .self (hk := .refl s) (ht := h) .., ?_⟩
  | .sltu .., h => ⟨_, execSltu_does .self (hk := .refl s) (ht := h) .., ?_⟩
  | .li .., h => ⟨_, execLi_does .self (hk := .refl s) (ht := h) .., ?_⟩
  | .lih .., h => ⟨_, execLih_does .self (hk := .refl s) (ht := h) .., ?_⟩
  | .amov .., h => ⟨_, execAmov_does .self (hk := .refl s) (ht := h) .., ?_⟩
  | .aadd .., h => ⟨_, execAadd_does .self (hk := .refl s) (ht := h) .., ?_⟩
  | .aget .., h => ⟨_, execAget_does .self (hk := .refl s) (ht := h) .., ?_⟩
  | .br .., h => ⟨_, execBr_does .self (hk := .refl s) (ht := h) .., ?_⟩
  | .beq .., h => ⟨_, execBeq_does .self (hk := .refl s) (ht := h) .., ?_⟩
  | .bne .., h => ⟨_, execBne_does .self (hk := .refl s) (ht := h) .., ?_⟩
  | .blt .., h => ⟨_, execBlt_does .self (hk := .refl s) (ht := h) .., ?_⟩
  | .bltu .., h => ⟨_, execBltu_does .self (hk := .refl s) (ht := h) .., ?_⟩
  | .loop .., h => ⟨_, execLoop_does .self (hk := .refl s) (ht := h) .., ?_⟩
  | .wait .., h => ⟨_, execWait_does .self (hk := .refl s) (ht := h) .., ?_⟩
  | .signal .., h => ⟨_, execSignal_does .self (hk := .refl s) (ht := h) .., ?_⟩
  | .fence .., h => ⟨_, execFence_does .self (hk := .refl s) (ht := h) .., ?_⟩
  | .gwait .., h => ⟨_, execGwait_does .self (hk := .refl s) (ht := h) .., ?_⟩
  | .yield .., h => ⟨_, execYield_does .self (hk := .refl s) (ht := h) .., ?_⟩
  | .halt .., h => ⟨_, execHalt_does .self (hk := .refl s) (ht := h) .., ?_⟩
  | .sysr .., h => ⟨_, execSysr_does .self (hk := .refl s) (ht := h) .., ?_⟩
  | .trap .., h => ⟨_, execTrap_does .self (hk := .refl s) (ht := h) .., ?_⟩
  | .sld .., h => ⟨_, execSld_does .self (hk := .refl s) (ht := h) .., ?_⟩
  | .sst .., h => ⟨_, execSst_does .self (hk := .refl s) (ht := h) .., ?_⟩
  | .tld .., h => ⟨_, execTld_does .self (hk := .refl s) (ht := h) .., ?_⟩
  | .tst .., h => ⟨_, execTst_does .self (hk := .refl s) (ht := h) .., ?_⟩
  | .tadd .., h => ⟨_, execTadd_does .self (hk := .refl s) (ht := h) .., ?_⟩
  | .barrierOpen .., h => ⟨_, execBarrierOpen_does .self (hk := .refl s) (ht := h) .., ?_⟩
  | .superstepAdmission .., h => ⟨_, execSuperstepAdmission_does .self (hk := .refl s) (ht := h) .., ?_⟩
  | .token .., h => ⟨_, execToken_does .self (hk := .refl s) (ht := h) .., ?_⟩
  | .close .., h => ⟨_, execClose_does .self (hk := .refl s) (ht := h) .., ?_⟩
  | .combine .., h => ⟨_, execCombine_does .self (hk := .refl s) (ht := h) .., ?_⟩
  | .gather .., h => ⟨_, execGather_does .self (hk := .refl s) (ht := h) .., ?_⟩
  | .select .., h => ⟨_, execSelect_does .self (hk := .refl s) (ht := h) .., ?_⟩
  | .gatherDone .., h => ⟨_, execGatherDone_does .self (hk := .refl s) (ht := h) .., ?_⟩
  | .jload .., h => ⟨_, execJload_does .self (hk := .refl s) (ht := h) .., ?_⟩
  | .jloadDone .., h => ⟨_, execJloadDone_does .self (hk := .refl s) (ht := h) .., ?_⟩
  | .jlaunch .., h => ⟨_, execJlaunch_does .self (hk := .refl s) (ht := h) .., ?_⟩
  | .launch .., h => ⟨_, execLaunch_does .self (hk := .refl s) (ht := h) .., ?_⟩
  | .jwait .., h => ⟨_, execJwait_does .self (hk := .refl s) (ht := h) .., ?_⟩
  | .jstatus .., h => ⟨_, execJstatus_does .self (hk := .refl s) (ht := h) .., ?_⟩
  | .jcheckpoint .., h => ⟨_, execJcheckpoint_does .self (hk := .refl s) (ht := h) .., ?_⟩
  | .jcontinue .., h => ⟨_, execJcontinue_does .self (hk := .refl s) (ht := h) .., ?_⟩
  | .jabort .., h => ⟨_, execJabort_does .self (hk := .refl s) (ht := h) .., ?_⟩
  | .junload .., h => ⟨_, execJunload_does .self (hk := .refl s) (ht := h) .., ?_⟩
  | .superstepWatchdog .., h => ⟨_, execSuperstepWatchdog_does .self (hk := .refl s) (ht := h) .., ?_⟩
  | .timeSliceSave .., h => ⟨_, execTimeSliceSave_does .self (hk := .refl s) (ht := h) .., ?_⟩
  | .timeSliceRestore .., h => ⟨_, execTimeSliceRestore_does .self (hk := .refl s) (ht := h) .., ?_⟩
  | .phello .., h => ⟨_, execPhello_does .self (hk := .refl s) (ht := h) .., ?_⟩
  | .phelloTimeout .., h => ⟨_, execPhelloTimeout_does .self (hk := .refl s) (ht := h) .., ?_⟩
  | .pdigest .., h => ⟨_, execPdigest_does .self (hk := .refl s) (ht := h) .., ?_⟩
  | .pstop .., h => ⟨_, execPstop_does .self (hk := .refl s) (ht := h) .., ?_⟩
  | .pairsPeerLost .., h => ⟨_, execPairsPeerLost_does .self (hk := .refl s) (ht := h) .., ?_⟩
  | .walk .., h => ⟨_, execWalk_does .self (hk := .refl s) (ht := h) .., ?_⟩
  | .recordResolve .., h => ⟨_, execRecordResolve_does .self (hk := .refl s) (ht := h) .., ?_⟩
  | .holdLimit .., h => ⟨_, execHoldLimit_does .self (hk := .refl s) (ht := h) .., ?_⟩
  | .shootdown .., h => ⟨_, execShootdown_does .self (hk := .refl s) (ht := h) .., ?_⟩
  | .shootdownComplete .., h => ⟨_, execShootdownComplete_does .self (hk := .refl s) (ht := h) .., ?_⟩
  | .refresh .., h => ⟨_, execRefresh_does .self (hk := .refl s) (ht := h) .., ?_⟩
  | .mr4Poll .., h => ⟨_, execMr4Poll_does .self (hk := .refl s) (ht := h) .., ?_⟩
  | .stackSensorPoll .., h => ⟨_, execStackSensorPoll_does .self (hk := .refl s) (ht := h) .., ?_⟩
  | .liveRetrain .., h => ⟨_, execLiveRetrain_does .self (hk := .refl s) (ht := h) .., ?_⟩
  | .retrainComplete .., h => ⟨_, execRetrainComplete_does .self (hk := .refl s) (ht := h) .., ?_⟩
  | .memRetrainCmd .., h => ⟨_, execMemRetrainCmd_does .self (hk := .refl s) (ht := h) .., ?_⟩
  | .srEnter .., h => ⟨_, execSrEnter_does .self (hk := .refl s) (ht := h) .., ?_⟩
  | .srExit .., h => ⟨_, execSrExit_does .self (hk := .refl s) (ht := h) .., ?_⟩
  | .srIdle .., h => ⟨_, execSrIdle_does .self (hk := .refl s) (ht := h) .., ?_⟩
  | .migrationComplete .., h => ⟨_, execMigrationComplete_does .self (hk := .refl s) (ht := h) .., ?_⟩
  | .liftStart .., h => ⟨_, execLiftStart_does .self (hk := .refl s) (ht := h) .., ?_⟩
  | .liftCancel .., h => ⟨_, execLiftCancel_does .self (hk := .refl s) (ht := h) .., ?_⟩
  | .liftBegin .., h => ⟨_, execLiftBegin_does .self (hk := .refl s) (ht := h) .., ?_⟩
  | .liftCopyDone .., h => ⟨_, execLiftCopyDone_does .self (hk := .refl s) (ht := h) .., ?_⟩
  | .liftSwitchPoint .., h => ⟨_, execLiftSwitchPoint_does .self (hk := .refl s) (ht := h) .., ?_⟩
  | .patrolRead .., h => ⟨_, execPatrolRead_does .self (hk := .refl s) (ht := h) .., ?_⟩
  | .rowRepair .., h => ⟨_, execRowRepair_does .self (hk := .refl s) (ht := h) .., ?_⟩
  | .logAck .., h => ⟨_, execLogAck_does .self (hk := .refl s) (ht := h) .., ?_⟩
  | .pageRetire .., h => ⟨_, execPageRetire_does .self (hk := .refl s) (ht := h) .., ?_⟩
  | .pageRelease .., h => ⟨_, execPageRelease_does .self (hk := .refl s) (ht := h) .., ?_⟩
  | .rawWrite .., h => ⟨_, execRawWrite_does .self (hk := .refl s) (ht := h) .., ?_⟩
  | .rawRead .., h => ⟨_, execRawRead_does .self (hk := .refl s) (ht := h) .., ?_⟩
  | .switchOver .., h => ⟨_, execSwitchOver_does .self (hk := .refl s) (ht := h) .., ?_⟩
  | .aSetReturn .., h => ⟨_, execASetReturn_does .self (hk := .refl s) (ht := h) .., ?_⟩
  | .holdB .., h => ⟨_, execHoldB_does .self (hk := .refl s) (ht := h) .., ?_⟩
  | .releaseHold .., h => ⟨_, execReleaseHold_does .self (hk := .refl s) (ht := h) .., ?_⟩
  | .overCurrent .., h => ⟨_, execOverCurrent_does .self (hk := .refl s) (ht := h) .., ?_⟩
  | .sensorRead .., h => ⟨_, execSensorRead_does .self (hk := .refl s) (ht := h) .., ?_⟩
  | .thermalCapAdjust .., h => ⟨_, execThermalCapAdjust_does .self (hk := .refl s) (ht := h) .., ?_⟩
  | .firstUseEnd .., h => ⟨_, execFirstUseEnd_does .self (hk := .refl s) (ht := h) .., ?_⟩
  | .ledgerWindow .., h => ⟨_, execLedgerWindow_does .self (hk := .refl s) (ht := h) .., ?_⟩
  | .snowploughEscalate .., h => ⟨_, execSnowploughEscalate_does .self (hk := .refl s) (ht := h) .., ?_⟩
  | .snowploughRelease .., h => ⟨_, execSnowploughRelease_does .self (hk := .refl s) (ht := h) .., ?_⟩
  | .snowploughClimb .., h => ⟨_, execSnowploughClimb_does .self (hk := .refl s) (ht := h) .., ?_⟩
  | .snowploughTest .., h => ⟨_, execSnowploughTest_does .self (hk := .refl s) (ht := h) .., ?_⟩
  | .deepSleep .., h => ⟨_, execDeepSleep_does .self (hk := .refl s) (ht := h) .., ?_⟩
  | .wake .., h => ⟨_, execWake_does .self (hk := .refl s) (ht := h) .., ?_⟩
  | .wakeCommand .., h => ⟨_, execWakeCommand_does .self (hk := .refl s) (ht := h) .., ?_⟩
  | .sleepTick .., h => ⟨_, execSleepTick_does .self (hk := .refl s) (ht := h) .., ?_⟩
  | .sleepFeedLoss .., h => ⟨_, execSleepFeedLoss_does .self (hk := .refl s) (ht := h) .., ?_⟩
  | .enrol .., h => ⟨_, execEnrol_does .self (hk := .refl s) (ht := h) .., ?_⟩
  | .revoke .., h => ⟨_, execRevoke_does .self (hk := .refl s) (ht := h) .., ?_⟩
  | .openEpoch .., h => ⟨_, execOpenEpoch_does .self (hk := .refl s) (ht := h) .., ?_⟩
  | .endEpoch .., h => ⟨_, execEndEpoch_does .self (hk := .refl s) (ht := h) .., ?_⟩
  | .resurface .., h => ⟨_, execResurface_does .self (hk := .refl s) (ht := h) .., ?_⟩
  | .resurfacingComplete .., h => ⟨_, execResurfacingComplete_does .self (hk := .refl s) (ht := h) .., ?_⟩
  | .getVersion .., h => ⟨_, execGetVersion_does .self (hk := .refl s) (ht := h) .., ?_⟩
  | .getCapabilities .., h => ⟨_, execGetCapabilities_does .self (hk := .refl s) (ht := h) .., ?_⟩
  | .negotiateAlgorithms .., h => ⟨_, execNegotiateAlgorithms_does .self (hk := .refl s) (ht := h) .., ?_⟩
  | .getDigests .., h => ⟨_, execGetDigests_does .self (hk := .refl s) (ht := h) .., ?_⟩
  | .getCertificate .., h => ⟨_, execGetCertificate_does .self (hk := .refl s) (ht := h) .., ?_⟩
  | .challenge .., h => ⟨_, execChallenge_does .self (hk := .refl s) (ht := h) .., ?_⟩
  | .getMeasurements .., h => ⟨_, execGetMeasurements_does .self (hk := .refl s) (ht := h) .., ?_⟩
  | .keyExchange .., h => ⟨_, execKeyExchange_does .self (hk := .refl s) (ht := h) .., ?_⟩
  | .finish .., h => ⟨_, execFinish_does .self (hk := .refl s) (ht := h) .., ?_⟩
  | .heartbeat .., h => ⟨_, execHeartbeat_does .self (hk := .refl s) (ht := h) .., ?_⟩
  | .keyUpdate .., h => ⟨_, execKeyUpdate_does .self (hk := .refl s) (ht := h) .., ?_⟩
  | .endSession .., h => ⟨_, execEndSession_does .self (hk := .refl s) (ht := h) .., ?_⟩
  | .chunkSend .., h => ⟨_, execChunkSend_does .self (hk := .refl s) (ht := h) .., ?_⟩
  | .chunkGet .., h => ⟨_, execChunkGet_does .self (hk := .refl s) (ht := h) .., ?_⟩
  | .getEncapsulatedRequest .., h => ⟨_, execGetEncapsulatedRequest_does .self (hk := .refl s) (ht := h) .., ?_⟩
  | .deliverEncapsulatedResponse .., h => ⟨_, execDeliverEncapsulatedResponse_does .self (hk := .refl s) (ht := h) .., ?_⟩
  | .unsupportedSpdmRequest .., h => ⟨_, execUnsupportedSpdmRequest_does .self (hk := .refl s) (ht := h) .., ?_⟩
  | .spdmFragment .., h => ⟨_, execSpdmFragment_does .self (hk := .refl s) (ht := h) .., ?_⟩
  | .seal_ .., h => ⟨_, execSeal_does .self (hk := .refl s) (ht := h) .., ?_⟩
  | .sealSend .., h => ⟨_, execSealSend_does .self (hk := .refl s) (ht := h) .., ?_⟩
  | .fwOpen .., h => ⟨_, execFwOpen_does .self (hk := .refl s) (ht := h) .., ?_⟩
  | .verify .., h => ⟨_, execVerify_does .self (hk := .refl s) (ht := h) .., ?_⟩
  | .start .., h => ⟨_, execStart_does .self (hk := .refl s) (ht := h) .., ?_⟩
  | .hubControllerRestart .., h => ⟨_, execHubControllerRestart_does .self (hk := .refl s) (ht := h) .., ?_⟩
  | .hubControllerRunning .., h => ⟨_, execHubControllerRunning_does .self (hk := .refl s) (ht := h) .., ?_⟩
  | .yieldWaitExpired .., h => ⟨_, execYieldWaitExpired_does .self (hk := .refl s) (ht := h) .., ?_⟩
  | .spRestart .., h => ⟨_, execSpRestart_does .self (hk := .refl s) (ht := h) .., ?_⟩
  | .spRunning .., h => ⟨_, execSpRunning_does .self (hk := .refl s) (ht := h) .., ?_⟩
  | .fwRestartTimeout .., h => ⟨_, execFwRestartTimeout_does .self (hk := .refl s) (ht := h) .., ?_⟩
  | .confirmationComplete .., h => ⟨_, execConfirmationComplete_does .self (hk := .refl s) (ht := h) .., ?_⟩
  | .abort .., h => ⟨_, execAbort_does .self (hk := .refl s) (ht := h) .., ?_⟩
  | .rollback .., h => ⟨_, execRollback_does .self (hk := .refl s) (ht := h) .., ?_⟩
  | .mbxRead .., h => ⟨_, execMbxRead_does .self (hk := .refl s) (ht := h) .., ?_⟩
  | .mbxWrite .., h => ⟨_, execMbxWrite_does .self (hk := .refl s) (ht := h) .., ?_⟩
  | .mbxComplete .., h => ⟨_, execMbxComplete_does .self (hk := .refl s) (ht := h) .., ?_⟩
  | .entdaa .., h => ⟨_, execEntdaa_does .self (hk := .refl s) (ht := h) .., ?_⟩
  | .i3cCsrRead .., h => ⟨_, execI3cCsrRead_does .self (hk := .refl s) (ht := h) .., ?_⟩
  | .i3cCsrWrite .., h => ⟨_, execI3cCsrWrite_does .self (hk := .refl s) (ht := h) .., ?_⟩
  | .idcode .., h => ⟨_, execIdcode_does .self (hk := .refl s) (ht := h) .., ?_⟩
  | .samplePreload .., h => ⟨_, execSamplePreload_does .self (hk := .refl s) (ht := h) .., ?_⟩
  | .extest .., h => ⟨_, execExtest_does .self (hk := .refl s) (ht := h) .., ?_⟩
  | .csrAddr .., h => ⟨_, execCsrAddr_does .self (hk := .refl s) (ht := h) .., ?_⟩
  | .csrWrite .., h => ⟨_, execCsrWrite_does .self (hk := .refl s) (ht := h) .., ?_⟩
  | .csrRead .., h => ⟨_, execCsrRead_does .self (hk := .refl s) (ht := h) .., ?_⟩
  | .bypass .., h => ⟨_, execBypass_does .self (hk := .refl s) (ht := h) .., ?_⟩
  | .jtagReset .., h => ⟨_, execJtagReset_does .self (hk := .refl s) (ht := h) .., ?_⟩
  | .syncFrame .., h => ⟨_, execSyncFrame_does .self (hk := .refl s) (ht := h) .., ?_⟩
  | .syncInMissing .., h => ⟨_, execSyncInMissing_does .self (hk := .refl s) (ht := h) .., ?_⟩
  | .syncOutFrame .., h => ⟨_, execSyncOutFrame_does .self (hk := .refl s) (ht := h) .., ?_⟩
  | .fire .., h => ⟨_, execFire_does .self (hk := .refl s) (ht := h) .., ?_⟩
  | .rearm .., h => ⟨_, execRearm_does .self (hk := .refl s) (ht := h) .., ?_⟩
  | .postWindowEnd .., h => ⟨_, execPostWindowEnd_does .self (hk := .refl s) (ht := h) .., ?_⟩
  | .traceSend .., h => ⟨_, execTraceSend_does .self (hk := .refl s) (ht := h) .., ?_⟩
  | .kmpTargetSet .., h => ⟨_, execKmpTargetSet_does .self (hk := .refl s) (ht := h) .., ?_⟩
  | .exportTailAdvance .., h => ⟨_, execExportTailAdvance_does .self (hk := .refl s) (ht := h) .., ?_⟩
  | .counterReset .., h => ⟨_, execCounterReset_does .self (hk := .refl s) (ht := h) .., ?_⟩
  | .reclaimWalk .., h => ⟨_, execReclaimWalk_does .self (hk := .refl s) (ht := h) .., ?_⟩
  | .fillComplete .., h => ⟨_, execFillComplete_does .self (hk := .refl s) (ht := h) .., ?_⟩
  | .checkpointComplete .., h => ⟨_, execCheckpointComplete_does .self (hk := .refl s) (ht := h) .., ?_⟩
  | .verifyComplete .., h => ⟨_, execVerifyComplete_does .self (hk := .refl s) (ht := h) .., ?_⟩
  | .ethLinkUp .., h => ⟨_, execEthLinkUp_does .self (hk := .refl s) (ht := h) .., ?_⟩
  | .clk32kReturn .., h => ⟨_, execClk32kReturn_does .self (hk := .refl s) (ht := h) .., ?_⟩
  | .sdsRefclkReturn .., h => ⟨_, execSdsRefclkReturn_does .self (hk := .refl s) (ht := h) .., ?_⟩
  | .standbyFeedFault .., h => ⟨_, execStandbyFeedFault_does .self (hk := .refl s) (ht := h) .., ?_⟩
  | .pfcPauseExpiry .., h => ⟨_, execPfcPauseExpiry_does .self (hk := .refl s) (ht := h) .., ?_⟩
  | .wakeComplete .., h => ⟨_, execWakeComplete_does .self (hk := .refl s) (ht := h) .., ?_⟩
  | .cellCrcFailure .., h => ⟨_, execCellCrcFailure_does .self (hk := .refl s) (ht := h) .., ?_⟩
  | .reservedKindCell .., h => ⟨_, execReservedKindCell_does .self (hk := .refl s) (ht := h) .., ?_⟩
  | .discardedFrame .., h => ⟨_, execDiscardedFrame_does .self (hk := .refl s) (ht := h) .., ?_⟩
  all_goals
    unfold Covers
    dsimp only [writesOf]
    decide

theorem Does.widen {W m : Nat} {s t : State} (h : Does m s t) (hW : Covers W m) : Does W s t :=
  ⟨h.keeps, fun f hf => h.same f (hW.bit _ hf)⟩

/-- Settles O6: what a command does lies within the mask of its row. -/
theorem everyCommandWritesOnlyItsFields : Obligations.EveryCommandWritesOnlyItsFields := by
  intro c s t h
  obtain ⟨m, does, covered⟩ := exec_writes c h
  exact (does.widen covered).only

/-! ### The idle cycle -/

theorem State.recordCycle_noJobs {s : State} (h : s.jobs = []) : s.recordCycle = s := by
  unfold State.recordCycle
  rw [h] <;> rfl

/-- Without jobs, and in the fatal state, the engines do nothing in time. -/
theorem State.engineCycle_still {s : State} (h : s.jobs = [] ∨ s.fatal = true) : s.engineCycle = s := by
  unfold State.engineCycle
  rcases h with h | h
  · rw [State.recordCycle_noJobs h, h, List.foldl_nil, ite_self]
  · exact if_pos h

/-- The cycle before the engines: the clocks, and what follows them. -/
def State.clockCycle (s : State) : State :=
  ({ s with clk := { s.clk.cycle with now := s.clk.now + 10 } } : State).aonCycle.ibiCycle.retireProgress.ethCycle

/-- What follows the clocks. -/
theorem State.clockCycle_follows {W : Nat} (hW : Covers W 0x200020A0000011000) {s₀ s : State} (hk : Does W s₀ s) :
    Does W s₀ s.ibiCycle.retireProgress.ethCycle :=
  State.ethCycle_does (hW.of rfl) (State.retireProgress_does (hW.of rfl) (State.ibiCycle_does (hW.of rfl) hk))

theorem State.clockCycle_does {W : Nat} (hW : Covers W 0x200020A0000011010) {s₀ s : State} (hk : Does W s₀ s) :
    Does W s₀ s.clockCycle :=
  State.clockCycle_follows (hW.of rfl) (State.aonCycle_does (hW.of rfl) (Does.upd_10 (hW.of rfl) hk (Nat.le_add_right _ _)))

theorem State.aonCycle_cases (s : State) : ∃ n, s.aonCycle = { s with clk := { s.clk with aonPhase := n } } ∨
    s.aonCycle = ({ s with clk := { s.clk with aonPhase := n } } : State).aonEdge := by
  unfold State.aonCycle
  dsimp only
  split
  · exact ⟨_, .inl rfl⟩
  · exact ⟨_, .inr rfl⟩

theorem State.aonCycle_time (s : State) : s.aonCycle.clk.now = s.clk.now ∧ s.aonCycle.clk.poolTime = s.clk.poolTime := by
  obtain ⟨n, h | h⟩ := s.aonCycle_cases <;> rw [h] <;> exact ⟨rfl, rfl⟩

/-- What follows the clocks leaves them. -/
theorem State.clockCycle_clk (s : State) : s.clockCycle.clk =
    ({ s with clk := { s.clk.cycle with now := s.clk.now + 10 } } : State).aonCycle.clk :=
  (State.clockCycle_follows .self (.refl _)).same .clk rfl

theorem State.clockCycle_time (s : State) :
    s.clockCycle.clk.now = s.clk.now + 10 ∧ s.clockCycle.clk.poolTime = s.clk.cycle.poolTime := by
  rw [s.clockCycle_clk]
  exact State.aonCycle_time _

theorem OnlyChanges.refl (l : List Field) (s : State) : OnlyChanges l s s := fun f _ => f.same_refl s

theorem OnlyChanges.of_does {l : List Field} {m : Nat} {s t : State} (h : Does m s t) (hl : Covers (Field.mask l) m) :
    OnlyChanges l s t := (h.widen hl).only

/-- One idle cycle of a part that is awake: its clocks, then its engines. -/
theorem State.idle_cases (s : State) :
    (s.sys.phase = .unpowered ∨ s.sys.phase = .sleeping) ∧ s.idle = s ∨
    s.sys.phase = .inReset ∧ s.idle = ({ s with clk := { s.clk.cycle with now := s.clk.now + 10 } } : State).aonCycle ∨
    (s.sys.phase ≠ .unpowered ∧ s.sys.phase ≠ .sleeping) ∧ s.idle = s.clockCycle.engineCycle := by
  unfold State.idle
  cases s.sys.phase <;> simp [State.clockCycle]

/-- Settles O2: by the phase of the part, nothing moves, the clocks move, or the engines follow the clocks. -/
theorem anEmptyQueueLetsTimePass : Obligations.AnEmptyQueueLetsTimePass := by
  intro s empty
  have run : step s = .next s.idle := by unfold step; rw [empty]
  refine ⟨s.idle, run, fun quiet => ?quiet, ?frame, fun off => ?off, fun powered awake => ?time⟩
  case frame =>
    exact .of_does (State.idle_does .self (.refl s)) (by unfold Covers; decide)
  all_goals rcases s.idle_cases with ⟨phase, h⟩ | ⟨phase, h⟩ | ⟨phase, h⟩ <;> rw [h]
  case quiet.inl => exact .refl _ s
  case quiet.inr.inl =>
    exact .of_does (State.aonCycle_does .self (Does.upd_10 .self (.refl s) (Nat.le_add_right _ _))) (by unfold Covers; decide)
  case quiet.inr.inr =>
    have still : s.clockCycle.jobs = [] ∨ s.clockCycle.fatal = true := by
      have same := State.clockCycle_does .self (.refl s)
      have fatal : s.clockCycle.fatal = s.fatal := congrArg (·.fatalAt.isSome) (same.same .sys rfl)
      rwa [same.same .jobs rfl, fatal]
    rw [State.engineCycle_still still]
    exact .of_does (State.clockCycle_does .self (.refl s)) (by unfold Covers; decide)
  case off.inr.inl => simp [phase] at off
  case off.inr.inr => exact absurd off (not_or.mpr phase)
  case time.inl => exact absurd phase (not_or.mpr ⟨powered, awake⟩)
  case time.inr.inl => exact State.aonCycle_time _
  case time.inr.inr =>
    have engines : s.clockCycle.engineCycle.clk = s.clockCycle.clk := (State.engineCycle_does .self (.refl _)).same .clk rfl
    rw [engines]
    exact s.clockCycle_time

/-! ### Reset -/

theorem State.reset_port (p : Fin 32) : State.reset.port p = { trainId := BitVec.ofNat 32 (Config.free .trainId p) } := by
  fin_cases p <;> rfl

/-- Settles O3: `State.reset` lists its ports and its firmware alone. -/
theorem resetLeavesThePartInReset : Obligations.ResetLeavesThePartInReset :=
  ⟨rfl, rfl, ⟨rfl, rfl, rfl, rfl, rfl, rfl, rfl, rfl, rfl, rfl, rfl, rfl, rfl, rfl⟩, rfl, rfl, rfl, rfl, fun p => by
    rw [State.reset_port]
    exact ⟨rfl, rfl⟩⟩

end Sys2Proof.Machine
end

section
/-! Start-up (R792–R794): it halts at the first step that fails, or comes to its steps 8 and 9, which end it. -/
namespace Sys2Proof.Machine
open Sys2Proof

/-! ### What the steps before a halt leave -/

theorem State.presentHubs_congr {s t : State} (h : t.fuses = s.fuses) : t.presentHubs = s.presentHubs := by
  unfold State.presentHubs State.hubPresent
  rw [h]

theorem State.bridgeFail_congr {s t : State} (h : t.fuses = s.fuses) (f : StartUpFacts) : t.bridgeFail f = s.bridgeFail f := by
  unfold State.bridgeFail State.bridges State.hubPresent
  rw [h]

theorem State.stackFail_congr {s t : State} (h : t.fuses = s.fuses) (f : StartUpFacts) : t.stackFail f = s.stackFail f := by
  unfold State.stackFail
  rw [State.presentHubs_congr h]

/-- Steps 1 and 2 of R792 have ended. -/
def State.startSteps2 (s : State) (f : StartUpFacts) : State := (s.startBegins f).startStep1.startStep2 f

/-- Steps 1 to 4 of R792 have ended. -/
def State.startSteps4 (s : State) (f : StartUpFacts) : State := ((s.startSteps2 f).startStep3 f).startStep4 f

theorem State.startSteps4_fuses (s : State) (f : StartUpFacts) : (s.startSteps4 f).fuses = s.fuses :=
  have begun := State.startBegins_does .self f (.refl s)
  have step1 := State.startStep1_does .self (.refl (s.startBegins f))
  have step2 := State.startStep2_does .self f (.refl (s.startBegins f).startStep1)
  have step3 := State.startStep3_does .self f (.refl (s.startSteps2 f))
  have step4 := State.startStep4_does .self f (.refl ((s.startSteps2 f).startStep3 f))
  step4.keeps.fuses.trans (step3.keeps.fuses.trans (step2.keeps.fuses.trans (step1.keeps.fuses.trans begun.keeps.fuses)))

theorem State.halt_haltedAt (s : State) (step : BitVec 4) (hub : Fin 8) (unit : BitVec 6) :
    HaltedAt (s.halt step hub unit) step hub unit := ⟨rfl, rfl, rfl, rfl⟩

/-! ### Where start-up halts -/

section
variable {f : StartUpFacts} {s : State} (may : s.mayStart = true)
include may

theorem execStartUp_noClock {h : Fin 8} (fail : f.pllFail = some h ∨ (f.pllFail = none ∧ s.noRef = some h)) :
    execStartUp f s = .next ((s.startBegins f).halt 1 h 0) := by
  have first : f.pllFail.orElse (fun _ => (s.startBegins f).noRef) = some h := by
    rcases fail with pll | ⟨pll, ref⟩
    · rw [pll]; rfl
    · rw [pll]; exact ref
  unfold execStartUp
  rw [if_neg (not_not_intro may)]
  dsimp only
  rw [first]

theorem execStartUp_clocked (pll : f.pllFail = none) (ref : s.noRef = none) :
    execStartUp f s = .next (
      if ¬f.spBank ∧ ¬f.spOther then (s.startBegins f).startStep1.halt 2 0 0
      else match f.hcFail with
      | some h => (s.startSteps2 f).halt 3 h 0
      | none =>
        match s.bridgeFail f with
        | some (h, b) => (s.startSteps4 f).halt 4 h b
        | none =>
          match s.stackFail f with
          | some (h, c) => (s.startSteps4 f).halt 5 (Fin.ofNat 8 h) (BitVec.ofNat 6 c)
          | none => ((s.startSteps4 f).startMemory f).fwGo) := by
  have first : f.pllFail.orElse (fun _ => (s.startBegins f).noRef) = none := by rw [pll]; exact ref
  unfold execStartUp
  rw [if_neg (not_not_intro may)]
  dsimp only
  rw [first]
  dsimp only
  rw [← State.startSteps2, ← State.startSteps4, State.bridgeFail_congr (s.startSteps4_fuses f), State.stackFail_congr (s.startSteps4_fuses f)] <;> rfl

end

/-! ### The steps that end start-up -/

theorem State.startMemory_begins (s : State) (f : StartUpFacts) :
    (s.startMemory f).sys.phase = .starting ∧ (s.startMemory f).sys.step = 8 ∧ (s.startMemory f).sys.filling = true := by
  unfold State.startMemory
  extract_lets deep begun imaged
  have image : imaged.sys = begun.sys := by
    have applied := (State.applyImage_does .self begun.si.cur f.atSpeed (.refl begun)).same .sys rfl
    have noted := (State.noteFailed_does .self (.refl (begun.applyImage begun.si.cur f.atSpeed))).same .sys rfl
    have repaired := (State.makeHppr_does .self f.hpprSpent (.refl (begun.applyImage begun.si.cur f.atSpeed).noteFailed)).same .sys rfl
    exact repaired.trans (noted.trans applied)
  have used : (imaged.serviceHubs.foldl State.firstUse imaged).sys = imaged.sys :=
    (Does.foldl (W := 0x4000000000000000) _ _ (fun _ _ h => State.firstUse_does .self _ h) (.refl imaged)).same .sys rfl
  rw [used, image]
  exact ⟨rfl, rfl, rfl⟩

/-- What `START_UP_END` leads to: the part is awake, its spares are filled, the health window of an image that awaits it is open, and
traffic goes on. -/
def State.startEnded (s : State) : State :=
  let awake := s.modSys (fun x => { x with phase := .awake, step := 0, done := true, filling := false })
  let opened := (s.presentHubs.foldl State.laySlots awake).fillSpares.openHealth
  { opened with zlg := { opened.zlg with startup := false } }

theorem execStartUpEnd_runs {s : State} (phase : s.sys.phase = .starting) (filling : s.sys.filling = true) (live : s.fatal = false) :
    execStartUpEnd s = .next s.startEnded.resumeTraffic := by
  unfold execStartUpEnd
  rw [if_neg (by simp [phase, filling, live])] <;> rfl

theorem State.startEnded_does_filled (s : State) : Does 0x2DC00040100
    (s.modSys (fun x => { x with phase := .awake, step := 0, done := true, filling := false }))
    (s.presentHubs.foldl State.laySlots (s.modSys (fun x => { x with phase := .awake, step := 0, done := true, filling := false }))).fillSpares :=
  State.fillSpares_does .self (Does.foldl _ _ (fun _ _ h => State.laySlots_does (by exact rfl) _ h) (.refl _))

theorem State.startEnded_sys (s : State) :
    s.startEnded.sys = { s.sys with phase := .awake, step := 0, done := true, filling := false } := by
  have opened (u : State) : u.openHealth.sys = u.sys := (State.openHealth_does .self (.refl u)).same .sys rfl
  exact (opened _).trans (s.startEnded_does_filled.same .sys rfl)

theorem State.openHealth_awaiting {s : State} (h : s.si.awaiting = true) :
    s.openHealth.si.state = .health ∧ s.openHealth.si.healthAt = some s.clk.now := by
  unfold State.openHealth
  rw [if_pos h]
  exact ⟨rfl, rfl⟩

theorem State.startEnded_health {s : State} (h : s.si.awaiting = true) :
    s.startEnded.si.state = .health ∧ s.startEnded.si.healthAt = some s.clk.now := by
  have si := s.startEnded_does_filled.same .si rfl
  have clk := s.startEnded_does_filled.same .clk rfl
  have opened := State.openHealth_awaiting ((congrArg Si.awaiting si).trans h)
  exact ⟨opened.1, opened.2.trans (congrArg (some ·.now) clk)⟩

/-- Settles O9: the branches of `execStartUp` in order, and what the two end states hold. -/
theorem startUpHaltsOrRuns : Obligations.StartUpHaltsOrRuns := by
  refine ⟨fun f h s may fail => ?step1, fun f s may pll ref bank other => ?step2, fun f h s may pll ref bank hc => ?step3,
    fun f h b s may pll ref bank hc bridge => ?step4, fun f h c s may pll ref bank hc bridge stack => ?step5,
    fun f s may pll ref bank hc bridge stack => ?runs, fun s phase filling live => ?ends⟩
  case step1 =>
    exact ⟨_, execStartUp_noClock may fail, State.halt_haltedAt ..⟩
  case step2 =>
    refine ⟨_, execStartUp_clocked may pll ref, ?_⟩
    rw [if_pos ⟨ne_true_of_eq_false bank, ne_true_of_eq_false other⟩]
    exact State.halt_haltedAt ..
  case ends =>
    refine ⟨_, execStartUpEnd_runs phase filling live, ?_⟩
    have resumed := State.resumeTraffic_does .self (.refl s.startEnded)
    rw [resumed.same .sys rfl, resumed.same .si rfl, resumed.same .zlg rfl, s.startEnded_sys]
    exact ⟨rfl, rfl, rfl, rfl, State.startEnded_health⟩
  all_goals
    have verified : ¬(¬f.spBank = true ∧ ¬f.spOther = true) := by cases h : f.spBank <;> simp_all
    refine ⟨_, execStartUp_clocked may pll ref, ?_⟩
    rw [if_neg verified, hc]
  case step3 => exact State.halt_haltedAt ..
  all_goals
    dsimp only
    rw [bridge]
  case step4 => exact State.halt_haltedAt ..
  all_goals
    dsimp only
    rw [stack]
  case step5 => exact State.halt_haltedAt ..
  case runs =>
    dsimp only
    have memory := (s.startSteps4 f).startMemory_begins f
    rwa [← (State.fwGo_does .self (.refl ((s.startSteps4 f).startMemory f))).same .sys rfl] at memory

end Sys2Proof.Machine
end

section
/-! Laws of the sparse tables under a fold of updates and under a map of the values. -/
namespace Sys2Proof
variable {α β : Type}

theorem SMap.getD_mod (m : SMap α) (k l : Nat) (d : α) (f : α → α) :
    (m.mod k d f).getD l d = if l = k then f (m.getD l d) else m.getD l d := by
  split
  · next h => rw [h, SMap.getD_mod_self]
  · next h => rw [SMap.getD_mod_ne _ _ _ _ _ _ h]

/-- A fold of one update over some keys makes it under each of them, where making it twice is making it once. -/
theorem SMap.getD_foldl_mod {f : α → α} (idem : ∀ x, f (f x) = f x) (d : α) (k : Nat) (l : List Nat) (m : SMap α) :
    (l.foldl (fun m h => m.mod h d f) m).getD k d = if k ∈ l then f (m.getD k d) else m.getD k d := by
  induction l generalizing m with
  | nil => simp
  | cons h r ih =>
    rw [List.foldl_cons, ih, SMap.getD_mod]
    by_cases hk : k = h <;> by_cases hr : k ∈ r <;> simp [hk, hr, idem]

theorem SMap.get?_mapVals (m : SMap α) (f : Nat → α → α) (k : Nat) : (m.mapVals f).get? k = (m.get? k).map (f k) := by
  unfold SMap.mapVals
  induction m with
  | nil => rfl
  | cons e r ih =>
    obtain ⟨j, v⟩ := e
    rw [List.map_cons, SMap.get?_cons, SMap.get?_cons]
    split
    · next h => rw [h]; rfl
    · exact ih

end Sys2Proof
end

section
/-! The package fatal line (R37, R809): what asserting it writes into every hub that is present, and what it leaves empty. -/
namespace Sys2Proof.Machine
open Sys2Proof

theorem State.goFatal_of_fatal {s : State} (h : s.fatal = true) : s.goFatal = s := if_pos h

/-- The state in which the line is asserted and nothing has completed yet. -/
def State.fatalBegins (s : State) : State :=
  { s with
    sys := { s.sys with fatalAt := some s.clk.now, hrGo := false, hrWaiting := [] },
    hubs := s.presentHubs.foldl (fun m h => m.mod h {} (fun x => { x with fatal := true, phase := .none })) s.hubs }

theorem State.goFatal_of_live {s : State} (h : s.fatal = false) : s.goFatal = s.fatalBegins.failAll := if_neg (ne_true_of_eq_false h)

theorem State.fatalBegins_hub (s : State) (h : Nat) :
    s.fatalBegins.hub h = if h ∈ s.presentHubs then { s.hub h with fatal := true, phase := .none } else s.hub h :=
  SMap.getD_foldl_mod (f := fun x : HubInfo => { x with fatal := true, phase := .none }) (fun _ => rfl) {} h s.presentHubs s.hubs

/-! ### What completing everything leaves -/

theorem State.failGathers_gathers (s : State) (h k : Nat) :
    ((s.failGathers h).slgHub k).gathers = if k = h then [] else (s.slgHub k).gathers := by
  have sent : ((s.slgHub h).gathers.foldl (fun s g => s.sendGresult g.host g.gtag .failed 0 []) s).slg = s.slg :=
    (Does.foldl (W := 0x2100000000000E1E0) _ _ (fun _ _ hk => State.sendGresult_does .self _ _ _ _ _ hk) (.refl s)).same .slg rfl
  unfold State.failGathers State.modSlg
  unfold State.slgHub at sent ⊢
  dsimp only
  rw [sent, SMap.getD_mod]
  split <;> rfl

theorem State.foldl_failGathers_gathers (k : Nat) (l : List Nat) (s : State) (h : k ∈ l ∨ (s.slgHub k).gathers = []) :
    ((l.foldl State.failGathers s).slgHub k).gathers = [] := by
  induction l generalizing s with
  | nil => simpa using h
  | cons a r ih =>
    refine ih _ ?_
    rw [State.failGathers_gathers]
    by_cases ka : k = a
    · exact .inr (if_pos ka)
    · rw [if_neg ka]
      simpa [ka] using h

/-- Everything outstanding has completed: the tables of what can be outstanding are empty. -/
theorem State.failAll_empties (s : State) :
    s.failAll.lines = [] ∧ s.failAll.accesses = [] ∧ s.failAll.carver = {} ∧ s.failAll.heldMsgs = [] ∧
      s.failAll.si.heldEngine = [] ∧ (∀ k, ∀ x ∈ s.failAll.bulkRx.get? k, x.discard = true) ∧
      ∀ h ∈ s.presentHubs, (s.failAll.slgHub h).gathers = [] := by
  unfold State.failAll
  extract_lets ordered accessed held received gathered _ engined queued waits waited
  have first : Does 0x2100000000000E1E0 s received := by
    refine .foldl _ _ (fun _ e h => State.failRx_does .self e.1 e.2 h) (.foldl _ _ (fun _ e h => ?_)
      (.foldl _ _ (fun _ e h => State.failAccess_does .self e.2 h) (.foldl _ _ (fun _ e h => ?_) (.refl s))))
    · exact .foldl _ _ (fun _ x h => State.failHeld_does .self x h) h
    · refine .foldl _ _ (fun _ x h => State.failReq_does .self x h) ?_
      split
      · exact State.failTx_does .self _ h
      · exact h
  have last : Does 0x2100278000000E1E0 { gathered with si := { gathered.si with heldEngine := [] } } waited :=
    .foldl _ _ (fun _ w h => State.kmpLater_does (by exact rfl) _ _ _ _ _ h)
      (.foldl _ _ (fun _ q h => .foldl _ _ (fun _ r h => State.completeStatus_does (by exact rfl) _ _ _ h) h)
        (.foldl _ _ (fun _ x h => State.failEngine_does (by exact rfl) x h) (.refl _)))
  have begun : gathered = s.presentHubs.foldl State.failGathers received := by
    rw [← State.presentHubs_congr first.keeps.fuses]
  refine ⟨rfl, rfl, rfl, rfl, ?_, fun k x hx => ?_, fun h hh => ?_⟩
  · exact congrArg Si.heldEngine (last.same .si rfl)
  · dsimp only at hx
    rw [SMap.get?_mapVals] at hx
    obtain ⟨y, -, rfl⟩ := Option.map_eq_some_iff.mp hx
    rfl
  · show ((waited.slg).getD h {}).gathers = []
    rw [last.same .slg rfl]
    exact begun ▸ State.foldl_failGathers_gathers h _ _ (.inl hh)

theorem State.goFatal_sys {s : State} (h : s.fatal = false) :
    s.goFatal.sys = { s.sys with fatalAt := some s.clk.now, hrGo := false, hrWaiting := [] } := by
  rw [State.goFatal_of_live h]
  exact (State.failAll_does .self (.refl s.fatalBegins)).same .sys rfl

theorem State.goFatal_fatal (s : State) : s.goFatal.fatal = true := by
  cases h : s.fatal with
  | true => rw [State.goFatal_of_fatal h, h]
  | false => unfold State.fatal; rw [State.goFatal_sys h]; rfl

theorem State.goFatal_hub {s : State} (h : s.fatal = false) (n : Nat) :
    s.goFatal.hub n = if n ∈ s.presentHubs then { s.hub n with fatal := true, phase := .none } else s.hub n := by
  rw [State.goFatal_of_live h, ← s.fatalBegins_hub]
  exact congrArg (SMap.getD · n {}) ((State.failAll_does .self (.refl s.fatalBegins)).same .hubs rfl)

/-- Of a hub's record the line writes what stops the hub alone. -/
theorem State.goFatal_hub_cases (s : State) (n : Nat) :
    ∃ (stopped : Bool) (phase : PartialPhase), s.goFatal.hub n = { s.hub n with fatal := stopped, phase := phase } := by
  cases h : s.fatal with
  | true => rw [State.goFatal_of_fatal h]; exact ⟨_, _, rfl⟩
  | false =>
    rw [State.goFatal_hub h]
    split
    · exact ⟨_, _, rfl⟩
    · exact ⟨_, _, rfl⟩

/-- Settles O53: the line is asserted, everything outstanding completes, and no more is written. -/
theorem fatalStateFailsEverything : Obligations.FatalStateFailsEverything := by
  refine ⟨fun s h => State.goFatal_of_fatal h, fun s h => ?_⟩
  have sys := State.goFatal_sys h
  obtain ⟨lines, accesses, carver, held, engines, bulk, gathers⟩ := s.fatalBegins.failAll_empties
  have frame := State.goFatal_does .self (.refl s)
  rw [← State.goFatal_of_live h] at lines accesses carver held engines bulk gathers
  refine ⟨s.goFatal_fatal, by rw [sys], lines, accesses, carver, held, engines, bulk, by rw [sys], fun n hn => ?_,
    frame.same .mem rfl, frame.same .maps rfl, frame.same .extents rfl, frame.same .dir rfl⟩
  rw [State.goFatal_hub h, if_pos hn]
  exact ⟨rfl, rfl, gathers n hn⟩

end Sys2Proof.Machine
end

section
/-! References, pool time and the SYNC pins (R292–R295, R783, R785, R786). -/
namespace Sys2Proof.Machine
open Sys2Proof

/-! ### Loss and return of the references -/

theorem exec_refclkLoss_running {h : Fin 8} {s : State} (here : s.hubPresent h = true)
    (runs : s.sys.phase = .awake ∨ s.sys.phase = .starting ∨ s.sys.phase = .waking) :
    exec (.refclkLoss h) s = .next (s.modHub h (fun x => { x with refclkOk := false, pllLock := false })).goFatal := by
  show execRefclkLoss h s = _
  unfold execRefclkLoss
  rw [if_neg (not_not_intro here)]
  have phase : (s.modHub h (fun x => { x with refclkOk := false, pllLock := false })).sys.phase = s.sys.phase := rfl
  dsimp only
  rw [phase]
  rcases runs with h | h | h <;> rw [h]

theorem exec_refclkLoss_still {h : Fin 8} {s : State} (here : s.hubPresent h = true)
    (awake : s.sys.phase ≠ .awake) (starting : s.sys.phase ≠ .starting) (waking : s.sys.phase ≠ .waking) :
    exec (.refclkLoss h) s = .next (s.modHub h (fun x => { x with refclkOk := false, pllLock := false })) := by
  show execRefclkLoss h s = _
  unfold execRefclkLoss
  rw [if_neg (not_not_intro here)]
  dsimp only
  split
  · next phase => exact absurd phase starting
  · next phase => exact absurd phase awake
  · next phase => exact absurd phase waking
  · rfl

theorem State.ethDown_linkUp (s : State) (e : Bool) : ((s.ethDown e).ethPort e).linkUp = false := by
  have down (u : State) (h : (u.ethPort e).linkUp = false) (x : State) (same : x.eth = u.eth) : (x.ethPort e).linkUp = false := by
    unfold State.ethPort
    rw [same]
    exact h
  unfold State.ethDown
  extract_lets closed waited
  have start : (closed.ethPort e).linkUp = false := by
    dsimp only [closed]
    rw [State.ethPort_modEth]
  have ended : (waited.ethPort e).linkUp = false :=
    down closed start waited ((State.waitEnd_does .self _ _ _ _ (.refl closed)).same .eth rfl)
  split
  · exact down waited ended _ ((State.ptpLost_does .self (.refl waited)).same .eth rfl)
  · exact ended

theorem State.hubLinksDown_eth (s : State) {h : Nat} (eth : h < 2) : ((s.hubLinksDown h).ethPort (h == 1)).linkUp = false := by
  unfold State.hubLinksDown
  dsimp only
  rw [if_pos eth]
  exact State.ethDown_linkUp _ _

/-! ### SYNC frames -/

/-- The receiver has taken a frame that agrees with the frame before it. -/
def State.syncTaken (s : State) (time : BitVec 64) : State :=
  s.modSys (fun y => { y with sync := { y.sync with
    lastTime := some time, lastEdge := s.clk.now, good := min 8 (y.sync.good + 1), misses := 0,
    locked := y.sync.locked || min 8 (y.sync.good + 1) == 8 } })

/-- The offset of a frame's edge, and the offsets of the last eight edges with it. -/
def State.syncOffset (s : State) (time : BitVec 64) : Int := ((time + s.sys.sync.delayNs.setWidth 64).toNat : Int) - s.clk.poolTime.toNat
def State.syncSamples (s : State) (off : Int) : List OffsetSample :=
  (s.zlg.syncOffsets ++ [(⟨s.clk.now, off⟩ : OffsetSample)]).drop (s.zlg.syncOffsets.length + 1 - 8)

theorem syncBits_time (t : BitVec 64) : (syncBits t).setWidth 64 = t := by
  unfold syncBits
  rw [BitVec.setWidth_append, dif_pos le_rfl, BitVec.setWidth_eq]

theorem execSyncFrame_good {s : State} {time : BitVec 64} (enabled : s.sys.sync.inEn = true) (runs : s.running = true)
    (last : s.sys.sync.lastTime = some (time - 1000000)) (early : s.sys.sync.lastEdge + 999900 ≤ s.clk.now)
    (late : s.clk.now ≤ s.sys.sync.lastEdge + 1000100) :
    exec (.syncFrame (syncBits time)) s = .next (
      let v : State := { s.syncTaken time with zlg := { s.zlg with syncOffsets := s.syncSamples (s.syncOffset time) } }
      if ¬(s.syncTaken time).sys.sync.locked then v
      else (v.chooseSource.updateLock (s.syncSamples (s.syncOffset time)) 8).correct (s.syncOffset time) v.chooseSource.launchWaits) := by
  show execSyncFrame _ _ = _
  have inTime : decide (999900 ≤ s.clk.now - s.sys.sync.lastEdge ∧ s.clk.now - s.sys.sync.lastEdge ≤ 1000100) = true :=
    decide_eq_true (by omega)
  unfold execSyncFrame
  simp only [syncBits_time, enabled, runs, not_true_eq_false, or_self, if_false, beq_self_eq_true, last, inTime, Bool.true_and,
    BitVec.sub_add_cancel, if_true] <;> rfl

theorem State.chooseSource_sys (s : State) : s.chooseSource.sys = s.sys := (State.chooseSource_does .self (.refl s)).same .sys rfl

theorem State.updateLock_correct_sys (s : State) (l : List OffsetSample) (n : Nat) (off : Int) (waits : Bool) :
    ((s.updateLock l n).correct off waits).sys = s.sys :=
  ((State.correct_does .self off waits (.refl _)).same .sys rfl).trans ((State.updateLock_does .self l n (.refl s)).same .sys rfl)

/-- A frame that is missing: the count of agreeing frames starts over, and the second in a row unlocks. -/
theorem State.syncMiss_sync (s : State) : s.syncMiss.sys.sync = { s.sys.sync with
    good := 0, misses := s.sys.sync.misses + 1, locked := s.sys.sync.locked && decide (s.sys.sync.misses + 1 < 2) } := by
  unfold State.syncMiss
  dsimp only
  rw [State.chooseSource_sys]
  split <;> rfl

/-! ### Beacons -/

/-- Whatever else a beacon does, its port keeps what it tells of its sender. -/
theorem State.beaconIn_peer (s : State) (p : Nat) (tx echo : BitVec 64) (d : BitVec 32) (st : BitVec 4) (launch : Bool) :
    ((s.beaconIn p tx echo d st launch).port p).peerTx = tx ∧ ((s.beaconIn p tx echo d st launch).port p).peerAt = s.clk.poolTime ∧
      ((s.beaconIn p tx echo d st launch).port p).peerStratum = st := by
  unfold State.beaconIn
  extract_lets time port noted _ samples sourced
  split
  · rw [State.chooseSource_port, State.port_modPort]
    exact ⟨rfl, rfl, rfl⟩
  · have kept : sourced.port p = { noted.port p with offsets := samples } := by
      rw [State.chooseSource_port, State.port_modPort]
    split
    · rw [State.correct_port, State.updateLock_port, kept, State.port_modPort]
      exact ⟨rfl, rfl, rfl⟩
    · rw [kept, State.port_modPort]
      exact ⟨rfl, rfl, rfl⟩

/-- Settles O10: each event's own branch, and the frames of what follows it. -/
theorem clocksKeepTime : Obligations.ClocksKeepTime := by
  refine ⟨fun h s here runs => ?refLost, fun h s here awake starting waking => exec_refclkLoss_still here awake starting waking,
    fun h s here => ?sdsLost, fun h s here => ?sdsBack, fun s => rfl, fun s => rfl,
    fun time s enabled runs few unlocked last early late => ?counts,
    fun time off l s enabled runs hoff hl many last early late => ?locks, fun s enabled runs => ?missing,
    fun s enabled stratum runs => ?sends, fun p env tx echo d st s hears plain unsequenced => ?beacon⟩
  case refLost =>
    refine ⟨_, exec_refclkLoss_running here runs, State.goFatal_fatal _, ?_⟩
    obtain ⟨_, _, hub⟩ := (s.modHub h (fun x => { x with refclkOk := false, pllLock := false })).goFatal_hub_cases h
    rw [hub, State.hub_modHub]
    exact ⟨rfl, rfl⟩
  case sdsLost =>
    refine ⟨_, congrArg Host.Outcome.next (if_neg (not_not_intro here)), rfl, ?_, State.hubLinksDown_eth _⟩
    have hubs := (State.hubLinksDown_does .self h.val (.refl (s.modHub h (fun x => { x with sdsRefclkOk := false })))).same .hubs rfl
    refine (congrArg (fun m : SMap HubInfo => (m.getD h {}).sdsRefclkOk) hubs).trans ?_
    exact congrArg HubInfo.sdsRefclkOk (State.hub_modHub ..)
  case sdsBack =>
    exact congrArg Host.Outcome.next (if_neg (not_not_intro here))
  case counts =>
    have short : min 8 (s.sys.sync.good + 1) = s.sys.sync.good + 1 := by omega
    have open_ : (s.syncTaken time).sys.sync.locked = false := by
      show (s.sys.sync.locked || min 8 (s.sys.sync.good + 1) == 8) = false
      rw [unlocked, short, Bool.false_or]
      exact beq_false_of_ne (by omega)
    refine ⟨_, execSyncFrame_good enabled runs last early late, ?_⟩
    dsimp only
    rw [if_pos (ne_true_of_eq_false open_)]
    exact ⟨short, rfl, open_, rfl⟩
  case locks =>
    subst hoff hl
    have full : min 8 (s.sys.sync.good + 1) = 8 := by omega
    have taken : (s.syncTaken time).sys.sync = { s.sys.sync with
        lastTime := some time, lastEdge := s.clk.now, good := 8, misses := 0, locked := true } := by
      unfold State.syncTaken State.modSys
      dsimp only
      rw [full, beq_self_eq_true, Bool.or_true]
    refine ⟨s.syncTaken time, _, _, ?_, taken, rfl, rfl, rfl, ?_⟩
    · rw [execSyncFrame_good enabled runs last early late]
      dsimp only
      rw [if_neg (not_not_intro (congrArg SyncIn.locked taken))] <;> rfl
    · rw [State.updateLock_correct_sys, State.chooseSource_sys]
  case missing =>
    refine ⟨_, congrArg Host.Outcome.next (if_pos ⟨enabled, runs⟩), ?_⟩
    have missed := s.syncMiss_sync
    refine ⟨congrArg SyncIn.good missed, congrArg SyncIn.misses missed, rfl, fun again => (congrArg SyncIn.locked missed).trans ?_⟩
    rw [decide_eq_false (by omega), Bool.and_false]
  case sends =>
    exact congrArg Host.Outcome.next (if_pos ⟨enabled, stratum, runs⟩)
  case beacon =>
    refine ⟨_, congrArg Host.Outcome.next (State.control_receiving hears plain unsequenced _), ?_⟩
    rw [← s.followWidth_clk p env.width]
    exact State.beaconIn_peer ..

end Sys2Proof.Machine
end

section
/-! A partial reset of a hub with an open gate (R484, R487, R796–R798): the reset loses the gate, and the gate fault is recorded in the
hub's slalom registers after they have taken their reset values. So the hub's slalom record is not at reset when the reset has begun. -/
namespace Sys2Proof.Machine
open Sys2Proof

/-- Job 0 runs on hub 0: its image has one gate, for expert 2 in logical cluster 0, and the gates of its step are open. -/
def gateOpenOnHub0 : State := {
  sys := { phase := .awake, resetLow := false },
  jobs := [(0, { state := .running, image := List.replicate 0x22 0 ++ [2], gates := { open_ := true } })],
  lcs := [(0, { phase := .yielded, place := some (0, 0) })] }

/-- The fault that the reset records in the slalom registers of hub 0. -/
theorem gateOpenOnHub0_fault : ((gateOpenOnHub0.enterPartial 0 1 .clean).slg.get? 0).map (·.faultCause) = some 6 := by
  decide +kernel

/-- Refutes O11: in `gateOpenOnHub0` the command starts the reset of hub 0, which leaves the lost gate's fault recorded in the slalom
registers of the hub, where the statement says that nothing is left. -/
theorem not_partialResetRuns : ¬ Obligations.PartialResetRuns := by
  unfold Obligations.PartialResetRuns
  rintro ⟨command, -⟩
  obtain ⟨t, run, begun, -⟩ := command .firmware 0 .clean gateOpenOnHub0 rfl rfl (by decide)
  have reset : exec (.hubPartialReset .firmware 0 .clean) gateOpenOnHub0 = .next (gateOpenOnHub0.enterPartial 0 1 .clean) :=
    congrArg Host.Outcome.next ((if_pos ⟨rfl, by decide⟩).trans (if_neg (by decide)))
  obtain rfl : gateOpenOnHub0.enterPartial 0 1 .clean = t := Host.Outcome.next.inj (reset.symm.trans run)
  have fault := gateOpenOnHub0_fault
  have nothing : (gateOpenOnHub0.enterPartial 0 1 .clean).slg.get? 0 = none := begun.slalom
  rw [nothing] at fault
  cases fault

end Sys2Proof.Machine
end

section
/-! Deep sleep (R657–R661, R783, R807): entering it, its clock, and the ways out of it. -/
namespace Sys2Proof.Machine
open Sys2Proof

/-- Deep sleep has been accepted: the links are down and the channels in self-refresh, but the part is still awake (R659). -/
def State.sleepPrepared (s : State) : State :=
  let begun : State := { s with pwr := { s.pwr with cmdResult := 1 }, zlg := { s.zlg with locked := false, meanInSince := none } }
  let linksDown := begun.presentHubs.foldl State.hubLinksDown begun
  linksDown.presentHubs.foldl (fun s h => (List.range 34).foldl (fun s c =>
    if (s.chan h c).state = .inService then s.srEnter h c else s) s) linksDown

theorem State.sleep_of_free {s : State} (free : s.sleepBarred = false) :
    s.sleep = s.sleepPrepared.modSys (fun x => { x with phase := .sleeping, wake := false }) :=
  if_neg (ne_true_of_eq_false free)

theorem State.sleepPrepared_does (s : State) : Does 0x2100208400005E1E0
    { s with pwr := { s.pwr with cmdResult := 1 }, zlg := { s.zlg with locked := false, meanInSince := none } } s.sleepPrepared := by
  refine .foldl _ _ (fun _ h hk => .foldl _ _ (fun _ c hk => ?_) hk)
    (.foldl _ _ (fun _ h hk => State.hubLinksDown_does (by exact rfl) h hk) (.refl _))
  split
  · exact State.srEnter_does (by exact rfl) h c hk
  · exact hk

/-- A part that sleeps wakes for the cause that it records, with traffic held (R660, R807). -/
theorem State.wakeUp_sleeping {s : State} (asleep : s.sys.phase = .sleeping) (cause : BitVec 2) :
    (s.wakeUp cause).sys.phase = .waking ∧ (s.wakeUp cause).sys.lastWake = cause ∧ (s.wakeUp cause).zlg.startup = true := by
  obtain ⟨left, channels, woken⟩ : ∃ left : State, Does 0x25C00040100
      (s.modSys fun x => { x with phase := .waking, wake := false, lastWake := cause }) left ∧
      s.wakeUp cause = left.serviceHubs.foldl State.firstUse { left with zlg := { left.zlg with startup := true } } :=
    ⟨_, .foldl _ _ (fun _ h hk => .foldl _ _ (fun _ c hk => State.srExit_does .self h c hk) hk) (.refl _),
      if_neg (not_not_intro asleep)⟩
  have counted : Does 0x4000000000000000 { left with zlg := { left.zlg with startup := true } } (s.wakeUp cause) := by
    rw [woken]
    exact .foldl _ _ (fun _ h hk => State.firstUse_does .self h hk) (.refl _)
  have kept := (counted.same .sys rfl).trans (channels.same .sys rfl)
  exact ⟨congrArg Sys.phase kept, congrArg Sys.lastWake kept, congrArg ZlGlobal.startup (counted.same .zlg rfl)⟩

/-- Settles O12: each event's own branch, and the frames of what prepares for sleep and of what follows waking. -/
theorem deepSleepAndWake : Obligations.DeepSleepAndWake := by
  refine ⟨fun s live free => ?sleeps, fun s live barred => ?barred, fun s asleep => ?pin, fun s asleep due set => ?alarm,
    fun s asleep => ?command, fun s waking live => ?wakes, fun s asleep => ?ticks, fun s asleep feed => ?feedA,
    fun s asleep feed => ?feedB, fun b s asleep feed => ?unpowered⟩
  case sleeps =>
    refine ⟨_, congrArg Host.Outcome.next (if_neg (ne_true_of_eq_false live)), ?_⟩
    rw [State.sleep_of_free free]
    have prepared := s.sleepPrepared_does
    exact ⟨rfl, congrArg Pwr.cmdResult (prepared.same .pwr rfl), prepared.same .mem rfl⟩
  case barred =>
    exact congrArg Host.Outcome.next ((if_neg (ne_true_of_eq_false live)).trans (if_pos barred))
  case pin =>
    exact ⟨_, rfl, State.wakeUp_sleeping asleep 1⟩
  case alarm =>
    exact ⟨_, congrArg Host.Outcome.next (if_pos ⟨due, set⟩), State.wakeUp_sleeping asleep 2⟩
  case command =>
    exact ⟨_, rfl, State.wakeUp_sleeping asleep 3⟩
  case wakes =>
    refine ⟨_, congrArg Host.Outcome.next (if_pos ⟨waking, ne_true_of_eq_false live⟩), ?_⟩
    have resumed := State.resumeTraffic_does .self (.refl ({ s.modSys (fun x => { x with phase := .awake }) with
      zlg := { s.zlg with startup := false } } : State))
    exact ⟨congrArg Sys.phase (resumed.same .sys rfl), congrArg ZlGlobal.startup (resumed.same .zlg rfl)⟩
  case ticks =>
    refine ⟨_, congrArg Host.Outcome.next (if_pos asleep), rfl, congrArg (s.clk.poolTime + ·) ?_, rfl⟩
    exact apply_ite (BitVec.ofNat 64) _ 30518 30517
  case feedA | feedB =>
    exact congrArg Host.Outcome.next ((if_neg (not_not_intro asleep)).trans (if_pos (by simp [feed])))
  case unpowered =>
    refine ⟨_, congrArg Host.Outcome.next ((if_neg (not_not_intro asleep)).trans (if_neg ?_)), rfl, rfl⟩
    cases b <;> simpa using feed

end Sys2Proof.Machine
end

section
/-! The structure image (R68–R86, R97–R103, R333): its commands, the commit point and what ends a commit or a return, and the transfer
service. -/
namespace Sys2Proof.Machine
open Sys2Proof

/-! ### What holds and releases write of the structure-image unit -/

/-- Holding units writes of the structure-image unit only its record of holds. -/
theorem State.si_hold (s : State) (target : Sections) (m : Medium) :
    ∃ k, (s.hold_ target m).si = { s.si with hold := k } := by
  let begun := s.modSi (fun x => { x with hold := s.holdsOf s.eff target })
  have released : (begun.atomReleaseClasses (rightsCut s.eff target)).si = begun.si :=
    (State.atomReleaseClasses_does .self _ (.refl begun)).same .si rfl
  have held (x : State) : ∃ l, x.chanHeld.si = { x.si with hold := { x.si.hold with channels := l } } := by
    unfold State.chanHeld
    extract_lets used l
    refine ⟨l, ?_⟩
    clear_value l
    split
    · exact (State.retrainCmd_does .self _ _ (.refl _)).same .si rfl
    · rfl
  obtain ⟨l, hl⟩ := held (begun.atomReleaseClasses (rightsCut s.eff target))
  refine ⟨{ begun.si.hold with channels := l }, ((State.cohEnd_does .self m (.refl _)).same .si rfl).trans (hl.trans ?_)⟩
  rw [released] <;> rfl

theorem State.eff_hold (s : State) (target : Sections) (m : Medium) : (s.hold_ target m).eff = s.eff :=
  (State.hold__does .self target m (.refl s)).same .eff rfl

/-- The two units are the same but for the requests that a quiesce held. -/
def Si.UpToHeld (x y : Si) : Prop := ∃ e p, y = { x with heldEngine := e, heldEpoch := p }

theorem Si.UpToHeld.of_eq {x y : Si} (h : y = x) : x.UpToHeld y := ⟨x.heldEngine, x.heldEpoch, h⟩

theorem Si.UpToHeld.trans {x y z : Si} (h : x.UpToHeld y) (k : y.UpToHeld z) : x.UpToHeld z := by
  obtain ⟨e, p, rfl⟩ := h
  exact k

theorem State.engineIn_upToHeld (s : State) (x : EngineMsg) (media : List Medium) : s.si.UpToHeld (s.engineIn x media).si := by
  unfold State.engineIn
  split
  · exact ⟨_, s.si.heldEpoch, rfl⟩
  · refine .of_eq ?_
    cases x with
    | token => exact (State.tokenIn_does .self _ _ _ _ _ _ _ _ _ (.refl s)).same .si rfl
    | close => exact (State.closeIn_does .self _ _ _ _ _ (.refl s)).same .si rfl
    | gather => exact (State.gatherIn_does .self _ _ _ _ _ _ _ _ _ _ _ (.refl s)).same .si rfl
    | select => exact (State.selectIn_does .self _ _ _ _ _ _ _ _ _ _ (.refl s)).same .si rfl

theorem State.release_upToHeld (s : State) (m : Medium) : s.si.UpToHeld (s.release m).si := by
  have engines (x : State) : x.si.UpToHeld x.enginesGo.si :=
    List.foldlRecOn (motive := fun y : State => x.si.UpToHeld y.si) x.si.heldEngine _ ⟨[], x.si.heldEpoch, rfl⟩
      (fun y hy a _ => hy.trans (y.engineIn_upToHeld a []))
  exact (Si.UpToHeld.of_eq ((State.deliverHeld_does .self 8 m (.refl s)).same .si rfl)).trans
    ((engines _).trans (.of_eq (Does.same (Does.foldl (W := 0x400000000000) _ _
      (fun _ h hk => State.tagHeads_does .self h hk) (.refl _)) .si rfl)))

/-- Releasing what was held clears the record of holds, and otherwise leaves the unit up to the requests held. -/
theorem State.unhold_si (s : State) (m : Medium) : Si.UpToHeld { s.si with hold := {}, refusedClasses := 0 } (s.unhold m).si := by
  have epoch (x : State) : x.si.UpToHeld x.heldEpochNow.si := by
    unfold State.heldEpochNow
    split
    · exact .of_eq rfl
    · exact ⟨x.si.heldEngine, none, (State.decideOpen_does .self _ _ _ (.refl _)).same .si rfl⟩
  exact (Si.UpToHeld.of_eq ((State.unpark_does .self (.refl _)).same .si rfl)).trans
    ((State.release_upToHeld _ m).trans (epoch _))

theorem State.unhold_eff (s : State) (m : Medium) : (s.unhold m).eff = s.eff :=
  (State.unhold_does .self m (.refl s)).same .eff rfl

/-! ### The return (R76, R102) -/

/-- A package reset leaves nothing carved, mapped, loaded, queued or in force (R790). -/
theorem State.packageReset_cleared (s : State) (cause : BitVec 3) : Cleared (s.packageReset cause) := by
  unfold State.packageReset
  have drawn (x : State) : Does 0x40000000000002000 x x.drawTrainIds := State.drawTrainIds_does .self (.refl x)
  refine ⟨congrArg Sys.phase ((drawn _).same .sys rfl), ?_, (drawn _).same .mem rfl, (drawn _).same .extents rfl,
    (drawn _).same .maps rfl, (drawn _).same .dir rfl, (drawn _).same .jobs rfl, (drawn _).same .queues rfl,
    (drawn _).same .kmp rfl, (drawn _).same .eff rfl, (drawn _).same .memKey rfl, congrArg Ten.state ((drawn _).same .ten rfl),
    congrArg Ten.tenantKey ((drawn _).same .ten rfl), congrArg Ten.links ((drawn _).same .ten rfl)⟩
  exact congrArg (fun x : Sys => x.fatalAt.isSome) ((drawn _).same .sys rfl)

/-- A package reset leaves the images of the slot record (R69). -/
theorem State.packageReset_si (s : State) (cause : BitVec 3) :
    (s.packageReset cause).si.cur = s.si.cur ∧ (s.packageReset cause).si.prev = s.si.prev := by
  have kept : (s.packageReset cause).si = s.resetKeeping.si := 
    (State.drawTrainIds_does (W := 0x40000000000002000) .self (.refl _)).same .si rfl
  exact ⟨(congrArg Si.cur kept :), (congrArg Si.prev kept :)⟩

theorem State.returnByReset_cleared (s : State) (check : BitVec 3) :
    Cleared (s.returnByReset check) ∧ (s.returnByReset check).si.cur = s.si.prev ∧ (s.returnByReset check).si.prev = none ∧
      (s.returnByReset check).si.returned = true := by
  obtain ⟨cur, prev⟩ := (s.modSi (fun x => x.turnedBack check)).packageReset_si 5
  exact ⟨(s.modSi (fun x => x.turnedBack check)).packageReset_cleared 5, cur, prev, rfl⟩

/-- A return to an image that differs by less than a reset (R76). -/
theorem State.startReturn_quiesces {s : State} {y : SiImage} (check : BitVec 3) (m : Medium) (hp : s.si.prev = some y)
    (hc : s.classOfChange s.eff (s.sectionsOf (some y)) ≠ 3) :
    ∃ k, (s.startReturn check m).si = { s.si with state := .returning, returnCheck := check, healthAt := none, hold := k } ∧
      (s.startReturn check m).eff = s.eff := by
  have quiesces : s.startReturn check m =
      (s.modSi (fun x => { x with state := .returning, returnCheck := check, healthAt := none })).hold_ (s.sectionsOf (some y)) m := by
    unfold State.startReturn
    rw [hp]
    exact if_neg hc
  rw [quiesces]
  obtain ⟨k, hk⟩ := (s.modSi (fun x => { x with state := .returning, returnCheck := check, healthAt := none })).si_hold
    (s.sectionsOf (some y)) m
  exact ⟨k, hk, State.eff_hold _ _ m⟩

theorem State.startReturn_resets {s : State} {y : SiImage} (check : BitVec 3) (m : Medium) (hp : s.si.prev = some y)
    (hc : s.classOfChange s.eff (s.sectionsOf (some y)) = 3) : s.startReturn check m = s.returnByReset check := by
  unfold State.startReturn
  rw [hp]
  exact if_pos hc

/-! ### The commands of `SI_CMD` (R71–R77, R86) -/

theorem State.classOfChange_siEnded (s : State) (r : BitVec 4) (a b : Sections) :
    (s.siEnded r).classOfChange a b = s.classOfChange a b := rfl

/-- A `REVERT` that is taken begins the return with `LAST_RESULT` 1 (R76). -/
theorem State.siRevert_taken {s : State} {p : Path} {y : SiImage} (m : Medium) (takes : s.siTakes p = true) (free : s.si.lock = false)
    (state : s.si.state = .idle ∨ s.si.state = .health) (prev : s.si.prev = some y) :
    s.siRevert p m = (s.siEnded 1).startReturn 0 m := by
  unfold State.siRevert
  rw [if_neg (not_not_intro takes), if_neg]
  simp [free, state, prev]

/-- The unit as a commit begins: the previous slot is empty, the classes that differ are named (R74, R98). -/
def Si.quiescing (x : Si) (classes : BitVec 16) : Si := { x with state := .quiescing, prev := none, refusedClasses := classes }

/-- A `COMMIT` that may begin either needs a reset or holds the units of the difference (R74, R77). -/
theorem State.siCommit_taken {s : State} {p : Path} {b : StageBuf} (m : Medium) (takes : s.siTakes p = true)
    (may : s.mayCommit = true) (stage : s.si.stage = some b) :
    s.siCommit p m = if s.classOfChange s.eff (s.effective (stagedImage b).sections) = 3 then s.siEnded 14 else
      (s.modSi (·.quiescing (classesDiffer s.eff (s.effective (stagedImage b).sections)))).hold_
        (s.effective (stagedImage b).sections) m := by
  unfold State.siCommit
  rw [if_neg (not_not_intro takes), may, stage] <;> rfl

/-- Settles O13: each command's own branch; a commit and a return by quiesce hold their units, a return by reset clears the part. -/
theorem structureImageCommands : Obligations.StructureImageCommands := by
  refine ⟨fun p s takes free state may => ?opens, fun p b s takes free state stage => ?validates,
    fun p m b s takes may stage cls => ?quiesces, fun p m b s takes may stage cls => ?needsReset, fun p b s takes may stage => ?onReset,
    fun p s takes free state => ?abandons, fun p s takes free state => ?pending, fun p m y s takes free state prev cls => ?reverts,
    fun p m y s takes free state prev cls => ?revertsByReset, fun p s right live jtag => ?locks, fun p s takes locked => ?refused⟩
  case opens =>
    refine congrArg Host.Outcome.next ((if_neg (not_not_intro takes)).trans (if_neg ?_))
    simp [free, state, may]
  case validates =>
    refine congrArg Host.Outcome.next ((if_neg (not_not_intro takes)).trans ?_)
    rw [free, state, stage] <;> rfl
  case quiesces =>
    obtain ⟨k, si⟩ := (s.modSi (·.quiescing (classesDiffer s.eff (s.effective (stagedImage b).sections)))).si_hold (s.effective (stagedImage b).sections) m
    refine ⟨_, congrArg Host.Outcome.next ((State.siCommit_taken m takes may stage).trans (if_neg cls)), ?_⟩
    rw [si, State.eff_hold]
    exact ⟨rfl, rfl, rfl, rfl⟩
  case needsReset =>
    exact congrArg Host.Outcome.next ((State.siCommit_taken m takes may stage).trans (if_pos cls))
  case onReset =>
    refine congrArg Host.Outcome.next ((if_neg (not_not_intro takes)).trans ?_)
    rw [may, stage] <;> rfl
  case abandons =>
    refine congrArg Host.Outcome.next ((if_neg (not_not_intro takes)).trans ?_)
    rcases state with state | state <;> rw [free, state] <;> rfl
  case pending =>
    refine congrArg Host.Outcome.next ((if_neg (not_not_intro takes)).trans ?_)
    rw [free, state] <;> rfl
  case reverts =>
    obtain ⟨k, si, eff⟩ := State.startReturn_quiesces (s := s.siEnded 1) 0 m prev cls
    refine ⟨_, congrArg Host.Outcome.next (State.siRevert_taken m takes free state prev), ?_⟩
    rw [si, eff]
    exact ⟨rfl, prev, rfl, rfl⟩
  case revertsByReset =>
    refine ⟨_, congrArg Host.Outcome.next ((State.siRevert_taken m takes free state prev).trans
      (State.startReturn_resets (s := s.siEnded 1) 0 m prev cls)), ?_⟩
    obtain ⟨cleared, cur, left, returned⟩ := (s.siEnded 1).returnByReset_cleared 0
    exact ⟨cleared, cur.trans prev, left, returned⟩
  case locks =>
    exact congrArg Host.Outcome.next (if_pos ⟨right, ne_true_of_eq_false live, jtag⟩)
  case refused =>
    exact congrArg Host.Outcome.next ((if_neg (not_not_intro takes)).trans (if_pos (.inl locked)))

/-! ### The commit point, the limit and the health window (R74–R79, R97, R102) -/

theorem State.eff_modSi (s : State) (f : Si → Si) : (s.modSi f).eff = s.eff := rfl

/-- A commit that is lost leaves the image in force, with nothing held (R75, R97). -/
theorem State.commitLost_si (s : State) (r : BitVec 4) (m : Medium) :
    (s.commitLost r m).si.lastResult = r ∧ (s.commitLost r m).si.prev = s.si.prev ∧ (s.commitLost r m).si.hold = {} ∧
      (s.commitLost r m).eff = s.eff ∧
      (s.commitLost r m).si.state = (if s.ownerLives s.si.stage then .validated else .idle) := by
  unfold State.commitLost
  obtain ⟨e, q, si⟩ := (s.modSi (fun x => if s.ownerLives x.stage then { x with state := .validated, lastResult := r }
    else { x with state := .idle, stage := none, lastResult := r })).unhold_si m
  rw [si, State.unhold_eff, State.si_modSi]
  cases s.ownerLives s.si.stage <;> exact ⟨rfl, rfl, rfl, rfl, rfl⟩

/-- An image that has taken effect is the one in force; the slot record is as it was (R74). -/
theorem State.applyImage_keeps (s : State) (x : SiImage) (l : SMap (List (List LaneSweep))) :
    (s.applyImage (some x) l).eff = s.effective x.sections ∧
      (s.applyImage (some x) l).si = { s.si with inForce := some x, committed := true } := by
  have applied := State.applyImage_does_underImage .self (some x) l (.refl (s.underImage (some x)))
  have settled := (State.settleQueues_does .self (.refl s)).same .si rfl
  refine ⟨applied.same .eff rfl, (applied.same .si rfl).trans ?_⟩
  show ({ s.settleQueues.si with inForce := some x, committed := true } : Si) = _
  rw [settled]

/-- A return by quiesce that has drained: the previous image takes effect (R76, R102). -/
theorem execCommitPoint_returns (l : SMap (List (List LaneSweep))) (m : Medium) {y : SiImage} {s : State} (live : s.fatal = false)
    (state : s.si.state = .returning) (prev : s.si.prev = some y) (drained : s.quiesced s.si.hold (s.effective y.sections) = true) :
    execCommitPoint l m s = .next (((s.applyImage (some y) l).modSi (fun z =>
      { z.turnedBack z.returnCheck with
        state := .idle, healthFail := z.healthFail || !s.combosState (s.effective y.sections), commitTime := s.clk.poolTime })).unhold m) := by
  unfold execCommitPoint
  rw [live, state, prev]
  dsimp only
  rw [drained] <;> rfl

/-- Settles O14: each event's own branch, with what is written of the unit as held work resumes. -/
theorem commitEndsInHealthOrAsBefore : Obligations.CommitEndsInHealthOrAsBefore := by
  refine ⟨fun l m b s live state stage drained c9 c10 => ?commits, fun l m b s live state stage drained c9 => ?fails9,
    fun l m y s live state prev drained => ?returns, fun m s live state => ?limit, fun m s live state => ?limitOfReturn,
    fun c m s live state fails prev => ?reported, fun c m y s live state fails prev cls => ?turnsBack, fun m s live state well => ?closes⟩
  case commits =>
    obtain ⟨e, q, si⟩ := ((s.applyImage (some (stagedImage b)) l).modSi (fun y => y.afterCommit (stagedImage b) s)).unhold_si m
    obtain ⟨eff, applied⟩ := s.applyImage_keeps (stagedImage b) l
    refine ⟨_, execCommitPoint_commits l m live state stage drained c9 c10, ?_⟩
    rw [si, State.unhold_eff, State.si_modSi, State.eff_modSi, applied, eff]
    exact ⟨rfl, rfl, rfl, rfl, rfl, rfl, rfl, rfl⟩
  case fails9 =>
    refine ⟨s.commitLost 10 m, ?_, s.commitLost_si 10 m⟩
    refine congrArg Host.Outcome.next ((if_neg (ne_true_of_eq_false live)).trans ?_)
    rw [state, stage]
    exact (if_neg (not_not_intro drained)).trans (if_pos (ne_true_of_eq_false c9))
  case returns =>
    obtain ⟨e, q, si⟩ := ((s.applyImage (some y) l).modSi (fun z =>
      { z.turnedBack z.returnCheck with
        state := .idle, healthFail := z.healthFail || !s.combosState (s.effective y.sections), commitTime := s.clk.poolTime })).unhold_si m
    obtain ⟨eff, applied⟩ := s.applyImage_keeps y l
    refine ⟨_, execCommitPoint_returns l m live state prev drained, ?_⟩
    rw [si, State.unhold_eff, State.si_modSi, State.eff_modSi, applied, eff]
    exact ⟨rfl, prev, rfl, rfl, rfl, rfl⟩
  case limit =>
    refine ⟨s.commitLost 13 m, congrArg Host.Outcome.next ((if_neg (ne_true_of_eq_false live)).trans ?_), s.commitLost_si 13 m⟩
    rw [state]
  case limitOfReturn =>
    refine ⟨_, congrArg Host.Outcome.next ((if_neg (ne_true_of_eq_false live)).trans ?_), s.returnByReset_cleared s.si.returnCheck⟩
    rw [state]
  case reported =>
    refine congrArg Host.Outcome.next ((if_pos ⟨state, fails, ne_true_of_eq_false live⟩).trans (if_neg ?_))
    simp [prev]
  case turnsBack =>
    obtain ⟨k, si, eff⟩ := State.startReturn_quiesces c m prev cls
    refine ⟨s.startReturn c m, congrArg Host.Outcome.next ((if_pos ⟨state, fails, ne_true_of_eq_false live⟩).trans (if_pos ?_)), ?_⟩
    · simp [prev]
    · rw [si, eff]
      exact ⟨rfl, rfl, rfl⟩
  case closes =>
    refine congrArg Host.Outcome.next ((if_neg ?_).trans ((if_neg (fun bad => ne_true_of_eq_false well bad.1)).trans ?_))
    · simp [state, live]
    · rw [well]
      simp only [Bool.or_false] <;> rfl

/-! ### The transfer service (R333) -/

/-- Settles O15: the service's own branches, within a request that is served. -/
theorem transferMovesStagedBytes : Obligations.TransferMovesStagedBytes := by
  refine ⟨fun hdr n o d k x b s v served right pos le len room state stage own => ?writesImage,
    fun hdr n o d k x b s v served right pos le len room idle stage own => ?writesFirmware,
    fun hdr n o d k x b s v served right pos le room state stage own => ?reads,
    fun hdr g op n o d r k x s v served right => ?refused⟩
  all_goals refine congrArg Host.Outcome.next (served.replied_eq 5 false _ ?_)
  case writesImage =>
    have n0 : n.toNat ≠ 0 := Nat.pos_iff_ne_zero.mp pos
    simp [right, n0, not_lt.mpr le, not_lt.mpr room, len, state, stage, own]
  case writesFirmware =>
    have n0 : n.toNat ≠ 0 := Nat.pos_iff_ne_zero.mp pos
    simp [right, n0, not_lt.mpr le, not_lt.mpr room, len, idle, stage, own]
  case reads =>
    have n0 : n.toNat ≠ 0 := Nat.pos_iff_ne_zero.mp pos
    simp [right, n0, not_lt.mpr le, not_lt.mpr room, state, stage, own]
  case refused =>
    exact if_pos (ne_true_of_eq_false right)

end Sys2Proof.Machine
end

section
/-! A carving message whose body is not that of a command (R121, R328): it gets `KSTATUS` 4 before the session's right is looked at. -/
namespace Sys2Proof.Machine
open Sys2Proof

/-- A KMP message in session 1 with an empty body, sealed under key 0. -/
def emptyCarveHdr : KmpHdr := {
  type := 6, sessionId := 1, msgSeq := 1, tag := gcmTagBytes 0 (kmpNonce 1 1 false) (kmpHead 1 6 2 0 1 1 0 0 0) [] }

/-- A session that holds no right. -/
def rightlessSession : KmpSession := { sid := 1 }

/-- The part is awake, Ethernet port 0 is up, and session 1 is open on it without any right. -/
def rightlessSessionOpen : State := {
  sys := { phase := .awake, resetLow := false, done := true }, fw := { spDown := false }, eth := [(0, { linkUp := true })],
  kmp := [(0, rightlessSession)] }

/-- That state once the message has arrived. -/
def emptyCarveArrived : State :=
  ((rightlessSessionOpen.kmpArrive emptyCarveHdr).1.map (fun u => u.noteMgmt rightlessSession)).getD rightlessSessionOpen

theorem emptyCarve_served : KmpServed rightlessSessionOpen emptyCarveHdr 0 rightlessSession emptyCarveArrived where
  arrives := by decide +kernel
  slot := by decide +kernel
  session := by decide +kernel
  opens := by simp [KmpSession.opens, gcmOpen, rightlessSession, emptyCarveHdr, KmpHdr.protected_]
  port := rfl
  header := rfl
  notStored := rfl
  fresh := by decide +kernel
  notFatal := by decide +kernel
  notHalted := by decide +kernel
  notQuiesced := by decide +kernel
  known := by decide +kernel
  notRestarting := by decide +kernel

theorem emptyCarve_answered : rightlessSessionOpen.carveMsg emptyCarveHdr 6 { opcode := 6 } =
    emptyCarveArrived.replied 0 rightlessSession emptyCarveHdr 6 { status := 4 } := by
  unfold State.carveMsg
  exact emptyCarve_served.replied_eq 6 false _ (if_pos (by decide))

/-- Refutes O16: a `QUERY` with an empty body in a session without the right is answered with `KSTATUS` 4, which is not counted as a
rejection, where the statement has `KSTATUS` 3, which is. -/
theorem not_carvingIsRefusedByTheFirstReason : ¬ Obligations.CarvingIsRefusedByTheFirstReason := by
  unfold Obligations.CarvingIsRefusedByTheFirstReason
  rintro ⟨-, rightless, -⟩
  have claimed := rightless emptyCarveHdr { opcode := 6 } 0 rightlessSession rightlessSessionOpen emptyCarveArrived emptyCarve_served
    (by decide +kernel) (6, .query emptyCarveHdr { opcode := 6 }) (by simp [carveRows])
  have answered : exec (.query emptyCarveHdr { opcode := 6 }) rightlessSessionOpen =
      .next (emptyCarveArrived.replied 0 rightlessSession emptyCarveHdr 6 { status := 4 }) :=
    congrArg Host.Outcome.next emptyCarve_answered
  have counted := congrArg (fun t : State => t.ethg.rejected) (Host.Outcome.next.inj (answered.symm.trans claimed))
  revert counted
  decide +kernel

end Sys2Proof.Machine
end

section
/-! What the carving commands do that no reason refuses (R116, R122–R127, R134, R142). -/
namespace Sys2Proof.Machine
open Sys2Proof

/-- A reply writes only what forming and sending it need (R327, R328, R331). -/
theorem State.replied_does {W : Nat} (hW : Covers W 0x21202280000000000) {s₀ v : State} (k : Nat) (x : KmpSession) (hdr : KmpHdr)
    (type : BitVec 8) (r : KmpResp) (hk : Does W s₀ v) : Does W s₀ (v.replied k x hdr type r) := by
  unfold State.replied
  extract_lets f
  have formed : Does W s₀ f.2 := State.kmpForm_does (hW.of rfl) _ _ _ _ _ hk
  refine State.kmpPut_does (hW.of rfl) hdr f.1 ?_
  split
  · exact formed
  · exact State.modSession_does (hW.of rfl) k _ formed

/-- The wait record of a command that is served in slot `k`. -/
def carveWaitOf (hdr : KmpHdr) (cmd : CarveCmd) (op : BitVec 8) (k : Nat) (x : KmpSession) : CarveWait :=
  { slot := k, sid := x.sid, hdr := hdr, cmd := { cmd with opcode := op } }

/-- A carving row that completes at once replies with its completion. -/
theorem exec_carveRow_done {hdr : KmpHdr} {cmd : CarveCmd} {k : Nat} {x : KmpSession} {s v u : State} {d : CarveDone}
    (served : CarveServed s hdr cmd k x v) {r : BitVec 8 × Instr} (hr : r ∈ carveRows hdr cmd)
    (done : v.carveDo (carveWaitOf hdr cmd r.1 k x) = (some d, u)) :
    exec r.2 s = .next (u.replied k x hdr 6 { status := 0, body := .carve d }) := by
  rw [exec_carveRow hr, carveMsg_served served]
  unfold carveWaitOf at done
  rw [done]

/-- A carving row whose completion follows later leaves its session's number used. -/
theorem exec_carveRow_later {hdr : KmpHdr} {cmd : CarveCmd} {k : Nat} {x : KmpSession} {s v u : State}
    (served : CarveServed s hdr cmd k x v) {r : BitVec 8 × Instr} (hr : r ∈ carveRows hdr cmd)
    (later : v.carveDo (carveWaitOf hdr cmd r.1 k x) = (none, u)) : exec r.2 s = .next (u.unreplied k hdr) := by
  rw [exec_carveRow hr, carveMsg_served served]
  unfold carveWaitOf at later
  rw [later]

/-- `CARVE` takes the extent chosen, and fills it first when asked (R123, R124). -/
theorem State.carveDo_carve {v : State} {w : CarveWait} {e : Nat} {f : BitVec 8} (op : w.cmd.opcode = 1) (free : v.carveRefusal w.cmd = 0)
    (choice : v.chooseExtent w.cmd.cls.toNat w.cmd.hubGiven w.cmd.hub.toNat = some (e, f)) :
    v.carveDo w = if w.cmd.fill then
        (none, { v.carve w.cmd.cls.toNat e f with carver := { v.carver with filling := some (w, BitVec.ofNat 16 e) } })
      else (some ((v.carve w.cmd.cls.toNat e f).carveDone w.cmd 0 e), v.carve w.cmd.cls.toNat e f) := by
  unfold State.carveDo
  dsimp only
  rw [free, op]
  simp only [choice] <;> rfl

/-- An entry that is marked is released by the atomic units and shot down; that touches neither maps, extents, drains nor hosts. -/
theorem State.leaveExtent_does (v : State) (e : Nat) (cut : JRef → JRef) :
    Does 0x190025C04840100 v ((v.atomReleaseExtent e).shootExtent e cut) :=
  State.shootExtent_does (by exact rfl) e cut (State.atomReleaseExtent_does (by exact rfl) e (.refl v))

section
variable {v : State} {w : CarveWait} (free : v.carveRefusal w.cmd = 0)
include free

theorem State.carveDo_grant (op : w.cmd.opcode = 2) : ∃ d, v.carveDo w = (some d, v.grantDo w.cmd (some (w.slot, w.sid))) := by
  unfold State.carveDo
  dsimp only
  rw [free, op]
  exact ⟨_, rfl⟩

theorem State.carveDo_rights (op : w.cmd.opcode = 3) : ∃ d, v.carveDo w = (some d, (v.rightsDo w.cmd (some (w.slot, w.sid))).2) := by
  unfold State.carveDo
  dsimp only
  rw [free, op]
  exact ⟨_, rfl⟩

theorem State.carveDo_withdraw (op : w.cmd.opcode = 4) : ∃ d, v.carveDo w = (some d, v.withdrawDo w.cmd (some (w.slot, w.sid))) := by
  unfold State.carveDo
  dsimp only
  rw [free, op]
  exact ⟨_, rfl⟩

theorem State.carveDo_free (op : w.cmd.opcode = 5) : ∃ d, v.carveDo w = (some d, v.uncarve w.cmd.extent.toNat) := by
  unfold State.carveDo
  dsimp only
  rw [free, op]
  exact ⟨_, rfl⟩

theorem State.carveDo_query (op : w.cmd.opcode = 6) : v.carveDo w = (some (v.carveDone w.cmd 0 w.cmd.extent.toNat), v) := by
  unfold State.carveDo
  dsimp only
  rw [free, op] <;> rfl

end

/-- `RIGHTS` that widens does so at once (R142). -/
theorem State.rightsDo_widens {v : State} {c : CarveCmd} {base : Nat} {m : MapEntry} (ses : Option (Nat × BitVec 32))
    (at_ : v.baseOf c.host.toNat c.extent.toNat = some base) (entry : v.entryFor c.host.toNat c.extent.toNat = some m)
    (wider : rightsCode m.rights < rightsCode (rightsOf c.rights.toNat)) :
    Does 0x2100078000000E1E0 (v.modEntry c.host.toNat base (fun _ => { m with rights := rightsOf c.rights.toNat }))
      (v.rightsDo c ses).2 := by
  have differ : rightsOf c.rights.toNat ≠ m.rights := fun h => lt_irrefl _ (h ▸ wider)
  unfold State.rightsDo
  dsimp only
  rw [at_, entry]
  dsimp only
  simp only [if_neg differ, if_pos wider]
  exact State.entryEvent_does .self _ _ _ _ _ _ _ _ (.refl _)

/-- `RIGHTS` that narrows marks the entry and begins its drain (R142). -/
theorem State.rightsDo_narrows {v : State} {c : CarveCmd} {base : Nat} {m : MapEntry} (ses : Option (Nat × BitVec 32))
    (at_ : v.baseOf c.host.toNat c.extent.toNat = some base) (entry : v.entryFor c.host.toNat c.extent.toNat = some m)
    (differ : rightsOf c.rights.toNat ≠ m.rights) (narrower : rightsCode (rightsOf c.rights.toNat) ≤ rightsCode m.rights) :
    ∃ u, Does 0x190025C04840100 (v.modEntry c.host.toNat base (fun m => { m with mark := .narrowing (rightsOf c.rights.toNat) })) u ∧
      (v.rightsDo c ses).2 = { u with drains := u.drains ++ [
        { host := c.host, extent := c.extent, poolBase := BitVec.ofNat 24 base, goal := some (rightsOf c.rights.toNat),
          session := ses, reclaimed := decide (c.host.toNat < 1024) && (u.host c.host.toNat).dead }] } := by
  unfold State.rightsDo
  dsimp only
  rw [at_, entry]
  dsimp only
  rw [if_neg differ, if_neg (not_lt.mpr narrower)]
  exact ⟨_, State.leaveExtent_does _ _ _, rfl⟩

/-- `WITHDRAW` marks the entry and begins its drain (R134). -/
theorem State.withdrawDo_drains {v : State} {c : CarveCmd} {base : Nat} {m : MapEntry} (ses : Option (Nat × BitVec 32))
    (at_ : v.baseOf c.host.toNat c.extent.toNat = some base) (entry : v.entryFor c.host.toNat c.extent.toNat = some m) :
    (v.withdrawDo c ses).extents = v.extents ∧ (v.withdrawDo c ses).drains.length = v.drains.length + 1 ∧
      (v.withdrawDo c ses).maps = (v.modEntry c.host.toNat base (fun m => { m with mark := .draining })).maps := by
  unfold State.withdrawDo
  dsimp only
  rw [at_, entry]
  dsimp only
  have event (x : State) (rights : Nat) : Does 0x2100078000000E1E0 x
      (x.entryEvent 2 0 c.host.toNat base c.extent.toNat rights ses) := State.entryEvent_does .self _ _ _ _ _ _ _ _ (.refl x)
  have left := State.leaveExtent_does (v.modEntry c.host.toNat base (fun m => { m with mark := .draining })) c.extent.toNat
    (fun r => { r with mapped := false })
  refine ⟨((event _ _).same .extents rfl).trans (left.same .extents rfl), ?_, ((event _ _).same .maps rfl).trans (left.same .maps rfl)⟩
  refine (congrArg List.length ((event _ _).same .drains rfl)).trans ((List.length_append).trans ?_)
  exact congrArg (·.length + 1) (left.same .drains rfl)

/-- `FREE` takes the extent away; what becomes of slots and deep tiers touches neither extents nor maps (R116, R126, R556). -/
theorem State.uncarve_frees {v : State} {e : Nat} (carved : (v.extents.get? e).isSome = true) :
    (v.uncarve e).extents = v.extents.erase e ∧ (v.uncarve e).maps = v.maps := by
  have left : Does 0x4000040000 { v with extents := v.extents.erase e } (v.uncarve e) := by
    unfold State.uncarve
    split
    · next absent => simp [absent] at carved
    · extract_lets s free deep hs
      have relaid {W : Nat} (hW : Covers W 0x4000040000) {s₀ : State} (h : Nat) {s : State} (hk : Does W s₀ s) :
          Does W s₀ (deep s h) := by
        dsimp only [deep]
        split
        · exact State.relayDeep_does (hW.of rfl) h hk
        · exact hk
      split
      · exact relaid .self _ (Does.upd_40000 (by exact rfl) (.refl s))
      · split
        · exact .refl s
        · exact .foldl _ _ (fun _ h hk => relaid .self h hk) (Does.upd_40000 (by exact rfl) (.refl s))
  exact ⟨left.same .extents rfl, left.same .maps rfl⟩

/-- Settles O18: each command's own branch in a request that is served. -/
theorem carvingCommandsComplete : Obligations.CarvingCommandsComplete := by
  have reply (u : State) (k : Nat) (x : KmpSession) (hdr : KmpHdr) (r : KmpResp) : Does 0x21202280000000000 u (u.replied k x hdr 6 r) :=
    State.replied_does .self k x hdr 6 r (.refl u)
  refine ⟨fun hdr cmd k e f x s v served free choice now => ?carves, fun hdr cmd k e f x s v served free choice fill => ?fills,
    fun hdr cmd k x s v served free => ?grants, fun hdr cmd k base m x s v served free at_ entry wider => ?widens,
    fun hdr cmd k base m x s v served free at_ entry differ narrower => ?narrows,
    fun hdr cmd k base m x s v served free at_ entry => ?withdraws, fun hdr cmd k x s v served free carved => ?frees,
    fun hdr cmd k x s v served free => ?queries⟩
  case carves =>
    have done := (State.carveDo_carve (w := carveWaitOf hdr cmd 1 k x) rfl free choice).trans (if_neg (ne_true_of_eq_false now))
    exact exec_carveRow_done served (r := (1, .carve hdr cmd)) (by simp [carveRows]) done
  case fills =>
    have later := (State.carveDo_carve (w := carveWaitOf hdr cmd 1 k x) rfl free choice).trans (if_pos fill)
    have used (u : State) : Does 0x200000000000 u (u.unreplied k hdr) := State.modSession_does .self k _ (.refl u)
    exact ⟨_, exec_carveRow_later served (r := (1, .carve hdr cmd)) (by simp [carveRows]) later, (used _).same .extents rfl,
      congrArg (fun c : Carver => c.filling.isSome) ((used _).same .carver rfl), (used _).same .out rfl⟩
  case grants =>
    obtain ⟨d, done⟩ := State.carveDo_grant (w := carveWaitOf hdr cmd 2 k x) free rfl
    refine ⟨_, exec_carveRow_done served (r := (2, .grant hdr cmd)) (by simp [carveRows]) done, ?_⟩
    have granted := State.grantDo_does .self (carveWaitOf hdr cmd 2 k x).cmd (some (k, x.sid)) (.refl v)
    exact ⟨((reply _ _ _ _ _).same .extents rfl).trans (granted.same .extents rfl),
      ((reply _ _ _ _ _).same .mem rfl).trans (granted.same .mem rfl),
      ((reply _ _ _ _ _).same .maps rfl).trans ((State.entryEvent_does .self _ _ _ _ _ _ _ _ (.refl _)).same .maps rfl)⟩
  case widens =>
    obtain ⟨d, done⟩ := State.carveDo_rights (w := carveWaitOf hdr cmd 3 k x) free rfl
    refine ⟨_, exec_carveRow_done served (r := (3, .rights hdr cmd)) (by simp [carveRows]) done, ?_⟩
    have widened := State.rightsDo_widens (c := { cmd with opcode := 3 }) (some (k, x.sid)) at_ entry wider
    exact ⟨((reply _ _ _ _ _).same .drains rfl).trans (widened.same .drains rfl),
      ((reply _ _ _ _ _).same .maps rfl).trans (widened.same .maps rfl)⟩
  case narrows =>
    obtain ⟨d, done⟩ := State.carveDo_rights (w := carveWaitOf hdr cmd 3 k x) free rfl
    refine ⟨_, exec_carveRow_done served (r := (3, .rights hdr cmd)) (by simp [carveRows]) done, ?_⟩
    obtain ⟨u, left, narrowed⟩ := State.rightsDo_narrows (c := { cmd with opcode := 3 }) (some (k, x.sid)) at_ entry differ narrower
    have hosts : u.host cmd.host.toNat = v.host cmd.host.toNat := congrArg (fun h : SMap HostSt => h.getD cmd.host.toNat {}) (left.same .hosts rfl)
    have drains : u.drains = v.drains := left.same .drains rfl
    refine ⟨((reply _ _ _ _ _).same .drains rfl).trans ?_, ((reply _ _ _ _ _).same .maps rfl).trans ?_⟩
    · rw [← drains, ← hosts]
      exact congrArg State.drains narrowed
    · exact (congrArg State.maps narrowed).trans (left.same .maps rfl)
  case withdraws =>
    obtain ⟨d, done⟩ := State.carveDo_withdraw (w := carveWaitOf hdr cmd 4 k x) free rfl
    refine ⟨_, exec_carveRow_done served (r := (4, .withdraw hdr cmd)) (by simp [carveRows]) done, ?_⟩
    obtain ⟨extents, drains, maps⟩ := State.withdrawDo_drains (c := { cmd with opcode := 4 }) (some (k, x.sid)) at_ entry
    exact ⟨((reply _ _ _ _ _).same .extents rfl).trans extents, (congrArg List.length ((reply _ _ _ _ _).same .drains rfl)).trans drains,
      ((reply _ _ _ _ _).same .maps rfl).trans maps⟩
  case frees =>
    obtain ⟨d, done⟩ := State.carveDo_free (w := carveWaitOf hdr cmd 5 k x) free rfl
    refine ⟨_, exec_carveRow_done served (r := (5, .free hdr cmd)) (by simp [carveRows]) done, ?_⟩
    obtain ⟨extents, maps⟩ := State.uncarve_frees carved
    exact ⟨((reply _ _ _ _ _).same .extents rfl).trans extents, ((reply _ _ _ _ _).same .maps rfl).trans maps⟩
  case queries =>
    exact exec_carveRow_done served (r := (6, .query hdr cmd)) (by simp [carveRows]) (State.carveDo_query free rfl)

end Sys2Proof.Machine
end

section
/-! Withdrawals and narrowings to their end, operator keys, tenancy epochs and the resurfacing (R137–R143, R673–R675, R680–R685). -/
namespace Sys2Proof.Machine
open Sys2Proof

/-! ### Resurfacing (R684) -/

theorem State.jobGone_jobs (s : State) (j : Nat) : (s.jobGone j).jobs = s.jobs.erase j := by
  unfold State.jobGone
  extract_lets x t
  split
  · exact (State.jobDone_does .self _ _ _ (.refl t)).same .jobs rfl
  · rfl

/-- Once every job that is known has gone, none is left. -/
theorem State.foldl_jobGone_jobs : ∀ (l : List Nat) (s : State), (∀ e ∈ s.jobs, e.1 ∈ l) → (l.foldl State.jobGone s).jobs = []
  | [], s, all => List.eq_nil_iff_forall_not_mem.mpr fun e he => List.not_mem_nil (all e he)
  | j :: l, s, all => by
    refine State.foldl_jobGone_jobs l (s.jobGone j) fun e he => ?_
    rw [s.jobGone_jobs j, SMap.erase, List.mem_filter] at he
    obtain ⟨known, other⟩ := he
    exact (List.mem_cons.mp (all e known)).resolve_left (by simpa using other)

/-- The start of a resurfacing forgets maps, drains, gates, contexts, atomic lines and jobs, and the memory key is 0 (R684). -/
theorem State.resurfaceStart_clears (s : State) (fromDirty : Bool) (m : Medium) (t : State) (ht : s.resurfaceStart fromDirty m = t) :
    t.memKey = 0 ∧ t.maps = [] ∧ t.drains = [] ∧ t.gates = [] ∧ t.lcs = [] ∧ t.atom = [] ∧ t.jobs = [] := by
  have sessions (x : State) : Does 0xC00200000000490 x (x.endSessions (fun x => x.auth == .tenant)) := State.endSessions_does .self _ (.refl x)
  have lifts (x : State) : Does 0x656FC5BFEFFACE1E0 x (x.lift.queue.foldl (fun s j => s.liftDrop j 12 m) x) :=
    .foldl _ _ (fun _ j hk => State.liftDrop_does .self j 12 m hk) (.refl x)
  have maps (x : State) : Does 0x2100078000030E1E0 x x.dropMaps := State.dropMaps_does .self (.refl x)
  have jobs (l : List Nat) (x : State) : Does 0x2103458000000E1E0 x (l.foldl State.jobGone x) :=
    .foldl _ _ (fun _ j hk => State.jobGone_does .self j hk) (.refl x)
  have freed (l : List Nat) (x : State) : Does 0x40000C0000 x (l.foldl State.uncarve x) :=
    .foldl _ _ (fun _ e hk => State.uncarve_does .self e hk) (.refl x)
  have none_left (x : State) : ((x.jobs.map (·.1)).foldl State.jobGone x.dropMaps).jobs = [] := by
    refine State.foldl_jobGone_jobs _ _ fun e he => ?_
    rw [(maps x).same .jobs rfl] at he
    exact List.mem_map_of_mem he
  subst ht
  unfold State.resurfaceStart
  refine ⟨?_, ?_, ?_, rfl, rfl, rfl, ?_⟩
  · exact ((freed _ _).same .memKey rfl).trans (((jobs _ _).same .memKey rfl).trans (((maps _).same .memKey rfl).trans
      (((lifts _).same .memKey rfl).trans ((sessions _).same .memKey rfl))))
  · exact ((freed _ _).same .maps rfl).trans ((jobs _ _).same .maps rfl)
  · exact ((freed _ _).same .drains rfl).trans ((jobs _ _).same .drains rfl)
  · exact ((freed _ _).same .jobs rfl).trans (none_left _)

/-- What a resurfacing's end leads to before its record is made (R684). -/
def State.refilled (s : State) (poisoned : List (BitVec 38)) : State :=
  let t := poisoned.foldl (fun s l => s.hardData l.toNat false) s.fillAll
  (t.queues.map (·.1)).foldl (fun s q => s.queueInit q 0) t

theorem State.refilled_does (s : State) (poisoned : List (BitVec 38)) : Does 0x42DC40040100 s (s.refilled poisoned) :=
  .foldl _ _ (fun _ q hk => State.queueInit_does (by exact rfl) q 0 hk)
    (.foldl _ _ (fun _ (l : BitVec 38) hk => State.hardData_does (by exact rfl) l.toNat false hk)
      (State.fillAll_does (by exact rfl) (.refl s)))

/-- A key is enrolled in its slot; what then changes is not in the tenancy unit (R674). -/
theorem State.enrol_ten {s : State} {p : Path} {k : Fin 4} (u : BitVec 4) (heard : s.ignores p = false)
    (may : (s.pathUsage p).getLsbD 3 = true ∨ (s.ten.slots = [] ∧ (s.sessionAt p).isSome = true)) (good : badKey s.keyWinModulus = false)
    (other : s.ten.slots.any (fun e => e.1 != k.val && e.2.1 == s.keyWinModulus) = false)
    (tenant : s.epochOpen = true → s.ten.tenantKey ≠ some s.keyWinModulus) :
    (s.enrol p k u).ten = { s.ten with slots := s.ten.slots.set k.val (s.keyWinModulus, u), lastResult := 1 } := by
  have right : ¬(¬(s.pathUsage p).getLsbD 3 = true ∧ ¬(s.ten.slots.isEmpty = true ∧ (s.sessionAt p).isSome = true)) := by
    rintro ⟨no, first⟩
    exact may.elim no fun h => first ⟨by simp [h.1], h.2⟩
  have new : ¬(s.ten.slots.any (fun e => e.1 != k.val && e.2.1 == s.keyWinModulus) = true ∨
      s.epochOpen = true ∧ s.ten.tenantKey = some s.keyWinModulus) := by
    rintro (known | ⟨open_, held⟩)
    · exact ne_true_of_eq_false other known
    · exact tenant open_ held
  unfold State.enrol
  extract_lets m
  rw [if_neg (ne_true_of_eq_false heard), if_neg right, if_neg (ne_true_of_eq_false good), if_neg new]
  split
  · rfl
  · exact (State.slotChanged_does .self k (.refl _)).same .ten rfl

/-- Settles O19: each event's own branch; a resurfacing by what its start clears. -/
theorem withdrawalsKeysAndEpochsRun : Obligations.WithdrawalsKeysAndEpochsRun := by
  refine ⟨fun h e m d s drain goal phase no idle live => ?recalls, fun h e d s drain goal phase no own unreclaimed live => ?withdrawn,
    fun h e m d new s drain goal phase no idle live => ?snoops, fun h e d new s drain goal phase no own unreclaimed live => ?narrowed,
    fun p k u s heard may good other tenant => ?enrols, fun p k u s heard may bad => ?badKey, fun p k s heard may other => ?revokes,
    fun p c s heard free state ok => ?opens, fun p c s heard free state bad => ?refused, fun p m s heard state may => ?ends,
    fun p m s heard state => ?notOpen, fun p m s heard state free may => ?resurfaces, fun m s phase dir lines atom live => ?tenancy,
    fun l s state live => ?filled⟩
  case recalls =>
    refine ⟨_, congrArg Host.Outcome.next ?_, ?_, rfl⟩
    · rw [drain]
      exact if_pos ⟨by simp [goal], phase, by simp [no], by simp [idle], by simp [live]⟩
    · exact (State.cohEnd_does .self m (.refl _)).same .maps rfl
  case withdrawn =>
    refine ⟨_, rfl, ?_⟩
    rw [drain]
    dsimp only
    rw [if_pos]
    · have event (x : State) (status : Nat) : Does 0x2100078000000E1E0 x
        (x.entryEvent 3 status h.toNat d.poolBase.toNat e.toNat 0 d.session true) := State.entryEvent_does .self _ _ _ _ _ _ _ _ (.refl x)
      exact ⟨(event _ _).same .maps rfl, (event _ _).same .extents rfl, (event _ _).same .drains rfl⟩
    · simp [goal, phase, no, own, unreclaimed, live, -BitVec.ofNat_toNat]
  case snoops =>
    refine ⟨_, rfl, ?_⟩
    rw [drain]
    simp only [goal]
    rw [if_pos]
    · exact ⟨(State.cohEnd_does .self m (.refl _)).same .maps rfl, rfl⟩
    · simp [phase, no, idle, live]
  case narrowed =>
    refine ⟨_, rfl, ?_⟩
    rw [drain]
    simp only [goal]
    rw [if_pos]
    · have event (x : State) (status rights : Nat) : Does 0x2100078000000E1E0 x
        (x.entryEvent 4 status h.toNat d.poolBase.toNat e.toNat rights d.session true) := State.entryEvent_does .self _ _ _ _ _ _ _ _ (.refl x)
      exact ⟨(event _ _ _).same .extents rfl, (event _ _ _).same .maps rfl, (event _ _ _).same .drains rfl⟩
    · simp [phase, no, own, unreclaimed, live, -BitVec.ofNat_toNat]
  case enrols =>
    exact ⟨s.enrol p k u, rfl, State.enrol_ten u heard may good other tenant⟩
  case badKey =>
    refine congrArg Host.Outcome.next ((if_neg (ne_true_of_eq_false heard)).trans ((if_neg ?_).trans (if_pos bad)))
    exact fun no => no.1 may
  case revokes =>
    refine ⟨_, congrArg Host.Outcome.next ((if_neg (ne_true_of_eq_false heard)).trans ((if_neg (not_not_intro may)).trans
      (if_neg (not_not_intro other)))), ?_⟩
    exact (State.slotChanged_does .self k (.refl _)).same .ten rfl
  case opens =>
    have now : s.openEpoch p c = s.openNow c s.keyWinModulus := by
      refine (if_neg (ne_true_of_eq_false heard)).trans ((if_neg (ne_true_of_eq_false free)).trans ((if_neg state).trans ?_))
      unfold State.decideOpen
      rw [ok] <;> rfl
    exact ⟨_, congrArg Host.Outcome.next now, rfl, rfl, rfl, rfl, rfl, rfl⟩
  case refused =>
    refine congrArg Host.Outcome.next ((if_neg (ne_true_of_eq_false heard)).trans ((if_neg (ne_true_of_eq_false free)).trans
      ((if_neg state).trans ?_)))
    unfold State.decideOpen
    split
    · next ok => exact absurd ok bad
    · rfl
  case ends =>
    refine ⟨_, congrArg Host.Outcome.next ((if_neg (ne_true_of_eq_false heard)).trans ((if_neg (not_not_intro state)).trans
      (if_neg ?_))), rfl, rfl, rfl, fun host base e at_ => ?_⟩
    · rintro ⟨a, b⟩
      exact may.elim a b
    · rw [State.mapOf, SMap.getD, SMap.get?_mapVals] at at_
      cases maps : s.maps.get? host with
      | none => simp [maps] at at_
      | some x =>
        rw [maps, Option.map_some, Option.getD_some, SMap.get?_mapVals] at at_
        obtain ⟨e', _, rfl⟩ := Option.map_eq_some_iff.mp at_
        rfl
  case notOpen =>
    exact congrArg Host.Outcome.next ((if_neg (ne_true_of_eq_false heard)).trans (if_pos state))
  case resurfaces =>
    refine ⟨_, congrArg Host.Outcome.next ((if_neg (ne_true_of_eq_false heard)).trans ((if_neg ?_).trans
      (if_neg (not_not_intro may)))), State.resurfaceStart_clears _ _ m _ rfl⟩
    rcases state with state | state <;> simp [state, free]
  case tenancy =>
    refine ⟨_, congrArg Host.Outcome.next (if_pos ⟨phase, ?_, ?_, ?_, ?_⟩), State.resurfaceStart_clears _ _ m _ rfl⟩
    · simp [dir]
    · simp [lines]
    · simp [atom]
    · simp [live]
  case filled =>
    refine ⟨_, congrArg Host.Outcome.next (if_pos ⟨state, ne_true_of_eq_false live⟩), ?_⟩
    exact ⟨rfl, rfl, (s.refilled_does l).same .jobs rfl, rfl, rfl, (congrArg Ten.epoch ((s.refilled_does l).same .ten rfl) :)⟩

end Sys2Proof.Machine
end

section
/-! Coherent requests (R111, R119, R176, R184, R186, R216, R370, R654, R797, R809): each check that refuses one, and the request that passes
them all. -/
namespace Sys2Proof.Machine
open Sys2Proof

/-- A home in partial reset answers for retry (R797). -/
theorem State.homeRequest_resetting {s : State} {h : BitVec 10} {q : CohMsg} {dpa : Nat} {w : Bool}
    (checks : s.ingress h.toNat (q.addr.toNat * 64) (needOf q) (trackAccepts q.op) = (.ok, dpa, w))
    (resetting : s.hubResetting (s.homeHub (dpa / 64)) = true) (m : Medium) :
    s.homeRequest h q m = s.nackRetry h q.tag 15 true := by
  unfold State.homeRequest
  rw [checks]
  exact if_pos resetting

/-- A home without room for the line answers for retry and counts it (R184, R186). -/
theorem State.homeRequest_full {s : State} {h : BitVec 10} {q : CohMsg} {dpa : Nat} {w : Bool}
    (checks : s.ingress h.toNat (q.addr.toNat * 64) (needOf q) (trackAccepts q.op) = (.ok, dpa, w))
    (ready : s.hubResetting (s.homeHub (dpa / 64)) = false) (full : s.lineRoom (dpa / 64) = false) (m : Medium) :
    s.homeRequest h q m =
      (s.freeBackoff.2.bump (s.homeHub (dpa / 64)) 4 0x80 0 1).nackRetry h q.tag s.freeBackoff.1 false := by
  unfold State.homeRequest
  rw [checks]
  exact (if_neg (ne_true_of_eq_false ready)).trans (if_pos (ne_true_of_eq_false full))

section
variable {s : State} {h : BitVec 10} {q : CohMsg} (hears : s.hears h = true) (live : s.fatal = false)
include hears live

theorem State.cohRequest_throttled (throttled : s.throttles h.toNat = true) (m : Medium) :
    s.cohRequest h q m = s.nackRetry h q.tag 4 true :=
  (if_neg (not_not_intro hears)).trans ((if_neg (ne_true_of_eq_false live)).trans (if_pos throttled))

variable (passes : s.throttles h.toNat = false)
include passes

theorem State.cohRequest_red (red : (s.meterArrive h.toNat 64).1 = .red) (m : Medium) :
    s.cohRequest h q m = (s.meterArrive h.toNat 64).2.nackRetry h q.tag ((s.meterArrive h.toNat 64).2.redBackoff h.toNat 64) true := by
  refine (if_neg (not_not_intro hears)).trans ((if_neg (ne_true_of_eq_false live)).trans ((if_neg (ne_true_of_eq_false passes)).trans ?_))
  rcases metered : s.meterArrive h.toNat 64 with ⟨colour, u⟩
  rw [metered] at red
  obtain rfl : colour = .red := red
  rfl

theorem State.cohRequest_held (colour : (s.meterArrive h.toNat 64).1 ≠ .red)
    (held : (s.meterArrive h.toNat 64).2.heldRequest h q = true) (m : Medium) :
    s.cohRequest h q m = (s.meterArrive h.toNat 64).2.hold 8 (.coh h q) := by
  refine (if_neg (not_not_intro hears)).trans ((if_neg (ne_true_of_eq_false live)).trans ((if_neg (ne_true_of_eq_false passes)).trans ?_))
  rcases metered : s.meterArrive h.toNat 64 with ⟨c, u⟩
  rw [metered] at colour held
  split
  · next red => cases red; exact absurd rfl colour
  · next other => cases other; exact if_pos held

end

/-- Settles O20: the checks in the order in which the request meets them. -/
theorem coherentRequestsAreTakenOrRefused : Obligations.CoherentRequestsAreTakenOrRefused := by
  intro h tag addr at_ d m s r hr
  obtain ⟨rfl, rfl, run⟩ := exec_requestRow hr
  simp only [run]
  refine ⟨fun hears fatal => ?fatal, fun hears live throttled => ?throttled, fun hears live passes red => ?red,
    fun u hears live passes metered colour held => ?held, fun u taken => ?taken⟩
  case fatal =>
    exact congrArg Host.Outcome.next ((if_neg (not_not_intro hears)).trans (if_pos fatal))
  case throttled =>
    exact congrArg Host.Outcome.next (State.cohRequest_throttled hears live throttled m)
  case red =>
    exact congrArg Host.Outcome.next (State.cohRequest_red hears live passes red m)
  case held =>
    subst metered
    exact congrArg Host.Outcome.next (State.cohRequest_held hears live passes colour held m)
  case taken =>
    simp only [taken.cohRequest_eq]
    refine ⟨fun st dpa w checks bad => ?refused, fun dpa w checks resetting => ?resetting, fun dpa w checks ready full => ?full,
      fun dpa w checks ready room => ?enters⟩
    case refused => rw [State.homeRequest_refused bad checks]
    case resetting => rw [State.homeRequest_resetting checks resetting]
    case full => rw [State.homeRequest_full checks ready full]
    case enters => rw [State.homeRequest_taken checks ready room]

end Sys2Proof.Machine
end

section
/-! Write-backs, evictions and answers to snoops (R119, R160, R168, R170, R171, R184, R202–R205, R809, R810). -/
namespace Sys2Proof.Machine
open Sys2Proof

/-! ### Write-backs and evictions at the home of their line -/

section
variable {s : State} {h : BitVec 10} {q : CohMsg} {e : MapEntry} {l : Nat}
  (entry : (s.mapOf h.toNat).get? (q.addr.toNat * 64 / 2 ^ 28) = some e)
  (line : l = (e.extent.toNat * 2 ^ 28 + q.addr.toNat * 64 % 2 ^ 28) / 64) (tracked : s.track (s.classOf e.extent.toNat) = 2)
  (ready : s.hubResetting (s.homeHub l) = false)
include entry line tracked ready

/-- A write-back or eviction of a mapped line that is tracked in full is served at its home, once that is not in partial reset (R119, R797). -/
theorem State.ownRelease_served (op : q.op = .wbM ∨ q.op = .evc) (m : Medium) :
    s.ownRelease h q m = if q.op = .wbM then s.wbmAt l h q m else s.evcAt l h q m := by
  subst line
  unfold State.ownRelease
  extract_lets addr
  split
  · next unmapped => cases entry.symm.trans unmapped
  · next e' mapped =>
    obtain rfl : e = e' := Option.some.inj (entry.symm.trans mapped)
    refine (if_neg (not_not_intro ?_)).trans ((if_neg (not_not_intro tracked)).trans (if_neg (ne_true_of_eq_false ready)))
    rw [tracked]
    rcases op with op | op <;> rw [op] <;> rfl

end

/-- A write-back of a line without an open transaction is performed at once (R168, R204). -/
theorem State.wbmAt_idle {s : State} {l : Nat} (idle : s.tx l = none) (h : BitVec 10) (q : CohMsg) (m : Medium) :
    s.wbmAt l h q m = s.wbmNow (s.homeHub l) l h q m := by
  unfold State.wbmAt
  simp only [idle]

/-- An eviction of a line without an open transaction: the owner is owner no more, or the sharer loses its place (R203, R204). -/
theorem State.evcAt_idle {s : State} {l k : Nat} {x : DirEntry} (idle : s.tx l = none)
    (known : s.dirFind (s.homeHub l) l = some (k, x)) (h : BitVec 10) (q : CohMsg) (m : Medium) :
    s.evcAt l h q m = ((if x.dstate = .e then s.ownerGone (s.homeHub l) l h.toNat else s.sharerGone (s.homeHub l) l h.toNat).reply h q.tag
      .ack .i .ok none).afterOwn (s.homeHub l) l h m := by
  unfold State.evcAt
  simp only [idle, known] <;> rfl

/-! ### Answers to snoops -/

/-- The rows of the answers to snoops all do what the arrival of their messages does; none of them forwards data. -/
theorem exec_answerRow {h : BitVec 10} {htag : BitVec 13} {st : Moesi} {p : Bool} {d : Line} {m : Medium} {r : CohMsg × Instr}
    (hr : r ∈ answerRows h htag st p d m) :
    r.1.htag = htag ∧ r.1.op ≠ .fwdData ∧ ∀ s, exec r.2 s = .next (s.cohAnswerIn h r.1 m) := by
  simp only [answerRows, List.mem_cons, List.not_mem_nil, or_false] at hr
  rcases hr with rfl | rfl | rfl <;> exact ⟨rfl, nofun, fun _ => rfl⟩

/-- The home that an answer to an outstanding snoop concerns is the one of the snoop's line. -/
theorem State.answerHub_of_snoop {s : State} {h : BitVec 10} {q : CohMsg} {l hub : Nat} {t : Tx} {x : Snoop}
    (found : s.findSnoop h q.htag = some (l, hub, t, x)) : s.answerHub h q = some hub := by
  unfold State.answerHub
  rw [found]

theorem State.cohAnswer_of_snoop {s : State} {h : BitVec 10} {q : CohMsg} {l hub : Nat} {t : Tx} {x : Snoop} (op : q.op ≠ .fwdData)
    (found : s.findSnoop h q.htag = some (l, hub, t, x)) (ready : s.hubResetting hub = false) (m : Medium) :
    s.cohAnswer h q m = s.answerAt l hub t x q m := by
  unfold State.cohAnswer
  simp only [State.answerHub_of_snoop found, ready, if_neg op, found] <;> rfl

/-- Settles O22: the map entry leads to the line's home, whose state decides; an answer goes to the transaction that its tag names. -/
theorem writeBacksAndAnswersAreServed : Obligations.WriteBacksAndAnswersAreServed := by
  refine ⟨fun h tag addr e l m s hears live entry line tracked ready idle => ?own, fun h htag st p d m s hears live r hr => ?answers,
    fun h htag p d m hub s hears live home ready => ?forwards, fun l m s awake live ready room => ?opens,
    fun l m t s open_ wait live => ?orphan, fun hub set s => rfl⟩
  case own =>
    have arrives {x y : State} : x = (if ¬s.hears h = true then s else if s.fatal = true then y else x) :=
      ((if_neg (not_not_intro hears)).trans (if_neg (ne_true_of_eq_false live))).symm
    have wbm (p : Bool) (d : Line) : exec (.wbm h tag addr p d m) s = .next
        ((s.wbmNow (s.homeHub l) l h { op := .wbM, tag := tag, addr := addr, poison := p, data := some d } m).cohEnd m) := by
      refine congrArg Host.Outcome.next (arrives.symm.trans ?_)
      rw [State.ownRelease_served (q := { op := .wbM, tag := tag, addr := addr, poison := p, data := some d }) entry line tracked ready
        (.inl rfl), if_pos rfl, State.wbmAt_idle idle]
    have evc {k : Nat} {x : DirEntry} (known : s.dirFind (s.homeHub l) l = some (k, x)) : exec (.evc h tag addr m) s = .next
        ((((if x.dstate = .e then s.ownerGone (s.homeHub l) l h.toNat else s.sharerGone (s.homeHub l) l h.toNat).reply h tag
          .ack .i .ok none).afterOwn (s.homeHub l) l h m).cohEnd m) := by
      refine congrArg Host.Outcome.next (arrives.symm.trans ?_)
      rw [State.ownRelease_served (q := { op := .evc, tag := tag, addr := addr }) entry line tracked ready (.inr rfl), if_neg nofun,
        State.evcAt_idle idle known]
    refine ⟨fun d owner => ?_, fun d owner => ?_, fun p d other => ?_, fun k x known exclusive => ?_, fun k x known shared => ?_⟩
    · rw [wbm, State.wbmNow, if_pos owner] <;> rfl
    · rw [wbm, State.wbmNow, if_pos owner] <;> rfl
    · rw [wbm, State.wbmNow, if_neg (ne_true_of_eq_false other)]
    · rw [evc known, if_pos exclusive]
    · rw [evc known, if_neg shared]
  case answers =>
    obtain ⟨tag, op, run⟩ := exec_answerRow hr
    have heard : s.cohAnswerIn h r.1 m = (s.cohAnswer h r.1 m).cohEnd m := if_pos ⟨hears, ne_true_of_eq_false live⟩
    refine ⟨fun l hub t x found ready => ?_, fun unknown => ?_⟩
    · rw [run, heard, State.cohAnswer_of_snoop op (tag ▸ found) ready]
    · rw [run, heard, State.cohAnswer, unknown]
  case forwards =>
    refine congrArg Host.Outcome.next ((if_pos ⟨hears, ne_true_of_eq_false live⟩).trans ?_)
    rw [State.cohAnswer, home]
    dsimp only
    rw [if_neg (ne_true_of_eq_false ready), if_pos rfl]
  case opens =>
    exact congrArg Host.Outcome.next (if_pos ⟨awake, ne_true_of_eq_false live, ne_true_of_eq_false ready, room⟩)
  case orphan =>
    refine congrArg Host.Outcome.next ?_
    rw [open_]
    exact if_pos ⟨wait, ne_true_of_eq_false live⟩

end Sys2Proof.Machine
end

section
/-! Bulk requests (R263, R264, R369, R370, R809), and sequenced cells at a port that receives (R230, R233–R236, R265–R275). -/
namespace Sys2Proof.Machine
open Sys2Proof

/-- Settles O24: the checks of a bulk request in their order, and what its packets leave. -/
theorem bulkRequestsArePerformed : Obligations.BulkRequestsArePerformed := by
  refine ⟨fun h tag a n media s hears live low high passes colour unheld => ?reads, fun h tag a n media s hears live bad => ?illegal,
    fun h tag a n o d media s hears live low high passes colour first => ?writes,
    fun h tag a n o d media x s hears later known more => ?keeps⟩
  case reads =>
    refine congrArg Host.Outcome.next ((if_neg (not_not_intro hears)).trans ((if_neg (ne_true_of_eq_false live)).trans
      ((if_neg (by omega)).trans ((if_neg (ne_true_of_eq_false passes)).trans ?_))))
    rcases metered : s.meterArrive h.toNat n.toNat with ⟨c, u⟩
    rw [metered] at colour unheld
    cases c
    case red => exact absurd rfl colour
    all_goals exact if_neg (ne_true_of_eq_false unheld)
  case illegal =>
    exact congrArg Host.Outcome.next ((if_neg (not_not_intro hears)).trans ((if_neg (ne_true_of_eq_false live)).trans
      (if_pos (by omega))))
  case writes =>
    refine congrArg Host.Outcome.next ((if_neg (not_not_intro hears)).trans ((if_neg (not_not_intro first)).trans
      ((if_neg (ne_true_of_eq_false live)).trans ((if_neg (by omega)).trans ?_))))
    rw [if_neg (ne_true_of_eq_false passes)]
    rcases metered : s.meterArrive h.toNat n.toNat with ⟨c, u⟩
    rw [metered] at colour
    cases c
    case red => exact absurd rfl colour
    all_goals rfl
  case keeps =>
    refine congrArg Host.Outcome.next ((if_neg (not_not_intro hears)).trans ((if_pos (ne_true_of_eq_false later)).trans ?_))
    rw [SMap.getD, known]
    exact if_pos more

/-! ### Sequenced cells -/

/-- A port that receives does so still once its receive direction has followed a codeword (R248). -/
theorem State.receiving_followWidth {s : State} {p : Nat} (w : BitVec 2) (receives : s.receiving p = true) :
    (s.followWidth p w).receiving p = true := by
  obtain ⟨_, _, hp⟩ := s.followWidth_port p w
  unfold State.receiving at receives ⊢
  rwa [hp]

section
variable {s : State} {p : Nat} {env : Envelope} (receives : s.receiving p = true)
include receives

theorem State.sequenced_reserved (reserved : env.reserved = true) (k : State → State) :
    s.sequenced p env k = (s.followWidth p env.width).protoErr p := by
  unfold State.sequenced
  rw [if_neg (by simp [State.hearsCells, receives])]
  exact if_pos reserved

/-- A cell without reserved fields is taken as its sequence number says (R233). -/
theorem State.sequenced_plain (plain : env.reserved = false) (k : State → State) :
    s.sequenced p env k = match (s.port p).classify env.seq env.rpl with
      | .discard => s.followWidth p env.width
      | .loss => (s.followWidth p env.width).lossEvent p
      | .accept => (k ((s.followWidth p env.width).cellTaken p env)).ackAt128 p := by
  obtain ⟨lanes, next, port⟩ := s.followWidth_port p env.width
  have same : ((s.followWidth p env.width).port p).classify env.seq env.rpl = (s.port p).classify env.seq env.rpl := by
    rw [port] <;> rfl
  unfold State.sequenced
  rw [if_neg (by simp [State.hearsCells, receives])]
  refine (if_neg (ne_true_of_eq_false plain)).trans ((if_neg (not_not_intro (State.receiving_followWidth env.width receives))).trans ?_)
  rw [same] <;> rfl

end

/-- In credit mode a cell spends one of its sender's credits (R272). -/
theorem State.takeCredit_spends {s : State} {p v : Nat} (mode : (s.port p).windowMode = false)
    (credit : (s.port p).peerCredits.getD v 0 ≠ 0) :
    s.takeCredit p v = some (s.modPort p (fun q => { q with peerCredits := q.peerCredits.mod v 0 (· - 1) })) :=
  (if_neg (ne_true_of_eq_false mode)).trans (if_neg credit)

/-- A packet that lacks body cells still stays open (R267). -/
theorem State.finishPartial_open {s : State} {p v : Nat} {a : Partial} (open_ : (s.port p).assembling.get? v = some a)
    (more : a.bodies.length ≠ a.head.len.toNat) : s.finishPartial p v = s := by
  unfold State.finishPartial
  rw [open_]
  exact if_neg (fun h => more h.2)

/-- What becomes of a port depends on the port alone. -/
theorem State.modPort_congr {s : State} {p : Nat} {f g : ZlPort → ZlPort} (h : f (s.port p) = g (s.port p)) :
    s.modPort p f = s.modPort p g := by
  unfold State.modPort SMap.mod
  exact congrArg (fun x => { s with zl := s.zl.set p x }) h

/-- Settles O25: a sequenced cell by its number, and each fabric-layer operation by its own branch. -/
theorem sequencedCellsAreTakenInOrder : Obligations.SequencedCellsAreTakenInOrder := by
  refine ⟨fun p env b d n i s u receives follows c hc => ?sequence, fun p env b d n i s u receives follows plain accepted => ?accepts,
    fun p w s none_ => ?still, fun p w m s next => ?follows, fun p v b u vc mode credit empty low high lvc => ?head,
    fun p v d a u vc mode credit open_ kept more => ?body, fun p v n i u vc mode => ?credits, fun p v n i u vc => if_pos vc,
    fun p env s receives plain unsequenced => ?null, fun p s hears => ?reservedKind⟩
  case sequence =>
    subst follows
    have run : ∃ k, ∀ t, exec c t = .next (t.sequenced p env k) := by
      simp only [List.mem_cons, List.not_mem_nil, or_false] at hc
      rcases hc with rfl | rfl | rfl <;> exact ⟨_, fun _ => rfl⟩
    obtain ⟨k, run⟩ := run
    refine ⟨fun reserved => ?_, fun plain discarded => ?_, fun plain lost => ?_⟩
    · rw [run, State.sequenced_reserved receives reserved]
    · rw [run, State.sequenced_plain receives plain, discarded]
    · rw [run, State.sequenced_plain receives plain, lost]
  case accepts =>
    subst follows
    have taken (k : State → State) : s.sequenced p env k = (k ((s.followWidth p env.width).cellTaken p env)).ackAt128 p := by
      rw [State.sequenced_plain receives plain, accepted]
    exact ⟨congrArg Host.Outcome.next (taken _), congrArg Host.Outcome.next (taken _), congrArg Host.Outcome.next (taken _)⟩
  case still =>
    rw [State.followWidth, none_]
  case follows =>
    rw [State.followWidth, next]
  case head =>
    unfold State.fabricHead
    rw [if_neg (not_le.mpr vc), State.takeCredit_spends mode credit]
    simp only [State.port_modPort, empty, Bool.false_eq_true, if_false]
    rw [if_neg (by omega), State.finishPartial_open (a := { head := b })]
    · rw [State.port_modPort, State.port_modPort]
    · rw [State.port_modPort, SMap.get?_set_self]
    · exact (Nat.ne_of_lt low :)
  case body =>
    unfold State.fabricBody
    rw [if_neg (not_le.mpr vc), State.takeCredit_spends mode credit]
    simp only [State.port_modPort, open_, kept, Bool.false_eq_true, if_false]
    rw [State.finishPartial_open (a := { a with bodies := a.bodies ++ [d] })]
    · rw [State.port_modPort, State.port_modPort]
    · rw [State.port_modPort, SMap.get?_set_self, kept]
    · simpa using more
  case credits =>
    unfold State.takeCreditCell State.addCredits
    simp only [if_neg (not_le.mpr vc), mode, Bool.false_eq_true, not_false_eq_true, if_true, decide_eq_true_eq]
    exact congrArg (State.drainPort · p) (State.modPort_congr rfl)
  case null =>
    refine congrArg Host.Outcome.next ((if_neg (by simp [State.hearsCells, receives])).trans (if_neg ?_))
    simp [plain, unsequenced]
  case reservedKind =>
    exact ⟨_, congrArg Host.Outcome.next (if_pos hears), s.port_modPort _ _, rfl⟩

end Sys2Proof.Machine
end

section
/-! Cells as sent, and the acknowledgement and replay of a link (R224, R226, R229, R234–R240). -/
namespace Sys2Proof
open Sys2Proof.Machine

/-! ### The wire form of a cell (R226, R229) -/

theorem leBytes_length : ∀ n v, (leBytes n v).length = n
  | 0, _ => rfl
  | n + 1, v => congrArg (· + 1) (leBytes_length n (v / 256))

theorem leNat_leBytes : ∀ n v, leNat (leBytes n v) = v % 256 ^ n
  | 0, v => (Nat.mod_one v).symm
  | n + 1, v => by
    rw [leBytes, leNat, leNat_leBytes n, BitVec.toNat_ofNat, pow_succ' 256 n, Nat.mod_mul]

theorem CellBody.bytes_length (b : CellBody) : b.bytes.length = 32 := by
  cases b <;> simp [CellBody.bytes, Packet.head, leBytes_length]

theorem Cell.body_length (c : Cell) : c.body.length = 32 := by
  cases c <;> simp [Cell.body, CellBody.bytes_length, leBytes_length]

theorem Cell.front_length (c : Cell) : c.front.length = 36 := by
  simp [Cell.front, Cell.body_length, leBytes_length]

theorem Cell.wire_length (c : Cell) : c.wire.length = 40 := by
  simp [Cell.wire, Cell.front_length, leBytes_length]

theorem Cell.wire_take (c : Cell) : c.wire.take 36 = c.front := List.take_left' c.front_length

theorem Cell.wire_drop (c : Cell) : c.wire.drop 36 = leBytes 4 (crc32c c.front).toNat := List.drop_left' c.front_length

theorem Cell.wire_passes (c : Cell) : crcPasses c.wire = true := by
  simpa [crcPasses, c.wire_length, c.wire_take, c.wire_drop, leNat_leBytes] using (crc32c c.front).isLt

end Sys2Proof

namespace Sys2Proof.Machine
open Sys2Proof

/-! ### Cells that a port sends -/

theorem State.sendCell_live {s : State} (live : s.sys.portsStopped = false) (p : Nat) (c : Cell) :
    s.sendCell p c = { s with out := s.out ++ [s.cellOn p c] } := if_neg (ne_true_of_eq_false live)

/-- A change of a port that leaves its transmit lanes leaves the form of its cells. -/
theorem State.cellOn_modPort {s : State} {p : Nat} {f : ZlPort → ZlPort} (lanes : (f (s.port p)).txMask = (s.port p).txMask) (c : Cell) :
    (s.modPort p f).cellOn p c = s.cellOn p c := by
  unfold State.cellOn
  rw [State.port_modPort, lanes]

/-- The port changes, and a cell goes out. -/
theorem State.modPort_sendCell {s : State} (live : s.sys.portsStopped = false) {p : Nat} {f : ZlPort → ZlPort}
    (lanes : (f (s.port p)).txMask = (s.port p).txMask) (c : Cell) :
    ((s.modPort p f).sendCell p c).port p = f (s.port p) ∧ ((s.modPort p f).sendCell p c).out = s.out ++ [s.cellOn p c] := by
  rw [State.sendCell_live (s := s.modPort p f) live, State.cellOn_modPort lanes]
  exact ⟨s.port_modPort p f, rfl⟩

/-- A loss event outside NAK-pending enters it and names the number expected (R234). -/
theorem State.lossEvent_first {s : State} {p : Nat} (first : (s.port p).nakPending = false) (live : s.sys.portsStopped = false) :
    (s.lossEvent p).port p = { s.port p with nakPending := true } ∧
      (s.lossEvent p).out = s.out ++ [s.cellOn p (.nak (s.port p).eseq)] := by
  rw [State.lossEvent, if_neg (ne_true_of_eq_false first)]
  exact State.modPort_sendCell (f := fun q => { q with nakPending := true }) live rfl _

/-- A negative acknowledgement in range, outside a grant (R237, R238, R251). -/
theorem State.nakIn_replays {s u : State} {p d : Nat} {n : BitVec 12} (free : (s.port p).granted = none)
    (range : (s.port p).span n = some d)
    (after : u = (((s.modPort p (fun q => { q with
        replay := q.replay.drop d, nakRepeats := if q.nakSeq = some n then q.nakRepeats + 1 else 1,
        nakSeq := some n })).replayAll p).drainPort p)) :
    s.nakIn p n = if 8 ≤ (u.port p).nakRepeats then u.wantRetrain p else u := by
  rw [after]
  refine (if_neg (by simp [free])).trans ?_
  rw [range]

theorem State.nakIn_outOfRange {s : State} {p : Nat} {n : BitVec 12} (free : (s.port p).granted = none) (range : (s.port p).span n = none) :
    s.nakIn p n = s.protoErr p := by
  refine (if_neg (by simp [free])).trans ?_
  rw [range]

/-- Settles O26: the wire form by its parts; each event by its own branch. -/
theorem linksAcknowledgeAndReplay : Obligations.LinksAcknowledgeAndReplay := by
  refine ⟨fun c => ⟨c.wire_length, c.wire_passes, by rw [c.wire_take, c.wire_drop]⟩, fun p s receives first live => ?codeword,
    fun p s handshake => ?codewordInHandshake, fun p s receives first live => ?crc, fun p s receives pending => ?crcAgain,
    fun p env a l k id s receives plain unsequenced => ?acknowledges, fun p a s range => ?ackOutOfRange,
    fun p d a s range none_ => ?ackFrees, fun p env n d s u receives plain unsequenced free range after => ?nak,
    fun p env n s receives plain unsequenced free range => ?nakOutOfRange, fun p s receives pending live => ?resends,
    fun p s receives owed live => ?timer, fun p s receives live => ?keepalive⟩
  case codeword =>
    refine ⟨_, congrArg Host.Outcome.next ((if_pos (by simp [State.hearsCells, receives])).trans (if_pos ?_)), ?_⟩
    · unfold State.receiving at receives ⊢
      rwa [State.port_modPort]
    · obtain ⟨port, out⟩ := State.lossEvent_first (s := s.modPort p (fun q => { q with uncorr := satAdd q.uncorr 1 })) (p := p)
        (by rw [State.port_modPort]; exact first) live
      rw [port, out, State.port_modPort, State.cellOn_modPort (f := fun q => { q with uncorr := satAdd q.uncorr 1 }) rfl]
      exact ⟨rfl, rfl⟩
  case codewordInHandshake =>
    refine congrArg Host.Outcome.next ((if_pos (by simp [State.hearsCells, handshake])).trans (if_neg ?_))
    rw [State.receiving, State.port_modPort]
    simp [handshake]
  case crc =>
    exact ⟨_, congrArg Host.Outcome.next (if_pos receives), State.lossEvent_first first live⟩
  case crcAgain =>
    exact congrArg Host.Outcome.next ((if_pos receives).trans (if_pos pending))
  case acknowledges =>
    exact ⟨congrArg Host.Outcome.next (State.control_receiving receives plain unsequenced _),
      congrArg Host.Outcome.next (State.control_receiving receives plain unsequenced _)⟩
  case ackOutOfRange =>
    rw [State.ackUpTo, range]
  case ackFrees =>
    rw [State.ackUpTo, range]
    refine congrArg (State.drainPort · p) (State.modPort_congr ?_)
    simp [none_]
  case nak =>
    obtain ⟨lanes, next, port⟩ := s.followWidth_port p env.width
    have taken := State.control_receiving receives plain unsequenced (fun s => s.nakIn p n)
    have replays := State.nakIn_replays (by rw [port]; exact free) (by rw [port]; exact range) after
    exact congrArg Host.Outcome.next (taken.trans replays)
  case nakOutOfRange =>
    obtain ⟨lanes, next, port⟩ := s.followWidth_port p env.width
    have taken := State.control_receiving receives plain unsequenced (fun s => s.nakIn p n)
    have counted : (s.followWidth p env.width).nakIn p n = _ :=
      State.nakIn_outOfRange (by rw [port]; exact free) (by rw [port]; exact range)
    exact congrArg Host.Outcome.next (taken.trans counted)
  case resends =>
    exact congrArg Host.Outcome.next ((if_pos ⟨receives, pending⟩).trans (State.sendCell_live live _ _))
  case timer =>
    exact ⟨_, congrArg Host.Outcome.next (if_pos ⟨receives, owed⟩),
      State.modPort_sendCell (f := fun q => { q with unacked := 0, ackDue := false }) live rfl _⟩
  case keepalive =>
    exact ⟨_, congrArg Host.Outcome.next (if_pos receives),
      State.modPort_sendCell (f := fun q => { q with unacked := 0, ackDue := false }) live rfl _⟩

end Sys2Proof.Machine
end

section
/-! The Ethernet ports (R302–R310, R339, R341, R343): frames that arrive and go out, addresses, and priority flow control. -/
namespace Sys2Proof.Machine
open Sys2Proof

/-! ### Frames that arrive -/

section
variable {s : State} {e : Bool} {f : EthFrame}

theorem State.frameOk_damaged (damaged : f.damaged = true) :
    s.frameOk e f = (false, s.modEth e (fun p => { p with fcs := satAdd p.fcs 1 })) := if_pos damaged

theorem State.frameOk_refused (whole : f.damaged = false) (refused : f.accepted = false) :
    s.frameOk e f = (false, s.modEth e (fun p => { p with dropped := satAdd p.dropped 1 })) :=
  (if_neg (ne_true_of_eq_false whole)).trans (if_pos (ne_true_of_eq_false refused))

theorem State.frameOk_accepted (whole : f.damaged = false) (accepted : f.accepted = true) : s.frameOk e f = (true, s) :=
  (if_neg (ne_true_of_eq_false whole)).trans (if_neg (not_not_intro accepted))

theorem State.frameIn_discards {t : State} (bad : s.frameOk e f = (false, t)) : s.frameIn e f = (false, t) := by
  rw [State.frameIn, bad]

variable (up : s.ethUp e = true)
include up

theorem State.withFrame_discards {t : State} (bad : s.frameIn e f = (false, t)) (k : State → State) : s.withFrame e f k = t := by
  rw [State.withFrame, if_neg (not_not_intro up), bad]

theorem State.withControl_discards {t : State} (bad : s.frameOk e f = (false, t)) (k : State → State) : s.withControl e f k = t := by
  rw [State.withControl, if_neg (not_not_intro up), bad]

/-- A frame that is accepted and finds room does what its kind does (R304, R306, R309). -/
theorem State.withFrame_accepted (whole : f.damaged = false) (accepted : f.accepted = true) (room : s.noRoom e f = false)
    (k : State → State) : s.withFrame e f k = k s := by
  rw [State.withFrame, if_neg (not_not_intro up), State.frameIn, State.frameOk_accepted whole accepted]
  dsimp only
  rw [if_neg (ne_true_of_eq_false room)]

theorem State.sendFrame_emits {g : TxFrame} (flows : s.classPaused e g.cls.toNat = false) (m : EthMsg) :
    s.sendFrame e g m = { s with out := s.out ++ [.eth (b2n e) g m] } :=
  (if_neg (not_not_intro up)).trans (if_neg (ne_true_of_eq_false flows))

end

/-! ### What sending leaves of a port -/

/-- Sending a frame changes of its port at most what waits to be sent. -/
theorem State.sendFrame_port (s : State) (e : Bool) (f : TxFrame) (m : EthMsg) :
    ∃ w, (s.sendFrame e f m).ethPort e = { s.ethPort e with txWait := w } := by
  unfold State.sendFrame
  split
  · exact ⟨_, rfl⟩
  · split
    · exact ⟨_, s.ethPort_modEth e _⟩
    · exact ⟨_, rfl⟩

theorem State.dhcpStart_port (s : State) (e : Bool) : ∃ w, (s.dhcpStart e).ethPort e = { s.ethPort e with txWait := w } := by
  unfold State.dhcpStart
  split
  · exact ⟨_, rfl⟩
  · exact s.sendFrame_port e _ _

/-- Frames of a class that go on change of their port at most what waits. -/
theorem State.classGo_port (s : State) (e : Bool) (t : Nat) : ∃ w, (s.classGo e t).ethPort e = { s.ethPort e with txWait := w } := by
  unfold State.classGo
  extract_lets l begun
  refine List.foldlRecOn (motive := fun x : State => ∃ w, x.ethPort e = { s.ethPort e with txWait := w }) _ _ ⟨_, s.ethPort_modEth e _⟩ ?_
  rintro x ⟨w, hx⟩ y -
  obtain ⟨w', hy⟩ := x.sendFrame_port e y.1 y.2
  exact ⟨w', by rw [hy, hx]⟩

theorem Does.ethPort_eq {W : Nat} {s t : State} (h : Does W s t) (hW : W.testBit Field.eth.ctorIdx = false) (e : Bool) :
    t.ethPort e = s.ethPort e := congrArg (fun eth : SMap EthPort => eth.getD (b2n e) {}) (h.same .eth hW)

theorem State.ethPort_waitEnd (s : State) (e : Bool) (h : Nat) (u : TUnit) (p : OpenWait → Bool) (by_ : Option (BitVec 16)) :
    (s.waitEnd h u p by_).ethPort e = s.ethPort e := (State.waitEnd_does .self h u p by_ (.refl s)).ethPort_eq rfl e

theorem State.resumeClass_port (s : State) (e : Bool) (t : Nat) :
    ((s.resumeClass e t).ethPort e).paused = (s.ethPort e).paused &&& ~~~(BitVec.ofNat 8 (2 ^ t)) := by
  unfold State.resumeClass
  extract_lets begun
  obtain ⟨w, port⟩ := (begun.waitEnd (b2n e) (.eth (b2n e)) (fun w => w.ekind == 9 && w.object.toNat == t) none).classGo_port e t
  rw [port, State.ethPort_waitEnd, State.ethPort_modEth]

theorem State.pauseClass_port (s : State) (e : Bool) (t till : Nat) :
    ((s.pauseClass e t till).ethPort e).paused = (s.ethPort e).paused ||| BitVec.ofNat 8 (2 ^ t) := by
  unfold State.pauseClass
  extract_lets p was begun
  have begun_port : (begun.ethPort e).paused = (s.ethPort e).paused ||| BitVec.ofNat 8 (2 ^ t) :=
    congrArg EthPort.paused (s.ethPort_modEth e _)
  split
  · exact begun_port
  · exact (congrArg EthPort.paused ((State.waitBegin_does .self _ _ _ (.refl begun)).ethPort_eq rfl e)).trans begun_port

/-- A fold whose step does something for `c` alone. -/
theorem foldl_eq_of_only {α β : Type} {f : β → α → β} {c : α} (other : ∀ x t, t ≠ c → f x t = x) :
    ∀ {l : List α}, l.Nodup → c ∈ l → ∀ x, l.foldl f x = f x c
  | [], _, mem, _ => absurd mem List.not_mem_nil
  | t :: l, nodup, mem, x => by
    obtain ⟨fresh, rest⟩ := List.nodup_cons.mp nodup
    by_cases h : t = c
    · subst h
      have skip : ∀ (l : List α) y, t ∉ l → l.foldl f y = y := fun l => by
        induction l with
        | nil => exact fun y _ => rfl
        | cons a l ih =>
          intro y hl
          rw [List.foldl_cons, other y a (fun h => hl (h ▸ List.mem_cons_self)), ih y (fun h => hl (List.mem_cons_of_mem _ h))]
      exact skip l _ fresh
    · rw [List.foldl_cons, other x t h]
      exact foldl_eq_of_only other rest ((List.mem_cons.mp mem).resolve_left (Ne.symm h)) x

theorem getLsbD_ofNat_two_pow_ne {c t : Nat} (h : t ≠ c) : (BitVec.ofNat 8 (2 ^ c)).getLsbD t = false := by
  rw [BitVec.getLsbD_ofNat, Nat.testBit_two_pow_of_ne (Ne.symm h), Bool.and_false]

theorem getLsbD_ofNat_two_pow_self (c : Fin 8) : (BitVec.ofNat 8 (2 ^ c.val)).getLsbD c.val = true := by
  rw [BitVec.getLsbD_ofNat, Nat.testBit_two_pow_self, Bool.and_true, decide_eq_true c.isLt]

/-- A PFC frame that enables one class of `PFC_MASK` (R310). -/
theorem execPfcFrame_one {e : Bool} {f : EthFrame} {c : Fin 8} {s : State} (up : s.ethUp e = true) (whole : f.damaged = false)
    (accepted : f.accepted = true) (mask : (s.pfcMask e).getLsbD c.val = true) (q : List (BitVec 16)) :
    execPfcFrame e f (BitVec.ofNat 8 (2 ^ c.val)) q s = .next (
      if (q.getD c.val 0).toNat = 0 then s.resumeClass e c.val
      else s.pauseClass e c.val (s.clk.now + (s.ethPort e).quantaNs (q.getD c.val 0).toNat)) := by
  refine congrArg Host.Outcome.next ?_
  rw [State.withControl, if_neg (not_not_intro up), State.frameOk_accepted whole accepted]
  dsimp only
  rw [foldl_eq_of_only (c := c.val) (fun x t other => if_pos (.inl (ne_true_of_eq_false (getLsbD_ofNat_two_pow_ne other))))
    List.nodup_range (List.mem_range.mpr c.isLt), if_neg]
  rintro (off | out)
  · exact off (getLsbD_ofNat_two_pow_self c)
  · exact out mask

/-- A link that goes down leaves no pause and no queue pair changed (R339). -/
theorem State.ethDown_unpaused (s : State) (e : Bool) : ((s.ethDown e).ethPort e).paused = 0 := by
  unfold State.ethDown
  extract_lets closed waited
  have start : (waited.ethPort e).paused = 0 := by
    dsimp only [waited, closed]
    rw [State.ethPort_waitEnd, State.ethPort_modEth]
  split
  · exact (congrArg EthPort.paused ((State.ptpLost_does .self (.refl waited)).ethPort_eq rfl e)).trans start
  · exact start

/-- The share of a class of `PFC_MASK` is 512 KiB (R309). -/
theorem State.occupy_port {s : State} {e : Bool} {t : Nat} (mask : (s.pfcMask e).getLsbD t = true) (n : Nat) :
    (s.occupy e t n).ethPort e = { s.ethPort e with occupancy := (s.ethPort e).occupancy.set t (min 524288 n) } := by
  unfold State.occupy
  rw [State.ethPort_modEth, if_pos mask]

theorem State.ethPort_emit (s : State) (o : Out) (e : Bool) : (s.emit o).ethPort e = s.ethPort e := rfl

theorem State.pfcSend_port (s : State) (e : Bool) (t : Nat) (on : Bool) : (s.pfcSend e t on).ethPort e =
    { s.ethPort e with pausing := if on then (s.ethPort e).pausing ||| BitVec.ofNat 8 (2 ^ t)
      else (s.ethPort e).pausing &&& ~~~(BitVec.ofNat 8 (2 ^ t)) } := by
  rw [State.pfcSend, State.ethPort_emit, State.ethPort_modEth]

/-- Settles O30: what a frame meets as it arrives, then the branch of its kind. -/
theorem ethernetPortsAnswer : Obligations.EthernetPortsAnswer := by
  refine ⟨fun e s trains speed => ?up, fun e s => ?down, fun e f m a ip d x n q y s up c hc => ?discards,
    fun e f m a ip d x n y s up whole accepted full c hc => ?noRoom, fun e f x s up paused => ?waits,
    fun e f m a s up whole accepted room flows ip => ?arp, fun e f m s up whole accepted room flows => ?neighbour,
    fun e f m a d s up whole accepted room flows own => ?echo, fun e f m s up whole accepted room dynamic => ?dhcp,
    fun e f s up whole accepted room => ?discarded, fun e f c q s up whole accepted mask => ?pfc,
    fun e c till s => ⟨s.pauseClass_port e c till, s.resumeClass_port e c⟩, fun e c s paused late => ?expires,
    fun e c s paused late => ?watchdog, fun e c n s up mask full => ?pauses, fun e c n s up mask pausing drained => ?resumes⟩
  case up =>
    refine ⟨_, congrArg Host.Outcome.next (if_neg (by rintro (h | ⟨h, k⟩); exacts [h trains, speed.elim h k])), ?_⟩
    obtain ⟨w, port⟩ := (s.modEth e (fun p => { p with linkUp := true, speedAct := BitVec.ofNat 2 (s.ethSpeed e) })).dhcpStart_port e
    rw [port, State.ethPort_modEth]
    exact ⟨rfl, rfl, (State.dhcpStart_does .self e (.refl _)).same .qps rfl⟩
  case down =>
    exact ⟨_, rfl, s.ethDown_linkUp e, s.ethDown_unpaused e, (State.ethDown_does .self e (.refl s)).same .qps rfl⟩
  case discards =>
    have run {t : State} (bad : s.frameOk e f = (false, t)) : exec c s = .next t := by
      simp only [List.mem_cons, List.not_mem_nil, or_false] at hc
      rcases hc with rfl | rfl | rfl | rfl | rfl | rfl | rfl
      case inr.inr.inr.inr.inl => exact congrArg Host.Outcome.next (State.withControl_discards up bad _)
      all_goals exact congrArg Host.Outcome.next (State.withFrame_discards up (State.frameIn_discards bad) _)
    exact ⟨fun damaged => run (State.frameOk_damaged damaged), fun whole refused => run (State.frameOk_refused whole refused)⟩
  case noRoom =>
    have bad : s.frameIn e f = (false, s.modEth e (fun p => { p with dropped := satAdd p.dropped 1 })) := by
      rw [State.frameIn, State.frameOk_accepted whole accepted]
      exact if_pos full
    simp only [List.mem_cons, List.not_mem_nil, or_false] at hc
    rcases hc with rfl | rfl | rfl | rfl | rfl | rfl <;> exact congrArg Host.Outcome.next (State.withFrame_discards up bad _)
  case waits =>
    exact (if_neg (not_not_intro up)).trans (if_pos paused)
  case arp =>
    have own : s.ownIp e (mapped4 a) = true := by simp [State.ownIp, ip]
    exact congrArg Host.Outcome.next ((State.withFrame_accepted up whole accepted room _).trans ((if_pos own).trans
      (State.sendFrame_emits (g := replyFrame f m) up flows _)))
  case neighbour =>
    exact congrArg Host.Outcome.next ((State.withFrame_accepted up whole accepted room _).trans ((if_pos rfl).trans
      (State.sendFrame_emits (g := replyFrame f m) up flows _)))
  case echo =>
    exact congrArg Host.Outcome.next ((State.withFrame_accepted up whole accepted room _).trans ((if_pos own).trans
      (State.sendFrame_emits (g := replyFrame f m) up flows _)))
  case dhcp =>
    refine ⟨fun none_ => ?_, fun a n => ?_, ?_⟩
    all_goals refine congrArg Host.Outcome.next ((State.withFrame_accepted up whole accepted room _).trans
      ((if_neg (ne_true_of_eq_false dynamic)).trans ?_))
    · exact if_neg (by simp [none_])
    · rfl
    · refine if_neg ?_
      rw [State.ethPort_modEth]
      simp [dynamic]
  case discarded =>
    exact congrArg Host.Outcome.next (State.withFrame_accepted up whole accepted room id)
  case pfc =>
    exact execPfcFrame_one up whole accepted mask q
  case expires =>
    exact congrArg Host.Outcome.next (if_pos ⟨paused, late⟩)
  case watchdog =>
    refine ⟨_, congrArg Host.Outcome.next (if_pos ⟨paused, late⟩), ?_⟩
    obtain ⟨w, port⟩ := (((s.modEth e (fun p => { p with
      trips := satAdd p.trips 1, ignoreUntil := p.ignoreUntil.set c (s.clk.now + (s.ethPort e).limitMs.toNat * 1000000),
      pauseSince := p.pauseSince.set c (s.clk.now + (s.ethPort e).limitMs.toNat * 1000000) })).waitEnd (b2n e) (.eth (b2n e))
        (fun w => w.ekind == 9 && w.object.toNat == c.val) none).classGo_port e c)
    rw [port, State.ethPort_waitEnd, State.ethPort_modEth]
    exact ⟨rfl, rfl⟩
  case pauses =>
    have sends : execPfcRepeat e c n s = .next ((s.occupy e c n).pfcSend e c true) :=
      congrArg Host.Outcome.next ((if_neg (not_not_intro up)).trans ((if_neg (not_not_intro mask)).trans (if_pos (.inl full))))
    refine ⟨_, sends, ?_⟩
    rw [State.pfcSend_port, State.occupy_port mask]
    exact ⟨rfl, rfl, rfl⟩
  case resumes =>
    have on : ((s.occupy e c n).ethPort e).pausing.getLsbD c.val = true := by
      rw [State.occupy_port mask]
      exact pausing
    have sends : execPfcRepeat e c n s = .next ((s.occupy e c n).pfcSend e c false) :=
      congrArg Host.Outcome.next ((if_neg (not_not_intro up)).trans ((if_neg (not_not_intro mask)).trans
        ((if_neg (by omega)).trans (if_pos ⟨on, drained⟩))))
    refine ⟨_, sends, ?_⟩
    rw [State.pfcSend_port, State.occupy_port mask]
    exact ⟨rfl, rfl⟩

end Sys2Proof.Machine
end

section
/-! RoCEv2 packets at their queue pairs (R311–R320, R350). -/
namespace Sys2Proof.Machine
open Sys2Proof

theorem not_psnBefore_self (n : BitVec 24) : psnBefore n n = false := by
  simp [psnBefore]

theorem State.modQp_of_some {s : State} {q : Nat} {x : Qp} (known : s.qps.get? q = some x) (f : Qp → Qp) :
    s.modQp q f = { s with qps := s.qps.set q (f x) } := by
  rw [State.modQp, known]

/-- A queue pair sends again from a number, or has spent its retries and is in error (R315, R317). -/
theorem State.retransmit_of_some {s : State} {q : Nat} {x : Qp} (known : s.qps.get? q = some x) (n : BitVec 24) :
    s.retransmit q n = if x.params.retry.toNat ≤ x.retries then s.qpError q
      else (s.modQp q (fun x => { x with retries := x.retries + 1 })).goBack q n := by
  rw [State.retransmit, known]

section
variable {q : Nat} {x : Qp} {h : RoceHdr} {d : List Byte} {c : Colour} {u : State} (plain : u.ethCrypt = false) (whole : x.rx = [])
  (low : 1 ≤ d.length) (high : d.length ≤ x.mtu) (entries : d.length % 64 = 0)
include plain whole low high entries

/-- A whole packet of entries of a queue pair that does not encrypt: it waits for room, or its entries are taken (R316, R318). -/
theorem State.sendPart_only : u.sendPart q x h .only d c =
    if u.sendHeld q h.port = true then u.roceAnswer x h.psn (.rnrNak 1)
    else if 64 < (u.queue q).ring.length + slotsFor ((sendEntries d).map (fun e => (e, c))) then u.roceAnswer x h.psn (.rnrNak 1)
    else (((sendEntries d).map (fun e => (e, c))).foldl (fun s e => s.takeEntry q e.1 e.2)
      (u.modQp q (fun x => { x with expectPsn := x.expectPsn + 1, rx := [] }))).roceAnswer x h.psn .ack := by
  unfold State.sendPart
  rw [if_neg (by simp [whole, low, high])]
  by_cases held : u.sendHeld q h.port = true
  · rw [if_pos ⟨rfl, held⟩, if_pos held]
  · rw [if_neg (fun k => held k.2), if_neg held]
    simp only [plain, entries] <;> rfl

end

/-- Settles O31: what a packet does that reaches its queue pair, by its kind. -/
theorem queuePairsServeTheirPackets : Obligations.QueuePairsServeTheirPackets := by
  refine ⟨fun h part d l y r s none_ c hc => ?rejected, fun h part d q x c s u arrives running => ?sends,
    fun h d q x c u plain known whole low high entries free room => ?taken, fun h d q x c u plain whole low high entries full => ?waits,
    fun h q x c s u arrives => ?acknowledges, fun h q x c s u arrives => ?requests, fun h q x c s u arrives known first => ?cnp,
    fun q x s known => ?rate, fun h d l q n x y o va k c s u arrives known oldest op next length more => ?readGoesOn,
    fun h d l q n id x y o va k c s u arrives known oldest op next length last access => ?readEnds,
    fun q x n s known oldest well live spent => ?spent, fun q x n s known oldest well live left => ?retries⟩
  case rejected =>
    have fails : s.roceIn h = (none, (s.roceIn h).2) := Prod.ext none_ rfl
    simp only [List.mem_cons, List.not_mem_nil, or_false] at hc
    rcases hc with rfl | rfl | rfl | rfl | rfl <;> exact congrArg Host.Outcome.next (by rw [fails])
  case sends =>
    have run : exec (.send h part d) s = .next (if psnBefore h.psn x.expectPsn then u.roceAnswer x (x.expectPsn - 1) .ack
        else if h.psn ≠ x.expectPsn then u.roceAnswer x x.expectPsn .nakSequence else u.sendPart q x h part d c) := by
      refine congrArg Host.Outcome.next ?_
      rw [arrives]
      exact if_neg (not_not_intro running)
    refine ⟨fun expected => ?_, fun before => ?_, fun after gap => ?_⟩
    · rw [run, expected, if_neg (ne_true_of_eq_false (not_psnBefore_self _)), if_neg (not_not_intro rfl)]
    · rw [run, if_pos before]
    · rw [run, if_neg (ne_true_of_eq_false after), if_pos gap]
  case taken =>
    rw [State.sendPart_only plain whole low high entries, if_neg (ne_true_of_eq_false free), if_neg (not_lt.mpr room)]
  case waits =>
    rw [State.sendPart_only plain whole low high entries]
    split
    · rfl
    · next free => exact if_pos (full.resolve_left free)
  case acknowledges =>
    exact ⟨congrArg Host.Outcome.next (by rw [arrives]), congrArg Host.Outcome.next (by rw [arrives]),
      fun n => congrArg Host.Outcome.next (by rw [arrives]), congrArg Host.Outcome.next (by rw [arrives]; rfl),
      congrArg Host.Outcome.next (by rw [arrives]; rfl)⟩
  case requests =>
    refine ⟨?_, ?_, ?_⟩ <;> exact congrArg Host.Outcome.next (by rw [arrives])
  case cnp =>
    refine congrArg Host.Outcome.next ?_
    rw [arrives]
    dsimp only
    rw [State.modQp_of_some known, first] <;> rfl
  case rate =>
    exact congrArg Host.Outcome.next (State.modQp_of_some known _)
  case readGoesOn =>
    refine congrArg Host.Outcome.next ?_
    rw [arrives]
    dsimp only
    rw [known]
    dsimp only
    rw [oldest]
    dsimp only
    rw [op, if_neg (by simp [next, length]), if_pos more]
  case readEnds =>
    refine congrArg Host.Outcome.next ?_
    rw [arrives]
    dsimp only
    rw [known]
    dsimp only
    rw [oldest]
    dsimp only
    rw [op]
    dsimp only
    rw [if_neg (by simp [next, length]), if_neg (by omega), access]
  case spent =>
    refine congrArg Host.Outcome.next ?_
    rw [known]
    dsimp only
    rw [oldest]
    dsimp only
    rw [if_neg (by simp [well, live]), State.retransmit_of_some known, if_pos spent, State.qpError, State.modQp_of_some known]
  case retries =>
    refine congrArg Host.Outcome.next ?_
    rw [known]
    dsimp only
    rw [oldest]
    dsimp only
    rw [if_neg (by simp [well, live]), State.retransmit_of_some known, if_neg (not_le.mpr left)]

end Sys2Proof.Machine
end

section
/-! KMP's own messages, the connection of queue pairs, and PTP (R317, R325–R335, R349, R678, R682, R716). -/
namespace Sys2Proof.Machine
open Sys2Proof

/-- A session that ends takes its buffer of the structure image with it (R71, R73, R330). -/
theorem State.endSession_of_some {s : State} {k : Nat} {x : KmpSession} (open_ : s.session k = some x) :
    (s.endSession k).kmp = s.kmp.erase k ∧
      (ownedBy s.si.stage k x.sid = true → s.si.state = .staging → (s.endSession k).si.state = .idle ∧ (s.endSession k).si.stage = none) := by
  unfold State.endSession
  rw [open_]
  dsimp only
  refine ⟨?_, fun own staging => ?_⟩
  · split <;> split <;> split <;> rfl
  · rw [if_pos (show ownedBy s.si.stage k x.sid = true ∧ (s.si.state = .staging ∨ s.si.state = .validated) from ⟨own, .inl staging⟩)]
    split <;> split <;> exact ⟨rfl, rfl⟩

/-! ### PTP (R294, R335) -/

/-- A message on the port and domain that `PTP_CTL` selects. -/
def State.ptpIn (s : State) (y : PtpFrame) : State :=
  match y.msg with
  | .announce rank n => s.ptpAnnounce y.source rank n
  | _ => if (s.ptpBest.map (·.source)) = some y.source then s.ptpMaster y else s

theorem execPtpMessage_taken {e : Bool} {f : EthFrame} {d : BitVec 8} {s : State} (up : s.ethUp e = true) (whole : f.damaged = false)
    (accepted : f.accepted = true) (room : s.noRoom e f = false) (on : s.ethg.ptpEn = true) (port : s.ethg.ptpPort = e)
    (domain : s.ethg.ptpDomain = d) (y : PtpFrame) : execPtpMessage e f d y s = .next (s.ptpIn y) := by
  refine congrArg Host.Outcome.next ((State.withFrame_accepted up whole accepted room _).trans ((if_neg ?_).trans ?_))
  · simp [on, port, domain]
  · rfl

/-- A message other than an announce, of the master that the part follows. -/
theorem State.ptpIn_master {s : State} {y : PtpFrame} (followed : s.ptpBest.map (·.source) = some y.source)
    (other : ∀ r n, y.msg ≠ .announce r n) : s.ptpIn y = s.ptpMaster y := by
  unfold State.ptpIn
  split
  · next r n h => exact absurd h (other r n)
  · exact if_pos followed

/-- The part asks for the delay: the times are kept, and a request goes out. -/
theorem State.ptpAsk_ethg (s : State) (via : PtpTransport) (t1 : BitVec 64) : (s.ptpAsk via t1).ethg =
    { s.ethg with ptpT1 := some t1, ptpT3 := s.clk.poolTime, ptpReq := s.ethg.ptpReq + 1, ptpSync := none } :=
  (State.sendFrame_does .self _ _ _ (.refl _)).same .ethg rfl

theorem State.ptpAsk_out {s : State} (up : s.ethUp s.ethg.ptpPort = true) (flows : s.classPaused s.ethg.ptpPort Config.ptpClass.toNat = false)
    (via : PtpTransport) (t1 : BitVec 64) : (s.ptpAsk via t1).out = s.out ++ [.eth (b2n s.ethg.ptpPort)
      { mac := ptpGroup via, cls := Config.ptpClass } (.ptpDelayReq via s.ethg.ptpReq s.clk.poolTime)] := by
  rw [State.ptpAsk, State.sendFrame_emits]
  · exact up
  · exact flows

/-- A Sync of the master that the part follows has begun an exchange (R335). -/
def State.syncNoted (s : State) (y : PtpFrame) (c : Int) : State := { s with ethg := { s.ethg with
  ptpT1 := none, ptpT2 := s.clk.poolTime, ptpCorr := c, ptpSync := some y.seq } }

theorem State.ptpAnswer_available (s : State) (t1 t4 : BitVec 64) (corr : Int) :
    (s.ptpAnswer t1 t4 corr).ethg.ptpT1 = none ∧ (s.ptpAnswer t1 t4 corr).zlg.ptpAvailable = true := by
  have chosen (x : State) : x.chooseSource.zlg.ptpAvailable = x.zlg.ptpAvailable := by
    unfold State.chooseSource
    extract_lets g g' changed
    have same : g'.ptpAvailable = g.ptpAvailable := by
      dsimp only [g']
      split
      · rfl
      · split
        · rfl
        · split <;> rfl
    show (if _ then _ else g').ptpAvailable = _
    split <;> exact same
  have kept (x : State) : x.chooseSource.ethg = x.ethg := (State.chooseSource_does .self (.refl x)).same .ethg rfl
  unfold State.ptpAnswer
  extract_lets g off _ began
  split
  · exact ⟨congrArg EthGlobal.ptpT1 (kept _), chosen _⟩
  · have corrected (x : State) (waits : Bool) : Does 0x10 x (x.correct off waits) := State.correct_does .self _ _ (.refl x)
    rw [(corrected _ _).same .ethg rfl, (corrected _ _).same .zlg rfl]
    exact ⟨congrArg EthGlobal.ptpT1 (kept began), chosen began⟩

/-- Settles O32: what a request leads to that is served, each message's own branch, and the PTP exchange by its steps. -/
theorem managementMessagesAreServed : Obligations.ManagementMessagesAreServed := by
  refine ⟨fun hdr s u outside arrives known plain header empty live free => ?discoverOutside,
    fun hdr k x s v served inside empty => ?discover, fun hdr p k x s v served right epoch port fields => ?connects,
    fun hdr p r k x s v served closed => ?noEpoch, fun hdr k x s u arrives slot session opens port header known => ?eventAck,
    fun k n i x m s session event few => ?eventAgain, fun k n i x m s session event many => ?eventGone,
    fun hdr k x s v served empty => ?ownMessages, fun k x s session running => ?timeout,
    fun e f d y s up whole accepted room on port domain => ?ptp⟩
  case discoverOutside =>
    refine congrArg Host.Outcome.next ((if_neg (not_not_intro outside)).trans ?_)
    rcases arrival : s.kmpArrive hdr with ⟨a, b⟩
    rw [arrival] at arrives
    obtain rfl : a = some u := arrives
    exact (if_neg (not_not_intro known)).trans ((if_neg (ne_true_of_eq_false plain)).trans ((if_neg (by simp [header, empty])).trans
      (if_neg (by simp [live, free]))))
  case discover =>
    exact congrArg Host.Outcome.next ((if_pos inside).trans (served.replied_eq 1 _ _ (by rw [if_pos empty])))
  case connects =>
    refine congrArg Host.Outcome.next (served.replied_eq 7 false _ ?_)
    have holds : (x.auth == .tenant || (!v.sealed && v.isOperator x)) = true := by
      rcases right with right | ⟨unsealed, operator⟩
      · simp [right]
      · simp [unsealed, operator]
    simp only [holds, epoch, port, fields]
    simp
  case noEpoch =>
    exact congrArg Host.Outcome.next (served.replied_eq 7 false _ (if_pos (.inr (.inl closed))))
  case eventAck =>
    refine congrArg Host.Outcome.next ?_
    rcases arrival : s.kmpArrive hdr with ⟨a, b⟩
    rw [arrival] at arrives
    obtain rfl : a = some u := arrives
    dsimp only
    rw [slot]
    dsimp only
    rw [session]
    exact (if_neg (by simp [opens, port])).trans (if_neg (by simp [header, known]))
  case eventAgain =>
    refine congrArg Host.Outcome.next ?_
    rw [session]
    dsimp only
    rw [event]
    exact if_neg (not_le.mpr few)
  case eventGone =>
    refine congrArg Host.Outcome.next ?_
    rw [session]
    dsimp only
    rw [event]
    exact if_pos many
  case ownMessages =>
    exact ⟨congrArg Host.Outcome.next (served.replied_eq 0x0A false _ (by rw [if_pos empty])),
      congrArg Host.Outcome.next (served.replied_eq 0x0B false _ (if_pos empty))⟩
  case timeout =>
    exact ⟨_, congrArg Host.Outcome.next (if_neg (ne_true_of_eq_false running)), State.endSession_of_some session⟩
  case ptp =>
    have taken := execPtpMessage_taken up whole accepted room on port domain y
    refine ⟨fun r n announce => ?announce, fun followed => ⟨fun t1 c sync flows => ?sync, fun c sync => ?twoStep,
      fun t1 c followUp expected => ?followUp, fun t1 t4 c answer mine number began => ?answer⟩⟩
    case announce =>
      refine taken.trans ?_
      rw [State.ptpIn, announce]
    case sync =>
      have run : s.ptpIn y = (s.syncNoted y c).ptpAsk y.via t1 := by
        rw [State.ptpIn_master followed (by simp [sync]), State.ptpMaster, sync] <;> rfl
      subst port
      refine ⟨_, taken.trans (congrArg Host.Outcome.next run), ?_⟩
      have asks := State.ptpAsk_out (s := s.syncNoted y c) up flows y.via t1
      rw [State.ptpAsk_ethg]
      exact ⟨rfl, rfl, rfl, rfl, asks⟩
    case twoStep =>
      have run : s.ptpIn y = s.syncNoted y c := by
        rw [State.ptpIn_master followed (by simp [sync]), State.ptpMaster, sync] <;> rfl
      exact ⟨_, taken.trans (congrArg Host.Outcome.next run), rfl, rfl, rfl⟩
    case followUp =>
      have run : s.ptpIn y = ({ s with ethg := { s.ethg with ptpCorr := s.ethg.ptpCorr + c } } : State).ptpAsk y.via t1 := by
        rw [State.ptpIn_master followed (by simp [followUp]), State.ptpMaster, followUp]
        exact if_pos expected
      refine ⟨_, taken.trans (congrArg Host.Outcome.next run), ?_⟩
      rw [State.ptpAsk_ethg]
      exact ⟨rfl, rfl, rfl⟩
    case answer =>
      have run : s.ptpIn y = s.ptpAnswer t1 t4 c := by
        rw [State.ptpIn_master followed (by simp [answer]), State.ptpMaster, answer]
        dsimp only
        rw [began]
        exact if_pos ⟨mine, number⟩
      exact ⟨_, taken.trans (congrArg Host.Outcome.next run), s.ptpAnswer_available t1 t4 c⟩

end Sys2Proof.Machine
end

section
/-! Queues (R319, R320, R325, R350–R373, R490, R654): packets and entries that a queue takes, and the memory commands that it issues. -/
namespace Sys2Proof.Machine
open Sys2Proof

theorem Does.queueHost_eq {W : Nat} {s t : State} (h : Does W s t) (heff : W.testBit Field.eff.ctorIdx = false)
    (hsi : W.testBit Field.si.ctorIdx = false) (q : Nat) : t.queueHost q = s.queueHost q := by
  unfold State.queueHost
  rw [(h.same .eff heff : t.eff = s.eff), (h.same .si hsi : t.si = s.si)]

/-! ### Submit packets -/

section
variable {h : BitVec 10} {q : Nat} {e : SubEntry} {s : State} (hears : s.hears h = true)
include hears

/-- A packet for a queue of another host is refused at once where it needs no meter (R350, R353, R809). -/
theorem State.submitPkt_other (other : s.queueHost q ≠ h.toNat)
    (now : releaseOk e = true ∨ s.fatal = true ∨ (s.hub (q / 2048)).phase ≠ .none) :
    s.submitPkt h q e = s.queRefuse h q 3 0 false :=
  (if_neg (not_not_intro hears)).trans (if_pos ⟨other, now⟩)

theorem State.submitPkt_release (own : s.queueHost q = h.toNat) (release : releaseOk e = true) :
    s.submitPkt h q e = s.takeEntry q e .green :=
  (if_neg (not_not_intro hears)).trans ((if_neg (fun k => k.1 own)).trans (if_pos release))

variable (entry : releaseOk e = false)
include entry

theorem State.submitPkt_fatal (own : s.queueHost q = h.toNat) (fatal : s.fatal = true) :
    s.submitPkt h q e = if 64 ≤ (s.queue q).ring.length then s.queRefuse h q 2 0 false else s.takeEntry q e .green :=
  (if_neg (not_not_intro hears)).trans ((if_neg (fun k => k.1 own)).trans ((if_neg (ne_true_of_eq_false entry)).trans (if_pos fatal)))

variable (live : s.fatal = false) (running : (s.hub (q / 2048)).phase = .none) (passes : s.throttles h.toNat = false)
include live running passes

/-- What a packet with an entry meets behind its meter (R350, R354, R369, R370). -/
theorem State.submitPkt_metered {c : Colour} {u : State} (metered : s.meterArrive h.toNat 64 = (c, u)) :
    s.submitPkt h q e =
      if c = .red then u.queRefuse h q 1 (u.redBackoff h.toNat 64) true
      else if u.queueHost q ≠ h.toNat then u.queRefuse h q 3 0 false
      else if u.queueHeld q then u.freeBackoff.2.queRefuse h q 2 u.freeBackoff.1 false
      else if 64 ≤ (u.queue q).ring.length then u.queRefuse h q 2 0 false
      else u.takeEntry q e c := by
  unfold State.submitPkt
  rw [if_neg (not_not_intro hears), if_neg, if_neg (ne_true_of_eq_false entry), if_neg (ne_true_of_eq_false live),
    if_neg (not_not_intro running), if_neg (ne_true_of_eq_false passes), metered]
  · cases c <;> rfl
  · simp [entry, live, running]

/-- A packet that its meter lets pass. -/
theorem State.submitPkt_passes {c : Colour} {u : State} (metered : s.meterArrive h.toNat 64 = (c, u)) (colour : c ≠ .red) :
    s.submitPkt h q e =
      if s.queueHost q ≠ h.toNat then u.queRefuse h q 3 0 false
      else if u.queueHeld q then u.freeBackoff.2.queRefuse h q 2 u.freeBackoff.1 false
      else if 64 ≤ (u.queue q).ring.length then u.queRefuse h q 2 0 false
      else u.takeEntry q e c := by
  have host : u.queueHost q = s.queueHost q := by
    have does := State.meterArrive_does .self h.toNat 64 (.refl s)
    rw [metered] at does
    exact does.queueHost_eq rfl rfl q
  rw [State.submitPkt_metered hears entry live running passes metered, if_neg colour, host]

end

/-- Settles O34: what a packet meets in its order, what an entry is taken as, and each command when its turn comes. -/
theorem queueEntriesAreTakenAndIssued : Obligations.QueueEntriesAreTakenAndIssued := by
  refine ⟨fun h q e c s u hears own entry live running passes metered colour free room => ?taken,
    fun h q e c b u v s hears own entry live running passes metered colour held backoff => ?held,
    fun h q e s hears own entry fatal => congrArg Host.Outcome.next (State.submitPkt_fatal hears entry own fatal),
    fun h q e c u s hears other entry live running passes metered colour => ?other,
    fun h q e s hears other now => congrArg Host.Outcome.next (State.submitPkt_other hears other now),
    fun h q e u s hears entry live running passes metered => ?red,
    fun h q e c u s hears own entry live running passes metered colour free full => ?full,
    fun h q e s hears own release => ?release, fun q e c s entry live ok open1 open2 => ?ring, fun q e c s entry live bad => ?illegal,
    fun q l c u s turn issued => ?reads, fun q c u s turn issued => ?writes, fun q m c n u s turn issued size => ?atomics,
    fun q c s turn => congrArg Host.Outcome.next (turn.issue_eq _), fun q s live => congrArg Host.Outcome.next (if_neg (ne_true_of_eq_false live)),
    fun q r s head yellow eligible => ?promotes, fun h s serving => congrArg Host.Outcome.next (if_pos serving), fun q s fatal => ?fatal⟩
  case taken =>
    refine congrArg Host.Outcome.next ((State.submitPkt_passes hears entry live running passes metered colour).trans ?_)
    rw [if_neg (not_not_intro own), if_neg (ne_true_of_eq_false free), if_neg (not_le.mpr room)]
  case held =>
    refine congrArg Host.Outcome.next ((State.submitPkt_passes hears entry live running passes metered colour).trans ?_)
    rw [if_neg (not_not_intro own), if_pos held, backoff]
  case other =>
    exact congrArg Host.Outcome.next ((State.submitPkt_passes hears entry live running passes metered colour).trans (if_pos other))
  case red =>
    exact congrArg Host.Outcome.next ((State.submitPkt_metered hears entry live running passes metered).trans (if_pos rfl))
  case full =>
    refine congrArg Host.Outcome.next ((State.submitPkt_passes hears entry live running passes metered colour).trans ?_)
    rw [if_neg (not_not_intro own), if_neg (ne_true_of_eq_false free), if_pos full]
  case release =>
    exact congrArg Host.Outcome.next ((State.submitPkt_release hears own release).trans (if_pos release))
  case ring =>
    refine (if_neg (ne_true_of_eq_false entry)).trans ((if_neg (ne_true_of_eq_false live)).trans ((if_neg (not_not_intro ok)).trans
      (if_neg ?_)))
    rintro (ending | resurfacing)
    · exact open1 ending
    · exact open2 resurfacing
  case illegal =>
    exact (if_neg (ne_true_of_eq_false entry)).trans ((if_neg (ne_true_of_eq_false live)).trans (if_pos (ne_true_of_eq_false bad)))
  case reads =>
    rw [issued]
    exact congrArg Host.Outcome.next (congrArg (State.cohEnd · _) ((turn.issue_eq _).trans (congrArg (State.tagHeads · _) (ite_not _ _ _))))
  case writes =>
    rw [issued]
    exact congrArg Host.Outcome.next ((turn.issue_eq _).trans (congrArg (State.tagHeads · _) (ite_not _ _ _)))
  case atomics =>
    rw [issued]
    refine congrArg Host.Outcome.next (congrArg (State.cohEnd · _) ((turn.issue_eq _).trans (congrArg (State.tagHeads · _) ?_)))
    dsimp only
    rw [size]
    exact ite_not _ _ _
  case promotes =>
    refine congrArg Host.Outcome.next ?_
    rw [head]
    exact if_pos ⟨yellow, eligible⟩
  case fatal =>
    exact ⟨congrArg Host.Outcome.next (if_pos (.inl fatal)), congrArg Host.Outcome.next (if_pos (.inl fatal))⟩

end Sys2Proof.Machine
end

section
/-! The vector unit (R394–R403, R431, R432, R436, R440): an operation whose turn has come queues its result. -/
namespace Sys2Proof.Machine
open Sys2Proof

theorem State.modLc_congr {s : State} {j i : Nat} {f g : Lc → Lc} (h : f (s.lc j i) = g (s.lc j i)) : s.modLc j i f = s.modLc j i g := by
  unfold State.modLc SMap.mod
  exact congrArg (fun x => { s with lcs := s.lcs.set (lcKey j i) x }) h

section
variable {s u v : State} {c : CluAt} {j i : Nat} {vd va vb : Fin 32} {g : VSig} {a b : Vec}

/-- A vector operation whose turn has come queues what it computes (R432). -/
theorem SlotReady.vecOp_eq {w : DWord} (turn : SlotReady s c 2 w j i) (lat : Nat) (g : VSig) (f : Nat → Nat → State → List (Nat × Vec) × State)
    {rs : List (Nat × Vec)} (result : f j i (s.atTurn c j i) = (rs, v)) :
    s.vecOp c w lat g f = s.issuedAs c 2 j i (v.modLc j i (fun x => x.pushVec
      { regs := rs, ready := x.bundle + lat, sem := g.sem, sig := g.sig })) none :=
  turn.done_eq _ (by dsimp only; rw [result])

theorem State.vec2_eq {op : Nat} (lat : Nat) (f : Word → Word → Word) (turn : SlotReady s c 2 (vecWord op vd va vb 0 0 0 0 false g) j i)
    (ha : (s.atTurn c j i).readV j i va = (a, u)) (hb : u.readV j i vb = (b, v)) :
    s.vec2 c op lat vd va vb g f = s.issuedAs c 2 j i (v.modLc j i (fun x => x.pushVec
      { regs := [(vd.val, vmap2 f a b)], ready := x.bundle + lat, sem := g.sem, sig := g.sig })) none :=
  turn.vecOp_eq lat g _ (by dsimp only; rw [ha]; dsimp only; rw [hb])

theorem State.vec1_eq {op : Nat} (lat : Nat) (f : Word → Word) (turn : SlotReady s c 2 (vecWord op vd va 0 0 0 0 0 false g) j i)
    (ha : (s.atTurn c j i).readV j i va = (a, u)) :
    s.vec1 c op lat vd va g f = s.issuedAs c 2 j i (u.modLc j i (fun x => x.pushVec
      { regs := [(vd.val, vmap f a)], ready := x.bundle + lat, sem := g.sem, sig := g.sig })) none :=
  turn.vecOp_eq lat g _ (by dsimp only; rw [ha])

theorem State.vecReduce_eq {op : Nat} (f : Word → Word → Word) (turn : SlotReady s c 2 (vecWord op vd va 0 0 0 0 0 false g) j i)
    (ha : (s.atTurn c j i).readV j i va = (a, u)) :
    s.vecReduce c op vd va g f = s.issuedAs c 2 j i (u.modLc j i (fun x => x.pushVec
      { regs := [(vd.val, lane0 (reduce f a))], ready := x.bundle + 12, sem := g.sem, sig := g.sig })) none :=
  turn.vecOp_eq 12 g _ (by dsimp only; rw [ha])

theorem State.vecReduceOn_eq {op : Nat} (f : Word → Word → Word) (turn : SlotReady s c 2 (vecWord op vd va vb 0 0 0 0 false g) j i)
    (ha : (s.atTurn c j i).readV j i va = (a, u)) (hb : u.readV j i vb = (b, v)) :
    s.vecReduceOn c op vd va vb g f = s.issuedAs c 2 j i (v.modLc j i (fun x => x.pushVec
      { regs := [(vd.val, lane0 (f (b.setWidth 32) (reduce f a)))], ready := x.bundle + 12, sem := g.sem, sig := g.sig })) none :=
  turn.vecOp_eq 12 g _ (by dsimp only; rw [ha]; dsimp only; rw [hb])

end

/-- The rows of two registers are `vec2` with the row's opcode and operation. -/
theorem exec_vec2Rows (c : CluAt) (vd va vb : Fin 32) (g : VSig) (s : State) :
    ∀ r ∈ vec2Rows c vd va vb g, exec r.2.2 s = .next (s.vec2 c r.1 4 vd va vb g r.2.1) := by
  intro r row
  fin_cases row <;> rfl

/-- The rows of one register are `vec1` with the row's opcode, latency and operation. -/
theorem exec_vec1Rows (c : CluAt) (vd va : Fin 32) (g : VSig) (s : State) :
    ∀ r ∈ vec1Rows c vd va g, exec r.2.2.2 s = .next (s.vec1 c r.1 r.2.1 vd va g r.2.2.1) := by
  intro r row
  fin_cases row <;> rfl

/-- The reductions are `vecReduce` and `vecReduceOn` with the row's opcodes and operation. -/
theorem exec_reduceRows (c : CluAt) (vd va vb : Fin 32) (g : VSig) (s : State) :
    ∀ r ∈ reduceRows c vd va vb g, exec r.2.2.2.1 s = .next (s.vecReduce c r.1 vd va g r.2.2.1) ∧
      exec r.2.2.2.2 s = .next (s.vecReduceOn c r.2.1 vd va vb g r.2.2.1) := by
  intro r row
  fin_cases row <;> exact ⟨rfl, rfl⟩

theorem State.topResult_eq {k : Nat} (low : 1 ≤ k) (high : k ≤ 256) (s : State) (vd vc : Nat) (l : List (Word × Word)) :
    s.topResult vd vc k l = ([(vd, ofLanes ((topK k l).map (·.1))), (vc, ofLanes ((topK k l).map (·.2)))], s) :=
  if_pos ⟨low, high⟩

/-- The span of bytes that are written at rising addresses. -/
def placedSpan (x : List (Nat × Byte)) : Span := { lo := (x.headD (0, 0)).1, len := x.length }

/-- A vector store notes the spans that it will write, and spoils what is in progress there (R440). -/
def State.notesStores (s : State) (j i : Nat) (l : List (List (Nat × Byte))) : State :=
  l.foldl (fun s p => ((s.noteRange j i (placedSpan p)).modLc j i (fun x => x.taint unitVector (placedSpan p))).modLc j i (fun x =>
    { x with stored := x.stored ++ [(placedSpan p, x.bundle + 8)] })) s

/-- Staging keeps its bytes until the result of a store is written. -/
theorem State.notesStores_staging (j i : Nat) (l : List (List (Nat × Byte))) (s : State) :
    ((s.notesStores j i l).lc j i).staging = (s.lc j i).staging := by
  unfold State.notesStores
  induction l generalizing s with
  | nil => rfl
  | cons p l ih =>
    rw [List.foldl_cons, ih, State.lc_modLc, State.lc_modLc]
    change ((s.noteRange j i (placedSpan p)).lc j i).staging = _
    unfold State.lc
    rw [((State.noteRange_does .self j i (placedSpan p) (.refl s)).same .lcs rfl :)]

/-- The result that a `VST` without stochastic rounding queues in a cluster that stands as `x` (R400–R403, R432). -/
def vstResult (d : BitVec 128) (row : Nat) (vs : List Word) (g : VSig) (x : Lc) : VecPend :=
  { bytes := (vstBytes d row [] vs).flatten, ready := x.bundle + 8, sem := g.sem, sig := g.sig,
    tainted := !tileAligned d || (vstBytes d row [] vs).any (fun p => x.writeHazard unitVector (placedSpan p)) }

/-- Settles O35: each operation as `vecOp` issues it, with what its reads leave; a `VST` changes no staging byte before its result is
written. -/
theorem vectorOperationsQueueTheirResults : Obligations.VectorOperationsQueueTheirResults := by
  refine ⟨fun c vd va vb g j i s u v a b r row turn ha hb => ?two, fun c vd va g j i s u a r row turn ha => ?one,
    fun c vd va vb g j i s u v a b r row => ⟨fun turn ha => ?reduce, fun turn ha hb => ?reduceOn⟩,
    fun j i n s => rfl, fun c vd va vb vc g j i s u v w a b m turn ha hb hm => ?sel,
    fun c vd sx g j i s u x hx => ⟨fun turn => ?bcast, fun turn => ?viota⟩,
    fun c vd va vb vc sx g j i s u v w a b k turn ha hb hk low high => ?topki,
    fun c vd va vb vc sx g j i s u v w y z a b d e k turn ha hb hd he hk low high => ⟨_, rfl, ?topk⟩,
    fun c vd sx n g j i s u v w row d bs turn hrow hd usable aligned plain hbs => ?vld,
    fun c vd sx n sy g j i s u v w row d a turn hrow hd ha => ?vst, fun c j i p r s resident vec live clean => ?written⟩
  case two => exact (exec_vec2Rows c vd va vb g s r row).trans (congrArg _ (State.vec2_eq 4 _ turn ha hb))
  case one => exact (exec_vec1Rows c vd va g s r row).trans (congrArg _ (State.vec1_eq _ _ turn ha))
  case reduce => exact (exec_reduceRows c vd va vb g s r row).1.trans (congrArg _ (State.vecReduce_eq _ turn ha))
  case reduceOn => exact (exec_reduceRows c vd va vb g s r row).2.trans (congrArg _ (State.vecReduceOn_eq _ turn ha hb))
  case sel =>
    exact congrArg Host.Outcome.next (turn.vecOp_eq 4 g _ (by dsimp only; rw [ha]; dsimp only; rw [hb]; dsimp only; rw [hm]))
  case bcast => exact congrArg Host.Outcome.next (turn.vecOp_eq 4 g _ (by dsimp only; rw [hx]))
  case viota => exact congrArg Host.Outcome.next (turn.vecOp_eq 4 g _ (by dsimp only; rw [hx]))
  case topki =>
    exact congrArg Host.Outcome.next (turn.vecOp_eq 40 g _ (by
      dsimp only; rw [ha]; dsimp only; rw [hb]; dsimp only; rw [hk]; dsimp only; rw [State.topResult_eq low high]))
  case topk =>
    exact congrArg Host.Outcome.next (turn.vecOp_eq 40 g _ (by
      dsimp only; rw [ha]; dsimp only; rw [hb]; dsimp only; rw [hd]; dsimp only; rw [he]; dsimp only; rw [hk]; dsimp only
      rw [State.topResult_eq low high]))
  case vld =>
    refine congrArg Host.Outcome.next (turn.vecOp_eq 8 g _ ?_)
    dsimp only
    rw [hrow]
    dsimp only
    rw [hd]
    dsimp only
    rw [usable, aligned, plain, hbs] <;> rfl
  case vst =>
    let bytes := vstBytes d row.toNat [] ((lanes a).take (min 256 (tCols d)))
    refine ⟨w.notesStores j i bytes, vstResult d row.toNat ((lanes a).take (min 256 (tCols d))) g ((w.notesStores j i bytes).lc j i),
      congrArg Host.Outcome.next (turn.done_eq _ ?_), rfl, rfl, rfl, rfl, rfl, State.notesStores_staging j i _ w⟩
    dsimp only
    rw [hrow]
    dsimp only
    rw [hd]
    dsimp only
    rw [ha]
    exact congrArg Issued.done (State.modLc_congr rfl)
  case written =>
    refine congrArg Host.Outcome.next ?_
    rw [resident]
    dsimp only
    rw [vec]
    dsimp only
    rw [live, clean] <;> rfl

end Sys2Proof.Machine
end

section
/-! The sequencer (R414–R419, R433–R440, R471): registers, arithmetic, branches, loads and stores. -/
namespace Sys2Proof.Machine
open Sys2Proof

/-! ### Scalar registers -/

theorem State.readS_ready {s : State} {j i n : Nat} (scalar : n ≠ 0) (ready : (s.lc j i).sReady.getD n 0 ≤ (s.lc j i).bundle) :
    s.readS j i n = ((s.lc j i).regs.s.getD n 0, s) :=
  (if_neg scalar).trans (if_neg (not_lt.mpr ready))

theorem State.readS_hazard {s : State} {j i n : Nat} (scalar : n ≠ 0) (early : (s.lc j i).bundle < (s.lc j i).sReady.getD n 0) :
    s.readS j i n = (BitVec.ofNat 64 (Config.free .hazard s.freeCtr), { s with freeCtr := s.freeCtr + 1 }) :=
  (if_neg scalar).trans (if_pos early)

/-- A write of a scalar that no earlier write overtakes (R414, R435). -/
theorem State.writeS_eq {s : State} {j i n latency : Nat} (v : DWord) (scalar : n ≠ 0)
    (order : (s.lc j i).sReady.getD n 0 ≤ (s.lc j i).bundle + latency) :
    s.writeS j i n v latency = s.modLc j i (fun x => { x with
      regs := { x.regs with s := x.regs.s.set n v }
      sReady := x.sReady.set n (max ((s.lc j i).sReady.getD n 0) (x.bundle + latency)) }) := by
  refine (if_neg scalar).trans ?_
  dsimp only
  rw [if_pos order]

/-! ### Operations of two scalars -/

section
variable {s u v : State} {c : CluAt} {j i : Nat} {d a b : Fin 64} {x y : DWord}
  (hx : (s.atTurn c j i).readS j i a = (x, u)) (hy : u.readS j i b = (y, v))
include hx hy

theorem State.ctlAlu_eq {op latency : Nat} (f : DWord → DWord → DWord) (turn : SlotReady s c 3 (ctlWord op d a b 0) j i) :
    s.ctlAlu c op d a b latency f = s.issuedAs c 3 j i (v.writeS j i d (f x y) latency) none :=
  turn.done_eq _ (by dsimp only; rw [hx]; dsimp only; rw [hy])

theorem State.ctlShift_eq {op : Nat} {imm : Word} (f : DWord → Nat → DWord) (turn : SlotReady s c 3 (ctlWord op d a b imm) j i) :
    s.ctlShift c op d a b imm f = s.issuedAs c 3 j i (v.writeS j i d (f x ((y.toNat + imm.toNat) % 64)) 1) none :=
  turn.done_eq _ (by dsimp only; rw [hx]; dsimp only; rw [hy])

theorem State.ctlBranch_eq {op : Nat} {t : BitVec 14} (p : DWord → DWord → Bool)
    (turn : SlotReady s c 3 (ctlWord op 0 a b (t.setWidth 32)) j i) :
    s.ctlBranch c op a b t p = s.issuedAs c 3 j i v (if p x y then some t else none) := by
  unfold State.ctlBranch
  rw [turn.issue_eq]
  dsimp only
  rw [hx]
  dsimp only
  rw [hy]
  dsimp only
  cases p x y <;> rfl

end

/-- The rows of two scalars are `ctlAlu` with the row's opcode, latency and operation. -/
theorem exec_ctlRows (c : CluAt) (d a b : Fin 64) (s : State) :
    ∀ r ∈ ctlRows c d a b, exec r.2.2.2 s = .next (s.ctlAlu c r.1 d a b r.2.1 r.2.2.1) := by
  intro r row
  fin_cases row <;> rfl

theorem exec_shiftRows (c : CluAt) (d a b : Fin 64) (imm : Word) (s : State) :
    ∀ r ∈ shiftRows c d a b imm, exec r.2.2 s = .next (s.ctlShift c r.1 d a b imm r.2.1) := by
  intro r row
  fin_cases row <;> rfl

theorem exec_branchRows (c : CluAt) (a b : Fin 64) (t : BitVec 14) (s : State) :
    ∀ r ∈ branchRows c a b t, exec r.2.2 s = .next (s.ctlBranch c r.1 a b t r.2.1) := by
  intro r row
  fin_cases row <;> rfl

/-! ### The end of a bundle -/

theorem State.lc_bump (s : State) (h k m n l j i : Nat) : (s.bump h k m n l).lc j i = s.lc j i := by
  unfold State.lc
  rw [((State.bump_does .self h k m n l (.refl s)).same .lcs rfl :)]

/-- The logical cluster after the last slot of its bundle, where no late scalar waits (R417, R437). -/
theorem State.lc_slotEnds_last {v : State} {h k j i slot : Nat} {b : List DWord} (t : Option (BitVec 14)) (late : (v.lc j i).late = none)
    (last : (liveSlots b).all (fun q => ((v.lc j i).slots ||| BitVec.ofNat 4 (2 ^ slot)).getLsbD q) = true) :
    (v.slotEnds h k j i slot b t).lc j i =
      { v.lc j i with
        wait := if (v.lc j i).phase = .yielded then .barrier else .none
        slots := 0
        bundle := (v.lc j i).bundle + 1
        fetches := (v.lc j i).fetches.filter (fun f => decide ((v.lc j i).bundle < f.bundle + 4))
        stored := (v.lc j i).stored.filter (fun p => decide ((v.lc j i).bundle + 1 < p.2))
        regs := { (v.lc j i).regs with pc := t.getD ((v.lc j i).regs.pc + 1) } } := by
  unfold State.slotEnds State.endBundle
  dsimp only
  rw [State.lc_modLc, if_pos last]
  dsimp only
  split
  · next waits => exact absurd (late.symm.trans waits) nofun
  · rw [State.lc_bump, State.lc_modLc, State.lc_modLc]

/-- Settles O36: each operation between its turn and the end of its slot. -/
theorem sequencerOperationsComplete : Obligations.SequencerOperationsComplete := by
  refine ⟨fun j i s => rfl, fun j i latency v s => rfl, fun j i n s scalar ready => State.readS_ready scalar ready,
    fun j i n s scalar early => State.readS_hazard scalar early, fun j i n latency v s scalar order => ?writes,
    fun c d a b j i s u v x y hx hy =>
      ⟨fun r row turn => (exec_ctlRows c d a b s r row).trans (congrArg _ (State.ctlAlu_eq hx hy _ turn)),
        fun imm turn => ?add,
        fun imm r row turn => (exec_shiftRows c d a b imm s r row).trans (congrArg _ (State.ctlShift_eq hx hy _ turn)),
        fun t r row turn => (exec_branchRows c a b t s r row).trans (congrArg _ (State.ctlBranch_eq hx hy _ turn))⟩,
    fun c d imm j i s u x hx => ⟨fun turn => congrArg Host.Outcome.next (turn.done_eq _ rfl),
      fun turn => congrArg Host.Outcome.next (turn.done_eq _ (by dsimp only; rw [hx]))⟩,
    fun c d a imm j i s u x hx => ⟨fun turn => congrArg Host.Outcome.next (turn.done_eq _ (by dsimp only; rw [hx]; rfl)),
      fun e turn => congrArg Host.Outcome.next (turn.done_eq _ (by dsimp only; rw [hx]; rfl))⟩,
    fun c d a j i s turn => congrArg Host.Outcome.next (turn.done_eq _ rfl),
    fun c t j i s turn => congrArg Host.Outcome.next (turn.jump_eq _ rfl), fun c d t j i s u x turn hx => ?loop,
    fun c d n j i s turn => congrArg Host.Outcome.next (turn.done_eq _ rfl), fun c d a b imm j i s u v x y turn hx hy => ?tadd,
    fun h k j i slot b t v late last => ?ends⟩
  case writes =>
    rw [State.writeS_eq v scalar order, State.lc_modLc]
    refine ⟨?_, ?_, fun m other => ?_, rfl, rfl, rfl, rfl, rfl⟩
    · exact SMap.getD_set_self ..
    · exact SMap.getD_set_self ..
    · exact SMap.getD_set_ne _ _ _ _ _ other
  case add =>
    exact congrArg Host.Outcome.next (turn.done_eq _ (by dsimp only; rw [hx]; dsimp only; rw [hy]; rfl))
  case loop =>
    refine congrArg Host.Outcome.next ((turn.issue_eq _).trans ?_)
    dsimp only
    rw [hx]
    dsimp only
    by_cases zero : x - 1 = 0
    · rw [if_pos zero, if_pos zero] <;> rfl
    · rw [if_neg zero, if_neg zero] <;> rfl
  case tadd =>
    exact congrArg Host.Outcome.next (turn.done_eq _ (by dsimp only; rw [hx]; dsimp only; rw [hy]; rfl))
  case ends =>
    rw [State.lc_slotEnds_last t late last]
    exact ⟨rfl, rfl, rfl, rfl, rfl⟩


/-! ### Loads and stores of staging -/

section
variable {s u v : State} {c : CluAt} {j i a n : Nat} {imm : Word} {x : DWord} (hx : s.readS j i a = (x, u))
include hx

theorem State.seqLoad_aligned {b : List Byte} (aligned : (x + imm.signExtend 64).toNat % n = 0)
    (bytes : u.readStg j i unitSeq { lo := (x + imm.signExtend 64).toNat, len := n } = (b, v)) :
    s.seqLoad c j i a n imm = ((x + imm.signExtend 64).toNat, b, v) := by
  unfold State.seqLoad
  rw [hx]
  dsimp only
  unfold sext
  rw [if_neg (not_not_intro aligned), bytes]

theorem State.seqLoad_unaligned (unaligned : (x + imm.signExtend 64).toNat % n ≠ 0) :
    s.seqLoad c j i a n imm = ((x + imm.signExtend 64).toNat, leBytes n (Config.free .hazard u.freeCtr),
      { u.modClu c.hub c.cluster (fun y => { y with align := true }) with freeCtr := u.freeCtr + 1 }) := by
  unfold State.seqLoad
  rw [hx]
  exact if_pos unaligned

theorem State.seqStore_aligned {b : List Byte} (aligned : (x + imm.signExtend 64).toNat % b.length = 0)
    (safe : (u.lc j i).writeHazard unitSeq { lo := (x + imm.signExtend 64).toNat, len := b.length } = false) :
    s.seqStore c j i a imm b = (u.writeStg j i unitSeq (x + imm.signExtend 64).toNat b).modLc j i (fun z => { z with
      stored := z.stored ++ [({ lo := (x + imm.signExtend 64).toNat, len := b.length }, z.bundle + 6)] }) := by
  unfold State.seqStore
  rw [hx]
  dsimp only
  unfold sext
  rw [if_neg (not_not_intro aligned), if_neg]
  rintro (unaligned | hazard)
  · exact unaligned aligned
  · rw [safe] at hazard
    cases hazard

end

/-- A read within staging that meets no hazard brings the bytes (R383, R440). -/
theorem State.readStg_plain {s : State} {j i unit : Nat} {sp : Span} (within : sp.lo + sp.len ≤ stagingTop)
    (safe : (s.lc j i).readHazard (imgStaging (s.job j).image) unit sp = false) :
    s.readStg j i unit sp = ((s.lc j i).bytesOf sp, s) := by
  have kept : s.noteRange j i sp = s := if_pos within
  unfold State.readStg
  dsimp only
  rw [kept, if_neg (ne_true_of_eq_false safe)]

/-- Settles O37: each load and store by its rule, at an address that is a multiple of its length or not. -/
theorem sequencerLoadsAndStores : Obligations.SequencerLoadsAndStores := by
  refine ⟨fun c d a imm j i s u v x b turn hx aligned bytes => congrArg Host.Outcome.next (turn.done_eq _ ?sld),
    fun c a b imm j i s u v x y turn hy hx aligned safe => congrArg Host.Outcome.next (turn.done_eq _ ?sst),
    fun c d a imm j i s u v x b turn hx aligned bytes => congrArg Host.Outcome.next (turn.done_eq _ ?tld),
    fun c a b imm j i s u v x y turn hy hx aligned safe => congrArg Host.Outcome.next (turn.done_eq _ ?tst),
    fun c d a imm j i s u x turn hx unaligned => congrArg Host.Outcome.next (turn.done_eq _ ?noted),
    fun j i unit sp s within safe => State.readStg_plain within safe⟩
  case sld | tld =>
    dsimp only
    rw [State.seqLoad_aligned hx aligned bytes]
  case sst | tst =>
    dsimp only
    rw [hy]
    refine congrArg Issued.done ((State.seqStore_aligned hx ?_ ?_).trans ?_) <;> rw [leBytes_length] <;> assumption
  case noted =>
    dsimp only
    rw [State.seqLoad_unaligned hx unaligned]

end Sys2Proof.Machine
end

section
/-! Synchronisation of the sequencer (R433–R437, R471, R649): semaphores, fences, gate waits, yields, halts and traps. -/
namespace Sys2Proof.Machine
open Sys2Proof

theorem Does.lc_eq {W : Nat} {s t : State} (h : Does W s t) (hlcs : W.testBit Field.lcs.ctorIdx = false) (j i : Nat) : t.lc j i = s.lc j i := by
  unfold State.lc
  rw [(h.same .lcs hlcs : t.lcs = s.lcs)]

theorem Does.job_eq {W : Nat} {s t : State} (h : Does W s t) (hjobs : W.testBit Field.jobs.ctorIdx = false) (j : Nat) : t.job j = s.job j := by
  unfold State.job
  rw [(h.same .jobs hjobs : t.jobs = s.jobs)]

/-- The record of a job after its change, where there is such a job. -/
theorem State.job_modJob_cases (s : State) (j : Nat) (f : Job → Job) : (s.modJob j f).job j = f (s.job j) ∨ s.modJob j f = s := by
  unfold State.modJob
  split
  · next x found => left; simp [State.job, SMap.getD, found]
  · exact .inr rfl

theorem State.modJob_congr {s : State} {j : Nat} {f g : Job → Job} (h : f (s.job j) = g (s.job j)) : s.modJob j f = s.modJob j g := by
  unfold State.modJob
  split
  · next x found =>
    have job : s.job j = x := by simp [State.job, SMap.getD, found]
    rw [job] at h
    rw [h]
  · rfl

/-- A semaphore that an addition does not carry over (R436). -/
theorem State.signal_eq {s : State} {j i k n : Nat} (unit : Nat) (room : ((s.lc j i).regs.sem.getD k 0).toNat + n < 65536) :
    s.signal j i k n unit = s.modLc j i (fun x => { x with
      regs := { x.regs with sem := x.regs.sem.set k (BitVec.ofNat 16 (((s.lc j i).regs.sem.getD k 0).toNat + n)) }
      sigBy := x.sigBy.set k (BitVec.ofNat 16 unit) }) := by
  unfold State.signal
  dsimp only
  rw [if_pos room]

/-! ### The fence -/

/-- The state once a fence is past: what was issued earlier can be read (R435, R436). -/
def State.fenced (s : State) (c : CluAt) (j i : Nat) : State :=
  (s.modLc j i (fun x => { x with sReady := [], tReady := [], vReady := [], stored := [], past := [] })).lcGoes c.hub c.cluster
    (s.lc j i).lastUnit

theorem State.fence_quiet {s : State} {c : CluAt} {j i : Nat} (quiet : (s.lc j i).quiet = true) (f : State → Issued) :
    s.fence c j i f = f (s.fenced c j i) :=
  if_pos quiet

theorem State.fenced_does (s : State) (c : CluAt) (j i : Nat) : Does 0x40000000001E0 s (s.fenced c j i) :=
  State.lcGoes_does (.of .self rfl) _ _ _ (State.modLc_does (.of .self rfl) _ _ _ (.refl s))

theorem State.lc_fenced (s : State) (c : CluAt) (j i : Nat) :
    (s.fenced c j i).lc j i = { s.lc j i with sReady := [], tReady := [], vReady := [], stored := [], past := [] } :=
  ((State.lcGoes_does .self c.hub c.cluster _ (.refl _)).lc_eq rfl j i).trans (State.lc_modLc ..)

/-! ### Yields and halts -/

/-- The state in which a yielding logical cluster begins to wait at the barrier (R389, R437, R649). -/
def State.yields (s : State) (c : CluAt) (j i : Nat) : State :=
  ((s.modLc j i (fun y => { y with phase := .yielded, wbuf := [] })).dropCharge c.hub c.cluster).modJob j (fun x => { x with lastArrived := i })

theorem State.lc_yields (s : State) (c : CluAt) (j i : Nat) : (s.yields c j i).lc j i = { s.lc j i with phase := .yielded, wbuf := [] } := by
  unfold State.yields
  rw [(State.modJob_does .self j _ (.refl _)).lc_eq rfl, (State.dropCharge_does .self c.hub c.cluster (.refl _)).lc_eq rfl, State.lc_modLc]

theorem State.step_yields (s : State) (c : CluAt) (j i : Nat) : ((s.yields c j i).job j).step = (s.job j).step := by
  have kept : ((s.modLc j i (fun y => { y with phase := .yielded, wbuf := [] })).dropCharge c.hub c.cluster).job j = s.job j :=
    (State.dropCharge_does .self c.hub c.cluster (.refl _)).job_eq rfl j
  unfold State.yields
  rcases State.job_modJob_cases _ j (fun x => { x with lastArrived := i }) with eq | eq
  · rw [eq, kept]
  · rw [eq, kept]

/-- The state that a halt leaves before the job is looked at (R437). -/
def State.halts (s : State) (j i : Nat) : State :=
  ((s.modLc j i (fun y => { y with phase := .halted, wbuf := [] })).vacate j i).modJob j (fun x => { x with lastArrived := i })

/-- A logical cluster that leaves its physical cluster keeps all but its place. -/
theorem State.lc_vacate (s : State) (j i : Nat) : (s.vacate j i).lc j i = { s.lc j i with place := none } := by
  unfold State.vacate
  split
  · next h k _ =>
    rw [State.lc_modLc, (State.dropCharge_does .self h k (.refl _)).lc_eq rfl, (State.modClu_does .self h k _ (.refl s)).lc_eq rfl]
  · next away => rw [← away]

theorem State.lc_halts (s : State) (j i : Nat) : (s.halts j i).lc j i = { s.lc j i with phase := .halted, wbuf := [], place := none } := by
  unfold State.halts
  rw [(State.modJob_does .self j _ (.refl _)).lc_eq rfl, State.lc_vacate, State.lc_modLc]

/-- Settles O38: each operation at its turn, with what holds up the ones that wait. -/
theorem sequencerSynchronises : Obligations.SequencerSynchronises := by
  refine ⟨fun c sem n j i s u at_ turn => ?wait, fun c sem n j i s turn => congrArg Host.Outcome.next (turn.done_eq _ rfl),
    fun j i k n unit s room => State.signal_eq unit room, fun c j i s u at_ turn => ?fence, fun c d e j i n s u at_ turn gate own => ?gate,
    fun c d e j i s turn none_ => ?noGate, fun c n j i s u at_ turn quiet step more => ?yields,
    fun c n j i s u at_ turn quiet wrong => ?faults, fun c j i s u at_ turn quiet => ?halts,
    fun c code j i s turn => congrArg Host.Outcome.next (turn.done_eq _ rfl)⟩
  case wait =>
    rw [at_]
    by_cases enough : n.toNat ≤ (((s.atTurn c j i).lc j i).regs.sem.getD sem.val 0).toNat
    · rw [if_pos enough]
      exact congrArg Host.Outcome.next (turn.done_eq _ (if_pos enough))
    · rw [if_neg enough]
      exact congrArg Host.Outcome.next (turn.blocked_eq _ (if_neg enough))
  case fence =>
    rw [at_]
    by_cases quiet : ((s.atTurn c j i).lc j i).quiet = true
    · rw [if_pos quiet]
      exact congrArg Host.Outcome.next (turn.done_eq _ (if_pos quiet))
    · rw [if_neg quiet]
      exact congrArg Host.Outcome.next (turn.blocked_eq _ (if_neg quiet))
  case gate =>
    rw [at_] at gate own ⊢
    by_cases ready : ((s.atTurn c j i).gates.getD (j * 4096 + e.toNat) {}).prepared = true
    · rw [if_pos ready]
      refine congrArg Host.Outcome.next (turn.done_eq _ ?_)
      dsimp only
      rw [gate]
      exact (if_neg (not_not_intro own)).trans (if_pos ready)
    · rw [if_neg ready]
      refine congrArg Host.Outcome.next (turn.blocked_eq _ ?_)
      dsimp only
      rw [gate]
      exact (if_neg (not_not_intro own)).trans (if_neg ready)
  case noGate =>
    refine congrArg Host.Outcome.next (turn.done_eq _ ?_)
    dsimp only
    rw [none_] <;> rfl
  case yields =>
    rw [at_] at quiet step more ⊢
    have job : ((s.atTurn c j i).fenced c j i).job j = (s.atTurn c j i).job j := (State.fenced_does _ c j i).job_eq rfl j
    refine ⟨((s.atTurn c j i).fenced c j i).yields c j i, congrArg Host.Outcome.next (turn.done_eq _ ?_), ?_⟩
    · rw [State.fence_quiet quiet, State.step_yields, job]
      refine if_neg ?_
      rintro (wrong | last)
      · exact wrong step
      · omega
    · rw [State.lc_yields, State.lc_fenced]
      exact ⟨rfl, rfl, rfl, rfl⟩
  case faults =>
    rw [at_] at quiet wrong ⊢
    have job : ((s.atTurn c j i).fenced c j i).job j = (s.atTurn c j i).job j := (State.fenced_does _ c j i).job_eq rfl j
    refine ⟨(s.atTurn c j i).fenced c j i, congrArg Host.Outcome.next (turn.done_eq _ ?_), (State.fenced_does _ c j i).same .jobs rfl⟩
    rw [← job] at wrong
    exact (State.fence_quiet quiet _).trans (if_pos wrong)
  case halts =>
    rw [at_] at quiet ⊢
    refine ⟨((s.atTurn c j i).fenced c j i).halts j i, ?_, ?_, ?_, ?_, congrArg Host.Outcome.next (turn.jump_eq _ ?_)⟩
    case refine_5 =>
      rw [State.fence_quiet quiet]
      unfold State.halts
      dsimp only
      generalize (State.modJob (State.vacate _ j i) j _) = v
      exact congrArg (Issued.jump · _) (if_congr Iff.rfl (congrArg (State.endJob · j 0 0 0) (State.modJob_congr rfl)) rfl)
    all_goals rw [State.lc_halts, State.lc_fenced]

end Sys2Proof.Machine
end

section
/-! The stream mover and the matrix unit (R384–R393, R420–R433, R441, R449–R460): operations join their unit's queue and are performed. -/
namespace Sys2Proof.Machine
open Sys2Proof

/-! ### What a new operation spoils (R440) -/

/-- `y` is `x` but for marks on what is in progress, for register contents and for descriptors that hazards spoil: staging, the weight
buffers and the queues of the units are as in `x`. -/
structure Lc.SpoiltOf (x y : Lc) : Prop where
  staging : y.staging = x.staging
  wbuf : y.wbuf = x.wbuf
  mat : y.mat.map (·.op) = x.mat.map (·.op)
  streams : ∀ q, (y.streams.getD q []).length = (x.streams.getD q []).length

theorem Lc.SpoiltOf.refl (x : Lc) : x.SpoiltOf x := ⟨rfl, rfl, rfl, fun _ => rfl⟩

theorem Lc.SpoiltOf.trans {x y z : Lc} (h : x.SpoiltOf y) (k : y.SpoiltOf z) : x.SpoiltOf z :=
  ⟨k.staging.trans h.staging, k.wbuf.trans h.wbuf, k.mat.trans h.mat, fun q => (k.streams q).trans (h.streams q)⟩

/-- Marking what is in progress keeps every queue's length. -/
theorem Lc.taint_spoilt (x : Lc) (u : Nat) (sp : Span) : x.SpoiltOf (x.taint u sp) := by
  refine ⟨rfl, rfl, ?_, fun q => ?_⟩
  · unfold Lc.taint
    rw [List.map_map]
    refine List.map_congr_left fun m _ => ?_
    simp only [Function.comp]
    split <;> rfl
  · unfold Lc.taint SMap.getD
    rw [SMap.get?_mapVals]
    cases x.streams.get? q <;> simp

theorem Lc.spoiltOf_mapStream (x : Lc) (q : Nat) (f : StreamDesc → StreamDesc) :
    x.SpoiltOf { x with streams := x.streams.mod q [] (fun l => l.map f) } := by
  refine ⟨rfl, rfl, rfl, fun p => ?_⟩
  by_cases same : p = q
  · rw [same, SMap.getD_mod_self, List.length_map]
  · rw [SMap.getD_mod_ne _ _ _ _ _ _ same]

theorem State.writeT_spoilt (s : State) (j i n : Nat) (v : BitVec 128) (latency : Nat) :
    (s.lc j i).SpoiltOf ((s.writeT j i n v latency).lc j i) := by
  unfold State.writeT
  dsimp only
  split <;> (dsimp only; rw [State.lc_modLc]; exact ⟨rfl, rfl, rfl, fun _ => rfl⟩)

/-- A fold of changes that each spoil at most. -/
theorem State.foldl_spoilt {α : Type} {j i : Nat} {f : State → α → State} (each : ∀ (s : State) a, (s.lc j i).SpoiltOf ((f s a).lc j i)) (l : List α)
    (s : State) : (s.lc j i).SpoiltOf ((l.foldl f s).lc j i) := by
  induction l generalizing s with
  | nil => exact .refl _
  | cons a l ih => exact (each s a).trans (ih _)

theorem State.spoilFetch_spoilt (s : State) (j i : Nat) (sp : Span) : (s.lc j i).SpoiltOf ((s.spoilFetch j i sp).lc j i) := by
  refine State.foldl_spoilt (fun s f => ?_) _ s
  rcases f with ⟨_, _, t | ⟨q, id⟩⟩
  · exact State.writeT_spoilt { s with freeCtr := s.freeCtr + 1 } j i t _ 0
  · dsimp only
    rw [State.lc_modLc]
    exact Lc.spoiltOf_mapStream (s.lc j i) q _

/-- What an operation will write spoils what is in progress there. -/
theorem State.foldl_taint_spoilt (j i u : Nat) (l : List Span) (s : State) :
    (s.lc j i).SpoiltOf ((l.foldl (fun s sp => (s.spoilFetch j i sp).modLc j i (fun x => x.taint u sp)) s).lc j i) := by
  refine State.foldl_spoilt (fun s sp => ?_) l s
  rw [State.lc_modLc]
  exact (s.spoilFetch_spoilt j i sp).trans (Lc.taint_spoilt ..)

/-! ### Matrix operations -/

section
variable {s u : State} {c : CluAt} {w : DWord} {j i : Nat} (turn : SlotReady s c 1 w j i) (sem : Nat) (sig : Bool) {tiles : List Nat}
include turn

theorem State.issueMat_full (op : List (BitVec 128) → MatOp) (full : 4 ≤ ((s.atTurn c j i).lc j i).mat.length) :
    s.issueMat c w sem sig tiles op = (s.atTurn c j i).lcWaits c.hub c.cluster j i (.full 1) 4 1 0 :=
  turn.blocked_eq _ (if_pos full)

/-- A matrix operation joins its unit's queue with the descriptors it captures (R426, R430). -/
theorem State.issueMat_eq (op : List (BitVec 128) → MatOp) {ts : List (BitVec 128)} (room : ((s.atTurn c j i).lc j i).mat.length < 4)
    (reads : (s.atTurn c j i).readTs j i tiles = (ts, u)) :
    s.issueMat c w sem sig tiles op = s.issuedAs c 1 j i ((u.queueMat j i {
      op := op ts, bitmap := (u.lc j i).bitmapOf (op ts), sem := sem, sig := sig,
      tainted := (u.lc j i).matHazard (imgStaging (u.job j).image) ts ((u.lc j i).bitmapOf (op ts)) (op ts) }).lcGoes c.hub c.cluster 0x10)
      none := by
  refine turn.done_eq _ ((if_neg (not_le.mpr room)).trans ?_)
  rw [reads]

end

/-- Only a `WLOAD` with `SPARSE` 2 captures a bitmap (R454). -/
theorem Lc.bitmapOf_wload (x : Lc) (t : BitVec 128) (buf : Bool) (sp : Fin 3) :
    x.bitmapOf (.wload t buf (BitVec.ofNat 2 sp)) = if sp = 2 then x.bytesOf { lo := tAux t, len := 32 } else [] := by
  have two : BitVec.ofNat 2 sp = 2 ↔ sp = 2 := by decide +revert
  exact if_congr two rfl rfl

/-- The format and the `AUX` of a `WLOAD` that are refused (R427, R460). -/
theorem State.doWload_good {j i sp : Nat} {m : MatIss} {t : BitVec 128} {buf : Bool} {s u : State} {tile : WTile} {bad : Bool}
    (shape : wShapeOk t sp = true) (format : isMx (tFmt t) = true ∨ tFmt t = 1)
    (aux1 : sp = 1 → auxBad t 16 ((tRows t * tCols t + 7) / 8) = false) (aux2 : sp = 2 → auxBad t 64 64 = false)
    (clean : m.tainted = false)
    (load : (m.spans.foldl (fun v sp => v.noteRange j i sp) s).wloadTile j i t sp = (tile, bad, u)) :
    s.doWload j i m t buf sp = (u.matErr j i false false false bad).modLc j i (fun x => { x with wbuf := x.wbuf.set (b2n buf) tile }) := by
  unfold State.doWload
  dsimp only
  rw [if_neg, clean, load]
  · rfl
  · rw [shape]
    rcases format with mx | plain
    · by_cases one : sp = 1 <;> by_cases two : sp = 2 <;> simp_all [metaLen]
    · by_cases one : sp = 1 <;> by_cases two : sp = 2 <;> simp_all [metaLen]

/-- Settles O39: the stream mover and the matrix unit, each operation between its turn and its queue, and each completion. -/
theorem streamAndMatrixCommandsComplete : Obligations.StreamAndMatrixCommandsComplete := by
  refine ⟨fun c q a sx g media j i s u v p d turn room hp copy => ?copies,
    fun c q a sx g media j i s turn full => congrArg Host.Outcome.next (turn.blocked_eq _ (if_pos full)),
    fun j i q p d v => ?queued, fun c q media j i s d resident head live good started => ⟨fun ok => ?completes, fun known refused bad => ?faults⟩,
    fun c q media j i s d segs resident head live good hsegs => ?retries, fun c tw buf sp g j i s u x map turn room hx hmap => ?wload,
    fun c ta out ti useInit buf zskip g j i s u ts o turn room reads ho => ?mma,
    fun c tw buf sp g j i s turn full => congrArg Host.Outcome.next (State.issueMat_full turn _ _ _ full), fun j i m v => ?joined,
    fun c j i s m r resident mat live => ⟨fun t buf sp op => ?wloads, fun ta out ti useInit buf zskip op => ?mmas⟩,
    fun j i m t buf sp s => ⟨fun shape => ?refused, fun tile bad u shape format aux1 aux2 clean load =>
      State.doWload_good shape format aux1 aux2 clean load⟩,
    fun j i sp s => ⟨fun within => if_pos within, fun h k beyond place => ?noted⟩⟩
  case copies =>
    refine congrArg Host.Outcome.next ((turn.issue_eq _).trans ?_)
    dsimp only
    rw [if_neg (not_le.mpr room), hp]
    dsimp only
    rw [copy]
    dsimp only
    by_cases refused : d.bad = true
    · rw [if_pos refused, if_pos refused] <;> rfl
    · rw [if_neg refused, if_neg refused] <;> rfl
  case queued =>
    have spoilt := State.foldl_taint_spoilt j i q d.writes v
    refine ⟨_, ?_, spoilt.streams q, ?_⟩
    · unfold State.queueDesc
      rw [State.lc_modLc]
      exact SMap.getD_mod_self _ _ _ (fun l => l ++ [d])
    · unfold State.queueDesc
      rw [State.lc_modLc]
      exact spoilt.staging
  case completes =>
    refine congrArg Host.Outcome.next ?_
    rw [resident]
    dsimp only
    rw [head]
    dsimp only
    rw [if_neg, if_neg]
    · rintro ⟨_, other⟩
      obtain ⟨x, hx, ne⟩ := List.any_eq_true.mp other
      simp [ok x hx] at ne
    · rintro (fatal | bad | notStarted | waits)
      · exact ne_true_of_eq_false live fatal
      · exact ne_true_of_eq_false good bad
      · exact notStarted started
      · obtain ⟨x, hx, wait⟩ := List.any_eq_true.mp waits
        simp [ok x hx] at wait
  case faults =>
    refine congrArg Host.Outcome.next ?_
    rw [resident]
    dsimp only
    rw [head]
    dsimp only
    rw [if_neg, if_pos]
    · obtain ⟨x, hx, ne⟩ := bad
      exact ⟨ne_true_of_eq_false known, List.any_eq_true.mpr ⟨x, hx, bne_iff_ne.mpr ne⟩⟩
    · rintro (fatal | bad | notStarted | waits)
      · exact ne_true_of_eq_false live fatal
      · exact ne_true_of_eq_false good bad
      · exact notStarted started
      · obtain ⟨x, hx, wait⟩ := List.any_eq_true.mp waits
        obtain ⟨some_, notRetry⟩ := refused x hx
        cases x with
        | none => exact some_ rfl
        | some y => simp_all
  case retries =>
    refine congrArg Host.Outcome.next ?_
    rw [resident]
    dsimp only
    rw [head]
    dsimp only
    rw [if_neg, hsegs]
    rintro (fatal | bad)
    · exact ne_true_of_eq_false live fatal
    · exact ne_true_of_eq_false good bad
  case wload =>
    have reads : (s.atTurn c j i).readTs j i [tw.val] = ([x], u) := by
      unfold State.readTs
      rw [hx] <;> rfl
    refine congrArg Host.Outcome.next ((State.issueMat_eq turn g.sem g.sig _ room reads).trans ?_)
    rw [hmap, ← Lc.bitmapOf_wload] <;> rfl
  case mma =>
    rw [ho]
    exact congrArg Host.Outcome.next (State.issueMat_eq turn g.sem g.sig _ room reads)
  case joined =>
    have spoilt := State.foldl_taint_spoilt j i m.op.unit m.op.writes v
    unfold State.queueMat
    rw [State.lc_modLc]
    exact ⟨_, rfl, spoilt.mat, spoilt.staging, spoilt.wbuf⟩
  case wloads =>
    refine congrArg Host.Outcome.next ?_
    unfold State.matDone
    rw [resident]
    dsimp only
    rw [mat]
    dsimp only
    rw [live, op] <;> rfl
  case mmas =>
    refine congrArg Host.Outcome.next ?_
    unfold State.matDone
    rw [resident]
    dsimp only
    rw [mat]
    dsimp only
    rw [live, op] <;> rfl
  case refused =>
    refine ⟨!(isMx (tFmt t) || tFmt t == 1), (sp == 1 && auxBad t 16 (metaLen t)) || (sp == 2 && auxBad t 64 64), ?_⟩
    unfold State.doWload
    dsimp only
    rw [shape]
    exact if_pos rfl
  case noted =>
    unfold State.noteRange
    rw [if_neg (not_le.mpr beyond), place]
    dsimp only
    rw [State.clu_modClu]

end Sys2Proof.Machine
end

section
/-! Job commands (R437, R489–R517, R543, R649) as the engine of their queue's hub issues them. -/
namespace Sys2Proof.Machine
open Sys2Proof

/-- A command whose queue's turn has come leaves what its own effect on the state after the issue leaves. -/
theorem QueueTurn.served_eq {s u v : State} {q op : Nat} {c : Cand} (turn : QueueTurn s q op c) (issued : u = s.issuedFrom q c)
    (f : RingSlot → State → State) (effect : f c.slot u = v) : s.issueCmd q op f = v.servedOn q := by
  rw [turn.issue_eq, ← issued, effect] <;> rfl

/-- A command that names the resident job `j`. -/
theorem JobTurn.served_eq {s u v : State} {q op j : Nat} {c : Cand} (turn : JobTurn s q op c j u) (f : RingSlot → State → State)
    (effect : u.jobOf c.slot.entry = some j → f c.slot u = v) : s.issueCmd q op f = v.servedOn q := by
  obtain ⟨turn, issued, job⟩ := turn
  exact turn.served_eq issued f (effect job)

/-- Every row of a job command that names no resident job answers so (R489). -/
theorem exec_jobRows_unknown {q : BitVec 14} {l : List Medium} {c : Cand} {u s : State} (issued : u = s.issuedFrom q.toNat c)
    (unknown : u.jobOf c.slot.entry = none) : ∀ r ∈ jobRows q l, QueueTurn s q.toNat r.1 c →
      exec r.2 s = .next ((u.jobRefuse ⟨q.toNat, c.slot.id⟩ 0x0F (opB c.slot.entry 0 2)).servedOn q.toNat) := by
  intro r row turn
  fin_cases row <;> exact congrArg Host.Outcome.next (turn.served_eq issued _ (by dsimp only; rw [unknown]))

/-! ### JLAUNCH (R489, R497) -/

section
variable {q : BitVec 14} {l : List Medium} {c : Cand} {j : Nat} {u s : State} (turn : JobTurn s q.toNat 0x41 c j u)
  (pair : imgPairs (u.job j).image = true ∨ (opB c.slot.entry 3 1 = 0 ∧ opB c.slot.entry 4 4 = 0))
include turn pair

/-- A `JLAUNCH` whose pair operands fit the image. -/
theorem exec_jlaunch_paired : exec (.jlaunch q l) s = .next (State.servedOn (
    if (u.job j).state ≠ .loaded then u.jobDone ⟨q.toNat, c.slot.id⟩ 0x10 j
    else if opB c.slot.entry 8 8 ≠ 0 ∧
        (opB c.slot.entry 8 8 ≤ u.clk.poolTime.toNat ∨ u.clk.poolTime.toNat + 60000000000 < opB c.slot.entry 8 8) then
      u.jobDone ⟨q.toNat, c.slot.id⟩ 0x11 j
    else if opB c.slot.entry 8 8 ≠ 0 ∧ ¬u.zlg.locked then u.jobDone ⟨q.toNat, c.slot.id⟩ 0x12 j
    else (u.modJob j (fun x => { x with
      state := .launchPending, pairId := BitVec.ofNat 32 (opB c.slot.entry 4 4), peerDev := opB c.slot.entry 3 1,
      launch := some {
        cmd := ⟨q.toNat, c.slot.id⟩, time := BitVec.ofNat 64 (opB c.slot.entry 8 8), locked := u.zlg.locked,
        saveAtYield := opB c.slot.entry 2 1 % 2 == 1, divContinue := opB c.slot.entry 2 1 / 2 == 1,
        peerDev := opB c.slot.entry 3 1, pairId := BitVec.ofNat 32 (opB c.slot.entry 4 4) } })).launchGo j l) q.toNat) := by
  refine congrArg Host.Outcome.next (turn.served_eq _ fun job => ?_)
  dsimp only
  rw [job]
  dsimp only
  refine if_neg ?_
  rintro ⟨noPair, operands⟩
  rcases pair with pair | ⟨dev, id⟩
  · exact noPair pair
  · exact operands.elim (· dev) (· id)

end

/-! ### JABORT (R517) -/

/-- An abort of a job that is loaded, pending, running or held ends it. -/
theorem State.abortJob_live {u : State} {j : Nat} {c : JCmd}
    (live : (u.job j).state = .loaded ∨ (u.job j).state = .launchPending ∨ (u.job j).state = .running ∨ (u.job j).state = .held) :
    u.abortJob j (some c) = (u.modJob j (fun x => { x with aborts := x.aborts ++ [c] })).endJob j 9 0 0 := by
  unfold State.abortJob
  rcases live with h | h | h | h <;> rw [h] <;> rfl

/-- Settles O40: each job command with what its turn, its job and that job's state make of it. -/
theorem jobCommandsAreServed : Obligations.JobCommandsAreServed := by
  refine ⟨fun q l c u s issued unknown => exec_jobRows_unknown issued unknown, fun q l c acc u v s turn issued chunks => ?load,
    fun q l c j u s time fl turn htime hfl pair =>
      ⟨fun notLoaded => ?notLoaded, fun loaded timed outside => ?outside, fun loaded after within unlocked => ?unlocked,
        fun loaded when_ => ?launch⟩,
    fun q c j u s turn => congrArg Host.Outcome.next (turn.served_eq _ fun job => by dsimp only; rw [job]),
    fun q c j u s turn => congrArg Host.Outcome.next (turn.served_eq _ fun job => by dsimp only; rw [job]),
    fun q l c j u s k turn hk => congrArg Host.Outcome.next (turn.served_eq _ fun job => ?checkpoint),
    fun q c j u s turn => congrArg Host.Outcome.next (turn.served_eq _ fun job => ?resumes),
    fun q c j u s turn => ⟨fun live => congrArg Host.Outcome.next (turn.served_eq _ fun job => ?abort),
      fun ended => congrArg Host.Outcome.next (turn.served_eq _ fun job => ?abortOver),
      fun x loading load => congrArg Host.Outcome.next (turn.served_eq _ fun job => ?abortLoad)⟩,
    fun q l c j u v s acc turn => ⟨fun ended idle resent => congrArg Host.Outcome.next (turn.served_eq _ fun job => ?unload),
      fun live1 live2 => congrArg Host.Outcome.next (turn.served_eq _ fun job => ?unloadLive)⟩⟩
  case load =>
    refine congrArg Host.Outcome.next (turn.served_eq issued _ ?_)
    dsimp only
    rw [chunks]
  case notLoaded =>
    rw [exec_jlaunch_paired turn pair, if_pos notLoaded]
  case outside =>
    rw [htime] at timed outside
    rw [exec_jlaunch_paired turn pair, if_neg (not_not_intro loaded), if_pos ⟨timed, outside⟩]
  case unlocked =>
    rw [htime] at after within
    rw [exec_jlaunch_paired turn pair, if_neg (not_not_intro loaded), if_neg (by omega), if_pos ⟨by omega, ne_true_of_eq_false unlocked⟩]
  case launch =>
    rw [htime] at when_ ⊢
    rw [exec_jlaunch_paired turn pair, if_neg (not_not_intro loaded), if_neg (by omega), if_neg, hfl]
    rintro ⟨timed, unlocked⟩
    rcases when_ with now | ⟨_, _, locked⟩
    · exact timed now
    · exact unlocked locked
  case checkpoint =>
    dsimp only
    rw [job, hk]
    dsimp only
    by_cases running : (u.job j).state = .running
    · rw [if_pos running, if_neg (fun other => other.1 running), if_neg (by rw [running]; nofun)]
    · rw [if_neg running]
      by_cases held : (u.job j).state = .held
      · rw [if_pos held, if_pos held, if_neg (fun other => other.2 held)]
      · rw [if_pos ⟨running, held⟩, if_neg held]
  case resumes =>
    dsimp only
    rw [job]
    exact ite_not _ _ _
  case abort =>
    dsimp only
    rw [job]
    exact State.abortJob_live live
  case abortOver =>
    dsimp only
    rw [job]
    dsimp only
    unfold State.abortJob
    rcases ended with h | h <;> rw [h]
  case abortLoad =>
    dsimp only
    rw [job]
    dsimp only
    unfold State.abortJob
    rw [loading]
    dsimp only
    rw [load]
  case unload =>
    dsimp only
    rw [job]
    dsimp only
    rw [if_neg, resent]
    rintro (⟨not1, not2⟩ | retiring)
    · exact ended.elim not1 not2
    · exact ne_true_of_eq_false idle retiring
  case unloadLive =>
    dsimp only
    rw [job]
    exact if_pos (.inl ⟨live1, live2⟩)

end Sys2Proof.Machine
end

section
/-! Loads and launches (R492, R493, R496–R498, R511–R514): the steps that a load and a launch take as their accesses end. -/
namespace Sys2Proof.Machine
open Sys2Proof

theorem SMap.get?_keep_of_false {α : Type} {m : SMap α} {p : Nat → Bool} {k : Nat} (gone : p k = false) : (m.keep p).get? k = none := by
  unfold SMap.keep
  induction m with
  | nil => rfl
  | cons e m ih =>
    by_cases kept : p e.1 = true
    · rw [List.filter_cons_of_pos (p := fun (e : Nat × α) => p e.1) kept, SMap.get?_cons, if_neg, ih]
      rintro rfl
      rw [gone] at kept
      cases kept
    · rw [List.filter_cons_of_neg (p := fun (e : Nat × α) => p e.1) kept, ih]

/-! ### Loads -/

section
variable {q : BitVec 14} {id : Nat} {l : List Medium} {x : JLoad} {acc : List Nat} {u v s : State}
  (found : s.jobg.loads.find? (fun y => y.cmd == ⟨q.toNat, id⟩) = some x) (live : s.fatal = false) (resent : s.accResendAll l x.accs = (acc, u))
  (kept : v = (u.setLoad { x with accs := acc }).cohEnd .clean)
include found live resent kept

/-- What a load's completed accesses lead to (R98, R492). -/
theorem exec_jloadDone : exec (.jloadDone q id l) s = .next (
    if ¬v.allOver acc then v
    else if (match x.job with | some j => v.loadHeld (v.job j).saveHubs (imgLogical (v.job j).image) | none => false) = true then v
    else match x.phase, x.job with
      | .image, _ => v.loadImage { x with accs := acc } l
      | .weights, some j => v.loadWeights { x with accs := acc } j l
      | .head, some j => v.loadBody { x with accs := acc } j l
      | .body, some j => v.loadCkpt { x with accs := acc } j
      | _, none => v) := by
  refine congrArg Host.Outcome.next ?_
  rw [found]
  dsimp only
  rw [if_neg (ne_true_of_eq_false live), resent]
  dsimp only
  rw [← kept] <;> rfl

/-- A load whose clusters no commit holds back takes its next step. -/
theorem exec_jloadDone_next {j : Nat} (ended : v.allOver acc = true) (job : x.job = some j)
    (free : v.loadHeld (v.job j).saveHubs (imgLogical (v.job j).image) = false) :
    exec (.jloadDone q id l) s = .next (match x.phase with
      | .image => v.loadImage { x with accs := acc } l
      | .weights => v.loadWeights { x with accs := acc } j l
      | .head => v.loadBody { x with accs := acc } j l
      | .body => v.loadCkpt { x with accs := acc } j) := by
  rw [exec_jloadDone found live resent kept, if_neg (not_not_intro ended), job]
  dsimp only
  rw [if_neg (ne_true_of_eq_false free)]
  cases x.phase <;> rfl

end

/-- A load that fails leaves neither its job nor a logical cluster of it (R492). -/
theorem State.loadFail_gone {j : Nat} {x : JLoad} (r cause : Nat) (v : State) (job : x.job = some j) :
    (v.loadFail x r cause).jobs.get? j = none ∧ ∀ i, (v.loadFail x r cause).lcs.get? (j * 1024 + i % 1024) = none := by
  have does : Does 0x2100058000000E1E0 { v.dropLoad x with jobs := (v.dropLoad x).jobs.erase j, lcs := (v.dropLoad x).lcs.keep (fun k => k / 1024 != j) }
      (v.loadFail x r cause) := by
    unfold State.loadFail
    rw [job]
    exact State.completeCmd_does .self _ _ _ _ _
      (.foldl _ _ (fun _ _ hk => State.completeCmd_does .self _ _ _ _ _ hk) (.refl _))
  have jobs : (v.loadFail x r cause).jobs = (v.dropLoad x).jobs.erase j := does.same .jobs rfl
  have lcs : (v.loadFail x r cause).lcs = (v.dropLoad x).lcs.keep (fun k => k / 1024 != j) := does.same .lcs rfl
  rw [jobs, lcs]
  refine ⟨SMap.get?_erase_self .., fun i => SMap.get?_keep_of_false ?_⟩
  have : (j * 1024 + i % 1024) / 1024 = j := by omega
  rw [this]
  exact bne_self_eq_false j

/-! ### Launches -/

section
variable {job : BitVec 12} {m : List Medium} {l : Launch} {s u : State} (live : s.fatal = false)
  (pending : (s.job job.toNat).state = .launchPending) (went : u = s.launchGo job.toNat m) (launch : (u.job job.toNat).launch = some l)
include live pending went launch

/-- A launch whose instant has not come, or that still waits for a digest or its peer. -/
theorem exec_launch_waits (early : l.digested = false ∨ (imgPairs (u.job job.toNat).image = true ∧ l.helloOk = false) ∨
    u.clk.poolTime.toNat < l.time.toNat) : exec (.launch job m) s = .next u := by
  refine congrArg Host.Outcome.next ?_
  dsimp only
  rw [if_neg (by simp [live, pending]), ← went, launch]
  dsimp only
  rw [if_pos]
  simpa using early

variable (digested : l.digested = true) (hello : imgPairs (u.job job.toNat).image = true → l.helloOk = true)
  (due : l.time.toNat ≤ u.clk.poolTime.toNat)
include digested hello due

theorem exec_launch_now (room : (u.job job.toNat).reserved = true ∨ u.saveRoom (u.job job.toNat) = true) (unread : l.regions = none)
    (none_ : extRegions (u.job job.toNat).image = [] ∨ (u.job job.toNat).flags.getLsbD 1 = true) :
    exec (.launch job m) s = .next ((u.modJob job.toNat (fun x => { x with reserved := true })).launchNow job.toNat l) := by
  refine congrArg Host.Outcome.next ?_
  dsimp only
  rw [if_neg (by simp [live, pending]), ← went, launch]
  dsimp only
  rw [if_neg, if_neg, unread]
  dsimp only
  · rw [if_pos]
    simpa using none_
  · rintro ⟨unreserved, full⟩
    exact room.elim unreserved full
  · rintro (undigested | ⟨pair, alone⟩ | early)
    · exact undigested digested
    · exact alone (hello pair)
    · omega

theorem exec_launch_noRoom (unreserved : (u.job job.toNat).reserved = false) (full : u.saveRoom (u.job job.toNat) = false)
    (timed : l.time ≠ 0) : exec (.launch job m) s = .next (u.launchFail job.toNat 0x0B) := by
  refine congrArg Host.Outcome.next ?_
  dsimp only
  rw [if_neg (by simp [live, pending]), ← went, launch]
  dsimp only
  rw [if_neg, if_pos ⟨ne_true_of_eq_false unreserved, ne_true_of_eq_false full⟩, if_neg timed]
  rintro (undigested | ⟨pair, alone⟩ | early)
  · exact undigested digested
  · exact alone (hello pair)
  · omega

end

theorem State.lc_modLc_ne {i k : Nat} (other : i ≠ k) (s : State) (j : Nat) (f : Lc → Lc) : (s.modLc j k f).lc j i = s.lc j i :=
  SMap.getD_mod_ne s.lcs (lcKey j k) (lcKey j i) {} {} f (fun same => other (Nat.add_left_cancel same))

/-- The logical clusters of a list are made anew (R413). -/
def State.freshLcs (s : State) (j : Nat) (l : List Nat) : State := l.foldl (fun u i => u.modLc j i (fun _ => (u.job j).freshLc i)) s

theorem State.freshLcs_does (s : State) (j : Nat) (l : List Nat) : Does 0x4000000000000 s (s.freshLcs j l) :=
  .foldl _ _ (fun _ _ hk => State.modLc_does .self _ _ _ hk) (.refl _)

theorem State.lc_freshLcs {i : Nat} (j : Nat) (l : List Nat) (s : State) (mem : i ∈ l) : (s.freshLcs j l).lc j i = (s.job j).freshLc i := by
  unfold State.freshLcs
  induction l using List.reverseRecOn with
  | nil => cases mem
  | append_singleton l k ih =>
    rw [List.foldl_append, List.foldl_cons, List.foldl_nil]
    by_cases same : i = k
    · rw [same, State.lc_modLc]
      exact congrArg (Job.freshLc · k) ((s.freshLcs_does j l).job_eq rfl j)
    · rw [State.lc_modLc_ne same]
      exact ih ((List.mem_append.mp mem).resolve_right (fun h => same (List.mem_singleton.mp h)))

theorem State.job_modJob_of_some {s : State} {j : Nat} {x : Job} (f : Job → Job) (job : s.jobs.get? j = some x) :
    (s.modJob j f).job j = f x := by
  unfold State.modJob
  rw [job]
  simp [State.job]

/-- The job as its launch instant leaves it (R497, R498). -/
def Job.launchedBy (x : Job) (l : Launch) (locked : Bool) : Job :=
  { x with
    state := .running
    flags := x.flags ||| ((if l.locked ∧ ¬locked then 8 else 0) ||| (if imgPairs x.image then 16 else 0))
    saveAtYield := l.saveAtYield
    divContinue := l.divContinue
    launch := none
    launched := true }

/-- `UNLOCKED` is set when `LOCKED` has cleared since the launch was accepted (R497). -/
theorem Job.launchedBy_unlocked (x : Job) (l : Launch) (locked : Bool) :
    (x.launchedBy l locked).flags.getLsbD 3 = (x.flags.getLsbD 3 || (l.locked && !locked)) := by
  unfold Job.launchedBy
  cases l.locked <;> cases locked <;> cases imgPairs x.image <;> simp

/-- The state with the job launched and, unless it was resumed, its logical clusters made anew (R413, R498). -/
def State.launchedAs (s : State) (j : Nat) (l : Launch) (x : Job) : State :=
  let t := s.modJob j (fun y => y.launchedBy l s.zlg.locked)
  if x.flags.getLsbD 1 then t else t.freshLcs j (t.job j).lcs

theorem State.lcs_launchedAs_resumed {x : Job} (resumed : x.flags.getLsbD 1 = true) (s : State) (j : Nat)
    (l : Launch) : (s.launchedAs j l x).lcs = s.lcs := by
  unfold State.launchedAs
  rw [if_pos resumed]
  exact (State.modJob_does .self j _ (.refl s)).same .lcs rfl

section
variable {s : State} {j : Nat} {l : Launch} {x : Job} (job : s.jobs.get? j = some x)
include job

theorem State.launchNow_eq : s.launchNow j l = (((s.launchedAs j l x).openGates j).offerAll j).jobDone l.cmd 0 j := by
  have own : s.job j = x := by simp [State.job, SMap.getD, job]
  unfold State.launchNow State.launchedAs
  dsimp only
  rw [State.modJob_congr (g := fun y => y.launchedBy l s.zlg.locked) (by rw [own]; rfl), own] <;> rfl

theorem State.job_launchedAs : (s.launchedAs j l x).job j = x.launchedBy l s.zlg.locked := by
  have launched := State.job_modJob_of_some (fun y => y.launchedBy l s.zlg.locked) job
  unfold State.launchedAs
  dsimp only
  split
  · exact launched
  · exact ((State.freshLcs_does ..).job_eq rfl j).trans launched

theorem State.lc_launchedAs_fresh (new : x.flags.getLsbD 1 = false) {i : Nat} (own : i < imgLogical x.image) :
    (s.launchedAs j l x).lc j i = ((s.launchedAs j l x).job j).freshLc i := by
  have launched := State.job_modJob_of_some (fun y => y.launchedBy l s.zlg.locked) job
  rw [State.job_launchedAs job]
  unfold State.launchedAs
  dsimp only
  rw [if_neg (ne_true_of_eq_false new), launched]
  exact (State.lc_freshLcs _ _ _ (List.mem_range.mpr own)).trans (congrArg (Job.freshLc · i) launched)

end

/-- Settles O41: each step of a load and of a launch, by what its accesses have brought. -/
theorem loadsAndLaunchesGoOn : Obligations.LoadsAndLaunchesGoOn := by
  refine ⟨fun q id l x acc u v s found live resent kept => ⟨fun waits => ?waits, fun ended image none_ => ?image, fun j job ended held => ?held,
      fun j ended free weights job => ?weights, fun j ended free head job => ?head, fun j ended free body job => ?body⟩,
    fun x l v => ?checks, fun x j l v => if_congr (by rw [List.length_map]) rfl rfl, fun j x r cause v job => State.loadFail_gone r cause v job,
    fun job m l s u live pending went launch => ⟨fun early => exec_launch_waits live pending went launch early,
      fun digested hello due room unread none_ => exec_launch_now live pending went launch digested hello due room unread none_,
      fun digested hello due unreserved full timed => exec_launch_noRoom live pending went launch digested hello due unreserved full timed⟩,
    fun j l x s job => ⟨s.launchedAs j l x, State.launchNow_eq job, ?_, ?_, ?_, ?_, ?_, ?_, ?_, fun resumed => State.lcs_launchedAs_resumed resumed s j l,
      fun new i own => State.lc_launchedAs_fresh job new own⟩⟩
  case waits => rw [exec_jloadDone found live resent kept, if_pos (ne_true_of_eq_false waits)]
  case image =>
    rw [exec_jloadDone found live resent kept, if_neg (not_not_intro ended), none_, image] <;> rfl
  case held =>
    rw [exec_jloadDone found live resent kept, if_neg (not_not_intro ended), job]
    exact congrArg Host.Outcome.next (if_pos held)
  case weights => rw [exec_jloadDone_next found live resent kept ended job free, weights]
  case head => rw [exec_jloadDone_next found live resent kept ended job free, head]
  case body => rw [exec_jloadDone_next found live resent kept ended job free, body]
  case checks =>
    exact ⟨_, if_congr (Bool.not_eq_true _).to_iff rfl rfl⟩
  all_goals rw [State.job_launchedAs job]
  case refine_6 => exact Job.launchedBy_unlocked ..
  all_goals rfl

end Sys2Proof.Machine
end

section
/-! Supersteps (R437, R475, R494, R495, R499, R500, R503, R508, R515, R649, R650): barriers, admissions, the watchdog, time slices and
checkpoints. -/
namespace Sys2Proof.Machine
open Sys2Proof

/-! ### Barriers -/

section
variable {job : BitVec 12} {m : List Medium} {s u : State} (ready : BarrierReady s job.toNat)
  (past : u = (s.barrierOver job.toNat).saveCopies job.toNat)
include ready past

/-- The barrier that nothing holds up any more opens (R437, R475, R515). -/
theorem exec_barrierOpen : exec (.barrierOpen job m) s = .next (
    if imgPairs (s.job job.toNat).image then
      ((u.modJob job.toNat (fun x => { x with comparing := some ((s.job job.toNat).lcs.map (fun i => (u.lc job.toNat i).digest)) })).sendDigests
        job.toNat ((s.job job.toNat).lcs.map (fun i => (u.lc job.toNat i).digest))).pairGo job.toNat m
    else u.stepDone job.toNat m) := by
  obtain ⟨running, live, idle, arrived, combined, written⟩ := ready
  have statuses : ∀ st ∈ (s.job job.toNat).gates.writes.map s.accStatus, st = .ok := by
    intro st mem
    obtain ⟨a, ha, rfl⟩ := List.mem_map.mp mem
    exact written a ha
  refine congrArg Host.Outcome.next ?_
  dsimp only
  rw [if_neg, idle, if_neg (nofun), if_neg, past]
  · rfl
  · exact not_not_intro (List.all_eq_true.mpr fun st mem => by rw [statuses st mem]; rfl)
  · rintro (notRunning | fatal | waits | ⟨seen, uncombined⟩ | retry)
    · exact notRunning running
    · exact ne_true_of_eq_false live fatal
    · exact waits arrived
    · exact uncombined (combined seen)
    · have := statuses _ (List.contains_iff_mem.mp retry)
      cases this

end

/-! ### Admissions -/

theorem Does.pwrHub_eq {W : Nat} {s t : State} (h : Does W s t) (hpwr : W.testBit Field.pwrHubs.ctorIdx = false) (n : Nat) :
    t.pwrHub n = s.pwrHub n := by
  unfold State.pwrHub
  rw [(h.same .pwrHubs hpwr : t.pwrHubs = s.pwrHubs)]

/-- The state in which an admitted logical cluster's gates open (R649, R650, R763). -/
def State.admitted (s : State) (h k j i since : Nat) (c : Charge) : State :=
  let t := (s.modPwr h (fun p => { p with charges := p.charges ++ [c] })).bump h 0x0F 0x80 0 (s.clk.now - since)
  (if (t.traceHubs.getD h {}).cluStep then t.resetCounters ([0x80, 0x81, 0x82, 0x83, 0x84].map (fun id => cntKey h (0x10 + k) id 0))
    else t).modLc j i (fun x => { x with phase := .running })

theorem State.admitted_does (s : State) (h k j i since : Nat) (c : Charge) :
    Does 0x4000000000100 (s.modPwr h (fun p => { p with charges := p.charges ++ [c] })) (s.admitted h k j i since c) := by
  unfold State.admitted
  refine State.modLc_does (.of .self rfl) _ _ _ ?_
  have bumped := State.bump_does (W := 0x4000000000100) (.of .self rfl) h 0x0F 0x80 0 (s.clk.now - since)
    (.refl (s.modPwr h (fun p => { p with charges := p.charges ++ [c] })))
  split
  · exact State.resetCounters_does (.of .self rfl) _ bumped
  · exact bumped

/-! ### Time slices -/

theorem Does.clu_eq {W : Nat} {s t : State} (h : Does W s t) (hclus : W.testBit Field.clus.ctorIdx = false) (n k : Nat) :
    t.clu n k = s.clu n k := by
  unfold State.clu
  rw [(h.same .clus hclus : t.clus = s.clus)]

theorem State.resident_vacate {s : State} {j i h k : Nat} (place : (s.lc j i).place = some (h, k)) :
    ((s.vacate j i).clu h k).resident = none := by
  unfold State.vacate
  rw [place]
  dsimp only
  rw [(State.modLc_does .self j i _ (.refl _)).clu_eq rfl, (State.dropCharge_does .self h k (.refl _)).clu_eq rfl, State.clu_modClu]

/-- The logical cluster as its state is saved at a yield point (R500). -/
def Lc.saved (x : Lc) (step : Nat) : Lc :=
  { x with
    copy := some { step := step + (if x.phase = .yielded then 1 else 0), regs := x.regs, staging := x.staging }
    phase := if x.phase = .offered then .waiting else x.phase }

theorem exec_timeSliceSave {c : CluAt} {j i : Nat} {s : State} (resident : (s.clu c.hub c.cluster).resident = some (j, i))
    (live : s.fatal = false) (running : (s.hub c.hub).phase = .none)
    (phase : (s.lc j i).phase = .yielded ∨ (s.lc j i).phase = .waiting ∨ (s.lc j i).phase = .offered) :
    exec (.timeSliceSave c) s = .next ((s.modLc j i (fun x => x.saved (s.job j).step)).vacate j i) := by
  refine congrArg Host.Outcome.next ?_
  rw [resident]
  dsimp only
  rw [if_neg]
  · exact congrArg (State.vacate · j i) (State.modLc_congr rfl)
  · rintro (fatal | reset | other)
    · exact ne_true_of_eq_false live fatal
    · exact reset running
    · exact other phase

/-- The physical cluster that a logical cluster of job `j` is about to take: another job's errors are gone (R411, R488). -/
def State.clearedFor (s : State) (h k j : Nat) : State := if (s.clu h k).job = some j then s else s.clusterClear h k

theorem State.clearedFor_does (s : State) (h k j : Nat) : Does 0x8000000000000 s (s.clearedFor h k j) := by
  unfold State.clearedFor
  split
  · exact .refl s
  · exact State.clusterClear_does .self h k (.refl s)

theorem State.clu_clearedFor {s : State} {h k j : Nat} (other : (s.clu h k).job ≠ some j) :
    (s.clearedFor h k j).clu h k = { resident := (s.clu h k).resident, stopped := (s.clu h k).stopped, job := (s.clu h k).job } := by
  unfold State.clearedFor
  rw [if_neg other]
  exact State.clu_modClu ..

/-- Logical cluster `i` of job `j` is placed on `H`*h*`.C`*k* (R494, R500). -/
def State.placedOn (s : State) (h k j i : Nat) : State :=
  ((s.clearedFor h k j).modClu h k (fun y => { y with resident := some (j, i), job := some j })).modLc j i (fun y => { y with
    place := some (h, k), ranOn := (h, k), since := s.clk.now
    phase := if y.phase = .waiting ∧ (s.job j).offered then .offered else y.phase })

theorem State.placedOn_does (s : State) (h k j i : Nat) : Does 0xC000000000000 s (s.placedOn h k j i) :=
  State.modLc_does (.of .self rfl) _ _ _ (State.modClu_does (.of .self rfl) _ _ _ ((s.clearedFor_does h k j).widen rfl))

theorem State.clu_placedOn (s : State) (h k j i : Nat) :
    (s.placedOn h k j i).clu h k = { (s.clearedFor h k j).clu h k with resident := some (j, i), job := some j } :=
  ((State.modLc_does .self j i _ (.refl _)).clu_eq rfl h k).trans (State.clu_modClu ..)

theorem State.lc_placedOn (s : State) (h k j i : Nat) :
    (s.placedOn h k j i).lc j i = { s.lc j i with
      place := some (h, k), ranOn := (h, k), since := s.clk.now
      phase := if (s.lc j i).phase = .waiting ∧ (s.job j).offered then .offered else (s.lc j i).phase } := by
  have kept : ((s.clearedFor h k j).modClu h k (fun y => { y with resident := some (j, i), job := some j })).lc j i = s.lc j i :=
    (State.modClu_does .self h k _ (s.clearedFor_does h k j)).lc_eq rfl j i
  unfold State.placedOn
  rw [State.lc_modLc, kept]

section
variable {c : CluAt} {job : BitVec 12} {lc : BitVec 10} {s : State} (live : s.fatal = false) (running : (s.hub c.hub.val).phase = .none)
  (jobRuns : (s.job job.toNat).state = .running) (own : lc.toNat < imgLogical (s.job job.toNat).image)
  (away : (s.lc job.toNat lc.toNat).place = none) (notHalted : (s.lc job.toNat lc.toNat).phase ≠ .halted)
  (saveHub : (s.job job.toNat).saveHub lc.toNat = c.hub.val) (may : s.mayRun c.hub.val c.cluster.val job.toNat = true)
  (turn : s.turnOf c.hub.val c.cluster.val job.toNat = true)
include live running jobRuns own away notHalted saveHub may turn

theorem exec_timeSliceRestore : exec (.timeSliceRestore c job lc) s = .next (s.placedOn c.hub.val c.cluster.val job.toNat lc.toNat) := by
  have kept : (s.clearedFor c.hub.val c.cluster.val job.toNat).clk = s.clk := (s.clearedFor_does _ _ _).same .clk rfl
  refine congrArg Host.Outcome.next ((if_neg ?_).trans ?_)
  · simp [live, running, jobRuns, own, away, notHalted, saveHub, may, turn]
  · unfold State.placedOn
    rw [← kept] <;> rfl

end

/-- Settles O42: each event between the records it reads and the ones it changes. -/
theorem superstepsGoOn : Obligations.SuperstepsGoOn := by
  refine ⟨fun job m s u ready past => ⟨fun single => ?opens, fun ds pair hds => ?compares⟩,
    fun h j i k since uj s next live running huj => ⟨fun room => ?admits, fun full charged => ?holds⟩,
    fun h k j i since c s => ⟨s.admitted h k j i since c, rfl, ?admitted⟩,
    fun job i s running limit idle live own phase placed => ?watchdog, fun c j i s resident live running place phase => ?saves,
    fun c job lc s live running jobRuns own away notHalted saveHub may turn => ?restores,
    fun job m k r l acc s u v ckpts accs live resent kept => ⟨fun waits => ?ckptWaits, fun ended => ?ckptEnds⟩⟩
  case opens => rw [exec_barrierOpen ready past, if_neg (ne_true_of_eq_false single)]
  case compares => rw [exec_barrierOpen ready past, if_pos pair, hds]
  case admits =>
    refine congrArg Host.Outcome.next ?_
    dsimp only
    rw [next]
    dsimp only
    rw [if_neg, huj]
    rw [huj] at room
    rintro (fatal | reset | ⟨above, charged⟩)
    · exact ne_true_of_eq_false live fatal
    · exact reset running
    · rcases room with room | none_
      · omega
      · rw [none_] at charged
        exact charged rfl
  case holds =>
    refine congrArg Host.Outcome.next ?_
    dsimp only
    rw [next]
    dsimp only
    rw [huj] at full
    exact if_pos (.inr (.inr ⟨full, fun empty => charged (List.isEmpty_iff.mp empty)⟩))
  case admitted =>
    have does := s.admitted_does h k j i since c
    refine ⟨congrArg Lc.phase (State.lc_modLc ..), ?_, does.same .jobs rfl, does.same .gates rfl⟩
    rw [does.pwrHub_eq rfl, State.pwrHub_modPwr]
  case watchdog =>
    refine congrArg Host.Outcome.next (if_pos ⟨running, limit, by rw [idle]; rfl, ne_true_of_eq_false live, ?_, ?_⟩)
    · obtain ⟨n, hn, away⟩ := placed
      exact List.any_eq_true.mpr ⟨n, List.mem_range.mpr hn, away⟩
    · refine List.any_eq_true.mpr ⟨i, List.mem_range.mpr own, ?_⟩
      rcases phase with h | h <;> rw [h] <;> rfl
  case saves =>
    have does := State.vacate_does (W := 0x400C000000000000) .self j i (State.modLc_does (.of .self rfl) j i (fun x => x.saved (s.job j).step) (.refl s))
    have own : ((s.modLc j i (fun x => x.saved (s.job j).step)).lc j i).place = some (c.hub.val, c.cluster.val) :=
      (congrArg Lc.place (State.lc_modLc ..)).trans place
    refine ⟨_, exec_timeSliceSave resident live running phase, ?_, State.resident_vacate own, ?_, ?_, does.same .mem rfl, does.same .jobs rfl⟩
    all_goals rw [State.lc_vacate, State.lc_modLc]
    all_goals rfl
  case restores =>
    have does := s.placedOn_does c.hub.val c.cluster.val job.toNat lc.toNat
    refine ⟨_, exec_timeSliceRestore live running jobRuns own away notHalted saveHub may turn, ?_, ?_, ?_, ?_, ?_, fun other => ?_,
      does.same .trn rfl, does.same .mem rfl, does.same .jobs rfl⟩
    case refine_6 =>
      rw [State.clu_placedOn, State.clu_clearedFor other]
      exact ⟨rfl, rfl⟩
    case refine_2 | refine_3 => rw [State.clu_placedOn]
    all_goals rw [State.lc_placedOn]
  case ckptWaits =>
    refine congrArg Host.Outcome.next ?_
    dsimp only
    rw [ckpts]
    dsimp only
    rw [accs]
    dsimp only
    rw [if_neg (ne_true_of_eq_false live), resent]
    dsimp only
    rw [← kept, if_pos (ne_true_of_eq_false waits)]
  case ckptEnds =>
    refine congrArg Host.Outcome.next ?_
    dsimp only
    rw [ckpts]
    dsimp only
    rw [accs]
    dsimp only
    rw [if_neg (ne_true_of_eq_false live), resent]
    dsimp only
    rw [← kept, if_neg (not_not_intro ended)]

end Sys2Proof.Machine
end

section
/-! The messages of a pair of parts (R513–R516, R694), and the end of a job (R433, R491, R499, R502, R517). -/
namespace Sys2Proof.Machine
open Sys2Proof

/-! ### The handshake of a pair -/

section
variable {j : Nat} {l : Launch} {body : List Byte} {time : BitVec 64} {s : State} (launch : (s.job j).launch = some l)
  (came : s.jobg.hellos.get? l.pairId.toNat = some (body, time)) (sent : l.helloSent = true) (unread : l.helloOk = false)
include launch came sent unread

/-- The peer's `PHELLO` that has come is taken and compared (R514). -/
theorem State.compareHello_eq : s.compareHello j =
    if body = s.helloBody (s.job j) ∧ time = l.time ∧ s.zlg.locked ∧ (body.getD 58 0).getLsbD 0 ∧ l.peerDev ≠ s.zlg.devNum.toNat then
      ({ s with jobg := { s.jobg with hellos := s.jobg.hellos.erase l.pairId.toNat } } : State).modJob j (fun x => { x with
        launch := x.launch.map (fun l => { l with helloOk := true }) })
    else ({ s with jobg := { s.jobg with hellos := s.jobg.hellos.erase l.pairId.toNat } } : State).helloFail j := by
  unfold State.compareHello
  dsimp only
  rw [launch]
  dsimp only
  rw [came]
  dsimp only
  rw [if_neg]
  · rfl
  · rintro (unsent | read)
    · exact unsent sent
    · exact ne_true_of_eq_false unread read

end

/-! ### What ends with a job's run -/

theorem State.lc_vacate_ne {i k : Nat} (other : i ≠ k) (s : State) (j : Nat) : (s.vacate j k).lc j i = s.lc j i := by
  unfold State.vacate
  split
  · next h c _ =>
    rw [State.lc_modLc_ne other, (State.dropCharge_does .self h c (.refl _)).lc_eq rfl, (State.modClu_does .self h c _ (.refl s)).lc_eq rfl]
  · rfl

/-- Stopping a logical cluster changes nothing of it beyond its own halt and its leaving the cluster. -/
theorem State.lc_stopLc (s : State) (j k i : Nat) (reset : Bool) :
    (s.stopLc j k reset).lc j i = (((s.modLc j k (fun x => { x.idle with phase := .halted })).vacate j k).lc j i) := by
  unfold State.stopLc
  dsimp only
  split
  · next h c _ =>
    split
    · rw [(State.clusterReset_does .self h c (.refl _)).lc_eq rfl, (State.lcGoes_does .self h c 0 (.refl _)).lc_eq rfl]
    · rw [(State.lcGoes_does .self h c 0 (.refl _)).lc_eq rfl]
  · rfl

theorem State.lc_stopLc_self (s : State) (j i : Nat) (reset : Bool) :
    (s.stopLc j i reset).lc j i = { (s.lc j i).idle with phase := .halted, place := none } := by
  rw [State.lc_stopLc, State.lc_vacate, State.lc_modLc]

theorem State.lc_stopLc_ne {i k : Nat} (other : i ≠ k) (s : State) (j : Nat) (reset : Bool) : (s.stopLc j k reset).lc j i = s.lc j i := by
  rw [State.lc_stopLc, State.lc_vacate_ne other, State.lc_modLc_ne other]

/-- The logical clusters of a list are stopped (R799). -/
def State.stopLcs (s : State) (j : Nat) (reset : Nat → Bool) (l : List Nat) : State := l.foldl (fun s i => s.stopLc j i (reset i)) s

theorem State.stopLcs_does (s : State) (j : Nat) (reset : Nat → Bool) (l : List Nat) : Does 0x408C0000000001E0 s (s.stopLcs j reset l) :=
  .foldl _ _ (fun _ _ hk => State.stopLc_does .self _ _ _ hk) (.refl _)

theorem State.regs_stopLcs (j i : Nat) (reset : Nat → Bool) (l : List Nat) (s : State) :
    ((s.stopLcs j reset l).lc j i).regs = (s.lc j i).regs := by
  unfold State.stopLcs
  induction l generalizing s with
  | nil => rfl
  | cons k l ih =>
    rw [List.foldl_cons, ih]
    by_cases same : i = k
    · rw [same, State.lc_stopLc_self] <;> rfl
    · rw [State.lc_stopLc_ne same]

theorem State.halted_stopLcs {i : Nat} (j : Nat) (reset : Nat → Bool) (l : List Nat) (s : State) (mem : i ∈ l) :
    ((s.stopLcs j reset l).lc j i).phase = .halted ∧ ((s.stopLcs j reset l).lc j i).place = none := by
  unfold State.stopLcs
  induction l using List.reverseRecOn with
  | nil => cases mem
  | append_singleton l k ih =>
    rw [List.foldl_append, List.foldl_cons, List.foldl_nil]
    by_cases same : i = k
    · rw [same, State.lc_stopLc_self]
      exact ⟨rfl, rfl⟩
    · rw [State.lc_stopLc_ne same]
      exact ih ((List.mem_append.mp mem).resolve_right (fun h => same (List.mem_singleton.mp h)))

/-! ### The records of the jobs -/

theorem State.job_of_get? {s : State} {j : Nat} {x : Job} (found : s.jobs.get? j = some x) : s.job j = x := by
  simp [State.job, SMap.getD, found]

theorem State.get?_modJob {s : State} {j : Nat} {x : Job} (f : Job → Job) (found : s.jobs.get? j = some x) :
    (s.modJob j f).jobs.get? j = some (f x) := by
  unfold State.modJob
  rw [found]
  exact SMap.get?_set_self ..

theorem State.get?_modJob_ne {j k : Nat} (other : k ≠ j) (s : State) (f : Job → Job) : (s.modJob j f).jobs.get? k = s.jobs.get? k := by
  unfold State.modJob
  split
  · exact SMap.get?_set_ne _ _ _ _ other
  · rfl

/-- From `s` to `t` the record of job `j` alone may have changed, and of it only the accesses that write its digest records. -/
structure RecordsOnly (j : Nat) (s t : State) : Prop where
  own : ∀ x, s.jobs.get? j = some x → ∃ r, t.jobs.get? j = some { x with records := r }
  others : ∀ k, k ≠ j → t.jobs.get? k = s.jobs.get? k

theorem RecordsOnly.trans {j : Nat} {s t u : State} (h : RecordsOnly j s t) (k : RecordsOnly j t u) : RecordsOnly j s u := by
  refine ⟨fun x found => ?_, fun n other => (k.others n other).trans (h.others n other)⟩
  obtain ⟨r, own⟩ := h.own x found
  obtain ⟨r', own'⟩ := k.own _ own
  exact ⟨r', own'⟩

theorem Does.recordsOnly {W : Nat} {s t : State} (h : Does W s t) (hjobs : W.testBit Field.jobs.ctorIdx = false) (j : Nat) :
    RecordsOnly j s t := by
  have kept : t.jobs = s.jobs := h.same .jobs hjobs
  exact ⟨fun x found => ⟨x.records, by rw [kept, found]⟩, fun k _ => by rw [kept]⟩

theorem State.modJob_recordsOnly (s : State) (j : Nat) (g : Job → List Nat) :
    RecordsOnly j s (s.modJob j (fun y => { y with records := g y })) :=
  ⟨fun _ found => ⟨_, State.get?_modJob _ found⟩, fun _ other => State.get?_modJob_ne other s _⟩

theorem State.writeRecords7_recordsOnly (s : State) (j : Nat) : RecordsOnly j s (s.writeRecords7 j) := by
  unfold State.writeRecords7
  generalize s.job j = x
  dsimp only
  split
  · exact (Does.refl (W := 0) s).recordsOnly rfl j
  · generalize (x.refs.filter (fun r => r.role == 3)) = l
    clear * -
    induction l generalizing s with
    | nil => exact (Does.refl (W := 0) s).recordsOnly rfl j
    | cons r l ih =>
      rw [List.foldl_cons]
      exact (((State.startDpa_does .self 7 j _ 64 true _ _ (.refl s)).recordsOnly rfl j).trans (State.modJob_recordsOnly _ j _)).trans (ih _)

theorem State.tellEnd_recordsOnly (s : State) (x : Job) (j cause : Nat) : RecordsOnly j s (s.tellEnd x j cause) := by
  unfold State.tellEnd
  dsimp only
  refine (s.writeRecords7_recordsOnly j).trans ?_
  generalize s.writeRecords7 j = t
  have told : Does 0x2100000000000E1E0 t (if imgPairs x.image ∧ cause ≠ 7 ∧ x.state ≠ .loaded then t.sendPair x 0x12 0 0 0 cause [] else t) := by
    split
    · exact State.sendPair_does .self _ _ _ _ _ _ _ (.refl t)
    · exact .refl t
  split
  · exact (State.fireOn_does (by exact rfl) 3 told).recordsOnly rfl j
  · exact told.recordsOnly rfl j

/-- The final state of a job that was `x` (R491, R499, R502). -/
def Job.stopped (x : Job) (cause lc trap : Nat) : Job :=
  { x with
    state := if cause = 0 then .ended else .faulted
    cause := cause
    faultLc := BitVec.ofNat 16 lc
    trapCode := BitVec.ofNat 16 trap
    offered := false
    comparing := none
    gates := {}
    spilledIn := [] }

theorem State.get?_stopJob {s : State} {j : Nat} {x : Job} (found : s.jobs.get? j = some x) (cause lc trap : Nat) :
    (s.stopJob j cause lc trap).jobs.get? j = some (x.stopped cause lc trap) := by
  have kept : (s.stopLcs j (fun i => faultOfLc cause && i == lc) (s.job j).lcs).jobs = s.jobs := (State.stopLcs_does ..).same .jobs rfl
  exact State.get?_modJob _ ((congrArg (SMap.get? · j) kept).trans found)

theorem State.get?_stopJob_ne {j k : Nat} (other : k ≠ j) (s : State) (cause lc trap : Nat) :
    (s.stopJob j cause lc trap).jobs.get? k = s.jobs.get? k := by
  have kept : (s.stopLcs j (fun i => faultOfLc cause && i == lc) (s.job j).lcs).jobs = s.jobs := (State.stopLcs_does ..).same .jobs rfl
  exact (State.get?_modJob_ne other _ _).trans (congrArg (SMap.get? · k) kept)

/-! ### The end of a job -/

section
variable {s : State} {j : Nat} {x : Job} (found : s.jobs.get? j = some x) (cause lc trap : Nat)
  (live : x.state = .running ∨ x.state = .held ∨ x.state = .launchPending ∨ x.state = .loaded)
include found live

theorem State.endJob_eq : s.endJob j cause lc trap =
    (((s.stopJob j cause lc trap).tellEnd x j cause).answerWaits x j cause
      (endResult (((s.stopJob j cause lc trap).tellEnd x j cause).job j))).modJob j (fun x => { x with
        waits := [], aborts := [], ckpts := [], launch := none }) := by
  unfold State.endJob
  rw [State.job_of_get? found]
  refine if_neg ?_
  rintro ⟨h1, h2, h3, h4⟩
  rcases live with h | h | h | h <;> contradiction

/-- The record of a job that has ended (R491, R499, R502, R517). -/
theorem State.job_endJob : ∃ r, (s.endJob j cause lc trap).job j =
    { x.stopped cause lc trap with records := r, waits := [], aborts := [], ckpts := [], launch := none } := by
  obtain ⟨r, told⟩ := (State.tellEnd_recordsOnly (s.stopJob j cause lc trap) x j cause).own _ (State.get?_stopJob found cause lc trap)
  rw [State.endJob_eq found cause lc trap live]
  exact ⟨r, State.job_of_get? (State.get?_modJob _
    ((congrArg (SMap.get? · j) ((State.answerWaits_does .self x j cause _ (.refl _)).same .jobs rfl)).trans told))⟩

theorem State.job_endJob_ne {k : Nat} (other : k ≠ j) : (s.endJob j cause lc trap).job k = s.job k := by
  rw [State.endJob_eq found cause lc trap live]
  unfold State.job SMap.getD
  rw [State.get?_modJob_ne other, ((State.answerWaits_does .self x j cause _ (.refl _)).same .jobs rfl :),
    (State.tellEnd_recordsOnly _ x j cause).others k other, State.get?_stopJob_ne other]

/-- The logical clusters of a job that has ended (R799). -/
theorem State.lc_endJob (i : Nat) :
    (s.endJob j cause lc trap).lc j i = (s.stopLcs j (fun i => faultOfLc cause && i == lc) x.lcs).lc j i := by
  rw [State.endJob_eq found cause lc trap live, (State.modJob_does .self j _ (.refl _)).lc_eq rfl,
    (State.answerWaits_does .self x j cause _ (.refl _)).lc_eq rfl, (State.tellEnd_does .self x j cause (.refl _)).lc_eq rfl]
  unfold State.stopJob
  dsimp only
  rw [State.job_of_get? found]
  exact (State.modJob_does .self j _ (.refl _)).lc_eq rfl j i

end

/-- Settles O43: each message of the pair by its job, and what the end of a job keeps. -/
theorem pairsAndJobsEnd : Obligations.PairsAndJobsEnd := by
  refine ⟨fun src p time body s u live peer hu => ⟨fun j job => ?hello, fun none_ => ?stray⟩, fun src p time body s stranger => ?stranger,
    fun j l body time s u launch came sent unread hu => ⟨fun same at_ locked bit other => ?agrees, fun differs => ?disagrees⟩,
    fun job l s launch pair alone live => ?timeout, fun p step first ds m j s job live few => ?digests,
    fun j i d p r s peer => ⟨fun same => ?same, fun differs stops => ?stops, fun differs goes => ?goes⟩,
    fun p c j s job live => ?stop, fun s down live => ?lost, fun j cause lc trap s t ht live => ?ends⟩
  case hello =>
    refine congrArg Host.Outcome.next ?_
    rw [if_neg (by rw [live, peer]; nofun), ← hu]
    dsimp only
    rw [job]
  case stray =>
    refine congrArg Host.Outcome.next ?_
    rw [if_neg (by rw [live, peer]; nofun), ← hu]
    dsimp only
    rw [none_]
  case stranger => exact congrArg Host.Outcome.next (if_pos (.inr (ne_true_of_eq_false stranger)))
  case agrees => rw [State.compareHello_eq launch came sent unread, if_pos ⟨same, at_, locked, bit, other⟩, hu]
  case disagrees =>
    rw [State.compareHello_eq launch came sent unread, if_neg, hu]
    rintro ⟨same, at_, locked, bit, other⟩
    rcases differs with h | h | h | h | h
    · exact h same
    · exact h at_
    · exact ne_true_of_eq_false h locked
    · exact ne_true_of_eq_false h bit
    · exact other h
  case timeout =>
    refine congrArg Host.Outcome.next ?_
    rw [launch]
    exact if_pos ⟨pair, ne_true_of_eq_false alone, ne_true_of_eq_false live⟩
  case digests =>
    refine congrArg Host.Outcome.next ?_
    rw [job]
    dsimp only
    rw [if_neg]
    simp [live, few]
  case same =>
    rw [State.compareDigests]
    dsimp only
    rw [peer]
    exact if_pos same
  case stops =>
    rw [State.compareDigests]
    dsimp only
    rw [peer]
    exact (if_neg differs).trans (if_neg (ne_true_of_eq_false stops))
  case goes =>
    rw [State.compareDigests]
    dsimp only
    rw [peer]
    exact (if_neg differs).trans (if_pos goes)
  case stop =>
    refine congrArg Host.Outcome.next ?_
    dsimp only
    rw [job]
    exact if_neg (ne_true_of_eq_false live)
  case lost =>
    refine congrArg Host.Outcome.next (if_neg ?_)
    simp [down, live]
  case ends =>
    rcases found : s.jobs.get? j with _ | x
    · have none_ : s.job j = {} := by simp [State.job, SMap.getD, found]
      rw [none_] at live
      rcases live with h | h | h | h <;> cases h
    rw [State.job_of_get? found] at live ⊢
    obtain ⟨r, own⟩ := State.job_endJob found cause lc trap live
    rw [ht, own]
    refine ⟨rfl, rfl, rfl, rfl, rfl, rfl, rfl, rfl, rfl, rfl, rfl, fun i hi => ?_, fun k other => State.job_endJob_ne found cause lc trap live other⟩
    rw [State.lc_endJob found cause lc trap live]
    obtain ⟨phase, place⟩ := State.halted_stopLcs j (fun i => faultOfLc cause && i == lc) x.lcs s (List.mem_range.mpr hi)
    exact ⟨phase, place, State.regs_stopLcs j i _ x.lcs s⟩

end Sys2Proof.Machine
end

section
/-! The slalom engine (R462, R463, R466–R475, R809): tokens, closes and combines. -/
namespace Sys2Proof.Machine
open Sys2Proof

/-! ### Packets that a quiesce holds back or not (R92) -/

theorem State.engineIn_held {s : State} {x : EngineMsg} (waits : s.engineWaits x = true) (m : List Medium) :
    s.engineIn x m = { s with si := { s.si with heldEngine := s.si.heldEngine ++ [x] } } :=
  if_pos waits

theorem State.engineWaits_fatal {s : State} (fatal : s.fatal = true) (x : EngineMsg) : s.engineWaits x = false := by
  unfold State.engineWaits
  rw [fatal] <;> rfl

section
variable {h : Fin 8} {src : BitVec 10} {j e : BitVec 12} {tok w k : Word} {n : BitVec 20} {p : BitVec 16} {d : List Byte} {s : State}

/-- A `TOKEN` that waits for no quiesce is taken. -/
theorem exec_token (free : s.fatal = true ∨ s.engineHeld h j.toNat (some e.toNat) = false) :
    exec (.token h src j e tok w n p d) s = .next (s.tokenIn h src j e tok w n p d) := by
  refine congrArg Host.Outcome.next (if_neg ?_)
  unfold State.engineWaits
  rcases free with fatal | free
  · simp [fatal]
  · simp [free]

theorem exec_close (free : s.fatal = true ∨ s.engineHeld h j.toNat none = false) :
    exec (.close h src j k n) s = .next (s.closeIn h src j k n) := by
  refine congrArg Host.Outcome.next (if_neg ?_)
  unfold State.engineWaits
  rcases free with fatal | free
  · simp [fatal]
  · simp [free]

/-! ### Tokens -/

variable (hears : s.hears src = true)
include hears

theorem State.tokenIn_fatal (fatal : s.fatal = true) :
    s.tokenIn h src j e tok w n 0 d = s.sendRefused src j.toNat e.toNat tok.toNat n.toNat 0 4 0 :=
  (if_neg (not_not_intro hears)).trans ((if_pos fatal).trans (if_pos rfl))

variable (live : s.fatal = false)
include live

/-- A packet of a source with an unfinished token (R463). -/
theorem State.tokenIn_follows {a : Arriving} (arriving : s.jobg.arriving.get? src.toNat = some a) :
    s.tokenIn h src j e tok w n p d =
      if a.fits j.toNat e.toNat tok p.toNat d then s.nextPart src a d
      else s.malformed src (match gateEntry (s.job j.toNat).image e.toNat with | some g => s.gateHub j.toNat g | none => h) j.toNat e.toNat := by
  refine (if_neg (not_not_intro hears)).trans ((if_neg (ne_true_of_eq_false live)).trans ?_)
  rw [arriving] <;> rfl

/-- A packet of a source whose tokens are complete, for a gate of the job (R463). -/
theorem State.tokenIn_starts {g : List Byte} (arriving : s.jobg.arriving.get? src.toNat = none)
    (gate : gateEntry (s.job j.toNat).image e.toNat = some g) :
    s.tokenIn h src j e tok w n p d =
      if p.toNat = 0 ∧ partFits g 0 d then s.firstPart h src j.toNat g tok w n.toNat d
      else s.malformed src (s.gateHub j.toNat g) j.toNat e.toNat := by
  refine (if_neg (not_not_intro hears)).trans ((if_neg (ne_true_of_eq_false live)).trans ?_)
  rw [arriving, gate]

/-- A packet out of its place (R463). -/
theorem State.tokenIn_malformed {g : List Byte} (gate : gateEntry (s.job j.toNat).image e.toNat = some g)
    (wrong : (∃ a, s.jobg.arriving.get? src.toNat = some a ∧ a.fits j.toNat e.toNat tok p.toNat d = false) ∨
      (s.jobg.arriving.get? src.toNat = none ∧ (p ≠ 0 ∨ partFits g 0 d = false))) :
    s.tokenIn h src j e tok w n p d = s.malformed src (s.gateHub j.toNat g) j.toNat e.toNat := by
  rcases wrong with ⟨a, arriving, misfit⟩ | ⟨arriving, misfit⟩
  · rw [State.tokenIn_follows hears live arriving, if_neg (ne_true_of_eq_false misfit), gate]
  · rw [State.tokenIn_starts hears live arriving gate, if_neg]
    rintro ⟨first, fits⟩
    rcases misfit with later | misfit
    · exact later (BitVec.eq_of_toNat_eq first)
    · exact ne_true_of_eq_false misfit fits

/-- A packet that names no gate of the job (R467). -/
theorem State.tokenIn_unknown (arriving : s.jobg.arriving.get? src.toNat = none) (gate : gateEntry (s.job j.toNat).image e.toNat = none) :
    s.tokenIn h src j e tok w n p d =
      if p.toNat = 0 then s.refuse h src j.toNat e.toNat tok.toNat n.toNat p.toNat 2 else s := by
  refine (if_neg (not_not_intro hears)).trans ((if_neg (ne_true_of_eq_false live)).trans ?_)
  rw [arriving, gate]

end

theorem Arriving.fits_iff (a : Arriving) (j e : Nat) (tok : Word) (p : Nat) (d : List Byte) : a.fits j e tok p d = true ↔
    a.job = j ∧ gExpert a.gate = e ∧ a.index = tok ∧ a.next = p ∧ partFits a.gate p d = true := by
  simp [Arriving.fits, and_assoc]

section
variable {src : BitVec 10} {j : Nat} {g : List Byte} {tok w : Word} {d : List Byte} {s : State}

/-- A token that its gate has accepted already (R468). -/
theorem State.acceptToken_again (again : (tok, gExpert g) ∈ (s.job j).gates.reached.map (fun r => (r.1, r.2.1))) :
    s.acceptToken src j g tok w d = s.gateFault (s.gateHub j g) j (gExpert g) 2 := by
  obtain ⟨r, mem, eq⟩ := List.mem_map.mp again
  refine if_pos ?_
  rw [List.any_eq_true.mpr ⟨r, mem, by simp [Prod.ext_iff] at eq; simp [eq]⟩] <;> rfl

/-- A token that has reached as many gates as the job's top-k allows (R472). -/
theorem State.acceptToken_many (new : (tok, gExpert g) ∉ (s.job j).gates.reached.map (fun r => (r.1, r.2.1)))
    (notHeld : ∀ t, some t ∈ (s.gate j (gExpert g)).slots → t.index ≠ tok) (noResidual : ∀ r ∈ (s.gate j (gExpert g)).residual, r.1 ≠ tok)
    (open_ : (s.job j).gates.closes.get? src.toNat = none)
    (many : jTopk (s.job j).image ≤ (s.job j).gates.reached.countP (fun r => r.1 == tok)) :
    s.acceptToken src j g tok w d = s.gateFault (s.gateHub j g) j (gExpert g) 4 := by
  refine (if_neg ?_).trans ((if_neg ?_).trans (if_pos many))
  · simp only [Bool.or_eq_true, List.any_eq_true, not_or, not_exists, not_and]
    refine ⟨⟨fun r mem same => new (List.mem_map.mpr ⟨r, mem, ?_⟩), fun t mem same => ?_⟩, fun r mem same => ?_⟩
    · simpa [Prod.ext_iff] using same
    · exact notHeld t (by simpa using mem) (by simpa using same)
    · exact noResidual r mem (by simpa using same)
  · rw [open_]
    exact Bool.false_ne_true

end

/-! ### Combines -/

section
variable {job : BitVec 12} {m : List Medium} {j : Nat} {l : List Nat} {s u : State} (own : j = job.toNat)
  (running : (s.job j).state = .running) (live : s.fatal = false) (arrived : s.allArrived j = true) (ready : (s.job j).gates.ready = true)
include own running live arrived ready

/-- A combine of a step that is combined asks again for its writes (R475). -/
theorem exec_combine_again (combined : (s.job j).gates.combined = true) (resent : s.accResendAll m (s.job j).gates.writes = (l, u)) :
    exec (.combine job m) s = .next ((u.modStep j (fun y => { y with writes := l })).cohEnd .clean) := by
  refine congrArg Host.Outcome.next ?_
  dsimp only
  rw [← own, if_neg, if_pos combined, resent]
  simp [running, live, arrived, ready]

/-- A combine whose rows have been asked for (R472–R475). -/
theorem exec_combine_first {v : State} (uncombined : (s.job j).gates.combined = false)
    (resent : s.accResendAll m ((s.job j).gates.reads.map (·.2)) = (l, u))
    (asked : v = ((u.modStep j (fun y => { y with reads := (y.reads.map (·.1)).zip l })).readRows j m).cohEnd .clean) :
    exec (.combine job m) s = .next (
      if (v.job j).state ≠ .running ∨ ¬(v.job j).gates.reads.all (fun r => v.accOver r.2 && v.accStatus r.2 != .retry) then v
      else
        let v1 := (v.freshTokens j).foldl (fun s t => if (s.job j).state = .running then s.combineFresh j m t else s) v
        let v2 := (v1.spilledTokens j).foldl (fun s t => if (s.job j).state = .running then s.combineSpilled j m t else s) v1
        ((v2.accDrop ((v2.job j).gates.reads.map (·.2))).modStep j (fun y => { y with
          combined := true, closed := true, prepared := true, reads := [] })).cohEnd .clean) := by
  refine congrArg Host.Outcome.next ?_
  dsimp only
  rw [← own, if_neg, if_neg (ne_true_of_eq_false uncombined), resent]
  · dsimp only
    rw [← asked]
  · simp [running, live, arrived, ready]

end

/-- Settles O44: each packet by its order, its gate and its step; a combine by what its reads have brought. -/
theorem slalomStepsGoOn : Obligations.SlalomStepsGoOn := by
  refine ⟨fun h src j e tok w n d g s hears live free gate fits first => ⟨fun taken => ?accepts, fun r refused => ?refuses⟩,
    fun h src j e tok w n p d g ok a s u hears live free ha arriving expert fits hu => ?follows,
    fun h src j e tok w n p d g s u hears live free gate wrong hu => ⟨fun running => ?faults, fun stopped => ?dropped⟩,
    fun a j e tok p d => Arriving.fits_iff a j e tok p d,
    fun h src j e tok w n d s hears => ⟨fun fatal => ?fatal, fun live free gate first => ?unknown⟩,
    fun src j g tok w d s => ⟨State.acceptToken_again, State.acceptToken_many⟩,
    fun h src j k n s hears => ⟨fun fatal => ?closeFatal, fun r live free refused => ?closeRefused, fun live free open_ first few => ?closes,
      fun live free open_ wrong => ?closeFaults⟩,
    fun h src j e tok w k n p d s live => ⟨fun held => congrArg Host.Outcome.next (State.engineIn_held (by simp [State.engineWaits, live, held]) []),
      fun held => congrArg Host.Outcome.next (State.engineIn_held (by simp [State.engineWaits, live, held]) [])⟩,
    fun job m j l s u hj running live arrived ready => ⟨fun combined resent => ?again, fun v uncombined resent hv runs =>
      ⟨fun waits => ?combineWaits, fun v1 v2 rows h1 h2 => ?combines⟩⟩⟩
  case accepts =>
    rw [exec_token (.inr free), State.tokenIn_starts hears live first gate, if_pos ⟨rfl, fits⟩]
    unfold State.firstPart
    rw [taken]
  case refuses =>
    rw [exec_token (.inr free), State.tokenIn_starts hears live first gate, if_pos ⟨rfl, fits⟩]
    unfold State.firstPart
    rw [refused] <;> rfl
  case follows =>
    rw [exec_token (.inr free), State.tokenIn_follows hears live arriving, if_pos, hu, ha]
    · rfl
    · rw [ha]
      exact (Arriving.fits_iff ..).mpr ⟨rfl, expert, rfl, rfl, fits⟩
  case faults =>
    rw [exec_token (.inr free), State.tokenIn_malformed hears live gate wrong]
    rw [hu] at running ⊢
    exact congrArg Host.Outcome.next (if_pos running)
  case dropped =>
    rw [exec_token (.inr free), State.tokenIn_malformed hears live gate wrong]
    rw [hu] at stopped ⊢
    exact congrArg Host.Outcome.next (if_neg stopped)
  case fatal => rw [exec_token (.inl fatal), State.tokenIn_fatal hears fatal]
  case unknown =>
    rw [exec_token (.inr free), State.tokenIn_unknown hears live first gate]
    exact congrArg Host.Outcome.next (if_pos rfl)
  case closeFatal =>
    rw [exec_close (.inl fatal)]
    exact congrArg Host.Outcome.next ((if_neg (not_not_intro hears)).trans (if_pos fatal))
  case closeRefused =>
    rw [exec_close (.inr free)]
    refine congrArg Host.Outcome.next ((if_neg (not_not_intro hears)).trans ((if_neg (ne_true_of_eq_false live)).trans ?_))
    rw [refused]
  case closes =>
    rw [exec_close (.inr free)]
    refine congrArg Host.Outcome.next ((if_neg (not_not_intro hears)).trans ((if_neg (ne_true_of_eq_false live)).trans ?_))
    rw [open_]
    refine if_neg ?_
    rintro (closed | more)
    · rw [first] at closed
      cases closed
    · omega
  case closeFaults =>
    rw [exec_close (.inr free)]
    refine congrArg Host.Outcome.next ((if_neg (not_not_intro hears)).trans ((if_neg (ne_true_of_eq_false live)).trans ?_))
    rw [open_]
    refine if_pos (wrong.imp_left fun closed => ?_)
    exact Option.isSome_iff_ne_none.mpr closed
  case again => exact exec_combine_again hj running live arrived ready combined resent
  case combineWaits =>
    rw [exec_combine_first hj running live arrived ready uncombined resent hv, if_pos (.inr (ne_true_of_eq_false waits))]
  case combines =>
    rw [exec_combine_first hj running live arrived ready uncombined resent hv, if_neg, h2, h1]
    rintro (stopped | waits)
    · exact stopped runs
    · exact waits rows

end Sys2Proof.Machine
end

section
/-! The gather engines (R477–R483, R809): gathers and selections. -/
namespace Sys2Proof.Machine
open Sys2Proof

/-! ### The first packet of a request -/

section
variable {s : State} {h : Nat} {g : Gather} {need : Nat} {d : List Byte} {valid : Gather → Option Gather} {m : List Medium}

theorem Gather.data_first (g : Gather) (d : List Byte) : ({ g with parts := [(0, d)] } : Gather).data = d := List.append_nil d

/-- A request that finds no place is refused for retry (R480). -/
theorem State.gatherPacket_full (full : 64 ≤ (s.gathers h).length) :
    s.gatherPacket h g 0 need d valid m = (s.freeBackoff.2.modSlg h (fun x => { x with gatherRefused := satAdd x.gatherRefused 1 })).sendGresult
      g.host g.gtag .retry s.freeBackoff.1 [] := by
  unfold State.gatherPacket
  dsimp only
  rw [if_pos rfl]
  exact (if_neg (not_not_intro rfl)).trans (if_pos full)

variable (room : (s.gathers h).length < 64)
include room

/-- A request takes a place and waits for its other packets (R477, R481). -/
theorem State.gatherPacket_waits (part : d.length < need) :
    s.gatherPacket h g 0 need d valid m = s.modSlg h (fun x => { x with gathers := x.gathers ++ [{ g with parts := [(0, d)] }] }) := by
  unfold State.gatherPacket
  dsimp only
  rw [if_pos rfl]
  refine (if_neg (not_not_intro rfl)).trans ((if_neg (not_le.mpr room)).trans (if_pos ?_))
  rw [Gather.data_first]
  exact part

/-- A request whose first packet is all of it begins its reads (R479, R482). -/
theorem State.gatherPacket_goes {g' : Gather} (whole : need ≤ d.length) (good : valid { g with parts := [(0, d)] } = some g') :
    s.gatherPacket h g 0 need d valid m =
      (s.modSlg h (fun x => { x with gathers := x.gathers ++ [{ g with parts := [(0, d)] }] })).gatherGo h { g' with started := true } m := by
  unfold State.gatherPacket
  dsimp only
  rw [if_pos rfl]
  refine (if_neg (not_not_intro rfl)).trans ((if_neg (not_le.mpr room)).trans ((if_neg ?_).trans ?_))
  · rw [Gather.data_first]
    exact not_lt.mpr whole
  · rw [good]

end

/-! ### Gathers -/

section
variable {h : Fin 8} {host : BitVec 10} {tag : BitVec 12} {op : BitVec 2} {ef ru : BitVec 8} {n : BitVec 16} {tb : BitVec 52} {d : List Byte}
  {m : List Medium} {s : State} (hears : s.hears host = true)
include hears

/-- The first packet of a gather that no quiesce holds (R477, R478, R809). -/
theorem exec_gather_free (free : s.fatal = true ∨ s.si.hold.hubs.getLsbD h = false) :
    exec (.gather h host tag op ef ru n tb 0 d m) s = .next (
      if s.fatal then s.sendGresult host tag .failed 0 []
      else if ¬(1 ≤ n.toNat ∧ n.toNat ≤ 1024 ∧ 1 ≤ ru.toNat ∧ ru.toNat ≤ 32 ∧ tb.toNat % 64 = 0 ∧ ef.toNat ≤ 1 ∧ (op = 0 → ef = 0)) then
        s.sendGresult host tag .illegal 0 []
      else s.gatherPacket h { host := host, gtag := tag, op := op.toNat, fmt := ef.toNat, count := n.toNat, rowBytes := ru.toNat * 64, addr := tb.toNat }
        0 (4 * n.toNat) d (fun g => some { g with idx := (List.range g.count).map (fun k => bytesAt g.data (4 * k) 4) }) m) := by
  refine congrArg Host.Outcome.next ((if_neg ?_).trans (if_neg (not_not_intro hears)))
  unfold State.engineWaits
  rcases free with fatal | free
  · simp [fatal]
  · dsimp only
    rw [free, Bool.and_false]
    exact Bool.false_ne_true

end

/-! ### Selections -/

section
variable {h : Fin 8} {host : BitVec 10} {tag : BitVec 12} {k sf : BitVec 8} {dim : BitVec 16} {sa : BitVec 52} {b : List Byte} {m : List Medium}
  {s : State} (hears : s.hears host = true) (live : s.fatal = false) (free : s.si.hold.hubs.getLsbD h = false) (format : sf.toNat ≤ 1)
  (low : 32 ≤ dim.toNat) (high : dim.toNat ≤ 1024) (multiple : dim.toNat % 32 = 0) (aligned : sa.toNat % 64 = 0) {size : Nat}
  (hsize : size = if sf = 1 then 2 else 4)
include hears live free format low high multiple aligned hsize

/-- What a selection's query and blocks are taken from (R481, R483). -/
def selectValid (dim size : Nat) (g : Gather) : Option Gather :=
  if bytesAt g.data 0 8 < 2 ^ 52 ∧ 1 ≤ bytesAt g.data 8 4 ∧ bytesAt g.data 8 4 ≤ 1048576 ∧ 64 ≤ bytesAt g.data 0x0C 4 ∧
      bytesAt g.data 0x0C 4 ≤ 65536 ∧ bytesAt g.data 0x0C 4 % 64 = 0 ∧ bytesAt g.data 0x10 1 ≤ 1 ∧ bytesAt g.data 0x11 15 = 0 then
    some { g with
      count := bytesAt g.data 8 4, idx := List.range (bytesAt g.data 8 4), query := rowFp g.fmt ((g.data.drop 32).take (dim * size))
      blockAddr := bytesAt g.data 0 8, blockBytes := bytesAt g.data 0x0C 4, ret := bytesAt g.data 0x10 1 == 1 }
  else none

/-- The first packet of a legal selection that no quiesce holds (R481, R482). -/
theorem exec_select_legal :
    exec (.select h host tag k sf dim sa 0 b m) s = .next (s.gatherPacket h {
      host := host, gtag := tag, select := true, op := if k = 0 then 256 else k.toNat, fmt := sf.toNat, rowBytes := dim.toNat * size,
      addr := sa.toNat } 0 (32 + dim.toNat * size) b (selectValid dim.toNat size) m) := by
  rw [hsize]
  refine congrArg Host.Outcome.next ((if_neg ?_).trans ((if_neg (not_not_intro hears)).trans ((if_neg (ne_true_of_eq_false live)).trans
    (if_neg (not_not_intro ⟨format, low, high, multiple, aligned⟩)))))
  unfold State.engineWaits
  dsimp only
  rw [free, Bool.and_false]
  exact Bool.false_ne_true

end

/-- Settles O45: each request by its first packet, and each answer by what its reads have brought. -/
theorem gatherEnginesServe : Obligations.GatherEnginesServe := by
  refine ⟨fun h host tag op ef ru n tb d m g s hears live free n1 n2 ru1 ru2 aligned format copy hg =>
      ⟨fun full => ⟨_, _, rfl, ?full⟩, fun room part => ?waits, fun room whole => ?goes⟩,
    fun h host tag op ef ru n tb d m s hears => ⟨fun fatal => ?fatal, fun live held => ?held, fun live free wrong => ?illegal⟩,
    fun h host tag k sf dim sa b m g size s hears live free format low high multiple aligned hsize room hg =>
      ⟨fun part => ?selectWaits, fun whole addr n1 n2 bb1 bb2 bb3 ret zero => ?selects⟩,
    fun h host tag m g s found live => ⟨fun more => ?more, fun ended answered => ?answers, fun ended retry => ⟨_, _, rfl, ?retries⟩⟩⟩
  case full =>
    rw [exec_gather_free hears (.inr free), if_neg (ne_true_of_eq_false live),
      if_neg (not_not_intro ⟨n1, n2, ru1, ru2, aligned, format, copy⟩), State.gatherPacket_full full] <;> rfl
  case waits =>
    rw [exec_gather_free hears (.inr free), if_neg (ne_true_of_eq_false live),
      if_neg (not_not_intro ⟨n1, n2, ru1, ru2, aligned, format, copy⟩), State.gatherPacket_waits room part, hg]
  case goes =>
    rw [exec_gather_free hears (.inr free), if_neg (ne_true_of_eq_false live),
      if_neg (not_not_intro ⟨n1, n2, ru1, ru2, aligned, format, copy⟩)]
    refine congrArg Host.Outcome.next ((State.gatherPacket_goes room whole (by exact rfl)).trans ?_)
    rw [Gather.data_first, hg]
  case fatal => rw [exec_gather_free hears (.inl fatal), if_pos fatal]
  case held => exact congrArg Host.Outcome.next (State.engineIn_held (by simp [State.engineWaits, live, held]) m)
  case illegal =>
    rw [exec_gather_free hears (.inr free), if_neg (ne_true_of_eq_false live), if_pos]
    rintro ⟨n1, n2, ru1, ru2, aligned, format, copy⟩
    rcases wrong with rfl | h | rfl | h | h | h | ⟨isCopy, wide⟩
    · exact absurd n1 (by decide)
    · omega
    · exact absurd ru1 (by decide)
    · omega
    · exact h aligned
    · omega
    · exact wide (copy isCopy)
  case selectWaits =>
    rw [exec_select_legal hears live free format low high multiple aligned hsize, State.gatherPacket_waits room part, hg]
  case selects =>
    have good : selectValid dim.toNat size g = some { g with
        count := bytesAt b 8 4, idx := List.range (bytesAt b 8 4), query := rowFp g.fmt ((b.drop 32).take (dim.toNat * size))
        blockAddr := bytesAt b 0 8, blockBytes := bytesAt b 0x0C 4, ret := bytesAt b 0x10 1 == 1 } := by
      have data : g.data = b := by rw [hg]; exact List.append_nil b
      unfold selectValid
      rw [data]
      exact if_pos ⟨addr, n1, n2, bb1, bb2, bb3, ret, zero⟩
    rw [hg] at good ⊢
    rw [exec_select_legal hears live free format low high multiple aligned hsize, State.gatherPacket_goes room whole good]
  case more =>
    refine congrArg Host.Outcome.next ?_
    rw [found]
    exact (if_neg (ne_true_of_eq_false live)).trans (if_pos (ne_true_of_eq_false more))
  case answers =>
    refine congrArg Host.Outcome.next ?_
    rw [found]
    refine (if_neg (ne_true_of_eq_false live)).trans ((if_neg (not_not_intro ended)).trans ?_)
    dsimp only
    rw [if_neg answered]
  case retries =>
    refine congrArg Host.Outcome.next ?_
    rw [found]
    refine (if_neg (ne_true_of_eq_false live)).trans ((if_neg (not_not_intro ended)).trans ?_)
    dsimp only
    rw [if_pos retry, retry] <;> rfl

end Sys2Proof.Machine
end

section
/-! DRAM channels (R557–R564, R577–R580, R586, R604, R644): training, refresh, temperatures, retraining and self-refresh. -/
namespace Sys2Proof.Machine
open Sys2Proof

/-! ### The longest run of passing settings (R560) -/

/-- What a scan of the settings from `lo` up to, but without, `m` has found: `cur` is the run that ends there, and `best` the longest,
the first of equals. -/
structure Scanned (pass : BitVec 128) (lo m : Nat) (cur best : Run) : Prop where
  fits : lo + cur.len ≤ m
  curPass : ∀ i, m - cur.len ≤ i → i < m → pass.getLsbD i = true
  curStart : m - cur.len = lo ∨ pass.getLsbD (m - cur.len - 1) = false
  curFirst : 0 < cur.len → cur.first = m - cur.len
  bestPass : ∀ i, best.first ≤ i → i < best.first + best.len → lo ≤ i ∧ i < m ∧ pass.getLsbD i = true
  longest : ∀ f n, lo ≤ f → f + n ≤ m → (∀ i, f ≤ i → i < f + n → pass.getLsbD i = true) →
    n ≤ best.len ∧ (n = best.len → 0 < n → best.first ≤ f)

theorem Scanned.start (pass : BitVec 128) (lo : Nat) : Scanned pass lo lo ⟨0, 0⟩ ⟨0, 0⟩ := by
  refine ⟨by simp, fun i h k => ?_, .inl rfl, fun h => absurd h (by simp), fun i h k => ?_, fun f n h k _ => ?_⟩
  · simp at h; omega
  · simp at k
  · simp; omega

/-- A setting that fails ends the present run. -/
theorem Scanned.fail {pass : BitVec 128} {lo m : Nat} {cur best : Run} (h : Scanned pass lo m cur best) (fails : pass.getLsbD m = false) :
    Scanned pass lo (m + 1) ⟨0, 0⟩ best := by
  have low := h.fits
  refine ⟨by simp; omega, fun i a b => ?_, .inr ?_, fun a => absurd a (by simp), fun i a b => ?_, fun f n a b all => ?_⟩
  · simp at a; omega
  · simpa using fails
  · obtain ⟨h1, h2, h3⟩ := h.bestPass i a b
    exact ⟨h1, by omega, h3⟩
  · by_cases within : f + n ≤ m
    · exact h.longest f n a within all
    · by_cases none_ : n = 0
      · subst none_
        exact ⟨Nat.zero_le _, fun _ pos => absurd pos (lt_irrefl 0)⟩
      · have := all m (by omega) (by omega)
        rw [fails] at this
        cases this

/-- A setting that passes lengthens the present run. -/
theorem Scanned.pass {pass : BitVec 128} {lo m : Nat} {cur best : Run} (h : Scanned pass lo m cur best) (passes : pass.getLsbD m = true) :
    Scanned pass lo (m + 1) ⟨if cur.len = 0 then m else cur.first, cur.len + 1⟩
      (if best.len < cur.len + 1 then ⟨if cur.len = 0 then m else cur.first, cur.len + 1⟩ else best) := by
  have low := h.fits
  have first : (if cur.len = 0 then m else cur.first) = m - cur.len := by
    split
    · omega
    · exact h.curFirst (by omega)
  rw [first]
  have curPass : ∀ i, m - cur.len ≤ i → i < m + 1 → pass.getLsbD i = true := fun i a b => by
    rcases Nat.lt_or_ge i m with below | at_
    · exact h.curPass i a below
    · rwa [show i = m by omega]
  have whole : ∀ f n, lo ≤ f → f + n = m + 1 → (∀ i, f ≤ i → i < f + n → pass.getLsbD i = true) → m - cur.len ≤ f := fun f n a b all => by
    by_contra before
    rcases h.curStart with start | fails
    · omega
    · have := all (m - cur.len - 1) (by omega) (by omega)
      rw [fails] at this
      cases this
  refine ⟨by simp; omega, fun i a b => curPass i (by simp at a; omega) b, ?_, fun _ => by simp, fun i a b => ?_, fun f n a b all => ?_⟩
  · have same : m + 1 - (cur.len + 1) = m - cur.len := by omega
    simp only [same]
    exact h.curStart
  · split at a <;> rename_i longer
    · rw [if_pos longer] at b
      simp only at a b
      exact ⟨by omega, by omega, curPass i a (by omega)⟩
    · rw [if_neg longer] at b
      obtain ⟨h1, h2, h3⟩ := h.bestPass i a b
      exact ⟨h1, by omega, h3⟩
  · by_cases within : f + n ≤ m
    · obtain ⟨shorter, earlier⟩ := h.longest f n a within all
      split
      · exact ⟨by simp; omega, fun eq => by simp at eq; omega⟩
      · exact ⟨shorter, earlier⟩
    · have reach := whole f n a (by omega) all
      split
      · exact ⟨by simp; omega, fun eq _ => reach⟩
      · refine ⟨by omega, fun eq pos => ?_⟩
        obtain ⟨_, last, _⟩ := h.bestPass (best.first + best.len - 1) (by omega) (by omega)
        omega

theorem scanRuns_scanned (pass : BitVec 128) (lo k : Nat) : ∀ (m : Nat) (cur best : Run), Scanned pass lo m cur best →
    ∃ last, Scanned pass lo (m + k) last (scanRuns pass (List.range' m k) cur best) := by
  induction k with
  | zero => exact fun m cur best h => ⟨cur, h⟩
  | succ k ih =>
    intro m cur best h
    have shift : m + (k + 1) = m + 1 + k := by omega
    rw [List.range'_succ, scanRuns, shift]
    split
    · next passes => exact ih _ _ _ (h.pass passes)
    · next fails => exact ih _ _ _ (h.fail (Bool.not_eq_true _ ▸ fails))

/-- The run that training takes (R560). -/
theorem longestRun_scanned (pass : BitVec 128) {lo hi : Nat} (ordered : lo ≤ hi) :
    ∃ last, Scanned pass lo hi last (longestRun pass lo hi) := by
  have range : (List.range (hi - lo)).map (· + lo) = List.range' lo (hi - lo) := by
    rw [List.range'_eq_map_range]
    exact List.map_congr_left fun i _ => Nat.add_comm i lo
  obtain ⟨last, scanned⟩ := scanRuns_scanned pass lo (hi - lo) lo ⟨0, 0⟩ ⟨0, 0⟩ (.start pass lo)
  rw [show lo + (hi - lo) = hi by omega] at scanned
  unfold longestRun
  rw [range]
  exact ⟨last, scanned⟩

/-! ### Training -/

theorem State.chan_modChan (s : State) (h c : Nat) (f : MemChan → MemChan) : (s.modChan h c f).chan h c = f (s.chan h c) :=
  SMap.getD_mod_self s.chans (h * 64 + c) {} f

theorem Does.chan_eq {W : Nat} {s t : State} (h : Does W s t) (hchans : W.testBit Field.chans.ctorIdx = false) (n c : Nat) :
    t.chan n c = s.chan n c := by
  unfold State.chan
  rw [(h.same .chans hchans : t.chans = s.chans)]

/-- A training that succeeds has runs of 16 settings or more in every lane (R560, R561). -/
theorem trainLanes_passes {c : Nat} {l : List LaneRuns} : ∀ {n : Nat} {attempts : List (List LaneSweep)}, trainLanes c n attempts = some l →
    l.length = byteLanes c ∧ ∀ r ∈ l, 16 ≤ r.read.len ∧ 16 ≤ r.write.len
  | 0, _, h => by cases h
  | n + 1, [], h => by
    cases h
    refine ⟨List.length_replicate, fun r mem => ?_⟩
    rw [List.eq_of_mem_replicate mem]
    decide
  | n + 1, a :: as, h => by
    rw [trainLanes] at h
    split at h
    · next all =>
      cases h
      refine ⟨by simp, fun r mem => ?_⟩
      exact of_decide_eq_true (List.all_eq_true.mp all r mem)
    · exact trainLanes_passes h

/-- Pool time at a channel's next phase is that phase modulo 3,900 ns (R558). -/
theorem toPhase_spec (h c p : Nat) : toPhase h c p < 3900 ∧ (p + toPhase h c p) % 3900 = refreshPhase h c % 3900 := by
  unfold toPhase
  generalize refreshPhase h c = phase
  omega

/-! ### Temperatures and retrains -/

/-- A live retrain that is asked for stands in the queue or is under way (R563). -/
theorem State.retrainAsk_queued (s : State) (h c : Nat) :
    (∃ at_, (at_, h, c) ∈ (s.retrainAsk h c).integ.retrainQueue) ∨ (s.retrainAsk h c).integ.retrainNow = some (h, c) := by
  unfold State.retrainAsk
  split
  · next there =>
    rcases there with queued | now
    · obtain ⟨⟨at_, k⟩, mem, same⟩ := List.any_eq_true.mp queued
      have own : k = (h, c) := eq_of_beq same
      rw [own] at mem
      exact .inl ⟨at_, mem⟩
    · exact .inr now
  · exact .inl ⟨s.clk.now, List.mem_append_right _ List.mem_cons_self⟩

/-- A thermal trip of a hub is a cause for which its snowplough acts (R644, R653). -/
theorem State.thermalTrip_acts (s : State) (h : Nat) (c : SnowCause) : ((s.thermalTrip h c).pwrHub h).causes.contains c = true := by
  unfold State.thermalTrip
  split
  · assumption
  · unfold State.snow State.snowHub
    dsimp only
    rw [List.foldl_cons, List.foldl_nil, State.pwrHub_modPwr]
    dsimp only
    split
    · assumption
    · exact List.contains_iff_mem.mpr List.mem_cons_self

/-- A channel's record with a new reading (R559, R563). -/
def MemChan.sensed (x : MemChan) (temp : BitVec 8) (trip : Bool) : MemChan :=
  { x with tempC := temp, thermal := trip, trainedC := some (x.trainedC.getD temp) }

/-- The state with the reading of a channel taken, before a retrain is asked for. -/
def State.sensed (s : State) (h c : Nat) (temp : BitVec 8) (trip : Bool) : State :=
  if trip then (s.modChan h c (fun x => x.sensed temp trip)).thermalTrip h .memThermal else s.modChan h c (fun x => x.sensed temp trip)

theorem State.sensed_does (s : State) (h c : Nat) (temp : BitVec 8) (trip : Bool) : Does 0xC000004000000000 s (s.sensed h c temp trip) := by
  unfold State.sensed
  split
  · exact State.thermalTrip_does (.of .self rfl) _ _ (State.modChan_does (.of .self rfl) _ _ _ (.refl s))
  · exact State.modChan_does (.of .self rfl) _ _ _ (.refl s)

theorem State.chan_sensed (s : State) (h c : Nat) (temp : BitVec 8) (trip : Bool) :
    (s.sensed h c temp trip).chan h c = (s.chan h c).sensed temp trip := by
  unfold State.sensed
  split
  · exact ((State.thermalTrip_does .self h .memThermal (.refl _)).chan_eq rfl h c).trans (State.chan_modChan ..)
  · exact State.chan_modChan ..

theorem State.chanTemp_eq {s : State} {h : Nat} (present : s.hubPresent h = true) (live : s.fatal = false) (c : Nat) (temp : BitVec 8)
    (trip : Bool) : s.chanTemp h c temp trip =
      if (s.chan h c).state = .inService ∧ ((s.chan h c).sensed temp trip).moved then (s.sensed h c temp trip).retrainAsk h c
      else s.sensed h c temp trip := by
  unfold State.chanTemp
  rw [if_neg (by simp [present, live])]
  change (if ((s.sensed h c temp trip).chan h c).state = .inService ∧ ((s.sensed h c temp trip).chan h c).moved then
    (s.sensed h c temp trip).retrainAsk h c else s.sensed h c temp trip) = _
  rw [State.chan_sensed] <;> rfl

/-- A reading that is 8 °C or more away from that of the last training (R563). -/
theorem MemChan.sensed_moved {x : MemChan} {t temp : BitVec 8} (trip : Bool) (trained : x.trainedC = some t)
    (away : temp.toNat + 8 ≤ t.toNat ∨ t.toNat + 8 ≤ temp.toNat) : (x.sensed temp trip).moved = true := by
  unfold MemChan.sensed MemChan.moved
  rw [trained]
  exact decide_eq_true away

/-! ### The end of a live retrain -/

/-- A channel's record after a live retrain that found the runs `l` (R563, R564, R604). -/
def MemChan.retrained (x : MemChan) (l : List LaneRuns) : MemChan :=
  if l.all LaneRuns.passes then
    { ({ x.measured l with state := .inService, retrains := satAdd x.retrains 1, suspects := [] } : MemChan).centred l with
      trainedC := some x.tempC, failures := 0 }
  else { ({ x.measured l with state := .inService, retrains := satAdd x.retrains 1, suspects := [] } : MemChan) with
      failures := x.failures + 1 }

theorem MemChan.retrained_spec (x : MemChan) (l : List LaneRuns) :
    (x.retrained l).state = .inService ∧ (x.retrained l).suspects = [] ∧ (x.retrained l).retrains = satAdd x.retrains 1 ∧
      (x.retrained l).failures = (if l.all LaneRuns.passes then 0 else x.failures + 1) ∧
      (x.retrained l).trainedC = (if l.all LaneRuns.passes then some x.tempC else x.trainedC) ∧
      (x.retrained l).delays = (if l.all LaneRuns.passes then l.map (fun r => (r.read.centre, r.write.centre)) else x.delays) := by
  unfold MemChan.retrained
  cases l.all LaneRuns.passes <;> exact ⟨rfl, rfl, rfl, rfl, rfl, rfl⟩

/-- The state in which the outcome of a live retrain is acted on. -/
def State.retrained (s : State) (h c : Nat) (l : List LaneRuns) : State :=
  { s.modChan h c (fun x => x.retrained l) with integ := { s.integ with
      retrainNow := none
      retrainQueue := (if l.all LaneRuns.passes then [] else [(0, h, c)]) ++ s.integ.retrainQueue } }

theorem State.chan_retrained (s : State) (h c : Nat) (l : List LaneRuns) : (s.retrained h c l).chan h c = (s.chan h c).retrained l :=
  SMap.getD_mod_self s.chans (h * 64 + c) {} (fun x => x.retrained l)

/-! ### Self-refresh -/

theorem State.srEnterCmd_may {s : State} {h c : Nat} (may : s.srMay h c = true) (live : s.fatal = false) : s.srEnterCmd h c = s.srEnter h c :=
  if_pos ⟨may, ne_true_of_eq_false live⟩

theorem State.chan_srEnter (s : State) (h c : Nat) : ((s.srEnter h c).chan h c).state = .selfRefresh ∧ ((s.srEnter h c).chan h c).masked =
    if (decide (32 ≤ c ∧ s.eff.u8 .compat 1 = 1) && (s.chan h c).pasrCap) = true then s.maskable h c else [] := by
  unfold State.srEnter State.chan State.modChan
  dsimp only
  rw [SMap.getD_mod_self]
  exact ⟨rfl, rfl⟩

/-- A stack channel in self-refresh masks nothing (R579). -/
theorem State.srEnter_stack {s : State} {h c : Nat} (stack : c < 32) :
    (s.srEnter h c).slots = s.slots ∧ ((s.srEnter h c).chan h c).masked = [] := by
  have off : (decide (32 ≤ c ∧ s.eff.u8 .compat 1 = 1) && (s.chan h c).pasrCap) = false := by
    rw [decide_eq_false (fun deep => absurd deep.1 (not_le.mpr stack)), Bool.false_and]
  refine ⟨?_, ?_⟩
  · unfold State.srEnter
    dsimp only
    rw [off] <;> rfl
  · rw [(s.chan_srEnter h c).2, off] <;> rfl

/-- A channel that had masked nothing leaves self-refresh without a fill (R578, R579). -/
theorem State.srExit_unmasked {s : State} {h c : Nat} (asleep : (s.chan h c).state = .selfRefresh) (none_ : (s.chan h c).masked = []) :
    s.srExit h c = s.srLeave h c := by
  unfold State.srExit
  rw [if_neg (not_not_intro asleep), none_]
  simp [State.fillMasked]

theorem State.chan_refreshChan (s : State) (h c : Nat) :
    (s.refreshChan h c).chan h c = { s.chan h c with nextRefresh := (s.chan h c).nextRefresh + 3900 } :=
  ((State.bump_does .self h 5 0x82 c _ (.refl _)).chan_eq rfl h c).trans (State.chan_modChan ..)

/-- A channel that leaves self-refresh with its refreshes in phase, before a retrain is asked for (R578). -/
def State.wakes (s : State) (h c : Nat) : State :=
  ((s.modChan h c (fun x => { x with state := .inService, pasr := false, masked := [] })).refreshChan h c).takePhase h c

theorem State.wakes_does (s : State) (h c : Nat) : Does 0x4000000100 s (s.wakes h c) :=
  State.takePhase_does (.of .self rfl) h c (State.refreshChan_does .self h c (State.modChan_does (.of .self rfl) h c _ (.refl s)))

theorem State.chan_wakes (s : State) (h c : Nat) : ((s.wakes h c).chan h c).state = .inService ∧
    ((s.wakes h c).chan h c).nextRefresh = s.clk.now + toPhase h c s.clk.poolTime.toNat := by
  have clk : ((s.modChan h c (fun x => { x with state := .inService, pasr := false, masked := [] })).refreshChan h c).clk = s.clk :=
    (State.refreshChan_does .self h c (.refl _)).same .clk rfl
  unfold State.wakes State.takePhase
  rw [State.chan_modChan, State.chan_refreshChan, State.chan_modChan, clk]
  exact ⟨rfl, rfl⟩

theorem State.srLeave_does_wakes (s : State) (h c : Nat) : Does 0x20000000000 (s.wakes h c) (s.srLeave h c) := by
  change Does _ _ (if ((s.wakes h c).chan h c).moved then (s.wakes h c).retrainAsk h c else s.wakes h c)
  split
  · exact State.retrainAsk_does .self h c (.refl _)
  · exact .refl _

/-- Settles O47: training by its runs, and each event of a channel by the record it finds. -/
theorem dramChannelsAreKept : Obligations.DramChannelsAreKept := by
  refine ⟨fun pass lo hi r hr => ?runs, fun h c attempts bad s => ⟨fun l trained => ?trains, fun failed => ?fails⟩, fun h c s n hn => ?phase,
    fun h c s state => ⟨fun due => congrArg Host.Outcome.next (if_pos ⟨state, due⟩),
      fun early => congrArg Host.Outcome.next (if_neg (fun k => absurd k.2 (not_le.mpr early)))⟩,
    fun h c temp trip s fatal => if_pos (.inr fatal), fun h c temp trip s present live => ⟨_, rfl, ?senses⟩,
    fun h c temp hot s present => rfl, fun h c temp s present => rfl, fun at_ h c s idle live next => ?retrains,
    fun sweep h c l s now live hl => ⟨s.retrained h c l, ?retrained⟩, fun h c s => ⟨fun none_ => ?noneHeld, fun i r held hh hc => ?held⟩,
    fun h c s => ⟨fun fatal => congrArg Host.Outcome.next (if_pos fatal), fun live state => ?asks⟩,
    fun h c s may live => ⟨_, congrArg Host.Outcome.next (State.srEnterCmd_may may live), ?enters⟩,
    fun h c s asleep unmasked live => ⟨_, congrArg Host.Outcome.next ((if_neg (ne_true_of_eq_false live)).trans (State.srExit_unmasked asleep unmasked)), ?leaves⟩,
    fun h c s timed may live => congrArg Host.Outcome.next ((if_pos timed).trans (State.srEnterCmd_may may live))⟩
  case runs =>
    rcases Nat.lt_or_ge hi lo with empty | ordered
    · have none_ : r = ⟨0, 0⟩ := by
        rw [hr]
        unfold longestRun
        rw [show hi - lo = 0 by omega] <;> rfl
      rw [none_]
      exact ⟨fun i _ k => absurd k (Nat.not_lt_zero i), fun f n a b _ => by omega⟩
    · obtain ⟨last, scanned⟩ := longestRun_scanned pass ordered
      rw [hr]
      exact ⟨scanned.bestPass, scanned.longest⟩
  case trains =>
    obtain ⟨length, passes⟩ := trainLanes_passes trained
    unfold State.trainChan State.takePhase
    rw [trained]
    dsimp only
    rw [State.chan_modChan, State.chan_modChan]
    exact ⟨rfl, length, passes, rfl⟩
  case fails =>
    unfold State.trainChan
    rw [failed]
    exact congrArg MemChan.state (State.chan_modChan ..)
  case phase =>
    have due : n = s.clk.now + toPhase h c s.clk.poolTime.toNat := hn.trans (congrArg MemChan.nextRefresh (State.chan_modChan ..))
    obtain ⟨within, phase⟩ := toPhase_spec h c s.clk.poolTime.toNat
    rw [due]
    refine ⟨by omega, by omega, ?_⟩
    rw [Nat.add_sub_cancel_left, phase] <;> rfl
  case senses =>
    have does : Does 0x20000000000 (s.sensed h c temp trip) (s.chanTemp h c temp trip) := by
      rw [State.chanTemp_eq present live]
      split
      · exact State.retrainAsk_does .self _ _ (.refl _)
      · exact .refl _
    rw [does.chan_eq rfl, does.pwrHub_eq rfl, State.chan_sensed]
    refine ⟨rfl, rfl, rfl, rfl, (does.same .mem rfl).trans ((s.sensed_does h c temp trip).same .mem rfl),
      (does.same .lineMeta rfl).trans ((s.sensed_does h c temp trip).same .lineMeta rfl), fun tripped => ?_, fun calm => ?_,
      fun x trained serving away => ?_⟩
    · rw [tripped]
      exact State.thermalTrip_acts ..
    · rw [(does.same .pwrHubs rfl :), calm] <;> rfl
    · rw [State.chanTemp_eq present live, if_pos ⟨serving, MemChan.sensed_moved trip trained away⟩]
      exact State.retrainAsk_queued ..
  case retrains =>
    refine congrArg Host.Outcome.next ((if_neg ?_).trans ?_)
    · simp [idle, live]
    · rw [next] <;> rfl
  case retrained =>
    obtain ⟨state, suspects, retrains, failures, trained, delays⟩ := (s.chan h c).retrained_spec l
    rw [State.chan_retrained]
    refine ⟨state, suspects, retrains, failures, trained, delays, rfl, rfl, rfl, rfl, congrArg Host.Outcome.next ?_⟩
    rw [if_neg (ne_true_of_eq_false live), now]
    dsimp only
    rw [← hl]
    change (if 3 ≤ ((s.retrained h c l).chan h c).failures then _ else _) = _
    rw [State.chan_retrained] <;> rfl
  case noneHeld =>
    unfold State.chanDone
    rw [none_]
  case held =>
    unfold State.chanDone
    rw [held]
    exact if_pos ⟨hh, hc⟩
  case asks =>
    refine congrArg Host.Outcome.next ((if_neg (ne_true_of_eq_false live)).trans ?_)
    unfold State.retrainCmd
    rcases state with h | h | h <;> rw [h]
  case enters =>
    have does := State.srEnter_does .self h.val c.val (.refl s)
    exact ⟨(s.chan_srEnter h c).1, does.same .mem rfl, does.same .lineMeta rfl, State.srEnter_stack⟩
  case leaves =>
    have does := (State.srLeave_does_wakes s h c)
    obtain ⟨state, refresh⟩ := State.chan_wakes s h c
    rw [does.chan_eq rfl]
    exact ⟨state, refresh, (does.same .mem rfl).trans ((s.wakes_does h c).same .mem rfl),
      (does.same .slots rfl).trans ((s.wakes_does h c).same .slots rfl)⟩

end Sys2Proof.Machine
end

section
/-! Lifts and migrations (R143, R568, R570–R576, R598): their commands, their reads and their switch. -/
namespace Sys2Proof.Machine
open Sys2Proof

theorem State.liftStart_refused {s : State} {e : BitVec 16} {cls : BitVec 4} {given : Bool} {h : Nat}
    (refused : s.liftRefusal e.toNat cls.toNat given h ≠ 0) :
    s.liftStart e cls given h = { s with lift := { s.lift with lastResult := BitVec.ofNat 4 (s.liftRefusal e.toNat cls.toNat given h) } } := by
  unfold State.liftStart
  split
  · next none_ => exact absurd none_ refused
  · rfl

theorem State.liftStart_taken {s : State} {e : BitVec 16} {cls : BitVec 4} {given : Bool} {h d : Nat} {f : BitVec 8}
    (free : s.liftRefusal e.toNat cls.toNat given h = 0) (chosen : s.chooseExtent cls.toNat given h = some (d, f)) :
    s.liftStart e cls given h = { s.carve cls.toNat d f with lift := {
      queue := (s.carve cls.toNat d f).lift.queue ++ [{ src := e, dest := BitVec.ofNat 16 d, cls := cls }], lastResult := 1 } } := by
  unfold State.liftStart
  rw [free]
  dsimp only
  rw [chosen] <;> rfl

/-! ### Reads of the source -/

section
variable {j : LiftJob} {r : List LiftJob} {s : State} (head : s.lift.queue = j :: r)
include head

theorem State.modLift_head (f : LiftJob → LiftJob) : s.modLift f = { s with lift := { s.lift with queue := f j :: r } } := by
  unfold State.modLift
  rw [head]

theorem State.liftGo_reads {lost : List Nat} {n : Nat} (more : j.next < 2 ^ 22) (room : s.ownRoom (j.src.toNat * 2 ^ 22 + j.next) = true) :
    State.liftGo lost (n + 1) s = State.liftGo lost n (s.liftLine j lost) := by
  rw [State.liftGo, head]
  exact if_pos ⟨more, room⟩

theorem State.liftGo_stops {lost : List Nat} {n : Nat} (stop : 2 ^ 22 ≤ j.next ∨ s.ownRoom (j.src.toNat * 2 ^ 22 + j.next) = false) :
    State.liftGo lost (n + 1) s = s := by
  rw [State.liftGo, head]
  refine if_neg ?_
  rintro ⟨more, room⟩
  rcases stop with all | full
  · exact absurd more (not_lt.mpr all)
  · exact ne_true_of_eq_false full room

theorem State.liftTake_source {l : Nat} (d : Option Line) (source : l / 2 ^ 22 = j.src.toNat) :
    s.liftTake l d = s.putCopy (j.dest.toNat * 2 ^ 22 + l % 2 ^ 22) d := by
  unfold State.liftTake State.liftDest
  rw [head]
  dsimp only
  rw [if_pos source]

theorem State.liftTake_other {l : Nat} (d : Option Line) (other : l / 2 ^ 22 ≠ j.src.toNat) : s.liftTake l d = s := by
  unfold State.liftTake State.liftDest
  rw [head]
  dsimp only
  rw [if_neg other]

end

/-! ### The switch -/

/-- The maps, the withdrawals and the queue once a lift's extent has its new number (R143, R574). -/
def State.liftMoved (s : State) (j : LiftJob) (r : List LiftJob) : State :=
  { s with
    maps := s.maps.mapVals (fun _ m => m.mapVals (fun _ x => { x with extent := if x.extent = j.src then j.dest else x.extent }))
    drains := s.drains.map (fun d => { d with extent := if d.extent = j.src then j.dest else d.extent })
    lift := { queue := r, lastResult := 2 } }

/-- The translations of the jobs that name a lift's source take its destination (R574). -/
def State.liftRebuilt (s : State) (j : LiftJob) : State :=
  s.jobs.foldl (fun s x =>
    if x.2.refs.any (fun r => r.extent == j.src.toNat) then
      (s.modJob x.1 (fun y => { y with refs := y.refs.map (fun r =>
        if r.extent = j.src.toNat then { r with extent := j.dest.toNat, hold := false } else r) })).rebuild x.1
    else s) s

theorem State.liftRebuilt_does (s : State) (j : LiftJob) : Does 0x90000C00000000 s (s.liftRebuilt j) := by
  refine Does.foldl _ _ (fun t x hk => ?_) (.refl s)
  split
  · exact State.rebuild_does .self x.1 (State.modJob_does (.of .self rfl) x.1 _ hk)
  · exact hk

theorem exec_liftSwitchPoint {med : Medium} {j : LiftJob} {r : List LiftJob} {s : State} (head : s.lift.queue = j :: r)
    (switching : j.phase = .switching) (ready : s.switchReady j.src.toNat = true) (live : s.fatal = false)
    (running : s.liftOn j s.hcRestarting = false) :
    exec (.liftSwitchPoint med) s =
      .next (((((s.liftMoved j r).liftRebuilt j).markInit j.dest.toNat).uncarve j.src.toNat).release med) := by
  refine congrArg Host.Outcome.next ?_
  rw [head]
  refine (if_neg ?_).trans rfl
  · simp [switching, ready, live, running]

section
variable {lost : List (BitVec 22)} {med : Medium} {j : LiftJob} {r : List LiftJob} {s u : State} (head : s.lift.queue = j :: r)
  (copying : j.phase = .copying) (live : s.fatal = false) (free : s.liftPaused j = false)
  (read : u = (s.modLift (fun x => { x with reading := true })).liftReads (lost.map (·.toNat)))
include head copying live free read

/-- What the rest of the copy's reads lead to (R573, R574). -/
theorem exec_liftCopyDone : exec (.liftCopyDone lost med) s = .next (
    if u.lift.queue.any (fun k => k.src == j.src && k.next == 2 ^ 22) ∧ u.liftRead j then u.liftSwitch j.src.toNat med else u.cohEnd med) := by
  refine congrArg Host.Outcome.next ?_
  rw [head, read]
  refine if_neg ?_
  rintro (other | fatal | paused)
  · exact other copying
  · exact ne_true_of_eq_false live fatal
  · exact ne_true_of_eq_false free paused

end

/-- Settles O48: each command and event of a lift or a migration by what it finds at the head. -/
theorem liftsAndMigrationsGoOn : Obligations.LiftsAndMigrationsGoOn := by
  refine ⟨fun h lost m u s found live => ⟨fun paused => ?paused, fun free hu => ?migrated⟩,
    fun k e cls given h s may live => ⟨fun refused => ?refused, fun d f u free chosen hu => ?starts⟩,
    fun k e j u s may live found hu => ?cancels, fun j r s live head queued => ⟨fun running free => ?begins, fun held => ?holds⟩,
    fun lost med j r s u v head copying live hu hv => ⟨fun paused => ?copyPaused, fun free all read => ?switches, fun free more => ?goesOn⟩,
    fun lost n j r s head => ⟨State.liftGo_reads head, State.liftGo_stops head⟩,
    fun l d j r s head => ⟨State.liftTake_source head d, State.liftTake_other head d⟩,
    fun med j r s head switching ready live running => ⟨(s.liftMoved j r).liftRebuilt j,
      exec_liftSwitchPoint head switching ready live running, ?moved⟩⟩
  case paused =>
    refine congrArg Host.Outcome.next ?_
    rw [found]
    exact if_pos (.inr paused)
  case migrated =>
    refine congrArg Host.Outcome.next ?_
    rw [found, hu]
    refine if_neg ?_
    rintro (fatal | paused)
    · exact ne_true_of_eq_false live fatal
    · exact ne_true_of_eq_false free paused
  case refused =>
    exact congrArg Host.Outcome.next ((if_pos ⟨may, ne_true_of_eq_false live⟩).trans (State.liftStart_refused refused))
  case starts =>
    rw [hu]
    exact congrArg Host.Outcome.next ((if_pos ⟨may, ne_true_of_eq_false live⟩).trans (State.liftStart_taken free chosen))
  case cancels =>
    refine congrArg Host.Outcome.next ((if_pos ⟨may, ne_true_of_eq_false live⟩).trans ?_)
    unfold State.liftCancel
    rw [found, hu]
    have calm : j.phase ≠ .switching := by
      have both := List.find?_some found
      exact bne_iff_ne.mp (Bool.and_eq_true_iff.mp both).2
    exact if_neg calm
  case begins =>
    refine congrArg Host.Outcome.next ?_
    rw [head]
    refine (if_neg ?_).trans (State.modLift_head head _)
    rintro (other | fatal | restarting | held)
    · exact other queued
    · exact ne_true_of_eq_false live fatal
    · exact ne_true_of_eq_false running restarting
    · exact ne_true_of_eq_false free held
  case holds =>
    refine congrArg Host.Outcome.next ?_
    rw [head]
    exact if_pos (.inr (.inr (.inr held)))
  case copyPaused =>
    refine congrArg Host.Outcome.next ?_
    rw [head]
    exact if_pos (.inr (.inr paused))
  case switches =>
    rw [exec_liftCopyDone head copying live free hu, hv]
    exact congrArg Host.Outcome.next (if_pos ⟨all, read⟩)
  case goesOn =>
    rw [exec_liftCopyDone head copying live free hu]
    refine congrArg Host.Outcome.next (if_neg ?_)
    rintro ⟨all, read⟩
    exact more.elim (ne_true_of_eq_false · all) (ne_true_of_eq_false · read)
  case moved =>
    have does := (s.liftMoved j r).liftRebuilt_does j
    exact ⟨congrArg (fun x : Lift => x.queue) (does.same .lift rfl : _), congrArg (fun x : Lift => x.lastResult) (does.same .lift rfl : _),
      does.same .maps rfl, does.same .drains rfl, does.same .slots rfl, does.same .dir rfl⟩

end Sys2Proof.Machine
end

section
/-! SPDM (R330, R671, R672, R676–R678, R688, R693–R695, R717): negotiation, attestation, key exchange, sessions and chunks. -/
namespace Sys2Proof.Machine
open Sys2Proof

/-! ### Requests that need a negotiation (R676) -/

theorem State.spdmNegotiated_ready {v : State} {c : SpdmCarrier} {ses : Option (Nat × KmpSession)} (ready : v.spdmReady c ses)
    (g : State → SpdmAnswer × State) : v.spdmNegotiated (spdmFrom c) (ses.map (·.1)) g = g v :=
  if_pos ready

theorem State.spdmNegotiated_refused {v : State} {c : SpdmCarrier} {ses : Option (Nat × KmpSession)} (unready : ¬v.spdmReady c ses)
    (g : State → SpdmAnswer × State) :
    v.spdmNegotiated (spdmFrom c) (ses.map (·.1)) g = (.resp (.error .unexpectedRequest), v) :=
  if_neg unready

/-! ### Key exchanges (R330, R676, R688, R693, R694) -/

/-- The part's session identifier of a key exchange, with the nonce drawn at `ctr`. -/
def exchangeSid (ctr : Nat) (slot : Option Nat) : BitVec 16 :=
  BitVec.ofNat 16 (Config.free .nonce ctr % 1024 * 64 + (match slot with | some k => k + 1 | none => 33))

theorem exchangeSid_slot (ctr k : Nat) : (exchangeSid ctr (some k)).toNat % 64 = (k + 1) % 64 := by
  unfold exchangeSid
  rw [BitVec.toNat_ofNat]
  dsimp only
  omega

/-- The state in which a key exchange of `f` chooses its slot: the exchange before it is gone, and a nonce is drawn. -/
def State.exchanging (v : State) (f : SpdmFrom) : State :=
  { v.modSpdm f (fun x => { x with exch := none }) with freeCtr := v.freeCtr + 1 }

/-- The state and the answer of a key exchange that begins. -/
def State.exchangeBegins (v : State) (f : SpdmFrom) (rq rsp : BitVec 16) (slot : Option Nat) (both : Bool) : SpdmAnswer × State :=
  (.resp (.keyExchange rsp both (Config.identitySign (leBytes 4 (rsp.toNat * 65536 + rq.toNat)))),
    v.modSpdm f (fun x => { x with exch := some { slot := slot, reqSid := rq, rspSid := rsp, both := both } }))

section
variable {s v : State} {rq : BitVec 16}

theorem exec_keyExchange_kmp {hdr : KmpHdr} {both : Bool} {k : Nat} (served : SpdmServed s (.kmp hdr) none v)
    (level : 3 ≤ (v.spdmSt (spdmFrom (.kmp hdr))).level) (slot : (v.exchanging (spdmFrom (.kmp hdr))).exchangeSlot = some k) :
    exec (.keyExchange (.kmp hdr) rq both) s = .next (
      let r := (v.exchanging (spdmFrom (.kmp hdr))).exchangeBegins (spdmFrom (.kmp hdr)) rq (exchangeSid v.freeCtr (some k)) (some k) both
      r.2.spdmAnswered (.kmp hdr) none r.1) := by
  refine congrArg Host.Outcome.next (served.serve_eq _ ((if_neg ?_).trans ?_))
  · rintro (⟨low, _⟩ | inside)
    · omega
    · cases inside
  · change (match (v.exchanging (spdmFrom (.kmp hdr))).exchangeSlot with
      | none => (SpdmAnswer.status 7, v.exchanging (spdmFrom (.kmp hdr)))
      | some k => _) = _
    rw [slot] <;> rfl

theorem exec_keyExchange_zl {h : BitVec 10} {both : Bool} (served : SpdmServed s (.zl h) none v) (level : 3 ≤ (v.spdmSt (.zl h)).level)
    (open1 : v.ten.state ≠ .ending) (open2 : v.ten.state ≠ .resurfacing) (allowed : v.sealed = false ∨ (v.ten.state = .open_ ∧ both = true)) :
    exec (.keyExchange (.zl h) rq both) s = .next (
      let r := (v.exchanging (.zl h)).exchangeBegins (.zl h) rq (exchangeSid v.freeCtr none) none v.sealed
      r.2.spdmAnswered (.zl h) none r.1) := by
  refine congrArg Host.Outcome.next (served.serve_eq _ ((if_neg ?_).trans (if_neg ?_)))
  · rintro (⟨low, _⟩ | inside)
    · exact absurd level (not_le.mpr low)
    · cases inside
  · rintro (ending | resurfacing | ⟨sealed, closed⟩)
    · exact open1 ending
    · exact open2 resurfacing
    · rcases allowed with unsealed | ⟨isOpen, authentic⟩
      · exact ne_true_of_eq_false unsealed sealed
      · exact closed.elim (fun k => k isOpen) (fun k => k authentic)

theorem exec_keyExchange_peer {d : BitVec 8} {b : List Byte} (served : SpdmServed s (.peer d b) none v)
    (level : 3 ≤ (v.spdmSt (.peer d)).level ∨ v.spdmLeads (.peer d) = true) :
    exec (.keyExchange (.peer d b) rq true) s = .next (
      let u := v.exchanging (.peer d)
      let r := ({ u with ten := { u.ten with peers := u.ten.peers.filter (· != d) } } : State).exchangeBegins (.peer d) rq
        (exchangeSid v.freeCtr none) none true
      r.2.spdmAnswered (.peer d b) none r.1) := by
  refine congrArg Host.Outcome.next (served.serve_eq _ ((if_neg ?_).trans (if_neg (not_not_intro rfl))))
  rintro (⟨low, follows⟩ | inside)
  · rcases level with level | leads
    · exact absurd level (not_le.mpr low)
    · exact follows leads
  · cases inside

end

/-! ### The end of a key exchange (R671, R676–R678, R688, R693, R694) -/

/-- The requester has proved what the exchange asks of it. -/
theorem SpdmExch.proved {x : SpdmExch} {sig : Bool} (proved : x.both = false ∨ (x.root ≠ none ∧ sig = true)) :
    ¬(x.both = true ∧ (x.root.isNone = true ∨ ¬sig = true)) := by
  rintro ⟨both, unproved⟩
  rcases proved with single | ⟨root, good⟩
  · exact ne_true_of_eq_false single both
  · exact unproved.elim (fun k => root (Option.isNone_iff_eq_none.mp k)) (fun k => k good)

section
variable {c : SpdmCarrier} {ses : Option (Nat × KmpSession)} {mac sig : Bool} {x : SpdmExch} {s v u w : State} {a : SpdmAnswer}
  (served : SpdmServed s c ses v) (exch : (v.spdmSt (spdmFrom c)).exch = some x)
  (gone : u = v.modSpdm (spdmFrom c) (fun y => { y with exch := none }))
include served exch gone

theorem exec_finish_badMac : exec (.finish c false sig) s = .next (u.spdmAnswered c ses (.resp (.error .decryptError))) := by
  refine congrArg Host.Outcome.next (served.serve_eq _ ?_)
  dsimp only
  rw [exch]
  dsimp only
  rw [← gone]
  exact if_pos Bool.false_ne_true

theorem exec_finish_badRoot (both : x.both = true) (wrong : x.root = none ∨ sig = false) :
    exec (.finish c true sig) s = .next (u.spdmAnswered c ses (.resp (.error .invalidRequest))) := by
  refine congrArg Host.Outcome.next (served.serve_eq _ ?_)
  dsimp only
  rw [exch]
  dsimp only
  rw [← gone]
  refine (if_neg (not_not_intro rfl)).trans (if_pos ⟨both, ?_⟩)
  rcases wrong with none_ | bad
  · exact .inl (Option.isNone_iff_eq_none.mpr none_)
  · exact .inr (ne_true_of_eq_false bad)

/-- A `FINISH` that passes its checks over KMP opens the session in the slot of its exchange. -/
theorem exec_finish_kmp {hdr : KmpHdr} {k : Nat} (proved : x.both = false ∨ (x.root ≠ none ∧ sig = true)) (carrier : c = .kmp hdr) (slot : x.slot = some k) :
    exec (.finish c true sig) s = .next ((({ u with freeCtr := u.freeCtr + 1 } : State).openSession k {
      sid := BitVec.ofNat 32 (x.rspSid.toNat * 65536 + x.reqSid.toNat), port := hdr.port, secret := Config.free .key u.freeCtr,
      key := kmpKeyOf (Config.free .key u.freeCtr), auth := u.authOf (if x.both then x.root else none) }).spdmAnswered c ses (.resp .finish)) := by
  refine congrArg Host.Outcome.next (served.serve_eq _ ?_)
  subst carrier
  dsimp only
  rw [exch]
  dsimp only
  rw [← gone]
  refine (if_neg (not_not_intro rfl)).trans ((if_neg (SpdmExch.proved proved)).trans ?_)
  rw [slot] <;> rfl

/-- A `FINISH` that passes its checks over ZetaLink keys the link of its host. -/
theorem exec_finish_zl {h : BitVec 10} (proved : x.both = false ∨ (x.root ≠ none ∧ sig = true)) (carrier : c = .zl h)
    (open1 : u.ten.state ≠ .ending) (open2 : u.ten.state ≠ .resurfacing)
    (allowed : u.sealed = false ∨ u.authOf (if x.both then x.root else none) = .tenant)
    (restarted : w = (if (u.linkOf h.toNat).isSome then u.restartHost h.toNat else u)) :
    exec (.finish c true sig) s = .next (({ w with
      freeCtr := w.freeCtr + 1
      ten := { w.ten with
        links := w.ten.links.set h.toNat {
          txKey := linkTxKey (Config.free .key w.freeCtr), rxKey := linkRxKey (Config.free .key w.freeCtr) } } } : State).spdmAnswered
      c ses (.resp .finish)) := by
  refine congrArg Host.Outcome.next (served.serve_eq _ ?_)
  subst carrier
  dsimp only
  rw [exch]
  dsimp only
  rw [← gone]
  refine (if_neg (not_not_intro rfl)).trans ((if_neg (SpdmExch.proved proved)).trans ((if_neg ?_).trans ?_))
  · rintro (ending | resurfacing | ⟨sealed, other⟩)
    · exact open1 ending
    · exact open2 resurfacing
    · exact allowed.elim (fun k => ne_true_of_eq_false k sealed) other
  · rw [← restarted] <;> rfl

section
variable {d : BitVec 8} {b : List Byte} (proved : x.both = false ∨ (x.root ≠ none ∧ sig = true)) (carrier : c = .peer d b)
include proved carrier

/-- A `FINISH` that passes its checks completes the exchange with a Kywyn peer of the same tenant. -/
theorem exec_finish_peer (root : x.root = some Config.kywynRoot) (same : u.sealed = false ∨ u.peerTenant b = true) :
    exec (.finish c true sig) s = .next (({ u with ten := { u.ten with peers := d :: u.ten.peers.filter (· != d) } } : State).spdmAnswered
      c ses (.resp .finish)) := by
  refine congrArg Host.Outcome.next (served.serve_eq _ ?_)
  subst carrier
  dsimp only
  rw [exch]
  dsimp only
  rw [← gone]
  exact (if_neg (not_not_intro rfl)).trans ((if_neg (SpdmExch.proved proved)).trans (if_pos ⟨root, same.imp ne_true_of_eq_false id⟩))

/-- A `FINISH` of a peer with another root, or of another tenant, is refused. -/
theorem exec_finish_otherPeer (other : x.root ≠ some Config.kywynRoot ∨ (u.sealed = true ∧ u.peerTenant b = false)) :
    exec (.finish c true sig) s = .next (u.spdmAnswered c ses (.resp (.error .invalidRequest))) := by
  refine congrArg Host.Outcome.next (served.serve_eq _ ?_)
  subst carrier
  dsimp only
  rw [exch]
  dsimp only
  rw [← gone]
  refine (if_neg (not_not_intro rfl)).trans ((if_neg (SpdmExch.proved proved)).trans (if_neg ?_))
  rintro ⟨root, same⟩
  rcases other with otherRoot | ⟨sealed, otherTenant⟩
  · exact otherRoot root
  · exact same.elim (fun k => k sealed) (ne_true_of_eq_false otherTenant)

end

end

/-- Settles O54: each request by what its requester has negotiated and what its exchange holds. -/
theorem spdmSessionsAreMade : Obligations.SpdmSessionsAreMade := by
  refine ⟨fun c ses s v served => ⟨congrArg Host.Outcome.next (served.serve_eq _ rfl), fun level => ?capabilities, fun level => ?algorithms,
      fun level common => ?early, fun level => ?noCommon, fun level => ?first⟩,
    fun c ses s v served ready => ⟨?digests, fun off len => ?certificate, fun k off len other => ?emptySlot, fun n => ⟨BitVec.ofNat 256 (Config.free .nonce v.freeCtr), ?challenge⟩,
      fun k n other => ?emptyChallenge, fun i sign n bs size blocks hsize => ⟨BitVec.ofNat 256 (Config.free .nonce v.freeCtr), _, _, ?measure, rfl⟩, fun i sign n none_ => ?noBlocks⟩,
    fun c ses s v served unready x mem => ?unready, fun c ses rq both s v served wrong => ?exchangeEarly,
    fun hdr rq both k s v u served level hu slot =>
      ⟨exchangeSid v.freeCtr (some k), exchangeSid_slot .., ?exchangeKmp⟩,
    fun h rq both s v u served level open1 open2 allowed hu => ⟨exchangeSid v.freeCtr none, ?exchangeLink⟩,
    fun d b rq s v u served level hu => ⟨exchangeSid v.freeCtr none, ?exchangePeer⟩,
    fun c ses mac sig x s v u served exch hu => ⟨fun bad => ?badMac, fun good both wrong => ?badRoot, fun hdr k good proved hc slot => ⟨Config.free .key u.freeCtr, ?finishKmp⟩,
      fun h w good proved hc open1 open2 allowed hw => ⟨Config.free .key w.freeCtr, ?finishLink⟩,
      fun d b good proved hc => ⟨fun root same => ?finishPeer, fun other => ?refusePeer⟩⟩,
    fun c ses s v served => ⟨fun secure => ⟨?heartbeat, ?keyUpdate, ?ends⟩, fun insecure x mem => ?insecure, congrArg Host.Outcome.next (served.serve_eq _ rfl)⟩,
    fun c ses x root n s v served exch both => ⟨?encap, fun n1 n2 => ?chain, fun ok wrong => ?badChain⟩,
    fun c ses hd n d b root k ok s v served ready follows => ?chunkSend, fun c ses hd n b s v served ready out within => ?chunkGet⟩
  case capabilities => exact congrArg Host.Outcome.next (served.serve_eq _ (if_neg (by omega)))
  case algorithms => exact congrArg Host.Outcome.next (served.serve_eq _ ((if_neg (by omega)).trans (if_neg (not_not_intro rfl))))
  case early => exact congrArg Host.Outcome.next (served.serve_eq _ (if_pos level))
  case noCommon => exact congrArg Host.Outcome.next (served.serve_eq _ ((if_neg (by omega)).trans (if_pos Bool.false_ne_true)))
  case first => exact congrArg Host.Outcome.next (served.serve_eq _ (if_pos level))
  case digests => exact congrArg Host.Outcome.next (served.serve_eq _ (State.spdmNegotiated_ready ready _))
  case certificate =>
    refine congrArg Host.Outcome.next (served.serve_eq _ ((State.spdmNegotiated_ready ready _).trans ?_))
    by_cases within : off.toNat < Config.certChain.length
    · rw [if_pos within]
      refine if_neg ?_
      rintro (other | beyond)
      · exact other rfl
      · omega
    · rw [if_neg within]
      exact if_pos (.inr (not_lt.mp within))
  case emptySlot =>
    refine congrArg Host.Outcome.next (served.serve_eq _ ((State.spdmNegotiated_ready ready _).trans (if_pos (.inl fun zero => ?_))))
    exact other (Fin.ext zero)
  case challenge =>
    exact congrArg Host.Outcome.next (served.serve_eq _ ((State.spdmNegotiated_ready ready _).trans (if_neg (not_not_intro rfl))))
  case emptyChallenge =>
    exact congrArg Host.Outcome.next (served.serve_eq _ ((State.spdmNegotiated_ready ready _).trans (if_pos fun zero => other (Fin.ext zero))))
  case measure =>
    refine congrArg Host.Outcome.next (served.serve_eq _ ((State.spdmNegotiated_ready ready _).trans ?_))
    dsimp only
    rw [blocks, hsize] <;> rfl
  case noBlocks =>
    refine congrArg Host.Outcome.next (served.serve_eq _ ((State.spdmNegotiated_ready ready _).trans ?_))
    rw [none_]
  case unready =>
    fin_cases mem <;> exact congrArg Host.Outcome.next (served.serve_eq _ (State.spdmNegotiated_refused unready _))
  case exchangeEarly =>
    refine congrArg Host.Outcome.next (served.serve_eq _ (if_pos (wrong.imp (fun k => ⟨k.1, ne_true_of_eq_false k.2⟩) fun inside => ?_)))
    rw [Option.isSome_map]
    exact inside
  case exchangeKmp =>
    rw [hu] at slot ⊢
    exact exec_keyExchange_kmp served level slot
  case exchangeLink =>
    rw [hu]
    exact exec_keyExchange_zl served level open1 open2 allowed
  case exchangePeer =>
    rw [hu]
    exact exec_keyExchange_peer served level
  case badMac =>
    rw [bad]
    exact exec_finish_badMac served exch hu
  case badRoot =>
    rw [good]
    exact exec_finish_badRoot served exch hu both wrong
  case finishKmp =>
    rw [good]
    exact exec_finish_kmp served exch hu proved hc slot
  case finishLink =>
    rw [good]
    exact exec_finish_zl served exch hu proved hc open1 open2 allowed hw
  case finishPeer =>
    rw [good]
    exact exec_finish_peer served exch hu proved hc root same
  case refusePeer =>
    rw [good]
    exact exec_finish_otherPeer served exch hu proved hc other
  case heartbeat =>
    refine congrArg Host.Outcome.next (served.serve_eq _ ?_)
    rw [secure] <;> rfl
  case keyUpdate =>
    refine congrArg Host.Outcome.next (served.serve_eq _ ?_)
    rw [secure] <;> rfl
  case ends =>
    refine congrArg Host.Outcome.next (served.serve_eq _ ((if_neg (not_not_intro secure)).trans ?_))
    cases ses <;> rfl
  case insecure =>
    fin_cases mem
    · refine congrArg Host.Outcome.next (served.serve_eq _ ?_)
      rw [insecure] <;> rfl
    · refine congrArg Host.Outcome.next (served.serve_eq _ ?_)
      rw [insecure] <;> rfl
    · exact congrArg Host.Outcome.next (served.serve_eq _ (if_pos (ne_true_of_eq_false insecure)))
  case encap =>
    refine congrArg Host.Outcome.next (served.serve_eq _ ?_)
    rw [exch]
    dsimp only
    rw [both] <;> rfl
  case chain =>
    refine congrArg Host.Outcome.next (served.serve_eq _ ?_)
    unfold State.takeChain
    rw [exch]
    refine (if_neg (not_not_intro both)).trans (if_neg ?_)
    rintro (zero | many | bad)
    · omega
    · omega
    · exact bad rfl
  case badChain =>
    refine congrArg Host.Outcome.next (served.serve_eq _ ?_)
    unfold State.takeChain
    rw [exch]
    refine (if_neg (not_not_intro both)).trans (if_pos ?_)
    rcases wrong with zero | many | bad
    · exact .inl (congrArg BitVec.toNat zero)
    · exact .inr (.inl many)
    · exact .inr (.inr (ne_true_of_eq_false bad))
  case chunkSend =>
    refine congrArg Host.Outcome.next (served.serve_eq _ ((State.spdmNegotiated_ready ready _).trans ?_))
    dsimp only
    rcases follows with ⟨first, none_⟩ | ⟨later, before⟩
    · rw [if_pos first, none_] <;> rfl
    · rw [if_neg later, before]
      dsimp only
      rw [if_pos ⟨rfl, rfl⟩] <;> rfl
  case chunkGet =>
    refine congrArg Host.Outcome.next (served.serve_eq _ ((State.spdmNegotiated_ready ready _).trans ?_))
    dsimp only
    rw [out]
    refine (if_neg ?_).trans ?_
    · rintro (other | ⟨beyond, later⟩)
      · exact other rfl
      · exact within.elim later (not_lt.mpr beyond)
    · by_cases last : b.length ≤ chunkBytes * (n.toNat + 1)
      · rw [if_pos last, if_pos (decide_eq_true last)]
      · rw [if_neg last, if_neg (ne_true_of_eq_false (decide_eq_false last))]

end Sys2Proof.Machine
end

section
/-! Fragments of fabric host messages, and link seals (R690–R692). -/
namespace Sys2Proof.Machine
open Sys2Proof

/-! ### The run of consecutive tags (R691) -/

theorem sealRun_cons (t u : SealTag) (n : Nat) (r : List SealTag) :
    sealRun t (n + 1) (u :: r) = if !t.alone && !u.alone && u.tseq == t.tseq + 1 then u :: sealRun u n r else [] := rfl

theorem sealRun_nil (t : SealTag) (n : Nat) : sealRun t n [] = [] := by
  cases n with
  | zero => rfl
  | succ n => rfl

theorem sealRun_alone {t : SealTag} (n : Nat) (r : List SealTag) (alone : t.alone = true) : sealRun t n r = [] := by
  cases n with
  | zero => rfl
  | succ n =>
    cases r with
    | nil => rfl
    | cons u r => simp [sealRun_cons, alone]

theorem sealRun_length_le (t : SealTag) (n : Nat) (r : List SealTag) : (sealRun t n r).length ≤ n := by
  induction r generalizing t n with
  | nil => simp [sealRun_nil]
  | cons u r ih =>
    cases n with
    | zero => exact le_refl _
    | succ n =>
      rw [sealRun_cons]
      split
      · exact Nat.succ_le_succ (ih u n)
      · exact Nat.zero_le _

/-- The tags of a run are those of the packets that follow one another, none of them alone. -/
theorem sealRun_get {t x : SealTag} {n i : Nat} {r : List SealTag} (at_ : (sealRun t n r)[i]? = some x) :
    x.tseq = t.tseq + BitVec.ofNat 24 (i + 1) ∧ x.alone = false := by
  induction r generalizing t n i with
  | nil => simp [sealRun_nil] at at_
  | cons u r ih =>
    cases n with
    | zero => simp [sealRun] at at_
    | succ n =>
      rw [sealRun_cons] at at_
      split at at_
      case isTrue follows =>
        obtain ⟨⟨-, single⟩, seq⟩ : (t.alone = false ∧ u.alone = false) ∧ u.tseq = t.tseq + 1 := by simpa using follows
        cases i with
        | zero =>
          obtain rfl : u = x := Option.some.inj at_
          exact ⟨seq, single⟩
        | succ i =>
          obtain ⟨next, others⟩ := ih (t := u) (n := n) (i := i) at_
          exact ⟨by rw [next, seq, BitVec.add_assoc]; congr 1; bv_omega, others⟩
      case isFalse => simp at at_

/-- The state whose outputs show the tags of a run as sent, and that keeps them no longer. -/
def State.runSent (s : State) (h : BitVec 10) (lvc : BitVec 3) (t : SealTag) (run : List SealTag) : State :=
  ({ s with ten := { s.ten with tagsOut := s.ten.tagsOut.filter (fun x => !run.contains x) } } : State).emit
    (.seal h lvc t.tseq t.lap (run.map (·.tag)))

/-- The payload of the packet that carries a run (R691, R692). -/
def State.runPayload (s : State) (h : BitVec 10) (lvc : BitVec 3) (t : SealTag) (run : List SealTag) : BitVec 160 :=
  BitVec.ofNat 160 (2 + lvc.toNat * 2 ^ 8 + run.length * 2 ^ 16 + t.tseq.toNat * 2 ^ 24 + t.lap % 2 ^ 40 * 2 ^ 48 +
    (s.rsb (some h.toNat)).toNat * 2 ^ 152)

theorem exec_sealSend {s : State} {h : BitVec 10} {lvc : BitVec 3} {t : SealTag} {r run : List SealTag}
    (head : s.ten.tagsOut.filter (fun x => x.host == h && x.lvc == lvc) = t :: r) (up : s.sys.portsStopped = false)
    (alive : (s.host h.toNat).dead = false) (hrun : run = t :: sealRun t 15 r) :
    exec (.sealSend h lvc) s = .next ((s.runSent h lvc t run).sendPkt h.toNat 7 5 ((s.runSent h lvc t run).runPayload h lvc t run)
      (bytesCells ((run.length + 1) / 2) (run.flatMap (·.tag)))) := by
  refine congrArg Host.Outcome.next ?_
  rw [head, hrun]
  refine if_neg ?_
  rintro (stopped | dead)
  · exact ne_true_of_eq_false up stopped
  · exact ne_true_of_eq_false alive dead

/-- Settles O55: a fragment joins the message of its number in order, tags are taken one by one, and a run is sent whole. -/
theorem fragmentsAndSealsAreKept : Obligations.FragmentsAndSealsAreKept := by
  refine ⟨fun h last m d s hears => congrArg Host.Outcome.next (if_neg (not_not_intro hears)),
    fun h i last m d f s hears later held => ?fragment, fun h lvc q lap tags s hears least most => congrArg Host.Outcome.next (if_neg ?inBounds),
    fun h lvc t r run s head up alive hrun => ⟨s.runSent h lvc t run, _, exec_sealSend head up alive hrun, rfl, rfl, rfl, rfl⟩, fun t n r => ⟨sealRun_length_le t n r, sealRun_alone n r, fun i x => sealRun_get⟩⟩
  case fragment =>
    have nonzero : i.toNat ≠ 0 := fun zero => later (BitVec.eq_of_toNat_eq zero)
    refine ⟨fun same next part => ?next, fun other => ?other⟩
    case next =>
      refine congrArg Host.Outcome.next ((if_neg (not_not_intro hears)).trans ?_)
      rw [if_neg nonzero, held, Option.filter_some, if_pos (by simp [same, next, part])]
    case other =>
      refine congrArg Host.Outcome.next ((if_neg (not_not_intro hears)).trans ?_)
      rw [if_neg nonzero, held, Option.filter_some, if_neg (by rcases other with o | o | o <;> simp [o])]
  case inBounds =>
    rintro (deaf | empty | many)
    · exact deaf hears
    · rw [List.isEmpty_iff.mp empty] at least
      exact absurd least (by decide)
    · omega

end Sys2Proof.Machine
end

section
/-! Firmware commands and the events of an update (R703–R719). -/
namespace Sys2Proof.Machine
open Sys2Proof

/-! ### Taken or refused (R711) -/

/-- What the firmware unit does with a command that it does not take: nothing. -/
theorem fwUntaken {s : State} {p : Path} (untaken : s.fwTakes p = false) {x : Instr}
    (mem : x ∈ ([.fwOpen p, .verify p, .start p, .abort p, .rollback p] : List Instr)) : exec x s = .next s := by
  fin_cases mem <;> exact congrArg Host.Outcome.next (if_pos (ne_true_of_eq_false untaken))

/-! ### The checks of a package (R712) -/

/-- A chain of checks that comes to `c` has passed each check that fails with something else. -/
theorem else_of_ite_eq {α : Type} {p : Prop} [Decidable p] {a b c : α} (h : (if p then a else b) = c) (other : a ≠ c) : ¬p ∧ b = c := by
  by_cases hp : p
  · exact absurd ((if_pos hp).symm.trans h) other
  · exact ⟨hp, (if_neg hp).symm.trans h⟩

theorem State.fwVerify_badPackage {s : State} {b : StageBuf} (bad : packageOk b = false) : s.fwVerify b = 2 :=
  if_pos (ne_true_of_eq_false bad)

theorem State.fwVerify_unsigned_iff {s : State} {b : StageBuf} (ok : packageOk b = true) :
    s.fwVerify b = 3 ↔ ∃ o ∈ packageEntries b, entrySigned b o = false := by
  have unsigned : ¬(packageEntries b).all (entrySigned b) = true ↔ ∃ o ∈ packageEntries b, entrySigned b o = false := by
    simp [List.all_eq_true]
  rw [← unsigned]
  constructor
  · intro three signed
    unfold State.fwVerify at three
    simp only [ok, signed, not_true_eq_false, if_false] at three
    split_ifs at three <;> exact absurd three (by decide)
  · intro bad
    unfold State.fwVerify
    rw [if_neg (not_not_intro ok), if_pos bad]

theorem State.fwVerify_passed {s : State} {b : StageBuf} (pass : s.fwVerify b = 0) {o : Nat} (entry : o ∈ packageEntries b) :
    entrySigned b o = true ∧ s.fw.svn.toNat ≤ stagedNum b (o + 0xC) 4 := by
  unfold State.fwVerify at pass
  obtain ⟨-, pass⟩ := else_of_ite_eq pass (by decide)
  obtain ⟨signed, pass⟩ := else_of_ite_eq pass (by decide)
  obtain ⟨-, pass⟩ := else_of_ite_eq pass (by decide)
  obtain ⟨-, pass⟩ := else_of_ite_eq pass (by decide)
  obtain ⟨-, pass⟩ := else_of_ite_eq pass (by decide)
  obtain ⟨svn, -⟩ := else_of_ite_eq pass (by decide)
  exact ⟨List.all_eq_true.mp (not_not.mp signed) o entry, of_decide_eq_true (List.all_eq_true.mp (not_not.mp svn) o entry)⟩

/-! ### The standby banks (R708, R712) -/

section
variable (f : Fw) (new : Option FwImage → Option FwImage)

theorem Fw.setStandby_hcImage {h : Nat} (bank : f.hcBank.getLsbD h = f.hcBank.getLsbD 0) : (f.setStandby new).hcImage h = f.hcImage h := by
  unfold Fw.hcImage Fw.setStandby
  dsimp only
  rw [bank]
  cases f.hcBank.getLsbD 0 <;> simp

theorem Fw.setStandby_spImage : (f.setStandby new).spImage = f.spImage := by
  unfold Fw.spImage Fw.setStandby
  cases f.spBank <;> simp

theorem Fw.setStandby_hcStandby (pending : f.pendHc ≠ none) : (f.setStandby new).hcStandby 0 = new f.pendHc := by
  have some_ : f.pendHc.isSome = true := Option.isSome_iff_ne_none.mpr pending
  unfold Fw.hcStandby Fw.setStandby
  dsimp only
  cases f.hcBank.getLsbD 0 <;> simp [some_]

theorem Fw.setStandby_spStandby (pending : f.pendSp ≠ none) : (f.setStandby new).spStandby = new f.pendSp := by
  have some_ : f.pendSp.isSome = true := Option.isSome_iff_ne_none.mpr pending
  unfold Fw.spStandby Fw.setStandby
  cases f.spBank <;> simp [some_]

end

/-! ### The procedure (R713, R714) -/

theorem State.fwGo_hub {s : State} (phase : s.fw.phase = 2) {h : Nat} {r : List Nat} (left : s.hubsLeft = h :: r) :
    s.fwGo = { s with fw := { s.fw with yielding := some h } } := by
  unfold State.fwGo
  rw [if_pos phase, left] <;> rfl

theorem State.fwGo_hubsDone {s : State} (phase : s.fw.phase = 2) (left : s.hubsLeft = []) :
    s.fwGo = { s with fw := { s.fw with yielding := none, phase := if s.fw.pendSp.isSome ∧ s.fw.spDone = false then 4 else 5 } } := by
  unfold State.fwGo
  rw [if_pos phase, left]
  dsimp only [State.modFw]
  simp only [Bool.not_eq_true]

/-! ### The security version (R705, R718) -/

/-- The security version that a confirmed image leaves. -/
def topSvn (v : BitVec 32) (x : Option FwImage) : BitVec 32 := match x with | some y => if v < y.svn then y.svn else v | none => v

theorem le_topSvn (v : BitVec 32) (x : Option FwImage) : v ≤ topSvn v x := by
  cases x with
  | none => exact BitVec.le_refl v
  | some y =>
    unfold topSvn
    dsimp only
    split <;> bv_omega

theorem svn_le_topSvn (v : BitVec 32) (y : FwImage) : y.svn ≤ topSvn v (some y) := by
  unfold topSvn
  dsimp only
  split <;> bv_omega

/-- The state that a clean confirmation leaves. -/
def State.fwConfirmed (s : State) : State :=
  s.modFw fun f => { f.ended 1 with svn := topSvn (topSvn f.svn f.pendHc) f.pendSp }

theorem exec_confirmationComplete {s : State} (phase : s.fw.phase = 5) (up : s.fatal = false) :
    exec .confirmationComplete s = .next s.fwConfirmed :=
  congrArg Host.Outcome.next (if_pos ⟨phase, ne_true_of_eq_false up⟩)

/-! ### Images written (R712) -/

/-- The state in which the images of a package stand in the standby banks. -/
def State.fwWritten (s : State) : State :=
  s.modFw fun f => { f with writing := false, phase := 1, stage := none, lastResult := 1, done := 0, spDone := false }.setStandby (fun x => x)

theorem exec_verifyComplete_equal {s : State} (writing : s.fw.writing = true) (up : s.fatal = false) :
    exec (.verifyComplete true) s = .next s.fwWritten := by
  refine congrArg Host.Outcome.next ((if_neg ?_).trans (if_neg (not_not_intro rfl)))
  rintro (idle | fatal)
  · exact idle writing
  · exact ne_true_of_eq_false up fatal

/-- Settles O56: each command in the phase that takes it, and each event of an update. -/
theorem firmwareUpdatesGoOn : Obligations.FirmwareUpdatesGoOn := by
  refine ⟨fun p s untaken x => fwUntaken untaken,
    fun p s takes => ⟨fun early idle may => ?opens, fun refused => ?opensNot⟩,
    fun p b s takes early idle stage => ?verify,
    fun f new => ⟨f.setStandby_hcImage new rfl, f.setStandby_spImage new, f.setStandby_hcStandby new, f.setStandby_spStandby new⟩,
    fun b s => ⟨State.fwVerify_badPackage, fun ok => ⟨State.fwVerify_unsigned_iff ok, ?passes⟩⟩,
    fun p s takes phase idle => ⟨fun siIdle => ?starts, fun siBusy => ?startsNot⟩,
    fun s phase => ⟨fun h r => State.fwGo_hub phase, State.fwGo_hubsDone phase⟩,
    fun p s takes idle => ⟨fun phase => ?abandons, fun phase => ?returns, fun n1 n3 n5 => ?abortsNot⟩,
    fun p hubs sp s takes phase idle noRestart siIdle hhubs hsp units fits => ?rollback,
    fun p s takes refused => congrArg Host.Outcome.next ((if_neg (not_not_intro takes)).trans (if_pos ?rollbackNot)),
    fun equal s writing up => ⟨fun differs => ?differs, fun same => ?same⟩,
    fun h s yielding noRestart phase yielded up => ?restarts,
    fun h r s u restart hub up phase going hu => ?running,
    fun s phase yielding up => congrArg Host.Outcome.next (if_pos ⟨phase, Option.isSome_iff_ne_none.mpr yielding, ne_true_of_eq_false up⟩),
    fun s phase noRestart up => congrArg Host.Outcome.next (if_pos ⟨phase, Option.isNone_iff_eq_none.mpr noRestart, ne_true_of_eq_false up⟩),
    fun r s restart hub up phase => ?spRunning, fun r s restart up => ⟨fun h hub phase => ?hubLate, fun h hub phase => ?hubAgain, fun hub phase => ?spLate⟩,
    fun s phase up => ⟨s.fwConfirmed, exec_confirmationComplete phase up, rfl, rfl, rfl, rfl, rfl, ?svn, ?svnHc, ?svnSp, rfl, rfl, rfl, rfl⟩⟩
  case opens =>
    refine congrArg Host.Outcome.next ((if_neg (not_not_intro takes)).trans (if_neg ?_))
    rintro (late | busy | other)
    · exact BitVec.not_lt.mpr early late
    · exact ne_true_of_eq_false idle busy
    · exact other may
  case opensNot =>
    exact congrArg Host.Outcome.next ((if_neg (not_not_intro takes)).trans (if_pos (refused.imp_right (Or.imp_right ne_true_of_eq_false))))
  case verify =>
    refine congrArg Host.Outcome.next ((if_neg (not_not_intro takes)).trans ((if_neg ?_).trans ?_))
    · rintro (late | busy)
      · exact BitVec.not_lt.mpr early late
      · exact ne_true_of_eq_false idle busy
    · rw [stage]
      dsimp only
      by_cases pass : s.fwVerify b = 0
      · rw [if_pos pass, pass] <;> rfl
      · rw [if_neg pass]
        split
        case h_1 zero => exact absurd zero pass
        case h_2 => rfl
  case passes =>
    by_cases pass : s.fwVerify b = 0
    · exact .inr fun o => State.fwVerify_passed pass
    · exact .inl pass
  case starts =>
    refine congrArg Host.Outcome.next ((if_neg (not_not_intro takes)).trans (if_neg ?_))
    rintro (⟨n1, n3⟩ | busy | siBusy)
    · exact phase.elim n1 n3
    · exact ne_true_of_eq_false idle busy
    · exact siBusy siIdle
  case startsNot =>
    exact congrArg Host.Outcome.next ((if_neg (not_not_intro takes)).trans (if_pos (.inr (.inr siBusy))))
  case abandons =>
    exact congrArg Host.Outcome.next ((if_neg (not_not_intro takes)).trans ((if_neg (ne_true_of_eq_false idle)).trans (if_pos phase)))
  case returns =>
    refine congrArg Host.Outcome.next ((if_neg (not_not_intro takes)).trans ((if_neg (ne_true_of_eq_false idle)).trans
      ((if_neg fun one => ?_).trans (if_pos phase))))
    rw [one] at phase
    exact absurd phase (by decide)
  case abortsNot =>
    exact congrArg Host.Outcome.next ((if_neg (not_not_intro takes)).trans ((if_neg (ne_true_of_eq_false idle)).trans
      ((if_neg n1).trans (if_neg (not_or.mpr ⟨n3, n5⟩)))))
  case rollback =>
    subst hhubs hsp
    refine congrArg Host.Outcome.next ((if_neg (not_not_intro takes)).trans (if_neg ?_))
    rintro (later | busy | restarting | siBusy | ⟨noHub, noSp⟩ | unfit)
    · exact later phase
    · exact ne_true_of_eq_false idle busy
    · rw [noRestart] at restarting
      exact absurd restarting (by decide)
    · exact siBusy siIdle
    · exact units.elim (fun k => k (List.isEmpty_iff.mp noHub)) noSp
    · exact unfit fits
  case rollbackNot =>
    rcases refused with later | siBusy
    · exact .inl later
    · exact .inr (.inr (.inr (.inl siBusy)))
  case differs =>
    rw [differs]
    refine congrArg Host.Outcome.next ((if_neg ?_).trans (if_pos Bool.false_ne_true))
    rintro (done | fatal)
    · exact done writing
    · exact ne_true_of_eq_false up fatal
  case same =>
    rw [same]
    exact ⟨s.fwWritten, exec_verifyComplete_equal writing up, rfl, rfl, rfl, rfl, rfl, rfl, rfl, fun h bank => Fw.setStandby_hcImage _ (fun x => x) bank,
      Fw.setStandby_spImage _ _, fun pending => Fw.setStandby_spStandby _ (fun x => x) pending, fun pending => Fw.setStandby_hcStandby _ (fun x => x) pending⟩
  case restarts =>
    refine congrArg Host.Outcome.next ?_
    rw [yielding]
    refine if_neg ?_
    rintro (restarting | resetting | unyielded | fatal)
    · rw [noRestart] at restarting
      exact absurd restarting (by decide)
    · exact resetting phase
    · exact unyielded yielded
    · exact ne_true_of_eq_false up fatal
  case running =>
    refine congrArg Host.Outcome.next ?_
    rw [restart]
    dsimp only
    rw [hub]
    refine (if_neg ?_).trans ?_
    · rintro (fatal | resetting)
      · exact ne_true_of_eq_false up fatal
      · exact resetting phase
    · subst hu
      exact congrArg State.fwGo (congrArg (fun f => { s.modHub h (fun x => { x with hcRunning := true }) with fw := f }) (if_neg going))
  case spRunning =>
    refine congrArg Host.Outcome.next ?_
    rw [restart]
    refine (if_neg ?_).trans ?_
    · rw [hub]
      rintro (some_ | fatal)
      · cases some_
      · exact ne_true_of_eq_false up fatal
    · refine (congrArg State.fwGo (congrArg (fun f => { s with fw := f }) (if_pos phase))).trans ?_
      exact (if_neg (show ¬(5#3 = 2#3) by decide)).trans (if_neg (show ¬(5#3 = 6#3) by decide))
  case hubLate =>
    refine congrArg Host.Outcome.next ?_
    rw [restart]
    refine (if_neg (ne_true_of_eq_false up)).trans ?_
    rw [hub]
    exact if_pos phase
  case hubAgain =>
    refine congrArg Host.Outcome.next ?_
    rw [restart]
    refine (if_neg (ne_true_of_eq_false up)).trans ?_
    rw [hub]
    exact if_neg phase
  case spLate =>
    refine congrArg Host.Outcome.next ?_
    rw [restart]
    refine (if_neg (ne_true_of_eq_false up)).trans ?_
    rw [hub]
    exact congrArg (fun f => { s with fw := f }) (if_pos phase)
  case svn => exact BitVec.le_trans (le_topSvn _ _) (le_topSvn _ _)
  case svnHc =>
    intro x pending
    change x.svn ≤ topSvn (topSvn s.fw.svn s.fw.pendHc) s.fw.pendSp
    rw [pending]
    exact BitVec.le_trans (svn_le_topSvn _ x) (le_topSvn _ _)
  case svnSp =>
    intro x pending
    change x.svn ≤ topSvn (topSvn s.fw.svn s.fw.pendHc) s.fw.pendSp
    rw [pending]
    exact svn_le_topSvn _ x

end Sys2Proof.Machine
end

section
/-! The trigger, records sent out and the resets of counters (R752, R756–R763, R767–R773). -/
namespace Sys2Proof.Machine
open Sys2Proof

/-! ### What records leave armed (R752–R761) -/

theorem exportFill_armed (n : Nat) (t : Trigger) (l : List TraceRec) : (exportFill n t l).1.armed = t.armed := by
  induction l generalizing t with
  | nil => rfl
  | cons r rs ih =>
    unfold exportFill
    split
    · rfl
    · exact ih _

theorem State.exportDrain_armed (s : State) (h : Nat) : (s.exportDrain h).trig.armed = s.trig.armed := by
  unfold State.exportDrain
  split
  · exact exportFill_armed ..
  · rfl

theorem State.storeRec_trig (s : State) (h : Nat) (u : TUnit) (r : TraceRec) : (s.storeRec h u r).trig = s.trig := by
  unfold State.storeRec
  dsimp only
  split_ifs <;> rfl

theorem State.exportPush_armed (s : State) (h : Nat) (r : TraceRec) : (s.exportPush h r).trig.armed = s.trig.armed := by
  by_cases off : s.exportMode = 0
  · exact congrArg (fun u : State => u.trig.armed) (if_pos off)
  · exact (congrArg (fun u : State => u.trig.armed) (if_neg off)).trans (State.exportDrain_armed ..)

theorem State.putWait_armed (s : State) (h : Nat) (u : TUnit) (w : OpenWait) (o : Bool) (b : BitVec 16) :
    (s.putWait h u w o b).trig.armed = s.trig.armed := by
  by_cases recorded : s.traceEn ∧ ¬s.fatal ∧ (s.traceHubs.getD h {}).minWaitNs.toNat ≤ s.clk.now - w.start
  · refine (congrArg (fun u : State => u.trig.armed) (if_pos recorded)).trans ?_
    rw [State.exportPush_armed, State.storeRec_trig]
  · exact congrArg (fun u : State => u.trig.armed) (if_neg recorded)

/-- Closing the post-trigger windows leaves the trigger armed as it was. -/
theorem State.closePost_armed (s : State) : s.closePost.trig.armed = s.trig.armed := by
  have waits (h : Nat) (u : TUnit) (l : List OpenWait) (v : State) :
      (l.foldl (fun s w => s.putWait h u w true w.by_) v).trig.armed = v.trig.armed := by
    induction l generalizing v with
    | nil => rfl
    | cons w l ih => rw [List.foldl_cons, ih, State.putWait_armed]
  have units (l : SMap TraceUnit) (v : State) : (l.foldl (fun s e =>
      if s.storeFull (e.1 / 64) (unitOf e.1) then s
      else e.2.waits.foldl (fun s w => s.putWait (e.1 / 64) (unitOf e.1) w true w.by_) s) v).trig.armed = v.trig.armed := by
    induction l generalizing v with
    | nil => rfl
    | cons e l ih =>
      rw [List.foldl_cons, ih]
      split
      · rfl
      · exact waits ..
  exact units s.traceUnits s

/-! ### The records sent (R760) -/

/-- Lost records leave each hub's queue and add to its count of losses. -/
theorem State.loseRecords_hub (s : State) (h : Nat) : (s.loseRecords.traceHubs.getD h {}).queue = [] ∧
    (s.loseRecords.traceHubs.getD h {}).lost = (s.traceHubs.getD h {}).lost + (s.traceHubs.getD h {}).queue.length := by
  unfold State.loseRecords SMap.getD
  rw [SMap.get?_mapVals]
  cases s.traceHubs.get? h with
  | none => exact ⟨rfl, rfl⟩
  | some q =>
    dsimp only [Option.map_some, Option.getD_some]
    split
    case h_1 empty => simp [empty]
    case h_2 full => simp [full]

theorem State.takeRecords_length_le (s : State) (n : Nat) (l : List Nat) : (s.takeRecords n l).1.length ≤ n := by
  induction l generalizing s n with
  | nil => exact Nat.zero_le n
  | cons h r ih =>
    unfold State.takeRecords
    dsimp only
    rw [List.length_append]
    refine le_trans (Nat.add_le_add_left (ih _ _) _) ?_
    rw [List.length_take]
    omega

/-- A message of the part's own has the next number of its session's sequence. -/
theorem State.kmpOwn_session {s : State} {k : Nat} {x : KmpSession} (open_ : s.session k = some x) (type : BitVec 8) (keep : Bool) (what : KmpSays) :
    ∃ y, (s.kmpOwn k type keep what).session k = some y ∧ y.eventSeq = x.eventSeq + 1 := by
  have formed (a : Option (Nat × Nat)) (b : BitVec 32) (c : BitVec 32) : (s.kmpForm a b type c what).2.kmp = s.kmp :=
    (State.kmpForm_does .self _ _ _ _ _ (.refl s)).same .kmp rfl
  have open1 : s.kmp.get? k = some x := open_
  unfold State.kmpOwn
  rw [open_]
  dsimp only
  unfold State.session
  rw [(State.sendFrame_does .self _ _ _ (.refl _)).same .kmp rfl]
  unfold State.modSession
  rw [formed, open1]
  exact ⟨_, SMap.get?_set_self .., rfl⟩

/-! ### Counters (R763, R773) -/

theorem State.resetGroups_clk (s : State) (h : Nat) (l : List Nat) : (l.foldl (fun u b => u.resetGroup h b) s).clk = s.clk := by
  induction l generalizing s with
  | nil => rfl
  | cons b l ih => rw [List.foldl_cons, ih] <;> rfl

theorem State.counterReset_all (s : State) (h b : Nat) : s.counterReset h b true =
    (counterBlocks.foldl (fun u x => u.resetGroup h x) s).modPwr h (fun x => { x with snowMark := s.clk.now }) := by
  unfold State.counterReset
  simp only [if_true, true_or, State.resetGroups_clk]

/-- Settles O57: the commands of the trigger, of the records sent out and of the counters. -/
theorem traceCommandsComplete : Obligations.TraceCommandsComplete := by
  refine ⟨fun p s may => ⟨congrArg Host.Outcome.next (if_pos may), congrArg Host.Outcome.next (if_pos may)⟩,
    fun p s mayNot => ⟨congrArg Host.Outcome.next (if_neg (ne_true_of_eq_false mayNot)), congrArg Host.Outcome.next (if_neg (ne_true_of_eq_false mayNot))⟩,
    fun k x s may open_ => congrArg Host.Outcome.next ((if_pos may).trans (if_pos (Option.isSome_of_mem open_))),
    fun s post => ⟨s.closePost, congrArg Host.Outcome.next (if_pos post), rfl, rfl, s.closePost_armed,
      (State.closePost_does .self (.refl s)).same .mem rfl, (State.closePost_does .self (.refl s)).same .counters rfl⟩,
    fun s export_ noTarget => ⟨s.loseRecords, congrArg Host.Outcome.next ?lost, s.loseRecords_hub, rfl⟩,
    fun k x l s u export_ target open_ up due taken some_ => ?sent,
    fun p tail s may here => congrArg Host.Outcome.next (if_pos ⟨may, here⟩),
    fun p h b s may => ⟨?all, fun counts other => ?one, fun none_ other => ?none⟩⟩
  case lost =>
    rw [if_neg (not_not_intro export_), noTarget]
  case sent =>
    have kept : Does 0x40 s u := by
      have := State.takeRecords_does .self 43 (List.range 8) (.refl s)
      rwa [taken] at this
    have sent : exec .traceSend s = .next (({ u with trig := { u.trig with lastTraceAt := some s.clk.now } } : State).kmpOwn k 9 false
        (.trace s.clk.poolTime l)) := by
      refine congrArg Host.Outcome.next ?_
      rw [if_neg (not_not_intro export_), target]
      dsimp only
      rw [open_]
      refine (if_neg ?_).trans ?_
      · rw [up, Bool.false_or]
        cases last : s.trig.lastTraceAt with
        | none => exact Bool.false_ne_true
        | some t => exact fun early => absurd (of_decide_eq_true early) (not_lt.mpr (due t last))
      · rw [taken]
        dsimp only
        rw [if_neg fun empty => some_ (List.isEmpty_iff.mp empty)]
        exact congrArg (fun c : Clocks => ({ u with trig := { u.trig with lastTraceAt := some c.now } } : State).kmpOwn k 9 false
          (.trace c.poolTime l)) (kept.same .clk rfl)
    have own (w : State) := State.kmpOwn_does .self k 9 false (.trace s.clk.poolTime l) (.refl w)
    refine ⟨_, sent, rfl, ?_, ?_, ?_, ?_, ?_⟩
    · have := s.takeRecords_length_le 43 (List.range 8)
      rwa [taken] at this
    · rw [(own _).same .trig rfl]
    · exact (own _).same .traceHubs rfl
    · exact ((own _).same .clk rfl).trans (kept.same .clk rfl)
    · refine State.kmpOwn_session ?_ _ _ _
      exact (congrArg (SMap.get? · k) (kept.same .kmp rfl)).trans open_
  case all =>
    exact congrArg Host.Outcome.next ((if_pos may).trans (s.counterReset_all h b.toNat))
  case one =>
    refine congrArg Host.Outcome.next ((if_pos may).trans ((if_neg ?_).trans (if_pos counts)))
    rintro (all | snow)
    · cases all
    · exact other snow
  case none =>
    refine congrArg Host.Outcome.next ((if_pos may).trans ((if_neg ?_).trans (if_neg (ne_true_of_eq_false none_))))
    rintro (all | snow)
    · cases all
    · exact other snow

end Sys2Proof.Machine
end

section
/-! Writes of registers over every path (R332, R679, R730, R731, R737, R740, R744, R749, R750). -/
namespace Sys2Proof.Machine
open Sys2Proof

/-! ### A write within the limits of a tenant session (R679, R730) -/

theorem State.pathWrite_within {s : State} {p : Path} {a : Word}
    (within : s.isTenant p = false ∨ tenantWrites (addrHub a) (addrBlock a) (addrOff a) = true) (v : Word) (e : WriteEnv) :
    s.pathWrite p a v e = (s.csrWrite p a v e).2 := by
  refine if_neg ?_
  rintro ⟨tenant, beyond⟩
  rcases within with other | inside
  · exact ne_true_of_eq_false other tenant
  · exact beyond inside

theorem State.pathWrite_beyond {s : State} {p : Path} {a : Word} (tenant : s.isTenant p = true)
    (beyond : tenantWrites (addrHub a) (addrBlock a) (addrOff a) = false) (v : Word) (e : WriteEnv) : s.pathWrite p a v e = s :=
  if_pos ⟨tenant, ne_true_of_eq_false beyond⟩

/-! ### The first check that fails (R737) -/

section
variable {s : State} {p : Path} {a : Word} (legal : illegalAddr a = false)
include legal

theorem State.csrWrite_noRight (noRight : s.mayWrite p (addrHub a) (addrBlock a) (addrOff a) = false) (v : Word) (e : WriteEnv) :
    s.csrWrite p a v e = (3, s) :=
  (if_neg (ne_true_of_eq_false legal)).trans (if_pos (ne_true_of_eq_false noRight))

variable (right : s.mayWrite p (addrHub a) (addrBlock a) (addrOff a) = true)
include right

theorem State.csrWrite_unreached (unreached : s.writes p (addrHub a) (addrBlock a) (addrOff a) = false) (v : Word) (e : WriteEnv) :
    s.csrWrite p a v e = (1, s) :=
  (if_neg (ne_true_of_eq_false legal)).trans ((if_neg (not_not_intro right)).trans (if_pos (.inl (ne_true_of_eq_false unreached))))

theorem State.csrWrite_inReset (reached : s.writes p (addrHub a) (addrBlock a) (addrOff a) = true)
    (here : s.blockHere (addrHub a) (addrBlock a) = true) (resetting : (s.hub (addrHub a)).phase ≠ .none) (other : addrBlock a ≠ 1)
    (v : Word) (e : WriteEnv) : s.csrWrite p a v e = (4, s) := by
  refine (if_neg (ne_true_of_eq_false legal)).trans ((if_neg (not_not_intro right)).trans ((if_neg ?_).trans (if_pos ⟨resetting, other⟩)))
  rintro (unreached | absent)
  · exact unreached reached
  · exact absent here

end

/-! ### The results of pairs (R332) -/

theorem PairsDone.length_eq {p : Path} {e : WriteEnv} {s u : State} {ps : List (Word × Word)} {rs : List (BitVec 8)}
    (done : PairsDone p e s ps rs u) : rs.length = ps.length := by
  induction done with
  | done => rfl
  | refused => rw [List.length_cons, List.length_cons, List.length_replicate]
  | performed s u t a w r l rs _ _ _ ih => rw [List.length_cons, List.length_cons, ih]

/-- The pairs after one that is refused are not performed. -/
theorem PairsDone.after_refused {p : Path} {e : WriteEnv} {s u : State} {ps : List (Word × Word)} {rs : List (BitVec 8)}
    (done : PairsDone p e s ps rs u) {i k : Nat} {r : BitVec 8} (at_ : rs[i]? = some r) (bad : refusedPair r = true) (after : i < k)
    (within : k < ps.length) : rs[k]? = some 7 := by
  induction done generalizing i k with
  | done => exact absurd within (Nat.not_lt_zero k)
  | refused s u a w r l _ _ =>
    obtain ⟨k, rfl⟩ : ∃ j, k = j + 1 := ⟨k - 1, by omega⟩
    rw [List.getElem?_cons_succ, List.getElem?_replicate, if_pos (Nat.lt_of_succ_lt_succ within)]
  | performed s u t a w first l rs _ good _ ih =>
    obtain ⟨k, rfl⟩ : ∃ j, k = j + 1 := ⟨k - 1, by omega⟩
    cases i with
    | zero =>
      obtain rfl : first = r := Option.some.inj at_
      exact absurd bad (ne_true_of_eq_false good)
    | succ i => exact ih at_ (Nat.lt_of_succ_lt_succ after) (Nat.lt_of_succ_lt_succ within)

/-! ### REG_READ (R678, R679, R736) -/

/-- The range of a read is one that `REG_READ` takes. -/
theorem regRead_inRange {a : Word} {n : Byte} (legal : illegalAddr a = false) (some_ : 1 ≤ n.toNat) (few : n.toNat ≤ 64)
    (within : addrOff a + 4 * n.toNat ≤ 2 ^ 18) :
    ¬(illegalAddr a = true ∨ n.toNat = 0 ∨ 64 < n.toNat ∨ 2 ^ 18 < addrOff a + 4 * n.toNat) := by
  rintro (illegal | zero | many | beyond)
  · exact ne_true_of_eq_false legal illegal
  · omega
  · omega
  · omega

section
variable {hdr : KmpHdr} {k : Fin 32} {x : KmpSession} {a : Word} {n : Byte} {s v u : State} {l : List Word} (served : KmpServed s hdr k x v)
include served

theorem exec_regRead_outOfRange (bad : illegalAddr a = true ∨ n = 0 ∨ 64 < n.toNat ∨ 2 ^ 18 < addrOff a + 4 * n.toNat) :
    exec (.regRead hdr a n) s = .next (v.replied k x hdr 3 { status := 6 }) :=
  congrArg Host.Outcome.next (served.replied_eq 3 true _ (if_pos (bad.imp_right (Or.imp_left (congrArg BitVec.toNat)))))

variable (legal : illegalAddr a = false) (some_ : 1 ≤ n.toNat) (few : n.toNat ≤ 64) (within : addrOff a + 4 * n.toNat ≤ 2 ^ 18)
include legal some_ few within

theorem exec_regRead_operator (right : (v.pathUsage (.kmp k)).getLsbD 0 = true) (read : v.readRun (.kmp k) a n.toNat = (l, u)) :
    exec (.regRead hdr a n) s = .next (u.replied k x hdr 3 { status := 0, body := .values l }) := by
  refine congrArg Host.Outcome.next (served.replied_eq 3 true _ ?_)
  dsimp only
  rw [Fin.ofNat_val_eq_self, if_neg (regRead_inRange legal some_ few within), if_pos (.inl right), read]

theorem exec_regRead_noRight (noRight : (v.pathUsage (.kmp k)).getLsbD 0 = false) (other : v.isTenant (.kmp k) = false) :
    exec (.regRead hdr a n) s = .next (v.replied k x hdr 3 { status := 3 }) := by
  refine congrArg Host.Outcome.next (served.replied_eq 3 true _ ?_)
  dsimp only
  rw [Fin.ofNat_val_eq_self, if_neg (regRead_inRange legal some_ few within), if_neg]
  rintro (right | ⟨tenant, _⟩)
  · exact ne_true_of_eq_false noRight right
  · exact ne_true_of_eq_false other tenant

end

theorem exec_regWrite_badLength {hdr : KmpHdr} {k : Nat} {x : KmpSession} {ps : List (Word × Word)} {s v : State} (served : KmpServed s hdr k x v)
    (bad : ps = [] ∨ 128 < ps.length) (e : WriteEnv) : exec (.regWrite hdr ps e) s = .next (v.replied k x hdr 4 { status := 4 }) :=
  congrArg Host.Outcome.next (served.replied_eq 4 s.fatal _ (if_pos (bad.imp_left List.isEmpty_iff.mpr)))

/-- Settles O58: a write by the first check that fails, and the requests that read and write registers. -/
theorem registerWritesAreResolved : Obligations.RegisterWritesAreResolved := by
  refine ⟨fun p a v e s => ⟨fun within => congrArg Host.Outcome.next (State.pathWrite_within within v e),
      fun tenant beyond => congrArg Host.Outcome.next (State.pathWrite_beyond tenant beyond v e)⟩,
    fun p a v e s => ⟨fun illegal => State.csrWrite_illegal illegal s p v e, fun legal noRight => State.csrWrite_noRight legal noRight v e,
      fun legal right reached here resetting other => State.csrWrite_inReset legal right reached here resetting other v e,
      fun legal right unreached => State.csrWrite_unreached legal right unreached v e⟩,
    fun p port v s other => congrArg Host.Outcome.next (State.pathWrite_within (.inl other) v {}),
    fun p h b id i s within => ⟨congrArg Host.Outcome.next (State.pathWrite_within within _ {}),
      congrArg Host.Outcome.next (State.pathWrite_within within _ {})⟩,
    fun hdr k x a n s v u l served => ⟨exec_regRead_outOfRange served, exec_regRead_operator served, exec_regRead_noRight served⟩,
    fun hdr k x ps e s v u rs served => ⟨fun bad => exec_regWrite_badLength served bad e, fun some_ few other written => ?pairs⟩,
    fun p e ps s u rs written => ?results⟩
  case pairs =>
    have performed := exec_regWrite_served (e := e) served some_ few (.inl other)
    rwa [written] at performed
  case results =>
    have done := s.writePairs_pairsDone p e ps
    rw [written] at done
    exact ⟨done.length_eq, fun i r at_ bad k => done.after_refused at_ bad⟩

end Sys2Proof.Machine
end

section
/-! Mailbox requests, the I3C target, the JTAG port and the status pins (R742–R747, R750, R778, R779, R787, R788). -/
namespace Sys2Proof.Machine
open Sys2Proof

/-! ### Mailbox requests (R742–R747, R750) -/

/-- The words that a mailbox keeps, without the zero ones, read back as written. -/
theorem getD_keptWords (l : List Word) (n k : Nat) :
    SMap.getD (((l.zipIdx n).filter (fun e => e.1 != 0)).map (fun e => (e.2, e.1))) k 0 = if n ≤ k then l.getD (k - n) 0 else 0 := by
  induction l generalizing n with
  | nil => split <;> rfl
  | cons w l ih =>
    have later : n + 1 ≤ k → k - n = (k - (n + 1)) + 1 := by omega
    rw [List.zipIdx_cons]
    by_cases zero : w = 0
    · rw [List.filter_cons_of_neg (by simp [zero]), ih]
      rcases Nat.lt_trichotomy k n with before | rfl | after
      · rw [if_neg (by omega), if_neg (by omega)]
      · rw [if_neg (by omega), if_pos (le_refl _), Nat.sub_self, List.getD_cons_zero, zero]
      · rw [if_pos (by omega), if_pos (by omega), later after, List.getD_cons_succ]
    · have kept : (w != 0) = true := bne_iff_ne.mpr zero
      rw [List.filter_cons_of_pos (by exact kept), List.map_cons, SMap.getD, SMap.get?_cons]
      rcases Nat.lt_trichotomy k n with before | rfl | after
      · rw [if_neg (by omega), if_neg (by omega)]
        exact (ih (n + 1)).trans (if_neg (by omega))
      · rw [if_pos rfl, if_pos (le_refl _), Nat.sub_self, List.getD_cons_zero] <;> rfl
      · rw [if_neg (by omega), if_pos (by omega), later after, List.getD_cons_succ]
        exact (ih (n + 1)).trans (if_pos (by omega))

theorem Mbx.holds_data (x : Mbx) (l : List Word) (i : Nat) : (x.holds l).data.getD i 0 = l.getD i 0 :=
  (getD_keptWords l 0 i).trans (if_pos (Nat.zero_le i))

section
variable {p : Path} {h : Fin 8} {b : Byte} {x : Mbx} {s : State} (at_ : s.mbxAt p h.val b.toNat = x) (runs : s.running = true)
include at_

theorem exec_mbxComplete_idle (idle : x.busy = false) : exec (.mbxComplete p h b) s = .next s := by
  subst at_
  exact congrArg Host.Outcome.next (if_pos (.inl (ne_true_of_eq_false idle)))

variable (busy : x.busy = true)
include runs busy

theorem exec_mbxComplete_spDown (down : s.spDown = true) (held : spHeld b.toNat x.idEcho.toNat = true) :
    exec (.mbxComplete p h b) s = .next (s.modMbx p h b.toNat (fun y => y.fails 5)) := by
  subst at_
  refine congrArg Host.Outcome.next ((if_neg ?_).trans (if_pos ⟨down, held⟩))
  rintro (idle | stopped)
  · exact idle busy
  · exact stopped runs

variable (up : s.spDown = false)
include up

theorem exec_mbxComplete_jtag (path : p = .jtag) (security : b = 0x1E ∨ b = 0x1F) :
    exec (.mbxComplete p h b) s = .next (s.modMbx p h b.toNat (fun y => y.fails 2)) := by
  subst at_
  refine congrArg Host.Outcome.next ((if_neg ?_).trans ((if_neg fun k => ne_true_of_eq_false up k.1).trans (if_pos ⟨path, ?_⟩)))
  · rintro (idle | stopped)
    · exact idle busy
    · exact stopped runs
  · exact security.imp (congrArg BitVec.toNat) (congrArg BitVec.toNat)

variable (other : p ≠ .jtag)
include other

theorem exec_mbxComplete_tenantWrite (writing : x.writing = true) (tenant : x.tenant = true) :
    exec (.mbxComplete p h b) s = .next (s.modMbx p h b.toNat (fun y => y.fails 2)) := by
  subst at_
  refine congrArg Host.Outcome.next ((if_neg ?_).trans ((if_neg fun k => ne_true_of_eq_false up k.1).trans
    ((if_neg fun k => other k.1).trans (if_pos ⟨writing, tenant⟩))))
  rintro (idle | stopped)
  · exact idle busy
  · exact stopped runs

/-- A write of a path that may write is applied. -/
theorem exec_mbxComplete_applied (writing : x.writing = true) (operator : x.tenant = false) :
    exec (.mbxComplete p h b) s = .next (s.mbxApply p h b.toNat x) := by
  subst at_
  refine congrArg Host.Outcome.next ((if_neg ?_).trans ((if_neg fun k => ne_true_of_eq_false up k.1).trans
    ((if_neg fun k => other k.1).trans ((if_neg fun k => ne_true_of_eq_false operator k.2).trans (if_pos writing)))))
  rintro (idle | stopped)
  · exact idle busy
  · exact stopped runs

/-- A read captures its value. -/
theorem exec_mbxComplete_captured (reading : x.writing = false) :
    exec (.mbxComplete p h b) s = .next (s.mbxCapture p h b.toNat x) := by
  subst at_
  refine congrArg Host.Outcome.next ((if_neg ?_).trans ((if_neg fun k => ne_true_of_eq_false up k.1).trans
    ((if_neg fun k => other k.1).trans ((if_neg fun k => ne_true_of_eq_false reading k.1).trans (if_neg (ne_true_of_eq_false reading))))))
  rintro (idle | stopped)
  · exact idle busy
  · exact stopped runs

end

section
variable {s : State} {p : Path} {h b : Nat} {x : Mbx}

theorem State.mbxApply_alarm {v : BitVec 48} (clock : b = 0x0F) (hub : h = 0) (id : x.idEcho = 1) (index : x.index = 0) (alarm : x.alarm = some v) :
    s.mbxApply p h b x =
      ({ s with clk := { s.clk with alarmPending := some v } } : State).modMbx p h b (fun y => y.holds (twoWords v.toNat)) := by
  refine (if_pos ⟨clock, hub, id, index⟩).trans ?_
  rw [alarm]

theorem State.mbxCapture_words {l : List Word} (wide : x.idEcho.toNat < 0x80)
    (value : s.wideValue h b x.idEcho.toNat x.index.toNat x.sel = .words l) :
    s.mbxCapture p h b x = s.modMbx p h b (fun y => y.holds l) := by
  refine (if_neg (not_le.mpr wide)).trans ?_
  rw [value]

theorem State.mbxCapture_err {c : BitVec 3} (wide : x.idEcho.toNat < 0x80)
    (value : s.wideValue h b x.idEcho.toNat x.index.toNat x.sel = .err c) :
    s.mbxCapture p h b x = s.modMbx p h b (fun y => y.fails c) := by
  refine (if_neg (not_le.mpr wide)).trans ?_
  rw [value]

theorem State.mbxCapture_counter {key : Nat} {l : List Word} {u : State} (counter : 0x80 ≤ x.idEcho.toNat)
    (named : counterOf h b x.idEcho.toNat x.index.toNat x.sel = some key) (words : s.counterWords p x.tenant key = (l, u)) :
    s.mbxCapture p h b x = u.modMbx p h b (fun y => y.holds l) := by
  refine (if_pos counter).trans ?_
  rw [named]
  dsimp only
  rw [words]

end

/-! ### The sidebands (R778, R779, R787, R788) -/

/-- The reads and writes of the I3C target take their words from the transfer. -/
theorem wordOf_eq {l : List Byte} (whole : l.length = 4) : wordOf l = BitVec.ofNat 32 (leNat l) := by
  unfold wordOf
  rw [List.take_of_length_le (le_of_eq whole)]

theorem State.modJtag_off {s : State} (off : s.jtagOn = false) (f : Jtag → Jtag) : s.modJtag f = s :=
  if_neg (ne_true_of_eq_false off)

theorem exec_csrRead_pending {s : State} (on : s.jtagOn = true) :
    exec (.csrRead false) s = .next { s with
      freeCtr := s.freeCtr + 1
      jtag := { s.jtag with ir := 0x22, dr := BitVec.ofNat 33 (Config.free .choice s.freeCtr % 2 ^ 32), driving := false } } :=
  congrArg Host.Outcome.next ((if_neg (not_not_intro on)).trans ((if_neg Bool.false_ne_true).trans (if_pos on)))

theorem exec_jtag_off {v : Word} {e : WriteEnv} {code : Byte} {s : State} (off : s.jtagOn = false) {x : Instr}
    (mem : x ∈ ([.idcode, .csrAddr v, .csrWrite v e, .csrRead true, .bypass code, .jtagReset] : List Instr)) : exec x s = .next s := by
  fin_cases mem
  · exact congrArg Host.Outcome.next (State.modJtag_off off _)
  · exact congrArg Host.Outcome.next (State.modJtag_off off _)
  · exact congrArg Host.Outcome.next (if_neg (ne_true_of_eq_false off))
  · exact congrArg Host.Outcome.next (if_pos (ne_true_of_eq_false off))
  · exact congrArg Host.Outcome.next (State.modJtag_off off _)
  · exact congrArg Host.Outcome.next (State.modJtag_off off _)

theorem State.pinsFloat_iff (s : State) : s.pinsFloat = true ↔
    s.sys.phase = .unpowered ∨ s.sys.phase = .inReset ∨ (s.sys.phase = .halted ∧ s.sys.step = 1) := by
  unfold State.pinsFloat
  cases s.sys.phase <;> simp

theorem State.pinLevel_floating {s : State} (floats : s.pinsFloat = true) (q : StatusPin) : s.pinLevel q = none := if_pos floats

theorem State.pinLevel_asleep {s : State} (asleep : s.sys.phase = .sleeping) (q : StatusPin) : s.pinLevel q = some (q != .ready) := by
  refine (if_neg ?_).trans (if_pos asleep)
  rw [State.pinsFloat_iff, asleep]
  simp

/-- A part that runs and has left step 1 of start-up shows its state. -/
theorem State.pins_shown {s : State} (runs : s.running = true) (apart : s.sys.phase ≠ .halted ∨ s.sys.step ≠ 1) :
    ¬s.pinsFloat = true ∧ s.sys.phase ≠ .sleeping := by
  rw [State.pinsFloat_iff]
  unfold State.running at runs
  constructor
  · rintro (unpowered | inReset | ⟨halted, first⟩)
    · simp [unpowered] at runs
    · simp [inReset] at runs
    · exact apart.elim (fun k => k halted) (fun k => k first)
  · intro asleep
    simp [asleep] at runs

theorem getLsbD_ofNat_mod (n : Nat) : (BitVec.ofNat 33 (n % 2 ^ 32)).getLsbD 32 = false := by
  rw [BitVec.getLsbD_ofNat, Nat.testBit_mod_two_pow] <;> rfl

theorem partNumber_lt (x : Variant) : partNumber x < 2 ^ 16 := by
  cases x <;> decide

theorem packWord_four (i j k l a b c d : Nat) :
    packWord [(i, a), (j, b), (k, c), (l, d)] = BitVec.ofNat 32 (0 + a * 2 ^ i + b * 2 ^ j + c * 2 ^ k + d * 2 ^ l) := rfl

theorem State.idcode_toNat (s : State) : s.idcode.toNat =
    1 + Config.jedecId.toNat * 2 ^ 1 + partNumber s.fuses.variant * 2 ^ 12 + s.fuses.stepping.toNat % 16 * 2 ^ 28 := by
  have maker := Config.jedecId.isLt
  have part := partNumber_lt s.fuses.variant
  have stepping := Nat.mod_lt s.fuses.stepping.toNat (show 16 > 0 by decide)
  rw [State.idcode, packWord_four, BitVec.toNat_ofNat, Nat.mod_eq_of_lt (by omega)]
  omega

/-- Settles O60: mailbox requests by the first reason that ends them, and the sidebands by whether they work. -/
theorem mailboxesAndSidebandsAnswer : Obligations.MailboxesAndSidebandsAnswer := by
  refine ⟨fun p h b x s at_ runs => ⟨exec_mbxComplete_idle at_, exec_mbxComplete_spDown at_ runs, exec_mbxComplete_jtag at_ runs,
      exec_mbxComplete_tenantWrite at_ runs, ?alarm, ?words, ?fails, ?counter, ?holds⟩,
    fun a s on => ⟨fun free => ?address, fun taken => ?addressed⟩, fun b e s on addressed => ⟨fun four => ?i3cRead, fun eight => ?i3cWrite⟩,
    fun pins levels a v code e s on => ?jtag, fun v e code s off x => exec_jtag_off off,
    fun q s => ⟨fun floats => State.pinLevel_floating (s.pinsFloat_iff.mpr floats) q, fun asleep => State.pinLevel_asleep asleep q, ?shown⟩,
    fun s => ?idcode⟩
  case alarm =>
    intro v busy up other writing operator clock hub id index alarm
    rw [exec_mbxComplete_applied at_ runs busy up other writing operator,
      State.mbxApply_alarm (congrArg BitVec.toNat clock) (congrArg Fin.val hub) id index alarm]
  case words =>
    intro l busy up other reading wide value
    rw [exec_mbxComplete_captured at_ runs busy up other reading, State.mbxCapture_words wide value]
  case fails =>
    intro c busy up other reading wide value
    rw [exec_mbxComplete_captured at_ runs busy up other reading, State.mbxCapture_err wide value]
  case counter =>
    intro key l u busy up other reading counter named words
    rw [exec_mbxComplete_captured at_ runs busy up other reading, State.mbxCapture_counter counter named words]
  case holds =>
    refine fun y l => ⟨rfl, rfl, rfl, fun short => ⟨?_, fun i _ => y.holds_data l i⟩⟩
    exact Nat.mod_eq_of_lt short
  case address =>
    exact congrArg Host.Outcome.next (if_pos ⟨on, Option.isNone_iff_eq_none.mpr free⟩)
  case addressed =>
    exact congrArg Host.Outcome.next (if_neg fun k => taken (Option.isNone_iff_eq_none.mp k.2))
  case i3cRead =>
    rw [← wordOf_eq four]
    exact congrArg Host.Outcome.next (if_pos ⟨on, Option.isSome_iff_ne_none.mpr addressed, four⟩)
  case i3cWrite =>
    rw [← wordOf_eq (l := b.drop 4) (by rw [List.length_drop, eight])]
    exact congrArg Host.Outcome.next (if_pos ⟨on, Option.isSome_iff_ne_none.mpr addressed, eight⟩)
  case jtag =>
    refine ⟨?_, ?_, fun low => ?_, fun high => ?_, ?_, exec_csrWrite_on on v e, exec_csrRead_completed on, ⟨_, getLsbD_ofNat_mod _, exec_csrRead_pending on⟩, ?_, ?_⟩
    · exact congrArg Host.Outcome.next (State.modJtag_on on _)
    · exact congrArg Host.Outcome.next (State.modJtag_on on _)
    · exact congrArg Host.Outcome.next ((State.modJtag_on on _).trans (congrArg (fun j => { s with jtag := j }) (if_pos low)))
    · exact congrArg Host.Outcome.next ((State.modJtag_on on _).trans (congrArg (fun j => { s with jtag := j }) (if_neg (ne_true_of_eq_false high))))
    · exact congrArg Host.Outcome.next (State.modJtag_on on _)
    · exact congrArg Host.Outcome.next (State.modJtag_on on _)
    · exact congrArg Host.Outcome.next (State.modJtag_on on _)
  case shown =>
    intro runs apart
    obtain ⟨driven, awake⟩ := State.pins_shown runs apart
    exact ⟨(if_neg driven).trans (if_neg awake), (if_neg driven).trans (if_neg awake), (if_neg driven).trans (if_neg awake),
      (if_neg driven).trans (if_neg awake)⟩
  case idcode =>
    have maker := Config.jedecId.isLt
    have part := partNumber_lt s.fuses.variant
    refine ⟨?_, ?_, ?_, ?_⟩
    · rw [BitVec.getLsbD, Nat.testBit_zero, State.idcode_toNat]
      exact decide_eq_true (by omega)
    · rw [State.idcode_toNat]
      omega
    · rw [State.idcode_toNat]
      omega
    · rw [State.idcode_toNat]
      omega

end Sys2Proof.Machine
end
